-- ==== Sys2Proof/Word.lean ====
section
/-! DEFINITION. The word and byte types of the HX640-M and the index types of its units.
Every register is 32 bits wide (00_scope.md R9) and the device is little-endian (R6). -/

namespace Sys2Proof

/-- A 32-bit register or memory word (R9). -/
abbrev Word := BitVec 32

/-- One byte. -/
abbrev Byte := BitVec 8

/-- A core number, 16 x fold + core-in-fold (01_device_overview.md R23). -/
abbrev CoreId := Fin 256

/-- A PCI Express function: 0 physical, 1 to 63 virtual (13_host_sessions.md R344). -/
abbrev FuncId := Fin 64

/-- A Ralso port: X+, X-, Y+, Y-, Z+, Z- (12_ralso_fabric.md R311). -/
abbrev PortId := Fin 6

/-- A Paddock bank (11_paddock.md R281). -/
abbrev BankId := Fin 64

/-- A stream channel of a core (07_streams.md). -/
abbrev ChanId := Fin 8

/-- A switched power domain (14_power_clocks.md Table 14-3). -/
abbrev DomId := Fin 28

/-- A command queue (13_host_sessions.md). -/
abbrev QueueId := Fin 1024

end Sys2Proof
end

