-- ==== Sys2Proof/Config.lean ====
section
/-! DEFINITION. What the spec leaves open, as constants without a body: nothing in Lean can
evaluate them, so a statement holds for every value of them. Each is named in the assumption log. -/

namespace Sys2Proof.Config

/-- The module's random source for session nonces (13_host_sessions.md R354): word `k` (0 to 3) of the
nonce drawn at the value `n` of the free counter. DESIGN CHOICE, log entry 2. -/
opaque nonceWord : Nat → Nat → BitVec 32

/-- The exponential unit (06_attention_kv.md R148), which the spec gives to 2 ulp only; the exact
cases and the bound of 1 are applied where it is used. DESIGN CHOICE, log entry 9. -/
opaque expUnit : BitVec 32 → BitVec 32

/-- SiLU of the drain (04_matrix_array.md Table 4-9), given to 2 ulp only. DESIGN CHOICE, log entry 9. -/
opaque siluUnit : BitVec 32 → BitVec 32

/-- GELU, tanh form, of the drain (04_matrix_array.md Table 4-9), given to 2 ulp only. DESIGN CHOICE,
log entry 9. -/
opaque geluUnit : BitVec 32 → BitVec 32

/-- Verification of an ECDSA P-384 signature (17_sharal_tally.md R440) under the public key of index
`k`, over the SHA-384 digest `h`; the public keys are in the boot ROM and the spec does not give them.
DESIGN CHOICE, log entry 10. -/
opaque signatureOk : (k : Nat) → (h sig : List (BitVec 8)) → Bool

/-- A byte whose value the spec leaves undefined, drawn at the value `n` of the free counter.
DESIGN CHOICE, log entry 2. -/
opaque freeByte : Nat → BitVec 8

/-- A word whose value the spec leaves undefined, drawn at the value `n` of the free counter.
DESIGN CHOICE, log entry 2. -/
opaque freeWord : Nat → BitVec 32

/-- The supply of a domain in mV at a time in fc, as its rail monitor reads it (14_power_clocks.md Table 14-10).
DESIGN CHOICE, log entry 28. -/
opaque railMv : Nat → Nat → BitVec 16

/-- The negotiated rate and width of the host link at a time in fc, of the values that
13_host_sessions.md Table 13-10 gives PORT_STATUS. DESIGN CHOICE, log entry 28. -/
opaque portRate : Nat → Fin 3
opaque portWidth : Nat → Fin 3

/-- What the baseboard straps the pins MOD_ADDR0 to MOD_ADDR2 to (15_startup_module_edge.md). DESIGN CHOICE,
log entry 28. -/
opaque modAddr : Fin 8

/-- Fast cycles that the replay of a codebook-store read costs: 07_streams.md R194 gives L of a store port, which such a
read does not use. DESIGN CHOICE, log entry 40. -/
opaque bookReplayFc : Nat

end Sys2Proof.Config
end

