-- ==== Sys2Proof/Syntax.lean ====
section
/-! DEFINITION. The commands of the block: one constructor of `Instr` for each row of
spec/opcode_table.json. A command carries where it happens and what comes from outside the module
(bytes read from host memory, sensor readings, codewords); everything else is state. -/

namespace Sys2Proof

/-- Who makes a register access: a PCI Express function, the baseboard over SMBus
(17_sharal_tally.md R448) or a neighbouring module by MGMT packet (R450). -/
inductive Requester
  | func (f : FuncId)
  | smbus
  | fabric
  deriving DecidableEq, Repr

/-- A store port that grants slots: the near or column port of a core (07_streams.md R164) or the
access port of the herd store (10_herd_engine.md R252). -/
inductive StorePort
  | near (c : CoreId)
  | column (c : CoreId)
  | access
  deriving DecidableEq, Repr

/-- The unit whose read met a parity error (07_streams.md R193, R467): a channel, the codebook store of a core, its
program, a load of record groups, ATTEND, a restore from the save area, the Herd engine, the Paddock's update side, a BAR2
access, a host data transfer, the service of Ralso packets, or the Drover as it reads an image. -/
inductive Reader
  | channel (c : CoreId) (ch : ChanId)
  | codebook (c : CoreId) (slot : Fin 16)
  | program (c : CoreId)
  | load (c : CoreId)
  | attend (c : CoreId)
  | restore (c : CoreId)
  | herd
  | paddock
  | bar2
  | transfer
  | ralso
  | image
  deriving DecidableEq, Repr

/-- A flit: 15 words of content and the CRC-32 word (12_ralso_fabric.md R314). Only header, control and idle flits carry
a TYPE: whether a flit is a data flit comes with it (log entry 120). -/
structure Flit where
  data  : Bool
  words : Vector Word 16
  deriving DecidableEq, Repr

/-- What the FEC decoder says of a codeword (12_ralso_fabric.md R315). -/
inductive Fec
  | clean
  | corrected
  | uncorrectable
  deriving DecidableEq, Repr

/-- What a TLP from the host carries, and whether it is a Poisoned TLP (13_host_sessions.md R344). -/
structure Tlp (α : Type) where
  bytes    : α
  poisoned : Bool
  deriving DecidableEq, Repr

/-- The message of a codeword: its codeword word, which holds the sequence number in [19:8] and 0 in [7:0], and ten flits
(12_ralso_fabric.md R313). Its check symbols and its way over the lanes are those of IEEE 802.3 (log entry 119). -/
structure Codeword where
  word  : BitVec 20
  flits : List Flit
  deriving DecidableEq, Repr

/-- What training of a port finds (12_ralso_fabric.md R339): the peer's coordinate and port, lane
reversal and inverted lanes; `none` where lane lock or the exchange does not succeed. -/
structure TrainResult where
  coord    : BitVec 16
  port     : PortId
  reversed : Bool
  polLo    : Word
  polHi    : BitVec 4
  deriving DecidableEq, Repr

/-- What start-up step 5 or 6 finds wrong (15_startup_module_edge.md R401, Table 15-3). -/
structure TestFail where
  domain : BitVec 6
  unit   : Byte
  kind   : Byte
  deriving DecidableEq, Repr

/-- A reset domain of 16_faults_recovery.md Table 16-2. -/
inductive RDom
  | core (c : CoreId)
  | fold (f : Fin 16)
  | compute
  | herd
  | paddock
  | host
  | port (p : PortId)
  | mgmt
  | module
  deriving DecidableEq, Repr

/-- The units to which sample reads are attributed (16_faults_recovery.md R427). -/
inductive SampleUnit
  | regsOf (c : CoreId)
  | nearOf (c : CoreId)
  | regPath
  deriving DecidableEq, Repr

/-- The commands and events of the block, in the order of spec/opcode_table.json. -/
inductive Instr
  -- registers
  | registerWrite (f : FuncId) (off : Nat) (v : Word)
  | unsupportedAccess (f : FuncId) (off size : Nat) (write : Bool)
  | evtLatchWrite (f : FuncId) (slot : Nat) (v : Word)
  | faultRecordWrite (slot : Nat)
  | roleApply (r : Requester) (v : Word)
  | roleChangeComplete
  -- codebook store
  | codebookLoad (c : CoreId)
  | codebookLoadComplete (c : CoreId)
  | pinnedLoad (c : CoreId)
  | pinnedSlotReload (c : CoreId) (slot : Fin 16)
  | pinReload (c : CoreId)
  -- array, drain unit, tiles
  | matmul (c : CoreId)
  | matmulStart (c : CoreId)
  | arrayStep (c : CoreId)
  | matmulComplete (c : CoreId)
  | drain (c : CoreId)
  | drainStart (c : CoreId)
  | drainTileRelease (c : CoreId)
  | drainComplete (c : CoreId)
  | tileStore (c : CoreId)
  | tileLoad (c : CoreId)
  | tileAdd (c : CoreId)
  | tileTransferStart (c : CoreId)
  | tileTransferRelease (c : CoreId)
  | tileTransferComplete (c : CoreId)
  -- attention
  | attend (c : CoreId)
  | attendStart (c : CoreId)
  | attendBlock (c : CoreId)
  | attendComplete (c : CoreId)
  -- streams
  | arm (c : CoreId)
  | rearm (c : CoreId)
  | rearmTakeEffect (c : CoreId) (ch : ChanId)
  | swap (c : CoreId)
  | halvesSwap (c : CoreId) (ch : ChanId)
  | disarm (c : CoreId)
  | disarmComplete (c : CoreId) (ch : ChanId)
  | portGrant (p : StorePort)
  | transferComplete (c : CoreId) (ch : ChanId)
  | channelPrimed (c : CoreId) (ch : ChanId)
  | parityReplay (r : Reader) (addr : Nat) (persists : Bool)
  -- drove chains
  | dlead (c : CoreId)
  | djoin (c : CoreId)
  | chainBlockForward (c : CoreId) (slot : Fin 4)
  | chainBlockArrive (c : CoreId) (slot : Fin 4)
  | chainMarkerArrive (c : CoreId) (slot : Fin 4)
  | chainCreditReturn (c : CoreId) (slot : Fin 4)
  | chainDetach (c : CoreId) (slot : Fin 4)
  | droveTimeout (c : CoreId) (slot : Fin 4)
  -- Drover
  | submit
  | reside
  | imageResident (tenant : Byte) (index : Fin 1024)
  | retire
  | imageRetired (tenant : Byte) (index : Fin 1024)
  | templateSet
  | templateClear
  | ledgerSlotAdvance
  | taskDispatch (slot : Fin 4096)
  | taskSuspend (slot : Fin 4096)
  | suspendDrained (slot : Fin 4096)
  | suspendSaveComplete (slot : Fin 4096)
  | taskResume (slot : Fin 4096)
  | restoreComplete (slot : Fin 4096)
  | endInstr (c : CoreId)
  | undefinedInstruction (c : CoreId)
  | taskComplete (slot : Fin 4096)
  | overrun (slot : Fin 4096)
  | reserveExhausted (column : Fin 18)
  | instanceAbort
  | ledgerSnap (f : FuncId) (v : Word)
  -- Herd engine
  | herdJobStart
  | herdRecordRead
  | herdRecordOutput
  | herdJobComplete
  -- Paddock
  | paddockBankSearch (b : BankId)
  | searchReplay (b : BankId) (unit : Fin 32768) (persists : Bool)
  | theftPc
  | paddockJobStart
  | paddockOpEnqueue
  | insert (b : BankId)
  | remove (b : BankId)
  | write (b : BankId)
  | setvalid (b : BankId)
  | clear (b : BankId)
  | rebuild (b : BankId)
  | rebuildStep (b : BankId)
  | paddockJobComplete
  | padkCtrlWrite (f : FuncId) (v : Word)
  -- Ralso
  | rwrite (c : CoreId)
  | rread (c : CoreId)
  | radd (c : CoreId)
  | rbell (c : CoreId)
  | packetSend (p : PortId)
  | packetForward (p : PortId) (vc : Fin 7)
  | writeReceive
  | readReceive
  | atomicReceive
  | doorbellReceive
  | doorbellHandover
  | readDataReceive
  | ackReceive
  | mcBlockReceive
  | mcMarkerReceive
  | ralsoTimeout (rtag : BitVec 16)
  | mcastPrune (p : PortId)
  | codewordReceive (p : PortId) (fec : Fec) (w : Codeword)
  | controlFlitReceive (p : PortId) (flit : Flit)
  | nakReceive (p : PortId) (seq : BitVec 12)
  | retrainTimeout (p : PortId)
  | linkTrain (f : FuncId) (p : PortId) (v : Word)
  | trainingComplete (p : PortId) (r : Option TrainResult)
  | selfWrite (r : Requester) (v : Word)
  | dimsWrite (r : Requester) (v : Word)
  | rtDataAccess (r : Requester) (v : Option Word)
  | mgmtRead
  | mgmtWrite
  | mgmtTallyRead
  | mgmtResultReceive
  | neighbourTimeout
  -- host port
  | bar2Read (f : FuncId) (addr len : Nat)
  | bar2Write (f : FuncId) (addr : Nat) (data : Tlp (List Byte))
  | bar2Timeout
  | challenge (f : FuncId) (v : Word)
  | answer (f : FuncId) (v : Word)
  | nonceLapse (f : FuncId)
  | lockEnd (slot : Fin 32)
  | close (f : FuncId) (v : Word)
  | sessionNumberFree (n : Fin 256)
  | attach (f : FuncId) (v : Word)
  | detach (f : FuncId) (v : Word)
  | keySelWrite (f : FuncId) (v : Word)
  | keySelErase (f : FuncId) (v : Word)
  | sqDoorbell (f : FuncId) (q : QueueId) (v : Word)
  | commandFetch (q : QueueId) (w0 w1 w2 w3 : Word)
  | qCtrlWrite (f : FuncId) (q : QueueId) (v : Word)
  | queueDrained (q : QueueId)
  | completionWrite (q : QueueId)
  | ctxOpen
  | ctxRoot
  | ctxRelease
  | contextFreed (ctx : Fin 16384)
  | xferIn (data : Tlp (Vector Byte 512))
  | xferOut
  | xferDone
  | infoSelSnap (f : FuncId) (v : Word)
  | functionLevelReset (f : FuncId)
  | d3hotEntry (f : FuncId)
  | vfEnableClear
  | perstAssert
  | pcieHotReset
  -- power
  | wake (r : Requester) (v : Word)
  | hold (r : Requester) (v : Word)
  | release (r : Requester) (v : Word)
  | doze (r : Requester) (v : Word)
  | nap (r : Requester) (v : Word)
  | off (r : Requester) (v : Word)
  | on (r : Requester) (v : Word)
  | idleEntry (d : DomId)
  | portIdleEntry (p : PortId)
  | dieNetworkDoze
  | domainTransitionComplete (d : DomId)
  | domPolicyWrite (f : FuncId) (d : Fin 24) (v : Word)
  | sensorSample (t : Vector (BitVec 16) 96)
  | resume (r : Requester) (v : Word)
  | cautionSet (r : Requester) (v : Word)
  | supplySample (vin iin pin : BitVec 16)
  | underVoltage
  | overVoltage
  | supplyRestore (fail : Option TestFail)
  | referenceLoss
  | referenceReturn (fail : Option TestFail)
  | powerUp (fail : Option TestFail)
  | modRstAssert
  -- resets
  | hangDetect
  | heartbeatCheck (beat : Bool)
  | watchdogExpire
  | resetCommand (r : Requester) (v : Word)
  | resetDrainEnd (d : RDom)
  | sampleReadTimeout (d : RDom) (u : SampleUnit)
  | resetAssert (d : RDom)
  | resetComplete (d : RDom)
  | resetEscalate (d : RDom)
  | dumpArm (f : FuncId) (v : Word)
  | aoClear (f : FuncId) (v : Word)
  | aoDataRead (f : FuncId)
  -- Tally and firmware
  | faultCopyTake
  | tallyRecordClose
  | tallyProgram
  | hoursIncrement
  | fwUpdate
  | fwConfirm
  | rollbackCommit
  | ownerSet
  | fabricSave
  | fabricErase
  | neighbour
  -- SMBus
  | readBoot
  | readReg (off : Word)
  | writeReg (off v : Word) (pec : Option Bool)
  | tallyRead (seq : Word)
  | aoRead (off : Word)
  | smbOwnerSet (key : Vector Byte 32) (pec : Option Bool)
  | lastStatus
  | recoveryWrite (off : Word) (data : List Byte) (pec : Option Bool)
  | recoveryCommit (pec : Option Bool)
  | recoveryStatus
  | smbAlertResponse
  -- trace, counters, log
  | traceStart (f : FuncId) (v : Word)
  | traceStop (f : FuncId) (v : Word)
  | traceCopy (f : FuncId) (v : Word)
  | traceCopyDone
  | traceDataRead (f : FuncId)
  | counterStart (f : FuncId) (v : Word)
  | counterStop (f : FuncId) (v : Word)
  | counterClear (f : FuncId) (v : Word)
  | tallyLoad (f : FuncId) (v : Word)
  | tallyClear (f : FuncId) (v : Word)
  -- edge
  | perstDeassert
  | powerLoss
  | linkDown (p : PortId)
  | peerStartsTraining (p : PortId)
  | mailboxResponse
  deriving DecidableEq, Repr

end Sys2Proof
end

