-- ==== Sys2Proof/Decode.lean ====
section
/-! DEFINITION. The command that a word spells. spec/opcode_table.json gives no row a bit, so no word
spells a command: the block takes commands as such (an access, a pin, an event), not as encodings. -/

namespace Sys2Proof

/-- The command spelled by the `nbits` bits of `w`, as the table numbers them: no row of the table has
bits, so every word is refused. -/
def decodeTableWord (nbits w : Nat) : Option Instr :=
  match nbits, w with
  | _, _ => none

end Sys2Proof
end

