-- ==== Sys2Proof/Machine/State.lean ====
section
/-! DEFINITION. The state of the module as plain data, the reasons a step can stop, and the state
after reset (15_startup_module_edge.md R405). -/

namespace Sys2Proof.Machine

/-- Why the machine stops with a fault. No rule of the spec stops the module: its faults are records
and aborts, which are effects on the state. -/
inductive Fault
  /-- Raised by no command: kept so that the type is not empty. Safe. -/
  | unreachable
  deriving DecidableEq, Repr

/-- Why a command has no meaning. -/
inductive Refusal
  /-- Raised by an arm of `exec` whose command has no meaning in the model yet. Safe. -/
  | notModelled (mnemonic : String)
  deriving DecidableEq, Repr

/-- A sparse table by number; `Ops.lean` reads an unlisted number as the default of the table. -/
abbrev Tbl (α : Type) := List (Nat × α)

/-! ### Register pages -/

/-- The event registers of a page (02_register_pages.md R47): pulses of this fc, the value of
EVT_RAW in the last fc, EVT_LATCH, and the bits that hardware set in this fc (00_scope.md R12). `first` marks a page
that no fc has passed since its reset: a level that the reset left high is no rise (R56). -/
structure EvtState where
  pulses : Word
  prev   : Word
  latch  : Word
  fresh  : Word
  first  : Bool
  deriving DecidableEq, Repr

/-- What a fault record says (02_register_pages.md Table 2-11); `time` is the always-on counter. -/
structure FaultRec where
  code : Nat
  ctx  : Option Nat := none
  task : Option Nat := none
  sess : Option Nat := none
  core : Option Nat := none
  addr : Option Nat := none
  node : Option (BitVec 16) := none
  d0   : Word := 0
  d1   : Word := 0
  time : Nat := 0
  deriving DecidableEq, Repr

/-- Faults of a page that wait to be recorded (R50), those not recorded, and the fc of the last record. -/
structure FaultPage where
  queue : List FaultRec
  lost  : Nat
  last  : Option Nat
  deriving DecidableEq, Repr

/-! ### Stores -/

/-- The stores of the die address space (01_device_overview.md Table 1-2): bytes, check values by
block number, and the words (address divided by 8) that carry a poison mark; the side-array word of block `b`, which
holds its check value, has the address `sideAddr b` there, which is the model's own (log entry 103). The parity bit of a
word is a function of its bytes; a read that meets a parity error is the command PARITY_REPLAY. -/
structure Memory where
  cells  : List Host.Cell
  checks : Tbl Word
  poison : List Nat
  deriving DecidableEq, Repr

/-! ### Cores -/

/-- A W64 element (05_accumulation.md Table 5-1). -/
structure W64 where
  sig     : BitVec 48
  exp     : BitVec 10
  comp    : BitVec 32
  ovf     : Bool
  inexact : Bool
  arrival : Bool
  negZero : Bool
  lost    : Bool
  deriving DecidableEq, Repr

/-- A tile's extent (04_matrix_array.md R99): dataflow, stripes S, rows and columns. -/
structure Extent where
  striped : Bool
  stripes : Nat
  rows    : Nat
  cols    : Nat
  deriving DecidableEq, Repr

/-- An accumulator tile with its registers (05_accumulation.md R131); element (r, j) has number 64r + j.
`freeAt` is the first fc in which an instruction that follows a drain or transfer may take it (R127). -/
structure Tile where
  elems     : Tbl W64
  holder    : Option Nat
  extent    : Option Extent
  groups    : Nat
  boundLost : Bool
  ovfAny    : Bool
  inexAny   : Bool
  arrAny    : Bool
  scale     : Word
  freeAt    : Nat
  deriving DecidableEq, Repr

/-- An instruction in a core's queues: its words, the task that issued it, its issue number, and for a
drain or tile transfer the tile's extent and captured scale at its issue (R63, R100). -/
structure QInst where
  words : List Word
  task  : Nat
  seq   : Nat
  ext   : Option Extent
  cap   : Word
  deriving DecidableEq, Repr

/-- What a running instruction has still to take from a stream channel (07_streams.md R178): elements
needed, those taken, and how many the channel had delivered when the instruction started. -/
structure Feed where
  ch    : Nat
  need  : Nat
  got   : List Word
  start : Nat
  deriving DecidableEq, Repr

/-- A running MATMUL (04_matrix_array.md R103): the next step, the fc from which its products may be
formed (after the last step, the fc after its last products), and its weights and activations. -/
structure MmRun where
  inst  : QInst
  step  : Nat
  at_   : Nat
  w     : Feed
  a     : Feed
  deriving DecidableEq, Repr

/-- The running drain or tile transfer (Tables 4-10, 5-7): what it takes from its channel and in which format, and the
elements that it has still to hand to its output channel. -/
structure DrRun where
  inst     : QInst
  start    : Nat
  relAt    : Nat
  endAt    : Nat
  released : Bool
  feed     : Option Feed
  fmt      : Nat
  out      : List Word
  deriving DecidableEq, Repr

/-- The state of one query row (06_attention_kv.md R147). -/
structure AttRow where
  m   : Word
  l   : Word
  o   : List Word
  any : Bool
  deriving DecidableEq, Repr

/-- The running ATTEND. `order` lists the pages whose entries it reads, the first `scans` of them scanned whole; `kx`
and `vx` take the entries of the key and value list, `kf` and `vf` the keys and values of the block in progress (`taking`);
`planned` of the entries have joined the walks of the data channels. `heldK` and `heldV` are the page that an append begins
in, as the scan read it; `outStart` is where its output begins in the output stream. -/
structure AttRun where
  inst    : QInst
  append  : Bool
  dir     : Nat
  t0      : Nat
  t       : Nat
  order   : List Nat
  scans   : Nat
  planned : Nat
  taking  : Bool
  kx      : Feed
  vx      : Feed
  kf      : Feed
  vf      : Feed
  heldK   : List Word
  heldV   : List Word
  outStart : Nat
  queries : List (List Word)
  newK    : List (List Word)
  newV    : List (List Word)
  globals : List Nat
  pages   : List Nat
  block   : List Nat
  rows    : List AttRow
  feed    : Feed
  at_     : Nat
  out     : List Word
  done    : Bool
  deriving DecidableEq, Repr

/-- The fields of a stream descriptor (07_streams.md Table 7-2). -/
structure Desc where
  format  : Nat
  write   : Bool
  feed    : Nat
  dims    : Nat
  convEn  : Bool
  gather  : Nat
  ich     : Nat
  index   : Bool
  qdepth  : Nat
  base    : Nat
  lens    : List Nat
  strides : List Int
  scale   : Word
  conv    : Word
  bufBase : Nat
  halfBlk : Nat
  rate    : Nat
  burst   : Nat
  deriving DecidableEq, Repr

/-- What a transfer of a channel moves (07_streams.md R180, R181): the elements of its walk, those that it puts into or
reads back from its halves, or those that the consumer's queue takes from the halves or a ring. -/
inductive Leg
  | walk
  | half
  | queue
  deriving DecidableEq, Repr

/-- A transfer in flight (07_streams.md R166): elements, the fc in which it completes, its block; for a
write the bytes by die address, or the block that a whole-block move takes; `task` is the task whose transfer it is,
`live` while that task has not been stopped. -/
structure Flight where
  leg   : Leg
  elems : Nat
  at_   : Nat
  write : Bool
  block : Nat
  cells : List Host.Cell
  src   : Option Nat
  task  : Nat
  live  : Bool
  deriving DecidableEq, Repr

/-- The exponent predictor of a channel (03_numbers_codebooks.md R71, R74). -/
structure Pred where
  hist  : Tbl Nat
  owner : Option Nat
  deriving DecidableEq, Repr

/-- A stream channel (07_streams.md). `done`: elements taken or produced. `fetched`, `landed`: elements whose transfer into
the queue of a read channel, or to the walk of a write channel, is granted and complete. With halves: `stored`, `filled`
those put into the halves, `walked`, `walkIn` those fetched from the walk or read back from the halves. `outBuf`: values
produced and not yet granted. `runEnd`: the end of the block that the consumer takes from, `begun` the blocks of which it
has taken the first element, `blocks` those granted to its queue. `reqAt`: the fc in which its next transfer of the walk
was first to be made. `plan`: the walk of a channel that the attention unit has armed, as runs of elements from byte
addresses (06_attention_kv.md R137). `excuse`: the fc to which parity replays excuse a wait (R187). `marked`: words (address divided by
8) that its own reads of this arm have marked as poisoned (R193). -/
structure Chan where
  armed    : Bool
  desc     : Desc
  descAddr : Nat
  base     : Nat
  scale    : Word
  conv     : Word
  word0    : Word
  task     : Option Nat
  done     : Nat
  fetched  : Nat
  landed   : Nat
  flights  : List Flight
  tokens   : Nat
  useHalf  : Nat
  swaps    : Nat
  auth     : Nat
  walked   : Nat
  walkIn   : Nat
  stored   : Nat
  filled   : Nat
  armedAt  : Nat
  reqAt    : Option Nat
  primed   : Bool
  waiting  : Bool
  waitFc   : Nat
  excuse   : Nat
  outBuf   : List Word
  runEnd   : Nat
  begun    : Nat
  blocks   : Nat
  rearm    : Option QInst
  disarm   : Option QInst
  chain    : Option Nat
  pred     : Pred
  idxBase  : Nat
  marked   : List Nat
  plan     : Option (List (Nat × Nat))
  deriving DecidableEq, Repr

/-- A resident codebook (03_numbers_codebooks.md R75): its key, LEVEL_CHECK and levels. -/
structure Book where
  tenant : Nat
  e256   : Bool
  tag    : Word
  check  : Word
  levels : List Byte
  deriving DecidableEq, Repr

/-- A codebook slot (Table 3-7). `claims` are task slots with granted claims; `pins` are images
(tenant x 1024 + index) that pin a codebook of it; `parity` marks a failed slot that awaits its reload
(R85), a failed slot without it has failed its reload (R468). `group` is the die address of the record group that its
last load read, `marks` names the 64-bit words of the slot that are poisoned (07_streams.md R193). -/
structure CbSlot where
  books   : List Book
  wide    : Bool
  loading : Bool
  failed  : Bool
  claims  : List Nat
  pins    : List Nat
  granted : Nat
  parity  : Bool
  group   : Nat
  marks   : List Nat
  deriving DecidableEq, Repr

/-- A codebook record that a load must find: claim or pin, with its expected header. -/
structure CbWant where
  claim : Nat
  index : Nat
  e256  : Bool
  tag   : Word
  check : Word
  deriving DecidableEq, Repr

/-- A load that waits or runs (R77, R82, R468). `task` is `none` for a load of the Drover; `marked` names the words of
its block (address divided by 8) that its own read has marked as poisoned. -/
structure CbLoad where
  task   : Option Nat
  tenant : Nat
  group  : Nat
  wants  : List CbWant
  pins   : List Nat
  slot   : Option Nat
  start  : Nat
  marked : List Nat
  deriving DecidableEq, Repr

/-- The walk of a generation (08_drove_chains.md R206): the bellwether's BASE and, from a local bellwether, its walk
fields. -/
structure ChSrc where
  base : Nat
  walk : Option Desc
  deriving DecidableEq, Repr

/-- A chain block (08_drove_chains.md R207): generation, sequence, bytes, check value, poison marks (64 stands for the
mark of its side-array word). The first block of a generation carries its walk in `src`. -/
structure ChBlock where
  entry  : Nat
  gen    : Nat
  seq    : Nat
  addr   : Nat
  data   : List Byte
  check  : Word
  poison : List Nat
  src    : Option ChSrc
  sent   : Bool
  used   : Bool
  deriving DecidableEq, Repr

/-- A marker of a chain (R208, R209); `last` where no generation follows, as the bellwether's channel is disarmed. -/
structure ChMark where
  cancel : Bool
  gen    : Nat
  n      : Nat
  last   : Bool
  deriving DecidableEq, Repr

/-- What travels to a member, with the fc of its arrival (R210, R218); a marker with `fwd` goes on from there. -/
structure ChMsg where
  at_   : Nat
  block : Option ChBlock
  mark  : Option ChMark
  fwd   : Bool
  deriving DecidableEq, Repr

/-- A chain descriptor (Table 8-1). -/
structure ChainD where
  fabric   : Bool
  consumes : Bool
  mcast    : Bool
  ringBlk  : Nat
  catchup  : Nat
  stall    : Nat
  srcNode  : BitVec 16
  group    : Nat
  ringOff  : Nat
  arrive   : Nat
  rate     : Nat
  members  : List Nat
  deriving DecidableEq, Repr

/-- A programmed chain slot of a core (Table 8-8). `nextSeq` is the next sequence number: to enter the line at the
bellwether, to take at a member. `commits`, `cancels` and `srcs` give committed and cancelled counts and the walk by
generation; `back` the times of returning credits; `catching` the generation of which a detached member reads the rest
itself; `sentAt` the fc from which the next block may be sent on; `ended` where no further generation comes; `left` where
the joined channel has been disarmed. -/
structure ChSlot where
  desc     : ChainD
  chain    : Nat
  inst     : Nat
  task     : Option Nat
  pos      : Nat
  joined   : Option Nat
  detached : Bool
  catching : Option Nat
  allow    : Nat
  gen      : Nat
  nextSeq  : Nat
  wr       : Nat
  commits  : Tbl Nat
  cancels  : Tbl Nat
  recvGen  : Nat
  recvSeq  : Nat
  ring     : List ChBlock
  coming   : List ChMsg
  credits  : Nat
  back     : List Nat
  stallAt  : Option Nat
  waitAt   : Option Nat
  sentAt   : Nat
  ended    : Bool
  left     : Bool
  srcs     : Tbl ChSrc
  deriving DecidableEq, Repr

/-- The program of the task that runs on a core (09_drover_graphs.md R465). -/
structure Prog where
  task    : Nat
  pc      : Nat
  ended   : Bool
  stopped : Bool
  block   : Option Nat
  deriving DecidableEq, Repr

/-- One core (01_device_overview.md Table 1-3). `fins` are MATMULs whose last products have been formed
and that have still to complete (04_matrix_array.md R103); `nonfin` the drain cycles whose pulse of NONFINITE_OUT has still
to come; `marked` names the words (address divided by 8) that the attention unit's own reads or the restore in progress
have marked as poisoned. -/
structure Core where
  prog   : Option Prog
  seq    : Nat
  tileA  : Tile
  tileB  : Tile
  arrQ   : List QInst
  mm     : Option MmRun
  drQ    : List QInst
  dr     : Option DrRun
  attQ   : List QInst
  att    : Option AttRun
  chans  : Tbl Chan
  slots  : Tbl CbSlot
  loads  : List CbLoad
  load   : Option CbLoad
  drove  : Tbl ChSlot
  fins   : List MmRun
  nonfin : Nat
  marked : List Nat
  deriving DecidableEq, Repr

/-! ### Drover -/

/-- A task descriptor (09_drover_graphs.md Table 9-3) with its TAIL (R228). -/
structure TaskD where
  kind       : Nat
  nosusp     : Bool
  nclaim     : Nat
  claimFirst : Nat
  succFirst  : Nat
  nsucc      : Nat
  coreFirst  : Nat
  coreCount  : Nat
  wcet       : Nat
  np         : Nat
  progOff    : Nat
  tail       : Nat
  deriving DecidableEq, Repr

/-- A claim entry (Table 9-5) as its four words. -/
structure Claim where
  w0 : Word
  w1 : Word
  w2 : Word
  w3 : Word
  deriving DecidableEq, Repr

/-- A pin entry (Table 9-6). -/
structure PinE where
  coreFirst : Nat
  coreCount : Nat
  e256      : Bool
  column    : Bool
  index     : Nat
  tag       : Word
  check     : Word
  offset    : Nat
  deriving DecidableEq, Repr

/-- How far an image is (R224, R225). -/
inductive ImgState
  | loading
  | resident
  | retiring
  deriving DecidableEq, Repr

/-- A graph image in task memory; `crit` is its CRIT (R228). -/
structure Image where
  tenant   : Nat
  index    : Nat
  size     : Nat
  roleMask : Nat
  switchFc : Nat
  tasks    : List TaskD
  edges    : List Nat
  claims   : List Claim
  pins     : List PinE
  chains   : List ChainD
  crit     : Nat
  st       : ImgState
  queue    : Nat
  sess     : Nat
  cookie   : Nat
  deriving DecidableEq, Repr

/-- Where a task is (R237 to R241). -/
inductive TState
  | waiting
  | ready
  | running
  | draining
  | saving
  | suspended
  | restoring
  | done
  deriving DecidableEq, Repr

/-- What the Drover keeps of a suspended task on one core (05_accumulation.md R129, 07_streams.md R196); `replay` is the
time of parity replays in its restore, as charged to the reserve (09_drover_graphs.md R242). -/
structure Saved where
  core  : Nat
  pc    : Nat
  ended : Bool
  tileA : Option Tile
  tileB : Option Tile
  chans : Tbl Chan
  replay : Nat
  deriving DecidableEq, Repr

/-- A Drover task slot in use. `since` is the fc at which the present state began; `used` the budget
used before it (R241); `ext` what charges to the reserve added, by core, 256 for its unit; `books` maps core x 256 + claim to
slot x 16 + sub-position. -/
structure Task where
  inst   : Nat
  idx    : Nat
  st     : TState
  preds  : Nat
  since  : Nat
  used   : Nat
  ext    : Tbl Nat
  age    : Nat
  dline  : Nat
  filler : Bool
  books  : Tbl Nat
  saved  : List Saved
  deriving DecidableEq, Repr

/-- An admitted graph instance (R229). -/
structure Inst where
  num    : Nat
  tenant : Nat
  image  : Nat
  ctx    : Nat
  sess   : Nat
  queue  : Nat
  cookie : Nat
  dline  : Nat
  submit : Nat
  slots  : List Nat
  tmpl   : Bool
  deriving DecidableEq, Repr

/-- A demand in a ledger (R231, R233): column 0 to 255 a core, 256 HERD, 257 PADDOCK. -/
structure Demand where
  inst  : Nat
  task  : Option Nat
  col   : Nat
  dline : Nat
  fc    : Nat
  deriving DecidableEq, Repr

/-- A template (R230). -/
structure Template where
  image  : Nat
  ctx    : Nat
  dline  : Nat
  cookie : Nat
  sess   : Nat
  tenant : Nat
  queue  : Nat
  deriving DecidableEq, Repr

/-- A command fetched from a queue and not yet decided or carried out (13_host_sessions.md R361).
`bell` is the time of its doorbell; `tmpl` marks a submission by template doorbell. -/
structure Cmd where
  queue : Nat
  sess  : Nat
  w0    : Word
  w1    : Word
  w2    : Word
  w3    : Word
  bell  : Nat
  tmpl  : Bool
  deriving DecidableEq, Repr

/-- A fault that the Drover has still to act on (R246). -/
structure AbortReq where
  inst  : Nat
  fault : Nat
  task  : Option Nat
  deriving DecidableEq, Repr

/-- A unit whose stop is awaited after an abort (16_faults_recovery.md R416). -/
structure StopWait where
  unit : Nat
  task : Nat
  by_  : Nat
  deriving DecidableEq, Repr

/-- The Drover. `cmds` are the fetched commands of Drover and contexts, in their order (R361). `reserve` holds the time charged in slot 0 to folds 0 to 15 and the unit columns 16 and
17 (R242), `resAborts` the aborts made for it; `noCharge` names cores whose pinned groups are reloaded
without a charge, after a compute reset. -/
structure Drover where
  images    : List Image
  insts     : List Inst
  tasks     : Tbl Task
  demands   : List Demand
  templates : Tbl Template
  cmds      : List Cmd
  aborts    : List AbortReq
  stops     : List StopWait
  instCtr   : Nat
  slotBase  : Nat
  reserve   : Tbl Nat
  resAborts : Tbl Nat
  noCharge  : List Nat
  lastDec   : Option Nat
  snapDem   : Word
  snapFirst : Word
  snapRes   : Word
  deriving DecidableEq, Repr

/-! ### Herd engine and Paddock -/

/-- A feature entry (10_herd_engine.md Table 10-2). -/
structure Feat where
  type   : Nat
  binned : Bool
  ncut   : Nat
  offMap : Nat
  deriving DecidableEq, Repr

/-- A record scored and not yet written (R266). `counts` is `none` while the Paddock searches. -/
structure HerdOut where
  index  : Nat
  sums   : List W64
  leaves : List Nat
  bins   : List (Option Nat)
  counts : Option (List Nat)
  deriving DecidableEq, Repr

/-- The running herd job (R268 to R271). `written` counts the records of which every byte is written; `buf` holds output bytes of a block not yet whole, `blocks` counts the output blocks written; `osize` is the size
of an output record. -/
structure HerdRun where
  task    : Nat
  job     : Nat
  words   : List Word
  header  : List Word
  feats   : List Feat
  count   : Nat
  osize   : Nat
  next    : Nat
  written : Nat
  outs    : List HerdOut
  buf     : List Byte
  blocks  : Nat
  deriving DecidableEq, Repr

/-- The Herd engine; `marked` names the words (address divided by 8) that the reads of its job have marked as poisoned. `outAt` is
the fc since which host and Ralso transfers have waited at the access port without a slot (R253). -/
structure Herd where
  run    : Option HerdRun
  marked : List Nat
  outAt  : Option Nat
  deriving DecidableEq, Repr

/-- A Paddock unit (11_paddock.md Tables 11-1, 11-2). -/
structure PUnit where
  ranges : List Byte
  ctl    : Word
  deriving DecidableEq, Repr

/-- Bank states (Table 11-15). -/
inductive BankSt
  | empty
  | ready
  | busy
  | hole
  | inconsistent
  | rebuilding
  deriving DecidableEq, Repr

/-- An operation in a bank queue (Table 11-6), its number in the list and its task. -/
structure POp where
  w0   : Word
  w1   : Word
  w2   : Word
  w3   : Word
  idx  : Nat
  task : Nat
  deriving DecidableEq, Repr

/-- The operation in progress: logical position, steps made, steps in all, its entry image, and for a
REBUILD the golden header's width code, map and fill, with the hole of the golden copy. -/
structure POpRun where
  op    : POp
  pos   : Nat
  made  : Nat
  total : Nat
  image : List PUnit
  width : Nat
  map   : List Word
  fill  : Nat
  hole  : Option Nat
  deriving DecidableEq, Repr

/-- A bank (R281 to R286, R307). `width` is the WIDTH code of Table 11-4, `map` the 16 words of the field
map, `builds` the REBUILDs completed, `theft` one more than the Paddock cycle in which it last made a step. -/
structure Bank where
  st      : BankSt
  width   : Nat
  map     : List Word
  fill    : Nat
  hole    : Option Nat
  gold    : Nat
  units   : Tbl PUnit
  poison  : List Nat
  queue   : List POp
  cur     : Option POpRun
  scrub   : Nat
  passBad : Bool
  inPass  : Bool
  builds  : Nat
  theft   : Nat
  deriving DecidableEq, Repr

/-- The record in search (R290): its bins, the banks still to search, the counts so far. -/
structure PSearch where
  index  : Nat
  bins   : List (Option Nat)
  left   : List Nat
  counts : List Nat
  deriving DecidableEq, Repr

/-- The update side's job (R296). -/
structure PJob where
  task : Nat
  base : Nat
  nops : Nat
  next : Nat
  done : Nat
  mask : Nat
  deriving DecidableEq, Repr

/-- The Paddock; `marked` names the words (address divided by 8) that the reads of its update side's job have marked as
poisoned. -/
structure Paddock where
  banks     : Tbl Bank
  search    : Option PSearch
  job       : Option PJob
  searchAt  : Nat
  searchN   : Nat
  builds    : List (Nat × Nat)
  marked    : List Nat
  deriving DecidableEq, Repr

/-! ### Ralso fabric -/

/-- A packet (12_ralso_fabric.md Table 12-6). -/
structure Packet where
  ptype  : Nat
  vc     : Nat
  dest   : BitVec 16
  src    : BitVec 16
  rtag   : BitVec 16
  addr   : Nat
  opx    : Nat
  len    : Nat
  group  : Nat
  gen    : Nat
  seq    : Nat
  checks : List Word
  data   : List Byte
  deriving DecidableEq, Repr

/-- A packet on its way through the module: the port through which it came, if any, the order in which its header flit
arrived among all packets (R319), and its flits with the header. -/
structure Via where
  inp   : Option Nat
  stamp : Nat
  flits : Nat
  deriving DecidableEq, Repr

/-- A packet, or a copy of one, that waits for an output port or for its module, since an fc. Its data flits may still be
coming (R337): `sent` of its flits have left, `waitAt` is the fc since which it waits for credit or for room without a break
(R336); `done` of the blocks of a request have had their slot, and a READ holds in its packet what they gave. -/
structure OutPkt where
  pkt    : Packet
  via    : Via
  since  : Nat
  sent   : Nat
  waitAt : Option Nat
  done   : Nat
  deriving DecidableEq, Repr

/-- A packet in the buffer of a channel of a port (R317): the data flits still to come, whether it has been routed, and the
flits for which credits go back once every copy has left. -/
structure RxPkt where
  pkt    : Packet
  vc     : Nat
  stamp  : Nat
  left   : Nat
  routed : Bool
  flits  : Nat
  deriving DecidableEq, Repr

inductive LinkSt
  | down
  | training
  | up
  | retrain
  | miswired
  deriving DecidableEq, Repr

/-- One Ralso port (R311 to R317, R339); `partial_` is the packet whose data flits are coming. -/
structure Port where
  st       : LinkSt
  reversed : Bool
  peerPort : Nat
  peer     : BitVec 16
  polLo    : Word
  polHi    : BitVec 4
  txSeq    : BitVec 12
  replay   : List Codeword
  credits  : List Nat
  rxSeq    : BitVec 12
  discard  : Bool
  rxNaks   : Nat
  nakSeq   : BitVec 12
  naks     : Nat
  partial_ : Option Nat
  rx       : List RxPkt
  freed    : List Nat
  outQ     : List OutPkt
  trainAt  : Nat
  deriving DecidableEq, Repr

/-- A request packet whose response is awaited (R333, R334): `kind` 0 a WRITE, 1 a READ of RREAD, 2 a READ of
a head that catches up (`ch` its chain slot, `gen` and `seq` the block), 3 an ATOMIC, 4 a DOORBELL. Its timer `ends` once it
has been sent. -/
structure Pending where
  rtag : BitVec 16
  core : Nat
  task : Nat
  port : Nat
  kind : Nat
  ch   : Nat
  ends : Option Nat
  node : BitVec 16
  addr : Nat
  len  : Nat
  gen  : Nat
  seq  : Nat
  deriving DecidableEq, Repr

/-- A remote operation whose packets have still to be sent, in issue order (R327); `rest` are the bytes of elements taken
that the next packet begins with. -/
structure RemOp where
  inst  : QInst
  core  : Nat
  sent  : Nat
  total : Nat
  feed  : Option Feed
  rest  : List Byte
  deriving DecidableEq, Repr

/-- Bytes of READ_DATA that a write channel has still to take (R329). -/
structure Inbox where
  core  : Nat
  ch    : Nat
  task  : Nat
  bytes : List Byte
  deriving DecidableEq, Repr

structure Fabric where
  routes  : Tbl Word
  ports   : Tbl Port
  pend    : List Pending
  ops     : List RemOp
  local_  : List OutPkt
  bells   : List (BitVec 16 × BitVec 16 × Nat)
  prunes  : List (Nat × Nat × Nat)
  rtag    : BitVec 16
  stamp   : Nat
  inbox   : List Inbox
  deriving DecidableEq, Repr

/-! ### Host port -/

/-- A live nonce with what was captured with it (13_host_sessions.md R354). -/
structure Nonce where
  words : List Word
  slot  : Nat
  priv  : BitVec 3
  at_   : Nat
  deriving DecidableEq, Repr

/-- A key slot (R352). -/
structure KeySlot where
  key    : List Byte
  tenant : Nat
  priv   : BitVec 3
  func   : Nat
  deriving DecidableEq, Repr

/-- A session (R357); `closing` until its aborts have ended (R358). -/
structure Session where
  func    : Nat
  priv    : BitVec 3
  slot    : Nat
  tenant  : Nat
  closing : Bool
  deriving DecidableEq, Repr

/-- An outcome record (09_drover_graphs.md Table 9-10). -/
structure ORec where
  kind   : Nat
  reason : Nat
  cookie : Nat
  fault  : Nat
  inst   : Nat
  ctx    : Nat
  task   : Option Nat
  time   : Nat
  deriving DecidableEq, Repr

/-- A command queue beyond its registers (R359 to R363). -/
structure HQueue where
  sess     : Option Nat
  func     : Nat
  enable   : Bool
  draining : Bool
  staged   : List ORec
  bells    : List (Nat × Nat)
  inflight : Nat
  deriving DecidableEq, Repr

inductive CtxSt
  | free
  | opened
  | releasing
  deriving DecidableEq, Repr

/-- A hardware context (R368). -/
structure Ctx where
  st     : CtxSt
  tenant : Nat
  base   : Nat
  count  : Nat
  queue  : Nat
  sess   : Nat
  cookie : Nat
  deriving DecidableEq, Repr

/-- A host data transfer in progress (R367): blocks moved, the fault that ends it, the fc since which it waits for its next
block, and whether it has asked for the slot of that block. -/
structure Xfer where
  cmd   : Cmd
  moved : Nat
  fault : Option Nat
  since : Nat
  asks  : Bool
  deriving DecidableEq, Repr

/-- A BAR2 access that waits for a dozing fold or for slots (R350, R383): `done` of its blocks have had theirs and gave a
read the bytes `got`; a write with `ep` came as a Poisoned TLP. With `bar0` it is an access to BAR0 that waits behind one of
its function to BAR2 (R351). -/
structure Bar2 where
  func  : FuncId
  addr  : Nat
  len   : Nat
  data  : Option (List Byte)
  bar0  : Bool
  ep    : Bool
  since : Nat
  done  : Nat
  got   : List Byte
  deriving DecidableEq, Repr

/-- The host port. `vfs` virtual functions are enabled, the functions of `d3` are in D3hot. `msix` is the MSI-X table in BAR4,
four words for each vector (function × 32 + vector), `pba` the vectors whose pending bit is set (R344, R345; log entry 122). -/
structure HostPort where
  banked   : Tbl Word
  nonces   : Tbl Nonce
  keys     : Tbl KeySlot
  fails    : Tbl Nat
  locks    : Tbl Nat
  sessions : Tbl Session
  queues   : Tbl HQueue
  ctxs     : Tbl Ctx
  cmds     : List Cmd
  xfer     : Option Xfer
  bar2     : List Bar2
  vfs      : Nat
  busMast  : Bool
  d3       : List Nat
  linkUp   : Bool
  msix     : Tbl (List Word)
  pba      : List Nat
  deriving DecidableEq, Repr

/-! ### Power, resets -/

inductive PSt
  | run
  | doze
  | nap
  | off
  deriving DecidableEq, Repr

/-- A switched domain (14_power_clocks.md Table 14-13). `target` is the state of the entry in progress;
`idle` the fc since which the conditions of R380 or R385 hold. -/
structure Dom where
  st     : PSt
  target : Option PSt
  waking : Bool
  hold   : Bool
  commit : Bool
  idle   : Nat
  deriving DecidableEq, Repr

structure Power where
  doms     : Tbl Dom
  temps    : Tbl (BitVec 16)
  caution  : List Nat
  halt     : Bool
  sampled  : Bool
  supplyOk : Bool
  refOk    : Bool
  refLost  : Nat
  aoOn     : Bool
  pwrGood  : Bool
  faultPin : Bool
  thermTrip : Bool
  perst    : Bool
  alert    : Bool
  failed   : Bool
  entered  : Option Nat
  deriving DecidableEq, Repr

inductive RPhase
  | drain
  | sample
  | asserted
  deriving DecidableEq, Repr

/-- A reset in progress (16_faults_recovery.md R419 to R431). `chain` numbers the escalation chain. -/
structure RRun where
  dom   : RDom
  cause : Nat
  phase : RPhase
  since : Nat
  chain : Nat
  deriving DecidableEq, Repr

/-- The sample chain of a reset and its escalations (R428, Table 16-5): first and last domain, cause and time of
the first, whether its sample goes to the dump buffer (with base and size as they were at its start), the bytes and
records written, and the units found unreadable. -/
structure Chain where
  id      : Nat
  first   : RDom
  final   : RDom
  cause   : Nat
  time    : Nat
  dump    : Option Bool
  base    : Nat
  size    : Nat
  records : Nat
  unread  : Nat
  bytes   : Nat
  trunc   : Bool
  marked  : List SampleUnit
  deriving DecidableEq, Repr

structure Resets where
  runs     : List RRun
  chains   : List Chain
  nextId   : Nat
  compHurdle : Bool
  crit     : List RDom
  missed   : Nat
  ao       : List Word
  aoUsed   : Bool
  dumpSeq  : Nat
  deriving DecidableEq, Repr

/-! ### Sharal -/

/-- A fault copy (17_sharal_tally.md R438). -/
structure FCopy where
  slot  : Nat
  words : List Word
  code  : Nat
  deriving DecidableEq, Repr

/-- A Tally record (Table 17-12) before its CRC. -/
structure TRec where
  seq     : Nat
  hours   : Nat
  cycles  : Nat
  code    : Nat
  dropped : Nat
  repeats : Nat
  first   : Nat
  last    : Nat
  addrs   : List Word
  vals    : List Word
  srcType : Nat
  srcInst : Nat
  fw      : Word
  crcBad  : Bool
  deriving DecidableEq, Repr

/-- A trigger entry (R457). -/
structure Trig where
  en    : Bool
  code  : Nat
  nsnap : Nat
  snaps : List Word
  deriving DecidableEq, Repr

/-- A firmware image in a slot of the flash (Table 17-2). -/
structure FwImage where
  header : List Word
  body   : List Byte
  deriving DecidableEq, Repr

/-- A boot header copy (Table 17-3). -/
structure BootHdr where
  valid : Bool
  gen   : Nat
  trial : Bool
  tried : Bool
  deriving DecidableEq, Repr

/-- The fabric configuration record (R446). -/
structure FabRec where
  self    : Word
  dims    : Word
  timeout : Word
  stall   : Word
  routes  : Tbl Word
  windows : Tbl Word
  deriving DecidableEq, Repr

structure Tally where
  recs    : List TRec
  staged  : Nat
  head    : Nat
  tail    : Nat
  opened  : Option Nat
  dropped : Nat
  hours   : Nat
  hoursAt : Nat
  cycles  : Nat
  win     : List Word
  winStat : Nat
  deriving DecidableEq, Repr

/-- A mailbox message in progress (R445): sender, request words, response once decided. -/
structure Mbox where
  owner : Bool
  words : List Word
  rsp   : Option (List Word)
  deriving DecidableEq, Repr

/-- The request of the mailbox message NEIGHBOUR that waits for its RESULT (R450). -/
structure Neigh where
  rtag  : BitVec 16
  since : Nat
  deriving DecidableEq, Repr

structure Sharal where
  copies  : List FCopy
  trigs   : Tbl Trig
  tally   : Tally
  slotA   : FwImage
  slotB   : FwImage
  hdr0    : BootHdr
  hdr1    : BootHdr
  runB    : Bool
  fwVer   : Word
  fwRoll  : Nat
  fuse    : Nat
  fabRec  : Option FabRec
  mbox    : Option Mbox
  neigh   : Option Neigh
  smbLast : Nat
  recBuf  : List Host.Cell
  recStat : Nat
  ring    : List (List Word)
  tracing : Bool
  trStart : Nat
  trFull  : Bool
  trLost  : Nat
  trQ     : List (Nat × List Word)
  trDrop  : Tbl Nat
  copying : Bool
  counting : Bool
  deriving DecidableEq, Repr

/-- What leaves the module. -/
inductive Out
  | msix (f vector : Nat)
  | sharalMsg (slot : Nat)
  | readData (f : Nat) (data : List Byte)
  | poisoned (f : Nat)
  | complAbort (f : Nat)
  | hostWrite (f addr : Nat) (data : List Byte)
  | codeword (p : Nat) (w : Codeword)
  | control (p : Nat) (flit : Flit)
  | idle (p : Nat)
  | smbus (data : List Byte)
  | smbNack
  deriving DecidableEq, Repr

/-- The state of the block. `now` counts fast cycles; the always-on counter is `now / 40` (00_scope.md
R2). `regs` holds the register words that are stored as such, by BAR0 offset; a register not listed
reads as its reset value. `slots` names the store ports whose slot of this fc is taken; `soft` names the registers, by
BAR0 offset, that hardware updates too and software has written in this fc (R13). -/
structure State where
  pending : List Instr
  now     : Nat
  regs    : Tbl Word
  evts    : Tbl EvtState
  faults  : Tbl FaultPage
  mem     : Memory
  slots   : List Nat
  soft    : List Nat
  cores   : Tbl Core
  drover  : Drover
  herd    : Herd
  paddock : Paddock
  fabric  : Fabric
  host    : HostPort
  power   : Power
  resets  : Resets
  sharal  : Sharal
  roles   : List (BitVec 4)
  out     : List Out
  free    : Nat
  deriving DecidableEq, Repr

/-! ### The state after reset -/

/-- The Drover of 15_startup_module_edge.md Table 15-2: nothing resident, instance counter 1. -/
def Drover.start : Drover :=
  { images := [], insts := [], tasks := [], demands := [], templates := [], cmds := [], aborts := [],
    stops := [], instCtr := 1, slotBase := 0, reserve := [], resAborts := [], noCharge := [], lastDec := none,
    snapDem := 0, snapFirst := 0xFFFFFFFF, snapRes := 0 }

/-- The Paddock of Table 15-2: every bank EMPTY. -/
def Paddock.start : Paddock :=
  { banks := [], search := none, job := none, searchAt := 0, searchN := 0, builds := [], marked := [] }

/-- The fabric before a fabric configuration record is applied (R55, R404): every register 0 but
those that 12_ralso_fabric.md R342 gives a value, every port DOWN. -/
def Fabric.start : Fabric :=
  { routes := [], ports := [], pend := [], ops := [], local_ := [],
    bells := [], prunes := [], rtag := 0, stamp := 0, inbox := [] }

/-- The host port of Table 15-2: no session, no queue attached, every context FREE. -/
def HostPort.start : HostPort :=
  { banked := [], nonces := [], keys := [], fails := [], locks := [], sessions := [], queues := [],
    ctxs := [], cmds := [], xfer := none, bar2 := [], vfs := 63, busMast := true, d3 := [],
    linkUp := true, msix := [], pba := [] }

/-- Power at the end of step 7 (R405): domains as `Ops.lean` reads an unlisted one, no fault pin. -/
def Power.start : Power :=
  { doms := [], temps := [], caution := [], halt := false, sampled := true, supplyOk := true,
    refOk := true, refLost := 0, aoOn := true, pwrGood := true, faultPin := false,
    thermTrip := false, perst := false, alert := false, failed := false, entered := none }

def Resets.start : Resets :=
  { runs := [], chains := [], nextId := 0, compHurdle := false, crit := [], missed := 0, ao := [],
    aoUsed := false, dumpSeq := 0 }

/-- The POWER_UP record of step 4, first of an empty log (17_sharal_tally.md Table 17-13; log entry 8). -/
def TRec.powerUp : TRec :=
  { seq := 1, hours := 0, cycles := 1, code := 0x1001, dropped := 0, repeats := 0, first := 0, last := 0,
    addrs := [0xFFFFFFFF, 0xFFFFFFFF], vals := [0x103F0000, 0], srcType := 0x41, srcInst := 0, fw := 0, crcBad := false }

/-- A Tally that holds its first record, in the first power cycle (log entry 8). -/
def Tally.start : Tally :=
  { recs := [TRec.powerUp], staged := 1, head := 1, tail := 1, opened := some 0, dropped := 0,
    hours := 0, hoursAt := 0, cycles := 1, win := [], winStat := 0 }

/-- The image that the flash holds in both slots: a header of Table 17-2 with FW_VERSION 0, ROLLBACK 0 and KEY_INDEX 0
over a body of one zero byte, with its digest (log entry 8). -/
def FwImage.shipped : FwImage :=
  { header := [0x5348524C, 0, 0, 1, 0, 0xb421c0be, 0x06e368f3, 0x12e03491, 0x7030b4c2, 0xbda9d383, 0x4ee206d2,
      0xe1860d5f, 0x6536663d, 0x2bec3359, 0x96653441, 0xc2a91768, 0x1717a108] ++ List.replicate 111 0
    body := [0] }

/-- Sharal with image A in both slots and nothing in progress (log entry 8). -/
def Sharal.start : Sharal :=
  { copies := [], trigs := [], tally := Tally.start, slotA := FwImage.shipped, slotB := FwImage.shipped,
    hdr0 := ⟨true, 0, false, false⟩, hdr1 := ⟨false, 0, false, false⟩, runB := false, fwVer := 0, fwRoll := 0,
    fuse := 0, fabRec := none, mbox := none, neigh := none, smbLast := 0, recBuf := [],
    recStat := 0, ring := [], tracing := false, trStart := 0, trFull := false, trLost := 0, trQ := [], trDrop := [],
    copying := false, counting := false }

/-- The module at the end of start-up step 7 (15_startup_module_edge.md R405, Table 15-2), image A
running and no fabric record applied. What the table does not give is named in log entries 1 to 8. -/
def State.reset : State :=
  { pending := [], now := 0, regs := [(0x8C0104, 0x403F0000)], evts := [], faults := [],
    mem := ⟨[], [], []⟩, slots := [], soft := [], cores := [], drover := Drover.start, herd := ⟨none, [], none⟩,
    paddock := Paddock.start, fabric := Fabric.start, host := HostPort.start, power := Power.start,
    resets := Resets.start, sharal := Sharal.start, roles := [], out := [], free := 0 }

end Sys2Proof.Machine
end

