-- ==== Sys2Proof/Machine/Ops.lean ====
section
/-! DEFINITION. The named operations over the parts of the state that every family shares: sparse
tables, bits, memory, cores, register words, page faults and event pulses. -/

namespace Sys2Proof.Machine

/-- What a command answers. -/
abbrev Res := Host.Outcome State Fault Refusal

/-- `f s` where `c` holds, `s` unchanged otherwise: an event whose conditions do not hold does not
take place. DESIGN CHOICE, log entry 11. -/
def onlyIf (c : Bool) (f : State → State) (s : State) : State := if c then f s else s

/-! ### Sparse tables -/

def Tbl.get {α : Type} : Tbl α → Nat → Option α
  | [], _ => none
  | (k, v) :: t, i => if k = i then some v else Tbl.get t i

/-- The table with `v` at `i`, kept in rising order. -/
def Tbl.set {α : Type} : Tbl α → Nat → α → Tbl α
  | [], i, v => [(i, v)]
  | (k, w) :: t, i, v =>
    if k = i then (i, v) :: t else if i < k then (i, v) :: (k, w) :: t else (k, w) :: Tbl.set t i v

def Tbl.del {α : Type} (t : Tbl α) (i : Nat) : Tbl α := t.filter (fun p => p.1 != i)

def Tbl.getD {α : Type} (t : Tbl α) (i : Nat) (d : α) : α := (Tbl.get t i).getD d

/-- The numbers a table lists. -/
def Tbl.keys {α : Type} (t : Tbl α) : List Nat := t.map (·.1)

/-- `f` over the listed values. -/
def Tbl.mapV {α : Type} (t : Tbl α) (f : Nat → α → α) : Tbl α := t.map (fun p => (p.1, f p.1 p.2))

/-! ### Bits and words -/

/-- Bits hi down to lo of a word, as a number. -/
def bits (w : Word) (hi lo : Nat) : Nat := (w.toNat >>> lo) % 2 ^ (hi + 1 - lo)

def bit (w : Word) (i : Nat) : Bool := w.getLsbD i

/-- The word with bit `i` set where `b` holds. -/
def flag (b : Bool) (i : Nat) : Word := if b then BitVec.ofNat 32 (2 ^ i) else 0

/-- A number placed from bit `lo` on. -/
def fld (n lo : Nat) : Word := BitVec.ofNat 32 (n <<< lo)

def w32 (n : Nat) : Word := BitVec.ofNat 32 n

def b8 (n : Nat) : Byte := BitVec.ofNat 8 n

/-- The signed value of the low `n` bits of a number. -/
def signed (n v : Nat) : Int :=
  let v := v % 2 ^ n
  if v < 2 ^ (n - 1) then (v : Int) else (v : Int) - (2 ^ n : Nat)

/-- The little-endian number of a list of bytes (00_scope.md R6). -/
def leNat : List Byte → Nat
  | [] => 0
  | b :: t => b.toNat + 256 * leNat t

/-- The `n` little-endian bytes of a number. -/
def leBytes : Nat → Nat → List Byte
  | 0, _ => []
  | n + 1, v => b8 v :: leBytes n (v / 256)

def leWord (bs : List Byte) : Word := w32 (leNat bs)

/-- Bytes as little-endian words; a rest of fewer than four bytes is dropped. -/
def leWords : List Byte → List Word
  | a :: b :: c :: d :: t => leWord [a, b, c, d] :: leWords t
  | _ => []

/-- Words as little-endian bytes. -/
def wordsBytes (ws : List Word) : List Byte := ws.flatMap (fun w => leBytes 4 w.toNat)

/-- Element `i` of a list of words, 0 beyond its end. -/
def wd (ws : List Word) (i : Nat) : Word := ws.getD i 0

/-! ### Memory (01_device_overview.md R23) -/

/-- What an unlisted address reads as: start-up clears every store to zeros (R400). -/
def memDefault : Byte := 0

/-- The canonical form: addresses strictly rising, no entry equal to what an unlisted address reads as. -/
def cellsWf : List Host.Cell → Bool
  | [] => true
  | [(_, v)] => v != memDefault
  | (a, v) :: (b, w) :: t => v != memDefault && decide (a < b) && cellsWf ((b, w) :: t)

def Memory.wf (m : Memory) : Bool := cellsWf m.cells

/-- A byte of the die address space. -/
def Memory.read (m : Memory) (a : Nat) : Byte := Tbl.getD m.cells a memDefault

/-- The memory with a byte written, in canonical form. -/
def cellsWrite (cs : List Host.Cell) (a : Nat) (v : Byte) : List Host.Cell :=
  if v = memDefault then Tbl.del cs a else Tbl.set cs a v

def Memory.write (m : Memory) (a : Nat) (v : Byte) : Memory := { m with cells := cellsWrite m.cells a v }

def Memory.readN (m : Memory) (a : Nat) : Nat → List Byte
  | 0 => []
  | n + 1 => m.read a :: Memory.readN m (a + 1) n

def Memory.writeN (m : Memory) (a : Nat) : List Byte → Memory
  | [] => m
  | b :: t => Memory.writeN (m.write a b) (a + 1) t

/-- The memory with every byte from `a` on, `n` of them, at 0. -/
def Memory.zeroRange (m : Memory) (a n : Nat) : Memory :=
  { cells := m.cells.filter (fun c => !(decide (a ≤ c.1) && decide (c.1 < a + n)))
    checks := m.checks.filter (fun c => !(decide (a ≤ c.1 * 512) && decide (c.1 * 512 < a + n)))
    poison := m.poison.filter (fun w => !(decide (a ≤ w * 8) && decide (w * 8 < a + n))
      && !(decide (0xA0000000 ≤ w * 8) && decide (a ≤ (w * 8 - 0xA0000000) * 64) && decide ((w * 8 - 0xA0000000) * 64 < a + n))) }

/-- The regions of Table 1-2. -/
inductive Region
  | near (c : Nat)
  | herd
  | taskMem
  | column (c : Nat)
  | reserved
  deriving DecidableEq, Repr

/-- The region of a die address (01_device_overview.md Table 1-2). -/
def region (a : Nat) : Region :=
  if a < 0x10000000 then .near (a / 0x100000)
  else if a < 0x16000000 then .herd
  else if a < 0x16800000 then .taskMem
  else if a < 0x20000000 then .reserved
  else if a < 0xA0000000 then .column ((a - 0x20000000) / 0x800000)
  else .reserved

/-- First die address of a core's near store and stacked column. -/
def nearBase (c : Nat) : Nat := c * 0x100000
def columnBase (c : Nat) : Nat := 0x20000000 + c * 0x800000

/-- The core whose near store or column holds the address, if any. -/
def regionCore (a : Nat) : Option Nat :=
  match region a with
  | .near c => some c
  | .column c => some c
  | _ => none

def State.mapMem (s : State) (f : Memory → Memory) : State := { s with mem := f s.mem }

/-! ### Cores -/

/-- A tile as it stands after reset (05_accumulation.md R130): every element +0, extent empty. -/
def Tile.empty : Tile :=
  { elems := [], holder := none, extent := none, groups := 0, boundLost := false, ovfAny := false,
    inexAny := false, arrAny := false, scale := 0, freeAt := 0 }

def W64.zero : W64 :=
  { sig := 0, exp := 0, comp := 0, ovf := false, inexact := false, arrival := false,
    negZero := false, lost := false }

def Desc.zero : Desc :=
  { format := 0, write := false, feed := 0, dims := 0, convEn := false, gather := 0, ich := 0,
    index := false, qdepth := 0, base := 0, lens := [], strides := [], scale := 0, conv := 0,
    bufBase := 0, halfBlk := 0, rate := 0, burst := 0 }

/-- An unarmed channel (07_streams.md R197). -/
def Chan.idle : Chan :=
  { armed := false, desc := Desc.zero, descAddr := 0, base := 0, scale := 0, conv := 0, word0 := 0,
    task := none, done := 0, fetched := 0, landed := 0, flights := [], tokens := 0, useHalf := 0,
    swaps := 0, auth := 0, walked := 0, walkIn := 0, stored := 0, filled := 0, armedAt := 0, reqAt := none, primed := false,
    waiting := false, waitFc := 0, excuse := 0, outBuf := [], runEnd := 0, begun := 0, blocks := 0, rearm := none, disarm := none, chain := none,
    pred := ⟨[], none⟩, idxBase := 0, marked := [], plan := none }

/-- An empty codebook slot (03_numbers_codebooks.md Table 3-7). -/
def CbSlot.empty : CbSlot :=
  { books := [], wide := false, loading := false, failed := false, claims := [], pins := [],
    granted := 0, parity := false, group := 0, marks := [] }

/-- A core with nothing in progress, as after reset (Table 15-2). -/
def Core.idle : Core :=
  { prog := none, seq := 0, tileA := Tile.empty, tileB := Tile.empty, arrQ := [], mm := none,
    drQ := [], dr := none, attQ := [], att := none, chans := [], slots := [], loads := [],
    load := none, drove := [], fins := [], nonfin := 0, marked := [] }

def State.core (s : State) (c : Nat) : Core := Tbl.getD s.cores c Core.idle

def State.setCore (s : State) (c : Nat) (k : Core) : State := { s with cores := Tbl.set s.cores c k }

def State.mapCore (s : State) (c : Nat) (f : Core → Core) : State := s.setCore c (f (s.core c))

def Core.chan (k : Core) (i : Nat) : Chan := Tbl.getD k.chans i Chan.idle

def Core.setChan (k : Core) (i : Nat) (h : Chan) : Core := { k with chans := Tbl.set k.chans i h }

def Core.slot (k : Core) (i : Nat) : CbSlot := Tbl.getD k.slots i CbSlot.empty

def Core.setSlot (k : Core) (i : Nat) (v : CbSlot) : Core := { k with slots := Tbl.set k.slots i v }

/-- Tile A (false) or B (true). -/
def Core.tile (k : Core) (b : Bool) : Tile := if b then k.tileB else k.tileA

def Core.setTile (k : Core) (b : Bool) (t : Tile) : Core :=
  if b then { k with tileB := t } else { k with tileA := t }

/-! ### Time (00_scope.md R2, R3) -/

/-- Always-on time since start-up step 1, not wrapped: the device compares times by it. -/
def State.ac (s : State) : Nat := s.now / 40

/-- The always-on counter as registers and records show it, 48 bits. -/
def State.ac48 (s : State) : Nat := s.ac % 2 ^ 48

/-- `n` ac have passed on the always-on clock since the fast cycle `t`: how a time stated in seconds is measured (R3). -/
def State.acSince (s : State) (t n : Nat) : Bool := decide (t / 40 + n ≤ s.ac)

/-! ### Page slots (02_register_pages.md Table 2-1) -/

def slotCore (c : Nat) : Nat := 8 * c
def slotArr (c : Nat) : Nat := 8 * c + 1
def slotAtt (c : Nat) : Nat := 8 * c + 2
def slotStrm (c : Nat) : Nat := 8 * c + 3
def slotDrove (c : Nat) : Nat := 8 * c + 4
def slotFold (f : Nat) : Nat := 0x800 + f
def slotLink (p : Nat) : Nat := 0x880 + p
def slotRoute : Nat := 0x886
def slotHerd : Nat := 0x890
def slotDrvr : Nat := 0x8A0
def slotPwr : Nat := 0x8B0
def slotMgmt : Nat := 0x8C0
def slotTally : Nat := 0x8D0
def slotHost : Nat := 0x8E0
def slotPadk : Nat := 0x900
def slotBank (b : Nat) : Nat := 0x910 + b
def slotQueue (q : Nat) : Nat := 0x1000 + q

/-- The kinds of page of Table 2-1. -/
inductive PageKind
  | core (c : Nat)
  | arr (c : Nat)
  | att (c : Nat)
  | strm (c : Nat)
  | drove (c : Nat)
  | fold (f : Nat)
  | link (p : Nat)
  | route
  | herd
  | drvr
  | pwr
  | mgmt
  | tally
  | host
  | padk
  | bank (b : Nat)
  | queue (q : Nat)
  | none
  deriving DecidableEq, Repr

/-- What page a slot holds (R34). -/
def pageKind (slot : Nat) : PageKind :=
  if slot < 0x800 then
    match slot % 8 with
    | 0 => .core (slot / 8)
    | 1 => .arr (slot / 8)
    | 2 => .att (slot / 8)
    | 3 => .strm (slot / 8)
    | 4 => .drove (slot / 8)
    | _ => .none
  else if slot < 0x810 then .fold (slot - 0x800)
  else if slot < 0x880 then .none
  else if slot < 0x886 then .link (slot - 0x880)
  else if slot = 0x886 then .route
  else if slot = 0x890 then .herd
  else if slot = 0x8A0 then .drvr
  else if slot = 0x8B0 then .pwr
  else if slot = 0x8C0 then .mgmt
  else if slot = 0x8D0 then .tally
  else if slot = 0x8E0 then .host
  else if slot = 0x900 then .padk
  else if slot < 0x910 then .none
  else if slot < 0x950 then .bank (slot - 0x910)
  else if slot < 0x1000 then .none
  else if slot < 0x1400 then .queue (slot - 0x1000)
  else .none

/-- TYPE of a page (Table 2-4). -/
def pageType (slot : Nat) : Nat :=
  match pageKind slot with
  | .core _ => 0x01
  | .arr _ => 0x02
  | .att _ => 0x03
  | .strm _ => 0x04
  | .drove _ => 0x05
  | .fold _ => 0x10
  | .link _ => 0x30
  | .route => 0x30
  | .herd => 0x21
  | .drvr => 0x20
  | .pwr => 0x40
  | .mgmt => 0x41
  | .tally => 0x42
  | .host => 0x31
  | .padk => 0x22
  | .bank _ => 0x22
  | .queue _ => 0x31
  | .none => 0

/-- INSTANCE of a page (Table 2-1). -/
def pageInst (slot : Nat) : Nat :=
  match pageKind slot with
  | .core c | .arr c | .att c | .strm c | .drove c => c
  | .fold f => f
  | .link p => p
  | .route => 6
  | .bank b => 1 + b
  | .queue q => 1 + q
  | _ => 0

/-- Every slot that holds a page. -/
def allSlots : List Nat := (List.range 0x1400).filter (fun n => pageKind n != .none)

/-- BAR0 offset of a register of a page. -/
def regAt (slot off : Nat) : Nat := slot * 0x1000 + off

/-! ### Register words that are stored as such -/

/-- Reset value of a stored register word (00_scope.md R15 and the register tables). -/
def resetWord (a : Nat) : Word :=
  let off := a % 0x1000
  match pageKind (a / 0x1000) with
  | .pwr =>
    if off = 0x058 then 0x5F
    else if 0x200 ≤ off ∧ off < 0x260 then
      (if 0x240 ≤ off ∧ off < 0x258 then 0x4000C350 else 0x8000C350)
    else 0
  | .route => if off = 0x048 then 0x00104000 else if off = 0x04C then 0x100 else 0
  | .link _ => if off = 0x008 then 0x04000000 else 0
  | .padk => if off = 0x008 then 0x110 else 0
  | .mgmt => if off = 0x240 then 0x80000003 else if off = 0x104 then 0x003F0000 else 0
  | _ => 0

/-- A stored register word. -/
def State.rd (s : State) (a : Nat) : Word := Tbl.getD s.regs a (resetWord a)

def State.wr (s : State) (a : Nat) (v : Word) : State := { s with regs := Tbl.set s.regs a v }

/-- A stored register word of a page. -/
def State.reg (s : State) (slot off : Nat) : Word := s.rd (regAt slot off)

def State.setReg (s : State) (slot off : Nat) (v : Word) : State := s.wr (regAt slot off) v

/-- A write by software of a register that hardware updates too (00_scope.md R13). -/
def State.softReg (s : State) (slot off : Nat) (v : Word) : State :=
  { s.setReg slot off v with soft := if s.soft.contains (regAt slot off) then s.soft else s.soft ++ [regAt slot off] }

/-- A hardware update of a register: in the fc of a software write of it the software value is taken (R13). -/
def State.hardReg (s : State) (slot off : Nat) (v : Word) : State :=
  if s.soft.contains (regAt slot off) then s else s.setReg slot off v

/-- The page's stored words back at their reset values (R54), but for the offsets kept. -/
def State.dropPage (s : State) (slot : Nat) (keep : Nat → Bool) : State :=
  { s with regs := s.regs.filter (fun p => p.1 / 0x1000 != slot || keep (p.1 % 0x1000)) }

/-! ### Events of a page (R47) -/

/-- The bits of EVT_RAW that are 1 in a block that is idle after reset: the IDLE levels. -/
def idleLevels (slot : Nat) : Word :=
  match pageKind slot with
  | .arr _ => 4
  | .att _ => 4
  | .strm _ => 1
  | .drove _ => 1
  | .herd => 1
  | .drvr => 1
  | .padk => 1
  | .queue _ => 1
  | _ => 0

def State.evt (s : State) (slot : Nat) : EvtState := Tbl.getD s.evts slot ⟨0, idleLevels slot, 0, 0, false⟩

def State.setEvt (s : State) (slot : Nat) (e : EvtState) : State := { s with evts := Tbl.set s.evts slot e }

/-- Event condition `i` of the page is 1 for this fc. -/
def State.pulse (s : State) (slot i : Nat) : State :=
  s.setEvt slot { s.evt slot with pulses := (s.evt slot).pulses ||| flag true i }

/-- CTRL.EVT_OUT_EN and a latched, enabled event (R48). -/
def evtOut (s : State) (slot : Nat) : Bool :=
  bit (s.reg slot 0x008) 31 && ((s.evt slot).latch &&& s.reg slot 0x014) != 0

/-! ### Fault records (R49, R50) -/

def State.faultPage (s : State) (slot : Nat) : FaultPage := Tbl.getD s.faults slot ⟨[], 0, none⟩

/-- A fault joins those of earlier fast cycles, and in one fast cycle the lowest CODE is first (R50). -/
def faultInsert (r : FaultRec) : List FaultRec → List FaultRec
  | [] => [r]
  | q :: t => if q.time = r.time ∧ r.code < q.code then r :: q :: t else q :: faultInsert r t

/-- The page records a fault: it joins the queue of 4, or is counted as lost (R50). -/
def State.fault (s : State) (slot : Nat) (r : FaultRec) : State :=
  let p := s.faultPage slot
  let q := faultInsert { r with time := s.now } p.queue
  let p' := if q.length ≤ 4 then { p with queue := q }
            else { p with queue := q.take 4, lost := min 255 (p.lost + 1) }
  { s with faults := Tbl.set s.faults slot p' }

/-- STROBE_REFUSED (16_faults_recovery.md R412): register offset and bit, and the reason. -/
def State.strobeRefused (s : State) (slot off bitNo reason : Nat) : State :=
  s.fault slot { code := 0x0004, d0 := fld bitNo 16 ||| w32 off, d1 := w32 reason }

/-! ### What leaves the module -/

def State.emit (s : State) (o : Out) : State := { s with out := s.out ++ [o] }

/-! ### Free values (log entry 2) -/

/-- The state with the free counter advanced by `n`. -/
def State.draw (s : State) (n : Nat) : State := { s with free := s.free + n }

end Sys2Proof.Machine
end

