-- ==== Sys2Proof/Machine/Num.lean ====
section
/-! DEFINITION. Numbers: FP32 and BF16 with every rounding to nearest, ties to even (00_scope.md), the
W64 element and its add (05_accumulation.md R112 to R117), and block conversion (03_numbers_codebooks.md
R65 to R67). Sums are formed exactly as integers and narrowed once. -/

namespace Sys2Proof.Machine

/-! ### FP32 and BF16 -/

def fSign (w : Word) : Bool := bit w 31
def fExp (w : Word) : Nat := bits w 30 23
def fMan (w : Word) : Nat := bits w 22 0
def fIsInf (w : Word) : Bool := fExp w == 255 && fMan w == 0
def fIsNan (w : Word) : Bool := fExp w == 255 && fMan w != 0
def fFinite (w : Word) : Bool := fExp w != 255

def posInf : Word := 0x7F800000
def negInf : Word := 0xFF800000
def negZeroW : Word := 0x80000000
def oneF : Word := 0x3F800000

/-- The canonical quiet NaN (04_matrix_array.md R107). -/
def qNan : Word := 0x7FC00000

/-- An infinity of a sign. -/
def infOf (neg : Bool) : Word := if neg then negInf else posInf

def zeroOf (neg : Bool) : Word := if neg then negZeroW else 0

/-- Magnitude of a finite FP32 value in units of 2^-149. -/
def fMag (w : Word) : Nat :=
  if fExp w = 0 then fMan w else (fMan w + 2 ^ 23) * 2 ^ (fExp w - 1)

/-- A finite FP32 value in units of 2^-149. -/
def fInt (w : Word) : Int := if fSign w then -(fMag w : Int) else (fMag w : Int)

/-- A quotient rounded to nearest, ties to even. -/
def divEven (n d : Nat) : Nat :=
  let q := n / d
  let r := n % d
  if 2 * r < d then q else if 2 * r > d then q + 1 else if q % 2 = 0 then q else q + 1

/-- Code (without sign) of the magnitude (n/d) * 2^e rounded to nearest even, for a format of `sb`
stored significand bits whose least exponent is `qmin`; the code of infinity is 255 * 2^sb. `e` is an
integer, `d` a positive number. -/
def roundCode (sb : Nat) (qmin : Int) (n d : Nat) (e : Int) : Nat :=
  if n = 0 then 0 else
  -- an exponent q with (n/d) * 2^e < 2^(sb + 1 + q), and no smaller one above qmin
  let l : Int := (Nat.log2 n : Int) - (Nat.log2 d : Int)
  let go (q : Int) : Nat × Int :=
    let q := max q qmin
    let s := e - q
    (if 0 ≤ s then divEven (n * 2 ^ s.toNat) d else divEven n (d * 2 ^ (-s).toNat), q)
  -- n/d lies between 2^(l-1) and 2^(l+1)
  let low := go (l - 1 + e - sb)
  let r := if low.1 < 2 ^ (sb + 1) then low else go (l + e - sb)
  min (r.1 + (r.2 - qmin).toNat * 2 ^ sb) (255 * 2 ^ sb)

/-- The FP32 value nearest to a signed magnitude (n/d) * 2^e. -/
def round32 (neg : Bool) (n d : Nat) (e : Int) : Word :=
  w32 (roundCode 23 (-149) n d e) ||| zeroOf neg

/-- The BF16 code (16 bits) nearest to a signed magnitude. -/
def roundBf (neg : Bool) (n d : Nat) (e : Int) : Word :=
  w32 (roundCode 7 (-133) n d e) ||| (if neg then 0x8000 else 0)

/-- FP32 to BF16: stage 5 of R106. -/
def toBf (w : Word) : Word :=
  if fIsNan w then 0x7FC0
  else if fIsInf w then (w >>> 16)
  else roundBf (fSign w) (fMag w) 1 (-149)

/-- BF16 widened to FP32 exactly. -/
def ofBf (w : Word) : Word := (w <<< 16)

/-- IEEE 754 sum, round to nearest even (R106 stage 4). -/
def fAdd (a b : Word) : Word :=
  if fIsNan a || fIsNan b then qNan
  else if fIsInf a then (if fIsInf b && fSign a != fSign b then qNan else a)
  else if fIsInf b then b
  else
    let x := fInt a + fInt b
    if x = 0 then zeroOf (fSign a && fSign b && fMag a == 0 && fMag b == 0)
    else round32 (decide (x < 0)) x.natAbs 1 (-149)

/-- IEEE 754 product. -/
def fMul (a b : Word) : Word :=
  let neg := fSign a != fSign b
  if fIsNan a || fIsNan b then qNan
  else if fIsInf a then (if fIsInf b || fMag b != 0 then infOf neg else qNan)
  else if fIsInf b then (if fMag a != 0 then infOf neg else qNan)
  else round32 neg (fMag a * fMag b) 1 (-298)

/-- Quotient of finite values; a division by zero gives an infinity. -/
def fDiv (a b : Word) : Word :=
  let neg := fSign a != fSign b
  if fMag b = 0 then infOf neg else round32 neg (fMag a) (fMag b) 0

def fNeg (a : Word) : Word := a ^^^ negZeroW

/-- a < b for values that are not NaN; -0 equals +0. -/
def fLt (a b : Word) : Bool :=
  if fIsInf a then fSign a && !(fIsInf b && fSign b)
  else if fIsInf b then !fSign b
  else decide (fInt a < fInt b)

def fMax (a b : Word) : Word := if fLt a b then b else a

/-- Balanced pairwise tree of FP32 sums: neighbours are added level by level. -/
def pairUp : List Word → List Word
  | a :: b :: t => fAdd a b :: pairUp t
  | l => l

def treeGo : Nat → List Word → List Word
  | 0, l => l
  | n + 1, l => if l.length ≤ 1 then l else treeGo n (pairUp l)

/-- Sum by a balanced pairwise tree in order; +0 of an empty list. -/
def treeSum (l : List Word) : Word := (treeGo (Nat.log2 (l.length + 1) + 2) l).headD 0

/-! ### W64 (05_accumulation.md R112 to R117) -/

def W64.sigI (x : W64) : Int := x.sig.toInt
def W64.compI (x : W64) : Int := x.comp.toInt

/-- The value of an element with OVF = 0 in units of 2^-612 (R114). -/
def W64.val (x : W64) : Int := (x.sigI * 2 ^ 32 + x.compI) * 2 ^ x.exp.toNat

/-- SIG at an exponent: nearest integer, ties toward plus infinity (R115). -/
def sigAt (x : Int) (e : Nat) : Int := (x + 2 ^ (e + 31)) / 2 ^ (e + 32)

/-- The smallest exponent for which |SIG| < 2^47, and that SIG (R114); it may exceed 1,023. -/
def canonExp (x : Int) : Nat :=
  let e0 := Nat.log2 x.natAbs - 78
  if (sigAt x e0).natAbs < 2 ^ 47 then e0 else e0 + 1

/-- An element of given sign beyond the range (R117). -/
def W64.over (neg : Bool) : W64 :=
  { W64.zero with
    sig := if neg then BitVec.ofInt 48 (1 - 2 ^ 47) else BitVec.ofInt 48 (2 ^ 47 - 1)
    exp := 1023, ovf := true }

/-- The canonical element of an exact sum (R115, R117); INEXACT where a fraction is dropped. -/
def W64.ofExact (x : Int) : W64 :=
  if x = 0 then W64.zero else
  let e := canonExp x
  if 1023 < e then W64.over (decide (x < 0)) else
  let sig := sigAt x e
  let r := x - sig * 2 ^ (e + 32)
  let comp := r.tdiv (2 ^ e)
  { W64.zero with
    sig := BitVec.ofInt 48 sig, exp := BitVec.ofNat 10 e, comp := BitVec.ofInt 32 comp
    inexact := decide (comp * 2 ^ e ≠ r) }

/-- The element is zero with a negative sign (R113, R116). -/
def W64.isNegZero (x : W64) : Bool := !x.ovf && x.negZero && x.val == 0

/-- Sticky bits (R113): the result carries those of both operands. -/
def W64.stick (r a b : W64) : W64 :=
  { r with
    ovf := r.ovf || a.ovf || b.ovf
    inexact := r.inexact || a.inexact || b.inexact
    arrival := r.arrival || a.arrival || b.arrival
    lost := r.lost || a.lost || b.lost }

/-- The W64 add of a target and an operand (R115 to R117). -/
def W64.add (a b : W64) : W64 :=
  let r := if a.ovf then a
    else if b.ovf then W64.over (decide (b.sigI < 0))
    else { W64.ofExact (a.val + b.val) with negZero := a.isNegZero && b.isNegZero }
  r.stick a b

/-- A finite FP32 value as an addend (R116). -/
def W64.ofF32 (w : Word) : W64 :=
  { W64.ofExact (fInt w * 2 ^ 463) with negZero := fSign w && fMag w == 0 }

/-- A group value g * 2^(E - 133) (R116). -/
def W64.ofGroup (g : Int) (e : Nat) : W64 := W64.ofExact (g * 2 ^ (e + 479))

/-- The three words of an element (Table 5-1). -/
def W64.words (x : W64) : List Word :=
  [ w32 (x.sig.toNat % 2 ^ 32),
    flag x.ovf 31 ||| flag x.inexact 30 ||| flag x.arrival 29 ||| flag x.negZero 28 ||| flag x.lost 27
      ||| fld x.exp.toNat 16 ||| w32 (x.sig.toNat / 2 ^ 32),
    x.comp ]

/-- An element from its words; reserved bit [26] is ignored (Table 5-2). -/
def W64.ofWords (a b c : Word) : W64 :=
  { sig := BitVec.ofNat 48 (a.toNat + bits b 15 0 * 2 ^ 32), exp := BitVec.ofNat 10 (bits b 25 16),
    comp := c, ovf := bit b 31, inexact := bit b 30, arrival := bit b 29, negZero := bit b 28,
    lost := bit b 27 }

/-- Elements of a stream of words, 12 bytes each. -/
def w64List : List Word → List W64
  | a :: b :: c :: t => W64.ofWords a b c :: w64List t
  | _ => []

/-- An element is canonical (R114). -/
def W64.canonical (x : W64) : Bool :=
  let c := W64.ofExact x.val
  x.sig == c.sig && x.exp == c.exp && x.comp == c.comp

/-- An element as the device writes it (R114, R125): one that is not canonical by the W64 add of its value onto +0, which
may overflow (R117), with its STATUS bits. -/
def W64.loadForm (x : W64) : W64 :=
  if x.ovf then { W64.over (decide (x.sigI < 0)) with
      inexact := x.inexact, arrival := x.arrival, negZero := x.negZero, lost := x.lost }
  else if x.canonical then x
  else
    let c := W64.ofExact x.val
    { x with sig := c.sig, exp := c.exp, comp := c.comp, ovf := c.ovf, inexact := x.inexact || c.inexact }

/-- An element with OVF = 0 rounded once to FP32 (R106); its sign is that of the value. -/
def W64.toF32 (x : W64) : Word :=
  if x.ovf then infOf (decide (x.sigI < 0))
  else if x.val = 0 then zeroOf x.negZero
  else round32 (decide (x.val < 0)) x.val.natAbs 1 (-612)

/-- Sign of an element as R64 takes it. -/
def W64.neg (x : W64) : Bool :=
  if x.ovf then decide (x.sigI < 0) else if x.val = 0 then x.negZero else decide (x.val < 0)

/-- An element times a finite FP32 scale, rounded once to FP32 (R64). -/
def W64.scaled (x : W64) (sc : Word) : Word :=
  let neg := x.neg != fSign sc
  if x.ovf then (if fMag sc = 0 then qNan else infOf neg)
  else round32 neg (x.val.natAbs * fMag sc) 1 (-761)

/-! ### Block conversion (03_numbers_codebooks.md R65 to R67) -/

/-- round(x * 2^(133 - E)) to nearest even, of a finite FP32 value. -/
def roundAt (x : Word) (e : Nat) : Int :=
  -- x = fInt * 2^-149, so the exponent of the product is 133 - E - 149 = -16 - E
  let m := divEven (fMag x) (2 ^ (16 + e))
  if fSign x then -(m : Int) else m

/-- Limits of the mantissa, as m or as round(...) + z (R66, R67). -/
structure ConvForm where
  zpEn  : Bool
  z     : Nat
  limit : Nat
  deriving DecidableEq, Repr

def ConvForm.fits (f : ConvForm) (x : Word) (e : Nat) : Bool :=
  if f.zpEn then
    decide (0 ≤ roundAt x e + f.z) && decide (roundAt x e + f.z ≤ 255)
  else decide ((roundAt x e).natAbs ≤ f.limit)

/-- The smallest E from `e` on, `n` tries, at which every element fits. -/
def findExp (f : ConvForm) (xs : List Word) : Nat → Nat → Option Nat
  | 0, _ => none
  | n + 1, e => if xs.all (fun x => f.fits x e) then some e else findExp f xs n (e + 1)

/-- An exponent below which the largest magnitude cannot fit: the search for E starts here. -/
def expFloor (xs : List Word) : Nat :=
  let m := (xs.map fMag).foldl max 0
  -- at E the mantissa is about m / 2^(16+E); it exceeds 256 while m >= 2^(25+E)
  max 1 (Nat.log2 m - 25)

/-- E of a block, and whether the block saturates (R66, R67). -/
def blockExp (f : ConvForm) (xs : List Word) : Nat × Bool :=
  let e0 := min 254 (expFloor xs)
  match findExp f xs (255 - e0) e0 with
  | some e => (e, false)
  | none => (254, true)

/-- The operand that reaches the cell: m, or u - z. -/
def ConvForm.operand (f : ConvForm) (x : Word) (e : Nat) : Int :=
  let r := roundAt x e
  if f.zpEn then
    let v := r + f.z
    (if v < 0 then 0 else if 255 < v then 255 else v) - f.z
  else if r > f.limit then f.limit else if r < -(f.limit : Int) then -(f.limit : Int) else r

end Sys2Proof.Machine
end

