-- ==== Sys2Proof/Machine/Approx.lean ====
section
/-! DEFINITION. The functions whose results the spec gives to an error bound only: SiLU and GELU of the drain
(04_matrix_array.md Table 4-9) and the exponential of the attention unit (06_attention_kv.md R148). A function's value is
formed as an integer with 320 bits below the point, far beyond the bound. The unit's own result, a constant of Config
without a body, stands wherever it keeps the bound; where it does not, the FP32 value nearest to the exact one stands in
for it (log entry 9). -/

namespace Sys2Proof.Machine

/-- One, in units of 2^-320. -/
def fixOne : Nat := 2 ^ 320

/-- The series of e^-t from its `k`-th factor on, `n` factors: 1 - (t ÷ k)(1 - (t ÷ (k + 1))(...)), t below 1. -/
def expSeries (t : Nat) : Nat → Nat → Nat
  | 0, _ => fixOne
  | n + 1, k => fixOne - t * expSeries t n (k + 1) / (k * fixOne)

/-- A value squared `n` times. -/
def fixSquare : Nat → Nat → Nat
  | 0, x => x
  | n + 1, x => fixSquare n (x * x / fixOne)

/-- e^-t; below 2^-369 from t = 256 on, and then 0. -/
def expNeg (t : Nat) : Nat := if 256 * fixOne ≤ t then 0 else fixSquare 8 (expSeries (t / 256) 64 1)

/-- 2 × √(2 ÷ π), in units of 2^-320. -/
def twoRootTwoOverPi : Nat := 0x19884533d436508d0fcb3c500bab8e2ff4e0a7cc1449c1b63011c6d20098e74ba77e2b15511f4f6dc

/-- 1 ÷ (1 + e^u) where `e` is e^-|u| and `neg` tells whether -u, the argument of the function, is negative. -/
def logistic (e : Nat) (neg : Bool) : Nat := (if neg then e else fixOne) * fixOne / (fixOne + e)

/-- x × f, in units of 2^-469, for a finite FP32 value and a fraction. -/
def timesFix (x : Word) (f : Nat) : Int := fInt x * (f : Int)

/-- x ÷ (1 + e^(-x)), in units of 2^-469. -/
def siluExact (x : Word) : Int := timesFix x (logistic (expNeg (fMag x * 2 ^ 171)) (fSign x))

/-- The magnitude of 2 × 0.797885 (x + 0.044715 x³), 0.797885 being √(2 ÷ π), in units of 2^-320. -/
def geluArg (x : Word) : Nat :=
  let m := fMag x
  twoRootTwoOverPi * (m * 2 ^ 298 + 44715 * m ^ 3 / 1000000) / 2 ^ 447

/-- 0.5 x (1 + tanh(0.797885 (x + 0.044715 x³))), in units of 2^-469: half of one plus tanh u is 1 ÷ (1 + e^(-2u)). -/
def geluExact (x : Word) : Int := timesFix x (logistic (expNeg (geluArg x)) (fSign x))

/-- e^x of a finite value that is not positive, in units of 2^-469. -/
def expExact (x : Word) : Int := ((expNeg (fMag x * 2 ^ 171) * 2 ^ 149 : Nat) : Int)

/-- The bound of Table 4-9 and R148 about an exact value in units of 2^-469: 2 ulp of FP32, or 2^-126. -/
def unitBound (v : Int) : Nat := max (2 ^ Nat.log2 v.natAbs / 2 ^ 22) (2 ^ 343)

/-- An FP32 value keeps the bound about an exact value. -/
def keepsBound (y : Word) (v : Int) : Bool := fFinite y && decide ((fInt y * 2 ^ 320 - v).natAbs ≤ unitBound v)

/-- A unit's result where it keeps the bound, else the nearest FP32 value. -/
def bounded (y : Word) (v : Int) : Word := if keepsBound y v then y else round32 (decide (v < 0)) v.natAbs 1 (-469)

/-- SiLU of a finite value. -/
def siluOf (x : Word) : Word := bounded (Config.siluUnit x) (siluExact x)

/-- GELU, tanh form, of a finite value. -/
def geluOf (x : Word) : Word := bounded (Config.geluUnit x) (geluExact x)

/-- e^x of a finite value below 0; a result that exceeds 1 does not arise. -/
def expUnitOf (x : Word) : Word :=
  let r := bounded (Config.expUnit x) (expExact x)
  if fLt oneF r then oneF else r

end Sys2Proof.Machine
end

