-- ==== Sys2Proof/Machine/Hash.lean ====
section
/-! DEFINITION. The codes of published standards that the spec names and does not repeat: CRC-32 of IEEE
802.3 (00_scope.md Table 0-7), SHA-256 and HMAC (FIPS 180-4, FIPS 198-1), SHA-384. PRESUMED, log entry 13. -/

namespace Sys2Proof.Machine

/-! ### CRC-32 -/

def crcBit : Nat → Word → Word
  | 0, c => c
  | n + 1, c => crcBit n (if c.getLsbD 0 then (c >>> 1) ^^^ 0xEDB88320 else c >>> 1)

def crcGo (c : Word) : List Byte → Word
  | [] => c
  | b :: t => crcGo (crcBit 8 (c ^^^ b.setWidth 32)) t

/-- CRC-32 with the polynomial 0x04C1_1DB7. -/
def crc32 (bs : List Byte) : Word := crcGo 0xFFFFFFFF bs ^^^ 0xFFFFFFFF

/-! ### Big-endian words -/

def beNat : List Byte → Nat
  | bs => bs.foldl (fun n b => n * 256 + b.toNat) 0

def beBytes : Nat → Nat → List Byte
  | 0, _ => []
  | n + 1, v => b8 (v / 256 ^ n) :: beBytes n v

def chunksGo {α : Type} (n : Nat) : Nat → List α → List (List α)
  | 0, _ => []
  | _ + 1, [] => []
  | fuel + 1, l => l.take n :: chunksGo n fuel (l.drop n)

/-- Pieces of `n` elements. -/
def chunks {α : Type} (n : Nat) (l : List α) : List (List α) := chunksGo n (l.length + 1) l

/-! ### The secure hashes: both are one scheme over words of 32 or of 64 bits -/

/-- What the two hashes do not share: word width, rounds, bytes of the length field, and the rotations of the four mixing
functions; the last entry of the two for the schedule is a shift. -/
structure ShaKind where
  width  : Nat
  rounds : Nat
  field  : Nat
  mixA   : List Nat
  mixE   : List Nat
  old    : List Nat
  young  : List Nat
  deriving DecidableEq, Repr

def sha32 : ShaKind :=
  { width := 32, rounds := 64, field := 8, mixA := [2, 13, 22], mixE := [6, 11, 25], old := [7, 18, 3], young := [17, 19, 10] }

def sha64 : ShaKind :=
  { width := 64, rounds := 80, field := 16, mixA := [28, 34, 39], mixE := [14, 18, 41], old := [1, 8, 7], young := [19, 61, 6] }

/-- Primes below 410: the first 80. -/
def smallPrimes : List Nat :=
  (List.range 410).filter (fun n => decide (2 ≤ n) && (List.range 21).all (fun d => decide (d < 2) || decide (n ≤ d) || n % d != 0))

/-- The largest number of `b` bits whose power `e` is at most `n`, built from its highest bit down on `r`. -/
def rootGo (e n : Nat) : Nat → Nat → Nat
  | 0, r => r
  | b + 1, r => rootGo e n b (if (r + 2 ^ b) ^ e ≤ n then r + 2 ^ b else r)

/-- The first `w` bits of the fractional part of root `e` of `p`. -/
def rootBits (e w p : Nat) : BitVec w := BitVec.ofNat w (rootGo e (p * 2 ^ (e * w)) (w + 8) 0)

/-- Round constants: cube roots of the first primes. -/
def ShaKind.consts (k : ShaKind) : List (BitVec k.width) := (smallPrimes.take k.rounds).map (rootBits 3 k.width)

/-- Starting values: square roots of eight primes. -/
def ShaKind.start (k : ShaKind) (from_ : Nat) : List (BitVec k.width) :=
  ((smallPrimes.drop from_).take 8).map (rootBits 2 k.width)

/-- The exclusive-or of a word's rotations; where `shift` is set the last is a shift. -/
def mixWord {w : Nat} (x : BitVec w) (rots : List Nat) (shift : Bool) : BitVec w :=
  x.rotateRight (rots.getD 0 0) ^^^ x.rotateRight (rots.getD 1 0)
    ^^^ (if shift then x >>> rots.getD 2 0 else x.rotateRight (rots.getD 2 0))

/-- A further word of the schedule, which is kept newest first. -/
def ShaKind.more (k : ShaKind) (ws : List (BitVec k.width)) : List (BitVec k.width) :=
  (mixWord (ws.getD 1 0) k.young true + mixWord (ws.getD 14 0) k.old true + (ws.getD 6 0 + ws.getD 15 0)) :: ws

/-- The words of a block, oldest first. -/
def ShaKind.schedule (k : ShaKind) (blk : List Byte) : List (BitVec k.width) :=
  let first := (chunks (k.width / 8) blk).map (fun b => BitVec.ofNat k.width (beNat b))
  ((List.range (k.rounds - 16)).foldl (fun ws _ => k.more ws) first.reverse).reverse

/-- One round: of the eight words the first four and the last four move on by one place, a new word at the head of each. -/
def ShaKind.round (k : ShaKind) (v : List (BitVec k.width)) (x : BitVec k.width × BitVec k.width) : List (BitVec k.width) :=
  let at_ := fun i => v.getD i 0
  let choice := at_ 6 ^^^ (at_ 4 &&& (at_ 5 ^^^ at_ 6))
  let most := (at_ 0 &&& at_ 1) ||| (at_ 2 &&& (at_ 0 ||| at_ 1))
  let step := at_ 7 + mixWord (at_ 4) k.mixE false + choice + (x.1 + x.2)
  (step + mixWord (at_ 0) k.mixA false + most) :: (v.take 3 ++ (at_ 3 + step) :: (v.drop 4).take 3)

def ShaKind.block (k : ShaKind) (v : List (BitVec k.width)) (blk : List Byte) : List (BitVec k.width) :=
  List.zipWith (· + ·) v ((k.consts.zip (k.schedule blk)).foldl k.round v)

/-- A message with its padding: a 1 bit, zeros, and its length in bits, up to a whole block. -/
def ShaKind.padded (k : ShaKind) (m : List Byte) : List Byte :=
  let size := 2 * k.width
  let used := m.length + 1 + k.field
  m ++ (0x80 :: List.replicate ((size - used % size) % size) 0) ++ beBytes k.field (8 * m.length)

/-- The hash of a message as bytes. -/
def ShaKind.hash (k : ShaKind) (from_ : Nat) (m : List Byte) : List Byte :=
  ((chunks (2 * k.width) (k.padded m)).foldl k.block (k.start from_)).flatMap (fun w => beBytes (k.width / 8) w.toNat)

def sha256 (m : List Byte) : List Byte := sha32.hash 0 m

/-- SHA-384: six of the eight words. -/
def sha384 (m : List Byte) : List Byte := (sha64.hash 8 m).take 48

/-- HMAC-SHA-256 under a key of at most 64 bytes (FIPS 198-1). -/
def hmac256 (key msg : List Byte) : List Byte :=
  let pad := fun (x : Byte) => (List.range 64).map (fun i => key.getD i 0 ^^^ x)
  sha256 (pad 0x5c ++ sha256 (pad 0x36 ++ msg))

end Sys2Proof.Machine
end

