-- ==== Sys2Proof/Machine/Units.lean ====
section
/-! DEFINITION. Power domains, reset domains and hurdles as every family asks about them
(14_power_clocks.md R376 to R382, R464; 16_faults_recovery.md R413, R414, R419), sessions and
functions (13_host_sessions.md R347), and event messages (02_register_pages.md R48). -/

namespace Sys2Proof.Machine

/-! ### Switched domains -/

def domStart (d : Nat) : Dom :=
  { st := if 16 ≤ d ∧ d < 22 then .off else .run, target := none, waking := false,
    hold := false, commit := false, idle := 0 }

def State.dom (s : State) (d : Nat) : Dom := Tbl.getD s.power.doms d (domStart d)

def State.mapPower (s : State) (f : Power → Power) : State := { s with power := f s.power }

def State.setDom (s : State) (d : Nat) (v : Dom) : State :=
  s.mapPower (fun p => { p with doms := Tbl.set p.doms d v })

/-- Rank of a state: run highest. -/
def PSt.rank : PSt → Nat
  | .run => 3
  | .doze => 2
  | .nap => 1
  | .off => 0

/-- The stack periphery follows the folds (14_power_clocks.md R388). -/
def stackSt (s : State) : PSt :=
  let r := (List.range 16).foldl (fun m f => max m (s.dom f).st.rank) 0
  if r = 3 then .run else if r = 2 then .doze
  else if r = 1 then .nap else .off

/-- The state of a domain; Paddock storage follows domain 23 unless it is off (R389), the stack
periphery follows the folds (R388). -/
def State.domSt (s : State) (d : Nat) : PSt :=
  if d = 24 then
    if (s.dom 24).st = .off then .off
    else if (s.dom 23).st.rank ≥ 2 then .run else .nap
  else if d = 27 then stackSt s
  else (s.dom d).st

/-- What a fold, Herd logic or Paddock search logic between states counts as (R464). -/
def Dom.countsAs (d : Dom) : PSt :=
  match d.target with
  | some t => t
  | none => if d.waking then .doze else d.st

/-- What a domain counts as where the Drover charges wake demand (R382). -/
def Dom.chargeAs (d : Dom) : PSt :=
  match d.target with
  | some t => t
  | none => d.st

/-- DSTATE encoding of Table 2-7. -/
def PSt.code : PSt → Nat
  | .run => 0
  | .doze => 1
  | .nap => 2
  | .off => 3

/-! ### Pages and their domains (Table 2-1) -/

/-- The power domain of a page; `none` is the always-on domain. -/
def pageDom (slot : Nat) : Option Nat :=
  match pageKind slot with
  | .core c | .arr c | .att c | .strm c | .drove c => some (c / 16)
  | .fold f => some f
  | .link p => some (16 + p)
  | .route => some 26
  | .herd => some 22
  | .drvr => some 26
  | .host => some 25
  | .queue _ => some 25
  | .padk => some 23
  | .bank _ => some 23
  | _ => none

/-- A core number as an index; every core number of a page lies below 256. -/
def coreOf (n : Nat) : CoreId := Fin.ofNat 256 n

/-- The reset domain of a page (Table 2-1); the routing page has none. -/
def pageRDom (slot : Nat) : Option RDom :=
  match pageKind slot with
  | .core c | .arr c | .att c | .strm c | .drove c => some (.core (coreOf c))
  | .fold f => some (.fold (Fin.ofNat 16 f))
  | .link p => some (.port (Fin.ofNat 6 p))
  | .route => none
  | .herd => some .herd
  | .drvr => some .compute
  | .host => some .host
  | .queue _ => some .host
  | .padk => some .paddock
  | .bank _ => some .paddock
  | .pwr | .mgmt | .tally => some .mgmt
  | .none => none

/-- A reset domain contains another (16_faults_recovery.md R414), or equals it. -/
def rcovers : RDom → RDom → Bool
  | .module, _ => true
  | .compute, .compute => true
  | .compute, .fold _ => true
  | .compute, .core _ => true
  | .fold f, .core c => c.val / 16 == f.val
  | a, b => a == b

/-- The hurdle of a reset domain is raised: by a reset in progress, by the critical event of R394, or
because the module is failed (15_startup_module_edge.md R401). -/
def State.hurdled (s : State) (d : RDom) : Bool :=
  s.resets.runs.any (fun r => rcovers r.dom d) || s.resets.crit.any (fun r => rcovers r d)
    || (s.resets.compHurdle && rcovers .compute d)

/-- The domain's reset is asserted (16_faults_recovery.md R424). -/
def State.inReset (s : State) (d : RDom) : Bool :=
  s.resets.runs.any (fun r => r.phase == .asserted && rcovers r.dom d)

/-- STATUS.DSTATE of a page (Table 2-7). -/
def State.dstate (s : State) (slot : Nat) : Nat :=
  match pageRDom slot with
  | some d => if s.inReset d then 4 else
      match pageDom slot with
      | some p => (s.domSt p).code
      | none => 0
  | none =>
      match pageDom slot with
      | some p => (s.domSt p).code
      | none => 0

def State.pageHurdle (s : State) (slot : Nat) : Bool :=
  match pageRDom slot with
  | some d => s.hurdled d
  | none => false

/-- The page's logic runs: its domain is in run and it is not in reset. -/
def State.coreRuns (s : State) (c : Nat) : Bool :=
  (s.dom (c / 16)).st == .run && !s.inReset (.core (coreOf c))

/-! ### Event counters (17_sharal_tally.md R453) -/

/-- Counters of a page: 16 in a CORE page, 64 in the others that have any. -/
def counterCount (slot : Nat) : Nat :=
  match pageKind slot with
  | .core _ => 16
  | .fold _ | .herd | .drvr | .padk | .link _ | .host => 64
  | _ => 0

/-- The counters of a page that select an event count `n`, where MASK satisfies `ok`; a page out of run counts
nothing. -/
def countOn (s : State) (slot code n : Nat) (ok : Word → Bool) : State :=
  if s.dstate slot != 0 then s else
  (List.range (counterCount slot)).foldl (fun u i =>
    let v := u.reg slot (0xB00 + 4 * i)
    if bit v 31 && bits v 7 0 == code && ok v then
      u.setReg slot (0xC00 + 4 * i) (u.reg slot (0xC00 + 4 * i) + w32 n)
    else u) s

def anyMask (_ : Word) : Bool := true

/-- An event of a page of Table 17-11; a core's events also reach the counters of its fold whose MASK has its bit. -/
def countEvent (s : State) (slot code n : Nat) : State :=
  if !s.sharal.counting then s else
  match pageKind slot with
  | .core c => countOn (countOn s slot code n anyMask) (slotFold (c / 16)) code n (fun v => bit v (8 + c % 16))
  | _ => countOn s slot code n anyMask

/-- Flits of a virtual channel of a port: code 1 sent, 2 received. -/
def countFlits (s : State) (p code vc n : Nat) : State :=
  if s.sharal.counting then countOn s (slotLink p) code n (fun v => bit v (8 + vc)) else s

/-- The counter event of which a register counts the occurrences, as page and code (Table 17-11). -/
def eventOf (slot off : Nat) : Option (Nat × Nat) :=
  match pageKind slot with
  | .arr c =>
    let code := match off with
      | 0x050 => 0x02
      | 0x240 => 0x03
      | 0x244 => 0x04
      | 0x248 => 0x05
      | 0x24C => 0x06
      | 0x054 => 0x08
      | 0x058 => 0x09
      | 0x180 => 0x12
      | 0x184 => 0x13
      | _ => 0
    if code = 0 then none else some (slotCore c, code)
  | .att c => if off = 0x05C then some (slotCore c, 0x0A) else none
  | .strm c =>
    let code := match off with
      | 0x044 => 0x0D
      | 0x054 => 0x0E
      | 0x048 => 0x0F
      | _ => 0
    if code = 0 then none else some (slotCore c, code)
  | .drove c => if off = 0x044 then some (slotCore c, 0x10) else if off = 0x054 then some (slotCore c, 0x11) else none
  | .herd =>
    let code := match off with
      | 0x048 => 1
      | 0x044 => 2
      | 0x04C => 3
      | 0x050 => 4
      | 0x054 => 5
      | 0x060 => 6
      | _ => 0
    if code = 0 then none else some (slot, code)
  | .padk =>
    let code := match off with
      | 0x044 => 1
      | 0x048 => 2
      | 0x050 => 3
      | 0x054 => 4
      | _ => 0
    if code = 0 then none else some (slot, code)
  | .bank _ => if off = 0x060 then some (slotPadk, 5) else none
  | .drvr =>
    let code := match off with
      | 0x040 => 2
      | 0x044 => 3
      | 0x048 => 5
      | 0x04C => 6
      | 0x050 => 7
      | _ => 0
    if code = 0 then none else some (slot, code)
  | .link _ =>
    let code := match off with
      | 0x068 => 3
      | 0x058 => 4
      | 0x060 => 5
      | 0x064 => 6
      | _ => 0
    if code = 0 then none else some (slot, code)
  | _ => none

/-- A counting register of a page, wrapping at 2^32, with the event counters that count the same. -/
def State.bump (s : State) (slot off n : Nat) : State :=
  let s1 := s.setReg slot off (s.reg slot off + w32 n)
  match eventOf slot off with
  | some e => countEvent s1 e.1 e.2 n
  | none => s1

/-! ### The trace ring (17_sharal_tally.md R451, R452) -/

/-- The queue in front of the writer: one for each fold, 16 for the die-level units. -/
def traceQueue (slot : Nat) : Nat :=
  match pageKind slot with
  | .core c | .arr c | .att c | .strm c | .drove c => c / 16
  | .fold f => f
  | _ => 16

/-- An entry of Table 17-8. -/
def traceWords (s : State) (kind slot inst ctx task : Nat) (d : List Word) : List Word :=
  let t := s.now - s.sharal.trStart
  [ fld kind 24 ||| fld (pageType slot) 16 ||| w32 (pageInst slot), fld (t / 2 ^ 32 % 65536) 16 ||| w32 (inst % 65536), w32 t,
    fld ctx 12 ||| w32 task, wd d 0, wd d 1, wd d 2, wd d 3 ]

/-- The entry's class is enabled, and its context passes the filter (R452). -/
def traceWanted (s : State) (cls kind ctx : Nat) : Bool :=
  let v := s.reg slotMgmt 0x300
  s.sharal.tracing && bit v cls
    && (!bit v 8 || kind == 0x0E || kind == 0x0F || bits (s.reg slotMgmt 0x318) 13 0 == ctx)

/-- A traced event enters its queue of 64, after a LOST entry where entries of it were dropped, or is dropped. -/
def traceEv (s : State) (cls kind slot inst ctx task : Nat) (d : List Word) : State :=
  if !traceWanted s cls kind ctx then s else
  let q := traceQueue slot
  let h := s.sharal
  let lost := Tbl.getD h.trDrop q 0
  let new := (if lost = 0 then [] else [(q, traceWords s 0x10 slot 0 0 0 [w32 lost])]) ++ [(q, traceWords s kind slot inst ctx task d)]
  if (h.trQ.filter (fun e => e.1 == q)).length + new.length ≤ 64 then
    { s with sharal := { h with trQ := h.trQ ++ new, trDrop := Tbl.del h.trDrop q } }
  else { s with sharal := { h with trDrop := Tbl.set h.trDrop q (lost + 1), trLost := h.trLost + 1 } }

/-- The writer stores up to two entries in an fc (R451); with WRAP = 0 tracing stops when the ring is full, and a full ring
takes no entry (R452). -/
def traceStore (s : State) (e : List Word) : State :=
  let h := s.sharal
  let wrap := bit (s.reg slotMgmt 0x300) 28
  if h.ring.length < 32768 then
    let full := !wrap && h.ring.length == 32767
    { s with sharal := { h with ring := h.ring ++ [e], tracing := h.tracing && !full, trFull := h.trFull || full } }
  else if wrap then { s with sharal := { h with ring := h.ring.drop 1 ++ [e] } }
  else s

def traceWrite (s : State) : State :=
  let es := s.sharal.trQ.take 2
  es.foldl (fun u e => traceStore u e.2) { s with sharal := { s.sharal with trQ := s.sharal.trQ.drop 2 } }

/-! ### Functions and sessions (13_host_sessions.md R347, R357) -/

def State.mapHost (s : State) (f : HostPort → HostPort) : State := { s with host := f s.host }

/-- Sessions open on a function, with their numbers. -/
def sessionsOf (s : State) (f : Nat) : List (Nat × Session) :=
  s.host.sessions.filter (fun p => p.2.func == f && !p.2.closing)

/-- A management function: function 0 while a session with MGMT privilege is open on it (R347). -/
def isMgmt (s : State) (f : FuncId) : Bool :=
  f.val == 0 && (sessionsOf s 0).any (fun p => p.2.priv.getLsbD 1)

/-- An owner function: function 0 while a session opened on key slot 0 is open on it (R347). -/
def isOwner (s : State) (f : FuncId) : Bool :=
  f.val == 0 && (sessionsOf s 0).any (fun p => p.2.slot == 0)

/-- The host can reach the module: the host port domain is in run and not in reset (R387). -/
def hostUp (s : State) : Bool := (s.dom 25).st == .run && !s.inReset .host

def HQueue.idle : HQueue :=
  { sess := none, func := 0, enable := false, draining := false, staged := [], bells := [], inflight := 0 }

def State.queue (s : State) (q : Nat) : HQueue := Tbl.getD s.host.queues q HQueue.idle

def State.setQueue (s : State) (q : Nat) (v : HQueue) : State :=
  s.mapHost (fun h => { h with queues := Tbl.set h.queues q v })

/-! ### Event messages (R48, R346) -/

/-- A message to the host, which HOST 0 may count as sent (17_sharal_tally.md Table 17-11): one for each access or
message. DESIGN CHOICE, log entry 76. -/
def State.toHost (s : State) (o : Out) : State := countEvent (s.emit o) slotHost 2 1

/-- An access or completion from the host, which HOST 0 may count as received. -/
def State.fromHost (s : State) : State := countEvent s slotHost 1 1

/-- A function answers memory requests and sends messages: it is in D0 and, a virtual function, enabled (R344). -/
def funcOn (s : State) (f : Nat) : Bool := !s.host.d3.contains f && (f == 0 || decide (f ≤ s.host.vfs))

/-- The host reaches the module through a function. -/
def answers (s : State) (f : FuncId) : Bool := hostUp s && funcOn s f.val

/-- Vector Control of a vector masks it, or its function sends nothing: the message stays pending. -/
def vectorHeld (s : State) (f v : Nat) : Bool :=
  !funcOn s f || bit (wd (Tbl.getD s.host.msix (32 * f + v) []) 3) 0

/-- An MSI-X message of a function (R346), or its pending bit where the vector is masked. -/
def sendVector (s : State) (f v : Nat) : State :=
  if vectorHeld s f v then s.mapHost (fun h => { h with
    pba := if h.pba.contains (32 * f + v) then h.pba else h.pba ++ [32 * f + v] })
  else s.toHost (.msix f v)

/-- The page sends one event message to each receiver: the MSI-X mapping, while the host port is up,
and Sharal (R48). A detached queue's page has no function to send to. -/
def evtMsg (s : State) (slot : Nat) : State :=
  let s1 := if hostUp s then
      match pageKind slot with
      | .queue q =>
        match (s.queue q).sess with
        | some _ => sendVector s (s.queue q).func (bits (s.reg slot 0x044) 4 0)
        | none => s
      | _ => sendVector s 0 (bits (s.reg slotHost 0x100) 4 0)
    else s
  s1.emit (.sharalMsg slot)

/-- After a write to EVT_LATCH, EVT_EN or CTRL: a message where the output is still asserted (R48).
A write that raises the output sends the one message of the rise. -/
def evtAfterWrite (s : State) (slot : Nat) : State := if evtOut s slot then evtMsg s slot else s

/-- An access counts as unsupported (00_scope.md R9): HOST instance 0 counts it and its UNSUPPORTED
event pulses (Tables 13-10, 13-13). -/
def unsupported (s : State) : State := (s.bump slotHost 0x108 1).pulse slotHost 2

/-! ### Wakes and entries -/

/-- Every DOM_STATE STATE field, to see whether a change pulses STATE_CHANGE (Table 14-15). -/
def domStates (s : State) : List PSt := (List.range 28).map s.domSt

/-- The stack periphery, or Paddock storage that is not off, is on its way to run with the domain it follows (R388, R389). -/
def followerWakes (s : State) (d : Nat) : Bool :=
  if d = 27 then s.domSt 27 != .run && (List.range 16).any (fun f => (s.dom f).waking)
  else d == 24 && s.domSt 24 == .nap && (s.dom 23).waking

/-- A lower state of the stack periphery, or of Paddock storage that follows, counts in ENTRIES; `was` is what it was. -/
def countFollower (was : PSt) (s : State) (d : Nat) : State :=
  if (s.domSt d).rank < was.rank then s.bump slotPwr 0x064 1 else s

/-- The state with domain `d` changed; STATE_CHANGE pulses where a STATE field changes. -/
def changeDom (s : State) (d : Nat) (v : Dom) : State :=
  let s0 := s.setDom d v
  let s1 := [24, 27].foldl (fun u x => if x = d then u else countFollower (s.domSt x) u x) s0
  if domStates s1 = domStates s then s1 else
  (List.range 28).foldl (fun u i =>
    if s1.domSt i = s.domSt i then u
    else traceEv u 5 0x0F slotPwr 0 0 0 [w32 i, w32 (s.domSt i).code, w32 (s1.domSt i).code]) (s1.pulse slotPwr 1)

/-- The domains that follow another and are on their way to run. -/
def wakers (s : State) : List Nat := [24, 27].filter (followerWakes s)

/-- A wake of a domain starts and counts in WAKES, with those of the domains that follow it; `was` are those that were
waking before. -/
def countWake (was : List Nat) (s : State) : State :=
  ((wakers s).filter (fun d => !was.contains d)).foldl (fun u _ => u.bump slotPwr 0x060 1) (s.bump slotPwr 0x060 1)

/-- A wake of one domain to run: reverses an entry to doze or nap (R381), or starts a wake from doze
or nap, which counts in WAKES. A domain in run, waking, off or entering off is left as it is. A reversed entry counts as a
wake from the state that was being entered: DESIGN CHOICE, log entry 124. -/
def wakeOne (s : State) (d : Nat) : State :=
  let v := s.dom d
  match v.target with
  | some .off => s
  | some t => countWake (wakers s) (changeDom s d { v with st := t, target := none, waking := true })
  | none =>
    if v.waking || v.st == .run || v.st == .off then s
    else
      let s1 := s.setDom d { v with waking := true }
      countWake (wakers s) s1

/-- A wake of a domain; the die network wakes with any other domain (R388). -/
def startWake (s : State) (d : Nat) : State := wakeOne (wakeOne s d) 26

/-- The die network and stream fabric is in run, and entering no other state. -/
def netRuns (s : State) : Bool := (s.dom 26).st == .run && (s.dom 26).target.isNone

/-- The entry of a domain to a lower state begins; it counts in ENTRIES. -/
def startEntry (s : State) (d : Nat) (t : PSt) : State :=
  let v := s.dom d
  ((s.setDom d { v with target := some t, waking := false }).mapPower (fun p => { p with entered := some s.now })).bump
    slotPwr 0x064 1

/-- A wake of a domain out of off (command ON, start-up). -/
def startOn (s : State) (d : Nat) : State :=
  let v := s.dom d
  wakeOne (countWake (wakers s) (s.setDom d { v with target := none, waking := true })) 26

end Sys2Proof.Machine
end

