-- ==== Sys2Proof/Machine/Store.lean ====
section
/-! DEFINITION. Blocks, check values and poison (07_streams.md R188 to R193, R467), and the stores as
a domain between states or behind a hurdle lets them be reached (14_power_clocks.md R383, R389). -/

namespace Sys2Proof.Machine

/-! ### The check value (R188) -/

/-- One round of `block_check` over a little-endian pair of bytes. -/
def checkRound (ac : Nat × Nat) (lo hi : Nat) : Nat × Nat :=
  let a := (ac.1 + (lo + 256 * hi)) % 65521
  (a, (ac.2 + a) % 65521)

def checkGo : Nat × Nat → List Byte → Nat × Nat
  | ac, x :: y :: t => checkGo (checkRound ac x.toNat y.toNat) t
  | ac, _ => ac

/-- `block_check` of R188. -/
def blockCheck (bs : List Byte) : Word :=
  let r := checkGo (0xb5, 0x63) bs
  w32 (r.2 * 65536 + r.1)

/-- The check value of a block of zeros, which an unlisted block carries (15_startup_module_edge.md R400). -/
def zeroCheck : Word := 0xB56300B5

def Memory.check (m : Memory) (blk : Nat) : Word := Tbl.getD m.checks blk zeroCheck

def Memory.setCheck (m : Memory) (blk : Nat) (v : Word) : Memory :=
  { m with checks := if v = zeroCheck then Tbl.del m.checks blk else Tbl.set m.checks blk v }

/-- The 512 bytes of a block. -/
def Memory.block (m : Memory) (blk : Nat) : List Byte := m.readN (blk * 512) 512

/-- The block's stored check value equals the computed one (R188). -/
def Memory.good (m : Memory) (blk : Nat) : Bool := m.check blk == blockCheck (m.block blk)

/-- The address by which the model names the side-array word of a block, beyond the die address space: one word for each
block. DESIGN CHOICE, log entry 103. -/
def sideAddr (blk : Nat) : Nat := 0xA0000000 + 8 * blk

/-- The side-array word of a block carries a poison mark (R193). -/
def Memory.sideBad (m : Memory) (blk : Nat) : Bool := m.poison.contains (sideAddr blk / 8)

/-- The poison marks without that of the block's side-array word: its check value is written anew (R193). -/
def sideCleared (l : List Nat) (blk : Nat) : List Nat := l.filter (fun w => w != sideAddr blk / 8)

/-- Words of a block, 0 to 63, that are poisoned. -/
def Memory.poisonIn (m : Memory) (blk : Nat) : List Nat :=
  (List.range 64).filter (fun w => m.poison.contains (blk * 64 + w))

/-- What verifying a block gives (R467): a poisoned word, or a computed check value that differs. -/
inductive Verdict
  | good
  | poisoned (word : Nat)
  | mismatch (computed : Word)
  deriving DecidableEq, Repr

/-- A read of this arm or run, which lists the words it has marked, has marked the word of a block that its verification
names (R193, Table 7-10). -/
def markedBy (l : List Nat) (blk w : Nat) : Bool := l.contains (blk * 64 + w) || (w == 0 && l.contains (sideAddr blk / 8))

/-- What the check value of a block decides: a poisoned side-array word cannot be compared, and counts as word 0 of the
block (log entry 103). -/
def Memory.compare (m : Memory) (blk : Nat) : Verdict :=
  if m.sideBad blk then .poisoned 0
  else if m.good blk then .good
  else .mismatch (blockCheck (m.block blk))

/-- Verification of a block, poisoned words first (R467). -/
def Memory.verify (m : Memory) (blk : Nat) : Verdict :=
  match m.poisonIn blk with
  | w :: _ => .poisoned w
  | [] => m.compare blk

/-- Verification of every block that the `n` bytes from `a` meet, in address order. -/
def Memory.verifyRange (m : Memory) (a n : Nat) : Verdict × Nat :=
  let first := a / 512
  let count := if n = 0 then 0 else (a + n - 1) / 512 + 1 - first
  ((List.range count).map (fun i => (m.verify (first + i), first + i))).foldl
    (fun acc v => if acc.1 = .good then v else acc) (.good, first)

/-- A word of a block lies wholly in the `n` bytes from `a`. -/
def wordCovered (blk w a n : Nat) : Bool :=
  decide (a ≤ blk * 512 + w * 8) && decide (blk * 512 + w * 8 + 8 ≤ a + n)

/-- What a merge of the `n` bytes from `a` finds in the old block (R182): poisoned words that the bytes
do not wholly cover, then a block that is not good. -/
def Memory.mergeVerify (m : Memory) (blk a n : Nat) : Verdict :=
  match (m.poisonIn blk).filter (fun w => !wordCovered blk w a n) with
  | w :: _ => .poisoned w
  | [] => m.compare blk

/-- The memory after bytes of one block are written with a new check value (R182, R189): a word that is
written whole loses its poison mark (R193). -/
def Memory.putPart (m : Memory) (a : Nat) (bs : List Byte) : Memory :=
  let blk := a / 512
  let m1 := m.writeN a bs
  let keep := m1.poison.filter (fun w => !(w / 64 == blk && wordCovered blk (w % 64) a bs.length))
  let m2 : Memory := { m1 with poison := sideCleared keep blk }
  m2.setCheck blk (blockCheck (m2.block blk))

/-- Bytes of any length written block by block, each block with a new check value. -/
def Memory.putGo : Nat → Memory → Nat → List Byte → Memory
  | 0, m, _, _ => m
  | _ + 1, m, _, [] => m
  | fuel + 1, m, a, bs =>
    let k := 512 - a % 512
    Memory.putGo fuel (m.putPart a (bs.take k)) (a + k) (bs.drop k)

def Memory.put (m : Memory) (a : Nat) (bs : List Byte) : Memory := Memory.putGo (bs.length / 512 + 2) m a bs

/-- A whole-block move (R190): bytes, check value and poison marks go together. -/
def Memory.moveBlock (m : Memory) (src dst : Nat) : Memory :=
  let m1 := m.writeN (dst * 512) (m.block src)
  let keep := m1.poison.filter (fun w => w / 64 != dst) ++ (m.poisonIn src).map (fun w => dst * 64 + w)
  let m2 : Memory := { m1 with poison := sideCleared keep dst ++ (if m.sideBad src then [sideAddr dst / 8] else []) }
  m2.setCheck dst (m.check src)

/-- The word at a die address gets a poison mark. -/
def Memory.mark (m : Memory) (a : Nat) : Memory :=
  if m.poison.contains (a / 8) then m else { m with poison := m.poison ++ [a / 8] }

/-- Every word of `n` bytes from `a` is marked as poisoned. -/
def Memory.markRange (m : Memory) (a n : Nat) : Memory :=
  (List.range ((a + n + 7) / 8 - a / 8)).foldl (fun u i => u.mark (8 * (a / 8 + i))) m

/-- A little-endian 32-bit word of memory. -/
def Memory.word (m : Memory) (a : Nat) : Word := leWord (m.readN a 4)

def Memory.words (m : Memory) (a n : Nat) : List Word := leWords (m.readN a (4 * n))

/-- The bytes lie in the die address space of Table 1-2 and in no reserved range; task memory counts
as reserved where `tm` is false. -/
def rangeOk (a n : Nat) (tm : Bool) : Bool :=
  let last := a + n - 1
  decide (0 < n) && decide (last < 0xA0000000)
    && (decide (last < 0x16000000) || (tm && decide (last < 0x16800000)) || decide (0x20000000 ≤ a))

/-! ### Whether a store can be reached from outside its domain -/

/-- Answers to an access from outside. -/
inductive Reach
  | ready
  | wait
  | closed
  | hurdle
  | reserved
  deriving DecidableEq, Repr

/-- The power domain that holds the store of an address. -/
def storeDom (a : Nat) : Option Nat :=
  match region a with
  | .near c => some (c / 16)
  | .column c => some (c / 16)
  | .herd => some 22
  | _ => none

/-- What an access from outside finds (R383, R389, R464; 16_faults_recovery.md Table 16-4). -/
def State.reach (s : State) (a : Nat) : Reach :=
  match region a with
  | .reserved => .reserved
  | .taskMem => .reserved
  | .herd =>
    match (s.dom 22).countsAs with
    | .run => .ready
    | .doze => .wait
    | _ => .closed
  | .near c =>
    if s.hurdled (.core (coreOf c)) then .hurdle else
    match (s.dom (c / 16)).countsAs with
    | .run => .ready
    | .doze => .wait
    | _ => .closed
  | .column c =>
    if s.hurdled (.core (coreOf c)) then .hurdle else
    match (s.dom (c / 16)).countsAs with
    | .run => .ready
    | .doze => .wait
    | _ => .closed

/-- The store port of an address: near and column ports of cores, the access port of the herd store. -/
def portOf (a : Nat) : Nat :=
  match region a with
  | .near c => 2 * c
  | .column c => 2 * c + 1
  | _ => 512

/-- A port's slot of this fc is still free. -/
def portFree (s : State) (p : Nat) : Bool := !s.slots.contains p

/-- A slot of a port is taken in this fc, and a second one in the next where `n` is 2 (R165, R182). -/
def takePort (s : State) (p n : Nat) : State := { s with slots := p :: (if n = 2 then [p + 1024] else []) ++ s.slots }

/-- Slots of a core's near or column port that have been used, as its counters see them (17_sharal_tally.md R453). -/
def countSlots (s : State) (a n : Nat) : State :=
  match region a with
  | .near c => countEvent s (slotCore c) 0x0B n
  | .column c => countEvent s (slotCore c) 0x0C n
  | _ => s

/-- An access from outside has been served in the domain of the address: idle time starts anew (R380). -/
def touchDom (s : State) (a : Nat) : State :=
  match storeDom a with
  | some d => s.setDom d { s.dom d with idle := s.now }
  | none => s

end Sys2Proof.Machine
end

