-- ==== Sys2Proof/Machine/Operands.lean ====
section
/-! DEFINITION. Operand forms: stream descriptors (07_streams.md Table 7-2), walks and gathers (R170,
R171), elements of memory by format (03_numbers_codebooks.md Table 3-1), and the latency of a store. -/

namespace Sys2Proof.Machine

/-! ### Formats -/

/-- Size of an element in half-bytes (Table 3-1); 0 for a reserved code. -/
def fmtNibs : Nat → Nat
  | 0 => 2
  | 1 => 4
  | 2 => 8
  | 3 => 1
  | 4 => 2
  | 5 => 8
  | _ => 0

/-- An element at a half-byte address. -/
def Memory.elem (m : Memory) (nibs addr : Nat) : Word :=
  if nibs = 1 then
    let b := (m.read (addr / 2)).toNat
    w32 (if addr % 2 = 0 then b % 16 else b / 16)
  else leWord (m.readN (addr / 2) (nibs / 2))

/-! ### Descriptors -/

/-- The fields of a stream descriptor from its 16 words (Table 7-2). -/
def parseDesc (ws : List Word) : Desc :=
  let w0 := wd ws 0
  { format := bits w0 31 28, write := bit w0 27, feed := bits w0 26 25, dims := bits w0 24 23,
    convEn := bit w0 22, gather := bits w0 21 20, ich := bits w0 19 17, index := bit w0 16,
    qdepth := bits w0 15 12, base := (wd ws 1).toNat,
    lens := (List.range 4).map (fun i => bits (wd ws (2 + i)) 23 0),
    strides := (List.range 4).map (fun i => (wd ws (6 + i)).toInt),
    scale := wd ws 10, conv := wd ws 11, bufBase := (wd ws 12).toNat,
    halfBlk := bits (wd ws 13) 9 0, rate := bits (wd ws 14) 24 16, burst := bits (wd ws 14) 3 0 }

def Desc.len (d : Desc) (i : Nat) : Nat := if i ≤ d.dims then d.lens.getD i 0 else 1

def Desc.stride (d : Desc) (i : Nat) : Int := if i ≤ d.dims then d.strides.getD i 0 else 0

/-- Elements of one walk of dimensions 0 to DIMS (R170). -/
def Desc.count (d : Desc) : Nat := d.len 0 * d.len 1 * d.len 2 * d.len 3

/-- Displacement of element `n` of a walk, in elements (R170): dimension 0 runs fastest. -/
def Desc.disp (d : Desc) (n : Nat) : Int :=
  let n1 := n / d.len 0
  let n2 := n1 / d.len 1
  (n % d.len 0 : Nat) * d.stride 0 + (n1 % d.len 1 : Nat) * d.stride 1
    + (n2 % d.len 2 : Nat) * d.stride 2 + (n2 / d.len 2 : Nat) * d.stride 3

/-- Half-byte address of element `n` of a walk that starts at a half-byte address, modulo the 2^32 bytes that an address
names (log entry 49). -/
def Desc.nibFrom (d : Desc) (start : Int) (n : Nat) : Nat :=
  ((start + (fmtNibs d.format : Nat) * d.disp n) % ((2 ^ 33 : Nat) : Int)).toNat

/-- Half-byte address of element `n` of a walk that starts at a byte address. -/
def Desc.nibAt (d : Desc) (start n : Nat) : Nat := d.nibFrom ((2 * start : Nat) : Int) n

/-- Elements of one half (R180): the bytes of the elements are packed. -/
def Desc.perHalf (d : Desc) : Nat := d.halfBlk * 1024 / max 1 (fmtNibs d.format)

/-! ### Channels as walks -/

/-- Value of element `n` of an index channel, as a number and as its bits (R171). -/
def idxVal (s : State) (k : Core) (i n : Nat) : Word :=
  let h := k.chan i
  s.mem.elem 8 (h.desc.nibAt h.base n)

def Core.chSlot (k : Core) (i : Nat) : Option ChSlot := Tbl.get k.drove i

/-- This core is the bellwether of the slot's chain. -/
def ChSlot.lead (v : ChSlot) : Bool := !v.desc.fabric && v.pos == 0

/-- The walk of a slot's present generation, once its first block has brought it (08_drove_chains.md R206). -/
def ChSlot.src (v : ChSlot) : Option ChSrc := Tbl.get v.srcs v.gen

/-- The chain slot from whose ring a joined channel takes its blocks. -/
def joinedSlot (k : Core) (h : Chan) : Option (Nat × ChSlot) :=
  match h.chain with
  | some i =>
    match k.chSlot i with
    | some v => if v.lead then none else some (i, v)
    | none => none
  | none => none

/-- First byte of a channel's walk: BASE, or the bellwether's BASE for a joined channel (08_drove_chains.md R206). -/
def walkBase (k : Core) (h : Chan) : Nat :=
  match joinedSlot k h with
  | some (_, v) => (match v.src with | some c => c.base | none => 0)
  | none => h.base

/-- Half-byte address at which the walk starts that holds element `n` of a channel (R171): an offset gather counts in
elements of the format, an address gather names a block. -/
def walkStart (s : State) (k : Core) (h : Chan) (n : Nat) : Int :=
  if h.desc.gather = 0 then ((2 * walkBase k h : Nat) : Int)
  else
    let x := idxVal s k h.desc.ich (h.idxBase + n / max 1 h.desc.count)
    if h.desc.gather = 1 then ((2 * h.base : Nat) : Int) + ((fmtNibs h.desc.format : Nat) : Int) * x.toInt
    else ((x.toNat / 512 * 1024 : Nat) : Int)

/-- The run of a plan that holds element `n`: its number from `i` on, and the half-byte address of the element. -/
def planAt (nibs : Nat) : List (Nat × Nat) → Nat → Nat → Nat × Nat
  | [], i, _ => (i, 0)
  | (a, m) :: t, i, n => if n < m then (i, 2 * a + nibs * n) else planAt nibs t (i + 1) (n - m)

/-- Half-byte address in the walk of element `n` of a channel. -/
def chanNib (s : State) (k : Core) (h : Chan) (n : Nat) : Nat :=
  match h.plan with
  | some p => (planAt (fmtNibs h.desc.format) p 0 n).2
  | none =>
    if h.desc.gather = 0 then h.desc.nibFrom (walkStart s k h n) n
    else h.desc.nibFrom (walkStart s k h n) (n % max 1 h.desc.count)

/-- Elements of the whole stream (R170, R171). -/
def chanTotal (k : Core) (h : Chan) : Nat :=
  match h.plan with
  | some p => (p.map (·.2)).foldl (· + ·) 0
  | none =>
    if h.desc.gather = 0 then h.desc.count
    else h.desc.count * ((k.chan h.desc.ich).desc.count - h.idxBase)

/-- Half-byte address of element `n` in the halves of a channel (R180, R181): half 0 first, the elements packed. -/
def halfNib (h : Chan) (n : Nat) : Nat :=
  2 * (h.desc.bufBase + (n / max 1 h.desc.perHalf) % 2 * (512 * h.desc.halfBlk))
    + n % max 1 h.desc.perHalf * fmtNibs h.desc.format

/-- Half-byte address from which the consumer's queue takes element `n`: in the halves or in the walk (R179, R180). -/
def takeNib (s : State) (k : Core) (h : Chan) (n : Nat) : Nat :=
  if h.desc.feed = 1 then halfNib h n else chanNib s k h n

/-- Element `m` continues the walk of element `n`: the walks of two indices are two walks (R171). -/
def sameWalk (h : Chan) (n m : Nat) : Bool :=
  match h.plan with
  | some p => (planAt 0 p 0 n).1 == (planAt 0 p 0 m).1
  | none => h.desc.gather == 0 || n / max 1 h.desc.count == m / max 1 h.desc.count

/-- Elements from `n` on that lie in the block of element `n`, at most `fuel`: a transfer (R165). -/
def runLen (s : State) (k : Core) (h : Chan) (n total : Nat) : Nat → Nat → Nat
  | 0, acc => acc
  | fuel + 1, acc =>
    if n + acc < total ∧ sameWalk h n (n + acc) ∧ chanNib s k h (n + acc) / 1024 = chanNib s k h n / 1024
    then runLen s k h n total fuel (acc + 1) else acc

/-- Length of the transfer of the walk that starts at element `n`. -/
def transferLen (s : State) (k : Core) (h : Chan) (n : Nat) : Nat :=
  runLen s k h n (chanTotal k h) (chanTotal k h - n) 0

/-- Elements from `n` on in its block of the halves, up to the end of the half and of the stream. -/
def halfLen (k : Core) (h : Chan) (n : Nat) : Nat :=
  let per := 1024 / max 1 (fmtNibs h.desc.format)
  let at_ := n % max 1 h.desc.perHalf
  min (min (per - at_ % per) (h.desc.perHalf - at_)) (chanTotal k h - n)

/-- Length of a transfer into the queue of a read channel. -/
def queueLen (s : State) (k : Core) (h : Chan) (n : Nat) : Nat :=
  if h.desc.feed = 1 then halfLen k h n else transferLen s k h n

/-- Number of transfers that elements `a` to `b - 1` make, each as long as `len` says. -/
def runsIn (len : Nat → Nat) (b : Nat) : Nat → Nat → Nat
  | 0, _ => 0
  | fuel + 1, a => if a < b then 1 + runsIn len b fuel (a + max 1 (len a)) else 0

/-- Blocks of the queue (R179, R181), at most 17: of a read channel those fetched or in flight and not yet taken, of a
write channel those produced and not yet granted. -/
def queueFill (s : State) (k : Core) (h : Chan) : Nat :=
  if !h.desc.write then runsIn (queueLen s k h) h.fetched 17 h.done
  else if h.desc.feed = 1 then runsIn (halfLen k h) h.done 17 h.stored
  else runsIn (transferLen s k h) h.done 17 h.fetched

/-- Latency of a store for the stream engine of a core (Table 7-1); 40 fc for the herd store
(10_herd_engine.md R252). -/
def latency (c a : Nat) : Nat :=
  match region a with
  | .near n => if n = c then 2 else if n / 16 = c / 16 then 24 else 80
  | .column n => if n = c then 6 else if n / 16 = c / 16 then 24 else 80
  | _ => 40

/-- Priming time (R187) of a channel whose walk reaches a store at latency `l`: L + D_min, or L + 2 plus the fill of half 0
at the channel's rate. -/
def primeTime (l : Nat) (h : Chan) : Nat :=
  if h.desc.feed = 1 then l + 2 + (h.desc.halfBlk * 256 + max 1 h.desc.rate - 1) / max 1 h.desc.rate
  else l + (2 * h.desc.rate * (l + 8) + 511) / 512 + 1

/-! ### Instruction fields -/

def opcodeOf (w : Word) : Nat := bits w 31 24
def chOf (w : Word) : Nat := bits w 23 21

end Sys2Proof.Machine
end

