-- ==== Sys2Proof/Machine/Tasks.lean ====
section
/-! DEFINITION. Images, instances and tasks as the units see them, the fault of a task, and outcome
records (09_drover_graphs.md R226 to R247, Table 9-10; 13_host_sessions.md R362). -/

namespace Sys2Proof.Machine

def State.mapDrover (s : State) (f : Drover → Drover) : State := { s with drover := f s.drover }

/-! ### Images -/

/-- The image of a tenant under an index, in whatever state it is (R224). -/
def imageOf (s : State) (tenant index : Nat) : Option Image :=
  s.drover.images.find? (fun i => i.tenant == tenant && i.index == index)

/-- Pins are named by tenant x 1024 + index of their image. -/
def Image.key (i : Image) : Nat := i.tenant * 1024 + i.index

def setImage (s : State) (i : Image) : State :=
  s.mapDrover (fun d => { d with images := d.images.map (fun j => if j.key = i.key then i else j) })

/-- The command of an image has been answered by its last record. -/
def imageAnswered (s : State) (i : Image) : State :=
  let v := s.queue i.queue
  s.setQueue i.queue { v with inflight := v.inflight - 1 }

/-! ### The copies in task memory (01_device_overview.md R21; R224, R225) -/

/-- First die address of the Drover task memory (Table 1-2). -/
def taskMemBase : Nat := 0x16000000

/-- Bytes that the copies of images take together. -/
def copiesLen (l : List Image) : Nat := (l.map (·.size)).foldl (· + ·) 0

/-- RESIDE copies the image behind the copies of the images resident before it, byte for byte, with new check values:
that order and that place are the model's, DESIGN CHOICE, log entry 24. -/
def copyIn (s : State) (src size : Nat) : State :=
  s.mapMem (fun m => m.put (taskMemBase + copiesLen s.drover.images) (m.readN src size))

/-- An image leaves task memory: the copies behind it move down to its place, and zeros follow the last one. -/
def copyOut (s : State) (key : Nat) : State :=
  let ahead := s.drover.images.takeWhile (fun j => j.key != key)
  let gone := (s.drover.images.filter (fun j => j.key == key)).map (·.size)
  let a := taskMemBase + copiesLen ahead
  let size := gone.foldl (· + ·) 0
  let rest := copiesLen s.drover.images - copiesLen ahead - size
  s.mapMem (fun m => (m.put a (m.readN (a + size) rest)).put (a + rest) (List.replicate size 0))

/-! ### Tasks of an image -/

/-- The cores of a task's core set. -/
def TaskD.cores (t : TaskD) : List Nat := (List.range t.coreCount).map (fun i => t.coreFirst + i)

/-- The kinds of Table 9-4. -/
def kMatrix : Nat := 1
def kAttention : Nat := 2
def kHerd : Nat := 3
def kPaddock : Nat := 4
def kStream : Nat := 5
def kReduce : Nat := 6
def kCopy : Nat := 7
def kBarrier : Nat := 8

/-- A task that runs a program on cores (R465). -/
def TaskD.onCores (t : TaskD) : Bool := t.kind == 1 || t.kind == 2 || t.kind == 5 || t.kind == 6 || t.kind == 7

/-- The claims of a task in the order of its claim list. -/
def claimsOf (i : Image) (t : TaskD) : List Claim := (i.claims.drop t.claimFirst).take t.nclaim

def Claim.type (c : Claim) : Nat := bits c.w0 31 28

/-- Successors of a task. -/
def succsOf (i : Image) (t : TaskD) : List Nat := (i.edges.drop t.succFirst).take t.nsucc

/-- Predecessors of task `n` of an image. -/
def predsOf (i : Image) (n : Nat) : List Nat :=
  (List.range i.tasks.length).filter (fun p =>
    match i.tasks[p]? with
    | some t => (succsOf i t).contains n
    | none => false)

/-- Remote cores named by the channel claims of a task. -/
def remoteCores (i : Image) (t : TaskD) : List Nat :=
  (claimsOf i t).filterMap (fun c => if c.type = 3 ∧ bit c.w2 31 then some (bits c.w2 23 16) else none)

/-- The cores that an image's instances touch (14_power_clocks.md R382). -/
def touchedCores (i : Image) : List Nat :=
  (i.tasks.flatMap (fun t => (if t.onCores then t.cores else []) ++ remoteCores i t)).eraseDups

def hasKind (i : Image) (k : Nat) : Bool := i.tasks.any (fun t => t.kind == k)

/-- The folds that an image's instances touch. -/
def touchedFolds (i : Image) : List Nat := ((touchedCores i).map (· / 16)).eraseDups

/-! ### Instances and tasks -/

def findInst (s : State) (num : Nat) : Option Inst := s.drover.insts.find? (fun i => i.num == num)

def State.task (s : State) (t : Nat) : Option Task := Tbl.get s.drover.tasks t

def setTask (s : State) (t : Nat) (v : Task) : State :=
  s.mapDrover (fun d => { d with tasks := Tbl.set d.tasks t v })

def instOfTask (s : State) (t : Nat) : Option Inst :=
  match s.task t with
  | some k => findInst s k.inst
  | none => none

def imageOfTask (s : State) (t : Nat) : Option Image :=
  match instOfTask s t with
  | some i => imageOf s i.tenant i.image
  | none => none

/-- The descriptor of the task in a slot. -/
def taskD (s : State) (t : Nat) : Option TaskD :=
  match s.task t, imageOfTask s t with
  | some k, some i => i.tasks[k.idx]?
  | _, _ => none

/-- The claim list of the task in a slot. -/
def taskClaims (s : State) (t : Nat) : List Claim :=
  match taskD s t, imageOfTask s t with
  | some d, some i => claimsOf i d
  | _, _ => []

/-- The channel claim of a task for a channel, if it holds one (Table 9-5). -/
def chanClaim (s : State) (t ch : Nat) : Option Claim :=
  (taskClaims s t).find? (fun c => c.type == 3 && bits c.w0 2 0 == ch)

/-- A task holds a claim on a tile. -/
def claimsTile (s : State) (t : Nat) (b : Bool) : Bool :=
  (taskClaims s t).any (fun c => c.type == 1 && bit c.w0 0 == b)

def taskKind (s : State) (t : Nat) : Nat :=
  match taskD s t with
  | some d => d.kind
  | none => 0

def taskTenant (s : State) (t : Nat) : Nat :=
  match instOfTask s t with
  | some i => i.tenant
  | none => 0

def taskSess (s : State) (t : Nat) : Nat :=
  match instOfTask s t with
  | some i => i.sess
  | none => 0

/-! ### The fault of a task -/

/-- A fault record of a task: INFO2 and INFO3 name its context, slot, session and core (Table 2-11). -/
def taskRec (s : State) (t : Nat) (core : Option Nat) (code : Nat) (addr : Option Nat) (d0 d1 : Word) : FaultRec :=
  match instOfTask s t with
  | some i => { code := code, ctx := some i.ctx, task := some t, sess := some i.sess, core := core,
                addr := addr, d0 := d0, d1 := d1 }
  | none => { code := code, task := some t, core := core, addr := addr, d0 := d0, d1 := d1 }

/-- The Drover has to learn of a fault (R246): the instance stops issuing at once. -/
def wantAbort (s : State) (t : Nat) (code : Nat) : State :=
  match instOfTask s t with
  | some i =>
    let s1 := s.mapDrover (fun d => { d with aborts := d.aborts ++ [⟨i.num, code, some t⟩] })
    { s1 with cores := Tbl.mapV s1.cores (fun _ k =>
        match k.prog with
        | some p => if i.slots.contains p.task then { k with prog := some { p with stopped := true } } else k
        | none => k) }
  | none => s

/-- A unit's page records a fault of a task, and the Drover has to abort its instance. -/
def taskFault (s : State) (slot t : Nat) (core : Option Nat) (code : Nat) (addr : Option Nat)
    (d0 d1 : Word) : State :=
  wantAbort (s.fault slot (taskRec s t core code addr d0 d1)) t code

/-- An instance that a fault has already reached issues nothing more. -/
def aborting (s : State) (t : Nat) : Bool :=
  match s.task t with
  | some k => s.drover.aborts.any (fun a => a.inst == k.inst)
  | none => true

/-- A trace entry that names a task (17_sharal_tally.md Tables 17-8, 17-9). -/
def taskTrace (s : State) (cls kind slot t : Nat) (d : List Word) : State :=
  match instOfTask s t with
  | some i => traceEv s cls kind slot i.num i.ctx t d
  | none => traceEv s cls kind slot 0 0 t d

/-! ### Outcome records (13_host_sessions.md R362) -/

/-- Entries of a ring of order `n` (Table 13-14); orders above 12 act as 12. DESIGN CHOICE, log entry 12. -/
def ringSize (n : Nat) : Nat := 2 ^ (4 + min n 12)

def cqSize (s : State) (q : Nat) : Nat := ringSize (bits (s.reg (slotQueue q) 0x044) 15 12)
def sqSize (s : State) (q : Nat) : Nat := ringSize (bits (s.reg (slotQueue q) 0x044) 11 8)

/-- Free entries of a completion ring: a full ring keeps one entry free, so that equal pointers mean
empty. DEDUCED, log entry 12. -/
def cqFree (s : State) (q : Nat) : Nat :=
  let n := cqSize s q
  let used := ((s.reg (slotQueue q) 0x06C).toNat + n - (s.reg (slotQueue q) 0x068).toNat % n) % n
  n - 1 - used

/-- A record enters the staging of its queue, or is lost where neither the ring nor the staging has room
(R362). A queue that is no longer attached to the session takes no record (R358). -/
def postRec (s : State) (q sess : Nat) (r : ORec) : State :=
  let v := s.queue q
  if v.sess = some sess then
    if v.staged.length < 32 + cqFree s q then
      s.setQueue q { v with staged := v.staged ++ [{ r with time := s.ac48 }] }
    else (s.bump (slotQueue q) 0x070 1).pulse (slotQueue q) 2
  else s

/-- The four words of an outcome record (Table 9-10). -/
def ORec.words (r : ORec) : List Word :=
  [ fld r.kind 24 ||| fld r.reason 16 ||| w32 (r.cookie % 65536),
    fld r.fault 16 ||| w32 (r.inst % 65536),
    flag r.task.isSome 31 ||| fld r.ctx 12 ||| w32 (r.task.getD 0),
    w32 r.time ]

/-! ### Demand (R231, R233) -/

/-- Slot of a derived deadline in the ledgers as they stand. -/
def slotOf (s : State) (dline : Nat) : Nat := (dline - s.drover.slotBase) / 5000

/-- DEM of a ledger entry. -/
def ledgerDem (s : State) (col k : Nat) : Nat :=
  ((s.drover.demands.filter (fun d => d.col == col && slotOf s d.dline == k)).map (·.fc)).foldl (· + ·) 0

/-- FIRST of a ledger entry: the earliest derived deadline. -/
def ledgerFirst (s : State) (col k : Nat) : Option Nat :=
  ((s.drover.demands.filter (fun d => d.col == col && slotOf s d.dline == k)).map (·.dline)).min?

/-- A domain holds admitted demand or a running task (14_power_clocks.md R380, R390, R389). -/
def domDemand (s : State) (d : Nat) : Bool :=
  if d < 16 then
    s.drover.insts.any (fun i =>
      match imageOf s i.tenant i.image with
      | some m => (touchedFolds m).contains d
      | none => false)
  else if d = 22 then
    s.drover.insts.any (fun i =>
      match imageOf s i.tenant i.image with
      | some m => hasKind m kHerd || hasKind m kPaddock
      | none => false)
  else if d = 23 then
    s.drover.insts.any (fun i =>
      match imageOf s i.tenant i.image with
      | some m => m.tasks.any (fun t => t.kind == kPaddock || (claimsOf m t).any (fun c => c.type == 4))
      | none => false)
  else false

end Sys2Proof.Machine
end

