-- ==== Sys2Proof/Machine/Route.lean ====
section
/-! DEFINITION. Ralso packets, coordinates, routing and the queues of the port controllers
(12_ralso_fabric.md R317 to R326, R337). -/

namespace Sys2Proof.Machine

def State.mapFabric (s : State) (f : Fabric → Fabric) : State := { s with fabric := f s.fabric }

/-- A port before its first training. -/
def Port.start : Port :=
  { st := .down, reversed := false, peerPort := 0, peer := 0, polLo := 0, polHi := 0, txSeq := 0,
    replay := [], credits := [512, 512, 512, 512, 512, 512, 64], rxSeq := 0, discard := false, rxNaks := 0,
    nakSeq := 0, naks := 0, partial_ := none, rx := [], freed := [0, 0, 0, 0, 0, 0, 0], outQ := [],
    trainAt := 0 }

def State.port (s : State) (p : Nat) : Port := Tbl.getD s.fabric.ports p Port.start

def State.setPort (s : State) (p : Nat) (v : Port) : State :=
  s.mapFabric (fun f => { f with ports := Tbl.set f.ports p v })

/-! ### Packets (Tables 12-6, 12-7) -/

def tWrite : Nat := 2
def tRead : Nat := 3
def tReadData : Nat := 4
def tAtomic : Nat := 5
def tDoorbell : Nat := 6
def tAck : Nat := 7
def tMcBlock : Nat := 8
def tMcMarker : Nat := 9
def tMgmt : Nat := 10

/-- A packet with every field 0. -/
def Packet.zero : Packet :=
  { ptype := 0, vc := 0, dest := 0, src := 0, rtag := 0, addr := 0, opx := 0, len := 0, group := 0,
    gen := 0, seq := 0, checks := [], data := [] }

/-- First virtual channel of a packet's class (Table 12-4). -/
def vcBase (t : Nat) : Nat :=
  if t = tReadData ∨ t = tAck then 2 else if t = tMcBlock ∨ t = tMcMarker then 4
  else if t = tMgmt then 6 else 0

def isRequest (t : Nat) : Bool := t == tWrite || t == tRead || t == tAtomic || t == tDoorbell

/-- Flits of a packet with its header (Table 12-7). -/
def Packet.flits (p : Packet) : Nat := 1 + (p.data.length + 59) / 60

/-- The content of the header flit of a packet of `n` flits (Table 12-6). -/
def Packet.header (p : Packet) (n : Nat) : List Word :=
  [ fld p.ptype 28 ||| fld p.vc 25 ||| fld (n - 1) 16 ||| p.dest.setWidth 32,
    (p.src.setWidth 32 <<< 16) ||| p.rtag.setWidth 32,
    w32 p.addr,
    fld p.opx 24 ||| w32 p.len,
    w32 p.group,
    fld p.gen 24 ||| w32 (p.seq % 2 ^ 24) ]
  ++ (List.range 8).map (fun i => wd p.checks i) ++ [0]

/-- A flit: 15 words of content and their CRC-32 (R314). -/
def mkFlit (data : Bool) (content : List Word) : Flit :=
  let c := (List.range 15).map (fun i => wd content i)
  ⟨data, Vector.ofFn (fun i => if i.val < 15 then wd c i.val else crc32 (wordsBytes c))⟩

/-- Data flits of a payload: 60 bytes each, the last one padded with zeros (R314). -/
def dataFlits (data : List Byte) : List Flit :=
  (chunks 60 data).map (fun c => mkFlit true (leWords (c ++ List.replicate (60 - c.length) 0)))

/-- An idle flit: content 0. -/
def idleFlit : Flit := mkFlit false []

/-- The flits of a packet of `n` flits that are there, header first. -/
def Packet.allFlits (p : Packet) (n : Nat) : List Flit := mkFlit false (p.header n) :: dataFlits p.data

/-- A packet from the words of its header flit, its payload still to come. -/
def parseHeader (ws : List Word) : Packet × Nat :=
  ({ ptype := bits (wd ws 0) 31 28, vc := bits (wd ws 0) 27 25, dest := (wd ws 0).setWidth 16,
     src := BitVec.ofNat 16 (bits (wd ws 1) 31 16), rtag := (wd ws 1).setWidth 16,
     addr := (wd ws 2).toNat, opx := bits (wd ws 3) 31 24, len := bits (wd ws 3) 12 0,
     group := bits (wd ws 4) 11 0, gen := bits (wd ws 5) 31 24, seq := bits (wd ws 5) 23 0,
     checks := (List.range 8).map (fun i => wd ws (6 + i)), data := [] },
   bits (wd ws 0) 23 16)

/-! ### Coordinates (R320) -/

/-- The module's own coordinate. -/
def selfNode (s : State) : BitVec 16 := (s.reg slotRoute 0x040).setWidth 16

def selfValid (s : State) : Bool := bit (s.reg slotRoute 0x040) 31

/-- Coordinate in dimension 0 (X), 1 (Y) or 2 (Z). -/
def coordIn (n : BitVec 16) (d : Nat) : Nat :=
  match d with
  | 0 => n.toNat / 2048
  | 1 => n.toNat / 64 % 32
  | _ => n.toNat % 64

/-- Size of a dimension (Table 12-16, sizes minus 1). -/
def dimSize (s : State) (d : Nat) : Nat := coordIn ((s.reg slotRoute 0x044).setWidth 16) d + 1

/-- A coordinate lies in the torus. -/
def inDims (s : State) (n : BitVec 16) : Bool :=
  (List.range 3).all (fun d => decide (coordIn n d < dimSize s d))

def routeEntry (s : State) (i : Nat) : Word := Tbl.getD s.fabric.routes i 0

/-- Route-table index of a coordinate in a dimension (R322). -/
def entryIndex (n : BitVec 16) (d : Nat) : Nat :=
  match d with
  | 0 => coordIn n 0
  | 1 => 0x20 + coordIn n 1
  | _ => 0x40 + coordIn n 2

/-! ### Routing (R321, R324) -/

/-- Where a unicast packet goes from this module. -/
inductive Hop
  | here
  | out (port vc : Nat)
  | drop
  deriving DecidableEq, Repr

/-- The channel bit of a packet on its next link: 0 on entering a dimension, 1 from the dateline on
(R321). `inp` is the port through which it came, if any. -/
def channelBit (s : State) (vc : Nat) (inp : Option Nat) (port : Nat) : Nat :=
  let d := port / 2
  let n := dimSize s d
  let me := coordIn (selfNode s) d
  let kept := match inp with
    | some i => if i / 2 = d then vc % 2 else 0
    | none => 0
  let crosses := (port % 2 = 0 ∧ me + 1 = n) ∨ (port % 2 = 1 ∧ me = 0)
  if crosses then 1 else kept

def withBit (t b : Nat) : Nat := if t = tMgmt then 6 else vcBase t + b

/-- The first dimension in which a destination differs from the module. -/
def firstDim (s : State) (dest : BitVec 16) : Option Nat :=
  (List.range 3).find? (fun d => coordIn dest d != coordIn (selfNode s) d)

def portUp (s : State) (p : Nat) : Bool := (s.port p).st == .up

/-- The routing decision for a unicast packet. -/
def nextHop (s : State) (p : Packet) (inp : Option Nat) : Hop :=
  if !inDims s p.dest then .drop else
  match firstDim s p.dest with
  | none => .here
  | some d =>
    let e := routeEntry s (entryIndex p.dest d)
    if !bit e 31 then .drop else
    match bits e 1 0 with
    | 1 => if portUp s (2 * d) then .out (2 * d) (withBit p.ptype (channelBit s p.vc inp (2 * d))) else .drop
    | 2 =>
      let q := if dimSize s d = 2 then 2 * d else 2 * d + 1
      if portUp s q then .out q (withBit p.ptype (channelBit s p.vc inp q)) else .drop
    | _ => .drop

/-- A packet joins the queue of an output port. -/
def enqueueOut (s : State) (port : Nat) (p : Packet) (v : Via) : State :=
  let w := s.port port
  s.setPort port { w with outQ := w.outQ ++ [⟨p, v, s.now, 0, none, 0⟩] }

/-- A packet that the module itself is to act on. -/
def enqueueLocal (s : State) (p : Packet) (v : Via) : State :=
  s.mapFabric (fun f => { f with local_ := f.local_ ++ [⟨p, v, s.now, 0, none, 0⟩] })

/-- A packet or copy is dropped and counted in NO_ROUTE (R323, R324). -/
def countNoRoute (s : State) : State := (s.bump slotRoute 0x05C 1).pulse slotRoute 0

/-- A packet goes one hop on, or to local delivery; where it cannot, it is dropped (R324). -/
def sendOn (s : State) (p : Packet) (v : Via) : State :=
  match nextHop s p v.inp with
  | .here => enqueueLocal s p v
  | .out q vc => enqueueOut s q { p with vc := vc } v
  | .drop => countNoRoute s

/-! ### Packets of the module's own -/

/-- A packet of the module's own comes after every packet whose header flit has arrived. -/
def ownVia (s : State) (p : Packet) : Via := ⟨none, s.fabric.stamp, p.flits⟩

def nextStamp (s : State) : State := s.mapFabric (fun f => { f with stamp := f.stamp + 1 })

/-- The ACK of a request with a status (Table 12-9). -/
def ackOf (s : State) (p : Packet) (status : Nat) : Packet :=
  { Packet.zero with ptype := tAck, dest := p.src, src := selfNode s, rtag := p.rtag, opx := status }

/-- A response leaves for the source of its request. -/
def respond (s : State) (r : Packet) : State := sendOn (nextStamp s) r (ownVia s r)

/-- A unicast packet is routed; a request that is dropped is answered with NO_ROUTE (R324). -/
def routeUnicast (s : State) (p : Packet) (v : Via) : State :=
  match nextHop s p v.inp with
  | .drop =>
    let s1 := countNoRoute s
    if isRequest p.ptype then respond s1 (ackOf s1 p 7) else s1
  | _ => sendOn s p v

/-- A request of the module's own leaves (R327, R329). -/
def sendOwn (s : State) (p : Packet) : State := routeUnicast (nextStamp s) p (ownVia s p)

/-- A packet of the module's own leaves by a port (17_sharal_tally.md R450). -/
def sendBy (s : State) (port : Nat) (p : Packet) : State := enqueueOut (nextStamp s) port p (ownVia s p)

/-! ### Multicast (R323, R336) -/

/-- The ports of a group's entry that keep dimension order (R323). -/
def fwdOk (inp : Option Nat) (port : Nat) : Bool :=
  match inp with
  | none => true
  | some i => decide (i / 2 < port / 2) || (i / 2 == port / 2 && i != port)

/-- A branch, a port or 6 for local delivery, is pruned for a generation of a group (R336). -/
def pruned (s : State) (group gen port : Nat) : Bool := s.fabric.prunes.contains (group, gen, port)

/-- A multicast packet is copied to each port of its group's entry, in port order, and delivered here
where DELIVER is set (R323). -/
def routeMulticast (s : State) (p : Packet) (v : Via) : State :=
  let e := routeEntry s p.group
  if p.group < 0x080 ∨ !bit e 31 then countNoRoute s else
  let s1 := (List.range 6).foldl (fun t q =>
    if bit e (q + 2) then
      if !fwdOk v.inp q || !portUp t q then countNoRoute t
      else if p.ptype = tMcBlock ∧ pruned t p.group p.gen q then t
      else enqueueOut t q { p with vc := withBit p.ptype (channelBit t p.vc v.inp q) } v
    else t) s
  if bit e 30 ∧ ¬(p.ptype = tMcBlock ∧ pruned s1 p.group p.gen 6) then enqueueLocal s1 p v else s1

/-- A multicast packet of the module's own (R335). -/
def multicastOwn (s : State) (p : Packet) : State := routeMulticast (nextStamp s) p (ownVia s p)

/-- A block of a new generation clears the prunes of its group (R336). -/
def clearPrunes (s : State) (group gen : Nat) : State :=
  s.mapFabric (fun f => { f with prunes := f.prunes.filter (fun x => !(x.1 == group && x.2.1 != gen)) })

/-! ### Buffers (R317) -/

/-- A copy of the packet with a stamp still waits in the module. -/
def hasCopy (s : State) (stamp : Nat) : Bool :=
  (List.range 6).any (fun q => (s.port q).outQ.any (fun o => o.via.stamp == stamp))
  || s.fabric.local_.any (fun o => o.via.stamp == stamp)

/-- A packet is done with its buffer: it has come whole and been routed, and every copy has left. -/
def RxPkt.over (s : State) (r : RxPkt) : Bool := r.routed && r.left == 0 && !hasCopy s r.stamp

/-- A control flit: what has been received, and credits for flits freed (Table 12-3). -/
def controlWords (nak init : Bool) (seq : BitVec 12) (freed : List Nat) : List Word :=
  [ fld 1 28 ||| flag init 27 ||| flag nak 26 ||| seq.setWidth 32,
    w32 ((List.range 4).foldl (fun n i => n + (freed.getD i 0) % 256 * 256 ^ i) 0),
    w32 ((List.range 3).foldl (fun n i => n + (freed.getD (4 + i) 0) % 256 * 256 ^ i) 0) ]

/-- A port reports what it has received in order and what it has freed. -/
def sendControl (s : State) (p : Nat) : State :=
  let v := s.port p
  let part := v.freed.map (fun n => min n 255)
  (s.setPort p { v with freed := (v.freed.zip part).map (fun x => x.1 - x.2) }).emit
    (.control p (mkFlit false (controlWords false false (v.rxSeq - 1) part)))

/-- Packets that are over leave a port's buffers, and their credits go back (R317). -/
def settlePort (s : State) (p : Nat) : State :=
  let v := s.port p
  let gone := v.rx.filter (fun r => r.over s)
  if gone.isEmpty then s else
  let s1 := s.setPort p { v with rx := v.rx.filter (fun r => !r.over s)
                                 freed := gone.foldl (fun f r => f.modify r.vc (· + r.flits)) v.freed }
  if v.st = .up then sendControl s1 p else s1

def settle (s : State) : State := (List.range 6).foldl settlePort s

/-- The copies of a packet go. -/
def dropCopies (s : State) (stamp : Nat) : State :=
  let s1 := (List.range 6).foldl (fun u q =>
    let v := u.port q
    u.setPort q { v with outQ := v.outQ.filter (fun o => o.via.stamp != stamp) }) s
  s1.mapFabric (fun f => { f with local_ := f.local_.filter (fun o => o.via.stamp != stamp) })

/-- A packet of which not every flit will come is discarded, and what it held is free. DESIGN CHOICE, log entry 120. -/
def dropPartial (s : State) (p : Nat) : State :=
  let v := s.port p
  match v.partial_ with
  | some st =>
    settle (dropCopies (s.setPort p { v with
      partial_ := none, rx := v.rx.map (fun r => if r.stamp = st then { r with left := 0, routed := true } else r) }) st)
  | none => s

/-- Every packet in a port's buffers is discarded (R340). -/
def dropBuffers (s : State) (p : Nat) : State :=
  let v := s.port p
  v.rx.foldl (fun u r => dropCopies u r.stamp) (s.setPort p { v with rx := [], partial_ := none })

/-- The page in which a remote operation's fault is recorded: the port of the first hop, or port 0 (R343). -/
def firstHopPort (s : State) (dest : BitVec 16) : Nat :=
  match nextHop s { Packet.zero with dest := dest, ptype := tWrite } none with
  | .out q _ => q
  | _ => 0

end Sys2Proof.Machine
end

