-- ==== Sys2Proof/Machine/Drove.lean ====
section
/-! DEFINITION. Drove chains: slots, rings, credits, commit and cancel markers, detachment
(08_drove_chains.md R201 to R222), and the commands by which blocks, markers and credits travel. -/

namespace Sys2Proof.Machine

def Core.setChSlot (k : Core) (i : Nat) (v : ChSlot) : Core := { k with drove := Tbl.set k.drove i v }

def setSlotOf (s : State) (c i : Nat) (v : ChSlot) : State := s.mapCore c (fun k => k.setChSlot i v)

def State.mapChan (s : State) (c ch : Nat) (f : Chan → Chan) : State :=
  s.mapCore c (fun k => k.setChan ch (f (k.chan ch)))

/-- The slot in which a core holds a chain of an instance. -/
def Core.findChain (k : Core) (inst chain : Nat) : Option (Nat × ChSlot) :=
  k.drove.find? (fun p => p.2.inst == inst && p.2.chain == chain)

/-- The slot of another member of a slot's chain. -/
def memberSlot (s : State) (v : ChSlot) (c : Nat) : Option (Nat × ChSlot) := (s.core c).findChain v.inst v.chain

/-- Ring entries of a member. -/
def ChSlot.ringSize (v : ChSlot) : Nat := v.desc.ringBlk + 1

/-- Stall tolerance in fc (Table 8-1): 0 stands for the time of 4 blocks at the chain rate. -/
def ChainD.stallLimit (d : ChainD) : Nat :=
  if d.stall = 0 then (1024 + max 1 d.rate - 1) / max 1 d.rate else d.stall

/-- Hop latency between two cores (Table 8-4). -/
def hopLatency (a b : Nat) : Nat := if a / 16 = b / 16 then 24 else 80

/-! ### Generations (R207) -/

/-- A generation lies before the slot's present one, modulo 256. -/
def ChSlot.past (v : ChSlot) (gen : Nat) : Bool := decide (128 ≤ (gen + 256 - v.gen) % 256)

def ChSlot.committed (v : ChSlot) (gen : Nat) : Nat := Tbl.getD v.commits gen 0

/-- The next generation of a slot begins; what it keeps of generations gone by goes. A bellwether keeps their walks, from
which members catch up (R213). -/
def ChSlot.nextGen (v : ChSlot) : ChSlot :=
  let w := { v with gen := (v.gen + 1) % 256, nextSeq := 0, waitAt := none }
  { w with commits := w.commits.filter (fun p => !w.past p.1)
           cancels := w.cancels.filter (fun p => !w.past p.1)
           srcs := w.srcs.filter (fun p => v.lead || !w.past p.1)
           catching := match w.catching with
             | some g => if w.detached || !w.past g then some g else none
             | none => none }

/-- The member reads the committed blocks of its generation that will not come to it (R213, R214). -/
def ChSlot.catches (v : ChSlot) : Bool :=
  match v.catching with
  | some g => v.detached || !v.past g
  | none => false

/-- The chain delivers no block `seq` of the present generation any more (R209, R215). -/
def ChSlot.broken (v : ChSlot) (seq : Nat) : Bool :=
  match Tbl.get v.cancels v.gen with
  | some n => decide (n ≤ seq)
  | none => v.ended

/-! ### Who sends to whom (R201, R210 to R212) -/

/-- Members after position `pos`. -/
def membersAfter (d : ChainD) (pos : Nat) : List Nat := d.members.drop (pos + 1)

/-- Members before a slot's own, the nearest first. -/
def membersBefore (v : ChSlot) : List Nat := (v.desc.members.take v.pos).reverse

/-- Whether a member core is detached from the chain; a core without the slot counts as detached. -/
def memberDetached (s : State) (v : ChSlot) (c : Nat) : Bool :=
  match memberSlot s v c with
  | some p => p.2.detached
  | none => true

/-- A member that blocks come from: an attached one, or a head, which forwards what it reads (R216). -/
def ChSlot.sender (v : ChSlot) : Bool := !v.detached || (v.desc.fabric && v.pos == 0)

/-- The next attached successor of a slot (R212). -/
def successor (s : State) (v : ChSlot) : Option Nat :=
  (membersAfter v.desc v.pos).find? (fun c => !memberDetached s v c)

/-- The nearest predecessor that sends to a slot. -/
def predecessor (s : State) (v : ChSlot) : Option Nat :=
  (membersBefore v).find? (fun c =>
    match memberSlot s v c with
    | some p => p.2.sender
    | none => false)

/-- First block of a ring that has still to be sent on. -/
def ChSlot.unsent (v : ChSlot) : Option ChBlock := v.ring.find? (fun b => !b.sent)

/-- Blocks that a slot has still to send on. -/
def ChSlot.holds (v : ChSlot) : Nat := (v.ring.filter (fun b => !b.sent)).length

/-- A message enters the line of arrivals of a member. -/
def sendMsg (s : State) (v : ChSlot) (src dst : Nat) (b : Option ChBlock) (m : Option ChMark) (fwd : Bool) : State :=
  match memberSlot s v dst with
  | some (i, w) => setSlotOf s dst i { w with coming := w.coming ++ [⟨s.now + hopLatency src dst, b, m, fwd⟩] }
  | none => s

/-- A marker goes on from a core to the detached members that follow and to the next attached one, which forwards it (R210). -/
def forwardMark (s : State) (c : Nat) (v : ChSlot) (m : ChMark) : State :=
  let aside := (membersAfter v.desc v.pos).takeWhile (fun d => memberDetached s v d)
  let s1 := aside.foldl (fun t d => sendMsg t v c d none (some m) false) s
  match successor s v with
  | some d => sendMsg s1 v c d none (some m) true
  | none => s1

/-! ### The bellwether's markers (R208, R209, R216) -/

/-- The MC_MARKER of a chain that also sends to a multicast group (R335). -/
def mcMarker (s : State) (v : ChSlot) (m : ChMark) : State :=
  if v.lead && v.desc.mcast then
    multicastOwn s { Packet.zero with
      ptype := tMcMarker, src := selfNode s, group := v.desc.group, gen := m.gen, seq := m.n, opx := if m.cancel then 2 else 1 }
  else s

/-- The bellwether sends a marker down its chain and to its group. -/
def leadMark (s : State) (c : Nat) (v : ChSlot) (m : ChMark) : State := mcMarker (forwardMark s c v m) v m

/-- The bellwether commits blocks up to `n` of its generation (R208). -/
def leadCommit (s : State) (c i : Nat) (v : ChSlot) (n : Nat) : State :=
  if v.committed v.gen < n then
    let v1 := { v with commits := Tbl.set v.commits v.gen n }
    leadMark (setSlotOf s c i v1) c v1 ⟨false, v.gen, n, false⟩
  else s

/-- The bellwether cancels the rest of its generation (R209): its committed blocks are still sent on; `last` where no
generation follows. -/
def leadCancel (s : State) (c i : Nat) (v : ChSlot) (last : Bool) : State :=
  let n := v.committed v.gen
  let v1 := { v with cancels := Tbl.set v.cancels v.gen n, ended := last
                     ring := v.ring.filter (fun b => b.gen != v.gen || decide (b.seq < n)) }
  leadMark (setSlotOf s c i v1) c v1 ⟨true, v.gen, n, last⟩

/-! ### Credits (R211) -/

/-- The member to which the credit of an entry that a slot frees returns: the nearest that sends to it, and before it a
detached member that still has blocks to send and no credit for them. None where the slot itself is detached: its
predecessor no longer sends to it. DESIGN CHOICE, log entry 108. -/
def creditTo (s : State) (v : ChSlot) : Option Nat :=
  if v.detached then none else
  (membersBefore v).find? (fun c =>
    match memberSlot s v c with
    | some p => p.2.sender || decide (p.2.credits < p.2.holds)
    | none => false)

def returnCredits (s : State) (v : ChSlot) (c n : Nat) : State :=
  match creditTo s v with
  | some p =>
    match memberSlot s v p with
    | some (i, w) => setSlotOf s p i { w with back := w.back ++ List.replicate n (s.now + hopLatency c p) }
    | none => s
  | none => s

/-- Credits of a sender for the ring of a member: its entries that are neither in use, nor on their way, nor awaited by a
detached member between the two. -/
def freshCredits (s : State) (v : ChSlot) (d : Nat) : Nat :=
  match memberSlot s v d with
  | some (_, w) =>
    let held := ((membersAfter v.desc v.pos).take (w.pos - v.pos - 1)).map (fun c =>
      match memberSlot s v c with
      | some p => p.2.holds
      | none => 0)
    w.ringSize - (w.ring.length + (w.coming.filter (fun m => m.block.isSome)).length + held.foldl (· + ·) 0)
  | none => 0

/-- A sender starts to send to another member (R212, R214). -/
def sendTo (s : State) (v : ChSlot) (c d : Nat) : State :=
  match memberSlot s v c with
  | some (i, w) => setSlotOf s c i { w with credits := freshCredits s w d, back := [] }
  | none => s

/-- A slot keeps the blocks that are neither sent on and finished with, nor discarded. -/
def freeRing (s : State) (c i : Nat) (v : ChSlot) (keep : ChBlock → Bool) : State :=
  let r := v.ring.filter keep
  returnCredits (setSlotOf s c i { v with ring := r }) v c (v.ring.length - r.length)

/-- Blocks that have been forwarded and that the consumer has finished with leave the ring (R210). -/
def sweepRing (s : State) (c i : Nat) : State :=
  match (s.core c).chSlot i with
  | some v => freeRing s c i v (fun b => !(b.sent && b.used))
  | none => s

/-! ### Rings (R205, R206) -/

/-- The near-store address of a ring entry. -/
def ringAddr (c : Nat) (v : ChSlot) (entry : Nat) : Nat := nearBase c + v.desc.ringOff + 512 * entry

/-- A block as the module's stores hold it; mark 64 is that of its side-array word. -/
def grabBlock (s : State) (blk gen seq : Nat) (src : Option ChSrc) : ChBlock :=
  { entry := 0, gen := gen, seq := seq, addr := blk * 512, data := s.mem.block blk, check := s.mem.check blk,
    poison := s.mem.poisonIn blk ++ (if s.mem.sideBad blk then [64] else []), src := src, sent := false, used := true }

/-- Verification of a chain block (R467). -/
def ChBlock.verify (b : ChBlock) : Verdict :=
  match b.poison with
  | w :: _ => .poisoned (w % 64)
  | [] => if b.check = blockCheck b.data then .good else .mismatch (blockCheck b.data)

/-- A block is put into a ring entry as a whole-block move (R190, R205). -/
def ringWrite (s : State) (c : Nat) (v : ChSlot) (b : ChBlock) : State :=
  let a := ringAddr c v b.entry
  s.mapMem (fun m =>
    let m1 := m.writeN a b.data
    let keep := sideCleared (m1.poison.filter (fun w => w / 64 != a / 512)) (a / 512)
      ++ b.poison.map (fun w => if w = 64 then sideAddr (a / 512) / 8 else a / 512 * 64 + w)
    let m2 : Memory := { m1 with poison := keep }
    m2.setCheck (a / 512) b.check)

/-- The ring entry that the next block takes: the first free one from the last written on. -/
def ChSlot.freeEntry (v : ChSlot) : Nat :=
  let es := (List.range v.ringSize).map (fun j => (v.wr + j) % v.ringSize)
  (es.find? (fun e => !v.ring.any (fun b => b.entry == e))).getD (v.wr % v.ringSize)

/-- No consumer takes the block here any more: it is only sent on. -/
def ChSlot.spent (v : ChSlot) (b : ChBlock) : Bool :=
  v.left || v.past b.gen || (b.gen == v.gen && (v.broken b.seq || decide (b.seq < v.nextSeq)))

/-- A block enters a member's ring, over one slot of its near port (R218); the first block of a generation brings the
generation's walk (R206). A wait for this very block ends (R217). -/
def ringPut (s : State) (c i : Nat) (v : ChSlot) (b : ChBlock) : State :=
  let b1 := { b with entry := v.freeEntry, sent := b.sent, used := v.spent b }
  let awaited := b.gen == v.gen && b.seq == v.nextSeq
  let v1 := { v with ring := v.ring ++ [b1], wr := b1.entry + 1, recvGen := b.gen, recvSeq := b.seq
                     waitAt := if awaited then none else v.waitAt
                     srcs := match b.src with
                       | some x => if v.past b.gen then v.srcs else Tbl.set v.srcs b.gen x
                       | none => v.srcs }
  let s1 := (countSlots (takePort s (2 * c) 1) (nearBase c) 1).bump (slotDrove c) 0x044 1
  ringWrite (setSlotOf s1 c i v1) c v1 b1

def markSent (v : ChSlot) (b : ChBlock) : ChSlot :=
  { v with ring := v.ring.map (fun x => if x.gen = b.gen ∧ x.seq = b.seq then { x with sent := true } else x) }

/-! ### CHAIN_BLOCK_FORWARD -/

/-- A detached member whose task still runs is attached again by the first block of a new generation (R214), but not by
that of the generation in which it was detached. -/
def rejoins (s : State) (w : ChSlot) (b : ChBlock) : Bool :=
  w.detached && b.seq == 0 && w.catching != some b.gen &&
  (match w.task with
   | some t => !aborting s t && (match s.task t with | some k => k.st == .running | none => false)
   | none => false)

/-- The member to which a slot sends its next block. -/
def nextFor (s : State) (v : ChSlot) (b : ChBlock) : Option Nat :=
  (membersAfter v.desc v.pos).find? (fun c =>
    match memberSlot s v c with
    | some p => !p.2.detached || rejoins s p.2 b
    | none => false)

/-- A detached member is attached again from a block onwards; what it lacks of earlier generations it reads itself. -/
def ChSlot.attach (w : ChSlot) (gen : Nat) : ChSlot :=
  { w with detached := false, stallAt := none, catching := if w.gen = gen then none else some ((gen + 255) % 256) }

def attachNext (s : State) (c : Nat) (v : ChSlot) (b : ChBlock) (next : Option Nat) : State :=
  match next with
  | some d =>
    match memberSlot s v d with
    | some (j, w) => if w.detached then sendTo (setSlotOf s d j (w.attach b.gen)) v c d else s
    | none => s
  | none => s

/-- The multicast copy of a bellwether's block (R335); the first block of a generation carries BASE in ADDR. -/
def mcBlock (s : State) (v : ChSlot) (b : ChBlock) : State :=
  if v.lead && v.desc.mcast then
    multicastOwn (if b.seq = 0 then clearPrunes s v.desc.group b.gen else s) { Packet.zero with
      ptype := tMcBlock, src := selfNode s, group := v.desc.group, gen := b.gen, seq := b.seq, len := 512
      checks := [b.check], data := b.data
      addr := match b.src with
        | some x => x.base
        | none => b.addr }
  else s

/-- A block that a bellwether without a consumer forwards is verified (R205), as is one that leaves the
module (R335): a failure aborts the bellwether's task. -/
def leadVerifyFault (s : State) (c : Nat) (v : ChSlot) (b : ChBlock) : Option State :=
  if v.lead && (!v.desc.consumes || v.desc.mcast) then
    let ch := v.joined.getD 0
    match b.verify, v.task with
    | .good, _ => none
    | .poisoned w, some t =>
      some (taskFault s (slotStrm c) t (some c) 0x0003 (some (b.addr + 8 * w)) (w32 ch ||| fld w 8)
        (flag (((s.core c).chan ch).marked.contains (b.addr / 8 + w)) 0))
    | .mismatch x, some t =>
      some (taskFault ((s.bump (slotStrm c) 0x050 1).pulse (slotStrm c) 3) (slotStrm c) t (some c) 0x0002
        (some b.addr) (w32 ch) x)
    | _, none => none
  else none

/-- The channel of a bellwether without a consumer is taken from as its drove unit sends a block on, which commits the
block (R205, R208). -/
def leadPass (s : State) (c i : Nat) (v : ChSlot) (b : ChBlock) : State :=
  let ch := v.joined.getD 0
  let s1 := s.mapCore c (fun k =>
    let h := k.chan ch
    let e := h.done + queueLen s k h h.done
    k.setChan ch { h with done := e, runEnd := e, begun := h.begun + 1 })
  leadCommit s1 c i v (b.seq + 1)

/-- A slot sends a block to a member and, at the bellwether, to its group; the next block follows no sooner than 2 fc
later (R218). -/
def sendBlock (s : State) (c i : Nat) (v : ChSlot) (b : ChBlock) (next : Option Nat) : State :=
  let v1 := { markSent v b with credits := if next.isSome then v.credits - 1 else v.credits, sentAt := s.now + 2 }
  let s1 := setSlotOf s c i v1
  let s2 := match next with
    | some d => sendMsg s1 v1 c d (some { b with sent := false }) none false
    | none => s1
  let s3 := mcBlock s2 v1 b
  let s4 := if next.isNone && !(v.lead && v.desc.mcast) then s3 else s3.bump (slotDrove c) 0x040 1
  let s5 := if v.lead && !v.desc.consumes then leadPass s4 c i v1 b else s4
  sweepRing s5 c i

/-- The bellwether's task has met a fault and starts nothing further (07_streams.md R195). -/
def leadStopped (s : State) (v : ChSlot) : Bool :=
  v.lead && (match v.task with | some t => aborting s t | none => false)

/-- R211: a member sends its next block to the next attached successor while it holds a credit; the
bellwether also sends it to its group, and commits it where its channel has no consumer (R208). -/
def chainForward (s : State) (c i : Nat) : State :=
  match (s.core c).chSlot i with
  | none => s
  | some v =>
    match v.unsent with
    | none => s
    | some b =>
      if s.now < v.sentAt ∨ leadStopped s v then s else
      match leadVerifyFault s c v b with
      | some t => t
      | none =>
        let next := nextFor s v b
        let s1 := attachNext s c v b next
        match (s1.core c).chSlot i with
        | some w => if next.isSome && w.credits == 0 then s1 else sendBlock s1 c i w b next
        | none => s1

/-- CHAIN_BLOCK_FORWARD (R211). -/
def execChainBlockForward (c : CoreId) (slot : Fin 4) (s : State) : Res :=
  .next (onlyIf (s.coreRuns c.val) (fun t => chainForward t c.val slot.val) s)

/-! ### Arrivals (R210, R218) -/

/-- The first message of a member's line whose time has come: those of one sender come in the order in which it sent
them. -/
def ChSlot.arrived (v : ChSlot) (now : Nat) : Option ChMsg := v.coming.find? (fun m => decide (m.at_ ≤ now))

/-- The line without its first message that has arrived. -/
def takeMsg (now : Nat) : List ChMsg → List ChMsg
  | [] => []
  | m :: t => if m.at_ ≤ now then t else m :: takeMsg now t

/-- R218, R214: a block that has reached a member enters its ring, over a free slot of the near port. -/
def chainArrive (s : State) (c i : Nat) : State :=
  match (s.core c).chSlot i with
  | none => s
  | some v =>
    match v.arrived s.now with
    | some ⟨_, some b, _, _⟩ =>
      if !portFree s (2 * c) then s else
      ringPut s c i { v with coming := takeMsg s.now v.coming } b
    | _ => s

/-- CHAIN_BLOCK_ARRIVE (R218). -/
def execChainBlockArrive (c : CoreId) (slot : Fin 4) (s : State) : Res :=
  .next (chainArrive s c.val slot.val)

/-- A cancel marker discards the uncommitted blocks of its generation (R209). -/
def cancelRing (s : State) (c i : Nat) (v : ChSlot) (m : ChMark) : State :=
  let gone := (v.ring.filter (fun b => b.gen == m.gen && decide (m.n ≤ b.seq))).length
  let v1 := { v with cancels := Tbl.set v.cancels m.gen m.n, ended := v.ended || m.last }
  let s1 := freeRing (setSlotOf s c i v1) c i v1 (fun b => !(b.gen == m.gen && decide (m.n ≤ b.seq)))
  if gone = 0 then s1 else (s1.bump (slotDrove c) 0x048 gone).pulse (slotDrove c) 3

/-- A commit marker commits its block and every earlier one of its generation (R208); a wait for the next block's marker
ends where the marker covers it (R217). -/
def commitRing (s : State) (c i : Nat) (v : ChSlot) (m : ChMark) : State :=
  setSlotOf s c i { v with commits := Tbl.set v.commits m.gen (max (v.committed m.gen) m.n)
                           waitAt := if m.gen = v.gen ∧ v.nextSeq < m.n then none else v.waitAt }

/-- A marker takes effect on a member; one of a generation gone by has none. -/
def takeMark (s : State) (c i : Nat) (v : ChSlot) (m : ChMark) : State :=
  if v.past m.gen then setSlotOf s c i { v with ended := v.ended || m.last }
  else if m.cancel then cancelRing s c i v m else commitRing s c i v m

/-- R210: a marker that has reached a member takes effect there and goes on. -/
def chainMarker (s : State) (c i : Nat) : State :=
  match (s.core c).chSlot i with
  | none => s
  | some v =>
    match v.arrived s.now with
    | some ⟨_, none, some m, fwd⟩ =>
      let v1 := { v with coming := takeMsg s.now v.coming }
      let s1 := takeMark s c i v1 m
      if fwd then forwardMark s1 c v1 m else s1
    | _ => s

/-- CHAIN_MARKER_ARRIVE (R210). -/
def execChainMarkerArrive (c : CoreId) (slot : Fin 4) (s : State) : Res :=
  .next (chainMarker s c.val slot.val)

/-- CHAIN_CREDIT_RETURN (R211): the first returning credit reaches the sender. -/
def chainCredit (s : State) (c i : Nat) : State :=
  match (s.core c).chSlot i with
  | some v =>
    match v.back with
    | _ :: rest => setSlotOf s c i { v with credits := v.credits + 1, back := rest }
    | [] => s
  | none => s

def execChainCreditReturn (c : CoreId) (slot : Fin 4) (s : State) : Res :=
  .next (chainCredit s c.val slot.val)

/-! ### Stalls, detachment, timeouts (R211 to R217) -/

/-- The block that a member's predecessor holds for it and cannot send for want of a credit (R211). -/
def stalledBlock (s : State) (v : ChSlot) : Option ChBlock :=
  if v.detached || v.lead then none else
  match predecessor s v with
  | some p =>
    match memberSlot s v p with
    | some (_, w) => if w.credits = 0 then w.unsent else none
    | none => none
  | none => none

/-- A member stalls the chain. -/
def stalls (s : State) (v : ChSlot) : Bool := (stalledBlock s v).isSome

/-- A predecessor starts to send to the next attached member (R212). -/
def bypass (s : State) (v : ChSlot) (p : Option Nat) : State :=
  match p with
  | none => s
  | some c =>
    match memberSlot s v c with
    | some (_, w) =>
      match successor s w with
      | some d => sendTo s w c d
      | none => s
    | none => s

/-- The task that a slot serves, while it is not done. -/
def slotTask (s : State) (v : ChSlot) : Option Nat :=
  match v.task with
  | some t =>
    match s.task t with
    | some k => if k.st = .done ∨ v.left then none else some t
    | none => none
  | none => none

/-- A detachment is counted and traced (R220, R221). -/
def noteDetach (s : State) (c i gen seq : Nat) (v : ChSlot) : State :=
  let s1 := taskTrace s 4 0x0D (slotDrove c) (v.task.getD 0) [w32 i, w32 gen, w32 seq]
  (s1.bump (slotDrove c) 0x04C 1).pulse (slotDrove c) 4

/-- R211 to R213: the member is detached with block `seq` of a generation the first that it has not received; it catches up
while its allowance lasts, or its task is aborted. -/
def detachMember (s : State) (c i : Nat) (v : ChSlot) (gen seq : Nat) : State :=
  let pred := predecessor s v
  let v1 := { v with detached := true, stallAt := none, catching := if 0 < v.allow then some gen else none, allow := v.allow - 1 }
  let s1 := noteDetach (setSlotOf s c i v1) c i gen seq v
  let s2 := bypass s1 v1 pred
  if 0 < v.allow then s2 else
  match slotTask s v with
  | some t => taskFault s2 (slotDrove c) t (some c) 0x0312 none (w32 i ||| fld gen 8) (w32 seq)
  | none => s2

/-- CHAIN_DETACH (R211): a member that has stalled the chain for STALL_LIMIT fc. -/
def chainDetach (s : State) (c i : Nat) : State :=
  match (s.core c).chSlot i with
  | some v =>
    match v.stallAt, stalledBlock s v with
    | some t0, some b => if t0 + v.desc.stallLimit ≤ s.now then detachMember s c i v b.gen b.seq else s
    | _, _ => s
  | none => s

def execChainDetach (c : CoreId) (slot : Fin 4) (s : State) : Res :=
  .next (chainDetach s c.val slot.val)

/-- DROVE_TIMEOUT (R217): a member has waited ARRIVE_LIMIT fc for a block or its commit marker. -/
def droveTimeout (s : State) (c i : Nat) : State :=
  match (s.core c).chSlot i with
  | some v =>
    match v.waitAt, v.task with
    | some t0, some t =>
      if 0 < v.desc.arrive ∧ t0 + v.desc.arrive ≤ s.now then
        taskFault ((setSlotOf s c i { v with waitAt := none }).pulse (slotDrove c) 2) (slotDrove c) t (some c)
          0x0314 none (w32 i ||| fld v.gen 8) (w32 v.nextSeq)
      else s
    | _, _ => s
  | none => s

def execDroveTimeout (c : CoreId) (slot : Fin 4) (s : State) : Res :=
  .next (droveTimeout s c.val slot.val)

/-! ### Slots of an instance -/

/-- The chain slots of an instance are released on every core (R203, R245, R246). -/
def dropChains (s : State) (inst : Nat) : State :=
  { s with cores := Tbl.mapV s.cores (fun _ k => { k with drove := k.drove.filter (fun p => p.2.inst != inst) }) }

/-- The chains of an aborted instance: a bellwether cancels its generation and ends its chain (R209, R215), and every
attached member is detached (R211). -/
def endChains (s : State) (inst : Nat) : State :=
  (Tbl.keys s.cores).foldl (fun t c =>
    (t.core c).drove.foldl (fun u p =>
      if p.2.inst != inst then u
      else if p.2.lead then leadCancel u c p.1 p.2 true
      else if p.2.detached then u
      else noteDetach u c p.1 p.2.gen p.2.nextSeq p.2) t) s

end Sys2Proof.Machine
end

