-- ==== Sys2Proof/Machine/Sched.lean ====
section
/-! DEFINITION. How the Drover ends work: the stop of a task on its units (07_streams.md R195,
09_drover_graphs.md R246), the end of an instance (R245) and its abort (R246, R247). -/

namespace Sys2Proof.Machine

/-! ### The stop of a task on a core -/

/-- A tile is released: no task holds it and its extent is empty (R246). -/
def Tile.release (t : Tile) : Tile := { t with holder := none, extent := none }

def Tile.releaseOf (x : Tile) (t : Nat) : Tile := if x.holder = some t then x.release else x

/-- A channel is disarmed: queued data are discarded, transfers in flight end on their own (R195). -/
def Chan.stop (h : Chan) : Chan :=
  { h with armed := false, task := none, outBuf := [], rearm := none, disarm := none, chain := none, reqAt := none
           waiting := false, waitFc := 0, auth := 0, fetched := h.done, landed := h.done, runEnd := h.done
           flights := h.flights.map (fun f => { f with elems := 0, live := false }) }

def Chan.stopOf (h : Chan) (t : Nat) : Chan := if h.task = some t then h.stop else h

def CbSlot.releaseOf (v : CbSlot) (t : Nat) : CbSlot := { v with claims := v.claims.filter (· != t) }

def CbLoad.dropTask (l : CbLoad) (t : Nat) : CbLoad :=
  if l.task = some t then { l with task := none, wants := [] } else l

/-- A core without the instructions of a task: those in queues are discarded, those running stop
(05_accumulation.md R128). -/
def discardOf (k : Core) (t : Nat) : Core :=
  { k with
    arrQ := k.arrQ.filter (fun q => q.task != t)
    mm := match k.mm with
      | some m => if m.inst.task = t then none else some m
      | none => none
    fins := k.fins.filter (fun m => m.inst.task != t)
    drQ := k.drQ.filter (fun q => q.task != t)
    dr := match k.dr with
      | some m => if m.inst.task = t then none else some m
      | none => none
    attQ := k.attQ.filter (fun q => q.task != t)
    att := match k.att with
      | some m => if m.inst.task = t then none else some m
      | none => none }

/-- What a core holds after a task has been stopped on it (R246): its instructions are discarded, its
tiles released with empty extents, its channels disarmed, its codebook claims released. -/
def stopCore (x : Core) (t : Nat) : Core :=
  let k := discardOf x t
  { k with
    prog := match k.prog with
      | some p => if p.task = t then none else some p
      | none => none
    tileA := k.tileA.releaseOf t
    tileB := k.tileB.releaseOf t
    chans := Tbl.mapV k.chans (fun _ h => h.stopOf t)
    slots := Tbl.mapV k.slots (fun _ v => v.releaseOf t)
    marked := match k.prog with
      | some p => if p.task = t then [] else k.marked
      | none => k.marked
    loads := k.loads.filter (fun l => l.task != some t)
    load := match k.load with
      | some l => some (l.dropTask t)
      | none => none }

/-- BUSY of a KV directory entry is cleared (06_attention_kv.md R156): word 2 [31]. -/
def clearBusy (s : State) (entry : Nat) : State :=
  s.mapMem (fun m => m.put (entry + 8) (leBytes 4 ((m.word (entry + 8)) &&& 0x7FFFFFFF).toNat))

/-- The appending ATTEND of the task on a core gives up its directory entry (R156). -/
def dropBusy (s : State) (c t : Nat) : State :=
  match (s.core c).att with
  | some a => if a.inst.task = t ∧ a.append then clearBusy s a.dir else s
  | none => s

/-! ### Output that the spec leaves undefined (log entry 2) -/

/-- The bytes at some addresses are free values from now on, in blocks that hold good data. -/
def freeBytes (s : State) (as : List Nat) : State :=
  (s.mapMem (fun m => as.zipIdx.foldl (fun m x =>
    if m.verify (x.1 / 512) = .good then m.putPart x.1 [Config.freeByte (s.free + x.2)] else m) m)).draw as.length

/-- Byte addresses of elements `a` to `b - 1` of a channel's walk. -/
def elemCells (s : State) (k : Core) (h : Chan) (a b : Nat) : List Nat :=
  ((List.range (b - a)).flatMap (fun i =>
    (List.range ((fmtNibs h.desc.format + 1) / 2)).map (fun j => chanNib s k h (a + i) / 2 + j))).eraseDups

/-- A transfer in flight writes free values to some addresses. -/
def Flight.freed (f : Flight) (as : List Nat) (n : Nat) : Flight :=
  { f with cells := f.cells.map (fun x => if as.contains x.1 then (x.1, Config.freeByte (n + as.findIdx (fun a => a == x.1))) else x) }

/-- The output rows that an aborted ATTEND has written are not defined (06_attention_kv.md R156): those in memory and those
on their way there. -/
def freeOutput (s : State) (c ch start : Nat) : State :=
  let k := s.core c
  let h := k.chan ch
  let as := elemCells s k h start h.fetched
  let s1 := s.mapChan c ch (fun h => { h with flights := h.flights.map (fun f => f.freed as s.free) })
  freeBytes s1 as

/-- What the ATTEND of the task on a core leaves as it ends: its directory entry is given up and its output undefined. -/
def dropAttend (s : State) (c t : Nat) : State :=
  match (s.core c).att with
  | some a =>
    let s1 := dropBusy s c t
    if a.inst.task = t ∧ a.done then freeOutput s1 c (bits (wd a.inst.words 0) 10 8) a.outStart else s1
  | none => s

/-- The instructions of a task are discarded and stop at once, on every core (05_accumulation.md R128). -/
def discardTask (s : State) (t : Nat) : State :=
  (Tbl.keys s.cores).foldl (fun u c => (dropAttend u c t).mapCore c (fun k => discardOf k t)) s

/-- A Paddock bank after the abort of a task (11_paddock.md R305): a bank with a hole enters HOLE, another returns to
READY, that of a REBUILD too (log entry 14). -/
def Bank.stopOf (b : Bank) (t : Nat) : Bank :=
  let q := b.queue.filter (fun o => o.task != t)
  match b.cur with
  | some r =>
    if r.op.task = t then { b with queue := q, cur := none, st := if b.hole.isSome then .hole else .ready }
    else { b with queue := q }
  | none => { b with queue := q }

/-- A reset that reaches the Paddock stops its operations with every bank as it is (11_paddock.md R306): the aborts that
follow find none in progress. -/
def haltBanks (s : State) : State :=
  { s with paddock := { s.paddock with banks := Tbl.mapV s.paddock.banks (fun _ b => { b with cur := none, queue := [] }) } }

/-- The output records of an aborted herd job from the first one not complete on are not defined (10_herd_engine.md
R276). -/
def dropHerd (s : State) (t : Nat) : State :=
  match s.herd.run with
  | some r =>
    if r.task = t then
      freeBytes { s with herd := { s.herd with run := none, marked := [] } } ((List.range ((r.count - r.written) * r.osize)).map (fun i =>
        (wd r.words 5).toNat + r.written * r.osize + i))
    else s
  | none => s

/-- The task's part in the Herd engine and the Paddock ends. -/
def stopUnits (s : State) (t : Nat) : State :=
  let p := s.paddock
  let search := match s.herd.run with
    | some r => if r.task = t then none else p.search
    | none => p.search
  let job := match p.job with
    | some j => if j.task = t then none else p.job
    | none => none
  let marked := match p.job with
    | some j => if j.task = t then [] else p.marked
    | none => p.marked
  { dropHerd s t with paddock := { p with search := search, job := job, marked := marked
                                          banks := Tbl.mapV p.banks (fun _ b => b.stopOf t) } }

/-- Remote operations of the task send nothing further, no response is awaited for it, and what READ_DATA has brought is
discarded (R195, R333). -/
def stopFabric (s : State) (t : Nat) : State :=
  s.mapFabric (fun f => { f with ops := f.ops.filter (fun o => o.inst.task != t),
                                 pend := f.pend.filter (fun p => p.task != t)
                                 inbox := f.inbox.filter (fun x => x.task != t) })

/-- The task stops on every unit. -/
def stopTask (s : State) (t : Nat) : State :=
  let s1 := (Tbl.keys s.cores).foldl (fun u c => (dropAttend u c t).mapCore c (fun k => stopCore k t)) s
  stopFabric (stopUnits s1 t) t

/-! ### Instances -/

/-- Units on which a task of an instance runs: cores by number, 256 the Herd engine, 257 the Paddock. -/
def runUnits (s : State) (t : Nat) : List Nat :=
  match s.task t, taskD s t with
  | some k, some d =>
    if k.st = .waiting ∨ k.st = .ready ∨ k.st = .suspended ∨ k.st = .done then []
    else if d.kind = kHerd then [256] else if d.kind = kPaddock then [257] else d.cores
  | _, _ => []

/-- The Drover's tables without an instance (R245): its demand leaves the ledgers, its task slots are free. -/
def dropInst (s : State) (i : Inst) : State :=
  s.mapDrover (fun d => { d with
    insts := d.insts.filter (fun j => j.num != i.num)
    tasks := d.tasks.filter (fun p => !i.slots.contains p.1)
    demands := d.demands.filter (fun x => x.inst != i.num)
    aborts := d.aborts.filter (fun a => a.inst != i.num) })

/-- A wake stays committed while an admitted instance touches its domain (14_power_clocks.md R382). -/
def recommit (s : State) : State :=
  s.mapPower (fun p => { p with doms := Tbl.mapV p.doms (fun d v =>
    if v.commit && !domDemand s d then { v with commit := false } else v) })

/-- The outcome record of an instance. -/
def instRec (i : Inst) (kind fault : Nat) (task : Option Nat) : ORec :=
  { kind := kind, reason := 0, cookie := i.cookie, fault := fault, inst := i.num, ctx := i.ctx,
    task := task, time := 0 }

/-- R246: every task of the instance stops, its units have 1,000 fc to report it (16_faults_recovery.md R416), and its
resources are free. -/
def stopInst (s : State) (i : Inst) (fault : Nat) : State :=
  let waits := i.slots.flatMap (fun t => (runUnits s t).map (fun u => (⟨u, t, s.now + 1000⟩ : StopWait)))
  let s0 := (i.slots.filter (fun t => !(runUnits s t).isEmpty)).foldl (fun u t =>
    taskTrace u 0 0x03 slotDrvr t [w32 fault]) s
  let s1 := endChains s0 i.num
  let s2 := i.slots.foldl stopTask s1
  let s3 := recommit (dropChains (dropInst s2 i) i.num)
  s3.mapDrover (fun d => { d with stops := d.stops ++ waits })

/-- R246, R247: the instance is aborted, and the ABORTED record carries the first fault. -/
def abortInst (s : State) (num fault : Nat) (task : Option Nat) : State :=
  match findInst s num with
  | none => s
  | some i => postRec (((stopInst s i fault).bump slotDrvr 0x04C 1).pulse slotDrvr 3) i.queue i.sess (instRec i 0x03 fault task)

/-- Every instance is aborted by a hung Drover, which posts no record (16_faults_recovery.md R417). -/
def abortHung (s : State) (fault : Nat) : State := s.drover.insts.foldl (fun t i => stopInst t i fault) s

/-- Every instance that satisfies a test is aborted with one fault. -/
def abortWhere (s : State) (fault : Nat) (p : Inst → Bool) : State :=
  (s.drover.insts.filter p).foldl (fun t i => abortInst t i.num fault none) s

/-- R245: the instance has completed. -/
def endInst (s : State) (i : Inst) : State :=
  let s1 := recommit (dropChains (dropInst s i) i.num)
  postRec (s1.bump slotDrvr 0x048 1) i.queue i.sess (instRec i 0x02 0 none)

/-- INSTANCE_ABORT (R246): the Drover learns of the first fault that waits. -/
def instanceAbort (s : State) : State :=
  match s.drover.aborts with
  | a :: rest => abortInst (s.mapDrover (fun d => { d with aborts := rest })) a.inst a.fault a.task
  | [] => s

def execInstanceAbort (s : State) : Res := .next (instanceAbort s)

/-- An instance of an image touches a core (16_faults_recovery.md R413) with a task not yet complete. -/
def touchesCore (s : State) (i : Inst) (c : Nat) : Bool :=
  match imageOf s i.tenant i.image with
  | some m => (touchedCores m).contains c
  | none => false

def touchesFold (s : State) (i : Inst) (f : Nat) : Bool :=
  match imageOf s i.tenant i.image with
  | some m => (touchedFolds m).contains f
  | none => false

/-- The instance holds a herd task. -/
def hasHerdTask (s : State) (i : Inst) : Bool :=
  match imageOf s i.tenant i.image with
  | some m => hasKind m kHerd
  | none => false

/-- The instance holds a paddock task or a Paddock claim. -/
def hasPaddock (s : State) (i : Inst) : Bool :=
  match imageOf s i.tenant i.image with
  | some m => m.tasks.any (fun t => t.kind == kPaddock || (claimsOf m t).any (fun c => c.type == 4))
  | none => false

end Sys2Proof.Machine
end

