-- ==== Sys2Proof/Machine/Feed.lean ====
section
/-! DEFINITION. How consumers take elements from stream channels and producers hand elements to them
(07_streams.md R170 to R181, R191, R467; 08_drove_chains.md R206 to R217). -/

namespace Sys2Proof.Machine

/-! ### Faults of a channel (R200) -/

/-- A fault of the task that armed a channel, recorded in the core's STRM page. -/
def chanFault (s : State) (c ch code : Nat) (addr : Option Nat) (d0 d1 : Word) : State :=
  match ((s.core c).chan ch).task with
  | some t => taskFault s (slotStrm c) t (some c) code addr d0 d1
  | none => s

/-- The fault of a block that fails verification, poisoned words first (R467); DETAIL1 tells a word that a read of this
channel has marked from one that was found marked. -/
def blockFault (s : State) (c ch blk : Nat) (v : Verdict) : State :=
  match v with
  | .good => s
  | .poisoned w =>
    chanFault s c ch 0x0003 (some (blk * 512 + 8 * w)) (w32 ch ||| fld w 8)
      (flag (markedBy ((s.core c).chan ch).marked blk w) 0)
  | .mismatch x =>
    chanFault ((s.bump (slotStrm c) 0x050 1).pulse (slotStrm c) 3) c ch 0x0002 (some (blk * 512)) (w32 ch) x

/-- What an attempt to take elements finds. -/
inductive Take
  | wait (s : State)
  | stop (s : State)
  | got (s : State) (vals : List Word)
  deriving DecidableEq, Repr

/-! ### Halves (R180, R181) -/

/-- The end, in elements, of the half in use. -/
def Chan.useEnd (h : Chan) : Nat := h.desc.perHalf * (h.swaps + 1)

/-- The conditions of a swap (R180 for a read channel, R181 for a write channel). -/
def swapReady (k : Core) (h : Chan) : Bool :=
  h.armed && h.desc.feed == 1 && decide (0 < h.auth) && decide (0 < h.desc.perHalf) &&
  (if h.desc.write then decide (h.done = h.useEnd) && decide (h.filled = h.useEnd) && decide (h.desc.perHalf * h.swaps ≤ h.landed)
   else decide (h.useEnd ≤ h.done) && decide (h.useEnd < chanTotal k h)
     && decide (min (chanTotal k h) (h.useEnd + h.desc.perHalf) ≤ h.filled))

def Chan.swap (h : Chan) : Chan :=
  { h with swaps := h.swaps + 1, auth := h.auth - 1, useHalf := 1 - h.useHalf }

/-! ### Joined channels (08_drove_chains.md R206 to R217) -/

/-- The walk fields of a generation agree with the joined channel's (Table 8-3, code 0x06). -/
def walkAgrees (v : ChSlot) (d : Desc) : Bool :=
  match v.src with
  | some ⟨_, some w⟩ => w.format == d.format && w.dims == d.dims && w.lens == d.lens && w.strides == d.strides
  | _ => true

/-- A fault of the task that a chain slot serves, recorded in the DROVE page (R222). -/
def droveFault (s : State) (c i code : Nat) (v : ChSlot) (seq : Nat) : State :=
  match v.task with
  | some t => taskFault s (slotDrove c) t (some c) code none (w32 i ||| fld v.gen 8) (w32 seq)
  | none => s

/-- The ring block of the present generation with a sequence number. -/
def ChSlot.blockOf (v : ChSlot) (seq : Nat) : Option ChBlock :=
  v.ring.find? (fun b => b.gen == v.gen && b.seq == seq)

/-- The consumer has finished with the blocks of its generation before `seq`. -/
def usedBefore (s : State) (c i seq : Nat) : State :=
  match (s.core c).chSlot i with
  | some v =>
    sweepRing (setSlotOf s c i { v with ring := v.ring.map (fun b =>
      if b.gen = v.gen ∧ b.seq < seq then { b with used := true } else b) }) c i
  | none => s

/-- Half-byte address from which the consumer takes element `n` of block `seq` of a joined channel: its ring entry, or the
bellwether's walk for a block that the member has read itself (R206, R213). -/
def joinedNib (s : State) (c : Nat) (h : Chan) (v : ChSlot) (seq n : Nat) : Nat :=
  let a := chanNib s (s.core c) h n
  match v.blockOf seq with
  | some b => 2 * ringAddr c v b.entry + a % 1024
  | none => a

/-! ### Taking (R179, R180, R191) -/

/-- Half-byte address from which the consumer takes element `n` of block number `seq` of a channel. -/
def fromNib (s : State) (c : Nat) (h : Chan) (seq n : Nat) : Nat :=
  match joinedSlot (s.core c) h with
  | some (_, v) => joinedNib s c h v seq n
  | none => takeNib s (s.core c) h n

/-- The consumer begins a block of the queue, which is then verified (R191). -/
def beginBlock (s : State) (c ch : Nat) : Verdict × Nat :=
  let h := (s.core c).chan ch
  let blk := fromNib s c h h.begun h.done / 1024
  (s.mem.verify blk, blk)

/-- The bellwether commits a block when its consumer takes the first element of it (R208). -/
def leadTaken (s : State) (c ch : Nat) : State :=
  let h := (s.core c).chan ch
  match h.chain with
  | some i =>
    match (s.core c).chSlot i with
    | some v => if v.lead && v.desc.consumes then leadCommit s c i v h.begun else s
    | none => s
  | none => s

/-- The consumer takes at most `want` elements of the block that it has begun. -/
def takeBlock (s : State) (c ch want : Nat) : Take :=
  let h := (s.core c).chan ch
  let n := min want (min (h.landed - h.done) (h.runEnd - h.done))
  let vals := (List.range n).map (fun i =>
    s.mem.elem (fmtNibs h.desc.format) (fromNib s c h (h.begun - 1) (h.done + i)))
  let s1 := s.mapChan c ch (fun h => { h with done := h.done + n })
  match joinedSlot (s.core c) h with
  | some (i, _) => .got (if h.done + n = h.runEnd then usedBefore s1 c i h.begun else s1) vals
  | none => .got s1 vals

/-- A block that the chain will never deliver, and that the consumer needs, ends its task (R215). -/
def joinedBroken (s : State) (c : Nat) (h : Chan) : Option State :=
  match joinedSlot (s.core c) h with
  | some (i, v) => if h.fetched = h.done ∧ v.broken v.nextSeq then some (droveFault s c i 0x0313 v v.nextSeq) else none
  | none => none

/-- Elements of one block, at most `want`, taken by the consumer in walk order (R179). -/
def takeRun (s : State) (c ch want : Nat) : Take :=
  let h := (s.core c).chan ch
  let total := chanTotal (s.core c) h
  if total ≤ h.done then .stop (chanFault s c ch 0x0302 none (w32 ch) (w32 total)) else
  if h.landed ≤ h.done then
    match joinedBroken s c h with
    | some t => .stop t
    | none => .wait s
  else if h.done < h.runEnd then takeBlock s c ch want
  else
    match beginBlock s c ch with
    | (.good, _) =>
      let s1 := s.mapChan c ch (fun h => { h with runEnd := h.done + max 1 (queueLen s (s.core c) h h.done), begun := h.begun + 1 })
      takeBlock (leadTaken s1 c ch) c ch want
    | (v, blk) => .stop (blockFault s c ch blk v)

/-- A feed takes what its channel delivers, until it has what it needs, has to wait, or fails. -/
def feedGo (c : Nat) : Nat → State → Feed → State × Feed
  | 0, s, f => (s, f)
  | fuel + 1, s, f =>
    if f.need = 0 then (s, f) else
    match takeRun s c f.ch f.need with
    | .wait t => (t, f)
    | .stop t => (t, f)
    | .got t vs => feedGo c fuel t { f with need := f.need - vs.length, got := f.got ++ vs }

def feed (s : State) (c task : Nat) (f : Feed) : State × Feed :=
  if aborting s task then (s, f) else feedGo c f.need s f

/-! ### Handing elements to a write channel (R178, R181) -/

/-- The element after `n` transfers from element `a` on. -/
def afterRuns (len : Nat → Nat) : Nat → Nat → Nat
  | 0, a => a
  | n + 1, a => afterRuns len n (a + len a)

/-- Elements that a write channel can still take: up to the end of the QDEPTH + 1 transfers that follow what has been
granted, or of the half in use. -/
def outRoom (s : State) (k : Core) (h : Chan) : Nat :=
  if h.desc.feed = 1 then min h.useEnd (chanTotal k h) - h.done
  else afterRuns (transferLen s k h) (h.desc.qdepth + 1) h.fetched - h.done

/-- A producer hands over as many of its elements as the channel has room for; the rest stays with it. An element beyond
the end of the stream is STREAM_END. -/
def pushOut (s : State) (c ch task : Nat) (vals : List Word) : State × List Word :=
  if vals.isEmpty || aborting s task then (s, vals) else
  let k := s.core c
  let h := k.chan ch
  if chanTotal k h ≤ h.done then
    (chanFault s c ch 0x0302 none (w32 ch) (w32 (chanTotal k h)), vals)
  else
    let n := min (outRoom s k h) vals.length
    (s.mapChan c ch (fun h => { h with done := h.done + n, outBuf := h.outBuf ++ vals.take n }), vals.drop n)

/-! ### The running instructions of a core take and hand over -/

/-- Fields of a MATMUL (Tables 4-3 to 4-5). -/
def mmTile (w : List Word) : Bool := bit (wd w 0) 23
def mmAcc (w : List Word) : Bool := bit (wd w 0) 22
def mmStriped (w : List Word) : Bool := bit (wd w 0) 20
def mmStripes (w : List Word) : Nat := if mmStriped w then 4 * 2 ^ bits (wd w 0) 19 18 else 1
def mmTwin (w : List Word) : Bool := bit (wd w 0) 17
def mmW (w : List Word) : Nat := bits (wd w 0) 16 14
def mmA (w : List Word) : Nat := bits (wd w 0) 13 11
def mmCb (w : List Word) : Nat := bits (wd w 1) 31 24
def mmRows (w : List Word) : Nat := bits (wd w 1) 22 16
def mmCols (w : List Word) : Nat := bits (wd w 1) 14 8
def mmK (w : List Word) : Nat := bits (wd w 2) 23 0

/-- G of an activation stream (Table 3-4). -/
def groupOf (conv : Word) : Nat := 32 * 2 ^ bits conv 7 6

/-- The running MATMUL takes what its two channels deliver, each in walk order (R90, R92, R179). -/
def pullMm (s : State) (c : Nat) : State :=
  match (s.core c).mm with
  | none => s
  | some m =>
    let r1 := feed s c m.inst.task m.w
    let r2 := feed r1.1 c m.inst.task m.a
    r2.1.mapCore c (fun k => { k with mm := some { m with w := r1.2, a := r2.2 } })

/-- Output channel of a drain or TILE_STORE (Tables 4-8, 5-5). -/
def drOut (w : List Word) : Nat := if opcodeOf (wd w 0) = 0x22 then bits (wd w 0) 14 12 else bits (wd w 0) 16 14

/-- The running drain or transfer takes its operands and hands over its output. -/
def pullDr (s : State) (c : Nat) : State :=
  match (s.core c).dr with
  | none => s
  | some d =>
    let r1 := match d.feed with
      | some f =>
        let r := feed s c d.inst.task f
        (r.1, some r.2)
      | none => (s, none)
    let r2 := pushOut r1.1 c (drOut d.inst.words) d.inst.task d.out
    r2.1.mapCore c (fun k => { k with dr := some { d with feed := r1.2, out := r2.2 } })

/-! ### The running ATTEND: fields of an ATTEND (Tables 6-3, 6-4) -/

def atAppend (w : List Word) : Bool := bit (wd w 0) 23
def atCausal (w : List Word) : Bool := bit (wd w 0) 22
def atQ32 (w : List Word) : Bool := bit (wd w 0) 21
def atK32 (w : List Word) : Bool := bit (wd w 0) 20
def atV32 (w : List Word) : Bool := bit (wd w 0) 19
def atO32 (w : List Word) : Bool := bit (wd w 0) 18
def atStat (w : List Word) : Bool := bit (wd w 0) 17
def atHeads (w : List Word) : Nat := bits (wd w 0) 16 14 + 1
def atQch (w : List Word) : Nat := bits (wd w 0) 13 11
def atOch (w : List Word) : Nat := bits (wd w 0) 10 8
def atD (w : List Word) : Nat := 32 * (bits (wd w 0) 7 5 + 1)
def atDir (w : List Word) : Nat := bits (wd w 1) 31 20
def atKch (w : List Word) : Nat := bits (wd w 1) 19 17
def atKich (w : List Word) : Nat := bits (wd w 1) 16 14
def atVch (w : List Word) : Nat := bits (wd w 1) 13 11
def atVich (w : List Word) : Nat := bits (wd w 1) 10 8
def atQrows (w : List Word) : Nat := bits (wd w 1) 6 0
def atScale (w : List Word) : Word := wd w 2
def atWindow (w : List Word) : Nat := bits (wd w 3) 20 0
def atGbase (w : List Word) : Nat := (wd w 4).toNat
def atNglobal (w : List Word) : Nat := bits (wd w 5) 6 0
def atQpos (w : List Word) : Nat := bits (wd w 6) 20 0
def atMaxtok (w : List Word) : Nat := bits (wd w 7) 20 0
def atRows (w : List Word) : Nat := atQrows w * atHeads w
def atChans (w : List Word) : List Nat := [atQch w, atOch w, atKch w, atKich w, atVch w, atVich w]

def eSize (b32 : Bool) : Nat := if b32 then 4 else 2
def eFmt (b32 : Bool) : Nat := if b32 then 2 else 1

def attFault (s : State) (c t code : Nat) (addr : Option Nat) (d0 d1 : Word) : State :=
  taskFault s (slotAtt c) t (some c) code addr d0 d1

/-- Runs join the walk of a channel that the unit has armed (R137). -/
def planAdd (s : State) (c ch : Nat) (runs : List (Nat × Nat)) : State :=
  s.mapChan c ch (fun h => { h with plan := h.plan.map (· ++ runs) })

/-- Byte address of the page that an entry names (Table 6-2). -/
def pageAddr (e : Word) : Nat := e.toNat / 512 * 512

/-- The entry of a page in a list that the unit has read. -/
def AttRun.entry (a : AttRun) (value : Bool) (page : Nat) : Word :=
  wd (if value then a.vx.got else a.kx.got) (a.order.findIdx (fun p => p == page))

/-- The rows of the global block in a list's pages, each a run of its own (R145). -/
def globalRuns (a : AttRun) (value : Bool) : List (Nat × Nat) :=
  let w := a.inst.words
  let e := atD w * eSize (if value then atV32 w else atK32 w)
  a.block.map (fun g => (pageAddr (a.entry value (g / 64)) + g % 64 * e, atD w))

/-- Both entries of the next page have come: their format is checked (R138), and the page, or with the last entry the rows of
the global block, join the walks of the data channels. -/
def planEntry (c : Nat) (r : State × AttRun) (j : Nat) : State × AttRun :=
  let a := r.2
  let w := a.inst.words
  let t := a.inst.task
  let page := w32 (a.order.getD j 0)
  let ke := wd a.kx.got j
  let ve := wd a.vx.got j
  if aborting r.1 t then r
  else if bit ke 0 != atK32 w then (attFault r.1 c t 0x0204 none page ke, a)
  else if bit ve 0 != atV32 w then (attFault r.1 c t 0x0204 none (flag true 31 ||| page) ve, a)
  else
    let s1 := if j < a.scans then
        planAdd (planAdd r.1 c (atKch w) [(pageAddr ke, 64 * atD w)]) c (atVch w) [(pageAddr ve, 64 * atD w)]
      else if j + 1 = a.order.length then
        planAdd (planAdd r.1 c (atKch w) (globalRuns a false)) c (atVch w) (globalRuns a true)
      else r.1
    (s1, { a with planned := j + 1 })

/-- The keys of the next block of keys lie in the walks of the data channels: the unit begins to take them (R145, R147). -/
def AttRun.begin (a : AttRun) : AttRun :=
  let w := a.inst.words
  let next := if a.pages.isEmpty then a.order.length else a.scans - a.pages.length + 1
  let n := if a.pages.isEmpty then a.block.length * atD w else 64 * atD w
  if a.taking || n = 0 || a.planned < next then a
  else { a with taking := true, kf := { a.kf with need := n, got := [] }, vf := { a.vf with need := n, got := [] } }

/-- The running ATTEND takes its input rows, its page-list entries, keys and values, and hands over its output rows. -/
def pullAtt (s : State) (c : Nat) : State :=
  match (s.core c).att with
  | none => s
  | some a0 =>
    let t := a0.inst.task
    let r1 := feed s c t a0.feed
    let rk := feed r1.1 c t a0.kx
    let rv := feed rk.1 c t a0.vx
    let a1 := { a0 with feed := r1.2, kx := rk.2, vx := rv.2 }
    let n := min a1.kx.got.length a1.vx.got.length
    let r2 := ((List.range n).drop a1.planned).foldl (planEntry c) (rv.1, a1)
    let a2 := r2.2.begin
    let r3 := feed r2.1 c t a2.kf
    let r4 := feed r3.1 c t a2.vf
    let r5 := pushOut r4.1 c (atOch a2.inst.words) t a2.out
    r5.1.mapCore c (fun k => { k with att := some { a2 with kf := r3.2, vf := r4.2, out := r5.2 } })

/-- The remote operation of a core that is first in its order takes the bytes of its next packet. -/
def pullOp (s : State) (c : Nat) : State :=
  match s.fabric.ops.find? (fun o => o.core == c) with
  | some o =>
    match o.feed with
    | some f =>
      let r := feed s c o.inst.task f
      let o' : RemOp := { o with feed := some r.2 }
      r.1.mapFabric (fun x => { x with ops := x.ops.map (fun p => if p = o then o' else p) })
    | none => s
  | none => s

/-- Elements of a channel as the bytes of a packet, in order; two 4-bit elements share a byte, the first in its low half. -/
def packBytes (nibs : Nat) : List Word → List Byte
  | [] => []
  | [a] => if nibs = 1 then [b8 (a.toNat % 16)] else leBytes (nibs / 2) a.toNat
  | a :: b :: t =>
    if nibs = 1 then b8 (a.toNat % 16 + 16 * (b.toNat % 16)) :: packBytes nibs t
    else leBytes (nibs / 2) a.toNat ++ packBytes nibs (b :: t)

/-- Bytes as elements of a channel, and the bytes of an element that has not come whole. -/
def unpackBytes (nibs : Nat) (bs : List Byte) : List Word × List Byte :=
  if nibs = 1 then (bs.flatMap (fun b => [w32 (b.toNat % 16), w32 (b.toNat / 16)]), [])
  else
    let n := bs.length / max 1 (nibs / 2) * (nibs / 2)
    ((chunks (nibs / 2) (bs.take n)).map leWord, bs.drop n)

/-- A write channel takes the bytes of READ_DATA that have come for it as it has room (R329). -/
def pullBox (s : State) (x : Inbox) : State :=
  let nibs := fmtNibs ((s.core x.core).chan x.ch).desc.format
  let e := unpackBytes nibs x.bytes
  let r := pushOut s x.core x.ch x.task e.1
  let left := packBytes nibs r.2 ++ e.2
  r.1.mapFabric (fun f => { f with inbox := f.inbox.flatMap (fun y =>
    if y = x then (if left.isEmpty then [] else [{ x with bytes := left }]) else [y]) })

def pullInbox (s : State) (c : Nat) : State :=
  (s.fabric.inbox.filter (fun x => x.core == c)).foldl pullBox s

/-- Everything that runs on a core takes and hands over what it can. -/
def pull (s : State) (c : Nat) : State := pullInbox (pullOp (pullAtt (pullDr (pullMm s c) c) c) c) c

end Sys2Proof.Machine
end

