-- ==== Sys2Proof/Machine/Issue.lean ====
section
/-! DEFINITION. How a core issues the instructions of its program (09_drover_graphs.md R465, R466). The
commands of the instruction rows name the core; what is issued is the instruction at its program position. -/

namespace Sys2Proof.Machine

/-- The instruction opcodes of the chapters. -/
def opArm : Nat := 0x11
def opRearm : Nat := 0x12
def opSwap : Nat := 0x13
def opDisarm : Nat := 0x14
def opDlead : Nat := 0x15
def opDjoin : Nat := 0x16
def opMatmul : Nat := 0x21
def opDrain : Nat := 0x22
def opTileStore : Nat := 0x23
def opTileLoad : Nat := 0x24
def opTileAdd : Nat := 0x25
def opAttend : Nat := 0x31

/-- Remote operations (12_ralso_fabric.md Table 12-12). -/
def opRwrite : Nat := 0x41
def opRread : Nat := 0x42
def opRadd : Nat := 0x43
def opRbell : Nat := 0x44

/-- An opcode that some chapter defines; OPCODE 0 is END. -/
def opKnown (o : Nat) : Bool :=
  [0x11, 0x12, 0x13, 0x14, 0x15, 0x16, 0x21, 0x22, 0x23, 0x24, 0x25, 0x31, 0x41, 0x42, 0x43, 0x44].contains o

/-- A kind of task may issue an instruction (R466); remote operations have their own refusal (R327). -/
def kindAllows (kind o : Nat) : Bool :=
  if o = opMatmul then kind == kMatrix
  else if o = opDrain || o = opTileStore || o = opTileLoad || o = opTileAdd then kind == kMatrix || kind == kReduce
  else if o = opAttend then kind == kAttention
  else true

/-- Bytes of an instruction (R465). -/
def instBytes (o : Nat) : Nat := if o = opAttend then 32 else 16

/-- What the core finds at its program position. -/
inductive Front
  | stall
  | fault (s : State)
  | words (s : State) (p : Prog) (ws : List Word)
  deriving DecidableEq, Repr

/-- A channel of the task waits to be re-armed or disarmed on the core: the program's next instruction
issues when that has been done (07_streams.md R176, R177). -/
def chanPending (k : Core) (t : Nat) : Bool :=
  k.chans.any (fun p => p.2.task == some t && (p.2.rearm.isSome || p.2.disarm.isSome))

def setProg (s : State) (c : Nat) (p : Prog) : State := s.mapCore c (fun k => { k with prog := some p })

/-- A fault of the program itself, recorded in the CORE page (R465). -/
def progFault (s : State) (c t pc code : Nat) (addr : Option Nat) (w : Word) : State :=
  taskFault s (slotCore c) t (some c) code addr (w32 pc) w

/-- The block of a position of the instruction at the program position is verified before the first instruction in it
issues (R465); `w` is word 0 of the instruction, 0 where it lies in that block and so cannot be read. -/
def progBlock (s : State) (c : Nat) (p : Prog) (pc : Nat) (w : Word) : Option State :=
  let blk := (nearBase c + pc) / 512
  if p.block = some blk then none else
  match s.mem.verify blk with
  | .good => none
  | .poisoned n => some (progFault s c p.task p.pc 0x0003 (some (blk * 512 + 8 * n)) w)
  | .mismatch _ => some (progFault s c p.task p.pc 0x0002 (some (blk * 512)) w)

/-- The core may issue: its task runs, its program has not ended or been stopped, and no re-arm or disarm
of the task is outstanding. -/
def mayIssue (s : State) (c : Nat) : Option Prog :=
  match (s.core c).prog with
  | some p =>
    if p.ended || p.stopped || aborting s p.task || !s.coreRuns c || chanPending (s.core c) p.task then none
    else match s.task p.task with
      | some t => if t.st = .running then some p else none
      | none => none
  | none => none

/-- A program position beyond the near store of its core (R465). -/
def pastNear (n : Nat) : Bool := decide (0x100000 < n)

/-- Bytes of the instruction at the program position. -/
def frontBytes (s : State) (c : Nat) (p : Prog) : Nat := instBytes (opcodeOf (s.mem.word (nearBase c + p.pc)))

/-- The words of an instruction of `n` bytes, once the block of its last word is verified too. -/
def frontWords (s : State) (c : Nat) (p : Prog) (n : Nat) : Front :=
  match progBlock s c p (p.pc + n - 16) (s.mem.word (nearBase c + p.pc)) with
  | some t => .fault t
  | none =>
    .words (setProg s c { p with block := some ((nearBase c + p.pc + n - 16) / 512) })
      { p with block := some ((nearBase c + p.pc + n - 16) / 512) } (s.mem.words (nearBase c + p.pc) (n / 4))

/-- The instruction at a program position that lies in the near store. -/
def frontAt (s : State) (c : Nat) (p : Prog) : Front :=
  match progBlock s c p p.pc 0 with
  | some t => .fault t
  | none =>
    if pastNear (p.pc + frontBytes s c p) then
      .fault (progFault s c p.task p.pc 0x0001 (some (nearBase c + p.pc)) (s.mem.word (nearBase c + p.pc)))
    else frontWords s c p (frontBytes s c p)

/-- The instruction at the program position (R465). -/
def front (s : State) (c : Nat) : Front :=
  match mayIssue s c with
  | none => .stall
  | some p =>
    if pastNear (p.pc + 16) then .fault (progFault s c p.task p.pc 0x0001 (some (nearBase c + p.pc)) 0)
    else frontAt s c p

/-- The program moves past an instruction. -/
def advance (s : State) (c : Nat) (p : Prog) (ws : List Word) : State :=
  (setProg s c { p with pc := p.pc + 4 * ws.length }).mapCore c (fun k => { k with seq := k.seq + 1 })

/-- The row of one opcode: a fault of the program itself, or the instruction where it is the one at the
program position and its task's kind may issue it. -/
def issue (op c : Nat) (body : State → Prog → List Word → State) (s : State) : State :=
  match front s c with
  | .stall => s
  | .fault t => t
  | .words t p ws =>
    if opcodeOf (wd ws 0) = op ∧ kindAllows (taskKind s p.task) op then body t p ws else s

/-- An instruction as it enters a queue. -/
def queued (s : State) (c : Nat) (p : Prog) (ws : List Word) : QInst :=
  { words := ws, task := p.task, seq := (s.core c).seq, ext := none, cap := 0 }

/-- END (R465): the core issues nothing further for the task, and its channels are to be disarmed (R177). -/
def issueEnd (c : Nat) (s : State) : State :=
  match front s c with
  | .stall => s
  | .fault t => t
  | .words t p ws =>
    if ws = [0, 0, 0, 0] then
      (setProg t c { p with ended := true }).mapCore c (fun k => { k with chans := Tbl.mapV k.chans (fun _ h =>
        if h.armed && h.task == some p.task then
          { h with disarm := some { words := ws, task := p.task, seq := k.seq, ext := none, cap := 0 } }
        else h) })
    else s

def execEndInstr (c : CoreId) (s : State) : Res := .next (issueEnd c.val s)

/-- UNDEFINED_INSTRUCTION (R465): an opcode that no chapter defines, OPCODE 0 with other bits set, or an
instruction that the task's kind may not issue. -/
def issueUndefined (c : Nat) (s : State) : State :=
  match front s c with
  | .stall => s
  | .fault t => t
  | .words t p ws =>
    let o := opcodeOf (wd ws 0)
    if ws = [0, 0, 0, 0] || (opKnown o && kindAllows (taskKind s p.task) o) then s
    else progFault t c p.task p.pc 0x0007 (some (nearBase c + p.pc)) (wd ws 0)

def execUndefinedInstruction (c : CoreId) (s : State) : Res := .next (issueUndefined c.val s)

end Sys2Proof.Machine
end

