-- ==== Sys2Proof/Machine/Streams.lean ====
section
/-! DEFINITION. The stream instructions and the transfers of the stream engine (07_streams.md R164 to
R187) and the chain instructions DLEAD and DJOIN (08_drove_chains.md R204). -/

namespace Sys2Proof.Machine

/-! ### Descriptor checks (Table 7-4) -/

/-- A field that the descriptor leaves unused is not 0, or a reserved field or value is set (code 0x01). -/
def descReserved (ws : List Word) (d : Desc) : Bool :=
  wd ws 15 != 0 || bits (wd ws 14) 31 25 != 0 || bits (wd ws 14) 15 4 != 0 || bits (wd ws 13) 31 10 != 0
  || (List.range 4).any (fun i => bits (wd ws (2 + i)) 31 24 != 0) || bits (wd ws 0) 11 0 != 0
  || decide (5 < d.format) || decide (1 < d.feed) || d.gather == 3
  || (!(d.format == 3 || d.format == 4) && d.scale != 0) || (!d.convEn && d.conv != 0)
  || (d.gather == 0 && d.ich != 0) || (d.gather == 2 && d.base != 0)
  || (d.feed == 0 && (d.bufBase != 0 || d.halfBlk != 0))
  || (List.range 4).any (fun i => decide (d.dims < i) && (d.lens.getD i 0 != 0 || d.strides.getD i 0 != 0))

/-- Element size in bytes as BASE's alignment takes it (R170). -/
def baseAlign (f : Nat) : Nat := max 1 (fmtNibs f / 2)

/-- BASE is misaligned, or an IDX4 walk breaks R170 (code 0x03). -/
def baseBad (d : Desc) (base : Nat) : Bool :=
  base % baseAlign d.format != 0 ||
  (d.format == 3 && ((d.stride 0) != 1 || (List.range 3).any (fun i => (d.stride (i + 1)) % 2 != 0)))

/-- The halves do not lie within the own near store as R180 asks (code 0x04). -/
def halvesBad (c : Nat) (d : Desc) : Bool :=
  d.feed == 1 && (d.bufBase % 512 != 0 || d.halfBlk == 0 || decide (512 < d.halfBlk)
    || decide (d.bufBase < nearBase c) || decide (nearBase c + 0x100000 < d.bufBase + 1024 * d.halfBlk))

/-- The index channel of a gather is not one (code 0x05). -/
def gatherBad (k : Core) (ch : Nat) (d : Desc) : Bool :=
  d.gather != 0 && (d.ich == ch || (let i := k.chan d.ich
    !(i.armed && i.desc.index && i.desc.format == 5 && !i.desc.write && i.desc.gather == 0)))

/-- A transfer to an address agrees with the task's channel claim (R175). -/
def claimAllows (c : Nat) (cl : Claim) (rate a : Nat) : Bool :=
  decide (rate ≤ bits cl.w1 8 0) &&
  (match region a with
   | .near n =>
     if n = c then !bit cl.w1 24 else bit cl.w2 31 && bits cl.w2 23 16 == n && !bit cl.w2 24
       && decide (rate ≤ bits cl.w2 8 0)
   | .column n =>
     if n = c then bit cl.w1 24 else bit cl.w2 31 && bits cl.w2 23 16 == n && bit cl.w2 24
       && decide (rate ≤ bits cl.w2 8 0)
   | _ => true)

/-- What the walk of a descriptor asks of the claim at the instruction (R175, code 0x0C): the rate and the
store in which the walk starts. -/
def armClaimBad (s : State) (c t ch : Nat) (d : Desc) (base : Nat) : Bool :=
  match chanClaim s t ch with
  | some cl => if d.gather = 2 then decide (bits cl.w1 8 0 < d.rate) else !claimAllows c cl d.rate base
  | none => true

/-- The first case of Table 7-4 that a descriptor meets, once it has been read. -/
def descCode (s : State) (c t ch : Nat) (ws : List Word) (d : Desc) (joined : Bool) : Option Nat :=
  if descReserved ws d then some 1
  else if (List.range 4).any (fun i => decide (i ≤ d.dims) && d.len i == 0) || decide (2 ^ 32 ≤ d.count) then some 2
  else if baseBad d d.base then some 3
  else if halvesBad c d then some 4
  else if gatherBad (s.core c) ch d then some 5
  else if d.index && (d.format != 5 || d.write || d.gather != 0) then some 6
  else if d.convEn && (d.write || !(d.format == 1 || d.format == 2)) then some 7
  else if d.rate == 0 || decide (256 < d.rate) then some 9
  else if armClaimBad s c t ch d (if joined then nearBase c else d.base) then some 12
  else none

/-- A conversion word that R70 refuses. -/
def convBad (w : Word) : Bool :=
  bits w 7 6 == 3 || (bit w 5 && bit w 4) || (bit w 5 && bits w 7 6 != 0) || bit w 16 || bits w 3 0 != 0

/-- A fault of the issuing task at a stream instruction; the channel named is left unarmed (R174). -/
def streamFault (s : State) (c t ch code : Nat) (addr : Option Nat) (d0 d1 : Word) : State :=
  let s1 := s.mapChan c ch (fun h => if h.task = some t then h.stop else h)
  taskFault s1 (slotStrm c) t (some c) code addr d0 d1

/-! ### Arming (R173, R183, R187) -/

/-- The predictor history at an arm, re-arm or resume (03_numbers_codebooks.md R74). -/
def Pred.arm (p : Pred) (keep : Bool) (sess : Nat) : Pred :=
  if keep && p.owner == some sess then p else ⟨[], some sess⟩

def bucketCap (d : Desc) : Nat := (d.burst + 1) * 256

/-- The channel as ARM, DLEAD or DJOIN leaves it: the walk starts at its first element, the bucket is full. -/
def armedChan (h : Chan) (d : Desc) (addr now t sess : Nat) (w0 : Word) : Chan :=
  { Chan.idle with
    armed := true, desc := d, descAddr := addr, base := d.base, scale := d.scale, conv := d.conv
    word0 := w0, task := some t, tokens := bucketCap d, armedAt := now
    flights := h.flights.map (fun f => { f with elems := 0 })
    pred := h.pred.arm (bit d.conv 31) sess, idxBase := 0 }

/-- The descriptor is read from the near store, its block verified as one that a consumer takes from
(R191, DEDUCED, log entry 15); then the checks of R174, R62 and R70 in that order. -/
def readDesc (s : State) (c t ch addr : Nat) (w0 : Word) (joined : Bool) : State ⊕ Desc :=
  match s.mem.verify (addr / 512) with
  | .poisoned w => .inl (streamFault s c t ch 0x0003 (some (addr / 512 * 512 + 8 * w)) (w32 ch ||| fld w 8) 0)
  | .mismatch x =>
    .inl (streamFault ((s.bump (slotStrm c) 0x050 1).pulse (slotStrm c) 3) c t ch 0x0002 (some (addr / 512 * 512))
      (w32 ch) x)
  | .good =>
    let ws := s.mem.words addr 16
    let d := parseDesc ws
    match descCode s c t ch ws d joined with
    | some code => .inl (streamFault s c t ch 0x0301 none (w32 code) w0)
    | none =>
      if !fFinite d.scale then .inl (streamFault s c t ch 0x0104 none (w32 ch) d.scale)
      else if d.convEn && convBad d.conv then .inl (streamFault s c t ch 0x0105 none (w32 ch) d.conv)
      else .inr d

/-- The checks that come before the descriptor is read (R174): 0x08, then 0x0B. -/
def preCode (s : State) (c t ch addr : Nat) : Option Nat :=
  if (chanClaim s t ch).isNone then some 8
  else if addr % 64 != 0 || region addr != .near c then some 11
  else none

/-- A channel that is armed when ARM names it is first disarmed (R173): the instruction waits. -/
def disarmFirst (s : State) (c ch : Nat) (q : QInst) : State :=
  s.mapChan c ch (fun h => { h with disarm := some q })

/-- The trace entry of ARM, DLEAD and DJOIN. -/
def traceArm (s : State) (c t ch addr : Nat) (ws : List Word) : State :=
  taskTrace s 3 0x08 (slotStrm c) t [w32 ch, w32 addr, w32 ((s.core c).chan ch).base, w32 (opcodeOf (wd ws 0))]

/-- ARM (R173, R174). -/
def issueArm (c : Nat) (s : State) (p : Prog) (ws : List Word) : State :=
  let w0 := wd ws 0
  let ch := chOf w0
  let addr := (wd ws 1).toNat
  match preCode s c p.task ch addr with
  | some code => streamFault s c p.task ch 0x0301 none (w32 code) w0
  | none =>
    if ((s.core c).chan ch).armed then disarmFirst s c ch (queued s c p ws) else
    if bits w0 20 0 != 0 || wd ws 2 != 0 || wd ws 3 != 0 then streamFault s c p.task ch 0x0301 none (w32 1) w0 else
    match readDesc s c p.task ch addr w0 false with
    | .inl t => t
    | .inr d =>
      let s1 := s.mapChan c ch (fun h => armedChan h d addr s.now p.task (taskSess s p.task) w0)
      advance (traceArm s1 c p.task ch addr ws) c p ws

def execArm (c : CoreId) (s : State) : Res := .next (issue opArm c.val (issueArm c.val) s)

/-! ### REARM (R176) -/

/-- The conversion word with the predictor fields that a REARM gives. -/
def rearmConv (h : Chan) (ws : List Word) : Word :=
  if bit (wd ws 0) 19 then (h.conv &&& 0x6001FFFF) ||| (wd ws 3 &&& 0x9FFE0000) else h.conv

def rearmScale (h : Chan) (ws : List Word) : Word := if bit (wd ws 0) 20 then wd ws 2 else h.scale

/-- The channel takes its blocks from a ring. -/
def isJoined (k : Core) (h : Chan) : Bool := (joinedSlot k h).isSome

/-- A reserved field of a REARM is set: fields that its flags leave unused must be 0. -/
def rearmReserved (ws : List Word) : Bool :=
  bits (wd ws 0) 18 0 != 0 || (!bit (wd ws 0) 20 && wd ws 2 != 0) || (!bit (wd ws 0) 19 && wd ws 3 != 0)
  || (wd ws 3 &&& 0x6001FFFF) != 0

/-- The codes of Table 7-4 that concern a REARM. -/
def rearmCode (s : State) (c t ch : Nat) (ws : List Word) : Option Nat :=
  let h := (s.core c).chan ch
  if (chanClaim s t ch).isNone then some 8
  else if !h.armed then some 10
  else if rearmReserved ws then some 1
  else if isJoined (s.core c) h then none
  else if baseBad h.desc (wd ws 1).toNat then some 3
  else if armClaimBad s c t ch h.desc (wd ws 1).toNat then some 12
  else none

/-- REARM is issued (R176). -/
def issueRearm (c : Nat) (s : State) (p : Prog) (ws : List Word) : State :=
  let w0 := wd ws 0
  let ch := chOf w0
  match rearmCode s c p.task ch ws with
  | some code => streamFault s c p.task ch 0x0301 none (w32 code) w0
  | none =>
    let h := (s.core c).chan ch
    if !fFinite (rearmScale h ws) then streamFault s c p.task ch 0x0104 none (w32 ch) (rearmScale h ws)
    else if h.desc.convEn && convBad (rearmConv h ws) then
      streamFault s c p.task ch 0x0105 none (w32 ch) (rearmConv h ws)
    else advance (s.mapChan c ch (fun h => { h with rearm := some (queued s c p ws) })) c p ws

def execRearm (c : CoreId) (s : State) : Res := .next (issue opRearm c.val (issueRearm c.val) s)

/-- An instruction of the core's queues names a channel. -/
def QInst.names (q : QInst) (ch : Nat) : Bool :=
  let w := q.words
  match opcodeOf (wd w 0) with
  | 0x21 => mmW w == ch || mmA w == ch
  | 0x22 => bits (wd w 0) 14 12 == ch || (bits (wd w 0) 19 18 != 0 && bits (wd w 0) 17 15 == ch)
  | 0x23 | 0x24 | 0x25 => bits (wd w 0) 16 14 == ch
  | 0x31 => bits (wd w 0) 13 11 == ch || bits (wd w 0) 10 8 == ch || bits (wd w 1) 19 17 == ch
            || bits (wd w 1) 16 14 == ch || bits (wd w 1) 13 11 == ch || bits (wd w 1) 10 8 == ch
  | 0x41 | 0x42 | 0x43 => chOf (wd w 0) == ch
  | _ => false

/-- The running drain or transfer has still to take an element from a channel or hand one to it. -/
def DrRun.busy (d : DrRun) (ch : Nat) : Bool :=
  d.inst.names ch &&
  (match d.feed with
   | some f => (f.ch == ch && decide (0 < f.need)) || ((d.inst.words.headD 0).toNat / 2 ^ 24 == 0x22
       && drOut d.inst.words == ch && (!d.released || !d.out.isEmpty))
   | none => drOut d.inst.words == ch && (!d.released || !d.out.isEmpty))

/-- An instruction issued earlier has not finished with a channel (R101). -/
def chanUsed (s : State) (c ch : Nat) : Bool :=
  let k := s.core c
  (k.arrQ ++ k.drQ ++ k.attQ).any (fun q => q.names ch)
  || (match k.mm with | some m => m.inst.names ch | none => false)
  || (match k.dr with | some d => d.busy ch | none => false)
  || (match k.att with | some a => a.inst.names ch | none => false)
  || s.fabric.ops.any (fun o => o.core == c && o.inst.names ch)
  || s.fabric.pend.any (fun p => p.core == c && p.kind == 1 && p.ch == ch)
  || s.fabric.inbox.any (fun x => x.core == c && x.ch == ch)

/-- The blocks of a member's present generation are finished with here; those that it has still to send on stay until
then (R201, R207; DEDUCED, log entry 108). -/
def ChSlot.dropGen (v : ChSlot) : ChSlot :=
  { v with ring := v.ring.map (fun b => if b.gen = v.gen then { b with used := true } else b) }

/-- A generation of a chain ends as the channel of the bellwether or of a member is re-armed or disarmed (R207, R209). -/
def leadNext (s : State) (c ch : Nat) (again : Bool) : State :=
  match ((s.core c).chan ch).chain with
  | some i =>
    match (s.core c).chSlot i with
    | some v =>
      let s1 := if v.lead then leadCancel s c i v (!again) else setSlotOf s c i v.dropGen
      let s2 := match (s1.core c).chSlot i with
        | some w => setSlotOf s1 c i (if again then w.nextGen else { w with joined := none, waitAt := none, left := !v.lead })
        | none => s1
      sweepRing s2 c i
    | none => s
  | none => s

/-- The bellwether's slot holds the walk of its generation (R206). -/
def leadSrc (s : State) (c ch : Nat) : State :=
  let h := (s.core c).chan ch
  match h.chain with
  | some i =>
    match (s.core c).chSlot i with
    | some v => if v.lead then setSlotOf s c i { v with srcs := Tbl.set v.srcs v.gen ⟨h.base, some h.desc⟩ } else s
    | none => s
  | none => s

/-- The channel as REARM leaves it (R176). -/
def rearmed (s : State) (k : Core) (h : Chan) (q : QInst) (sess : Nat) : Chan :=
  let conv := rearmConv h q.words
  { h with
    base := if isJoined k h then h.base else (wd q.words 1).toNat
    scale := rearmScale h q.words, conv := conv, word0 := wd q.words 0
    done := 0, fetched := 0, landed := 0, walked := 0, walkIn := 0, stored := 0, filled := 0
    flights := h.flights.map (fun f => { f with elems := 0 }), runEnd := 0, begun := 0, blocks := 0
    useHalf := 0, swaps := 0, auth := 0, armedAt := s.now, reqAt := none, primed := false
    waiting := false, waitFc := 0, excuse := 0, outBuf := [], rearm := none, marked := []
    pred := h.pred.arm (bit conv 31) sess
    idxBase := if h.desc.gather = 0 then 0 else (k.chan h.desc.ich).done }

/-- REARM_TAKE_EFFECT (R176): once earlier instructions have finished with the channel, and for a write
channel every element written has been granted. -/
def rearmEffect (s : State) (c ch : Nat) : State :=
  let h := (s.core c).chan ch
  match h.rearm with
  | some q =>
    if chanUsed s c ch || (h.desc.write && decide (h.fetched < h.done)) then s else
    let s1 := leadNext s c ch true
    let s2 := leadSrc (s1.mapCore c (fun k => k.setChan ch (rearmed s1 k (k.chan ch) q (taskSess s1 q.task)))) c ch
    taskTrace s2 3 0x09 (slotStrm c) q.task [w32 ch, w32 ((s2.core c).chan ch).base]
  | none => s

def execRearmTakeEffect (c : CoreId) (ch : ChanId) (s : State) : Res :=
  .next (onlyIf (s.coreRuns c.val) (fun t => rearmEffect (pull t c.val) c.val ch.val) s)

/-! ### SWAP (R180, R181) -/

/-- SWAP is issued: COUNT further swaps are authorised. -/
def issueSwap (c : Nat) (s : State) (p : Prog) (ws : List Word) : State :=
  let w0 := wd ws 0
  let ch := chOf w0
  let h := (s.core c).chan ch
  let n := bits (wd ws 1) 15 0
  let code := if (chanClaim s p.task ch).isNone then some 8
    else if !h.armed || h.desc.feed != 1 || n == 0 then some 10
    else if bits w0 20 0 != 0 || bits (wd ws 1) 31 16 != 0 || wd ws 2 != 0 || wd ws 3 != 0 then some 1 else none
  match code with
  | some x => streamFault s c p.task ch 0x0301 none (w32 x) w0
  | none => advance (s.mapChan c ch (fun h => { h with auth := h.auth + n })) c p ws

def execSwap (c : CoreId) (s : State) : Res := .next (issue opSwap c.val (issueSwap c.val) s)

/-- HALVES_SWAP (R180): the halves exchange roles. -/
def halvesSwap (s : State) (c ch : Nat) : State :=
  let h := (s.core c).chan ch
  if swapReady (s.core c) h then
    taskTrace (pull (s.mapChan c ch Chan.swap) c) 3 0x0B (slotStrm c) (h.task.getD 0) [w32 ch, w32 (h.swaps + 1)]
  else s

def execHalvesSwap (c : CoreId) (ch : ChanId) (s : State) : Res :=
  .next (onlyIf (s.coreRuns c.val) (fun t => halvesSwap (pull t c.val) c.val ch.val) s)

/-! ### DISARM (R177) -/

/-- DISARM is issued. -/
def issueDisarm (c : Nat) (s : State) (p : Prog) (ws : List Word) : State :=
  let w0 := wd ws 0
  let ch := chOf w0
  let h := (s.core c).chan ch
  let code := if (chanClaim s p.task ch).isNone then some 8
    else if !h.armed then some 10
    else if bits w0 20 0 != 0 || wd ws 1 != 0 || wd ws 2 != 0 || wd ws 3 != 0 then some 1 else none
  match code with
  | some x => streamFault s c p.task ch 0x0301 none (w32 x) w0
  | none => advance (s.mapChan c ch (fun h => { h with disarm := some (queued s c p ws) })) c p ws

def execDisarm (c : CoreId) (s : State) : Res := .next (issue opDisarm c.val (issueDisarm c.val) s)

/-- Everything a write channel was given lies in its store. -/
def writesDone (h : Chan) : Bool :=
  !h.desc.write || (h.outBuf.isEmpty && decide (h.done ≤ h.fetched) && !h.flights.any (·.write))

/-- DISARM_COMPLETE (R177): the channel is released. -/
def disarmDone (s : State) (c ch : Nat) : State :=
  let h := (s.core c).chan ch
  match h.disarm with
  | some q =>
    if chanUsed s c ch || !writesDone h then s
    else taskTrace ((leadNext s c ch false).mapChan c ch Chan.stop) 3 0x0A (slotStrm c) q.task [w32 ch, w32 h.done]
  | none => s

def execDisarmComplete (c : CoreId) (ch : ChanId) (s : State) : Res :=
  .next (onlyIf (s.coreRuns c.val) (fun t => disarmDone (pull t c.val) c.val ch.val) s)

/-! ### What a channel has to transfer (R164 to R168, R179 to R184) -/

/-- A transfer that a channel has to make: `from_` is its first element, `src` the block that a whole-block move takes. -/
structure Want where
  leg   : Leg
  from_ : Nat
  elems : Nat
  addr  : Nat
  whole : Bool
  write : Bool
  src   : Option Nat
  dry   : Nat
  deriving DecidableEq, Repr

/-- Slots of its port that a transfer uses (R182). -/
def Want.slots (w : Want) : Nat := if w.write && !w.whole then 2 else 1

/-- The index of a gathering channel's next element has been delivered (R171). -/
def indexReady (k : Core) (h : Chan) (n : Nat) : Bool :=
  h.desc.gather == 0 || decide (h.idxBase + n / max 1 h.desc.count < (k.chan h.desc.ich).landed)

/-- Bytes of an element count, rounded down. -/
def elemBytes (h : Chan) (n : Nat) : Nat := n * fmtNibs h.desc.format / 2

/-- Elements of 16 blocks, as many as the stream engine holds of a channel. -/
def holdMost (h : Chan) : Nat := 16 * (1024 / max 1 (fmtNibs h.desc.format))

/-- The channel writes out what it has, whole blocks or not: it is being re-armed or disarmed, or its task suspended
(R176, R177, R181, R196). -/
def flushing (s : State) (h : Chan) : Bool :=
  h.rearm.isSome || h.disarm.isSome ||
  (match h.task with
   | some t => (match s.task t with | some x => x.st == .draining | none => false)
   | none => false)

/-- Elements `n` to `n + len - 1` of the walk are one aligned block in order, and so is their place in the halves: the fill
or the writing-out of a half moves the block whole (R190). -/
def moveWhole (s : State) (k : Core) (h : Chan) (n len : Nat) : Bool :=
  let nibs := fmtNibs h.desc.format
  h.desc.feed == 1 && decide (len * nibs = 1024) && halfNib h n % 1024 == 0 && chanNib s k h n % 1024 == 0
  && (List.range len).all (fun i => chanNib s k h (n + i) == chanNib s k h n + i * nibs)

/-- The cells that elements from `n` on fill, in walk order (R58, R181): an element in the high half of a byte leaves the
low half as it is, one in the low half places 0 in the high half (R170). -/
def cellsOf (s : State) (nibs : Nat) (nib : Nat → Nat) (n : Nat) (vals : List Word) : List Host.Cell :=
  vals.zipIdx.foldl (fun cs p =>
    let a := nib (n + p.2)
    if nibs = 1 then
      let old := Tbl.getD cs (a / 2) (s.mem.read (a / 2))
      Tbl.set cs (a / 2) (if a % 2 = 0 then b8 (p.1.toNat % 16) else b8 (old.toNat % 16 + 16 * (p.1.toNat % 16)))
    else (List.range (nibs / 2)).foldl (fun cs j => Tbl.set cs (a / 2 + j) (b8 (p.1.toNat / 256 ^ j))) cs) []

/-- The elements of a transfer that writes: from the producer or the fetched walk into the walk or a half, or from the
halves into the walk. -/
def writeVals (s : State) (h : Chan) (leg : Leg) (n len : Nat) : List Word :=
  if leg = .walk ∧ h.desc.feed = 1 then
    (List.range len).map (fun i => s.mem.elem (fmtNibs h.desc.format) (halfNib h (n + i)))
  else h.outBuf.take len

/-- The cells of a transfer that writes. -/
def writeCells (s : State) (k : Core) (h : Chan) (leg : Leg) (n len : Nat) : List Host.Cell :=
  cellsOf s (fmtNibs h.desc.format) (if leg = .half then halfNib h else chanNib s k h) n (writeVals s h leg n len)

/-- A transfer that reads `len` elements from `n` on. -/
def readOf (s : State) (k : Core) (h : Chan) (leg : Leg) (n len dry : Nat) : Want :=
  { leg := leg, from_ := n, elems := len, addr := (if leg = .walk then chanNib s k h n else takeNib s k h n) / 2
    whole := false, write := false, src := none, dry := dry / (2 * max 1 h.desc.rate) }

/-- A transfer that writes `len` elements from `n` on: whole where it covers its block (R182). -/
def writeOf (s : State) (k : Core) (h : Chan) (leg : Leg) (n len dry : Nat) : Want :=
  let move := moveWhole s k h n len
  { leg := leg, from_ := n, elems := len, addr := (if leg = .half then halfNib h n else chanNib s k h n) / 2
    whole := decide ((writeCells s k h leg n len).length = 512), write := true
    src := if move then some ((if leg = .half then chanNib s k h n else halfNib h n) / 1024) else none
    dry := dry / (2 * max 1 h.desc.rate) }

/-- Bytes that a read channel holds of its queue, or of its halves where it fills them (R184). -/
def readDry (h : Chan) (leg : Leg) : Nat :=
  elemBytes h ((if h.desc.feed = 1 ∧ leg ≠ .queue then h.filled else h.fetched) - h.done)

/-- Bytes free in the queue of a write channel, or in its half in use (R184). -/
def writeDry (h : Chan) : Nat :=
  if h.desc.feed = 1 then elemBytes h (h.useEnd - h.done)
  else 512 * (h.desc.qdepth + 1) - elemBytes h (h.done - h.fetched)

/-- The queue of a read channel has room for another block (R179). -/
def queueRoom (s : State) (k : Core) (h : Chan) : Bool := decide (queueFill s k h < h.desc.qdepth + 1)

/-- The line of a bellwether's drove unit has room for another block: it holds as many as a ring has entries. DESIGN CHOICE,
log entry 108. -/
def lineRoom (k : Core) (h : Chan) : Bool :=
  match h.chain with
  | some i =>
    match k.chSlot i with
    | some v => !v.lead || decide (v.ring.length + h.flights.length < v.ringSize)
    | none => true
  | none => true

/-- The block of the walk that a joined channel that catches up is to read (08_drove_chains.md R213): committed, not in the
ring and not on its way there. -/
def lacks (v : ChSlot) (seq : Nat) : Bool :=
  v.catches && decide (seq < v.committed v.gen) && (v.blockOf seq).isNone
  && !v.coming.any (fun m => match m.block with | some b => b.gen == v.gen && b.seq == seq | none => false)

/-- What the queue of a joined channel takes next: a committed block of its ring, or one of the bellwether's walk that it
reads itself (08_drove_chains.md R206, R208, R213). -/
def joinedWant (s : State) (c : Nat) (k : Core) (h : Chan) (v : ChSlot) : List Want :=
  if v.src.isNone || chanTotal k h ≤ h.fetched || !queueRoom s k h then [] else
  let w := readOf s k h .queue h.fetched (transferLen s k h h.fetched) (readDry h .queue)
  match v.blockOf v.nextSeq with
  | some b => if v.nextSeq < v.committed v.gen then [{ w with addr := ringAddr c v b.entry }] else []
  | none => if lacks v v.nextSeq && !v.desc.fabric then [w] else []

/-- What a read channel's queue takes from the walk or from its halves (R179, R180). -/
def queueWant (s : State) (k : Core) (h : Chan) : List Want :=
  let n := h.fetched
  let len := queueLen s k h n
  let there := if h.desc.feed = 1 then decide (n + len ≤ h.filled) && decide (n < h.useEnd)
    else indexReady k h n && lineRoom k h
  if chanTotal k h ≤ n || !there || !queueRoom s k h then [] else [readOf s k h .queue n len (readDry h .queue)]

/-- What the fill of the halves takes from the walk, as far as the half that is being filled reaches (R180). -/
def fillWant (s : State) (k : Core) (h : Chan) : List Want :=
  let n := h.walked
  if chanTotal k h ≤ n || !indexReady k h n || h.desc.perHalf * (h.swaps + 2) ≤ n || holdMost h ≤ n - h.stored then []
  else [readOf s k h .walk n (min (transferLen s k h n) (h.desc.perHalf - n % max 1 h.desc.perHalf)) (readDry h .walk)]

/-- What goes into the halves: a block of them once all its elements are there, and the rest where no more come (R180,
R181). -/
def storeWant (s : State) (k : Core) (h : Chan) : List Want :=
  let n := h.stored
  let here := if h.desc.write then h.done else h.walkIn
  let len := halfLen k h n
  let dry := if h.desc.write then writeDry h else readDry h .half
  if here ≤ n then []
  else if n + len ≤ here then [writeOf s k h .half n len dry]
  else if h.desc.write && flushing s h then [writeOf s k h .half n (here - n) dry]
  else []

/-- The end of what a write channel with halves writes out: the half that is full, or everything where it is flushed. -/
def outLimit (s : State) (h : Chan) : Nat :=
  if flushing s h then h.filled else min h.filled (h.desc.perHalf * h.swaps)

/-- What a write channel reads back from its halves (R181). -/
def backWant (s : State) (k : Core) (h : Chan) : List Want :=
  let n := h.walked
  if outLimit s h ≤ n || holdMost h ≤ n - h.fetched then []
  else [readOf s k h .queue n (min (halfLen k h n) (outLimit s h - n)) (writeDry h)]

/-- What a write channel writes to its walk: a block once it is complete or the walk leaves it, or what there is at the end
of a half and when it is flushed (R176, R177, R181, R196). -/
def writeWant (s : State) (k : Core) (h : Chan) : List Want :=
  let n := h.fetched
  let here := if h.desc.feed = 1 then h.walkIn else h.done
  let rest := if h.desc.feed = 0 then flushing s h
    else decide (here = if flushing s h then h.done else h.desc.perHalf * h.swaps)
  let len := transferLen s k h n
  if here ≤ n then []
  else if n + len ≤ here then [writeOf s k h .walk n len (writeDry h)]
  else if rest then [writeOf s k h .walk n (here - n) (writeDry h)]
  else []

/-- The transfers that a channel has to make next, were its bucket full and its ports free. -/
def chanWants (s : State) (c ch : Nat) : List Want :=
  let k := s.core c
  let h := k.chan ch
  match h.task with
  | some t =>
    if !h.armed || aborting s t || !s.coreRuns c then []
    else
      match joinedSlot k h with
      | some (_, v) => joinedWant s c k h v
      | none =>
        if h.desc.write then writeWant s k h ++ (if h.desc.feed = 1 then storeWant s k h ++ backWant s k h else [])
        else queueWant s k h ++ (if h.desc.feed = 1 then fillWant s k h ++ storeWant s k h else [])
  | none => []

/-- A transfer draws from the channel's bucket (R183): one of the walk, or of a joined channel's ring; the transfers of the
halves within the core draw nothing. DEDUCED, log entry 105. -/
def Want.draws (h : Chan) (w : Want) : Bool := w.leg == .walk || h.desc.feed == 0

def Want.cost (h : Chan) (w : Want) : Nat := if w.draws h then 256 * w.slots else 0

/-- Transfers outstanding on a core's engine. -/
def engineOut (k : Core) : Nat := (k.chans.map (fun p => p.2.flights.length)).foldl (· + ·) 0

/-- A channel is ready for a transfer (R184): it has tokens for it, and R166 permits another. -/
def chanReady (k : Core) (h : Chan) (w : Want) : Bool :=
  decide (w.cost h ≤ h.tokens) && decide (h.flights.length < 4) && decide (engineOut k < 8)

/-! ### Transfers that must not be made -/

/-- The fault of an index that cannot be verified (R171). -/
def indexFault (s : State) (c : Nat) (k : Core) (h : Chan) (w : Want) : Option State :=
  if h.desc.gather = 0 then none else
  let i := h.desc.ich
  let x := h.idxBase + w.from_ / max 1 h.desc.count
  let blk := (k.chan i).desc.nibAt (k.chan i).base x / 1024
  if x < (k.chan i).done then none else
  match s.mem.verify blk with
  | .good => none
  | v => some (blockFault s c i blk v)

/-- A transfer of the walk that must not be made: a reserved address, task
memory or a breach of the claim (R24, R168, R175), a store behind a hurdle (16_faults_recovery.md R422) or in nap or
off (14_power_clocks.md R383), or an index that cannot be verified (R171). -/
def walkFault (s : State) (c ch : Nat) (w : Want) : Option State :=
  let k := s.core c
  let h := k.chan ch
  if w.addr ≥ 0xA0000000 || region w.addr == .reserved || region w.addr == .taskMem then
    some (chanFault s c ch 0x0001 (some w.addr) (w32 ch) (w32 w.from_)) else
  let bad := match h.task with
    | some t =>
      match chanClaim s t ch with
      | some cl => !isJoined k h && !claimAllows c cl h.desc.rate w.addr
      | none => true
    | none => false
  if bad then some (chanFault s c ch 0x0301 none (w32 12) h.word0) else
  if regionCore w.addr != some c && s.reach w.addr == .hurdle then some (chanFault s c ch 0x0005 (some w.addr) 0 0) else
  if s.reach w.addr == .closed then some (chanFault s c ch 0x0001 (some w.addr) (w32 ch) (w32 w.from_)) else
  indexFault s c k h w

/-- A transfer that must not be made ends the channel's task: one of the walk by the rules of the walk, the first of a
joined channel's generation where its walk differs from the bellwether's (08_drove_chains.md Table 8-3, code 0x06). The
transfers of the halves stay in the own near store. -/
def wantFault (s : State) (c ch : Nat) (w : Want) : Option State :=
  let k := s.core c
  let h := k.chan ch
  if h.desc.feed = 1 ∧ w.leg ≠ .walk then none else
  match joinedSlot k h with
  | some (_, v) =>
    if !walkAgrees v h.desc then
      match h.task with
      | some t => some (taskFault (s.mapChan c ch Chan.stop) (slotDrove c) t (some c) 0x0311 none (w32 6) h.word0)
      | none => none
    else walkFault s c ch w
  | none => walkFault s c ch w

/-- A channel whose next transfer finds a domain in doze wakes it, and waits (14_power_clocks.md R383, R464). -/
def wantWake (s : State) (w : Want) : Option State :=
  if s.reach w.addr != .wait then none else
  match storeDom w.addr with
  | some d => if (s.dom d).waking then none else some (startWake s d)
  | none => none

/-- The first channel at a port whose next transfer must not be made, or has to wake its store's domain. -/
def portFaults (s : State) (p : Nat) : Option State :=
  s.cores.findSome? (fun e =>
    (List.range 8).findSome? (fun ch =>
      (chanWants s e.1 ch).findSome? (fun w =>
        if portOf w.addr != p then none else
        match wantFault s e.1 ch w with
        | some u => some u
        | none => wantWake s w)))

/-! ### Grants (R164 to R167, R182, R183) -/

/-- The positions of a channel once a transfer of it is granted. -/
def Chan.moved (h : Chan) (w : Want) : Chan :=
  let h1 := match w.leg with
    | .walk => if h.desc.write then { h with fetched := h.fetched + w.elems } else { h with walked := h.walked + w.elems }
    | .half => { h with stored := h.stored + w.elems }
    | .queue =>
      if h.desc.write then { h with walked := h.walked + w.elems }
      else { h with fetched := h.fetched + w.elems, blocks := h.blocks + 1 }
  { h1 with tokens := h1.tokens - w.cost h, reqAt := none
            outBuf := if w.write && !(h.desc.feed == 1 && w.leg == .walk) then h1.outBuf.drop w.elems else h1.outBuf }

/-- The transfer in flight of a grant: it ends after the latency of its store (R164, R167). -/
def flightOf (s : State) (c : Nat) (k : Core) (h : Chan) (w : Want) : Flight :=
  { leg := w.leg, elems := w.elems, at_ := s.now + latency c w.addr, write := w.write, block := w.addr / 512
    cells := if w.write then writeCells s k h w.leg w.from_ w.elems else [], src := w.src, task := h.task.getD 0, live := true }

/-- A gathering channel has taken the indices up to that of the transfer (R171). -/
def takeIndex (k : Core) (h : Chan) (w : Want) : Core :=
  if h.desc.gather = 0 then k
  else if h.desc.feed = 1 ∧ w.leg ≠ .walk then k
  else
    let i := k.chan h.desc.ich
    let x := h.idxBase + w.from_ / max 1 h.desc.count + 1
    k.setChan h.desc.ich { i with done := max i.done x, runEnd := max i.runEnd x }

/-- A joined channel's queue goes on to the next block of its generation. -/
def takeSeq (k : Core) (h : Chan) (w : Want) (c : Nat) : Core × Bool :=
  match joinedSlot k h with
  | some (i, v) => (k.setChSlot i { v with nextSeq := v.nextSeq + 1, waitAt := none }, region w.addr != .near c || (v.blockOf v.nextSeq).isNone)
  | none => (k, false)

/-- The grant of a channel's next transfer. -/
def grantTo (s : State) (c ch : Nat) (w : Want) : State :=
  let k := s.core c
  let h := k.chan ch
  let k1 := takeIndex (k.setChan ch { h.moved w with flights := h.flights ++ [flightOf s c k h w] }) h w
  let k2 := takeSeq k1 h w c
  let s1 := (s.setCore c k2.1).bump (slotStrm c) 0x040 1
  let s2 := if k2.2 then s1.bump (slotDrove c) 0x050 1 else s1
  let s3 := if w.slots = 2 then s2.bump (slotStrm c) 0x044 1 else s2
  let s4 := takePort s3 (portOf w.addr) w.slots
  let s5 := match regionCore w.addr with
    | some o => if o = c then s4 else s4.bump (slotStrm o) 0x058 w.slots
    | none => s4.bump slotHerd 0x064 w.slots
  touchDom (countSlots s5 w.addr w.slots) w.addr

/-- A request at a port: dry time, local first, order of arrival, core and channel (R184). -/
structure Request where
  dry   : Nat
  away  : Bool
  since : Nat
  core  : Nat
  ch    : Nat
  want  : Want
  deriving DecidableEq, Repr

/-- One request comes before another (R184). -/
def Request.before (a b : Request) : Bool :=
  if a.dry != b.dry then decide (a.dry < b.dry)
  else if a.away != b.away then !a.away
  else if a.away then
    (if a.since != b.since then decide (a.since < b.since)
     else if a.core != b.core then decide (a.core < b.core) else decide (a.ch < b.ch))
  else decide (a.ch < b.ch)

/-- The ready channels at a port. -/
def requestsAt (s : State) (p : Nat) : List Request :=
  s.cores.flatMap (fun e =>
    (List.range 8).flatMap (fun ch =>
      (chanWants s e.1 ch).filterMap (fun w =>
        if portOf w.addr = p && chanReady e.2 (e.2.chan ch) w && s.reach w.addr == .ready
          && (wantFault s e.1 ch w).isNone then
          some { dry := w.dry, away := regionCore w.addr != some e.1, since := (e.2.chan ch).reqAt.getD s.now,
                 core := e.1, ch := ch, want := w }
        else none)))

def bestOf : List Request → Option Request
  | [] => none
  | r :: t =>
    match bestOf t with
    | some q => if q.before r then some q else some r
    | none => some r

/-- A member that catches up and has not received the first block of its generation takes the walk from the bellwether
(08_drove_chains.md R213). -/
def learnWalk (s : State) (c ch : Nat) : State :=
  match joinedSlot (s.core c) ((s.core c).chan ch) with
  | some (i, v) =>
    if v.src.isSome || !v.catches then s else
    match (memberSlot s v (v.desc.members.headD 0)).bind (fun p => Tbl.get p.2.srcs v.gen) with
    | some x => setSlotOf s c i { v with srcs := Tbl.set v.srcs v.gen x }
    | none => s
  | none => s

/-- The fc in which a channel's request arose (R184). -/
def noteRequest (s : State) (c ch : Nat) : State :=
  let h := (s.core c).chan ch
  let on := !(chanWants s c ch).isEmpty
  if on == h.reqAt.isSome then s else s.mapChan c ch (fun h => { h with reqAt := if on then some s.now else none })

/-! ### TRANSFER_COMPLETE (R166) -/

/-- The write of cells of one block: the merge of R182, with the new check value. -/
def mergeCells (m : Memory) (blk : Nat) (cells : List Host.Cell) : Verdict × Memory :=
  let wholeWord := fun w => (List.range 8).all (fun j => (Tbl.get cells (blk * 512 + w * 8 + j)).isSome)
  let full := decide (cells.length = 512)
  let v : Verdict :=
    match (m.poisonIn blk).filter (fun w => !wholeWord w) with
    | w :: _ => .poisoned w
    | [] => if full then .good else m.compare blk
  match v with
  | .good =>
    let m1 := cells.foldl (fun m c => m.write c.1 c.2) m
    let keep := m1.poison.filter (fun w => !(w / 64 == blk && wholeWord (w % 64)))
    let m2 : Memory := { m1 with poison := sideCleared keep blk }
    (.good, m2.setCheck blk (blockCheck (m2.block blk)))
  | x => (x, m)

/-- A merge or a verification of a channel's transfer has failed: its task is aborted, unless it has been stopped. -/
def flightFault (s : State) (c ch : Nat) (f : Flight) (v : Verdict) : State :=
  match v with
  | .good => s
  | .poisoned w =>
    if !f.live then s else
    taskFault s (slotStrm c) f.task (some c) 0x0003 (some (f.block * 512 + 8 * w)) (w32 ch ||| fld w 8)
      (flag (markedBy ((s.core c).chan ch).marked f.block w) 0)
  | .mismatch x =>
    let s1 := (s.bump (slotStrm c) 0x050 1).pulse (slotStrm c) 3
    if !f.live then s1 else taskFault s1 (slotStrm c) f.task (some c) 0x0002 (some (f.block * 512)) (w32 ch) x

/-- A channel's write reaches its store: a whole block moves with its check value and marks (R190), other bytes are
merged. -/
def landWrite (s : State) (c ch : Nat) (f : Flight) : State :=
  let s1 := s.mapChan c ch (fun h =>
    if f.leg = .half then { h with filled := h.filled + f.elems } else { h with landed := h.landed + f.elems })
  match f.src with
  | some b => s1.mapMem (fun m => m.moveBlock b f.block)
  | none =>
    match mergeCells s.mem f.block f.cells with
    | (.good, m) => { s1 with mem := m }
    | (v, _) => flightFault s1 c ch f v

/-- A bellwether's block enters the line of its drove unit (R205). -/
def landLead (s : State) (c : Nat) (h : Chan) (f : Flight) : State :=
  match h.chain with
  | some i =>
    match (s.core c).chSlot i with
    | some v =>
      if v.lead then
        let b := grabBlock s f.block v.gen v.nextSeq (if v.nextSeq = 0 then v.src else none)
        setSlotOf s c i { v with ring := v.ring ++ [b], nextSeq := v.nextSeq + 1 }
      else s
    | none => s
  | none => s

/-- Elements for a half, or from one, have been read: but for a whole-block move, this consumes their block, which is
verified (R190, R191). -/
def landStage (s : State) (c ch : Nat) (f : Flight) : State :=
  let k := s.core c
  let h := k.chan ch
  let n := h.walkIn
  let v := if moveWhole s k h n f.elems then .good else s.mem.verify f.block
  match v with
  | .good =>
    let vals := (List.range f.elems).map (fun i => s.mem.elem (fmtNibs h.desc.format) (chanNib s k h (n + i)))
    s.mapChan c ch (fun h => { h with walkIn := h.walkIn + f.elems, outBuf := if f.leg = .walk then h.outBuf ++ vals else h.outBuf })
  | v => flightFault s c ch f v

/-- A channel's read data reach it; those of a task that has met a fault are discarded (R195). -/
def landRead (s : State) (c ch : Nat) (f : Flight) : State :=
  if f.elems = 0 || aborting s f.task then s else
  let h := (s.core c).chan ch
  if f.leg = .walk ∨ h.desc.write then landStage s c ch f
  else (landLead s c h f).mapChan c ch (fun h => { h with landed := h.landed + f.elems })

/-- The first transfer that is due among those of which no earlier one of the same kind is outstanding: the data of one
kind of a channel's transfers come in their order. -/
def firstDue (now : Nat) : List Flight → List Leg → Option Flight
  | [], _ => none
  | f :: t, late => if f.at_ ≤ now ∧ f.leg ∉ late then some f else firstDue now t (f.leg :: late)

def dueFlight (s : State) (h : Chan) : Option Flight := firstDue s.now h.flights []

/-- A list without the first element equal to the given one. -/
def dropFirst {α : Type} [DecidableEq α] (x : α) : List α → List α
  | [] => []
  | y :: t => if y = x then t else y :: dropFirst x t

/-- TRANSFER_COMPLETE: one transfer in flight ends (R166). -/
def transferDone (s : State) (c ch : Nat) : State :=
  let h := (s.core c).chan ch
  match dueFlight s h with
  | some f =>
    let s1 := s.mapChan c ch (fun h => { h with flights := dropFirst f h.flights })
    pull (if f.write then landWrite s1 c ch f else landRead s1 c ch f) c
  | none => s

def execTransferComplete (c : CoreId) (ch : ChanId) (s : State) : Res :=
  .next (transferDone s c.val ch.val)

/-! ### Priming (R187) -/

/-- The latency by which a channel primes (R187): that of the near port for a joined channel, which reads its ring; for an
address gather, whose walks have no BASE, the largest of the stores that its claim names (log entry 105). -/
def primeLatency (s : State) (c ch : Nat) (h : Chan) : Nat :=
  if isJoined (s.core c) h then 2
  else if h.desc.gather = 2 then
    match h.task with
    | some t =>
      match chanClaim s t ch with
      | some cl =>
        max (if bit cl.w1 24 then 6 else 2) (if bit cl.w2 31 then latency c (nearBase (bits cl.w2 23 16)) else 0)
      | none => 2
    | none => 2
  else latency c h.base

/-- The priming time of a channel. -/
def chanPrime (s : State) (c ch : Nat) (h : Chan) : Nat := primeTime (primeLatency s c ch h) h

/-- CHANNEL_PRIMED: the priming time since the last ARM or REARM has passed. -/
def channelPrimed (s : State) (c ch : Nat) : State :=
  let h := (s.core c).chan ch
  if h.armed && !h.primed && decide (h.armedAt + chanPrime s c ch h ≤ s.now) then
    s.mapChan c ch (fun h => { h with primed := true })
  else s

def execChannelPrimed (c : CoreId) (ch : ChanId) (s : State) : Res :=
  .next (onlyIf (s.coreRuns c.val) (fun t => channelPrimed t c.val ch.val) s)

/-! ### DLEAD and DJOIN (08_drove_chains.md R204) -/

/-- The claim of the task that a chain instruction names. -/
def chainClaim (s : State) (t : Nat) (w0 : Word) : Option Claim :=
  match (taskClaims s t)[bits w0 20 13]? with
  | some cl => if cl.type = 5 then some cl else none
  | none => none

/-- The chain slot of the claim on this core. -/
def claimSlot (s : State) (c t : Nat) (w0 : Word) : Option (Nat × ChSlot) :=
  match chainClaim s t w0, s.task t with
  | some cl, some k => (s.core c).findChain k.inst (bits cl.w0 7 0)
  | _, _ => none

/-- The cases of Table 8-3 that do not need the descriptor. -/
def setupCode (s : State) (c t ch : Nat) (lead : Bool) (ws : List Word) : Option Nat :=
  let w0 := wd ws 0
  if bits w0 12 0 != 0 || wd ws 2 != 0 || wd ws 3 != 0 then some 1 else
  match claimSlot s c t w0 with
  | none => some 2
  | some (i, v) =>
    if lead != v.lead then some 3
    else if ((s.core c).chan ch).chain.isSome && ((s.core c).chan ch).chain != some i then some 7
    else if v.joined.isSome && v.joined != some ch then some 7
    else none

/-- A fault DROVE_SETUP: the channel is left unarmed. -/
def setupFault (s : State) (c t ch code : Nat) (w0 : Word) : State :=
  taskFault (s.mapChan c ch (fun h => if h.task = some t then h.stop else h)) (slotDrove c) t (some c) 0x0311 none
    (w32 code) w0

/-- The channel and its chain slot are bound to each other, at generation 0. -/
def bindChain (s : State) (c t ch i : Nat) (v : ChSlot) (h : Chan) : State :=
  let w := { v with joined := some ch, task := some t, nextSeq := 0, gen := 0, waitAt := none, left := false }
  let w1 := if v.lead then { w with commits := [], cancels := [], srcs := [(0, ⟨h.base, some h.desc⟩)], ended := false } else w
  (s.mapChan c ch (fun _ => { h with chain := some i })).mapCore c (fun k => k.setChSlot i w1)

/-- DLEAD (`lead`) or DJOIN is issued. -/
def issueChain (lead : Bool) (c : Nat) (s : State) (p : Prog) (ws : List Word) : State :=
  let w0 := wd ws 0
  let ch := chOf w0
  let addr := (wd ws 1).toNat
  match preCode s c p.task ch addr with
  | some code => streamFault s c p.task ch 0x0301 none (w32 code) w0
  | none =>
    match setupCode s c p.task ch lead ws with
    | some code => setupFault s c p.task ch code w0
    | none =>
      if ((s.core c).chan ch).armed then disarmFirst s c ch (queued s c p ws) else
      match readDesc s c p.task ch addr w0 (!lead) with
      | .inl t => t
      | .inr d =>
        if d.write || d.feed != 0 || d.gather != 0 || d.index then setupFault s c p.task ch 4 w0 else
        match claimSlot s c p.task w0 with
        | none => s
        | some (i, v) =>
          if lead && d.rate != v.desc.rate then setupFault s c p.task ch 5 w0 else
          let h := armedChan ((s.core c).chan ch) d addr s.now p.task (taskSess s p.task) w0
          advance (traceArm (bindChain s c p.task ch i v h) c p.task ch addr ws) c p ws

def execDlead (c : CoreId) (s : State) : Res := .next (issue opDlead c.val (issueChain true c.val) s)

def execDjoin (c : CoreId) (s : State) : Res := .next (issue opDjoin c.val (issueChain false c.val) s)

end Sys2Proof.Machine
end

