-- ==== Sys2Proof/Machine/Codebook.lean ====
section
/-! DEFINITION. The codebook store: record groups, lookups, loads and pins (03_numbers_codebooks.md R57
to R61, R75 to R86, R468). -/

namespace Sys2Proof.Machine

/-! ### Records -/

/-- LEVEL_CHECK (R61). -/
def levelGo (c i : Nat) : List Byte → Nat
  | [] => c
  | b :: t =>
    let rot := (c * 128 + c / 2 ^ 25) % 2 ^ 32
    levelGo (rot ^^^ (b.toNat * 0x9E37 % 2 ^ 32) ^^^ i) (i + 1) t

def levelCheck (lv : List Byte) : Word := w32 (levelGo lv.length 0 lv)

/-- A record of a group: TAG, LEVEL_CHECK field, levels. -/
structure Record where
  tag    : Word
  e256   : Bool
  check  : Word
  levels : List Byte
  deriving DecidableEq, Repr

/-- The record at a position of a block, with its reserved bits (Table 3-3). -/
def recordAt (bs : List Byte) (pos n : Nat) : Record × Bool :=
  let b := bs.drop (32 * pos)
  let h := leWords (b.take 16)
  ({ tag := wd h 0, e256 := bit (wd h 1) 0, check := wd h 2, levels := (b.drop 16).take n },
   bits (wd h 1) 31 1 != 0 || wd h 3 != 0)

/-- Positions of a 16-entry group that hold a record (R60). -/
def groupCount (bs : List Byte) : Nat → Nat → Nat
  | 0, n => n
  | fuel + 1, n => if ((bs.drop (32 * n)).take 32).all (· == 0) then n else groupCount bs fuel (n + 1)

/-- The records of a group, or `none` where it breaks R60. -/
def groupOfBlock (bs : List Byte) : Option (List Record) :=
  let first := recordAt bs 0 256
  if first.1.e256 then (if first.2 then none else some [first.1])
  else
    let n := groupCount bs 15 1
    let rs := (List.range n).map (fun p => recordAt bs p 16)
    if rs.any (fun r => r.2 || r.1.e256) || !(bs.drop (32 * n)).all (· == 0) then none
    else some (rs.map (·.1))

/-- A codebook of which every level lies in -8 to +7. -/
def Book.narrow (b : Book) : Bool := b.levels.all (fun v => decide (-8 ≤ v.toInt) && decide (v.toInt ≤ 7))

/-! ### Identity (R75, R78) -/

def Book.hasKey (b : Book) (tenant : Nat) (e256 : Bool) (tag : Word) : Bool :=
  tag != 0 && b.tag == tag && b.tenant == tenant && b.e256 == e256

/-- The lowest-numbered slot that holds a key, with the sub-position; failed and loading slots hold none. -/
def findBook (k : Core) (tenant : Nat) (e256 : Bool) (tag : Word) : Option (Nat × Nat) :=
  (List.range 16).findSome? (fun i =>
    let v := k.slot i
    if v.failed || v.loading then none
    else (v.books.findIdx? (fun b => b.hasKey tenant e256 tag)).map (fun p => (i, p)))

def bookAt (k : Core) (i p : Nat) : Option Book := (k.slot i).books[p]?

/-- The slot in which every want of a group hits, with the sub-positions (R78). -/
def groupHit (k : Core) (tenant : Nat) (ws : List CbWant) : Option (Nat × List Nat) :=
  let hits := ws.map (fun w => findBook k tenant w.e256 w.tag)
  match hits with
  | some (i, _) :: _ =>
    if hits.all (fun h => match h with | some p => p.1 == i | none => false)
    then some (i, hits.map (fun h => match h with | some p => p.2 | none => 0)) else none
  | _ => none

/-- The slot that R79 chooses. -/
def chooseSlot (k : Core) : Option Nat :=
  match (List.range 16).find? (fun i =>
      let v := k.slot i
      v.books.isEmpty && !v.loading && v.pins.isEmpty && v.claims.isEmpty) with
  | some i => some i
  | none =>
    ((List.range 16).filter (fun i =>
      let v := k.slot i
      v.pins.isEmpty && v.claims.isEmpty && !v.loading)).foldl (fun best i =>
        match best with
        | none => some i
        | some j => if (k.slot i).granted < (k.slot j).granted then some i else some j) none

/-! ### Claims -/

/-- Die address of a record group of a claim or pin on a core. -/
def groupAddr (c : Nat) (column : Bool) (off : Nat) : Nat := (if column then columnBase c else nearBase c) + off

def Claim.group (c : Nat) (cl : Claim) : Nat := groupAddr c (bit cl.w0 24) (bits cl.w3 22 0)

/-- A codebook claim as what a load must find (Table 9-5). -/
def Claim.want (cl : Claim) (idx : Nat) : CbWant :=
  { claim := idx, index := bits cl.w0 23 20, e256 := bit cl.w0 26, tag := cl.w1, check := cl.w2 }

/-- The codebook claims of a task with their indices. -/
def bookClaims (s : State) (t : Nat) : List (Nat × Claim) :=
  (taskClaims s t).zipIdx.filterMap (fun p => if p.1.type = 2 then some (p.2, p.1) else none)

/-- A fault of the store: of a task, or of a load without one (R468). -/
def bookFault (s : State) (c : Nat) (task : Option Nat) (code claim : Nat) (addr : Option Nat) (d1 : Word) : State :=
  match task with
  | some t => taskFault s (slotArr c) t (some c) code addr (w32 claim) d1
  | none => s.fault (slotArr c) { code := code, core := some c, addr := addr, d0 := 0xFFFF, d1 := d1 }

/-- A task gets its claims on codebooks of a slot; the slot counts as granted now (R79). -/
def grantBooks (s : State) (c t i : Nat) (ps : List (Nat × Nat)) : State :=
  let s1 := s.mapCore c (fun k =>
    let v := k.slot i
    k.setSlot i { v with claims := if v.claims.contains t then v.claims else v.claims ++ [t], granted := s.now })
  match s1.task t with
  | some k =>
    setTask s1 t { k with books := ps.foldl (fun b p => Tbl.set b (c * 256 + p.1) (16 * i + p.2)) k.books }
  | none => s1

/-- The wants of a group that hit are compared by LEVEL_CHECK (R76): the first that differs. -/
def conflictOf (k : Core) (i : Nat) (ps : List (CbWant × Nat)) : Option (CbWant × Nat) :=
  ps.find? (fun p => match bookAt k i p.2 with | some b => b.check != p.1.check | none => false)

/-- The first want of a group that hits a codebook with another LEVEL_CHECK, with its place (R76). -/
def groupConflict (k : Core) (tenant : Nat) (ws : List CbWant) : Option (CbWant × Nat × Nat) :=
  ws.findSome? (fun w =>
    match findBook k tenant w.e256 w.tag with
    | some (i, p) => (conflictOf k i [(w, p)]).map (fun _ => (w, i, p))
    | none => none)

/-- The unpinned claims of one group at dispatch or at the start of their load: one of them conflicts with the codebook
that it hits, or they hit, or have to be loaded (R76, R78). -/
def groupLookup (s : State) (c t group : Nat) (ws : List CbWant) : Option State :=
  let k := s.core c
  match groupConflict k (taskTenant s t) ws with
  | some (w, i, p) => some (bookFault s c (some t) 0x0103 w.claim (some group) (fld i 8 ||| w32 p))
  | none =>
    match groupHit k (taskTenant s t) ws with
    | some (i, ps) =>
      some (countEvent (grantBooks s c t i ((ws.zip ps).map (fun x => (x.1.claim, x.2)))) (slotCore c) 0x07 ws.length)
    | none => none

/-! ### Pin entries (R82) -/

def PinE.covers (p : PinE) (c : Nat) : Bool := decide (p.coreFirst ≤ c) && decide (c < p.coreFirst + p.coreCount)

def PinE.want (p : PinE) : CbWant := { claim := 0xFFFF, index := p.index, e256 := p.e256, tag := p.tag, check := p.check }

def PinE.group (p : PinE) (c : Nat) : Nat := groupAddr c p.column p.offset

/-- The pin entries of resident images for a core, with their image. -/
def pinsOf (s : State) (c : Nat) : List (Image × PinE) :=
  (s.drover.images.filter (fun i => i.st != .loading)).flatMap (fun i =>
    (i.pins.filter (fun p => p.covers c)).map (fun p => (i, p)))

/-- A slot is pinned by an image for one of its pin entries: it holds the entry's codebook, found by its key, or, as
TAG 0 never hits, by the group and the index of the entry (R75, R82). -/
def CbSlot.pinnedBy (v : CbSlot) (c : Nat) (m : Image) (p : PinE) : Bool :=
  v.pins.contains m.key
    && (if p.tag = 0 then v.group == p.group c && decide (p.index < v.books.length)
        else v.books.any (fun b => b.hasKey m.tenant p.e256 p.tag))

/-- A pinned claim at dispatch (R84). Where its codebook is in no slot any more, DETAIL1 of PIN_MISSING is 0: DESIGN
CHOICE, log entry 104. -/
def pinnedLookup (s : State) (c t idx : Nat) (cl : Claim) : State :=
  let k := s.core c
  let tenant := taskTenant s t
  let w := cl.want idx
  let hit := (List.range 16).findSome? (fun i =>
    let v := k.slot i
    if v.failed || v.loading || !(pinsOf s c).any (fun p => p.1.tenant == tenant && p.2.e256 == w.e256 && p.2.tag == w.tag
        && v.pinnedBy c p.1 p.2) then none
    else (v.books.findIdx? (fun b => b.hasKey tenant w.e256 w.tag)).map (fun p => (i, p)))
  match hit with
  | some (i, p) =>
    match conflictOf k i [(w, p)] with
    | some _ => bookFault s c (some t) 0x0103 idx (some (cl.group c)) (fld i 8 ||| w32 p)
    | none => countEvent (grantBooks s c t i [(idx, p)]) (slotCore c) 0x07 1
  | none =>
    let place := (List.range 16).findSome? (fun i =>
      ((k.slot i).books.findIdx? (fun b => b.hasKey tenant w.e256 w.tag)).map (fun p => (i, p)))
    bookFault s c (some t) 0x010A idx (some (cl.group c))
      (match place with | some (i, p) => fld i 8 ||| w32 p | none => 0)

/-- The codebook claims of a task are granted on a core (R78): pinned claims first, then group by group. -/
def claimBooks (s : State) (t c : Nat) : State :=
  let cls := bookClaims s t
  let s1 := (cls.filter (fun p => bit p.2.w0 27)).foldl (fun u p => pinnedLookup u c t p.1 p.2) s
  let loose := cls.filter (fun p => !bit p.2.w0 27)
  let groups := (loose.map (fun p => p.2.group c)).eraseDups
  groups.foldl (fun u g =>
    let ws := (loose.filter (fun p => p.2.group c == g)).map (fun p => p.2.want p.1)
    match groupLookup u c t g ws with
    | some v => v
    | none => u.mapCore c (fun k => { k with
        loads := k.loads ++ [{ task := some t, tenant := taskTenant u t, group := g, wants := ws, pins := [],
                               slot := none, start := 0, marked := [] }] })) s1

/-- The codebook claims of a task are released (R80). -/
def releaseBooks (s : State) (t : Nat) : State :=
  let s1 : State := { s with cores := Tbl.mapV s.cores (fun _ k =>
    { k with slots := Tbl.mapV k.slots (fun _ v => v.releaseOf t),
             loads := k.loads.filter (fun l => l.task != some t)
             load := k.load.map (fun l => l.dropTask t) }) }
  match s1.task t with
  | some k => setTask s1 t { k with books := [] }
  | none => s1

/-- The codebook of a claim on a core, once it is in its slot. -/
def claimBook (s : State) (c t idx : Nat) : Option (Book × Nat) :=
  match s.task t with
  | some k =>
    match Tbl.get k.books (c * 256 + idx) with
    | some x => (bookAt (s.core c) (x / 16) (x % 16)).map (fun b => (b, x / 16))
    | none => none
  | none => none

/-! ### Loads (R77, R79, R468) -/

/-- A load starts into a slot. The slot counts as granted where a claim loads it (R79). -/
def startLoad (s : State) (c i : Nat) (l : CbLoad) : State :=
  s.mapCore c (fun k =>
    let v := k.slot i
    let k1 := k.setSlot i { CbSlot.empty with loading := true, pins := v.pins, group := l.group
                                              granted := if l.task.isSome then s.now else v.granted
                                              claims := match l.task with | some t => [t] | none => [] }
    { k1 with load := some { l with slot := some i, start := s.now, marked := [] } })

/-- The first waiting load of a task starts, where no load is running and R79 finds a slot (R77 to R79). A
group that has meanwhile come into the store is granted without a load. -/
def codebookLoad (s : State) (c : Nat) : State :=
  let k := s.core c
  if k.load.isSome then s else
  match k.loads.find? (fun l => l.task.isSome) with
  | some l =>
    let s1 := s.mapCore c (fun k => { k with loads := dropFirst l k.loads })
    match groupLookup s1 c (l.task.getD 0) l.group l.wants with
    | some u => u
    | none =>
      match chooseSlot k with
      | some i => startLoad s1 c i l
      | none => s
  | none => s

/-- CODEBOOK_LOAD (R77). -/
def execCodebookLoad (c : CoreId) (s : State) : Res :=
  .next (onlyIf (s.coreRuns c.val) (fun t => codebookLoad t c.val) s)

/-- What a completed read of a group gives: a fault with its code, claim and detail, or the books. -/
inductive LoadEnd
  | bad (code claim : Nat) (d1 : Word)
  | ok (books : List Book)
  deriving DecidableEq, Repr

/-- The claim that a fault of a load names: the first of the load where several share its group. DESIGN CHOICE, log
entry 104. -/
def CbLoad.claim (l : CbLoad) : Nat :=
  match l.wants with
  | w :: _ => w.claim
  | [] => 0xFFFF

/-- R77, R468: block, group, records, then what each claim or pin entry says. -/
def loadEnd (s : State) (l : CbLoad) : LoadEnd :=
  match s.mem.verify (l.group / 512) with
  | .poisoned w => .bad 0x0003 l.claim (flag (l.marked.contains (l.group / 512 * 64 + w)) 0)
  | .mismatch x => .bad 0x0002 l.claim x
  | .good =>
    match groupOfBlock (s.mem.block (l.group / 512)) with
    | none => .bad 0x0101 l.claim (w32 l.group)
    | some rs =>
      match rs.find? (fun r => levelCheck r.levels != r.check) with
      | some r => .bad 0x0102 l.claim (levelCheck r.levels)
      | none =>
        let bad := l.wants.find? (fun w =>
          match rs[w.index]? with
          | some r => r.tag != w.tag || r.e256 != w.e256 || (l.task.isNone && !l.pins.isEmpty && r.check != w.check)
          | none => true)
        match bad with
        | some w => .bad 0x0101 w.claim (w32 l.group)
        | none => .ok (rs.map (fun r => { tenant := l.tenant, e256 := r.e256, tag := r.tag, check := r.check,
                                          levels := r.levels }))

/-- An image loses its pins (R82): a failed slot with no pin becomes empty. -/
def CbSlot.unpin (v : CbSlot) (key : Nat) : CbSlot :=
  if v.pins.contains key then
    let p := v.pins.filter (· != key)
    if p.isEmpty && v.failed then CbSlot.empty else { v with pins := p }
  else v

def removePins (s : State) (key : Nat) : State :=
  { s with cores := Tbl.mapV s.cores (fun _ k =>
      { k with
        slots := Tbl.mapV k.slots (fun _ v => v.unpin key)
        loads := (k.loads.map (fun l => { l with pins := l.pins.filter (· != key) })).filter
          (fun l => l.task.isSome || !l.pins.isEmpty)
        load := k.load.map (fun l => { l with pins := l.pins.filter (· != key) }) }) }

/-- A loading image is refused (R227, check 12). -/
def refuseImage (s : State) (i : Image) (reason : Nat) : State :=
  let s1 := (copyOut (removePins s i.key) i.key).setReg slotDrvr 0x060 (fld reason 24 ||| fld i.sess 16 ||| w32 i.index)
  let s2 := s1.mapDrover (fun d => { d with images := d.images.filter (fun j => j.key != i.key) })
  let r : ORec := { kind := 4, reason := reason, cookie := i.cookie, fault := 0, inst := 0, ctx := 0,
                    task := none, time := 0 }
  imageAnswered (postRec (s2.pulse slotDrvr 4) i.queue i.sess r) i

/-- The load of an image that is being made resident fails: the image is refused (R82). -/
def refusePinned (s : State) (keys : List Nat) : State :=
  (s.drover.images.filter (fun i => keys.contains i.key && i.st == .loading)).foldl (fun u i => refuseImage u i 0x21) s

/-- What a failed slot keeps of a wanted record: its identity, so that a claim on it finds its place. -/
def CbWant.book (tenant : Nat) (w : CbWant) : Book :=
  { tenant := tenant, e256 := w.e256, tag := w.tag, check := w.check, levels := [] }

/-- The wanted records of a failed slot, each at its sub-position; a sub-position that no pin entry names holds no key. -/
def failedBooks (tenant : Nat) (ws : List CbWant) : List Book :=
  (List.range (ws.foldl (fun n w => max n (w.index + 1)) 0)).map (fun p =>
    match ws.find? (fun w => w.index == p) with
    | some w => w.book tenant
    | none => { tenant := 0, e256 := false, tag := 0, check := 0, levels := [] })

/-- The load of a core ends 48 fc after its start (R77, R82, R85, R86, R468). Its block is read and verified in this
step: DESIGN CHOICE, log entry 104. -/
def loadComplete (s : State) (c : Nat) : State :=
  match (s.core c).load with
  | none => s
  | some l =>
    let i := l.slot.getD 0
    if s.now < l.start + 48 then s else
    let s1 := s.mapCore c (fun k => { k with load := none })
    match loadEnd s l with
    | .ok books =>
      let s2 := (s1.mapCore c (fun k =>
        let v := k.slot i
        k.setSlot i { v with books := books, wide := books.any (·.e256), loading := false, failed := false
                             parity := false, pins := (v.pins ++ l.pins).eraseDups })).bump (slotArr c) 0x24C 1
      match l.task with
      | some t => grantBooks s2 c t i (l.wants.map (fun w => (w.claim, w.index)))
      | none => s2
    | .bad code claim d1 =>
      let s2 := s1.mapCore c (fun k =>
        let v := k.slot i
        k.setSlot i (if l.pins.isEmpty then { CbSlot.empty with granted := v.granted }
                     else { CbSlot.empty with failed := true, pins := v.pins, granted := v.granted, group := l.group
                                              books := failedBooks l.tenant l.wants }))
      let s3 := if l.task.isNone && l.wants.isEmpty then s2 else bookFault s2 c l.task code claim (some l.group) d1
      refusePinned s3 l.pins

/-- CODEBOOK_LOAD_COMPLETE (R77). -/
def execCodebookLoadComplete (c : CoreId) (s : State) : Res :=
  .next (onlyIf (s.coreRuns c.val) (fun t => loadComplete t c.val) s)

/-! ### Pins (R82, R85, R86) -/

/-- A waiting pinned load starts where no load of a task waits (R82): a pin that missed when its image was made resident
is loaded into a slot of its own, whatever has come into the store since (R83). -/
def pinnedLoad (s : State) (c : Nat) : State :=
  let k := s.core c
  if k.load.isSome || k.loads.any (fun l => l.task.isSome) then s else
  match k.loads with
  | l :: rest =>
    let s1 := s.mapCore c (fun k => { k with loads := rest })
    match chooseSlot k with
    | some i => (startLoad s1 c i l).mapCore c (fun k => k.setSlot i { k.slot i with pins := l.pins })
    | none => s
  | [] => s

/-- PINNED_LOAD (R82). -/
def execPinnedLoad (c : CoreId) (s : State) : Res :=
  .next (onlyIf (s.coreRuns c.val) (fun t => pinnedLoad t c.val) s)

/-- Time charged to the reserve of a fold (0 to 15) or unit column (16, 17) in slot 0 (R242). -/
def chargeReserve (s : State) (col n : Nat) : State :=
  s.mapDrover (fun d => { d with reserve := Tbl.set d.reserve col (Tbl.getD d.reserve col 0 + n) })

/-- The budget of a task on a core, or on its unit as 256, is extended by time charged there on its behalf (R241). -/
def extendTask (s : State) (t core n : Nat) : State :=
  match s.task t with
  | some k => setTask s t { k with ext := Tbl.set k.ext core (Tbl.getD k.ext core 0 + n) }
  | none => s

/-- The load that brings back the pinned group of pin entries that name one group. -/
def reloadOf (l : List (Image × PinE)) (c group tenant : Nat) : CbLoad :=
  let same := l.filter (fun p => p.2.group c == group && p.1.tenant == tenant)
  { task := none, tenant := tenant, group := group, wants := same.map (fun p => p.2.want),
    pins := (same.map (fun p => p.1.key)).eraseDups, slot := none, start := 0, marked := [] }

/-- A pinned claim of a task waits for the reload of a slot of a core (R85). -/
def awaitsSlot (s : State) (t c i : Nat) : Bool :=
  let v := (s.core c).slot i
  v.failed && v.parity && (bookClaims s t).any (fun p => bit p.2.w0 27
    && v.books.any (fun b => b.hasKey (taskTenant s t) (bit p.2.w0 26) p.2.w1))

/-- The tasks that wait for the reload have their budgets extended by it (R241). -/
def extendWaiters (s : State) (c i n : Nat) : State :=
  ((Tbl.keys s.drover.tasks).filter (fun t =>
    (match taskD s t with | some d => d.onCores && d.cores.contains c | none => false)
      && (match s.task t with | some k => k.st == .ready || k.st == .suspended | none => false)
      && awaitsSlot s t c i)).foldl (fun u t => extendTask u t c n) s

/-- PINNED_SLOT_RELOAD (R85): a failed pinned slot that awaits its reload; 48 fc go to the fold's reserve. -/
def slotReload (s : State) (c i : Nat) : State :=
  let k := s.core c
  let v := k.slot i
  if k.load.isSome || !v.failed || !v.parity || v.pins.isEmpty then s else
  let mine := (pinsOf s c).filter (fun p => v.pinnedBy c p.1 p.2)
  match mine.filter (fun p => p.2.group c == v.group) ++ mine with
  | (m, p) :: _ =>
    let s1 := startLoad (extendWaiters s c i 48) c i (reloadOf (pinsOf s c) c (p.group c) m.tenant)
    chargeReserve s1 (c / 16) 48
  | [] => s

def execPinnedSlotReload (c : CoreId) (slot : Fin 16) (s : State) : Res :=
  .next (onlyIf (s.coreRuns c.val) (fun t => slotReload t c.val slot.val) s)

/-- Pin entries of a core whose codebook is in no slot and whose reload has not failed (R86). -/
def missingPins (s : State) (c : Nat) : List (Image × PinE) :=
  let k := s.core c
  (pinsOf s c).filter (fun p => !(List.range 16).any (fun i => (k.slot i).pinnedBy c p.1 p.2))

/-- A codebook of a pin entry that is in the store again, with its LEVEL_CHECK: its slot (R75, R83). -/
def reloadHit (k : Core) (m : Image) (p : PinE) : Option Nat :=
  match findBook k m.tenant p.e256 p.tag with
  | some (i, q) => if (conflictOf k i [(p.want, q)]).isNone then some i else none
  | none => none

/-- PIN_RELOAD (R86): the next pinned group of a core that a reset or off has emptied. A pin that shared the slot of
another image shares the slot again that this image's reload has filled (R83). -/
def pinReload (s : State) (c : Nat) : State :=
  let k := s.core c
  if k.load.isSome then s else
  match missingPins s c with
  | (m, p) :: _ =>
    match reloadHit k m p with
    | some i => s.mapCore c (fun k => k.setSlot i { k.slot i with pins := ((k.slot i).pins ++ [m.key]).eraseDups })
    | none =>
    match chooseSlot k with
    | some i =>
      let l := reloadOf (pinsOf s c) c (p.group c) m.tenant
      let s1 := (startLoad s c i l).mapCore c (fun k => k.setSlot i { k.slot i with pins := l.pins })
      if s.drover.noCharge.contains c then s1 else chargeReserve s1 (c / 16) 48
    | none => s
  | [] => s

def execPinReload (c : CoreId) (s : State) : Res :=
  .next (onlyIf (s.coreRuns c.val) (fun t => pinReload t c.val) s)

end Sys2Proof.Machine
end

