-- ==== Sys2Proof/Machine/Array.lean ====
section
/-! DEFINITION. The matrix array: MATMUL from issue to completion, the row feeder, the predictor and the
tile scoreboard (04_matrix_array.md R87 to R103; 03_numbers_codebooks.md R65 to R73; 05_accumulation.md
R123, R127, R128). -/

namespace Sys2Proof.Machine

/-! ### Tiles -/

/-- Stripes as an extent counts them: 1 in outer mode. -/
def Extent.s (e : Extent) : Nat := if e.striped then max 1 e.stripes else 1

/-- Array row of stripe `s` and batch row `b` (R89, R91). -/
def Extent.row (e : Extent) (s b : Nat) : Nat := s * (64 / e.s) + b

def Tile.elem (t : Tile) (r j : Nat) : W64 := Tbl.getD t.elems (64 * r + j) W64.zero

def Tile.setElem (t : Tile) (r j : Nat) (v : W64) : Tile := { t with elems := Tbl.set t.elems (64 * r + j) v }

/-- Every element of an extent in the order of a tile transfer (R125). -/
def Extent.cells (e : Extent) : List (Nat × Nat) :=
  (List.range e.s).flatMap (fun s => (List.range e.rows).flatMap (fun b =>
    (List.range e.cols).map (fun j => (e.row s b, j))))

/-- The status bits of Table 5-9 after elements have been written. -/
def Tile.note (t : Tile) (vs : List W64) : Tile :=
  { t with ovfAny := t.ovfAny || vs.any (·.ovf), inexAny := t.inexAny || vs.any (·.inexact)
           arrAny := t.arrAny || vs.any (·.arrival) }

/-- The group counter takes a new value; above 0xF_FFFF it stays there and BOUND_LOST is set (R123). -/
def Tile.count (t : Tile) (n : Nat) : Tile :=
  { t with groups := min n 0xFFFFF, boundLost := t.boundLost || decide (0xFFFFF < n) }

/-- A tile is replaced; OVF and BOUND_LOST pulse where their bits go from 0 to 1 (Table 5-10), which they also do where
the instruction has cleared them before (`cleared`). -/
def putTile (s : State) (c : Nat) (b : Bool) (cleared : Bool) (t : Tile) : State :=
  let old := (s.core c).tile b
  let s1 := s.mapCore c (fun k => k.setTile b t)
  let s2 := if (cleared || !old.ovfAny) && t.ovfAny then s1.pulse (slotArr c) 9 else s1
  if (cleared || !old.boundLost) && t.boundLost then s2.pulse (slotArr c) 8 else s2

/-- The tile that an instruction names. -/
def QInst.tile (q : QInst) : Bool := bit (wd q.words 0) 23

/-- Every earlier-issued instruction that names the tile has released it (R127). -/
def tileFree (s : State) (c : Nat) (q : QInst) : Bool :=
  let k := s.core c
  let earlier := fun (x : QInst) => x.tile == q.tile && decide (x.seq < q.seq)
  !(k.arrQ.any earlier || k.drQ.any earlier || k.fins.any (fun m => earlier m.inst)
    || (match k.mm with | some m => earlier m.inst | none => false)
    || (match k.dr with | some d => earlier d.inst && !d.released | none => false))
  && decide ((k.tile q.tile).freeAt ≤ s.now)

/-- TILE_COLLISION (R128): the issuing task, and another task that holds the tile, are aborted; the tile is
released with an empty extent, and the instructions of both tasks stop at once. -/
def tileCollision (s : State) (c t : Nat) (b : Bool) (w0 : Word) : State :=
  let tile := (s.core c).tile b
  let s1 := (s.bump (slotArr c) 0x188 1).pulse (slotArr c) 10
  let d0 := match tile.holder with
    | some h => flag true 31 ||| fld h 16 ||| flag b 0
    | none => flag b 0
  let s2 := taskFault s1 (slotArr c) t (some c) 0x0109 none d0 w0
  let s3 := match tile.holder with
    | some h => taskFault s2 slotDrvr h (some c) 0x0109 none (w32 t) (w32 c ||| flag b 8)
    | none => s2
  let s4 := s3.mapCore c (fun k => k.setTile b (k.tile b).release)
  match tile.holder with
  | some h => discardTask (discardTask s4 t) h
  | none => discardTask s4 t

/-- A fault of the array's checks, recorded in the ARR page. -/
def arrFault (s : State) (c t code : Nat) (d0 d1 : Word) : State := taskFault s (slotArr c) t (some c) code none d0 d1

/-! ### MATMUL at issue (R98 to R100) -/

def mmExtent (w : List Word) : Extent :=
  { striped := mmStriped w, stripes := mmStripes w, rows := mmRows w, cols := mmCols w }

/-- A reserved field or value of a MATMUL (code 0x01). -/
def mmReserved (w : List Word) : Bool :=
  bits (wd w 0) 10 0 != 0 || bit (wd w 0) 21 || (mmStriped w && bits (wd w 0) 19 18 == 3)
  || (!mmStriped w && bits (wd w 0) 19 18 != 0) || bit (wd w 1) 23 || bit (wd w 1) 15
  || bits (wd w 1) 7 0 != 0 || bits (wd w 2) 31 24 != 0 || wd w 3 != 0

/-- A channel that the task has armed, for reading or writing, in one of the formats. -/
def armedFor (k : Core) (t ch : Nat) (write : Bool) (fmts : List Nat) : Bool :=
  let h := k.chan ch
  h.armed && h.task == some t && h.desc.write == write && fmts.contains h.desc.format

/-- The lowest code of Table 4-6 that a MATMUL meets. -/
def mmCode (s : State) (c t : Nat) (w : List Word) : Option Nat :=
  let k := s.core c
  let tile := k.tile (mmTile w)
  let limit := if mmStriped w then 64 / mmStripes w else 64
  if mmReserved w then some 1
  else if mmRows w == 0 || decide (limit < mmRows w) || mmCols w == 0 || decide (64 < mmCols w) then some 2
  else if mmK w == 0 then some 3
  else if mmAcc w && tile.extent.isSome && tile.extent != some (mmExtent w) then some 4
  else if mmAcc w && tile.extent.isNone then some 5
  else if (match (taskClaims s t)[mmCb w]? with | some cl => cl.type != 2 | none => true) then some 6
  else if !armedFor k t (mmW w) false [3, 4] then some 7
  else if !(armedFor k t (mmA w) false [1, 2] && (k.chan (mmA w)).desc.convEn) then some 8
  else if mmW w == mmA w then some 9
  else none

/-- The requirements of twin mode that fail (R94, Table 4-15). -/
def twinBits (k : Core) (w : List Word) (slot : Nat) : Word :=
  flag (!(k.slot slot).books.all Book.narrow) 0 ||| flag (!bit (k.chan (mmA w)).conv 5) 1
    ||| flag ((k.chan (mmA w)).desc.format != 1) 2

/-- A MATMUL that has passed its checks enters the array queue: the tile takes the scale of the weight
channel (R63), and with ACC = 0 the extent (R99). -/
def enterMatmul (s : State) (c : Nat) (p : Prog) (w : List Word) : State :=
  let q := queued s c p w
  let s1 := s.mapCore c (fun k =>
    let tile := k.tile (mmTile w)
    let t1 := { tile with scale := (k.chan (mmW w)).scale }
    let t2 := if mmAcc w then t1 else { t1 with extent := some (mmExtent w) }
    { k.setTile (mmTile w) t2 with arrQ := k.arrQ ++ [q] })
  advance (countEvent (s1.setReg (slotArr c) 0x040 (wd w 0)) (slotCore c) 0x14 1) c p w

/-- MATMUL is issued (R100): checks in order; the issue stalls while the queue of 4 is full (R102), and a
twin-mode MATMUL also while its codebook is still being loaded (log entry 16). -/
def issueMatmul (c : Nat) (s : State) (p : Prog) (w : List Word) : State :=
  let k := s.core c
  let t := p.task
  if 4 ≤ k.arrQ.length then s else
  if (k.tile (mmTile w)).holder != some t then tileCollision s c t (mmTile w) (wd w 0) else
  match mmCode s c t w with
  | some code => arrFault s c t 0x0107 (w32 code) (wd w 0)
  | none =>
    let cl := (taskClaims s t).getD (mmCb w) ⟨0, 0, 0, 0⟩
    if bit cl.w0 26 != ((k.chan (mmW w)).desc.format == 4) then
      arrFault s c t 0x0101 (w32 (mmCb w)) (w32 (cl.group c))
    else if mmTwin w then
      match claimBook s c t (mmCb w) with
      | none => s
      | some (_, slot) =>
        let bad := twinBits k w slot
        if bad != 0 then arrFault s c t 0x0108 bad (wd w 0) else enterMatmul s c p w
    else enterMatmul s c p w

def execMatmul (c : CoreId) (s : State) : Res := .next (issue opMatmul c.val (issueMatmul c.val) s)

/-! ### MATMUL_START (R103) -/

/-- Span of K of a full step. -/
def mmWide (w : List Word) (g : Nat) : Nat := mmStripes w * g

/-- Span of K of step `t`. -/
def mmSpan (w : List Word) (g t : Nat) : Nat := min (mmWide w g) (mmK w - t * mmWide w g)

/-- Steps of a MATMUL (R103). -/
def mmSteps (w : List Word) (g : Nat) : Nat := (mmK w + mmWide w g - 1) / max 1 (mmWide w g)

def mmG (k : Core) (w : List Word) : Nat := groupOf (k.chan (mmA w)).conv

/-- What the array has to take for a step (R89 to R92): its weights, and the activations up to the last that it uses. The
activation stream delivers the rows one after another, so that the block of the last row comes after all the rows before it
(R90, R179; DEDUCED, log entry 106). -/
def stepFeeds (k : Core) (m : MmRun) (t : Nat) : MmRun :=
  let w := m.inst.words
  let n := mmSpan w (mmG k w) t
  let upto := (mmRows w - 1) * mmK w + t * mmWide w (mmG k w) + n
  { m with step := t, w := { m.w with need := n * mmCols w, got := [] }
           a := { m.a with need := upto - m.a.got.length } }

/-- A queued MATMUL starts (R103). One that follows another without a gap forms its first products in the
fc after its predecessor's last ones; one that finds the array idle 10 fc after its start. -/
def matmulStart (s : State) (c : Nat) : State :=
  let k := s.core c
  match k.mm, k.arrQ with
  | none, q :: rest =>
    let w := q.words
    let hw := k.chan (mmW w)
    let ha := k.chan (mmA w)
    if (claimBook s c q.task (mmCb w)).isNone || !hw.primed || !ha.primed || aborting s q.task then s else
    let at_ := if k.fins.any (fun m => m.at_ == s.now) then s.now else s.now + 10
    let m : MmRun := { inst := q, step := 0, at_ := at_, w := ⟨mmW w, 0, [], hw.done⟩, a := ⟨mmA w, 0, [], ha.done⟩ }
    pull (s.setCore c { k with arrQ := rest, mm := some (stepFeeds k m 0) }) c
  | _, _ => s

def execMatmulStart (c : CoreId) (s : State) : Res :=
  .next (onlyIf (s.coreRuns c.val) (fun t => matmulStart t c.val) s)

/-! ### The row feeder (R65 to R72, R88) -/

/-- The form of a conversion word (Table 3-4). -/
def convForm (conv : Word) : ConvForm :=
  { zpEn := bit conv 4, z := bits conv 15 8, limit := if bit conv 5 then 63 else 127 }

/-- One converted block: operands for the cells, exponent, history, and how it was converted. -/
structure Block where
  ops    : List Int
  e      : Nat
  pos    : Nat
  et     : Nat
  exact_ : Bool
  replay : Bool
  clamp  : Bool
  deriving DecidableEq, Repr

/-- Conversion of one block at its position (R66, R67, R72). -/
def convBlock (hist : Tbl Nat) (conv : Word) (pos : Nat) (xs : List Word) : Block :=
  let f := convForm conv
  let r := blockExp f xs
  let ep := if pos < 4096 then Tbl.get hist pos else none
  let slack := bits conv 30 29
  let hit := match ep with
    | some p => decide (p ≤ r.1 + slack) && decide (r.1 ≤ p)
    | none => false
  let e := if hit then ep.getD r.1 else r.1
  { ops := xs.map (fun x => f.operand x e), e := e, pos := pos, et := r.1, exact_ := ep.isNone
    replay := ep.isSome && !hit, clamp := r.2 }

/-- An activation element as FP32. -/
def widen (fmt : Nat) (x : Word) : Word := if fmt = 1 then ofBf x else x

/-- The blocks of a step, row by row and within a row by stripe: position and elements. -/
def stepBlocks (k : Core) (m : MmRun) : List (Nat × Nat × Nat × List Word) :=
  let w := m.inst.words
  let h := k.chan (mmA w)
  let g := mmG k w
  let n := mmSpan w g m.step
  let per := (mmK w + g - 1) / g
  let row0 := m.a.start / max 1 (mmK w)
  (List.range (mmRows w)).flatMap (fun b =>
    (List.range ((n + g - 1) / g)).map (fun i =>
      let q := m.step * mmStripes w + i
      let xs := ((m.a.got.drop (b * mmK w + m.step * mmWide w g + i * g)).take (min g (n - i * g))).map (widen h.desc.format)
      (b, i, bits h.conv 28 17 + (row0 + b) * per + q, xs)))

/-- The first element of a step that is NaN or infinite: block position and index in the block (R69). -/
def badElem (bs : List (Nat × Nat × Nat × List Word)) : Option (Nat × Nat) :=
  bs.findSome? (fun b =>
    match b.2.2.2.findIdx? (fun x => !fFinite x) with
    | some i => some (b.2.2.1, i)
    | none => none)

/-- The history after a step (R72). -/
def noteHist (p : Pred) (bs : List Block) : Pred :=
  { p with hist := bs.foldl (fun h b => if b.pos < 4096 then Tbl.set h b.pos b.et else h) p.hist }

/-! ### ARRAY_STEP (R87 to R97) -/

/-- Place in a step's weights of element (k', stripe, column) (R90, R92): the last stripe may hold a
shorter block. -/
def weightAt (g n cols kk i j : Nat) : Nat :=
  let nb := (n + g - 1) / g
  let last := n - (nb - 1) * g
  (if kk < last then kk * nb + i else last * nb + (kk - last) * (nb - 1) + i) * cols + j

/-- The exact group integer of a cell (R87, R95). -/
def groupSum (levels : List Byte) (got : List Word) (g n cols i j : Nat) (ops : List Int) : Int :=
  (ops.zipIdx.map (fun p =>
    ((levels.getD (wd got (weightAt g n cols p.2 i j)).toNat 0).toInt : Int) * p.1)).foldl (· + ·) 0

/-- Every cell of a step adds its group into its tile element (R87, R89, R91). -/
def addGroups (t : Tile) (e : Extent) (levels : List Byte) (got : List Word) (g n : Nat)
    (bs : List (Nat × Nat × Block)) : Tile :=
  bs.foldl (fun t b =>
    (List.range e.cols).foldl (fun t j =>
      let r := e.row b.2.1 b.1
      let v := (t.elem r j).add (W64.ofGroup (groupSum levels got g n e.cols b.2.1 j b.2.2.ops) b.2.2.e)
      (t.setElem r j v).note [v]) t) t

/-- The rate at which a store supplies one channel (07_streams.md Table 7-1; 10_herd_engine.md R252), as bytes in so many fc. -/
def storeRate (c a : Nat) : Nat × Nat :=
  if latency c a ≤ 6 then (512, 1) else (2048, latency c a)

/-- The rate at which weights arrive (R97, R103): that of the channel's chain (08_drove_chains.md R218), of the bellwether's
store for a member that catches up, of the store that the walk reaches, or of the near port with halves. -/
def weightRate (k : Core) (c : Nat) (h : Chan) (a : Nat) : Nat × Nat :=
  match h.chain.bind k.chSlot with
  | some v => if v.catches then storeRate c a else (2 * v.desc.rate, 1)
  | none => if h.desc.feed = 1 then (512, 1) else storeRate c a

/-- Length of a step in fc (R88, R97), with the parts that stall counters take; `rate` is that of the weights. -/
def stepTime (w : List Word) (g n c : Nat) (idx8 : Bool) (rate : Nat × Nat) : Nat × Nat :=
  let p := if mmTwin w then g / 2 else g
  let bytes := mmCols w * g * ((n + g - 1) / g) * (if idx8 then 2 else 1) / 2
  let wt := (bytes * rate.2 + rate.1 - 1) / max 1 rate.1
  (max (p + c) wt, max (p + c) wt - (p + c))

/-- The tile as the first step finds it (R99, R123): cleared with ACC = 0, its groups counted. -/
def firstStep (t : Tile) (w : List Word) (g : Nat) : Tile :=
  let n := mmSteps w g
  if mmAcc w then t.count (t.groups + n)
  else { t with elems := [], ovfAny := false, inexAny := false, arrAny := false, boundLost := false
                groups := n - 1 }

/-- Counters and events of a step (Tables 3-6, 4-12, 4-14). -/
def noteStep (s : State) (c p cc ws : Nat) (bs : List Block) : State :=
  let a := slotArr c
  let ex := (bs.filter (·.exact_)).length
  let rp := (bs.filter (·.replay)).length
  let cl := (bs.filter (·.clamp)).length
  let s1 := (((s.bump a 0x050 p).bump a 0x054 cc).bump a 0x058 ws).bump a 0x240 ex
  let s2 := (s1.bump a 0x244 rp).bump a 0x248 cl
  if cl = 0 then s2 else s2.pulse a 1

/-- The array steps (R88, R97): conversion and weights have come, and the time of the step has passed. -/
def arrayStep (s : State) (c : Nat) : State :=
  let k := s.core c
  match k.mm with
  | none => s
  | some m =>
    let w := m.inst.words
    let t := m.inst.task
    let g := mmG k w
    let n := mmSpan w g m.step
    if m.w.need != 0 || m.a.need != 0 || aborting s t then s else
    let raw := stepBlocks k m
    match badElem raw with
    | some (pos, i) => arrFault s c t 0x0106 (w32 pos) (w32 i)
    | none =>
      match claimBook s c t (mmCb w) with
      | none => s
      | some (book, _) =>
        let h := k.chan (mmA w)
        let bs := raw.map (fun b => (b.1, b.2.1, convBlock h.pred.hist h.conv b.2.2.1 b.2.2.2))
        let blocks := bs.map (·.2.2)
        let cc := if blocks.any (fun b => b.exact_ || b.replay) then 2 else 0
        let hw := k.chan (mmW w)
        let time := stepTime w g n cc book.e256 (weightRate k c hw (chanNib s k hw (hw.done - 1) / 2))
        if s.now < m.at_ + time.1 || (m.step == 0 && !tileFree s c m.inst) then s else
        let t0 := k.tile m.inst.tile
        let t1 := if m.step = 0 then firstStep t0 w g else t0
        let t2 := addGroups t1 (mmExtent w) book.levels m.w.got g n bs
        let s1 := putTile s c m.inst.tile (m.step == 0 && !mmAcc w) t2
        let s2 := s1.mapChan c (mmA w) (fun h => { h with pred := noteHist h.pred blocks })
        let s3 := noteStep s2 c (if mmTwin w then g / 2 else g) cc time.2 blocks
        let m1 := { m with at_ := s.now }
        if m.step + 1 < mmSteps w g then
          pull (s3.mapCore c (fun k => { k with mm := some (stepFeeds k m1 (m.step + 1)) })) c
        else s3.mapCore c (fun k => { k with mm := none, fins := k.fins ++ [{ m1 with step := m.step + 1 }] })

def execArrayStep (c : CoreId) (s : State) : Res :=
  .next (onlyIf (s.coreRuns c.val) (fun t => arrayStep (pull t c.val) c.val) s)

/-! ### MATMUL_COMPLETE (R103) -/

/-- 8 fc after its last products a MATMUL completes and releases its tile, which the next instruction may
take in the same fc (R127). -/
def matmulComplete (s : State) (c : Nat) : State :=
  match (s.core c).fins with
  | m :: rest =>
    if s.now < m.at_ + 8 || aborting s m.inst.task then s
    else (s.mapCore c (fun k => { k with fins := rest })).bump (slotArr c) 0x048 1
  | [] => s

def execMatmulComplete (c : CoreId) (s : State) : Res :=
  .next (onlyIf (s.coreRuns c.val) (fun t => matmulComplete t c.val) s)

end Sys2Proof.Machine
end

