-- ==== Sys2Proof/Machine/Drain.lean ====
section
/-! DEFINITION. The drain unit: DRAIN with its epilogue (04_matrix_array.md R93, R104 to R109) and the tile
transfers (05_accumulation.md R124 to R127). -/

namespace Sys2Proof.Machine

/-! ### DRAIN at issue -/

def drFuse (w : List Word) : Nat := bits (wd w 0) 19 18
def drFch (w : List Word) : Nat := bits (wd w 0) 17 15
def drFmt (w : List Word) : Nat := bits (wd w 0) 21 20
def drAct (w : List Word) : Nat := bits (wd w 0) 11 9

/-- The lowest code of Table 4-6 that a DRAIN meets. -/
def drainCode (s : State) (c t : Nat) (w : List Word) : Option Nat :=
  let k := s.core c
  if bits (wd w 0) 8 0 != 0 || decide (1 < drFmt w) || drFuse w == 3 || decide (3 < drAct w)
     || wd w 1 != 0 || wd w 2 != 0 || wd w 3 != 0 then some 1
  else if (k.tile (bit (wd w 0) 23)).extent.isNone then some 5
  else if !armedFor k t (drOut w) true [if drFmt w = 0 then 1 else 2] then some 10
  else if drFuse w != 0 && (!armedFor k t (drFch w) false [1, 2] || drFch w == drOut w) then some 11
  else none

/-- An instruction enters the drain queue with the tile's extent and scale as they stand. -/
def enterDrain (s : State) (c : Nat) (p : Prog) (w : List Word) (ext : Option Extent) : State :=
  let q := { queued s c p w with ext := ext, cap := ((s.core c).tile (bit (wd w 0) 23)).scale }
  advance (s.mapCore c (fun k => { k with drQ := k.drQ ++ [q] })) c p w

/-- DRAIN is issued (R100, R104). -/
def issueDrain (c : Nat) (s : State) (p : Prog) (w : List Word) : State :=
  let k := s.core c
  let b := bit (wd w 0) 23
  if 4 ≤ k.drQ.length then s else
  if (k.tile b).holder != some p.task then tileCollision s c p.task b (wd w 0) else
  match drainCode s c p.task w with
  | some code => arrFault s c p.task 0x0107 (w32 code) (wd w 0)
  | none => enterDrain (s.setReg (slotArr c) 0x044 (wd w 0)) c p w (k.tile b).extent

def execDrain (c : CoreId) (s : State) : Res := .next (issue opDrain c.val (issueDrain c.val) s)

/-! ### DRAIN_START (R109) -/

def Extent.zero : Extent := ⟨false, 1, 0, 0⟩

def QInst.extent (q : QInst) : Extent := q.ext.getD Extent.zero

/-- Fast cycles in which a drain reads its tile (R109). -/
def drainRead (e : Extent) : Nat :=
  let n := (e.rows * e.cols + 31) / 32
  if e.striped then max (e.s * e.rows) n else n

/-- The first DRAIN of the queue starts: the unit is free and the tile's earlier instructions have released
it (R109, Table 4-10). -/
def drainStart (s : State) (c : Nat) : State :=
  let k := s.core c
  match k.dr, k.drQ with
  | none, q :: rest =>
    if opcodeOf (wd q.words 0) != opDrain || !tileFree s c q || aborting s q.task then s else
    let e := q.extent
    let d := drainRead e
    let lev := if e.striped then Nat.log2 e.s else 0
    let f := if drFuse q.words = 0 then none
      else some { ch := drFch q.words, need := e.rows * e.cols, got := [], start := (k.chan (drFch q.words)).done }
    let r : DrRun := { inst := q, start := s.now, relAt := s.now + 2 + d, endAt := s.now + 16 + 4 * lev + d
                       released := false, feed := f, fmt := (k.chan (drFch q.words)).desc.format, out := [] }
    pull (s.setCore c { k with drQ := rest, dr := some r }) c
  | _, _ => s

def execDrainStart (c : CoreId) (s : State) : Res :=
  .next (onlyIf (s.coreRuns c.val) (fun t => drainStart t c.val) s)

/-! ### The epilogue (R93, R106) -/

/-- One level of the tree of R93: the sum that holds the higher stripes is added to that of the lower. -/
def pairW : List W64 → List W64
  | a :: b :: t => a.add b :: pairW t
  | l => l

def treeW : Nat → List W64 → List W64
  | 0, l => l
  | n + 1, l => treeW n (pairW l)

/-- The output element (b, j) of a tile (R93, R106 stage 1). -/
def combine (t : Tile) (e : Extent) (b j : Nat) : W64 :=
  let l := (List.range e.s).map (fun s => t.elem (e.row s b) j)
  (treeW (Nat.log2 e.s) l).headD W64.zero

/-- The activation functions of Table 4-9. -/
def activate (act : Nat) (x : Word) : Word :=
  if act = 0 then x
  else if fIsNan x then qNan
  else if act = 1 then (if fSign x then 0 else x)
  else if fIsInf x then (if fSign x then 0 else x)
  else if act = 2 then siluOf x else geluOf x

/-- Stages 2 to 5 of R106 on one output element. -/
def epilogue (w : List Word) (cap : Word) (v : W64) (y : Word) : Word :=
  let x := if bit (wd w 0) 22 then v.scaled cap else v.toF32
  let a := activate (drAct w) x
  let f := if drFuse w = 1 then fAdd a y else if drFuse w = 2 then fMul a y else a
  if drFmt w = 0 then toBf f else f

/-- An output element is not finite (R107). -/
def outNonfinite (fmt : Nat) (w : Word) : Bool := if fmt = 0 then bits w 14 7 == 255 else !fFinite w

/-- The outputs of a drain in output order (R108); `fmt` is the format of its fused operands. -/
def drainOut (k : Core) (q : QInst) (fmt : Nat) (fused : List Word) : List Word :=
  let e := q.extent
  let t := k.tile q.tile
  (List.range (e.rows * e.cols)).map (fun i =>
    epilogue q.words q.cap (combine t e (i / max 1 e.cols) (i % max 1 e.cols)) (widen fmt (wd fused i)))

def feedReady : Option Feed → Bool
  | some f => f.need == 0
  | none => true

def feedVals : Option Feed → List Word
  | some f => f.got
  | none => []

/-- The tile is released (R127): what follows may take it from the next fc. -/
def freeTile (s : State) (c : Nat) (b : Bool) : State :=
  s.mapCore c (fun k => k.setTile b { k.tile b with freeAt := s.now + 1 })

/-- Drain cycles, of 32 elements each, that write an element which is not finite (R108, Table 4-14). -/
def badCycles (fmt : Nat) (out : List Word) : Nat :=
  ((List.range ((out.length + 31) / 32)).filter (fun i => ((out.drop (32 * i)).take 32).any (outNonfinite fmt))).length

/-- The drain has read its last tile element and releases the tile (R109). The pulses of NONFINITE_OUT, one for each drain
cycle that writes an element which is not finite, come in the fast cycles that follow. DESIGN CHOICE, log entry 109. -/
def drainRelease (s : State) (c : Nat) : State :=
  let k := s.core c
  match k.dr with
  | some d =>
    if opcodeOf (wd d.inst.words 0) != opDrain || d.released || decide (s.now < d.relAt) || !feedReady d.feed
       || aborting s d.inst.task then s else
    let out := drainOut k d.inst d.fmt (feedVals d.feed)
    let bad := (out.filter (outNonfinite (drFmt d.inst.words))).length
    let s1 := freeTile s c d.inst.tile
    let s2 := s1.mapCore c (fun k => { k with
      dr := some { d with released := true, out := out }, nonfin := k.nonfin + badCycles (drFmt d.inst.words) out })
    pull (s2.bump (slotArr c) 0x05C bad) c
  | none => s

def execDrainTileRelease (c : CoreId) (s : State) : Res :=
  .next (onlyIf (s.coreRuns c.val) (fun t => drainRelease (pull t c.val) c.val) s)

/-- The running instruction of the drain unit is at its end: its time has passed, its tile is released and
its output handed over. -/
def drEnded (s : State) (d : DrRun) : Bool := decide (d.endAt ≤ s.now) && d.released && d.out.isEmpty

/-- DRAIN_COMPLETE (Table 4-10). -/
def drainComplete (s : State) (c : Nat) : State :=
  match (s.core c).dr with
  | some d =>
    if opcodeOf (wd d.inst.words 0) = opDrain ∧ drEnded s d ∧ aborting s d.inst.task = false then
      (s.mapCore c (fun k => { k with dr := none })).bump (slotArr c) 0x04C 1
    else s
  | none => s

def execDrainComplete (c : CoreId) (s : State) : Res :=
  .next (onlyIf (s.coreRuns c.val) (fun t => drainComplete (pull t c.val) c.val) s)

/-! ### Tile transfers (R124 to R126) -/

/-- Reserved fields of a tile transfer (Tables 5-5, 5-6): fields that the instruction does not use are 0. -/
def xferReserved (w : List Word) : Bool :=
  let load := opcodeOf (wd w 0) == opTileLoad
  bit (wd w 0) 22 || bit (wd w 0) 17 || bits (wd w 0) 13 0 != 0 || wd w 3 != 0 || bits (wd w 2) 31 20 != 0
  || (!load && (bits (wd w 0) 21 18 != 0 || wd w 1 != 0))
  || (opcodeOf (wd w 0) == opTileStore && wd w 2 != 0)
  || (load && (bit (wd w 0) 21 || (mmStriped w && bits (wd w 0) 19 18 == 3)
       || (!mmStriped w && bits (wd w 0) 19 18 != 0)
       || bits (wd w 1) 31 23 != 0 || bit (wd w 1) 15 || bits (wd w 1) 7 0 != 0))

/-- The codes of Table 4-6 and R124 that a tile transfer meets. -/
def xferCode (s : State) (c t : Nat) (w : List Word) : Option Nat :=
  let k := s.core c
  let load := opcodeOf (wd w 0) == opTileLoad
  let limit := if mmStriped w then 64 / mmStripes w else 64
  if xferReserved w then some 1
  else if load && (mmRows w == 0 || decide (limit < mmRows w) || mmCols w == 0 || decide (64 < mmCols w)) then some 2
  else if !load && (k.tile (bit (wd w 0) 23)).extent.isNone then some 5
  else if !armedFor k t (bits (wd w 0) 16 14) (opcodeOf (wd w 0) == opTileStore) [0] then some 12
  else none

/-- A tile transfer is issued (R124): TILE_LOAD sets the extent. -/
def issueXfer (c : Nat) (s : State) (p : Prog) (w : List Word) : State :=
  let k := s.core c
  let b := bit (wd w 0) 23
  if 4 ≤ k.drQ.length then s else
  if (k.tile b).holder != some p.task then tileCollision s c p.task b (wd w 0) else
  match xferCode s c p.task w with
  | some code => arrFault s c p.task 0x0107 (w32 code) (wd w 0)
  | none =>
    if opcodeOf (wd w 0) = opTileLoad then
      let e := mmExtent w
      enterDrain (s.mapCore c (fun k => k.setTile b { k.tile b with extent := some e })) c p w (some e)
    else enterDrain s c p w (k.tile b).extent

def execTileStore (c : CoreId) (s : State) : Res := .next (issue opTileStore c.val (issueXfer c.val) s)

def execTileLoad (c : CoreId) (s : State) : Res := .next (issue opTileLoad c.val (issueXfer c.val) s)

def execTileAdd (c : CoreId) (s : State) : Res := .next (issue opTileAdd c.val (issueXfer c.val) s)

/-- Bytes of a transfer (R126). -/
def xferBytes (e : Extent) : Nat := 12 * (e.s * e.rows * e.cols)

def xferLat (op : Nat) : Nat := if op = opTileAdd then 14 else 10

/-- A queued tile transfer starts and takes its tile (R126, R127). -/
def xferStart (s : State) (c : Nat) : State :=
  let k := s.core c
  match k.dr, k.drQ with
  | none, q :: rest =>
    let op := opcodeOf (wd q.words 0)
    if op == opDrain || !tileFree s c q || aborting s q.task then s else
    let n := xferBytes q.extent
    let t := (n + 255) / 256
    let ch := bits (wd q.words 0) 16 14
    let r : DrRun :=
      { inst := q, start := s.now, relAt := s.now + t + (if op = opTileStore then 2 else xferLat op)
        endAt := s.now + t + xferLat op, released := false
        feed := if op = opTileStore then none else some ⟨ch, n, [], (k.chan ch).done⟩, fmt := 0, out := [] }
    pull (s.setCore c { k with drQ := rest, dr := some r }) c
  | _, _ => s

def execTileTransferStart (c : CoreId) (s : State) : Res :=
  .next (onlyIf (s.coreRuns c.val) (fun t => xferStart t c.val) s)

/-- The bytes that TILE_STORE writes (R123, R125). -/
def storeBytes (t : Tile) (e : Extent) : List Word :=
  e.cells.flatMap (fun p => (wordsBytes ({ t.elem p.1 p.2 with lost := t.boundLost }).words).map (fun b => b.setWidth 32))

/-- Elements from the bytes of a stream. -/
def bytesW64 (vals : List Word) : List W64 := w64List (leWords (vals.map (fun v => v.setWidth 8)))

/-- The tile after TILE_LOAD has written its elements (R123, R125); those outside its extent are cleared with the status
bits (R131; DEDUCED, log entry 111). -/
def tileLoaded (t : Tile) (e : Extent) (w : List Word) (vs : List W64) : Tile :=
  let t1 := { t with elems := [], groups := bits (wd w 2) 19 0, boundLost := vs.any (·.lost), ovfAny := false
                     inexAny := false, arrAny := false }
  let es := vs.map W64.loadForm
  ((e.cells.zip es).foldl (fun t p => t.setElem p.1.1 p.1.2 p.2) t1).note es

/-- The tile after TILE_ADD has added its elements (R117, R123, R125). -/
def tileAdded (t : Tile) (e : Extent) (w : List Word) (vs : List W64) : Tile :=
  let t1 := t.count (max t.groups (bits (wd w 2) 19 0) + 1)
  let t2 := { t1 with boundLost := t1.boundLost || vs.any (·.lost) }
  (e.cells.zip vs).foldl (fun t p =>
    let v := (t.elem p.1.1 p.1.2).add p.2
    (t.setElem p.1.1 p.1.2 v).note [v]) t2

/-- A transfer has read or written its last tile element and releases the tile (Table 5-7): all its elements, GROUPS and
the status bits are read or written in this step. DESIGN CHOICE, log entry 110. -/
def xferRelease (s : State) (c : Nat) : State :=
  let k := s.core c
  match k.dr with
  | some d =>
    let w := d.inst.words
    let op := opcodeOf (wd w 0)
    if op == opDrain || d.released || decide (s.now < d.relAt) || !feedReady d.feed || aborting s d.inst.task then s
    else
      let b := d.inst.tile
      let t := k.tile b
      let e := d.inst.extent
      let vs := bytesW64 (feedVals d.feed)
      let s1 := if op = opTileStore then s
        else putTile s c b (op == opTileLoad) (if op = opTileLoad then tileLoaded t e w vs else tileAdded t e w vs)
      let out := if op = opTileStore then storeBytes t e else []
      let s2 := (freeTile s1 c b).mapCore c (fun k => { k with dr := some { d with released := true, out := out } })
      pull s2 c
  | none => s

def execTileTransferRelease (c : CoreId) (s : State) : Res :=
  .next (onlyIf (s.coreRuns c.val) (fun t => xferRelease (pull t c.val) c.val) s)

/-- TILE_TRANSFER_COMPLETE (Table 5-7). -/
def xferComplete (s : State) (c : Nat) : State :=
  match (s.core c).dr with
  | some d =>
    if opcodeOf (wd d.inst.words 0) ≠ opDrain ∧ drEnded s d ∧ aborting s d.inst.task = false then s.mapCore c (fun k => { k with dr := none })
    else s
  | none => s

def execTileTransferComplete (c : CoreId) (s : State) : Res :=
  .next (onlyIf (s.coreRuns c.val) (fun t => xferComplete (pull t c.val) c.val) s)

end Sys2Proof.Machine
end

