-- ==== Sys2Proof/Machine/Attend.lean ====
section
/-! DEFINITION. The attention unit: ATTEND from issue to completion, the KV directory and pages, and the
arithmetic of a block of keys (06_attention_kv.md R133 to R163). -/

namespace Sys2Proof.Machine

/-! ### Issue (R142) -/

def atReserved (w : List Word) : Bool :=
  bits (wd w 0) 4 0 != 0 || bit (wd w 1) 7 || bits (wd w 3) 31 21 != 0 || bits (wd w 5) 31 7 != 0
  || bits (wd w 6) 31 21 != 0 || bits (wd w 7) 31 21 != 0

/-- The lowest code of Table 6-5 that holds. -/
def attCode (s : State) (c t : Nat) (w : List Word) : Option Nat :=
  let k := s.core c
  if atReserved w then some 1
  else if atQrows w == 0 || decide (64 < atRows w) then some 2
  else if !atQ32 w && (atK32 w || atV32 w) then some 3
  else if (atChans w).eraseDups.length != 6 then some 4
  else if !armedFor k t (atQch w) false [eFmt (atQ32 w)] || !armedFor k t (atOch w) true [eFmt (atO32 w)] then some 5
  else if !fFinite (atScale w) then some 6
  else if decide (64 < atNglobal w) || atGbase w % 4 != 0 then some 7
  else if atMaxtok w == 0 || decide (1048576 < atMaxtok w) then some 8
  else if (atChans w).any (fun ch => (chanClaim s t ch).isNone) then some 9
  else none

/-- ATTEND is issued into the queue of 2 (R133, R142). -/
def issueAttend (c : Nat) (s : State) (p : Prog) (w : List Word) : State :=
  let k := s.core c
  if 2 ≤ k.attQ.length then s else
  match attCode s c p.task w with
  | some code => attFault s c p.task 0x0201 none (w32 code) (wd w 0)
  | none =>
    let s1 := (s.setReg (slotAtt c) 0x040 (wd w 0)).setReg (slotAtt c) 0x044 (wd w 1)
    advance (s1.mapCore c (fun k => { k with attQ := k.attQ ++ [queued s c p w] })) c p w

def execAttend (c : CoreId) (s : State) : Res := .next (issue opAttend c.val (issueAttend c.val) s)

/-! ### Visibility (R143 to R145) -/

/-- Position of query token `i`. -/
def atPos (w : List Word) (t0 i : Nat) : Nat := if atAppend w then t0 + i else atQpos w + i

/-- The key at position `t` is visible to a query at position `p` (R144). -/
def visible (w : List Word) (globals : List Nat) (tk p t : Nat) : Bool :=
  decide (t < tk) && (!atCausal w || decide (t ≤ p)) &&
  (atWindow w == 0 || decide ((if p ≤ t then t - p else p - t) < atWindow w) || globals.contains t)

/-- A page holds a key that the window or CAUSAL alone lets a query see. -/
def pageInWindow (w : List Word) (tk p page : Nat) : Bool :=
  let lo := if atWindow w = 0 then 0 else p + 1 - atWindow w
  let hi := if atCausal w then p else if atWindow w = 0 then tk - 1 else p + atWindow w - 1
  decide (max lo (64 * page) ≤ min (min hi (tk - 1)) (64 * page + 63)) && decide (0 < tk)

/-- The pages that are scanned: those with a key that some row sees without its being a global position
(R145 and the example of Table 6-8; DEDUCED, log entry 17). -/
def scanPages (w : List Word) (t0 tk : Nat) : List Nat :=
  (List.range ((tk + 63) / 64)).filter (fun page =>
    (List.range (atQrows w)).any (fun i => pageInWindow w tk (atPos w t0 i) page))

/-- The global block: global positions visible to some row whose pages are not scanned (R145). -/
def globalBlock (w : List Word) (globals pages : List Nat) (t0 tk : Nat) : List Nat :=
  globals.filter (fun g => !pages.contains (g / 64)
    && (List.range (atQrows w)).any (fun i => visible w globals tk (atPos w t0 i) g))

/-! ### The directory (R134, R143, R154) -/

/-- The context of a task's instance. -/
def ctxOfTask (s : State) (t : Nat) : Option Ctx :=
  match instOfTask s t with
  | some i => Tbl.get s.host.ctxs i.ctx
  | none => none

/-- A directory entry that breaks Table 6-1 (KV_DIRECTORY). -/
def dirBad (e : List Word) : Bool :=
  bits (wd e 3) 31 15 != 0 || bits (wd e 2) 30 21 != 0 || bits (wd e 1) 5 0 != 0 || bits (wd e 0) 5 0 != 0
  || bits (wd e 3) 14 0 == 0 || decide (16384 < bits (wd e 3) 14 0)
  || decide (64 * bits (wd e 3) 14 0 < bits (wd e 2) 20 0)

/-- A read of the unit's own, of its directory entry or its global array: a reserved range, a store behind a hurdle or
powered down, or a block that is not good or holds a poisoned word, aborts the task; block faults are recorded in the STRM
page (R157, R163, R200; 14_power_clocks.md R383). -/
def unitRead (s : State) (c t a n : Nat) : Option State :=
  if n = 0 then none else
  if !rangeOk a n false || s.reach a == .closed then some (attFault s c t 0x0001 (some a) 0 0) else
  if s.reach a == .hurdle && regionCore a != some c then some (attFault s c t 0x0005 (some a) 0 0) else
  match s.mem.verifyRange a n with
  | (.good, _) => none
  | (.poisoned w, blk) =>
    some (taskFault s (slotStrm c) t (some c) 0x0003 (some (blk * 512 + 8 * w)) (fld w 8)
      (flag (markedBy (s.core c).marked blk w) 0))
  | (.mismatch x, blk) =>
    some (taskFault ((s.bump (slotStrm c) 0x050 1).pulse (slotStrm c) 3) (slotStrm c) t (some c) 0x0002
      (some (blk * 512)) 0 x)

/-- A read of the unit's own that has to wake the domain of its store first (14_power_clocks.md R383). -/
def unitWakes (s : State) (a : Nat) : Option State :=
  if s.reach a != .wait then none else
  match storeDom a with
  | some d => some (if (s.dom d).waking then s else startWake s d)
  | none => none

/-- The rate at which the unit uses a channel: that of the task's claim on it. DESIGN CHOICE, log entry 18. -/
def unitRate (s : State) (t ch : Nat) : Nat :=
  match chanClaim s t ch with
  | some cl => if bit cl.w2 31 then min (bits cl.w1 8 0) (bits cl.w2 8 0) else bits cl.w1 8 0
  | none => 0

/-- A channel that the unit arms itself at the start of an ATTEND (R137): its walk is what the unit asks for. -/
def unitChan (s : State) (t ch : Nat) (w0 : Word) (fmt : Nat) (index : Bool) (base : Nat) (runs : List (Nat × Nat)) (h : Chan) : Chan :=
  let d : Desc := { Desc.zero with format := fmt, index := index, base := base, qdepth := 15, rate := unitRate s t ch, burst := 15 }
  { Chan.idle with
    armed := true, task := some t, word0 := w0, base := base, armedAt := s.now, pred := h.pred, desc := d, plan := some runs
    tokens := 4096, flights := h.flights.map (fun f => { f with elems := 0 }) }

/-- The entries of a page list that the unit reads: those of the scanned pages one after another, then one by one those of
the pages that hold the global block. -/
def listRuns (list : Nat) (order : List Nat) (scans : Nat) : List (Nat × Nat) :=
  (if scans = 0 then [] else [(list + 4 * order.headD 0, scans)]) ++ (order.drop scans).map (fun p => (list + 4 * p, 1))

/-- The four channels of an ATTEND are armed (R137). -/
def unitArm (s : State) (c t : Nat) (w : List Word) (klist vlist : Nat) (order : List Nat) (scans : Nat) : State :=
  let arm := fun (ch fmt : Nat) (index : Bool) (base : Nat) (runs : List (Nat × Nat)) (k : Core) =>
    k.setChan ch (unitChan s t ch (wd w 0) fmt index base runs (k.chan ch))
  s.mapCore c (fun k =>
    arm (atVch w) (eFmt (atV32 w)) false 0 [] (arm (atKch w) (eFmt (atK32 w)) false 0 []
      (arm (atVich w) 5 true vlist (listRuns vlist order scans) (arm (atKich w) 5 true klist (listRuns klist order scans) k))))

/-- T_start of Table 6-6. -/
def timeStart (w : List Word) : Nat :=
  let i := atQrows w * (atHeads w + (if atAppend w then 2 else 0)) * atD w * eSize (atQ32 w)
  max 6 (4 + (i + 511) / 512)

/-- The ATTEND at the front of the queue begins, its directory entry read and its limits checked. -/
def attBegin (s : State) (c : Nat) (q : QInst) (dirA : Nat) (e : List Word) : State :=
  let w := q.words
  let t := q.task
  let t0 := bits (wd e 2) 20 0
  let cap := bits (wd e 3) 14 0
  let tk := t0 + (if atAppend w then atQrows w else 0)
  if atAppend w && bit (wd e 2) 31 then attFault s c t 0x0206 none (w32 (atDir w)) (wd e 2)
  else if decide (atMaxtok w < tk) || decide (64 * cap < tk) then
    attFault s c t 0x0203 none (w32 tk) (w32 (atMaxtok w))
  else
    match unitRead s c t (atGbase w) (4 * atNglobal w) with
    | some u => u
    | none =>
      let gs := ((s.mem.words (atGbase w) (atNglobal w)).filter (fun x =>
        !bit x 31 && decide (x.toNat < tk))).map (·.toNat)
      let globals := gs.eraseDups
      let pages := scanPages w t0 tk
      let s1 := if atAppend w then
          s.mapMem (fun m => m.put (dirA + 8) (leBytes 4 (wd e 2 ||| 0x80000000).toNat))
        else s
      let block := globalBlock w globals pages t0 tk
      let order := pages ++ (block.map (· / 64)).eraseDups
      let run : AttRun :=
        { inst := q, append := atAppend w, dir := dirA, t0 := t0, t := tk, order := order, scans := pages.length, planned := 0
          taking := false, kx := ⟨atKich w, order.length, [], 0⟩, vx := ⟨atVich w, order.length, [], 0⟩
          kf := ⟨atKch w, 0, [], 0⟩, vf := ⟨atVch w, 0, [], 0⟩, heldK := [], heldV := [], outStart := 0
          queries := [], newK := [], newV := [], globals := globals, pages := pages, block := block
          rows := List.replicate (atRows w) ⟨negInf, 0, List.replicate (atD w) 0, false⟩
          feed := { ch := atQch w, need := atQrows w * (atHeads w + (if atAppend w then 2 else 0)) * atD w, got := [],
                    start := ((s.core c).chan (atQch w)).done }
          at_ := s.now + timeStart w, out := [], done := false }
      let s2 := unitArm s1 c t w (wd e 0).toNat (wd e 1).toNat order pages.length
      pull (s2.mapCore c (fun k => { k with att := some run })) c

/-- The directory entry or the global array of an ATTEND lies in a domain that has to wake first. -/
def attWakes (s : State) (a : Nat) (w : List Word) : Option State :=
  match unitWakes s a with
  | some u => some u
  | none => if atNglobal w = 0 then none else unitWakes s (atGbase w)

/-- ATTEND_START (R143, R154): the previous ATTEND has completed. Where no directory entry is read, DETAIL1 of KV_DIRECTORY
is 0. DESIGN CHOICE, log entry 112. -/
def attendStart (s : State) (c : Nat) : State :=
  let k := s.core c
  match k.att, k.attQ with
  | none, q :: rest =>
    let w := q.words
    let t := q.task
    if aborting s t then s else
    let s0 := s.setCore c { k with attQ := rest }
    match ctxOfTask s t with
    | some x =>
      if x.count ≤ atDir w then attFault s0 c t 0x0202 none (w32 (atDir w)) 0 else
      let a := x.base + 16 * atDir w
      match attWakes s a w with
      | some u => u
      | none =>
        match unitRead s0 c t a 16 with
        | some u => u
        | none =>
          let e := s.mem.words a 4
          if dirBad e then attFault s0 c t 0x0202 none (w32 (atDir w)) (wd e 2) else attBegin s0 c q a e
    | none => attFault s0 c t 0x0202 none (w32 (atDir w)) 0
  | _, _ => s

def execAttendStart (c : CoreId) (s : State) : Res :=
  .next (onlyIf (s.coreRuns c.val) (fun t => attendStart t c.val) s)

/-! ### The input rows (R141, R151, R152) -/

/-- A stored element as FP32. -/
def wide32 (b32 : Bool) (x : Word) : Word := if b32 then x else ofBf x

/-- An FP32 value in a page or output format. -/
def narrowTo (b32 : Bool) (x : Word) : Word := if b32 then x else toBf x

/-- The rows of the input stream: queries in order of r, then each token's new key and value, as FP32. -/
def inputRows (w : List Word) (got : List Word) : List (List Word) × List (List Word) × List (List Word) :=
  let d := atD w
  let per := (atHeads w + (if atAppend w then 2 else 0)) * d
  let row := fun (i h : Nat) => ((got.drop (i * per + h * d)).take d).map (wide32 (atQ32 w))
  let is := List.range (atQrows w)
  (is.flatMap (fun i => (List.range (atHeads w)).map (fun h => row i h)),
   if atAppend w then is.map (fun i => row i (atHeads w)) else [],
   if atAppend w then is.map (fun i => row i (atHeads w + 1)) else [])

/-- The first non-finite element of rows: row and index. -/
def badIn (rows : List (List Word)) : Option (Nat × Nat) :=
  (rows.zipIdx).findSome? (fun p =>
    match p.1.findIdx? (fun x => !fFinite x) with
    | some i => some (p.2, i)
    | none => none)

/-- The input has come: queries, and the new keys and values rounded to their page formats. -/
def takeInput (s : State) (c : Nat) (a : AttRun) : State ⊕ AttRun :=
  let w := a.inst.words
  if !a.queries.isEmpty then .inr a else
  let (qs, ks, vs) := inputRows w a.feed.got
  match badIn qs, badIn ks, badIn vs with
  | some (r, i), _, _ => .inl (attFault s c a.inst.task 0x0106 none (w32 r) (w32 i))
  | _, some (r, i), _ => .inl (attFault s c a.inst.task 0x0106 none (flag true 31 ||| w32 (a.t0 + r)) (w32 i))
  | _, _, some (r, i) => .inl (attFault s c a.inst.task 0x0106 none (flag true 31 ||| w32 (a.t0 + r)) (w32 i))
  | none, none, none =>
    .inr { a with queries := qs, newK := ks.map (fun r => r.map (narrowTo (atK32 w)))
                  newV := vs.map (fun r => r.map (narrowTo (atV32 w))) }

/-! ### Arithmetic (R146 to R148) -/

/-- Chunks of 32 products by balanced trees, chunk sums in order (R146). -/
def dotProduct (q k : List Word) : Word :=
  let ps := (q.zip k).map (fun p => fMul p.1 p.2)
  match (chunks 32 ps).map treeSum with
  | a :: t => t.foldl fAdd a
  | [] => 0

/-- The exponential unit (R148): exact at 0 and minus infinity, never above 1, and no negative number. -/
def expOf (x : Word) : Word :=
  if fIsInf x && fSign x then 0
  else if fMag x = 0 && fFinite x then oneF
  else
    let r := expUnitOf x
    if fSign r then 0 else r

/-- A key of a block: its position, key row and value row as FP32. -/
structure KeyRow where
  pos : Nat
  k   : List Word
  v   : List Word
  deriving DecidableEq, Repr

/-- One row takes a block of keys (R147); `slots` is the block's keys in slot order, `none` a slot that holds no token: its
value has undefined contents, and its product with +0 is taken as +0 (log entry 113).
The answer is `none` with the position where a score, l or o is not finite (R151). -/
def blockRow (w : List Word) (globals : List Nat) (tk p : Nat) (q : List Word) (slots : List (Option KeyRow))
    (r : AttRow) : AttRow ⊕ Nat :=
  let score := fun (k : KeyRow) => fMul (atScale w) (dotProduct q k.k)
  let sees := fun (x : Option KeyRow) => match x with | some k => visible w globals tk p k.pos | none => false
  let seen := slots.filterMap (fun x => if sees x then x else none)
  match seen.find? (fun k => !fFinite (score k)) with
  | some k => .inr k.pos
  | none =>
    match seen with
    | [] => .inl r
    | k0 :: _ =>
      let m := (seen.map score).foldl fMax r.m
      let alpha := if fIsInf r.m then 0 else expOf (fAdd r.m (fNeg m))
      let ps := slots.map (fun x => match x with
        | some k =>
          if visible w globals tk p k.pos then
            let e := expOf (fAdd (score k) (fNeg m))
            if atQ32 w then e else ofBf (toBf e)
          else 0
        | none => 0)
      let l := fAdd (fMul r.l alpha) (treeSum ps)
      let o := r.o.zipIdx.map (fun x =>
        fAdd (fMul x.1 alpha) (treeSum ((ps.zip slots).map (fun y => match y.2 with
          | some k => fMul y.1 (wd k.v x.2)
          | none => 0))))
      if !fFinite l || o.any (fun x => !fFinite x) then .inr k0.pos
      else .inl { m := m, l := l, o := o, any := true }

/-- Every query row takes a block; the first row that fails names itself and a key position. -/
def blockRows (a : AttRun) (slots : List (Option KeyRow)) : List AttRow ⊕ (Nat × Nat) :=
  let w := a.inst.words
  let rs := (a.rows.zip a.queries).zipIdx.map (fun x =>
    blockRow w a.globals a.t (atPos w a.t0 (x.2 / atHeads w)) x.1.2 slots x.1.1)
  match (rs.zipIdx).findSome? (fun x => match x.1 with | .inr k => some (x.2, k) | .inl _ => none) with
  | some e => .inr e
  | none => .inl (rs.filterMap (fun x => match x with | .inl r => some r | .inr _ => none))

/-! ### Pages (R135 to R138) -/

/-- Row `i` of the rows of `d` elements that the unit has taken, as FP32. -/
def gotRow (b32 : Bool) (d i : Nat) (got : List Word) : List Word := ((got.drop (i * d)).take d).map (wide32 b32)

/-- The key at a position, row `i` of the block of keys: a held one from its pages, a new one from the input (R152). -/
def keyRow (a : AttRun) (i t : Nat) : KeyRow :=
  let w := a.inst.words
  if t < a.t0 then
    { pos := t, k := gotRow (atK32 w) (atD w) i a.kf.got, v := gotRow (atV32 w) (atD w) i a.vf.got }
  else
    { pos := t, k := (a.newK.getD (t - a.t0) []).map (wide32 (atK32 w))
      v := (a.newV.getD (t - a.t0) []).map (wide32 (atV32 w)) }

/-- A key or value element of a page that is not finite: key position and index (R151). -/
def badKey (ks : List KeyRow) : Option (Nat × Nat) :=
  ks.findSome? (fun k =>
    match (k.k ++ k.v).findIdx? (fun x => !fFinite x) with
    | some i => some (k.pos, i % max 1 k.k.length)
    | none => none)

/-- Fast cycles that `n` bytes of a page take at the rate of the store that holds it (R160). -/
def timeRead (c page n : Nat) : Nat × Nat := let r := storeRate c page; (n * r.2, r.1)

/-- T_page of Table 6-6 for the pages of an entry pair: a page in another core's store is read at the rate of Table 7-1 in
place of 512 B per fc (R160). -/
def timePage (w : List Word) (c kp vp : Nat) : Nat :=
  let r := atRows w
  let rho := if atQ32 w then 128 else 512
  let k := timeRead c kp (64 * atD w * eSize (atK32 w))
  let v := timeRead c vp (64 * atD w * eSize (atV32 w))
  max (max ((k.1 * v.2 + v.1 * k.2 + k.2 * v.2 - 1) / (k.2 * v.2)) ((2 * r * 64 * atD w + rho - 1) / rho))
    ((r * 65 + 31) / 32)

/-- T_glob of Table 6-6. -/
def timeGlobal (w : List Word) (n : Nat) : Nat :=
  if n = 0 then 0 else
  let r := atRows w
  let rho := if atQ32 w then 128 else 512
  max (max (n * ((atD w * eSize (atK32 w) + 511) / 512 + (atD w * eSize (atV32 w) + 511) / 512))
    ((2 * r * n * atD w + rho - 1) / rho)) ((r * (n + 1) + 31) / 32)

/-- The keys of a scanned page or the global block as they have been taken, or the fault of an element that is not finite. -/
def blockKeys (s : State) (c : Nat) (a : AttRun) (page : Option Nat) : State ⊕ List (Option KeyRow) :=
  let poss := match page with
    | some p => (List.range 64).map (fun i => 64 * p + i)
    | none => a.block
  let keys := poss.zipIdx.map (fun x => if x.1 < a.t then some (keyRow a x.2 x.1) else none)
  match badKey (keys.filterMap id) with
  | some (p, i) => .inl (attFault s c a.inst.task 0x0106 none (flag true 31 ||| w32 p) (w32 i))
  | none => .inr keys

/-- Time of the block of keys in progress. -/
def timeBlock (c : Nat) (a : AttRun) (page : Option Nat) : Nat :=
  match page with
  | some p => timePage a.inst.words c (pageAddr (a.entry false p)) (pageAddr (a.entry true p))
  | none => timeGlobal a.inst.words a.block.length

/-- ATTEND_BLOCK (R147): the next scanned page, then the global block. -/
def attendBlock (s : State) (c : Nat) : State :=
  match (s.core c).att with
  | none => s
  | some a0 =>
    let t := a0.inst.task
    if a0.feed.need != 0 || aborting s t || !a0.taking || a0.kf.need != 0 || a0.vf.need != 0 then s else
    let page := a0.pages.head?
    if s.now < a0.at_ + timeBlock c a0 page then s else
    match takeInput s c a0 with
    | .inl u => u
    | .inr a =>
      match blockKeys s c a page with
      | .inl u => u
      | .inr keys =>
        match blockRows a keys with
        | .inr (r, k) => attFault s c t 0x0207 none (w32 r) (w32 k)
        | .inl rows =>
          let first := page == some (a.t0 / 64)
          let a1 := { a with rows := rows, at_ := s.now, pages := a.pages.tail, taking := false
                             block := if page.isSome then a.block else []
                             heldK := if first then a.kf.got else a.heldK, heldV := if first then a.vf.got else a.heldV }
          let s1 := s.mapCore c (fun k => { k with att := some a1 })
          let s2 := if page.isSome then s1.bump (slotAtt c) 0x04C 1 else s1.bump (slotAtt c) 0x050 a.block.length
          pull s2 c

def execAttendBlock (c : CoreId) (s : State) : Res :=
  .next (onlyIf (s.coreRuns c.val) (fun t => attendBlock (pull t c.val) c.val) s)

/-! ### The finish (R149, R150, R153, R154) -/

/-- The row-empty mask. -/
def emptyMask (rows : List AttRow) : Nat :=
  (rows.zipIdx.map (fun p => if p.1.any then 0 else 2 ^ p.2)).foldl (· + ·) 0

/-- An output element in OFMT (R149). One that rounding to BF16 would make infinite becomes the largest finite value of its
sign, since no non-finite value reaches the output stream (R151). DEDUCED, log entry 114. -/
def outElem (b32 : Bool) (x : Word) : Word :=
  if b32 then x
  else if bits (toBf x) 14 7 == 255 then 0x7F7F ||| (if fSign x then 0x8000 else 0)
  else toBf x

/-- The output elements (R141, R149, R150). -/
def attOut (a : AttRun) : List Word :=
  let w := a.inst.words
  let rows := a.rows.flatMap (fun r =>
    r.o.map (fun x => if r.any then outElem (atO32 w) (fDiv x r.l) else 0))
  let m := emptyMask a.rows
  let tail := if !atStat w then []
    else if atO32 w then [w32 (m % 2 ^ 32), w32 (m / 2 ^ 32)]
    else (List.range 4).map (fun i => w32 (m / 2 ^ (16 * i) % 2 ^ 16))
  rows ++ tail

/-- The pages that the append writes, key list first. -/
def appendPages (a : AttRun) : List (Bool × Nat) :=
  let first := a.t0 / 64
  let n := (a.t - 1) / 64 + 1 - first
  let ps := (List.range n).map (fun i => first + i)
  ps.map (fun p => (false, p)) ++ ps.map (fun p => (true, p))

/-- The bytes of the new tokens of a page, with the offset of the first one (R153). -/
def pageNew (a : AttRun) (value : Bool) (p : Nat) : Nat × List Byte :=
  let w := a.inst.words
  let e := eSize (if value then atV32 w else atK32 w)
  let lo := max a.t0 (64 * p)
  let hi := min a.t (64 * p + 64)
  let rows := (List.range (hi - lo)).map (fun i => (if value then a.newV else a.newK).getD (lo + i - a.t0) [])
  ((lo - 64 * p) * atD w * e, rows.flatMap (fun r => r.flatMap (fun x => leBytes e x.toNat)))

/-- The bytes of the block of the first new token that lie before it, as the scan read them (R153). -/
def heldBytes (a : AttRun) (value : Bool) (p : Nat) : List Byte :=
  if p != a.t0 / 64 then [] else
  let e := eSize (if value then atV32 a.inst.words else atK32 a.inst.words)
  let off := a.t0 % 64 * atD a.inst.words * e
  (((if value then a.heldV else a.heldK).take (off / e)).flatMap (fun x => leBytes e x.toNat)).drop (off / 512 * 512)

/-- A page written block by block: the held bytes of its first block, the new tokens, and zeros to the end of the block
(R153). -/
def writePage (m : Memory) (page off : Nat) (held bs : List Byte) : Memory :=
  m.put (page + off - held.length) (held ++ bs ++ List.replicate ((512 - (off + bs.length) % 512) % 512) 0)

/-- A page that the append writes: its address, the offset of its first new token, the held and the new bytes. -/
structure PageWrite where
  page : Nat
  off  : Nat
  held : List Byte
  new_ : List Byte
  deriving DecidableEq, Repr

/-- What the append finds before it writes anything (R153): an entry that may only be read, or the pages with their
bytes. Every new token is visible to its own query, so that the scan has read the entries and pages of all of them. -/
def appendPlan (s : State) (c : Nat) (a : AttRun) : State ⊕ List PageWrite :=
  match (appendPages a).find? (fun p => bit (a.entry p.1 p.2) 1) with
  | some p => .inl (attFault s c a.inst.task 0x0205 none (flag p.1 31 ||| w32 p.2) (a.entry p.1 p.2))
  | none => .inr ((appendPages a).map (fun p =>
      let new := pageNew a p.1 p.2
      ⟨pageAddr (a.entry p.1 p.2), new.1, heldBytes a p.1 p.2, new.2⟩))

/-- F of Table 6-6, the blocks written counted from the plan. -/
def timeFinish (w : List Word) (plan : List PageWrite) : Nat :=
  let n := (plan.map (fun p => (p.off % 512 + p.new_.length + 511) / 512)).foldl (· + ·) 0
  6 + max ((atRows w * atD w + 31) / 32) (n + (atRows w * atD w * eSize (atO32 w) + 511) / 512)

/-- The output rows are handed over and the appended blocks written. -/
def attFinish (s : State) (c : Nat) (a : AttRun) : State :=
  let w := a.inst.words
  let plan := if a.append then appendPlan s c a else .inr []
  match plan with
  | .inl u => u
  | .inr ps =>
    if s.now < a.at_ + timeFinish w ps then s else
    let s1 := s.mapMem (fun m => ps.foldl (fun m p => writePage m p.page p.off p.held p.new_) m)
    pull (s1.mapCore c (fun k => { k with
      att := some { a with out := attOut a, done := true, outStart := (k.chan (atOch w)).done } })) c

/-- The last acts of an ATTEND (R154, R161, R162): the directory word, counters, the mask, its channels. -/
def attEnd (s : State) (c : Nat) (a : AttRun) : State :=
  let p := slotAtt c
  let m := emptyMask a.rows
  let w := a.inst.words
  let s1 := if a.append then
      ((s.mapMem (fun m => m.put (a.dir + 8) (leBytes 4 a.t))).bump p 0x054 (atQrows w)).pulse p 0
    else s
  let s2 := ((s1.bump p 0x048 1).setReg p 0x060 (w32 (m % 2 ^ 32))).setReg p 0x064 (w32 (m / 2 ^ 32))
  let s3 := s2.bump p 0x058 (a.rows.filter (fun r => !r.any)).length
  let s4 := if m = 0 then s3 else s3.pulse p 1
  s4.mapCore c (fun k =>
    let k1 := [atKch w, atKich w, atVch w, atVich w].foldl (fun k ch => k.setChan ch (k.chan ch).stop) k
    { k1 with att := none, marked := [] })

/-- ATTEND_COMPLETE (R154). -/
def attendComplete (s : State) (c : Nat) : State :=
  match (s.core c).att with
  | none => s
  | some a0 =>
    if a0.feed.need != 0 || !a0.pages.isEmpty || !a0.block.isEmpty || aborting s a0.inst.task then s else
    if a0.done then (if a0.out.isEmpty then attEnd s c a0 else s) else
    match takeInput s c a0 with
    | .inl u => u
    | .inr a =>
      let s1 := attFinish s c a
      match (s1.core c).att with
      | some b => if b.done && b.out.isEmpty && !aborting s1 a.inst.task then attEnd s1 c b else s1
      | none => s1

def execAttendComplete (c : CoreId) (s : State) : Res :=
  .next (onlyIf (s.coreRuns c.val) (fun t => attendComplete (pull t c.val) c.val) s)

end Sys2Proof.Machine
end

