-- ==== Sys2Proof/Machine/Images.lean ====
section
/-! DEFINITION. Graph images: RESIDE with the checks of Table 9-7, residency, RETIRE, and templates
(09_drover_graphs.md R223 to R230, R235). -/

namespace Sys2Proof.Machine

/-! ### Commands and their answers (R223, R235, R366) -/

/-- Privileges of a session (13_host_sessions.md Table 13-5). -/
def sessPriv (s : State) (n : Nat) : BitVec 3 :=
  match Tbl.get s.host.sessions n with
  | some x => x.priv
  | none => 0

def sessTenant (s : State) (n : Nat) : Nat :=
  match Tbl.get s.host.sessions n with
  | some x => x.tenant
  | none => 0

def Cmd.op (c : Cmd) : Nat := bits c.w0 31 24
def Cmd.cookie (c : Cmd) : Nat := bits c.w1 31 16
def Cmd.image (c : Cmd) : Nat := bits c.w0 9 0
def Cmd.ctx (c : Cmd) : Nat := bits c.w1 13 0
def Cmd.template (c : Cmd) : Nat := bits c.w0 17 10

/-- A fetched command of a queue has been answered (R363). -/
def answered (s : State) (c : Cmd) : State :=
  if c.tmpl then s else
  let v := s.queue c.queue
  s.setQueue c.queue { v with inflight := v.inflight - 1 }

/-- A record for a command. -/
def cmdRec (c : Cmd) (kind reason inst ctx : Nat) : ORec :=
  { kind := kind, reason := reason, cookie := c.cookie, fault := 0, inst := inst, ctx := ctx, task := none, time := 0 }

/-- A REFUSED record, with what DRVR shows of it (Tables 9-11, 9-13; log entry 19). -/
def refuse (s : State) (c : Cmd) (reason : Nat) : State :=
  let s1 := (s.setReg slotDrvr 0x060 (fld reason 24 ||| fld c.sess 16 ||| w32 c.image)).pulse slotDrvr 4
  let s2 := if c.op = 1 then s1.bump slotDrvr 0x044 1 else s1
  answered (postRec s2 c.queue c.sess (cmdRec c 4 reason 0 (if c.op = 1 then c.ctx else 0))) c

/-- The first command of the Drover's order, where it has one of the opcodes. -/
def frontCmd (s : State) (ops : List Nat) : Option Cmd :=
  match s.drover.cmds with
  | c :: _ => if ops.contains c.op then some c else none
  | [] => none

def popCmd (s : State) : State := s.mapDrover (fun d => { d with cmds := d.cmds.tail })

/-- BAD_COMMAND of R223, for the command's opcode. -/
def badCommand (c : Cmd) : Bool :=
  let enable := c.op == 4 && bit c.w3 0
  bits c.w3 31 1 != 0 || bits c.w1 15 14 != 0 || bits c.w0 23 18 != 0
  || (c.op != 4 && (bit c.w3 0 || c.template != 0))
  || ((c.op == 1 || enable) && c.w2 == 0)
  || (!(c.op == 1 || enable) && c.ctx != 0)
  || (c.op == 2 && bits c.w2 8 0 != 0)
  || ((c.op == 3 || (c.op == 4 && !enable)) && c.w2 != 0)
  || (c.op == 4 && !enable && c.image != 0)

/-- The reason common to every Drover command, if any (R223). -/
def commonReason (s : State) (c : Cmd) : Option Nat :=
  if badCommand c then some 0x01
  else if !c.tmpl && !(sessPriv s c.sess).getLsbD 0 then some 0x40
  else none

/-! ### Parsing (Tables 9-2 to 9-6, 8-1) -/

/-- Words of the image at a byte offset. -/
def imgW (s : State) (a off n : Nat) : List Word := s.mem.words (a + off) n

def parseTask (ws : List Word) : TaskD :=
  { kind := bits (wd ws 0) 31 28, nosusp := bit (wd ws 0) 27, nclaim := bits (wd ws 0) 23 16,
    claimFirst := bits (wd ws 1) 15 0, succFirst := bits (wd ws 1) 31 16, nsucc := bits (wd ws 2) 11 0,
    coreFirst := bits (wd ws 2) 31 24, coreCount := bits (wd ws 2) 23 15, wcet := (wd ws 3).toNat,
    np := (wd ws 4).toNat, progOff := bits (wd ws 5) 19 0, tail := 0 }

def taskReserved (ws : List Word) : Bool :=
  wd ws 7 != 0 || wd ws 6 != 0 || bits (wd ws 5) 31 20 != 0 || bits (wd ws 2) 14 12 != 0
  || bits (wd ws 0) 26 24 != 0 || bits (wd ws 0) 15 0 != 0

def parsePin (ws : List Word) : PinE :=
  { coreFirst := bits (wd ws 0) 31 24, coreCount := bits (wd ws 0) 23 15, e256 := bit (wd ws 0) 14,
    column := bit (wd ws 0) 13, index := bits (wd ws 0) 11 8, tag := wd ws 1, check := wd ws 2,
    offset := bits (wd ws 3) 22 0 }

/-- A pin entry breaks Table 9-6. -/
def pinBad (ws : List Word) : Bool :=
  let p := parsePin ws
  bits (wd ws 3) 31 23 != 0 || bit (wd ws 0) 12 || bits (wd ws 0) 7 0 != 0 || p.offset % 512 != 0
  || p.coreCount == 0 || decide (256 < p.coreFirst + p.coreCount) || (!p.column && decide (0x100000 ≤ p.offset))

def parseChain (ws : List Word) : ChainD :=
  let w0 := wd ws 0
  { fabric := bits w0 31 30 == 1, consumes := bit w0 29, mcast := bit w0 28, ringBlk := bits w0 21 16,
    catchup := bits w0 15 12, stall := bits (wd ws 1) 31 16, srcNode := (wd ws 2).setWidth 16,
    group := bits (wd ws 2) 27 16, ringOff := bits (wd ws 3) 19 0, arrive := bits (wd ws 4) 31 16,
    rate := bits (wd ws 4) 7 0,
    members := (List.range (bits w0 27 22 + 1)).map (fun m => bits (wd ws (16 + m / 4)) (8 * (m % 4) + 7) (8 * (m % 4))) }

/-- A chain descriptor fails R202. -/
def chainBad (ws : List Word) : Bool :=
  let c := parseChain ws
  let w0 := wd ws 0
  let tail := ((List.range 64).drop c.members.length).any (fun m =>
    bits (wd ws (16 + m / 4)) (8 * (m % 4) + 7) (8 * (m % 4)) != 0)
  decide (1 < bits w0 31 30) || bits w0 11 0 != 0 || bits (wd ws 1) 15 0 != 0 || bits (wd ws 2) 31 28 != 0
  || bits (wd ws 3) 31 20 != 0 || bits (wd ws 4) 15 8 != 0
  || (List.range 11).any (fun i => wd ws (5 + i) != 0) || tail
  || c.members.eraseDups.length != c.members.length
  || c.ringOff % 512 != 0 || decide (0x100000 < c.ringOff + 512 * (c.ringBlk + 1))
  || c.rate == 0 || decide (128 < c.rate) || (c.fabric && c.arrive == 0)
  || ((c.mcast || c.fabric) && decide (c.group < 0x080)) || (c.mcast && c.fabric)

/-- A claim entry breaks Table 9-5. -/
def claimBad (c : Claim) : Bool :=
  match c.type with
  | 1 => bits c.w0 27 1 != 0 || c.w1 != 0 || c.w2 != 0 || c.w3 != 0
  | 2 => bit c.w0 25 || bits c.w0 19 0 != 0 || bits c.w3 31 23 != 0 || bits c.w3 8 0 != 0
         || (!bit c.w0 24 && decide (0x100000 ≤ bits c.w3 22 0))
  | 3 => bits c.w0 27 3 != 0 || bits c.w1 31 25 != 0 || bits c.w1 23 9 != 0 || decide (256 < bits c.w1 8 0)
         || bits c.w2 30 25 != 0 || bits c.w2 15 9 != 0 || decide (64 < bits c.w2 8 0) || c.w3 != 0
  | 4 => bits c.w0 27 1 != 0 || c.w1 != 0
  | 5 => bits c.w0 27 8 != 0 || c.w1 != 0 || c.w2 != 0 || c.w3 != 0
  | 6 => bits c.w0 27 0 != 0 || c.w1 != 0 || c.w2 != 0 || bits c.w3 31 23 != 0 || bits c.w3 8 0 != 0
         || decide (0x800000 < bits c.w3 22 0 + 98304)
  | 7 => bits c.w0 27 25 != 0 || bits c.w0 23 0 != 0 || c.w2 != 0 || bits c.w3 31 23 != 0
         || decide ((if bit c.w0 24 then 0x800000 else 0x100000) < bits c.w3 22 0 + c.w1.toNat)
  | _ => true

/-- Two entries of a task name one tile, channel or chain. -/
def namesTwice (cls : List Claim) : Bool :=
  let key := fun (t : Nat) => (cls.filter (fun c => c.type == t)).map (fun c => bits c.w0 7 0)
  [1, 3, 5].any (fun t => (key t).eraseDups.length != (key t).length)

/-- The claims of a task break R466, R268 or R288. -/
def kindClaimsBad (t : TaskD) (cls : List Claim) : Bool :=
  let has := fun (n : Nat) => cls.any (fun c => c.type == n)
  let mr := t.kind == kMatrix || t.kind == kReduce
  (!mr && (has 1 || has 6))
  || (mr && !t.nosusp && !has 6)
  || (t.kind == kHerd && !(cls == [] || (match cls with | [c] => c.type == 4 && !bit c.w0 0 | _ => false)))
  || (t.kind == kPaddock && !(match cls with | [c] => c.type == 4 && bit c.w0 0 | _ => false))
  || (t.kind != kHerd && t.kind != kPaddock && has 4)
  || (t.kind == kBarrier && cls != [])

/-- A task descriptor breaks Tables 9-3, 9-4 or 9-7, check 4. -/
def taskBad (i : Image) (nclaims nedges : Nat) (t : TaskD) : Bool :=
  let cls := claimsOf i t
  t.progOff % 16 != 0 || decide (2047 < t.nsucc) || decide (256 < t.coreCount)
  || decide (nclaims < t.claimFirst + t.nclaim) || decide (nedges < t.succFirst + t.nsucc)
  || t.kind == 0 || decide (8 < t.kind)
  || (if t.onCores then t.coreCount == 0 || decide (256 < t.coreFirst + t.coreCount) else t.coreCount != 0)
  || (t.kind == kBarrier) != (t.wcet == 0)
  || decide (t.wcet < t.np) || (t.nosusp && t.np != t.wcet)
  || kindClaimsBad t cls || namesTwice cls
  || cls.any (fun c => c.type == 5 && (match i.chains[bits c.w0 7 0]? with
       | some d => t.cores.any (fun x => !d.members.contains x)
       | none => true))

/-- The header breaks Table 9-2 (check 4). -/
def headerBad (h : List Word) : Bool :=
  let size := (wd h 1).toNat
  let table := fun (off n sz : Nat) => off % sz != 0 || decide (size < off + n * sz)
  bits (wd h 0) 31 24 != 1 || bits (wd h 0) 23 16 != 0 || bits (wd h 2) 15 12 != 0 || bits (wd h 3) 7 0 != 0
  || bits (wd h 4) 31 13 != 0 || bits (wd h 10) 31 16 != 0 || (List.range 5).any (fun i => wd h (11 + i) != 0)
  || decide (size < 64) || decide (8388608 < size)
  || bits (wd h 2) 11 0 == 0 || decide (2048 < bits (wd h 2) 11 0) || decide (4096 < bits (wd h 4) 12 0)
  || table (wd h 5).toNat (bits (wd h 2) 11 0) 32 || (wd h 6).toNat % 4 != 0
  || decide (size < (wd h 6).toNat + 2 * bits (wd h 2) 31 16)
  || table (wd h 7).toNat (bits (wd h 3) 31 16) 16 || table (wd h 8).toNat (bits (wd h 4) 12 0) 16
  || table (wd h 9).toNat (bits (wd h 3) 15 8) 128

/-- An image as its words say it, and the words of its entries. -/
def parseImage (s : State) (a tenant : Nat) (c : Cmd) : Image :=
  let h := imgW s a 0 16
  let tasks := (List.range (bits (wd h 2) 11 0)).map (fun i => parseTask (imgW s a ((wd h 5).toNat + 32 * i) 8))
  let edges := (List.range (bits (wd h 2) 31 16)).map (fun i =>
    leNat (s.mem.readN (a + (wd h 6).toNat + 2 * i) 2))
  let claims := (List.range (bits (wd h 3) 31 16)).map (fun i =>
    let w := imgW s a ((wd h 7).toNat + 16 * i) 4
    (⟨wd w 0, wd w 1, wd w 2, wd w 3⟩ : Claim))
  let pins := (List.range (bits (wd h 4) 12 0)).map (fun i => parsePin (imgW s a ((wd h 8).toNat + 16 * i) 4))
  let chains := (List.range (bits (wd h 3) 15 8)).map (fun i => parseChain (imgW s a ((wd h 9).toNat + 128 * i) 32))
  { tenant := tenant, index := c.image, size := (wd h 1).toNat, roleMask := bits (wd h 0) 15 0,
    switchFc := bits (wd h 10) 15 0, tasks := tasks, edges := edges, claims := claims, pins := pins,
    chains := chains, crit := 0, st := .loading, queue := c.queue, sess := c.sess, cookie := c.cookie }

/-- Check 4 on the entries of an image. -/
def entriesBad (s : State) (a : Nat) (i : Image) : Bool :=
  let h := imgW s a 0 16
  (List.range i.tasks.length).any (fun n => taskReserved (imgW s a ((wd h 5).toNat + 32 * n) 8))
  || (List.range i.pins.length).any (fun n => pinBad (imgW s a ((wd h 8).toNat + 16 * n) 4))
  || i.claims.any claimBad || i.tasks.any (taskBad i i.claims.length i.edges.length)

/-- Tasks from which every path has ended, added level by level: the edges have no cycle when this reaches
every task (check 5). -/
def settled (i : Image) : Nat → List Nat → List Nat
  | 0, d => d
  | n + 1, d =>
    settled i n (d ++ (List.range i.tasks.length).filter (fun t =>
      !d.contains t && (match i.tasks[t]? with
        | some x => (succsOf i x).all (fun y => d.contains y)
        | none => false)))

def cycleBad (i : Image) : Bool :=
  i.edges.any (fun e => decide (i.tasks.length ≤ e))
  || (settled i i.tasks.length []).length != i.tasks.length

/-- TAIL of every task (R228): the largest total of WCET_FC along a path from a successor. -/
def tailsGo (i : Image) : Nat → List Nat → List Nat
  | 0, l => l
  | n + 1, l => tailsGo i n (i.tasks.map (fun t =>
      (succsOf i t).foldl (fun m u => max m (l.getD u 0 + (match i.tasks[u]? with | some x => x.wcet | none => 0))) 0))

/-- The image with the figures of R228: the TAIL of every task, and CRIT. -/
def withTails (i : Image) : Image :=
  let l := tailsGo i i.tasks.length (i.tasks.map (fun _ => 0))
  let ts := i.tasks.zipIdx.map (fun p => { p.1 with tail := l.getD p.2 0 })
  { i with tasks := ts, crit := (ts.map (fun t => t.wcet + t.tail)).foldl max 0 }

/-- The declared rates of a task on the column port (true) or the near port of its cores, in 1/64. -/
def portRate (i : Image) (t : TaskD) (col : Bool) : Nat :=
  ((claimsOf i t).map (fun x => if x.type = 3 ∧ bit x.w1 24 = col then bits x.w1 8 0 else 0)).foldl (· + ·) 0

/-- Chain traffic on the near port of a core: twice the rate of every chain with it as a member. -/
def chainRate (i : Image) (c : Nat) : Nat :=
  (i.chains.map (fun d => if d.members.contains c then 2 * d.rate else 0)).foldl (· + ·) 0

/-- Check 7: declared rates of one task and of the chains on one port of a core. -/
def localRateBad (i : Image) : Bool :=
  (List.range 256).any (fun c =>
    decide (192 < chainRate i c) || i.tasks.any (fun t => t.cores.contains c && t.onCores
      && (decide (192 < portRate i t false + chainRate i c) || decide (192 < portRate i t true))))

/-- Check 8 (R81): unpinned codebook claims of a task from more than 8 record groups. -/
def spaceBad (i : Image) : Bool :=
  i.tasks.any (fun t =>
    decide (8 < (((claimsOf i t).filter (fun c => c.type == 2 && !bit c.w0 27)).map
      (fun c => (bit c.w0 24, bits c.w3 22 0))).eraseDups.length))

/-- Check 9: the image and its copy do not fit in task memory. -/
def imageSpaceBad (s : State) (i : Image) : Bool :=
  decide (1024 ≤ s.drover.images.length)
  || decide (8388608 < (s.drover.images.map (·.size)).foldl (· + ·) i.size)

/-- Pin entries of an image for a core. -/
def pinsFor (i : Image) (c : Nat) : List PinE := i.pins.filter (fun p => p.covers c)

/-- The pinned groups of a core that still wait for their reload (R86): each will take a slot. -/
def missingGroups (s : State) (c : Nat) : List (Nat × Nat) :=
  ((missingPins s c).map (fun p => (p.1.tenant, p.2.group c))).eraseDups.filter (fun g =>
    match (s.core c).load with
    | some l => !(l.task.isNone && l.tenant == g.1 && l.group == g.2)
    | none => true)

/-- Check 10 (R82): more than 8 slots of some core would be pinned, with those that pins await. -/
def pinLimitBad (s : State) (i : Image) : Bool :=
  (List.range 256).any (fun c =>
    let k := s.core c
    let now := (List.range 16).filter (fun n => !(k.slot n).pins.isEmpty)
    let ps := pinsFor i c
    let hits := (ps.filterMap (fun p => (findBook k i.tenant p.e256 p.tag).map (·.1))).eraseDups
    let miss := ((ps.filter (fun p => (findBook k i.tenant p.e256 p.tag).isNone)).map (fun p => p.group c)).eraseDups
    let waiting := k.loads.filter (fun l => l.task.isNone)
    !ps.isEmpty && decide (8 < now.length + (hits.filter (fun n => !now.contains n)).length + miss.length
      + waiting.length + (missingGroups s c).length))

/-- Check 11 (R82): a pinned codebook hits one of the same key with another LEVEL_CHECK. -/
def pinConflict (s : State) (i : Image) : Bool :=
  (List.range 256).any (fun c =>
    let k := s.core c
    (pinsFor i c).any (fun p =>
      match findBook k i.tenant p.e256 p.tag with
      | some (n, q) => (match bookAt k n q with | some b => b.check != p.check | none => false)
      | none => false))

/-- The checks of Table 9-7 up to 11, in their order. -/
def resideReason (s : State) (c : Cmd) : Nat ⊕ Image :=
  let tenant := sessTenant s c.sess
  let a := c.w2.toNat
  if (imageOf s tenant c.image).isSome then .inl 0x20
  else if !rangeOk a 512 false then .inl 0x22
  else
    let size := (s.mem.word (a + 4)).toNat
    if !rangeOk a (max size 512) false then .inl 0x22
    else if (s.mem.verifyRange a (max size 512)).1 != .good then .inl 0x21
    else if headerBad (imgW s a 0 16) then .inl 0x22
    else
      let i := parseImage s a tenant c
      let h := imgW s a 0 16
      if entriesBad s a i then .inl 0x22
      else if cycleBad i then .inl 0x23
      else if (List.range i.chains.length).any (fun n => chainBad (imgW s a ((wd h 9).toNat + 128 * n) 32)) then .inl 0x24
      else if localRateBad i then .inl 0x25
      else if spaceBad i then .inl 0x26
      else if imageSpaceBad s i then .inl 0x27
      else if pinLimitBad s i then .inl 0x28
      else if pinConflict s i then .inl 0x29
      else .inr (withTails i)

/-- The pins of an image on one core: hits are pinned in their slot, groups that miss wait for a load (R82). -/
def pinCore (s : State) (i : Image) (c : Nat) : State :=
  let ps := pinsFor i c
  let k := s.core c
  let k1 := ps.foldl (fun k p =>
    match findBook k i.tenant p.e256 p.tag with
    | some (n, _) => k.setSlot n { k.slot n with pins := ((k.slot n).pins ++ [i.key]).eraseDups }
    | none => k) k
  let miss := ps.filter (fun p => (findBook k i.tenant p.e256 p.tag).isNone)
  let groups := (miss.map (fun p => p.group c)).eraseDups
  let loads := groups.map (fun g =>
    ({ task := none, tenant := i.tenant, group := g, wants := (miss.filter (fun p => p.group c == g)).map PinE.want,
       pins := [i.key], slot := none, start := 0, marked := [] } : CbLoad))
  if ps.isEmpty then s else s.setCore c { k1 with loads := k1.loads ++ loads }

/-- Cores that an image pins. -/
def pinCores (i : Image) : List Nat := (List.range 256).filter (fun c => i.pins.any (fun p => p.covers c))

/-- RESIDE (R224, R227). -/
def reside (s : State) : State :=
  match frontCmd s [2] with
  | some c =>
    let s1 := popCmd s
    match commonReason s c with
    | some r => refuse s1 c r
    | none =>
      match resideReason s c with
      | .inl r => refuse s1 c r
      | .inr i =>
        (pinCores i).foldl (fun u x => pinCore u i x)
          ((copyIn s1 c.w2.toNat i.size).mapDrover (fun d => { d with images := d.images ++ [i] }))
  | none => s

def execReside (s : State) : Res := .next (reside s)

def imageRec (i : Image) (kind : Nat) : ORec :=
  { kind := kind, reason := 0, cookie := i.cookie, fault := 0, inst := 0, ctx := 0, task := none, time := 0 }

/-- No load of an image's pins waits or runs. -/
def pinsLoaded (s : State) (i : Image) : Bool :=
  (pinCores i).all (fun c =>
    let k := s.core c
    !k.loads.any (fun l => l.task.isNone && l.pins.contains i.key)
    && (match k.load with | some l => !(l.task.isNone && l.pins.contains i.key) | none => true))

/-- IMAGE_RESIDENT (R224). -/
def imageResident (s : State) (tenant index : Nat) : State :=
  match imageOf s tenant index with
  | some i =>
    if i.st = .loading ∧ pinsLoaded s i then
      imageAnswered (postRec (setImage s { i with st := .resident }) i.queue i.sess (imageRec i 5)) i
    else s
  | none => s

def execImageResident (tenant : Byte) (index : Fin 1024) (s : State) : Res :=
  .next (imageResident s tenant.toNat index.val)

/-- RETIRE (R225). -/
def retire (s : State) : State :=
  match frontCmd s [3] with
  | some c =>
    let s1 := popCmd s
    match commonReason s c with
    | some r => refuse s1 c r
    | none =>
      match imageOf s (sessTenant s c.sess) c.image with
      | some i =>
        if i.st = .resident then
          setImage s1 { i with st := .retiring, queue := c.queue, sess := c.sess, cookie := c.cookie }
        else refuse s1 c 0x04
      | none => refuse s1 c 0x04
  | none => s

def execRetire (s : State) : Res := .next (retire s)

/-- IMAGE_RETIRED (R225): its last instance has ended. -/
def imageRetired (s : State) (tenant index : Nat) : State :=
  match imageOf s tenant index with
  | some i =>
    if i.st = .retiring ∧ !s.drover.insts.any (fun x => x.tenant == tenant && x.image == index) then
      let s1 := removePins s i.key
      let s2 := (copyOut s1 i.key).mapDrover (fun d => { d with images := d.images.filter (fun j => j.key != i.key) })
      imageAnswered (postRec s2 i.queue i.sess (imageRec i 6)) i
    else s
  | none => s

def execImageRetired (tenant : Byte) (index : Fin 1024) (s : State) : Res :=
  .next (imageRetired s tenant.toNat index.val)

/-! ### Templates (R230) -/

/-- A context of the session's tenant that accepts instances (13_host_sessions.md R368). -/
def ctxOk (s : State) (tenant ctx : Nat) : Bool :=
  match Tbl.get s.host.ctxs ctx with
  | some x => x.st == .opened && x.tenant == tenant
  | none => false

/-- A resident image of the tenant that is not retiring. -/
def imageReady (s : State) (tenant index : Nat) : Bool :=
  match imageOf s tenant index with
  | some i => i.st == .resident
  | none => false

/-- The template was set by a session of another tenant. -/
def templateForeign (s : State) (c : Cmd) : Bool :=
  match Tbl.get s.drover.templates c.template with
  | some t => t.tenant != sessTenant s c.sess
  | none => false

/-- The checks of Table 9-8 that apply to a TEMPLATE. -/
def templateReason (s : State) (c : Cmd) : Option Nat :=
  match commonReason s c with
  | some r => some r
  | none =>
    if templateForeign s c then some 0x10
    else if bit c.w3 0 && !imageReady s (sessTenant s c.sess) c.image then some 0x04
    else if bit c.w3 0 && !ctxOk s (sessTenant s c.sess) c.ctx then some 0x05
    else none

/-- TEMPLATE with ENABLE as given. -/
def template (s : State) (enable : Bool) : State :=
  match frontCmd s [4] with
  | some c =>
    if bit c.w3 0 != enable then s else
    let s1 := popCmd s
    match templateReason s c with
    | some r => refuse s1 c r
    | none =>
      let t : Template := { image := c.image, ctx := c.ctx, dline := c.w2.toNat, cookie := c.cookie, sess := c.sess,
                            tenant := sessTenant s c.sess, queue := c.queue }
      let s2 := s1.mapDrover (fun d => { d with
        templates := if enable then Tbl.set d.templates c.template t else Tbl.del d.templates c.template })
      answered (postRec s2 c.queue c.sess (cmdRec c 7 0 0 c.ctx)) c
  | none => s

/-- TEMPLATE_SET (R230). -/
def execTemplateSet (s : State) : Res := .next (template s true)

/-- TEMPLATE_CLEAR (R230). -/
def execTemplateClear (s : State) : Res := .next (template s false)

end Sys2Proof.Machine
end

