-- ==== Sys2Proof/Machine/Admit.lean ====
section
/-! DEFINITION. Admission: demand, blocking, the test of R234, the checks of Table 9-8 and SUBMIT
(09_drover_graphs.md R229 to R236; 14_power_clocks.md R382, R388, R393, R395; 16_faults_recovery.md R420). -/

namespace Sys2Proof.Machine

/-! ### What an image touches -/

/-- Unit columns of a task (R231; 10_herd_engine.md R268; 11_paddock.md R287): 256 HERD, 257 PADDOCK. -/
def unitCols (i : Image) (t : TaskD) : List Nat :=
  if t.kind = kHerd then 256 :: (if (claimsOf i t).any (fun c => c.type == 4) then [257] else [])
  else if t.kind = kPaddock then [257] else []

/-- The columns on which a task runs. -/
def runCols (i : Image) (t : TaskD) : List Nat := if t.onCores then t.cores else unitCols i t

/-- A task runs on the core or names it as a remote core of a channel claim. -/
def namesCore (i : Image) (t : TaskD) (c : Nat) : Bool :=
  (t.onCores && t.cores.contains c) || (remoteCores i t).contains c

/-- Herd logic (22) and Paddock search logic (23) that an instance of the image touches (R382). -/
def touchedUnits (i : Image) : List Nat :=
  (if hasKind i kHerd || hasKind i kPaddock then [22] else [])
    ++ (if i.tasks.any (fun t => (unitCols i t).contains 257) then [23] else [])

/-- Domains that an accepted instance wakes (R236, R382). -/
def touchedDoms (i : Image) : List Nat := touchedFolds i ++ touchedUnits i

/-! ### Demand (R231) -/

/-- d(t) of a task with a TAIL, for a deadline; it may lie before 0. -/
def derived (dl tail : Nat) : Int := (dl : Int) - 10 - ((tail + 39) / 40 : Nat)

/-- HEADSRC(t, c) = 1 (R228): the task runs on the core and no predecessor of it does. -/
def headSrc (i : Image) (n c : Nat) : Bool :=
  !(predsOf i n).any (fun p =>
    match i.tasks[p]? with
    | some t => t.onCores && t.cores.contains c
    | none => false)

/-- The wake that the Drover charges for a domain (R231, R382), 0 where none is due. -/
def wakeDemand (s : State) (d : Nat) : Nat :=
  let v := s.dom d
  if v.commit then 0
  else match v.chargeAs with
    | .doze => 4000
    | .nap => 40000
    | _ => 0

/-- The earliest derived deadline of the tasks that satisfy a test. -/
def firstOf (i : Image) (dl : Nat) (p : TaskD → Bool) : Option Nat :=
  ((i.tasks.filter p).map (fun t => (derived dl t.tail).toNat)).min?

def demandAt (num : Nat) (task : Option Nat) (col : Nat) (d : Option Nat) (fc : Nat) : List Demand :=
  match d with
  | some x => if fc = 0 then [] else [{ inst := num, task := task, col := col, dline := x, fc := fc }]
  | none => []

/-- Demand of the tasks of an image; `slots` gives each task its task slot. -/
def taskDemands (i : Image) (num dl : Nat) (slots : List Nat) : List Demand :=
  i.tasks.zipIdx.flatMap (fun p =>
    (runCols i p.1).flatMap (fun c =>
      demandAt num (some (slots.getD p.2 0)) c (some (derived dl p.1.tail).toNat)
        (p.1.wcet + (if c < 256 && headSrc i p.2 c then i.switchFc else 0))))

/-- Wake demand of an instance (R231, R382). -/
def wakeDemands (s : State) (i : Image) (num dl : Nat) : List Demand :=
  (touchedCores i).flatMap (fun c =>
    demandAt num none c (firstOf i dl (fun t => namesCore i t c)) (wakeDemand s (c / 16)))
  ++ demandAt num none 256 (firstOf i dl (fun t => t.kind == kHerd)) (wakeDemand s 22)
  ++ demandAt num none 257 (firstOf i dl (fun t => t.kind == kPaddock)) (wakeDemand s 22)
  ++ demandAt num none 257 (firstOf i dl (fun t => (unitCols i t).contains 257)) (wakeDemand s 23)

def newDemands (s : State) (i : Image) (num dl : Nat) (slots : List Nat) : List Demand :=
  taskDemands i num dl slots ++ wakeDemands s i num dl

/-! ### Blocking (R232) and the test (R234) -/

/-- Cycles that the task in a slot has run. -/
def ranFor (s : State) (k : Task) : Nat :=
  k.used + (match k.st with | .running | .draining => s.now - k.since | _ => 0)

/-- NP_FC of a task as it counts in the blocking: reduced by the cycles that it has run while its budget runs (R232). -/
def npLeft (s : State) (k : Task) (d : TaskD) : Nat :=
  match k.st with
  | .running | .draining => d.np - ranFor s k
  | _ => d.np

/-- B(x, e). -/
def blocking (s : State) (x e : Nat) : Nat :=
  ((Tbl.keys s.drover.tasks).map (fun t =>
    match s.task t, taskD s t, imageOfTask s t with
    | some k, some d, some i =>
      if k.st != .done && decide (e < k.dline) && (runCols i d).contains x then npLeft s k d else 0
    | _, _, _ => 0)).foldl max 0

/-- Σ DEM of a column over slots 0 to k, for ledgers that hold `ds`. -/
def demSum (base : Nat) (ds : List Demand) (x k : Nat) : Nat :=
  ((ds.filter (fun d => d.col == x && decide ((d.dline - base) / 5000 ≤ k))).map (·.fc)).foldl (· + ·) 0

def firstIn (base : Nat) (ds : List Demand) (x k : Nat) : Option Nat :=
  ((ds.filter (fun d => d.col == x && (d.dline - base) / 5000 == k)).map (·.dline)).min?

/-- R234 for one column and slot, in tenths of fc. -/
def windowOk (s : State) (ds : List Demand) (x k : Nat) : Bool :=
  match firstIn s.drover.slotBase ds x k with
  | none => true
  | some e => decide ((10 * (demSum s.drover.slotBase ds x k + blocking s x e) : Int) ≤ 360 * ((e : Int) - s.ac))

/-- R234 for every column on which the instance places demand. -/
def demandOk (s : State) (new : List Demand) : Bool :=
  let ds := s.drover.demands ++ new
  ((new.map (·.col)).eraseDups).all (fun x =>
    let low := ((new.filter (fun d => d.col == x)).map (fun d => slotOf s d.dline)).min?.getD 0
    (List.range 64).all (fun k => decide (k < low) || windowOk s ds x k))

/-- A core or column of the instance lies behind a raised hurdle (R420). -/
def hurdleFull (s : State) (i : Image) : Bool :=
  (touchedCores i).any (fun c => s.hurdled (.core (coreOf c)))
  || (s.hurdled .herd && i.tasks.any (fun t => (unitCols i t).contains 256))
  || (s.hurdled .paddock && i.tasks.any (fun t => (unitCols i t).contains 257))

/-! ### The other checks of Table 9-8 -/

/-- The role admits a kind (01_device_overview.md Table 1-5). -/
def roleAdmits (role kind : Nat) : Bool :=
  if kind = kMatrix then role == 1 || role == 2
  else if kind = kAttention || kind = kReduce then role == 1 || role == 2 || role == 3
  else true

/-- R29. -/
def roleOk (s : State) (i : Image) : Bool :=
  let role := bits (s.reg slotMgmt 0x100) 3 0
  let only := i.tasks.all (fun t => t.kind == kHerd || t.kind == kPaddock || t.kind == kStream
    || t.kind == kCopy || t.kind == kBarrier)
  only || (i.roleMask.testBit role && i.tasks.all (fun t => roleAdmits role t.kind))

/-- A fold is off, entering off or waking from off. -/
def foldOff (s : State) (f : Nat) : Bool := (s.dom f).st == .off || (s.dom f).target == some .off

/-- The pin of a resident image that counts for a pinned claim on a core (R84). -/
def pinCounts (s : State) (tenant c : Nat) (cl : Claim) : Bool :=
  cl.w1 != 0 && (pinsOf s c).any (fun p => p.1.tenant == tenant && p.2.e256 == bit cl.w0 26 && p.2.tag == cl.w1
    && !(List.range 16).any (fun n =>
      let v := (s.core c).slot n
      v.failed && !v.parity && v.pins.contains p.1.key
        && v.books.any (fun b => b.hasKey tenant p.2.e256 p.2.tag)))

/-- R84: a claim marked pinned with no pin that counts. -/
def notPinned (s : State) (i : Image) : Bool :=
  i.tasks.any (fun t => (claimsOf i t).any (fun cl => cl.type == 2 && bit cl.w0 27
    && t.cores.any (fun c => !pinCounts s i.tenant c cl)))

/-- The images of the admitted instances, one entry for each. -/
def admittedImages (s : State) : List Image :=
  s.drover.insts.filterMap (fun x => imageOf s x.tenant x.image)

/-- Chain slots that the chains of an image take on a core. -/
def chainsOn (i : Image) (c : Nat) : Nat := (i.chains.filter (fun d => d.members.contains c)).length

def chainSlotsBad (s : State) (i : Image) : Bool :=
  (List.range 256).any (fun c =>
    decide (4 < ((admittedImages s).map (fun m => chainsOn m c)).foldl (· + ·) (chainsOn i c)) && decide (0 < chainsOn i c))

/-- REMOTE_RATE that an image places on a port of a core: its claims count for each core of their task's set. -/
def remoteRate (i : Image) (c : Nat) (col : Bool) : Nat :=
  (i.tasks.map (fun t => t.coreCount * ((claimsOf i t).map (fun cl =>
    if cl.type = 3 ∧ bit cl.w2 31 ∧ bits cl.w2 23 16 = c ∧ bit cl.w2 24 = col then bits cl.w2 8 0 else 0)).foldl
      (· + ·) 0)).foldl (· + ·) 0

def portRateBad (s : State) (i : Image) : Bool :=
  (i.tasks.flatMap (remoteCores i)).any (fun c =>
    [false, true].any (fun col =>
      decide (64 < ((admittedImages s).map (fun m => remoteRate m c col)).foldl (· + ·) (remoteRate i c col))))

/-- Free task slots, lowest first. -/
def freeTaskSlots (s : State) : List Nat :=
  let used := Tbl.keys s.drover.tasks
  (List.range 4096).filter (fun n => !used.contains n)

/-- The checks of Table 9-8 up to FOLD_OFF that need the image. -/
def placeReason (s : State) (i : Image) : Option Nat :=
  if !roleOk s i then some 0x06
  else if (touchedFolds i).any (fun f => s.power.caution.contains f) then some 0x07
  else if !(touchedFolds i).isEmpty && (s.power.halt || (touchedFolds i).any (foldOff s)) then some 0x08
  else none

/-- The checks from DEADLINE_SHORT on. -/
def loadReason (s : State) (i : Image) (dl : Nat) (slots : List Nat) (new : List Demand) : Option Nat :=
  if decide (dl ≤ s.ac + 10) || i.tasks.any (fun t => decide (derived dl t.tail ≤ s.ac)) then some 0x09
  else if s.drover.slotBase + 320000 < dl then some 0x0A
  else if slots.length < i.tasks.length then some 0x0B
  else if notPinned s i then some 0x0C
  else if chainSlotsBad s i then some 0x0D
  else if portRateBad s i then some 0x0E
  else if hurdleFull s i || !demandOk s new then some 0x0F
  else none

/-! ### SUBMIT -/

/-- The next instance number after one (R235): 16 bits, and 0 names no instance. -/
def nextNum (n : Nat) : Nat := if n ≥ 0xFFFF then 1 else n + 1

/-- The ledgers as they stand at the current counter (R233): slot 0 contains it. -/
def rollLedger (s : State) : State :=
  if s.ac < s.drover.slotBase + 5000 then s else
  let b := s.ac - s.ac % 5000
  s.mapDrover (fun d => { d with
    slotBase := b, demands := d.demands.filter (fun x => decide (b ≤ x.dline)), reserve := [], resAborts := [] })

/-- The wakes of an accepted instance are started and committed (R236, R382). -/
def commitWakes (s : State) (i : Image) : State :=
  (touchedDoms i).foldl (fun u d =>
    match (u.dom d).chargeAs with
    | .doze | .nap => startWake (u.setDom d { u.dom d with commit := true }) d
    | _ => u) s

/-- A task as it stands at acceptance. -/
def newTask (i : Image) (num dl n now : Nat) (t : TaskD) : Task :=
  let ps := predsOf i n
  { inst := num, idx := n, st := if ps.isEmpty then .ready else .waiting, preds := ps.length,
    since := now, used := 0, ext := [], age := 0, dline := (derived dl t.tail).toNat, filler := false,
    books := [], saved := [] }

/-- A task of an instance has completed: its demand leaves the ledgers, its successors have one
predecessor fewer (R233, R237). -/
def completeTask (s : State) (t : Nat) : State :=
  match s.task t, instOfTask s t, imageOfTask s t, taskD s t with
  | some k, some i, some m, some d =>
    let s1 := setTask (taskTrace s 0 0x02 slotDrvr t [w32 (ranFor s k)]) t { k with st := .done, since := s.now }
    let s2 := s1.mapDrover (fun r => { r with demands := r.demands.filter (fun x => !(x.task == some t && x.inst == i.num)) })
    (succsOf m d).foldl (fun u n =>
      match i.slots[n]? with
      | some ts =>
        match u.task ts with
        | some v =>
          let left := v.preds - 1
          setTask u ts { v with preds := left, st := if left = 0 ∧ v.st = .waiting then .ready else v.st }
        | none => u
      | none => u) s2
  | _, _, _, _ => s

/-- Barriers that are ready complete in the same fc, one after another (R237). -/
def barriers (num : Nat) : Nat → State → State
  | 0, s => s
  | n + 1, s =>
    match findInst s num with
    | none => s
    | some i =>
      match i.slots.find? (fun t => taskKind s t == kBarrier && (match s.task t with | some k => k.st == .ready | none => false)) with
      | some t => barriers num n (completeTask s t)
      | none => s

/-- An instance whose last task has completed ends (R245). -/
def endIfDone (s : State) (num : Nat) : State :=
  match findInst s num with
  | some i =>
    if i.slots.all (fun t => match s.task t with | some k => k.st == .done | none => true) then endInst s i else s
  | none => s

/-- The trace entry of a decision on a submission. -/
def traceDecision (s : State) (c : Cmd) (kind reason num : Nat) : State :=
  traceEv s 2 0x07 slotDrvr num c.ctx 0
    [fld kind 24 ||| fld reason 16 ||| w32 c.image, w32 (c.bell + c.w2.toNat)]

/-- Acceptance (R235, R236): task slots, number, ledgers, wakes and the ACCEPTED record. -/
def accept (s : State) (c : Cmd) (i : Image) (dl : Nat) (slots : List Nat) (new : List Demand) : State :=
  let num := s.drover.instCtr
  let inst : Inst := { num := num, tenant := i.tenant, image := i.index, ctx := c.ctx, sess := c.sess, queue := c.queue,
                       cookie := c.cookie, dline := dl, submit := c.bell, slots := slots, tmpl := c.tmpl }
  let s1 := s.mapDrover (fun d => { d with
    insts := d.insts ++ [inst], instCtr := nextNum num, demands := d.demands ++ new
    tasks := (i.tasks.zipIdx.zip slots).foldl (fun t p => Tbl.set t p.2 (newTask i num dl p.1.2 s.now p.1.1)) d.tasks })
  let s2 := commitWakes (s1.bump slotDrvr 0x040 1) i
  let s3 := traceDecision (answered (postRec s2 c.queue c.sess (cmdRec c 1 0 num c.ctx)) c) c 1 0 num
  endIfDone (barriers num i.tasks.length s3) num

/-- A submission is refused; DEMAND refusals are counted. -/
def turnDown (s : State) (c : Cmd) (reason : Nat) : State :=
  let s1 := traceDecision (refuse s c reason) c 0x04 reason 0
  if reason = 0x0F then countEvent s1 slotDrvr 4 1 else s1

/-- One decision (R229, R235). -/
def decideSubmit (s : State) (c : Cmd) : State :=
  let tenant := sessTenant s c.sess
  match commonReason s c with
  | some r => turnDown s c r
  | none =>
    if s.roles ≠ [] then turnDown s c 0x02
    else if s.hurdled .compute then turnDown s c 0x03
    else match imageOf s tenant c.image with
      | none => turnDown s c 0x04
      | some i =>
        if i.st != .resident then turnDown s c 0x04
        else if !ctxOk s tenant c.ctx then turnDown s c 0x05
        else match placeReason s i with
          | some r => turnDown s c r
          | none =>
            let dl := c.bell + c.w2.toNat
            let slots := (freeTaskSlots s).take i.tasks.length
            let new := newDemands s i s.drover.instCtr dl slots
            match loadReason s i dl slots new with
            | some r => turnDown s c r
            | none => accept s c i dl slots new

/-- The next command of the Drover is a submission that may be decided: a decision at most every 200 fc
(R229), the die network in run (14_power_clocks.md R388), and none in the fc in which a domain begins an entry (R381). -/
def submitReady (s : State) : Bool :=
  netRuns s && s.power.entered != some s.now && (match s.drover.lastDec with | some t => decide (t + 200 ≤ s.now) | none => true)

/-- SUBMIT: the decision on the submission at the head of the Drover's commands. -/
def submit (s : State) : State :=
  match frontCmd s [1] with
  | some c =>
    if submitReady s then
      decideSubmit (countEvent (rollLedger ((popCmd s).mapDrover (fun d => { d with lastDec := some s.now }))) slotDrvr 1 1) c
    else s
  | none => s

def execSubmit (s : State) : Res := .next (submit s)

/-- LEDGER_SLOT_ADVANCE (R233): at a slot boundary the slots move down. -/
def execLedgerSlotAdvance (s : State) : Res := .next (rollLedger s)

end Sys2Proof.Machine
end

