-- ==== Sys2Proof/Machine/Drover.lean ====
section
/-! DEFINITION. Dispatch, suspension, completion, budgets and the reserve (09_drover_graphs.md R237 to
R245; 05_accumulation.md R129; 07_streams.md R196; 08_drove_chains.md R203). -/

namespace Sys2Proof.Machine

/-! ### What a task occupies -/

/-- Cores by number; 256 the Herd engine, 257 the update side of the Paddock (11_paddock.md R287). A herd
task with a Paddock claim has the search side with the Herd engine. -/
def resourcesOf (d : TaskD) : List Nat :=
  if d.onCores then d.cores else if d.kind = kHerd then [256] else if d.kind = kPaddock then [257] else []

/-- The task is dispatched and has not ended. -/
def TState.onUnits : TState → Bool
  | .running | .draining | .saving | .restoring => true
  | _ => false

/-- The task runs or is being suspended or restored. -/
def dispatched (s : State) (t : Nat) : Bool :=
  match s.task t with
  | some k => k.st.onUnits
  | none => false

/-- The task that holds a core, the Herd engine or the update side. -/
def occupant (s : State) (r : Nat) : Option Nat :=
  if r < 256 then
    match (s.core r).prog with
    | some p => some p.task
    | none => none
  else (Tbl.keys s.drover.tasks).find? (fun t => dispatched s t && taskKind s t == (if r = 256 then kHerd else kPaddock))

/-- Nothing of the task is in progress on the core: its queues and units are empty of it. -/
def coreQuiet (s : State) (c t : Nat) : Bool :=
  let k := s.core c
  !k.arrQ.any (fun q => q.task == t) && !k.drQ.any (fun q => q.task == t) && !k.attQ.any (fun q => q.task == t)
  && !k.fins.any (fun m => m.inst.task == t)
  && (match k.mm with | some m => m.inst.task != t | none => true)
  && (match k.dr with | some m => m.inst.task != t | none => true)
  && (match k.att with | some m => m.inst.task != t | none => true)
  && !s.fabric.ops.any (fun o => o.core == c && o.inst.task == t)
  && !s.fabric.pend.any (fun p => p.core == c && p.task == t)
  && !s.fabric.inbox.any (fun x => x.core == c && x.task == t)

/-- The task's part on a core has completed (R465). -/
def partDone (s : State) (t c : Nat) : Bool :=
  (match (s.core c).prog with | some p => p.task != t || p.ended | none => true)
  && coreQuiet s c t && !(s.core c).chans.any (fun p => p.2.armed && p.2.task == some t)

/-! ### Order among ready tasks (R238) -/

/-- The task waits for dispatch or to be resumed. -/
def wantsUnits (s : State) (t : Nat) : Bool :=
  match s.task t with
  | some k => (k.st == .ready || k.st == .suspended) && !aborting s t
  | none => false

/-- Task `a` goes before task `b`: earlier derived deadline, then larger age, then lower instance number. -/
def goesBefore (a b : Task) : Bool :=
  if a.dline ≠ b.dline then decide (a.dline < b.dline)
  else if a.age ≠ b.age then decide (b.age < a.age)
  else if a.inst ≠ b.inst then decide (a.inst < b.inst) else decide (a.idx < b.idx)

def resourcesIn (s : State) (t : Nat) : List Nat :=
  match taskD s t with
  | some d => resourcesOf d
  | none => []

/-- The ready task that comes first on a core or unit. -/
def headOf (s : State) (r : Nat) : Option Nat :=
  ((Tbl.keys s.drover.tasks).filter (fun t => wantsUnits s t && (resourcesIn s t).contains r)).foldl (fun best t =>
    match best with
    | none => some t
    | some b =>
      match s.task t, s.task b with
      | some x, some y => if goesBefore x y then some t else some b
      | _, _ => some b) none

def isHead (s : State) (t : Nat) : Bool := (resourcesIn s t).all (fun r => headOf s r == some t)

/-! ### Fillers (R240) -/

/-- The budget of a task on a core of its set, or on its unit (R241). -/
def budget (k : Task) (d : TaskD) (core : Nat) : Nat := d.wcet + Tbl.getD k.ext (if d.onCores then core else 256) 0

/-- Declared cycles that a task has still to run, on the core of its set where they are most. -/
def remaining (s : State) (t : Nat) : Nat :=
  match s.task t, taskD s t with
  | some k, some d => ((resourcesOf d).filter (fun r => decide (256 ≤ r) || !partDone s t r)).foldl (fun m r => max m (budget k d r - ranFor s k)) 0
  | _, _ => 0

/-- Declared cycles until a task could start on its whole set. -/
def startIn (s : State) (t : Nat) : Nat :=
  (resourcesIn s t).foldl (fun m r => match occupant s r with | some o => max m (remaining s o) | none => m) 0

/-- The end of the bubble on a core, in fc from now, for a filler `t`: the core is free and the task that
comes first on it waits for other cores, or its part of a task is done and other parts are not. -/
def bubbleOf (s : State) (t r : Nat) : Option Nat :=
  let ahead := match headOf s r with
    | some w => if w ≠ t then some (startIn s w) else none
    | none => none
  match occupant s r with
  | none => ahead
  | some o => if r < 256 && o != t && partDone s o r then some (ahead.getD (remaining s o)) else none

/-- A ready task fits the bubbles of every core of its set, and is of another instance than those it fills
in for. -/
def fillerFits (s : State) (t : Nat) : Bool :=
  match s.task t, taskD s t with
  | some k, some d =>
    d.onCores && k.st == .ready && d.cores.all (fun c =>
      (match bubbleOf s t c with
       | some n => decide (d.wcet + 200 ≤ n)
       | none => false)
      && (match occupant s c with
          | some o => (match s.task o with | some x => x.inst != k.inst | none => true)
          | none => true)
      && (match headOf s c with
          | some w => w == t || (match s.task w with | some x => x.inst != k.inst | none => true)
          | none => true))
  | _, _ => false

/-! ### Claims (R237) -/

/-- Logic on which a task would run is in run, not in reset and not behind a hurdle. -/
def unitReady (s : State) (i : Image) (d : TaskD) : Bool :=
  d.cores.all (fun c => !d.onCores || (s.coreRuns c && !s.hurdled (.core (coreOf c)) && (missingPins s c).isEmpty
    && (match (s.core c).load with | some l => l.task.isSome | none => true)))
  && (unitCols i d).all (fun u =>
    if u = 256 then (s.dom 22).st == .run && !s.hurdled .herd else (s.dom 23).st == .run && !s.hurdled .paddock)
  && (d.kind != kPaddock || (s.dom 22).st == .run)

/-- No pinned claim waits for the reload of its slot (03_numbers_codebooks.md R85). -/
def booksReady (s : State) (t : Nat) (d : TaskD) : Bool :=
  d.cores.all (fun c => !(List.range 16).any (fun n => awaitsSlot s t c n))

/-- The tiles that a task claims, on a core, are held by no other task. -/
def tilesFree (s : State) (t c : Nat) : Bool :=
  [false, true].all (fun b => !claimsTile s t b || ((s.core c).tile b).holder == none)

/-- Free chain slots of a core, lowest first. -/
def freeChSlots (k : Core) : List Nat := (List.range 4).filter (fun n => (k.chSlot n).isNone)

/-- The chains of a task's claims. -/
def chainClaims (s : State) (t : Nat) : List Nat :=
  (taskClaims s t).filterMap (fun c => if c.type = 5 then some (bits c.w0 7 0) else none)

/-- Every claim of the task can be granted now. -/
def claimsReady (s : State) (t : Nat) : Bool :=
  match taskD s t, imageOfTask s t with
  | some d, some i =>
    unitReady s i d && booksReady s t d && (!d.onCores || d.cores.all (fun c => tilesFree s t c))
  | _, _ => false

/-- The first task of an instance that holds a claim on a chain on a core: the one that its slot is programmed for. -/
def chainTask (s : State) (inst chain c : Nat) : Option Nat :=
  match findInst s inst with
  | some i => i.slots.find? (fun t => (chainClaims s t).contains chain
      && (match taskD s t with | some d => d.onCores && d.cores.contains c | none => false))
  | none => none

/-- A member's slot as the Drover programs it (08_drove_chains.md R203). -/
def newChSlot (d : ChainD) (chain inst pos : Nat) (t : Option Nat) : ChSlot :=
  { desc := d, chain := chain, inst := inst, task := t, pos := pos, joined := none, detached := false,
    catching := none, allow := d.catchup, gen := 0, nextSeq := 0, wr := 0, commits := [], cancels := [],
    recvGen := 0, recvSeq := 0, ring := [], coming := [], credits := d.ringBlk + 1, back := [], stallAt := none,
    waitAt := none, sentAt := 0, ended := false, left := false, srcs := [] }

/-- The slots of every member of a chain are programmed in one act, where they are not yet (R203). -/
def programChain (s : State) (inst : Nat) (i : Image) (chain : Nat) : State :=
  match i.chains[chain]? with
  | none => s
  | some d =>
    d.members.zipIdx.foldl (fun u p =>
      let k := u.core p.1
      match k.findChain inst chain with
      | some _ => u
      | none =>
        match freeChSlots k with
        | n :: _ => setSlotOf u p.1 n (newChSlot d chain inst p.2 (chainTask s inst chain p.1))
        | [] => u) s

/-- The chain slots of a task's cores serve the task. -/
def serveChain (s : State) (t inst chain : Nat) (cores : List Nat) : State :=
  cores.foldl (fun u c =>
    match (u.core c).findChain inst chain with
    | some (n, v) => setSlotOf u c n { v with task := some t, allow := v.desc.catchup }
    | none => u) s

/-- The tiles that a task claims become its own, with an empty extent and scale 1.0. -/
def grantTiles (s : State) (t c : Nat) : State :=
  [false, true].foldl (fun u b =>
    if claimsTile u t b then
      u.mapCore c (fun k => k.setTile b { k.tile b with holder := some t, extent := none, scale := oneF })
    else u) s

/-- Codebook claims of a task on every core of its set (03_numbers_codebooks.md R78). -/
def grantCodebooks (s : State) (t : Nat) (cores : List Nat) : State := cores.foldl (fun u c => claimBooks u t c) s

/-- Tasks with the same derived deadline that are passed over on a core of the set age by one (R238). -/
def ageOthers (s : State) (t : Nat) : State :=
  match s.task t with
  | none => s
  | some k =>
    let rs := resourcesIn s t
    ((Tbl.keys s.drover.tasks).filter (fun u => u != t && wantsUnits s u && (resourcesIn s u).any rs.contains)).foldl
      (fun w u =>
        match w.task u with
        | some x => if x.dline = k.dline then setTask w u { x with age := x.age + 1 } else w
        | none => w) s

/-- The program of a task starts on its cores. -/
def startProgs (s : State) (t : Nat) (d : TaskD) : State :=
  d.cores.foldl (fun u c => u.mapCore c (fun k =>
    { k with prog := some { task := t, pc := d.progOff, ended := false, stopped := false, block := none } })) s

/-- An event of the folds of a core set (17_sharal_tally.md Table 17-11). -/
def countFolds (s : State) (cores : List Nat) (code : Nat) : State :=
  ((cores.map (· / 16)).eraseDups).foldl (fun u f => countEvent u (slotFold f) code 1) s

/-- The ready task is dispatched with all its claims (R237). -/
def startTask (s : State) (t : Nat) (k : Task) (d : TaskD) (i : Image) (filler : Bool) : State :=
  let s1 := setTask (ageOthers s t) t { k with st := .running, since := s.now, filler := filler }
  let s2 := (chainClaims s t).foldl (fun u ch =>
    serveChain (programChain u k.inst i ch) t k.inst ch (if d.onCores then d.cores else [])) s1
  let s3 := if d.onCores then startProgs (d.cores.foldl (fun u c => grantTiles u t c) s2) t d else s2
  let s4 := if filler then s3.bump slotDrvr 0x058 1 else s3
  let s5 := if d.onCores then grantCodebooks s4 t d.cores else s4
  let s6 := if d.onCores then countFolds (if filler then countFolds s5 d.cores 0x86 else s5) d.cores 0x84 else s5
  taskTrace s6 0 0x01 slotDrvr t [fld d.kind 28 ||| fld d.coreFirst 16 ||| w32 d.coreCount, w32 k.dline, flag filler 0]

/-- Dispatch of the task in a slot, where it is ready, its claims can be granted, and it either comes first
on the whole of a free set (R238) or fits as a filler (R240). -/
def dispatchTask (s : State) (t : Nat) : State :=
  match s.task t, taskD s t, imageOfTask s t with
  | some k, some d, some i =>
    if k.st != .ready || aborting s t || d.kind == kBarrier || !claimsReady s t then s
    else if isHead s t && (resourcesOf d).all (fun r => (occupant s r).isNone) then startTask s t k d i false
    else if fillerFits s t then startTask s t k d i true
    else s
  | _, _, _ => s

/-- TASK_DISPATCH (R237, R238, R240). -/
def execTaskDispatch (slot : Fin 4096) (s : State) : Res := .next (dispatchTask s slot.val)

/-! ### Suspension (R239) -/

def hasSave (s : State) (t : Nat) : Option Nat :=
  (taskClaims s t).findSome? (fun c => if c.type = 6 then some (bits c.w3 22 0) else none)

/-- An occupying task may be suspended for a ready task of derived deadline `dl`. -/
def maySuspend (s : State) (o dl : Nat) : Bool :=
  match s.task o, taskD s o with
  | some k, some d =>
    d.onCores && !d.nosusp && decide (dl < k.dline) && !k.filler && !aborting s o && (chainClaims s o).isEmpty
    && (k.st == .running || k.st == .draining || k.st == .saving)
    && !((d.kind == kMatrix || d.kind == kReduce) && (hasSave s o).isNone)
  | _, _ => false

/-- Step 1 of R239: the program of the task stops issuing and its queues drain. -/
def beginSuspend (s : State) (o : Nat) : State :=
  match s.task o with
  | some k =>
    if k.st = .running then
      let s1 := countFolds ((setTask s o { k with st := .draining }).bump slotDrvr 0x054 1) (resourcesIn s o) 0x85
      { s1 with cores := Tbl.mapV s1.cores (fun _ c =>
          match c.prog with
          | some p => if p.task = o then { c with prog := some { p with stopped := true } } else c
          | none => c) }
    else s
  | none => s

/-- TASK_SUSPEND: the ready task in a slot begins the suspension of the tasks on its cores. -/
def suspendFor (s : State) (t : Nat) : State :=
  match s.task t with
  | none => s
  | some k =>
    let os := ((resourcesIn s t).filterMap (occupant s)).eraseDups
    if wantsUnits s t && isHead s t && !os.isEmpty && os.all (fun o => maySuspend s o k.dline) then
      os.foldl beginSuspend s
    else s

def execTaskSuspend (slot : Fin 4096) (s : State) : Res := .next (suspendFor s slot.val)

/-- Every write of the task's channels on a core is done, and no re-arm or disarm is outstanding. -/
def writesFlushed (s : State) (t c : Nat) : Bool :=
  let k := s.core c
  !chanPending k t && k.chans.all (fun p => p.2.task != some t || !p.2.armed || writesDone p.2)

/-- A channel as it is saved (07_streams.md R196): what is queued is discarded, and the halves stay filled as they are; a
write channel has written everything. -/
def savedChan (h : Chan) : Chan :=
  let full := if h.desc.write then h.done else h.filled
  { h with fetched := h.done, landed := h.done, runEnd := h.done, walked := full, walkIn := full, stored := full, filled := full
           flights := [], outBuf := [], reqAt := none, primed := false, waiting := false, waitFc := 0, excuse := 0 }

/-- What the Drover keeps of the task on a core (R129, R196); where another program runs there, a filler's, the part of the
task is done. -/
def saveOf (s : State) (t c : Nat) : Saved :=
  let k := s.core c
  { core := c
    pc := match k.prog with | some p => if p.task = t then p.pc else 0 | none => 0
    ended := match k.prog with | some p => p.task != t || p.ended | none => true
    tileA := if claimsTile s t false then some k.tileA else none
    tileB := if claimsTile s t true then some k.tileB else none
    chans := (k.chans.filter (fun p => p.2.armed && p.2.task == some t)).map (fun p => (p.1, savedChan p.2))
    replay := 0 }

/-- SUSPEND_DRAINED (R129, R196): the task's queues are empty and its writes complete; the save begins. -/
def suspendDrained (s : State) (t : Nat) : State :=
  match s.task t, taskD s t with
  | some k, some d =>
    if k.st = .draining ∧ d.cores.all (fun c => coreQuiet s c t && writesFlushed s t c) then
      setTask s t { k with st := .saving, used := ranFor s k, since := s.now, saved := d.cores.map (saveOf s t) }
    else s
  | _, _ => s

def execSuspendDrained (slot : Fin 4096) (s : State) : Res := .next (suspendDrained s slot.val)

/-- The bytes of a tile in a save area: element (r, j) at 12 x (64 x r + j); a tile not held is +0 (R129). -/
def tileBytes (x : Option Tile) : List Byte :=
  (List.range 4096).flatMap (fun n =>
    match x with
    | some t => wordsBytes (Tbl.getD t.elems n W64.zero).words
    | none => wordsBytes W64.zero.words)

/-- The save area of a core is written. -/
def writeSave (s : State) (off : Nat) (v : Saved) : State :=
  let s1 := s.mapMem (fun m => m.put (columnBase v.core + off) (tileBytes v.tileA ++ tileBytes v.tileB))
  (s1.bump (slotArr v.core) 0x180 1).pulse (slotArr v.core) 11

/-- The cores of a suspended task are free of it: tiles released, channels disarmed. -/
def vacate (s : State) (t : Nat) (cores : List Nat) : State := cores.foldl (fun u c => u.mapCore c (fun k => stopCore k t)) s

/-- Ready tasks that want one of the units, first ones first, are dispatched where they can be. -/
def dispatchOn (s : State) (rs : List Nat) : State :=
  rs.foldl (fun u r => match headOf u r with | some t => dispatchTask u t | none => u) s

/-- The trace entry of a save or a restore of a core that began at `since`. -/
def traceSave (s : State) (t kind since c : Nat) : State :=
  taskTrace s 0 kind slotDrvr t [w32 c, w32 (s.now - since)]

/-- SUSPEND_SAVE_COMPLETE (R239): 192 fc after the save began where tiles are saved, the codebook claims
are released, and the ready task is dispatched. -/
def saveComplete (s : State) (t : Nat) : State :=
  match s.task t, taskD s t with
  | some k, some d =>
    if k.st != .saving || aborting s t then s else
    match hasSave s t with
    | some off =>
      if s.now < k.since + 192 then s else
      let s1 := k.saved.foldl (fun u v => traceSave (writeSave u off v) t 0x04 k.since v.core) s
      let s2 := releaseBooks (vacate s1 t d.cores) t
      dispatchOn (setTask s2 t { k with st := .suspended, since := s.now, books := [] }) d.cores
    | none =>
      let s1 := k.saved.foldl (fun u v => traceSave u t 0x04 k.since v.core) s
      let s2 := releaseBooks (vacate s1 t d.cores) t
      dispatchOn (setTask s2 t { k with st := .suspended, since := s.now, books := [] }) d.cores
  | _, _ => s

def execSuspendSaveComplete (slot : Fin 4096) (s : State) : Res := .next (saveComplete s slot.val)

/-- The programs of a resumed task stand where they stood, and do not issue before the restore is over. -/
def restoreProgs (s : State) (t : Nat) (k : Task) : State :=
  k.saved.foldl (fun u v => u.mapCore v.core (fun c =>
    { c with prog := some { task := t, pc := v.pc, ended := v.ended, stopped := false, block := none } })) s

/-- TASK_RESUME (R239): a suspended task that is again first on its whole set, which is free, begins its
restore, with its tiles and codebook grants. -/
def resumeTask (s : State) (t : Nat) : State :=
  match s.task t, taskD s t with
  | some k, some d =>
    if k.st == .suspended && claimsReady s t && !aborting s t && isHead s t
        && d.cores.all (fun c => (occupant s c).isNone) then
      let s1 := setTask (ageOthers s t) t { k with st := .restoring, since := s.now }
      let s2 := restoreProgs (d.cores.foldl (fun u c => grantTiles u t c) s1) t k
      grantCodebooks s2 t d.cores
    else s
  | _, _ => s

def execTaskResume (slot : Fin 4096) (s : State) : Res := .next (resumeTask s slot.val)

/-- The first fault that reading a save area meets, as the ARR page of its core records it. -/
def restoreFault (s : State) (t off : Nat) (l : List Saved) : Option State :=
  l.findSome? (fun v =>
    let a := columnBase v.core + off
    let r := s.mem.verifyRange a 98304
    match r.1 with
    | .good => none
    | .poisoned w => some (taskFault s (slotArr v.core) t (some v.core) 0x0003 (some (r.2 * 512 + 8 * w)) 0
        (flag (markedBy (s.core v.core).marked r.2 w) 0))
    | .mismatch x => some (taskFault s (slotArr v.core) t (some v.core) 0x0002 (some (r.2 * 512)) 0 x))

/-- The elements of a tile as its save area holds them. -/
def loadTile (m : Memory) (a : Nat) : Tbl W64 :=
  (((w64List (m.words a 12288)).zipIdx.filter (fun p => p.1 != W64.zero)).map (fun p => (p.2, p.1)))

/-- A tile takes its data from the save area and its state from what the Drover kept (R129). -/
def restoredTile (m : Memory) (a t : Nat) (x : Tile) : Tile := { x with elems := loadTile m a, holder := some t }

/-- A tile that the task held is put back (R129); its status bits rise from those of a tile that was granted anew. -/
def restoreTile (s : State) (c t : Nat) (b : Bool) (a : Nat) (x : Option Tile) : State :=
  match x with
  | some x => putTile s c b false (restoredTile s.mem a t x)
  | none => s

/-- A channel of a resumed task (07_streams.md R196): its predictor history is kept unless the session is not the owner's
(03_numbers_codebooks.md R74). -/
def resumedChan (s : State) (t : Nat) (old h : Chan) : Chan :=
  { h with flights := old.flights, armedAt := s.now, pred := old.pred.arm true (taskSess s t) }

/-- The tiles and channels of a resumed task on a core. -/
def restoreCore (s : State) (t : Nat) (save : Option Nat) (v : Saved) : State :=
  let a := columnBase v.core + save.getD 0
  let s1 := restoreTile (restoreTile s v.core t false a v.tileA) v.core t true (a + 49152) v.tileB
  let s2 := s1.mapCore v.core (fun k =>
    { k with marked := [], chans := v.chans.foldl (fun l p => Tbl.set l p.1 (resumedChan s t (Tbl.getD l p.1 Chan.idle) p.2)) k.chans })
  match save with
  | some _ => (s2.bump (slotArr v.core) 0x184 1).pulse (slotArr v.core) 12
  | none => s2

/-- A restore in which a parity replay occurred and that has taken longer than SWITCH_FC is charged to the reserve of the
core's fold and extends the task's budget there (R241, R242), beyond what its replays have been charged. DESIGN CHOICE, log
entry 115. -/
def chargeRestore (s : State) (t since : Nat) (v : Saved) : State :=
  let switch := match imageOfTask s t with | some i => i.switchFc | none => 0
  let n := s.now - since - switch - v.replay
  if v.replay = 0 || n = 0 then s else extendTask (chargeReserve s (v.core / 16) n) t v.core n

/-- The task's tiles and channels stand on its cores as they stood, and it runs on. -/
def restoreAll (s : State) (t : Nat) (save : Option Nat) (k : Task) : State :=
  let s1 := k.saved.foldl (fun u v => traceSave (restoreCore (chargeRestore u t k.since v) t save v) t 0x05 k.since v.core) s
  match s1.task t with
  | some x => setTask s1 t { x with st := .running, since := s.now, saved := [] }
  | none => s1

/-- RESTORE_COMPLETE (R129, R196): the task's next instruction may issue. -/
def restoreComplete (s : State) (t : Nat) : State :=
  match s.task t with
  | some k =>
    if k.st != .restoring || aborting s t then s else
    match hasSave s t with
    | some off =>
      if s.now < k.since + 192 then s else
      match restoreFault s t off k.saved with
      | some u => u
      | none => restoreAll s t (some off) k
    | none => restoreAll s t none k
  | none => s

def execRestoreComplete (slot : Fin 4096) (s : State) : Res := .next (restoreComplete s slot.val)

/-! ### Completion (R465, R245) -/

/-- Chain slots of a chain whose last claiming task has ended are released (08_drove_chains.md R203). -/
def releaseChain (s : State) (i : Inst) (chain : Nat) : State :=
  let open_ := i.slots.any (fun t => (chainClaims s t).contains chain
    && (match s.task t with | some k => k.st != .done | none => false))
  if open_ then s else
  { s with cores := Tbl.mapV s.cores (fun _ k =>
      { k with drove := k.drove.filter (fun p => !(p.2.inst == i.num && p.2.chain == chain)) }) }

/-- The tiles, program and claims of a task leave its cores; a tile keeps its extent. -/
def leaveCores (s : State) (t : Nat) : State :=
  { s with cores := Tbl.mapV s.cores (fun _ k =>
      { k with
        prog := match k.prog with | some p => if p.task = t then none else some p | none => none
        tileA := if k.tileA.holder = some t then { k.tileA with holder := none } else k.tileA
        tileB := if k.tileB.holder = some t then { k.tileB with holder := none } else k.tileB }) }

/-- A task ends: its claims and its demand are free, its successors may be ready, and with the last task
its instance completes. -/
def finishTask (s : State) (t : Nat) : State :=
  match instOfTask s t with
  | none => s
  | some i =>
    let chains := chainClaims s t
    let s1 := completeTask (releaseBooks (leaveCores s t) t) t
    let s2 := chains.foldl (fun u ch => releaseChain u i ch) s1
    endIfDone (barriers i.num i.slots.length s2) i.num

/-- TASK_COMPLETE (R465): every part of a task that runs a program has completed. -/
def taskComplete (s : State) (t : Nat) : State :=
  match s.task t, taskD s t with
  | some k, some d =>
    if k.st == .running && d.onCores && !aborting s t && d.cores.all (partDone s t) then finishTask s t else s
  | _, _ => s

def execTaskComplete (slot : Fin 4096) (s : State) : Res := .next (taskComplete s slot.val)

/-! ### Budgets and the reserve (R241, R242) -/

/-- Where a task has used its budget: the first such core of its set of which it still has a part to do, or its unit. -/
def overrunAt (s : State) (t : Nat) (k : Task) (d : TaskD) : Option Nat :=
  if d.onCores then d.cores.find? (fun c => !partDone s t c && decide (budget k d c < ranFor s k))
  else if budget k d 256 < ranFor s k then some (if d.kind = kHerd then 0x100 else 0x101)
  else none

/-- OVERRUN: a running task has used its budget. -/
def overrun (s : State) (t : Nat) : State :=
  match s.task t, taskD s t with
  | some k, some d =>
    match overrunAt s t k d with
    | some at_ =>
      if (k.st == .running || k.st == .draining) && !aborting s t then
        taskFault ((s.bump slotDrvr 0x050 1).pulse slotDrvr 2) slotDrvr t (if at_ < 0x100 then some at_ else none) 0x0401
          none (w32 d.wcet) (w32 at_)
      else s
    | none => s
  | _, _ => s

def execOverrun (slot : Fin 4096) (s : State) : Res := .next (overrun s slot.val)

/-- Limit and step of a reserve: 10 % of its slot's capacity, and one core's share of it (R242). -/
def reserveLimit (col : Nat) : Nat := if col < 16 then 320000 else 20000
def reserveStep (col : Nat) : Nat := if col < 16 then 16000 else 1000

/-- A ledger column belongs to a reserve. -/
def inReserve (col x : Nat) : Bool := if col < 16 then x / 16 == col && decide (x < 256) else x == 240 + col

/-- The admitted instance with the latest deadline that has demand there; of equals, the higher number. -/
def victim (s : State) (col : Nat) : Option Inst :=
  (s.drover.insts.filter (fun i => s.drover.demands.any (fun d => d.inst == i.num && inReserve col d.col))).foldl
    (fun best i =>
      match best with
      | none => some i
      | some b => if b.dline < i.dline ∨ (b.dline = i.dline ∧ b.num < i.num) then some i else some b) none

/-- RESERVE_EXHAUSTED. -/
def reserveExhausted (s : State) (col : Nat) : State :=
  let used := Tbl.getD s.drover.reserve col 0
  let made := Tbl.getD s.drover.resAborts col 0
  if used ≤ reserveLimit col || decide (1 + (used - reserveLimit col) / reserveStep col ≤ made) then s else
  match victim s col with
  | none => s
  | some i =>
    let r : FaultRec := { code := 0x0402, ctx := some i.ctx, sess := some i.sess, d0 := w32 col, d1 := w32 used }
    let s1 := ((s.bump slotDrvr 0x05C 1).pulse slotDrvr 1).fault slotDrvr r
    s1.mapDrover (fun d => { d with
      resAborts := Tbl.set d.resAborts col (made + 1), aborts := d.aborts ++ [⟨i.num, 0x0402, none⟩] })

def execReserveExhausted (column : Fin 18) (s : State) : Res := .next (reserveExhausted s column.val)

end Sys2Proof.Machine
end

