-- ==== Sys2Proof/Machine/Banks.lean ====
section
/-! DEFINITION. The banks of the Paddock: units, entries, matching, order and golden copies
(11_paddock.md R281 to R290, R293, R294). -/

namespace Sys2Proof.Machine

/-- An EMPTY bank with GOLD_BASE 0 (15_startup_module_edge.md Table 15-2). -/
def Bank.zero : Bank :=
  { st := .empty, width := 0, map := [], fill := 0, hole := none, gold := 0, units := [], poison := [], queue := [],
    cur := none, scrub := 0, passBad := false, inPass := false, builds := 0, theft := 0 }

def State.bank (s : State) (b : Nat) : Bank := Tbl.getD s.paddock.banks b Bank.zero

def State.mapPaddock (s : State) (f : Paddock → Paddock) : State := { s with paddock := f s.paddock }

def State.setBank (s : State) (b : Nat) (v : Bank) : State :=
  s.mapPaddock (fun p => { p with banks := Tbl.set p.banks b v })

/-- Units of an entry (R281). -/
def unitsOf (width : Nat) : Nat := 2 ^ width

/-- E_b (R281). -/
def entriesOf (width : Nat) : Nat := 32768 / unitsOf width

def PUnit.zero : PUnit := ⟨[], 0⟩

def Bank.unit (b : Bank) (u : Nat) : PUnit := Tbl.getD b.units u PUnit.zero

/-- The units of the entry at an entry position. -/
def Bank.entry (b : Bank) (e : Nat) : List PUnit :=
  (List.range (unitsOf b.width)).map (fun i => b.unit (unitsOf b.width * e + i))

def Bank.setEntry (b : Bank) (width e : Nat) (us : List PUnit) : Bank :=
  { b with
    units := us.zipIdx.foldl (fun t p => Tbl.set t (unitsOf width * e + p.2) p.1) b.units
    poison := b.poison.filter (fun u => u / unitsOf width != e) }

/-- An entry moves to another entry position with its poison marks (R304). -/
def Bank.copyEntry (b : Bank) (src dst : Nat) : Bank :=
  let w := unitsOf b.width
  let marks := (b.poison.filter (fun u => u / w == src)).map (fun u => w * dst + u % w)
  let b1 := b.setEntry b.width dst (b.entry src)
  { b1 with poison := b1.poison ++ marks }

def PUnit.low (u : PUnit) (i : Nat) : Nat := (u.ranges.getD (2 * i) 0).toNat
def PUnit.high (u : PUnit) (i : Nat) : Nat := (u.ranges.getD (2 * i + 1) 0).toNat

/-- TAG and VALID of an entry: those of its first unit (R283). -/
def entryTag (us : List PUnit) : Nat := bits (us.headD PUnit.zero).ctl 27 16
def entryValid (us : List PUnit) : Bool := bit (us.headD PUnit.zero).ctl 31

/-- Map field `f`: enabled, and the feature it tests (R282, Table 11-4). -/
def mapField (m : List Word) (f : Nat) : Bool × Nat :=
  let w := wd m (f / 2)
  if f % 2 = 0 then (bit w 15, bits w 8 0) else (bit w 31, bits w 24 16)

/-- A range field matches a bin, or its absence (R284). -/
def PUnit.matches (u : PUnit) (i : Nat) (b : Option Nat) : Bool :=
  match b with
  | some x => decide (u.low i ≤ x) && decide (x ≤ u.high i)
  | none => bit u.ctl i

/-- An entry matches a bin vector (R284). -/
def entryMatches (b : Bank) (us : List PUnit) (bins : List (Option Nat)) : Bool :=
  (List.range (8 * unitsOf b.width)).all (fun f =>
    let m := mapField b.map f
    !m.1 || (us.getD (f / 8) PUnit.zero).matches (f % 8) (bins.getD m.2 none))

/-- Entry positions that hold entries, in logical order (R286). -/
def Bank.positions (b : Bank) : List Nat :=
  match b.hole with
  | none => List.range b.fill
  | some h => (List.range (b.fill + 1)).filter (· != h)

/-- The count of one tag in a bank-search (R290). -/
def Bank.countTag (b : Bank) (tag : Nat) (bins : List (Option Nat)) : Nat :=
  (b.positions.filter (fun e => let us := b.entry e; entryTag us == tag && entryValid us && entryMatches b us bins)).length

/-- Searchable states (R289). -/
def Bank.searchable (b : Bank) : Bool := b.st == .ready || b.st == .busy || b.st == .hole

def BankSt.code : BankSt → Nat
  | .empty => 0
  | .ready => 1
  | .busy => 2
  | .hole => 3
  | .inconsistent => 4
  | .rebuilding => 5

/-- BANK_STATE (Table 11-15). -/
def bankState (b : Bank) : Word := fld b.st.code 29 ||| fld b.width 27 ||| w32 b.fill

/-- BANK_HOLE (Table 11-14). -/
def bankHole (b : Bank) : Word :=
  match b.hole with
  | some h => flag true 31 ||| w32 h
  | none => 0

/-- The banks that a Paddock claim names. -/
def claimBanks (s : State) (t : Nat) : List Nat :=
  (taskClaims s t).flatMap (fun c =>
    if c.type = 4 then (List.range 64).filter (fun b => if b < 32 then bit c.w2 b else bit c.w3 (b - 32)) else [])

/-! ### Golden copies (R293, R294) -/

def goldRange (g u : Nat) : Nat := g + 0x200 + 16 * u
def goldCtl (g u : Nat) : Nat := g + 0x80200 + 4 * u

/-- A golden header as its words say it (Table 11-4): width code, map, fill and hole. -/
def goldHeader (m : Memory) (g : Nat) : List Word := m.words g 128
def ghVersion (h : List Word) : Nat := bits (wd h 0) 31 24
def ghWidth (h : List Word) : Nat := bits (wd h 0) 17 16
def ghFill (h : List Word) : Nat := bits (wd h 1) 15 0
def ghHole (h : List Word) : Option Nat := if bit (wd h 1) 31 then some (bits (wd h 1) 30 16) else none
def ghMap (h : List Word) : List Word := (h.drop 16).take 16

/-- The units of a golden entry. -/
def goldEntry (m : Memory) (g width e : Nat) : List PUnit :=
  (List.range (unitsOf width)).map (fun i =>
    let u := unitsOf width * e + i
    ⟨m.readN (goldRange g u) 16, m.word (goldCtl g u)⟩)

/-- What verifying the blocks of a golden entry gives, with the block. -/
def goldVerify (m : Memory) (g width e : Nat) : Verdict × Nat :=
  let u := unitsOf width * e
  let r := goldRange g u / 512
  let c := goldCtl g u / 512
  match m.verify r with
  | .good => (m.verify c, c)
  | v => (v, r)

/-- The bytes of an entry's range fields and of its control words. -/
def rangeBytes (us : List PUnit) : List Byte := us.flatMap (fun u => (u.ranges ++ List.replicate 16 0).take 16)
def ctlBytes (us : List PUnit) : List Byte := wordsBytes (us.map (·.ctl))

/-- The golden copy gets an entry. -/
def putGold (m : Memory) (g width e : Nat) (us : List PUnit) : Memory :=
  let u := unitsOf width * e
  (m.put (goldRange g u) (rangeBytes us)).put (goldCtl g u) (ctlBytes us)

/-- Word 1 of a golden header. -/
def goldWord1 (fill : Nat) (hole : Option Nat) : Word :=
  w32 fill ||| (match hole with | some h => flag true 31 ||| fld h 16 | none => 0)

def putHeader (m : Memory) (g fill : Nat) (hole : Option Nat) : Memory :=
  m.put (g + 4) (leBytes 4 (goldWord1 fill hole).toNat)

/-- Golden bytes within the herd store. -/
def inHerd (a n : Nat) : Bool := decide (0x10000000 ≤ a) && decide (a + n ≤ 0x16000000)

end Sys2Proof.Machine
end

