-- ==== Sys2Proof/Machine/Herd.lean ====
section
/-! DEFINITION. The Herd engine: jobs, images, binning, walks, sums and output records
(10_herd_engine.md R252 to R280; 11_paddock.md R289 where a job uses the Paddock). -/

namespace Sys2Proof.Machine

/-! ### Faults and reads (R276, R280) -/

def herdFault (s : State) (t code : Nat) (addr : Option Nat) (d0 d1 : Word) : State :=
  taskFault s slotHerd t none code addr d0 d1

/-- Reading bytes of the herd store for a record: the fault that the first bad block gives, if any. -/
def herdRead (s : State) (t rec a n : Nat) : Option State :=
  if n = 0 then none
  else if !inHerd a n then some (herdFault s t 0x0001 (some a) (w32 rec) 0)
  else
    let r := s.mem.verifyRange a n
    match r.1 with
    | .good => none
    | .poisoned w =>
      some (herdFault s t 0x0003 (some (r.2 * 512 + 8 * w)) (w32 rec ||| fld w 24) (flag (markedBy s.herd.marked r.2 w) 0))
    | .mismatch x => some (herdFault s t 0x0002 (some (r.2 * 512)) (w32 rec) x)

/-! ### Job and header fields (Tables 10-8, 10-1) -/

def jW64 (j : List Word) : Bool := bit (wd j 0) 0
def jCarry (j : List Word) : Bool := bit (wd j 0) 1
def jPad (j : List Word) : Bool := bit (wd j 0) 2
def jLeaf (j : List Word) : Bool := bit (wd j 0) 3
def jInd (j : List Word) : Bool := bit (wd j 0) 4
def jImage (j : List Word) : Nat := (wd j 1).toNat
def jRec (j : List Word) : Nat := (wd j 2).toNat
def jStride (j : List Word) : Nat := bits (wd j 3) 15 0
def jCount (j : List Word) : Nat := bits (wd j 4) 23 0
def jOut (j : List Word) : Nat := (wd j 5).toNat
def jCarryAt (j : List Word) : Nat := (wd j 6).toNat
def jCountAt (j : List Word) : Nat := (wd j 7).toNat
def jTagAt (j : List Word) (i : Nat) : Nat := let w := wd j (8 + i / 2); if i % 2 = 0 then bits w 11 0 else bits w 27 16

/-- The tag list of a job. -/
def jTags (j : List Word) : List Nat := if jPad j then (List.range (bits (wd j 0) 19 16 + 1)).map (jTagAt j) else []

def hFeat (h : List Word) : Nat := bits (wd h 0) 9 0
def hOut (h : List Word) : Nat := bits (wd h 0) 19 16 + 1
def hTrees (h : List Word) : Nat := bits (wd h 1) 16 0
def hVisits (h : List Word) : Nat := bits (wd h 2) 20 0
def hSize (h : List Word) : Nat := (wd h 3).toNat
def hOffFeat (h : List Word) : Nat := (wd h 4).toNat
def hOffTrees (h : List Word) : Nat := (wd h 5).toNat
def hOffNodes (h : List Word) : Nat := (wd h 6).toNat
def hNodes (h : List Word) : Nat := bits (wd h 7) 23 0
def hOffRaw (h : List Word) : Nat := (wd h 8).toNat
def hRaw (h : List Word) : Nat := bits (wd h 9) 23 0
def hOffBit (h : List Word) : Nat := (wd h 10).toNat
def hBit (h : List Word) : Nat := bits (wd h 11) 23 0
def hDmax (h : List Word) : Nat := bits (wd h 12) 4 0
def hBase (h : List Word) (o : Nat) : Word := wd h (16 + o)

/-- Rounded up to a multiple of 16 bytes. -/
def pad16 (n : Nat) : Nat := (n + 15) / 16 * 16

/-- O, the size of an output record (R266). -/
def outSize (j h : List Word) : Nat :=
  pad16 (hOut h * (if jW64 j then 12 else 4) + (if jLeaf j then 4 * hTrees h else 0) + 4 * (jTags j).length)

/-- C, the size of a carried record (R269). -/
def carrySize (j h : List Word) : Nat := if jCarry j then pad16 (12 * hOut h) else 0

/-! ### The checks at the start (Tables 10-9, 10-10) -/

/-- HERD_JOB 0x01 on the job's own words. -/
def jobBad (j : List Word) : Bool :=
  let n := (jTags j).length
  bits (wd j 0) 31 24 != 1 || bits (wd j 0) 23 20 != 0 || bits (wd j 0) 15 5 != 0 || bits (wd j 3) 31 16 != 0
  || bits (wd j 4) 31 24 != 0 || (!jPad j && bits (wd j 0) 19 16 != 0)
  || (List.range 8).any (fun i => bits (wd j (8 + i)) 31 28 != 0 || bits (wd j (8 + i)) 15 12 != 0)
  || (List.range 16).any (fun i => decide (n ≤ i) && jTagAt j i != 0)
  || (!jCarry j && wd j 6 != 0) || (!jInd j && wd j 7 != 0)

/-- HERD_JOB 0x02. -/
def jobMisaligned (j : List Word) : Bool :=
  jImage j % 512 != 0 || jOut j % 512 != 0 || jCarryAt j % 512 != 0 || jRec j % 16 != 0 || jCountAt j % 4 != 0

/-- The reason code for which a header is refused (HERD_IMAGE 0x01 to 0x04). -/
def headerCode (h : List Word) (a : Nat) : Option Nat :=
  let out := fun (off n sz : Nat) => decide (hSize h < off + n * sz)
  if bits (wd h 0) 31 24 != 1 || bits (wd h 0) 23 20 != 0 || bits (wd h 0) 15 10 != 0 || bits (wd h 1) 31 17 != 0
      || bits (wd h 2) 31 21 != 0 || bits (wd h 7) 31 24 != 0 || bits (wd h 9) 31 24 != 0
      || bits (wd h 11) 31 24 != 0 || bits (wd h 12) 31 5 != 0 || wd h 13 != 0 || wd h 14 != 0 || wd h 15 != 0
    then some 1
  else if hFeat h == 0 || decide (512 < hFeat h) || hTrees h == 0 || decide (65536 < hTrees h) || hNodes h == 0
      || decide (12582912 < hNodes h) || decide (hSize h < 128) || decide (100663296 < hSize h)
      || !inHerd a (hSize h) then some 2
  else if hOffFeat h % 8 != 0 || hOffTrees h % 8 != 0 || hOffNodes h % 8 != 0 || hOffRaw h % 4 != 0
      || hOffBit h % 32 != 0 || out (hOffFeat h) (hFeat h) 8 || out (hOffTrees h) (hTrees h) 8
      || out (hOffNodes h) (hNodes h) 8 || out (hOffRaw h) (hRaw h) 4 || out (hOffBit h) (hBit h) 32 then some 3
  else if (List.range 16).any (fun o => if o < hOut h then !fFinite (hBase h o) else hBase h o != 0) then some 4
  else none

/-- A feature entry from its words (Table 10-2). -/
def parseFeat (w0 w1 : Word) : Feat :=
  { type := bits w0 31 30, binned := bit w0 29, ncut := bits w0 7 0, offMap := w1.toNat }

/-- The reason code for which a feature entry is refused: HERD_IMAGE 0x03 for a misaligned offset, else 0x05. -/
def featCode (h : List Word) (w0 w1 : Word) : Option Nat :=
  let f := parseFeat w0 w1
  if f.offMap % 4 != 0 then some 3
  else if bits w0 28 8 != 0 || f.type == 3 || (f.type == 2 && !f.binned)
    || (!f.binned && (f.ncut != 0 || f.offMap != 0)) || (f.binned && decide (hSize h < f.offMap + 4 * f.ncut)) then some 5
  else none

/-- HERD_JOB 0x03 to 0x06, for a job and its image. -/
def jobCode (s : State) (t : Nat) (j h : List Word) : Option Nat :=
  let n := jCount j
  let recLen := (n - 1) * jStride j + 4 * hFeat h
  let outLen := (n * outSize j h + 511) / 512 * 512
  let carryLen := n * carrySize j h
  let hits := fun (a len : Nat) => decide (0 < len) && decide (a < jOut j + outLen) && decide (jOut j < a + len)
  if !inHerd (jRec j) recLen || !inHerd (jOut j) outLen || (jCarry j && !inHerd (jCarryAt j) carryLen)
      || (jInd j && !inHerd (jCountAt j) 4) then some 3
  else if n == 0 || jStride j % 16 != 0 || decide (jStride j < 4 * hFeat h) then some 4
  else if hits (jImage j) (hSize h) || hits (jRec j) recLen || hits (jCarryAt j) carryLen then some 5
  else if jPad j && !(taskClaims s t).any (fun c => c.type == 4) then some 6
  else none

/-- The first bank of a claim that a job may not search at its start (R289). -/
def bankBad (s : State) (t nfeat : Nat) : Option (Nat × Nat) :=
  (claimBanks s t).findSome? (fun b =>
    let v := s.bank b
    if !v.searchable then some (b, 1)
    else if (List.range (8 * unitsOf v.width)).any (fun f => let m := mapField v.map f; m.1 && decide (nfeat ≤ m.2))
      then some (b, 2) else none)

/-- PADDOCK_BANK (Table 11-17). -/
def bankFault (s : State) (t b code rec : Nat) : State :=
  taskFault s (slotBank b) t none 0x0513 none (fld code 24 ||| w32 rec) (bankState (s.bank b))

/-- The task whose job the engine may start. -/
def herdTask (s : State) : Option Nat :=
  match occupant s 256 with
  | some t => if aborting s t || (s.dom 22).st != .run || s.inReset .herd then none else some t
  | none => none

/-- The job has passed its checks and runs. -/
def herdBegin (s : State) (t a : Nat) (j h : List Word) (feats : List Feat) (count : Nat) : State :=
  let r : HerdRun := { task := t, job := a, words := j, header := h, feats := feats, count := count, next := 0,
                       written := 0, outs := [], buf := [], blocks := 0, osize := outSize j h }
  let s1 : State := { s with herd := { s.herd with run := some r } }
  s1.mapPaddock (fun p => { p with search := none, builds := (claimBanks s t).map (fun b => (b, (s.bank b).builds)) })

/-- The checks on image, feature table, count and banks, in the order in which the job reads them. -/
def herdChecks (s : State) (t a : Nat) (j : List Word) : State :=
  let img := jImage j
  match herdRead s t 0 img 128 with
  | some u => if inHerd img 128 then u else herdFault s t 0x0502 (some img) (fld 2 24) 0
  | none =>
    let h := s.mem.words img 32
    match headerCode h img with
    | some c => herdFault s t 0x0502 (some img) (fld c 24) 0
    | none =>
      match herdRead s t 0 (img + hOffFeat h) (8 * hFeat h) with
      | some u => u
      | none =>
        let ws := fun (i : Nat) => s.mem.words (img + hOffFeat h + 8 * i) 2
        match (List.range (hFeat h)).findSome? (fun i => (featCode h (wd (ws i) 0) (wd (ws i) 1)).map (fun c => (i, c))) with
        | some (i, c) => herdFault s t 0x0502 (some (img + hOffFeat h + 8 * i)) (fld c 24) (w32 i)
        | none =>
          match jobCode s t j h with
          | some c => herdFault s t 0x0501 (some a) (fld c 24) (wd j 0)
          | none =>
            let feats := (List.range (hFeat h)).map (fun i => parseFeat (wd (ws i) 0) (wd (ws i) 1))
            match (if jInd j then herdRead s t 0 (jCountAt j) 4 else none) with
            | some u => u
            | none =>
              let n := if jInd j then (s.mem.word (jCountAt j)).toNat else jCount j
              if jCount j < n then herdFault s t 0x0501 (some (jCountAt j)) (fld 7 24) (wd j 0)
              else
                match (if jPad j then bankBad s t (hFeat h) else none) with
                | some (b, c) => bankFault s t b c 0
                | none => herdBegin s t a j h feats n

/-- HERD_JOB_START (R270); of a job that is not aligned only word 0 is read. -/
def herdJobStart (s : State) : State :=
  match herdTask s, s.herd.run with
  | some t, none =>
    match taskD s t with
    | none => s
    | some d =>
      let a := 0x10000000 + d.progOff
      let s1 := s.setReg slotHerd 0x058 (w32 a)
      match herdRead s1 t 0 a (if a % 64 = 0 then 64 else 4) with
      | some u => u
      | none =>
        let j := s.mem.words a 16
        if a % 64 != 0 || jobBad j then herdFault s1 t 0x0501 (some a) (fld 1 24) (wd j 0)
        else if jobMisaligned j then herdFault s1 t 0x0501 (some a) (fld 2 24) (wd j 0)
        else herdChecks s1 t a j
  | _, _ => s

def execHerdJobStart (s : State) : Res := .next (herdJobStart s)

/-! ### Values and bins (R260 to R262) -/

/-- A feature value is missing. -/
def isMissing (f : Feat) (x : Word) : Bool :=
  if f.type = 1 then fIsNan x else if f.type = 0 then x == 0x80000000 else x == 0xFFFFFFFF

/-- x < y in the feature's type; NaN makes it false. -/
def typedLt (f : Feat) (x y : Word) : Bool :=
  if f.type = 1 then !fIsNan x && !fIsNan y && fLt x y else decide (x.toInt < y.toInt)

/-- c ≤ x in the feature's type; a NaN in the map never satisfies it. -/
def typedLe (f : Feat) (c x : Word) : Bool :=
  if f.type = 1 then !fIsNan c && !fIsNan x && !fLt x c else decide (c.toInt ≤ x.toInt)

/-- The bin of a value, `none` for a missing value or an unbinned feature. -/
def binOf (f : Feat) (map : List Word) (x : Word) : Option Nat :=
  if !f.binned || isMissing f x then none
  else if f.type = 2 then some ((map.findIdx? (· == x)).getD 255)
  else some ((map.filter (fun c => typedLe f c x)).length)

/-- A present category that its map does not list. -/
def unseen (f : Feat) (map : List Word) (x : Word) : Bool :=
  f.type == 2 && f.binned && !isMissing f x && !map.contains x

/-! ### Walking (R263, R264) -/

/-- What a walk needs of its job and record. -/
structure WalkEnv where
  run  : HerdRun
  rix  : Nat
  vals : List Word
  bins : List (Option Nat)
  deriving DecidableEq, Repr

/-- Where a walk stands: the state, and the visits that it has made in its tree. -/
structure WalkAt where
  st      : State
  visits  : Nat
  deriving DecidableEq, Repr

/-- A walk's outcome: a fault state, or the leaf's node index and its words. -/
inductive WalkEnd
  | stop (s : State)
  | leaf (w : WalkAt) (n : Nat) (lo hi : Word)
  deriving DecidableEq, Repr

def nodeAddr (r : HerdRun) (n : Nat) : Nat := jImage r.words + hOffNodes r.header + 8 * n

/-- HERD_NODE, with the die address of the node. -/
def nodeFault (s : State) (e : WalkEnv) (code n : Nat) : State :=
  herdFault s e.run.task 0x0503 (some (nodeAddr e.run n)) (fld code 24 ||| w32 e.rix) (w32 n)

/-- A visit is counted (R263), also in MISSING where the feature is missing. -/
def WalkAt.visit (w : WalkAt) (missing : Bool) : WalkAt :=
  let s1 := w.st.bump slotHerd 0x048 1
  { st := if missing then s1.bump slotHerd 0x04C 1 else s1, visits := w.visits + 1 }

/-- The reason for which an internal node is refused, its visits so far being `v` of `depth`. -/
def nodeCode (r : HerdRun) (root count depth v n : Nat) (lo hi : Word) : Option Nat :=
  let cmp := bits hi 30 29
  let feat := bits hi 24 16
  let f := r.feats.getD feat ⟨0, false, 0, 0⟩
  let arg := bits hi 15 0 * 256 + bits lo 31 24
  let child := bits lo 23 0
  if bits hi 27 25 != 0 || cmp == 3 || (cmp == 0 && decide (255 < arg)) then some 1
  else if hFeat r.header ≤ feat then some 2
  else if (cmp == 0 && (!f.binned || f.type == 2)) || (cmp == 1 && f.type == 2) || (cmp == 2 && !f.binned) then some 3
  else if (cmp == 1 && decide (hRaw r.header ≤ arg)) || (cmp == 2 && decide (hBit r.header ≤ arg)) then some 4
  else if root + count ≤ n + child + 1 then some 5
  else if depth ≤ v then some 6
  else none

/-- The reason for which a leaf is refused. -/
def leafCode (r : HerdRun) (lo hi : Word) : Option Nat :=
  let vote := bit hi 30
  if bits hi 29 4 != 0 || (!vote && bits hi 3 0 != 0) || (vote && lo != 0) then some 1
  else if !vote && !fFinite lo then some 7
  else if vote && decide (hOut r.header ≤ bits hi 3 0) then some 8
  else none

/-- The words that a node test reads beside the node: its raw threshold or its bitmap byte. -/
def testAddr (r : HerdRun) (cmp arg bin : Nat) : Option (Nat × Nat) :=
  if cmp = 1 then some (jImage r.words + hOffRaw r.header + 4 * arg, 4)
  else if cmp = 2 then some (jImage r.words + hOffBit r.header + 32 * arg + bin / 8, 1) else none

/-- The test of Table 10-6 for a present value. -/
def nodeTest (m : Memory) (r : HerdRun) (f : Feat) (cmp arg bin : Nat) (x : Word) : Bool :=
  if cmp = 0 then decide (bin < arg % 256)
  else if cmp = 1 then typedLt f x (m.word (jImage r.words + hOffRaw r.header + 4 * arg))
  else (m.read (jImage r.words + hOffBit r.header + 32 * arg + bin / 8)).getLsbD (bin % 8)

/-- The walk of one tree, `fuel` bounding its visits. -/
def walk (e : WalkEnv) (root count depth : Nat) : Nat → WalkAt → Nat → WalkEnd
  | 0, w, n => .stop (nodeFault w.st e 6 n)
  | fuel + 1, w, n =>
    let s := w.st
    let r := e.run
    let a := nodeAddr r n
    match herdRead s r.task e.rix a 8 with
    | some u => .stop u
    | none =>
      let lo := s.mem.word a
      let hi := s.mem.word (a + 4)
      if bit hi 31 then
        match leafCode r lo hi with
        | some c => .stop (nodeFault s e c n)
        | none => .leaf w n lo hi
      else
        match nodeCode r root count depth w.visits n lo hi with
        | some c => .stop (nodeFault s e c n)
        | none =>
          let cmp := bits hi 30 29
          let feat := bits hi 24 16
          let f := r.feats.getD feat ⟨0, false, 0, 0⟩
          let arg := bits hi 15 0 * 256 + bits lo 31 24
          let x := wd e.vals feat
          let left := n + bits lo 23 0
          if isMissing f x then
            walk e root count depth fuel (w.visit true)
              (if bit hi 28 then left + 1 else left)
          else
            let bin := (e.bins.getD feat none).getD 0
            match (match testAddr r cmp arg bin with | some (p, k) => herdRead s r.task e.rix p k | none => none) with
            | some u => .stop u
            | none =>
              walk e root count depth fuel (w.visit false)
                (if nodeTest s.mem r f cmp arg bin x then left else left + 1)

/-! ### A record (R265) -/

/-- Sums, leaves and counters while the trees of a record are walked; `depths` adds max(DEPTH, 1). -/
structure RecAcc where
  at_    : WalkAt
  sums   : List W64
  leaves : List Nat
  depths : Nat
  deriving DecidableEq, Repr

/-- HERD_IMAGE 0x06. -/
def treeBad (h : List Word) (w0 w1 : Word) : Bool :=
  bits w0 31 24 != 0 || bits w1 22 21 != 0 || decide (hDmax h < bits w1 31 27) || decide (20 < bits w1 31 27)
  || decide (hOut h ≤ bits w1 26 23) || bits w1 20 0 == 0
  || decide (hNodes h < bits w0 23 0 + bits w1 20 0)

/-- One tree of a record: its entry is checked when first read, its leaf adds to its output. -/
def scoreTree (e : WalkEnv) (acc : RecAcc) (t : Nat) : State ⊕ RecAcc :=
  let r := e.run
  let s := acc.at_.st
  let a := jImage r.words + hOffTrees r.header + 8 * t
  match herdRead s r.task e.rix a 8 with
  | some u => .inl u
  | none =>
    let w0 := s.mem.word a
    let w1 := s.mem.word (a + 4)
    if e.rix = 0 ∧ treeBad r.header w0 w1 then .inl (herdFault s r.task 0x0502 (some a) (fld 6 24) (w32 t)) else
    let root := bits w0 23 0
    let depth := bits w1 31 27
    match walk e root (bits w1 20 0) depth (depth + 2) { acc.at_ with visits := 0 } root with
    | .stop u => .inl u
    | .leaf w n lo hi =>
      let o := if bit hi 30 then bits hi 3 0 else bits w1 26 23
      let x := W64.ofF32 (if bit hi 30 then oneF else lo)
      .inr { at_ := if depth = 0 then w.visit false else w
             sums := acc.sums.modify o (fun y => y.add x)
             leaves := acc.leaves ++ [n - root]
             depths := acc.depths + max depth 1 }

def scoreTrees (e : WalkEnv) : List Nat → RecAcc → State ⊕ RecAcc
  | [], acc => .inr acc
  | t :: l, acc =>
    match scoreTree e acc t with
    | .inl u => .inl u
    | .inr a => scoreTrees e l a

/-- The first block that reading a record, its carried record and the bin maps finds bad. -/
def recordRead (s : State) (r : HerdRun) : Option State :=
  let i := r.next
  let j := r.words
  let h := r.header
  let parts := [(jRec j + i * jStride j, 4 * hFeat h)]
    ++ (if jCarry j then [(jCarryAt j + i * carrySize j h, 12 * hOut h)] else [])
    ++ r.feats.filterMap (fun f => if f.binned then some (jImage j + f.offMap, 4 * f.ncut) else none)
  parts.findSome? (fun p => herdRead s r.task i p.1 p.2)

/-- The sums with which a record starts: BASE, or the carried elements in their canonical form (05_accumulation.md R114). -/
def startSums (s : State) (r : HerdRun) : List W64 :=
  if jCarry r.words then
    (w64List (s.mem.words (jCarryAt r.words + r.next * carrySize r.words r.header) (3 * hOut r.header))).map W64.loadForm
  else (List.range (hOut r.header)).map (fun o => W64.zero.add (W64.ofF32 (hBase r.header o)))

/-- A scored record waits for its output; with PADDOCK = 1 and banks to search it waits for its counts. -/
def recordScored (s : State) (r : HerdRun) (acc : RecAcc) (bins : List (Option Nat)) : State :=
  let counts : Option (List Nat) :=
    if jPad r.words then (if (claimBanks s r.task).isEmpty then some ((jTags r.words).map (fun _ => 0)) else none)
    else some []
  let o : HerdOut := { index := r.next, sums := acc.sums, leaves := acc.leaves, bins := bins, counts := counts }
  let s0 := acc.at_.st
  let s1 : State := { s0 with herd := { s0.herd with run := some { r with next := r.next + 1, outs := r.outs ++ [o] } } }
  if jPad r.words ∧ (claimBanks s r.task).isEmpty then s1.bump slotPadk 0x040 1 else s1

/-- A record with an unseen category is counted as it is binned (R262). -/
def countUnseen (s : State) (un : Bool) : State := if un then (s.bump slotHerd 0x050 1).pulse slotHerd 2 else s

/-- HERD_RECORD_READ (R265, R267): the next record is read, binned, walked and summed. -/
def herdRecordRead (s : State) : State :=
  match s.herd.run with
  | none => s
  | some r =>
    if r.count ≤ r.next || aborting s r.task || (s.dom 22).st != .run || s.inReset .herd then s else
    match recordRead s r with
    | some u => u
    | none =>
      let vals := s.mem.words (jRec r.words + r.next * jStride r.words) (hFeat r.header)
      let maps := r.feats.map (fun f => if f.binned then s.mem.words (jImage r.words + f.offMap) f.ncut else [])
      let bins := ((r.feats.zip maps).zip vals).map (fun p => binOf p.1.1 p.1.2 p.2)
      let un := ((r.feats.zip maps).zip vals).any (fun p => unseen p.1.1 p.1.2 p.2)
      let e : WalkEnv := { run := r, rix := r.next, vals := vals, bins := bins }
      let acc0 : RecAcc := { at_ := ⟨countUnseen s un, 0⟩, sums := startSums s r, leaves := [], depths := 0 }
      match scoreTrees e (List.range (hTrees r.header)) acc0 with
      | .inl u => u
      | .inr acc =>
        if r.next = 0 ∧ acc.depths ≠ hVisits r.header then
          herdFault acc.at_.st r.task 0x0502 (some (jImage r.words)) (fld 7 24) 0
        else recordScored s r acc bins

def execHerdRecordRead (s : State) : Res := .next (herdRecordRead s)

/-! ### Output (R266, R271) -/

/-- The bytes of an output record. -/
def outRecord (j h : List Word) (o : HerdOut) (counts : List Nat) : List Byte :=
  let sums := if jW64 j then o.sums.flatMap (fun x => wordsBytes x.words)
    else wordsBytes (o.sums.map (fun x => x.toF32))
  let body := sums ++ (if jLeaf j then o.leaves.flatMap (fun n => leBytes 4 n) else [])
    ++ counts.flatMap (fun n => leBytes 4 (n % 2 ^ 24))
  body ++ List.replicate (outSize j h - body.length) 0

/-- Whole blocks of the buffer are written; at the end of the job the rest is, filled up with zeros. -/
def flushOut : Nat → Memory → Nat → List Byte → Nat → Bool → Memory × List Byte × Nat
  | 0, m, _, buf, k, _ => (m, buf, k)
  | fuel + 1, m, base, buf, k, last =>
    if 512 ≤ buf.length then
      flushOut fuel (m.put (base + 512 * k) (buf.take 512)) base (buf.drop 512) (k + 1) last
    else if last ∧ buf ≠ [] then
      (m.put (base + 512 * k) (buf ++ List.replicate (512 - buf.length) 0), [], k + 1)
    else (m, buf, k)

/-- Records of which every byte has been written, once `blocks` blocks have been, the last of the job with the last record
put. -/
def HerdRun.complete (r : HerdRun) (blocks : Nat) (last : Bool) : Nat :=
  if last then r.count else min r.count (512 * blocks / max 1 r.osize)

/-- HERD_RECORD_OUTPUT: the first record that waits is handed to the output once its counts have arrived; RECORDS counts a
record as written when the last of its bytes is. -/
def herdRecordOutput (s : State) : State :=
  match s.herd.run with
  | none => s
  | some r =>
    match r.outs with
    | [] => s
    | o :: rest =>
      match o.counts with
      | none => s
      | some cs =>
        if aborting s r.task || (s.dom 22).st != .run || s.inReset .herd then s else
        let buf := r.buf ++ outRecord r.words r.header o cs
        let last := decide (r.count ≤ o.index + 1)
        let f := flushOut (buf.length / 512 + 2) s.mem (jOut r.words) buf r.blocks last
        let n := r.complete f.2.2 last
        let s1 : State := { s with
          mem := f.1
          herd := { s.herd with run := some { r with outs := rest, written := n, buf := f.2.1, blocks := f.2.2 } } }
        s1.bump slotHerd 0x044 (n - r.written)

def execHerdRecordOutput (s : State) : Res := .next (herdRecordOutput s)

/-- HERD_JOB_COMPLETE (R271): every output block has been written, and the task completes. -/
def herdJobComplete (s : State) : State :=
  match s.herd.run with
  | none => s
  | some r =>
    if r.written = r.count ∧ !aborting s r.task then
      let s1 : State := { s with herd := { s.herd with run := none, marked := [] } }
      finishTask (((s1.bump slotHerd 0x040 1).pulse slotHerd 1).mapPaddock (fun p => { p with search := none, builds := [] })) r.task
    else s

def execHerdJobComplete (s : State) : Res := .next (herdJobComplete s)

end Sys2Proof.Machine
end

