-- ==== Sys2Proof/Machine/Paddock.lean ====
section
/-! DEFINITION. The Paddock: searches, update jobs, the steps of operations, rebuilds and scrubbing
(11_paddock.md R287 to R306). -/

namespace Sys2Proof.Machine

/-! ### Time (R291) -/

/-- The Paddock cycle count (log entry 4). -/
def State.pc (s : State) : Nat := s.now / 2

/-- THEFT_N in force. -/
def theftN (s : State) : Nat := bits (s.reg slotPadk 0x008) 6 0

def scrubEn (s : State) : Bool := bit (s.reg slotPadk 0x008) 8

/-- The present pc is a theft pc. -/
def theftPc (s : State) : Bool := s.pc % max 1 (theftN s) == 0

/-- Paddock search logic is in run and not in reset. -/
def padRuns (s : State) : Bool := (s.dom 23).st == .run && !s.inReset .paddock

/-! ### Searches (R289, R290, R304) -/

/-- The record whose banks are searched: the one in progress, or the first whose counts are awaited. -/
def searchOf (s : State) : Option (HerdRun × PSearch) :=
  match s.herd.run with
  | none => none
  | some r =>
    if !jPad r.words || aborting s r.task then none else
    match s.paddock.search with
    | some p => some (r, p)
    | none =>
      match r.outs.find? (fun o => o.counts.isNone) with
      | some o => some (r, { index := o.index, bins := o.bins, left := claimBanks s r.task,
                             counts := (jTags r.words).map (fun _ => 0) })
      | none => none

/-- A bank-search may be made now: not in a theft pc, at most 16 in a pc (R290, R291). -/
def searchSlot (s : State) : Bool :=
  !theftPc s && (s.paddock.searchAt != s.pc || decide (s.paddock.searchN < 16))

/-- Why a bank may not be searched (R289): not searchable, or rebuilt during the job. -/
def searchBad (s : State) (b : Nat) : Option Nat :=
  if !(s.bank b).searchable then some 1
  else if s.paddock.builds.any (fun p => p.1 == b && p.2 != (s.bank b).builds) then some 3
  else none

/-- A poisoned unit among those that a search of the bank reads. -/
def poisonedUnit (b : Bank) : Option Nat :=
  b.poison.find? (fun u => b.positions.contains (u / unitsOf b.width))

def unitPoison (s : State) (t b u : Nat) (marked : Bool) : State :=
  taskFault s (slotBank b) t none 0x0003 none (w32 b ||| fld (u % 16384) 8) (flag marked 0)

/-- The counts of a record have arrived at the engine. -/
def giveCounts (s : State) (r : HerdRun) (p : PSearch) : State :=
  let outs := r.outs.map (fun o => if o.index = p.index then { o with counts := some p.counts } else o)
  let s1 : State := { s with herd := { s.herd with run := some { r with outs := outs } } }
  (s1.mapPaddock (fun q => { q with search := none })).bump slotPadk 0x040 1

/-- One bank-search, at a time at which one may be made. -/
def bankSearch (s : State) (b : Nat) (r : HerdRun) (p : PSearch) : State :=
  match searchBad s b with
  | some c => bankFault s r.task b c p.index
  | none =>
    let v := s.bank b
    let n := if s.paddock.searchAt = s.pc then s.paddock.searchN + 1 else 1
    let s1 := (s.mapPaddock (fun q => { q with searchAt := s.pc, searchN := n })).bump slotPadk 0x044 1
    let s2 := s1.bump (slotBank b) 0x050 1
    match poisonedUnit v with
    | some u => unitPoison s2 r.task b u false
    | none =>
      let add := (jTags r.words).map (fun t => v.countTag t p.bins)
      let p1 := { p with left := p.left.tail, counts := (p.counts.zip add).map (fun x => x.1 + x.2) }
      if p1.left.isEmpty then giveCounts s2 r p1 else s2.mapPaddock (fun q => { q with search := some p1 })

/-- PADDOCK_BANK_SEARCH (R290): the next bank of the record in search. -/
def paddockBankSearch (s : State) (b : Nat) : State :=
  match searchOf s with
  | some (r, p) => if p.left.head? = some b ∧ searchSlot s ∧ padRuns s then bankSearch s b r p else s
  | none => s

def execPaddockBankSearch (b : BankId) (s : State) : Res := .next (paddockBankSearch s b.val)

/-- SEARCH_REPLAY (R304): the next bank-search of the record has met a parity error in a unit and is
replayed; the pc is charged to the PADDOCK column (R242), and an error that persists marks the unit. -/
def searchReplay (s : State) (b u : Nat) (persists : Bool) : State :=
  match searchOf s with
  | some (r, p) =>
    if p.left.head? = some b ∧ searchSlot s ∧ padRuns s ∧ (s.bank b).searchable then
      let s1 := extendTask (chargeReserve (s.bump (slotBank b) 0x060 1) 17 2) r.task 256 2
      if persists then
        let v := s1.bank b
        unitPoison (s1.setBank b { v with poison := if v.poison.contains u then v.poison else v.poison ++ [u] }) r.task b u true
      else bankSearch s1 b r p
    else s
  | none => s

def execSearchReplay (b : BankId) (unit : Fin 32768) (persists : Bool) (s : State) : Res :=
  .next (searchReplay s b.val unit.val persists)

/-! ### Update jobs (R296) -/

/-- The task of the update side. -/
def padTask (s : State) : Option Nat :=
  match occupant s 257 with
  | some t => if aborting s t || !padRuns s then none else some t
  | none => none

/-- A bad block met for a task, as the bank's page records it (Table 11-17). -/
def bankBlockFault (s : State) (t b blk : Nat) (v : Verdict) : State :=
  match v with
  | .good => s
  | .poisoned w =>
    taskFault s (slotBank b) t none 0x0003 (some (blk * 512 + 8 * w)) (w32 b ||| fld w 8)
      (flag (markedBy s.paddock.marked blk w) 0)
  | .mismatch x => taskFault s (slotBank b) t none 0x0002 (some (blk * 512)) (w32 b) x

/-- A fault of the update side's own reads of its job and its list. Only bank pages record such a fault (Table 11-17,
16_faults_recovery.md R411), and no bank is concerned yet: it is recorded in that of the first bank of the claim. DESIGN CHOICE,
log entry 118. -/
def padRead (s : State) (t a n : Nat) : Option State :=
  let r := s.mem.verifyRange a n
  if r.1 = .good then none else some (bankBlockFault s t ((claimBanks s t).headD 0) r.2 r.1)

/-- The reason code of Table 11-7 for an update job. -/
def padJobCode (j : List Word) : Option Nat :=
  let n := bits (wd j 0) 15 0
  if bits (wd j 0) 31 24 != 1 || bits (wd j 0) 23 16 != 0 || (j.drop 2).any (· != 0) then some 1
  else if n = 0 then some 2
  else if (wd j 1).toNat % 16 != 0 || !inHerd (wd j 1).toNat (16 * n) then some 3
  else none

/-- PADDOCK_JOB_START (R296); of a job that is not aligned only word 0 is read. -/
def paddockJobStart (s : State) : State :=
  match padTask s, s.paddock.job with
  | some t, none =>
    match taskD s t with
    | none => s
    | some d =>
      let a := 0x10000000 + d.progOff
      let bad := fun (c : Nat) (w : Word) => taskFault s slotPadk t none 0x0511 (some a) (fld c 24) w
      match padRead s t a (if a % 64 = 0 then 64 else 4) with
      | some u => u
      | none =>
        let j := s.mem.words a 16
        match (if a % 64 = 0 then padJobCode j else some 1) with
        | some c => bad c (wd j 0)
        | none => s.mapPaddock (fun p => { p with
            job := some { task := t, base := (wd j 1).toNat, nops := bits (wd j 0) 15 0, next := 0, done := 0, mask := 0 } })
  | _, _ => s

def execPaddockJobStart (s : State) : Res := .next (paddockJobStart s)

/-- PADDOCK_OP_ENQUEUE (R296): the next operation of the list enters the queue of its bank. -/
def paddockOpEnqueue (s : State) : State :=
  match padTask s, s.paddock.job with
  | some t, some j =>
    if j.nops ≤ j.next ∨ j.task ≠ t then s else
    let a := j.base + 16 * j.next
    match padRead s t a 16 with
    | some u => u
    | none =>
      let w := s.mem.words a 4
      let b := bits (wd w 0) 27 22
      let v := s.bank b
      if 16 ≤ v.queue.length then s else
      let o : POp := { w0 := wd w 0, w1 := wd w 1, w2 := wd w 2, w3 := wd w 3, idx := j.next, task := t }
      (s.setBank b { v with queue := v.queue ++ [o] }).mapPaddock (fun p => { p with job := some { j with next := j.next + 1 } })
  | _, _ => s

def execPaddockOpEnqueue (s : State) : Res := .next (paddockOpEnqueue s)

/-- PADDOCK_JOB_COMPLETE (R302). -/
def paddockJobComplete (s : State) : State :=
  match padTask s, s.paddock.job with
  | some t, some j =>
    if j.task = t ∧ j.done = j.nops then finishTask (s.mapPaddock (fun p => { p with job := none, marked := [] })) t else s
  | _, _ => s

def execPaddockJobComplete (s : State) : Res := .next (paddockJobComplete s)

/-! ### The checks of an operation (R297, Table 11-8) -/

def POp.kind (o : POp) : Nat := bits o.w0 31 28
def POp.valid (o : POp) : Bool := bit o.w0 21
def POp.max (o : POp) : Nat := bits o.w0 15 0
def POp.tag (o : POp) : Nat := bits o.w1 27 16
def POp.pos (o : POp) : Nat := bits o.w1 14 0
def POp.data (o : POp) : Nat := o.w2.toNat

def kInsert : Nat := 1
def kRemove : Nat := 2
def kWrite : Nat := 3
def kSetvalid : Nat := 4
def kClear : Nat := 5
def kRebuild : Nat := 6

/-- Code 0x01: a reserved OP, or an unused field that is not 0. -/
def POp.malformed (o : POp) : Bool :=
  let k := o.kind
  k == 0 || decide (6 < k) || o.w3 != 0 || bits o.w1 31 28 != 0 || bit o.w1 15 || bits o.w0 20 16 != 0
  || (!(k == 1 || k == 3 || k == 4) && o.valid) || (!(k == 1 || k == 2) && o.max != 0)
  || (!(k == 1 || k == 2 || k == 3 || k == 4) && o.tag != 0) || (!(k == 2 || k == 3 || k == 4) && o.pos != 0)
  || (!(k == 1 || k == 3 || k == 6) && o.w2 != 0)

/-- Logical position on which an operation acts (Table 11-9). -/
def opPos (b : Bank) (o : POp) : Nat :=
  if o.kind = kInsert then (b.positions.filter (fun e => decide (entryTag (b.entry e) ≤ o.tag))).length else o.pos

/-- Steps of an operation other than REBUILD (Table 11-9). -/
def opSteps (b : Bank) (o : POp) : Nat :=
  if o.kind = kInsert then b.fill - opPos b o + 1 else if o.kind = kRemove then b.fill - o.pos else 1

/-- The units of an entry image, and whether it sets a reserved field. -/
def entryImage (m : Memory) (a w : Nat) : List PUnit × Bool :=
  ((List.range w).map (fun k => ⟨m.readN (a + 32 * k) 16, m.word (a + 32 * k + 16)⟩),
   (List.range w).any (fun k => (m.word (a + 32 * k + 16)) >>> 8 != 0
     || !(m.readN (a + 32 * k + 20) 12).all (· == 0)))

/-- Code 0x0A: what is wrong with the header of a REBUILD. -/
def rebuildHeaderBad (h : List Word) : Bool :=
  let w := unitsOf (ghWidth h)
  let hv := bit (wd h 1) 31
  let hole := bits (wd h 1) 30 16
  ghVersion h != 1 || bits (wd h 0) 23 18 != 0 || bits (wd h 0) 15 0 != 0 || ghWidth h == 3
  || ((h.take 16).drop 2).any (· != 0) || (h.drop 32).any (· != 0)
  || (ghMap h).any (fun x => bits x 14 9 != 0 || bits x 30 25 != 0)
  || ((ghMap h).drop (4 * w)).any (· != 0)
  || decide (entriesOf (ghWidth h) < ghFill h + (if hv then 1 else 0))
  || (hv && decide (ghFill h < hole)) || (!hv && hole != 0)

/-- What the checks say: a reason code, a bad block, or the operation as it starts. -/
inductive OpCheck
  | code (c : Nat)
  | block (v : Verdict) (blk : Nat)
  | ok (r : POpRun)
  deriving DecidableEq, Repr

/-- An operation on entries starts, its data read and verified. -/
def checkEntryOp (s : State) (v : Bank) (o : POp) : OpCheck :=
  let k := o.kind
  let eb := entriesOf v.width
  let w := unitsOf v.width
  let usesPos := k == kRemove || k == kWrite || k == kSetvalid
  let usesData := k == kInsert || k == kWrite
  let hdr := s.mem.verify (v.gold / 512)
  let h := goldHeader s.mem v.gold
  let data := s.mem.verifyRange o.data (32 * w)
  let img := entryImage s.mem o.data w
  if k == kInsert && v.fill == eb then .code 4
  else if usesPos && decide (v.fill ≤ o.pos) then .code 5
  else if usesPos && entryTag (v.entry o.pos) != o.tag then .code 6
  else if (k == kInsert || k == kRemove) && decide ((if o.max = 0 then eb else o.max) < opSteps v o) then .code 7
  else if usesData && (o.data % 32 != 0 || !inHerd o.data (32 * w)) then .code 8
  else if usesData && data.1 != .good then .block data.1 data.2
  else if usesData && img.2 then .code 8
  else if hdr != .good then .block hdr (v.gold / 512)
  else if ghVersion h != 1 || ghWidth h != v.width || ghMap h != v.map then .code 9
  else .ok { op := o, pos := opPos v o, made := 0, total := opSteps v o, image := if usesData then img.1 else [],
             width := v.width, map := v.map, fill := v.fill, hole := none }

/-- A REBUILD starts (R301). -/
def checkRebuild (s : State) (o : POp) : OpCheck :=
  let h := goldHeader s.mem o.data
  let hv := s.mem.verify (o.data / 512)
  if o.data % 512 != 0 || !inHerd o.data 655872 then .code 8
  else if hv != .good then .block hv (o.data / 512)
  else if rebuildHeaderBad h then .code 10
  else
    let moves := match ghHole h with | some x => ghFill h - x | none => 0
    .ok { op := o, pos := 0, made := 0, total := moves + ghFill h + 1, image := [], width := ghWidth h,
          map := ghMap h, fill := ghFill h, hole := ghHole h }

/-- The checks of Table 11-8 in their order; a REBUILD is accepted in every state in which no operation is in progress
(log entry 117). -/
def opCheck (s : State) (b : Nat) (v : Bank) (o : POp) : OpCheck :=
  if o.malformed then .code 1
  else if !(claimBanks s o.task).contains b then .code 2
  else if o.kind = kRebuild then checkRebuild s o
  else if !(v.st == .ready || v.st == .busy) then .code 3
  else checkEntryOp s v o

/-- A REBUILD ends without success: the bank is INCONSISTENT. -/
def rebuildFails (s : State) (b : Nat) : State := s.setBank b { s.bank b with st := .inconsistent, cur := none }

/-- The operation at the head of a bank's queue is checked and starts, where none is in progress. -/
def opStart (s : State) (b : Nat) : State :=
  let v := s.bank b
  match v.cur, v.queue with
  | none, o :: _ =>
    if aborting s o.task then s else
    match opCheck s b v o with
    | .code c => taskFault s (slotBank b) o.task none 0x0512 none (fld c 24 ||| w32 o.idx) o.w0
    | .block x blk => bankBlockFault (if o.kind = kRebuild then rebuildFails s b else s) o.task b blk x
    | .ok r => s.setBank b { v with cur := some r, st := if o.kind = kRebuild then .rebuilding else .busy }
  | _, _ => s

/-! ### Steps (R294, R298 to R301) -/

/-- The writes of a step to the golden copy meet a block that may not be merged (R294). -/
def goldMergeBad (m : Memory) (g width : Nat) (e : Option Nat) : Option (Verdict × Nat) :=
  let w := unitsOf width
  let parts := (match e with
    | some x => [(goldRange g (w * x), 16 * w), (goldCtl g (w * x), 4 * w)]
    | none => []) ++ [(g + 4, 4)]
  parts.findSome? (fun p =>
    match m.mergeVerify (p.1 / 512) p.1 p.2 with
    | .good => none
    | v => some (v, p.1 / 512))

/-- What a step changes: the bank, the entry position it writes if any, and whether it commits. -/
structure StepOut where
  bank   : Bank
  wrote  : Option Nat
  commit : Bool
  last   : Bool
  deriving DecidableEq, Repr

/-- The entry that an INSERT or WRITE puts in place: TAG and VALID come from the operation. -/
def newEntry (r : POpRun) (tag : Nat) : List PUnit :=
  r.image.zipIdx.map (fun p =>
    if p.2 = 0 then { p.1 with ctl := p.1.ctl ||| fld tag 16 ||| flag r.op.valid 31 } else p.1)

/-- A step of an INSERT (R298). -/
def insertStep (v : Bank) (r : POpRun) : StepOut :=
  let last := fun (e : Nat) (b : Bank) =>
    (⟨{ b.setEntry b.width e (newEntry r r.op.tag) with hole := none, fill := b.fill + 1 }, some e, true, true⟩ : StepOut)
  match v.hole with
  | none =>
    if r.pos = v.fill then last v.fill v
    else ⟨{ v.copyEntry (v.fill - 1) v.fill with hole := some (v.fill - 1) }, some v.fill, false, false⟩
  | some h =>
    if h = r.pos then last h v
    else ⟨{ v.copyEntry (h - 1) h with hole := some (h - 1) }, some h, false, false⟩

/-- A step of a REMOVE (R299). -/
def removeStep (v : Bank) (r : POpRun) : StepOut :=
  match v.hole with
  | none =>
    let f := v.fill - 1
    let done := r.pos == f
    ⟨{ v with fill := f, hole := if done then none else some r.pos }, none, true, done⟩
  | some h =>
    let done := h + 1 == v.fill
    ⟨{ v.copyEntry (h + 1) h with hole := if done then none else some (h + 1) }, some h, false, done⟩

/-- A step of an operation other than REBUILD. -/
def opStep (v : Bank) (r : POpRun) : StepOut :=
  if r.op.kind = kInsert then insertStep v r
  else if r.op.kind = kRemove then removeStep v r
  else if r.op.kind = kWrite then ⟨v.setEntry v.width r.pos (newEntry r r.op.tag), some r.pos, true, true⟩
  else if r.op.kind = kSetvalid then
    let us := v.entry r.pos
    let us1 := us.zipIdx.map (fun p =>
      if p.2 = 0 then { p.1 with ctl := (p.1.ctl &&& 0x7FFFFFFF) ||| flag r.op.valid 31 } else p.1)
    let v1 := v.setEntry v.width r.pos us1
    ⟨{ v1 with poison := v.poison }, some r.pos, true, true⟩
  else ⟨{ v with fill := 0 }, none, true, true⟩

/-- The counters and events of a step that a bank has made. -/
def countStep (s : State) (b : Nat) (commit : Bool) : State :=
  let s1 := (s.bump slotPadk 0x048 1).bump (slotBank b) 0x054 1
  if commit then (countEvent s1 slotPadk 6 1).pulse (slotBank b) 0 else s1

/-- The operation of a bank has made its last step. -/
def opDone (s : State) (b : Nat) (v : Bank) (st : BankSt) : State :=
  let q := v.queue.tail
  let s1 := s.setBank b { v with queue := q, cur := none, st := st }
  (s1.mapPaddock (fun p => { p with job := p.job.map (fun j => { j with done := j.done + 1 }) })).bump slotPadk 0x04C 1

/-- A bank makes one step of its operation in a theft pc, and writes the golden copy in the same step. -/
def makeStep (s : State) (b : Nat) (v : Bank) (r : POpRun) : State :=
  let o := opStep v r
  match goldMergeBad s.mem v.gold v.width o.wrote with
  | some (x, blk) => bankBlockFault s r.op.task b blk x
  | none =>
    let s1 := s.mapMem (fun m =>
      let m1 := match o.wrote with
        | some e => putGold m v.gold v.width e (o.bank.entry e)
        | none => m
      putHeader m1 v.gold o.bank.fill o.bank.hole)
    let v1 := { o.bank with cur := some { r with made := r.made + 1 }, theft := s.pc + 1 }
    let s2 := countStep s1 b o.commit
    if o.last then opDone s2 b v1 .ready else s2.setBank b v1

/-! ### Scrubbing (R303) -/

def goldBad (s : State) : State := (s.bump slotPadk 0x058 1).pulse slotPadk 2

/-- The golden header disagrees with the bank, or its block is not good. -/
def scrubHeaderBad (m : Memory) (v : Bank) : Bool :=
  let h := goldHeader m v.gold
  m.verify (v.gold / 512) != .good || ghVersion h != 1 || ghWidth h != v.width || ghMap h != v.map || ghFill h != v.fill

/-- The units of an entry as a scrub compares them; a poisoned unit differs. -/
def scrubSame (v : Bank) (e : Nat) (us : List PUnit) : Bool :=
  v.entry e == us && !v.poison.any (fun u => u / unitsOf v.width == e)

/-- The entry position that a scrub comes to, and the bank with the pass of which it is part: beyond the last position that
holds an entry, a new pass begins at the first. -/
def Bank.scrubNext (v : Bank) : Option (Nat × Bank) :=
  match v.positions.find? (fun e => decide (v.scrub ≤ e)) with
  | some e => some (e, v)
  | none => v.positions.head?.map (fun e => (e, { v with inPass := false }))

/-- One scrub step of a bank. -/
def scrubStep (s : State) (b : Nat) (v0 : Bank) : State :=
  let ps := v0.positions
  match v0.scrubNext with
  | none => s
  | some (e, v) =>
    if !v.inPass && scrubHeaderBad s.mem v then (goldBad s).setBank b { v with passBad := true } else
    let v1 := { v with scrub := e + 1, inPass := (ps.any (fun x => decide (e < x))) , theft := s.pc + 1 }
    let v2 := if v1.inPass then v1 else { v1 with scrub := 0 }
    if (goldVerify s.mem v.gold v.width e).1 != .good then goldBad (s.setBank b v2) else
    let us := goldEntry s.mem v.gold v.width e
    let s1 := s.bump slotPadk 0x050 1
    if scrubSame v e us then s1.setBank b v2
    else
      let s2 := s1.setBank b (v2.setEntry v.width e us)
      ((s2.bump slotPadk 0x054 1).bump (slotBank b) 0x058 1).pulse slotPadk 1

/-! ### Theft pc and the operations by name -/

/-- A bank uses its theft pc: a step of the operation at the head of its queue, or else a scrub step. -/
def bankTheft (s : State) (b : Nat) : State :=
  let s1 := opStart s b
  let v := s1.bank b
  if v.theft = s.pc + 1 then s1 else
  match v.cur with
  | some r => if v.st == .rebuilding || aborting s1 r.op.task then s1 else makeStep s1 b v r
  | none =>
    if scrubEn s1 && (v.st == .ready || v.st == .busy) && !v.passBad && (s1.dom 22).st == .run then scrubStep s1 b v
    else s1

/-- THEFT_PC (R291). -/
def theft (s : State) : State :=
  if theftPc s && padRuns s then (Tbl.keys s.paddock.banks).foldl bankTheft s else s

def execTheftPc (s : State) : Res := .next (theft s)

/-- The operation of a bank that is in progress or at the head of its queue. -/
def headKind (v : Bank) : Nat :=
  match v.cur, v.queue with
  | some r, _ => r.op.kind
  | none, o :: _ => o.kind
  | none, [] => 0

/-- A named operation of a bank: its checks when it reaches the head of the queue, and its step where the
present pc is a theft pc. -/
def opEvent (s : State) (b k : Nat) : State :=
  if headKind (s.bank b) = k ∧ padRuns s then (if theftPc s then bankTheft s b else opStart s b) else s

/-- INSERT (R298). -/
def execInsert (b : BankId) (s : State) : Res := .next (opEvent s b.val kInsert)

/-- REMOVE (R299). -/
def execRemove (b : BankId) (s : State) : Res := .next (opEvent s b.val kRemove)

/-- WRITE (R297). -/
def execWrite (b : BankId) (s : State) : Res := .next (opEvent s b.val kWrite)

/-- SETVALID (R297). -/
def execSetvalid (b : BankId) (s : State) : Res := .next (opEvent s b.val kSetvalid)

/-- CLEAR (R297). -/
def execClear (b : BankId) (s : State) : Res := .next (opEvent s b.val kClear)

/-- REBUILD (R301): the operation is checked and the bank is REBUILDING. -/
def execRebuild (b : BankId) (s : State) : Res :=
  .next (onlyIf (headKind (s.bank b.val) == kRebuild && padRuns s) (fun t => opStart t b.val) s)

/-- A step that closes the hole of the golden copy by one move (R299, R301). -/
def closeStep (s : State) (b : Nat) (v : Bank) (r : POpRun) (h : Nat) : State :=
  let g := r.op.data
  let from_ := goldVerify s.mem g r.width (h + 1)
  if from_.1 != .good then bankBlockFault (rebuildFails s b) r.op.task b from_.2 from_.1 else
  match goldMergeBad s.mem g r.width (some h) with
  | some (x, blk) => bankBlockFault (rebuildFails s b) r.op.task b blk x
  | none =>
    let h1 := if h + 1 = r.fill then none else some (h + 1)
    let s1 := s.mapMem (fun m => putHeader (putGold m g r.width h (goldEntry m g r.width (h + 1))) g r.fill h1)
    countStep (s1.setBank b { v with cur := some { r with made := r.made + 1, hole := h1 }, theft := s.pc + 1 }) b false

/-- An entry breaks the tag order or carries VALID or TAG in another unit (Table 11-8, code 0x0B). -/
def loadBad (v : Bank) (r : POpRun) (us : List PUnit) : Bool :=
  let prev := if r.pos = 0 then 0 else entryTag [v.unit (unitsOf r.width * (r.pos - 1))]
  decide (entryTag us < prev) || us.tail.any (fun u => bit u.ctl 31 || bits u.ctl 27 16 != 0)

/-- A step that loads one entry. -/
def loadStep (s : State) (b : Nat) (v : Bank) (r : POpRun) : State :=
  let g := r.op.data
  let x := goldVerify s.mem g r.width r.pos
  if x.1 != .good then bankBlockFault (rebuildFails s b) r.op.task b x.2 x.1 else
  let us := goldEntry s.mem g r.width r.pos
  if loadBad v r us then
    taskFault (rebuildFails s b) (slotBank b) r.op.task none 0x0512 none (fld 11 24 ||| w32 r.op.idx) r.op.w0
  else
    let v1 := v.setEntry r.width r.pos us
    countStep (s.setBank b { v1 with cur := some { r with made := r.made + 1, pos := r.pos + 1 }, theft := s.pc + 1 }) b false

/-- The last step: width, map, fill and the base of the golden copy are set (R301). -/
def finishStep (s : State) (b : Nat) (v : Bank) (r : POpRun) : State :=
  let s1 := if r.hole.isSome then s.mapMem (fun m => putHeader m r.op.data r.fill none) else s
  let v1 := { v with width := r.width, map := r.map, fill := r.fill, hole := none, gold := r.op.data, scrub := 0
                     inPass := false, passBad := false, builds := v.builds + 1, theft := s.pc + 1 }
  opDone (countStep s1 b true) b v1 .ready

/-- REBUILD_STEP (R301): one step in any pc. -/
def rebuildStep (s : State) (b : Nat) : State :=
  let v := s.bank b
  match v.cur with
  | none => s
  | some r =>
    if v.st != .rebuilding || v.theft = s.pc + 1 || aborting s r.op.task || !padRuns s then s else
    match r.hole with
    | some h => if h < r.fill then closeStep s b v r h
                else if r.pos < r.fill then loadStep s b v r else finishStep s b v r
    | none => if r.pos < r.fill then loadStep s b v r else finishStep s b v r

def execRebuildStep (b : BankId) (s : State) : Res := .next (rebuildStep s b.val)

/-! ### PADK.CTRL (R309) -/

/-- An admitted instance holds a Paddock claim. -/
def paddockClaimed (s : State) : Bool := s.drover.insts.any (fun i => hasPaddock s i)

/-- A write to CTRL of the control page: THEFT_N may be refused, the rest of the word takes effect. -/
def padkCtrl (s : State) (v : Word) : State :=
  let old := theftN s
  let n := bits v 6 0
  let bad := decide (n < 2) || decide (64 < n) || (n != old && paddockClaimed s)
  let keep : Word := 0x80000100
  let s1 := s.setReg slotPadk 0x008 ((v &&& keep) ||| w32 (if bad then old else n))
  if bad then s1.fault slotPadk { code := 0x0514, d0 := v, d1 := w32 old } else s1

end Sys2Proof.Machine
end

