-- ==== Sys2Proof/Machine/Ralso.lean ====
section
/-! DEFINITION. The Ralso fabric: remote operations, port controllers, the link layer, admission of remote
requests and training (12_ralso_fabric.md R311 to R343; 14_power_clocks.md R383 to R386). -/

namespace Sys2Proof.Machine

/-! ### Remote operations (R327 to R331) -/

def roNode (w : List Word) : BitVec 16 := (wd w 1).setWidth 16
def roAddr (w : List Word) : Nat := (wd w 2).toNat
def roLen (w : List Word) : Nat := bits (wd w 3) 23 0
def roTmpl (w : List Word) : Nat := bits (wd w 1) 23 16
def roAfmt (w : List Word) : Nat := bits (wd w 0) 20 19

/-- Bytes between the targets of consecutive elements of an RADD. -/
def roStride (w : List Word) : Nat := if roAfmt w = 0 then 16 else 4

/-- Units in which an operation is cut: bytes for RWRITE and RREAD, elements for RADD, one for RBELL. -/
def roTotal (k : Core) (w : List Word) : Nat :=
  let o := opcodeOf (wd w 0)
  let h := k.chan (chOf (wd w 0))
  let n := chanTotal k h - h.done
  if o = opRread then roLen w
  else if o = opRwrite then (n * fmtNibs h.desc.format + 1) / 2
  else if o = opRadd then (if roAfmt w = 0 then n / 12 else n) else 1

/-- Reserved fields and fields that the instruction does not use (Table 12-8). -/
def roReserved (w : List Word) : Bool :=
  let o := opcodeOf (wd w 0)
  bits (wd w 3) 31 24 != 0 || bits (wd w 1) 31 24 != 0 || bits (wd w 0) 18 0 != 0
  || (o != opRbell && roTmpl w != 0) || (o != opRread && roLen w != 0) || (o != opRadd && roAfmt w != 0)
  || (o == opRadd && roAfmt w == 3) || (o == opRbell && (chOf (wd w 0) != 0 || wd w 2 != 0))

/-- The channel is armed as the instruction needs it; a LEN of 0 has its own code (Table 12-18). -/
def roChannel (k : Core) (t : Nat) (w : List Word) : Bool :=
  let o := opcodeOf (wd w 0)
  let ch := chOf (wd w 0)
  let h := k.chan ch
  if o = opRbell then true
  else if o = opRwrite then armedFor k t ch false [0, 1, 2, 3, 4, 5]
  else if o = opRread then
    armedFor k t ch true [0, 1, 2, 3, 4, 5] && (roLen w == 0 || chanTotal k h * fmtNibs h.desc.format == 2 * roLen w)
  else if roAfmt w = 0 then armedFor k t ch false [0] && chanTotal k h % 12 == 0
  else armedFor k t ch false [if roAfmt w = 1 then 2 else 5]

/-- Bytes of the remote range. -/
def roSpan (k : Core) (w : List Word) : Nat :=
  if opcodeOf (wd w 0) = opRadd then roTotal k w * roStride w else roTotal k w

/-- The lowest reason code of BAD_RALSO that applies (Table 12-18). -/
def roCode (s : State) (c t : Nat) (w : List Word) : Option Nat :=
  let k := s.core c
  let o := opcodeOf (wd w 0)
  if roReserved w then some 1
  else if !roChannel k t w then some 2
  else if !inDims s (roNode w) || roNode w == selfNode s then some 3
  else if o != opRbell && ((o == opRadd && roAddr w % roStride w != 0) || decide (0x100000000 < roAddr w + roSpan k w))
    then some 4
  else if taskKind s t != kCopy then some 5
  else if !selfValid s then some 6
  else if o == opRread && roLen w == 0 then some 7
  else none

/-- A fault of a source task, with the remote node and address (R343). -/
def ralsoFault (s : State) (port c t code : Nat) (node : BitVec 16) (addr : Option Nat) (d0 d1 : Word) : State :=
  wantAbort (s.fault (slotLink port) { taskRec s t (some c) code addr d0 d1 with node := some node }) t code

/-- Address and units of the next packet of an operation. -/
def roNext (o : RemOp) : Nat × Nat :=
  let w := o.inst.words
  let op := opcodeOf (wd w 0)
  if op = opRadd then
    let a := roAddr w + roStride w * o.sent
    (a, min (o.total - o.sent) ((512 - a % 512) / roStride w))
  else if op = opRbell then (0, 1)
  else
    let a := roAddr w + o.sent
    (a, min (o.total - o.sent) (4096 - a % 512))

/-- Elements of the channel that the next packet takes: an RWRITE takes as many as complete its bytes, and keeps those of the
last one that the packet does not carry. -/
def roNeed (k : Core) (o : RemOp) : Nat :=
  let w := o.inst.words
  let op := opcodeOf (wd w 0)
  let n := (roNext o).2
  if op = opRwrite then
    let h := k.chan (chOf (wd w 0))
    let nibs := max 1 (fmtNibs h.desc.format)
    min (chanTotal k h - h.done) ((2 * (n - o.rest.length) + nibs - 1) / nibs)
  else if op = opRadd then (if roAfmt w = 0 then 12 * n else n) else 0

/-- The operation waits for the elements of its next packet. -/
def roFeed (k : Core) (o : RemOp) : RemOp :=
  let ch := chOf (wd o.inst.words 0)
  let n := roNeed k o
  { o with feed := if n = 0 then none else some { ch := ch, need := n, got := [], start := (k.chan ch).done } }

/-- A remote operation that has passed its checks joins the operations of its core (R327). -/
def issueRemote (c : Nat) (s : State) (p : Prog) (w : List Word) : State :=
  match roCode s c p.task w with
  | some code =>
    ralsoFault s (firstHopPort s (roNode w)) c p.task 0x0601 (roNode w)
      (if opcodeOf (wd w 0) = opRbell then none else some (roAddr w)) (w32 code) (wd w 0)
  | none =>
    let k := s.core c
    let o := roFeed k { inst := queued s c p w, core := c, sent := 0, total := roTotal k w, feed := none, rest := [] }
    pull ((advance s c p w).mapFabric (fun f => { f with ops := f.ops ++ [o] })) c

/-- RWRITE (R328). -/
def execRwrite (c : CoreId) (s : State) : Res := .next (issue opRwrite c.val (issueRemote c.val) s)

/-- RREAD (R329). -/
def execRread (c : CoreId) (s : State) : Res := .next (issue opRread c.val (issueRemote c.val) s)

/-- RADD (R330). -/
def execRadd (c : CoreId) (s : State) : Res := .next (issue opRadd c.val (issueRemote c.val) s)

/-- RBELL (R331). -/
def execRbell (c : CoreId) (s : State) : Res := .next (issue opRbell c.val (issueRemote c.val) s)

/-- Numbers of the blocks that `n` bytes from `a` touch. -/
def blocksOf (a n : Nat) : List Nat := if n = 0 then [] else (List.range ((a + n - 1) / 512 + 1 - a / 512)).map (· + a / 512)

/-- The bytes of a range that lie in a block, with the address of the first. -/
def partIn (a : Nat) (data : List Byte) (blk : Nat) : Nat × List Byte :=
  let lo := max a (blk * 512)
  let hi := min (a + data.length) (blk * 512 + 512)
  (lo, (data.drop (lo - a)).take (hi - lo))

/-- Check values of a payload: computed for the blocks it covers whole, 0 for others (R328). -/
def carriedChecks (a : Nat) (data : List Byte) : List Word :=
  (blocksOf a data.length).map (fun b =>
    let p := partIn a data b
    if p.2.length = 512 then blockCheck p.2 else 0)

/-- The bytes that an operation has taken for its next packet, and those that stay for the one after it. -/
def roBytes (s : State) (o : RemOp) : List Byte × List Byte :=
  let w := o.inst.words
  let nibs := fmtNibs ((s.core o.core).chan (chOf (wd w 0))).desc.format
  let bs := o.rest ++ (match o.feed with | some f => packBytes nibs f.got | none => [])
  if opcodeOf (wd w 0) = opRwrite then (bs.take (roNext o).2, bs.drop (roNext o).2) else (bs, [])

/-- The packet that an operation sends next. -/
def roPacket (s : State) (o : RemOp) : Packet :=
  let w := o.inst.words
  let op := opcodeOf (wd w 0)
  let nx := roNext o
  let data := (roBytes s o).1
  let base := { Packet.zero with dest := roNode w, src := selfNode s, rtag := s.fabric.rtag, addr := nx.1 }
  if op = opRwrite then { base with ptype := tWrite, len := data.length, data := data, checks := carriedChecks nx.1 data }
  else if op = opRadd then { base with ptype := tAtomic, opx := roAfmt w, len := data.length, data := data }
  else if op = opRread then { base with ptype := tRead, len := nx.2 }
  else { base with ptype := tDoorbell, opx := roTmpl w, addr := 0 }

def pendKind (t : Nat) : Nat := if t = tWrite then 0 else if t = tRead then 1 else if t = tAtomic then 3 else 4

/-- The packet type of an outstanding request. -/
def pendType (p : Pending) : Nat :=
  if p.kind = 0 then tWrite else if p.kind = 3 then tAtomic else if p.kind = 4 then tDoorbell else tRead

/-- The remote die address of a request, where it has one (R343). -/
def pendAddr (p : Pending) : Option Nat := if p.kind = 4 then none else some p.addr

/-- A core may send another request through a port: fewer than 32 of the core and 1,024 of the port are outstanding (R334). -/
def mayRequest (s : State) (c port : Nat) : Bool :=
  decide ((s.fabric.pend.filter (fun p => p.core == c)).length < 32)
  && decide ((s.fabric.pend.filter (fun p => p.port == port)).length < 1024)

/-- The first operation of a core may send its next packet: its bytes are there, and R334 allows another request. -/
def roReady (s : State) (o : RemOp) : Bool :=
  !aborting s o.inst.task && decide (o.sent < o.total)
  && (match o.feed with | some f => f.need == 0 | none => true)
  && mayRequest s o.core (firstHopPort s (roNode o.inst.words))

/-- A request of a core leaves, its response awaited. -/
def sendRequest (s : State) (p : Packet) (w : Pending) : State :=
  sendOwn (s.mapFabric (fun f => { f with rtag := f.rtag + 1, pend := f.pend ++ [w] })) p

/-- The packet of an operation enters the port controller; an operation that has sent all its packets leaves the list. -/
def launchOp (s : State) (o : RemOp) : State :=
  let p := roPacket s o
  let w : Pending :=
    { rtag := p.rtag, core := o.core, task := o.inst.task, port := firstHopPort s p.dest, kind := pendKind p.ptype
      ch := chOf (wd o.inst.words 0), ends := none, node := p.dest, addr := p.addr, len := p.len, gen := 0, seq := 0 }
  let sent := o.sent + (roNext o).2
  let o1 : RemOp := roFeed (s.core o.core) { o with sent := sent, feed := none, rest := (roBytes s o).2 }
  let ops := if sent < o.total then s.fabric.ops.map (fun x => if x = o then o1 else x) else dropFirst o s.fabric.ops
  pull (sendRequest (s.mapFabric (fun f => { f with ops := ops })) p w) o.core

/-- Every core's first operation sends a packet where it can. -/
def launchAll (s : State) : State :=
  (List.range 256).foldl (fun u c =>
    match u.fabric.ops.find? (fun o => o.core == c) with
    | some o => if roReady u o then launchOp u o else u
    | none => u) s

/-! ### A head that catches up (R334; 08_drove_chains.md R216) -/

/-- A head waits for the READ_DATA of a block. -/
def headAwaits (s : State) (c i gen seq : Nat) : Bool :=
  s.fabric.pend.any (fun p => p.core == c && p.kind == 2 && p.ch == i && p.gen == gen && p.seq == seq)

/-- The next committed block of its generation that a head has neither received nor asked for. -/
def headLacks (s : State) (c i : Nat) (v : ChSlot) : Option Nat :=
  ((List.range (v.committed v.gen)).drop v.nextSeq).find? (fun q => lacks v q && !headAwaits s c i v.gen q)

/-- Die address of block number `q` of the bellwether's walk. -/
def headBlock (s : State) (k : Core) (h : Chan) (q : Nat) : Nat :=
  chanNib s k h (afterRuns (transferLen s k h) q 0) / 1024 * 512

/-- A head that catches up asks the source module for its next block, where its ring has room for it. -/
def headAsk (s : State) (c i : Nat) : State :=
  match (s.core c).chSlot i with
  | none => s
  | some v =>
    match v.joined, slotTask s v, headLacks s c i v with
    | some ch, some t, some q =>
      let port := firstHopPort s v.desc.srcNode
      let waits := (s.fabric.pend.filter (fun p => p.core == c && p.kind == 2 && p.ch == i)).length
      if !v.desc.fabric || v.pos != 0 || v.src.isNone || aborting s t || !mayRequest s c port
          || decide (v.ringSize ≤ v.ring.length + waits) then s else
      let a := headBlock s (s.core c) ((s.core c).chan ch) q
      sendRequest s
        { Packet.zero with
          ptype := tRead, dest := v.desc.srcNode, src := selfNode s, rtag := s.fabric.rtag, addr := a, len := 512 }
        { rtag := s.fabric.rtag, core := c, task := t, port := port, kind := 2, ch := i, ends := none
          node := v.desc.srcNode, addr := a, len := 512, gen := v.gen, seq := q }
    | _, _, _ => s

/-! ### Port controllers (R317, R319) -/

/-- Traffic on a port: its idle time starts anew (R385). -/
def touchPort (s : State) (p : Nat) : State := s.setDom (16 + p) { s.dom (16 + p) with idle := s.now }

/-- A port's domain runs. -/
def portRuns (s : State) (p : Nat) : Bool := (s.dom (16 + p)).st == .run && !s.inReset (.port (Fin.ofNat 6 p))

/-- Credits that a packet may use: 8 of a multicast channel's are kept for markers. -/
def usable (v : Port) (p : Packet) : Nat :=
  let c := v.credits.getD p.vc 0
  if p.ptype = tMcBlock then c - 8 else c

/-- The packet whose header flit arrived first (R319). -/
def firstCome : List OutPkt → Option OutPkt
  | [] => none
  | o :: t =>
    match firstCome t with
    | some q => if q.via.stamp < o.via.stamp then some q else some o
    | none => some o

/-- The packet of a channel that is next at an output. -/
def nextOf (v : Port) (vc : Nat) : Option OutPkt := firstCome (v.outQ.filter (fun o => o.pkt.vc == vc))

/-- The port holds no credits for a packet that is next. -/
def lacksCredit (v : Port) (o : OutPkt) : Bool := o.sent == 0 && decide (usable v o.pkt < o.via.flits)

/-- A packet that has not been routed yet is to leave by a channel of an output. -/
def headsFor (s : State) (inp : Nat) (r : RxPkt) (q vc : Nat) : Bool :=
  if r.routed || r.pkt.ptype == tMgmt then false
  else if r.pkt.ptype = tMcBlock ∨ r.pkt.ptype = tMcMarker then
    bit (routeEntry s r.pkt.group) (q + 2) && fwdOk (some inp) q
      && withBit r.pkt.ptype (channelBit s r.pkt.vc (some inp) q) == vc
  else nextHop s r.pkt (some inp) == .out q vc

/-- Some packet that arrived before a given one is still to be routed to the same channel of an output. -/
def overtakes (s : State) (q vc stamp : Nat) : Bool :=
  (List.range 6).any (fun i => (s.port i).rx.any (fun r => decide (r.stamp < stamp) && headsFor s i r q vc))

/-- The packet that an output starts next (R319): the next one of the first channel in priority that has credits for it. -/
def pickOut (s : State) (q : Nat) : Option OutPkt :=
  let v := s.port q
  match v.outQ.find? (fun o => decide (0 < o.sent)) with
  | some o => some o
  | none =>
    [6, 3, 2, 5, 4, 1, 0].findSome? (fun vc =>
      match nextOf v vc with
      | some o => if lacksCredit v o || overtakes s q vc o.via.stamp then none else some o
      | none => none)

/-- Flits in codewords of ten, the last one filled up with idle flits (R313). -/
def codewords : Nat → BitVec 12 → List Flit → List Codeword
  | 0, _, _ => []
  | n + 1, seq, fs =>
    if fs = [] then [] else
    { word := seq.setWidth 20 <<< 8
      flits := (fs.take 10) ++ List.replicate (10 - (fs.take 10).length) idleFlit } :: codewords n (seq + 1) (fs.drop 10)

/-- The sequence number of a codeword (R313). -/
def seqOf (w : Codeword) : BitVec 12 := (w.word >>> 8).setWidth 12

def sendNak (s : State) (p : Nat) : State :=
  s.emit (.control p (mkFlit false (controlWords true false (s.port p).rxSeq [])))

/-- The timers of requests that leave through a port start with their sending (R334). -/
def startTimer (s : State) (p : Packet) : State :=
  if isRequest p.ptype && p.src == selfNode s then
    s.mapFabric (fun f => { f with pend := f.pend.map (fun w =>
      if w.rtag = p.rtag then { w with ends := some (s.now + bits (s.reg slotRoute 0x048) 23 0) } else w) })
  else s

/-- Flits of a packet that have come so far. -/
def OutPkt.there (o : OutPkt) : Nat := min o.via.flits o.pkt.flits

/-- The whole packet is there. -/
def OutPkt.whole (o : OutPkt) : Bool := decide (o.via.flits ≤ o.pkt.flits)

/-- The flits of a packet that are there and have not left yet leave on its link (R317). -/
def sendFlits (s : State) (p : Nat) (o : OutPkt) : State :=
  let v := s.port p
  let fs := ((o.pkt.allFlits o.via.flits).take o.there).drop o.sent
  let cws := codewords (fs.length / 10 + 1) v.txSeq fs
  let v1 := { v with
    outQ := if o.there < o.via.flits then v.outQ.map (fun x => if x = o then { o with sent := o.there, waitAt := none } else x)
      else dropFirst o v.outQ
    txSeq := v.txSeq + BitVec.ofNat 12 cws.length, replay := v.replay ++ cws
    credits := v.credits.modify o.pkt.vc (fun n => n - fs.length) }
  let s1 := cws.foldl (fun u w => u.emit (.codeword p w)) (s.setPort p v1)
  let s2 := touchPort (countFlits (s1.bump (slotLink p) 0x050 fs.length) p 1 o.pkt.vc fs.length) p
  settle (if o.sent = 0 then startTimer s2 o.pkt else s2)

/-- PACKET_SEND (R317, R319, R337): a port that is UP starts a packet for which it holds credits, or sends on what has come
of the one it has started; where its replay buffer is full it sends an idle codeword (R315), and a dozing port wakes (R384). -/
def packetSend (s : State) (p : Nat) : State :=
  let s := launchAll s
  let v := s.port p
  if v.st != .up || v.outQ.isEmpty then s
  else if !portRuns s p then startWake s (16 + p)
  else match pickOut s p with
    | none => s
    | some o =>
      if o.there ≤ o.sent then s
      else if 1024 < v.replay.length + (o.there - o.sent + 9) / 10 then s.emit (.idle p)
      else sendFlits s p o

def execPacketSend (p : PortId) (s : State) : Res := .next (packetSend s p.val)

/-- A MGMT packet for this module waits for Sharal where it is an operation of 17_sharal_tally.md Table 17-7. -/
def takeMgmt (s : State) (k : Packet) (v : Via) : State :=
  if [1, 2, 3, 8].contains k.opx then enqueueLocal s k v else s

/-- A packet is routed out of the buffer of its channel (R321, R323); a MGMT packet travels one hop
(17_sharal_tally.md R450). -/
def forwardPacket (s : State) (k : Packet) (v : Via) : State :=
  if k.ptype = tMgmt then (if k.dest = selfNode s then takeMgmt s k v else countNoRoute s)
  else if k.ptype = tMcBlock ∨ k.ptype = tMcMarker then
    routeMulticast (if k.ptype = tMcBlock ∧ k.seq = 0 then clearPrunes s k.group k.gen else s) k v
  else routeUnicast s k v

/-- PACKET_FORWARD (R321, R337): the first packet in a buffer of the port that has still to be routed; its data flits may
follow. A dozing port wakes first (R384); behind a raised port hurdle the packet is discarded (16_faults_recovery.md
Table 16-4). -/
def packetForward (s : State) (p vc : Nat) : State :=
  let v := s.port p
  match v.rx.find? (fun r => r.vc == vc && !r.routed) with
  | none => s
  | some r =>
    if !portRuns s p then startWake s (16 + p) else
    let s1 := s.setPort p { v with rx := v.rx.map (fun x => if x.stamp = r.stamp then { x with routed := true } else x) }
    settle (if s.hurdled (.port (Fin.ofNat 6 p)) then s1
      else forwardPacket s1 r.pkt ⟨some p, r.stamp, 1 + r.left + (r.pkt.data.length + 59) / 60⟩)

def execPacketForward (p : PortId) (vc : Fin 7) (s : State) : Res := .next (packetForward s p.val vc.val)

/-! ### Local delivery -/

/-- The first local packet of a class, where it is of one type and has come whole. -/
def localOf (s : State) (t : Nat) : Option OutPkt :=
  match firstCome (s.fabric.local_.filter (fun o => vcBase o.pkt.ptype == vcBase t)) with
  | some o => if o.pkt.ptype = t && o.whole then some o else none
  | none => none

/-- A local packet has been taken, and its buffer is free. -/
def dropLocal (s : State) (o : OutPkt) : State := settle (s.mapFabric (fun f => { f with local_ := dropFirst o f.local_ }))

/-- Window registers (Table 12-16). -/
def winReg (s : State) (w i : Nat) : Word := s.reg slotRoute (0x100 + 16 * w + 4 * i)

/-- The window is in use and matches the source (R332). -/
def winFor (s : State) (w : Nat) (src : BitVec 16) : Bool :=
  let m := bits (winReg s w 2) 31 16
  let n := bits (winReg s w 2) 15 0
  bit (winReg s w 3) 31 && ((src.toNat ^^^ n) &&& m) == 0

/-- Some window admits `n` bytes from `a` for an operation; `permBit` is its bit in WIN_PERM. -/
def admitsRange (s : State) (src : BitVec 16) (permBit a n : Nat) : Bool :=
  (List.range 16).any (fun w => winFor s w src && bit (winReg s w 3) permBit
    && decide ((winReg s w 0).toNat ≤ a) && decide (a + n ≤ (winReg s w 1).toNat + 1))

def admitsBell (s : State) (src : BitVec 16) (t : Nat) : Bool :=
  (List.range 16).any (fun w => winFor s w src && bit (winReg s w 3) 27
    && decide (bits (winReg s w 3) 7 0 ≤ t) && decide (t ≤ bits (winReg s w 3) 15 8))

/-! ### The slots of accesses from outside (07_streams.md R182, R186; 10_herd_engine.md R253) -/

/-- Bytes of the remote range of a WRITE, READ or ATOMIC. -/
def reqLen (k : Packet) : Nat :=
  if k.ptype = tRead then k.len
  else if k.ptype = tAtomic then (if k.opx = 0 then k.data.length / 12 * 16 else k.data.length / 4 * 4)
  else k.data.length

/-- The part of an access that lies in its block number `i`: address and bytes. -/
def blockPart (a n i : Nat) : Nat × Nat :=
  let lo := max a ((a / 512 + i) * 512)
  (lo, min (a + n) ((a / 512 + i + 1) * 512) - lo)

/-- A remote request of a store. -/
def isAccess (k : Packet) : Bool := k.ptype == tWrite || k.ptype == tRead || k.ptype == tAtomic

/-- The port at which a request awaits its next slot. -/
def reqPort (o : OutPkt) : Nat := portOf (blockPart o.pkt.addr (reqLen o.pkt) o.done).1

/-- The ports at which a request still needs slots. -/
def reqPorts (o : OutPkt) : List Nat :=
  ((List.range ((o.pkt.addr + reqLen o.pkt + 511) / 512 - o.pkt.addr / 512)).drop o.done).map (fun i =>
    portOf (blockPart o.pkt.addr (reqLen o.pkt) i).1)

/-- A request comes before another at its port, or is a READ of the same source before a READ, whose responses come in order
(R329). -/
def reqBefore (a b : OutPkt) : Bool :=
  isAccess a.pkt && decide (a.via.stamp < b.via.stamp)
  && ((reqPorts a).contains (reqPort b) || (a.pkt.ptype == tRead && b.pkt.ptype == tRead && a.pkt.src == b.pkt.src))

/-- The requests that no other one comes before. -/
def nextReqs (s : State) : List OutPkt :=
  s.fabric.local_.filter (fun o => isAccess o.pkt && o.whole && !s.fabric.local_.any (fun x => reqBefore x o))

/-- The first request of a type that is served next. -/
def nextReq (s : State) (t : Nat) : Option OutPkt := firstCome ((nextReqs s).filter (fun o => o.pkt.ptype == t))

/-- The first request that is served next at a port. -/
def reqAtPort (s : State) (p : Nat) : Option OutPkt := firstCome ((nextReqs s).filter (fun o => reqPort o == p))

/-- The number of fc that host and Ralso transfers have waited at the access port without a slot (R253). -/
def outWaited (s : State) : Nat :=
  match s.herd.outAt with
  | some t => s.now - t
  | none => 0

/-- The slot of this fc at the access port goes to a host or Ralso transfer: the last three went to channels (R253). -/
def outDue (s : State) (p : Nat) : Bool := p == 512 && decide (3 ≤ outWaited s)

/-- The ready channels that may have a port's slot before an access from outside: at the access port no merge may take the
slot that has to go outside (R253). -/
def portRequests (s : State) (p : Nat) : List Request :=
  if outDue s p then []
  else if p = 512 ∧ outWaited s = 2 then (requestsAt s p).filter (fun r => r.want.slots == 1)
  else requestsAt s p

/-- A BAR2 access waits with the next slot at a port; `done` gives its next block. -/
def bar2Port (b : Bar2) : Nat := portOf (blockPart b.addr b.len b.done).1

/-- The first BAR2 access that waits for a port: behind an earlier one of its function it waits for that. -/
def bar2At (s : State) (p : Nat) : Option Bar2 :=
  (s.host.bar2.zipIdx.find? (fun x => !x.1.bar0 && bar2Port x.1 == p
    && !(s.host.bar2.take x.2).any (fun y => y.func == x.1.func))).map (·.1)

/-- The fc from which the host transfer in progress waits for a slot of a port. -/
def xferAt (s : State) (p : Nat) : Option Nat :=
  match s.host.xfer with
  | some x => if x.asks && x.fault.isNone && portOf (bits x.cmd.w0 22 0 * 512 + 512 * x.moved) == p then some x.since else none
  | none => none

/-- The first fc from which an access of the host waits for a slot of a port. -/
def hostSince (s : State) (p : Nat) : Option Nat :=
  match bar2At s p, xferAt s p with
  | some b, some t => some (min b.since t)
  | some b, none => some b.since
  | none, r => r

/-- A remote request may take the port's slot: the port is free, no channel is ready, and at the access port no access of
the host came earlier (R186, R253). -/
def remoteTurn (s : State) (p since : Nat) : Bool :=
  portFree s p && (portRequests s p).isEmpty
  && (p != 512 || (match hostSince s p with | some t => decide (since ≤ t) | none => true))

/-- An access of the host may take the port's slot: no channel is ready, and no remote request awaits it; at the access port
none that came earlier (R186, R253). -/
def hostTurn (s : State) (p since : Nat) : Bool :=
  portFree s p && (portRequests s p).isEmpty
  && (match reqAtPort s p with
      | some o => p == 512 && decide (since < o.since)
      | none => true)

/-- Slots that the block of an access takes: a write of a part of a block is a merge (R182). -/
def slotsFor (write : Bool) (n : Nat) : Nat := if write && n != 512 then 2 else 1

/-- A port's slots are taken by an access from outside; the herd store counts them (R253). -/
def takeSlot (s : State) (a n : Nat) : State :=
  let s1 := countSlots (touchDom (takePort s (portOf a) n) a) a n
  if region a = .herd then
    ({ s1 with herd := { s1.herd with outAt := s1.herd.outAt.map (fun _ => s.now + 1) } }).bump slotHerd 0x060 n
  else s1

/-! ### Remote requests (R328 to R332) -/

/-- What becomes of a block of an access from outside before it is made: an answer, a wait, or its slot. -/
inductive Entry
  | answer (status : Nat)
  | wake (d : Nat)
  | wait
  | go
  deriving DecidableEq, Repr

/-- Reach of `n` bytes from `a` (14_power_clocks.md R383; 16_faults_recovery.md R422), and a slot of the port in its turn. -/
def reachEntry (s : State) (a n : Nat) (turn : Bool) : Entry :=
  let r1 := s.reach a
  let r2 := s.reach (a + n - 1)
  if r1 == .hurdle || r2 == .hurdle then .answer 5
  else if r1 == .closed || r2 == .closed || r1 == .reserved || r2 == .reserved then .answer 2
  else if r1 == .wait then .wake ((storeDom a).getD 26)
  else if r2 == .wait then .wake ((storeDom (a + n - 1)).getD 26)
  else if turn then .go else .wait

/-- Admission of a request (R332; 01_device_overview.md R24), then its next block. -/
def requestEntry (s : State) (o : OutPkt) (permBit : Nat) : Entry :=
  let a := o.pkt.addr
  let n := reqLen o.pkt
  if n = 0 || !rangeOk a n false then .answer 2
  else if o.done = 0 ∧ !admitsRange s o.pkt.src permBit a n then .answer 1
  else if s.hurdled .module then .answer 5
  else
    let p := blockPart a n o.done
    reachEntry s p.1 p.2 (remoteTurn s (portOf p.1) o.since)

/-- A request ends with an ACK. -/
def ackWith (s : State) (o : OutPkt) (status : Nat) : State :=
  let s1 := dropLocal s o
  let s2 := if status = 1 then (s1.bump slotRoute 0x058 1).pulse slotRoute 1
    else if status = 3 then s1.bump slotRoute 0x060 1 else s1
  respond s2 (ackOf s2 o.pkt status)

/-- A request goes on with its next block. -/
def withEntry (s : State) (o : OutPkt) (permBit : Nat) (go : State → Nat → Nat → State) : State :=
  match requestEntry s o permBit with
  | .answer c => ackWith s o c
  | .wake d => startWake s d
  | .wait => s
  | .go =>
    let p := blockPart o.pkt.addr (reqLen o.pkt) o.done
    go (takeSlot s p.1 (slotsFor (o.pkt.ptype != tRead) p.2)) p.1 p.2

/-- A request has had the slot of one more block. -/
def oneDone (s : State) (o : OutPkt) (k : Packet) : State :=
  s.mapFabric (fun f => { f with local_ := f.local_.map (fun x => if x = o then { o with pkt := k, done := o.done + 1 } else x) })

/-- The next block is the request's last. -/
def lastBlock (o : OutPkt) : Bool := (reqPorts o).length ≤ 1

/-- What writing a payload gives block by block: the status with which it is refused (R328, R182). -/
def writeStatus (m : Memory) (a : Nat) (data : List Byte) (checks : List Word) : Nat :=
  (((blocksOf a data.length).zipIdx).findSome? (fun b =>
    let p := partIn a data b.1
    if p.2.length = 512 then (if blockCheck p.2 = wd checks b.2 then none else some 3)
    else match m.mergeVerify b.1 p.1 p.2.length with
      | .good => none
      | .poisoned _ => some 4
      | .mismatch _ => some 3)).getD 0

/-- WRITE_RECEIVE (R328, R332): the packet takes effect with the slot of its last block. -/
def writeReceive (s : State) (o : OutPkt) : State :=
  withEntry s o 30 (fun u _ _ =>
    if !lastBlock o then oneDone u o o.pkt else
    match writeStatus u.mem o.pkt.addr o.pkt.data o.pkt.checks with
    | 0 => ackWith (u.mapMem (fun m => m.put o.pkt.addr o.pkt.data)) o 0
    | c => ackWith u o c)

/-- The request of a type that is served next. -/
def withNext (s : State) (t : Nat) (go : State → OutPkt → State) : State :=
  match nextReq s t with
  | some o => go s o
  | none => s

def execWriteReceive (s : State) : Res := .next (withNext s tWrite writeReceive)

/-- A READ's answer: READ_DATA with the check values of the blocks that it covers whole (R329). -/
def readData (s : State) (o : OutPkt) (k : Packet) : Packet :=
  { ackOf s k 0 with ptype := tReadData, addr := o.pkt.addr, len := k.len, data := k.data, checks := k.checks }

/-- READ_RECEIVE (R329): every block is verified as it leaves. -/
def readReceive (s : State) (o : OutPkt) : State :=
  withEntry s o 29 (fun u a n =>
    match u.mem.verify (a / 512) with
    | .poisoned _ => ackWith u o 4
    | .mismatch _ => ackWith u o 3
    | .good =>
      let k := { o.pkt with data := o.pkt.data ++ u.mem.readN a n
                            checks := o.pkt.checks ++ [if n = 512 then u.mem.check (a / 512) else 0] }
      if lastBlock o then respond (dropLocal u o) (readData u o k) else oneDone u o k)

def execReadReceive (s : State) : Res := .next (withNext s tRead readReceive)

/-- Adds of an ATOMIC, in element order (R330; 05_accumulation.md R120). -/
def atomicGo (fmt : Nat) : Memory → Nat → List Byte → Nat → Memory
  | m, _, _, 0 => m
  | m, a, bs, n + 1 =>
    let size := if fmt = 0 then 12 else 4
    let x := bs.take size
    let new := if fmt = 0 then
        let old := (w64List (m.words a 3)).headD W64.zero
        wordsBytes ({ old.add ((w64List (leWords x)).headD W64.zero) with arrival := true }).words
      else if fmt = 1 then leBytes 4 (fAdd (m.word a) (leWord x)).toNat
      else leBytes 4 (m.word a + leWord x).toNat
    atomicGo fmt (m.put a new) (a + (if fmt = 0 then 16 else 4)) (bs.drop size) n

/-- ATOMIC_RECEIVE (R330): the block is read, added to and written, over the two slots of a merge. -/
def atomicReceive (s : State) (o : OutPkt) : State :=
  withEntry s o 28 (fun u _ _ =>
    if !lastBlock o then oneDone u o o.pkt else
    let a := o.pkt.addr
    if a % (if o.pkt.opx = 0 then 16 else 4) ≠ 0 then ackWith u o 8 else
    match (u.mem.verifyRange a (reqLen o.pkt)).1 with
    | .poisoned _ => ackWith u o 4
    | .mismatch _ => ackWith u o 3
    | .good =>
      ackWith (u.mapMem (fun m => atomicGo o.pkt.opx m a o.pkt.data (o.pkt.data.length / (if o.pkt.opx = 0 then 12 else 4)))) o 0)

def execAtomicReceive (s : State) : Res := .next (withNext s tAtomic atomicReceive)

/-- The first doorbell before which the same source has sent no WRITE or ATOMIC that has still to take effect (R331). -/
def nextBell (s : State) : Option OutPkt :=
  firstCome (s.fabric.local_.filter (fun o => o.pkt.ptype == tDoorbell
    && !s.fabric.local_.any (fun x => (x.pkt.ptype == tWrite || x.pkt.ptype == tAtomic) && x.pkt.src == o.pkt.src
      && decide (x.via.stamp < o.via.stamp))))

/-- DOORBELL_RECEIVE (R331, R332): an admitted doorbell waits to be handed over. -/
def doorbellReceive (s : State) : State :=
  match nextBell s with
  | none => s
  | some o =>
    if !admitsBell s o.pkt.src o.pkt.opx then ackWith s o 1
    else if s.hurdled .module then ackWith s o 5
    else (dropLocal s o).mapFabric (fun f => { f with bells := f.bells ++ [(o.pkt.src, o.pkt.rtag, o.pkt.opx)] })

def execDoorbellReceive (s : State) : Res := .next (doorbellReceive s)

/-- The submission that a template records, at a doorbell (09_drover_graphs.md R230). -/
def tmplCmd (s : State) (t : Template) : Cmd :=
  { queue := t.queue, sess := t.sess, w0 := fld 1 24 ||| w32 t.image, w1 := fld t.cookie 16 ||| w32 t.ctx
    w2 := w32 t.dline, w3 := 0, bell := s.ac, tmpl := true }

/-- DOORBELL_HANDOVER (R331; 09_drover_graphs.md R230; 13_host_sessions.md R363). -/
def doorbellHandover (s : State) : State :=
  match s.fabric.bells with
  | [] => s
  | (src, rtag, t) :: rest =>
    if !netRuns s then startWake s 26 else
    let s1 := s.mapFabric (fun f => { f with bells := rest })
    let req : Packet := { Packet.zero with src := src, rtag := rtag }
    match Tbl.get s.drover.templates t with
    | some x =>
      if (s.queue x.queue).enable then
        respond (s1.mapDrover (fun d => { d with cmds := d.cmds ++ [tmplCmd s x] })) (ackOf s1 req 0)
      else respond (s1.bump slotDrvr 0x070 1) (ackOf s1 req 6)
    | none => respond (s1.bump slotDrvr 0x070 1) (ackOf s1 req 6)

def execDoorbellHandover (s : State) : Res := .next (doorbellHandover s)

/-! ### Responses (R329, R333, R334) -/

def pendOf (s : State) (rtag : BitVec 16) : Option Pending := s.fabric.pend.find? (fun p => p.rtag == rtag)

def dropPend (s : State) (p : Pending) : State := s.mapFabric (fun f => { f with pend := dropFirst p f.pend })

/-- The block that a head which catches up has read enters its ring, from which the head sends it on as though it had arrived
(08_drove_chains.md R216). -/
def caughtUp (s : State) (p : Pending) (k : Packet) : State :=
  match (s.core p.core).chSlot p.ch with
  | none => s
  | some v =>
    if v.gen != p.gen || !lacks v p.seq then s else
    ringPut (s.bump (slotDrove p.core) 0x050 1) p.core p.ch v
      { entry := 0, gen := p.gen, seq := p.seq, addr := p.addr, data := k.data, check := wd k.checks 0, poison := []
        src := none, sent := false, used := false }

/-- A block that READ_DATA covers whole does not have its carried check value (R329). -/
def carriedBad (a : Nat) (k : Packet) : Option Word :=
  ((blocksOf a k.data.length).zipIdx).findSome? (fun b =>
    let p := partIn a k.data b.1
    if p.2.length = 512 ∧ blockCheck p.2 ≠ wd k.checks b.2 then some (blockCheck p.2) else none)

/-- Bytes for a write channel join those that it has still to take (R329). -/
def deliver (s : State) (p : Pending) (bytes : List Byte) : State :=
  let mine := fun (x : Inbox) => x.core == p.core && x.ch == p.ch && x.task == p.task
  let l := s.fabric.inbox
  let more := if l.any mine then l.map (fun x => if mine x then { x with bytes := x.bytes ++ bytes } else x)
    else l ++ [⟨p.core, p.ch, p.task, bytes⟩]
  s.mapFabric (fun f => { f with inbox := more })

/-- READ_DATA_RECEIVE (R329): the blocks that it covers whole are compared with their carried values before any
byte is handed on. -/
def readDataReceive (s : State) : State :=
  match localOf s tReadData with
  | none => s
  | some o =>
    let s1 := dropLocal s o
    match pendOf s o.pkt.rtag with
    | none => s1
    | some p =>
      let s2 := dropPend s1 p
      match carriedBad p.addr o.pkt with
      | some x => taskFault ((s2.bump (slotStrm p.core) 0x050 1).pulse (slotStrm p.core) 3) (slotStrm p.core) p.task
               (some p.core) 0x0002 (some p.addr) (w32 p.ch) x
      | none => pull (if p.kind = 2 then caughtUp s2 p o.pkt else deliver s2 p o.pkt.data) p.core

def execReadDataReceive (s : State) : Res := .next (readDataReceive s)

/-- ACK_RECEIVE (R333): a status other than OK aborts the source task. -/
def ackReceive (s : State) : State :=
  match localOf s tAck with
  | none => s
  | some o =>
    let s1 := dropLocal s o
    match pendOf s o.pkt.rtag with
    | none => s1
    | some p =>
      let s2 := dropPend s1 p
      if o.pkt.opx = 0 then s2
      else ralsoFault s2 p.port p.core p.task 0x0602 p.node (pendAddr p) (w32 o.pkt.opx) (p.rtag.setWidth 32)

def execAckReceive (s : State) : Res := .next (ackReceive s)

/-- RALSO_TIMEOUT (R334): the timer of a request that has been sent has run out. -/
def ralsoTimeout (s : State) (rtag : BitVec 16) : State :=
  match pendOf s rtag with
  | none => s
  | some p =>
    match p.ends with
    | none => s
    | some e =>
      if s.now < e then s else
      ralsoFault ((dropPend s p).pulse (slotLink p.port) 0) p.port p.core p.task 0x0603 p.node (pendAddr p)
        (w32 (pendType p)) (p.rtag.setWidth 32)

def execRalsoTimeout (rtag : BitVec 16) (s : State) : Res := .next (ralsoTimeout s rtag)

/-! ### Multicast (R335, R336) -/

/-- The head of the chain that takes a multicast group: core, slot number and slot (08_drove_chains.md R216). -/
def headOfGroup (s : State) (g : Nat) : Option (Nat × Nat × ChSlot) :=
  s.cores.findSome? (fun c =>
    (c.2.drove.find? (fun p => p.2.desc.fabric && p.2.pos == 0 && p.2.desc.group == g)).map (fun p => (c.1, p.1, p.2)))

def mcStall (s : State) : Nat := bits (s.reg slotRoute 0x04C) 15 0

/-- A branch is pruned for a generation of a group: its blocks that wait go, and PRUNES counts (R336). -/
def pruneBranch (s : State) (g gen port : Nat) : State :=
  if pruned s g gen port then s else
  let keep := fun (x : OutPkt) => !(x.pkt.ptype == tMcBlock && x.pkt.group == g && x.pkt.gen == gen && x.sent == 0)
  let s1 := s.mapFabric (fun f => { f with
    prunes := f.prunes ++ [(g, gen, port)]
    local_ := if port = 6 then f.local_.filter keep else f.local_ })
  let s2 := if port = 6 then s1 else s1.setPort port { s1.port port with outQ := (s1.port port).outQ.filter keep }
  settle (s2.bump slotRoute 0x064 1)

/-- Blocks of a generation that a head has received in sequence. -/
def heldOf (v : ChSlot) (gen : Nat) : Nat := if v.recvGen = gen ∧ v.wr ≠ 0 then v.recvSeq + 1 else 0

/-- A block that has arrived for the head: it enters the ring, where a new generation attaches a detached head again; a head
is detached where the sequence skips (R336; 08_drove_chains.md R211, R214). -/
def headTakes (s : State) (c i : Nat) (v : ChSlot) (k : Packet) : State :=
  let b : ChBlock := { entry := 0, gen := k.gen, seq := k.seq, addr := k.addr, data := k.data, check := wd k.checks 0
                       poison := [], src := if k.seq = 0 then some ⟨k.addr, none⟩ else none, sent := false, used := false }
  if v.detached then (if rejoins s v b then ringPut s c i (v.attach k.gen) b else s)
  else if k.seq ≠ 0 ∧ k.seq ≠ heldOf v k.gen then detachMember s c i v k.gen (heldOf v k.gen)
  else ringPut s c i v b

/-- The head's ring has no room for a block, or its near port no slot. -/
def headFull (s : State) (c : Nat) (v : ChSlot) : Bool := decide (v.ringSize ≤ v.ring.length) || !portFree s (2 * c)

/-- The local branch of a copy waits for room in the head's ring (R336). -/
def localWaits (s : State) (o : OutPkt) : Bool :=
  match headOfGroup s o.pkt.group with
  | some (c, _, v) => o.pkt.ptype == tMcBlock && !s.hurdled (.core (coreOf c)) && decide (v.ringSize ≤ v.ring.length)
  | none => false

/-- A copy has waited MCAST_STALL fc without a break (R336). -/
def stalledOut (s : State) (o : OutPkt) : Bool :=
  match o.waitAt with
  | some t => decide (t + mcStall s ≤ s.now)
  | none => false

/-- MC_BLOCK_RECEIVE (R335): where the ring has no room the copy waits, and after MCAST_STALL fc the local branch
is pruned. A copy for which the module has no chain is dropped (08_drove_chains.md R216). -/
def mcBlockReceive (s : State) : State :=
  match localOf s tMcBlock with
  | none => s
  | some o =>
    match headOfGroup s o.pkt.group with
    | none => countNoRoute (dropLocal s o)
    | some (c, i, v) =>
      if s.hurdled (.core (coreOf c)) then dropLocal s o
      else if headFull s c v then (if stalledOut s o then pruneBranch s o.pkt.group o.pkt.gen 6 else s)
      else headTakes (dropLocal s o) c i v o.pkt

def execMcBlockReceive (s : State) : Res := .next (mcBlockReceive s)

/-- MC_MARKER_RECEIVE (R336): a marker beyond the blocks that the head holds in sequence detaches it. -/
def mcMarkerReceive (s : State) : State :=
  match localOf s tMcMarker with
  | none => s
  | some o =>
    let s1 := dropLocal s o
    match headOfGroup s o.pkt.group with
    | none => countNoRoute s1
    | some (c, i, v) =>
      if s.hurdled (.core (coreOf c)) then s1 else
      let m : ChMark := ⟨o.pkt.opx == 2, o.pkt.gen, o.pkt.seq, false⟩
      let s3 := forwardMark (takeMark s1 c i v m) c v m
      if heldOf v m.gen < m.n ∧ !v.detached ∧ !v.past m.gen then
        match (s3.core c).chSlot i with
        | some w => detachMember s3 c i w m.gen (heldOf v m.gen)
        | none => s3
      else s3

def execMcMarkerReceive (s : State) : Res := .next (mcMarkerReceive s)

/-- MCAST_PRUNE (R336): the first block that has waited MCAST_STALL fc for credit on an output port. -/
def mcastPrune (s : State) (p : Nat) : State :=
  match (s.port p).outQ.find? (fun o => o.pkt.ptype == tMcBlock && stalledOut s o) with
  | none => s
  | some o => pruneBranch s o.pkt.group o.pkt.gen p

def execMcastPrune (p : PortId) (s : State) : Res := .next (mcastPrune s p.val)

/-! ### The link layer (R314 to R317) -/

/-- A link leaves UP: the DOWN event pulses (Table 12-15). -/
def leaveUp (s : State) (p : Nat) (st : LinkSt) : State :=
  let v := s.port p
  let s1 := s.setPort p { v with st := st }
  if v.st = .up then s1.pulse (slotLink p) 2 else s1

/-- The link retrains (R316). -/
def startRetrain (s : State) (p : Nat) : State :=
  let s1 := leaveUp s p .retrain
  (s1.setPort p { s1.port p with trainAt := s.now, naks := 0, rxNaks := 0 }).bump (slotLink p) 0x04C 1

/-- The CRC of a flit is that of its content. -/
def flitGood (f : Flit) : Bool :=
  f.words.toList.getD 15 0 == crc32 (wordsBytes (f.words.toList.take 15))

/-- Codewords up to and with a sequence number have been received: they leave the replay buffer. -/
def ackedTo (l : List Codeword) (seq : BitVec 12) : List Codeword :=
  match l.findIdx? (fun w => seqOf w == seq) with
  | some i => l.drop (i + 1)
  | none => l

/-- The receiver names a codeword to be sent again (R315, R316): codewords are sent from it on. -/
def nakReceive (s : State) (p : Nat) (seq : BitVec 12) : State :=
  let v := s.port p
  if v.st != .up then s else
  let l := ackedTo v.replay (seq - 1)
  let n := if v.nakSeq = seq ∧ v.naks ≠ 0 then v.naks + 1 else 1
  let s1 := ((s.setPort p { v with replay := l, nakSeq := seq, naks := n }).bump (slotLink p) 0x064 1).pulse (slotLink p) 1
  if 8 ≤ n then startRetrain s1 p else l.foldl (fun u w => u.emit (.codeword p w)) s1

/-- NAK_RECEIVE (R315, R316). -/
def execNakReceive (p : PortId) (seq : BitVec 12) (s : State) : Res := .next (nakReceive s p.val seq)

/-- Credits at the sizes of Table 12-4. -/
def fullCredits : List Nat := [512, 512, 512, 512, 512, 512, 64]

/-- A control flit takes effect (R317, Table 12-3). -/
def takeControl (s : State) (p : Nat) (ws : List Word) : State :=
  let v := s.port p
  let back := (List.range 7).map (fun i => bits (wd ws (1 + i / 4)) (8 * (i % 4) + 7) (8 * (i % 4)))
  let credits := if bit (wd ws 0) 27 then fullCredits else (v.credits.zip back).map (fun x => x.1 + x.2)
  let seq : BitVec 12 := (wd ws 0).setWidth 12
  let s1 := s.setPort p { v with credits := credits }
  if bit (wd ws 0) 26 then nakReceive s1 p seq
  else s1.setPort p { s1.port p with replay := ackedTo v.replay seq, naks := 0 }

/-- A payload with the bytes of one more data flit; the last flit's padding is no part of it (R314). -/
def withData (k : Packet) (bytes : List Byte) (last : Bool) : Packet :=
  let d := k.data ++ bytes
  { k with data := if last && k.ptype != tMgmt then d.take k.len else d }

def OutPkt.withData (o : OutPkt) (stamp : Nat) (bytes : List Byte) (last : Bool) : OutPkt :=
  if o.via.stamp = stamp then { o with pkt := Sys2Proof.Machine.withData o.pkt bytes last } else o

/-- The bytes of a data flit join the packet in its buffer and every copy of it (R337). -/
def spread (s : State) (stamp : Nat) (bytes : List Byte) (last : Bool) : State :=
  let s1 := (List.range 6).foldl (fun u q =>
    let v := u.port q
    u.setPort q { v with
      rx := v.rx.map (fun r => if r.stamp = stamp then { r with pkt := withData r.pkt bytes last, left := r.left - 1 } else r)
      outQ := v.outQ.map (fun o => o.withData stamp bytes last) }) s
  s1.mapFabric (fun f => { f with local_ := f.local_.map (fun o => o.withData stamp bytes last) })

/-- A data flit of the packet in progress; the last one completes it. -/
def takeData (s : State) (p : Nat) (bytes : List Byte) : State :=
  let v := s.port p
  match v.partial_.bind (fun st => v.rx.find? (fun r => r.stamp == st)) with
  | none => s
  | some r =>
    let s1 := spread (countFlits (s.bump (slotLink p) 0x054 1) p 2 r.vc 1) r.stamp bytes (r.left ≤ 1)
    if r.left ≤ 1 then settle (s1.setPort p { s1.port p with partial_ := none }) else s1

/-- A header flit: its packet enters the buffer of its channel, and may be forwarded at once (R337). -/
def takeHeader (s : State) (p : Nat) (ws : List Word) : State :=
  let h := parseHeader ws
  let s1 := touchPort (countFlits ((dropPartial s p).bump (slotLink p) 0x054 1) p 2 h.1.vc 1) p
  let st := s1.fabric.stamp
  let v := s1.port p
  (nextStamp s1).setPort p { v with
    rx := v.rx ++ [⟨h.1, h.1.vc, st, h.2, false, 1 + h.2⟩], partial_ := if h.2 = 0 then none else some st }

/-- One good flit (R314): a data flit of the packet in progress, a control flit, a header flit, or one that says nothing. -/
def takeFlit (s : State) (p : Nat) (f : Flit) : State :=
  let ws := f.words.toList.take 15
  if f.data then takeData s p (wordsBytes ws)
  else match bits (wd ws 0) 31 28 with
    | 0 => s
    | 1 => takeControl s p ws
    | t => if t ≤ tMgmt then takeHeader s p ws else s

/-- A codeword is refused: it is discarded with all that follow until the replay, and a NAK is sent (R315). -/
def refuseCodeword (s : State) (p : Nat) : State :=
  let v := s.port p
  let s1 := sendNak (s.setPort p { v with discard := true, rxNaks := v.rxNaks + 1 }) p
  if 8 ≤ v.rxNaks + 1 then startRetrain s1 p else s1

/-- CODEWORD_RECEIVE (R315). -/
def codewordReceive (s : State) (p : Nat) (fec : Fec) (w : Codeword) : State :=
  let v := s.port p
  if v.st != .up then s else
  match fec with
  | .uncorrectable =>
    if v.discard ∧ seqOf w ≠ v.rxSeq then s.bump (slotLink p) 0x05C 1 else refuseCodeword (s.bump (slotLink p) 0x05C 1) p
  | _ =>
    let s1 := if fec = .corrected then s.bump (slotLink p) 0x058 1 else s
    if seqOf w ≠ v.rxSeq then (if v.discard then s1 else refuseCodeword s1 p) else
    let bad := (w.flits.filter (fun f => !flitGood f)).length
    if bad ≠ 0 then refuseCodeword (s1.bump (slotLink p) 0x060 bad) p
    else
      let s2 := s1.setPort p { v with rxSeq := v.rxSeq + 1, discard := false, rxNaks := 0 }
      sendControl (w.flits.foldl (fun u f => takeFlit u p f) s2) p

def execCodewordReceive (p : PortId) (fec : Fec) (w : Codeword) (s : State) : Res :=
  .next (codewordReceive s p.val fec w)

/-- CONTROL_FLIT_RECEIVE (R317, Table 12-3). -/
def controlFlitReceive (s : State) (p : Nat) (f : Flit) : State :=
  if (s.port p).st != .up then s
  else if !flitGood f then s.bump (slotLink p) 0x060 1
  else if f.data || bits (wd f.words.toList 0) 31 28 != 1 then s
  else takeControl s p f.words.toList

def execControlFlitReceive (p : PortId) (flit : Flit) (s : State) : Res := .next (controlFlitReceive s p.val flit)

/-- The packets that wait for a port are dropped and answered (R324, 14_power_clocks.md R386). -/
def dropQueued (s : State) (p : Nat) : State :=
  let q := (s.port p).outQ
  settle (q.foldl (fun u o =>
    let u1 := countNoRoute u
    if isRequest o.pkt.ptype then respond u1 (ackOf u1 o.pkt 7) else u1) (s.setPort p { s.port p with outQ := [] }))

/-- The link goes DOWN. -/
def linkFalls (s : State) (p : Nat) : State :=
  let s1 := leaveUp s p .down
  dropQueued (dropPartial (s1.setPort p { s1.port p with replay := [] }) p) p

/-- RETRAIN_TIMEOUT (R316): 100 µs, 200,000 fc, without UP. -/
def retrainTimeout (s : State) (p : Nat) : State :=
  if (s.port p).st == .retrain && s.acSince (s.port p).trainAt 5000 then linkFalls s p else s

def execRetrainTimeout (p : PortId) (s : State) : Res := .next (retrainTimeout s p.val)

/-! ### Training and link state (R339 to R341) -/

def linkEnabled (s : State) (p : Nat) : Bool := bit (s.reg (slotLink p) 0x008) 26

/-- Training starts (R339). -/
def startTraining (s : State) (p : Nat) : State :=
  let s1 := leaveUp s p .training
  (s1.setPort p { s1.port p with trainAt := s.now }).bump (slotLink p) 0x04C 1

/-- The peer is the neighbour that the port's direction names (R311, R339). -/
def peerRight (s : State) (p : Nat) (r : TrainResult) : Bool :=
  let d := p / 2
  let n := dimSize s d
  let me := coordIn (selfNode s) d
  let want := if p % 2 = 0 then (me + 1) % n else (me + n - 1) % n
  selfValid s && r.port.val == (if p % 2 = 0 then p + 1 else p - 1) && coordIn r.coord d == want
  && (List.range 3).all (fun e => e == d || coordIn r.coord e == coordIn (selfNode s) e)

/-- TRAINING_COMPLETE (R339, R316): UP, MISWIRED or DOWN. A retrained link resumes with the codeword last NAKed; for another
one credits begin anew, so that packets it brought before return none. -/
def trainingComplete (s : State) (p : Nat) (r : Option TrainResult) : State :=
  let v := s.port p
  let again := v.st == .retrain
  if v.st != .training && !again then s else
  match r with
  | none => if again then s else s.setPort p { v with st := .down }
  | some t =>
    let v1 := { v with st := if peerRight s p t then .up else .miswired, reversed := t.reversed, peerPort := t.port.val
                       peer := t.coord, polLo := t.polLo, polHi := t.polHi, naks := 0, rxNaks := 0 }
    if again then
      let l := ackedTo v.replay (v.nakSeq - 1)
      if v1.st = .up then l.foldl (fun u w => u.emit (.codeword p w)) (s.setPort p { v1 with replay := l }) else s.setPort p v1
    else
      touchPort (s.setPort p { v1 with txSeq := 0, rxSeq := 0, replay := [], credits := fullCredits, discard := false
                                       rx := v1.rx.map (fun r => { r with flits := 0 }), freed := [0, 0, 0, 0, 0, 0, 0] }) p

def execTrainingComplete (p : PortId) (r : Option TrainResult) (s : State) : Res := .next (trainingComplete s p.val r)

/-- LINK_DOWN (14_power_clocks.md R386): the peer naps, switches off or stops signalling. -/
def linkDown (s : State) (p : Nat) : State :=
  let st := (s.port p).st
  if st == .up || st == .retrain || st == .miswired then linkFalls s p else s

def execLinkDown (p : PortId) (s : State) : Res := .next (linkDown s p.val)

/-- PEER_STARTS_TRAINING (15_startup_module_edge.md R404). -/
def peerStartsTraining (s : State) (p : Nat) : State :=
  if (s.port p).st == .down && linkEnabled s p && portRuns s p then startTraining s p else s

def execPeerStartsTraining (p : PortId) (s : State) : Res := .next (peerStartsTraining s p.val)

/-- A write to LINK.CTRL of a port page: ENABLE = 0 holds the link DOWN, TRAIN starts training (Table 12-14). -/
def linkCtrl (s : State) (p : Nat) (v : Word) : State :=
  let s1 := s.setReg (slotLink p) 0x008 (v &&& 0x84000000)
  if !bit v 26 then (if (s1.port p).st = .down then s1 else linkFalls s1 p)
  else if bit v 27 then startTraining s1 p
  else s1

/-! ### The routing page (R322, R341) -/

def allDown (s : State) : Bool := (List.range 6).all (fun p => (s.port p).st == .down)

def fabricConfig (s : State) (off : Nat) (v : Word) : State :=
  s.fault slotRoute { code := 0x0604, d0 := w32 off, d1 := v }

/-- The six port domains leave off (15_startup_module_edge.md R404). -/
def powerPorts (s : State) : State :=
  (List.range 6).foldl (fun u p =>
    if (u.dom (16 + p)).st = .off ∧ (u.dom (16 + p)).waking = false ∧ (u.dom (16 + p)).target = none then startOn u (16 + p) else u) s

/-- A write of SELF (R341; 15_startup_module_edge.md R404). -/
def selfWrite (s : State) (v : Word) : State :=
  if !allDown s then fabricConfig s 0x040 v else
  let was := selfValid s
  let s1 := s.setReg slotRoute 0x040 (v &&& 0x8000FFFF)
  if bit v 31 && !was then powerPorts s1 else s1

/-- A write of DIMS (R341); the field widths hold every size within the limits of R320. -/
def dimsWrite (s : State) (v : Word) : State :=
  if !allDown s then fabricConfig s 0x044 v else s.setReg slotRoute 0x044 (v &&& 0x0000FFFF)

/-- INDEX of the route table moves on after an access where AUTOINC is set. -/
def rtAdvance (s : State) : State :=
  let i := s.reg slotRoute 0x050
  if bit i 31 then s.hardReg slotRoute 0x050 (flag true 31 ||| w32 ((bits i 11 0 + 1) % 4096)) else s

/-- A write of RT_DATA (Table 12-5). -/
def rtWrite (s : State) (v : Word) : State :=
  let i := bits (s.reg slotRoute 0x050) 11 0
  let e := v &&& 0xC00000FF
  rtAdvance (s.mapFabric (fun f => { f with routes := if e = 0 then Tbl.del f.routes i else Tbl.set f.routes i e }))

/-- What RT_DATA reads. -/
def rtRead (s : State) : Word := routeEntry s (bits (s.reg slotRoute 0x050) 11 0)

end Sys2Proof.Machine
end

