-- ==== Sys2Proof/Machine/Tally.lean ====
section
/-! DEFINITION. Tally records: creation, repetition and loss (17_sharal_tally.md R454 to R459). -/

namespace Sys2Proof.Machine

def State.mapSharal (s : State) (f : Sharal → Sharal) : State := { s with sharal := f s.sharal }

def State.mapTally (s : State) (f : Tally → Tally) : State :=
  s.mapSharal (fun h => { h with tally := f h.tally })

/-- SEQ as records and registers show it (R454): the model counts records from 1 without wrapping. -/
def seqView (n : Nat) : Nat := if n = 0 then 0 else (n - 1) % 0xFFFFFFFF + 1

/-- HOURS as time has raised it (R455). -/
def Tally.hour (t : Tally) : Nat := t.hours

/-- The record is open until 1 s after its creation (R458). -/
def tallyOpen (s : State) : Bool :=
  match s.sharal.tally.opened with
  | some t => decide (s.ac < t + 50000000)
  | none => false

/-- An occurrence repeats a record (R458). -/
def TRec.same (r : TRec) (code srcType srcInst : Nat) (addrs vals : List Word) : Bool :=
  r.code == code && r.srcType == srcType && r.srcInst == srcInst && r.addrs == addrs && r.vals == vals

/-- The newest record. -/
def Tally.newest (t : Tally) : Option TRec := t.recs.getLast?

/-- A new record, or a record dropped because the staging area is full (R459; Table 17-20). -/
def tallyCreate (s : State) (code srcType srcInst : Nat) (addrs vals : List Word) : State :=
  let t := s.sharal.tally
  if 512 ≤ t.staged then
    ((s.mapTally (fun t => { t with dropped := min 255 (t.dropped + 1) })).bump slotTally 0x04C 1).pulse slotTally 1
  else
    let r : TRec :=
      { seq := t.head + 1, hours := t.hour, cycles := t.cycles, code := code, dropped := t.dropped, repeats := 0
        first := s.ac48, last := s.ac48, addrs := addrs, vals := vals, srcType := srcType, srcInst := srcInst
        fw := s.sharal.fwVer, crcBad := false }
    (s.mapTally (fun t => { t with
      recs := t.recs ++ [r], staged := t.staged + 1, head := t.head + 1, opened := some s.ac, dropped := 0 })).pulse slotTally 0

/-- One occurrence: a repetition of the open record, or a new record (R458). -/
def tallyEvent (s : State) (code srcType srcInst : Nat) (addrs vals : List Word) : State :=
  let t := s.sharal.tally
  match t.newest with
  | some r =>
    if tallyOpen s && r.same code srcType srcInst addrs vals then
      s.mapTally (fun t => { t with
        recs := t.recs.dropLast ++ [{ r with repeats := min 0xFFFFFFFF (r.repeats + 1), last := s.ac48 }] })
    else tallyCreate s code srcType srcInst addrs vals
  | none => tallyCreate s code srcType srcInst addrs vals

/-- SMB_ALERT# for a source of R449, where SMB_CTRL.ALERT_EN enables it. -/
def smbAlert (s : State) (source : Nat) : State :=
  if bit (s.reg slotMgmt 0x240) source then s.mapPower (fun p => { p with alert := true }) else s

/-- A mandatory record (Table 17-13), of values that are not registers. A repetition writes none, and no alert (R449, R458). -/
def mandatory (s : State) (code : Nat) (vals : List Word) : State :=
  let s1 := tallyEvent s code (if code = 0x0802 then 0x40 else 0x41) 0 (vals.map (fun _ => 0xFFFFFFFF)) vals
  if s1.sharal.tally.head = s.sharal.tally.head then s1 else smbAlert s1 3

/-- The 31 words of a record before its CRC (Table 17-12). -/
def TRec.body (r : TRec) : List Word :=
  [ w32 (seqView r.seq), fld r.code 16 ||| fld r.vals.length 8 ||| w32 r.dropped, w32 r.hours, w32 r.cycles, w32 r.repeats,
    w32 r.first, w32 r.last, fld (r.first / 2 ^ 32 % 65536) 16 ||| w32 (r.last / 2 ^ 32 % 65536) ]
  ++ (List.range 8).map (fun i => wd r.addrs i) ++ (List.range 8).map (fun i => wd r.vals i)
  ++ [fld r.srcType 24 ||| w32 r.srcInst, r.fw, 0, 0, 0, 0, 0]

def TRec.words (r : TRec) : List Word :=
  let b := r.body
  b ++ [if r.crcBad then ~~~ crc32 (wordsBytes b) else crc32 (wordsBytes b)]

end Sys2Proof.Machine
end

