-- ==== Sys2Proof/Machine/Host.lean ====
section
/-! DEFINITION. The host port: keys, sessions, command queues, contexts, transfers and BAR2 accesses
(13_host_sessions.md R344 to R372). -/

namespace Sys2Proof.Machine

/-! ### Banked registers (R348) -/

/-- The register of HOST instance 0 at an offset in a function's bank. -/
def State.bank_ (s : State) (f off : Nat) : Word := Tbl.getD s.host.banked (f * 0x100 + off) 0

def State.setBank_ (s : State) (f off : Nat) (v : Word) : State :=
  s.mapHost (fun h => { h with banked := Tbl.set h.banked (f * 0x100 + off) v })

/-- SESS_STATUS of a function: a code of Table 13-10, with the session where it is OPEN. -/
def sessStatus (s : State) (f code sess : Nat) : State := s.setBank_ f 0x044 (fld code 28 ||| fld sess 16)

/-- A fault of HOST instance 0. -/
def hostFault (s : State) (code : Nat) (sess : Option Nat) (addr : Option Nat) (d0 d1 : Word) : State :=
  s.fault slotHost { code := code, sess := sess, addr := addr, d0 := d0, d1 := d1 }

/-! ### Closing (R358) -/

/-- Queues attached to a session. -/
def queuesOf (s : State) (n : Nat) : List Nat :=
  (s.host.queues.filter (fun p => p.2.sess == some n)).map (·.1)

/-- A queue is detached, with nothing left of it. -/
def detachQueue (s : State) (q : Nat) : State := s.mapHost (fun h => { h with queues := Tbl.del h.queues q })

/-- The instances bound to a session. -/
def boundTo (n : Nat) (i : Inst) : Bool := i.sess == n

/-- A session closes (R358). HOST records SESSION_CLOSED where the close aborts an instance: DEDUCED, log entry 20. -/
def closeSession (s : State) (cause n : Nat) : State :=
  match Tbl.get s.host.sessions n with
  | none => s
  | some x =>
    if x.closing then s else
    let s1 := (queuesOf s n).foldl detachQueue s
    let s2 := s1.mapHost (fun h => { h with
      sessions := Tbl.set h.sessions n { x with closing := true }
      cmds := h.cmds.filter (fun c => c.sess != n)
      xfer := match h.xfer with
        | some t => if t.cmd.sess = n then none else some t
        | none => none })
    let s3 := s2.mapDrover (fun d => { d with
      cmds := d.cmds.filter (fun c => c.sess != n), templates := d.templates.filter (fun t => t.2.sess != n) })
    let s4 := if s3.drover.insts.any (boundTo n) then
        hostFault s3 0x0701 (some n) none (w32 n) (w32 cause) else s3
    abortWhere s4 0x0701 (boundTo n)

/-- Every session that satisfies a test closes, in the order of their numbers. -/
def closeWhere (s : State) (cause : Nat) (p : Session → Bool) : State :=
  ((s.host.sessions.filter (fun x => p x.2)).map (·.1)).foldl (fun u n => closeSession u cause n) s

/-- SESSION_NUMBER_FREE (R358). -/
def sessionNumberFree (s : State) (n : Nat) : State :=
  match Tbl.get s.host.sessions n with
  | some x =>
    if x.closing && !s.drover.insts.any (boundTo n) then
      s.mapHost (fun h => { h with sessions := Tbl.del h.sessions n })
    else s
  | none => s

def execSessionNumberFree (n : Fin 256) (s : State) : Res := .next (sessionNumberFree s n.val)

/-! ### Opening (R354 to R356) -/

/-- The slot is locked (R356). -/
def slotLocked (s : State) (slot : Nat) : Bool :=
  match Tbl.get s.host.locks slot with
  | some e => decide (s.ac < e)
  | none => false

/-- The slot's failure count; it reads 0 when a lock has ended (R356). -/
def failCount (s : State) (slot : Nat) : Nat :=
  match Tbl.get s.host.locks slot with
  | some e => if s.ac < e then Tbl.getD s.host.fails slot 0 else 0
  | none => Tbl.getD s.host.fails slot 0

/-- The lowest session number that is free (R354). -/
def freeSession (s : State) : Option Nat :=
  (List.range 256).find? (fun n => (Tbl.get s.host.sessions n).isNone)

def reqSlot (v : Word) : Nat := bits v 12 8
def reqPriv (v : Word) : BitVec 3 := BitVec.ofNat 3 (bits v 18 16)

/-- The checks of R354 on a challenge, as a code of SESS_STATUS: BAD_REQUEST before LOCKED before FULL. DEDUCED,
log entry 21. -/
def challengeCode (s : State) (f slot : Nat) (priv : BitVec 3) : Option Nat :=
  match Tbl.get s.host.keys slot with
  | none => some 8
  | some k =>
    if (k.func != 0xFF && k.func != f) || priv == 0 || priv &&& ~~~k.priv != 0 then some 8
    else if slotLocked s slot then some 5
    else if (freeSession s).isNone then some 7
    else none

/-- CHALLENGE: a nonce for the values in SESS_REQ (R354). An earlier nonce of the function lapses (R355). -/
def challenge (s : State) (f : Nat) : State :=
  let v := s.bank_ f 0x040
  let s1 := s.mapHost (fun h => { h with nonces := Tbl.del h.nonces f })
  match challengeCode s f (reqSlot v) (reqPriv v) with
  | some c => sessStatus s1 f c 0
  | none =>
    let ws := (List.range 4).map (fun k => Config.nonceWord s.free k)
    let n : Nonce := { words := ws, slot := reqSlot v, priv := reqPriv v, at_ := s.ac }
    let s2 := (s1.mapHost (fun h => { h with nonces := Tbl.set h.nonces f n })).draw 1
    let s3 := (List.range 4).foldl (fun u k => u.setBank_ f (0x048 + 4 * k) (wd ws k)) s2
    sessStatus s3 f 2 0

/-- The message of R354: the nonce, then the parameter block of Table 13-4. -/
def challengeMsg (f : Nat) (n : Nonce) : List Byte :=
  wordsBytes (n.words ++ [w32 f ||| fld n.slot 8 ||| fld n.priv.toNat 16, 0, 0, 0])

/-- The answer in a function's bank. -/
def answerBytes (s : State) (f : Nat) : List Byte :=
  wordsBytes ((List.range 8).map (fun k => s.bank_ f (0x060 + 4 * k)))

/-- A wrong answer (R356). -/
def answerFails (s : State) (f slot : Nat) : State :=
  let n := failCount s slot + 1
  let s1 := (s.mapHost (fun h => { h with fails := Tbl.set h.fails slot n, locks := Tbl.del h.locks slot })).pulse slotHost 1
  let s2 := sessStatus s1 f 4 0
  if n < 8 then s2 else
    mandatory ((s2.mapHost (fun h => { h with locks := Tbl.set h.locks slot (s.ac + 3000000000) })).pulse slotHost 0)
      0x1007 [w32 slot, w32 f]

/-- ANSWER (R354 to R357). An answer on a slot that has been locked since its challenge shows LOCKED and counts
nothing: DEDUCED, log entry 21. -/
def answer (s : State) (f : Nat) : State :=
  let s1 := s.mapHost (fun h => { h with nonces := Tbl.del h.nonces f })
  match Tbl.get s.host.nonces f with
  | none => sessStatus s1 f 6 0
  | some n =>
    if n.at_ + 50000000 ≤ s.ac then sessStatus s1 f 6 0
    else if slotLocked s n.slot then sessStatus s1 f 5 0
    else match Tbl.get s.host.keys n.slot with
      | none => answerFails s1 f n.slot
      | some k =>
        if hmac256 k.key (challengeMsg f n) ≠ answerBytes s f then answerFails s1 f n.slot
        else match freeSession s with
          | none => sessStatus s1 f 7 0
          | some x =>
            let v : Session := { func := f, priv := n.priv, slot := n.slot, tenant := k.tenant, closing := false }
            sessStatus (s1.mapHost (fun h => { h with
              sessions := Tbl.set h.sessions x v, fails := Tbl.del h.fails n.slot, locks := Tbl.del h.locks n.slot })) f 3 x

/-- NONCE_LAPSE (R355). -/
def nonceLapse (s : State) (f : Nat) : State :=
  match Tbl.get s.host.nonces f with
  | some n => if n.at_ + 50000000 ≤ s.ac then s.mapHost (fun h => { h with nonces := Tbl.del h.nonces f }) else s
  | none => s

def execNonceLapse (f : FuncId) (s : State) : Res := .next (nonceLapse s f.val)

/-- LOCK_END (R356): the lock ends, and the count reads 0. -/
def lockEnd (s : State) (slot : Nat) : State :=
  match Tbl.get s.host.locks slot with
  | some e =>
    if s.ac < e then s
    else s.mapHost (fun h => { h with locks := Tbl.del h.locks slot, fails := Tbl.del h.fails slot })
  | none => s

def execLockEnd (slot : Fin 32) (s : State) : Res := .next (lockEnd s slot.val)

/-! ### SESS_CTL (R358, R359) -/

/-- SESS_CTL_STATUS. -/
def ctlStatus (s : State) (f code : Nat) : State := s.setBank_ f 0x084 (fld code 28)

/-- An open session by its number. -/
def openSession (s : State) (n : Nat) : Option Session :=
  match Tbl.get s.host.sessions n with
  | some x => if x.closing then none else some x
  | none => none

def ctlSession (v : Word) : Nat := bits v 7 0
def ctlQueue (v : Word) : Nat := bits v 25 16

/-- CLOSE of the session in SESS_CTL (R358). -/
def closeCmd (s : State) (f : FuncId) : State :=
  let n := ctlSession (s.bank_ f.val 0x080)
  match openSession s n with
  | some x =>
    if x.func = f.val ∨ isMgmt s f then ctlStatus (closeSession s 0 n) f.val 0 else ctlStatus s f.val 1
  | none => ctlStatus s f.val 1

/-- FUNC_QUEUES of a function: first queue and count (R359). -/
def funcQueues (s : State) (f : Nat) : Nat × Nat :=
  let v := s.reg slotHost (0x200 + 4 * f)
  (bits v 9 0, bits v 26 16)

def inQueueRange (s : State) (f q : Nat) : Bool :=
  let r := funcQueues s f
  decide (r.1 ≤ q) && decide (q < r.1 + r.2)

/-- ATTACH of the queue in SESS_CTL (R359). -/
def attachCmd (s : State) (f : FuncId) : State :=
  let v := s.bank_ f.val 0x080
  let q := ctlQueue v
  match openSession s (ctlSession v) with
  | some x =>
    if x.func ≠ f.val then ctlStatus s f.val 1
    else if !inQueueRange s f.val q then ctlStatus s f.val 2
    else if (s.queue q).sess.isSome then ctlStatus s f.val 3
    else ctlStatus (s.setQueue q { s.queue q with sess := some (ctlSession v), func := f.val }) f.val 0
  | none => ctlStatus s f.val 1

/-- A command of the queue, a record or an instance of it is outstanding (R363). -/
def outstanding (s : State) (q : Nat) : Bool :=
  let v := s.queue q
  decide (0 < v.inflight) || !v.staged.isEmpty || s.drover.insts.any (fun i => i.queue == q)
    || s.drover.cmds.any (fun c => c.queue == q)

/-- DETACH of the queue in SESS_CTL (R359, R363). A queue that is attached to no session of the function shows
code 1: DEDUCED, log entry 22. -/
def detachCmd (s : State) (f : FuncId) : State :=
  let q := ctlQueue (s.bank_ f.val 0x080)
  let v := s.queue q
  if !inQueueRange s f.val q then ctlStatus s f.val 2
  else match v.sess with
    | none => ctlStatus s f.val 1
    | some n =>
      if ((openSession s n).map (·.func)) ≠ some f.val then ctlStatus s f.val 1
      else if v.enable || v.draining || decide (0 < v.inflight) || !v.staged.isEmpty then ctlStatus s f.val 4
      else ctlStatus (detachQueue s q) f.val 0

/-! ### Key slots (R352, R353) -/

/-- The key and attributes of a slot change, or it is emptied: nonces of the slot lapse and its sessions close. -/
def rewriteSlot (s : State) (slot : Nat) (k : Option KeySlot) : State :=
  let s1 := s.mapHost (fun h => { h with
    keys := match k with
      | some v => Tbl.set h.keys slot v
      | none => Tbl.del h.keys slot
    nonces := h.nonces.filter (fun n => n.2.slot != slot) })
  closeWhere s1 2 (fun x => x.slot == slot)

/-- KEY_DATA0 to KEY_DATA7. -/
def keyData (s : State) : List Byte := wordsBytes ((List.range 8).map (fun k => s.reg slotHost (0x820 + 4 * k)))

def clearKeyData (s : State) : State := (List.range 8).foldl (fun u k => u.setReg slotHost (0x820 + 4 * k) 0) s

/-- KEY_ATTR breaks R353. -/
def keyAttrBad (a : Word) : Bool :=
  (bits a 23 16 == 0 && bit a 24) || ((bit a 25 || bit a 26) && bits a 7 0 != 0)

/-- KEY_SEL.WRITE (R352, R353). Slot 0 is not written by it: the strobe is refused, log entry 23. -/
def keyWrite (s : State) : State :=
  let slot := bits (s.reg slotHost 0x800) 4 0
  let a := s.reg slotHost 0x804
  if slot = 0 then s.strobeRefused slotHost 0x800 31 3
  else if keyAttrBad a then hostFault (clearKeyData s) 0x0704 none none (w32 slot) a
  else rewriteSlot (clearKeyData s) slot
    (some { key := keyData s, tenant := bits a 23 16, priv := BitVec.ofNat 3 (bits a 26 24), func := bits a 7 0 })

/-- KEY_SEL.ERASE (R352). -/
def keyErase (s : State) : State :=
  let slot := bits (s.reg slotHost 0x800) 4 0
  if slot = 0 then s.strobeRefused slotHost 0x800 30 3 else rewriteSlot s slot none

/-! ### Queues (R359 to R364) -/

def sqHead (s : State) (q : Nat) : Nat := (s.reg (slotQueue q) 0x064).toNat
def sqTail (s : State) (q : Nat) : Nat := (s.reg (slotQueue q) 0x060).toNat

/-- Entries from SQ_HEAD up to an index of the ring. -/
def sqDist (s : State) (q i : Nat) : Nat :=
  let n := sqSize s q
  (i % n + n - sqHead s q % n) % n

/-- A write of SQ_TAIL (R360): the doorbell, or BAD_DOORBELL. A doorbell on a disabled queue only moves SQ_TAIL:
DEDUCED, log entry 22. The die network wakes (14_power_clocks.md R388). -/
def doorbell (s : State) (q : Nat) (v : Word) : State :=
  let h := s.queue q
  if sqSize s q ≤ v.toNat then s.pulse (slotQueue q) 3
  else
    let s1 := s.setReg (slotQueue q) 0x060 v
    if !h.enable then s1 else
      let keep := h.bells.filter (fun b => decide (sqDist s q b.1 ≤ sqDist s q v.toNat))
      let bells := if keep.any (fun b => b.1 == v.toNat) || sqDist s q v.toNat == 0 then keep else keep ++ [(v.toNat, s.ac)]
      startWake (countEvent (s1.setQueue q { h with bells := bells }) slotHost 3 1) 26

/-- Records that a queue's fetched commands still have to come: a decision and an end for each SUBMIT, the end of an admitted
instance, one record for any other command. Those of template instances have no room kept (R362, R363). -/
def owed (s : State) (q : Nat) : Nat :=
  (s.queue q).inflight + (s.drover.cmds.filter (fun c => c.queue == q && !c.tmpl && c.op == 1)).length
    + (s.drover.insts.filter (fun i => i.queue == q && !i.tmpl)).length

/-- The queue may be fetched from (R361): enabled, an entry visible, two free completion entries beyond the staged records
and those still to come, so that room is kept for every record but those of templates (R362). DEDUCED, log entry 22. -/
def fetchable (s : State) (q : Nat) : Bool :=
  let v := s.queue q
  v.sess.isSome && v.enable && sqDist s q (sqTail s q) != 0 && decide (v.staged.length + owed s q + 2 ≤ cqFree s q)

/-- Submission time of the entry at SQ_HEAD. -/
def headBell (v : HQueue) : Nat :=
  match v.bells with
  | b :: _ => b.2
  | [] => 0

/-- No other queue has an earlier doorbell (R361). -/
def bellFirst (s : State) (q : Nat) : Bool :=
  s.host.queues.all (fun p => p.1 == q || !fetchable s p.1 || decide (headBell (s.queue q) ≤ headBell p.2))

/-- Where a fetched command goes (R361; 15_startup_module_edge.md R401). -/
def placeCmd (s : State) (c : Cmd) : State :=
  let o := c.op
  if 1 ≤ o ∧ o ≤ 4 then
    (if s.power.failed then refuse s c 1 else s.mapDrover (fun d => { d with cmds := d.cmds ++ [c] }))
  else if 0x81 ≤ o ∧ o ≤ 0x83 then s.mapDrover (fun d => { d with cmds := d.cmds ++ [c] })
  else if o = 0x84 ∨ o = 0x85 then s.mapHost (fun h => { h with cmds := h.cmds ++ [c] })
  else refuse s c 1

/-- COMMAND_FETCH (R361): the words are those of the entry in host memory. -/
def commandFetch (s : State) (q : Nat) (w0 w1 w2 w3 : Word) : State :=
  let v := s.queue q
  match v.sess with
  | none => s
  | some n =>
    if hostUp s && fetchable s q && bellFirst s q then
      let head := (sqHead s q + 1) % sqSize s q
      let c : Cmd := { queue := q, sess := n, w0 := w0, w1 := w1, w2 := w2, w3 := w3, bell := headBell v, tmpl := false }
      let bells := match v.bells with
        | b :: t => if b.1 % sqSize s q = head then t else b :: t
        | [] => []
      let s1 := (s.fromHost.setReg (slotQueue q) 0x064 (w32 head)).bump (slotQueue q) 0x074 1
      placeCmd (s1.setQueue q { v with bells := bells, inflight := v.inflight + 1 }) c
    else s

def execCommandFetch (q : QueueId) (w0 w1 w2 w3 : Word) (s : State) : Res := .next (commandFetch s q.val w0 w1 w2 w3)

/-- A write of Q_CTRL (R360, R363). -/
def qCtrl (s : State) (q : Nat) (v : Word) : State :=
  let h := s.queue q
  let free := !h.enable && !h.draining
  let was := s.reg (slotQueue q) 0x044
  let s1 := s.setReg (slotQueue q) 0x044 ((if free then v &&& 0x0000FF00 else was &&& 0x0000FF00) ||| (v &&& 0x1F))
  if bit v 31 then
    if h.draining then s1.pulse (slotQueue q) 3
    else if h.enable then s1
    else ([0x060, 0x064, 0x068, 0x06C].foldl (fun u o => u.setReg (slotQueue q) o 0) s1).setQueue q
      { h with enable := true, bells := [] }
  else if h.enable then s1.setQueue q { h with enable := false, bells := [], draining := outstanding s q }
  else s1

/-- QUEUE_DRAINED (R363). -/
def queueDrained (s : State) (q : Nat) : State :=
  let h := s.queue q
  if h.draining && !outstanding s q then s.setQueue q { h with draining := false } else s

def execQueueDrained (q : QueueId) (s : State) : Res := .next (queueDrained s q.val)

/-- A 64-bit host address in two registers of a queue page. -/
def queueAddr (s : State) (q lo : Nat) : Nat :=
  (s.reg (slotQueue q) lo).toNat + 2 ^ 32 * (s.reg (slotQueue q) (lo + 4)).toNat

/-- One record goes to the completion ring. -/
def writeRec (q : Nat) (s : State) (r : ORec) : State :=
  let tail := (s.reg (slotQueue q) 0x06C).toNat
  (s.toHost (.hostWrite (s.queue q).func (queueAddr s q 0x050 + 16 * tail) (wordsBytes r.words))).setReg (slotQueue q) 0x06C
    (w32 ((tail + 1) % cqSize s q))

/-- COMPLETION_WRITE (R362): a batch of staged records, the shadow word, then RECORD. -/
def completionWrite (s : State) (q : Nat) : State :=
  let v := s.queue q
  let k := min v.staged.length (cqFree s q)
  if hostUp s && v.sess.isSome && decide (0 < k) then
    let s1 := (v.staged.take k).foldl (writeRec q) (s.setQueue q { v with staged := v.staged.drop k })
    (s1.toHost (.hostWrite v.func (queueAddr s q 0x058) (leBytes 4 (s1.reg (slotQueue q) 0x06C).toNat))).pulse (slotQueue q) 1
  else s

def execCompletionWrite (q : QueueId) (s : State) : Res := .next (completionWrite s q.val)

/-! ### Context commands (R365 to R369) -/

/-- Fields of a host command that its layout does not use, or values outside Table 13-6. -/
def hostCmdBad (c : Cmd) : Bool :=
  bit c.w0 23 ||
  (if c.op ≤ 0x83 then
    bits c.w0 22 0 != 0 || bits c.w1 15 14 != 0 || bits c.w2 3 0 != 0 || bits c.w3 31 13 != 0
      || decide (4096 < bits c.w3 12 0) || (c.op == 0x83 && (c.w2 != 0 || c.w3 != 0))
  else bits c.w1 15 0 == 0 || bits c.w2 3 0 != 0)

/-- A host command ends with its record (R366). -/
def hostDone (s : State) (c : Cmd) (kind reason fault inst : Nat) : State :=
  let ctx := if c.op ≤ 0x83 then c.ctx else 0
  answered (postRec s c.queue c.sess { cmdRec c kind reason inst ctx with fault := fault }) c

def Ctx.free : Ctx := { st := .free, tenant := 0, base := 0, count := 0, queue := 0, sess := 0, cookie := 0 }

def ctxAt (s : State) (n : Nat) : Ctx := Tbl.getD s.host.ctxs n Ctx.free

def setCtx (s : State) (n : Nat) (x : Ctx) : State := s.mapHost (fun h => { h with ctxs := Tbl.set h.ctxs n x })

/-- The context is OPEN for the tenant of the command's session. -/
def ctxOpenFor (s : State) (c : Cmd) : Bool :=
  let x := ctxAt s c.ctx
  x.st == .opened && x.tenant == sessTenant s c.sess

/-- The context command at the head of the order of R361, with the checks common to all three. -/
def ctxCommand (s : State) (op : Nat) (go : State → Cmd → State) : State :=
  match frontCmd s [op] with
  | none => s
  | some c =>
    let s1 := popCmd s
    if hostCmdBad c then hostDone s1 c 0x10 0x01 0 0
    else if !(sessPriv s c.sess).getLsbD 0 then hostDone s1 c 0x10 0x40 0 0
    else go s1 c

/-- A context with a KV root as a command gives it. -/
def withRoot (x : Ctx) (c : Cmd) : Ctx := { x with base := c.w2.toNat, count := bits c.w3 12 0 }

/-- CTX_OPEN. -/
def ctxOpen (s : State) : State :=
  ctxCommand s 0x81 (fun s c =>
    if (ctxAt s c.ctx).st ≠ .free then hostDone s c 0x10 0x41 0 0
    else hostDone (setCtx s c.ctx (withRoot { Ctx.free with st := .opened, tenant := sessTenant s c.sess } c)) c 0x10 0 0 0)

def execCtxOpen (s : State) : Res := .next (ctxOpen s)

/-- CTX_ROOT. -/
def ctxRoot (s : State) : State :=
  ctxCommand s 0x82 (fun s c =>
    if !ctxOpenFor s c then hostDone s c 0x10 0x41 0 0
    else if s.drover.insts.any (fun i => i.ctx == c.ctx) then hostDone s c 0x10 0x42 0 0
    else hostDone (setCtx s c.ctx (withRoot (ctxAt s c.ctx) c)) c 0x10 0 0 0)

def execCtxRoot (s : State) : Res := .next (ctxRoot s)

/-- CTX_RELEASE: the record is posted when the context is FREE. -/
def ctxRelease (s : State) : State :=
  ctxCommand s 0x83 (fun s c =>
    if !ctxOpenFor s c then hostDone s c 0x10 0x41 0 0
    else
      let s1 := setCtx s c.ctx { ctxAt s c.ctx with st := .releasing, queue := c.queue, sess := c.sess, cookie := c.cookie }
      let s2 := if s1.drover.insts.any (fun i => i.ctx == c.ctx) then
          s1.fault slotHost { code := 0x0702, ctx := some c.ctx, sess := some c.sess, d0 := w32 c.ctx, d1 := w32 c.sess }
        else s1
      abortWhere s2 0x0702 (fun i => i.ctx == c.ctx))

def execCtxRelease (s : State) : Res := .next (ctxRelease s)

/-- CONTEXT_FREED (R368). -/
def contextFreed (s : State) (n : Nat) : State :=
  let x := ctxAt s n
  if x.st = .releasing ∧ !s.drover.insts.any (fun i => i.ctx == n) then
    let s1 := s.mapHost (fun h => { h with ctxs := Tbl.del h.ctxs n })
    let s2 := postRec s1 x.queue x.sess
      { kind := 0x10, reason := 0, cookie := x.cookie, fault := 0, inst := 0, ctx := n, task := none, time := 0 }
    let v := s2.queue x.queue
    if v.sess = some x.sess then s2.setQueue x.queue { v with inflight := v.inflight - 1 } else s2
  else s

def execContextFreed (ctx : Fin 16384) (s : State) : Res := .next (contextFreed s ctx.val)

/-! ### Reaching the stores from the host (R349, R350) -/

/-- A host window of a function holds every byte of an access, with the direction permitted (R349). -/
def windowHolds (s : State) (f a n : Nat) (write : Bool) : Bool :=
  (List.range 64).any (fun w =>
    let x := s.reg slotHost (0x408 + 16 * w)
    bit x 31 && bit x (if write then 30 else 29) && bits x 5 0 == f
      && decide ((s.reg slotHost (0x400 + 16 * w)).toNat ≤ a)
      && decide (a + n ≤ (s.reg slotHost (0x404 + 16 * w)).toNat + 1))

/-- What an access of the host port, which has waited since an fc, to `n` bytes of a block from `a` finds: closed or reserved
(`answer 2`), a hurdle (`answer 5`), a domain that it wakes, a slot that is not free for it, or its slot (R350, R383,
R422). -/
def hostEntry (s : State) (a n since : Nat) : Entry :=
  match reachEntry s a n (hostTurn s (portOf a) since) with
  | .answer c => .answer c
  | .wake d => .wake d
  | e => if !netRuns s then .wake 26 else e

/-- A BAR2 access is admitted for its function (R349); nobody writes to task memory. -/
def bar2Admitted (s : State) (b : Bar2) : Bool :=
  let write := b.data.isSome
  rangeOk b.addr b.len (!write)
    && (isMgmt s b.func || windowHolds s b.func.val b.addr b.len write)

/-- A BAR2 access that behaves as one to a reserved range (01_device_overview.md R24). -/
def bar2Refused (s : State) (b : Bar2) : State :=
  let s1 := unsupported s
  match b.data with
  | some _ => s1
  | none => s1.toHost (.readData b.func.val (List.replicate b.len 0))

/-- A block that fails a BAR2 access (R192): CHECK_MISMATCH or POISONED of HOST. -/
def bar2Bad (s : State) (f a : Nat) (v : Verdict) : State :=
  match v with
  | .mismatch x => hostFault s 0x0002 none (some a) (w32 f) x
  | .poisoned w => hostFault s 0x0003 none (some a) (w32 f) (w32 w)
  | .good => s

/-- Bytes from the host reach a store; those of a Poisoned TLP leave its words poisoned. DESIGN CHOICE, log entry 123. -/
def Memory.fromHost (m : Memory) (a : Nat) (bytes : List Byte) (ep : Bool) : Memory :=
  if ep then (m.putPart a bytes).markRange a bytes.length else m.putPart a bytes

/-- The bytes of a BAR2 write reach a block; one whose merge fails keeps its bytes (R192). -/
def bar2Put (f a : Nat) (data : List Byte) (ep : Bool) (s : State) (blk : Nat) : State :=
  let p := partIn a data blk
  match s.mem.mergeVerify blk p.1 p.2.length with
  | .good => s.mapMem (fun m => m.fromHost p.1 p.2 ep)
  | v => if p.2.length = 512 then s.mapMem (fun m => m.fromHost p.1 p.2 ep) else bar2Bad s f p.1 v

/-- The bytes of a BAR2 read, once every block has been verified. -/
def bar2Answer (s : State) (b : Bar2) : State := s.toHost (.readData b.func.val b.got)

/-- A block of a BAR2 read that is not good, or holds a poisoned word, ends it (R191, R192). -/
def bar2Spoilt (s : State) (b : Bar2) (v : Verdict) (blk : Nat) : State :=
  bar2Bad (s.toHost (.poisoned b.func.val)) b.func.val (blk * 512) v

/-- A BAR2 access with another of its blocks done. -/
def Bar2.next (b : Bar2) (bytes : List Byte) : Bar2 := { b with done := b.done + 1, got := b.got ++ bytes }

/-- The next block of an access is its last. -/
def Bar2.last (b : Bar2) : Bool := decide ((b.addr + b.len + 511) / 512 ≤ b.addr / 512 + b.done + 1)

/-- The next block of a BAR2 access in the slot that it has been given (R192, R350); `more` says what happens where further
blocks follow. -/
def bar2Serve (s : State) (b : Bar2) (more : State → Bar2 → State) : State :=
  let p := blockPart b.addr b.len b.done
  let s0 := takeSlot s p.1 (slotsFor b.data.isSome p.2)
  let s1 := if b.done = 0 then countEvent s0 slotHost (if b.data.isSome then 5 else 4) b.len else s0
  match b.data with
  | some d =>
    let s2 := bar2Put b.func.val b.addr d b.ep s1 (p.1 / 512)
    if b.last then s2 else more s2 (b.next [])
  | none =>
    match s1.mem.verify (p.1 / 512) with
    | .good =>
      let b1 := b.next (s1.mem.readN p.1 p.2)
      if b.last then bar2Answer s1 b1 else more s1 b1
    | v => bar2Spoilt s1 b v (p.1 / 512)

/-- Task memory is read without a port of a store: it has none in Table 1-2. DESIGN CHOICE, log entry 24. -/
def bar2TaskMem (s : State) (b : Bar2) : State :=
  let s1 := countEvent s slotHost 4 b.len
  match s1.mem.verifyRange b.addr b.len with
  | (.good, _) => bar2Answer s1 { b with got := s1.mem.readN b.addr b.len }
  | (v, blk) => bar2Spoilt s1 b v blk

/-- One attempt at an access; `wait` says what happens where it cannot be served yet, or not to its end. Task memory lies in
the Drover's domain, which wakes (14_power_clocks.md R388). -/
def bar2Try (s : State) (b : Bar2) (wait : State → Bar2 → State) : State :=
  if region b.addr = .taskMem then (if netRuns s then bar2TaskMem s b else wait (startWake s 26) b) else
  let p := blockPart b.addr b.len b.done
  match hostEntry s p.1 p.2 b.since with
  | .answer _ => bar2Refused s b
  | .wake d => wait (startWake s d) b
  | .wait => wait s b
  | .go => bar2Serve s b wait

/-- An access waits with the host port. -/
def bar2Wait (s : State) (b : Bar2) : State := s.mapHost (fun h => { h with bar2 := h.bar2 ++ [b] })

/-- A BAR2 access as it arrives (R349 to R351): behind earlier ones of its function it waits. -/
def bar2Arrive (s : State) (b : Bar2) : State :=
  if !answers s b.func then s else
  let s1 := s.fromHost
  if !bar2Admitted s1 b then bar2Refused s1 b
  else if s1.host.bar2.any (fun x => x.func == b.func) then bar2Wait s1 b
  else bar2Try s1 b bar2Wait

/-- BAR2_READ (R349, R350). -/
def execBar2Read (f : FuncId) (addr len : Nat) (s : State) : Res :=
  .next (bar2Arrive s { func := f, addr := addr, len := len, data := none, bar0 := false, ep := false, since := s.now, done := 0, got := [] })

/-- BAR2_WRITE (R349, R350). -/
def execBar2Write (f : FuncId) (addr : Nat) (data : Tlp (List Byte)) (s : State) : Res :=
  .next (bar2Arrive s { func := f, addr := addr, len := data.bytes.length, data := some data.bytes, bar0 := false
                        ep := data.poisoned, since := s.now, done := 0, got := [] })

/-- A waiting access is tried again, from its own place in the line. -/
def bar2Retry (s : State) (b : Bar2) : State :=
  let s1 := s.mapHost (fun h => { h with bar2 := dropFirst b h.bar2 })
  bar2Try s1 b (fun u x => u.mapHost (fun h => { h with bar2 := s.host.bar2.map (fun y => if y = b then x else y) }))

/-- BAR2_TIMEOUT (R350): the first waiting access that has waited 1 ms. -/
def bar2Timeout (s : State) : State :=
  match s.host.bar2.find? (fun b => !b.bar0 && s.acSince b.since 50000) with
  | none => s
  | some b =>
    let s1 := s.mapHost (fun h => { h with bar2 := dropFirst b h.bar2 })
    let s2 := hostFault s1 0x0703 none (some b.addr) (w32 b.func.val) (if b.data.isSome then 0 else 1)
    if b.data.isSome then s2 else s2.toHost (.complAbort b.func.val)

def execBar2Timeout (s : State) : Res := .next (bar2Timeout s)

/-! ### Host data transfers (R367) -/

def xferBlocks (c : Cmd) : Nat := bits c.w1 15 0
def xferDie (c : Cmd) : Nat := bits c.w0 22 0 * 512
def xferHost (c : Cmd) : Nat := c.w2.toNat + 2 ^ 32 * c.w3.toNat
def xferFunc (s : State) (c : Cmd) : Nat := (s.queue c.queue).func

/-- The checks of a transfer, as a reason code (R365, R366, Tables 13-5 and 13-7). -/
def xferReason (s : State) (c : Cmd) : Option Nat :=
  let p := sessPriv s c.sess
  let n := 512 * xferBlocks c
  if hostCmdBad c then some 0x01
  else if !p.getLsbD 0 && !p.getLsbD 1 then some 0x40
  else if !rangeOk (xferDie c) n false then some 0x43
  else if !p.getLsbD 1 && !windowHolds s (xferFunc s c) (xferDie c) n (c.op == 0x84) then some 0x43
  else none

/-- The transfer that the next block belongs to: the one in progress, or the first that waits, once its checks have
passed; a refused command ends with its record. -/
def xferBegin (s : State) (op : Nat) : State :=
  match s.host.xfer, s.host.cmds with
  | none, c :: rest =>
    if c.op ≠ op then s else
    let s1 := s.mapHost (fun h => { h with cmds := rest })
    match xferReason s c with
    | some r => hostDone s1 c 0x11 r 0 0
    | none => s1.mapHost (fun h => { h with xfer := some { cmd := c, moved := 0, fault := none, since := s.now, asks := false } })
  | _, _ => s

/-- A transfer stops with a fault, which HOST records with a DETAIL1 (R367, R383, R422). -/
def xferFault (s : State) (x : Xfer) (code : Nat) (d1 : Word) : State :=
  (hostFault s code (some x.cmd.sess) (some (xferDie x.cmd + 512 * x.moved)) (w32 (xferFunc s x.cmd)) d1).mapHost
    (fun h => { h with xfer := some { x with fault := some code } })

/-- One block of the transfer in progress, in a slot of R350. -/
def xferBlock (s : State) (op : Nat) (move : State → Xfer → Nat → State) : State :=
  match s.host.xfer with
  | none => s
  | some x =>
    if x.cmd.op ≠ op ∨ x.fault.isSome ∨ xferBlocks x.cmd ≤ x.moved then s
    else if s.acSince x.since 50000 then xferFault s x 0x0703 (if op = 0x85 then 1 else 0)
    else
      let a := xferDie x.cmd + 512 * x.moved
      match hostEntry s a 512 x.since with
      | .answer 5 => xferFault s x 0x0005 0
      | .answer _ => xferFault s x 0x0001 0
      | .wake d => startWake s d
      | .wait => s.mapHost (fun h => { h with xfer := some { x with asks := true } })
      | .go => move (takeSlot s a 1) x a

/-- The block has been moved. -/
def xferMoved (s : State) (x : Xfer) : State :=
  s.mapHost (fun h => { h with xfer := some { x with moved := x.moved + 1, since := s.now, asks := false } })

/-- XFER_IN (R367): the next block, with the bytes that host memory gives. -/
def xferIn (s : State) (data : List Byte) (ep : Bool) : State :=
  xferBlock (xferBegin s 0x84) 0x84 (fun u x a => xferMoved (u.fromHost.mapMem (fun m => m.fromHost a data ep)) x)

def execXferIn (data : Tlp (Vector Byte 512)) (s : State) : Res := .next (xferIn s data.bytes.toList data.poisoned)

/-- XFER_OUT (R367): the next block, verified. -/
def xferOut (s : State) : State :=
  xferBlock (xferBegin s 0x85) 0x85 (fun u x a =>
    match u.mem.verify (a / 512) with
    | .good => xferMoved (u.toHost (.hostWrite (xferFunc u x.cmd) (xferHost x.cmd + 512 * x.moved) (u.mem.block (a / 512)))) x
    | .poisoned w => xferFault u x 0x0003 (w32 w)
    | .mismatch v => xferFault u x 0x0002 v)

def execXferOut (s : State) : Res := .next (xferOut s)

/-- XFER_DONE (R367): the record of a transfer that has moved its blocks or met a fault. -/
def xferDone (s : State) : State :=
  match s.host.xfer with
  | none => s
  | some x =>
    let s1 := s.mapHost (fun h => { h with xfer := none })
    match x.fault with
    | some f => hostDone s1 x.cmd 0x11 0x44 f x.moved
    | none => if xferBlocks x.cmd ≤ x.moved then hostDone s1 x.cmd 0x11 0 0 x.moved else s

def execXferDone (s : State) : Res := .next (xferDone s)

/-! ### INFO_SEL (Table 13-12) -/

/-- INFO0 to INFO3 of a session, context or key slot. -/
def infoWords (s : State) (kind i : Nat) : List Word :=
  if kind = 0 then
    match openSession s i with
    | some x => [ flag true 31 ||| fld x.priv.toNat 24 ||| fld x.tenant 16 ||| fld x.slot 8 ||| w32 x.func,
                  w32 (s.drover.insts.filter (boundTo i)).length, w32 (queuesOf s i).length, 0 ]
    | none => [0, 0, 0, 0]
  else if kind = 1 then
    let x := ctxAt s i
    let st := match x.st with
      | .free => 0
      | .opened => 1
      | .releasing => 2
    [ fld st 30 ||| fld x.tenant 16, w32 x.base, w32 x.count, w32 (s.drover.insts.filter (fun j => j.ctx == i)).length ]
  else if kind = 2 ∧ i < 32 then
    let k := Tbl.get s.host.keys i
    [ flag k.isSome 31 ||| flag (slotLocked s i) 30
        ||| (match k with
          | some v => fld v.priv.toNat 24 ||| fld v.tenant 16 ||| w32 v.func
          | none => 0),
      w32 (failCount s i % 16), w32 (Tbl.getD s.host.locks i 0), 0 ]
  else [0, 0, 0, 0]

/-- INFO_SEL.SNAP. -/
def infoSnap (s : State) : State :=
  let v := s.reg slotHost 0x110
  (infoWords s (bits v 29 28) (bits v 13 0)).zipIdx.foldl (fun u p => u.setReg slotHost (0x114 + 4 * p.2) p.1) s

/-! ### Events of the PCI Express port (R348, R358, R387, 15_startup_module_edge.md R403) -/

/-- FUNCTION_LEVEL_RESET: the function's bank is reset and its nonce lapses, it is in D0 again, and its MSI-X table as after
reset; its sessions close, for the physical function those of every function. -/
def functionLevelReset (s : State) (f : Nat) : State :=
  let s1 := s.mapHost (fun h => { h with
    banked := h.banked.filter (fun p => p.1 / 0x100 != f), nonces := Tbl.del h.nonces f
    d3 := h.d3.filter (· != f), msix := h.msix.filter (fun p => p.1 / 32 != f), pba := h.pba.filter (fun v => v / 32 != f) })
  closeWhere s1 1 (fun x => f == 0 || x.func == f)

def execFunctionLevelReset (f : FuncId) (s : State) : Res := .next (functionLevelReset s f.val)

/-- D3HOT_ENTRY. -/
def execD3hotEntry (f : FuncId) (s : State) : Res :=
  .next (closeWhere (s.mapHost (fun h => { h with d3 := if h.d3.contains f.val then h.d3 else h.d3 ++ [f.val] })) 1
    (fun x => x.func == f.val))

/-- VF_ENABLE_CLEAR. Table 13-16 lists no cause for it: code 1 is taken, DESIGN CHOICE, log entry 20. -/
def execVfEnableClear (s : State) : Res :=
  .next (closeWhere (s.mapHost (fun h => { h with vfs := 0 })) 1 (fun x => x.func != 0))

/-- The page slot belongs to the host port. -/
def isHostSlot (n : Nat) : Bool := n == slotHost || (decide (0x1000 ≤ n) && decide (n < 0x1400))

/-- What the host port loses at its reset and when it goes off (R370, R371; 16_faults_recovery.md Table 16-9): its
registers, banks, sessions and queues, and the host link. Keys, counts, locks and contexts stay. -/
def hostLost (s : State) : State :=
  let s1 : State := { s with
    regs := s.regs.filter (fun p => !isHostSlot (p.1 / 0x1000))
    evts := s.evts.filter (fun p => !isHostSlot p.1)
    faults := s.faults.filter (fun p => !isHostSlot p.1) }
  s1.mapHost (fun h => { h with
    banked := [], nonces := [], queues := [], cmds := [], xfer := none, bar2 := [], linkUp := false, busMast := false
    vfs := 0, d3 := [], msix := [], pba := [] })

/-- The host port goes off: every session closes with cause 3. -/
def hostOff (s : State) : State :=
  let s1 := closeWhere s 3 (fun _ => true)
  let s2 := changeDom s1 25 { s1.dom 25 with st := .off, target := none, waking := false }
  hostLost s2

/-- The host link has trained, and the host has set Bus Master Enable and VF Enable for 63 functions: DESIGN CHOICE, log
entry 7. -/
def HostPort.trained (h : HostPort) : HostPort := { h with linkUp := true, busMast := true, vfs := 63 }

/-- The host port is back in run, and the host link trains. -/
def hostOn (s : State) : State :=
  (changeDom s 25 { s.dom 25 with st := .run, target := none, waking := false }).mapHost HostPort.trained

/-- PERST_ASSERT (R403): ignored while MOD_PWRGD is deasserted. -/
def perstAssert (s : State) : State :=
  let s1 := s.mapPower (fun p => { p with perst := true })
  if s.power.pwrGood && (s.dom 25).st != .off then hostOff s1 else s1

def execPerstAssert (s : State) : Res := .next (perstAssert s)

/-- PERST_DEASSERT (R403). -/
def perstDeassert (s : State) : State :=
  let s1 := s.mapPower (fun p => { p with perst := false })
  if s.power.pwrGood && (s.dom 25).st == .off then hostOn s1 else s1

def execPerstDeassert (s : State) : Res := .next (perstDeassert s)

end Sys2Proof.Machine
end

