-- ==== Sys2Proof/Machine/Loss.lean ====
section
/-! DEFINITION. What units and pages lose at a reset and when their domain goes off (02_register_pages.md R40, R54;
05_accumulation.md R130; 07_streams.md R192, R197; 11_paddock.md R306, R307; 14_power_clocks.md R377, R379;
16_faults_recovery.md R413, Table 16-9). -/

namespace Sys2Proof.Machine

/-- The page is back at its reset values, but for the stored words kept (R54). -/
def pageLost (s : State) (slot : Nat) (keep : Nat → Bool) : State :=
  let s1 := s.dropPage slot keep
  { s1 with evts := Tbl.set s1.evts slot ⟨0, 0, 0, 0, true⟩, faults := Tbl.del s1.faults slot }

def keepNone (_ : Nat) : Bool := false

/-- A core's units are empty and its pages reset; the reload of its pinned groups goes to the reserve (R86, R242). Images
that are being made resident have their pins on the core still to load (R82). -/
def coreLost (s : State) (c : Nat) : State :=
  let s1 := [slotCore c, slotArr c, slotAtt c, slotStrm c, slotDrove c].foldl (fun u p => pageLost u p keepNone)
    { s with cores := Tbl.del s.cores c }
  let s2 := s1.mapDrover (fun d => { d with noCharge := d.noCharge.filter (fun n => n != c) })
  (s2.drover.images.filter (fun i => i.st == .loading)).foldl (fun u i => pinCore u i c) s2

/-- The cores of a fold. -/
def coresIn (f : Nat) : List Nat := (List.range 16).map (fun i => 16 * f + i)

def foldLost (s : State) (f : Nat) : State := (coresIn f).foldl coreLost (pageLost s (slotFold f) keepNone)

/-- The fold's near stores and columns hold zeros with matching check values (R379). -/
def foldZeroed (s : State) (f : Nat) : State :=
  s.mapMem (fun m => (m.zeroRange (nearBase (16 * f)) (16 * 0x100000)).zeroRange (columnBase (16 * f)) (16 * 0x800000))

/-- The Herd engine's logic (10_herd_engine.md R277). -/
def herdLost (s : State) : State := { pageLost s slotHerd keepNone with herd := ⟨none, [], none⟩ }

def herdZeroed (s : State) : State := s.mapMem (fun m => m.zeroRange 0x10000000 0x6000000)

/-- A bank as Paddock storage keeps it while the search logic loses its queues and counters; one whose golden header was found
bad is not scrubbed before its next REBUILD (R303). -/
def Bank.kept (b : Bank) : Bank :=
  { b with queue := [], cur := none, scrub := 0, inPass := false, builds := 0, theft := 0 }

/-- A bank after a Paddock reset: one that had a hole is INCONSISTENT (R306). -/
def Bank.afterReset (b : Bank) : Bank :=
  let k := b.kept
  if b.hole.isSome && (b.st == .busy || b.st == .hole || b.st == .rebuilding) then { k with st := .inconsistent } else k

/-- The Paddock's search logic and pages, with its banks changed by `f`. -/
def padkLost (s : State) (f : Bank → Bank) : State :=
  let s1 := (slotPadk :: (List.range 64).map slotBank).foldl (fun u p => pageLost u p keepNone) s
  { s1 with paddock := { Paddock.start with banks := Tbl.mapV s.paddock.banks (fun _ b => f b) } }

/-- A Paddock reset (R306). -/
def paddockReset (s : State) : State := padkLost s Bank.afterReset

/-- Every bank is EMPTY with GOLD_BASE 0 (R307). -/
def banksLost (s : State) : State := { s with paddock := { s.paddock with banks := [] } }

/-- What link state a port page keeps in stored words (12_ralso_fabric.md R340): CTRL, of which ENABLE, and
TRAIN_COUNT. A port domain that is switched off keeps them as well: DESIGN CHOICE, log entry 102. -/
def keepLink (off : Nat) : Bool := off == 0x008 || off == 0x04C

/-- A port controller: buffers, replay buffer and credits, and its page but for link state (R340). -/
def portLost (s : State) (p : Nat) : State :=
  let s1 := pageLost s (slotLink p) keepLink
  let s2 := s1.setReg (slotLink p) 0x008 (s1.reg (slotLink p) 0x008 &&& 0x04000000)
  let s3 := dropBuffers s2 p
  settle (s3.setPort p { s3.port p with
    replay := [], credits := fullCredits, discard := false, rxNaks := 0, naks := 0, freed := [0, 0, 0, 0, 0, 0, 0], outQ := [] })

/-- The Drover's logic at a compute reset (09_drover_graphs.md R248): images stay, with their pins, whose reload goes to
no reserve (R242). -/
def droverLost (s : State) : State :=
  let s1 := pageLost s slotDrvr keepNone
  s1.mapDrover (fun d => { d with
    insts := [], tasks := [], demands := [], templates := [], aborts := [], stops := [], reserve := [], resAborts := []
    noCharge := List.range 256, lastDec := none, snapDem := 0, snapFirst := 0xFFFFFFFF, snapRes := 0 })

/-- What a switched domain loses when it goes off (Table 14-4). -/
def domainLost (s : State) (d : Nat) : State :=
  if d < 16 then foldLost s d
  else if d < 22 then portLost s (d - 16)
  else if d = 22 then herdLost s
  else if d = 23 then padkLost s Bank.kept
  else if d = 24 then banksLost s
  else s

/-- What a domain writes when it leaves off (R379). -/
def domainFilled (s : State) (d : Nat) : State :=
  if d < 16 then foldZeroed s d
  else if d = 22 then herdZeroed s
  else s

end Sys2Proof.Machine
end

