-- ==== Sys2Proof/Machine/Power.lean ====
section
/-! DEFINITION. Power: commands to domains, idle entries, transitions, the temperature limits and supply readings
(14_power_clocks.md R373 to R397, R464). The writes of PWR registers that carry these actions are in `Regs.lean`. -/

namespace Sys2Proof.Machine

/-! ### Refusals (Table 14-12) -/

/-- A command or write is refused: PWR_REFUSED and the REFUSED event. -/
def pwrRefused (s : State) (code : Nat) (v : Word) : State :=
  (s.fault slotPwr { code := 0x0801, d0 := w32 code, d1 := v }).pulse slotPwr 0

/-- CMD_STATUS. -/
def cmdStatus (s : State) (code cmd d : Nat) : State :=
  s.setReg slotPwr 0x044 (fld code 28 ||| fld cmd 16 ||| w32 d)

/-- A write of a PWR register that is no domain command is refused: CMD_STATUS gives the reason and keeps what it shows of the
last command (Table 14-12). DEDUCED, log entry 25. -/
def fieldRefused (s : State) (code : Nat) (v : Word) : State :=
  pwrRefused (s.setReg slotPwr 0x044 (fld code 28 ||| (s.reg slotPwr 0x044 &&& 0x000F001F))) code v

/-- The hurdle of a reset domain that lies in the power domain or contains it is raised (R419). -/
def domHurdled (s : State) (d : Nat) : Bool :=
  if d < 16 then s.hurdled (.fold (Fin.ofNat 16 d)) || (coresIn d).any (fun c => s.hurdled (.core (coreOf c)))
  else if d < 22 then s.hurdled (.port (Fin.ofNat 6 (d - 16)))
  else if d = 22 then s.hurdled .herd
  else if d < 25 then s.hurdled .paddock
  else false

/-- A resident image pins a codebook on the fold. -/
def foldPinned (s : State) (f : Nat) : Bool :=
  s.drover.images.any (fun i => i.pins.any (fun p => (coresIn f).any p.covers))

/-- The state of the domain does not admit the command (R390, R419). -/
def cmdStateBad (s : State) (cmd d : Nat) : Bool :=
  let v := s.dom d
  let off := v.st == .off
  let leaving := v.target == some .off || (v.waking && off)
  domHurdled s d ||
  (if cmd = 3 then false
   else if cmd = 7 then !off || v.target.isSome || v.waking
   else off || leaving)

/-- The reason for which a command is refused, the first in the order of R390. -/
def cmdReason (s : State) (cmd d : Nat) : Option Nat :=
  let v := s.dom d
  if cmd = 0 ∨ 7 < cmd ∨ 24 < d ∨ (d = 24 ∧ cmd < 6) then some 1
  else if s.power.halt && (cmd == 1 || cmd == 2 || cmd == 7) then some 7
  else if cmdStateBad s cmd d then some 5
  else if cmd = 6 ∧ d = 24 ∧ (s.dom 23).st ≠ .off then some 6
  else if (cmd = 4 ∨ cmd = 5 ∨ cmd = 6) ∧ v.hold then some 3
  else if cmd = 6 ∧ d < 16 ∧ foldPinned s d then some 4
  else if (cmd = 4 ∨ cmd = 5 ∨ cmd = 6) ∧ domDemand s d then some 2
  else none

/-- A domain is put into a lower state. A domain already there or below, or entering it, stays: DEDUCED, log entry 25.
The link of a port that naps or goes off goes DOWN (R378, R386). -/
def lowerTo (s : State) (d : Nat) (t : PSt) : State :=
  let v := s.dom d
  let now := match v.target with
    | some x => x
    | none => v.st
  if now.rank ≤ t.rank ∧ !v.waking then s else
  let s1 := startEntry s d t
  if 16 ≤ d ∧ d < 22 ∧ t.rank ≤ 1 ∧ (s.port (d - 16)).st ≠ .down then linkFalls s1 (d - 16) else s1

/-- What an accepted command does (Table 14-7). -/
def cmdEffect (s : State) (cmd d : Nat) : State :=
  match cmd with
  | 1 => startWake s d
  | 2 => let s1 := startWake s d
         s1.setDom d { s1.dom d with hold := true }
  | 3 => s.setDom d { s.dom d with hold := false, idle := s.now }
  | 4 => lowerTo s d .doze
  | 5 => lowerTo s d .nap
  | 6 => lowerTo s d .off
  | 7 => startOn s d
  | _ => s

/-- DOM_CMD.GO on the command in DOM_CMD; `v` is the word written (R390). -/
def domCmd (s : State) (v : Word) : State :=
  let x := s.reg slotPwr 0x040
  let cmd := bits x 19 16
  let d := bits x 4 0
  match cmdReason s cmd d with
  | some r => pwrRefused (cmdStatus s r cmd d) r v
  | none => cmdStatus (cmdEffect s cmd d) 0 cmd d

/-- A write of DOM_POLICY (Table 14-14): a state that the domain does not accept leaves IDLE_STATE. -/
def domPolicy (s : State) (d : Nat) (v : Word) : State :=
  let off := 0x200 + 4 * d
  let st := bits v 31 30
  let bad := st == 3 || (16 ≤ d && d < 22 && st == 2)
  let top := if bad then s.reg slotPwr off &&& 0xC0000000 else v &&& 0xC0000000
  let s1 := s.setReg slotPwr off (top ||| (v &&& 0x00FFFFFF))
  if bad then fieldRefused s1 9 v else s1

/-! ### Idle entries (R380, R385, R388) -/

/-- IDLE_STATE as a state; run where the policy keeps the domain in run. -/
def idleState (s : State) (d : Nat) : PSt :=
  match bits (s.reg slotPwr (0x200 + 4 * d)) 31 30 with
  | 1 => .doze
  | 2 => .nap
  | _ => .run

/-- IDLE_DELAY, in ac. -/
def idleDelay (s : State) (d : Nat) : Nat := bits (s.reg slotPwr (0x200 + 4 * d)) 23 0

/-- The domain has been idle for IDLE_DELAY and may enter its IDLE_STATE. -/
def idleDue (s : State) (d : Nat) : Bool :=
  let v := s.dom d
  !v.hold && v.target.isNone && !v.waking && !domHurdled s d && decide ((idleState s d).rank < v.st.rank)
    && s.acSince v.idle (idleDelay s d)

/-- IDLE_ENTRY (R380). -/
def idleEntry (s : State) (d : Nat) : State :=
  if (d < 16 ∨ d = 22 ∨ d = 23) ∧ idleDue s d ∧ !domDemand s d then startEntry s d (idleState s d) else s

def execIdleEntry (d : DomId) (s : State) : Res := .next (idleEntry s d.val)

/-- The port is not idle: its link is not UP, a packet waits in it, or a request sent through it is outstanding (R385). -/
def portBusy (s : State) (p : Nat) : Bool :=
  let v := s.port p
  v.st != .up || !v.outQ.isEmpty || !v.rx.isEmpty || v.partial_.isSome || s.fabric.pend.any (fun x => x.port == p)

/-- PORT_IDLE_ENTRY (R385). -/
def portIdleEntry (s : State) (p : Nat) : State :=
  if idleDue s (16 + p) && !portBusy s p then startEntry s (16 + p) (idleState s (16 + p)) else s

def execPortIdleEntry (p : PortId) (s : State) : Res := .next (portIdleEntry s p.val)

/-- The domain is in doze or below, or on its way there. -/
def Dom.asleep (v : Dom) : Bool := !v.waking && decide (v.st.rank ≤ 2)

/-- DIE_NETWORK_DOZE (R388). -/
def dieNetworkDoze (s : State) : State :=
  let v := s.dom 26
  if v.st == .run && v.target.isNone && (List.range 24).all (fun d => (s.dom d).asleep) && s.host.bar2.isEmpty
      && s.host.xfer.isNone && s.host.cmds.isEmpty && s.drover.cmds.isEmpty then startEntry s 26 .doze else s

def execDieNetworkDoze (s : State) : Res := .next (dieNetworkDoze s)

/-! ### Transitions (R378, R379) -/

/-- The hurdles of a critical event are lowered when its domains are off. DEDUCED, log entry 26. -/
def critDone (s : State) : State :=
  if (List.range 16).all (fun f => (s.dom f).st == .off) && (s.dom 22).st == .off && (s.dom 23).st == .off then
    { s with resets := { s.resets with crit := [] } }
  else s

/-- An entry ends. -/
def entryDone (s : State) (d : Nat) (t : PSt) : State :=
  let s1 := changeDom s d { s.dom d with st := t, target := none, commit := false }
  if t = .off then critDone (domainLost s1 d) else s1

/-- A port that has left nap or off trains where its CTRL.ENABLE is 1 (R386; 15_startup_module_edge.md R404). -/
def portBack (s : State) (d : Nat) (was : PSt) : State :=
  if 16 ≤ d ∧ d < 22 ∧ was.rank ≤ 1 ∧ linkEnabled s (d - 16) then startTraining s (d - 16) else s

/-- A wake ends: the domain is in run, and its idle time starts. Paddock storage leaves off into the state of R389. The
counters of a fold, which count nothing below run, count the wake now: DEDUCED, log entry 25. -/
def wakeDone (s : State) (d : Nat) : State :=
  let v := s.dom d
  let s1 := if v.st = .off then domainFilled s d else s
  let s2 := changeDom s1 d { v with st := .run, waking := false, commit := false, idle := s.now }
  portBack (if d < 16 then countEvent s2 (slotFold d) 0x83 1 else s2) d v.st

/-- A write that a core of a fold has been granted, or that goes to a store of it, is on its way: it takes effect before the
fold is off (07_streams.md R197). -/
def foldWrites (s : State) (f : Nat) : Bool :=
  s.cores.any (fun e => e.2.chans.any (fun p => p.2.flights.any (fun x =>
    x.write && (e.1 / 16 == f || (match regionCore (x.block * 512) with | some c => c / 16 == f | none => false)))))

/-- DOMAIN_TRANSITION_COMPLETE (R378): within the time of Table 14-5. -/
def domainTransitionComplete (s : State) (d : Nat) : State :=
  let v := s.dom d
  match v.target with
  | some t => if t = .off ∧ d < 16 ∧ foldWrites s d then s else entryDone s d t
  | none => if v.waking then wakeDone s d else s

def execDomainTransitionComplete (d : DomId) (s : State) : Res := .next (domainTransitionComplete s d.val)

/-! ### Thermal limits (R392 to R395) -/

/-- A reading in 1/16 °C. -/
def reading (s : State) (i : Nat) : Int := (Tbl.getD s.power.temps i 0).toInt

/-- THERM_CTRL.CAUTION in °C. -/
def cautionAt (s : State) : Int := (bits (s.reg slotPwr 0x058) 7 0 : Nat)

/-- The four sensors of a fold. -/
def foldSensors (f : Nat) : List Nat := [4 * f, 4 * f + 1, 4 * f + 2, 4 * f + 3]

/-- The folds at caution after a sample (R393). -/
def cautionNow (s : State) : List Nat :=
  (List.range 16).filter (fun f =>
    if s.power.caution.contains f then !(foldSensors f).all (fun i => decide (reading s i < 16 * (cautionAt s - 5)))
    else (foldSensors f).any (fun i => decide (16 * cautionAt s ≤ reading s i)))

/-- The lowest-numbered sensor with the highest reading. -/
def hottest (s : State) : Nat :=
  (List.range 96).foldl (fun b i => if reading s b < reading s i then i else b) 0

/-- A domain of the critical event enters off, unless it is off or a reset of it is in progress, which completes
first (16_faults_recovery.md R432). -/
def critOff (s : State) (d : Nat) : State :=
  let v := s.dom d
  let d' : RDom := if d < 16 then .fold (Fin.ofNat 16 d) else if d = 22 then .herd else .paddock
  if v.st = .off ∧ !v.waking then s
  else if s.resets.runs.any (fun r => rcovers r.dom d' || rcovers d' r.dom) then s
  else if v.target = some .off then s
  else startEntry s d .off

/-- No image stays (R394). The command of one that was being made resident ends REFUSED with reason IMAGE_CHECK, that of one
that was retiring RETIRED, since its last instance has ended. DESIGN CHOICE, log entry 125. -/
def imagesLost (s : State) : State :=
  let s1 := refusePinned s ((s.drover.images.filter (fun i => i.st == .loading)).map (·.key))
  let s2 := (s1.drover.images.filter (fun i => i.st == .retiring)).foldl (fun u i =>
    imageAnswered (postRec u i.queue i.sess (imageRec i 6)) i) s1
  (s2.mapMem (fun m => m.zeroRange taskMemBase 0x800000)).mapDrover (fun d => { d with images := [] })

/-- R394: the critical event. No reset notice is recorded, since it starts no reset. -/
def critical (s : State) : State :=
  let i := hottest s
  let s1 := s.fault slotPwr { code := 0x0802, d0 := w32 i, d1 := BitVec.ofInt 32 (reading s i) }
  let s2 := (s1.pulse slotPwr 2).pulse slotMgmt 0
  let s3 : State := { s2 with resets := { s2.resets with crit := [.compute, .herd, .paddock] } }
  let s4 := abortWhere (haltBanks s3) 0x0802 (fun _ => true)
  let s5 := paddockReset s4
  let s6 := imagesLost s5
  let s7 := ((List.range 16) ++ [22, 23]).foldl critOff s6
  let s8 := mandatory s7 0x0802 [w32 i, BitVec.ofInt 32 (reading s i)]
  critDone (smbAlert (s8.mapPower (fun p => { p with halt := true, thermTrip := true })) 1)

/-- SENSOR_SAMPLE (R392 to R394). -/
def sensorSample (s : State) (t : List (BitVec 16)) : State :=
  let s1 := s.mapPower (fun p => { p with temps := t.zipIdx.map (fun x => (x.2, x.1)), sampled := true })
  let c := cautionNow s1
  let s2 := s1.mapPower (fun p => { p with caution := c })
  let s3 := if s.power.caution.isEmpty && !c.isEmpty then smbAlert s2 0 else s2
  if decide (1760 ≤ reading s3 (hottest s3)) && !s.power.halt then critical s3 else s3

/-- SENSOR_SAMPLE. -/
def execSensorSample (t : Vector (BitVec 16) 96) (s : State) : Res :=
  .next (onlyIf s.power.aoOn (fun u => sensorSample u t.toList) s)

/-- THERM_CTRL.RESUME (R395); `v` is the word written. -/
def thermResume (s : State) (v : Word) : State :=
  if (List.range 96).all (fun i => decide (reading s i < 16 * (cautionAt s - 10))) then
    s.mapPower (fun p => { p with halt := false, thermTrip := false })
  else fieldRefused s 8 v

/-- A write of THERM_CTRL.CAUTION: outside 60 to 105 °C the field keeps its value (Table 14-10). -/
def cautionWrite (s : State) (v : Word) : State :=
  let n := bits v 7 0
  if 60 ≤ n ∧ n ≤ 105 then s.setReg slotPwr 0x058 (w32 n) else fieldRefused s 9 v

/-! ### Supply readings (R373) -/

/-- VIN outside 40 to 60 V. -/
def vinOut (v : Word) : Bool := decide (v.toNat < 4000) || decide (6000 < v.toNat)

/-- SUPPLY_SAMPLE. -/
def supplySample (s : State) (vin iin pin : BitVec 16) : State :=
  let was := vinOut (s.reg slotPwr 0x048) && (Tbl.get s.regs (regAt slotPwr 0x048)).isSome
  let s1 := ((s.setReg slotPwr 0x048 (vin.setWidth 32)).setReg slotPwr 0x04C (iin.setWidth 32)).setReg slotPwr 0x050
    (pin.setWidth 32)
  if vinOut (vin.setWidth 32) && !was then smbAlert s1 2 else s1

def execSupplySample (vin iin pin : BitVec 16) (s : State) : Res :=
  .next (onlyIf s.power.aoOn (fun u => supplySample u vin iin pin) s)

end Sys2Proof.Machine
end

