-- ==== Sys2Proof/Machine/Fence.lean ====
section
/-! DEFINITION. The start of a reset: causes, hurdle, notice, aborts and the wake of its domains
(16_faults_recovery.md R413 to R422, R432; 14_power_clocks.md R464). -/

namespace Sys2Proof.Machine

/-! ### Domains (Table 16-2) -/

/-- Domain code and unit. -/
def rdomCode : RDom → Nat × Nat
  | .core c => (1, c.val)
  | .fold f => (2, f.val)
  | .compute => (3, 0)
  | .herd => (4, 0)
  | .paddock => (5, 0)
  | .host => (6, 0)
  | .port p => (7, p.val)
  | .mgmt => (8, 0)
  | .module => (9, 0)

/-- The domain of a code and unit, where both are in range. -/
def rdomOf (code unit : Nat) : Option RDom :=
  match code with
  | 1 => if unit < 256 then some (.core (coreOf unit)) else none
  | 2 => if unit < 16 then some (.fold (Fin.ofNat 16 unit)) else none
  | 3 => some .compute
  | 4 => some .herd
  | 5 => some .paddock
  | 6 => some .host
  | 7 => if unit < 6 then some (.port (Fin.ofNat 6 unit)) else none
  | 8 => some .mgmt
  | 9 => some .module
  | _ => none

/-- The fault of the instances that a reset aborts, and the code of its notice (Tables 16-1, 16-2). -/
def rdomFault : RDom → Nat
  | .core _ => 0x0901
  | .fold _ => 0x0902
  | .compute => 0x0903
  | .herd => 0x0904
  | .paddock => 0x0905
  | .host => 0x0701
  | .port _ => 0x0906
  | .mgmt => 0x0907
  | .module => 0x0908

/-- The power domains that a reset wakes (R421). -/
def wokenDoms : RDom → List Nat
  | .core c => [c.val / 16]
  | .fold f => [f.val]
  | .compute => List.range 16
  | .herd => [22]
  | .paddock => [23]
  | .module => List.range 16 ++ [22, 23]
  | _ => []

/-- The domain is off, or entering off (R421, R464). -/
def isOff (s : State) (d : Nat) : Bool :=
  let v := s.dom d
  (v.st == .off && !v.waking) || v.target == some .off

/-- R421: the reset is discarded because its power domain is off. -/
def resetOff (s : State) (d : RDom) : Bool :=
  match d with
  | .core c => isOff s (c.val / 16)
  | .fold f => isOff s f.val
  | .herd => isOff s 22
  | .paddock => isOff s 23
  | _ => false

/-! ### What the hurdle does (R419) -/

/-- The instances of Table 16-2. -/
def hitBy (s : State) (d : RDom) (i : Inst) : Bool :=
  match d with
  | .core c => touchesCore s i c.val
  | .fold f => touchesFold s i f.val
  | .compute => true
  | .herd => hasHerdTask s i
  | .paddock => hasPaddock s i
  | .module => true
  | _ => false

/-- DRVR records the reset that aborts an instance, in the domains that Table 16-1 names. DEDUCED, log entry 27. -/
def drvrNotes (s : State) (d : RDom) : State :=
  match d with
  | .core _ | .fold _ | .herd | .paddock =>
    (s.drover.insts.filter (hitBy s d)).foldl (fun u i =>
      u.fault slotDrvr { code := rdomFault d, ctx := some i.ctx, sess := some i.sess,
                         core := match d with
                           | .core c => some c.val
                           | _ => none }) s
  | _ => s

/-- After a compute or module reset BUSY bits are left as they were (06_attention_kv.md R156): the aborts do not see that an
ATTEND in progress appends. -/
def forgetAppends (s : State) (d : RDom) : State :=
  match d with
  | .compute | .module =>
    { s with cores := Tbl.mapV s.cores (fun _ k => { k with att := k.att.map (fun a => { a with append := false }) }) }
  | _ => s

/-- A reset that reaches the Paddock stops its operations before the aborts. -/
def forgetOps (s : State) (d : RDom) : State :=
  match d with
  | .paddock | .module => haltBanks s
  | _ => s

/-- The aborts of Table 16-2; those of a watchdog reset, cause 3, have no records (R417). -/
def resetAborts (s : State) (d : RDom) (cause : Nat) : State :=
  match d with
  | .host => closeWhere s 3 (fun _ => true)
  | .port _ | .mgmt => s
  | .module => closeWhere (abortWhere (forgetOps (forgetAppends s d) d) (rdomFault d) (fun _ => true)) 3 (fun _ => true)
  | _ =>
    let s1 := forgetOps (forgetAppends (drvrNotes s d) d) d
    if cause = 3 then abortHung s1 (rdomFault d) else abortWhere s1 (rdomFault d) (hitBy s1 d)

/-- The reset notice in HOST instance 0; a module and a host port reset record none. -/
def resetNotice (s : State) (d : RDom) (cause : Nat) : State :=
  match d with
  | .module | .host => s
  | _ => hostFault s (rdomFault d) none none (fld (rdomCode d).1 24 ||| w32 (rdomCode d).2) (w32 cause)

/-- Domains in doze or nap are woken, and an entry to doze or nap is reversed (R419, R421). -/
def resetWakes (s : State) (d : RDom) : State :=
  let s1 := (wokenDoms d).foldl (fun u x => if isOff u x then u else startWake u x) s
  match d with
  | .port p => if (s1.dom (16 + p.val)).target.isSome then startWake s1 (16 + p.val) else s1
  | _ => s1

/-! ### Starting (R415, R421, R432) -/

def mapResets (s : State) (f : Resets → Resets) : State := { s with resets := f s.resets }

/-- The chain that a reset joins: that of a contained reset in progress, or a new one (R431, R432). -/
def joinChain (s : State) (d : RDom) (cause : Nat) : Nat × Resets :=
  let r := s.resets
  match r.runs.find? (fun x => rcovers d x.dom) with
  | some x => (x.chain, { r with chains := r.chains.map (fun c => if c.id = x.chain then { c with final := d } else c) })
  | none =>
    (r.nextId, { r with
      nextId := r.nextId + 1
      chains := r.chains ++ [{ id := r.nextId, first := d, final := d, cause := cause, time := s.ac, dump := none, base := 0
                               size := 0, records := 0, unread := 0, bytes := 0, trunc := false, marked := [] }] })

/-- The trace entry of a phase of a reset. -/
def tracePhase (s : State) (d : RDom) (cause phase : Nat) : State :=
  traceEv s 5 0x0E slotMgmt 0 0 0 [fld (rdomCode d).1 24 ||| w32 (rdomCode d).2, w32 cause, w32 phase]

/-- The hurdle is raised: the phases of contained resets are merged into this one. -/
def raise (s : State) (d : RDom) (cause : Nat) : State :=
  let j := joinChain s d cause
  let run : RRun := { dom := d, cause := cause, phase := .drain, since := s.now, chain := j.1 }
  let s1 : State := { s with resets := { j.2 with runs := j.2.runs.filter (fun x => !rcovers d x.dom) ++ [run] } }
  let s2 := (s1.setReg slotMgmt 0x184 (fld (rdomCode d).1 24 ||| w32 (rdomCode d).2)).bump slotMgmt 0x188 1
  let s3 := resetWakes (resetAborts (s2.pulse slotMgmt 0) d cause) d
  let s4 := tracePhase (resetNotice s3 d cause) d cause 1
  match d with
  | .module =>
    let first := match s4.resets.chains.find? (fun c => c.id == j.1) with
      | some c => (rdomCode c.first).1
      | none => 9
    mandatory (s4.mapPower (fun p => { p with pwrGood := false })) 0x0908 [w32 cause, w32 first, s4.reg slotMgmt 0x18C]
  | _ => s4

/-- A reset is requested; `refuse` is what a commanded one does where it is absorbed or discarded (R421, R432). -/
def startReset (s : State) (d : RDom) (cause : Nat) (refuse : State → State) : State :=
  if s.hurdled d || resetOff s d then refuse s else raise s d cause

/-- RESET_CMD.GO (Table 16-11). -/
def resetCmd (s : State) : State :=
  let v := s.reg slotMgmt 0x180
  let refuse := fun (u : State) => u.strobeRefused slotMgmt 0x180 31 3
  match rdomOf (bits v 19 16) (bits v 7 0) with
  | some d => startReset s d 1 refuse
  | none => refuse s

/-- PCIE_HOT_RESET (R415): hot reset or loss of the host link. -/
def pcieHotReset (s : State) : State :=
  if (s.dom 25).st = .run then startReset s .host 6 id else s

def execPcieHotReset (s : State) : Res := .next (pcieHotReset s)

/-- MOD_RST_ASSERT (R410, R415): after step 7. -/
def modRst (s : State) : State := if s.power.pwrGood then startReset s .module 5 id else s

def execModRstAssert (s : State) : Res := .next (modRst s)

/-! ### Hangs (R416, R417) -/

/-- A core has transfers of the task in flight and has not reported its stop. -/
def notStopped (s : State) (w : StopWait) : Bool :=
  decide (w.unit < 256) && (s.core w.unit).chans.any (fun p => p.2.flights.any (fun f => f.task == w.task))

/-- A core of a task that has not drained within NP_FC + 1,000 fc of its suspension. -/
def lateDrain (s : State) : Option (Nat × Nat) :=
  (Tbl.keys s.drover.tasks).findSome? (fun t =>
    match s.task t, taskD s t with
    | some k, some d =>
      if k.st = .draining ∧ k.since + d.np + 1000 < s.now then
        (d.cores.find? (fun c => (s.core c).prog.isSome || (s.core c).mm.isSome || (s.core c).dr.isSome
          || (s.core c).att.isSome || !(s.core c).arrQ.isEmpty || !(s.core c).drQ.isEmpty || !(s.core c).attQ.isEmpty
          || (s.core c).chans.any (fun p => !p.2.flights.isEmpty))).map (fun c => (c, t))
      else none
    | _, _ => none)

/-- A unit is hung (R416). -/
def hung (s : State) (unit t : Nat) : State :=
  let s1 := s.fault slotDrvr { code := 0x0403, task := some t, d0 := w32 unit, d1 := w32 t }
  let d : RDom := if unit < 256 then .core (coreOf unit) else if unit = 256 then .herd else .paddock
  startReset s1 d 2 id

/-- HANG_DETECT (R416). -/
def hangDetect (s : State) : State :=
  let live := s.drover.stops.filter (notStopped s)
  let s1 := s.mapDrover (fun d => { d with stops := live })
  match live.find? (fun w => decide (w.by_ < s.now)) with
  | some w => hung (s1.mapDrover (fun d => { d with stops := d.stops.filter (· != w) })) w.unit w.task
  | none =>
    match lateDrain s with
    | some x => hung s1 x.1 x.2
    | none => s1

def execHangDetect (s : State) : Res := .next (hangDetect s)

/-- HEARTBEAT_CHECK (R417): `beat` says whether the Drover's heartbeat was found. -/
def heartbeatCheck (s : State) (beat : Bool) : State :=
  if !s.power.aoOn then s
  else mapResets s (fun r => { r with missed := if beat then 0 else r.missed + 1 })

def execHeartbeatCheck (beat : Bool) (s : State) : Res := .next (heartbeatCheck s beat)

/-- WATCHDOG_EXPIRE (R417): 50 checks in a row without a heartbeat. -/
def watchdogExpire (s : State) : State :=
  if 50 ≤ s.resets.missed then startReset (mapResets s (fun r => { r with missed := 0 })) .compute 3 id else s

def execWatchdogExpire (s : State) : Res := .next (watchdogExpire s)

end Sys2Proof.Machine
end

