-- ==== Sys2Proof/Machine/Firmware.lean ====
section
/-! DEFINITION. Firmware images and boot headers in the flash (17_sharal_tally.md R440, R441, Tables 17-2, 17-3). -/

namespace Sys2Proof.Machine

/-- Fields of an image header (Table 17-2). -/
def fwMagic (h : List Word) : Word := wd h 0
def fwVersionOf (h : List Word) : Word := wd h 1
def fwRollback (h : List Word) : Nat := bits (wd h 2) 6 0
def fwLength (h : List Word) : Nat := (wd h 3).toNat
def fwKey (h : List Word) : Nat := bits (wd h 4) 1 0
def fwDigest (h : List Word) : List Byte := wordsBytes ((h.drop 5).take 12)
def fwSigned (h : List Word) : List Byte := wordsBytes (h.take 17)
def fwSignature (h : List Word) : List Byte := wordsBytes ((h.drop 17).take 24)

/-- The header is as Table 17-2 gives it, and the body holds LENGTH bytes. -/
def fwShapeOk (i : FwImage) : Bool :=
  let h := i.header
  let n := fwLength h
  fwMagic h == 0x5348524C && decide (1 ≤ n) && decide (n ≤ 458240) && decide (n ≤ i.body.length)
    && decide (fwRollback h ≤ 64) && bits (wd h 2) 31 7 == 0 && bits (wd h 4) 31 2 == 0 && (h.drop 41).all (· == 0)

/-- The first check of R440 that an image fails, as Table 17-5 numbers them; 0 where it is accepted. -/
def fwCheck (i : FwImage) (fuse : Nat) : Nat :=
  let h := i.header
  if !fwShapeOk i then 1
  else if !Config.signatureOk (fwKey h) (sha384 (fwSigned h)) (fwSignature h) then 2
  else if fwDigest h != sha384 (i.body.take (fwLength h)) then 3
  else if fwRollback h < fuse then 4
  else 0

/-- An image as its bytes give it: a header of 512 bytes and the body. -/
def fwOfBytes (bs : List Byte) : FwImage := { header := leWords (bs.take 512), body := bs.drop 512 }

/-- The boot header in use: the valid copy with the higher GEN, else TRIAL = 0 (R441). -/
def bootHdr (h : Sharal) : BootHdr :=
  if h.hdr0.valid && (!h.hdr1.valid || decide (h.hdr1.gen ≤ h.hdr0.gen)) then h.hdr0
  else if h.hdr1.valid then h.hdr1
  else { valid := false, gen := 0, trial := false, tried := false }

/-- A boot header copy is written over the copy that is not in use, with the next GEN. -/
def writeHdr (h : Sharal) (trial tried : Bool) : Sharal :=
  let use := bootHdr h
  let new : BootHdr := { valid := true, gen := use.gen + 1, trial := trial, tried := tried }
  if h.hdr0 = use then { h with hdr1 := new } else { h with hdr0 := new }

/-- The image that runs. -/
def runningImage (h : Sharal) : FwImage := if h.runB then h.slotB else h.slotA

/-- The image in the other slot. -/
def otherImage (h : Sharal) : FwImage := if h.runB then h.slotA else h.slotB

/-- FW_STATUS, FW_VERSION and FW_OTHER (Table 17-16). -/
def fwStatus (h : Sharal) : Word :=
  flag h.runB 31 ||| flag (bootHdr h).trial 30 ||| flag (bootHdr h).tried 29 ||| fld h.fuse 16

def fwOther (h : Sharal) : Word := if fwCheck (otherImage h) h.fuse = 0 then fwVersionOf (otherImage h).header else 0

end Sys2Proof.Machine
end

