-- ==== Sys2Proof/Machine/RegRead.lean ====
section
/-! DEFINITION. What every register reads (00_scope.md R9, R15; 02_register_pages.md R36 to R41 and the register
tables of the chapters), the level events of every page, and the reach of a requester (13_host_sessions.md R347). -/

namespace Sys2Proof.Machine

/-! ### Level events (R47) -/

/-- The search side of the Paddock runs a task: a herd task that holds a Paddock claim (11_paddock.md R287). -/
def searchBusy (s : State) : Bool :=
  match occupant s 256 with
  | some t => (taskClaims s t).any (fun c => c.type == 4)
  | none => false

/-- The update side runs a task. -/
def updateBusy (s : State) : Bool := (occupant s 257).isSome

/-- An ARR page is idle (04_matrix_array.md Table 4-14). -/
def arrIdle (k : Core) : Bool := k.arrQ.isEmpty && k.drQ.isEmpty && k.mm.isNone && k.fins.isEmpty && k.dr.isNone

/-- Transfers of a core's channels that are outstanding. -/
def flightsOf (k : Core) : Nat := (k.chans.map (fun p => p.2.flights.length)).foldl (· + ·) 0

/-- The block-specific bits of EVT_RAW that show a level. -/
def blockLevels (s : State) (slot : Nat) : Word :=
  match pageKind slot with
  | .arr c => flag (arrIdle (s.core c)) 2
  | .att c => flag ((s.core c).att.isNone && (s.core c).attQ.isEmpty) 2
  | .strm c => flag (!(s.core c).chans.any (fun p => p.2.armed) && flightsOf (s.core c) == 0) 0
  | .drove c => flag ((s.core c).drove.any (fun p => stalls s p.2)) 1 ||| flag (s.core c).drove.isEmpty 0
  | .herd => flag s.herd.run.isNone 0
  | .drvr => flag s.drover.insts.isEmpty 0
  | .padk => flag (!searchBusy s && !updateBusy s) 0
  | .bank b => flag ((s.bank b).st == .inconsistent) 2 ||| flag ((s.bank b).st == .hole) 1
  | .link p => flag ((s.port p).st == .up) 3
  | .pwr =>
    flag (vinOut (s.reg slotPwr 0x048) && (Tbl.get s.regs (regAt slotPwr 0x048)).isSome) 4
      ||| flag (!s.power.caution.isEmpty) 3
  | .queue q => flag (sqHead s q == sqTail s q && (s.queue q).staged.isEmpty) 0
  | _ => 0

/-- The levels of EVT_RAW: those of the block, and HURDLE. -/
def levels (s : State) (slot : Nat) : Word := blockLevels s slot ||| flag (s.pageHurdle slot) 30

def evtRaw (s : State) (slot : Nat) : Word := (s.evt slot).pulses ||| levels s slot

/-! ### STATUS (Tables 2-7, 4-13, 6-10, 7-7, 8-7, 10-14; R250, R309, R396) -/

/-- A bit for each chain slot of a core that satisfies a test. -/
def slotBits (k : Core) (p : ChSlot → Bool) (lo : Nat) : Word :=
  (List.range 4).foldl (fun (w : Word) i =>
    match k.chSlot i with
    | some v => w ||| flag (p v) (lo + i)
    | none => w) 0

def blockStatus (s : State) (slot : Nat) : Word :=
  match pageKind slot with
  | .arr c =>
    let k := s.core c
    fld k.arrQ.length 21 ||| fld k.drQ.length 18 ||| flag (k.mm.isSome || !k.fins.isEmpty) 17 ||| flag k.dr.isSome 16
  | .att c => fld (s.core c).attQ.length 24 ||| flag (s.core c).att.isSome 23
  | .strm c =>
    (List.range 8).foldl (fun (w : Word) i => w ||| flag ((s.core c).chan i).armed (20 + i)) (fld (flightsOf (s.core c)) 16)
  | .drove c =>
    let k := s.core c
    slotBits k (fun _ => true) 24 ||| slotBits k ChSlot.lead 20 ||| slotBits k (·.detached) 16
  | .drvr => flag (!s.hurdled .compute && s.roles.isEmpty) 27
  | .herd =>
    match s.herd.run with
    | some r => flag true 27 ||| flag (jPad r.words) 26 ||| flag (jCarry r.words) 25 ||| w32 (r.count - r.written)
    | none => 0
  | .padk => flag (searchBusy s) 27 ||| flag (updateBusy s) 26
  | .pwr => flag s.power.halt 27 ||| flag (!s.power.caution.isEmpty) 26
  | _ => 0

def pageStatus (s : State) (slot : Nat) : Word :=
  let d := s.dstate slot
  fld d 29 ||| flag (s.pageHurdle slot) 28 ||| (if 2 ≤ d then 0 else blockStatus s slot)

/-! ### Registers of the pages -/

/-- CB_STATE (Table 3-7). -/
def cbState (v : CbSlot) : Word :=
  let kind := if v.failed then 3 else if v.books.isEmpty then 0 else if v.wide then 1 else 2
  let valid := if v.failed then 0 else if v.wide then (if v.books.isEmpty then 0 else 1) else 2 ^ v.books.length - 1
  fld kind 30 ||| flag v.loading 29 ||| flag (!v.claims.isEmpty) 28
    ||| flag (!v.failed && !v.books.isEmpty && v.books.all Book.narrow) 27 ||| fld v.pins.length 16 ||| w32 valid

/-- CB_TAG at slot and sub-position `i` = 16s + p. -/
def cbTag (k : Core) (i : Nat) : Word :=
  let v := k.slot (i / 16)
  if v.failed then 0 else
  match v.books[i % 16]? with
  | some b => b.tag
  | none => 0

/-- TILE_STATE (Table 5-9). -/
def tileState (t : Tile) : Word :=
  flag t.holder.isSome 31 ||| flag t.boundLost 30 ||| flag t.ovfAny 29 ||| flag t.inexAny 28 ||| flag t.arrAny 27 |||
  (match t.extent with
   | some e =>
     let stripes := if !e.striped then 0 else if e.stripes = 4 then 0 else if e.stripes = 8 then 1
       else if e.stripes = 16 then 2 else 3
     flag true 26 ||| fld (if e.striped then 1 else 0) 24 ||| fld stripes 22 ||| fld e.rows 14 ||| fld e.cols 6
   | none => 0)

def tileReg (t : Tile) (off : Nat) : Word :=
  match off with
  | 0x00 => tileState t
  | 0x04 => w32 (t.groups % 2 ^ 20)
  | 0x08 => match t.holder with
    | some x => flag true 31 ||| w32 x
    | none => 0
  | 0x0C => t.scale
  | _ => 0

def arrReg (s : State) (c off : Nat) : Word :=
  let k := s.core c
  if 0x100 ≤ off ∧ off < 0x110 then tileReg k.tileA (off - 0x100)
  else if 0x140 ≤ off ∧ off < 0x150 then tileReg k.tileB (off - 0x140)
  else if 0x200 ≤ off ∧ off < 0x240 then cbState (k.slot ((off - 0x200) / 4))
  else if 0x400 ≤ off ∧ off < 0x800 then cbTag k ((off - 0x400) / 4)
  else s.reg (slotArr c) off

/-- Registers of a channel (Tables 7-6, 7-8). -/
def chanReg (s : State) (k : Core) (h : Chan) (off : Nat) : Word :=
  match off with
  | 0x00 =>
    flag h.armed 31 ||| flag h.desc.write 30 ||| fld h.desc.feed 28 ||| flag h.desc.index 27 ||| fld h.useHalf 26
      ||| flag h.primed 25 ||| fld (if h.armed then min 16 (queueFill s k h) else 0) 20 ||| fld (min 7 h.flights.length) 17
      ||| flag h.waiting 16
  | 0x04 => w32 h.descAddr
  | 0x08 => w32 h.base
  | 0x0C => w32 h.done
  | 0x10 => h.scale
  | 0x14 => h.conv
  | 0x18 => w32 (h.tokens % 8192)
  | 0x1C => fld (h.swaps % 65536) 16 ||| w32 (h.auth % 65536)
  | _ => 0

def strmReg (s : State) (c off : Nat) : Word :=
  if 0x100 ≤ off ∧ off < 0x200 then chanReg s (s.core c) ((s.core c).chan ((off - 0x100) / 0x20)) (off % 0x20)
  else s.reg (slotStrm c) off

/-- Registers of a chain slot (Tables 8-6, 8-8). -/
def chainReg (s : State) (v : ChSlot) (off : Nat) : Word :=
  match off with
  | 0x00 =>
    flag true 31 ||| flag v.lead 30 ||| flag v.joined.isSome 29 ||| flag v.detached 28 ||| flag v.catches 27
      ||| flag v.desc.fabric 26 ||| fld v.pos 20 ||| fld v.allow 16 ||| fld (v.joined.getD 0) 13 ||| fld v.ring.length 6
  | 0x04 => flag true 31 ||| fld v.chain 12 ||| w32 (v.task.getD 0)
  | 0x08 => fld v.gen 24 ||| w32 (v.committed v.gen)
  | 0x0C => fld v.recvGen 24 ||| w32 v.recvSeq
  | 0x10 =>
    (match successor s v with | some c => flag true 31 ||| fld c 16 | none => 0)
      ||| (match predecessor s v with | some c => flag true 15 ||| w32 c | none => 0)
  | _ => 0

def droveReg (s : State) (c off : Nat) : Word :=
  if 0x100 ≤ off ∧ off < 0x180 then
    match (s.core c).chSlot ((off - 0x100) / 0x20) with
    | some v => chainReg s v (off % 0x20)
    | none => 0
  else s.reg (slotDrove c) off

/-- The always-on counter at the start of ledger slot 0, as it stands now (R233). -/
def slotBaseNow (s : State) : Nat := if s.ac < s.drover.slotBase + 5000 then s.drover.slotBase else s.ac - s.ac % 5000

def drvrReg (s : State) (off : Nat) : Word :=
  match off with
  | 0x064 => fld s.drover.tasks.length 16 ||| w32 (s.drover.images.filter (fun i => i.st != .loading)).length
  | 0x068 => w32 s.drover.insts.length
  | 0x06C => w32 (slotBaseNow s)
  | 0x084 => s.drover.snapDem
  | 0x088 => s.drover.snapFirst
  | 0x08C => s.drover.snapRes
  | _ => s.reg slotDrvr off

def herdReg (s : State) (off : Nat) : Word :=
  if off = 0x05C then (match s.herd.run with | some r => w32 r.written | none => 0) else s.reg slotHerd off

def bankReg (s : State) (b off : Nat) : Word :=
  let v := s.bank b
  match off with
  | 0x040 => bankState v
  | 0x044 => bankHole v
  | 0x048 => w32 v.gold
  | 0x04C => w32 v.queue.length
  | 0x05C => w32 v.scrub
  | _ => if 0x080 ≤ off ∧ off < 0x0C0 then wd v.map ((off - 0x080) / 4) else s.reg (slotBank b) off

def LinkSt.code : LinkSt → Nat
  | .down => 0
  | .training => 1
  | .up => 2
  | .retrain => 3
  | .miswired => 4

def linkReg (s : State) (p off : Nat) : Word :=
  let v := s.port p
  match off with
  | 0x040 => fld v.st.code 29 ||| flag v.reversed 28 ||| fld v.peerPort 16 ||| v.peer.setWidth 32
  | 0x044 => v.polLo
  | 0x048 => v.polHi.setWidth 32
  | 0x06C => w32 (s.fabric.pend.filter (fun x => x.port == p)).length
  | _ => s.reg (slotLink p) off

/-- DOM_STATE (Table 14-13). -/
def domState (s : State) (d : Nat) : Word :=
  let v := s.dom d
  fld (s.domSt d).code 29 ||| flag v.target.isSome 28 ||| flag (v.waking || followerWakes s d) 27 ||| flag v.hold 26 ||| flag (domDemand s d) 25
    ||| flag v.commit 24

/-- A sensor register: the last sample since the page was reset. -/
def tempWord (s : State) (i : Nat) : Word := if s.power.sampled then (Tbl.getD s.power.temps i 0).setWidth 32 else 0

def thermStatus (s : State) : Word :=
  s.power.caution.foldl (fun (w : Word) f => w ||| flag true f)
    (flag s.power.halt 31 ||| flag (!s.power.caution.isEmpty) 30)

def pwrReg (s : State) (off : Nat) : Word :=
  if off = 0x054 then (if s.power.sampled then fld (hottest s) 24 ||| tempWord s (hottest s) else 0)
  else if off = 0x05C then thermStatus s
  else if 0x100 ≤ off ∧ off < 0x170 then domState s ((off - 0x100) / 4)
  else if 0x300 ≤ off ∧ off < 0x370 then
    let d := (off - 0x300) / 4
    if s.domSt d = .off ∨ s.power.sampled = false then 0 else (Config.railMv d s.now).setWidth 32
  else if 0x400 ≤ off ∧ off < 0x580 then tempWord s ((off - 0x400) / 4)
  else s.reg slotPwr off

/-- PHASE of RESET_STATUS, of the reset most recently started. -/
def resetPhase (s : State) : Nat :=
  let v := s.reg slotMgmt 0x184
  match s.resets.runs.find? (fun r => rdomCode r.dom == (bits v 27 24, bits v 7 0)) with
  | some r => match r.phase with
    | .drain => 1
    | .sample => 2
    | .asserted => 3
  | none => 0

/-- A word of the always-on area. -/
def aoWord (s : State) (i : Nat) : Word := wd s.resets.ao i

/-- A sample is being written to the dump buffer. -/
def dumpWriting (s : State) : Bool := s.resets.chains.any (fun c => c.dump == some true)

/-- The word of the trace ring that TRACE_INDEX selects. -/
def traceWord (s : State) : Word :=
  let i := bits (s.reg slotMgmt 0x320) 17 0
  wd (s.sharal.ring.getD (i / 8) []) (i % 8)

def mgmtReg (s : State) (off : Nat) : Word :=
  match off with
  | 0x100 => (s.reg slotMgmt 0x100 &&& 0xFF) ||| flag (!s.roles.isEmpty) 30 ||| fld s.roles.length 8
  | 0x184 => (s.reg slotMgmt 0x184 &&& 0x0FFFFFFF) ||| fld (resetPhase s) 28
  | 0x1A0 => (s.reg slotMgmt 0x1A0 &&& 0x2000FFFF) ||| flag (dumpWriting s) 31 ||| flag s.resets.aoUsed 30
  | 0x1AC => aoWord s (bits (s.reg slotMgmt 0x1A8) 13 0)
  | 0x1B0 => w32 (4 * s.resets.ao.length)
  | 0x200 => fwStatus s.sharal
  | 0x204 => s.sharal.fwVer
  | 0x208 => fwOther s.sharal
  | 0x304 => flag s.sharal.tracing 31 ||| flag s.sharal.trFull 30 ||| flag s.sharal.copying 29
  | 0x308 => w32 s.sharal.ring.length + (if s.sharal.ring.length = 32768 then 0x8000 else 0)
  | 0x30C => w32 s.sharal.trLost
  | 0x310 => w32 (s.sharal.trStart / 40)
  | 0x314 => w32 (s.sharal.trStart / 40 / 2 ^ 32 % 65536)
  | 0x324 => traceWord s
  | 0x340 => flag s.sharal.counting 0
  | 0x404 => s.reg slotMgmt 0x404 ||| flag s.sharal.mbox.isSome 31
  | _ => s.reg slotMgmt off

/-! ### The trigger table (17_sharal_tally.md R457) -/

/-- Table 17-14; every other entry is disabled. -/
def trigDefault (i : Nat) : Trig :=
  let e := fun (code : Nat) (l : List Word) => ({ en := true, code := code, nsnap := l.length, snaps := l } : Trig)
  match i with
  | 0 => e 0x0003 [0x8000002C, 0x80000030, 0x80000038]
  | 1 => e 0x0002 [0x8000002C, 0x80000030, 0x80000038]
  | 2 => e 0x0403 [0x80000038, 0x8000003C]
  | 3 => e 0x0402 [0x80000038, 0x8000003C]
  | 4 => e 0x0902 [0x80000038, 0x8000003C]
  | 5 => e 0x0903 [0x80000038, 0x8000003C]
  | _ => { en := false, code := 0, nsnap := 0, snaps := [] }

def trigOf (s : State) (i : Nat) : Trig := Tbl.getD s.sharal.trigs i (trigDefault i)

def tallyReg (s : State) (off : Nat) : Word :=
  let t := s.sharal.tally
  let g := trigOf s (bits (s.reg slotTally 0x100) 5 0)
  if 0x080 ≤ off ∧ off < 0x100 then wd t.win ((off - 0x080) / 4)
  else if 0x108 ≤ off ∧ off < 0x128 then wd g.snaps ((off - 0x108) / 4)
  else match off with
  | 0x040 => w32 (seqView t.head)
  | 0x044 => w32 (seqView t.tail)
  | 0x048 => w32 t.staged
  | 0x050 => w32 t.hours
  | 0x054 => w32 t.cycles
  | 0x060 => w32 t.winStat
  | 0x104 => flag g.en 31 ||| fld g.nsnap 24 ||| w32 g.code
  | _ => s.reg slotTally off

/-- PORT_STATUS (Table 13-10): a rate and a width that it allows, 0 while the link is down. -/
def portStatus (s : State) : Word :=
  if !s.host.linkUp then 0 else
  fld (4 + (Config.portRate s.now).val) 4 ||| (match (Config.portWidth s.now).val with | 0 => 4 | 1 => 8 | _ => 0xF)

/-- The page's event output is asserted; from the start of a reset that reaches the page to its return to run, and
while the domain is off, it is not (R56). -/
def outAsserted (s : State) (slot : Nat) : Bool := decide (s.dstate slot < 3) && evtOut s slot

/-- EVT_SUM0 to EVT_SUM10 (Table 13-10). -/
def evtSum (s : State) (i : Nat) : Word :=
  let sum := fun (l : List Nat) => l.zipIdx.foldl (fun (w : Word) p => w ||| flag (outAsserted s p.1) p.2) 0
  if i < 8 then
    (List.range 32).foldl (fun (w : Word) n =>
      let c := 32 * i + n
      w ||| flag ([slotCore c, slotArr c, slotAtt c, slotStrm c, slotDrove c].any (outAsserted s)) n) 0
  else if i = 8 then
    sum ((List.range 16).map slotFold ++ (List.range 7).map slotLink
      ++ [slotHerd, slotDrvr, slotPwr, slotMgmt, slotTally, slotHost, slotPadk])
  else sum ((List.range 32).map (fun n => slotBank (32 * (i - 9) + n)))

/-- Registers of HOST instance 0; `f` is the function that asks (R348). -/
def hostReg (s : State) (f off : Nat) : Word :=
  if off = 0x088 then
    let v := s.reg slotHost (0x200 + 4 * f)
    fld f 26 ||| fld (bits v 26 16) 14 ||| w32 (bits v 9 0)
  else if 0x040 ≤ off ∧ off < 0x100 then s.bank_ f off
  else if off = 0x104 then portStatus s
  else if off = 0x10C then w32 (s.host.sessions.filter (fun p => !p.2.closing)).length
  else if 0x140 ≤ off ∧ off < 0x16C then evtSum s ((off - 0x140) / 4)
  else s.reg slotHost off

def queueReg (s : State) (q off : Nat) : Word :=
  let v := s.queue q
  match off with
  | 0x040 => flag v.sess.isSome 31 ||| flag v.enable 30 ||| flag v.draining 29 ||| fld (v.sess.getD 0) 16 ||| w32 v.func
  | 0x044 => s.reg (slotQueue q) 0x044 ||| flag v.enable 31
  | _ => s.reg (slotQueue q) off

/-- A register beyond the header. -/
def blockReg (s : State) (f slot off : Nat) : Word :=
  match pageKind slot with
  | .arr c => arrReg s c off
  | .strm c => strmReg s c off
  | .drove c => droveReg s c off
  | .drvr => drvrReg s off
  | .herd => herdReg s off
  | .bank b => bankReg s b off
  | .link p => linkReg s p off
  | .route => if off = 0x054 then rtRead s else s.reg slotRoute off
  | .pwr => pwrReg s off
  | .mgmt => mgmtReg s off
  | .tally => tallyReg s off
  | .host => hostReg s f off
  | .queue q => queueReg s q off
  | _ => s.reg slot off

/-- The page header and the registers beyond it, of a page in run or doze (R37). -/
def pageReg (s : State) (f slot off : Nat) : Word :=
  match off with
  | 0x000 => fld (pageType slot) 24 ||| w32 (pageInst slot)
  | 0x004 => 0x100
  | 0x00C => pageStatus s slot
  | 0x010 => evtRaw s slot
  | 0x018 => (s.evt slot).latch
  | _ => if off < 0x040 then s.reg slot off else blockReg s f slot off

/-- What a 32-bit read of BAR0 gives a requester that may reach the page (R36, R38, R40): a page in nap, off or in
reset answers only its identity, version and STATUS; a reserved slot reads 0. -/
def regRead (s : State) (f a : Nat) : Word :=
  let slot := a / 0x1000
  let off := a % 0x1000
  if pageKind slot = .none ∨ a % 4 ≠ 0 then 0
  else if s.dstate slot < 2 ∨ off = 0x000 ∨ off = 0x004 ∨ off = 0x00C then pageReg s f slot off
  else 0

end Sys2Proof.Machine
end

