-- ==== Sys2Proof/Machine/Resets.lean ====
section
/-! DEFINITION. The phases of a reset, the scratchpad sample and what each reset spares (16_faults_recovery.md R422 to
R434, R436). -/

namespace Sys2Proof.Machine

/-! ### Drain (R421 to R423, R430) -/

/-- The cores of a domain. -/
def domCores : RDom → List Nat
  | .core c => [c.val]
  | .fold f => coresIn f.val
  | .compute => List.range 256
  | .module => List.range 256
  | _ => []

/-- A transfer that the domain has started or granted: of its cores' channels, or into its stores. -/
def openIn (cores : List Nat) (c : Nat) (f : Flight) : Bool :=
  cores.contains c || (match regionCore (f.block * 512) with | some o => cores.contains o | none => false)

def coresDrained (s : State) (cores : List Nat) : Bool :=
  s.cores.all (fun e => e.2.chans.all (fun p => p.2.flights.all (fun f => !openIn cores e.1 f)))

def hostDrained (s : State) : Bool := s.host.xfer.isNone && s.host.bar2.isEmpty

def portDrained (s : State) (p : Nat) : Bool :=
  let v := s.port p
  v.outQ.isEmpty && v.rx.isEmpty && v.partial_.isNone && v.replay.isEmpty

/-- Every transfer that the domain has started or granted has completed. -/
def drained (s : State) (d : RDom) : Bool :=
  match d with
  | .core _ | .fold _ | .compute => coresDrained s (domCores d)
  | .host => hostDrained s
  | .port p => portDrained s p.val
  | .module => coresDrained s (domCores d) && hostDrained s
  | _ => true

/-- The power domains that the reset has to wake are in run (R421); those off or entering off are left. -/
def awake (s : State) (d : RDom) : Bool :=
  (wokenDoms d).all (fun x => isOff s x || ((s.dom x).st == .run && (s.dom x).target.isNone))

/-- Limits of Table 16-8 in ac (20 ns; 00_scope.md R3): the drain limit, and the timeout with the domain that it
escalates to. -/
def drainLimit : RDom → Nat
  | .core _ | .herd | .paddock | .host => 100
  | .fold _ => 200
  | .compute | .module => 500
  | .port _ => 50
  | .mgmt => 0

def overdueAt : RDom → Option Nat
  | .core _ => some 500
  | .fold _ | .herd | .paddock | .host | .port _ => some 5000
  | .compute => some 50000
  | .mgmt => some 500000
  | .module => none

def escalatesTo : RDom → RDom
  | .core c => .fold (Fin.ofNat 16 (c.val / 16))
  | .fold _ => .compute
  | _ => .module

/-- A channel outside the domain with a transfer into it at the drain limit: its task is aborted with HURDLE. -/
def dropChannel (cores : List Nat) (s : State) (c ch : Nat) : State :=
  let h := (s.core c).chan ch
  let out := h.flights.filter (openIn cores c)
  if out.isEmpty then s else
  let s1 := s.mapCore c (fun k => k.setChan ch { h with flights := h.flights.filter (fun f => !openIn cores c f) })
  if cores.contains c || h.task.isNone then s1
  else chanFault s1 c ch 0x0005 (out.head?.map (fun f => f.block * 512)) 0 0

/-- What is still open at the drain limit is answered: no write takes effect, and host accesses to the domain behave
as to a reserved range (R423, Table 16-4). -/
def dropOpen (s : State) (d : RDom) : State :=
  let cores := domCores d
  let s1 := (Tbl.keys s.cores).foldl (fun u c => (List.range 8).foldl (fun w ch => dropChannel cores w c ch) u) s
  let gone := s1.host.bar2.filter (fun b => s1.reach b.addr == .hurdle)
  gone.foldl (fun u b => bar2Refused (u.mapHost (fun h => { h with bar2 := dropFirst b h.bar2 })) b) s1

/-- The reset in progress of a domain in a phase. -/
def runAt (s : State) (d : RDom) (p : RPhase) : Option RRun :=
  s.resets.runs.find? (fun r => r.dom == d && r.phase == p)

def setRun (s : State) (r : RRun) : State :=
  mapResets s (fun x => { x with runs := x.runs.map (fun q => if q.dom = r.dom then r else q) })

/-! ### Where the sample goes (R425, R428) -/

def chainOf (s : State) (id : Nat) : Option Chain := s.resets.chains.find? (fun c => c.id == id)

def setChain (s : State) (c : Chain) : State :=
  mapResets s (fun x => { x with chains := x.chains.map (fun d => if d.id = c.id then c else d) })

/-- The domains that have a sample. -/
def hasSample : RDom → Bool
  | .mgmt | .module => false
  | _ => true

/-- A 64-bit address of two registers of the MGMT page. -/
def mgmtAddr (s : State) (lo mask : Nat) : Nat :=
  (s.reg slotMgmt lo).toNat / mask * mask + 2 ^ 32 * (s.reg slotMgmt (lo + 4)).toNat

/-- Writes of the module's own reach host memory through function 0. -/
def hostWritable (s : State) : Bool := hostUp s && !s.hurdled .host && s.host.busMast

/-- The conditions of R428 for the dump buffer. -/
def dumpOpen (s : State) (d : RDom) : Bool :=
  d != .host && bit (s.reg slotMgmt 0x19C) 31 && hostWritable s && decide (512 ≤ bits (s.reg slotMgmt 0x198) 31 9 * 512)

/-- The sample of a reset begins: its chain has its destination from its first sample on. -/
def sampleBegin (s : State) (r : RRun) : State :=
  match chainOf s r.chain with
  | none => s
  | some c =>
    if !hasSample r.dom || c.dump.isSome then s else
    let s1 := s.setReg slotMgmt 0x1A0 (s.reg slotMgmt 0x1A0 &&& 0xFFFF)
    if dumpOpen s r.dom then
      setChain (s1.hardReg slotMgmt 0x19C 0)
        { c with dump := some true, base := mgmtAddr s 0x190 4096, size := bits (s.reg slotMgmt 0x198) 31 9 * 512 }
    else mapResets (setChain s1 { c with dump := some false }) (fun x => { x with aoUsed := true })

/-- RESET_DRAIN_END (R423): the drain is over, or its limit has come. -/
def resetDrainEnd (s : State) (d : RDom) : State :=
  match runAt s d .drain with
  | none => s
  | some r =>
    let done := drained s d
    if !awake s d || (!done && !s.acSince r.since (drainLimit d)) then s else
    let s1 := if done then s else dropOpen s d
    tracePhase (setRun (sampleBegin s1 r) { r with phase := .sample, since := s.now }) d r.cause 2

def execResetDrainEnd (d : RDom) (s : State) : Res := .next (resetDrainEnd s d)

/-! ### The sample (R425 to R429) -/

/-- SAMPLE_READ_TIMEOUT (R427): a read had no answer within 2 µs. -/
def sampleReadTimeout (s : State) (d : RDom) (u : SampleUnit) : State :=
  match runAt s d .sample with
  | none => s
  | some r =>
    match chainOf s r.chain with
    | none => s
    | some c =>
      if !s.acSince r.since 100 || c.marked.contains u then s else setChain s { c with marked := c.marked ++ [u] }

def execSampleReadTimeout (d : RDom) (u : SampleUnit) (s : State) : Res := .next (sampleReadTimeout s d u)

/-- A sample header (Table 16-6); `unit` 0 where every byte was read. -/
def sampleHeader (s : State) (type inst unit off : Nat) : List Word :=
  [ flag true 31 ||| flag (unit != 0) 30 ||| fld type 16 ||| w32 inst, fld unit 24 ||| w32 off, w32 s.ac48,
    w32 (s.ac48 / 2 ^ 32), 0, 0, 0, 0 ]

/-- Words of a page as a sample finds them. -/
def pageWords (s : State) (slot off n : Nat) : List Word := (List.range n).map (fun i => pageReg s 0 slot (off + 4 * i))

def zeros (n : Nat) : List Word := List.replicate n 0

/-- The register paths of a core that lies in a fold out of power answer nothing. -/
def coreUnread (s : State) (marked : List SampleUnit) (c : Nat) : Bool :=
  marked.contains (.regsOf (coreOf c)) || (s.dom (c / 16)).st == .off

/-- A core record (Table 16-7), and whether it is flagged UNREADABLE. -/
def coreRecord (s : State) (marked : List SampleUnit) (c : Nat) : List Byte × Bool :=
  let pages := [slotCore c, slotArr c, slotAtt c, slotStrm c, slotDrove c]
  let noRegs := coreUnread s marked c
  let noNear := marked.contains (.nearOf (coreOf c)) || (s.dom (c / 16)).st == .off
  let head := if noRegs then sampleHeader s 1 c 1 0x20 else if noNear then sampleHeader s 1 c 2 0x400
    else sampleHeader s 1 c 0 0
  let regs := if noRegs then zeros 248 else
    pages.flatMap (fun p => pageWords s p 0x01C 9) ++ zeros 11 ++ pageWords s (slotStrm c) 0x100 64
      ++ pages.flatMap (fun p => pageWords s p 0x008 5) ++ zeros 103
  let near := if noNear then List.replicate 8192 0
    else s.mem.readN (nearBase c) 4096 ++ s.mem.readN (nearBase c + 0xFF000) 4096
  (wordsBytes (head ++ regs) ++ near, noRegs || noNear)

/-- A page record (R429). -/
def pageRecord (s : State) (marked : List SampleUnit) (slot : Nat) : List Byte × Bool :=
  let bad := marked.contains .regPath
  let head := sampleHeader s (pageType slot) (pageInst slot) (if bad then 1 else 0) (if bad then 0x20 else 0)
  (wordsBytes (head ++ (if bad then zeros 120 else pageWords s slot 0 120)), bad)

/-- The records of a domain, in the order of R425. -/
def recordsOf (s : State) (marked : List SampleUnit) (d : RDom) : List (List Byte × Bool) :=
  match d with
  | .core _ | .fold _ | .compute => (domCores d).map (coreRecord s marked)
  | .herd => [pageRecord s marked slotHerd]
  | .paddock => (slotPadk :: (List.range 64).map slotBank).map (pageRecord s marked)
  | .port p => [pageRecord s marked (slotLink p.val)]
  | .host => [pageRecord s marked slotHost]
  | _ => []

/-- A record that does not fit is not written, and TRUNCATED is set. -/
def truncated (s : State) (c : Chain) : State :=
  setChain (s.setReg slotMgmt 0x1A0 (s.reg slotMgmt 0x1A0 ||| flag true 29)) { c with trunc := true }

/-- A record is written to the dump buffer, or its first 256 bytes to the always-on area (R428). -/
def putRecord (s : State) (id : Nat) (r : List Byte × Bool) : State :=
  match chainOf s id with
  | none => s
  | some c =>
    match c.dump with
    | none => s
    | some true =>
      let off := 512 + c.bytes
      if off + r.1.length ≤ c.size ∧ hostWritable s then
        setChain (s.toHost (.hostWrite 0 (c.base + off) r.1))
          { c with bytes := c.bytes + r.1.length, records := c.records + 1, unread := c.unread + (if r.2 then 1 else 0) }
      else truncated s c
    | some false =>
      if s.resets.ao.length + 64 ≤ 16384 then mapResets s (fun x => { x with ao := x.ao ++ leWords (r.1.take 256) })
      else truncated s c

/-- No reset whose hurdle was raised earlier has still to take its sample (R432). -/
def sampleTurn (s : State) (d : RDom) : Bool :=
  match s.resets.runs.find? (fun r => r.phase == .sample && hasSample r.dom) with
  | some r => r.dom == d || !hasSample d
  | none => true

/-- RESET_ASSERT (R424): the sample has been taken, and the reset is asserted. -/
def resetAssert (s : State) (d : RDom) : State :=
  match runAt s d .sample with
  | none => s
  | some r =>
    if !sampleTurn s d then s else
    let marked := match chainOf s r.chain with
      | some c => c.marked
      | none => []
    let s1 := (recordsOf s marked d).foldl (fun u x => putRecord u r.chain x) s
    tracePhase (setRun s1 { r with phase := .asserted, since := s.now }) d r.cause 3

def execResetAssert (d : RDom) (s : State) : Res := .next (resetAssert s d)

/-! ### What each reset clears (R433, R434, Table 16-9) -/

/-- BOOT_STATUS stays at a management reset (15_startup_module_edge.md R407). -/
def keepBoot (off : Nat) : Bool := off == 0x104

/-- Sharal after a management reset: no message, no trace, counters stopped, the trigger table at Table 17-14. -/
def Sharal.afterReset (h : Sharal) : Sharal :=
  { h with trigs := [], mbox := none, neigh := none, ring := [], tracing := false, trStart := 0, trFull := false, trLost := 0
           trQ := [], trDrop := [], copying := false, counting := false
           tally := { h.tally with win := [], winStat := 0 } }

/-- A management reset (R396, R436, R462; 01_device_overview.md R32): the pages, the role, HOLD bits. -/
def mgmtLost (s : State) : State :=
  let s1 := pageLost (pageLost (pageLost s slotPwr keepNone) slotMgmt keepBoot) slotTally keepNone
  let s2 := s1.mapPower (fun p => { p with doms := Tbl.mapV p.doms (fun _ v => { v with hold := false }), sampled := false })
  { s2 with roles := [], sharal := s2.sharal.afterReset, resets := { s2.resets with aoUsed := false } }

/-- A port controller after its reset sends a control flit with INIT = 1 on a link that is UP (R340). -/
def portInit (s : State) (p : Nat) : State :=
  let s1 := portLost s p
  if (s1.port p).st = .up then s1.emit (.control p (mkFlit false (controlWords false true ((s1.port p).rxSeq - 1) []))) else s1

/-- A domain other than a port is in run, with its idle time starting now. -/
def runNow (s : State) (d : Nat) : State :=
  s.setDom d { st := .run, target := none, waking := false, hold := false, commit := false, idle := s.now }

/-- A page outside the link pages and the MGMT page, all of whose words a module reset clears. -/
def modulePage (slot : Nat) : Bool := !(decide (0x880 ≤ slot) && decide (slot ≤ 0x886)) && slot != slotMgmt

/-- A switched domain is off. -/
def offNow (s : State) (d : Nat) : State :=
  s.setDom d { st := .off, target := none, waking := false, hold := false, commit := false, idle := s.now }

/-- Every switched domain but the ports is brought to run; the host port stays off while PERST# is asserted. The self-test of a
failed module fails again, which leaves its folds, Herd logic and Paddock search logic off (15_startup_module_edge.md R401):
DESIGN CHOICE, log entry 78. -/
def allRun (s : State) : State :=
  ((List.range 16) ++ [22, 23]).foldl (if s.power.failed then offNow else runNow)
    ([24, 26].foldl runNow (if s.power.perst then s else runNow s 25))

/-- A module reset (R434). -/
def moduleLost (s : State) : State :=
  let s1 := mgmtLost (hostLost ((List.range 6).foldl portInit s))
  let s2 : State := { s1 with
    regs := s1.regs.filter (fun p => !modulePage (p.1 / 0x1000))
    evts := ((List.range 6).map slotLink ++ [slotPwr]).foldl (fun t p => Tbl.set t p ⟨0, 0, 0, 0, true⟩)
      (s1.evts.filter (fun p => p.1 == slotRoute))
    faults := s1.faults.filter (fun p => p.1 == slotRoute)
    mem := ⟨[], [], []⟩
    slots := []
    soft := []
    cores := []
    drover := { Drover.start with slotBase := s1.drover.slotBase }
    herd := ⟨none, [], none⟩
    paddock := Paddock.start
    fabric := { s1.fabric with pend := [], ops := [], local_ := [], bells := [], inbox := [] } }
  let s3 := s2.mapHost (fun h => { h with ctxs := [] })
  (allRun s3).mapPower (fun p => { p with pwrGood := true })

def computeLost (s : State) : State := droverLost ((List.range 16).foldl foldLost s)

/-- The losses of a domain's reset. -/
def resetLost (s : State) (d : RDom) : State :=
  match d with
  | .core c => coreLost s c.val
  | .fold f => foldLost s f.val
  | .compute => computeLost s
  | .herd => herdLost s
  | .paddock => paddockReset s
  | .host => hostLost s
  | .port p => portInit s p.val
  | .mgmt => mgmtLost s
  | .module => moduleLost s

/-! ### Completion (R424, R428, R432) -/

/-- The dump header (Table 16-5). -/
def dumpHeader (c : Chain) (seq : Nat) : List Word :=
  [ fld 1 24 ||| fld (rdomCode c.first).1 20 ||| fld (rdomCode c.final).1 16 ||| w32 (seq % 65536),
    fld c.records 16 ||| w32 c.unread, w32 c.time, fld c.cause 24 ||| w32 (c.time / 2 ^ 32 % 65536),
    w32 (512 + c.bytes), flag c.trunc 31 ||| w32 (rdomCode c.first).2 ] ++ zeros 122

/-- The last reset of a chain has completed. -/
def chainEnd (s : State) (c : Chain) : State :=
  let s1 := mapResets s (fun x => { x with chains := x.chains.filter (fun d => d.id != c.id) })
  match c.dump with
  | none => s1
  | some false => s1.pulse slotMgmt 2
  | some true =>
    if !hostWritable s then s1 else
    let seq := s.resets.dumpSeq + 1
    let s2 := mapResets (s1.toHost (.hostWrite 0 c.base (wordsBytes (dumpHeader c seq)))) (fun x => { x with dumpSeq := seq })
    ((s2.setReg slotMgmt 0x1A0 (flag c.trunc 29 ||| w32 (seq % 65536))).setReg slotMgmt 0x1A4 (w32 (512 + c.bytes))).pulse
      slotMgmt 2

/-- Domains that the critical event has still to switch off enter off (R432). -/
def critRest (s : State) : State :=
  if s.resets.crit.isEmpty then s else critDone (((List.range 16) ++ [22, 23]).foldl critOff s)

/-- RESET_COMPLETE (R424): the pages hold their reset values, the hurdle is lowered, RESET_DONE pulses. -/
def resetComplete (s : State) (d : RDom) : State :=
  match runAt s d .asserted with
  | none => s
  | some r =>
    let s1 := mapResets (resetLost s d) (fun x => { x with runs := x.runs.filter (fun q => q.dom != d) })
    let s2 := tracePhase (s1.pulse slotMgmt 1) d r.cause 0
    let s3 := match chainOf s2 r.chain with
      | some c => if s2.resets.runs.any (fun q => q.chain == r.chain) then s2 else chainEnd s2 c
      | none => s2
    critRest s3

def execResetComplete (d : RDom) (s : State) : Res := .next (resetComplete s d)

/-- RESET_ESCALATE (R430, R431): an overdue reset is absorbed into that of the next larger domain. -/
def resetEscalate (s : State) (d : RDom) : State :=
  match runAt s d .asserted, overdueAt d with
  | some r, some t =>
    if !s.acSince r.since t then s else raise (s.bump slotMgmt 0x18C 1) (escalatesTo d) 4
  | _, _ => s

def execResetEscalate (d : RDom) (s : State) : Res := .next (resetEscalate s d)

/-! ### Dump registers (Tables 16-10, 16-12) -/

/-- A sample is being written to the always-on area. -/
def aoBusy (s : State) : Bool :=
  s.resets.runs.any (fun r => r.phase == .sample && (match chainOf s r.chain with
    | some c => c.dump == some false
    | none => false))

/-- A write of DUMP_CTRL. -/
def dumpCtrl (s : State) (v : Word) : State :=
  let s1 := s.softReg slotMgmt 0x19C (if dumpWriting s then 0 else v &&& 0x80000000)
  if !bit v 30 then s1
  else if aoBusy s then s1.strobeRefused slotMgmt 0x19C 30 3
  else mapResets s1 (fun x => { x with ao := [], aoUsed := false })

/-- A read of AO_DATA: with AUTOINC the index advances. -/
def aoAdvance (s : State) : State :=
  let v := s.reg slotMgmt 0x1A8
  if bit v 31 then s.hardReg slotMgmt 0x1A8 (flag true 31 ||| w32 ((bits v 13 0 + 1) % 16384)) else s

end Sys2Proof.Machine
end

