-- ==== Sys2Proof/Machine/Startup.lean ====
section
/-! DEFINITION. Shutdowns, loss of power and start-up (14_power_clocks.md R373; 15_startup_module_edge.md R398 to R408;
16_faults_recovery.md R435; 17_sharal_tally.md R441). -/

namespace Sys2Proof.Machine

/-! ### Shutdowns (R373, R408, R435) -/

/-- A page of the always-on domain. -/
def alwaysOnPage (slot : Nat) : Bool := slot == slotPwr || slot == slotMgmt || slot == slotTally

def switchedDoms : List Nat := (List.range 27)

/-- What the host port keeps without power of its domain: the flash keys, the counts and locks of Sharal. -/
def HostPort.off (h : HostPort) : HostPort :=
  { HostPort.start with keys := h.keys, fails := h.fails, locks := h.locks, busMast := false, linkUp := false, vfs := 0 }

/-- Loss of power of every switched domain, with link state and the routing page (R435). -/
def allOff (s : State) : State :=
  let s1 : State := { s with
    regs := s.regs.filter (fun p => alwaysOnPage (p.1 / 0x1000))
    evts := s.evts.filter (fun p => alwaysOnPage p.1)
    faults := s.faults.filter (fun p => alwaysOnPage p.1)
    mem := ⟨[], [], []⟩
    slots := []
    cores := []
    drover := { Drover.start with slotBase := s.drover.slotBase }
    herd := ⟨none, [], none⟩
    paddock := Paddock.start
    fabric := Fabric.start
    host := s.host.off
    resets := { s.resets with runs := [], chains := [], crit := [] }
    sharal := { s.sharal with ring := [], tracing := false, trQ := [], trDrop := [], copying := false } }
  (switchedDoms.foldl offNow s1).mapPower (fun p => { p with pwrGood := false })

/-- The open record closes (R458). -/
def closeRecord (s : State) : State := s.mapTally (fun t => { t with opened := none })

/-- Every staged record is programmed (R459). -/
def programAll (s : State) : State := s.mapTally (fun t => { t with staged := 0 })

/-- A supply shutdown with its Tally record of VIN. -/
def supplyOff (s : State) (code : Nat) : State :=
  let v := s.reg slotPwr 0x048
  (allOff (mandatory s code [v])).mapPower (fun p => { p with supplyOk := false })

/-- UNDER_VOLTAGE (R373, R459). -/
def underVoltage (s : State) : State :=
  if s.power.aoOn && s.power.supplyOk then supplyOff (programAll (closeRecord s)) 0x1002 else s

def execUnderVoltage (s : State) : Res := .next (underVoltage s)

/-- OVER_VOLTAGE (R373). -/
def overVoltage (s : State) : State :=
  if s.power.aoOn && s.power.supplyOk then supplyOff s 0x1003 else s

def execOverVoltage (s : State) : Res := .next (overVoltage s)

/-- REFERENCE_LOSS (R408). -/
def referenceLoss (s : State) : State :=
  if s.power.aoOn && s.power.refOk then
    (allOff (closeRecord s)).mapPower (fun p => { p with refOk := false, refLost := s.ac, faultPin := true })
  else s

def execReferenceLoss (s : State) : Res := .next (referenceLoss s)

/-! ### Start-up (R398 to R405, R441) -/

/-- What the boot ROM finds in slot A: 0 accepted, else the check that failed, 5 an unconfirmed trial (R441). -/
def tryA (h : Sharal) : Nat := if (bootHdr h).trial && (bootHdr h).tried then 5 else fwCheck h.slotA h.fuse

/-- What it finds in slot B, which it attempts where A is rejected. -/
def tryB (h : Sharal) : Nat := if tryA h = 0 then 0 else fwCheck h.slotB h.fuse

/-- The boot header that the boot ROM writes before a first trial (R441). -/
def startTrial (h : Sharal) : Sharal :=
  if (bootHdr h).trial && !(bootHdr h).tried then writeHdr h true true else h

/-- BOOT_STATUS (Table 15-3). -/
def bootWord (phase : Nat) (imageB aBad bBad fabric : Bool) (fail : Option TestFail) : Word :=
  fld phase 28 ||| flag imageB 27 ||| flag aBad 26 ||| flag bBad 25 ||| flag fabric 24 |||
  (match fail with
   | some f => fld f.domain.toNat 16 ||| fld f.unit.toNat 8 ||| w32 f.kind.toNat
   | none => fld 0x3F 16)

/-- The always-on domain as the boot ROM starts it: its pages at their reset values, nothing in progress. -/
def bootBegin (s : State) : State :=
  let h := (startTrial s.sharal).afterReset
  { s with
    regs := [], evts := [(slotPwr, ⟨0, 0, 0, 0, true⟩)], faults := [], roles := []
    sharal := { h with copies := [], recBuf := [], recStat := 0 }
    resets := { s.resets with compHurdle := false, missed := 0, aoUsed := false }
    power := { s.power with sampled := false, failed := false, faultPin := false } }

/-- Both images are rejected (R402). -/
def bootFails (s : State) : State :=
  (s.setReg slotMgmt 0x104 (bootWord 6 false true true false none)).mapPower (fun p => { p with faultPin := true })

/-- Step 4: the Tally goes on in a new power cycle, with the records of the power-up and of a rejected image. -/
def bootStep4 (s : State) (a : Nat) : State :=
  let inB := a != 0
  let h := { s.sharal with runB := inB }
  let s1 := { s with sharal := { h with fwVer := fwVersionOf (runningImage h).header, fwRoll := fwRollback (runningImage h).header } }
  let boot := bootWord 1 inB inB false false none
  let s2 := (s1.mapTally (fun t => { t with cycles := t.cycles + 1, opened := none })).setReg slotMgmt 0x104 boot
  let s3 := mandatory s2 0x1001 [boot, w32 h.fuse]
  if inB then mandatory s3 0x1006 [0, w32 a] else s3

/-- The fabric configuration record is applied, and the ports are powered (R404, R446). -/
def applyFabric (s : State) (r : FabRec) : State :=
  let s1 := r.windows.foldl (fun u p => u.setReg slotRoute p.1 p.2) s
  let s2 := (((s1.setReg slotRoute 0x040 r.self).setReg slotRoute 0x044 r.dims).setReg slotRoute 0x048 r.timeout).setReg
    slotRoute 0x04C r.stall
  powerPorts (s2.mapFabric (fun f => { f with routes := r.routes }))

/-- The domains that step 5 brings to run; those that a failed self-test leaves off (R399, R401). -/
def bootDoms (s : State) (failed : Bool) : State :=
  let s1 := ([24, 26] ++ (if s.power.perst then [] else [25])).foldl runNow s
  if failed then s1 else ((List.range 16) ++ [22, 23]).foldl runNow s1

/-- A failed self-test (R401). -/
def selfTestFailed (s : State) (boot : Word) : State :=
  let s1 := mandatory s 0x1005 [boot]
  { s1 with
    resets := { s1.resets with compHurdle := true }
    power := { s1.power with failed := true, faultPin := true } }

/-- Steps 5 to 7. -/
def bootRun (s : State) (a : Nat) (fail : Option TestFail) : State :=
  let inB := a != 0
  let rec_ := s.sharal.fabRec
  let s1 := bootDoms s fail.isSome
  let s2 := match rec_ with
    | some r => applyFabric s1 r
    | none => s1
  let boot := bootWord (if fail.isSome then 5 else 4) inB inB false rec_.isSome fail
  let s3 := s2.setReg slotMgmt 0x104 boot
  let s4 := if fail.isSome then selfTestFailed s3 boot else s3
  (s4.mapPower (fun p => { p with pwrGood := true })).mapHost (fun h => if s.power.perst then h else h.trained)

/-- Start-up from step 2, of a module whose switched domains are off. -/
def startUp (s : State) (fail : Option TestFail) : State :=
  let a := tryA s.sharal
  let b := tryB s.sharal
  let s1 := bootBegin s
  if a ≠ 0 ∧ b ≠ 0 then bootFails s1 else bootRun (bootStep4 s1 a) a fail

/-- SUPPLY_RESTORE (R435): start-up runs from step 2, once the reference is present too. -/
def supplyRestore (s : State) (fail : Option TestFail) : State :=
  if !s.power.aoOn || s.power.supplyOk then s else
  let s1 := s.mapPower (fun p => { p with supplyOk := true })
  if s.power.refOk then startUp s1 fail else s1

def execSupplyRestore (fail : Option TestFail) (s : State) : Res := .next (supplyRestore s fail)

/-- REFERENCE_RETURN (R408). -/
def referenceReturn (s : State) (fail : Option TestFail) : State :=
  if !s.power.aoOn || s.power.refOk then s else
  let s1 := mandatory (s.mapPower (fun p => { p with refOk := true })) 0x1004 [w32 s.power.refLost]
  if s.power.supplyOk then startUp s1 fail else s1

def execReferenceReturn (fail : Option TestFail) (s : State) : Res := .next (referenceReturn s fail)

/-! ### Loss of power (R435, R406) -/

/-- The Tally as its flash holds it: staged records are lost. -/
def Tally.lost (t : Tally) : Tally :=
  { t with recs := t.recs.take (t.recs.length - t.staged), head := t.head - t.staged, staged := 0, opened := none
           dropped := 0, win := [], winStat := 0, hoursAt := 0 }

/-- POWER_LOSS: only the flash, the key store in it and the fuses remain. -/
def powerLoss (s : State) : State :=
  if !s.power.aoOn then s else
  let s1 := allOff s
  { s1 with
    now := 0, regs := [], evts := [], faults := [], roles := []
    drover := Drover.start
    host := { s1.host with fails := [], locks := [] }
    resets := Resets.start
    sharal := { s1.sharal.afterReset with copies := [], recBuf := [], recStat := 0, smbLast := 0, tally := s1.sharal.tally.lost }
    power := { s1.power with
      temps := [], caution := [], halt := false, sampled := false, supplyOk := false, refLost := 0, aoOn := false
      faultPin := false, thermTrip := false, alert := false, failed := false, entered := none } }

def execPowerLoss (s : State) : Res := .next (powerLoss s)

/-- POWER_UP (R398): the always-on counter starts at 0. -/
def powerUp (s : State) (fail : Option TestFail) : State :=
  if s.power.aoOn then s else
  startUp { s with now := 0, power := { s.power with aoOn := true, supplyOk := true, refOk := true } } fail

def execPowerUp (fail : Option TestFail) (s : State) : Res := .next (powerUp s fail)

end Sys2Proof.Machine
end

