-- ==== Sys2Proof/Machine/Observe.lean ====
section
/-! DEFINITION. Observation and the log: the trace ring, the event counters, and the Tally's trigger table, loads,
clears and programming (17_sharal_tally.md R451 to R461). -/

namespace Sys2Proof.Machine

/-! ### The trace ring (R452) -/

/-- TRACE_CTRL.START. -/
def traceStart (s : State) : State :=
  s.mapSharal (fun h => { h with
    ring := [], tracing := true, trStart := s.now, trFull := false, trLost := 0, trQ := [], trDrop := [] })

/-- TRACE_CTRL.STOP. -/
def traceStop (s : State) : State := s.mapSharal (fun h => { h with tracing := false })

/-- TRACE_CTRL.COPY: the ring goes to host memory, oldest entry first. -/
def traceCopy (s : State) : State :=
  if s.sharal.tracing || !hostWritable s then s.strobeRefused slotMgmt 0x300 29 3
  else (s.toHost (.hostWrite 0 (mgmtAddr s 0x328 4096) (wordsBytes s.sharal.ring.flatten))).mapSharal
    (fun h => { h with copying := true })

/-- A write of TRACE_CTRL: the fields first, then the strobes, the highest bit first (02_register_pages.md R45). -/
def traceCtrl (s : State) (v : Word) : State :=
  let s1 := s.setReg slotMgmt 0x300 (v &&& 0x1000013F)
  let s2 := if bit v 31 then traceStart s1 else s1
  let s3 := if bit v 30 then traceStop s2 else s2
  if bit v 29 then traceCopy s3 else s3

/-- TRACE_COPY_DONE. -/
def traceCopyDone (s : State) : State :=
  if s.sharal.copying then (s.mapSharal (fun h => { h with copying := false })).pulse slotMgmt 5 else s

def execTraceCopyDone (s : State) : Res := .next (traceCopyDone s)

/-- A read of TRACE_DATA: with AUTOINC the index advances. -/
def traceAdvance (s : State) : State :=
  let v := s.reg slotMgmt 0x320
  if bit v 31 then s.hardReg slotMgmt 0x320 (flag true 31 ||| w32 ((bits v 17 0 + 1) % 262144)) else s

/-! ### Event counters (R453) -/

/-- The offset is that of a count of the page. -/
def isCount (slot off : Nat) : Bool := decide (0xC00 ≤ off) && decide (off < 0xC00 + 4 * counterCount slot)

/-- CNT_CTRL.CLEAR: every count of the die is 0. -/
def countersClear (s : State) : State :=
  { s with regs := s.regs.filter (fun p => !isCount (p.1 / 0x1000) (p.1 % 0x1000)) }

def countersRun (s : State) (b : Bool) : State := s.mapSharal (fun h => { h with counting := b })

/-- A write of CNT_CTRL, the strobe of the highest bit first. -/
def counterCtrl (s : State) (v : Word) : State :=
  let s1 := if bit v 31 then countersRun s true else s
  let s2 := if bit v 30 then countersRun s1 false else s1
  if bit v 29 then countersClear s2 else s2

/-- A write of a counter select register (Table 17-10). -/
def counterSelect (slot : Nat) (v : Word) : Word :=
  match pageKind slot with
  | .fold _ => v &&& 0x80FFFFFF
  | .link _ => v &&& 0x80FFFFFF
  | _ => v &&& 0x800000FF

/-! ### The trigger table (R457) -/

/-- The entry is used for a code: it is enabled, and neither its code nor its count is out of range; a mandatory
code has no trigger (R456). -/
def Trig.takes (g : Trig) (code : Nat) : Bool :=
  g.en && g.code == code && decide (0 < g.code) && decide (g.code ≤ 0x0FFF) && decide (g.nsnap ≤ 8)
    && g.code != 0x0802 && g.code != 0x0908

/-- BAR0 offset and value of a snapshot specifier, for a fault copy. -/
def snapshot (s : State) (c : FCopy) (spec : Word) : Word × Word :=
  if bit spec 31 then
    let off := bits spec 11 0
    let a := regAt c.slot off
    (w32 a, if 0x01C ≤ off ∧ off < 0x040 ∧ off % 4 = 0 then wd c.words ((off - 0x01C) / 4) else regRead s 0 a)
  else (w32 (bits spec 25 0), regRead s 0 (bits spec 25 0))

/-- FAULT_COPY_TAKE (R438, R457). -/
def faultCopyTake (s : State) : State :=
  match s.sharal.copies with
  | [] => s
  | c :: rest =>
    let s1 := s.mapSharal (fun h => { h with copies := rest })
    match (List.range 64).find? (fun i => (trigOf s i).takes c.code) with
    | none => s1
    | some i =>
      let g := trigOf s i
      let snaps := (List.range g.nsnap).map (fun k => snapshot s c (wd g.snaps k))
      tallyEvent s1 c.code (pageType c.slot) (pageInst c.slot) (snaps.map (·.1)) (snaps.map (·.2))

def execFaultCopyTake (s : State) : Res := .next (faultCopyTake s)

/-- A field of the selected trigger entry changes. -/
def setTrig (s : State) (f : Trig → Trig) : State :=
  let i := bits (s.reg slotTally 0x100) 5 0
  s.mapSharal (fun h => { h with trigs := Tbl.set h.trigs i (f (trigOf s i)) })

/-- A write of TRIG_CODE. -/
def trigCode (s : State) (v : Word) : State :=
  setTrig s (fun g => { g with en := bit v 31, nsnap := bits v 27 24, code := bits v 15 0 })

/-- A write of TRIG_SNAP `n`. -/
def trigSnap (s : State) (n : Nat) (v : Word) : State :=
  let w := if bit v 31 then v &&& 0x80000FFF else v &&& 0x03FFFFFF
  setTrig s (fun g => { g with snaps := (List.range 8).map (fun k => if k = n then w else wd g.snaps k) })

/-! ### Closing, programming, hours (R454, R455, R458, R459) -/

/-- TALLY_RECORD_CLOSE: 1 s after its creation. -/
def tallyRecordClose (s : State) : State :=
  match s.sharal.tally.opened with
  | some t => if t + 50000000 ≤ s.ac then closeRecord s else s
  | none => s

def execTallyRecordClose (s : State) : Res := .next (tallyRecordClose s)

/-- The oldest staged record, where it is closed. -/
def toProgram (s : State) : Option TRec :=
  let t := s.sharal.tally
  if t.staged = 0 ∨ (t.staged = 1 ∧ tallyOpen s = true) then none else t.recs[t.recs.length - t.staged]?

/-- Before the first record of a sector is programmed, the sector is erased: the records in it go, and TAIL_SEQ
advances past them. -/
def sectorErase (t : Tally) (seq : Nat) : Tally :=
  if (seq - 1) % 512 ≠ 0 then t else
  let low := seq - 32768 + 512
  if seq ≤ 32768 then t else { t with recs := t.recs.filter (fun r => decide (low ≤ r.seq)), tail := max t.tail low }

/-- TALLY_PROGRAM. -/
def tallyProgram (s : State) : State :=
  match toProgram s with
  | some r => s.mapTally (fun t => let u := sectorErase t r.seq; { u with staged := u.staged - 1 })
  | none => s

def execTallyProgram (s : State) : Res := .next (tallyProgram s)

/-- HOURS_INCREMENT: 56.25 s after the one before. -/
def hoursIncrement (s : State) : State :=
  if s.power.aoOn && decide (s.sharal.tally.hoursAt + 2812500000 ≤ s.ac) then
    s.mapTally (fun t => { t with hours := t.hours + 1, hoursAt := t.hoursAt + 2812500000 })
  else s

def execHoursIncrement (s : State) : Res := .next (hoursIncrement s)

/-! ### Loads (R460) -/

/-- A record of the log by the SEQ that it shows. -/
def recordOf (s : State) (q : Word) : Option TRec := s.sharal.tally.recs.find? (fun r => w32 (seqView r.seq) == q)

/-- RD_STATUS for a SEQ: 2 VALID, 3 GONE, 4 NOT_YET, 5 CRC_BAD. -/
def loadStatus (s : State) (q : Word) : Nat :=
  match recordOf s q with
  | some r => if r.crcBad then 5 else 2
  | none => if seqView s.sharal.tally.head < q.toNat then 4 else 3

/-- RD_CTRL.LOAD: the window takes the record that RD_SEQ names. -/
def tallyLoad (s : State) : State :=
  let q := s.reg slotTally 0x058
  let s1 := s.mapTally (fun t => { t with winStat := loadStatus s q })
  match recordOf s q with
  | some r => s1.mapTally (fun t => { t with win := r.words })
  | none => s1

/-! ### Clearing (R461) -/

/-- The session may clear the log: open on function 0, with CLEAR_LOG. -/
def mayClear (s : State) (n : Nat) : Bool :=
  match openSession s n with
  | some x => x.func == 0 && x.priv.getLsbD 2
  | none => false

/-- The clear, in one act. -/
def logCleared (s : State) (n : Nat) : State :=
  let t := s.sharal.tally
  let slot := match openSession s n with
    | some x => x.slot
    | none => 0
  let s1 := s.mapTally (fun t => { t with opened := none, tail := t.head + 1, recs := [], staged := 0 })
  (mandatory s1 0x1008 [w32 (seqView t.tail), w32 (seqView t.head), w32 n ||| fld slot 8]).pulse slotTally 2

/-- TALLY.CLEAR.GO, by a function. -/
def tallyClear (s : State) (f : Nat) : State :=
  let n := bits (s.reg slotTally 0x064) 7 0
  if f == 0 && mayClear s n then logCleared s n else s.strobeRefused slotTally 0x064 31 3

end Sys2Proof.Machine
end

