-- ==== Sys2Proof/Machine/Mailbox.lean ====
section
/-! DEFINITION. The mailbox: its messages, firmware updates, the owner key, the fabric configuration record and
requests to a neighbour (17_sharal_tally.md R442 to R446, R450). -/

namespace Sys2Proof.Machine

/-! ### Messages and responses (R445) -/

/-- Message code of the request in progress. -/
def Mbox.code (m : Mbox) : Nat := bits (wd m.words 0) 31 24

/-- Words of the request. -/
def Mbox.len (m : Mbox) : Nat := m.words.length

/-- MB_REQ0 to MB_REQ63. -/
def mbReq (s : State) (i : Nat) : Word := if i < 64 then s.reg slotMgmt (0x500 + 4 * i) else 0

/-- MB_CTRL.SEND: a message of LEN words, unless one is in progress. -/
def mbSend (s : State) (owner : Bool) : State :=
  if s.sharal.mbox.isSome then s.strobeRefused slotMgmt 0x400 31 3 else
  let n := bits (s.reg slotMgmt 0x400) 6 0
  (s.setReg slotMgmt 0x404 (s.reg slotMgmt 0x404 &&& 0x7F)).mapSharal (fun h => { h with
    mbox := some { owner := owner, words := (List.range n).map (mbReq s), rsp := none } })

/-- The outcome of the message in progress: a status of Table 17-5, with further response words. -/
def mbAnswer (s : State) (m : Mbox) (status : Nat) (more : List Word) : State :=
  s.mapSharal (fun h => { h with mbox := some { m with rsp := some ((fld m.code 24 ||| w32 status) :: more) } })

/-- The message in progress is handled where it has the code and no outcome yet. -/
def mbHandle (s : State) (code : Nat) (go : State → Mbox → State) : State :=
  match s.sharal.mbox with
  | none => s
  | some m => if m.code = code ∧ m.rsp = none then go s m else s

/-- The response is written in MB_RSP. -/
def mbWrite (s : State) (ws : List Word) : State :=
  let s1 := ws.zipIdx.foldl (fun u p => u.setReg slotMgmt (0x600 + 4 * p.2) p.1) s
  ((s1.setReg slotMgmt 0x404 (flag true 30 ||| w32 ws.length)).mapSharal (fun h => { h with mbox := none })).pulse slotMgmt 3

/-- MAILBOX_RESPONSE (R445): a message of a reserved code has no operation, and receives BAD_MESSAGE. -/
def mailboxResponse (s : State) : State :=
  match s.sharal.mbox with
  | none => s
  | some m =>
    match m.rsp with
    | some ws => mbWrite s ws
    | none => if 1 ≤ m.code ∧ m.code ≤ 7 then s else mbWrite s [fld m.code 24 ||| 1]

def execMailboxResponse (s : State) : Res := .next (mailboxResponse s)

/-! ### FW_UPDATE (R442) -/

def fuAddr (m : Mbox) : Nat := (wd m.words 1).toNat
def fuBytes (m : Mbox) : Nat := (wd m.words 2).toNat

def fuBad (m : Mbox) : Bool :=
  m.len != 3 || fuAddr m % 512 != 0 || decide (fuBytes m < 513) || decide (458752 < fuBytes m)

/-- The image lies wholly in one near store, one stacked column or the herd store. -/
def fuPlaced (a n : Nat) : Bool :=
  region a == region (a + n - 1) &&
  (match region a with
   | .near _ => true
   | .column _ => true
   | .herd => true
   | _ => false)

/-- The new image is written: the known good image is saved, and the trial begins at the next power-up. -/
def fuProgram (h : Sharal) (i : FwImage) : Sharal :=
  let h1 := if !h.runB && !(bootHdr h).trial then { h with slotB := h.slotA } else h
  { writeHdr h1 true false with slotA := i }

/-- A staged image that has been read. -/
def fuImage (s : State) (m : Mbox) (i : FwImage) : State :=
  let c := fwCheck i s.sharal.fuse
  if c ≠ 0 then mbAnswer s m 3 [w32 c]
  else
    mbAnswer (mandatory (s.mapSharal (fun h => fuProgram h i)) 0x1009 [fwVersionOf i.header, w32 (fwRollback i.header)]) m 0 []

/-- FW_UPDATE. A store in doze is woken first (14_power_clocks.md R383). -/
def fwUpdate (s : State) (m : Mbox) : State :=
  let a := fuAddr m
  let n := fuBytes m
  if fuBad m then mbAnswer s m 1 []
  else if !fuPlaced a n then mbAnswer s m 6 []
  else match s.reach a with
    | .wait => startWake s ((storeDom a).getD 26)
    | .ready =>
      match s.mem.verifyRange a n with
      | (.good, _) => fuImage s m (fwOfBytes (s.mem.readN a n))
      | _ => mbAnswer s m 6 []
    | _ => mbAnswer s m 6 []

def execFwUpdate (s : State) : Res := .next (mbHandle s 1 fwUpdate)

/-! ### FW_CONFIRM, ROLLBACK_COMMIT (R443) -/

def fwConfirm (s : State) (m : Mbox) : State :=
  if m.len ≠ 1 then mbAnswer s m 1 []
  else if s.sharal.runB || !(bootHdr s.sharal).trial then mbAnswer s m 4 []
  else mbAnswer (mandatory (s.mapSharal (fun h => writeHdr h false false)) 0x100A [s.sharal.fwVer]) m 0 []

def execFwConfirm (s : State) : Res := .next (mbHandle s 2 fwConfirm)

def rollbackCommit (s : State) (m : Mbox) : State :=
  let new := s.sharal.fwRoll
  if m.len ≠ 1 then mbAnswer s m 1 []
  else if !m.owner then mbAnswer s m 2 []
  else if s.sharal.runB || (bootHdr s.sharal).trial || decide (new ≤ s.sharal.fuse) || decide (64 < new) then mbAnswer s m 4 []
  else mbAnswer (mandatory (s.mapSharal (fun h => { h with fuse := new })) 0x100B [w32 new]) m 0 []

def execRollbackCommit (s : State) : Res := .next (mbHandle s 3 rollbackCommit)

/-! ### OWNER_SET (R446) -/

/-- Slot 0 with a new owner key: PRIV_MAX is MGMT and CLEAR_LOG, the tenant and the function are 0
(13_host_sessions.md R352). -/
def setOwner (s : State) (key : List Byte) : State :=
  rewriteSlot s 0 (some { key := key, tenant := 0, priv := 6, func := 0 })

def ownerSet (s : State) (m : Mbox) : State :=
  if m.len ≠ 9 then mbAnswer s m 1 []
  else if !m.owner then mbAnswer s m 2 []
  else mbAnswer (mandatory (setOwner s (wordsBytes (m.words.drop 1))) 0x100C [1]) m 0 []

def execOwnerSet (s : State) : Res := .next (mbHandle s 4 ownerSet)

/-! ### FABRIC_SAVE, FABRIC_ERASE (R446) -/

/-- The admit windows, by their offsets in the routing page. -/
def admitWindows (s : State) : Tbl Word :=
  (s.regs.filter (fun p => p.1 / 0x1000 == slotRoute && decide (0x100 ≤ p.1 % 0x1000) && decide (p.1 % 0x1000 < 0x200))).map
    (fun p => (p.1 % 0x1000, p.2))

def fabricRecord (s : State) : FabRec :=
  { self := s.reg slotRoute 0x040, dims := s.reg slotRoute 0x044, timeout := s.reg slotRoute 0x048
    stall := s.reg slotRoute 0x04C, routes := s.fabric.routes, windows := admitWindows s }

def fabricSave (s : State) (m : Mbox) : State :=
  if m.len ≠ 1 then mbAnswer s m 1 []
  else mbAnswer (s.mapSharal (fun h => { h with fabRec := some (fabricRecord s) })) m 0 []

def execFabricSave (s : State) : Res := .next (mbHandle s 5 fabricSave)

def fabricErase (s : State) (m : Mbox) : State :=
  if m.len ≠ 1 then mbAnswer s m 1 []
  else mbAnswer (s.mapSharal (fun h => { h with fabRec := none })) m 0 []

def execFabricErase (s : State) : Res := .next (mbHandle s 6 fabricErase)

/-! ### NEIGHBOUR (R450) -/

def nbPort (m : Mbox) : Nat := (wd m.words 1).toNat
def nbOp (m : Mbox) : Nat := (wd m.words 2).toNat
def nbLen (m : Mbox) : Nat := (wd m.words 4).toNat

/-- The length of the message, or a field of it, is out of range. -/
def nbBad (m : Mbox) : Bool :=
  decide (m.len < 5) || decide (13 < m.len) || decide (5 < nbPort m) ||
  (if nbOp m = 1 ∨ nbOp m = 2 then
    nbLen m % 4 != 0 || nbLen m == 0 || decide (32 < nbLen m) || (nbOp m == 2 && decide (m.len < 5 + nbLen m / 4))
  else nbOp m != 3 || nbLen m != 0)

/-- The request packet. -/
def nbPacket (s : State) (m : Mbox) : Packet :=
  { Packet.zero with
    ptype := tMgmt, vc := 6, dest := (s.port (nbPort m)).peer, src := selfNode s, rtag := s.fabric.rtag
    addr := (wd m.words 3).toNat, opx := nbOp m, len := nbLen m
    data := if nbOp m = 2 then wordsBytes ((m.words.drop 5).take (nbLen m / 4)) else [] }

/-- NEIGHBOUR: a request goes one hop, and its RESULT is awaited. -/
def neighbour (s : State) (m : Mbox) : State :=
  if s.sharal.neigh.isSome then s
  else if nbBad m then mbAnswer s m 1 []
  else if !portUp s (nbPort m) then mbAnswer s m 8 []
  else
    let s1 := sendBy s (nbPort m) (nbPacket s m)
    (s1.mapFabric (fun f => { f with rtag := f.rtag + 1 })).mapSharal (fun h => { h with
      neigh := some { rtag := s.fabric.rtag, since := s.now } })

def execNeighbour (s : State) : Res := .next (mbHandle s 7 neighbour)

/-- The awaited RESULT: its data, or REMOTE with its status; a GONE result leaves the data of a record zero. -/
def nbResult (s : State) (m : Mbox) (k : Packet) : State :=
  let s1 := s.mapSharal (fun h => { h with neigh := none })
  if k.gen = 0 then mbAnswer s1 m 0 (leWords (k.data.take (if nbOp m = 1 then nbLen m else if nbOp m = 3 then 128 else 0)))
  else mbAnswer s1 m 7 (w32 k.gen :: (if nbOp m = 3 ∧ k.gen = 3 then zeros 31 else []))

/-- The first packet for Sharal with one of the operations. -/
def mgmtPacket (s : State) (ops : List Nat) : Option OutPkt :=
  match localOf s tMgmt with
  | some o => if ops.contains o.pkt.opx then some o else none
  | none => none

/-- MGMT_RESULT_RECEIVE (R450): a RESULT that matches no request is dropped. -/
def mgmtResultReceive (s : State) : State :=
  match mgmtPacket s [8] with
  | none => s
  | some o =>
    let s1 := dropLocal s o
    match s1.sharal.neigh, s1.sharal.mbox with
    | some n, some m => if n.rtag = o.pkt.rtag then nbResult s1 m o.pkt else s1
    | _, _ => s1

def execMgmtResultReceive (s : State) : Res := .next (mgmtResultReceive s)

/-- NEIGHBOUR_TIMEOUT (R445, R450): 100 µs without a result. -/
def neighbourTimeout (s : State) : State :=
  match s.sharal.neigh, s.sharal.mbox with
  | some n, some m =>
    if !s.acSince n.since 5000 then s else mbAnswer (s.mapSharal (fun h => { h with neigh := none })) m 8 []
  | _, _ => s

def execNeighbourTimeout (s : State) : Res := .next (neighbourTimeout s)

end Sys2Proof.Machine
end

