-- ==== Sys2Proof/Machine/Regs.lean ====
section
/-! DEFINITION. Register accesses: their reach, the write of every register with what it starts, and the reads that have
an effect (00_scope.md R9 to R14; 02_register_pages.md R34 to R48; 13_host_sessions.md R347; 17_sharal_tally.md R448). -/

namespace Sys2Proof.Machine

/-! ### Reach (R347, R463) -/

/-- A queue page of a queue attached to one of the function's sessions. -/
def ownQueue (s : State) (f q : Nat) : Bool := (s.queue q).sess.isSome && (s.queue q).func == f

def mayRead (s : State) (f : FuncId) (slot off : Nat) : Bool :=
  match pageKind slot with
  | .none => false
  | .host => f.val == 0 || decide (off < 0x100)
  | .queue q => f.val == 0 || ownQueue s f.val q
  | _ => f.val == 0

/-- KEY_SEL, KEY_ATTR and KEY_DATA. -/
def isKeyReg (off : Nat) : Bool := decide (0x800 ≤ off) && decide (off < 0x840)

/-- Another function's write of TALLY.CLEAR reaches the page, which refuses it (17_sharal_tally.md R461). -/
def mayWrite (s : State) (f : FuncId) (slot off : Nat) : Bool :=
  match pageKind slot with
  | .none => false
  | .host =>
    if 0x040 ≤ off ∧ off < 0x100 then true else isMgmt s f && (!isKeyReg off || isOwner s f)
  | .queue q => ownQueue s f.val q
  | .tally => off == 0x064 || ((off == 0x058 || off == 0x05C) && f.val == 0) || isMgmt s f
  | _ => isMgmt s f

/-! ### The header (R37, R47, R48) -/

/-- Event bits that the chapters define for a page. -/
def evtMask (slot : Nat) : Word :=
  0xC0000000 |||
  (match pageKind slot with
   | .arr _ => 0x1F07
   | .att _ => 0x07
   | .strm _ => 0x1F
   | .drove _ => 0x1F
   | .drvr => 0x1F
   | .herd => 0x07
   | .padk => 0x07
   | .bank _ => 0x07
   | .link _ => 0x0F
   | .route => 0x03
   | .host => 0x07
   | .queue _ => 0x0F
   | .pwr => 0x1F
   | .mgmt => 0x3F
   | .tally => 0x07
   | _ => 0)

/-- A write of LINK.CTRL: a TRAIN that the port cannot start is refused (R14, R41, R43). -/
def linkCtrlWrite (s : State) (p : Nat) (v : Word) : State :=
  let rest := v &&& 0xF7FFFFFF
  if !bit v 27 then linkCtrl s p v
  else if s.hurdled (.port (Fin.ofNat 6 p)) then (linkCtrl s p rest).strobeRefused (slotLink p) 0x008 27 1
  else if (s.dom (16 + p)).st != .run then (linkCtrl s p rest).strobeRefused (slotLink p) 0x008 27 2
  else linkCtrl s p v

def ctrlWrite (s : State) (slot : Nat) (v : Word) : State :=
  match pageKind slot with
  | .link p => linkCtrlWrite s p v
  | .padk => padkCtrl s v
  | _ => s.setReg slot 0x008 (v &&& 0x80000000)

/-- EVT_LATCH_WRITE (R10, R12, R47, R48). -/
def latchWrite (s : State) (slot : Nat) (v : Word) : State :=
  let e := s.evt slot
  evtAfterWrite (s.setEvt slot { e with latch := e.latch &&& ~~~(v &&& ~~~e.fresh) }) slot

def headerWrite (s : State) (slot off : Nat) (v : Word) : State :=
  match off with
  | 0x008 => evtAfterWrite (ctrlWrite s slot v) slot
  | 0x014 => evtAfterWrite (s.setReg slot 0x014 (v &&& evtMask slot)) slot
  | 0x018 => latchWrite s slot v
  | _ => s

/-! ### Roles (01_device_overview.md R31) -/

/-- A write of MODULE_ROLE: NEXT first, then APPLY. -/
def roleWrite (s : State) (v : Word) : State :=
  let s1 := s.setReg slotMgmt 0x100 ((s.reg slotMgmt 0x100 &&& 0x0F) ||| (v &&& 0xF0))
  if !bit v 31 then s1
  else if 15 ≤ s1.roles.length then s1.fault slotMgmt { code := 0x0006 }
  else { s1 with roles := s1.roles ++ [BitVec.ofNat 4 (bits v 7 4)] }

/-- ROLE_CHANGE_COMPLETE: no admitted instance remains; a reserved target leaves the role unchanged (Table 1-5). -/
def roleChange (s : State) : State :=
  match s.roles with
  | [] => s
  | r :: rest =>
    if !s.drover.insts.isEmpty then s else
    let s1 : State := { s with roles := rest }
    if r.toNat < 5 then
      s1.setReg slotMgmt 0x100 ((s1.reg slotMgmt 0x100 &&& 0xF0) ||| w32 r.toNat)
    else s1

def execRoleChangeComplete (s : State) : Res := .next (roleChange s)

/-! ### DRVR (09_drover_graphs.md R249, Table 9-12) -/

/-- LEDGER_SEL.SNAP on the entry selected; a reserved LEDGER or COLUMN selects no demand. -/
def ledgerSnap (s : State) : State :=
  let s1 := rollLedger s
  let v := s1.reg slotDrvr 0x080
  let ledger := bits v 20 16
  let column := bits v 11 8
  let slot := bits v 5 0
  let col := if ledger < 16 then 16 * ledger + column else if ledger = 16 ∧ column < 2 then 256 + column else 258
  let resKey := if ledger < 16 then ledger else if ledger = 16 ∧ column < 2 then 16 + column else 18
  let dem := ledgerDem s1 col slot
  let first : Word := match ledgerFirst s1 col slot with
    | some d => if dem = 0 then 0xFFFFFFFF else w32 (d - s1.drover.slotBase)
    | none => 0xFFFFFFFF
  let res := if slot = 0 then w32 (Tbl.getD s1.drover.reserve resKey 0) else 0
  s1.mapDrover (fun d => { d with snapDem := w32 dem, snapFirst := first, snapRes := res })

def drvrWrite (s : State) (off : Nat) (v : Word) : State :=
  if off = 0x080 then
    let s1 := s.setReg slotDrvr 0x080 (v &&& 0x001F0F3F)
    if bit v 31 then ledgerSnap s1 else s1
  else s

/-! ### LINK routing page (Tables 12-16, 12-17) -/

def winWrite (s : State) (off : Nat) (v : Word) : State :=
  match off % 16 with
  | 0 => s.setReg slotRoute off (v &&& 0xFFFFFE00)
  | 4 => s.setReg slotRoute off v
  | 8 => s.setReg slotRoute off v
  | 12 => s.setReg slotRoute off (v &&& 0xF800FFFF)
  | _ => s

def routeWrite (s : State) (off : Nat) (v : Word) : State :=
  match off with
  | 0x040 => selfWrite s v
  | 0x044 => dimsWrite s v
  | 0x048 => s.setReg slotRoute 0x048 (v &&& 0x00FFFFFF)
  | 0x04C => s.setReg slotRoute 0x04C (v &&& 0x0000FFFF)
  | 0x050 => s.softReg slotRoute 0x050 (v &&& 0x80000FFF)
  | 0x054 => rtWrite s v
  | _ => if 0x100 ≤ off ∧ off < 0x200 then winWrite s off v else s

/-! ### PWR (Tables 14-10, 14-11, 14-14) -/

def domCmdWrite (s : State) (v : Word) : State :=
  let s1 := s.setReg slotPwr 0x040 (v &&& 0x000F001F)
  if bit v 31 then domCmd s1 v else s1

def thermWrite (s : State) (v : Word) : State :=
  let s1 := cautionWrite s v
  if bit v 31 then thermResume s1 v else s1

def pwrWrite (s : State) (off : Nat) (v : Word) : State :=
  match off with
  | 0x040 => domCmdWrite s v
  | 0x058 => thermWrite s v
  | _ => if 0x200 ≤ off ∧ off < 0x260 then domPolicy s ((off - 0x200) / 4) v else s

/-! ### MGMT (Tables 1-6, 16-10, 17-16) -/

/-- Bits of a MGMT register that are RW and start nothing; 0 for every other offset. -/
def mgmtMask (off : Nat) : Word :=
  match off with
  | 0x190 => 0xFFFFF000
  | 0x194 => 0xFFFFFFFF
  | 0x198 => 0xFFFFFE00
  | 0x240 => 0xC000000F
  | 0x250 => 0xFFFFFFFF
  | 0x254 => 0xC0000000
  | 0x318 => 0x00003FFF
  | 0x328 => 0xFFFFF000
  | 0x32C => 0xFFFFFFFF
  | _ => if 0x500 ≤ off ∧ off < 0x600 then 0xFFFFFFFF else 0

def resetCmdWrite (s : State) (v : Word) : State :=
  let s1 := s.setReg slotMgmt 0x180 (v &&& 0x000F00FF)
  if bit v 31 then resetCmd s1 else s1

def mbCtrlWrite (s : State) (owner : Bool) (v : Word) : State :=
  let s1 := s.setReg slotMgmt 0x400 (v &&& 0x7F)
  if bit v 31 then mbSend s1 owner else s1

def mgmtWrite (s : State) (owner : Bool) (off : Nat) (v : Word) : State :=
  match off with
  | 0x100 => roleWrite s v
  | 0x180 => resetCmdWrite s v
  | 0x19C => dumpCtrl s v
  | 0x1A8 => s.softReg slotMgmt 0x1A8 (v &&& 0x80003FFF)
  | 0x320 => s.softReg slotMgmt 0x320 (v &&& 0x8003FFFF)
  | 0x300 => traceCtrl s v
  | 0x340 => counterCtrl s v
  | 0x400 => mbCtrlWrite s owner v
  | _ => if mgmtMask off = 0 then s else s.setReg slotMgmt off (v &&& mgmtMask off)

/-! ### TALLY (Table 17-19) -/

def tallyWrite (s : State) (f off : Nat) (v : Word) : State :=
  match off with
  | 0x058 => s.setReg slotTally 0x058 v
  | 0x05C => if bit v 31 then tallyLoad s else s
  | 0x064 =>
    let s1 := if f = 0 then s.setReg slotTally 0x064 (v &&& 0xFF) else s
    if bit v 31 then tallyClear s1 f else s1
  | 0x100 => s.setReg slotTally 0x100 (v &&& 0x3F)
  | 0x104 => trigCode s v
  | _ => if 0x108 ≤ off ∧ off < 0x128 then trigSnap s ((off - 0x108) / 4) v else s

/-! ### HOST (Tables 13-10, 13-11, 13-14) -/

def sessReqWrite (s : State) (f : FuncId) (v : Word) : State :=
  let s1 := s.setBank_ f.val 0x040 (v &&& 0x00071F00)
  let s2 := if bit v 31 then challenge s1 f.val else s1
  if bit v 30 then answer s2 f.val else s2

def sessCtlWrite (s : State) (f : FuncId) (v : Word) : State :=
  let s1 := s.setBank_ f.val 0x080 (v &&& 0x03FF00FF)
  let s2 := if bit v 31 then closeCmd s1 f else s1
  let s3 := if bit v 30 then attachCmd s2 f else s2
  if bit v 29 then detachCmd s3 f else s3

def bankedWrite (s : State) (f : FuncId) (off : Nat) (v : Word) : State :=
  match off with
  | 0x040 => sessReqWrite s f v
  | 0x080 => sessCtlWrite s f v
  | _ => if 0x060 ≤ off ∧ off < 0x080 then s.setBank_ f.val off v else s

def keySelWrite (s : State) (v : Word) : State :=
  let s1 := s.setReg slotHost 0x800 (v &&& 0x1F)
  let s2 := if bit v 31 then keyWrite s1 else s1
  if bit v 30 then keyErase s2 else s2

def infoSelWrite (s : State) (v : Word) : State :=
  let s1 := s.setReg slotHost 0x110 (v &&& 0x30003FFF)
  if bit v 31 then infoSnap s1 else s1

/-- A host window register. -/
def hwinWrite (s : State) (off : Nat) (v : Word) : State :=
  match off % 16 with
  | 0 => s.setReg slotHost off (v &&& 0xFFFFFE00)
  | 4 => s.setReg slotHost off v
  | 8 => s.setReg slotHost off (v &&& 0xE000003F)
  | _ => s

def hostWrite (s : State) (f : FuncId) (off : Nat) (v : Word) : State :=
  if off < 0x100 then bankedWrite s f off v
  else if 0x200 ≤ off ∧ off < 0x300 then s.setReg slotHost off (v &&& 0x07FF03FF)
  else if 0x400 ≤ off ∧ off < 0x800 then hwinWrite s off v
  else if 0x820 ≤ off ∧ off < 0x840 then s.setReg slotHost off v
  else match off with
  | 0x100 => s.setReg slotHost 0x100 (v &&& 0x1F)
  | 0x110 => infoSelWrite s v
  | 0x800 => keySelWrite s v
  | 0x804 => s.setReg slotHost 0x804 (v &&& 0x07FF00FF)
  | _ => s

/-- A base of a queue, the shadow word's address among them (DEDUCED, log entry 22), changes only while the queue is disabled
and not draining (R360). The low bits of an aligned base
(Tables 12-17, 13-10, 13-14: bases of rings, shadow words and windows) that no table marks RES keep nothing of what is
written: DESIGN CHOICE, log entry 99. -/
def queueBase (s : State) (q off : Nat) (v : Word) : State :=
  if (s.queue q).enable || (s.queue q).draining then s else s.setReg (slotQueue q) off v

def queueWrite (s : State) (q off : Nat) (v : Word) : State :=
  match off with
  | 0x044 => qCtrl s q v
  | 0x048 => queueBase s q 0x048 (v &&& 0xFFFFF000)
  | 0x04C => queueBase s q 0x04C v
  | 0x050 => queueBase s q 0x050 (v &&& 0xFFFFF000)
  | 0x054 => queueBase s q 0x054 v
  | 0x058 => queueBase s q 0x058 (v &&& 0xFFFFFFFC)
  | 0x05C => queueBase s q 0x05C v
  | 0x060 => doorbell s q v
  | 0x068 => s.setReg (slotQueue q) 0x068 v
  | _ => s

/-! ### A write that reaches its page -/

/-- A counter select register of the page. -/
def isSelect (slot off : Nat) : Bool := decide (0xB00 ≤ off) && decide (off < 0xB00 + 4 * counterCount slot)

/-- The registers beyond the header. Behind the raised hurdle of its own domain, before the reset begins, a strobe of a
HOST, queue, PWR, MGMT or TALLY page starts its action (R14, R43): DESIGN CHOICE, log entry 100. -/
def blockWrite (s : State) (f : FuncId) (owner : Bool) (slot off : Nat) (v : Word) : State :=
  if isSelect slot off then s.setReg slot off (counterSelect slot v) else
  match pageKind slot with
  | .route => routeWrite s off v
  | .drvr => drvrWrite s off v
  | .pwr => pwrWrite s off v
  | .mgmt => mgmtWrite s owner off v
  | .tally => tallyWrite s f.val off v
  | .host => hostWrite s f off v
  | .queue q => queueWrite s q off v
  | _ => s

/-- Every register of a page, by offset (R36, R37): RO and reserved ones keep their values. -/
def pageWrite (s : State) (f : FuncId) (owner : Bool) (slot off : Nat) (v : Word) : State :=
  if off < 0x040 then headerWrite s slot off v else blockWrite s f owner slot off v

/-- An offset of the 16 KiB of BAR4, which follow those of BAR0 (13_host_sessions.md Table 13-2; log entry 122). -/
def inBar4 (a : Nat) : Bool := decide (0x4000000 ≤ a) && decide (a < 0x4004000) && a % 4 == 0

/-- A write of a function to its BAR4: a word of the MSI-X table; a vector no longer masked sends its pending message.
PRESUMED from PCI Express, log entry 122. -/
def bar4Write (s : State) (f : FuncId) (off : Nat) (v : Word) : State :=
  if 0x200 ≤ off then s else
  let i := 32 * f.val + off / 16
  let e := (List.range 4).map (fun j => if j = off % 16 / 4 then v else wd (Tbl.getD s.host.msix i []) j)
  let s1 := s.mapHost (fun h => { h with msix := Tbl.set h.msix i e })
  if s1.host.pba.contains i && !vectorHeld s1 f.val (off / 16) then
    (s1.mapHost (fun h => { h with pba := h.pba.filter (· != i) })).toHost (.msix f.val (off / 16))
  else s1

/-- A 32-bit write of a function takes effect (R9, R34, R35, R40). A write to any register of a page in nap, off or reset is an
unsupported access, to PAGE_ID, PAGE_VER and STATUS too: DESIGN CHOICE, log entry 101. -/
def barNow (u : State) (f : FuncId) (a : Nat) (v : Word) : State :=
  if inBar4 a then bar4Write u f (a - 0x4000000) v else
  let slot := a / 0x1000
  let off := a % 0x1000
  if a % 4 ≠ 0 ∨ mayWrite u f slot off = false ∨ 2 ≤ u.dstate slot then unsupported u
  else pageWrite u f (isOwner u f) slot off v

/-- An access to BAR0 waits behind an earlier one of its function to BAR2 (13_host_sessions.md R351). -/
def bar0Waits (s : State) (f : FuncId) : Bool := s.host.bar2.any (fun x => x.func == f)

/-- A 32-bit write of a function to BAR0, or to the BAR4 that follows it. -/
def barWrite (s : State) (f : FuncId) (a : Nat) (v : Word) : State :=
  if !answers s f then s
  else if bar0Waits s f then
    bar2Wait s.fromHost { func := f, addr := a, len := 4, data := some (leBytes 4 v.toNat), bar0 := true, ep := false
                          since := s.now, done := 0, got := [] }
  else barNow s.fromHost f a v

/-! ### Writes from outside the host port (R448, R450) -/

/-- The firmware runs. -/
def fwRunning (s : State) : Bool := s.power.aoOn && bits (s.reg slotMgmt 0x104) 31 28 != 6

/-- The registers that WRITE_REG and MGMT packets reach. -/
def extReach (a : Nat) : Bool :=
  a == regAt slotMgmt 0x100 || a == regAt slotMgmt 0x180 || a == regAt slotPwr 0x040 || a == regAt slotPwr 0x058
    || (a / 0x1000 == slotRoute && a % 4 == 0)

/-- An accepted write acts as one of a management function. -/
def extWrite (s : State) (a : Nat) (v : Word) : State :=
  let slot := a / 0x1000
  if 2 ≤ s.dstate slot then unsupported s else pageWrite s 0 false slot (a % 0x1000) v

/-- Each accepted write pulses EXT_WRITE. -/
def extPulse (s : State) : State := s.pulse slotMgmt 4

/-- The transaction has been answered; the outcome is that of the last command (R447). -/
def smbDone (s : State) (status : Nat) : State :=
  (s.bump slotMgmt 0x244 1).mapSharal (fun h => { h with smbLast := status })

def smbRefuse (s : State) : State := (s.emit .smbNack).bump slotMgmt 0x248 1

/-- A write is NACKed for its PEC: a wrong one, or none where PEC_REQ asks for it. -/
def pecBad (s : State) (pec : Option Bool) : Bool :=
  match pec with
  | some ok => !ok
  | none => bit (s.reg slotMgmt 0x240) 30

/-- WRITE_REG (R447, R448). -/
def smbWriteReg (s : State) (a : Nat) (v : Word) (pec : Option Bool) : State :=
  if !s.power.aoOn then s
  else if !fwRunning s || pecBad s pec || !bit (s.reg slotMgmt 0x240) 31 then smbRefuse s
  else if extReach a then smbDone (extPulse (extWrite s a v)) 0
  else smbDone s 1

def execWriteReg (off v : Word) (pec : Option Bool) (s : State) : Res := .next (smbWriteReg s off.toNat v pec)

/-- A write over the fabric of one register. -/
def fabWriteReg (s : State) (a : Nat) (v : Word) : State :=
  let e := s.reg slotMgmt 0x254
  if fwRunning s && bit e 31 && bit e 30 && extReach a then extPulse (extWrite s a v) else s

/-- A register write by a requester. -/
def writeBy (s : State) (r : Requester) (a : Nat) (v : Word) : State :=
  match r with
  | .func f => barWrite s f a v
  | .smbus => smbWriteReg s a v (some true)
  | .fabric => fabWriteReg s a v

/-! ### Reads -/

/-- What a read of a register does beside answering (Tables 12-16, 16-10, 17-16). -/
def readEffect (s : State) (a : Nat) : State :=
  if 2 ≤ s.dstate (a / 0x1000) then s
  else if a = regAt slotRoute 0x054 then rtAdvance s
  else if a = regAt slotMgmt 0x1AC then aoAdvance s
  else if a = regAt slotMgmt 0x324 then traceAdvance s
  else s

/-- A 32-bit read of a function takes effect. -/
def barReadNow (u : State) (f : FuncId) (a : Nat) : State :=
  if a % 4 ≠ 0 ∨ mayRead u f (a / 0x1000) (a % 0x1000) = false then
    (unsupported u).toHost (.readData f.val [0, 0, 0, 0])
  else (readEffect u a).toHost (.readData f.val (leBytes 4 (regRead u f.val a).toNat))

/-- A 32-bit read of a function. -/
def barRead (s : State) (f : FuncId) (a : Nat) : State :=
  if !answers s f then s
  else if bar0Waits s f then
    bar2Wait s.fromHost { func := f, addr := a, len := 4, data := none, bar0 := true, ep := false, since := s.now, done := 0, got := [] }
  else barReadNow s.fromHost f a

/-- The access is one that R9, R34, R35 or R40 treats as unsupported. -/
def accessBad (s : State) (f : FuncId) (off size : Nat) (write : Bool) : Bool :=
  let slot := off / 0x1000
  !(size == 4 && inBar4 off) && (size != 4 || off % 4 != 0 ||
    (if write then !mayWrite s f slot (off % 0x1000) || decide (2 ≤ s.dstate slot) else !mayRead s f slot (off % 0x1000)))

/-- An unsupported access takes effect. -/
def unsupportedNow (u : State) (f : FuncId) (size : Nat) (write : Bool) : State :=
  let s1 := unsupported u
  if write then s1 else s1.toHost (.readData f.val (List.replicate size 0))

/-- UNSUPPORTED_ACCESS. -/
def unsupportedAccess (s : State) (f : FuncId) (off size : Nat) (write : Bool) : State :=
  if !answers s f || !accessBad s f off size write then s
  else if bar0Waits s f then
    bar2Wait s.fromHost { func := f, addr := off, len := size, data := if write then some [] else none, bar0 := true, ep := false
                          since := s.now, done := 0, got := [] }
  else unsupportedNow s.fromHost f size write

/-- An access to BAR0 whose turn has come. -/
def bar0Do (s : State) (b : Bar2) : State :=
  match b.data with
  | some d => if d.length = 4 then barNow s b.func b.addr (leWord d) else unsupportedNow s b.func b.len true
  | none => if b.len = 4 then barReadNow s b.func b.addr else unsupportedNow s b.func b.len false

/-- The accesses to BAR0 before which none of their function waits any more take effect, in their order (R351). -/
def bar0Line (s : State) : State :=
  s.host.bar2.foldl (fun u b =>
    match u.host.bar2.find? (fun x => x.func == b.func) with
    | some x => if x.bar0 && x = b then bar0Do (u.mapHost (fun h => { h with bar2 := dropFirst b h.bar2 })) b else u
    | none => u) s

def execUnsupportedAccess (f : FuncId) (off size : Nat) (write : Bool) (s : State) : Res :=
  .next (unsupportedAccess s f off size write)

/-! ### Fault records (R49, R50) -/

def optWord (o : Option Nat) (valid lo : Nat) : Word :=
  match o with
  | some n => flag true valid ||| fld n lo
  | none => 0

/-- FAULT_CODE and INFO0 to INFO7 (Tables 2-10, 2-11). -/
def faultWords (r : FaultRec) (seq lost : Nat) : List Word :=
  let t := r.time / 40 % 2 ^ 48
  [ fld seq 16 ||| w32 r.code, w32 t, fld lost 24 ||| w32 (t / 2 ^ 32),
    optWord r.ctx 31 12 ||| optWord r.task 30 0 ||| flag r.sess.isSome 29,
    fld (r.sess.getD 0) 24 ||| optWord r.core 23 0, w32 (r.addr.getD 0),
    flag r.addr.isSome 31 ||| (match r.node with
      | some n => flag true 30 ||| n.setWidth 32
      | none => 0),
    r.d0, r.d1 ]

/-- Sharal gets its copy, or the copy is dropped (17_sharal_tally.md R438). -/
def copyToSharal (s : State) (slot : Nat) (ws : List Word) (code : Nat) : State :=
  if !s.power.aoOn then s
  else if s.sharal.copies.length < 256 then
    s.mapSharal (fun h => { h with copies := h.copies ++ [{ slot := slot, words := ws, code := code }] })
  else ((s.mapTally (fun t => { t with dropped := min 255 (t.dropped + 1) })).bump slotTally 0x04C 1).pulse slotTally 1

/-- The trace entry of a fault record. -/
def traceFault (s : State) (slot : Nat) (r : FaultRec) (ws : List Word) : State :=
  let inst := match r.task with
    | some t => (match instOfTask s t with
      | some i => i.num
      | none => 0)
    | none => 0
  traceEv s 1 0x06 slot inst (r.ctx.getD 0) (r.task.getD 0) [wd ws 0, wd ws 3, wd ws 5, wd ws 7]

/-- FAULT_RECORD_WRITE (R50). -/
def faultRecordWrite (s : State) (slot : Nat) : State :=
  let p := s.faultPage slot
  let due := match p.last with
    | some t => decide (t + 16 ≤ s.now)
    | none => true
  match p.queue with
  | [] => s
  | r :: rest =>
    if !due then s else
    let seq := (bits (s.reg slot 0x01C) 31 16 + 1) % 65536
    let ws := faultWords r seq p.lost
    let s1 : State := { s with faults := Tbl.set s.faults slot { queue := rest, lost := 0, last := some s.now } }
    let s2 := ws.zipIdx.foldl (fun u x => u.setReg slot (0x01C + 4 * x.2) x.1) s1
    copyToSharal (traceFault (s2.pulse slot 31) slot r ws) slot ws r.code

def execFaultRecordWrite (slot : Nat) (s : State) : Res := .next (faultRecordWrite s slot)

/-! ### The rows that are register accesses -/

def execRegisterWrite (f : FuncId) (off : Nat) (v : Word) (s : State) : Res := .next (barWrite s f off v)

def execEvtLatchWrite (f : FuncId) (slot : Nat) (v : Word) (s : State) : Res := .next (barWrite s f (regAt slot 0x018) v)

/-- APPLY with what else the write holds. -/
def execRoleApply (r : Requester) (v : Word) (s : State) : Res :=
  .next (writeBy s r (regAt slotMgmt 0x100) (v ||| 0x80000000))

def execLedgerSnap (f : FuncId) (v : Word) (s : State) : Res := .next (barWrite s f (regAt slotDrvr 0x080) (v ||| 0x80000000))

def execPadkCtrlWrite (f : FuncId) (v : Word) (s : State) : Res := .next (barWrite s f (regAt slotPadk 0x008) v)

def execLinkTrain (f : FuncId) (p : PortId) (v : Word) (s : State) : Res :=
  .next (barWrite s f (regAt (slotLink p.val) 0x008) (v ||| 0x08000000))

def execSelfWrite (r : Requester) (v : Word) (s : State) : Res := .next (writeBy s r (regAt slotRoute 0x040) v)

def execDimsWrite (r : Requester) (v : Word) (s : State) : Res := .next (writeBy s r (regAt slotRoute 0x044) v)

def execChallenge (f : FuncId) (v : Word) (s : State) : Res := .next (barWrite s f (regAt slotHost 0x040) (v ||| 0x80000000))

def execAnswer (f : FuncId) (v : Word) (s : State) : Res := .next (barWrite s f (regAt slotHost 0x040) (v ||| 0x40000000))

def execClose (f : FuncId) (v : Word) (s : State) : Res := .next (barWrite s f (regAt slotHost 0x080) (v ||| 0x80000000))

def execAttach (f : FuncId) (v : Word) (s : State) : Res := .next (barWrite s f (regAt slotHost 0x080) (v ||| 0x40000000))

def execDetach (f : FuncId) (v : Word) (s : State) : Res := .next (barWrite s f (regAt slotHost 0x080) (v ||| 0x20000000))

def execKeySelWrite (f : FuncId) (v : Word) (s : State) : Res :=
  .next (barWrite s f (regAt slotHost 0x800) (v ||| 0x80000000))

def execKeySelErase (f : FuncId) (v : Word) (s : State) : Res :=
  .next (barWrite s f (regAt slotHost 0x800) (v ||| 0x40000000))

def execSqDoorbell (f : FuncId) (q : QueueId) (v : Word) (s : State) : Res :=
  .next (barWrite s f (regAt (slotQueue q.val) 0x060) v)

def execQCtrlWrite (f : FuncId) (q : QueueId) (v : Word) (s : State) : Res :=
  .next (barWrite s f (regAt (slotQueue q.val) 0x044) v)

def execInfoSelSnap (f : FuncId) (v : Word) (s : State) : Res :=
  .next (barWrite s f (regAt slotHost 0x110) (v ||| 0x80000000))

/-- The word of a command to a domain: GO, CMD and the DOMAIN of `v`. -/
def domWord (cmd : Nat) (v : Word) : Word := 0x80000000 ||| fld cmd 16 ||| (v &&& 0x1F)

/-- DOM_CMD with a command of Table 14-7. -/
def domGo (s : State) (r : Requester) (cmd : Nat) (v : Word) : State :=
  writeBy s r (regAt slotPwr 0x040) (domWord cmd v)

def execWake (r : Requester) (v : Word) (s : State) : Res := .next (domGo s r 1 v)

def execHold (r : Requester) (v : Word) (s : State) : Res := .next (domGo s r 2 v)

def execRelease (r : Requester) (v : Word) (s : State) : Res := .next (domGo s r 3 v)

def execDoze (r : Requester) (v : Word) (s : State) : Res := .next (domGo s r 4 v)

def execNap (r : Requester) (v : Word) (s : State) : Res := .next (domGo s r 5 v)

def execOff (r : Requester) (v : Word) (s : State) : Res := .next (domGo s r 6 v)

def execOn (r : Requester) (v : Word) (s : State) : Res := .next (domGo s r 7 v)

def execDomPolicyWrite (f : FuncId) (d : Fin 24) (v : Word) (s : State) : Res :=
  .next (barWrite s f (regAt slotPwr (0x200 + 4 * d.val)) v)

def execResume (r : Requester) (v : Word) (s : State) : Res :=
  .next (writeBy s r (regAt slotPwr 0x058) (v ||| 0x80000000))

def execCautionSet (r : Requester) (v : Word) (s : State) : Res := .next (writeBy s r (regAt slotPwr 0x058) v)

def execResetCommand (r : Requester) (v : Word) (s : State) : Res :=
  .next (writeBy s r (regAt slotMgmt 0x180) (v ||| 0x80000000))

def execDumpArm (f : FuncId) (v : Word) (s : State) : Res := .next (barWrite s f (regAt slotMgmt 0x19C) (v ||| 0x80000000))

def execAoClear (f : FuncId) (v : Word) (s : State) : Res := .next (barWrite s f (regAt slotMgmt 0x19C) (v ||| 0x40000000))

def execAoDataRead (f : FuncId) (s : State) : Res := .next (barRead s f (regAt slotMgmt 0x1AC))

def execTraceStart (f : FuncId) (v : Word) (s : State) : Res := .next (barWrite s f (regAt slotMgmt 0x300) (v ||| 0x80000000))

def execTraceStop (f : FuncId) (v : Word) (s : State) : Res := .next (barWrite s f (regAt slotMgmt 0x300) (v ||| 0x40000000))

def execTraceCopy (f : FuncId) (v : Word) (s : State) : Res := .next (barWrite s f (regAt slotMgmt 0x300) (v ||| 0x20000000))

def execTraceDataRead (f : FuncId) (s : State) : Res := .next (barRead s f (regAt slotMgmt 0x324))

def execCounterStart (f : FuncId) (v : Word) (s : State) : Res :=
  .next (barWrite s f (regAt slotMgmt 0x340) (v ||| 0x80000000))

def execCounterStop (f : FuncId) (v : Word) (s : State) : Res :=
  .next (barWrite s f (regAt slotMgmt 0x340) (v ||| 0x40000000))

def execCounterClear (f : FuncId) (v : Word) (s : State) : Res :=
  .next (barWrite s f (regAt slotMgmt 0x340) (v ||| 0x20000000))

def execTallyLoad (f : FuncId) (v : Word) (s : State) : Res := .next (barWrite s f (regAt slotTally 0x05C) (v ||| 0x80000000))

def execTallyClear (f : FuncId) (v : Word) (s : State) : Res := .next (barWrite s f (regAt slotTally 0x064) (v ||| 0x80000000))

end Sys2Proof.Machine
end

