-- ==== Sys2Proof/Machine/Grants.lean ====
section
/-! DEFINITION. The slots of the store ports, and reads that meet a parity error (07_streams.md R184 to R186, R193,
R194; 03_numbers_codebooks.md R85; 09_drover_graphs.md R242). -/

namespace Sys2Proof.Machine

/-! ### PORT_GRANT -/

def portNumber : StorePort → Nat
  | .near c => 2 * c.val
  | .column c => 2 * c.val + 1
  | .access => 512

/-- A request is served, by its type. -/
def serveRequest (s : State) (o : OutPkt) : State :=
  if o.pkt.ptype = tWrite then writeReceive s o
  else if o.pkt.ptype = tRead then readReceive s o
  else atomicReceive s o

/-- The access from outside that is next at a port: a remote request, else a BAR2 access (R186; 13_host_sessions.md R350); at
the access port the earlier of the two (10_herd_engine.md R253). -/
def serveOutside (s : State) (p : Nat) : State :=
  match reqAtPort s p, bar2At s p with
  | some o, some b => if p = 512 ∧ b.since < o.since then bar2Retry s b else serveRequest s o
  | some o, none => serveRequest s o
  | none, some b => bar2Retry s b
  | none, none => s

/-- PORT_GRANT (R184, R186, R253): a transfer that must not be made ends its task; the slot goes to the ready channel with the
smallest dry time, else to an access from outside. -/
def portGrant (s : State) (p : Nat) : State :=
  if !portFree s p then s else
  match portFaults s p with
  | some u => u
  | none =>
    match bestOf (portRequests s p) with
    | some r => grantTo s r.core r.ch r.want
    | none => serveOutside s p

def execPortGrant (p : StorePort) (s : State) : Res := .next (portGrant s (portNumber p))

/-! ### PARITY_REPLAY -/

/-- First byte of the 64-bit word that an address names in memory, or of the block whose side-array word it names. -/
def storeAddr (addr : Nat) : Nat := if addr < 0xA0000000 then addr / 8 * 8 else (addr - 0xA0000000) / 8 * 512

/-- The replay takes one further slot of the word's port, in this fc or the next (R194). -/
def replaySlot (s : State) (addr : Nat) : State :=
  let p := portOf (storeAddr addr)
  { s with slots := s.slots ++ [if portFree s p then p else p + 1024] }

/-- The time of a replay goes to the reserve of a column, and the task's budget on its core is extended (R194, R241). -/
def replayCharge (s : State) (col : Nat) (task : Option Nat) (core n : Nat) : State :=
  chargeReserve (match task with | some t => extendTask s t core n | none => s) col n

/-- STRM.REPLAYS, and STRM.POISONS where the error persists: of the core whose unit reads, else of the core whose store
holds the word (log entry 103). -/
def replayCount (s : State) (c : Option Nat) (persists : Bool) : State :=
  match c with
  | some c =>
    let s1 := (s.bump (slotStrm c) 0x048 1).pulse (slotStrm c) 1
    if persists then (s1.bump (slotStrm c) 0x04C 1).pulse (slotStrm c) 2 else s1
  | none => s

/-- The core of a reader. -/
def readerCore : Reader → Option Nat
  | .channel c _ => some c.val
  | .codebook c _ => some c.val
  | .program c => some c.val
  | .load c => some c.val
  | .attend c => some c.val
  | .restore c => some c.val
  | _ => none

/-- The task that a core restores. -/
def restoring (s : State) (c : Nat) : Option Nat :=
  (Tbl.keys s.drover.tasks).find? (fun t =>
    (match s.task t with | some k => k.st == .restoring | none => false)
      && (match taskD s t with | some d => d.onCores && d.cores.contains c | none => false))

/-- The task whose read it is, of a unit that reads at all; the inner value is `none` for a read of no task. -/
def readerTask (s : State) : Reader → Option (Option Nat)
  | .channel c ch => ((s.core c.val).chan ch.val).task.map some
  | .program c => (s.core c.val).prog.map (fun p => some p.task)
  | .load c => (s.core c.val).load.map (·.task)
  | .attend c =>
    match (s.core c.val).att with
    | some a => some (some a.inst.task)
    | none => ((s.core c.val).attQ.head?).map (fun q => some q.task)
  | .restore c => (restoring s c.val).map some
  | .herd => (occupant s 256).map some
  | .paddock => (occupant s 257).map some
  | .codebook _ _ => none
  | .bar2 => some none
  | .transfer => some none
  | .ralso => some none
  | .image => some none

/-- The ledger column whose reserve pays for a replay (R194, R242): the fold of the core that reads, the unit's column,
else the column of the store. -/
def replayCol (r : Reader) (addr : Nat) : Nat :=
  match readerCore r, r with
  | some c, _ => c / 16
  | none, .paddock => 17
  | none, .herd => 16
  | none, _ =>
    match regionCore (storeAddr addr) with
    | some c => c / 16
    | none => 16

/-- L of the store as the reader reaches it (Table 7-1). -/
def replayLatency (r : Reader) (addr : Nat) : Nat :=
  match readerCore r, regionCore (storeAddr addr) with
  | some c, _ => latency c (storeAddr addr)
  | none, some c => latency c (storeAddr addr)
  | none, none => 2

/-- A reader that names its marks in its fault remembers that it has marked the word; a transfer of a channel that the
replay concerns comes L later, and the channel's waits and its priming time are excused by as much (R187, R194). -/
def replayed (s : State) (r : Reader) (addr : Nat) (persists : Bool) : State :=
  let new := if persists then [addr / 8] else []
  match r with
  | .channel c ch => s.mapChan c.val ch.val (fun h => { h with
      marked := h.marked ++ new
      armedAt := if h.primed then h.armedAt else h.armedAt + replayLatency r addr
      excuse := if h.primed then s.now + replayLatency r addr else h.excuse
      flights := h.flights.map (fun f =>
        if f.block = storeAddr addr / 512 then { f with at_ := f.at_ + replayLatency r addr } else f) })
  | .load c => s.mapCore c.val (fun k => { k with load := k.load.map (fun l => { l with marked := l.marked ++ new }) })
  | .attend c => s.mapCore c.val (fun k => { k with marked := k.marked ++ new })
  | .restore c =>
    let s1 := s.mapCore c.val (fun k => { k with marked := k.marked ++ new })
    match restoring s c.val with
    | some t =>
      match s.task t with
      | some x => setTask s1 t { x with saved := x.saved.map (fun v =>
          if v.core = c.val then { v with replay := v.replay + replayLatency r addr } else v) }
      | none => s1
    | none => s1
  | .herd => { s with herd := { s.herd with marked := s.herd.marked ++ new } }
  | .paddock => { s with paddock := { s.paddock with marked := s.paddock.marked ++ new } }
  | _ => s

/-- A read of a store meets a parity error (R193, R467 step 1): it is replayed, and where the error persists the word is
marked. What the mark means is decided where the reader verifies the block. -/
def replayStore (s : State) (r : Reader) (addr : Nat) (persists : Bool) : State :=
  match readerTask s r with
  | none => s
  | some t =>
    let c := match readerCore r with | some c => some c | none => regionCore (storeAddr addr)
    let s1 := replayCount (replayCharge (replaySlot s addr) (replayCol r addr) t ((readerCore r).getD 256) (replayLatency r addr)) c persists
    let s2 := replayed s1 r addr persists
    if persists then s2.mapMem (fun m => m.mark addr) else s2

/-- What a reader can read: the units of a core its stores and those that channels reach, a program its near store
(09_drover_graphs.md R465), the Herd engine and the Paddock the herd store. -/
def readerReaches (s : State) (r : Reader) (addr : Nat) : Bool :=
  let a := storeAddr addr
  rangeOk a 1 false && (match readerCore r with | some c => s.coreRuns c | none => true)
  && (match r with
      | .program c => region a == .near c.val
      | .load c => regionCore a == some c.val
      | .restore c => region a == .column c.val
      | .herd => region a == .herd
      | .paddock => region a == .herd
      | _ => true)

/-- The claim index under which a task has been granted a codebook of a slot. -/
def claimIndex (s : State) (c i t : Nat) : Nat :=
  match s.task t with
  | some k =>
    match k.books.find? (fun b => b.1 / 256 == c && b.2 / 16 == i) with
    | some b => b.1 % 256
    | none => 0xFFFF
  | none => 0xFFFF

/-- The task whose MATMUL reads the codebook store of a core. -/
def mmTask (k : Core) : Option Nat := k.mm.map (·.inst.task)

/-- A slot of the codebook store fails (03_numbers_codebooks.md R85): its holders are aborted; an unpinned slot becomes
empty, a pinned one awaits its reload. -/
def slotFails (s : State) (c i word : Nat) : State :=
  let v := (s.core c).slot i
  let reader := mmTask (s.core c)
  let marks := v.marks ++ [word]
  let s1 := s.mapCore c (fun k => k.setSlot i
    (if v.pins.isEmpty then { CbSlot.empty with claims := v.claims, granted := v.granted, marks := marks }
     else { v with failed := true, parity := true, marks := marks }))
  v.claims.foldl (fun u t =>
    taskFault u (slotArr c) t (some c) 0x0003 none (w32 (claimIndex s c i t)) (flag (reader == some t) 0)) s1

/-- A read of a word of the codebook store meets a parity error; it takes no port slot, and its time goes to the fold's
reserve (log entry 40). -/
def replayBook (s : State) (c i word : Nat) (persists : Bool) : State :=
  let v := (s.core c).slot i
  if v.books.isEmpty || v.failed || v.marks.contains word then s else
  let s1 := replayCount (replayCharge s (c / 16) (mmTask (s.core c)) c Config.bookReplayFc) (some c) persists
  if persists then slotFails s1 c i word else s1

/-- PARITY_REPLAY (R193): a read that finds a parity error is replayed once; a word already marked is not replayed. For
the codebook store the address is that of the word in its slot. -/
def parityReplay (s : State) (r : Reader) (addr : Nat) (persists : Bool) : State :=
  match r with
  | .codebook c i => if s.coreRuns c.val then replayBook s c.val i.val (addr / 8) persists else s
  | _ => if s.mem.poison.contains (addr / 8) || !readerReaches s r addr then s else replayStore s r addr persists

def execParityReplay (r : Reader) (addr : Nat) (persists : Bool) (s : State) : Res := .next (parityReplay s r addr persists)

end Sys2Proof.Machine
end

