-- ==== Sys2Proof/Machine/Smbus.lean ====
section
/-! DEFINITION. The module as the baseboard and its neighbours manage it: SMBus commands and MGMT packets
(17_sharal_tally.md R444, R446 to R450). -/

namespace Sys2Proof.Machine

/-! ### SMBus transactions (R447) -/

/-- CRC-8 of SMBus 3.1: polynomial x^8 + x^2 + x + 1, initial value 0. PRESUMED, log entry 29. -/
def crc8Bit : Nat → Byte → Byte
  | 0, c => c
  | n + 1, c => crc8Bit n (if c.getLsbD 7 then (c <<< 1) ^^^ 0x07 else c <<< 1)

def crc8 (bs : List Byte) : Byte := bs.foldl (fun c b => crc8Bit 8 (c ^^^ b)) 0

/-- The module's 7-bit address. -/
def smbAddr : Nat := 0x60 + Config.modAddr.val

/-- The answer of a read: its data, and the PEC over the transaction; `sent` is what the host wrote after the
address, empty for a receive of a byte. -/
def smbReply (s : State) (sent data : List Byte) : State :=
  s.emit (.smbus (data ++ [crc8 (b8 (2 * smbAddr) :: sent ++ b8 (2 * smbAddr + 1) :: data)]))

/-- A block process call: count and bytes in, count and bytes out. -/
def smbCall (s : State) (cmd : Nat) (off : Word) (data : List Byte) : State :=
  smbReply s (b8 cmd :: b8 4 :: leBytes 4 off.toNat) (b8 data.length :: data)

/-- A command that needs the firmware running. -/
def smbFirmware (s : State) (go : State → State) : State :=
  if !s.power.aoOn then s else if fwRunning s then go s else smbRefuse s

/-- READ_BOOT. -/
def readBoot (s : State) : State :=
  if s.power.aoOn then smbDone (smbReply s [1] (leBytes 4 (s.reg slotMgmt 0x104).toNat)) 0 else s

def execReadBoot (s : State) : Res := .next (readBoot s)

/-- The pages of READ_REG. -/
def smbPage (slot : Nat) : Bool := slot == slotPwr || slot == slotMgmt || slot == slotTally || slot == slotRoute

/-- READ_REG. For an offset outside its pages the spec gives no value: a free one (log entry 2), with the outcome
BAD_MESSAGE: DESIGN CHOICE, log entry 29. -/
def readReg (s : State) (off : Word) : State :=
  smbFirmware s (fun s =>
    let a := off.toNat
    if smbPage (a / 0x1000) && a % 4 == 0 then smbDone (smbCall (readEffect s a) 2 off (leBytes 4 (regRead s 0 a).toNat)) 0
    else smbDone (smbCall (s.draw 1) 2 off (leBytes 4 (Config.freeWord s.free).toNat)) 1)

def execReadReg (off : Word) (s : State) : Res := .next (readReg s off)

/-- RT_DATA_ACCESS (12_ralso_fabric.md R322): a write of the entry at RT_INDEX, or a read of it. -/
def rtDataAccess (s : State) (r : Requester) (v : Option Word) : State :=
  let a := regAt slotRoute 0x054
  match v with
  | some w => writeBy s r a w
  | none =>
    match r with
    | .func f => barRead s f a
    | .smbus => readReg s (w32 a)
    | .fabric => if fwRunning s && bit (s.reg slotMgmt 0x254) 31 then readEffect s a else s

def execRtDataAccess (r : Requester) (v : Option Word) (s : State) : Res := .next (rtDataAccess s r v)

/-- TALLY_READ: a status, as RD_STATUS shows it, and the record; where there is none, free values stand in its place
(log entry 2). -/
def tallyRead (s : State) (q : Word) : State :=
  smbFirmware s (fun s =>
    match recordOf s q with
    | some r => smbDone (smbCall s 4 q (leBytes 4 (loadStatus s q) ++ wordsBytes r.words)) 0
    | none =>
      let ws := (List.range 32).map (fun i => Config.freeWord (s.free + i))
      smbDone (smbCall (s.draw 32) 4 q (leBytes 4 (loadStatus s q) ++ wordsBytes ws)) 0)

def execTallyRead (seq : Word) (s : State) : Res := .next (tallyRead s seq)

/-- AO_READ: 128 bytes of the always-on area; bytes that nothing has written are 0 (log entry 29). -/
def aoBytes (s : State) (a : Nat) : List Byte :=
  let l := ((wordsBytes s.resets.ao).drop a).take 128
  l ++ List.replicate (128 - l.length) 0

/-- The area has 64 KiB; what an offset beyond it gives is free (log entry 2). -/
def aoRead (s : State) (off : Word) : State :=
  smbFirmware s (fun s =>
    if off.toNat + 128 ≤ 65536 then smbDone (smbCall s 5 off (aoBytes s off.toNat)) 0
    else
      let l := (aoBytes s off.toNat).take (65536 - off.toNat)
      let x := (List.range (128 - l.length)).map (fun i => Config.freeByte (s.free + i))
      smbDone (smbCall (s.draw 128) 5 off (l ++ x)) 0)

def execAoRead (off : Word) (s : State) : Res := .next (aoRead s off)

/-- OWNER_SET over SMBus (R446): once, while slot 0 is empty; otherwise its outcome is STATE: DESIGN CHOICE,
log entry 29. -/
def smbOwnerSet (s : State) (key : List Byte) (pec : Option Bool) : State :=
  smbFirmware s (fun s =>
    if pecBad s pec then smbRefuse s
    else if (Tbl.get s.host.keys 0).isSome then smbDone s 4
    else smbDone (mandatory (setOwner s key) 0x100C [0]) 0)

def execSmbOwnerSet (key : Vector Byte 32) (pec : Option Bool) (s : State) : Res := .next (smbOwnerSet s key.toList pec)

/-- LAST_STATUS leaves the outcome as it is. -/
def lastStatus (s : State) : State :=
  if s.power.aoOn then smbDone (smbReply s [7] [b8 s.sharal.smbLast]) s.sharal.smbLast else s

def execLastStatus (s : State) : Res := .next (lastStatus s)

/-! ### Recovery (R444) -/

/-- A command of phase 0x6. -/
def smbRecovery (s : State) (go : State → State) : State :=
  if !s.power.aoOn then s else if fwRunning s then smbRefuse s else go s

/-- RECOVERY_WRITE: bytes beyond the 448 KiB buffer are not placed. -/
def recoveryWrite (s : State) (off : Word) (data : List Byte) (pec : Option Bool) : State :=
  smbRecovery s (fun s =>
    if pecBad s pec then smbRefuse s
    else if 458752 < off.toNat + data.length then smbDone s 1
    else smbDone (s.mapSharal (fun h => { h with
      recBuf := (data.zipIdx off.toNat).foldl (fun t p => cellsWrite t p.2 p.1) h.recBuf })) 0)

def execRecoveryWrite (off : Word) (data : List Byte) (pec : Option Bool) (s : State) : Res :=
  .next (recoveryWrite s off data pec)

/-- The image in the recovery buffer. -/
def recoveryImage (h : Sharal) : FwImage :=
  fwOfBytes ((List.range 458752).map (fun a => Tbl.getD h.recBuf a memDefault))

/-- RECOVERY_COMMIT: slot A is programmed, and start-up runs again from step 2. -/
def recoveryCommit (s : State) (pec : Option Bool) : State :=
  smbRecovery s (fun s =>
    if pecBad s pec then smbRefuse s else
    let i := recoveryImage s.sharal
    let c := fwCheck i s.sharal.fuse
    if c ≠ 0 then (smbDone s 3).mapSharal (fun h => { h with recStat := 0x10 + c })
    else startUp ((smbDone s 0).mapSharal (fun h => { writeHdr h false false with slotA := i, recStat := 2 })) none)

def execRecoveryCommit (pec : Option Bool) (s : State) : Res := .next (recoveryCommit s pec)

/-- RECOVERY_STATUS. -/
def recoveryStatus (s : State) : State := smbRecovery s (fun s => smbDone (smbReply s [0x12] [b8 s.sharal.recStat]) 0)

def execRecoveryStatus (s : State) : Res := .next (recoveryStatus s)

/-- SMB_ALERT_RESPONSE (R449): a read of the Alert Response Address 0x0C. A module that does not assert the signal
does not answer it. -/
def smbAlertResponse (s : State) : State :=
  if s.power.aoOn && s.power.alert then
    let data : List Byte := [b8 (2 * smbAddr)]
    (s.emit (.smbus (data ++ [crc8 (b8 0x19 :: data)]))).mapPower (fun p => { p with alert := false })
  else s

def execSmbAlertResponse (s : State) : Res := .next (smbAlertResponse s)

/-! ### MGMT packets (R450, Table 17-7) -/

/-- The port whose peer is a node. -/
def portOfPeer (s : State) (n : BitVec 16) : Option Nat :=
  (List.range 6).find? (fun p => portUp s p && (s.port p).peer == n)

/-- The RESULT of a request, one hop back. -/
def sendResult (s : State) (k : Packet) (status : Nat) (data : List Byte) : State :=
  let r : Packet :=
    { Packet.zero with
      ptype := tMgmt, vc := 6, dest := k.src, src := selfNode s, rtag := k.rtag, addr := k.addr, opx := 8, len := k.len
      gen := status, data := data }
  match portOfPeer s k.src with
  | some p => sendBy s p r
  | none => countNoRoute s

/-- FAB_MGMT_CTRL and FAB_MGMT_SRC admit the source. -/
def mgmtAdmits (s : State) (src : BitVec 16) : Bool :=
  let w := s.reg slotMgmt 0x250
  bit (s.reg slotMgmt 0x254) 31 && ((src.toNat ^^^ bits w 15 0) &&& bits w 31 16) == 0

/-- The registers that a request names: 4 to 32 bytes of consecutive registers. -/
def mgmtRegs (k : Packet) : List Nat :=
  if 4 ≤ k.len ∧ k.len ≤ 32 ∧ k.len % 4 = 0 then (List.range (k.len / 4)).map (fun i => k.addr + 4 * i) else []

/-- A request leaves the packets that wait, and is answered. -/
def mgmtServe (s : State) (op : Nat) (go : State → Packet → State) : State :=
  match mgmtPacket s [op] with
  | none => s
  | some o =>
    let s1 := dropLocal s o
    if mgmtAdmits s1 o.pkt.src then go s1 o.pkt else sendResult s1 o.pkt 1 []

/-- MGMT_READ. -/
def mgmtReadReq (s : State) (k : Packet) : State :=
  let l := mgmtRegs k
  if l = [] ∨ !l.all (fun a => smbPage (a / 0x1000) && a % 4 == 0) then sendResult s k 2 []
  else
    let r := l.foldl (fun (u : State × List Byte) a =>
      (readEffect u.1 a, u.2 ++ leBytes 4 (regRead u.1 0 a).toNat)) (s, [])
    sendResult r.1 k 0 r.2

def execMgmtRead (s : State) : Res := .next (mgmtServe s 1 mgmtReadReq)

/-- MGMT_WRITE: it also needs FAB_MGMT_CTRL.WRITE_EN. -/
def mgmtWriteReq (s : State) (k : Packet) : State :=
  let l := mgmtRegs k
  if !bit (s.reg slotMgmt 0x254) 30 then sendResult s k 1 []
  else if l = [] ∨ !l.all extReach then sendResult s k 2 []
  else
    let ws := leWords k.data
    sendResult (extPulse (l.zipIdx.foldl (fun u p => extWrite u p.1 (wd ws p.2)) s)) k 0 []

def execMgmtWrite (s : State) : Res := .next (mgmtServe s 2 mgmtWriteReq)

/-- MGMT_TALLY_READ. -/
def mgmtTallyReq (s : State) (k : Packet) : State :=
  let q := w32 k.addr
  match recordOf s q with
  | some r => sendResult s k 0 (wordsBytes r.words)
  | none => sendResult s k (loadStatus s q) []

def execMgmtTallyRead (s : State) : Res := .next (mgmtServe s 3 mgmtTallyReq)

end Sys2Proof.Machine
end

