-- ==== Sys2Proof/Machine/Dispatch.lean ====
section
/-! DEFINITION. The meaning of each command, one arm per constructor of `Instr`. -/

namespace Sys2Proof.Machine

open Sys2Proof

def exec (i : Instr) (s : State) : Host.Outcome State Fault Refusal :=
  match i with
  | .registerWrite f off v => Sys2Proof.Machine.execRegisterWrite f off v s
  | .unsupportedAccess f off size write => Sys2Proof.Machine.execUnsupportedAccess f off size write s
  | .evtLatchWrite f slot v => Sys2Proof.Machine.execEvtLatchWrite f slot v s
  | .faultRecordWrite slot => Sys2Proof.Machine.execFaultRecordWrite slot s
  | .roleApply r v => Sys2Proof.Machine.execRoleApply r v s
  | .roleChangeComplete => Sys2Proof.Machine.execRoleChangeComplete s
  | .codebookLoad c => Sys2Proof.Machine.execCodebookLoad c s
  | .codebookLoadComplete c => Sys2Proof.Machine.execCodebookLoadComplete c s
  | .pinnedLoad c => Sys2Proof.Machine.execPinnedLoad c s
  | .pinnedSlotReload c slot => Sys2Proof.Machine.execPinnedSlotReload c slot s
  | .pinReload c => Sys2Proof.Machine.execPinReload c s
  | .matmul c => Sys2Proof.Machine.execMatmul c s
  | .matmulStart c => Sys2Proof.Machine.execMatmulStart c s
  | .arrayStep c => Sys2Proof.Machine.execArrayStep c s
  | .matmulComplete c => Sys2Proof.Machine.execMatmulComplete c s
  | .drain c => Sys2Proof.Machine.execDrain c s
  | .drainStart c => Sys2Proof.Machine.execDrainStart c s
  | .drainTileRelease c => Sys2Proof.Machine.execDrainTileRelease c s
  | .drainComplete c => Sys2Proof.Machine.execDrainComplete c s
  | .tileStore c => Sys2Proof.Machine.execTileStore c s
  | .tileLoad c => Sys2Proof.Machine.execTileLoad c s
  | .tileAdd c => Sys2Proof.Machine.execTileAdd c s
  | .tileTransferStart c => Sys2Proof.Machine.execTileTransferStart c s
  | .tileTransferRelease c => Sys2Proof.Machine.execTileTransferRelease c s
  | .tileTransferComplete c => Sys2Proof.Machine.execTileTransferComplete c s
  | .attend c => Sys2Proof.Machine.execAttend c s
  | .attendStart c => Sys2Proof.Machine.execAttendStart c s
  | .attendBlock c => Sys2Proof.Machine.execAttendBlock c s
  | .attendComplete c => Sys2Proof.Machine.execAttendComplete c s
  | .arm c => Sys2Proof.Machine.execArm c s
  | .rearm c => Sys2Proof.Machine.execRearm c s
  | .rearmTakeEffect c ch => Sys2Proof.Machine.execRearmTakeEffect c ch s
  | .swap c => Sys2Proof.Machine.execSwap c s
  | .halvesSwap c ch => Sys2Proof.Machine.execHalvesSwap c ch s
  | .disarm c => Sys2Proof.Machine.execDisarm c s
  | .disarmComplete c ch => Sys2Proof.Machine.execDisarmComplete c ch s
  | .portGrant p => Sys2Proof.Machine.execPortGrant p s
  | .transferComplete c ch => Sys2Proof.Machine.execTransferComplete c ch s
  | .channelPrimed c ch => Sys2Proof.Machine.execChannelPrimed c ch s
  | .parityReplay r addr persists => Sys2Proof.Machine.execParityReplay r addr persists s
  | .dlead c => Sys2Proof.Machine.execDlead c s
  | .djoin c => Sys2Proof.Machine.execDjoin c s
  | .chainBlockForward c slot => Sys2Proof.Machine.execChainBlockForward c slot s
  | .chainBlockArrive c slot => Sys2Proof.Machine.execChainBlockArrive c slot s
  | .chainMarkerArrive c slot => Sys2Proof.Machine.execChainMarkerArrive c slot s
  | .chainCreditReturn c slot => Sys2Proof.Machine.execChainCreditReturn c slot s
  | .chainDetach c slot => Sys2Proof.Machine.execChainDetach c slot s
  | .droveTimeout c slot => Sys2Proof.Machine.execDroveTimeout c slot s
  | .submit => Sys2Proof.Machine.execSubmit s
  | .reside => Sys2Proof.Machine.execReside s
  | .imageResident tenant index => Sys2Proof.Machine.execImageResident tenant index s
  | .retire => Sys2Proof.Machine.execRetire s
  | .imageRetired tenant index => Sys2Proof.Machine.execImageRetired tenant index s
  | .templateSet => Sys2Proof.Machine.execTemplateSet s
  | .templateClear => Sys2Proof.Machine.execTemplateClear s
  | .ledgerSlotAdvance => Sys2Proof.Machine.execLedgerSlotAdvance s
  | .taskDispatch slot => Sys2Proof.Machine.execTaskDispatch slot s
  | .taskSuspend slot => Sys2Proof.Machine.execTaskSuspend slot s
  | .suspendDrained slot => Sys2Proof.Machine.execSuspendDrained slot s
  | .suspendSaveComplete slot => Sys2Proof.Machine.execSuspendSaveComplete slot s
  | .taskResume slot => Sys2Proof.Machine.execTaskResume slot s
  | .restoreComplete slot => Sys2Proof.Machine.execRestoreComplete slot s
  | .endInstr c => Sys2Proof.Machine.execEndInstr c s
  | .undefinedInstruction c => Sys2Proof.Machine.execUndefinedInstruction c s
  | .taskComplete slot => Sys2Proof.Machine.execTaskComplete slot s
  | .overrun slot => Sys2Proof.Machine.execOverrun slot s
  | .reserveExhausted column => Sys2Proof.Machine.execReserveExhausted column s
  | .instanceAbort => Sys2Proof.Machine.execInstanceAbort s
  | .ledgerSnap f v => Sys2Proof.Machine.execLedgerSnap f v s
  | .herdJobStart => Sys2Proof.Machine.execHerdJobStart s
  | .herdRecordRead => Sys2Proof.Machine.execHerdRecordRead s
  | .herdRecordOutput => Sys2Proof.Machine.execHerdRecordOutput s
  | .herdJobComplete => Sys2Proof.Machine.execHerdJobComplete s
  | .paddockBankSearch b => Sys2Proof.Machine.execPaddockBankSearch b s
  | .searchReplay b unit persists => Sys2Proof.Machine.execSearchReplay b unit persists s
  | .theftPc => Sys2Proof.Machine.execTheftPc s
  | .paddockJobStart => Sys2Proof.Machine.execPaddockJobStart s
  | .paddockOpEnqueue => Sys2Proof.Machine.execPaddockOpEnqueue s
  | .insert b => Sys2Proof.Machine.execInsert b s
  | .remove b => Sys2Proof.Machine.execRemove b s
  | .write b => Sys2Proof.Machine.execWrite b s
  | .setvalid b => Sys2Proof.Machine.execSetvalid b s
  | .clear b => Sys2Proof.Machine.execClear b s
  | .rebuild b => Sys2Proof.Machine.execRebuild b s
  | .rebuildStep b => Sys2Proof.Machine.execRebuildStep b s
  | .paddockJobComplete => Sys2Proof.Machine.execPaddockJobComplete s
  | .padkCtrlWrite f v => Sys2Proof.Machine.execPadkCtrlWrite f v s
  | .rwrite c => Sys2Proof.Machine.execRwrite c s
  | .rread c => Sys2Proof.Machine.execRread c s
  | .radd c => Sys2Proof.Machine.execRadd c s
  | .rbell c => Sys2Proof.Machine.execRbell c s
  | .packetSend p => Sys2Proof.Machine.execPacketSend p s
  | .packetForward p vc => Sys2Proof.Machine.execPacketForward p vc s
  | .writeReceive => Sys2Proof.Machine.execWriteReceive s
  | .readReceive => Sys2Proof.Machine.execReadReceive s
  | .atomicReceive => Sys2Proof.Machine.execAtomicReceive s
  | .doorbellReceive => Sys2Proof.Machine.execDoorbellReceive s
  | .doorbellHandover => Sys2Proof.Machine.execDoorbellHandover s
  | .readDataReceive => Sys2Proof.Machine.execReadDataReceive s
  | .ackReceive => Sys2Proof.Machine.execAckReceive s
  | .mcBlockReceive => Sys2Proof.Machine.execMcBlockReceive s
  | .mcMarkerReceive => Sys2Proof.Machine.execMcMarkerReceive s
  | .ralsoTimeout rtag => Sys2Proof.Machine.execRalsoTimeout rtag s
  | .mcastPrune p => Sys2Proof.Machine.execMcastPrune p s
  | .codewordReceive p fec w => Sys2Proof.Machine.execCodewordReceive p fec w s
  | .controlFlitReceive p flit => Sys2Proof.Machine.execControlFlitReceive p flit s
  | .nakReceive p seq => Sys2Proof.Machine.execNakReceive p seq s
  | .retrainTimeout p => Sys2Proof.Machine.execRetrainTimeout p s
  | .linkTrain f p v => Sys2Proof.Machine.execLinkTrain f p v s
  | .trainingComplete p r => Sys2Proof.Machine.execTrainingComplete p r s
  | .selfWrite r v => Sys2Proof.Machine.execSelfWrite r v s
  | .dimsWrite r v => Sys2Proof.Machine.execDimsWrite r v s
  | .rtDataAccess r v => Sys2Proof.Machine.execRtDataAccess r v s
  | .mgmtRead => Sys2Proof.Machine.execMgmtRead s
  | .mgmtWrite => Sys2Proof.Machine.execMgmtWrite s
  | .mgmtTallyRead => Sys2Proof.Machine.execMgmtTallyRead s
  | .mgmtResultReceive => Sys2Proof.Machine.execMgmtResultReceive s
  | .neighbourTimeout => Sys2Proof.Machine.execNeighbourTimeout s
  | .bar2Read f addr len => Sys2Proof.Machine.execBar2Read f addr len s
  | .bar2Write f addr data => Sys2Proof.Machine.execBar2Write f addr data s
  | .bar2Timeout => Sys2Proof.Machine.execBar2Timeout s
  | .challenge f v => Sys2Proof.Machine.execChallenge f v s
  | .answer f v => Sys2Proof.Machine.execAnswer f v s
  | .nonceLapse f => Sys2Proof.Machine.execNonceLapse f s
  | .lockEnd slot => Sys2Proof.Machine.execLockEnd slot s
  | .close f v => Sys2Proof.Machine.execClose f v s
  | .sessionNumberFree n => Sys2Proof.Machine.execSessionNumberFree n s
  | .attach f v => Sys2Proof.Machine.execAttach f v s
  | .detach f v => Sys2Proof.Machine.execDetach f v s
  | .keySelWrite f v => Sys2Proof.Machine.execKeySelWrite f v s
  | .keySelErase f v => Sys2Proof.Machine.execKeySelErase f v s
  | .sqDoorbell f q v => Sys2Proof.Machine.execSqDoorbell f q v s
  | .commandFetch q w0 w1 w2 w3 => Sys2Proof.Machine.execCommandFetch q w0 w1 w2 w3 s
  | .qCtrlWrite f q v => Sys2Proof.Machine.execQCtrlWrite f q v s
  | .queueDrained q => Sys2Proof.Machine.execQueueDrained q s
  | .completionWrite q => Sys2Proof.Machine.execCompletionWrite q s
  | .ctxOpen => Sys2Proof.Machine.execCtxOpen s
  | .ctxRoot => Sys2Proof.Machine.execCtxRoot s
  | .ctxRelease => Sys2Proof.Machine.execCtxRelease s
  | .contextFreed ctx => Sys2Proof.Machine.execContextFreed ctx s
  | .xferIn data => Sys2Proof.Machine.execXferIn data s
  | .xferOut => Sys2Proof.Machine.execXferOut s
  | .xferDone => Sys2Proof.Machine.execXferDone s
  | .infoSelSnap f v => Sys2Proof.Machine.execInfoSelSnap f v s
  | .functionLevelReset f => Sys2Proof.Machine.execFunctionLevelReset f s
  | .d3hotEntry f => Sys2Proof.Machine.execD3hotEntry f s
  | .vfEnableClear => Sys2Proof.Machine.execVfEnableClear s
  | .perstAssert => Sys2Proof.Machine.execPerstAssert s
  | .pcieHotReset => Sys2Proof.Machine.execPcieHotReset s
  | .wake r v => Sys2Proof.Machine.execWake r v s
  | .hold r v => Sys2Proof.Machine.execHold r v s
  | .release r v => Sys2Proof.Machine.execRelease r v s
  | .doze r v => Sys2Proof.Machine.execDoze r v s
  | .nap r v => Sys2Proof.Machine.execNap r v s
  | .off r v => Sys2Proof.Machine.execOff r v s
  | .on r v => Sys2Proof.Machine.execOn r v s
  | .idleEntry d => Sys2Proof.Machine.execIdleEntry d s
  | .portIdleEntry p => Sys2Proof.Machine.execPortIdleEntry p s
  | .dieNetworkDoze => Sys2Proof.Machine.execDieNetworkDoze s
  | .domainTransitionComplete d => Sys2Proof.Machine.execDomainTransitionComplete d s
  | .domPolicyWrite f d v => Sys2Proof.Machine.execDomPolicyWrite f d v s
  | .sensorSample t => Sys2Proof.Machine.execSensorSample t s
  | .resume r v => Sys2Proof.Machine.execResume r v s
  | .cautionSet r v => Sys2Proof.Machine.execCautionSet r v s
  | .supplySample vin iin pin => Sys2Proof.Machine.execSupplySample vin iin pin s
  | .underVoltage => Sys2Proof.Machine.execUnderVoltage s
  | .overVoltage => Sys2Proof.Machine.execOverVoltage s
  | .supplyRestore fail => Sys2Proof.Machine.execSupplyRestore fail s
  | .referenceLoss => Sys2Proof.Machine.execReferenceLoss s
  | .referenceReturn fail => Sys2Proof.Machine.execReferenceReturn fail s
  | .powerUp fail => Sys2Proof.Machine.execPowerUp fail s
  | .modRstAssert => Sys2Proof.Machine.execModRstAssert s
  | .hangDetect => Sys2Proof.Machine.execHangDetect s
  | .heartbeatCheck beat => Sys2Proof.Machine.execHeartbeatCheck beat s
  | .watchdogExpire => Sys2Proof.Machine.execWatchdogExpire s
  | .resetCommand r v => Sys2Proof.Machine.execResetCommand r v s
  | .resetDrainEnd d => Sys2Proof.Machine.execResetDrainEnd d s
  | .sampleReadTimeout d u => Sys2Proof.Machine.execSampleReadTimeout d u s
  | .resetAssert d => Sys2Proof.Machine.execResetAssert d s
  | .resetComplete d => Sys2Proof.Machine.execResetComplete d s
  | .resetEscalate d => Sys2Proof.Machine.execResetEscalate d s
  | .dumpArm f v => Sys2Proof.Machine.execDumpArm f v s
  | .aoClear f v => Sys2Proof.Machine.execAoClear f v s
  | .aoDataRead f => Sys2Proof.Machine.execAoDataRead f s
  | .faultCopyTake => Sys2Proof.Machine.execFaultCopyTake s
  | .tallyRecordClose => Sys2Proof.Machine.execTallyRecordClose s
  | .tallyProgram => Sys2Proof.Machine.execTallyProgram s
  | .hoursIncrement => Sys2Proof.Machine.execHoursIncrement s
  | .fwUpdate => Sys2Proof.Machine.execFwUpdate s
  | .fwConfirm => Sys2Proof.Machine.execFwConfirm s
  | .rollbackCommit => Sys2Proof.Machine.execRollbackCommit s
  | .ownerSet => Sys2Proof.Machine.execOwnerSet s
  | .fabricSave => Sys2Proof.Machine.execFabricSave s
  | .fabricErase => Sys2Proof.Machine.execFabricErase s
  | .neighbour => Sys2Proof.Machine.execNeighbour s
  | .readBoot => Sys2Proof.Machine.execReadBoot s
  | .readReg off => Sys2Proof.Machine.execReadReg off s
  | .writeReg off v pec => Sys2Proof.Machine.execWriteReg off v pec s
  | .tallyRead seq => Sys2Proof.Machine.execTallyRead seq s
  | .aoRead off => Sys2Proof.Machine.execAoRead off s
  | .smbOwnerSet key pec => Sys2Proof.Machine.execSmbOwnerSet key pec s
  | .lastStatus => Sys2Proof.Machine.execLastStatus s
  | .recoveryWrite off data pec => Sys2Proof.Machine.execRecoveryWrite off data pec s
  | .recoveryCommit pec => Sys2Proof.Machine.execRecoveryCommit pec s
  | .recoveryStatus => Sys2Proof.Machine.execRecoveryStatus s
  | .smbAlertResponse => Sys2Proof.Machine.execSmbAlertResponse s
  | .traceStart f v => Sys2Proof.Machine.execTraceStart f v s
  | .traceStop f v => Sys2Proof.Machine.execTraceStop f v s
  | .traceCopy f v => Sys2Proof.Machine.execTraceCopy f v s
  | .traceCopyDone => Sys2Proof.Machine.execTraceCopyDone s
  | .traceDataRead f => Sys2Proof.Machine.execTraceDataRead f s
  | .counterStart f v => Sys2Proof.Machine.execCounterStart f v s
  | .counterStop f v => Sys2Proof.Machine.execCounterStop f v s
  | .counterClear f v => Sys2Proof.Machine.execCounterClear f v s
  | .tallyLoad f v => Sys2Proof.Machine.execTallyLoad f v s
  | .tallyClear f v => Sys2Proof.Machine.execTallyClear f v s
  | .perstDeassert => Sys2Proof.Machine.execPerstDeassert s
  | .powerLoss => Sys2Proof.Machine.execPowerLoss s
  | .linkDown p => Sys2Proof.Machine.execLinkDown p s
  | .peerStartsTraining p => Sys2Proof.Machine.execPeerStartsTraining p s
  | .mailboxResponse => Sys2Proof.Machine.execMailboxResponse s

end Sys2Proof.Machine
end

