-- ==== Sys2Proof/Machine/Tick.lean ====
section
/-! DEFINITION. What one fast cycle does of its own, while no command is carried out: events are latched, token buckets
fill, cycles are counted, the trace is written (02_register_pages.md R47, R48; 07_streams.md R183, R187; 17_sharal_tally.md
R451, R453; 14_power_clocks.md R380). DESIGN CHOICE, log entry 30: the tick is the step on an empty queue. -/

namespace Sys2Proof.Machine

/-! ### Events (R47, R48) -/

/-- A page's events at the end of a fast cycle: rising edges of EVT_RAW are latched, and the output's rise sends its
message. In the first fc after a reset a level that the reset left high does not rise. A page in nap, off or reset
latches nothing (R40, R56). -/
def latchPage (s : State) (slot : Nat) : State :=
  let e := s.evt slot
  if 2 ≤ s.dstate slot then
    (if e.pulses = 0 ∧ e.fresh = 0 then s else s.setEvt slot { e with pulses := 0, fresh := 0 })
  else
    let raw := evtRaw s slot
    let rise := if e.first then e.pulses else raw &&& ~~~e.prev
    if raw = e.prev ∧ e.pulses = 0 ∧ e.fresh = 0 ∧ e.first = false then s else
    let s1 := s.setEvt slot { pulses := 0, prev := raw, latch := e.latch ||| rise, fresh := rise, first := false }
    if !evtOut s slot && evtOut s1 slot then evtMsg s1 slot else s1

def latchAll (s : State) : State := allSlots.foldl latchPage s

/-! ### Channels (R183, R187) -/

def feedWaits (now at_ ch : Nat) (f : Feed) : Bool := f.ch == ch && decide (0 < f.need) && decide (at_ ≤ now)

def mmWaits (now ch : Nat) (m : MmRun) : Bool := feedWaits now m.at_ ch m.w || feedWaits now m.at_ ch m.a

def drWaits (now ch : Nat) (d : DrRun) : Bool :=
  (match d.feed with
   | some f => feedWaits now d.start ch f
   | none => false)
  || (drOut d.inst.words == ch && !d.out.isEmpty)

def attWaits (now ch : Nat) (a : AttRun) : Bool :=
  [a.feed, a.kx, a.vx, a.kf, a.vf].any (feedWaits now a.at_ ch) || (atOch a.inst.words == ch && !a.out.isEmpty)

def opWaits (s : State) (c ch : Nat) : Bool :=
  match s.fabric.ops.find? (fun o => o.core == c) with
  | some o => (match o.feed with
    | some f => feedWaits s.now 0 ch f
    | none => false)
  | none => false

/-- A consumer or producer waits on a channel of a core. -/
def chanWaits (s : State) (c ch : Nat) : Bool :=
  let k := s.core c
  (match k.mm with
   | some m => mmWaits s.now ch m
   | none => false)
  || (match k.dr with
   | some d => drWaits s.now ch d
   | none => false)
  || (match k.att with
   | some a => attWaits s.now ch a
   | none => false)
  || opWaits s c ch

/-- The wait of a channel in this fc. After priming, and but for the time that replays excuse (R187), it counts: STARVED at its
start, STARVED_FC while it lasts, its trace entry at its end. -/
def starve (s : State) (c ch : Nat) : State :=
  let h := (s.core c).chan ch
  let waits := h.armed && chanWaits s c ch
  let s1 := if waits == h.waiting then s else s.mapChan c ch (fun h => { h with waiting := waits })
  if waits && h.primed && decide (h.excuse ≤ s.now) then
    let s2 := (s1.mapChan c ch (fun h => { h with waitFc := h.waitFc + 1 })).bump (slotStrm c) 0x054 1
    if h.waitFc = 0 then s2.pulse (slotStrm c) 4 else s2
  else if !waits && h.waitFc != 0 then
    let s2 := s1.mapChan c ch (fun h => { h with waitFc := 0 })
    match h.task with
    | some t => taskTrace s2 3 0x0C (slotStrm c) t [w32 ch, w32 h.waitFc]
    | none => s2
  else s1

/-- A bucket gains RATE ÷ 256 slot, up to its capacity. -/
def Chan.refill (h : Chan) : Chan :=
  if h.armed then { h with tokens := min (bucketCap h.desc) (h.tokens + h.desc.rate) } else h

def refillCore (s : State) (c : Nat) : State :=
  s.mapCore c (fun k => { k with chans := Tbl.mapV k.chans (fun _ h => h.refill) })

/-! ### Counted cycles -/

/-- The stalls of a core's chain slots (08_drove_chains.md R211, R218). -/
def stallCore (s : State) (c : Nat) : State :=
  let k := s.core c
  let now := k.drove.filter (fun p => stalls s p.2)
  let s1 := s.mapCore c (fun k => { k with drove := Tbl.mapV k.drove (fun i v =>
    { v with stallAt := if now.any (fun p => p.1 == i) then some (v.stallAt.getD s.now) else none }) })
  if now.isEmpty then s1 else s1.bump (slotDrove c) 0x054 1

/-- The wait of a joined channel's consumer for a block or its commit marker: it lasts while the queue is empty and the next
block is not there or not committed (R217). -/
def joinWaits (s : State) (c ch : Nat) (v : ChSlot) : Bool :=
  let h := (s.core c).chan ch
  h.waiting && decide (h.fetched ≤ h.done) && decide (h.done < chanTotal (s.core c) h)
  && ((v.blockOf v.nextSeq).isNone && !(v.catches && v.src.isSome) || decide (v.committed v.gen ≤ v.nextSeq))

/-- A joined channel in this fc: the wait for its next block, the walk of the bellwether, the reads of a head that catches up
(08_drove_chains.md R213, R216, R217). -/
def tickJoined (s : State) (c ch : Nat) : State :=
  let s1 := learnWalk s c ch
  match joinedSlot (s1.core c) ((s1.core c).chan ch) with
  | some (i, v) =>
    let at_ := if joinWaits s1 c ch v then some (v.waitAt.getD s1.now) else none
    headAsk (if at_ = v.waitAt then s1 else setSlotOf s1 c i { v with waitAt := at_ }) c i
  | none => s1

/-- The drain unit's pulse of NONFINITE_OUT, one fc for each drain cycle that wrote a non-finite element (04_matrix_array.md
Table 4-14). -/
def tickNonfin (s : State) (c : Nat) : State :=
  if (s.core c).nonfin = 0 then s
  else (s.mapCore c (fun k => { k with nonfin := k.nonfin - 1 })).pulse (slotArr c) 0

def tickChan (c : Nat) (s : State) (ch : Nat) : State := noteRequest (tickJoined (starve s c ch) c ch) c ch

/-- One fast cycle of a core whose domain is in run. -/
def tickCore (s : State) (c : Nat) : State :=
  if !s.coreRuns c then s else
  let s1 := (List.range 8).foldl (tickChan c) (pull (refillCore s c) c)
  let s2 := if (s.core c).att.isSome then s1.bump (slotAtt c) 0x05C 1 else s1
  tickNonfin (stallCore s2 c) c

/-- The packets that are next at a port and wait for credit. -/
def creditWaits (v : Port) : List OutPkt :=
  if v.st != .up || v.outQ.any (fun o => decide (0 < o.sent)) then [] else
  (List.range 7).filterMap (fun vc => (nextOf v vc).bind (fun o => if lacksCredit v o then some o else none))

/-- A port in doze, or entering it, with a packet that waits to go on: it wakes (14_power_clocks.md R384). -/
def portCalls (s : State) (p : Nat) : Bool :=
  let d := s.dom (16 + p)
  let v := s.port p
  v.st == .up && !d.waking && d.target.getD d.st == .doze && (!v.outQ.isEmpty || v.rx.any (fun r => !r.routed))

/-- A port in this fc: a dozing one wakes for a packet, and the waits for credit go on or end (R336). -/
def tickPort (s0 : State) (p : Nat) : State :=
  let s := if portCalls s0 p then startWake s0 (16 + p) else s0
  let v := s.port p
  if v.outQ.isEmpty then s else
  let l := if portRuns s p then creditWaits v else []
  let s1 := s.setPort p { v with outQ := v.outQ.map (fun o =>
    { o with waitAt := if l.contains o then some (o.waitAt.getD s.now) else none }) }
  if l.isEmpty then s1 else s1.bump (slotLink p) 0x068 1

/-- A copy for a head whose ring is full waits for room (R336). -/
def tickLocal (s : State) : State :=
  let l := match localOf s tMcBlock with
    | some o => if localWaits s o then some o else none
    | none => none
  if s.fabric.local_.isEmpty then s else
  s.mapFabric (fun f => { f with local_ := f.local_.map (fun o =>
    { o with waitAt := if l = some o then some (o.waitAt.getD s.now) else none }) })

/-- A host or Ralso transfer waits for a slot of the access port. -/
def outPending (s : State) : Bool := (reqAtPort s 512).isSome || (hostSince s 512).isSome

/-- The access port in this fc, whose number was `was`: the wait of transfers from outside goes on or ends (10_herd_engine.md R253). -/
def tickAccess (s : State) (was : Nat) : State :=
  let at_ := if outPending s then some (s.herd.outAt.getD was) else none
  if at_ = s.herd.outAt then s else { s with herd := { s.herd with outAt := at_ } }

/-- Cycles in run that event counters may select: of every core and every fold. -/
def tickCounters (s : State) : State :=
  if !s.sharal.counting then s else
  let s1 := (List.range 256).foldl (fun u c => if u.coreRuns c then countEvent u (slotCore c) 0x01 1 else u) s
  (List.range 16).foldl (fun u f => countEvent u (slotFold f) 0x80 1) s1

def tickUnits (s : State) : State :=
  let s1 := (Tbl.keys s.cores).foldl tickCore s
  let s2 := if s1.herd.run.isSome && s1.dstate slotHerd == 0 then s1.bump slotHerd 0x054 1 else s1
  tickAccess (tickCounters (tickLocal ((List.range 6).foldl tickPort s2))) (s.now - 1)

/-! ### Time (R380, R421) -/

/-- The idle time of a domain with admitted demand, of a busy port, or of a domain with a hold does not run (R380, R385). -/
def busyDom (s : State) (d : Nat) : State :=
  if (s.dom d).hold || (if 16 ≤ d ∧ d < 22 then portBusy s (d - 16) else domDemand s d) then s.setDom d { s.dom d with idle := s.now } else s

/-- The wake that a reset has to wait for adds to no limit (16_faults_recovery.md R421). -/
def drainWaits (s : State) : State :=
  mapResets s (fun x => { x with runs := x.runs.map (fun r =>
    if r.phase = .drain ∧ awake s r.dom = false then { r with since := s.now } else r) })

/-- Ports taken for a second slot are taken in the next fc too. -/
def nextSlots (l : List Nat) : List Nat := (l.filter (fun p => decide (1024 ≤ p))).map (· - 1024)

/-- The host link has trained again after a reset of the host port, and the host sets Bus Master Enable: DESIGN CHOICE,
log entry 7. -/
def hostLink (s : State) : State :=
  if hostUp s && !s.power.perst && s.power.pwrGood && !s.host.linkUp then
    s.mapHost HostPort.trained
  else s

/-- One fast cycle. -/
def tick (s : State) : State :=
  if !s.power.aoOn then s else
  let s1 := latchAll s
  let s2 : State := { s1 with now := s1.now + 1, slots := nextSlots s1.slots, soft := [] }
  let s3 := ((List.range 24).foldl busyDom (tickUnits s2))
  traceWrite (drainWaits (hostLink (bar0Line s3)))

end Sys2Proof.Machine
end

