-- ==== Sys2Proof/Safety.lean ====
section
/-! DEFINITION. What a safe run of the block is, and how a statement says what a command leaves alone. -/

namespace Sys2Proof.Machine

/-- The parts of the state, all but the queue of waiting commands. -/
inductive Part
  | now
  | regs
  | evts
  | faults
  | mem
  | slots
  | soft
  | cores
  | drover
  | herd
  | paddock
  | fabric
  | host
  | power
  | resets
  | sharal
  | roles
  | out
  | free
  deriving DecidableEq, Repr

/-- A part holds in `t` what it holds in `s`. -/
def Part.same : Part → State → State → Prop
  | .now, s, t => t.now = s.now
  | .regs, s, t => t.regs = s.regs
  | .evts, s, t => t.evts = s.evts
  | .faults, s, t => t.faults = s.faults
  | .mem, s, t => t.mem = s.mem
  | .slots, s, t => t.slots = s.slots
  | .soft, s, t => t.soft = s.soft
  | .cores, s, t => t.cores = s.cores
  | .drover, s, t => t.drover = s.drover
  | .herd, s, t => t.herd = s.herd
  | .paddock, s, t => t.paddock = s.paddock
  | .fabric, s, t => t.fabric = s.fabric
  | .host, s, t => t.host = s.host
  | .power, s, t => t.power = s.power
  | .resets, s, t => t.resets = s.resets
  | .sharal, s, t => t.sharal = s.sharal
  | .roles, s, t => t.roles = s.roles
  | .out, s, t => t.out = s.out
  | .free, s, t => t.free = s.free

/-- `t` differs from `s` in the parts `ps` at most; the queue of waiting commands is the same in both. -/
def Only (ps : List Part) (s t : State) : Prop :=
  t.pending = s.pending ∧ ∀ p, p ∉ ps → p.same s t

/-- What every step keeps: the stores keep their canonical form; the role table has at most 15 entries
(01_device_overview.md R31); and no page holds more than 4 faults that wait to be recorded (02_register_pages.md R50). -/
def State.sound (s : State) : Bool :=
  s.mem.wf && decide (s.roles.length ≤ 15) && s.faults.all (fun p => decide (p.2.queue.length ≤ 4))

/-- A step that a run may make: a next state that is sound again. The block has no other outcome: no rule
of the spec stops the module. -/
def Safe (s : State) : Prop :=
  ∃ t, step s = .next t ∧ (s.sound → t.sound)

/-! ### How a register access arrives -/

/-- A 32-bit access of a function to BAR0 takes effect as it arrives: the function answers, and no earlier access of it to
BAR2 waits (13_host_sessions.md R344, R351). -/
def Served (s : State) (f : FuncId) : Prop := answers s f = true ∧ bar0Waits s f = false

/-- A 32-bit write of a function goes through to the register: the host port serves it, the function may make it and
the page's domain takes it (00_scope.md R9; 02_register_pages.md R34, R35, R40). -/
def Reaches (s : State) (f : FuncId) (a : Nat) : Prop :=
  Served s f ∧ a % 4 = 0 ∧ mayWrite s.fromHost f (a / 0x1000) (a % 0x1000) = true ∧ s.fromHost.dstate (a / 0x1000) < 2

/-- A 32-bit read of a function is reported by the register. -/
def ReadReaches (s : State) (f : FuncId) (a : Nat) : Prop :=
  Served s f ∧ a % 4 = 0 ∧ mayRead s.fromHost f (a / 0x1000) (a % 0x1000) = true

/-- A write of a requester is accepted (02_register_pages.md R40; 17_sharal_tally.md R448, R450). -/
def Arrives (s : State) (r : Requester) (a : Nat) : Prop :=
  match r with
  | .func f => Reaches s f a
  | .smbus => s.power.aoOn = true ∧ fwRunning s = true ∧ bit (s.reg slotMgmt 0x240) 31 = true ∧ extReach a = true
      ∧ s.dstate (a / 0x1000) < 2
  | .fabric => fwRunning s = true ∧ bit (s.reg slotMgmt 0x254) 31 = true ∧ bit (s.reg slotMgmt 0x254) 30 = true
      ∧ extReach a = true ∧ s.dstate (a / 0x1000) < 2

/-- The state on which an accepted write acts: an access from the host is counted first. -/
def arriving (r : Requester) (s : State) : State :=
  match r with
  | .func _ => s.fromHost
  | _ => s

/-- What follows an accepted write: one from outside the host port pulses EXT_WRITE, and the baseboard gets its
answer. -/
def reported (r : Requester) (s : State) : State :=
  match r with
  | .func _ => s
  | .smbus => smbDone (extPulse s) 0
  | .fabric => extPulse s

/-- The access is made with owner rights. -/
def asOwner (r : Requester) (s : State) : Bool :=
  match r with
  | .func f => isOwner s.fromHost f
  | _ => false

/-! ### How an instruction is issued -/

/-- Core `c` is at an instruction with opcode `op` that its task's kind allows: `u` is the state with the program
fetched up to it, `p` the program and `ws` the words of the instruction (09_drover_graphs.md R465). -/
def Issues (s : State) (op c : Nat) (u : State) (p : Prog) (ws : List Word) : Prop :=
  front s c = .words u p ws ∧ opcodeOf (wd ws 0) = op ∧ kindAllows (taskKind s p.task) op = true

/-! ### Frames -/

/-- The parts that a command may change, at most; the others and the queue stand as they are. -/
def partsOf : Instr → List Part
  | .registerWrite .. => [.regs, .evts, .faults, .mem, .soft, .cores, .drover, .herd, .paddock, .fabric, .host, .power, .resets, .sharal, .roles, .out, .free]
  | .unsupportedAccess .. => [.regs, .evts, .host, .out]
  | .evtLatchWrite .. => [.regs, .evts, .host, .out]
  | .faultRecordWrite .. => [.regs, .evts, .faults, .sharal]
  | .roleApply .. => [.regs, .evts, .faults, .host, .sharal, .roles, .out]
  | .roleChangeComplete .. => [.regs, .roles]
  | .codebookLoad .. => [.regs, .faults, .cores, .drover]
  | .codebookLoadComplete .. => [.regs, .evts, .faults, .mem, .slots, .cores, .drover, .host]
  | .pinnedLoad .. => [.cores]
  | .pinnedSlotReload .. => [.cores, .drover]
  | .pinReload .. => [.cores, .drover]
  | .matmul .. => [.regs, .evts, .faults, .mem, .cores, .drover, .free]
  | .matmulStart .. => [.regs, .evts, .faults, .cores, .drover, .fabric]
  | .arrayStep .. => [.regs, .evts, .faults, .cores, .drover, .fabric]
  | .matmulComplete .. => [.regs, .cores]
  | .drain .. => [.regs, .evts, .faults, .mem, .cores, .drover, .free]
  | .drainStart .. => [.regs, .evts, .faults, .cores, .drover, .fabric]
  | .drainTileRelease .. => [.regs, .evts, .faults, .cores, .drover, .fabric]
  | .drainComplete .. => [.regs, .evts, .faults, .cores, .drover, .fabric]
  | .tileStore .. => [.regs, .evts, .faults, .mem, .cores, .drover, .free]
  | .tileLoad .. => [.regs, .evts, .faults, .mem, .cores, .drover, .free]
  | .tileAdd .. => [.regs, .evts, .faults, .mem, .cores, .drover, .free]
  | .tileTransferStart .. => [.regs, .evts, .faults, .cores, .drover, .fabric]
  | .tileTransferRelease .. => [.regs, .evts, .faults, .cores, .drover, .fabric]
  | .tileTransferComplete .. => [.regs, .evts, .faults, .cores, .drover, .fabric]
  | .attend .. => [.regs, .faults, .cores, .drover]
  | .attendStart .. => [.regs, .evts, .faults, .mem, .cores, .drover, .fabric, .power, .sharal]
  | .attendBlock .. => [.regs, .evts, .faults, .cores, .drover, .fabric]
  | .attendComplete .. => [.regs, .evts, .faults, .mem, .cores, .drover, .fabric]
  | .arm .. => [.regs, .evts, .faults, .cores, .drover, .sharal]
  | .rearm .. => [.faults, .cores, .drover]
  | .rearmTakeEffect .. => [.regs, .evts, .faults, .cores, .drover, .fabric, .sharal]
  | .swap .. => [.faults, .cores, .drover]
  | .halvesSwap .. => [.regs, .evts, .faults, .cores, .drover, .fabric, .sharal]
  | .disarm .. => [.faults, .cores, .drover]
  | .disarmComplete .. => [.regs, .evts, .faults, .cores, .drover, .fabric, .sharal]
  | .portGrant .. => [.regs, .evts, .faults, .mem, .slots, .cores, .drover, .herd, .fabric, .host, .power, .sharal, .out]
  | .transferComplete .. => [.regs, .evts, .faults, .mem, .cores, .drover, .fabric]
  | .channelPrimed .. => [.cores]
  | .parityReplay .. => [.regs, .evts, .faults, .mem, .slots, .cores, .drover, .herd, .paddock]
  | .dlead .. => [.regs, .evts, .faults, .cores, .drover, .sharal]
  | .djoin .. => [.regs, .evts, .faults, .cores, .drover, .sharal]
  | .chainBlockForward .. => [.regs, .evts, .faults, .cores, .drover, .fabric]
  | .chainBlockArrive .. => [.regs, .mem, .slots, .cores]
  | .chainMarkerArrive .. => [.regs, .evts, .cores]
  | .chainCreditReturn .. => [.cores]
  | .chainDetach .. => [.regs, .evts, .faults, .cores, .drover, .sharal]
  | .droveTimeout .. => [.evts, .faults, .cores, .drover]
  | .submit .. => [.regs, .evts, .cores, .drover, .host, .power, .sharal]
  | .reside .. => [.regs, .evts, .mem, .cores, .drover, .host]
  | .imageResident .. => [.regs, .evts, .drover, .host]
  | .retire .. => [.regs, .evts, .drover, .host]
  | .imageRetired .. => [.regs, .evts, .mem, .slots, .cores, .drover, .host]
  | .templateSet .. => [.regs, .evts, .drover, .host]
  | .templateClear .. => [.regs, .evts, .drover, .host]
  | .ledgerSlotAdvance .. => [.drover]
  | .taskDispatch .. => [.regs, .faults, .cores, .drover, .sharal]
  | .taskSuspend .. => [.regs, .cores, .drover]
  | .suspendDrained .. => [.drover]
  | .suspendSaveComplete .. => [.regs, .evts, .faults, .mem, .cores, .drover, .sharal]
  | .taskResume .. => [.regs, .faults, .cores, .drover]
  | .restoreComplete .. => [.regs, .evts, .faults, .cores, .drover, .sharal]
  | .endInstr .. => [.faults, .cores, .drover]
  | .undefinedInstruction .. => [.faults, .cores, .drover]
  | .taskComplete .. => [.regs, .evts, .cores, .drover, .host, .power, .sharal]
  | .overrun .. => [.regs, .evts, .faults, .cores, .drover]
  | .reserveExhausted .. => [.regs, .evts, .faults, .drover]
  | .instanceAbort .. => [.regs, .evts, .faults, .mem, .cores, .drover, .herd, .paddock, .fabric, .host, .power, .sharal, .free]
  | .ledgerSnap .. => [.regs, .evts, .drover, .host]
  | .herdJobStart .. => [.regs, .faults, .cores, .drover, .herd, .paddock]
  | .herdRecordRead .. => [.regs, .evts, .faults, .cores, .drover, .herd]
  | .herdRecordOutput .. => [.regs, .mem, .herd]
  | .herdJobComplete .. => [.regs, .evts, .cores, .drover, .herd, .paddock, .host, .power, .sharal]
  | .paddockBankSearch .. => [.regs, .faults, .cores, .drover, .herd, .paddock]
  | .searchReplay .. => [.regs, .faults, .cores, .drover, .herd, .paddock]
  | .theftPc .. => [.regs, .evts, .faults, .mem, .cores, .drover, .paddock]
  | .paddockJobStart .. => [.faults, .cores, .drover, .paddock]
  | .paddockOpEnqueue .. => [.faults, .cores, .drover, .paddock]
  | .insert .. => [.regs, .evts, .faults, .mem, .cores, .drover, .paddock]
  | .remove .. => [.regs, .evts, .faults, .mem, .cores, .drover, .paddock]
  | .write .. => [.regs, .evts, .faults, .mem, .cores, .drover, .paddock]
  | .setvalid .. => [.regs, .evts, .faults, .mem, .cores, .drover, .paddock]
  | .clear .. => [.regs, .evts, .faults, .mem, .cores, .drover, .paddock]
  | .rebuild .. => [.faults, .cores, .drover, .paddock]
  | .rebuildStep .. => [.regs, .evts, .faults, .mem, .cores, .drover, .paddock]
  | .paddockJobComplete .. => [.regs, .evts, .cores, .drover, .paddock, .host, .power, .sharal]
  | .padkCtrlWrite .. => [.regs, .evts, .faults, .fabric, .host, .out]
  | .rwrite .. => [.regs, .evts, .faults, .cores, .drover, .fabric]
  | .rread .. => [.regs, .evts, .faults, .cores, .drover, .fabric]
  | .radd .. => [.regs, .evts, .faults, .cores, .drover, .fabric]
  | .rbell .. => [.regs, .evts, .faults, .cores, .drover, .fabric]
  | .packetSend .. => [.regs, .evts, .faults, .cores, .drover, .fabric, .power, .sharal, .out]
  | .packetForward .. => [.regs, .evts, .fabric, .power, .sharal, .out]
  | .writeReceive .. => [.regs, .evts, .mem, .slots, .herd, .fabric, .host, .power, .sharal, .out]
  | .readReceive .. => [.regs, .evts, .slots, .herd, .fabric, .host, .power, .sharal, .out]
  | .atomicReceive .. => [.regs, .evts, .mem, .slots, .herd, .fabric, .host, .power, .sharal, .out]
  | .doorbellReceive .. => [.regs, .evts, .fabric, .out]
  | .doorbellHandover .. => [.regs, .evts, .drover, .fabric, .power, .sharal]
  | .readDataReceive .. => [.regs, .evts, .faults, .mem, .slots, .cores, .drover, .fabric, .out]
  | .ackReceive .. => [.faults, .cores, .drover, .fabric, .out]
  | .mcBlockReceive .. => [.regs, .evts, .faults, .mem, .slots, .cores, .drover, .fabric, .sharal, .out]
  | .mcMarkerReceive .. => [.regs, .evts, .faults, .cores, .drover, .fabric, .sharal, .out]
  | .ralsoTimeout .. => [.evts, .faults, .cores, .drover, .fabric]
  | .mcastPrune .. => [.regs, .fabric, .out]
  | .codewordReceive .. => [.regs, .evts, .fabric, .power, .out]
  | .controlFlitReceive .. => [.regs, .evts, .fabric, .out]
  | .nakReceive .. => [.regs, .evts, .fabric, .out]
  | .retrainTimeout .. => [.regs, .evts, .fabric, .out]
  | .linkTrain .. => [.regs, .evts, .faults, .fabric, .host, .out]
  | .trainingComplete .. => [.fabric, .power, .out]
  | .selfWrite .. => [.regs, .evts, .faults, .host, .power, .sharal, .out]
  | .dimsWrite .. => [.regs, .evts, .faults, .host, .sharal, .out]
  | .rtDataAccess .. => [.regs, .evts, .faults, .mem, .soft, .cores, .drover, .herd, .paddock, .fabric, .host, .power, .resets, .sharal, .roles, .out, .free]
  | .mgmtRead .. => [.regs, .evts, .fabric, .out]
  | .mgmtWrite .. => [.regs, .evts, .faults, .mem, .soft, .cores, .drover, .herd, .paddock, .fabric, .host, .power, .resets, .sharal, .roles, .out, .free]
  | .mgmtTallyRead .. => [.regs, .evts, .fabric, .out]
  | .mgmtResultReceive .. => [.fabric, .sharal, .out]
  | .neighbourTimeout .. => [.sharal]
  | .bar2Read .. => [.regs, .evts, .faults, .mem, .slots, .herd, .host, .power, .sharal, .out]
  | .bar2Write .. => [.regs, .evts, .faults, .mem, .slots, .herd, .host, .power, .sharal, .out]
  | .bar2Timeout .. => [.regs, .faults, .host, .out]
  | .challenge .. => [.regs, .evts, .host, .power, .sharal, .free]
  | .answer .. => [.regs, .evts, .host, .power, .sharal, .free]
  | .nonceLapse .. => [.host]
  | .lockEnd .. => [.host]
  | .close .. => [.regs, .evts, .faults, .mem, .cores, .drover, .herd, .paddock, .fabric, .host, .power, .sharal, .free]
  | .sessionNumberFree .. => [.host]
  | .attach .. => [.regs, .evts, .faults, .mem, .cores, .drover, .herd, .paddock, .fabric, .host, .power, .sharal, .free]
  | .detach .. => [.regs, .evts, .faults, .mem, .cores, .drover, .herd, .paddock, .fabric, .host, .power, .sharal, .free]
  | .keySelWrite .. => [.regs, .evts, .faults, .mem, .cores, .drover, .herd, .paddock, .fabric, .host, .power, .sharal, .free]
  | .keySelErase .. => [.regs, .evts, .faults, .mem, .cores, .drover, .herd, .paddock, .fabric, .host, .power, .sharal, .free]
  | .sqDoorbell .. => [.regs, .evts, .host, .power, .sharal]
  | .commandFetch .. => [.regs, .evts, .drover, .host]
  | .qCtrlWrite .. => [.regs, .evts, .host]
  | .queueDrained .. => [.host]
  | .completionWrite .. => [.regs, .evts, .faults, .mem, .cores, .drover, .herd, .paddock, .fabric, .host, .power, .sharal, .out, .free]
  | .ctxOpen .. => [.regs, .evts, .drover, .host]
  | .ctxRoot .. => [.regs, .evts, .drover, .host]
  | .ctxRelease .. => [.regs, .evts, .faults, .mem, .cores, .drover, .herd, .paddock, .fabric, .host, .power, .sharal, .free]
  | .contextFreed .. => [.regs, .evts, .host]
  | .xferIn .. => [.regs, .evts, .faults, .mem, .slots, .herd, .host, .power, .sharal]
  | .xferOut .. => [.regs, .evts, .faults, .mem, .slots, .cores, .drover, .herd, .paddock, .fabric, .host, .power, .sharal, .out, .free]
  | .xferDone .. => [.regs, .evts, .faults, .host]
  | .infoSelSnap .. => [.regs, .evts, .host]
  | .functionLevelReset .. => [.regs, .evts, .faults, .mem, .cores, .drover, .herd, .paddock, .fabric, .host, .power, .sharal, .free]
  | .d3hotEntry .. => [.regs, .evts, .faults, .mem, .cores, .drover, .herd, .paddock, .fabric, .host, .power, .sharal, .free]
  | .vfEnableClear .. => [.regs, .evts, .faults, .mem, .cores, .drover, .herd, .paddock, .fabric, .host, .power, .sharal, .free]
  | .perstAssert .. => [.regs, .evts, .faults, .mem, .cores, .drover, .herd, .paddock, .fabric, .host, .power, .sharal, .free]
  | .pcieHotReset .. => [.regs, .evts, .faults, .mem, .cores, .drover, .herd, .paddock, .fabric, .host, .power, .resets, .sharal, .free]
  | .wake .. => [.regs, .evts, .faults, .fabric, .host, .power, .sharal, .out]
  | .hold .. => [.regs, .evts, .faults, .fabric, .host, .power, .sharal, .out]
  | .release .. => [.regs, .evts, .faults, .fabric, .host, .power, .sharal, .out]
  | .doze .. => [.regs, .evts, .faults, .fabric, .host, .power, .sharal, .out]
  | .nap .. => [.regs, .evts, .faults, .fabric, .host, .power, .sharal, .out]
  | .off .. => [.regs, .evts, .faults, .fabric, .host, .power, .sharal, .out]
  | .on .. => [.regs, .evts, .faults, .fabric, .host, .power, .sharal, .out]
  | .idleEntry .. => [.regs, .power]
  | .portIdleEntry .. => [.regs, .power]
  | .dieNetworkDoze .. => [.regs, .power]
  | .domainTransitionComplete .. => [.regs, .evts, .faults, .mem, .cores, .drover, .herd, .paddock, .fabric, .power, .resets, .sharal, .out]
  | .domPolicyWrite .. => [.regs, .evts, .faults, .host]
  | .sensorSample .. => [.regs, .evts, .faults, .mem, .cores, .drover, .herd, .paddock, .fabric, .host, .power, .resets, .sharal, .free]
  | .resume .. => [.regs, .evts, .faults, .host, .power, .sharal, .out]
  | .cautionSet .. => [.regs, .evts, .faults, .host, .power, .sharal, .out]
  | .supplySample .. => [.regs, .power]
  | .underVoltage .. => [.regs, .evts, .faults, .mem, .slots, .cores, .drover, .herd, .paddock, .fabric, .host, .power, .resets, .sharal]
  | .overVoltage .. => [.regs, .evts, .faults, .mem, .slots, .cores, .drover, .herd, .paddock, .fabric, .host, .power, .resets, .sharal]
  | .supplyRestore .. => [.regs, .evts, .faults, .fabric, .host, .power, .resets, .sharal, .roles]
  | .referenceLoss .. => [.regs, .evts, .faults, .mem, .slots, .cores, .drover, .herd, .paddock, .fabric, .host, .power, .resets, .sharal]
  | .referenceReturn .. => [.regs, .evts, .faults, .fabric, .host, .power, .resets, .sharal, .roles]
  | .powerUp .. => [.now, .regs, .evts, .faults, .fabric, .host, .power, .resets, .sharal, .roles]
  | .modRstAssert .. => [.regs, .evts, .faults, .mem, .cores, .drover, .herd, .paddock, .fabric, .host, .power, .resets, .sharal, .free]
  | .hangDetect .. => [.regs, .evts, .faults, .mem, .cores, .drover, .herd, .paddock, .fabric, .host, .power, .resets, .sharal, .free]
  | .heartbeatCheck .. => [.resets]
  | .watchdogExpire .. => [.regs, .evts, .faults, .mem, .cores, .drover, .herd, .paddock, .fabric, .host, .power, .resets, .sharal, .free]
  | .resetCommand .. => [.regs, .evts, .faults, .mem, .cores, .drover, .herd, .paddock, .fabric, .host, .power, .resets, .sharal, .out, .free]
  | .resetDrainEnd .. => [.regs, .evts, .faults, .cores, .drover, .host, .resets, .sharal, .out]
  | .sampleReadTimeout .. => [.resets]
  | .resetAssert .. => [.regs, .evts, .faults, .mem, .cores, .drover, .herd, .paddock, .fabric, .host, .power, .resets, .sharal, .out, .free]
  | .resetComplete .. => [.regs, .evts, .faults, .mem, .slots, .soft, .cores, .drover, .herd, .paddock, .fabric, .host, .power, .resets, .sharal, .roles, .out, .free]
  | .resetEscalate .. => [.regs, .evts, .faults, .mem, .cores, .drover, .herd, .paddock, .fabric, .host, .power, .resets, .sharal, .free]
  | .dumpArm .. => [.regs, .evts, .faults, .soft, .host, .resets]
  | .aoClear .. => [.regs, .evts, .faults, .soft, .host, .resets]
  | .aoDataRead .. => [.regs, .evts, .host, .out]
  | .faultCopyTake .. => [.regs, .evts, .sharal]
  | .tallyRecordClose .. => [.sharal]
  | .tallyProgram .. => [.sharal]
  | .hoursIncrement .. => [.sharal]
  | .fwUpdate .. => [.regs, .evts, .power, .sharal]
  | .fwConfirm .. => [.regs, .evts, .power, .sharal]
  | .rollbackCommit .. => [.regs, .evts, .power, .sharal]
  | .ownerSet .. => [.regs, .evts, .faults, .mem, .cores, .drover, .herd, .paddock, .fabric, .host, .power, .sharal, .free]
  | .fabricSave .. => [.sharal]
  | .fabricErase .. => [.sharal]
  | .neighbour .. => [.fabric, .sharal]
  | .readBoot .. => [.regs, .sharal, .out]
  | .readReg .. => [.regs, .sharal, .out, .free]
  | .writeReg .. => [.regs, .evts, .faults, .mem, .soft, .cores, .drover, .herd, .paddock, .fabric, .host, .power, .resets, .sharal, .roles, .out, .free]
  | .tallyRead .. => [.regs, .sharal, .out, .free]
  | .aoRead .. => [.regs, .sharal, .out, .free]
  | .smbOwnerSet .. => [.regs, .evts, .faults, .mem, .cores, .drover, .herd, .paddock, .fabric, .host, .power, .sharal, .out, .free]
  | .lastStatus .. => [.regs, .sharal, .out]
  | .recoveryWrite .. => [.regs, .sharal, .out]
  | .recoveryCommit .. => [.regs, .evts, .faults, .fabric, .host, .power, .resets, .sharal, .roles, .out]
  | .recoveryStatus .. => [.regs, .sharal, .out]
  | .smbAlertResponse .. => [.power, .out]
  | .traceStart .. => [.regs, .evts, .faults, .mem, .cores, .drover, .herd, .paddock, .fabric, .host, .power, .sharal, .out, .free]
  | .traceStop .. => [.regs, .evts, .faults, .mem, .cores, .drover, .herd, .paddock, .fabric, .host, .power, .sharal, .out, .free]
  | .traceCopy .. => [.regs, .evts, .faults, .mem, .cores, .drover, .herd, .paddock, .fabric, .host, .power, .sharal, .out, .free]
  | .traceCopyDone .. => [.evts, .sharal]
  | .traceDataRead .. => [.regs, .evts, .host, .out]
  | .counterStart .. => [.regs, .evts, .host, .sharal]
  | .counterStop .. => [.regs, .evts, .host, .sharal]
  | .counterClear .. => [.regs, .evts, .host, .sharal]
  | .tallyLoad .. => [.regs, .evts, .faults, .host, .power, .sharal]
  | .tallyClear .. => [.regs, .evts, .faults, .host, .power, .sharal]
  | .perstDeassert .. => [.evts, .host, .power, .sharal]
  | .powerLoss .. => [.now, .regs, .evts, .faults, .mem, .slots, .cores, .drover, .herd, .paddock, .fabric, .host, .power, .resets, .sharal, .roles]
  | .linkDown .. => [.regs, .evts, .fabric, .out]
  | .peerStartsTraining .. => [.regs, .evts, .fabric]
  | .mailboxResponse .. => [.regs, .evts, .sharal]

end Sys2Proof.Machine
end

