-- ==== Sys2Proof/Certificates/Slice0/Obligations.lean ====
section
/-! DEFINITION. The statements for the provers. -/

open Sys2Proof Sys2Proof.Machine

/-- For every command c and every state, a step of the state with c at the front of its queue is exec of c on the state
with the rest of the queue. -/
def Obligations.StepRunsFront : Prop :=
  ∀ (s : State) (c : Instr) (rest : List Instr), step { s with pending := c :: rest } = exec c { s with pending := rest }

/-- Where no command waits and the always-on domain is powered, a step answers a next state in which one fast cycle has
passed, no command waits and every store port has the slots of the new cycle; without power nothing changes. That the step
on an empty queue is a fast cycle is the model's choice (log entry 30). -/
def Obligations.StepOnEmptyQueueIsAFastCycle : Prop :=
  ∀ s : State, s.pending = [] →
    (s.power.aoOn = true → ∃ t, step s = .next t ∧ t.now = s.now + 1 ∧ t.pending = [] ∧ t.slots = nextSlots s.slots)
    ∧ (s.power.aoOn = false → step s = .next s)

/-- Every command answers a next state, whatever the state and the operands: a fault of the module is a record, an abort
or an event, never a stop. -/
def Obligations.EveryCommandAnswersANextState : Prop :=
  ∀ (c : Instr) (s : State), ∃ t, exec c s = .next t

/-- The frame of all 221 commands: what a command may change is the list partsOf; every other part of the state
(registers, events, fault records, stores, cores, Drover, Herd engine, Paddock, fabric, host port, power, resets, Sharal,
roles, outputs) and the queue of waiting commands are as before. -/
def Obligations.CommandsChangeOnlyTheirParts : Prop :=
  ∀ (c : Instr) (s t : State), exec c s = .next t → Only (partsOf c) s t

/-- If a sound state steps to a next state, by any of the 221 commands or by a fast cycle, that state is sound: the bytes
of the stores are in canonical form, at most 15 role changes are queued (R31), and no page holds more than 4 faults that
wait to be recorded (R50). -/
def Obligations.StepKeepsSound : Prop :=
  ∀ s t : State, s.sound = true → step s = .next t → t.sound = true

/-- After start-up no command waits, the stores read 0 everywhere, folds, Herd engine, Paddock, host port and die network
are in run, the ports are off, no reset is in progress, no session is open, no instance is admitted and the state is
sound. -/
def Obligations.ResetIsSound : Prop :=
  State.reset.sound = true ∧ State.reset.pending = [] ∧ (∀ a, State.reset.mem.read a = 0)
    ∧ (∀ d : Fin 28, d.val < 16 ∨ 22 ≤ d.val → State.reset.domSt d.val = .run)
    ∧ (∀ p : Fin 6, State.reset.domSt (16 + p.val) = .off)
    ∧ State.reset.resets.runs = [] ∧ State.reset.host.sessions = [] ∧ State.reset.drover.insts = []
    ∧ State.reset.drover.instCtr = 1

/-- REGISTER_WRITE. Where an access of the function takes effect as it arrives (it answers, and no earlier access of it to BAR2
waits: R351), a write that it may make, to a page whose domain takes it, is carried out as the page's write; so it stores, in registers that are read-write and start nothing, exactly the
bits that their tables give (EVT_EN of every page, the watchdog, dump and trace settings of MGMT, RALSO_TIMEOUT, TALLY_RD_SEQ,
VF tenant and privilege, message vectors, key data, queue bases of a queue that is disabled and not draining); a read-only
word of a page's header, or a reserved register (R36), keeps its value and the write does nothing. The write is counted as an
access from the host. A write behind an access of its function to BAR2 waits for it in the host port (R351). Of a function
that does not answer (the host port off or in reset, the function in D3hot or not enabled) nothing is written. Every register write ends in a next state. -/
def Obligations.RegisterWriteStoresItsBits : Prop :=
  (∀ (s : State) (f : FuncId) (off : Nat) (v : Word), Reaches s f off →
    exec (.registerWrite f off v) s
      = .next (pageWrite s.fromHost f (isOwner s.fromHost f) (off / 0x1000) (off % 0x1000) v))
  ∧ (∀ (s : State) (f : FuncId) (off : Nat) (v : Word), answers s f = true → bar0Waits s f = true →
    exec (.registerWrite f off v) s = .next (s.fromHost.mapHost (fun h => { h with bar2 := h.bar2 ++
      [{ func := f, addr := off, len := 4, data := some (leBytes 4 v.toNat), bar0 := true, ep := false, since := s.now, done := 0
         got := [] }] })))
  ∧ (∀ (s : State) (f : FuncId) (slot : Nat) (v : Word), Reaches s f (regAt slot 0x014) →
    exec (.registerWrite f (regAt slot 0x014) v) s
      = .next (evtAfterWrite (s.fromHost.setReg slot 0x014 (v &&& evtMask slot)) slot))
  ∧ (∀ (s : State) (f : FuncId) (v : Word),
      ∀ r ∈ [(slotMgmt, 0x190, 0xFFFFF000#32), (slotMgmt, 0x194, 0xFFFFFFFF#32), (slotMgmt, 0x198, 0xFFFFFE00#32),
             (slotMgmt, 0x240, 0xC000000F#32), (slotMgmt, 0x254, 0xC0000000#32),
             (slotMgmt, 0x318, 0x00003FFF#32), (slotMgmt, 0x328, 0xFFFFF000#32), (slotRoute, 0x048, 0x00FFFFFF#32),
             (slotRoute, 0x04C, 0x0000FFFF#32), (slotTally, 0x058, 0xFFFFFFFF#32),
             (slotHost, 0x100, 0x0000001F#32), (slotHost, 0x204, 0x07FF03FF#32), (slotHost, 0x804, 0x07FF00FF#32),
             (slotHost, 0x820, 0xFFFFFFFF#32), (slotHost, 0x83C, 0xFFFFFFFF#32)],
      Reaches s f (regAt r.1 r.2.1) →
      exec (.registerWrite f (regAt r.1 r.2.1) v) s = .next (s.fromHost.setReg r.1 r.2.1 (v &&& r.2.2)))
  ∧ (∀ (s : State) (f : FuncId) (v : Word),
      ∀ r ∈ [(slotMgmt, 0x1A8, 0x80003FFF#32), (slotMgmt, 0x320, 0x8003FFFF#32), (slotRoute, 0x050, 0x80000FFF#32)],
      Reaches s f (regAt r.1 r.2.1) →
      exec (.registerWrite f (regAt r.1 r.2.1) v) s
        = .next (s.fromHost.softReg r.1 r.2.1 (v &&& r.2.2)))
  ∧ (∀ (s : State) (f : FuncId) (q : QueueId) (v : Word), Reaches s f (regAt (slotQueue q.val) 0x048) →
      (s.fromHost.queue q.val).enable = false → (s.fromHost.queue q.val).draining = false →
      exec (.registerWrite f (regAt (slotQueue q.val) 0x048) v) s
        = .next (s.fromHost.setReg (slotQueue q.val) 0x048 (v &&& 0xFFFFF000#32)))
  ∧ (∀ (s : State) (f : FuncId) (q : QueueId) (v : Word), Reaches s f (regAt (slotQueue q.val) 0x048) →
      ((s.fromHost.queue q.val).enable = true ∨ (s.fromHost.queue q.val).draining = true) →
      exec (.registerWrite f (regAt (slotQueue q.val) 0x048) v) s = .next s.fromHost)
  ∧ (∀ (s : State) (f : FuncId) (slot off : Nat) (v : Word),
      off ∈ [0x000, 0x004, 0x00C, 0x010, 0x01C, 0x020, 0x024, 0x028, 0x02C, 0x030, 0x034, 0x038, 0x03C] →
      Reaches s f (regAt slot off) → exec (.registerWrite f (regAt slot off) v) s = .next s.fromHost)
  ∧ (∀ (s : State) (f : FuncId) (c : CoreId) (k : Fin 5) (off : Nat) (v : Word),
      0x040 ≤ off → off < 0xB00 → Reaches s f (regAt (8 * c.val + k.val) off) →
      exec (.registerWrite f (regAt (8 * c.val + k.val) off) v) s = .next s.fromHost)
  ∧ (∀ (s : State) (f : FuncId) (off : Nat) (v : Word), answers s f = false → exec (.registerWrite f off v) s = .next s)
  ∧ (∀ (s : State) (f : FuncId) (off : Nat) (v : Word), ∃ t, exec (.registerWrite f off v) s = .next t)

/-- UNSUPPORTED_ACCESS. An access to BAR0 of a size other than 32 bits, not naturally aligned, or to a register that the
function may not reach, where it takes effect as it arrives, counts in UNSUPPORTED and pulses its event; a write is discarded, a read answers zeros. A
REGISTER_WRITE that the function may not make, or to a page in nap, off or reset, has the same effect. -/
def Obligations.UnsupportedAccessIsCounted : Prop :=
  (∀ (s : State) (f : FuncId) (off size : Nat), Served s f → inBar4 off = false →
    (size ≠ 4 ∨ off % 4 ≠ 0 ∨ mayWrite s f (off / 0x1000) (off % 0x1000) = false ∨ 2 ≤ s.dstate (off / 0x1000)) →
    exec (.unsupportedAccess f off size true) s = .next (unsupported s.fromHost))
  ∧ (∀ (s : State) (f : FuncId) (off size : Nat), Served s f → inBar4 off = false →
    (size ≠ 4 ∨ off % 4 ≠ 0 ∨ mayRead s f (off / 0x1000) (off % 0x1000) = false) →
    exec (.unsupportedAccess f off size false) s
      = .next ((unsupported s.fromHost).toHost (.readData f.val (List.replicate size 0))))
  ∧ (∀ (s : State) (f : FuncId) (off : Nat) (v : Word), Served s f → inBar4 off = false →
    (off % 4 ≠ 0 ∨ mayWrite s.fromHost f (off / 0x1000) (off % 0x1000) = false ∨ 2 ≤ s.fromHost.dstate (off / 0x1000)) →
    exec (.registerWrite f off v) s = .next (unsupported s.fromHost))
  ∧ (∀ s : State, (unsupported s).reg slotHost 0x108 = s.reg slotHost 0x108 + 1
      ∧ bit ((unsupported s).evt slotHost).pulses 2 = true ∧ Only [.regs, .evts] s (unsupported s))

/-- EVT_LATCH_WRITE. A write to EVT_LATCH that reaches the page clears exactly the latched bits written as 1 that hardware
did not set in this fast cycle; a bit that hardware sets in the same cycle is left set (R12), so an event is never lost.
Where the output is still asserted after the write, one message is sent to each receiver (R48). -/
def Obligations.EvtLatchWriteClears : Prop :=
  (∀ (s : State) (f : FuncId) (slot : Nat) (v : Word), Reaches s f (regAt slot 0x018) →
    ∃ t, exec (.evtLatchWrite f slot v) s = .next t ∧ Only [.regs, .evts, .host, .out] s t
      ∧ (∀ i, i < 32 → bit (t.evt slot).latch i
          = (bit (s.fromHost.evt slot).latch i && (!bit v i || bit (s.fromHost.evt slot).fresh i)))
      ∧ (∀ j, j ≠ slot → t.evt j = s.fromHost.evt j)
      ∧ (evtOut t slot = false → t.out = s.fromHost.out))

/-- FAULT_RECORD_WRITE. Where a fault waits in the page's queue and 16 fc have passed since the last record, the oldest one
is recorded: CODE, SEQ one higher and all eight INFO words are written together, INFO1.LOST takes the count of faults that
found the queue full, which starts anew, and EVT_RAW.FAULT pulses. Nothing is recorded within 16 fc of the last record, or
with no fault waiting. -/
def Obligations.FaultRecordWritten : Prop :=
  (∀ (s : State) (slot : Nat) (r : FaultRec) (rest : List FaultRec), (s.faultPage slot).queue = r :: rest →
    ((s.faultPage slot).last = none ∨ ∃ n, (s.faultPage slot).last = some n ∧ n + 16 ≤ s.now) →
    ∃ t, exec (.faultRecordWrite slot) s = .next t ∧ Only [.regs, .evts, .faults, .sharal] s t
      ∧ t.faultPage slot = ⟨rest, 0, some s.now⟩
      ∧ t.reg slot 0x01C = fld ((bits (s.reg slot 0x01C) 31 16 + 1) % 65536) 16 ||| w32 r.code
      ∧ (∀ i, i < 8 → t.reg slot (0x020 + 4 * i)
          = wd (faultWords r ((bits (s.reg slot 0x01C) 31 16 + 1) % 65536) (s.faultPage slot).lost) (i + 1))
      ∧ bit (t.evt slot).pulses 31 = true ∧ (∀ j, j ≠ slot → t.faultPage j = s.faultPage j))
  ∧ (∀ (s : State) (slot n : Nat), (s.faultPage slot).last = some n → s.now < n + 16 →
    exec (.faultRecordWrite slot) s = .next s)
  ∧ (∀ (s : State) (slot : Nat), (s.faultPage slot).queue = [] → exec (.faultRecordWrite slot) s = .next s)

/-- ROLE_APPLY and ROLE_CHANGE_COMPLETE. A write with APPLY stores NEXT first and queues a change whose target is NEXT; while
15 changes are queued it is discarded and the page records ROLE_QUEUE_FULL. A change completes when no admitted instance
remains: ROLE takes the first queued target, and the others wait. A target that Table 1-5 reserves leaves ROLE as it is
(log entry 31: DEDUCED). -/
def Obligations.RoleChangesQueue : Prop :=
  (∀ (s : State) (r : Requester) (v : Word), Arrives s r (regAt slotMgmt 0x100) → s.roles.length < 15 →
    exec (.roleApply r v) s = .next (reported r
      (let u := (arriving r s).setReg slotMgmt 0x100 (((arriving r s).reg slotMgmt 0x100 &&& 0x0F) ||| (v &&& 0xF0))
       { u with roles := s.roles ++ [BitVec.ofNat 4 (bits v 7 4)] })))
  ∧ (∀ (s : State) (r : Requester) (v : Word), Arrives s r (regAt slotMgmt 0x100) → 15 ≤ s.roles.length →
    exec (.roleApply r v) s = .next (reported r
      (((arriving r s).setReg slotMgmt 0x100 (((arriving r s).reg slotMgmt 0x100 &&& 0x0F) ||| (v &&& 0xF0))).fault slotMgmt
        { code := 0x0006 })))
  ∧ (∀ (s : State) (n : BitVec 4) (rest : List (BitVec 4)), s.roles = n :: rest → s.drover.insts = [] → n.toNat < 5 →
    exec .roleChangeComplete s
      = .next { s.setReg slotMgmt 0x100 ((s.reg slotMgmt 0x100 &&& 0xF0) ||| w32 n.toNat) with roles := rest })
  ∧ (∀ (s : State) (n : BitVec 4) (rest : List (BitVec 4)), s.roles = n :: rest → s.drover.insts = [] → 5 ≤ n.toNat →
    exec .roleChangeComplete s = .next { s with roles := rest })
  ∧ (∀ s : State, s.drover.insts ≠ [] ∨ s.roles = [] → exec .roleChangeComplete s = .next s)

/-- CODEBOOK_LOAD and CODEBOOK_LOAD_COMPLETE. Where no load of the core runs, the first waiting load of a task whose records
are not in one slot, and none of which hits a codebook with another LEVEL_CHECK, starts into the slot that R79 chooses: the
slot is loading, empty, and claimed by the task. 48 fc later, where the block is good, its records keep R60 and R61 and each wanted record stands at its index with the tag and kind that
the claim names, the slot holds exactly the group's records, is no longer loading, and CODEBOOK_LOADS counts it. Before 48 fc
have passed the load does not complete. A block with a wrong check value ends the load of a task with CHECK_MISMATCH, and an
unpinned slot is empty again. -/
def Obligations.CodebookLoadFillsItsSlot : Prop :=
  (∀ (s : State) (c : CoreId) (l : CbLoad) (tk i : Nat), s.coreRuns c.val = true → (s.core c.val).load = none →
    (s.core c.val).loads.find? (fun l => l.task.isSome) = some l → l.task = some tk →
    groupConflict (s.core c.val) (taskTenant s tk) l.wants = none →
    groupHit (s.core c.val) (taskTenant s tk) l.wants = none → chooseSlot (s.core c.val) = some i →
    ∃ t, exec (.codebookLoad c) s = .next t ∧ Only [.cores] s t
      ∧ (t.core c.val).load = some { l with slot := some i, start := s.now, marked := [] }
      ∧ (t.core c.val).loads = dropFirst l (s.core c.val).loads
      ∧ (t.core c.val).slot i = { CbSlot.empty with loading := true, claims := [tk], granted := s.now, group := l.group
                                                    pins := ((s.core c.val).slot i).pins }
      ∧ (∀ j, j ≠ i → (t.core c.val).slot j = (s.core c.val).slot j) ∧ (∀ d, d ≠ c.val → t.core d = s.core d))
  ∧ (∀ (s : State) (c : CoreId) (l : CbLoad) (i : Nat) (rs : List Record), s.coreRuns c.val = true →
    (s.core c.val).load = some l → l.slot = some i → l.start + 48 ≤ s.now →
    s.mem.verify (l.group / 512) = .good → groupOfBlock (s.mem.block (l.group / 512)) = some rs →
    (∀ r ∈ rs, levelCheck r.levels = r.check) →
    (∀ w ∈ l.wants, ∃ r, rs[w.index]? = some r ∧ r.tag = w.tag ∧ r.e256 = w.e256
      ∧ (l.task = none → l.pins ≠ [] → r.check = w.check)) →
    ∃ t, exec (.codebookLoadComplete c) s = .next t
      ∧ (t.core c.val).load = none
      ∧ ((t.core c.val).slot i).books
          = rs.map (fun r => { tenant := l.tenant, e256 := r.e256, tag := r.tag, check := r.check, levels := r.levels })
      ∧ ((t.core c.val).slot i).loading = false ∧ ((t.core c.val).slot i).failed = false
      ∧ t.reg (slotArr c.val) 0x24C = s.reg (slotArr c.val) 0x24C + 1
      ∧ t.mem = s.mem ∧ t.faults = s.faults ∧ (∀ d, d ≠ c.val → t.core d = s.core d))
  ∧ (∀ (s : State) (c : CoreId) (l : CbLoad), (s.core c.val).load = some l → s.now < l.start + 48 →
    exec (.codebookLoadComplete c) s = .next s)
  ∧ (∀ (s : State) (c : CoreId) (l : CbLoad) (tk i : Nat) (x : Word), s.coreRuns c.val = true →
    (s.core c.val).load = some l → l.slot = some i → l.start + 48 ≤ s.now → l.task = some tk → l.pins = [] →
    s.mem.verify (l.group / 512) = .mismatch x →
    ∃ t, exec (.codebookLoadComplete c) s = .next t ∧ (t.core c.val).load = none
      ∧ (t.core c.val).slot i = { CbSlot.empty with granted := ((s.core c.val).slot i).granted }
      ∧ t.faultPage (slotArr c.val)
          = (s.fault (slotArr c.val) (taskRec s tk (some c.val) 0x0002 (some l.group) (w32 l.claim) x)).faultPage (slotArr c.val))

/-- PINNED_LOAD, PINNED_SLOT_RELOAD and PIN_RELOAD. A waiting load of pins starts only where no load of a task waits, into the
slot that R79 chooses, which is pinned by its images from then on, whatever has come into the store since the image missed
(R83). A failed pinned slot that awaits its reload is loaded again into itself, and
48 fc are charged to the reserve of the fold and to no instance. A pinned group of a core that a reset or off has emptied is
loaded in the same way, without a charge where the core's reload is part of its return to service; where the codebook is in
the store again, by the reload of another image that shares it, its slot becomes pinned and nothing is loaded. -/
def Obligations.PinnedGroupsAreLoaded : Prop :=
  (∀ (s : State) (c : CoreId) (l : CbLoad) (rest : List CbLoad) (i : Nat), s.coreRuns c.val = true →
    (s.core c.val).load = none → (s.core c.val).loads = l :: rest → (∀ m ∈ l :: rest, m.task = none) →
    chooseSlot (s.core c.val) = some i →
    ∃ t, exec (.pinnedLoad c) s = .next t ∧ Only [.cores] s t
      ∧ (t.core c.val).load = some { l with slot := some i, start := s.now, marked := [] } ∧ (t.core c.val).loads = rest
      ∧ ((t.core c.val).slot i).loading = true ∧ ((t.core c.val).slot i).pins = l.pins)
  ∧ (∀ (s : State) (c : CoreId) (slot : Fin 16) (m : Image) (p : PinE) (rest : List (Image × PinE)), s.coreRuns c.val = true →
    (s.core c.val).load = none → ((s.core c.val).slot slot.val).failed = true →
    ((s.core c.val).slot slot.val).parity = true → ((s.core c.val).slot slot.val).pins ≠ [] →
    (let mine := (pinsOf s c.val).filter (fun p => ((s.core c.val).slot slot.val).pinnedBy c.val p.1 p.2)
     mine.filter (fun p => p.2.group c.val == ((s.core c.val).slot slot.val).group) ++ mine) = (m, p) :: rest →
    ∃ t, exec (.pinnedSlotReload c slot) s = .next t ∧ Only [.cores, .drover] s t
      ∧ (t.core c.val).load = some { reloadOf (pinsOf s c.val) c.val (p.group c.val) m.tenant with
                                     slot := some slot.val, start := s.now }
      ∧ ((t.core c.val).slot slot.val).loading = true
      ∧ Tbl.getD t.drover.reserve (c.val / 16) 0 = Tbl.getD s.drover.reserve (c.val / 16) 0 + 48
      ∧ t.drover.demands = s.drover.demands)
  ∧ (∀ (s : State) (c : CoreId) (m : Image) (p : PinE) (rest : List (Image × PinE)) (i : Nat), s.coreRuns c.val = true →
    (s.core c.val).load = none → missingPins s c.val = (m, p) :: rest → reloadHit (s.core c.val) m p = none →
    chooseSlot (s.core c.val) = some i →
    ∃ t, exec (.pinReload c) s = .next t ∧ Only [.cores, .drover] s t
      ∧ (t.core c.val).load = some { reloadOf (pinsOf s c.val) c.val (p.group c.val) m.tenant with
                                     slot := some i, start := s.now }
      ∧ ((t.core c.val).slot i).pins = (reloadOf (pinsOf s c.val) c.val (p.group c.val) m.tenant).pins
      ∧ Tbl.getD t.drover.reserve (c.val / 16) 0
          = Tbl.getD s.drover.reserve (c.val / 16) 0 + (if s.drover.noCharge.contains c.val then 0 else 48)
      ∧ t.drover.demands = s.drover.demands)
  ∧ (∀ (s : State) (c : CoreId) (m : Image) (p : PinE) (rest : List (Image × PinE)) (i : Nat), s.coreRuns c.val = true →
    (s.core c.val).load = none → missingPins s c.val = (m, p) :: rest → reloadHit (s.core c.val) m p = some i →
    ∃ t, exec (.pinReload c) s = .next t ∧ Only [.cores] s t ∧ (t.core c.val).load = none
      ∧ ((t.core c.val).slot i).pins = (((s.core c.val).slot i).pins ++ [m.key]).eraseDups
      ∧ ((t.core c.val).slot i).books = ((s.core c.val).slot i).books)

/-- MATMUL at a core whose program is at one. While the array queue holds 4 the issue stalls. A tile that the task does not
hold is a TILE_COLLISION. The lowest code of Table 4-6 that it meets aborts the task with BAD_MATMUL, an 8-bit index against
a 4-bit codebook with CODEBOOK_MISMATCH, a twin-mode form against R94 with TWIN_ILLEGAL. Otherwise it enters the queue behind
the others, the tile takes the scale of the weight channel and, with ACC = 0, the extent of the instruction; MM_LAST shows its
word 0, and the program moves past it. Nothing else of the core changes. -/
def Obligations.MatmulIssues : Prop :=
  (∀ (s u : State) (c : CoreId) (p : Prog) (ws : List Word), Issues s opMatmul c.val u p ws →
    4 ≤ (u.core c.val).arrQ.length → exec (.matmul c) s = .next u)
  ∧ (∀ (s u : State) (c : CoreId) (p : Prog) (ws : List Word), Issues s opMatmul c.val u p ws →
    (u.core c.val).arrQ.length < 4 → ((u.core c.val).tile (mmTile ws)).holder ≠ some p.task →
    exec (.matmul c) s = .next (tileCollision u c.val p.task (mmTile ws) (wd ws 0)))
  ∧ (∀ (s u : State) (c : CoreId) (p : Prog) (ws : List Word) (code : Nat), Issues s opMatmul c.val u p ws →
    (u.core c.val).arrQ.length < 4 → ((u.core c.val).tile (mmTile ws)).holder = some p.task →
    mmCode u c.val p.task ws = some code →
    exec (.matmul c) s = .next (taskFault u (slotArr c.val) p.task (some c.val) 0x0107 none (w32 code) (wd ws 0)))
  ∧ (∀ (s u : State) (c : CoreId) (p : Prog) (ws : List Word) (cl : Claim), Issues s opMatmul c.val u p ws →
    (u.core c.val).arrQ.length < 4 → ((u.core c.val).tile (mmTile ws)).holder = some p.task →
    mmCode u c.val p.task ws = none → (taskClaims u p.task)[mmCb ws]? = some cl →
    bit cl.w0 26 ≠ (((u.core c.val).chan (mmW ws)).desc.format == 4) →
    exec (.matmul c) s
      = .next (taskFault u (slotArr c.val) p.task (some c.val) 0x0101 none (w32 (mmCb ws)) (w32 (cl.group c.val))))
  ∧ (∀ (s u : State) (c : CoreId) (p : Prog) (ws : List Word) (cl : Claim) (b : Book) (i : Nat),
    Issues s opMatmul c.val u p ws →
    (u.core c.val).arrQ.length < 4 → ((u.core c.val).tile (mmTile ws)).holder = some p.task →
    mmCode u c.val p.task ws = none → (taskClaims u p.task)[mmCb ws]? = some cl →
    bit cl.w0 26 = (((u.core c.val).chan (mmW ws)).desc.format == 4) →
    mmTwin ws = true → claimBook u c.val p.task (mmCb ws) = some (b, i) → twinBits (u.core c.val) ws i ≠ 0 →
    exec (.matmul c) s = .next (taskFault u (slotArr c.val) p.task (some c.val) 0x0108 none
      (twinBits (u.core c.val) ws i) (wd ws 0)))
  ∧ (∀ (s u : State) (c : CoreId) (p : Prog) (ws : List Word) (cl : Claim), Issues s opMatmul c.val u p ws →
    (u.core c.val).arrQ.length < 4 → ((u.core c.val).tile (mmTile ws)).holder = some p.task →
    mmCode u c.val p.task ws = none → (taskClaims u p.task)[mmCb ws]? = some cl →
    bit cl.w0 26 = (((u.core c.val).chan (mmW ws)).desc.format == 4) →
    (mmTwin ws = false ∨ ∃ b i, claimBook u c.val p.task (mmCb ws) = some (b, i) ∧ twinBits (u.core c.val) ws i = 0) →
    ∃ t, exec (.matmul c) s = .next t ∧ Only [.regs, .cores] u t
      ∧ (t.core c.val).arrQ = (u.core c.val).arrQ ++ [queued u c.val p ws]
      ∧ (t.core c.val).tile (mmTile ws) = { (u.core c.val).tile (mmTile ws) with
          scale := ((u.core c.val).chan (mmW ws)).scale,
          extent := if mmAcc ws then ((u.core c.val).tile (mmTile ws)).extent else some (mmExtent ws) }
      ∧ (t.core c.val).tile (!mmTile ws) = (u.core c.val).tile (!mmTile ws)
      ∧ (t.core c.val).prog = some { p with pc := p.pc + 4 * ws.length }
      ∧ (t.core c.val).chans = (u.core c.val).chans ∧ (t.core c.val).mm = (u.core c.val).mm
      ∧ (t.core c.val).drQ = (u.core c.val).drQ ∧ (∀ d, d ≠ c.val → t.core d = u.core d))

/-- MATMUL_START, ARRAY_STEP and MATMUL_COMPLETE. The oldest queued MATMUL starts where none runs, its codebook is in its
slot, both its channels are primed and its task is not being aborted; its first products follow 10 fc later, or at once behind a predecessor. A step whose
weights and activations have come and whose time has passed (that of the rate at which its weights arrive, too) adds its groups into the tile (cleared first, at step 0 with
ACC = 0), updates the predictor history of the activation channel, and counts the step; after the last one the MATMUL waits
for its completion. An activation that is NaN or infinite aborts the task with NONFINITE_ACT, naming block and element, and
the tile is left as it is. 8 fc after its last products it completes, unless its task is being aborted. -/
def Obligations.MatmulRuns : Prop :=
  (∀ (s : State) (c : CoreId) (q : QInst) (rest : List QInst), s.coreRuns c.val = true → (s.core c.val).mm = none →
    (s.core c.val).arrQ = q :: rest → (claimBook s c.val q.task (mmCb q.words)).isSome = true →
    ((s.core c.val).chan (mmW q.words)).primed = true → ((s.core c.val).chan (mmA q.words)).primed = true →
    aborting s q.task = false →
    exec (.matmulStart c) s = .next (pull (s.setCore c.val { s.core c.val with
      arrQ := rest,
      mm := some (stepFeeds (s.core c.val)
        { inst := q, step := 0,
          at_ := if (s.core c.val).fins.any (fun m => m.at_ == s.now) then s.now else s.now + 10,
          w := ⟨mmW q.words, 0, [], ((s.core c.val).chan (mmW q.words)).done⟩,
          a := ⟨mmA q.words, 0, [], ((s.core c.val).chan (mmA q.words)).done⟩ } 0) }) c.val))
  ∧ (∀ (s u : State) (c : CoreId) (m : MmRun) (book : Book) (i : Nat), s.coreRuns c.val = true → u = pull s c.val →
    (u.core c.val).mm = some m → m.w.need = 0 → m.a.need = 0 → aborting u m.inst.task = false →
    badElem (stepBlocks (u.core c.val) m) = none →
    claimBook u c.val m.inst.task (mmCb m.inst.words) = some (book, i) →
    (m.step = 0 → tileFree u c.val m.inst = true) →
    m.at_ + (stepTime m.inst.words (mmG (u.core c.val) m.inst.words)
        (mmSpan m.inst.words (mmG (u.core c.val) m.inst.words) m.step) 2 book.e256
        (weightRate (u.core c.val) c.val ((u.core c.val).chan (mmW m.inst.words))
          (chanNib u (u.core c.val) ((u.core c.val).chan (mmW m.inst.words))
            (((u.core c.val).chan (mmW m.inst.words)).done - 1) / 2))).1 ≤ u.now →
    ∃ t, exec (.arrayStep c) s = .next (if m.step + 1 < mmSteps m.inst.words (mmG (u.core c.val) m.inst.words)
        then pull t c.val else t)
      ∧ (t.core c.val).tile m.inst.tile
          = addGroups (if m.step = 0 then firstStep ((u.core c.val).tile m.inst.tile) m.inst.words
                (mmG (u.core c.val) m.inst.words) else (u.core c.val).tile m.inst.tile)
              (mmExtent m.inst.words) book.levels m.w.got (mmG (u.core c.val) m.inst.words)
              (mmSpan m.inst.words (mmG (u.core c.val) m.inst.words) m.step)
              ((stepBlocks (u.core c.val) m).map (fun b => (b.1, b.2.1,
                convBlock ((u.core c.val).chan (mmA m.inst.words)).pred.hist ((u.core c.val).chan (mmA m.inst.words)).conv
                  b.2.2.1 b.2.2.2)))
      ∧ (t.core c.val).tile (!m.inst.tile) = (u.core c.val).tile (!m.inst.tile)
      ∧ (if m.step + 1 < mmSteps m.inst.words (mmG (u.core c.val) m.inst.words)
         then (t.core c.val).mm = some (stepFeeds (t.core c.val) { m with at_ := u.now } (m.step + 1))
           ∧ (t.core c.val).fins = (u.core c.val).fins
         else (t.core c.val).mm = none
           ∧ (t.core c.val).fins = (u.core c.val).fins ++ [{ m with at_ := u.now, step := m.step + 1 }])
      ∧ t.mem = u.mem ∧ t.faults = u.faults ∧ (∀ d, d ≠ c.val → t.core d = u.core d))
  ∧ (∀ (s u : State) (c : CoreId) (m : MmRun) (pos i : Nat), s.coreRuns c.val = true → u = pull s c.val →
    (u.core c.val).mm = some m → m.w.need = 0 → m.a.need = 0 → aborting u m.inst.task = false →
    badElem (stepBlocks (u.core c.val) m) = some (pos, i) →
    exec (.arrayStep c) s
      = .next (taskFault u (slotArr c.val) m.inst.task (some c.val) 0x0106 none (w32 pos) (w32 i)))
  ∧ (∀ (s : State) (c : CoreId) (m : MmRun) (rest : List MmRun), s.coreRuns c.val = true → (s.core c.val).fins = m :: rest →
    aborting s m.inst.task = false →
    exec (.matmulComplete c) s = .next (if s.now < m.at_ + 8 then s else
      (s.mapCore c.val (fun k => { k with fins := rest })).bump (slotArr c.val) 0x048 1))

/-- The groups that a step adds: for blocks of distinct array rows and a column of the extent, the element of the block's row
and the column becomes the sum of the old element and the group integer, which is the exact sum over the block of level times
operand, with the block's exponent; every element of another row or of a column beyond the extent is as before. -/
def Obligations.StepAddsEachGroupOnce : Prop :=
  ∀ (t : Tile) (e : Extent) (levels : List Byte) (got : List Word) (g n : Nat) (bs : List (Nat × Nat × Block)),
    (bs.map (fun b => e.row b.2.1 b.1)).Nodup → e.cols ≤ 64 →
    (∀ b ∈ bs, ∀ j, j < e.cols →
      (addGroups t e levels got g n bs).elem (e.row b.2.1 b.1) j
        = (t.elem (e.row b.2.1 b.1) j).add
            (W64.ofGroup ((b.2.2.ops.zipIdx.map (fun p =>
              ((levels.getD (wd got (weightAt g n e.cols p.2 b.2.1 j)).toNat 0).toInt : Int) * p.1)).sum) b.2.2.e))
    ∧ (∀ r j, j < 64 → (r ∉ bs.map (fun b => e.row b.2.1 b.1) ∨ e.cols ≤ j) →
      (addGroups t e levels got g n bs).elem r j = t.elem r j)

/-- DRAIN, TILE_STORE, TILE_LOAD and TILE_ADD at a core whose program is at one. While the drain queue holds 4 the issue
stalls; a tile that the task does not hold is a TILE_COLLISION; the lowest code of Table 4-6 that the instruction meets aborts
the task with BAD_MATMUL. Otherwise the instruction enters the queue behind the others with the tile's extent and captured
scale (TILE_LOAD with the extent that it sets), and the program moves past it. -/
def Obligations.DrainUnitIssues : Prop :=
  (∀ (s u : State) (c : CoreId) (p : Prog) (ws : List Word), 4 ≤ (u.core c.val).drQ.length →
    (Issues s opDrain c.val u p ws → exec (.drain c) s = .next u)
    ∧ (Issues s opTileStore c.val u p ws → exec (.tileStore c) s = .next u)
    ∧ (Issues s opTileLoad c.val u p ws → exec (.tileLoad c) s = .next u)
    ∧ (Issues s opTileAdd c.val u p ws → exec (.tileAdd c) s = .next u))
  ∧ (∀ (s u : State) (c : CoreId) (p : Prog) (ws : List Word), (u.core c.val).drQ.length < 4 →
    ((u.core c.val).tile (bit (wd ws 0) 23)).holder ≠ some p.task →
    (Issues s opDrain c.val u p ws → exec (.drain c) s = .next (tileCollision u c.val p.task (bit (wd ws 0) 23) (wd ws 0)))
    ∧ (Issues s opTileStore c.val u p ws →
        exec (.tileStore c) s = .next (tileCollision u c.val p.task (bit (wd ws 0) 23) (wd ws 0)))
    ∧ (Issues s opTileLoad c.val u p ws →
        exec (.tileLoad c) s = .next (tileCollision u c.val p.task (bit (wd ws 0) 23) (wd ws 0)))
    ∧ (Issues s opTileAdd c.val u p ws →
        exec (.tileAdd c) s = .next (tileCollision u c.val p.task (bit (wd ws 0) 23) (wd ws 0))))
  ∧ (∀ (s u : State) (c : CoreId) (p : Prog) (ws : List Word) (code : Nat), (u.core c.val).drQ.length < 4 →
    ((u.core c.val).tile (bit (wd ws 0) 23)).holder = some p.task →
    (Issues s opDrain c.val u p ws → drainCode u c.val p.task ws = some code →
        exec (.drain c) s = .next (taskFault u (slotArr c.val) p.task (some c.val) 0x0107 none (w32 code) (wd ws 0)))
    ∧ (xferCode u c.val p.task ws = some code →
        (Issues s opTileStore c.val u p ws →
          exec (.tileStore c) s = .next (taskFault u (slotArr c.val) p.task (some c.val) 0x0107 none (w32 code) (wd ws 0)))
        ∧ (Issues s opTileLoad c.val u p ws →
          exec (.tileLoad c) s = .next (taskFault u (slotArr c.val) p.task (some c.val) 0x0107 none (w32 code) (wd ws 0)))
        ∧ (Issues s opTileAdd c.val u p ws →
          exec (.tileAdd c) s = .next (taskFault u (slotArr c.val) p.task (some c.val) 0x0107 none (w32 code) (wd ws 0)))))
  ∧ (∀ (s u : State) (c : CoreId) (p : Prog) (ws : List Word), (u.core c.val).drQ.length < 4 →
    ((u.core c.val).tile (bit (wd ws 0) 23)).holder = some p.task →
    (Issues s opDrain c.val u p ws → drainCode u c.val p.task ws = none →
        exec (.drain c) s = .next (advance ((u.setReg (slotArr c.val) 0x044 (wd ws 0)).mapCore c.val (fun k =>
          { k with drQ := k.drQ ++ [⟨ws, p.task, k.seq, (k.tile (bit (wd ws 0) 23)).extent, (k.tile (bit (wd ws 0) 23)).scale⟩] })) c.val p ws))
    ∧ (xferCode u c.val p.task ws = none →
        (Issues s opTileStore c.val u p ws →
          exec (.tileStore c) s = .next (advance (u.mapCore c.val (fun k =>
            { k with drQ := k.drQ ++ [⟨ws, p.task, k.seq, (k.tile (bit (wd ws 0) 23)).extent, (k.tile (bit (wd ws 0) 23)).scale⟩] })) c.val p ws))
        ∧ (Issues s opTileAdd c.val u p ws →
          exec (.tileAdd c) s = .next (advance (u.mapCore c.val (fun k =>
            { k with drQ := k.drQ ++ [⟨ws, p.task, k.seq, (k.tile (bit (wd ws 0) 23)).extent, (k.tile (bit (wd ws 0) 23)).scale⟩] })) c.val p ws))
        ∧ (Issues s opTileLoad c.val u p ws →
          ∃ t, exec (.tileLoad c) s = .next t ∧ Only [.cores] u t
            ∧ (t.core c.val).tile (bit (wd ws 0) 23)
                = { (u.core c.val).tile (bit (wd ws 0) 23) with extent := some (mmExtent ws) }
            ∧ (t.core c.val).tile (!bit (wd ws 0) 23) = (u.core c.val).tile (!bit (wd ws 0) 23)
            ∧ (t.core c.val).drQ = (u.core c.val).drQ ++ [⟨ws, p.task, (u.core c.val).seq, some (mmExtent ws),
                ((u.core c.val).tile (bit (wd ws 0) 23)).scale⟩]
            ∧ (t.core c.val).prog = some { p with pc := p.pc + 4 * ws.length })))

/-- DRAIN_START, DRAIN_TILE_RELEASE and DRAIN_COMPLETE. The DRAIN at the front of the queue starts where the unit is free and
every earlier instruction of its tile has released it, unless its task is being aborted; the times of its tile release and its end are those of R109. When it has
read its last element, its outputs are the epilogue of R106 on the combined stripes, in output order; the outputs that are not
finite are counted, and one pulse of NONFINITE_OUT is due for each drain cycle that writes one (they come in the fast cycles
that follow: the model's choice, log entry 109); the tile's elements, status, groups and extent are unchanged, and the next instruction may take it from the
next fc. It completes when its time has passed and its output has been handed over. -/
def Obligations.DrainRuns : Prop :=
  (∀ (s : State) (c : CoreId) (q : QInst) (rest : List QInst), s.coreRuns c.val = true → (s.core c.val).dr = none →
    (s.core c.val).drQ = q :: rest → opcodeOf (wd q.words 0) = opDrain → tileFree s c.val q = true →
    aborting s q.task = false →
    exec (.drainStart c) s = .next (pull (s.setCore c.val { s.core c.val with
      drQ := rest,
      dr := some { inst := q, start := s.now, relAt := s.now + 2 + drainRead q.extent,
                   endAt := s.now + 16 + 4 * (if q.extent.striped then Nat.log2 q.extent.s else 0) + drainRead q.extent,
                   released := false,
                   feed := if drFuse q.words = 0 then none
                     else some { ch := drFch q.words, need := q.extent.rows * q.extent.cols, got := [],
                                 start := ((s.core c.val).chan (drFch q.words)).done },
                   fmt := ((s.core c.val).chan (drFch q.words)).desc.format, out := [] } }) c.val))
  ∧ (∀ (s u : State) (c : CoreId) (d : DrRun), s.coreRuns c.val = true → u = pull s c.val →
    (u.core c.val).dr = some d → opcodeOf (wd d.inst.words 0) = opDrain → d.released = false → d.relAt ≤ u.now →
    feedReady d.feed = true → aborting u d.inst.task = false →
    exec (.drainTileRelease c) s = .next
      (let out := drainOut (u.core c.val) d.inst d.fmt (feedVals d.feed)
       let bad := (out.filter (outNonfinite (drFmt d.inst.words))).length
       pull (((u.mapCore c.val (fun k => k.setTile d.inst.tile { k.tile d.inst.tile with freeAt := u.now + 1 })).mapCore
          c.val (fun k => { k with dr := some { d with released := true, out := out },
                                   nonfin := k.nonfin + badCycles (drFmt d.inst.words) out })).bump
          (slotArr c.val) 0x05C bad) c.val))
  ∧ (∀ (s u : State) (c : CoreId) (d : DrRun), s.coreRuns c.val = true → u = pull s c.val →
    (u.core c.val).dr = some d → opcodeOf (wd d.inst.words 0) = opDrain → d.endAt ≤ u.now → d.released = true → d.out = [] →
    aborting u d.inst.task = false →
    exec (.drainComplete c) s = .next ((u.mapCore c.val (fun k => { k with dr := none })).bump (slotArr c.val) 0x04C 1))
  ∧ (∀ (k : Core) (q : QInst) (fmt : Nat) (fused : List Word), (drainOut k q fmt fused).length = q.extent.rows * q.extent.cols)

/-- TILE_TRANSFER_START, TILE_TRANSFER_RELEASE and TILE_TRANSFER_COMPLETE. A transfer at the front of the drain queue starts
where the unit is free and its tile released, unless its task is being aborted; it moves 12 bytes for each element of the extent, 256 bytes an fc. When its last
element has moved, TILE_STORE hands the tile's bytes over and leaves the tile as it is, TILE_LOAD has written the elements of
the stream, and TILE_ADD has added them; the tile is free from the next fc. The transfer completes when its time has passed
and its output has been handed over. -/
def Obligations.TileTransferRuns : Prop :=
  (∀ (s : State) (c : CoreId) (q : QInst) (rest : List QInst), s.coreRuns c.val = true → (s.core c.val).dr = none →
    (s.core c.val).drQ = q :: rest → opcodeOf (wd q.words 0) ≠ opDrain → tileFree s c.val q = true →
    aborting s q.task = false →
    exec (.tileTransferStart c) s = .next (pull (s.setCore c.val { s.core c.val with
      drQ := rest,
      dr := some
        { inst := q, start := s.now,
          relAt := s.now + (12 * (q.extent.s * q.extent.rows * q.extent.cols) + 255) / 256
            + (if opcodeOf (wd q.words 0) = opTileStore then 2 else if opcodeOf (wd q.words 0) = opTileAdd then 14 else 10),
          endAt := s.now + (12 * (q.extent.s * q.extent.rows * q.extent.cols) + 255) / 256
            + (if opcodeOf (wd q.words 0) = opTileAdd then 14 else 10),
          released := false,
          feed := if opcodeOf (wd q.words 0) = opTileStore then none
            else some { ch := bits (wd q.words 0) 16 14, need := 12 * (q.extent.s * q.extent.rows * q.extent.cols),
                        got := [], start := ((s.core c.val).chan (bits (wd q.words 0) 16 14)).done },
          fmt := 0, out := [] } }) c.val))
  ∧ (∀ (s u : State) (c : CoreId) (d : DrRun), s.coreRuns c.val = true → u = pull s c.val →
    (u.core c.val).dr = some d → opcodeOf (wd d.inst.words 0) = opTileStore → d.released = false → d.relAt ≤ u.now →
    feedReady d.feed = true → aborting u d.inst.task = false →
    exec (.tileTransferRelease c) s = .next (pull ((u.mapCore c.val (fun k =>
        k.setTile d.inst.tile { k.tile d.inst.tile with freeAt := u.now + 1 })).mapCore c.val (fun k =>
        { k with dr := some { d with released := true,
                                     out := storeBytes ((u.core c.val).tile d.inst.tile) d.inst.extent } })) c.val))
  ∧ (∀ (s u : State) (c : CoreId) (d : DrRun), s.coreRuns c.val = true → u = pull s c.val →
    (u.core c.val).dr = some d → (opcodeOf (wd d.inst.words 0) = opTileLoad ∨ opcodeOf (wd d.inst.words 0) = opTileAdd) →
    d.released = false → d.relAt ≤ u.now → feedReady d.feed = true → aborting u d.inst.task = false →
    exec (.tileTransferRelease c) s = .next
      (let v := putTile u c.val d.inst.tile (opcodeOf (wd d.inst.words 0) == opTileLoad)
        (if opcodeOf (wd d.inst.words 0) = opTileLoad
         then tileLoaded ((u.core c.val).tile d.inst.tile) d.inst.extent d.inst.words (bytesW64 (feedVals d.feed))
         else tileAdded ((u.core c.val).tile d.inst.tile) d.inst.extent d.inst.words (bytesW64 (feedVals d.feed)))
       pull ((v.mapCore c.val (fun k => k.setTile d.inst.tile { k.tile d.inst.tile with freeAt := v.now + 1 })).mapCore c.val
         (fun k => { k with dr := some { d with released := true, out := [] } })) c.val))
  ∧ (∀ (s u : State) (c : CoreId) (d : DrRun), s.coreRuns c.val = true → u = pull s c.val →
    (u.core c.val).dr = some d → opcodeOf (wd d.inst.words 0) ≠ opDrain → d.endAt ≤ u.now → d.released = true → d.out = [] →
    aborting u d.inst.task = false →
    exec (.tileTransferComplete c) s = .next (u.mapCore c.val (fun k => { k with dr := none })))

/-- ATTEND and ATTEND_START. The issue stalls while 2 wait; the lowest code of Table 6-5 that the instruction meets aborts the
task with BAD_ATTEND; otherwise it enters the queue and the two registers show its words 0 and 1. The ATTEND at the front starts
when the one before has completed: its directory entry is read from the context's directory, where the store that holds it
and the store of its global array answer; a DIR beyond the directory aborts the task with KV_DIRECTORY (its DETAIL1, 0, is
the model's choice: log entry 112); an appending one finds BUSY set and
aborts the task with KV_BUSY; more tokens than MAXTOK or the pages allow abort it with KV_LIMIT; otherwise it runs with the
length of the entry, its four channels are armed, and only an appending one writes to memory: BUSY in word 2 of its entry. -/
def Obligations.AttendIssuesAndStarts : Prop :=
  (∀ (s u : State) (c : CoreId) (p : Prog) (ws : List Word), Issues s opAttend c.val u p ws →
    2 ≤ (u.core c.val).attQ.length → exec (.attend c) s = .next u)
  ∧ (∀ (s u : State) (c : CoreId) (p : Prog) (ws : List Word) (code : Nat), Issues s opAttend c.val u p ws →
    (u.core c.val).attQ.length < 2 → attCode u c.val p.task ws = some code →
    exec (.attend c) s = .next (taskFault u (slotAtt c.val) p.task (some c.val) 0x0201 none (w32 code) (wd ws 0)))
  ∧ (∀ (s u : State) (c : CoreId) (p : Prog) (ws : List Word), Issues s opAttend c.val u p ws →
    (u.core c.val).attQ.length < 2 → attCode u c.val p.task ws = none →
    exec (.attend c) s = .next (advance
      (((u.setReg (slotAtt c.val) 0x040 (wd ws 0)).setReg (slotAtt c.val) 0x044 (wd ws 1)).mapCore c.val
        (fun k => { k with attQ := k.attQ ++ [⟨ws, p.task, k.seq, none, 0⟩] })) c.val p ws))
  ∧ (∀ (s s0 : State) (c : CoreId) (q : QInst) (rest : List QInst) (x : Ctx) (e : List Word), s.coreRuns c.val = true →
    (s.core c.val).att = none → (s.core c.val).attQ = q :: rest → aborting s q.task = false →
    s0 = s.setCore c.val { s.core c.val with attQ := rest } →
    ctxOfTask s q.task = some x → atDir q.words < x.count → attWakes s (x.base + 16 * atDir q.words) q.words = none →
    unitRead s0 c.val q.task (x.base + 16 * atDir q.words) 16 = none → e = s.mem.words (x.base + 16 * atDir q.words) 4 →
    dirBad e = false →
    (atAppend q.words = true → bit (wd e 2) 31 = true →
      exec (.attendStart c) s
        = .next (taskFault s0 (slotAtt c.val) q.task (some c.val) 0x0206 none (w32 (atDir q.words)) (wd e 2)))
    ∧ ((atAppend q.words = true → bit (wd e 2) 31 = false) →
      (atMaxtok q.words < bits (wd e 2) 20 0 + (if atAppend q.words then atQrows q.words else 0)
        ∨ 64 * bits (wd e 3) 14 0 < bits (wd e 2) 20 0 + (if atAppend q.words then atQrows q.words else 0)) →
      exec (.attendStart c) s
        = .next (taskFault s0 (slotAtt c.val) q.task (some c.val) 0x0203 none
            (w32 (bits (wd e 2) 20 0 + (if atAppend q.words then atQrows q.words else 0))) (w32 (atMaxtok q.words))))
    ∧ ((atAppend q.words = true → bit (wd e 2) 31 = false) →
      bits (wd e 2) 20 0 + (if atAppend q.words then atQrows q.words else 0) ≤ atMaxtok q.words →
      bits (wd e 2) 20 0 + (if atAppend q.words then atQrows q.words else 0) ≤ 64 * bits (wd e 3) 14 0 →
      unitRead s0 c.val q.task (atGbase q.words) (4 * atNglobal q.words) = none →
      ∃ v run, exec (.attendStart c) s = .next (pull v c.val)
        ∧ (v.core c.val).att = some run ∧ run.inst = q ∧ run.t0 = bits (wd e 2) 20 0
        ∧ run.t = bits (wd e 2) 20 0 + (if atAppend q.words then atQrows q.words else 0)
        ∧ run.pages = scanPages q.words run.t0 run.t ∧ run.block = globalBlock q.words run.globals run.pages run.t0 run.t
        ∧ run.at_ = s.now + timeStart q.words ∧ run.done = false ∧ (v.core c.val).attQ = rest
        ∧ (∀ ch ∈ [atKch q.words, atKich q.words, atVch q.words, atVich q.words],
            ((v.core c.val).chan ch).armed = true ∧ ((v.core c.val).chan ch).task = some q.task)
        ∧ v.mem = (if atAppend q.words
            then s.mem.put (x.base + 16 * atDir q.words + 8) (leBytes 4 (wd e 2 ||| 0x80000000).toNat) else s.mem)
        ∧ v.faults = s.faults ∧ (∀ d, d ≠ c.val → v.core d = s.core d)))
  ∧ (∀ (s : State) (c : CoreId) (q : QInst) (rest : List QInst) (x : Ctx), s.coreRuns c.val = true →
    (s.core c.val).att = none → (s.core c.val).attQ = q :: rest → aborting s q.task = false →
    ctxOfTask s q.task = some x → x.count ≤ atDir q.words →
    exec (.attendStart c) s
      = .next (taskFault (s.setCore c.val { s.core c.val with attQ := rest }) (slotAtt c.val) q.task (some c.val) 0x0202 none
          (w32 (atDir q.words)) 0))

/-- ATTEND_BLOCK and ATTEND_COMPLETE. When the input and the page's rows have come and the time of the block has passed, the next scanned page, and
after the pages the global block, goes into the state of every query row; a non-finite query aborts the task with
NONFINITE_ACT. When all blocks are done, an appending ATTEND writes the new keys and values into the pages of its plan and
nothing else; then the output is handed over. Its last acts: the length with BUSY 0 is written to the directory word of an
appending one and nothing to memory by another, its four channels are disarmed, and the unit is free. -/
def Obligations.AttendRuns : Prop :=
  (∀ (s u : State) (c : CoreId) (a0 a : AttRun) (page : Nat) (rest : List Nat) (keys : List (Option KeyRow))
      (rows : List AttRow), s.coreRuns c.val = true → u = pull s c.val → (u.core c.val).att = some a0 → a0.feed.need = 0 →
    aborting u a0.inst.task = false → a0.taking = true → a0.kf.need = 0 → a0.vf.need = 0 → a0.pages = page :: rest →
    a0.at_ + timePage a0.inst.words c.val (pageAddr (a0.entry false page)) (pageAddr (a0.entry true page)) ≤ u.now →
    takeInput u c.val a0 = .inr a → blockKeys u c.val a (some page) = .inr keys → blockRows a keys = .inl rows →
    exec (.attendBlock c) s = .next (pull ((u.mapCore c.val (fun k =>
      { k with att := some { a with rows := rows, at_ := u.now, pages := a.pages.tail, taking := false
                                    heldK := if some page == some (a.t0 / 64) then a.kf.got else a.heldK
                                    heldV := if some page == some (a.t0 / 64) then a.vf.got else a.heldV } })).bump
        (slotAtt c.val) 0x04C 1) c.val))
  ∧ (∀ (s u : State) (c : CoreId) (a0 a : AttRun) (keys : List (Option KeyRow)) (rows : List AttRow),
    s.coreRuns c.val = true → u = pull s c.val → (u.core c.val).att = some a0 → a0.feed.need = 0 →
    aborting u a0.inst.task = false → a0.taking = true → a0.kf.need = 0 → a0.vf.need = 0 → a0.pages = [] →
    a0.at_ + timeGlobal a0.inst.words a0.block.length ≤ u.now → takeInput u c.val a0 = .inr a →
    blockKeys u c.val a none = .inr keys → blockRows a keys = .inl rows →
    exec (.attendBlock c) s = .next (pull ((u.mapCore c.val (fun k =>
      { k with att := some { a with rows := rows, at_ := u.now, pages := a.pages.tail, taking := false, block := [] } })).bump
        (slotAtt c.val) 0x050 a.block.length) c.val))
  ∧ (∀ (s u : State) (c : CoreId) (a : AttRun) (r i : Nat), s.coreRuns c.val = true → u = pull s c.val →
    (u.core c.val).att = some a → a.feed.need = 0 → aborting u a.inst.task = false → a.taking = true → a.kf.need = 0 →
    a.vf.need = 0 → a.queries = [] → a.at_ + timeBlock c.val a a.pages.head? ≤ u.now →
    badIn (inputRows a.inst.words a.feed.got).1 = some (r, i) →
    exec (.attendBlock c) s
      = .next (taskFault u (slotAtt c.val) a.inst.task (some c.val) 0x0106 none (w32 r) (w32 i)))
  ∧ (∀ (s u : State) (c : CoreId) (a0 a : AttRun) (ps : List PageWrite), s.coreRuns c.val = true →
    u = pull s c.val → (u.core c.val).att = some a0 → a0.feed.need = 0 → aborting u a0.inst.task = false → a0.pages = [] →
    a0.block = [] → a0.done = false → takeInput u c.val a0 = .inr a →
    (if a.append then appendPlan u c.val a else .inr []) = .inr ps → a.at_ + timeFinish a.inst.words ps ≤ u.now →
    ∃ v, (v.core c.val).att = some { a with out := attOut a, done := true
                                            outStart := ((u.core c.val).chan (atOch a.inst.words)).done }
      ∧ v.mem = ps.foldl (fun m p => writePage m p.page p.off p.held p.new_) u.mem ∧ v.faults = u.faults
      ∧ exec (.attendComplete c) s = .next (match ((pull v c.val).core c.val).att with
        | some b => if b.done && b.out.isEmpty && !aborting (pull v c.val) a.inst.task
            then attEnd (pull v c.val) c.val b else pull v c.val
        | none => pull v c.val))
  ∧ (∀ (s u : State) (c : CoreId) (a : AttRun), s.coreRuns c.val = true → u = pull s c.val →
    (u.core c.val).att = some a → a.feed.need = 0 → aborting u a.inst.task = false → a.pages = [] → a.block = [] →
    a.done = true → a.out = [] →
    ∃ t, exec (.attendComplete c) s = .next t ∧ (t.core c.val).att = none ∧ t.faults = u.faults
      ∧ t.mem = (if a.append then u.mem.put (a.dir + 8) (leBytes 4 a.t) else u.mem)
      ∧ (∀ ch ∈ [atKch a.inst.words, atKich a.inst.words, atVch a.inst.words, atVich a.inst.words],
          ((t.core c.val).chan ch).armed = false)
      ∧ t.reg (slotAtt c.val) 0x060 = w32 (emptyMask a.rows % 2 ^ 32)
      ∧ t.reg (slotAtt c.val) 0x064 = w32 (emptyMask a.rows / 2 ^ 32)
      ∧ (∀ d, d ≠ c.val → t.core d = u.core d))

/-- ARM, REARM, SWAP and DISARM at a core whose program is at one. The checks of Table 7-4 come in its order, those of the
claim and of the descriptor's address before the descriptor is read; a failed check aborts the task with BAD_DESCRIPTOR, the
code in DETAIL0 and word 0 in DETAIL1, and leaves the channel unarmed. An ARM of an armed channel first disarms it. A
descriptor in a block with a wrong check value is not taken. Otherwise ARM loads the channel from the descriptor's 16 words,
REARM and DISARM wait on the channel, SWAP authorises COUNT further swaps, and the program moves past the instruction. -/
def Obligations.StreamInstructionsIssue : Prop :=
  (∀ (s u : State) (c : CoreId) (p : Prog) (ws : List Word) (code : Nat), Issues s opArm c.val u p ws →
    preCode u c.val p.task (chOf (wd ws 0)) (wd ws 1).toNat = some code →
    exec (.arm c) s = .next (streamFault u c.val p.task (chOf (wd ws 0)) 0x0301 none (w32 code) (wd ws 0)))
  ∧ (∀ (s u : State) (c : CoreId) (p : Prog) (ws : List Word), Issues s opArm c.val u p ws →
    preCode u c.val p.task (chOf (wd ws 0)) (wd ws 1).toNat = none →
    ((u.core c.val).chan (chOf (wd ws 0))).armed = true →
    exec (.arm c) s = .next (u.mapChan c.val (chOf (wd ws 0)) (fun h => { h with disarm := some (queued u c.val p ws) })))
  ∧ (∀ (s u : State) (c : CoreId) (p : Prog) (ws dw : List Word), Issues s opArm c.val u p ws →
    preCode u c.val p.task (chOf (wd ws 0)) (wd ws 1).toNat = none →
    ((u.core c.val).chan (chOf (wd ws 0))).armed = false →
    bits (wd ws 0) 20 0 = 0 → wd ws 2 = 0 → wd ws 3 = 0 → dw = u.mem.words (wd ws 1).toNat 16 →
    (∀ x, u.mem.verify ((wd ws 1).toNat / 512) = .mismatch x →
      exec (.arm c) s = .next (streamFault ((u.bump (slotStrm c.val) 0x050 1).pulse (slotStrm c.val) 3) c.val p.task
        (chOf (wd ws 0)) 0x0002 (some ((wd ws 1).toNat / 512 * 512)) (w32 (chOf (wd ws 0))) x))
    ∧ (∀ code, u.mem.verify ((wd ws 1).toNat / 512) = .good →
      descCode u c.val p.task (chOf (wd ws 0)) dw (parseDesc dw) false = some code →
      exec (.arm c) s = .next (streamFault u c.val p.task (chOf (wd ws 0)) 0x0301 none (w32 code) (wd ws 0)))
    ∧ (u.mem.verify ((wd ws 1).toNat / 512) = .good →
      descCode u c.val p.task (chOf (wd ws 0)) dw (parseDesc dw) false = none → fFinite (parseDesc dw).scale = true →
      ((parseDesc dw).convEn = true → convBad (parseDesc dw).conv = false) →
      exec (.arm c) s = .next (advance (traceArm (u.mapChan c.val (chOf (wd ws 0)) (fun h =>
        armedChan h (parseDesc dw) (wd ws 1).toNat u.now p.task (taskSess u p.task) (wd ws 0))) c.val p.task
          (chOf (wd ws 0)) (wd ws 1).toNat ws) c.val p ws)))
  ∧ (∀ (s u : State) (c : CoreId) (p : Prog) (ws : List Word), Issues s opRearm c.val u p ws →
    (∀ code, rearmCode u c.val p.task (chOf (wd ws 0)) ws = some code →
      exec (.rearm c) s = .next (streamFault u c.val p.task (chOf (wd ws 0)) 0x0301 none (w32 code) (wd ws 0)))
    ∧ (rearmCode u c.val p.task (chOf (wd ws 0)) ws = none →
      fFinite (rearmScale ((u.core c.val).chan (chOf (wd ws 0))) ws) = true →
      (((u.core c.val).chan (chOf (wd ws 0))).desc.convEn = true →
        convBad (rearmConv ((u.core c.val).chan (chOf (wd ws 0))) ws) = false) →
      exec (.rearm c) s = .next (advance (u.mapChan c.val (chOf (wd ws 0)) (fun h =>
        { h with rearm := some (queued u c.val p ws) })) c.val p ws)))
  ∧ (∀ (s u : State) (c : CoreId) (p : Prog) (ws : List Word), Issues s opSwap c.val u p ws →
    (chanClaim u p.task (chOf (wd ws 0))).isSome = true → ((u.core c.val).chan (chOf (wd ws 0))).armed = true →
    ((u.core c.val).chan (chOf (wd ws 0))).desc.feed = 1 → bits (wd ws 1) 15 0 ≠ 0 → bits (wd ws 0) 20 0 = 0 →
    bits (wd ws 1) 31 16 = 0 → wd ws 2 = 0 → wd ws 3 = 0 →
    exec (.swap c) s = .next (advance (u.mapChan c.val (chOf (wd ws 0)) (fun h =>
      { h with auth := h.auth + bits (wd ws 1) 15 0 })) c.val p ws))
  ∧ (∀ (s u : State) (c : CoreId) (p : Prog) (ws : List Word), Issues s opSwap c.val u p ws →
    chanClaim u p.task (chOf (wd ws 0)) = none →
    exec (.swap c) s = .next (streamFault u c.val p.task (chOf (wd ws 0)) 0x0301 none 8 (wd ws 0)))
  ∧ (∀ (s u : State) (c : CoreId) (p : Prog) (ws : List Word), Issues s opDisarm c.val u p ws →
    (chanClaim u p.task (chOf (wd ws 0))).isSome = true →
    (((u.core c.val).chan (chOf (wd ws 0))).armed = false →
      exec (.disarm c) s = .next (streamFault u c.val p.task (chOf (wd ws 0)) 0x0301 none 10 (wd ws 0)))
    ∧ (((u.core c.val).chan (chOf (wd ws 0))).armed = true → bits (wd ws 0) 20 0 = 0 → wd ws 1 = 0 → wd ws 2 = 0 →
      wd ws 3 = 0 →
      exec (.disarm c) s = .next (advance (u.mapChan c.val (chOf (wd ws 0)) (fun h =>
        { h with disarm := some (queued u c.val p ws) })) c.val p ws)))

/-- REARM_TAKE_EFFECT, HALVES_SWAP, DISARM_COMPLETE and CHANNEL_PRIMED. A REARM takes effect once no earlier instruction uses the
channel and, for a write channel, every element written has been granted; the walk starts at element 0 at the new base and the
elements fetched and not taken are discarded. A DISARM completes once no earlier instruction uses the channel and a write
channel's writes are complete; the channel is unarmed and no task holds it. The halves of a channel swap once, where a swap is
authorised and R180 or R181 allow it. A channel is primed when its priming time since it was armed has passed, and not before. -/
def Obligations.StreamWaitsTakeEffect : Prop :=
  (∀ (s u : State) (c : CoreId) (ch : ChanId) (q : QInst), s.coreRuns c.val = true → u = pull s c.val →
    ((u.core c.val).chan ch.val).rearm = some q → chanUsed u c.val ch.val = false →
    (((u.core c.val).chan ch.val).desc.write = true →
      ((u.core c.val).chan ch.val).done ≤ ((u.core c.val).chan ch.val).fetched) →
    ((u.core c.val).chan ch.val).chain = none →
    ∃ t, exec (.rearmTakeEffect c ch) s = .next t ∧ Only [.cores, .sharal] u t
      ∧ ((t.core c.val).chan ch.val).base = (wd q.words 1).toNat
      ∧ ((t.core c.val).chan ch.val).scale = rearmScale ((u.core c.val).chan ch.val) q.words
      ∧ ((t.core c.val).chan ch.val).conv = rearmConv ((u.core c.val).chan ch.val) q.words
      ∧ ((t.core c.val).chan ch.val).done = 0 ∧ ((t.core c.val).chan ch.val).fetched = 0
      ∧ ((t.core c.val).chan ch.val).landed = 0 ∧ ((t.core c.val).chan ch.val).rearm = none
      ∧ ((t.core c.val).chan ch.val).primed = false ∧ ((t.core c.val).chan ch.val).armedAt = u.now
      ∧ ((t.core c.val).chan ch.val).armed = ((u.core c.val).chan ch.val).armed
      ∧ (∀ i, i ≠ ch.val → (t.core c.val).chan i = (u.core c.val).chan i) ∧ (∀ d, d ≠ c.val → t.core d = u.core d))
  ∧ (∀ (s u : State) (c : CoreId) (ch : ChanId) (q : QInst), s.coreRuns c.val = true → u = pull s c.val →
    ((u.core c.val).chan ch.val).rearm = some q → chanUsed u c.val ch.val = true →
    exec (.rearmTakeEffect c ch) s = .next u)
  ∧ (∀ (s u : State) (c : CoreId) (ch : ChanId) (q : QInst), s.coreRuns c.val = true → u = pull s c.val →
    ((u.core c.val).chan ch.val).disarm = some q → chanUsed u c.val ch.val = false →
    writesDone ((u.core c.val).chan ch.val) = true → ((u.core c.val).chan ch.val).chain = none →
    ∃ t, exec (.disarmComplete c ch) s = .next t ∧ Only [.cores, .sharal] u t
      ∧ ((t.core c.val).chan ch.val).armed = false ∧ ((t.core c.val).chan ch.val).task = none
      ∧ ((t.core c.val).chan ch.val).disarm = none ∧ ((t.core c.val).chan ch.val).pred = ((u.core c.val).chan ch.val).pred
      ∧ (∀ i, i ≠ ch.val → (t.core c.val).chan i = (u.core c.val).chan i) ∧ (∀ d, d ≠ c.val → t.core d = u.core d))
  ∧ (∀ (s u : State) (c : CoreId) (ch : ChanId) (q : QInst), s.coreRuns c.val = true → u = pull s c.val →
    ((u.core c.val).chan ch.val).disarm = some q →
    (chanUsed u c.val ch.val = true ∨ writesDone ((u.core c.val).chan ch.val) = false) →
    exec (.disarmComplete c ch) s = .next u)
  ∧ (∀ (s u : State) (c : CoreId) (ch : ChanId), s.coreRuns c.val = true → u = pull s c.val →
    swapReady (u.core c.val) ((u.core c.val).chan ch.val) = true →
    ∃ v, exec (.halvesSwap c ch) s = .next (taskTrace (pull v c.val) 3 0x0B (slotStrm c.val)
        (((u.core c.val).chan ch.val).task.getD 0) [w32 ch.val, w32 (((u.core c.val).chan ch.val).swaps + 1)])
      ∧ Only [.cores] u v
      ∧ ((v.core c.val).chan ch.val).swaps = ((u.core c.val).chan ch.val).swaps + 1
      ∧ ((v.core c.val).chan ch.val).auth = ((u.core c.val).chan ch.val).auth - 1
      ∧ ((v.core c.val).chan ch.val).useHalf = 1 - ((u.core c.val).chan ch.val).useHalf)
  ∧ (∀ (s u : State) (c : CoreId) (ch : ChanId), s.coreRuns c.val = true → u = pull s c.val →
    ((u.core c.val).chan ch.val).auth = 0 → exec (.halvesSwap c ch) s = .next u)
  ∧ (∀ (s : State) (c : CoreId) (ch : ChanId), s.coreRuns c.val = true → ((s.core c.val).chan ch.val).armed = true →
    ((s.core c.val).chan ch.val).primed = false →
    exec (.channelPrimed c ch) s = .next
      (if ((s.core c.val).chan ch.val).armedAt + chanPrime s c.val ch.val ((s.core c.val).chan ch.val) ≤ s.now
       then s.mapChan c.val ch.val (fun h => { h with primed := true }) else s))

/-- PORT_GRANT and TRANSFER_COMPLETE. A port whose slot of this fc is taken grants nothing. Otherwise it grants the ready
channel that R184 puts first (at the access port where R253 does not give the slot outside): its positions move by the
elements of the transfer, which for a read into its queue count as fetched, its tokens pay 256 for each slot, one more
transfer is in flight, which ends after the latency of its store, and no byte of memory changes; where no channel is ready the
slot goes to the Ralso request that waits first, else to a BAR2 access. When a write lands whose block merges without fault,
each of its cells reads as its value, every other byte of the die reads as before, and the elements count as landed (in the
walk or in the halves); a read into a queue lands without a change of memory. -/
def Obligations.TransfersAreGranted : Prop :=
  (∀ (s : State) (p : StorePort), portNumber p ∈ s.slots → exec (.portGrant p) s = .next s)
  ∧ (∀ (s : State) (p : StorePort) (r : Request), portNumber p ∉ s.slots → portFaults s (portNumber p) = none →
    bestOf (portRequests s (portNumber p)) = some r →
    (((s.core r.core).chan r.ch).desc.gather = 0 ∨ ((s.core r.core).chan r.ch).desc.ich ≠ r.ch) →
    ∃ t, exec (.portGrant p) s = .next t ∧ Only [.regs, .slots, .cores, .power] s t
      ∧ portOf r.want.addr ∈ t.slots ∧ (∀ q ∈ s.slots, q ∈ t.slots)
      ∧ (t.core r.core).chan r.ch = { ((s.core r.core).chan r.ch).moved r.want with
          flights := ((s.core r.core).chan r.ch).flights
            ++ [flightOf s r.core (s.core r.core) ((s.core r.core).chan r.ch) r.want] }
      ∧ (∀ d, d ≠ r.core → t.core d = s.core d))
  ∧ (∀ (s : State) (c : Nat) (k : Core) (h : Chan) (w : Want),
      (flightOf s c k h w).at_ = s.now + latency c w.addr ∧ (flightOf s c k h w).elems = w.elems
      ∧ (h.desc.feed = 0 → (h.moved w).tokens = h.tokens - 256 * w.slots)
      ∧ (w.leg = .queue → h.desc.write = false → (h.moved w).fetched = h.fetched + w.elems))
  ∧ (∀ (s : State) (p : StorePort) (o : OutPkt), portNumber p ∉ s.slots → portFaults s (portNumber p) = none →
    portRequests s (portNumber p) = [] → reqAtPort s (portNumber p) = some o → bar2At s (portNumber p) = none →
    exec (.portGrant p) s = .next (serveRequest s o))
  ∧ (∀ (s : State) (p : StorePort) (b : Bar2), portNumber p ∉ s.slots → portFaults s (portNumber p) = none →
    portRequests s (portNumber p) = [] → reqAtPort s (portNumber p) = none → bar2At s (portNumber p) = some b →
    exec (.portGrant p) s = .next (bar2Retry s b))
  ∧ (∀ (s : State) (p : StorePort), portNumber p ∉ s.slots → portFaults s (portNumber p) = none →
    portRequests s (portNumber p) = [] → reqAtPort s (portNumber p) = none → bar2At s (portNumber p) = none →
    exec (.portGrant p) s = .next s)
  ∧ (∀ (s : State) (c : CoreId) (ch : ChanId) (f : Flight), dueFlight s ((s.core c.val).chan ch.val) = some f →
    f.write = true → f.src = none → (mergeCells s.mem f.block f.cells).1 = .good → (f.cells.map (·.1)).Nodup →
    ∃ v, exec (.transferComplete c ch) s = .next (pull v c.val) ∧ Only [.mem, .cores] s v
      ∧ (∀ a x, (a, x) ∈ f.cells → v.mem.read a = x) ∧ (∀ a, a ∉ f.cells.map (·.1) → v.mem.read a = s.mem.read a)
      ∧ (f.leg ≠ .half → ((v.core c.val).chan ch.val).landed = ((s.core c.val).chan ch.val).landed + f.elems)
      ∧ (f.leg = .half → ((v.core c.val).chan ch.val).filled = ((s.core c.val).chan ch.val).filled + f.elems)
      ∧ ((v.core c.val).chan ch.val).flights = dropFirst f ((s.core c.val).chan ch.val).flights)
  ∧ (∀ (s : State) (c : CoreId) (ch : ChanId) (f : Flight), dueFlight s ((s.core c.val).chan ch.val) = some f →
    f.write = false → f.elems ≠ 0 → f.leg = .queue → aborting s f.task = false →
    ((s.core c.val).chan ch.val).desc.write = false → ((s.core c.val).chan ch.val).chain = none →
    ∃ v, exec (.transferComplete c ch) s = .next (pull v c.val) ∧ Only [.cores] s v
      ∧ ((v.core c.val).chan ch.val).landed = ((s.core c.val).chan ch.val).landed + f.elems
      ∧ ((v.core c.val).chan ch.val).flights = dropFirst f ((s.core c.val).chan ch.val).flights)
  ∧ (∀ (s : State) (c : CoreId) (ch : ChanId), (∀ f ∈ ((s.core c.val).chan ch.val).flights, s.now < f.at_) →
    exec (.transferComplete c ch) s = .next s)

/-- Among the requests of a port no one comes before the one that is granted, in the order of R184; and the one that is granted
is a request of the port. The order itself is irreflexive and transitive. -/
def Obligations.GrantFollowsR184 : Prop :=
  (∀ (l : List Request) (r : Request), bestOf l = some r → r ∈ l ∧ ∀ q ∈ l, q.before r = false)
  ∧ (∀ l : List Request, l ≠ [] → (bestOf l).isSome = true)
  ∧ (∀ r : Request, r.before r = false)
  ∧ (∀ a b c : Request, a.before b = true → b.before c = true → a.before c = true)
  ∧ (∀ a b : Request, a.dry < b.dry → a.before b = true)
  ∧ (∀ a b : Request, a.dry = b.dry → a.away = false → b.away = true → a.before b = true)

/-- PARITY_REPLAY. A replay that reads correctly counts in REPLAYS, takes one further slot of the word's port, leaves the
positions of the reader as they are and changes no memory and no fault. A persistent error also puts a poison mark on the word,
and its reader (a channel, the Herd engine) remembers that it has marked it; verification finds a marked block poisoned, and
the channel that takes from it is aborted with POISONED, with 1 in DETAIL1 for a word that its own read has marked. A word that
is marked already is not replayed. A persistent error in the codebook store empties an unpinned slot. -/
def Obligations.ParityErrorsReplayOnce : Prop :=
  (∀ (s : State) (c : CoreId) (ch : ChanId) (addr t : Nat), s.coreRuns c.val = true → rangeOk (storeAddr addr) 1 false = true →
    addr / 8 ∉ s.mem.poison → ((s.core c.val).chan ch.val).task = some t →
    (∃ v, exec (.parityReplay (.channel c ch) addr false) s = .next v ∧ v.mem = s.mem ∧ v.faults = s.faults
      ∧ ((v.core c.val).chan ch.val).fetched = ((s.core c.val).chan ch.val).fetched
      ∧ ((v.core c.val).chan ch.val).done = ((s.core c.val).chan ch.val).done
      ∧ (∀ d, d ≠ c.val → v.core d = s.core d) ∧ v.slots.length = s.slots.length + 1
      ∧ v.reg (slotStrm c.val) 0x048 = s.reg (slotStrm c.val) 0x048 + 1)
    ∧ (∃ v, exec (.parityReplay (.channel c ch) addr true) s = .next v ∧ v.mem = s.mem.mark addr ∧ v.faults = s.faults
      ∧ v.reg (slotStrm c.val) 0x048 = s.reg (slotStrm c.val) 0x048 + 1
      ∧ v.reg (slotStrm c.val) 0x04C = s.reg (slotStrm c.val) 0x04C + 1
      ∧ ((v.core c.val).chan ch.val).marked = ((s.core c.val).chan ch.val).marked ++ [addr / 8]))
  ∧ (∀ (m : Memory) (addr : Nat), addr < 0xA0000000 → ∃ w, (m.mark addr).verify (addr / 512) = .poisoned w)
  ∧ (∀ (s : State) (c ch blk w t : Nat), ((s.core c).chan ch).task = some t →
    blockFault s c ch blk (.poisoned w) = taskFault s (slotStrm c) t (some c) 0x0003 (some (blk * 512 + 8 * w))
      (w32 ch ||| fld w 8) (flag (markedBy ((s.core c).chan ch).marked blk w) 0))
  ∧ (∀ (s : State) (c : CoreId) (addr : Nat) (p : Prog), s.coreRuns c.val = true → rangeOk (storeAddr addr) 1 false = true →
    region (storeAddr addr) = .near c.val → addr / 8 ∉ s.mem.poison → (s.core c.val).prog = some p →
    ∃ v, exec (.parityReplay (.program c) addr true) s = .next v ∧ v.mem = s.mem.mark addr ∧ v.faults = s.faults)
  ∧ (∀ (s : State) (addr t : Nat), rangeOk (storeAddr addr) 1 false = true → region (storeAddr addr) = .herd →
    addr / 8 ∉ s.mem.poison → occupant s 256 = some t →
    (∃ v, exec (.parityReplay .herd addr false) s = .next v ∧ v.mem = s.mem ∧ v.faults = s.faults
      ∧ v.slots.length = s.slots.length + 1)
    ∧ (∃ v, exec (.parityReplay .herd addr true) s = .next v ∧ v.mem = s.mem.mark addr ∧ v.faults = s.faults
      ∧ v.herd.marked = s.herd.marked ++ [addr / 8]))
  ∧ (∀ (s : State) (r : Reader) (addr : Nat) (b : Bool), addr / 8 ∈ s.mem.poison → (∀ c i, r ≠ .codebook c i) →
    exec (.parityReplay r addr b) s = .next s)
  ∧ (∀ (s : State) (c : CoreId) (i : Fin 16) (addr : Nat), s.coreRuns c.val = true →
    ((s.core c.val).slot i.val).books ≠ [] → ((s.core c.val).slot i.val).failed = false →
    addr / 8 ∉ ((s.core c.val).slot i.val).marks → ((s.core c.val).slot i.val).pins = [] →
    ∃ v, exec (.parityReplay (.codebook c i) addr true) s = .next v ∧ v.mem = s.mem
      ∧ ((v.core c.val).slot i.val).books = [] ∧ ((v.core c.val).slot i.val).failed = false)

/-- DLEAD, DJOIN and CHAIN_BLOCK_FORWARD. DLEAD (at the bellwether) and DJOIN (at another member) read the descriptor of an
unarmed channel; where the chain claim names a slot of this core, the role fits, no other channel is joined, and the descriptor
is a plain read (and, for DLEAD, at the chain's rate), channel and slot are bound to each other at generation 0. A wrong role is
DROVE_SETUP with code 3. A member that holds no credit for its next attached successor sends nothing; with one, its next block
is marked sent and enters the line of the successor with the hop latency, the credit is spent, and no other block follows
within 2 fc. The first block of a new generation attaches a detached member that it is sent to (R214). -/
def Obligations.ChainSetupAndForward : Prop :=
  (∀ (s u : State) (c : CoreId) (lead : Bool) (p : Prog) (ws dw : List Word) (i : Nat) (v : ChSlot),
    Issues s (if lead then opDlead else opDjoin) c.val u p ws →
    preCode u c.val p.task (chOf (wd ws 0)) (wd ws 1).toNat = none →
    ((u.core c.val).chan (chOf (wd ws 0))).armed = false → claimSlot u c.val p.task (wd ws 0) = some (i, v) →
    bits (wd ws 0) 12 0 = 0 → wd ws 2 = 0 → wd ws 3 = 0 →
    (v.lead ≠ lead →
      exec (if lead then .dlead c else .djoin c) s = .next (setupFault u c.val p.task (chOf (wd ws 0)) 3 (wd ws 0)))
    ∧ (v.lead = lead → ((u.core c.val).chan (chOf (wd ws 0))).chain = none → v.joined = none →
      u.mem.verify ((wd ws 1).toNat / 512) = .good → dw = u.mem.words (wd ws 1).toNat 16 →
      descCode u c.val p.task (chOf (wd ws 0)) dw (parseDesc dw) (!lead) = none → fFinite (parseDesc dw).scale = true →
      ((parseDesc dw).convEn = true → convBad (parseDesc dw).conv = false) →
      (parseDesc dw).write = false → (parseDesc dw).feed = 0 → (parseDesc dw).gather = 0 → (parseDesc dw).index = false →
      (lead = true → (parseDesc dw).rate = v.desc.rate) →
      ∃ t, exec (if lead then .dlead c else .djoin c) s = .next t ∧ Only [.cores, .sharal] u t
        ∧ (t.core c.val).chan (chOf (wd ws 0))
            = { armedChan ((u.core c.val).chan (chOf (wd ws 0))) (parseDesc dw) (wd ws 1).toNat u.now p.task
                  (taskSess u p.task) (wd ws 0) with chain := some i }
        ∧ (t.core c.val).chSlot i = some
            (let w := { v with joined := some (chOf (wd ws 0)), task := some p.task, nextSeq := 0, gen := 0, waitAt := none,
                               left := false }
             if lead then { w with commits := [], cancels := [],
                                   srcs := [(0, ⟨(parseDesc dw).base, some (parseDesc dw)⟩)], ended := false } else w)
        ∧ (t.core c.val).prog = some { p with pc := p.pc + 4 * ws.length }
        ∧ (∀ d, d ≠ c.val → t.core d = u.core d)))
  ∧ (∀ (s u : State) (c : CoreId) (p : Prog) (ws : List Word), Issues s opDlead c.val u p ws →
    chanClaim u p.task (chOf (wd ws 0)) = none →
    exec (.dlead c) s = .next (streamFault u c.val p.task (chOf (wd ws 0)) 0x0301 none 8 (wd ws 0)))
  ∧ (∀ (s u : State) (c : CoreId) (p : Prog) (ws : List Word), Issues s opDjoin c.val u p ws →
    chanClaim u p.task (chOf (wd ws 0)) = none →
    exec (.djoin c) s = .next (streamFault u c.val p.task (chOf (wd ws 0)) 0x0301 none 8 (wd ws 0)))
  ∧ (∀ (s : State) (c : CoreId) (i : Fin 4) (v w : ChSlot) (b : ChBlock) (d j : Nat), s.coreRuns c.val = true →
    (s.core c.val).chSlot i.val = some v → v.unsent = some b → v.lead = false → nextFor s v b = some d →
    memberSlot s v d = some (j, w) → w.detached = false → v.credits = 0 → exec (.chainBlockForward c i) s = .next s)
  ∧ (∀ (s : State) (c : CoreId) (i : Fin 4) (v w : ChSlot) (b : ChBlock) (d j : Nat), s.coreRuns c.val = true →
    (s.core c.val).chSlot i.val = some v → v.unsent = some b → v.lead = false → v.sentAt ≤ s.now → nextFor s v b = some d →
    memberSlot s v d = some (j, w) → w.detached = false → v.credits ≠ 0 →
    exec (.chainBlockForward c i) s = .next (sweepRing
      ((sendMsg (setSlotOf s c.val i.val { markSent v b with credits := v.credits - 1, sentAt := s.now + 2 })
          { markSent v b with credits := v.credits - 1, sentAt := s.now + 2 } c.val d (some { b with sent := false }) none
          false).bump (slotDrove c.val) 0x040 1) c.val i.val))
  ∧ (∀ (s : State) (c : CoreId) (i : Fin 4) (v w : ChSlot) (b : ChBlock) (d j : Nat), s.coreRuns c.val = true →
    (s.core c.val).chSlot i.val = some v → v.unsent = some b → v.lead = false → v.sentAt ≤ s.now → nextFor s v b = some d →
    memberSlot s v d = some (j, w) → w.detached = true → d ≠ c.val →
    ∃ t x, exec (.chainBlockForward c i) s = .next t ∧ (t.core d).chSlot j = some x ∧ x.detached = false)
  ∧ (∀ (s : State) (c : CoreId) (i : Fin 4) (v : ChSlot), (s.core c.val).chSlot i.val = some v → s.now < v.sentAt →
    exec (.chainBlockForward c i) s = .next s)
  ∧ (∀ (s : State) (v w : ChSlot) (src dst j : Nat) (b : ChBlock), memberSlot s v dst = some (j, w) →
    sendMsg s v src dst (some b) none false
      = setSlotOf s dst j { w with coming := w.coming ++ [⟨s.now + (if src / 16 = dst / 16 then 24 else 80), some b, none,
                                                           false⟩] })

/-- CHAIN_BLOCK_ARRIVE, CHAIN_MARKER_ARRIVE and CHAIN_CREDIT_RETURN. A block whose hop time has passed enters a free entry of
the member's ring over a slot of the near port: its 512 bytes are at the entry's near-store address, every byte outside the
entry is as before, its check value goes with it, and DROVE counts it. A commit marker raises the committed count of its
generation, a cancel marker discards its uncommitted blocks, and either goes on from the member that has to forward it; one of
a generation gone by changes neither. A marker or block whose time has not come has no effect. A credit that returns adds one to
the sender's credits. -/
def Obligations.ChainArrivals : Prop :=
  (∀ (s : State) (c : CoreId) (i : Fin 4) (v : ChSlot) (b : ChBlock) (m : Option ChMark) (at_ : Nat) (fwd : Bool),
    (s.core c.val).chSlot i.val = some v → v.arrived s.now = some ⟨at_, some b, m, fwd⟩ → 2 * c.val ∉ s.slots →
    b.data.length = 512 →
    ∃ t w, exec (.chainBlockArrive c i) s = .next t ∧ Only [.regs, .mem, .slots, .cores] s t
      ∧ (t.core c.val).chSlot i.val = some w ∧ w.coming = takeMsg s.now v.coming
      ∧ w.ring = v.ring ++ [{ b with entry := v.freeEntry, used := v.spent b }] ∧ w.credits = v.credits
      ∧ 2 * c.val ∈ t.slots
      ∧ (∀ k, k < 512 → t.mem.read (ringAddr c.val v v.freeEntry + k) = b.data.getD k 0)
      ∧ (∀ a, a < ringAddr c.val v v.freeEntry ∨ ringAddr c.val v v.freeEntry + 512 ≤ a → t.mem.read a = s.mem.read a)
      ∧ t.mem.check (ringAddr c.val v v.freeEntry / 512) = b.check
      ∧ t.reg (slotDrove c.val) 0x044 = s.reg (slotDrove c.val) 0x044 + 1
      ∧ (∀ d, d ≠ c.val → t.core d = s.core d))
  ∧ (∀ (s : State) (c : CoreId) (i : Fin 4) (v : ChSlot), (s.core c.val).chSlot i.val = some v → v.arrived s.now = none →
    exec (.chainBlockArrive c i) s = .next s ∧ exec (.chainMarkerArrive c i) s = .next s)
  ∧ (∀ (s : State) (c : CoreId) (i : Fin 4) (v w : ChSlot) (m : ChMark) (at_ : Nat) (fwd : Bool),
    (s.core c.val).chSlot i.val = some v → v.arrived s.now = some ⟨at_, none, some m, fwd⟩ →
    w = { v with coming := takeMsg s.now v.coming } →
    (v.past m.gen = false → m.cancel = false →
      exec (.chainMarkerArrive c i) s = .next
        (let x := setSlotOf s c.val i.val { w with commits := Tbl.set v.commits m.gen (max (v.committed m.gen) m.n)
                                                   waitAt := if m.gen = v.gen ∧ v.nextSeq < m.n then none else v.waitAt }
         if fwd then forwardMark x c.val w m else x))
    ∧ (v.past m.gen = false → m.cancel = true →
      exec (.chainMarkerArrive c i) s = .next
        (let gone := (v.ring.filter (fun b => b.gen == m.gen && decide (m.n ≤ b.seq))).length
         let w2 := { w with cancels := Tbl.set v.cancels m.gen m.n, ended := v.ended || m.last }
         let x := freeRing (setSlotOf s c.val i.val w2) c.val i.val w2 (fun b => !(b.gen == m.gen && decide (m.n ≤ b.seq)))
         let y := if gone = 0 then x else (x.bump (slotDrove c.val) 0x048 gone).pulse (slotDrove c.val) 3
         if fwd then forwardMark y c.val w m else y))
    ∧ (v.past m.gen = true →
      exec (.chainMarkerArrive c i) s = .next
        (let x := setSlotOf s c.val i.val { w with ended := v.ended || m.last }
         if fwd then forwardMark x c.val w m else x)))
  ∧ (∀ (s : State) (c : CoreId) (i : Fin 4) (v : ChSlot) (n : Nat) (rest : List Nat),
    (s.core c.val).chSlot i.val = some v → v.back = n :: rest →
    exec (.chainCreditReturn c i) s
      = .next (s.mapCore c.val (fun k => k.setChSlot i.val { v with credits := v.credits + 1, back := rest })))

/-- CHAIN_DETACH and DROVE_TIMEOUT. A member that has stalled its chain for STALL_LIMIT fc is detached: its allowance falls by
one, its predecessor takes the credits of the next attached member, and it catches up while it had allowance left; without
allowance its task is aborted with DROVE_DETACHED, naming the first block that it has not received. Before STALL_LIMIT fc nothing happens. A member that has waited ARRIVE_LIMIT
fc for a block or its commit marker has its task aborted with DROVE_TIMEOUT; before that, or with ARRIVE_LIMIT 0, it waits on. -/
def Obligations.ChainLimits : Prop :=
  (∀ (s : State) (c : CoreId) (i : Fin 4) (v : ChSlot) (t0 : Nat), (s.core c.val).chSlot i.val = some v →
    v.stallAt = some t0 → s.now < t0 + v.desc.stallLimit → exec (.chainDetach c i) s = .next s)
  ∧ (∀ (s : State) (c : CoreId) (i : Fin 4) (v v1 : ChSlot) (t0 : Nat) (b : ChBlock), (s.core c.val).chSlot i.val = some v →
    v.stallAt = some t0 → t0 + v.desc.stallLimit ≤ s.now → stalledBlock s v = some b →
    v1 = { v with detached := true, stallAt := none, catching := if 0 < v.allow then some b.gen else none, allow := v.allow - 1 } →
    (∀ x, x = bypass (((taskTrace (setSlotOf s c.val i.val v1) 4 0x0D (slotDrove c.val) (v.task.getD 0)
          [w32 i.val, w32 b.gen, w32 b.seq]).bump (slotDrove c.val) 0x04C 1).pulse (slotDrove c.val) 4) v1 (predecessor s v) →
      (0 < v.allow → exec (.chainDetach c i) s = .next x)
      ∧ (∀ t, v.allow = 0 → slotTask s v = some t →
          exec (.chainDetach c i) s = .next (taskFault x (slotDrove c.val) t (some c.val) 0x0312 none
            (w32 i.val ||| fld b.gen 8) (w32 b.seq)))))
  ∧ (∀ (s : State) (c : CoreId) (i : Fin 4) (v : ChSlot) (t0 t : Nat), (s.core c.val).chSlot i.val = some v →
    v.waitAt = some t0 → v.task = some t → 0 < v.desc.arrive → t0 + v.desc.arrive ≤ s.now →
    exec (.droveTimeout c i) s = .next (taskFault
      ((setSlotOf s c.val i.val { v with waitAt := none }).pulse (slotDrove c.val) 2) (slotDrove c.val) t (some c.val) 0x0314 none
      (w32 i.val ||| fld v.gen 8) (w32 v.nextSeq)))
  ∧ (∀ (s : State) (c : CoreId) (i : Fin 4) (v : ChSlot) (t0 : Nat), (s.core c.val).chSlot i.val = some v →
    v.waitAt = some t0 → (v.desc.arrive = 0 ∨ s.now < t0 + v.desc.arrive) → exec (.droveTimeout c i) s = .next s)

/-- RESIDE, IMAGE_RESIDENT, RETIRE, IMAGE_RETIRED, TEMPLATE_SET and TEMPLATE_CLEAR, each on the first command of the Drover. A
command that breaks R223 or comes from a session without SUBMIT privilege is refused with its reason. An image that fails a
check of Table 9-7 is refused with that check's reason; one that passes joins the images, loading, with its pins, its bytes
copied into the task memory behind the copies there (log entry 24), and is resident, with its record, once no load of its pins
waits or runs. RETIRE of an image that is not resident is refused; otherwise
the image takes no new instance, and leaves with its pins and its copy when no instance of it remains. TEMPLATE with ENABLE 1 stores its
fields under its number, with ENABLE 0 removes it; a template of another tenant is not changed. -/
def Obligations.ImagesAndTemplates : Prop :=
  (∀ (s : State) (c : Cmd) (rest : List Cmd), s.drover.cmds = c :: rest → c.op = 2 →
    (∀ r, commonReason s c = some r →
      exec .reside s = .next (refuse (s.mapDrover (fun d => { d with cmds := rest })) c r))
    ∧ (∀ r, commonReason s c = none → resideReason s c = .inl r →
      exec .reside s = .next (refuse (s.mapDrover (fun d => { d with cmds := rest })) c r))
    ∧ (∀ i, commonReason s c = none → resideReason s c = .inr i →
      ∃ t, exec .reside s = .next t ∧ Only [.mem, .cores, .drover] s t ∧ t.drover.images = s.drover.images ++ [i]
        ∧ (∀ k, k < i.size → t.mem.read (taskMemBase + copiesLen s.drover.images + k) = s.mem.read (c.w2.toNat + k))
        ∧ (∀ a, (a < taskMemBase + copiesLen s.drover.images ∨ taskMemBase + copiesLen s.drover.images + i.size ≤ a) →
            t.mem.read a = s.mem.read a)
        ∧ t.drover.cmds = rest ∧ t.drover.insts = s.drover.insts ∧ i.st = .loading
        ∧ (∀ x, x ∉ pinCores i → t.core x = s.core x)))
  ∧ (∀ (s : State) (tenant : Byte) (index : Fin 1024) (i : Image), imageOf s tenant.toNat index.val = some i →
    (i.st = .loading → pinsLoaded s i = true →
      exec (.imageResident tenant index) s = .next (imageAnswered (postRec (setImage s { i with st := .resident }) i.queue i.sess
        ⟨5, 0, i.cookie, 0, 0, 0, none, 0⟩) i))
    ∧ ((i.st ≠ .loading ∨ pinsLoaded s i = false) → exec (.imageResident tenant index) s = .next s)
    ∧ (i.st = .retiring → (∀ x ∈ s.drover.insts, ¬(x.tenant = tenant.toNat ∧ x.image = index.val)) →
      exec (.imageRetired tenant index) s = .next (imageAnswered (postRec ((copyOut (removePins s i.key) i.key).mapDrover (fun d =>
        { d with images := d.images.filter (fun j => j.key != i.key) })) i.queue i.sess ⟨6, 0, i.cookie, 0, 0, 0, none, 0⟩) i))
    ∧ ((i.st ≠ .retiring ∨ ∃ x ∈ s.drover.insts, x.tenant = tenant.toNat ∧ x.image = index.val) →
      exec (.imageRetired tenant index) s = .next s))
  ∧ (∀ (s : State) (c : Cmd) (rest : List Cmd), s.drover.cmds = c :: rest → c.op = 3 → commonReason s c = none →
    (∀ i, imageOf s (sessTenant s c.sess) c.image = some i → i.st = .resident →
      exec .retire s = .next (setImage (s.mapDrover (fun d => { d with cmds := rest }))
        { i with st := .retiring, queue := c.queue, sess := c.sess, cookie := c.cookie }))
    ∧ ((∀ i, imageOf s (sessTenant s c.sess) c.image = some i → i.st ≠ .resident) →
      exec .retire s = .next (refuse (s.mapDrover (fun d => { d with cmds := rest })) c 0x04)))
  ∧ (∀ (s : State) (c : Cmd) (rest : List Cmd), s.drover.cmds = c :: rest → c.op = 4 → templateReason s c = none →
    (bit c.w3 0 = true →
      exec .templateSet s = .next (answered (postRec ((s.mapDrover (fun d => { d with cmds := rest })).mapDrover (fun d =>
        { d with templates := Tbl.set d.templates c.template (⟨c.image, c.ctx, c.w2.toNat, c.cookie, c.sess, sessTenant s c.sess, c.queue⟩ : Template) }))
          c.queue c.sess (cmdRec c 7 0 0 c.ctx)) c))
    ∧ (bit c.w3 0 = false →
      exec .templateClear s = .next (answered (postRec ((s.mapDrover (fun d => { d with cmds := rest })).mapDrover (fun d =>
        { d with templates := Tbl.del d.templates c.template })) c.queue c.sess (cmdRec c 7 0 0 c.ctx)) c)))
  ∧ (∀ (s : State) (c : Cmd) (rest : List Cmd), s.drover.cmds = c :: rest → c.op = 4 → commonReason s c = none →
    templateForeign s c = true → bit c.w3 0 = false →
    exec .templateClear s = .next (refuse (s.mapDrover (fun d => { d with cmds := rest })) c 0x10))

/-- SUBMIT, LEDGER_SLOT_ADVANCE and LEDGER_SNAP. A submission is not decided within 200 fc of the last decision, or while the die
network is not in run. While a role change is pending it is refused with ROLE_CHANGE. One that passes every check is accepted:
the instance takes the instance counter as its number (which steps from 0xFFFF to 1), the lowest free task slots and its
demand, commits its wakes, and gets its ACCEPTED record; barriers that are ready at once complete. When a slot of 5,000 ac has
passed, SLOT_BASE moves to the slot that holds the counter, older demand leaves the ledgers and the reserves start anew.
LEDGER_SEL.SNAP shows demand, first deadline and reserve of the entry selected. -/
def Obligations.SubmissionsAreDecided : Prop :=
  (∀ (s : State) (c : Cmd) (rest : List Cmd), s.drover.cmds = c :: rest → c.op = 1 → submitReady s = false →
    exec .submit s = .next s)
  ∧ (∀ (s u : State) (c : Cmd) (rest : List Cmd), s.drover.cmds = c :: rest → c.op = 1 → submitReady s = true →
    u = countEvent (rollLedger (s.mapDrover (fun d => { d with cmds := rest, lastDec := some s.now }))) slotDrvr 1 1 →
    commonReason u c = none →
    (u.roles ≠ [] → exec .submit s = .next (traceDecision (refuse u c 0x02) c 0x04 0x02 0))
    ∧ (u.roles = [] → u.hurdled .compute = true → exec .submit s = .next (traceDecision (refuse u c 0x03) c 0x04 0x03 0))
    ∧ (∀ (i : Image) (slots : List Nat) (new : List Demand), u.roles = [] → u.hurdled .compute = false →
      imageOf u (sessTenant u c.sess) c.image = some i → i.st = .resident → ctxOk u (sessTenant u c.sess) c.ctx = true →
      placeReason u i = none → slots = (freeTaskSlots u).take i.tasks.length →
      new = newDemands u i u.drover.instCtr (c.bell + c.w2.toNat) slots →
      loadReason u i (c.bell + c.w2.toNat) slots new = none →
      exec .submit s = .next
        (let inst : Inst :=
           ⟨u.drover.instCtr, i.tenant, i.index, c.ctx, c.sess, c.queue, c.cookie, c.bell + c.w2.toNat, c.bell, slots,
             c.tmpl⟩
         let a := u.mapDrover (fun d => { d with
           insts := d.insts ++ [inst], instCtr := if 0xFFFF ≤ d.instCtr then 1 else d.instCtr + 1,
           demands := d.demands ++ new,
           tasks := (i.tasks.zipIdx.zip slots).foldl (fun t p =>
             Tbl.set t p.2 (newTask i u.drover.instCtr (c.bell + c.w2.toNat) p.1.2 u.now p.1.1)) d.tasks })
         let b := commitWakes (a.bump slotDrvr 0x040 1) i
         let e := traceDecision (answered (postRec b c.queue c.sess (cmdRec c 1 0 u.drover.instCtr c.ctx)) c) c 1 0
           u.drover.instCtr
         endIfDone (barriers u.drover.instCtr i.tasks.length e) u.drover.instCtr)))
  ∧ (∀ s : State, s.ac < s.drover.slotBase + 5000 → exec .ledgerSlotAdvance s = .next s)
  ∧ (∀ s : State, s.drover.slotBase + 5000 ≤ s.ac → exec .ledgerSlotAdvance s = .next (s.mapDrover (fun d => { d with
      slotBase := s.ac - s.ac % 5000, demands := d.demands.filter (fun x => decide (s.ac - s.ac % 5000 ≤ x.dline)),
      reserve := [], resAborts := [] })))
  ∧ (∀ (s r : State) (f : FuncId) (v : Word), Reaches s f (regAt slotDrvr 0x080) → bits v 20 16 < 16 →
    r = rollLedger (s.fromHost.setReg slotDrvr 0x080 (v &&& 0x001F0F3F)) →
    ∃ t, exec (.ledgerSnap f v) s = .next t ∧ Only [.drover] r t
      ∧ t.drover.snapDem = w32 (ledgerDem r (16 * bits v 20 16 + bits v 11 8) (bits v 5 0))
      ∧ t.drover.snapRes = (if bits v 5 0 = 0 then w32 (Tbl.getD r.drover.reserve (bits v 20 16) 0) else 0)
      ∧ t.drover.demands = r.drover.demands)

/-- Whenever a decision uses up an instance number, the command at the head was a SUBMIT, its image was resident, its context
open, the role admits it, none of its folds is in caution or off and no HALT holds, every derived deadline lay ahead, enough task
slots were free, its pins counted, and every column and slot on which it places demand kept R234. -/
def Obligations.AdmittedInstancesPassTheChecks : Prop :=
  ∀ s t : State, exec .submit s = .next t → t.drover.instCtr ≠ s.drover.instCtr →
    ∃ (c : Cmd) (rest : List Cmd) (u : State) (i : Image) (new : List Demand),
      s.drover.cmds = c :: rest ∧ c.op = 1 ∧ submitReady s = true
      ∧ u = countEvent (rollLedger (s.mapDrover (fun d => { d with cmds := rest, lastDec := some s.now }))) slotDrvr 1 1
      ∧ imageOf u (sessTenant u c.sess) c.image = some i ∧ i.st = .resident ∧ ctxOk u (sessTenant u c.sess) c.ctx = true
      ∧ s.roles = [] ∧ u.hurdled .compute = false ∧ roleOk u i = true
      ∧ (∀ f ∈ touchedFolds i, f ∉ s.power.caution ∧ s.power.halt = false ∧ foldOff u f = false)
      ∧ (∀ k ∈ i.tasks, (u.ac : Int) < derived (c.bell + c.w2.toNat) k.tail)
      ∧ i.tasks.length ≤ (freeTaskSlots u).length ∧ notPinned u i = false ∧ hurdleFull u i = false
      ∧ new = newDemands u i u.drover.instCtr (c.bell + c.w2.toNat) ((freeTaskSlots u).take i.tasks.length)
      ∧ (∀ x ∈ new.map (·.col), ∀ k, k < 64 →
          ((new.filter (fun d => d.col == x)).map (fun d => slotOf u d.dline)).min?.getD 0 ≤ k →
          ∀ e, firstIn u.drover.slotBase (u.drover.demands ++ new) x k = some e →
            (10 * (demSum u.drover.slotBase (u.drover.demands ++ new) x k + blocking u x e) : Int) ≤ 360 * ((e : Int) - u.ac))

/-- TASK_DISPATCH, TASK_SUSPEND, SUSPEND_DRAINED, SUSPEND_SAVE_COMPLETE, TASK_RESUME and RESTORE_COMPLETE. A ready task whose
claims can be granted, that comes first on every core of a free set, runs from now, its program at its first instruction on
every core. A task first on cores that others hold begins their suspension where each of them may be suspended, and only
there. A draining task whose queues are empty and whose writes are complete is saved. 192 fc later its tiles are in its save
areas and no other byte of memory has changed. A suspended task that is again first on its free set begins its restore, and
192 fc later runs on, or is aborted by the first block of its save area that does not verify. -/
def Obligations.TasksDispatchAndSuspend : Prop :=
  (∀ (s : State) (n : Fin 4096) (k : Task) (d : TaskD) (i : Image), s.task n.val = some k → taskD s n.val = some d →
    imageOfTask s n.val = some i → k.st = .ready → aborting s n.val = false → d.kind ≠ kBarrier → claimsReady s n.val = true →
    isHead s n.val = true → (∀ r ∈ resourcesOf d, occupant s r = none) →
    ∃ t k', exec (.taskDispatch n) s = .next t ∧ t.task n.val = some k' ∧ k'.st = .running ∧ k'.since = s.now
      ∧ k'.filler = false ∧ k'.inst = k.inst ∧ t.mem = s.mem
      ∧ (d.onCores = true → ∀ c ∈ d.cores, ∃ p, (t.core c).prog = some p ∧ p.task = n.val ∧ p.pc = d.progOff ∧ p.ended = false))
  ∧ (∀ (s : State) (n : Fin 4096) (k : Task), s.task n.val = some k → (k.st ≠ .ready ∨ aborting s n.val = true
      ∨ claimsReady s n.val = false) → exec (.taskDispatch n) s = .next s)
  ∧ (∀ (s : State) (n : Fin 4096) (k : Task) (os : List Nat), s.task n.val = some k →
    os = ((resourcesIn s n.val).filterMap (occupant s)).eraseDups → wantsUnits s n.val = true → isHead s n.val = true →
    os ≠ [] → ((∀ o ∈ os, maySuspend s o k.dline = true) →
        exec (.taskSuspend n) s = .next (os.foldl beginSuspend s))
      ∧ ((∃ o ∈ os, maySuspend s o k.dline = false) → exec (.taskSuspend n) s = .next s))
  ∧ (∀ (s : State) (o : Nat) (k : Task), s.task o = some k → k.st = .running →
    ∃ k', (beginSuspend s o).task o = some k' ∧ k'.st = .draining
      ∧ (∀ c p, ((beginSuspend s o).core c).prog = some p → p.task = o → p.stopped = true))
  ∧ (∀ (s : State) (n : Fin 4096) (k : Task) (d : TaskD), s.task n.val = some k → taskD s n.val = some d → k.st = .draining →
    ((∀ c ∈ d.cores, coreQuiet s c n.val = true ∧ writesFlushed s n.val c = true) →
      exec (.suspendDrained n) s = .next (setTask s n.val { k with
        st := .saving, used := ranFor s k, since := s.now, saved := d.cores.map (saveOf s n.val) }))
    ∧ ((∃ c ∈ d.cores, coreQuiet s c n.val = false ∨ writesFlushed s n.val c = false) → exec (.suspendDrained n) s = .next s))
  ∧ (∀ (s : State) (n : Fin 4096) (k : Task) (d : TaskD) (off : Nat), s.task n.val = some k → taskD s n.val = some d →
    k.st = .saving → aborting s n.val = false → hasSave s n.val = some off →
    (s.now < k.since + 192 → exec (.suspendSaveComplete n) s = .next s)
    ∧ (k.since + 192 ≤ s.now → ∃ t, exec (.suspendSaveComplete n) s = .next t
      ∧ (∀ a, (∀ v ∈ k.saved, a < columnBase v.core + off ∨ columnBase v.core + off + 98304 ≤ a) → t.mem.read a = s.mem.read a)
      ∧ (∀ v, k.saved = [v] → ∀ b, b < 98304 →
          t.mem.read (columnBase v.core + off + b) = (tileBytes v.tileA ++ tileBytes v.tileB).getD b 0)))
  ∧ (∀ (s : State) (n : Fin 4096) (k : Task) (d : TaskD), s.task n.val = some k → taskD s n.val = some d →
    k.st = .suspended → claimsReady s n.val = true → aborting s n.val = false → isHead s n.val = true →
    (∀ c ∈ d.cores, occupant s c = none) →
    ∃ t k', exec (.taskResume n) s = .next t ∧ t.task n.val = some k' ∧ k'.st = .restoring ∧ k'.since = s.now
      ∧ k'.saved = k.saved ∧ t.mem = s.mem)
  ∧ (∀ (s : State) (n : Fin 4096) (k : Task) (off : Nat), s.task n.val = some k → k.st = .restoring →
    aborting s n.val = false → hasSave s n.val = some off →
    (s.now < k.since + 192 → exec (.restoreComplete n) s = .next s)
    ∧ (k.since + 192 ≤ s.now → ∀ u, restoreFault s n.val off k.saved = some u → exec (.restoreComplete n) s = .next u)
    ∧ (k.since + 192 ≤ s.now → restoreFault s n.val off k.saved = none →
      ∃ t k', exec (.restoreComplete n) s = .next t ∧ t.task n.val = some k' ∧ k'.st = .running ∧ k'.since = s.now
        ∧ k'.saved = [] ∧ k'.used = k.used ∧ t.mem = s.mem ∧ t.faults = s.faults))

/-- END, UNDEFINED_INSTRUCTION, OVERRUN and RESERVE_EXHAUSTED. At END (four words of 0) the program has ended, and every channel
that the task armed on the core is to be disarmed. A word whose opcode no chapter defines, or that the task's kind may not issue,
aborts the task with UNDEFINED_INSTRUCTION, naming the program position; a defined one that the kind may issue does not. Where
no instruction may issue, neither command has an effect. A running task that has used its budget, with what has been charged
on a core, before its part there is done is aborted with OVERRUN, which names the first such core or the unit; one within its
budget is not. A reserve charged beyond 10 % of its slot aborts the instance of the latest deadline there, once for
each further step. -/
def Obligations.ProgramsEnd : Prop :=
  (∀ (s u : State) (c : CoreId) (p : Prog), front s c.val = .words u p [0, 0, 0, 0] →
    exec (.endInstr c) s = .next ((u.mapCore c.val (fun k => { k with prog := some { p with ended := true } })).mapCore c.val
      (fun k => { k with chans := Tbl.mapV k.chans (fun _ h => if h.armed && h.task == some p.task
        then { h with disarm := some ⟨[0, 0, 0, 0], p.task, k.seq, none, 0⟩ } else h) })))
  ∧ (∀ (s u : State) (c : CoreId) (p : Prog) (ws : List Word), front s c.val = .words u p ws → ws ≠ [0, 0, 0, 0] →
    exec (.endInstr c) s = .next s
    ∧ ((opKnown (opcodeOf (wd ws 0)) = false ∨ kindAllows (taskKind u p.task) (opcodeOf (wd ws 0)) = false) →
      exec (.undefinedInstruction c) s = .next (taskFault u (slotCore c.val) p.task (some c.val) 0x0007
        (some (nearBase c.val + p.pc)) (w32 p.pc) (wd ws 0)))
    ∧ (opKnown (opcodeOf (wd ws 0)) = true → kindAllows (taskKind u p.task) (opcodeOf (wd ws 0)) = true →
      exec (.undefinedInstruction c) s = .next s))
  ∧ (∀ (s : State) (c : CoreId), mayIssue s c.val = none →
    exec (.endInstr c) s = .next s ∧ exec (.undefinedInstruction c) s = .next s)
  ∧ (∀ (s : State) (n : Fin 4096) (k : Task) (d : TaskD), s.task n.val = some k → taskD s n.val = some d →
    (k.st = .running ∨ k.st = .draining) → aborting s n.val = false →
    (d.onCores = true →
      (∀ c, d.cores.find? (fun c => !partDone s n.val c && decide (d.wcet + Tbl.getD k.ext c 0 < ranFor s k)) = some c → c < 256 →
        exec (.overrun n) s = .next (taskFault ((s.bump slotDrvr 0x050 1).pulse slotDrvr 2) slotDrvr n.val (some c) 0x0401 none
          (w32 d.wcet) (w32 c)))
      ∧ ((∀ c ∈ d.cores, partDone s n.val c = true ∨ ranFor s k ≤ d.wcet + Tbl.getD k.ext c 0) →
        exec (.overrun n) s = .next s))
    ∧ (d.onCores = false →
      (d.wcet + Tbl.getD k.ext 256 0 < ranFor s k →
        exec (.overrun n) s = .next (taskFault ((s.bump slotDrvr 0x050 1).pulse slotDrvr 2) slotDrvr n.val none 0x0401 none
          (w32 d.wcet) (if d.kind = kHerd then 0x100 else 0x101)))
      ∧ (ranFor s k ≤ d.wcet + Tbl.getD k.ext 256 0 → exec (.overrun n) s = .next s)))
  ∧ (∀ (s : State) (col : Fin 18), Tbl.getD s.drover.reserve col.val 0 ≤ (if col.val < 16 then 320000 else 20000) →
    exec (.reserveExhausted col) s = .next s)
  ∧ (∀ (s : State) (col : Fin 18) (i : Inst), Tbl.getD s.drover.resAborts col.val 0 = 0 →
    (if col.val < 16 then 320000 else 20000) < Tbl.getD s.drover.reserve col.val 0 → victim s col.val = some i →
    exec (.reserveExhausted col) s = .next
      ((((s.bump slotDrvr 0x05C 1).pulse slotDrvr 1).fault slotDrvr
        { code := 0x0402, ctx := some i.ctx, sess := some i.sess, d0 := w32 col.val,
          d1 := w32 (Tbl.getD s.drover.reserve col.val 0) }).mapDrover (fun d => { d with
            resAborts := Tbl.set d.resAborts col.val 1, aborts := d.aborts ++ [⟨i.num, 0x0402, none⟩] })))

/-- TASK_COMPLETE and INSTANCE_ABORT. A running task all of whose parts have completed ends: no program of it stands on any core
and no demand of it in any ledger. A task with a part still running does not end. The first fault that waits for the Drover
aborts its instance: the instance, its task slots and its demand are gone, no program of it stands on any core, INSTANCES_ABORTED
counts it, and the faults behind it of other instances still wait. -/
def Obligations.CompletionAndAbort : Prop :=
  (∀ (s : State) (n : Fin 4096) (k : Task) (d : TaskD) (i : Inst), s.task n.val = some k → taskD s n.val = some d →
    instOfTask s n.val = some i → k.st = .running → d.onCores = true → aborting s n.val = false →
    (∀ c ∈ d.cores, partDone s n.val c = true) →
    ∃ t, exec (.taskComplete n) s = .next t ∧ t.mem = s.mem ∧ t.faults = s.faults
      ∧ (∀ c p, (t.core c).prog = some p → p.task ≠ n.val)
      ∧ (∀ x ∈ t.drover.demands, ¬(x.task = some n.val ∧ x.inst = i.num)))
  ∧ (∀ (s : State) (n : Fin 4096) (d : TaskD) (c : Nat), taskD s n.val = some d → c ∈ d.cores →
    partDone s n.val c = false → exec (.taskComplete n) s = .next s)
  ∧ (∀ (s : State) (a : AbortReq) (rest : List AbortReq) (i : Inst), s.drover.aborts = a :: rest →
    findInst s a.inst = some i →
    ∃ t, exec .instanceAbort s = .next t
      ∧ (∀ x ∈ t.drover.insts, x.num ≠ a.inst) ∧ (∀ x ∈ t.drover.demands, x.inst ≠ a.inst)
      ∧ (∀ n ∈ i.slots, t.task n = none) ∧ (∀ c p, (t.core c).prog = some p → p.task ∉ i.slots)
      ∧ t.drover.aborts = rest.filter (fun x => x.inst != a.inst)
      ∧ t.reg slotDrvr 0x04C = s.reg slotDrvr 0x04C + 1
      ∧ t.faults = s.faults)
  ∧ (∀ s : State, s.drover.aborts = [] → exec .instanceAbort s = .next s)

/-- HERD_JOB_START. With no job in progress, the herd task that holds the engine has its job read at 0x1000_0000 + PROG_OFF, and
the HERD page shows that address. A job or image that fails a check records HERD_JOB or HERD_IMAGE with the code of the first
check that fails, aborts the task and starts nothing. One that passes every check runs over its COUNT records, or with COUNT_IND
over the count read, from record 0 with nothing written; the build number of each bank it may search is kept. Whatever it does,
no byte of memory changes. -/
def Obligations.HerdJobStarts : Prop :=
  (∀ s : State, (herdTask s = none ∨ s.herd.run ≠ none) → exec .herdJobStart s = .next s)
  ∧ (∀ (s u : State) (n : Nat) (d : TaskD) (a : Nat) (j : List Word), herdTask s = some n → s.herd.run = none →
    taskD s n = some d → a = 0x10000000 + d.progOff → u = s.setReg slotHerd 0x058 (w32 a) → j = s.mem.words a 16 →
    (a % 64 ≠ 0 → herdRead u n 0 a 4 = none →
      exec .herdJobStart s = .next (taskFault u slotHerd n none 0x0501 (some a) 0x01000000 (wd j 0)))
    ∧ (∀ w : State, herdRead u n 0 a (if a % 64 = 0 then 64 else 4) = some w → exec .herdJobStart s = .next w)
    ∧ (a % 64 = 0 → herdRead u n 0 a 64 = none →
      (jobBad j = true → exec .herdJobStart s = .next (taskFault u slotHerd n none 0x0501 (some a) 0x01000000 (wd j 0)))
      ∧ (jobBad j = false → jobMisaligned j = true →
        exec .herdJobStart s = .next (taskFault u slotHerd n none 0x0501 (some a) 0x02000000 (wd j 0)))
      ∧ (∀ h : List Word, jobBad j = false → jobMisaligned j = false → herdRead u n 0 (jImage j) 128 = none →
        h = s.mem.words (jImage j) 32 →
        (∀ c, headerCode h (jImage j) = some c →
          exec .herdJobStart s = .next (taskFault u slotHerd n none 0x0502 (some (jImage j)) (fld c 24) 0))
        ∧ (∀ i c : Nat, headerCode h (jImage j) = none → herdRead u n 0 (jImage j + hOffFeat h) (8 * hFeat h) = none → i < hFeat h →
          (∀ k < i, featCode h (s.mem.word (jImage j + hOffFeat h + 8 * k)) (s.mem.word (jImage j + hOffFeat h + 8 * k + 4)) = none) →
          featCode h (s.mem.word (jImage j + hOffFeat h + 8 * i)) (s.mem.word (jImage j + hOffFeat h + 8 * i + 4)) = some c →
          exec .herdJobStart s = .next (taskFault u slotHerd n none 0x0502 (some (jImage j + hOffFeat h + 8 * i)) (fld c 24) (w32 i)))
        ∧ (∀ fs : List Feat, headerCode h (jImage j) = none →
          herdRead u n 0 (jImage j + hOffFeat h) (8 * hFeat h) = none →
          (∀ i < hFeat h, featCode h (s.mem.word (jImage j + hOffFeat h + 8 * i)) (s.mem.word (jImage j + hOffFeat h + 8 * i + 4)) = none) →
          fs = (List.range (hFeat h)).map (fun i =>
            parseFeat (s.mem.word (jImage j + hOffFeat h + 8 * i)) (s.mem.word (jImage j + hOffFeat h + 8 * i + 4))) →
          (∀ c, jobCode u n j h = some c →
            exec .herdJobStart s = .next (taskFault u slotHerd n none 0x0501 (some a) (fld c 24) (wd j 0)))
          ∧ (∀ count : Nat, jobCode u n j h = none →
            count = (if jInd j then (s.mem.word (jCountAt j)).toNat else jCount j) →
            (jInd j = true → herdRead u n 0 (jCountAt j) 4 = none) →
            (jCount j < count →
              exec .herdJobStart s = .next (taskFault u slotHerd n none 0x0501 (some (jCountAt j)) 0x07000000 (wd j 0)))
            ∧ (count ≤ jCount j → (jPad j = true → bankBad u n (hFeat h) = none) →
              ∃ t, exec .herdJobStart s = .next t ∧ Only [.regs, .herd, .paddock] s t
                ∧ t.herd.run = some ⟨n, a, j, h, fs, count, outSize j h, 0, 0, [], [], 0⟩
                ∧ t.reg slotHerd 0x058 = w32 a
                ∧ (∀ k, k ≠ regAt slotHerd 0x058 → t.reg (k / 0x1000) (k % 0x1000) = s.reg (k / 0x1000) (k % 0x1000))
                ∧ t.paddock.search = none ∧ t.paddock.banks = s.paddock.banks
                ∧ t.paddock.builds = (claimBanks s n).map (fun b => (b, (s.bank b).builds))))))))
  ∧ (∀ s t : State, exec .herdJobStart s = .next t → t.mem = s.mem)

/-- HERD_RECORD_READ, HERD_RECORD_OUTPUT and HERD_JOB_COMPLETE. Where the unit runs and records are left, a record whose blocks
verify and whose trees are walked without a fault adds each tree's leaf in tree order to sums that start at BASE or the carried
elements, and waits for its output, with its counts if the job searches no bank. A block that does not verify, or a bad node,
aborts the job. The first record waiting, once its counts have arrived, is appended to the output, whose whole blocks are stored
from OUT_BASE, the last filled with zeros after the last record: no other byte of memory changes; RECORDS counts a record once
all its bytes are stored. When every record is written the job completes and its task is finished. -/
def Obligations.HerdRecords : Prop :=
  (∀ (s u0 : State) (r : HerdRun) (maps : List (List Word)) (vals : List Word) (bins : List (Option Nat)),
    s.herd.run = some r → r.next < r.count → aborting s r.task = false → (s.dom 22).st = .run → s.inReset .herd = false →
    maps = r.feats.map (fun f => if f.binned then s.mem.words (jImage r.words + f.offMap) f.ncut else []) →
    vals = s.mem.words (jRec r.words + r.next * jStride r.words) (hFeat r.header) →
    bins = ((r.feats.zip maps).zip vals).map (fun p => binOf p.1.1 p.1.2 p.2) →
    u0 = (if ((r.feats.zip maps).zip vals).any (fun p => unseen p.1.1 p.1.2 p.2) then
      (s.bump slotHerd 0x050 1).pulse slotHerd 2 else s) →
    (∀ u, recordRead s r = some u → exec .herdRecordRead s = .next u)
    ∧ (∀ u, recordRead s r = none →
      scoreTrees ⟨r, r.next, vals, bins⟩ (List.range (hTrees r.header)) ⟨⟨u0, 0⟩, startSums s r, [], 0⟩ = .inl u →
      exec .herdRecordRead s = .next u)
    ∧ (∀ acc : RecAcc, recordRead s r = none →
      scoreTrees ⟨r, r.next, vals, bins⟩ (List.range (hTrees r.header)) ⟨⟨u0, 0⟩, startSums s r, [], 0⟩ = .inr acc →
      (r.next = 0 → acc.depths ≠ hVisits r.header →
        exec .herdRecordRead s = .next (taskFault acc.at_.st slotHerd r.task none 0x0502 (some (jImage r.words)) 0x07000000 0))
      ∧ ((r.next = 0 → acc.depths = hVisits r.header) →
        ∃ t, exec .herdRecordRead s = .next t ∧ Only [.regs, .evts, .herd] s t
          ∧ acc.leaves.length = hTrees r.header
          ∧ t.herd.run = some { r with next := r.next + 1, outs := r.outs ++ [⟨r.next, acc.sums, acc.leaves, bins,
              if jPad r.words && !(claimBanks s r.task).isEmpty then none
              else some (if jPad r.words then (jTags r.words).map (fun _ => 0) else [])⟩] }
          ∧ t.reg slotHerd 0x058 = s.reg slotHerd 0x058)))
  ∧ (∀ s : State, (∀ r, s.herd.run = some r → r.count ≤ r.next ∨ aborting s r.task = true ∨ (s.dom 22).st ≠ .run
      ∨ s.inReset .herd = true) →
    exec .herdRecordRead s = .next s)
  ∧ (∀ (s : State) (r : HerdRun) (o : HerdOut) (rest : List HerdOut) (cs : List Nat) (buf : List Byte) (n w : Nat),
    s.herd.run = some r → r.outs = o :: rest → aborting s r.task = false → (s.dom 22).st = .run → s.inReset .herd = false →
    o.counts = some cs → buf = r.buf ++ outRecord r.words r.header o cs →
    n = (if r.count ≤ o.index + 1 then (buf.length + 511) / 512 else buf.length / 512) →
    w = (if r.count ≤ o.index + 1 then r.count else min r.count (512 * (r.blocks + n) / max 1 r.osize)) →
    ∃ t, exec .herdRecordOutput s = .next t ∧ Only [.regs, .mem, .herd] s t
      ∧ t.herd.run = some { r with outs := rest, written := w, buf := buf.drop (512 * n), blocks := r.blocks + n }
      ∧ t.reg slotHerd 0x044 = s.reg slotHerd 0x044 + BitVec.ofNat 32 (w - r.written)
      ∧ (∀ i < 512 * n, t.mem.read (jOut r.words + 512 * r.blocks + i) = buf.getD i 0)
      ∧ (∀ a, (a < jOut r.words + 512 * r.blocks ∨ jOut r.words + 512 * (r.blocks + n) ≤ a) → t.mem.read a = s.mem.read a))
  ∧ (∀ (s : State) (r : HerdRun) (o : HerdOut) (rest : List HerdOut), s.herd.run = some r → r.outs = o :: rest →
    o.counts = none → exec .herdRecordOutput s = .next s)
  ∧ (∀ (s : State) (r : HerdRun), s.herd.run = some r →
    (r.written = r.count → aborting s r.task = false →
      ∃ u t, exec .herdJobComplete s = .next t ∧ t = finishTask u r.task ∧ Only [.regs, .evts, .herd, .paddock] s u
        ∧ u.herd.run = none ∧ u.paddock.search = none ∧ u.paddock.builds = [] ∧ t.herd = u.herd ∧ t.mem = s.mem)
    ∧ ((r.written ≠ r.count ∨ aborting s r.task = true) → exec .herdJobComplete s = .next s))

/-- A walk that starts at the root of a tree of `count` nodes and `depth` and does not abort ends at a node among the tree's own
nodes, at or beyond its root, whose LEAF bit is 1, having made at most `depth` visits; it has added its visits to VISITS and no
more than these to MISSING, and changed nothing else. -/
def Obligations.WalksStayInTheirTree : Prop :=
  ∀ (e : WalkEnv) (root count depth fuel n : Nat) (s : State) (w : WalkAt) (lo hi : Word), 0 < count →
    walk e root count depth fuel ⟨s, 0⟩ root = .leaf w n lo hi →
    root ≤ n ∧ n < root + count ∧ bit hi 31 = true ∧ w.visits ≤ depth ∧ Only [.regs] s w.st
      ∧ w.st.reg slotHerd 0x048 = s.reg slotHerd 0x048 + BitVec.ofNat 32 w.visits
      ∧ (∃ m ≤ w.visits, w.st.reg slotHerd 0x04C = s.reg slotHerd 0x04C + BitVec.ofNat 32 m)
      ∧ (∀ k, k ≠ regAt slotHerd 0x048 → k ≠ regAt slotHerd 0x04C →
        w.st.reg (k / 0x1000) (k % 0x1000) = s.reg (k / 0x1000) (k % 0x1000))
      ∧ lo = s.mem.word (nodeAddr e.run n) ∧ hi = s.mem.word (nodeAddr e.run n + 4)

/-- PADK_CTRL_WRITE. The write stores LOG_EN and SCRUB_EN. Where it names a THEFT_N outside 2 to 64, or another than the one in
force while an admitted instance holds a Paddock claim, THEFT_N stays and the control page records PADDOCK_CONFIG with the value
written and the THEFT_N in force; otherwise THEFT_N is the one written and nothing is recorded. -/
def Obligations.PadkCtrlGuardsTheftN : Prop :=
  (∀ (s : State) (f : FuncId) (v : Word), Reaches s f (regAt slotPadk 0x008) →
    ((bits v 6 0 < 2 ∨ 64 < bits v 6 0 ∨ (bits v 6 0 ≠ theftN s ∧ ∃ i ∈ s.drover.insts, hasPaddock s i = true)) →
      ∃ t, exec (.padkCtrlWrite f v) s = .next (evtAfterWrite
          (State.fault t slotPadk { code := 0x0514, d0 := v, d1 := BitVec.ofNat 32 (theftN s) }) slotPadk)
        ∧ (∀ a, a ≠ regAt slotPadk 0x008 → t.reg (a / 0x1000) (a % 0x1000) = s.fromHost.reg (a / 0x1000) (a % 0x1000))
        ∧ theftN t = theftN s ∧ scrubEn t = bit v 8 ∧ bit (t.reg slotPadk 0x008) 31 = bit v 31
        ∧ Only [.regs] s.fromHost t)
    ∧ (2 ≤ bits v 6 0 → bits v 6 0 ≤ 64 → (bits v 6 0 = theftN s ∨ ∀ i ∈ s.drover.insts, hasPaddock s i = false) →
      ∃ t, exec (.padkCtrlWrite f v) s = .next (evtAfterWrite t slotPadk) ∧ Only [.regs] s.fromHost t
        ∧ (∀ a, a ≠ regAt slotPadk 0x008 → t.reg (a / 0x1000) (a % 0x1000) = s.fromHost.reg (a / 0x1000) (a % 0x1000))
        ∧ theftN t = bits v 6 0 ∧ scrubEn t = bit v 8 ∧ bit (t.reg slotPadk 0x008) 31 = bit v 31))
  ∧ ∀ (s : State) (slot : Nat), Only [.regs, .out] s (evtAfterWrite s slot)

/-- PADDOCK_BANK_SEARCH, SEARCH_REPLAY, PADDOCK_JOB_START, PADDOCK_OP_ENQUEUE and PADDOCK_JOB_COMPLETE. The next bank of the
record in search is searched only in a pc that is no theft pc and has had fewer than 16 searches: a bank that may not be
searched aborts with PADDOCK_BANK, a poisoned unit with POISONED; otherwise each tag's count grows by the valid matching entries
of that tag, and after the last bank the record has its counts. A parity error that does not persist leaves that result: the search
is made in the same way, its pc charged to the PADDOCK column and added to the task's budget; one that persists marks its unit
and aborts the task.
An update job whose words break Table 11-7 aborts with PADDOCK_JOB; a good one starts, its operations enter the queues of their
banks, each of which takes 16, and it completes its task when all have been done. No byte of memory changes. -/
def Obligations.PaddockSearchesAndJobs : Prop :=
  (∀ (s : State) (b : BankId) (r : HerdRun) (p : PSearch), searchOf s = some (r, p) → p.left.head? = some b.val →
    searchSlot s = true → padRuns s = true →
    (∀ c, searchBad s b.val = some c → exec (.paddockBankSearch b) s = .next (bankFault s r.task b.val c p.index))
    ∧ (∀ (n : Nat) (u : State), searchBad s b.val = none → n = (if s.paddock.searchAt = s.pc then s.paddock.searchN + 1 else 1) →
      u = ((s.mapPaddock (fun q => { q with searchAt := s.pc, searchN := n })).bump slotPadk 0x044 1).bump (slotBank b.val) 0x050 1 →
      (∀ k, poisonedUnit (s.bank b.val) = some k → exec (.paddockBankSearch b) s = .next (unitPoison u r.task b.val k false))
      ∧ (poisonedUnit (s.bank b.val) = none → p.left = [b.val] →
        exec (.paddockBankSearch b) s = .next (giveCounts u r { p with
          left := [], counts := (p.counts.zip (jTags r.words)).map (fun x => x.1 + (s.bank b.val).countTag x.2 p.bins) }))
      ∧ (∀ (x : Nat) (l : List Nat), poisonedUnit (s.bank b.val) = none → p.left = b.val :: x :: l →
        exec (.paddockBankSearch b) s = .next (u.mapPaddock (fun q => { q with search := some { p with
          left := x :: l, counts := (p.counts.zip (jTags r.words)).map (fun x => x.1 + (s.bank b.val).countTag x.2 p.bins) } })))))
  ∧ (∀ (s : State) (b : BankId), (searchOf s = none ∨ searchSlot s = false ∨ padRuns s = false
      ∨ ∃ r p, searchOf s = some (r, p) ∧ p.left.head? ≠ some b.val) →
    exec (.paddockBankSearch b) s = .next s ∧ ∀ k e, exec (.searchReplay b k e) s = .next s)
  ∧ (∀ (s : State) (b : BankId) (k : Fin 32768) (e : Bool), (s.bank b.val).searchable = false →
    exec (.searchReplay b k e) s = .next s)
  ∧ (∀ (s u : State) (b : BankId) (k : Fin 32768) (r : HerdRun) (p : PSearch) (n : Nat), searchOf s = some (r, p) →
    p.left.head? = some b.val → searchSlot s = true → padRuns s = true → (s.bank b.val).searchable = true →
    searchBad s b.val = none → poisonedUnit (s.bank b.val) = none →
    n = (if s.paddock.searchAt = s.pc then s.paddock.searchN + 1 else 1) →
    u = (((extendTask (chargeReserve (s.bump (slotBank b.val) 0x060 1) 17 2) r.task 256 2).mapPaddock (fun q => { q with
      searchAt := s.pc, searchN := n })).bump slotPadk 0x044 1).bump (slotBank b.val) 0x050 1 →
    (p.left = [b.val] → exec (.searchReplay b k false) s = .next (giveCounts u r { p with
      left := [], counts := (p.counts.zip (jTags r.words)).map (fun x => x.1 + (s.bank b.val).countTag x.2 p.bins) }))
    ∧ (∀ (x : Nat) (l : List Nat), p.left = b.val :: x :: l →
      exec (.searchReplay b k false) s = .next (u.mapPaddock (fun q => { q with search := some { p with
        left := x :: l, counts := (p.counts.zip (jTags r.words)).map (fun x => x.1 + (s.bank b.val).countTag x.2 p.bins) } }))))
  ∧ (∀ (s : State) (b : BankId) (k : Fin 32768) (r : HerdRun) (p : PSearch), searchOf s = some (r, p) →
    p.left.head? = some b.val → searchSlot s = true → padRuns s = true → (s.bank b.val).searchable = true →
    exec (.searchReplay b k true) s = .next (
      let v := s.bank b.val
      let u := extendTask (chargeReserve (s.bump (slotBank b.val) 0x060 1) 17 2) r.task 256 2
      unitPoison (u.setBank b.val { v with poison := if v.poison.contains k.val then v.poison else v.poison ++ [k.val] })
        r.task b.val k.val true))
  ∧ (∀ (s : State) (n : Nat) (d : TaskD) (a : Nat) (j : List Word), padTask s = some n → s.paddock.job = none →
    taskD s n = some d → a = 0x10000000 + d.progOff → j = s.mem.words a 16 →
    (a % 64 ≠ 0 → padRead s n a 4 = none →
      exec .paddockJobStart s = .next (taskFault s slotPadk n none 0x0511 (some a) 0x01000000 (wd j 0)))
    ∧ (∀ u, padRead s n a (if a % 64 = 0 then 64 else 4) = some u → exec .paddockJobStart s = .next u)
    ∧ (∀ c, a % 64 = 0 → padRead s n a 64 = none → padJobCode j = some c →
      exec .paddockJobStart s = .next (taskFault s slotPadk n none 0x0511 (some a) (fld c 24) (wd j 0)))
    ∧ (a % 64 = 0 → padRead s n a 64 = none → padJobCode j = none →
      exec .paddockJobStart s = .next (s.mapPaddock (fun p => { p with
        job := some ⟨n, (wd j 1).toNat, bits (wd j 0) 15 0, 0, 0, 0⟩ }))))
  ∧ (∀ s : State, (padTask s = none ∨ s.paddock.job ≠ none) → exec .paddockJobStart s = .next s)
  ∧ (∀ (s : State) (n a : Nat) (j : PJob), padTask s = some n → s.paddock.job = some j → j.task = n → j.next < j.nops →
    a = j.base + 16 * j.next → padRead s n a 16 = none →
    (16 ≤ (s.bank (bits (s.mem.word a) 27 22)).queue.length → exec .paddockOpEnqueue s = .next s)
    ∧ ((s.bank (bits (s.mem.word a) 27 22)).queue.length < 16 →
      ∃ t, exec .paddockOpEnqueue s = .next t ∧ Only [.paddock] s t
        ∧ t.bank (bits (s.mem.word a) 27 22) = { s.bank (bits (s.mem.word a) 27 22) with
            queue := (s.bank (bits (s.mem.word a) 27 22)).queue
              ++ [⟨s.mem.word a, s.mem.word (a + 4), s.mem.word (a + 8), s.mem.word (a + 12), j.next, n⟩] }
        ∧ (∀ x, x ≠ bits (s.mem.word a) 27 22 → t.bank x = s.bank x)
        ∧ t.paddock.job = some { j with next := j.next + 1 }))
  ∧ (∀ (s : State) (n : Nat) (j : PJob), padTask s = some n → s.paddock.job = some j →
    ((j.nops ≤ j.next ∨ j.task ≠ n) → exec .paddockOpEnqueue s = .next s)
    ∧ (j.task = n → j.done = j.nops →
      exec .paddockJobComplete s = .next (finishTask (s.mapPaddock (fun p => { p with job := none, marked := [] })) n))
    ∧ ((j.task ≠ n ∨ j.done ≠ j.nops) → exec .paddockJobComplete s = .next s))

/-- INSERT, REMOVE, WRITE, SETVALID and CLEAR of a bank. An operation of another kind at the head, or a Paddock that does not
run, leaves everything. When it reaches the head its checks are made in order: a code of Table 11-8 aborts with PADDOCK_OP;
otherwise it starts and the bank is BUSY. In a theft pc it makes one step: INSERT copies the last entry up, moves the hole down,
and at P writes the new entry; REMOVE opens the hole at P and lowers FILL, then moves the hole up until it closes; the others
take one step. The golden copy gets the entry written and then the header with the new FILL and hole, in the same step. The last
step takes the operation off the queue, counts it done and puts the bank in READY. -/
def Obligations.PaddockOperationsStep : Prop :=
  (∀ (s : State) (b : BankId) (v : Bank) (r : POpRun) (o : StepOut), v = s.bank b.val → v.cur = some r → padRuns s = true →
    theftPc s = true → v.theft ≠ s.pc + 1 → v.st ≠ .rebuilding → aborting s r.op.task = false → o = opStep v r →
    goldMergeBad s.mem v.gold v.width o.wrote = none →
    ∃ t, (r.op.kind = kInsert → exec (.insert b) s = .next t) ∧ (r.op.kind = kRemove → exec (.remove b) s = .next t)
      ∧ (r.op.kind = kWrite → exec (.write b) s = .next t) ∧ (r.op.kind = kSetvalid → exec (.setvalid b) s = .next t)
      ∧ (r.op.kind = kClear → exec (.clear b) s = .next t) ∧ Only [.regs, .evts, .mem, .paddock] s t
      ∧ t.mem = putHeader (match o.wrote with | some e => putGold s.mem v.gold v.width e (o.bank.entry e) | none => s.mem)
          v.gold o.bank.fill o.bank.hole
      ∧ (o.last = false → t.bank b.val = { o.bank with cur := some { r with made := r.made + 1 }, theft := s.pc + 1 }
          ∧ t.paddock.job = s.paddock.job)
      ∧ (o.last = true → t.bank b.val = { o.bank with cur := none, theft := s.pc + 1, queue := o.bank.queue.tail, st := .ready }
          ∧ t.paddock.job = s.paddock.job.map (fun j => { j with done := j.done + 1 })))
  ∧ (∀ (v : Bank) (r : POpRun), r.op.kind = kInsert →
    (v.hole = none → r.pos ≠ v.fill →
      opStep v r = ⟨{ v.copyEntry (v.fill - 1) v.fill with hole := some (v.fill - 1) }, some v.fill, false, false⟩)
    ∧ (∀ h, v.hole = some h → h ≠ r.pos →
      opStep v r = ⟨{ v.copyEntry (h - 1) h with hole := some (h - 1) }, some h, false, false⟩)
    ∧ ((v.hole = some r.pos ∨ (v.hole = none ∧ v.fill = r.pos)) →
      opStep v r = ⟨{ v.setEntry v.width r.pos (newEntry r r.op.tag) with hole := none, fill := v.fill + 1 }, some r.pos, true, true⟩))
  ∧ (∀ (v : Bank) (r : POpRun), r.op.kind = kRemove →
    (v.hole = none → r.pos + 1 = v.fill → opStep v r = ⟨{ v with fill := r.pos, hole := none }, none, true, true⟩)
    ∧ (v.hole = none → r.pos + 1 < v.fill → opStep v r = ⟨{ v with fill := v.fill - 1, hole := some r.pos }, none, true, false⟩)
    ∧ (∀ h, v.hole = some h → h + 1 = v.fill →
      opStep v r = ⟨{ v.copyEntry v.fill h with hole := none }, some h, false, true⟩)
    ∧ (∀ h, v.hole = some h → h + 1 ≠ v.fill →
      opStep v r = ⟨{ v.copyEntry (h + 1) h with hole := some (h + 1) }, some h, false, false⟩))
  ∧ (∀ (v : Bank) (r : POpRun), r.op.kind = kClear → opStep v r = ⟨{ v with fill := 0 }, none, true, true⟩)
  ∧ (∀ (v : Bank) (r : POpRun), r.op.kind = kWrite →
    opStep v r = ⟨v.setEntry v.width r.pos (newEntry r r.op.tag), some r.pos, true, true⟩)
  ∧ (∀ (v : Bank) (r : POpRun), r.op.kind = kSetvalid →
    (opStep v r).wrote = some r.pos ∧ (opStep v r).last = true ∧ (opStep v r).bank.fill = v.fill
      ∧ entryValid ((opStep v r).bank.entry r.pos) = r.op.valid ∧ entryTag ((opStep v r).bank.entry r.pos) = entryTag (v.entry r.pos))
  ∧ (∀ (s : State) (b : BankId) (v : Bank) (o : POp) (rest : List POp), v = s.bank b.val → v.cur = none → v.queue = o :: rest →
    padRuns s = true → theftPc s = false → aborting s o.task = false →
    ∃ t, (o.kind = kInsert → exec (.insert b) s = .next t) ∧ (o.kind = kRemove → exec (.remove b) s = .next t)
      ∧ (o.kind = kWrite → exec (.write b) s = .next t) ∧ (o.kind = kSetvalid → exec (.setvalid b) s = .next t)
      ∧ (o.kind = kClear → exec (.clear b) s = .next t)
      ∧ (∀ c, opCheck s b.val v o = .code c →
          t = taskFault s (slotBank b.val) o.task none 0x0512 none (fld c 24 ||| BitVec.ofNat 32 o.idx) o.w0)
      ∧ (∀ x k, opCheck s b.val v o = .block x k → t = bankBlockFault s o.task b.val k x)
      ∧ (∀ r, opCheck s b.val v o = .ok r → o.kind ≠ kRebuild → t = s.setBank b.val { v with cur := some r, st := .busy }))
  ∧ (∀ (s : State) (b : BankId),
    ((headKind (s.bank b.val) ≠ kInsert ∨ padRuns s = false) → exec (.insert b) s = .next s)
    ∧ ((headKind (s.bank b.val) ≠ kRemove ∨ padRuns s = false) → exec (.remove b) s = .next s)
    ∧ ((headKind (s.bank b.val) ≠ kWrite ∨ padRuns s = false) → exec (.write b) s = .next s)
    ∧ ((headKind (s.bank b.val) ≠ kSetvalid ∨ padRuns s = false) → exec (.setvalid b) s = .next s)
    ∧ ((headKind (s.bank b.val) ≠ kClear ∨ padRuns s = false) → exec (.clear b) s = .next s))

/-- REBUILD, REBUILD_STEP and THEFT_PC. A REBUILD that passes its checks puts its bank in REBUILDING; a block of its header that
is not good leaves the bank INCONSISTENT. Each step, one in a pc, closes one place of the golden copy's hole, or loads the next
entry: a block that is not good, or an entry out of tag order, aborts the task and leaves the bank INCONSISTENT. After the last
entry the bank takes the header's width, map and fill, and is READY. In a theft pc every bank, in turn, makes a step of its head
operation; a bank without one, scrubbing enabled, compares one entry with its golden copy, the first again after the last, and
takes the golden bytes where they differ. In any other pc THEFT_PC does nothing. -/
def Obligations.RebuildsAndTheft : Prop :=
  (∀ (s : State) (b : BankId), (headKind (s.bank b.val) ≠ kRebuild ∨ padRuns s = false) → exec (.rebuild b) s = .next s)
  ∧ (∀ (s : State) (b : BankId) (v : Bank) (o : POp) (rest : List POp), v = s.bank b.val → v.cur = none → v.queue = o :: rest →
    o.kind = kRebuild → padRuns s = true → aborting s o.task = false →
    (∀ c, opCheck s b.val v o = .code c → exec (.rebuild b) s
        = .next (taskFault s (slotBank b.val) o.task none 0x0512 none (fld c 24 ||| BitVec.ofNat 32 o.idx) o.w0))
    ∧ (∀ x k, opCheck s b.val v o = .block x k →
      exec (.rebuild b) s = .next (bankBlockFault (s.setBank b.val { v with st := .inconsistent, cur := none }) o.task b.val k x))
    ∧ (∀ r, opCheck s b.val v o = .ok r → exec (.rebuild b) s = .next (s.setBank b.val { v with cur := some r, st := .rebuilding })))
  ∧ (∀ (s : State) (b : BankId) (v : Bank) (r : POpRun), v = s.bank b.val → v.cur = some r → v.st = .rebuilding →
    v.theft ≠ s.pc + 1 → aborting s r.op.task = false → padRuns s = true →
    (∀ h, r.hole = some h → h < r.fill → (goldVerify s.mem r.op.data r.width (h + 1)).1 = .good →
      goldMergeBad s.mem r.op.data r.width (some h) = none →
      ∃ t, exec (.rebuildStep b) s = .next t ∧ Only [.regs, .mem, .paddock] s t
        ∧ t.bank b.val = { v with
            cur := some { r with made := r.made + 1, hole := if h + 1 = r.fill then none else some (h + 1) }, theft := s.pc + 1 }
        ∧ t.mem = putHeader (putGold s.mem r.op.data r.width h (goldEntry s.mem r.op.data r.width (h + 1))) r.op.data r.fill
            (if h + 1 = r.fill then none else some (h + 1)))
    ∧ ((∀ h, r.hole = some h → r.fill ≤ h) → r.pos < r.fill →
      ((goldVerify s.mem r.op.data r.width r.pos).1 ≠ .good →
        exec (.rebuildStep b) s = .next (bankBlockFault (s.setBank b.val { v with st := .inconsistent, cur := none }) r.op.task b.val
          (goldVerify s.mem r.op.data r.width r.pos).2 (goldVerify s.mem r.op.data r.width r.pos).1))
      ∧ ((goldVerify s.mem r.op.data r.width r.pos).1 = .good → loadBad v r (goldEntry s.mem r.op.data r.width r.pos) = true →
        exec (.rebuildStep b) s = .next (taskFault (s.setBank b.val { v with st := .inconsistent, cur := none }) (slotBank b.val)
          r.op.task none 0x0512 none (0x0B000000#32 ||| BitVec.ofNat 32 r.op.idx) r.op.w0))
      ∧ ((goldVerify s.mem r.op.data r.width r.pos).1 = .good → loadBad v r (goldEntry s.mem r.op.data r.width r.pos) = false →
        ∃ t, exec (.rebuildStep b) s = .next t ∧ Only [.regs, .paddock] s t
          ∧ t.bank b.val = { v.setEntry r.width r.pos (goldEntry s.mem r.op.data r.width r.pos) with
              cur := some { r with made := r.made + 1, pos := r.pos + 1 }, theft := s.pc + 1 }))
    ∧ (r.hole = none → r.fill ≤ r.pos →
      ∃ t, exec (.rebuildStep b) s = .next t ∧ Only [.regs, .evts, .paddock] s t
        ∧ t.bank b.val = { v with
            width := r.width, map := r.map, fill := r.fill, hole := none, gold := r.op.data, scrub := 0, inPass := false,
            passBad := false, builds := v.builds + 1, theft := s.pc + 1, queue := v.queue.tail, cur := none, st := .ready }
        ∧ t.paddock.job = s.paddock.job.map (fun j => { j with done := j.done + 1 })))
  ∧ (∀ (s : State) (b : BankId), ((s.bank b.val).cur = none ∨ (s.bank b.val).st ≠ .rebuilding ∨ padRuns s = false
      ∨ (s.bank b.val).theft = s.pc + 1) → exec (.rebuildStep b) s = .next s)
  ∧ (∀ s : State, (theftPc s = false ∨ padRuns s = false) → exec .theftPc s = .next s)
  ∧ (∀ s : State, theftPc s = true → padRuns s = true →
    exec .theftPc s = .next ((s.paddock.banks.map (·.1)).foldl bankTheft s))
  ∧ (∀ (s : State) (b e : Nat) (v : Bank), v = s.bank b → v.cur = none → v.queue = [] → v.theft ≠ s.pc + 1 →
    (scrubEn s = false → bankTheft s b = s)
    ∧ (scrubEn s = true → (v.st = .ready ∨ v.st = .busy) → v.passBad = false → (s.dom 22).st = .run →
      (v.inPass = true ∨ scrubHeaderBad s.mem v = false) →
      (v.positions.find? (fun e => decide (v.scrub ≤ e)) = some e
        ∨ (v.positions.find? (fun e => decide (v.scrub ≤ e)) = none ∧ v.positions.head? = some e
          ∧ scrubHeaderBad s.mem v = false)) → (goldVerify s.mem v.gold v.width e).1 = .good →
      ∃ sc ip, (v.poison.any (fun u => u / unitsOf v.width == e) = false → v.entry e = goldEntry s.mem v.gold v.width e →
          bankTheft s b = (s.bump slotPadk 0x050 1).setBank b { v with scrub := sc, inPass := ip, theft := s.pc + 1 })
        ∧ (v.entry e ≠ goldEntry s.mem v.gold v.width e →
          ∃ t, bankTheft s b = t ∧ Only [.regs, .evts, .paddock] s t
            ∧ t.bank b = { v.setEntry v.width e (goldEntry s.mem v.gold v.width e) with scrub := sc, inPass := ip, theft := s.pc + 1 })))

/-- RWRITE, RREAD, RADD, RBELL, PACKET_SEND and PACKET_FORWARD. An instruction that meets a case of Table 12-18 aborts its task
with the lowest code, recorded in the page of its first port; otherwise it joins the operations behind those of its core, none of
its packets sent, and the program moves past it. A port that is not UP or has nothing to send sends nothing; one whose domain
sleeps wakes; one whose replay buffer has no room sends an idle codeword; otherwise the flits that are there of the packet chosen
leave, each spending a credit, and stand in the replay buffer under the next sequence numbers. A packet is started only where the
port holds credits for all its flits, in order of arrival in its channel. A packet in a buffer of a port that has still to be
routed is routed, or discarded behind a raised hurdle. -/
def Obligations.RemoteOperations : Prop :=
  (∀ (s u : State) (c : CoreId) (p : Prog) (ws : List Word) (code : Nat), roCode u c.val p.task ws = some code →
    (Issues s opRwrite c.val u p ws → exec (.rwrite c) s = .next (ralsoFault u (firstHopPort u (roNode ws)) c.val p.task 0x0601
        (roNode ws) (some (wd ws 2).toNat) (BitVec.ofNat 32 code) (wd ws 0)))
    ∧ (Issues s opRread c.val u p ws → exec (.rread c) s = .next (ralsoFault u (firstHopPort u (roNode ws)) c.val p.task 0x0601
        (roNode ws) (some (wd ws 2).toNat) (BitVec.ofNat 32 code) (wd ws 0)))
    ∧ (Issues s opRadd c.val u p ws → exec (.radd c) s = .next (ralsoFault u (firstHopPort u (roNode ws)) c.val p.task 0x0601
        (roNode ws) (some (wd ws 2).toNat) (BitVec.ofNat 32 code) (wd ws 0)))
    ∧ (Issues s opRbell c.val u p ws → exec (.rbell c) s = .next (ralsoFault u (firstHopPort u (roNode ws)) c.val p.task 0x0601
        (roNode ws) none (BitVec.ofNat 32 code) (wd ws 0))))
  ∧ (∀ (s u : State) (c : CoreId) (p : Prog) (ws : List Word), roCode u c.val p.task ws = none →
    ∃ (t : State) (o : RemOp), o.inst.words = ws ∧ o.inst.task = p.task ∧ o.core = c.val ∧ o.sent = 0 ∧ o.rest = []
      ∧ o.total = roTotal (u.core c.val) ws
      ∧ t = pull ((advance u c.val p ws).mapFabric (fun f => { f with ops := f.ops ++ [o] })) c.val
      ∧ (Issues s opRwrite c.val u p ws → exec (.rwrite c) s = .next t)
      ∧ (Issues s opRread c.val u p ws → exec (.rread c) s = .next t)
      ∧ (Issues s opRadd c.val u p ws → exec (.radd c) s = .next t)
      ∧ (Issues s opRbell c.val u p ws → exec (.rbell c) s = .next t))
  ∧ (∀ (s u : State) (p : PortId), u = launchAll s →
    (((u.port p.val).st ≠ .up ∨ (u.port p.val).outQ = []) → exec (.packetSend p) s = .next u)
    ∧ ((u.port p.val).st = .up → (u.port p.val).outQ ≠ [] → portRuns u p.val = false →
      exec (.packetSend p) s = .next (startWake u (16 + p.val)))
    ∧ ((u.port p.val).st = .up → portRuns u p.val = true →
      (pickOut u p.val = none → exec (.packetSend p) s = .next u)
      ∧ (∀ (o : OutPkt) (n : Nat), pickOut u p.val = some o → n = min o.via.flits o.pkt.flits - o.sent →
        (n = 0 → exec (.packetSend p) s = .next u)
        ∧ (n ≠ 0 → 1024 < (u.port p.val).replay.length + (n + 9) / 10 → exec (.packetSend p) s = .next (u.emit (.idle p.val)))
        ∧ (n ≠ 0 → (u.port p.val).replay.length + (n + 9) / 10 ≤ 1024 →
          ∃ v fs cws, exec (.packetSend p) s = .next (settle v)
            ∧ fs = ((o.pkt.allFlits o.via.flits).take (o.sent + n)).drop o.sent
            ∧ cws = codewords (fs.length / 10 + 1) (u.port p.val).txSeq fs
            ∧ Only [.regs, .fabric, .power, .out] u v ∧ v.out = u.out ++ cws.map (fun w => Out.codeword p.val w)
            ∧ v.port p.val = { u.port p.val with
                outQ := (if o.pkt.flits < o.via.flits
                  then (u.port p.val).outQ.map (fun x => if x = o then { o with sent := o.sent + n, waitAt := none } else x)
                  else dropFirst o (u.port p.val).outQ)
                replay := (u.port p.val).replay ++ cws
                txSeq := (u.port p.val).txSeq + BitVec.ofNat 12 cws.length
                credits := (u.port p.val).credits.modify o.pkt.vc (fun x => x - fs.length) }
            ∧ (∀ q, q ≠ p.val → v.port q = u.port q)))))
  ∧ (∀ (s : State) (q : Nat) (o : OutPkt), pickOut s q = some o → o ∈ (s.port q).outQ
      ∧ (o.sent = 0 → o.via.flits ≤ (s.port q).credits.getD o.pkt.vc 0
        ∧ (o.pkt.ptype = tMcBlock → o.via.flits ≤ (s.port q).credits.getD o.pkt.vc 0 - 8)
        ∧ (∀ x ∈ (s.port q).outQ, x.sent = 0 ∧ (x.pkt.vc = o.pkt.vc → o.via.stamp ≤ x.via.stamp))))
  ∧ (∀ s : State, Only [.fabric, .out] s (settle s)
      ∧ ∀ q, ∃ rx fr, (settle s).port q = { s.port q with rx := rx, freed := fr }
        ∧ (∀ r ∈ rx, r ∈ (s.port q).rx) ∧ (∀ r ∈ (s.port q).rx, r.over s = false → r ∈ rx))
  ∧ (∀ (s : State) (p : PortId) (vc : Fin 7), (∀ r ∈ (s.port p.val).rx, r.vc ≠ vc.val ∨ r.routed = true) →
    exec (.packetForward p vc) s = .next s)
  ∧ (∀ (s : State) (p : PortId) (vc : Fin 7) (r : RxPkt),
    (s.port p.val).rx.find? (fun r => r.vc == vc.val && !r.routed) = some r →
    (portRuns s p.val = false → exec (.packetForward p vc) s = .next (startWake s (16 + p.val)))
    ∧ (portRuns s p.val = true → ∃ (u : State) (v : Via),
      u = s.setPort p.val { s.port p.val with
        rx := (s.port p.val).rx.map (fun x => if x.stamp = r.stamp then { x with routed := true } else x) }
      ∧ v = ⟨some p.val, r.stamp, 1 + r.left + (r.pkt.data.length + 59) / 60⟩
      ∧ (s.hurdled (.port p) = true → exec (.packetForward p vc) s = .next (settle u))
      ∧ (s.hurdled (.port p) = false →
        (r.pkt.ptype ∉ [tMgmt, tMcBlock, tMcMarker] → exec (.packetForward p vc) s = .next (settle (routeUnicast u r.pkt v)))
        ∧ (r.pkt.ptype = tMcMarker → exec (.packetForward p vc) s = .next (settle (routeMulticast u r.pkt v)))
        ∧ (r.pkt.ptype = tMcBlock → exec (.packetForward p vc) s = .next (settle (routeMulticast
          (if r.pkt.seq = 0 then clearPrunes u r.pkt.group r.pkt.gen else u) r.pkt v)))
        ∧ (r.pkt.ptype = tMgmt → r.pkt.dest = selfNode u → r.pkt.opx ∈ [1, 2, 3, 8] →
          exec (.packetForward p vc) s = .next (settle (enqueueLocal u r.pkt v)))
        ∧ (r.pkt.ptype = tMgmt → r.pkt.dest ≠ selfNode u → exec (.packetForward p vc) s = .next (settle (countNoRoute u))))))

/-- SELF_WRITE and DIMS_WRITE, and the remote operations while SELF.VALID is 0. While a port is not DOWN a write leaves the
register and records FABRIC_CONFIG with the register's offset and the value. With all six ports DOWN, DIMS takes the sizes written
(its field widths hold every size within R320, so that no size above the limits can be written) and SELF the coordinate and VALID.
A remote operation that is issued while SELF.VALID is 0 aborts its task with BAD_RALSO. -/
def Obligations.SelfAndDims : Prop :=
  (∀ (s u : State) (r : Requester) (v : Word), u = arriving r s →
    (∃ p : PortId, (s.port p.val).st ≠ .down) →
    (Arrives s r (regAt slotRoute 0x040) → exec (.selfWrite r v) s
        = .next (reported r (State.fault u slotRoute { code := 0x0604, d0 := 0x040, d1 := v })))
    ∧ (Arrives s r (regAt slotRoute 0x044) → exec (.dimsWrite r v) s
        = .next (reported r (State.fault u slotRoute { code := 0x0604, d0 := 0x044, d1 := v }))))
  ∧ (∀ (s u : State) (r : Requester) (v : Word), u = arriving r s → (∀ p : PortId, (s.port p.val).st = .down) →
    (Arrives s r (regAt slotRoute 0x044) → exec (.dimsWrite r v) s
        = .next (reported r (u.setReg slotRoute 0x044 (v &&& 0x0000FFFF))))
    ∧ (Arrives s r (regAt slotRoute 0x040) → ∃ t, exec (.selfWrite r v) s = .next (reported r t)
        ∧ t.reg slotRoute 0x040 = v &&& 0x8000FFFF ∧ Only [.regs, .power] u t
        ∧ (bit v 31 = false → t.power = u.power)))
  ∧ (∀ v : Word, bits (v &&& 0x0000FFFF) 15 11 ≤ 31 ∧ bits (v &&& 0x0000FFFF) 10 6 ≤ 31 ∧ bits (v &&& 0x0000FFFF) 5 0 ≤ 63)
  ∧ (∀ (s u : State) (c : CoreId) (p : Prog) (ws : List Word), bit (u.reg slotRoute 0x040) 31 = false →
    ∃ (code port : Nat) (t b : State), code ≠ 0
      ∧ t = ralsoFault u port c.val p.task 0x0601 (roNode ws) (some (roAddr ws)) (BitVec.ofNat 32 code) (wd ws 0)
      ∧ b = ralsoFault u port c.val p.task 0x0601 (roNode ws) none (BitVec.ofNat 32 code) (wd ws 0)
      ∧ (Issues s opRwrite c.val u p ws → exec (.rwrite c) s = .next t)
      ∧ (Issues s opRread c.val u p ws → exec (.rread c) s = .next t)
      ∧ (Issues s opRadd c.val u p ws → exec (.radd c) s = .next t)
      ∧ (Issues s opRbell c.val u p ws → exec (.rbell c) s = .next b))

/-- WRITE_RECEIVE, READ_RECEIVE, ATOMIC_RECEIVE, DOORBELL_RECEIVE and DOORBELL_HANDOVER on the request of their class that is
served next. One whose bytes do not all exist is answered BAD_ADDRESS, one that no window admits DENIED. A block that has to wait
for its domain or its slot changes nothing else; a request that has had the slot of a block before its last goes on with the next.
With the last block a WRITE whose checks compare stores its bytes at its address and is answered OK; else it stores nothing and
is answered with the failing status. A READ takes each block as it is verified, and is answered with the bytes after the last. An
ATOMIC of good blocks adds each element once, in order: INT32 modulo 2^32, FP32 rounded, W64 with its arrival mark. No byte
outside the range changes. An admitted doorbell waits, and is handed over as the submission of its template, or answered
NO_TEMPLATE. -/
def Obligations.RequestsAreServed : Prop :=
  (∀ s : State, (nextReq s tWrite = none → exec .writeReceive s = .next s) ∧ (nextReq s tRead = none → exec .readReceive s = .next s)
    ∧ (nextReq s tAtomic = none → exec .atomicReceive s = .next s) ∧ (nextBell s = none → exec .doorbellReceive s = .next s))
  ∧ (∀ (s u : State) (o : OutPkt) (e : Entry),
    (e = .wait → u = s) → (∀ c, e = .answer c → u = ackWith s o c) → (∀ d, e = .wake d → u = startWake s d) → e ≠ .go →
    (nextReq s tWrite = some o → requestEntry s o 30 = e → exec .writeReceive s = .next u)
    ∧ (nextReq s tRead = some o → requestEntry s o 29 = e → exec .readReceive s = .next u)
    ∧ (nextReq s tAtomic = some o → requestEntry s o 28 = e → exec .atomicReceive s = .next u))
  ∧ (∀ (s : State) (o : OutPkt) (b : Nat),
    (rangeOk o.pkt.addr (reqLen o.pkt) false = false → requestEntry s o b = .answer 2)
    ∧ (reqLen o.pkt ≠ 0 → rangeOk o.pkt.addr (reqLen o.pkt) false = true → o.done = 0 →
      admitsRange s o.pkt.src b o.pkt.addr (reqLen o.pkt) = false → requestEntry s o b = .answer 1))
  ∧ (∀ (s u : State) (o : OutPkt) (a n : Nat), nextReq s tWrite = some o → requestEntry s o 30 = .go →
    (a, n) = blockPart o.pkt.addr (reqLen o.pkt) o.done → u = takeSlot s a (if n = 512 then 1 else 2) →
    (lastBlock o = false → exec .writeReceive s = .next (u.mapFabric (fun f => { f with
      local_ := f.local_.map (fun x => if x = o then { o with done := o.done + 1 } else x) })))
    ∧ (∀ c, lastBlock o = true → writeStatus s.mem o.pkt.addr o.pkt.data o.pkt.checks = c + 1 →
      exec .writeReceive s = .next (ackWith u o (c + 1)))
    ∧ (lastBlock o = true → writeStatus s.mem o.pkt.addr o.pkt.data o.pkt.checks = 0 →
      ∃ v, exec .writeReceive s = .next (ackWith v o 0) ∧ Only [.mem] u v ∧ (ackWith v o 0).mem = v.mem
        ∧ (∀ i < o.pkt.data.length, v.mem.read (o.pkt.addr + i) = o.pkt.data.getD i 0)
        ∧ (∀ a, (a < o.pkt.addr ∨ o.pkt.addr + o.pkt.data.length ≤ a) → v.mem.read a = s.mem.read a)))
  ∧ (∀ (s u : State) (o : OutPkt) (a n : Nat), nextReq s tRead = some o → requestEntry s o 29 = .go →
    (a, n) = blockPart o.pkt.addr (reqLen o.pkt) o.done → o.pkt.ptype = tRead → u = takeSlot s a 1 →
    (∀ w, s.mem.verify (a / 512) = .poisoned w → exec .readReceive s = .next (ackWith u o 4))
    ∧ (∀ x, s.mem.verify (a / 512) = .mismatch x → exec .readReceive s = .next (ackWith u o 3))
    ∧ (s.mem.verify (a / 512) = .good → lastBlock o = false → ∃ k, exec .readReceive s = .next (u.mapFabric (fun f => { f with
        local_ := f.local_.map (fun x => if x = o then { o with pkt := k, done := o.done + 1 } else x) }))
      ∧ k.data = o.pkt.data ++ (List.range n).map (fun i => s.mem.read (a + i)) ∧ k.addr = o.pkt.addr ∧ k.len = o.pkt.len)
    ∧ (s.mem.verify (a / 512) = .good → lastBlock o = true → ∃ k, exec .readReceive s = .next (respond (dropLocal u o) k)
      ∧ k.ptype = tReadData ∧ k.dest = o.pkt.src ∧ k.rtag = o.pkt.rtag ∧ k.addr = o.pkt.addr ∧ k.len = o.pkt.len
      ∧ k.data = o.pkt.data ++ (List.range n).map (fun i => s.mem.read (a + i))
      ∧ (respond (dropLocal u o) k).mem = s.mem))
  ∧ (∀ (s u : State) (o : OutPkt) (a m size stride n : Nat), nextReq s tAtomic = some o → size = (if o.pkt.opx = 0 then 12 else 4) →
    stride = (if o.pkt.opx = 0 then 16 else 4) → n = o.pkt.data.length / size → o.pkt.ptype = tAtomic →
    requestEntry s o 28 = .go → (a, m) = blockPart o.pkt.addr (n * stride) o.done → u = takeSlot s a (if m = 512 then 1 else 2) →
    (lastBlock o = false → exec .atomicReceive s = .next (u.mapFabric (fun f => { f with
      local_ := f.local_.map (fun x => if x = o then { o with done := o.done + 1 } else x) })))
    ∧ (lastBlock o = true → o.pkt.addr % stride ≠ 0 → exec .atomicReceive s = .next (ackWith u o 8))
    ∧ (∀ w, lastBlock o = true → o.pkt.addr % stride = 0 → (s.mem.verifyRange o.pkt.addr (n * stride)).1 = .poisoned w →
      exec .atomicReceive s = .next (ackWith u o 4))
    ∧ (lastBlock o = true → o.pkt.addr % stride = 0 → (s.mem.verifyRange o.pkt.addr (n * stride)).1 = .good →
      ∃ v, exec .atomicReceive s = .next (ackWith v o 0) ∧ Only [.mem] u v ∧ (ackWith v o 0).mem = v.mem
        ∧ (∀ a, (a < o.pkt.addr ∨ o.pkt.addr + n * stride ≤ a) → v.mem.read a = s.mem.read a)
        ∧ (∀ i < n, (o.pkt.opx = 0 → v.mem.words (o.pkt.addr + 16 * i) 3 =
              ({ W64.add ((w64List (s.mem.words (o.pkt.addr + 16 * i) 3)).headD W64.zero)
                  ((w64List (leWords ((o.pkt.data.drop (12 * i)).take 12))).headD W64.zero) with arrival := true }).words)
          ∧ (o.pkt.opx = 1 → v.mem.word (o.pkt.addr + 4 * i)
              = fAdd (s.mem.word (o.pkt.addr + 4 * i)) (leWord ((o.pkt.data.drop (4 * i)).take 4)))
          ∧ (2 ≤ o.pkt.opx → v.mem.word (o.pkt.addr + 4 * i)
              = s.mem.word (o.pkt.addr + 4 * i) + leWord ((o.pkt.data.drop (4 * i)).take 4)))))
  ∧ (∀ (s : State) (o : OutPkt), nextBell s = some o →
    (admitsBell s o.pkt.src o.pkt.opx = false → exec .doorbellReceive s = .next (ackWith s o 1))
    ∧ (admitsBell s o.pkt.src o.pkt.opx = true → s.hurdled .module = true → exec .doorbellReceive s = .next (ackWith s o 5))
    ∧ (admitsBell s o.pkt.src o.pkt.opx = true → s.hurdled .module = false → exec .doorbellReceive s
        = .next ((dropLocal s o).mapFabric (fun f => { f with bells := f.bells ++ [(o.pkt.src, o.pkt.rtag, o.pkt.opx)] }))))
  ∧ (∀ s : State, s.fabric.bells = [] → exec .doorbellHandover s = .next s)
  ∧ (∀ (s u : State) (src rtag : BitVec 16) (n : Nat) (rest : List (BitVec 16 × BitVec 16 × Nat)) (k : Nat → Packet),
    s.fabric.bells = (src, rtag, n) :: rest → u = s.mapFabric (fun f => { f with bells := rest }) →
    k = (fun st => ackOf u { Packet.zero with src := src, rtag := rtag } st) →
    (netRuns s = false → exec .doorbellHandover s = .next (startWake s 26))
    ∧ (netRuns s = true → (∀ x, Tbl.get s.drover.templates n = some x → (s.queue x.queue).enable = false) →
      exec .doorbellHandover s = .next (respond (u.bump slotDrvr 0x070 1) (k 6)))
    ∧ (∀ x, netRuns s = true → Tbl.get s.drover.templates n = some x → (s.queue x.queue).enable = true →
      exec .doorbellHandover s = .next (respond (u.mapDrover (fun d => { d with cmds := d.cmds ++ [tmplCmd s x] })) (k 0))))

/-- READ_DATA_RECEIVE, ACK_RECEIVE, RALSO_TIMEOUT, MC_BLOCK_RECEIVE, MC_MARKER_RECEIVE and MCAST_PRUNE. A response without a
request is discarded. READ_DATA whose carried values compare is handed to its channel in order; one that does not aborts with
CHECK_MISMATCH and hands nothing on. ACK with OK ends its request, any other status aborts with RALSO_REMOTE. A request whose
timer has ended leaves the outstanding ones and aborts with RALSO_TIMEOUT, not before, and not before it has been sent. A block
for a group whose head has room enters its ring; while there is none it waits, and once it has waited MCAST_STALL fc its branch is
pruned; a block or marker beyond the sequence detaches the head. A group without a head is counted in NO_ROUTE. A block that has
waited MCAST_STALL fc for credit takes its group's blocks of that generation off the port, and the branch is pruned, once. -/
def Obligations.ResponsesAndMulticast : Prop :=
  (∀ s : State, (localOf s tReadData = none → exec .readDataReceive s = .next s) ∧ (localOf s tAck = none → exec .ackReceive s = .next s)
    ∧ (localOf s tMcBlock = none → exec .mcBlockReceive s = .next s) ∧ (localOf s tMcMarker = none → exec .mcMarkerReceive s = .next s))
  ∧ (∀ (s : State) (o : OutPkt), pendOf s o.pkt.rtag = none →
    (localOf s tReadData = some o → exec .readDataReceive s = .next (dropLocal s o))
    ∧ (localOf s tAck = some o → exec .ackReceive s = .next (dropLocal s o)))
  ∧ (∀ (s u : State) (o : OutPkt) (p : Pending), pendOf s o.pkt.rtag = some p → u = dropPend (dropLocal s o) p →
    (localOf s tAck = some o →
      (o.pkt.opx = 0 → exec .ackReceive s = .next u)
      ∧ (o.pkt.opx ≠ 0 → exec .ackReceive s = .next (ralsoFault u p.port p.core p.task 0x0602 p.node
          (if p.kind = 4 then none else some p.addr) (BitVec.ofNat 32 o.pkt.opx) (p.rtag.setWidth 32))))
    ∧ (localOf s tReadData = some o →
      (∀ x, carriedBad p.addr o.pkt = some x →
        exec .readDataReceive s = .next (taskFault ((u.bump (slotStrm p.core) 0x050 1).pulse (slotStrm p.core) 3) (slotStrm p.core)
          p.task (some p.core) 0x0002 (some p.addr) (BitVec.ofNat 32 p.ch) x))
      ∧ (carriedBad p.addr o.pkt = none → p.kind ≠ 2 → exec .readDataReceive s = .next (pull (deliver u p o.pkt.data) p.core))
      ∧ (carriedBad p.addr o.pkt = none → p.kind = 2 → exec .readDataReceive s = .next (pull (caughtUp u p o.pkt) p.core))))
  ∧ (∀ (s : State) (p : Pending) (bs : List Byte), ∃ l, deliver s p bs = s.mapFabric (fun f => { f with inbox := l })
      ∧ (∀ x ∈ s.fabric.inbox, ¬(x.core = p.core ∧ x.ch = p.ch ∧ x.task = p.task) → x ∈ l)
      ∧ (∃ x ∈ l, x.core = p.core ∧ x.ch = p.ch ∧ x.task = p.task ∧ ∃ old, x.bytes = old ++ bs))
  ∧ (∀ (s : State) (r : BitVec 16), pendOf s r = none → exec (.ralsoTimeout r) s = .next s)
  ∧ (∀ (s : State) (r : BitVec 16) (p : Pending), pendOf s r = some p →
    (p.ends = none → exec (.ralsoTimeout r) s = .next s)
    ∧ (∀ e, p.ends = some e →
      (s.now < e → exec (.ralsoTimeout r) s = .next s)
      ∧ (e ≤ s.now → exec (.ralsoTimeout r) s = .next (ralsoFault ((dropPend s p).pulse (slotLink p.port) 0) p.port p.core p.task
          0x0603 p.node (if p.kind = 4 then none else some p.addr) (BitVec.ofNat 32 (pendType p)) (p.rtag.setWidth 32)))))
  ∧ (∀ (s : State) (o : OutPkt), localOf s tMcBlock = some o →
    (headOfGroup s o.pkt.group = none → exec .mcBlockReceive s = .next (countNoRoute (dropLocal s o)))
    ∧ (∀ c i v, headOfGroup s o.pkt.group = some (c, i, v) →
      (s.hurdled (.core (coreOf c)) = true → exec .mcBlockReceive s = .next (dropLocal s o))
      ∧ (s.hurdled (.core (coreOf c)) = false →
        ((v.ringSize ≤ v.ring.length ∨ portFree s (2 * c) = false) →
          ((∀ t, o.waitAt = some t → s.now < t + mcStall s) → exec .mcBlockReceive s = .next s)
          ∧ (∀ t, o.waitAt = some t → t + mcStall s ≤ s.now →
            exec .mcBlockReceive s = .next (pruneBranch s o.pkt.group o.pkt.gen 6)))
        ∧ (∀ (b : ChBlock) (h : Nat), v.ring.length < v.ringSize → portFree s (2 * c) = true →
          h = (if v.recvGen = o.pkt.gen ∧ v.wr ≠ 0 then v.recvSeq + 1 else 0) →
          b = { entry := 0, gen := o.pkt.gen, seq := o.pkt.seq, addr := o.pkt.addr, data := o.pkt.data, check := wd o.pkt.checks 0,
                poison := [], src := (if o.pkt.seq = 0 then some ⟨o.pkt.addr, none⟩ else none), sent := false, used := false } →
          (v.detached = false → (o.pkt.seq = 0 ∨ o.pkt.seq = h) →
            exec .mcBlockReceive s = .next (ringPut (dropLocal s o) c i v b))
          ∧ (v.detached = false → o.pkt.seq ≠ 0 → o.pkt.seq ≠ h →
            exec .mcBlockReceive s = .next (detachMember (dropLocal s o) c i v o.pkt.gen h))
          ∧ (v.detached = true → rejoins (dropLocal s o) v b = true →
            exec .mcBlockReceive s = .next (ringPut (dropLocal s o) c i (v.attach o.pkt.gen) b))
          ∧ (v.detached = true → rejoins (dropLocal s o) v b = false → exec .mcBlockReceive s = .next (dropLocal s o))))))
  ∧ (∀ (s : State) (o : OutPkt) (m : ChMark), localOf s tMcMarker = some o → m = ⟨o.pkt.opx == 2, o.pkt.gen, o.pkt.seq, false⟩ →
    (headOfGroup s o.pkt.group = none → exec .mcMarkerReceive s = .next (countNoRoute (dropLocal s o)))
    ∧ (∀ c i v, headOfGroup s o.pkt.group = some (c, i, v) →
      (s.hurdled (.core (coreOf c)) = true → exec .mcMarkerReceive s = .next (dropLocal s o))
      ∧ (∀ (u : State) (h : Nat), s.hurdled (.core (coreOf c)) = false →
        u = forwardMark (takeMark (dropLocal s o) c i v m) c v m →
        h = (if v.recvGen = m.gen ∧ v.wr ≠ 0 then v.recvSeq + 1 else 0) →
        ((m.n ≤ h ∨ v.detached = true ∨ v.past m.gen = true) → exec .mcMarkerReceive s = .next u)
        ∧ (∀ w, h < m.n → v.detached = false → v.past m.gen = false → (u.core c).chSlot i = some w →
          exec .mcMarkerReceive s = .next (detachMember u c i w m.gen h)))))
  ∧ (∀ (s : State) (p : PortId) (o : OutPkt),
    (s.port p.val).outQ.find? (fun o => o.pkt.ptype == tMcBlock && stalledOut s o) = some o →
    (pruned s o.pkt.group o.pkt.gen p.val = true → exec (.mcastPrune p) s = .next s)
    ∧ (pruned s o.pkt.group o.pkt.gen p.val = false → ∃ t, exec (.mcastPrune p) s = .next (settle t) ∧ Only [.regs, .fabric] s t
      ∧ t.fabric.prunes = s.fabric.prunes ++ [(o.pkt.group, o.pkt.gen, p.val)]
      ∧ t.port p.val = { s.port p.val with outQ := (s.port p.val).outQ.filter (fun x =>
          !(x.pkt.ptype == tMcBlock && x.pkt.group == o.pkt.group && x.pkt.gen == o.pkt.gen && x.sent == 0)) }
      ∧ (∀ q, q ≠ p.val → t.port q = s.port q)
      ∧ t.reg slotRoute 0x064 = s.reg slotRoute 0x064 + 1))
  ∧ (∀ (s : State) (p : PortId), (∀ o ∈ (s.port p.val).outQ, o.pkt.ptype = tMcBlock → ∀ t, o.waitAt = some t → s.now < t + mcStall s) →
    exec (.mcastPrune p) s = .next s)

/-- CODEWORD_RECEIVE, CONTROL_FLIT_RECEIVE, NAK_RECEIVE, RETRAIN_TIMEOUT, LINK_TRAIN, TRAINING_COMPLETE, LINK_DOWN and
PEER_STARTS_TRAINING. A link that is not UP takes no codeword, control flit or NAK. The codeword in sequence, corrected or good, is
taken flit by flit; one that FEC cannot correct, that is out of sequence, or that holds a bad flit is discarded and NAKed. A NAK
drops the codewords before the one named and sends the rest again; the eighth of one codeword puts the link into RETRAIN. A
control flit returns credits and acknowledges. A retrain that has lasted 100 µs, or a peer that stops signalling, takes the link
DOWN: its queued packets are dropped and its replay buffer emptied. TRAIN with ENABLE starts training; ENABLE 0 holds the link
DOWN. When training completes, the link is UP if the peer is the right one, else MISWIRED; after a retrain it sends again what has
not been received. -/
def Obligations.LinkLayer : Prop :=
  (∀ (s : State) (p : PortId), (s.port p.val).st ≠ .up → (∀ e w, exec (.codewordReceive p e w) s = .next s)
    ∧ (∀ f, exec (.controlFlitReceive p f) s = .next s) ∧ (∀ n, exec (.nakReceive p n) s = .next s))
  ∧ (∀ (s : State) (p : PortId) (w : Codeword), (s.port p.val).st = .up → seqOf w = (s.port p.val).rxSeq →
    (∀ f ∈ w.flits, flitGood f = true) →
    exec (.codewordReceive p .clean w) s = .next (sendControl (w.flits.foldl (fun u f => takeFlit u p.val f)
        (s.setPort p.val { s.port p.val with rxSeq := (s.port p.val).rxSeq + 1, discard := false, rxNaks := 0 })) p.val)
    ∧ exec (.codewordReceive p .corrected w) s = .next (sendControl (w.flits.foldl (fun u f => takeFlit u p.val f)
        ((s.bump (slotLink p.val) 0x058 1).setPort p.val
          { s.port p.val with rxSeq := (s.port p.val).rxSeq + 1, discard := false, rxNaks := 0 })) p.val))
  ∧ (∀ (s : State) (p : PortId) (w : Codeword), (s.port p.val).st = .up → (s.port p.val).discard = false →
    (s.port p.val).rxNaks < 7 → (seqOf w ≠ (s.port p.val).rxSeq ∨ ∃ f ∈ w.flits, flitGood f = false) →
    ∃ t, exec (.codewordReceive p .clean w) s = .next t ∧ Only [.regs, .fabric, .out] s t
      ∧ t.port p.val = { s.port p.val with discard := true, rxNaks := (s.port p.val).rxNaks + 1 }
      ∧ t.out = s.out ++ [.control p.val (mkFlit false (controlWords true false (s.port p.val).rxSeq []))])
  ∧ (∀ (s : State) (p : PortId) (w : Codeword), (s.port p.val).st = .up → (s.port p.val).discard = true →
    seqOf w ≠ (s.port p.val).rxSeq → exec (.codewordReceive p .clean w) s = .next s
      ∧ exec (.codewordReceive p .uncorrectable w) s = .next (s.bump (slotLink p.val) 0x05C 1))
  ∧ (∀ (s u : State) (p : PortId) (q : BitVec 12) (n : Nat) (l : List Codeword), (s.port p.val).st = .up →
    n = (if (s.port p.val).nakSeq = q ∧ (s.port p.val).naks ≠ 0 then (s.port p.val).naks + 1 else 1) →
    l = ackedTo (s.port p.val).replay (q - 1) →
    u = ((s.setPort p.val { s.port p.val with replay := l, nakSeq := q, naks := n }).bump (slotLink p.val) 0x064 1).pulse
      (slotLink p.val) 1 →
    (n < 8 → ∃ t, exec (.nakReceive p q) s = .next t ∧ Only [.out] u t ∧ t.out = u.out ++ l.map (fun w => Out.codeword p.val w))
    ∧ (8 ≤ n → exec (.nakReceive p q) s = .next (startRetrain u p.val)))
  ∧ (∀ (s : State) (p : PortId) (f : Flit), (s.port p.val).st = .up →
    (flitGood f = false → exec (.controlFlitReceive p f) s = .next (s.bump (slotLink p.val) 0x060 1))
    ∧ (flitGood f = true → f.data = true → exec (.controlFlitReceive p f) s = .next s)
    ∧ (flitGood f = true → f.data = false → bits (wd f.words.toList 0) 31 28 = 1 → bit (wd f.words.toList 0) 26 = false →
      ∃ t, exec (.controlFlitReceive p f) s = .next t ∧ Only [.fabric] s t
        ∧ t.port p.val = { s.port p.val with
            naks := 0, replay := ackedTo (s.port p.val).replay ((wd f.words.toList 0).setWidth 12),
            credits := if bit (wd f.words.toList 0) 27 then fullCredits else ((s.port p.val).credits.zip ((List.range 7).map (fun i =>
              bits (wd f.words.toList (1 + i / 4)) (8 * (i % 4) + 7) (8 * (i % 4))))).map (fun x => x.1 + x.2) }))
  ∧ (∀ (s : State) (p : PortId),
    ((s.port p.val).st = .retrain → (s.port p.val).trainAt / 40 + 5000 ≤ s.ac → exec (.retrainTimeout p) s = .next (linkFalls s p.val))
    ∧ (((s.port p.val).st ≠ .retrain ∨ s.ac < (s.port p.val).trainAt / 40 + 5000) → exec (.retrainTimeout p) s = .next s)
    ∧ ((s.port p.val).st ∈ [LinkSt.up, LinkSt.retrain, LinkSt.miswired] → exec (.linkDown p) s = .next (linkFalls s p.val))
    ∧ ((s.port p.val).st ∉ [LinkSt.up, LinkSt.retrain, LinkSt.miswired] → exec (.linkDown p) s = .next s)
    ∧ (linkFalls s p.val).port p.val = { s.port p.val with
        st := .down, replay := [], outQ := ((linkFalls s p.val).port p.val).outQ
        rx := ((linkFalls s p.val).port p.val).rx, freed := ((linkFalls s p.val).port p.val).freed, partial_ := none })
  ∧ (∀ (s : State) (p : PortId), ((s.port p.val).st = .down → bit (s.reg (slotLink p.val) 0x008) 26 = true → portRuns s p.val = true →
      ∃ t, exec (.peerStartsTraining p) s = .next t ∧ Only [.regs, .fabric] s t
        ∧ t.port p.val = { s.port p.val with st := .training, trainAt := s.now })
    ∧ (((s.port p.val).st ≠ .down ∨ bit (s.reg (slotLink p.val) 0x008) 26 = false ∨ portRuns s p.val = false) →
      exec (.peerStartsTraining p) s = .next s))
  ∧ (∀ (s u : State) (f : FuncId) (p : PortId) (v : Word), Reaches s f (regAt (slotLink p.val) 0x008) →
    u = s.fromHost.setReg (slotLink p.val) 0x008 (v &&& 0x84000000) →
    (s.fromHost.hurdled (.port p) = false → (s.fromHost.dom (16 + p.val)).st = .run →
      (bit v 26 = true → exec (.linkTrain f p v) s = .next (evtAfterWrite (startTraining u p.val) (slotLink p.val)))
      ∧ (bit v 26 = false → (s.port p.val).st = .down → exec (.linkTrain f p v) s = .next (evtAfterWrite u (slotLink p.val)))
      ∧ (bit v 26 = false → (s.port p.val).st ≠ .down →
        exec (.linkTrain f p v) s = .next (evtAfterWrite (linkFalls u p.val) (slotLink p.val))))
    ∧ (bit v 26 = true → s.fromHost.hurdled (.port p) = true →
      exec (.linkTrain f p v) s = .next (evtAfterWrite (u.strobeRefused (slotLink p.val) 0x008 27 1) (slotLink p.val)))
    ∧ (bit v 26 = true → s.fromHost.hurdled (.port p) = false → (s.fromHost.dom (16 + p.val)).st ≠ .run →
      exec (.linkTrain f p v) s = .next (evtAfterWrite (u.strobeRefused (slotLink p.val) 0x008 27 2) (slotLink p.val))))
  ∧ (∀ (s : State) (p : PortId) (r : TrainResult), (s.port p.val).st = .training →
    (∃ t, exec (.trainingComplete p (some r)) s = .next t ∧ Only [.fabric, .power] s t
      ∧ (t.port p.val).st = (if peerRight s p.val r then .up else .miswired) ∧ (t.port p.val).peer = r.coord
      ∧ (t.port p.val).credits = fullCredits ∧ (t.port p.val).replay = [] ∧ (t.port p.val).txSeq = 0 ∧ (t.port p.val).rxSeq = 0
      ∧ (t.port p.val).rx = (s.port p.val).rx.map (fun x => { x with flits := 0 }) ∧ (t.port p.val).outQ = (s.port p.val).outQ ∧ (∀ q, q ≠ p.val → t.port q = s.port q))
    ∧ exec (.trainingComplete p none) s = .next (s.setPort p.val { s.port p.val with st := .down }))
  ∧ (∀ (s : State) (p : PortId) (r : TrainResult) (l : List Codeword), (s.port p.val).st = .retrain →
    l = ackedTo (s.port p.val).replay ((s.port p.val).nakSeq - 1) →
    (∃ t, exec (.trainingComplete p (some r)) s = .next t ∧ Only [.fabric, .out] s t
      ∧ (t.port p.val).st = (if peerRight s p.val r then .up else .miswired)
      ∧ (peerRight s p.val r = true → (t.port p.val).replay = l ∧ t.out = s.out ++ l.map (fun w => Out.codeword p.val w))
      ∧ (peerRight s p.val r = false → t.out = s.out) ∧ (t.port p.val).rx = (s.port p.val).rx
      ∧ (t.port p.val).credits = (s.port p.val).credits ∧ (∀ q, q ≠ p.val → t.port q = s.port q))
    ∧ exec (.trainingComplete p none) s = .next s)
  ∧ (∀ (s : State) (p : PortId) (r : Option TrainResult), (s.port p.val).st ∉ [LinkSt.training, LinkSt.retrain] →
    exec (.trainingComplete p r) s = .next s)

/-- MGMT_READ, MGMT_WRITE, MGMT_TALLY_READ, MGMT_RESULT_RECEIVE, NEIGHBOUR, NEIGHBOUR_TIMEOUT and RT_DATA_ACCESS. With no such
packet waiting nothing happens. A request that FAB_MGMT does not admit is answered DENIED; a WRITE also while WRITE_EN is 0; one
whose registers are out of reach is answered with status 2. A TALLY_READ of a record held is answered with its words. A RESULT
that matches no request is dropped; one that matches ends the NEIGHBOUR message. A good NEIGHBOUR message puts its packet on its
port and waits; 100 µs without a RESULT end it. A write of RT_DATA sets the entry at RT_INDEX, a read shows it, and with AUTOINC
INDEX moves on by one modulo 4,096, but in a cycle in which software has written RT_INDEX. -/
def Obligations.NeighbourManagement : Prop :=
  (∀ s : State, (mgmtPacket s [1] = none → exec .mgmtRead s = .next s) ∧ (mgmtPacket s [2] = none → exec .mgmtWrite s = .next s)
    ∧ (mgmtPacket s [3] = none → exec .mgmtTallyRead s = .next s) ∧ (mgmtPacket s [8] = none → exec .mgmtResultReceive s = .next s))
  ∧ (∀ (s u : State) (o : OutPkt), u = dropLocal s o → mgmtAdmits s o.pkt.src = false →
    (mgmtPacket s [1] = some o → exec .mgmtRead s = .next (sendResult u o.pkt 1 []))
    ∧ (mgmtPacket s [2] = some o → exec .mgmtWrite s = .next (sendResult u o.pkt 1 []))
    ∧ (mgmtPacket s [3] = some o → exec .mgmtTallyRead s = .next (sendResult u o.pkt 1 [])))
  ∧ (∀ (s u : State) (o : OutPkt), u = dropLocal s o → mgmtAdmits s o.pkt.src = true →
    (∀ r, mgmtPacket s [3] = some o → recordOf s (BitVec.ofNat 32 o.pkt.addr) = some r →
      exec .mgmtTallyRead s = .next (sendResult u o.pkt 0 (wordsBytes r.words)))
    ∧ (mgmtPacket s [3] = some o → recordOf s (BitVec.ofNat 32 o.pkt.addr) = none →
      exec .mgmtTallyRead s = .next (sendResult u o.pkt (loadStatus u (BitVec.ofNat 32 o.pkt.addr)) []))
    ∧ (mgmtPacket s [1] = some o → o.pkt.len = 4 → o.pkt.addr % 4 = 0 → smbPage (o.pkt.addr / 0x1000) = true →
      exec .mgmtRead s = .next (sendResult (readEffect u o.pkt.addr) o.pkt 0 (leBytes 4 (regRead u 0 o.pkt.addr).toNat)))
    ∧ (mgmtPacket s [1] = some o → (o.pkt.len % 4 ≠ 0 ∨ o.pkt.len < 4 ∨ 32 < o.pkt.len) →
      exec .mgmtRead s = .next (sendResult u o.pkt 2 []))
    ∧ (mgmtPacket s [2] = some o → bit (s.reg slotMgmt 0x254) 30 = false → exec .mgmtWrite s = .next (sendResult u o.pkt 1 []))
    ∧ (mgmtPacket s [2] = some o → bit (s.reg slotMgmt 0x254) 30 = true → o.pkt.len = 4 → extReach o.pkt.addr = true →
      exec .mgmtWrite s = .next (sendResult (extPulse (extWrite u o.pkt.addr (wd (leWords o.pkt.data) 0))) o.pkt 0 []))
    ∧ (mgmtPacket s [2] = some o → bit (s.reg slotMgmt 0x254) 30 = true →
      (o.pkt.len % 4 ≠ 0 ∨ o.pkt.len < 4 ∨ 32 < o.pkt.len ∨ extReach o.pkt.addr = false) →
      exec .mgmtWrite s = .next (sendResult u o.pkt 2 [])))
  ∧ (∀ (s : State) (o : OutPkt), mgmtPacket s [8] = some o →
    ((∀ n, s.sharal.neigh = some n → n.rtag ≠ o.pkt.rtag) → exec .mgmtResultReceive s = .next (dropLocal s o))
    ∧ (∀ n m, s.sharal.neigh = some n → s.sharal.mbox = some m → n.rtag = o.pkt.rtag →
      (o.pkt.gen = 0 → nbOp m = 1 → exec .mgmtResultReceive s = .next (mbAnswer ((dropLocal s o).mapSharal (fun h => { h with
          neigh := none })) m 0 (leWords (o.pkt.data.take (nbLen m)))))
      ∧ (o.pkt.gen ≠ 0 → nbOp m ≠ 3 → exec .mgmtResultReceive s = .next (mbAnswer ((dropLocal s o).mapSharal (fun h => { h with
          neigh := none })) m 7 [BitVec.ofNat 32 o.pkt.gen]))))
  ∧ (∀ (s : State) (m : Mbox), s.sharal.mbox = some m → m.code = 7 → m.rsp = none →
    (s.sharal.neigh ≠ none → exec .neighbour s = .next s)
    ∧ (s.sharal.neigh = none → nbBad m = true → exec .neighbour s = .next (mbAnswer s m 1 []))
    ∧ (s.sharal.neigh = none → nbBad m = false → portUp s (nbPort m) = false → exec .neighbour s = .next (mbAnswer s m 8 []))
    ∧ (s.sharal.neigh = none → nbBad m = false → portUp s (nbPort m) = true → ∃ t, exec .neighbour s = .next t
      ∧ Only [.fabric, .sharal] s t ∧ t.sharal.neigh = some ⟨s.fabric.rtag, s.now⟩ ∧ t.fabric.rtag = s.fabric.rtag + 1
      ∧ (t.port (nbPort m)).outQ = (s.port (nbPort m)).outQ ++ [⟨nbPacket s m, ⟨none, s.fabric.stamp, (nbPacket s m).flits⟩, s.now, 0, none, 0⟩] ∧ t.sharal.mbox = some m))
  ∧ (∀ s : State, ((s.sharal.neigh = none ∨ s.sharal.mbox = none) → exec .neighbourTimeout s = .next s)
    ∧ (∀ n m, s.sharal.neigh = some n → s.sharal.mbox = some m →
      (s.ac < n.since / 40 + 5000 → exec .neighbourTimeout s = .next s)
      ∧ (n.since / 40 + 5000 ≤ s.ac →
        exec .neighbourTimeout s = .next (mbAnswer (s.mapSharal (fun h => { h with neigh := none })) m 8 []))))
  ∧ (∀ (s : State) (r : Requester) (v : Word), Arrives s r (regAt slotRoute 0x054) →
    ∃ t, exec (.rtDataAccess r (some v)) s = .next (reported r t) ∧ Only [.regs, .fabric] (arriving r s) t
      ∧ routeEntry t (bits (s.reg slotRoute 0x050) 11 0) = v &&& 0xC00000FF
      ∧ (∀ i, i ≠ bits (s.reg slotRoute 0x050) 11 0 → routeEntry t i = routeEntry s i)
      ∧ bits (t.reg slotRoute 0x050) 11 0 = (if bit (s.reg slotRoute 0x050) 31 && !s.soft.contains (regAt slotRoute 0x050) then (bits (s.reg slotRoute 0x050) 11 0 + 1) % 4096
          else bits (s.reg slotRoute 0x050) 11 0))
  ∧ (∀ (s : State) (f : FuncId), ReadReaches s f (regAt slotRoute 0x054) → s.fromHost.dstate slotRoute < 2 →
    ∃ u, exec (.rtDataAccess (.func f) none) s = .next (State.toHost u (.readData f.val
        (leBytes 4 (routeEntry s (bits (s.reg slotRoute 0x050) 11 0)).toNat)))
      ∧ u = rtAdvance s.fromHost)

/-- KEY_SEL_WRITE and KEY_SEL_ERASE. When WRITE is strobed for slots 1 to 31 and KEY_ATTR grants TENANT with a tenant of 0, or
MGMT or CLEAR_LOG on a function other than 0, every slot keeps its key and KEY_ATTR_BAD is recorded with the slot and KEY_ATTR;
otherwise the slot takes KEY_DATA and KEY_ATTR and no other slot changes. ERASE empties its slot. A write or erase lets the
slot's nonces lapse and closes its sessions, and a write clears KEY_DATA. That a strobe for slot 0 is refused is the model's
choice (log entry 23). -/
def Obligations.KeySlotsKeepTheirRules : Prop :=
  (∀ (s u : State) (f : FuncId) (v a : Word), Reaches s f (regAt slotHost 0x800) → bit v 30 = false →
    u = s.fromHost.setReg slotHost 0x800 (v &&& 0x1F) → a = s.reg slotHost 0x804 →
    (bits v 4 0 ≠ 0 → ((bits a 23 16 = 0 ∧ bit a 24 = true) ∨ ((bit a 25 = true ∨ bit a 26 = true) ∧ bits a 7 0 ≠ 0)) →
      ∃ t, exec (.keySelWrite f v) s
          = .next (State.fault t slotHost { code := 0x0704, d0 := BitVec.ofNat 32 (bits v 4 0), d1 := a })
        ∧ Only [.regs] u t ∧ t.host.keys = s.host.keys ∧ (∀ k < 8, t.reg slotHost (0x820 + 4 * k) = 0))
    ∧ (bits v 4 0 ≠ 0 → ¬((bits a 23 16 = 0 ∧ bit a 24 = true) ∨ ((bit a 25 = true ∨ bit a 26 = true) ∧ bits a 7 0 ≠ 0)) →
      ∃ w, exec (.keySelWrite f v) s = .next (closeWhere w 2 (fun x => x.slot == bits v 4 0)) ∧ Only [.regs, .host] u w
        ∧ Tbl.get w.host.keys (bits v 4 0) = some ⟨wordsBytes ((List.range 8).map (fun k => s.reg slotHost (0x820 + 4 * k))),
            bits a 23 16, BitVec.ofNat 3 (bits a 26 24), bits a 7 0⟩
        ∧ (∀ k, k ≠ bits v 4 0 → Tbl.get w.host.keys k = Tbl.get s.host.keys k)
        ∧ w.host.nonces = s.host.nonces.filter (fun n => n.2.slot != bits v 4 0) ∧ w.host.sessions = s.host.sessions
        ∧ (∀ k < 8, w.reg slotHost (0x820 + 4 * k) = 0))
    ∧ (bits v 4 0 = 0 → exec (.keySelWrite f v) s = .next (u.strobeRefused slotHost 0x800 31 3)))
  ∧ (∀ (s u : State) (f : FuncId) (v : Word), Reaches s f (regAt slotHost 0x800) → bit v 31 = false →
    u = s.fromHost.setReg slotHost 0x800 (v &&& 0x1F) →
    (bits v 4 0 ≠ 0 → ∃ w, exec (.keySelErase f v) s = .next (closeWhere w 2 (fun x => x.slot == bits v 4 0)) ∧ Only [.host] u w
        ∧ Tbl.get w.host.keys (bits v 4 0) = none ∧ (∀ k, k ≠ bits v 4 0 → Tbl.get w.host.keys k = Tbl.get s.host.keys k)
        ∧ w.host.nonces = s.host.nonces.filter (fun n => n.2.slot != bits v 4 0) ∧ w.host.sessions = s.host.sessions)
    ∧ (bits v 4 0 = 0 → exec (.keySelErase f v) s = .next (u.strobeRefused slotHost 0x800 30 3)))
  ∧ (∀ (s : State) (cause n : Nat) (p : Session → Bool) (x : Session), (closeWhere s cause p).host.keys = s.host.keys
    ∧ (Tbl.get s.host.sessions n = some x → p x = true →
        Tbl.get (closeWhere s cause p).host.sessions n = some { x with closing := true })
    ∧ (Tbl.get s.host.sessions n = some x → p x = false → (∀ y, (n, y) ∈ s.host.sessions → y = x) →
        Tbl.get (closeWhere s cause p).host.sessions n = some x))

/-- CHALLENGE, ANSWER, NONCE_LAPSE, LOCK_END, CLOSE, SESSION_NUMBER_FREE, ATTACH and DETACH. A CHALLENGE that the slot does not
permit shows its code; otherwise it issues four free words as the function's nonce. An ANSWER uses the nonce up: with none, or one
of 1 s or more, it shows STALE; a wrong one adds a failure, the eighth locks the slot for 60 s; a right one opens the lowest free
session with the slot's tenant and clears the count. CLOSE needs the session's own function or a management function: its queues
are detached and its commands and templates go. A number is free again when no instance of its session is left. ATTACH and DETACH
act on queues of the function's range. (The order of the codes is log entry 21, DETACH of an unattached queue log entry 22.) -/
def Obligations.SessionsOpenAndClose : Prop :=
  (∀ (s u : State) (f : FuncId) (v : Word) (slot : Nat) (priv : BitVec 3), Reaches s f (regAt slotHost 0x040) → bit v 30 = false →
    slot = bits v 12 8 → priv = BitVec.ofNat 3 (bits v 18 16) →
    u = (s.fromHost.setBank_ f.val 0x040 (v &&& 0x00071F00)).mapHost (fun h => { h with nonces := Tbl.del h.nonces f.val }) →
    (∀ c, challengeCode s f.val slot priv = some c → exec (.challenge f v) s = .next (sessStatus u f.val c 0))
    ∧ (challengeCode s f.val slot priv = none → ∃ t, exec (.challenge f v) s = .next t ∧ Only [.host, .free] u t
      ∧ t.free = s.free + 1
      ∧ Tbl.get t.host.nonces f.val = some ⟨(List.range 4).map (fun k => Config.nonceWord s.free k), slot, priv, s.ac⟩
      ∧ (∀ k < 4, t.bank_ f.val (0x048 + 4 * k) = Config.nonceWord s.free k) ∧ t.bank_ f.val 0x044 = 0x20000000
      ∧ t.host.sessions = s.host.sessions ∧ t.host.keys = s.host.keys))
  ∧ (∀ (s u : State) (f : FuncId) (v : Word), Reaches s f (regAt slotHost 0x040) → bit v 31 = false →
    u = (s.fromHost.setBank_ f.val 0x040 (v &&& 0x00071F00)).mapHost (fun h => { h with nonces := Tbl.del h.nonces f.val }) →
    (Tbl.get s.host.nonces f.val = none → exec (.answer f v) s = .next (sessStatus u f.val 6 0))
    ∧ (∀ n, Tbl.get s.host.nonces f.val = some n →
      (n.at_ + 50000000 ≤ s.ac → exec (.answer f v) s = .next (sessStatus u f.val 6 0))
      ∧ (s.ac < n.at_ + 50000000 → slotLocked s n.slot = true → exec (.answer f v) s = .next (sessStatus u f.val 5 0))
      ∧ (s.ac < n.at_ + 50000000 → slotLocked s n.slot = false →
        (∀ k, Tbl.get s.host.keys n.slot = some k → hmac256 k.key (challengeMsg f.val n) ≠ answerBytes s f.val) →
        (failCount s n.slot < 7 → ∃ t, exec (.answer f v) s = .next t ∧ Only [.evts, .host] u t ∧ t.bank_ f.val 0x044 = 0x40000000
          ∧ failCount t n.slot = failCount s n.slot + 1 ∧ slotLocked t n.slot = false ∧ t.host.sessions = s.host.sessions)
        ∧ (7 ≤ failCount s n.slot → ∃ w, exec (.answer f v) s = .next (mandatory w 0x1007
              [BitVec.ofNat 32 n.slot, BitVec.ofNat 32 f.val]) ∧ Only [.evts, .host] u w ∧ w.bank_ f.val 0x044 = 0x40000000
          ∧ Tbl.get w.host.locks n.slot = some (s.ac + 3000000000) ∧ w.host.sessions = s.host.sessions))
      ∧ (∀ k x, s.ac < n.at_ + 50000000 → slotLocked s n.slot = false → Tbl.get s.host.keys n.slot = some k →
        hmac256 k.key (challengeMsg f.val n) = answerBytes s f.val → freeSession s = some x →
        ∃ t, exec (.answer f v) s = .next t ∧ Only [.host] u t
          ∧ Tbl.get t.host.sessions x = some ⟨f.val, n.priv, n.slot, k.tenant, false⟩
          ∧ (∀ y, y ≠ x → Tbl.get t.host.sessions y = Tbl.get s.host.sessions y)
          ∧ failCount t n.slot = 0 ∧ t.bank_ f.val 0x044 = 0x30000000#32 ||| fld x 16)
      ∧ (∀ k, s.ac < n.at_ + 50000000 → slotLocked s n.slot = false → Tbl.get s.host.keys n.slot = some k →
        hmac256 k.key (challengeMsg f.val n) = answerBytes s f.val → freeSession s = none →
        exec (.answer f v) s = .next (sessStatus u f.val 7 0))))
  ∧ (∀ (s : State) (x : Nat), freeSession s = some x → Tbl.get s.host.sessions x = none ∧ x < 256
      ∧ ∀ y < x, Tbl.get s.host.sessions y ≠ none)
  ∧ (∀ (s : State) (f : FuncId), (Tbl.get s.host.nonces f.val = none → exec (.nonceLapse f) s = .next s)
    ∧ (∀ n, Tbl.get s.host.nonces f.val = some n →
      (n.at_ + 50000000 ≤ s.ac → exec (.nonceLapse f) s = .next (s.mapHost (fun h => { h with nonces := Tbl.del h.nonces f.val })))
      ∧ (s.ac < n.at_ + 50000000 → exec (.nonceLapse f) s = .next s)))
  ∧ (∀ (s : State) (k : Fin 32), (Tbl.get s.host.locks k.val = none → exec (.lockEnd k) s = .next s)
    ∧ (∀ e, Tbl.get s.host.locks k.val = some e → (s.ac < e → exec (.lockEnd k) s = .next s)
      ∧ (e ≤ s.ac → exec (.lockEnd k) s = .next (s.mapHost (fun h => { h with
          locks := Tbl.del h.locks k.val, fails := Tbl.del h.fails k.val })))))
  ∧ (∀ (s u : State) (f : FuncId) (v : Word), Reaches s f (regAt slotHost 0x080) →
    u = s.fromHost.setBank_ f.val 0x080 (v &&& 0x03FF00FF) →
    (bit v 30 = false → bit v 29 = false →
      (openSession s (bits v 7 0) = none → exec (.close f v) s = .next (ctlStatus u f.val 1))
      ∧ (∀ x, openSession s (bits v 7 0) = some x →
        ((x.func = f.val ∨ isMgmt s f = true) → exec (.close f v) s = .next (ctlStatus (closeSession u 0 (bits v 7 0)) f.val 0))
        ∧ (x.func ≠ f.val → isMgmt s f = false → exec (.close f v) s = .next (ctlStatus u f.val 1))))
    ∧ (bit v 31 = false → bit v 29 = false → ∀ x, openSession s (bits v 7 0) = some x →
      (x.func ≠ f.val → exec (.attach f v) s = .next (ctlStatus u f.val 1))
      ∧ (x.func = f.val → inQueueRange s f.val (bits v 25 16) = false → exec (.attach f v) s = .next (ctlStatus u f.val 2))
      ∧ (x.func = f.val → inQueueRange s f.val (bits v 25 16) = true → (s.queue (bits v 25 16)).sess ≠ none →
        exec (.attach f v) s = .next (ctlStatus u f.val 3))
      ∧ (x.func = f.val → inQueueRange s f.val (bits v 25 16) = true → (s.queue (bits v 25 16)).sess = none →
        exec (.attach f v) s = .next (ctlStatus (u.setQueue (bits v 25 16) { s.queue (bits v 25 16) with
          sess := some (bits v 7 0), func := f.val }) f.val 0)))
    ∧ (bit v 31 = false → bit v 29 = false → openSession s (bits v 7 0) = none →
      exec (.attach f v) s = .next (ctlStatus u f.val 1))
    ∧ (bit v 31 = false → bit v 30 = false →
      (inQueueRange s f.val (bits v 25 16) = false → exec (.detach f v) s = .next (ctlStatus u f.val 2))
      ∧ (inQueueRange s f.val (bits v 25 16) = true →
        ((∀ n x, (s.queue (bits v 25 16)).sess = some n → openSession s n = some x → x.func ≠ f.val) →
          exec (.detach f v) s = .next (ctlStatus u f.val 1))
        ∧ (∀ n x, (s.queue (bits v 25 16)).sess = some n → openSession s n = some x → x.func = f.val →
          (((s.queue (bits v 25 16)).enable = true ∨ (s.queue (bits v 25 16)).draining = true
              ∨ 0 < (s.queue (bits v 25 16)).inflight ∨ (s.queue (bits v 25 16)).staged ≠ []) →
            exec (.detach f v) s = .next (ctlStatus u f.val 4))
          ∧ ((s.queue (bits v 25 16)).enable = false → (s.queue (bits v 25 16)).draining = false →
            (s.queue (bits v 25 16)).inflight = 0 → (s.queue (bits v 25 16)).staged = [] →
            exec (.detach f v) s = .next (ctlStatus (detachQueue u (bits v 25 16)) f.val 0))))))
  ∧ (∀ (s : State) (cause n : Nat) (x : Session), openSession s n = some x → (∀ i ∈ s.drover.insts, i.sess ≠ n) →
    ∃ t, closeSession s cause n = t ∧ Only [.drover, .host] s t ∧ openSession t n = none
      ∧ (∀ q, (t.queue q).sess ≠ some n)
      ∧ ((s.host.queues.map (·.1)).Nodup → ∀ q, (s.queue q).sess ≠ some n → t.queue q = s.queue q)
      ∧ t.drover.cmds = s.drover.cmds.filter (fun c => c.sess != n) ∧ t.host.cmds = s.host.cmds.filter (fun c => c.sess != n)
      ∧ t.drover.templates = s.drover.templates.filter (fun p => p.2.sess != n))
  ∧ (∀ (s : State) (n : Fin 256),
    (∀ x, Tbl.get s.host.sessions n.val = some x → x.closing = true → (∀ i ∈ s.drover.insts, i.sess ≠ n.val) →
      exec (.sessionNumberFree n) s = .next (s.mapHost (fun h => { h with sessions := Tbl.del h.sessions n.val })))
    ∧ ((∀ x, Tbl.get s.host.sessions n.val = some x → x.closing = false ∨ ∃ i ∈ s.drover.insts, i.sess = n.val) →
      exec (.sessionNumberFree n) s = .next s))

/-- SQ_DOORBELL, COMMAND_FETCH, Q_CTRL_WRITE, QUEUE_DRAINED and COMPLETION_WRITE. A doorbell of the ring's size or more is
discarded with BAD_DOORBELL; otherwise SQ_TAIL takes it and, on an enabled queue, its arrival is kept and the die network
wakes. A queue with a visible entry and two free completion entries beyond the records staged and still to come (log entry
22), no other with an earlier doorbell, has its next command taken: SQ_HEAD moves on, and the command goes to the Drover or
the host port by its opcode, or is refused. Setting ENABLE zeroes the four indices; sizes are kept while the queue is enabled
or draining; clearing it leaves the queue draining while anything is outstanding, and QUEUE_DRAINED ends that. Staged records
go to the completion ring in order, then the shadow word, and RECORD pulses. -/
def Obligations.QueuesAndRecords : Prop :=
  (∀ (s u : State) (f : FuncId) (q : QueueId) (v : Word), Reaches s f (regAt (slotQueue q.val) 0x060) → u = s.fromHost →
    (sqSize u q.val ≤ v.toNat → exec (.sqDoorbell f q v) s = .next (u.pulse (slotQueue q.val) 3))
    ∧ (v.toNat < sqSize u q.val → (s.queue q.val).enable = false →
      exec (.sqDoorbell f q v) s = .next (u.setReg (slotQueue q.val) 0x060 v))
    ∧ (v.toNat < sqSize u q.val → (s.queue q.val).enable = true → ∃ bells,
      exec (.sqDoorbell f q v) s = .next (startWake (countEvent ((u.setReg (slotQueue q.val) 0x060 v).setQueue q.val
        { s.queue q.val with bells := bells }) slotHost 3 1) 26)
      ∧ (∀ b ∈ bells, b ∈ (s.queue q.val).bells ∨ b = (v.toNat, s.ac))
      ∧ ((s.queue q.val).bells = [] → sqDist u q.val v.toNat ≠ 0 → bells = [(v.toNat, s.ac)])))
  ∧ (∀ (s : State) (q : QueueId) (w0 w1 w2 w3 : Word) (n : Nat), (s.queue q.val).sess = some n →
    ((hostUp s = false ∨ fetchable s q.val = false ∨ bellFirst s q.val = false) → exec (.commandFetch q w0 w1 w2 w3) s = .next s)
    ∧ (hostUp s = true → fetchable s q.val = true → bellFirst s q.val = true → ∃ u,
      exec (.commandFetch q w0 w1 w2 w3) s
        = .next (placeCmd u ⟨q.val, n, w0, w1, w2, w3, headBell (s.queue q.val), false⟩) ∧ Only [.regs, .host] s u
      ∧ u.reg (slotQueue q.val) 0x064 = BitVec.ofNat 32 ((sqHead s q.val + 1) % sqSize s q.val)
      ∧ (u.queue q.val).inflight = (s.queue q.val).inflight + 1 ∧ (u.queue q.val).staged = (s.queue q.val).staged
      ∧ (∀ x, x ≠ q.val → u.queue x = s.queue x)))
  ∧ (∀ (s : State) (q : QueueId) (w0 w1 w2 w3 : Word), (s.queue q.val).sess = none → exec (.commandFetch q w0 w1 w2 w3) s = .next s)
  ∧ (∀ (u : State) (c : Cmd),
    (1 ≤ c.op → c.op ≤ 4 → u.power.failed = false → placeCmd u c = u.mapDrover (fun d => { d with cmds := d.cmds ++ [c] }))
    ∧ (1 ≤ c.op → c.op ≤ 4 → u.power.failed = true → placeCmd u c = refuse u c 1)
    ∧ (0x81 ≤ c.op → c.op ≤ 0x83 → placeCmd u c = u.mapDrover (fun d => { d with cmds := d.cmds ++ [c] }))
    ∧ ((c.op = 0x84 ∨ c.op = 0x85) → placeCmd u c = u.mapHost (fun h => { h with cmds := h.cmds ++ [c] }))
    ∧ ((c.op = 0 ∨ (4 < c.op ∧ c.op < 0x81) ∨ 0x85 < c.op) → placeCmd u c = refuse u c 1))
  ∧ (∀ (s u : State) (f : FuncId) (q : QueueId) (v : Word), Reaches s f (regAt (slotQueue q.val) 0x044) → u = s.fromHost →
    (bit v 31 = true → (s.queue q.val).enable = false → (s.queue q.val).draining = false →
      ∃ t, exec (.qCtrlWrite f q v) s = .next t ∧ Only [.regs, .host] u t ∧ t.reg (slotQueue q.val) 0x044 = v &&& 0x0000FF1F
        ∧ t.queue q.val = { s.queue q.val with enable := true, bells := [] }
        ∧ t.reg (slotQueue q.val) 0x060 = 0 ∧ t.reg (slotQueue q.val) 0x064 = 0
        ∧ t.reg (slotQueue q.val) 0x068 = 0 ∧ t.reg (slotQueue q.val) 0x06C = 0)
    ∧ (bit v 31 = true → (s.queue q.val).draining = true →
      exec (.qCtrlWrite f q v) s = .next ((u.setReg (slotQueue q.val) 0x044
        ((s.reg (slotQueue q.val) 0x044 &&& 0x0000FF00) ||| (v &&& 0x1F))).pulse (slotQueue q.val) 3))
    ∧ (bit v 31 = false → (s.queue q.val).enable = true →
      exec (.qCtrlWrite f q v) s = .next ((u.setReg (slotQueue q.val) 0x044
        ((s.reg (slotQueue q.val) 0x044 &&& 0x0000FF00) ||| (v &&& 0x1F))).setQueue q.val
          { s.queue q.val with enable := false, bells := [], draining := outstanding s q.val }))
    ∧ (bit v 31 = false → (s.queue q.val).enable = false → (s.queue q.val).draining = false →
      exec (.qCtrlWrite f q v) s = .next (u.setReg (slotQueue q.val) 0x044 ((v &&& 0x0000FF00) ||| (v &&& 0x1F)))))
  ∧ (∀ (s : State) (q : QueueId),
    ((s.queue q.val).draining = true → outstanding s q.val = false →
      exec (.queueDrained q) s = .next (s.setQueue q.val { s.queue q.val with draining := false }))
    ∧ (((s.queue q.val).draining = false ∨ outstanding s q.val = true) → exec (.queueDrained q) s = .next s))
  ∧ (∀ (s : State) (q : QueueId) (k tail : Nat), k = min (s.queue q.val).staged.length (cqFree s q.val) →
    tail = (s.reg (slotQueue q.val) 0x06C).toNat → tail < cqSize s q.val →
    ((hostUp s = false ∨ (s.queue q.val).sess = none ∨ k = 0) → exec (.completionWrite q) s = .next s)
    ∧ (hostUp s = true → (s.queue q.val).sess ≠ none → 0 < k → ∃ t, exec (.completionWrite q) s = .next t
      ∧ Only [.regs, .evts, .host, .out] s t
      ∧ t.queue q.val = { s.queue q.val with staged := (s.queue q.val).staged.drop k }
      ∧ t.reg (slotQueue q.val) 0x06C = BitVec.ofNat 32 ((tail + k) % cqSize s q.val)
      ∧ t.out = s.out ++ ((s.queue q.val).staged.take k).zipIdx.map (fun r => Out.hostWrite (s.queue q.val).func
            (queueAddr s q.val 0x050 + 16 * ((tail + r.2) % cqSize s q.val)) (wordsBytes r.1.words))
          ++ [Out.hostWrite (s.queue q.val).func (queueAddr s q.val 0x058) (leBytes 4 ((tail + k) % cqSize s q.val))]))

/-- CTX_OPEN, CTX_ROOT, CTX_RELEASE, CONTEXT_FREED, XFER_IN, XFER_OUT, XFER_DONE and INFO_SEL_SNAP. A context command that breaks
R365, or whose session has no TENANT privilege, is refused with its reason. CTX_OPEN opens a FREE context for the session's
tenant, CTX_ROOT changes the root of an OPEN one that no instance uses, CTX_RELEASE puts it in RELEASING; another state or tenant
refuses with CTX_STATE. When no instance of it is left it is FREE and CTX_DONE is posted. A transfer that fails a check is
refused. One under way moves its next block in its slot: XFER_IN stores the bytes there and nowhere else, XFER_OUT sends those of
a block that verifies; a bad block, an unreachable store or 1 ms without a slot ends it with its fault. Its record gives the
blocks moved. -/
def Obligations.ContextsAndTransfers : Prop :=
  (∀ (s : State) (c : Cmd) (rest : List Cmd), s.drover.cmds = c :: rest →
    (hostCmdBad c = true →
      (c.op = 0x81 → exec .ctxOpen s = .next (hostDone (popCmd s) c 0x10 0x01 0 0))
      ∧ (c.op = 0x82 → exec .ctxRoot s = .next (hostDone (popCmd s) c 0x10 0x01 0 0))
      ∧ (c.op = 0x83 → exec .ctxRelease s = .next (hostDone (popCmd s) c 0x10 0x01 0 0)))
    ∧ (hostCmdBad c = false → (sessPriv s c.sess).getLsbD 0 = false →
      (c.op = 0x81 → exec .ctxOpen s = .next (hostDone (popCmd s) c 0x10 0x40 0 0))
      ∧ (c.op = 0x82 → exec .ctxRoot s = .next (hostDone (popCmd s) c 0x10 0x40 0 0))
      ∧ (c.op = 0x83 → exec .ctxRelease s = .next (hostDone (popCmd s) c 0x10 0x40 0 0)))
    ∧ (hostCmdBad c = false → (sessPriv s c.sess).getLsbD 0 = true →
      (c.op = 0x81 →
        ((ctxAt s c.ctx).st ≠ .free → exec .ctxOpen s = .next (hostDone (popCmd s) c 0x10 0x41 0 0))
        ∧ ((ctxAt s c.ctx).st = .free → exec .ctxOpen s = .next (hostDone (setCtx (popCmd s) c.ctx
            ⟨.opened, sessTenant s c.sess, c.w2.toNat, bits c.w3 12 0, 0, 0, 0⟩) c 0x10 0 0 0)))
      ∧ (c.op = 0x82 →
        (ctxOpenFor s c = false → exec .ctxRoot s = .next (hostDone (popCmd s) c 0x10 0x41 0 0))
        ∧ (ctxOpenFor s c = true → (∃ i ∈ s.drover.insts, i.ctx = c.ctx) →
          exec .ctxRoot s = .next (hostDone (popCmd s) c 0x10 0x42 0 0))
        ∧ (ctxOpenFor s c = true → (∀ i ∈ s.drover.insts, i.ctx ≠ c.ctx) →
          exec .ctxRoot s = .next (hostDone (setCtx (popCmd s) c.ctx
            { ctxAt s c.ctx with base := c.w2.toNat, count := bits c.w3 12 0 }) c 0x10 0 0 0)))
      ∧ (c.op = 0x83 →
        (ctxOpenFor s c = false → exec .ctxRelease s = .next (hostDone (popCmd s) c 0x10 0x41 0 0))
        ∧ (ctxOpenFor s c = true → (∀ i ∈ s.drover.insts, i.ctx ≠ c.ctx) →
          exec .ctxRelease s = .next (setCtx (popCmd s) c.ctx
            { ctxAt s c.ctx with st := .releasing, queue := c.queue, sess := c.sess, cookie := c.cookie })))))
  ∧ (∀ (s : State) (n : Fin 16384),
    (((ctxAt s n.val).st ≠ .releasing ∨ ∃ i ∈ s.drover.insts, i.ctx = n.val) → exec (.contextFreed n) s = .next s)
    ∧ ((ctxAt s n.val).st = .releasing → (∀ i ∈ s.drover.insts, i.ctx ≠ n.val) → ∃ t, exec (.contextFreed n) s = .next t
      ∧ Only [.regs, .evts, .host] s t ∧ ctxAt t n.val = Ctx.free ∧ (∀ x, x ≠ n.val → ctxAt t x = ctxAt s x)))
  ∧ (∀ (s : State) (c : Cmd) (rest : List Cmd) (r : Nat), s.host.xfer = none → s.host.cmds = c :: rest → xferReason s c = some r →
    (c.op = 0x84 → ∀ b e, exec (.xferIn ⟨b, e⟩) s = .next (hostDone (s.mapHost (fun h => { h with cmds := rest })) c 0x11 r 0 0))
    ∧ (c.op = 0x85 → exec .xferOut s = .next (hostDone (s.mapHost (fun h => { h with cmds := rest })) c 0x11 r 0 0)))
  ∧ (∀ (s : State) (x : Xfer) (a : Nat), s.host.xfer = some x → x.fault = none → x.moved < xferBlocks x.cmd →
    a = xferDie x.cmd + 512 * x.moved →
    (x.since / 40 + 50000 ≤ s.ac →
      (x.cmd.op = 0x84 → ∀ b e, exec (.xferIn ⟨b, e⟩) s = .next (xferFault s x 0x0703 0))
      ∧ (x.cmd.op = 0x85 → exec .xferOut s = .next (xferFault s x 0x0703 1)))
    ∧ (s.ac < x.since / 40 + 50000 →
      (x.cmd.op = 0x84 → hostEntry s a 512 x.since = .go → ∀ (b : Vector Byte 512) (e : Bool),
        ∃ t, exec (.xferIn ⟨b, e⟩) s = .next t ∧ Only [.regs, .mem, .slots, .herd, .host, .power] s t
          ∧ t.host.xfer = some { x with moved := x.moved + 1, since := s.now, asks := false }
          ∧ (∀ i, (h : i < 512) → t.mem.read (a + i) = b[i]) ∧ (∀ y, (y < a ∨ a + 512 ≤ y) → t.mem.read y = s.mem.read y))
      ∧ (x.cmd.op = 0x85 → hostEntry s a 512 x.since = .go → s.mem.verify (a / 512) = .good →
        ∃ t, exec .xferOut s = .next t ∧ Only [.regs, .slots, .herd, .host, .power, .out] s t
          ∧ t.host.xfer = some { x with moved := x.moved + 1, since := s.now, asks := false }
          ∧ t.out = s.out ++ [.hostWrite (xferFunc s x.cmd) (xferHost x.cmd + 512 * x.moved) (s.mem.block (a / 512))])
      ∧ (∀ m, x.cmd.op = 0x85 → hostEntry s a 512 x.since = .go → s.mem.verify (a / 512) = .mismatch m →
        exec .xferOut s = .next (xferFault (takeSlot s a 1) x 0x0002 m))
      ∧ (∀ w, x.cmd.op = 0x85 → hostEntry s a 512 x.since = .go → s.mem.verify (a / 512) = .poisoned w →
        exec .xferOut s = .next (xferFault (takeSlot s a 1) x 0x0003 (BitVec.ofNat 32 w)))
      ∧ (∀ d, hostEntry s a 512 x.since = .wake d →
        (x.cmd.op = 0x84 → ∀ b e, exec (.xferIn ⟨b, e⟩) s = .next (startWake s d))
        ∧ (x.cmd.op = 0x85 → exec .xferOut s = .next (startWake s d)))
      ∧ (hostEntry s a 512 x.since = .wait →
        (x.cmd.op = 0x84 → ∀ b e, exec (.xferIn ⟨b, e⟩) s = .next (s.mapHost (fun h => { h with xfer := some { x with asks := true } })))
        ∧ (x.cmd.op = 0x85 → exec .xferOut s = .next (s.mapHost (fun h => { h with xfer := some { x with asks := true } }))))
      ∧ (∀ n, hostEntry s a 512 x.since = .answer n →
        (x.cmd.op = 0x84 → ∀ b e, exec (.xferIn ⟨b, e⟩) s = .next (xferFault s x (if n = 5 then 0x0005 else 0x0001) 0))
        ∧ (x.cmd.op = 0x85 → exec .xferOut s = .next (xferFault s x (if n = 5 then 0x0005 else 0x0001) 0))))
    ∧ exec .xferDone s = .next s)
  ∧ (∀ (s : State) (x : Xfer), s.host.xfer = some x →
    (∀ c, x.fault = some c →
      exec .xferDone s = .next (hostDone (s.mapHost (fun h => { h with xfer := none })) x.cmd 0x11 0x44 c x.moved))
    ∧ (x.fault = none → xferBlocks x.cmd ≤ x.moved →
      exec .xferDone s = .next (hostDone (s.mapHost (fun h => { h with xfer := none })) x.cmd 0x11 0 0 x.moved)))
  ∧ (∀ s : State, s.host.xfer = none → exec .xferDone s = .next s)
  ∧ (∀ (s u : State) (f : FuncId) (v : Word), Reaches s f (regAt slotHost 0x110) →
    u = s.fromHost.setReg slotHost 0x110 (v &&& 0x30003FFF) →
    ∃ t, exec (.infoSelSnap f v) s = .next t ∧ Only [.regs] u t ∧ t.reg slotHost 0x110 = v &&& 0x30003FFF
      ∧ ∀ k < 4, t.reg slotHost (0x114 + 4 * k) = (infoWords u (bits v 29 28) (bits v 13 0)).getD k 0)

/-- BAR2_READ, BAR2_WRITE, BAR2_TIMEOUT, FUNCTION_LEVEL_RESET, D3HOT_ENTRY, VF_ENABLE_CLEAR, PERST_ASSERT, PERST_DEASSERT and
PCIE_HOT_RESET. An access through a function that does not answer changes nothing. One that no window admits counts as
unsupported, a read of it gives zeros. One with an earlier access of its function waiting waits behind it. One that gets its slot
reads the stored bytes of a block that verifies (task memory, in any function's window or of a management function, once the die
network runs), and a write stores its bytes of the block and changes no other byte; further
blocks wait for theirs. After 1 ms a waiting access ends with HOST_TIMEOUT. A Function Level Reset empties the function's bank and
closes its sessions, that of function 0 every session; a function in D3hot answers no more. PERST# takes the host port off when
power is good, and its release brings it back; a hot reset starts a reset of the host port where it runs. A write of a function to
the words of the MSI-X table in its BAR4 sets them. (VF_ENABLE_CLEAR closes with cause 1, log entry 20; that the link trains by
itself is log entry 7; the place of BAR4 and its layout are log entry 122.) -/
def Obligations.Bar2AndPortEvents : Prop :=
  (∀ (s : State) (f : FuncId) (a n : Nat) (d : List Byte) (e : Bool), answers s f = false →
    exec (.bar2Read f a n) s = .next s ∧ exec (.bar2Write f a ⟨d, e⟩) s = .next s)
  ∧ (∀ (s u : State) (f : FuncId) (a n p k : Nat) (w : Bar2), answers s f = true → u = s.fromHost → (p, k) = blockPart a n 0 →
    w = { func := f, addr := a, len := n, data := none, bar0 := false, ep := false, since := s.now, done := 0, got := [] } →
    ((rangeOk a n true = false ∨ (isMgmt u f = false ∧ windowHolds u f.val a n false = false)) →
      exec (.bar2Read f a n) s = .next ((unsupported u).toHost (.readData f.val (List.replicate n 0))))
    ∧ (rangeOk a n true = true → (isMgmt u f = true ∨ windowHolds u f.val a n false = true) →
      ((∃ b ∈ s.host.bar2, b.func = f) → exec (.bar2Read f a n) s = .next (u.mapHost (fun h => { h with bar2 := h.bar2 ++ [w] })))
      ∧ ((∀ b ∈ s.host.bar2, b.func ≠ f) → region a = .taskMem → netRuns u = false →
        exec (.bar2Read f a n) s = .next ((startWake u 26).mapHost (fun h => { h with bar2 := h.bar2 ++ [w] })))
      ∧ ((∀ b ∈ s.host.bar2, b.func ≠ f) → region a = .taskMem → netRuns u = true → (s.mem.verifyRange a n).1 = .good →
        ∃ v, exec (.bar2Read f a n) s = .next (State.toHost v (.readData f.val ((List.range n).map (fun i => s.mem.read (a + i)))))
          ∧ Only [.regs] u v)
      ∧ ((∀ b ∈ s.host.bar2, b.func ≠ f) → region a ≠ .taskMem →
        (hostEntry u p k s.now = .wait →
          exec (.bar2Read f a n) s = .next (u.mapHost (fun h => { h with bar2 := h.bar2 ++ [w] })))
        ∧ (hostEntry u p k s.now = .go → s.mem.verify (p / 512) = .good →
          ∃ v, Only [.regs, .slots, .herd, .power] u v
            ∧ (a + n ≤ a / 512 * 512 + 512 → exec (.bar2Read f a n) s
              = .next (State.toHost v (.readData f.val ((List.range k).map (fun i => s.mem.read (p + i))))))
            ∧ (a / 512 * 512 + 512 < a + n → exec (.bar2Read f a n) s = .next (v.mapHost (fun h => { h with
              bar2 := h.bar2 ++ [{ w with done := 1, got := (List.range k).map (fun i => s.mem.read (p + i)) }] }))))
        ∧ (∀ x, hostEntry u p k s.now = .go → s.mem.verify (p / 512) = .mismatch x →
          ∃ v, Only [.regs, .slots, .herd, .power, .out] u v ∧ exec (.bar2Read f a n) s
              = .next (hostFault v 0x0002 none (some (p / 512 * 512)) (BitVec.ofNat 32 f.val) x))
        ∧ (∀ x, hostEntry u p k s.now = .go → s.mem.verify (p / 512) = .poisoned x →
          ∃ v, Only [.regs, .slots, .herd, .power, .out] u v ∧ exec (.bar2Read f a n) s
              = .next (hostFault v 0x0003 none (some (p / 512 * 512)) (BitVec.ofNat 32 f.val) (BitVec.ofNat 32 x))))))
  ∧ (∀ (s u : State) (f : FuncId) (a p k : Nat) (d : List Byte) (e : Bool) (w : Bar2), answers s f = true → u = s.fromHost →
    (p, k) = blockPart a d.length 0 →
    w = { func := f, addr := a, len := d.length, data := some d, bar0 := false, ep := e, since := s.now, done := 0, got := [] } →
    ((rangeOk a d.length false = false ∨ (isMgmt u f = false ∧ windowHolds u f.val a d.length true = false)) →
      exec (.bar2Write f a ⟨d, e⟩) s = .next (unsupported u))
    ∧ (rangeOk a d.length false = true → (isMgmt u f = true ∨ windowHolds u f.val a d.length true = true) →
      ((∃ b ∈ s.host.bar2, b.func = f) → exec (.bar2Write f a ⟨d, e⟩) s = .next (u.mapHost (fun h => { h with bar2 := h.bar2 ++ [w] })))
      ∧ ((∀ b ∈ s.host.bar2, b.func ≠ f) → region a ≠ .taskMem → hostEntry u p k s.now = .go →
        s.mem.mergeVerify (p / 512) p k = .good →
        ∃ t, exec (.bar2Write f a ⟨d, e⟩) s = .next t ∧ Only [.regs, .mem, .slots, .herd, .host, .power] u t
          ∧ (∀ i < k, t.mem.read (p + i) = d.getD (p + i - a) 0)
          ∧ t.host.bar2 = (if a + d.length ≤ a / 512 * 512 + 512 then s.host.bar2 else s.host.bar2 ++ [{ w with done := 1 }]))))
  ∧ (∀ (s t : State) (f : FuncId) (a : Nat) (d : List Byte) (e : Bool), exec (.bar2Write f a ⟨d, e⟩) s = .next t →
    ∀ x, (x < a ∨ a + d.length ≤ x) → t.mem.read x = s.mem.read x)
  ∧ (∀ (s t : State) (f : FuncId) (a n : Nat), exec (.bar2Read f a n) s = .next t → t.mem = s.mem)
  ∧ (∀ s : State, ((∀ b ∈ s.host.bar2, b.bar0 = true ∨ s.ac < b.since / 40 + 50000) → exec .bar2Timeout s = .next s)
    ∧ (∀ b, s.host.bar2.find? (fun b => !b.bar0 && decide (b.since / 40 + 50000 ≤ s.ac)) = some b → ∃ u w,
      u = s.mapHost (fun h => { h with bar2 := dropFirst b h.bar2 })
      ∧ w = hostFault u 0x0703 none (some b.addr) (BitVec.ofNat 32 b.func.val) (if b.data.isSome then 0 else 1)
      ∧ exec .bar2Timeout s = .next (if b.data.isSome then w else w.toHost (.complAbort b.func.val))))
  ∧ (∀ (s : State) (f : FuncId), ∃ u, exec (.functionLevelReset f) s = .next (closeWhere u 1 (fun x => f.val == 0 || x.func == f.val))
      ∧ Only [.host] s u ∧ u.host.sessions = s.host.sessions ∧ Tbl.get u.host.nonces f.val = none
      ∧ f.val ∉ u.host.d3 ∧ (∀ o < 0x100, u.bank_ f.val o = 0) ∧ (∀ g o, g ≠ f.val → o < 0x100 → u.bank_ g o = s.bank_ g o))
  ∧ (∀ (s : State) (f : FuncId), ∃ u, exec (.d3hotEntry f) s = .next (closeWhere u 1 (fun x => x.func == f.val))
      ∧ Only [.host] s u ∧ u.host.sessions = s.host.sessions ∧ funcOn u f.val = false)
  ∧ (∀ (s : State) (f : FuncId) (v : Word) (i : Nat), Served s f →
    (i < 128 → ∃ t, exec (.registerWrite f (0x4000000 + 4 * i) v) s = .next t ∧ Only [.host, .out] s.fromHost t
      ∧ (∀ j < 128, wd (Tbl.getD t.host.msix (32 * f.val + j / 4) []) (j % 4)
          = if j = i then v else wd (Tbl.getD s.host.msix (32 * f.val + j / 4) []) (j % 4)))
    ∧ (128 ≤ i → i < 4096 → exec (.registerWrite f (0x4000000 + 4 * i) v) s = .next s.fromHost))
  ∧ (∀ s : State, exec .vfEnableClear s = .next (closeWhere (s.mapHost (fun h => { h with vfs := 0 })) 1 (fun x => x.func != 0)))
  ∧ (∀ (s u : State), u = s.mapPower (fun p => { p with perst := true }) →
    ((s.power.pwrGood = false ∨ (s.dom 25).st = .off) → exec .perstAssert s = .next u)
    ∧ (s.power.pwrGood = true → (s.dom 25).st ≠ .off → ∃ t, exec .perstAssert s = .next t
      ∧ (t.dom 25).st = .off ∧ t.host.linkUp = false ∧ t.host.busMast = false ∧ t.host.queues = [] ∧ t.host.bar2 = []
      ∧ t.host.keys = s.host.keys ∧ t.host.ctxs = s.host.ctxs))
  ∧ (∀ (s u : State), u = s.mapPower (fun p => { p with perst := false }) →
    ((s.power.pwrGood = false ∨ (s.dom 25).st ≠ .off) → exec .perstDeassert s = .next u)
    ∧ (s.power.pwrGood = true → (s.dom 25).st = .off → ∃ t, exec .perstDeassert s = .next t
      ∧ (t.dom 25).st = .run ∧ t.host.linkUp = true ∧ t.host.busMast = true ∧ t.host.keys = s.host.keys ∧ t.mem = s.mem))
  ∧ (∀ s : State, ((s.dom 25).st ≠ .run → exec .pcieHotReset s = .next s)
    ∧ ((s.dom 25).st = .run → (s.hurdled .host = true ∨ resetOff s .host = true) → exec .pcieHotReset s = .next s)
    ∧ ((s.dom 25).st = .run → s.hurdled .host = false → resetOff s .host = false →
      exec .pcieHotReset s = .next (raise s .host 6)))

/-- WAKE, HOLD, RELEASE, DOZE, NAP, OFF, ON, DOM_POLICY_WRITE, IDLE_ENTRY, PORT_IDLE_ENTRY, DIE_NETWORK_DOZE and
DOMAIN_TRANSITION_COMPLETE. A refused command records PWR_REFUSED and shows its reason in CMD_STATUS; an accepted one shows 0 and
acts: HOLD and RELEASE set and clear the HOLD bit, the others wake, lower or power the domain; one already there or below stays
(log entry 25). A policy state that the domain does not accept leaves IDLE_STATE. A domain idle for IDLE_DELAY, not held and
without demand, begins its entry; the die network, when every other domain sleeps and nothing waits. A transition ends in its
target, a wake in run; a fold that goes off loses its cores, unless a granted write of it or to it is on its way, which leaves
the entry in progress, and one that leaves off reads as zeros. A wake reverses an entry to doze or nap, as a wake from the state
that was being entered (the model's choice: log entry 124). -/
def Obligations.PowerDomains : Prop :=
  (∀ (s u : State) (r : Requester) (v : Word) (cmd d : Nat), Arrives s r (regAt slotPwr 0x040) → 1 ≤ cmd → cmd ≤ 7 → d = bits v 4 0 →
    u = (arriving r s).setReg slotPwr 0x040 (domWord cmd v &&& 0x000F001F) →
    ∃ e x : State, (cmd = 1 → exec (.wake r v) s = .next (reported r e)) ∧ (cmd = 2 → exec (.hold r v) s = .next (reported r e))
      ∧ (cmd = 3 → exec (.release r v) s = .next (reported r e)) ∧ (cmd = 4 → exec (.doze r v) s = .next (reported r e))
      ∧ (cmd = 5 → exec (.nap r v) s = .next (reported r e)) ∧ (cmd = 6 → exec (.off r v) s = .next (reported r e))
      ∧ (cmd = 7 → exec (.on r v) s = .next (reported r e))
      ∧ (∀ k, cmdReason u cmd d = some k → e = pwrRefused (cmdStatus u k cmd d) k (domWord cmd v))
      ∧ (cmdReason u cmd d = none → e = cmdStatus x 0 cmd d ∧ (cmd = 1 → x = startWake u d)
        ∧ (cmd = 2 → (x.dom d).hold = true ∧ Only [.regs, .evts, .power, .sharal] u x) ∧ (cmd = 3 → (x.dom d).hold = false ∧ Only [.power] u x)
        ∧ (cmd = 4 → x = lowerTo u d .doze) ∧ (cmd = 5 → x = lowerTo u d .nap) ∧ (cmd = 6 → x = lowerTo u d .off)
        ∧ (cmd = 7 → x = startOn u d)))
  ∧ (∀ (s : State) (d : Nat) (g : PSt), (s.dom d).target = none →
    ((s.dom d).st.rank ≤ g.rank → (s.dom d).waking = false → lowerTo s d g = s)
    ∧ (g.rank < (s.dom d).st.rank → (d < 16 ∨ 22 ≤ d) → lowerTo s d g = startEntry s d g)
    ∧ (g.rank < (s.dom d).st.rank → g.rank ≤ 1 → 16 ≤ d → d < 22 → ((lowerTo s d g).port (d - 16)).st = .down))
  ∧ (∀ (s : State) (d : Nat) (g : PSt), ((startEntry s d g).dom d).target = some g ∧ ((startEntry s d g).dom d).waking = false
      ∧ ((startEntry s d g).dom d).st = (s.dom d).st ∧ Only [.regs, .power] s (startEntry s d g))
  ∧ (∀ (s : State) (d : Nat), ((s.dom d).st = .doze ∨ (s.dom d).st = .nap) → (s.dom d).target = none →
      ((startWake s d).dom d).waking = true ∧ ((startWake s d).dom d).target = none)
  ∧ (∀ (s : State) (d : Nat) (g : PSt), (s.dom d).target = some g → g ≠ .off →
      ((startWake s d).dom d).waking = true ∧ ((startWake s d).dom d).target = none ∧ ((startWake s d).dom d).st = g)
  ∧ (∀ (s u : State) (f : FuncId) (d : Fin 24) (v : Word), Reaches s f (regAt slotPwr (0x200 + 4 * d.val)) → u = s.fromHost →
    ((bits v 31 30 = 3 ∨ (16 ≤ d.val ∧ d.val < 22 ∧ bits v 31 30 = 2)) → exec (.domPolicyWrite f d v) s
        = .next (fieldRefused (u.setReg slotPwr (0x200 + 4 * d.val)
            ((s.reg slotPwr (0x200 + 4 * d.val) &&& 0xC0000000) ||| (v &&& 0x00FFFFFF))) 9 v))
    ∧ (bits v 31 30 ≠ 3 → ¬(16 ≤ d.val ∧ d.val < 22 ∧ bits v 31 30 = 2) →
      exec (.domPolicyWrite f d v) s = .next (u.setReg slotPwr (0x200 + 4 * d.val) ((v &&& 0xC0000000) ||| (v &&& 0x00FFFFFF)))))
  ∧ (∀ (s : State) (d : DomId),
    ((d.val < 16 ∨ d.val = 22 ∨ d.val = 23) → idleDue s d.val = true → domDemand s d.val = false →
      exec (.idleEntry d) s = .next (startEntry s d.val (idleState s d.val)))
    ∧ ((idleDue s d.val = false ∨ domDemand s d.val = true ∨ (16 ≤ d.val ∧ d.val < 22) ∨ 24 ≤ d.val) → exec (.idleEntry d) s = .next s))
  ∧ (∀ (s : State) (p : PortId),
    (idleDue s (16 + p.val) = true → (s.port p.val).st = .up → (s.port p.val).outQ = [] → (s.port p.val).rx = [] →
      (s.port p.val).partial_ = none → (∀ x ∈ s.fabric.pend, x.port ≠ p.val) →
      exec (.portIdleEntry p) s = .next (startEntry s (16 + p.val) (idleState s (16 + p.val))))
    ∧ ((idleDue s (16 + p.val) = false ∨ (s.port p.val).st ≠ .up ∨ (s.port p.val).outQ ≠ [] ∨ (s.port p.val).rx ≠ []
        ∨ (s.port p.val).partial_ ≠ none ∨ ∃ x ∈ s.fabric.pend, x.port = p.val) →
      exec (.portIdleEntry p) s = .next s))
  ∧ (∀ (s : State) (d : Nat), idleDue s d = true → (s.dom d).hold = false ∧ (s.dom d).target = none ∧ (s.dom d).waking = false
      ∧ (s.dom d).idle / 40 + bits (s.reg slotPwr (0x200 + 4 * d)) 23 0 ≤ s.ac)
  ∧ (∀ s : State,
    ((s.dom 26).st = .run → (s.dom 26).target = none → (∀ d < 24, (s.dom d).asleep = true) → s.host.bar2 = [] → s.host.xfer = none →
      s.host.cmds = [] → s.drover.cmds = [] → exec .dieNetworkDoze s = .next (startEntry s 26 .doze))
    ∧ (((s.dom 26).st ≠ .run ∨ (s.dom 26).target ≠ none ∨ (∃ d < 24, (s.dom d).asleep = false) ∨ s.host.bar2 ≠ []
        ∨ s.host.xfer ≠ none ∨ s.host.cmds ≠ [] ∨ s.drover.cmds ≠ []) → exec .dieNetworkDoze s = .next s))
  ∧ (∀ (s : State) (d : DomId),
    ((s.dom d.val).target = none → (s.dom d.val).waking = false → exec (.domainTransitionComplete d) s = .next s)
    ∧ ((s.dom d.val).target = some .off → d.val < 16 → foldWrites s d.val = true → exec (.domainTransitionComplete d) s = .next s)
    ∧ (∀ g, (s.dom d.val).target = some g → (g = .off → d.val < 16 → foldWrites s d.val = false) → ∃ t, exec (.domainTransitionComplete d) s = .next t
      ∧ (t.dom d.val).st = g ∧ (t.dom d.val).target = none ∧ t.mem = s.mem
      ∧ (g ≠ .off → t.cores = s.cores ∧ ∀ slot off, off < 0x1000 → (slot ≠ slotPwr ∨ off ≠ 0x064) → t.reg slot off = s.reg slot off)
      ∧ (g = .off → d.val < 16 → (∀ i ∈ s.drover.images, i.st ≠ .loading) → ∀ c, (c / 16 = d.val → t.core c = Core.idle) ∧ (c / 16 ≠ d.val → t.core c = s.core c)))
    ∧ ((s.dom d.val).target = none → (s.dom d.val).waking = true → ∃ t, exec (.domainTransitionComplete d) s = .next t
      ∧ (t.dom d.val).st = .run ∧ (t.dom d.val).waking = false ∧ t.cores = s.cores
      ∧ ((s.dom d.val).st ≠ .off → t.mem = s.mem)
      ∧ ((s.dom d.val).st = .off → d.val < 16 → ∀ a,
          ((nearBase (16 * d.val) ≤ a ∧ a < nearBase (16 * d.val) + 16 * 0x100000)
            ∨ (columnBase (16 * d.val) ≤ a ∧ a < columnBase (16 * d.val) + 16 * 0x800000) → t.mem.read a = 0)
          ∧ (¬((nearBase (16 * d.val) ≤ a ∧ a < nearBase (16 * d.val) + 16 * 0x100000)
            ∨ (columnBase (16 * d.val) ≤ a ∧ a < columnBase (16 * d.val) + 16 * 0x800000)) → t.mem.read a = s.mem.read a))))

/-- SENSOR_SAMPLE, RESUME, CAUTION_SET, SUPPLY_SAMPLE, UNDER_VOLTAGE, OVER_VOLTAGE, SUPPLY_RESTORE, REFERENCE_LOSS,
REFERENCE_RETURN, POWER_UP, POWER_LOSS and MOD_RST_ASSERT. A fold reaches caution when a sensor of it reads CAUTION or more, and
leaves it when all read below CAUTION minus 5; a reading of 110 °C raises HALT, records THERM_CRITICAL, aborts every instance and
drops the images. RESUME clears HALT only when every sensor reads below CAUTION minus 10; CAUTION takes 60 to 105. A refused write of either shows its reason
in CMD_STATUS too (the model's reading: log entry 25). A supply
outside its limits, or loss of the reference, takes every switched domain off; power good falls. What returns starts the module
from step 2 once both are there; with both images rejected it stays in phase 6 with FAULT asserted. Loss of power keeps the key
store, the flash and the fuses. -/
def Obligations.SensorsSuppliesAndPower : Prop :=
  (∀ (s : State) (x : Vector (BitVec 16) 96), s.power.aoOn = false → exec (.sensorSample x) s = .next s)
  ∧ (∀ (s u : State) (x : Vector (BitVec 16) 96), s.power.aoOn = true →
    u = s.mapPower (fun p => { p with temps := x.toList.zipIdx.map (fun y => (y.2, y.1)), sampled := true }) →
    ((∀ i, (h : i < 96) → x[i].toInt < 1760) ∨ s.power.halt = true →
      ∃ t, exec (.sensorSample x) s = .next t ∧ Only [.power] s t ∧ t.power.caution = cautionNow u ∧ t.power.temps = u.power.temps
        ∧ t.power.halt = s.power.halt ∧ t.power.doms = s.power.doms)
    ∧ (∀ i, (h : i < 96) → 1760 ≤ x[i].toInt → s.power.halt = false →
      ∃ t, exec (.sensorSample x) s = .next t ∧ t.power.halt = true ∧ t.power.thermTrip = true ∧ t.power.caution = cautionNow u
        ∧ t.drover.images = [] ∧ t.drover.insts = []))
  ∧ (∀ (s : State) (f : Nat), f < 16 → ((f ∈ cautionNow s ↔ (f ∈ s.power.caution ∧ ∃ i ∈ foldSensors f,
        16 * (cautionAt s - 5) ≤ reading s i) ∨ (f ∉ s.power.caution ∧ ∃ i ∈ foldSensors f, 16 * cautionAt s ≤ reading s i))))
  ∧ (∀ (s u : State) (r : Requester) (v : Word), Arrives s r (regAt slotPwr 0x058) → u = arriving r s →
    (bit v 31 = false → 60 ≤ bits v 7 0 → bits v 7 0 ≤ 105 →
      exec (.cautionSet r v) s = .next (reported r (u.setReg slotPwr 0x058 (BitVec.ofNat 32 (bits v 7 0)))))
    ∧ (bit v 31 = false → (bits v 7 0 < 60 ∨ 105 < bits v 7 0) → exec (.cautionSet r v) s = .next (reported r (fieldRefused u 9 v)))
    ∧ (60 ≤ bits v 7 0 → bits v 7 0 ≤ 105 → (∀ i < 96, reading s i < 16 * ((bits v 7 0 : Nat) - 10 : Int)) →
      ∃ t, exec (.resume r v) s = .next (reported r t) ∧ Only [.regs, .power] u t ∧ t.power.halt = false
        ∧ t.power.thermTrip = false ∧ t.reg slotPwr 0x058 = BitVec.ofNat 32 (bits v 7 0))
    ∧ (60 ≤ bits v 7 0 → bits v 7 0 ≤ 105 → (∃ i < 96, 16 * ((bits v 7 0 : Nat) - 10 : Int) ≤ reading s i) →
      exec (.resume r v) s = .next (reported r (fieldRefused (u.setReg slotPwr 0x058 (BitVec.ofNat 32 (bits v 7 0))) 8
        (v ||| 0x80000000)))))
  ∧ (∀ (s : State) (vin iin pin : BitVec 16), (s.power.aoOn = false → exec (.supplySample vin iin pin) s = .next s)
    ∧ (s.power.aoOn = true → ∃ t, exec (.supplySample vin iin pin) s = .next t ∧ Only [.regs, .power] s t
      ∧ t.reg slotPwr 0x048 = vin.setWidth 32 ∧ t.reg slotPwr 0x04C = iin.setWidth 32 ∧ t.reg slotPwr 0x050 = pin.setWidth 32
      ∧ (4000 ≤ vin.toNat → vin.toNat ≤ 6000 → t.power = s.power)))
  ∧ (∀ s : State, ((s.power.aoOn = false ∨ s.power.supplyOk = false) →
      exec .underVoltage s = .next s ∧ exec .overVoltage s = .next s)
    ∧ (s.power.aoOn = true → s.power.supplyOk = true → ∃ t u,
      exec .underVoltage s = .next t ∧ exec .overVoltage s = .next u ∧ ∀ x ∈ [t, u], x.power.supplyOk = false
        ∧ x.power.pwrGood = false ∧ (∀ d < 27, (x.dom d).st = .off) ∧ x.cores = [] ∧ x.mem = ⟨[], [], []⟩
        ∧ x.drover.insts = [] ∧ x.host.sessions = [] ∧ x.host.keys = s.host.keys ∧ x.now = s.now)
    ∧ ((s.power.aoOn = false ∨ s.power.refOk = false) → exec .referenceLoss s = .next s)
    ∧ (s.power.aoOn = true → s.power.refOk = true → ∃ t, exec .referenceLoss s = .next t ∧ t.power.refOk = false
      ∧ t.power.faultPin = true ∧ t.power.pwrGood = false ∧ t.power.refLost = s.ac ∧ (∀ d < 27, (t.dom d).st = .off)
      ∧ t.cores = [] ∧ t.mem = ⟨[], [], []⟩ ∧ t.host.keys = s.host.keys))
  ∧ (∀ (s : State) (e : Option TestFail),
    ((s.power.aoOn = false ∨ s.power.supplyOk = true) → exec (.supplyRestore e) s = .next s)
    ∧ (s.power.aoOn = true → s.power.supplyOk = false → s.power.refOk = true →
      exec (.supplyRestore e) s = .next (startUp (s.mapPower (fun p => { p with supplyOk := true })) e))
    ∧ (s.power.aoOn = true → s.power.supplyOk = false → s.power.refOk = false →
      exec (.supplyRestore e) s = .next (s.mapPower (fun p => { p with supplyOk := true })))
    ∧ ((s.power.aoOn = false ∨ s.power.refOk = true) → exec (.referenceReturn e) s = .next s)
    ∧ (s.power.aoOn = true → s.power.refOk = false → s.power.supplyOk = true → exec (.referenceReturn e) s
        = .next (startUp (mandatory (s.mapPower (fun p => { p with refOk := true })) 0x1004 [BitVec.ofNat 32 s.power.refLost]) e))
    ∧ (s.power.aoOn = true → exec (.powerUp e) s = .next s)
    ∧ (s.power.aoOn = false → exec (.powerUp e) s = .next (startUp { s with
        now := 0, power := { s.power with aoOn := true, supplyOk := true, refOk := true } } e)))
  ∧ (∀ (s : State) (e : Option TestFail),
    if tryA s.sharal ≠ 0 ∧ tryB s.sharal ≠ 0 then (startUp s e).power.faultPin = true ∧ (startUp s e).host = s.host
      ∧ (startUp s e).power.doms = s.power.doms ∧ bits ((startUp s e).reg slotMgmt 0x104) 31 28 = 6
    else (startUp s e).power.pwrGood = true ∧ (startUp s e).roles = []
      ∧ (startUp s e).sharal.tally.cycles = s.sharal.tally.cycles + 1
      ∧ (startUp s e).power.failed = e.isSome ∧ (startUp s e).power.faultPin = e.isSome
      ∧ (startUp s e).resets.compHurdle = e.isSome
      ∧ bits ((startUp s e).reg slotMgmt 0x104) 31 28 = (if e.isSome then 5 else 4)
      ∧ (e = none → ∀ d, (d < 16 ∨ d = 22 ∨ d = 23 ∨ d = 24 ∨ d = 26) → ((startUp s e).dom d).st = .run))
  ∧ (∀ s : State, (s.power.aoOn = false → exec .powerLoss s = .next s)
    ∧ (s.power.aoOn = true → ∃ t, exec .powerLoss s = .next t ∧ t.power.aoOn = false ∧ t.now = 0 ∧ t.regs = [] ∧ t.evts = []
      ∧ t.faults = [] ∧ t.roles = [] ∧ t.mem = ⟨[], [], []⟩ ∧ t.cores = [] ∧ t.drover.insts = [] ∧ t.host.keys = s.host.keys
      ∧ t.host.fails = [] ∧ t.host.locks = [] ∧ t.sharal.slotA = s.sharal.slotA ∧ t.sharal.fuse = s.sharal.fuse
      ∧ t.sharal.fabRec = s.sharal.fabRec ∧ t.out = s.out ∧ t.free = s.free))
  ∧ (∀ s : State, (s.power.pwrGood = false → exec .modRstAssert s = .next s)
    ∧ (s.power.pwrGood = true → s.hurdled .module = true → exec .modRstAssert s = .next s)
    ∧ (s.power.pwrGood = true → s.hurdled .module = false → exec .modRstAssert s = .next (raise s .module 5)))

/-- HANG_DETECT, HEARTBEAT_CHECK, WATCHDOG_EXPIRE, RESET_COMMAND, RESET_DRAIN_END, SAMPLE_READ_TIMEOUT, RESET_ASSERT,
RESET_COMPLETE, RESET_ESCALATE, DUMP_ARM, AO_CLEAR and AO_DATA_READ. A unit that has not stopped in time is recorded and
reset; 50 checks without a heartbeat reset the compute domain; RESET_CMD resets the domain it names, or is refused where a
hurdle over it is raised or its domain is off. Raising a hurdle begins the drain, merges contained resets and, but for the
host port and the module, records the reset notice. The drain ends when everything is open no more, or at its limit. The
sample marks reads without answer after 2 µs. The reset is asserted in its turn; completing lowers the hurdle; a core, the
engine and the module have lost their work. An overdue reset is absorbed by the next larger domain. ARM arms the dump, CLEAR
empties the always-on area, AO_DATA reads it word by word (its index takes the software value of the same fc). The limits run
in cycles of the always-on clock. -/
def Obligations.ResetsRunThroughTheirPhases : Prop :=
  (∀ (s u : State), u = s.mapDrover (fun d => { d with stops := s.drover.stops.filter (notStopped s) }) →
    ((∀ w ∈ s.drover.stops, notStopped s w = true → s.now ≤ w.by_) → lateDrain s = none → exec .hangDetect s = .next u)
    ∧ (∀ c k, (∀ w ∈ s.drover.stops, notStopped s w = true → s.now ≤ w.by_) → lateDrain s = some (c, k) → c < 256 →
      exec .hangDetect s = .next (startReset (State.fault u slotDrvr
        { code := 0x0403, task := some k, d0 := BitVec.ofNat 32 c, d1 := BitVec.ofNat 32 k }) (.core (coreOf c)) 2 id))
    ∧ (∀ w, (s.drover.stops.filter (notStopped s)).find? (fun w => decide (w.by_ < s.now)) = some w → w.unit < 256 →
      ∃ x, Only [.drover] s x ∧ exec .hangDetect s = .next (startReset (State.fault x slotDrvr
        { code := 0x0403, task := some w.task, d0 := BitVec.ofNat 32 w.unit, d1 := BitVec.ofNat 32 w.task })
          (.core (coreOf w.unit)) 2 id)))
  ∧ (∀ (s : State) (b : Bool), (s.power.aoOn = false → exec (.heartbeatCheck b) s = .next s)
    ∧ (s.power.aoOn = true → exec (.heartbeatCheck b) s
        = .next (mapResets s (fun r => { r with missed := if b then 0 else s.resets.missed + 1 }))))
  ∧ (∀ s : State, (s.resets.missed < 50 → exec .watchdogExpire s = .next s)
    ∧ (50 ≤ s.resets.missed → exec .watchdogExpire s
        = .next (startReset (mapResets s (fun r => { r with missed := 0 })) .compute 3 id)))
  ∧ (∀ (s u : State) (r : Requester) (v : Word), Arrives s r (regAt slotMgmt 0x180) →
    u = (arriving r s).setReg slotMgmt 0x180 (v &&& 0x000F00FF) →
    (rdomOf (bits v 19 16) (bits v 7 0) = none →
      exec (.resetCommand r v) s = .next (reported r (u.strobeRefused slotMgmt 0x180 31 3)))
    ∧ (∀ d, rdomOf (bits v 19 16) (bits v 7 0) = some d →
      ((s.hurdled d = true ∨ resetOff s d = true) →
        exec (.resetCommand r v) s = .next (reported r (u.strobeRefused slotMgmt 0x180 31 3)))
      ∧ (s.hurdled d = false → resetOff s d = false → exec (.resetCommand r v) s = .next (reported r (raise u d 1)))))
  ∧ (∀ (s : State) (d : RDom) (cause : Nat) (f : State → State),
    ((s.hurdled d = true ∨ resetOff s d = true) → startReset s d cause f = f s)
    ∧ (s.hurdled d = false → resetOff s d = false → startReset s d cause f = raise s d cause)
    ∧ (raise s d cause).hurdled d = true ∧ (∀ x ∈ (raise s d cause).resets.runs, x.dom = d ∨ rcovers d x.dom = false)
    ∧ (∃ x ∈ (raise s d cause).resets.runs, x.dom = d ∧ x.cause = cause ∧ x.phase = .drain ∧ x.since = s.now)
    ∧ (∀ code dom unit : Nat,
      ((∃ c, d = .core c ∧ code = 0x0901 ∧ dom = 1 ∧ unit = c.val) ∨ (∃ x, d = .fold x ∧ code = 0x0902 ∧ dom = 2 ∧ unit = x.val)
        ∨ (d = .compute ∧ code = 0x0903 ∧ dom = 3 ∧ unit = 0) ∨ (d = .herd ∧ code = 0x0904 ∧ dom = 4 ∧ unit = 0)
        ∨ (d = .paddock ∧ code = 0x0905 ∧ dom = 5 ∧ unit = 0) ∨ (∃ p, d = .port p ∧ code = 0x0906 ∧ dom = 7 ∧ unit = p.val)
        ∨ (d = .mgmt ∧ code = 0x0907 ∧ dom = 8 ∧ unit = 0)) →
      ∃ w, raise s d cause = tracePhase
        (hostFault w code none none (BitVec.ofNat 32 (dom * 0x1000000 + unit)) (BitVec.ofNat 32 cause)) d cause 1))
  ∧ (∀ (s : State) (d : RDom), (runAt s d .drain = none → exec (.resetDrainEnd d) s = .next s)
    ∧ (∀ r, runAt s d .drain = some r →
      ((awake s d = false ∨ (drained s d = false ∧ s.ac < r.since / 40 + drainLimit d)) → exec (.resetDrainEnd d) s = .next s)
      ∧ (awake s d = true → drained s d = true → ∃ t, exec (.resetDrainEnd d) s = .next t ∧ Only [.regs, .resets, .sharal] s t
        ∧ runAt t d .sample = some { r with phase := .sample, since := s.now })
      ∧ (awake s d = true → drained s d = false → r.since / 40 + drainLimit d ≤ s.ac → ∃ t, exec (.resetDrainEnd d) s = .next t
        ∧ runAt t d .sample = some { r with phase := .sample, since := s.now }
        ∧ (∀ c n, ∀ f ∈ ((t.core c).chan n).flights, c < 256 → n < 8 → openIn (domCores d) c f = false))))
  ∧ (∀ (s : State) (d : RDom) (k : SampleUnit), (runAt s d .sample = none → exec (.sampleReadTimeout d k) s = .next s)
    ∧ (∀ r c, runAt s d .sample = some r → chainOf s r.chain = some c →
      ((s.ac < r.since / 40 + 100 ∨ k ∈ c.marked) → exec (.sampleReadTimeout d k) s = .next s)
      ∧ (r.since / 40 + 100 ≤ s.ac → k ∉ c.marked →
        exec (.sampleReadTimeout d k) s = .next (setChain s { c with marked := c.marked ++ [k] }))))
  ∧ (∀ (s : State) (d : RDom), ((runAt s d .sample = none ∨ sampleTurn s d = false) → exec (.resetAssert d) s = .next s)
    ∧ (∀ r, runAt s d .sample = some r → sampleTurn s d = true → ∃ t, exec (.resetAssert d) s = .next t
      ∧ Only [.regs, .resets, .sharal, .out] s t ∧ runAt t d .asserted = some { r with phase := .asserted, since := s.now }))
  ∧ (∀ (s : State) (d : RDom), (runAt s d .asserted = none → exec (.resetComplete d) s = .next s)
    ∧ (∀ r, runAt s d .asserted = some r → ∃ t, exec (.resetComplete d) s = .next t ∧ (∀ x ∈ t.resets.runs, x.dom ≠ d)
      ∧ bit (t.evt slotMgmt).pulses 1 = true
      ∧ (∀ c, d = .core c → t.mem = s.mem ∧ ((∀ i ∈ s.drover.images, i.st ≠ .loading) → t.core c.val = Core.idle)
        ∧ ∀ x, x ≠ c.val → t.core x = s.core x)
      ∧ (d = .herd → t.herd.run = none ∧ t.mem = s.mem ∧ t.cores = s.cores)
      ∧ (d = .host → t.host.queues = [] ∧ t.host.banked = [] ∧ t.host.keys = s.host.keys ∧ t.mem = s.mem)
      ∧ (d = .module → t.mem = ⟨[], [], []⟩ ∧ t.cores = [] ∧ t.drover.insts = [] ∧ t.host.ctxs = [] ∧ t.roles = []
          ∧ t.power.pwrGood = true ∧ t.host.keys = s.host.keys)))
  ∧ (∀ (s : State) (d : RDom) (r : RRun) (l : Nat), runAt s d .asserted = some r → overdueAt d = some l →
    (s.ac < r.since / 40 + l → exec (.resetEscalate d) s = .next s)
    ∧ (r.since / 40 + l ≤ s.ac → exec (.resetEscalate d) s = .next (raise (s.bump slotMgmt 0x18C 1) (escalatesTo d) 4)))
  ∧ (∀ (s : State) (d : RDom), runAt s d .asserted = none → exec (.resetEscalate d) s = .next s)
  ∧ (∀ (s u : State) (f : FuncId) (v : Word), Reaches s f (regAt slotMgmt 0x19C) → u = s.fromHost →
    (bit v 30 = false → exec (.dumpArm f v) s = .next (u.softReg slotMgmt 0x19C (if dumpWriting s then 0 else 0x80000000)))
    ∧ (aoBusy s = true → exec (.aoClear f v) s = .next ((u.softReg slotMgmt 0x19C
        (if dumpWriting s then 0 else v &&& 0x80000000)).strobeRefused slotMgmt 0x19C 30 3))
    ∧ (aoBusy s = false → exec (.aoClear f v) s = .next (mapResets (u.softReg slotMgmt 0x19C
        (if dumpWriting s then 0 else v &&& 0x80000000)) (fun x => { x with ao := [], aoUsed := false }))))
  ∧ (∀ (s u : State) (f : FuncId), ReadReaches s f (regAt slotMgmt 0x1AC) → u = s.fromHost → u.dstate slotMgmt < 2 →
    regAt slotMgmt 0x1A8 ∉ s.soft → ∃ t, exec (.aoDataRead f) s = .next (State.toHost t (.readData f.val
        (leBytes 4 (wd s.resets.ao (bits (s.reg slotMgmt 0x1A8) 13 0)).toNat))) ∧ Only [.regs] u t
      ∧ bits (t.reg slotMgmt 0x1A8) 13 0 = (if bit (s.reg slotMgmt 0x1A8) 31 then (bits (s.reg slotMgmt 0x1A8) 13 0 + 1) % 16384
          else bits (s.reg slotMgmt 0x1A8) 13 0))
  ∧ (∀ (s u : State) (f : FuncId), ReadReaches s f (regAt slotMgmt 0x1AC) → u = s.fromHost → u.dstate slotMgmt < 2 →
    regAt slotMgmt 0x1A8 ∈ s.soft → exec (.aoDataRead f) s = .next (State.toHost u (.readData f.val
        (leBytes 4 (wd s.resets.ao (bits (s.reg slotMgmt 0x1A8) 13 0)).toNat))))

/-- TRACE_START, TRACE_STOP, TRACE_COPY, TRACE_COPY_DONE, TRACE_DATA_READ, COUNTER_START, COUNTER_STOP, COUNTER_CLEAR,
FAULT_COPY_TAKE, TALLY_RECORD_CLOSE, TALLY_PROGRAM, HOURS_INCREMENT, TALLY_LOAD and TALLY_CLEAR. START empties the ring and traces,
STOP ends tracing, TRACE_DATA reads the ring word by word (its index takes the software value of the same fc), COPY sends the ring to host memory unless tracing runs or the host may not be written. The counter strobes act
on every counter. The first fault copy leaves its queue, and makes a record where an entry of the trigger table takes its code:
a repetition raises REPEATS of an open record, another is new under the next SEQ, or is dropped when 512 are staged. A record
closes after 1 s; the oldest closed staged one is programmed, a sector being erased before its first. LOAD shows the record of
RD_SEQ. CLEAR needs function 0 and a session with CLEAR_LOG, and is refused otherwise. -/
def Obligations.ObservationAndTally : Prop :=
  (∀ (s u : State) (f : FuncId) (v : Word), Reaches s f (regAt slotMgmt 0x300) →
    u = s.fromHost.setReg slotMgmt 0x300 (v &&& 0x1000013F) →
    (bit v 30 = false → bit v 29 = false → exec (.traceStart f v) s = .next (u.mapSharal (fun h => { h with
      ring := [], tracing := true, trStart := s.now, trFull := false, trLost := 0, trQ := [], trDrop := [] })))
    ∧ (bit v 31 = false → bit v 29 = false → exec (.traceStop f v) s = .next (u.mapSharal (fun h => { h with tracing := false })))
    ∧ (bit v 31 = false → bit v 30 = false → (s.sharal.tracing = true ∨ hostWritable s = false) →
      exec (.traceCopy f v) s = .next (u.strobeRefused slotMgmt 0x300 29 3))
    ∧ (bit v 31 = false → bit v 30 = false → s.sharal.tracing = false → hostWritable s = true →
      exec (.traceCopy f v) s = .next ((u.toHost (.hostWrite 0 (mgmtAddr u 0x328 4096) (wordsBytes s.sharal.ring.flatten))).mapSharal
        (fun h => { h with copying := true }))))
  ∧ (∀ s : State, (s.sharal.copying = false → exec .traceCopyDone s = .next s)
    ∧ (s.sharal.copying = true → exec .traceCopyDone s
        = .next ((s.mapSharal (fun h => { h with copying := false })).pulse slotMgmt 5)))
  ∧ (∀ (s u : State) (f : FuncId), ReadReaches s f (regAt slotMgmt 0x324) → u = s.fromHost → u.dstate slotMgmt < 2 →
    regAt slotMgmt 0x320 ∉ s.soft → ∃ t, exec (.traceDataRead f) s = .next (State.toHost t (.readData f.val (leBytes 4 (wd (s.sharal.ring.getD
        (bits (s.reg slotMgmt 0x320) 17 0 / 8) []) (bits (s.reg slotMgmt 0x320) 17 0 % 8)).toNat))) ∧ Only [.regs] u t
      ∧ bits (t.reg slotMgmt 0x320) 17 0 = (if bit (s.reg slotMgmt 0x320) 31 then (bits (s.reg slotMgmt 0x320) 17 0 + 1) % 262144
          else bits (s.reg slotMgmt 0x320) 17 0))
  ∧ (∀ (s u : State) (f : FuncId), ReadReaches s f (regAt slotMgmt 0x324) → u = s.fromHost → u.dstate slotMgmt < 2 →
    regAt slotMgmt 0x320 ∈ s.soft → exec (.traceDataRead f) s = .next (State.toHost u (.readData f.val (leBytes 4
        (wd (s.sharal.ring.getD (bits (s.reg slotMgmt 0x320) 17 0 / 8) []) (bits (s.reg slotMgmt 0x320) 17 0 % 8)).toNat))))
  ∧ (∀ (s u : State) (f : FuncId) (v : Word), Reaches s f (regAt slotMgmt 0x340) → u = s.fromHost →
    (bit v 30 = false → bit v 29 = false →
      exec (.counterStart f v) s = .next (u.mapSharal (fun h => { h with counting := true })))
    ∧ (bit v 31 = false → bit v 29 = false →
      exec (.counterStop f v) s = .next (u.mapSharal (fun h => { h with counting := false })))
    ∧ (bit v 31 = false → bit v 30 = false → ∃ t, exec (.counterClear f v) s = .next t ∧ Only [.regs] u t
      ∧ (∀ slot off, off < 0x1000 → isCount slot off = false → t.reg slot off = u.reg slot off)
      ∧ (∀ c k, c < 256 → k < 16 → t.reg (slotCore c) (0xC00 + 4 * k) = 0) ∧ (∀ k < 64, t.reg slotHost (0xC00 + 4 * k) = 0)))
  ∧ (∀ s : State, s.sharal.copies = [] → exec .faultCopyTake s = .next s)
  ∧ (∀ (s : State) (c : FCopy) (rest : List FCopy), s.sharal.copies = c :: rest →
    ((∀ i < 64, (trigOf s i).takes c.code = false) →
      exec .faultCopyTake s = .next (s.mapSharal (fun h => { h with copies := rest })))
    ∧ (∀ (i : Nat) (snaps : List (Word × Word)), i < 64 → (trigOf s i).takes c.code = true →
      (∀ j < i, (trigOf s j).takes c.code = false) →
      snaps = (List.range (trigOf s i).nsnap).map (fun k => snapshot s c (wd (trigOf s i).snaps k)) →
      exec .faultCopyTake s = .next (tallyEvent (s.mapSharal (fun h => { h with copies := rest })) c.code (pageType c.slot)
        (pageInst c.slot) (snaps.map (·.1)) (snaps.map (·.2)))))
  ∧ (∀ (s : State) (code ty inst : Nat) (as vs : List Word),
    (∀ r, s.sharal.tally.newest = some r → tallyOpen s = true → r.same code ty inst as vs = true →
      tallyEvent s code ty inst as vs = s.mapTally (fun t => { t with
        recs := t.recs.dropLast ++ [{ r with repeats := min 0xFFFFFFFF (r.repeats + 1), last := s.ac48 }] }))
    ∧ ((∀ r, s.sharal.tally.newest = some r → tallyOpen s = false ∨ r.same code ty inst as vs = false) →
      (s.sharal.tally.staged < 512 → ∃ r, tallyEvent s code ty inst as vs = (s.mapTally (fun t => { t with
            recs := t.recs ++ [r], staged := t.staged + 1, head := t.head + 1, opened := some s.ac, dropped := 0 })).pulse slotTally 0
          ∧ r.seq = s.sharal.tally.head + 1 ∧ r.code = code ∧ r.repeats = 0 ∧ r.addrs = as ∧ r.vals = vs ∧ r.srcType = ty
          ∧ r.srcInst = inst ∧ r.cycles = s.sharal.tally.cycles ∧ r.hours = s.sharal.tally.hours
          ∧ r.dropped = s.sharal.tally.dropped)
      ∧ (512 ≤ s.sharal.tally.staged → ∃ t, tallyEvent s code ty inst as vs = t ∧ Only [.regs, .evts, .sharal] s t
          ∧ t.sharal.tally.recs = s.sharal.tally.recs ∧ t.sharal.tally.dropped = min 255 (s.sharal.tally.dropped + 1))))
  ∧ (∀ s : State, (s.sharal.tally.opened = none → exec .tallyRecordClose s = .next s)
    ∧ (∀ n, s.sharal.tally.opened = some n → (s.ac < n + 50000000 → exec .tallyRecordClose s = .next s)
      ∧ (n + 50000000 ≤ s.ac → exec .tallyRecordClose s = .next (s.mapTally (fun t => { t with opened := none })))))
  ∧ (∀ s : State, (s.sharal.tally.staged = 0 ∨ (s.sharal.tally.staged = 1 ∧ tallyOpen s = true) → exec .tallyProgram s = .next s)
    ∧ (∀ r, toProgram s = some r →
      ((r.seq - 1) % 512 ≠ 0 ∨ r.seq ≤ 32768 → exec .tallyProgram s = .next (s.mapTally (fun t => { t with staged := t.staged - 1 })))
      ∧ ((r.seq - 1) % 512 = 0 → 32768 < r.seq → exec .tallyProgram s = .next (s.mapTally (fun t => { t with
          recs := t.recs.filter (fun x => decide (r.seq - 32256 ≤ x.seq)), tail := max t.tail (r.seq - 32256),
          staged := t.staged - 1 })))))
  ∧ (∀ s : State,
    (s.power.aoOn = true → s.sharal.tally.hoursAt + 2812500000 ≤ s.ac → exec .hoursIncrement s = .next (s.mapTally (fun t => { t with
        hours := t.hours + 1, hoursAt := t.hoursAt + 2812500000 })))
    ∧ ((s.power.aoOn = false ∨ s.ac < s.sharal.tally.hoursAt + 2812500000) → exec .hoursIncrement s = .next s))
  ∧ (∀ (s u : State) (f : FuncId) (v q : Word), Reaches s f (regAt slotTally 0x05C) → u = s.fromHost → q = s.reg slotTally 0x058 →
    (∀ r, recordOf s q = some r → exec (.tallyLoad f v) s
        = .next (u.mapTally (fun t => { t with winStat := if r.crcBad then 5 else 2, win := r.words })))
    ∧ (recordOf s q = none → exec (.tallyLoad f v) s
        = .next (u.mapTally (fun t => { t with winStat := if seqView s.sharal.tally.head < q.toNat then 4 else 3 }))))
  ∧ (∀ (s u : State) (f : FuncId) (v : Word), Reaches s f (regAt slotTally 0x064) →
    u = (if f.val = 0 then s.fromHost.setReg slotTally 0x064 (v &&& 0xFF) else s.fromHost) →
    (f.val = 0 → mayClear s (bits v 7 0) = true → ∃ w x, exec (.tallyClear f v) s = .next (State.pulse (mandatory w 0x1008 x) slotTally 2)
      ∧ Only [.sharal] u w ∧ w.sharal.tally.recs = [] ∧ w.sharal.tally.staged = 0 ∧ w.sharal.tally.opened = none
      ∧ w.sharal.tally.tail = s.sharal.tally.head + 1 ∧ w.sharal.tally.head = s.sharal.tally.head)
    ∧ ((f.val ≠ 0 ∨ mayClear s (bits v 7 0) = false) →
      exec (.tallyClear f v) s = .next (u.strobeRefused slotTally 0x064 31 3)))

/-- FW_UPDATE, FW_CONFIRM, ROLLBACK_COMMIT, OWNER_SET, FABRIC_SAVE, FABRIC_ERASE and MAILBOX_RESPONSE. Each acts only on a message
of its code that has no outcome. A message of a wrong length is BAD_MESSAGE. FW_UPDATE writes an image that R440 accepts to slot A
for a trial, the running slot A being kept in slot B; one it rejects changes neither. FW_CONFIRM ends a trial of A, and needs one.
ROLLBACK_COMMIT raises the fuses to the running image's count, and needs an owner function. OWNER_SET writes slot 0 and closes its
sessions. FABRIC_SAVE keeps SELF, DIMS, the route table and the windows; FABRIC_ERASE forgets them. The response is written in
MB_RSP and ends the message; a reserved code gives BAD_MESSAGE. -/
def Obligations.MailboxMessages : Prop :=
  (∀ s : State, (∀ m, s.sharal.mbox = some m → m.code ≠ 1 ∨ m.rsp ≠ none) → exec .fwUpdate s = .next s)
  ∧ (∀ s : State, (∀ m, s.sharal.mbox = some m → m.code ≠ 2 ∨ m.rsp ≠ none) → exec .fwConfirm s = .next s)
  ∧ (∀ s : State, (∀ m, s.sharal.mbox = some m → m.code ≠ 3 ∨ m.rsp ≠ none) → exec .rollbackCommit s = .next s)
  ∧ (∀ s : State, (∀ m, s.sharal.mbox = some m → m.code ≠ 4 ∨ m.rsp ≠ none) → exec .ownerSet s = .next s)
  ∧ (∀ s : State, (∀ m, s.sharal.mbox = some m → m.code ≠ 5 ∨ m.rsp ≠ none) → exec .fabricSave s = .next s)
  ∧ (∀ s : State, (∀ m, s.sharal.mbox = some m → m.code ≠ 6 ∨ m.rsp ≠ none) → exec .fabricErase s = .next s)
  ∧ (∀ (s : State) (m : Mbox), s.sharal.mbox = some m → m.rsp = none → m.code = 1 →
    (fuBad m = true → exec .fwUpdate s = .next (mbAnswer s m 1 []))
    ∧ (fuBad m = false → fuPlaced (fuAddr m) (fuBytes m) = false → exec .fwUpdate s = .next (mbAnswer s m 6 []))
    ∧ (∀ i, fuBad m = false → fuPlaced (fuAddr m) (fuBytes m) = true → s.reach (fuAddr m) = .ready →
      (s.mem.verifyRange (fuAddr m) (fuBytes m)).1 = .good → i = fwOfBytes (s.mem.readN (fuAddr m) (fuBytes m)) →
      if fwCheck i s.sharal.fuse ≠ 0 then exec .fwUpdate s = .next (mbAnswer s m 3 [BitVec.ofNat 32 (fwCheck i s.sharal.fuse)])
      else ∃ t, exec .fwUpdate s = .next t ∧ Only [.regs, .evts, .power, .sharal] s t
        ∧ t.sharal.slotA = i ∧ (bootHdr t.sharal).trial = true ∧ (bootHdr t.sharal).tried = false
        ∧ t.sharal.slotB = (if s.sharal.runB = false ∧ (bootHdr s.sharal).trial = false then s.sharal.slotA else s.sharal.slotB)
        ∧ t.sharal.fuse = s.sharal.fuse ∧ t.sharal.mbox = some { m with rsp := some [0x01000000] }))
  ∧ (∀ (s : State) (m : Mbox), s.sharal.mbox = some m → m.rsp = none → m.code = 2 →
    (m.len ≠ 1 → exec .fwConfirm s = .next (mbAnswer s m 1 []))
    ∧ (m.len = 1 → (s.sharal.runB = true ∨ (bootHdr s.sharal).trial = false) → exec .fwConfirm s = .next (mbAnswer s m 4 []))
    ∧ (m.len = 1 → s.sharal.runB = false → (bootHdr s.sharal).trial = true → ∃ t, exec .fwConfirm s = .next t
      ∧ Only [.regs, .evts, .power, .sharal] s t ∧ (bootHdr t.sharal).trial = false ∧ t.sharal.slotA = s.sharal.slotA
      ∧ t.sharal.slotB = s.sharal.slotB ∧ t.sharal.mbox = some { m with rsp := some [0x02000000] }))
  ∧ (∀ (s : State) (m : Mbox), s.sharal.mbox = some m → m.rsp = none → m.code = 3 →
    (m.len ≠ 1 → exec .rollbackCommit s = .next (mbAnswer s m 1 []))
    ∧ (m.len = 1 → m.owner = false → exec .rollbackCommit s = .next (mbAnswer s m 2 []))
    ∧ (m.len = 1 → m.owner = true → (s.sharal.runB = true ∨ (bootHdr s.sharal).trial = true ∨ s.sharal.fwRoll ≤ s.sharal.fuse
        ∨ 64 < s.sharal.fwRoll) → exec .rollbackCommit s = .next (mbAnswer s m 4 []))
    ∧ (m.len = 1 → m.owner = true → s.sharal.runB = false → (bootHdr s.sharal).trial = false → s.sharal.fuse < s.sharal.fwRoll →
      s.sharal.fwRoll ≤ 64 → ∃ t, exec .rollbackCommit s = .next t ∧ Only [.regs, .evts, .power, .sharal] s t
        ∧ t.sharal.fuse = s.sharal.fwRoll ∧ t.sharal.slotA = s.sharal.slotA
        ∧ t.sharal.mbox = some { m with rsp := some [0x03000000] }))
  ∧ (∀ (s : State) (m : Mbox), s.sharal.mbox = some m → m.rsp = none → m.code = 4 →
    (m.len ≠ 9 → exec .ownerSet s = .next (mbAnswer s m 1 []))
    ∧ (m.len = 9 → m.owner = false → exec .ownerSet s = .next (mbAnswer s m 2 []))
    ∧ (m.len = 9 → m.owner = true → ∃ w, exec .ownerSet s
        = .next (mbAnswer (mandatory (closeWhere w 2 (fun x => x.slot == 0)) 0x100C [1]) m 0 []) ∧ Only [.host] s w
      ∧ Tbl.get w.host.keys 0 = some ⟨wordsBytes (m.words.drop 1), 0, 6, 0⟩
      ∧ (∀ k, k ≠ 0 → Tbl.get w.host.keys k = Tbl.get s.host.keys k) ∧ w.host.sessions = s.host.sessions))
  ∧ (∀ (s : State) (m : Mbox), s.sharal.mbox = some m → m.rsp = none →
    (m.code = 5 → m.len ≠ 1 → exec .fabricSave s = .next (mbAnswer s m 1 []))
    ∧ (m.code = 5 → m.len = 1 → ∃ r, exec .fabricSave s
        = .next (mbAnswer (s.mapSharal (fun h => { h with fabRec := some r })) m 0 [])
      ∧ r.self = s.reg slotRoute 0x040 ∧ r.dims = s.reg slotRoute 0x044 ∧ r.routes = s.fabric.routes
      ∧ (∀ k, 0x100 ≤ k → k < 0x200 → ∀ w, (regAt slotRoute k, w) ∈ s.regs → (k, w) ∈ r.windows))
    ∧ (m.code = 6 → m.len ≠ 1 → exec .fabricErase s = .next (mbAnswer s m 1 []))
    ∧ (m.code = 6 → m.len = 1 → exec .fabricErase s
        = .next (mbAnswer (s.mapSharal (fun h => { h with fabRec := none })) m 0 [])))
  ∧ (∀ s : State, s.sharal.mbox = none → exec .mailboxResponse s = .next s)
  ∧ (∀ (s : State) (m : Mbox), s.sharal.mbox = some m →
    (m.rsp = none → 1 ≤ m.code → m.code ≤ 7 → exec .mailboxResponse s = .next s)
    ∧ (∀ ws, (m.rsp = some ws ∨ (m.rsp = none ∧ (m.code = 0 ∨ 7 < m.code) ∧ ws = [fld m.code 24 ||| 1])) →
      ∃ t, exec .mailboxResponse s = .next t ∧ Only [.regs, .evts, .sharal] s t ∧ t.sharal.mbox = none
        ∧ t.reg slotMgmt 0x404 = 0x40000000#32 ||| BitVec.ofNat 32 ws.length ∧ bit (t.evt slotMgmt).pulses 3 = true
        ∧ (∀ k < ws.length, t.reg slotMgmt (0x600 + 4 * k) = ws.getD k 0)))

/-- WRITE_REG, READ_BOOT, READ_REG, TALLY_READ, AO_READ, OWNER_SET over SMBus, LAST_STATUS, RECOVERY_WRITE, RECOVERY_COMMIT,
RECOVERY_STATUS and SMB_ALERT_RESPONSE. A WRITE_REG with a good PEC, of a running firmware, is NACKed while WRITE_EN is 0. While it
is 1, it acts on a register of R448 as a write of function 0 without owner rights and pulses EXT_WRITE; on any other it writes
nothing (its outcome BAD_MESSAGE is log entry 29). Without power of the always-on domain no command acts; those that need the
firmware are NACKed while it does not run, and the recovery commands while it runs. OWNER_SET fills slot 0 only while it is empty.
RECOVERY_COMMIT restarts the module with an image that R440 accepts, or shows the check that failed. -/
def Obligations.SmbusCommands : Prop :=
  (∀ (s : State) (off v : Word) (pec : Option Bool), s.power.aoOn = true → fwRunning s = true → pecBad s pec = false →
    (bit (s.reg slotMgmt 0x240) 31 = false → exec (.writeReg off v pec) s = .next (smbRefuse s))
    ∧ (bit (s.reg slotMgmt 0x240) 31 = true → extReach off.toNat = true → s.dstate (off.toNat / 0x1000) < 2 →
      exec (.writeReg off v pec) s = .next (smbDone ((pageWrite s 0 false (off.toNat / 0x1000) (off.toNat % 0x1000) v).pulse slotMgmt 4) 0))
    ∧ (bit (s.reg slotMgmt 0x240) 31 = true → extReach off.toNat = false → exec (.writeReg off v pec) s = .next (smbDone s 1)))
  ∧ (∀ a : Nat, extReach a = true ↔ (a = regAt slotMgmt 0x100 ∨ a = regAt slotMgmt 0x180 ∨ a = regAt slotPwr 0x040
      ∨ a = regAt slotPwr 0x058 ∨ (a / 0x1000 = slotRoute ∧ a % 4 = 0)))
  ∧ (∀ (s : State) (k : Nat), Only [.regs, .sharal] s (smbDone s k) ∧ Only [.regs, .out] s (smbRefuse s)
      ∧ (smbDone s k).sharal.smbLast = k ∧ (smbRefuse s).out = s.out ++ [.smbNack])
  ∧ (∀ s : State, s.power.aoOn = false → exec .readBoot s = .next s ∧ exec .lastStatus s = .next s ∧ exec .recoveryStatus s = .next s
    ∧ (∀ o, exec (.readReg o) s = .next s ∧ exec (.tallyRead o) s = .next s ∧ exec (.aoRead o) s = .next s)
    ∧ (∀ o v p, exec (.writeReg o v p) s = .next s) ∧ (∀ k p, exec (.smbOwnerSet k p) s = .next s)
    ∧ (∀ o d p, exec (.recoveryWrite o d p) s = .next s) ∧ (∀ p, exec (.recoveryCommit p) s = .next s)
    ∧ exec .smbAlertResponse s = .next s)
  ∧ (∀ s : State, s.power.aoOn = true → fwRunning s = false →
    (∀ o, exec (.readReg o) s = .next (smbRefuse s) ∧ exec (.tallyRead o) s = .next (smbRefuse s)
      ∧ exec (.aoRead o) s = .next (smbRefuse s)) ∧ (∀ k p, exec (.smbOwnerSet k p) s = .next (smbRefuse s)))
  ∧ (∀ s : State, s.power.aoOn = true → fwRunning s = true → exec .recoveryStatus s = .next (smbRefuse s)
    ∧ (∀ o d p, exec (.recoveryWrite o d p) s = .next (smbRefuse s)) ∧ (∀ p, exec (.recoveryCommit p) s = .next (smbRefuse s)))
  ∧ (∀ s : State, s.power.aoOn = true →
    exec .readBoot s = .next (smbDone (smbReply s [1] (leBytes 4 (s.reg slotMgmt 0x104).toNat)) 0)
    ∧ exec .lastStatus s = .next (smbDone (smbReply s [7] [BitVec.ofNat 8 s.sharal.smbLast]) s.sharal.smbLast))
  ∧ (∀ (s : State) (o : Word), s.power.aoOn = true → fwRunning s = true →
    (smbPage (o.toNat / 0x1000) = true → o.toNat % 4 = 0 → exec (.readReg o) s
        = .next (smbDone (smbCall (readEffect s o.toNat) 2 o (leBytes 4 (regRead s 0 o.toNat).toNat)) 0))
    ∧ (∀ r, recordOf s o = some r → exec (.tallyRead o) s
        = .next (smbDone (smbCall s 4 o (leBytes 4 (if r.crcBad then 5 else 2) ++ wordsBytes r.words)) 0))
    ∧ (o.toNat + 128 ≤ 65536 → exec (.aoRead o) s = .next (smbDone (smbCall s 5 o (aoBytes s o.toNat)) 0)))
  ∧ (∀ (s : State) (k : Vector Byte 32) (p : Option Bool), s.power.aoOn = true → fwRunning s = true →
    (pecBad s p = true → exec (.smbOwnerSet k p) s = .next (smbRefuse s))
    ∧ (pecBad s p = false → Tbl.get s.host.keys 0 ≠ none → exec (.smbOwnerSet k p) s = .next (smbDone s 4))
    ∧ (pecBad s p = false → Tbl.get s.host.keys 0 = none → ∃ w, exec (.smbOwnerSet k p) s
        = .next (smbDone (mandatory (closeWhere w 2 (fun x => x.slot == 0)) 0x100C [0]) 0) ∧ Only [.host] s w
      ∧ Tbl.get w.host.keys 0 = some ⟨k.toList, 0, 6, 0⟩ ∧ (∀ i, i ≠ 0 → Tbl.get w.host.keys i = Tbl.get s.host.keys i)))
  ∧ (∀ (s : State) (o : Word) (d : List Byte) (p : Option Bool), s.power.aoOn = true → fwRunning s = false →
    exec .recoveryStatus s = .next (smbDone (smbReply s [0x12] [BitVec.ofNat 8 s.sharal.recStat]) 0)
    ∧ (pecBad s p = true → exec (.recoveryWrite o d p) s = .next (smbRefuse s) ∧ exec (.recoveryCommit p) s = .next (smbRefuse s))
    ∧ (pecBad s p = false → 458752 < o.toNat + d.length → exec (.recoveryWrite o d p) s = .next (smbDone s 1))
    ∧ (pecBad s p = false → o.toNat + d.length ≤ 458752 → ∃ t, exec (.recoveryWrite o d p) s = .next t ∧ Only [.regs, .sharal] s t
      ∧ (∀ i < d.length, Tbl.getD t.sharal.recBuf (o.toNat + i) 0 = d.getD i 0)
      ∧ (∀ a, (a < o.toNat ∨ o.toNat + d.length ≤ a) → Tbl.getD t.sharal.recBuf a 0 = Tbl.getD s.sharal.recBuf a 0)
      ∧ t.sharal.smbLast = 0)
    ∧ (pecBad s p = false →
      if fwCheck (recoveryImage s.sharal) s.sharal.fuse ≠ 0 then ∃ t, exec (.recoveryCommit p) s = .next t
        ∧ Only [.regs, .sharal] s t ∧ t.sharal.recStat = 0x10 + fwCheck (recoveryImage s.sharal) s.sharal.fuse
        ∧ t.sharal.smbLast = 3 ∧ t.sharal.slotA = s.sharal.slotA
      else ∃ w, exec (.recoveryCommit p) s = .next (startUp w none) ∧ Only [.regs, .sharal] s w
        ∧ w.sharal.slotA = recoveryImage s.sharal ∧ (bootHdr w.sharal).trial = false ∧ w.sharal.fuse = s.sharal.fuse))
  ∧ (∀ s : State, s.power.aoOn = true → (s.power.alert = false → exec .smbAlertResponse s = .next s)
    ∧ (s.power.alert = true → ∃ t b, exec .smbAlertResponse s = .next t ∧ Only [.power, .out] s t ∧ t.power.alert = false
      ∧ t.out = s.out ++ [.smbus [BitVec.ofNat 8 (2 * (0x60 + Config.modAddr.val)), b]]))

/-- Whatever 32-bit write of BAR0 a virtual function makes, every register of the MGMT page and of the LINK routing page keeps its
value, and so do the key slots, the contexts, the roles, the resets in progress, the route table, both firmware slots, the fuses and
the fabric record; every open session of another function stays open as it was, and every banked register of another function keeps
its value. -/
def Obligations.VirtualFunctionsAreContained : Prop :=
  ∀ (s t : State) (f : FuncId) (off : Nat) (v : Word), f.val ≠ 0 → exec (.registerWrite f off v) s = .next t →
    (∀ o < 0x1000, t.reg slotMgmt o = s.reg slotMgmt o ∧ t.reg slotRoute o = s.reg slotRoute o)
    ∧ t.host.keys = s.host.keys ∧ t.host.ctxs = s.host.ctxs ∧ t.roles = s.roles ∧ t.resets = s.resets
    ∧ t.fabric.routes = s.fabric.routes ∧ t.sharal.slotA = s.sharal.slotA ∧ t.sharal.slotB = s.sharal.slotB
    ∧ t.sharal.fuse = s.sharal.fuse ∧ t.sharal.fabRec = s.sharal.fabRec
    ∧ (∀ n x, Tbl.get s.host.sessions n = some x → x.func ≠ f.val → Tbl.get t.host.sessions n = some x)
    ∧ (∀ g o, g ≠ f.val → o < 0x100 → t.bank_ g o = s.bank_ g o)
end

