-- ==== Sys2Proof/Laws/Keeps.lean ====
section
/-! SUPPORT. What an operation may change and what it keeps, as one relation that chains: the frame of a
long meaning is the union of the frames of what it calls. -/

namespace Sys2Proof.Machine

/-- `t` comes from `s` by changes to the parts `ps` alone, and is sound where `s` is. -/
structure Keeps (ps : List Part) (s t : State) : Prop where
  only : Only ps s t
  sound : s.sound → t.sound

theorem Only.refl (ps : List Part) (s : State) : Only ps s s :=
  ⟨rfl, fun p _ => by cases p <;> rfl⟩

theorem Part.same_trans {p : Part} {s t u : State} (h : p.same s t) (k : p.same t u) : p.same s u := by
  cases p <;> exact Eq.trans k h

theorem Only.trans {ps : List Part} {s t u : State} (h : Only ps s t) (k : Only ps t u) : Only ps s u :=
  ⟨k.1.trans h.1, fun p hp => Part.same_trans (h.2 p hp) (k.2 p hp)⟩

theorem Only.mono {ps qs : List Part} {s t : State} (h : Only ps s t) (hs : ps ⊆ qs) : Only qs s t :=
  ⟨h.1, fun p hp => h.2 p (fun hm => hp (hs hm))⟩

theorem Keeps.refl (ps : List Part) (s : State) : Keeps ps s s := ⟨Only.refl ps s, id⟩

theorem Keeps.trans {ps : List Part} {s t u : State} (h : Keeps ps s t) (k : Keeps ps t u) : Keeps ps s u :=
  ⟨h.only.trans k.only, fun x => k.sound (h.sound x)⟩

theorem Keeps.mono {ps qs : List Part} {s t : State} (h : Keeps ps s t) (hs : ps ⊆ qs) : Keeps qs s t :=
  ⟨h.only.mono hs, h.sound⟩

/-- The last operation of a chain goes, with the parts that it may change. -/
theorem Keeps.cut {ps qs : List Part} {s t u : State} (k : Keeps ps t u) (hs : ps ⊆ qs) (h : Keeps qs s t) : Keeps qs s u :=
  h.trans (k.mono hs)

theorem Keeps.foldl {α : Type} {ps : List Part} {s t : State} (f : State → α → State) (l : List α)
    (hf : ∀ u a, Keeps ps u (f u a)) (h : Keeps ps s t) : Keeps ps s (l.foldl f t) := by
  induction l generalizing t with
  | nil => exact h
  | cons a l ih => exact ih (h.trans (hf t a))

/-- A fold that carries a value beside the state. -/
theorem Keeps.foldl_fst {α β : Type} {ps : List Part} {s : State} (f : State × β → α → State × β) (l : List α) (u : State × β)
    (hf : ∀ v a, Keeps ps v.1 (f v a).1) (h : Keeps ps s u.1) : Keeps ps s (l.foldl f u).1 := by
  induction l generalizing u with
  | nil => exact h
  | cons a l ih => exact ih _ (h.trans (hf u a))

theorem Keeps.ite {ps : List Part} {c : Prop} [Decidable c] {s a b : State} (h : c → Keeps ps s a) (k : ¬c → Keeps ps s b) :
    Keeps ps s (if c then a else b) := by
  by_cases x : c
  · rw [if_pos x]; exact h x
  · rw [if_neg x]; exact k x

theorem Keeps.onlyIf {ps : List Part} {s t : State} (c : Bool) (f : State → State)
    (hf : Keeps ps t (f t)) (h : Keeps ps s t) : Keeps ps s (onlyIf c f t) := by
  unfold Sys2Proof.Machine.onlyIf
  split
  · exact h.trans hf
  · exact h

/-- Where the three sound parts are the same, only the frame is in question. -/
theorem Keeps.of_only {ps : List Part} {s t : State} (h : Only ps s t) (hm : t.mem = s.mem := by rfl)
    (hr : t.roles = s.roles := by rfl) (hf : t.faults = s.faults := by rfl) : Keeps ps s t :=
  ⟨h, fun x => by unfold State.sound at *; rw [hm, hr, hf]; exact x⟩

/-! ### Operations that answer a state or nothing, or a state or a value -/

/-- The state that an operation answers, or the one it started from. -/
def optState (s : State) : Option State → State
  | some t => t
  | none => s

def inlState {α : Type} (s : State) : State ⊕ α → State
  | .inl t => t
  | .inr _ => s

theorem optState_some (s t : State) : optState s (some t) = t := rfl
theorem optState_none (s : State) : optState s none = s := rfl
theorem inlState_inl {α : Type} (s t : State) : inlState (α := α) s (.inl t) = t := rfl
theorem inlState_inr {α : Type} (s : State) (a : α) : inlState s (.inr a) = s := rfl

theorem Keeps.opt_ite {ps : List Part} {c : Prop} [Decidable c] {s u : State} {a b : Option State}
    (h : c → Keeps ps s (optState u a)) (k : ¬c → Keeps ps s (optState u b)) : Keeps ps s (optState u (if c then a else b)) := by
  by_cases x : c
  · rw [if_pos x]; exact h x
  · rw [if_neg x]; exact k x

theorem Keeps.inl_ite {α : Type} {ps : List Part} {c : Prop} [Decidable c] {s u : State} {a b : State ⊕ α}
    (h : c → Keeps ps s (inlState u a)) (k : ¬c → Keeps ps s (inlState u b)) : Keeps ps s (inlState u (if c then a else b)) := by
  by_cases x : c
  · rw [if_pos x]; exact h x
  · rw [if_neg x]; exact k x

theorem Keeps.opt_if {ps : List Part} {c : Prop} [Decidable c] {s u : State} {o : Option State}
    (h : (if c then o else none) = some u) (k : Keeps ps s (optState s o)) : Keeps ps s u := by
  by_cases x : c
  · rw [if_pos x] at h
    rw [h] at k
    exact k
  · rw [if_neg x] at h
    cases h

theorem Keeps.opt_find {α : Type} {ps : List Part} {s : State} (l : List α) (f : α → Option State)
    (h : ∀ a, Keeps ps s (optState s (f a))) : Keeps ps s (optState s (l.findSome? f)) := by
  induction l with
  | nil => exact Keeps.refl ps s
  | cons a l ih =>
    rw [List.findSome?_cons]
    have k := h a
    split
    · rename_i hb
      rw [hb] at k
      exact k
    · exact ih

/-- Several parts written: the stores kept or emptied, the roles kept or emptied, faults only dropped. -/
theorem Keeps.parts {ps : List Part} {s t u : State} (h0 : Keeps ps s t) (h : Only ps t u)
    (hm : u.mem = t.mem ∨ u.mem = ⟨[], [], []⟩) (hr : u.roles = t.roles ∨ u.roles = [])
    (hf : ∀ p ∈ u.faults, p ∈ t.faults) : Keeps ps s u := by
  refine h0.trans ⟨h, fun k => ?_⟩
  unfold State.sound at *
  simp only [Bool.and_eq_true, List.all_eq_true, decide_eq_true_eq] at *
  refine ⟨⟨?_, ?_⟩, fun p hp => k.2 p (hf p hp)⟩
  · rcases hm with hm | hm
    · rw [hm]; exact k.1.1
    · rw [hm]; rfl
  · rcases hr with hr | hr
    · rw [hr]; exact k.1.2
    · rw [hr]; exact Nat.zero_le _

/-! ### One part written -/

theorem Only.now (s : State) (v : Nat) : Only [.now] s { s with now := v } :=
  ⟨rfl, fun p hp => by cases p <;> first | rfl | simp at hp⟩
theorem Only.regs (s : State) (v : Tbl Word) : Only [.regs] s { s with regs := v } :=
  ⟨rfl, fun p hp => by cases p <;> first | rfl | simp at hp⟩
theorem Only.evts (s : State) (v : Tbl EvtState) : Only [.evts] s { s with evts := v } :=
  ⟨rfl, fun p hp => by cases p <;> first | rfl | simp at hp⟩
theorem Only.faults (s : State) (v : Tbl FaultPage) : Only [.faults] s { s with faults := v } :=
  ⟨rfl, fun p hp => by cases p <;> first | rfl | simp at hp⟩
theorem Only.mem (s : State) (v : Memory) : Only [.mem] s { s with mem := v } :=
  ⟨rfl, fun p hp => by cases p <;> first | rfl | simp at hp⟩
theorem Only.slots (s : State) (v : List Nat) : Only [.slots] s { s with slots := v } :=
  ⟨rfl, fun p hp => by cases p <;> first | rfl | simp at hp⟩
theorem Only.soft (s : State) (v : List Nat) : Only [.soft] s { s with soft := v } :=
  ⟨rfl, fun p hp => by cases p <;> first | rfl | simp at hp⟩
theorem Only.cores (s : State) (v : Tbl Core) : Only [.cores] s { s with cores := v } :=
  ⟨rfl, fun p hp => by cases p <;> first | rfl | simp at hp⟩
theorem Only.drover (s : State) (v : Drover) : Only [.drover] s { s with drover := v } :=
  ⟨rfl, fun p hp => by cases p <;> first | rfl | simp at hp⟩
theorem Only.herd (s : State) (v : Herd) : Only [.herd] s { s with herd := v } :=
  ⟨rfl, fun p hp => by cases p <;> first | rfl | simp at hp⟩
theorem Only.paddock (s : State) (v : Paddock) : Only [.paddock] s { s with paddock := v } :=
  ⟨rfl, fun p hp => by cases p <;> first | rfl | simp at hp⟩
theorem Only.fabric (s : State) (v : Fabric) : Only [.fabric] s { s with fabric := v } :=
  ⟨rfl, fun p hp => by cases p <;> first | rfl | simp at hp⟩
theorem Only.host (s : State) (v : HostPort) : Only [.host] s { s with host := v } :=
  ⟨rfl, fun p hp => by cases p <;> first | rfl | simp at hp⟩
theorem Only.power (s : State) (v : Power) : Only [.power] s { s with power := v } :=
  ⟨rfl, fun p hp => by cases p <;> first | rfl | simp at hp⟩
theorem Only.resets (s : State) (v : Resets) : Only [.resets] s { s with resets := v } :=
  ⟨rfl, fun p hp => by cases p <;> first | rfl | simp at hp⟩
theorem Only.sharal (s : State) (v : Sharal) : Only [.sharal] s { s with sharal := v } :=
  ⟨rfl, fun p hp => by cases p <;> first | rfl | simp at hp⟩
theorem Only.roles (s : State) (v : List (BitVec 4)) : Only [.roles] s { s with roles := v } :=
  ⟨rfl, fun p hp => by cases p <;> first | rfl | simp at hp⟩
theorem Only.out (s : State) (v : List Out) : Only [.out] s { s with out := v } :=
  ⟨rfl, fun p hp => by cases p <;> first | rfl | simp at hp⟩
theorem Only.free (s : State) (v : Nat) : Only [.free] s { s with free := v } :=
  ⟨rfl, fun p hp => by cases p <;> first | rfl | simp at hp⟩

theorem Keeps.now (s : State) (v : Nat) : Keeps [.now] s { s with now := v } := .of_only (Only.now s v)
theorem Keeps.regs (s : State) (v : Tbl Word) : Keeps [.regs] s { s with regs := v } := .of_only (Only.regs s v)
theorem Keeps.evts (s : State) (v : Tbl EvtState) : Keeps [.evts] s { s with evts := v } := .of_only (Only.evts s v)
theorem Keeps.slots (s : State) (v : List Nat) : Keeps [.slots] s { s with slots := v } := .of_only (Only.slots s v)
theorem Keeps.soft (s : State) (v : List Nat) : Keeps [.soft] s { s with soft := v } := .of_only (Only.soft s v)
theorem Keeps.cores (s : State) (v : Tbl Core) : Keeps [.cores] s { s with cores := v } := .of_only (Only.cores s v)
theorem Keeps.drover (s : State) (v : Drover) : Keeps [.drover] s { s with drover := v } := .of_only (Only.drover s v)
theorem Keeps.herd (s : State) (v : Herd) : Keeps [.herd] s { s with herd := v } := .of_only (Only.herd s v)
theorem Keeps.paddock (s : State) (v : Paddock) : Keeps [.paddock] s { s with paddock := v } := .of_only (Only.paddock s v)
theorem Keeps.fabric (s : State) (v : Fabric) : Keeps [.fabric] s { s with fabric := v } := .of_only (Only.fabric s v)
theorem Keeps.host (s : State) (v : HostPort) : Keeps [.host] s { s with host := v } := .of_only (Only.host s v)
theorem Keeps.power (s : State) (v : Power) : Keeps [.power] s { s with power := v } := .of_only (Only.power s v)
theorem Keeps.resets (s : State) (v : Resets) : Keeps [.resets] s { s with resets := v } := .of_only (Only.resets s v)
theorem Keeps.sharal (s : State) (v : Sharal) : Keeps [.sharal] s { s with sharal := v } := .of_only (Only.sharal s v)
theorem Keeps.out (s : State) (v : List Out) : Keeps [.out] s { s with out := v } := .of_only (Only.out s v)
theorem Keeps.free (s : State) (v : Nat) : Keeps [.free] s { s with free := v } := .of_only (Only.free s v)

/-- The state after the stores are written. -/
theorem Keeps.mem (s : State) (m : Memory) (h : s.mem.wf → m.wf) : Keeps [.mem] s { s with mem := m } := by
  refine ⟨Only.mem s m, fun k => ?_⟩
  unfold State.sound at *
  simp only [Bool.and_eq_true] at *
  exact ⟨⟨h k.1.1, k.1.2⟩, k.2⟩

end Sys2Proof.Machine
end

