-- ==== Sys2Proof/Laws/Memory.lean ====
section
/-! SUPPORT. The laws of the stores: what a read after a write gives, and that every operation on the stores keeps
their canonical form. -/

namespace Sys2Proof.Machine

/-! ### Sparse tables -/

@[simp] theorem Tbl.get_set_same {α : Type} (t : Tbl α) (i : Nat) (v : α) : Tbl.get (Tbl.set t i v) i = some v := by
  induction t with
  | nil => simp [Tbl.set, Tbl.get]
  | cons p t ih =>
    obtain ⟨k, w⟩ := p
    unfold Tbl.set
    split
    · simp [Tbl.get]
    · split
      · simp [Tbl.get]
      · rename_i h _
        simp [Tbl.get, h, ih]

theorem Tbl.get_set_other {α : Type} (t : Tbl α) {i j : Nat} (v : α) (h : j ≠ i) :
    Tbl.get (Tbl.set t i v) j = Tbl.get t j := by
  induction t with
  | nil => simp [Tbl.set, Tbl.get, Ne.symm h]
  | cons p t ih =>
    obtain ⟨k, w⟩ := p
    unfold Tbl.set
    split
    · rename_i hk
      subst hk
      simp [Tbl.get, Ne.symm h]
    · split
      · simp [Tbl.get, Ne.symm h]
      · simp [Tbl.get, ih]

@[simp] theorem Tbl.getD_set_same {α : Type} (t : Tbl α) (i : Nat) (v d : α) : Tbl.getD (Tbl.set t i v) i d = v := by
  simp [Tbl.getD]

theorem Tbl.getD_set_other {α : Type} (t : Tbl α) {i j : Nat} (v d : α) (h : j ≠ i) :
    Tbl.getD (Tbl.set t i v) j d = Tbl.getD t j d := by
  simp [Tbl.getD, Tbl.get_set_other t v h]

theorem Tbl.get_filter {α : Type} (t : Tbl α) (p : Nat → Bool) (i : Nat) :
    Tbl.get (t.filter (fun x => p x.1)) i = if p i then Tbl.get t i else none := by
  induction t with
  | nil => simp [Tbl.get]
  | cons x t ih =>
    obtain ⟨k, w⟩ := x
    by_cases hp : p k
    · simp only [List.filter, hp, Tbl.get]
      by_cases hk : k = i
      · subst hk; simp [hp]
      · simp [hk, ih]
    · simp only [List.filter, hp, Tbl.get]
      by_cases hk : k = i
      · subst hk; simp [hp, ih]
      · simp [hk, ih]

@[simp] theorem Tbl.get_del_same {α : Type} (t : Tbl α) (i : Nat) : Tbl.get (Tbl.del t i) i = none := by
  unfold Tbl.del
  rw [Tbl.get_filter t (fun k => k != i) i]
  simp

theorem Tbl.get_del_other {α : Type} (t : Tbl α) {i j : Nat} (h : j ≠ i) : Tbl.get (Tbl.del t i) j = Tbl.get t j := by
  unfold Tbl.del
  rw [Tbl.get_filter t (fun k => k != i) j]
  simp [h]

/-! ### Read after write -/

@[simp] theorem Memory.read_write_same (m : Memory) (a : Nat) (v : Byte) : (m.write a v).read a = v := by
  unfold Memory.write Memory.read cellsWrite
  split
  · rename_i h
    simp [Tbl.getD, h]
  · simp

theorem Memory.read_write_other (m : Memory) {a b : Nat} (v : Byte) (h : b ≠ a) : (m.write a v).read b = m.read b := by
  unfold Memory.write Memory.read cellsWrite
  split
  · simp [Tbl.getD, Tbl.get_del_other _ h]
  · simp [Tbl.getD_set_other _ _ _ h]

theorem Memory.read_writeN_below (m : Memory) (a : Nat) (bs : List Byte) {b : Nat} (h : b < a) :
    (m.writeN a bs).read b = m.read b := by
  induction bs generalizing m a with
  | nil => rfl
  | cons x bs ih =>
    unfold Memory.writeN
    rw [ih _ _ (Nat.lt_succ_of_lt h), Memory.read_write_other _ _ (Nat.ne_of_lt h)]

/-- Bytes outside those written read as before. -/
theorem Memory.read_writeN_outside (m : Memory) (a : Nat) (bs : List Byte) {b : Nat} (h : b < a ∨ a + bs.length ≤ b) :
    (m.writeN a bs).read b = m.read b := by
  induction bs generalizing m a with
  | nil => rfl
  | cons x bs ih =>
    unfold Memory.writeN
    simp only [List.length_cons] at h
    rw [ih _ _ (by omega), Memory.read_write_other _ _ (by omega)]

/-- Byte `i` of those written is what was written. -/
theorem Memory.read_writeN_inside (m : Memory) (a : Nat) (bs : List Byte) (i : Nat) (h : i < bs.length) :
    (m.writeN a bs).read (a + i) = bs[i] := by
  induction bs generalizing m a i with
  | nil => simp at h
  | cons x bs ih =>
    unfold Memory.writeN
    cases i with
    | zero => simp [Memory.read_writeN_below]
    | succ i =>
      rw [show a + (i + 1) = a + 1 + i by omega]
      exact ih _ _ _ (by simpa using h)

@[simp] theorem Memory.setCheck_read (m : Memory) (k : Nat) (v : Word) (a : Nat) : (m.setCheck k v).read a = m.read a := rfl

@[simp] theorem Memory.mark_read (m : Memory) (k a : Nat) : (m.mark k).read a = m.read a := by
  unfold Memory.mark; split <;> rfl

/-- A part of a block that is put: bytes outside it read as before. -/
theorem Memory.read_putPart_outside (m : Memory) (a : Nat) (bs : List Byte) {b : Nat} (h : b < a ∨ a + bs.length ≤ b) :
    (m.putPart a bs).read b = m.read b := m.read_writeN_outside a bs h

theorem Memory.read_putGo_outside (n : Nat) (m : Memory) (a : Nat) (bs : List Byte) {b : Nat}
    (h : b < a ∨ a + bs.length ≤ b) : (Memory.putGo n m a bs).read b = m.read b := by
  induction n generalizing m a bs with
  | zero => rfl
  | succ n ih =>
    cases bs with
    | nil => rfl
    | cons x bs =>
      unfold Memory.putGo
      simp only [List.length_cons] at h
      rw [ih]
      · apply Memory.read_putPart_outside
        simp only [List.length_take, List.length_cons]
        omega
      · simp only [List.length_drop, List.length_cons]
        omega

/-- Bytes put in their blocks leave every other byte as it was. -/
theorem Memory.read_put_outside (m : Memory) (a : Nat) (bs : List Byte) {b : Nat} (h : b < a ∨ a + bs.length ≤ b) :
    (m.put a bs).read b = m.read b := m.read_putGo_outside _ a bs h

theorem Memory.read_putGo_inside (n : Nat) (m : Memory) (a : Nat) (bs : List Byte) (hn : bs.length + a % 512 < 512 * n)
    (i : Nat) (h : i < bs.length) : (Memory.putGo n m a bs).read (a + i) = bs[i] := by
  induction n generalizing m a bs i with
  | zero => omega
  | succ n ih =>
    cases bs with
    | nil => simp at h
    | cons x bs =>
      unfold Memory.putGo
      simp only
      by_cases hi : i < 512 - a % 512
      · rw [Memory.read_putGo_outside _ _ _ _ (.inl (by omega))]
        have hl : i < ((x :: bs).take (512 - a % 512)).length := by
          simp only [List.length_take]; omega
        have := m.read_writeN_inside a _ i hl
        rw [List.getElem_take] at this
        exact this
      · have hd : i - (512 - a % 512) < ((x :: bs).drop (512 - a % 512)).length := by
          simp only [List.length_drop]; omega
        have := ih (m.putPart a ((x :: bs).take (512 - a % 512))) (a + (512 - a % 512)) ((x :: bs).drop (512 - a % 512))
          (by simp only [List.length_drop]; omega) _ hd
        rw [List.getElem_drop] at this
        rw [show a + (512 - a % 512) + (i - (512 - a % 512)) = a + i by omega] at this
        rw [this]
        congr 1
        omega

/-- Byte `i` of those put is what was put. -/
theorem Memory.read_put_inside (m : Memory) (a : Nat) (bs : List Byte) (i : Nat) (h : i < bs.length) :
    (m.put a bs).read (a + i) = bs[i] := by
  unfold Memory.put
  exact Memory.read_putGo_inside _ _ _ _ (by omega) _ h

/-! ### Canonical form -/

theorem cellsWf_iff (cs : List Host.Cell) :
    cellsWf cs = true ↔ cs.Pairwise (fun x y => x.1 < y.1) ∧ ∀ c ∈ cs, c.2 ≠ memDefault := by
  induction cs with
  | nil => simp [cellsWf]
  | cons x cs ih =>
    obtain ⟨a, v⟩ := x
    cases cs with
    | nil => simp [cellsWf]
    | cons y cs =>
      obtain ⟨b, w⟩ := y
      simp only [cellsWf, Bool.and_eq_true, bne_iff_ne, ne_eq, decide_eq_true_eq, ih]
      constructor
      · rintro ⟨⟨hv, hab⟩, hp, hd⟩
        refine ⟨List.pairwise_cons.2 ⟨?_, hp⟩, ?_⟩
        · intro c hc
          rcases List.mem_cons.1 hc with rfl | hc
          · exact hab
          · exact Nat.lt_trans hab ((List.pairwise_cons.1 hp).1 c hc)
        · intro c hc
          rcases List.mem_cons.1 hc with rfl | hc
          · exact hv
          · exact hd c hc
      · rintro ⟨hp, hd⟩
        exact ⟨⟨hd (a, v) (by simp), (List.pairwise_cons.1 hp).1 (b, w) (by simp)⟩, (List.pairwise_cons.1 hp).2,
          fun c hc => hd c (List.mem_cons_of_mem _ hc)⟩

theorem cellsWf_filter {cs : List Host.Cell} (p : Host.Cell → Bool) (h : cellsWf cs = true) : cellsWf (cs.filter p) = true := by
  rw [cellsWf_iff] at *
  exact ⟨h.1.filter p, fun c hc => h.2 c (List.mem_of_mem_filter hc)⟩

theorem Tbl.mem_set {α : Type} {t : Tbl α} {i : Nat} {v : α} {p : Nat × α} (h : p ∈ Tbl.set t i v) : p = (i, v) ∨ p ∈ t := by
  induction t with
  | nil => simpa [Tbl.set] using h
  | cons x t ih =>
    obtain ⟨k, w⟩ := x
    unfold Tbl.set at h
    split at h
    · rcases List.mem_cons.1 h with h | h
      · exact .inl h
      · exact .inr (List.mem_cons_of_mem _ h)
    · split at h
      · rcases List.mem_cons.1 h with h | h
        · exact .inl h
        · exact .inr h
      · rcases List.mem_cons.1 h with h | h
        · exact .inr (h ▸ List.mem_cons_self)
        · rcases ih h with h | h
          · exact .inl h
          · exact .inr (List.mem_cons_of_mem _ h)

/-- A table in rising order stays in rising order when a value is set. -/
theorem Tbl.set_rising {α : Type} (t : Tbl α) (i : Nat) (v : α) (h : t.Pairwise (fun x y => x.1 < y.1)) :
    (Tbl.set t i v).Pairwise (fun x y => x.1 < y.1) := by
  induction t with
  | nil => simp [Tbl.set]
  | cons x t ih =>
    obtain ⟨k, w⟩ := x
    have hh := List.pairwise_cons.1 h
    unfold Tbl.set
    split
    · rename_i hk
      subst hk
      exact List.pairwise_cons.2 ⟨hh.1, hh.2⟩
    · split
      · rename_i hlt
        refine List.pairwise_cons.2 ⟨?_, h⟩
        intro c hc
        rcases List.mem_cons.1 hc with rfl | hc
        · exact hlt
        · exact Nat.lt_trans hlt (hh.1 c hc)
      · rename_i hne hlt
        refine List.pairwise_cons.2 ⟨?_, ih hh.2⟩
        intro c hc
        rcases Tbl.mem_set hc with rfl | hc
        · show k < i
          omega
        · exact hh.1 c hc

theorem cellsWf_write {cs : List Host.Cell} (a : Nat) (v : Byte) (h : cellsWf cs = true) : cellsWf (cellsWrite cs a v) = true := by
  unfold cellsWrite
  split
  · exact cellsWf_filter _ h
  · rename_i hv
    rw [cellsWf_iff] at *
    refine ⟨Tbl.set_rising cs a v h.1, ?_⟩
    intro c hc
    rcases Tbl.mem_set hc with rfl | hc
    · exact hv
    · exact h.2 c hc

/-! One lemma for each operation on the stores. -/

theorem Memory.write_wf (m : Memory) (a : Nat) (v : Byte) (h : m.wf) : (m.write a v).wf := cellsWf_write a v h

theorem Memory.writeN_wf (m : Memory) (a : Nat) (bs : List Byte) (h : m.wf) : (m.writeN a bs).wf := by
  induction bs generalizing m a with
  | nil => exact h
  | cons b bs ih => exact ih _ _ (m.write_wf a b h)

theorem Memory.setCheck_wf (m : Memory) (k : Nat) (v : Word) (h : m.wf) : (m.setCheck k v).wf := h

theorem Memory.zeroRange_wf (m : Memory) (a n : Nat) (h : m.wf) : (m.zeroRange a n).wf := cellsWf_filter _ h

theorem Memory.mark_wf (m : Memory) (a : Nat) (h : m.wf) : (m.mark a).wf := by
  unfold Memory.mark; split <;> exact h

theorem Memory.putPart_wf (m : Memory) (a : Nat) (bs : List Byte) (h : m.wf) : (m.putPart a bs).wf := m.writeN_wf a bs h

theorem Memory.putGo_wf (n : Nat) (m : Memory) (a : Nat) (bs : List Byte) (h : m.wf) : (Memory.putGo n m a bs).wf := by
  induction n generalizing m a bs with
  | zero => exact h
  | succ n ih =>
    cases bs with
    | nil => exact h
    | cons b bs => exact ih _ _ _ (m.putPart_wf _ _ h)

theorem Memory.put_wf (m : Memory) (a : Nat) (bs : List Byte) (h : m.wf) : (m.put a bs).wf := m.putGo_wf _ a bs h

theorem Memory.moveBlock_wf (m : Memory) (x y : Nat) (h : m.wf) : (m.moveBlock x y).wf := by
  have k := m.writeN_wf (y * 512) (m.block x) h
  unfold Memory.moveBlock
  generalize m.block x = bs at *
  exact k

theorem writeCells_wf (cs : List Host.Cell) (m : Memory) (h : m.wf) : (cs.foldl (fun m c => m.write c.1 c.2) m).wf := by
  induction cs generalizing m with
  | nil => exact h
  | cons c cs ih => exact ih _ (m.write_wf c.1 c.2 h)

theorem mergeCells_wf (m : Memory) (k : Nat) (cs : List Host.Cell) (h : m.wf) : (mergeCells m k cs).2.wf := by
  unfold mergeCells
  dsimp only
  split
  · exact writeCells_wf cs m h
  · exact h

/-- A fold of operations that keep the form keeps it. -/
theorem Memory.foldl_wf {α : Type} (f : Memory → α → Memory) (l : List α) (hf : ∀ m a, m.wf → (f m a).wf) (m : Memory)
    (h : m.wf) : (l.foldl f m).wf := by
  induction l generalizing m with
  | nil => exact h
  | cons a l ih => exact ih _ (hf m a h)

theorem Memory.markRange_wf (m : Memory) (a n : Nat) (h : m.wf) : (m.markRange a n).wf :=
  Memory.foldl_wf _ _ (fun m _ hm => Memory.mark_wf m _ hm) m h

theorem Memory.fromHost_wf (m : Memory) (a : Nat) (bs : List Byte) (e : Bool) (h : m.wf) : (m.fromHost a bs e).wf := by
  unfold Memory.fromHost
  split
  · exact Memory.markRange_wf _ _ _ (m.putPart_wf a bs h)
  · exact m.putPart_wf a bs h

theorem writePage_wf (m : Memory) (a k : Nat) (h bs : List Byte) (hm : m.wf) : (writePage m a k h bs).wf := m.put_wf _ _ hm

/-- Free values at some addresses. -/
theorem freeCell_wf (n : Nat) (m : Memory) (x : Nat × Nat) (h : m.wf) :
    (if m.verify (x.1 / 512) = .good then m.putPart x.1 [Config.freeByte (n + x.2)] else m).wf := by
  split
  · exact m.putPart_wf _ _ h
  · exact h

theorem copyDown_wf (m : Memory) (a b : Nat) (x y : List Byte) (h : m.wf) : ((m.put a x).put b y).wf :=
  Memory.put_wf _ _ _ (m.put_wf a x h)

theorem putGold_wf (m : Memory) (g w e : Nat) (us : List PUnit) (h : m.wf) : (putGold m g w e us).wf :=
  Memory.put_wf _ _ _ (Memory.put_wf _ _ _ h)

theorem putHeader_wf (m : Memory) (g k : Nat) (o : Option Nat) (h : m.wf) : (putHeader m g k o).wf := m.put_wf _ _ h

theorem atomicGo_wf (f : Nat) (m : Memory) (a : Nat) (bs : List Byte) (n : Nat) (h : m.wf) : (atomicGo f m a bs n).wf := by
  induction n generalizing m a bs with
  | zero => unfold atomicGo; exact h
  | succ n ih => unfold atomicGo; exact ih _ _ _ (m.put_wf _ _ h)

theorem flushOut_wf (n : Nat) (m : Memory) (a : Nat) (bs : List Byte) (k : Nat) (l : Bool) (h : m.wf) :
    (flushOut n m a bs k l).1.wf := by
  induction n generalizing m a bs k with
  | zero => exact h
  | succ n ih =>
    unfold flushOut
    split
    · exact ih _ _ _ _ (m.put_wf _ _ h)
    · split
      · exact m.put_wf _ _ h
      · exact h

end Sys2Proof.Machine
end

