-- ==== Sys2Proof/Laws/Ops.lean ====
section
/-! SUPPORT. What the operations of Machine/Ops.lean may change. -/

set_option linter.unusedTactic false
set_option linter.unreachableTactic false

namespace Sys2Proof.Machine

theorem Tbl.mem_of_get {α : Type} {t : Tbl α} {i : Nat} {v : α} (h : Tbl.get t i = some v) : (i, v) ∈ t := by
  induction t with
  | nil => cases h
  | cons x t ih =>
    obtain ⟨k, w⟩ := x
    unfold Tbl.get at h
    split at h
    · rename_i hk
      injection h with h
      subst hk
      subst h
      exact List.mem_cons_self
    · exact List.mem_cons_of_mem _ (ih h)

/-- A page has no more faults waiting than any listed page has. -/
theorem faultPage_le (s : State) (slot : Nat) (h : ∀ p ∈ s.faults, p.2.queue.length ≤ 4) :
    (s.faultPage slot).queue.length ≤ 4 := by
  unfold State.faultPage Tbl.getD
  cases hg : Tbl.get s.faults slot with
  | none => exact Nat.zero_le _
  | some v => exact h _ (Tbl.mem_of_get hg)

theorem State.mapMem_keeps (s : State) (f : Memory → Memory) (hf : ∀ m, m.wf → (f m).wf) :
    Keeps [.mem] s (s.mapMem f) := by
  refine ⟨Only.mem _ _, fun h => ?_⟩
  unfold State.sound at *
  simp only [Bool.and_eq_true] at *
  exact ⟨⟨hf _ h.1.1, h.1.2⟩, h.2⟩

theorem State.setCore_keeps (s : State) (c : Nat) (k : Core) : Keeps [.cores] s (State.setCore s c k) := by
  unfold State.setCore
  repeat' first
    | dsimp only
    | with_reducible apply Keeps.refl
    | with_reducible exact (Keeps.cores s _).mono (by decide)
    | ((with_reducible apply Keeps.cut (Keeps.cores ..)); case hs => decide)

theorem State.mapCore_keeps (s : State) (c : Nat) (f : Core → Core) : Keeps [.cores] s (State.mapCore s c f) := by
  unfold State.mapCore
  repeat' first
    | dsimp only
    | with_reducible apply Keeps.refl
    | ((with_reducible apply Keeps.cut (State.setCore_keeps ..)); case hs => decide)

theorem State.wr_keeps (s : State) (a : Nat) (v : Word) : Keeps [.regs] s (State.wr s a v) := by
  unfold State.wr
  repeat' first
    | dsimp only
    | with_reducible apply Keeps.refl
    | with_reducible exact (Keeps.regs s _).mono (by decide)
    | ((with_reducible apply Keeps.cut (Keeps.regs ..)); case hs => decide)

theorem State.setReg_keeps (s : State) (slot : Nat) (off : Nat) (v : Word) : Keeps [.regs] s (State.setReg s slot off v) := by
  unfold State.setReg
  repeat' first
    | dsimp only
    | with_reducible apply Keeps.refl
    | ((with_reducible apply Keeps.cut (State.wr_keeps ..)); case hs => decide)

theorem State.softReg_keeps (s : State) (slot : Nat) (off : Nat) (v : Word) : Keeps [.regs, .soft] s (State.softReg s slot off v) := by
  unfold State.softReg
  repeat' first
    | dsimp only
    | with_reducible apply Keeps.refl
    | ((with_reducible apply Keeps.cut (State.setReg_keeps ..)); case hs => decide)
    | with_reducible apply Keeps.ite <;> intro _
    | split
    | with_reducible exact (Keeps.soft s _).mono (by decide)
    | ((with_reducible apply Keeps.cut (Keeps.soft ..)); case hs => decide)

theorem State.hardReg_keeps (s : State) (slot : Nat) (off : Nat) (v : Word) : Keeps [.regs] s (State.hardReg s slot off v) := by
  unfold State.hardReg
  repeat' first
    | dsimp only
    | with_reducible apply Keeps.refl
    | ((with_reducible apply Keeps.cut (State.setReg_keeps ..)); case hs => decide)
    | with_reducible apply Keeps.ite <;> intro _
    | split

theorem State.dropPage_keeps (s : State) (slot : Nat) (keep : Nat → Bool) : Keeps [.regs] s (State.dropPage s slot keep) := by
  unfold State.dropPage
  repeat' first
    | dsimp only
    | with_reducible apply Keeps.refl
    | with_reducible exact (Keeps.regs s _).mono (by decide)
    | ((with_reducible apply Keeps.cut (Keeps.regs ..)); case hs => decide)

theorem State.setEvt_keeps (s : State) (slot : Nat) (e : EvtState) : Keeps [.evts] s (State.setEvt s slot e) := by
  unfold State.setEvt
  repeat' first
    | dsimp only
    | with_reducible apply Keeps.refl
    | with_reducible exact (Keeps.evts s _).mono (by decide)
    | ((with_reducible apply Keeps.cut (Keeps.evts ..)); case hs => decide)

theorem State.pulse_keeps (s : State) (slot : Nat) (i : Nat) : Keeps [.evts] s (State.pulse s slot i) := by
  unfold State.pulse
  repeat' first
    | dsimp only
    | with_reducible apply Keeps.refl
    | ((with_reducible apply Keeps.cut (State.setEvt_keeps ..)); case hs => decide)

theorem State.fault_keeps (s : State) (slot : Nat) (r : FaultRec) : Keeps [.faults] s (State.fault s slot r) := by
  refine ⟨Only.faults _ _, fun h => ?_⟩
  unfold State.sound at *
  simp only [Bool.and_eq_true, List.all_eq_true, decide_eq_true_eq] at *
  refine ⟨h.1, ?_⟩
  intro p hp
  unfold State.fault at hp
  dsimp only at hp
  rcases Tbl.mem_set hp with rfl | hp
  · dsimp only
    split
    · assumption
    · simp only [List.length_take]
      omega
  · exact h.2 p hp

theorem State.strobeRefused_keeps (s : State) (slot : Nat) (off : Nat) (bitNo : Nat) (reason : Nat) : Keeps [.faults] s (State.strobeRefused s slot off bitNo reason) := by
  unfold State.strobeRefused
  repeat' first
    | dsimp only
    | with_reducible apply Keeps.refl
    | ((with_reducible apply Keeps.cut (State.fault_keeps ..)); case hs => decide)

theorem State.emit_keeps (s : State) (o : Out) : Keeps [.out] s (State.emit s o) := by
  unfold State.emit
  repeat' first
    | dsimp only
    | with_reducible apply Keeps.refl
    | with_reducible exact (Keeps.out s _).mono (by decide)
    | ((with_reducible apply Keeps.cut (Keeps.out ..)); case hs => decide)

theorem State.draw_keeps (s : State) (n : Nat) : Keeps [.free] s (State.draw s n) := by
  unfold State.draw
  repeat' first
    | dsimp only
    | with_reducible apply Keeps.refl
    | with_reducible exact (Keeps.free s _).mono (by decide)
    | ((with_reducible apply Keeps.cut (Keeps.free ..)); case hs => decide)

end Sys2Proof.Machine
end

