-- ==== Sys2Proof/Laws/Units.lean ====
section
/-! SUPPORT. What the operations of Machine/Units.lean may change. -/

set_option linter.unusedTactic false
set_option linter.unreachableTactic false

namespace Sys2Proof.Machine

theorem State.mapPower_keeps (s : State) (f : Power → Power) : Keeps [.power] s (State.mapPower s f) := by
  unfold State.mapPower
  repeat' first
    | dsimp only
    | with_reducible apply Keeps.refl
    | with_reducible exact (Keeps.power s _).mono (by decide)
    | ((with_reducible apply Keeps.cut (Keeps.power ..)); case hs => decide)

theorem State.setDom_keeps (s : State) (d : Nat) (v : Dom) : Keeps [.power] s (State.setDom s d v) := by
  unfold State.setDom
  repeat' first
    | dsimp only
    | with_reducible apply Keeps.refl
    | ((with_reducible apply Keeps.cut (State.mapPower_keeps ..)); case hs => decide)

theorem countOn_keeps (s : State) (slot : Nat) (code : Nat) (n : Nat) (ok : Word → Bool) : Keeps [.regs] s (countOn s slot code n ok) := by
  unfold countOn
  repeat' first
    | dsimp only
    | with_reducible apply Keeps.refl
    | ((with_reducible apply Keeps.cut (State.setReg_keeps ..)); case hs => decide)
    | (with_reducible apply Keeps.foldl) <;> try intro _ _
    | with_reducible apply Keeps.ite <;> intro _
    | split

theorem countEvent_keeps (s : State) (slot : Nat) (code : Nat) (n : Nat) : Keeps [.regs] s (countEvent s slot code n) := by
  unfold countEvent
  repeat' first
    | dsimp only
    | with_reducible apply Keeps.refl
    | ((with_reducible apply Keeps.cut (countOn_keeps ..)); case hs => decide)
    | with_reducible apply Keeps.ite <;> intro _
    | split

theorem countFlits_keeps (s : State) (p : Nat) (code : Nat) (vc : Nat) (n : Nat) : Keeps [.regs] s (countFlits s p code vc n) := by
  unfold countFlits
  repeat' first
    | dsimp only
    | with_reducible apply Keeps.refl
    | ((with_reducible apply Keeps.cut (countOn_keeps ..)); case hs => decide)
    | with_reducible apply Keeps.ite <;> intro _
    | split

theorem State.bump_keeps (s : State) (slot : Nat) (off : Nat) (n : Nat) : Keeps [.regs] s (State.bump s slot off n) := by
  unfold State.bump
  repeat' first
    | dsimp only
    | with_reducible apply Keeps.refl
    | ((with_reducible apply Keeps.cut (countEvent_keeps ..)); case hs => decide)
    | ((with_reducible apply Keeps.cut (State.setReg_keeps ..)); case hs => decide)
    | with_reducible apply Keeps.ite <;> intro _
    | split

theorem traceEv_keeps (s : State) (cls : Nat) (kind : Nat) (slot : Nat) (inst : Nat) (ctx : Nat) (task : Nat) (d : List Word) : Keeps [.sharal] s (traceEv s cls kind slot inst ctx task d) := by
  unfold traceEv
  repeat' first
    | dsimp only
    | with_reducible apply Keeps.refl
    | with_reducible apply Keeps.ite <;> intro _
    | split
    | with_reducible exact (Keeps.sharal s _).mono (by decide)
    | ((with_reducible apply Keeps.cut (Keeps.sharal ..)); case hs => decide)

theorem traceStore_keeps (s : State) (e : List Word) : Keeps [.sharal] s (traceStore s e) := by
  unfold traceStore
  repeat' first
    | dsimp only
    | with_reducible apply Keeps.refl
    | with_reducible apply Keeps.ite <;> intro _
    | split
    | with_reducible exact (Keeps.sharal s _).mono (by decide)
    | ((with_reducible apply Keeps.cut (Keeps.sharal ..)); case hs => decide)

theorem traceWrite_keeps (s : State) : Keeps [.sharal] s (traceWrite s) := by
  unfold traceWrite
  repeat' first
    | dsimp only
    | with_reducible apply Keeps.refl
    | ((with_reducible apply Keeps.cut (traceStore_keeps ..)); case hs => decide)
    | (with_reducible apply Keeps.foldl) <;> try intro _ _
    | with_reducible exact (Keeps.sharal s _).mono (by decide)
    | ((with_reducible apply Keeps.cut (Keeps.sharal ..)); case hs => decide)

theorem State.mapHost_keeps (s : State) (f : HostPort → HostPort) : Keeps [.host] s (State.mapHost s f) := by
  unfold State.mapHost
  repeat' first
    | dsimp only
    | with_reducible apply Keeps.refl
    | with_reducible exact (Keeps.host s _).mono (by decide)
    | ((with_reducible apply Keeps.cut (Keeps.host ..)); case hs => decide)

theorem State.setQueue_keeps (s : State) (q : Nat) (v : HQueue) : Keeps [.host] s (State.setQueue s q v) := by
  unfold State.setQueue
  repeat' first
    | dsimp only
    | with_reducible apply Keeps.refl
    | ((with_reducible apply Keeps.cut (State.mapHost_keeps ..)); case hs => decide)

theorem State.toHost_keeps (s : State) (o : Out) : Keeps [.regs, .out] s (State.toHost s o) := by
  unfold State.toHost
  repeat' first
    | dsimp only
    | with_reducible apply Keeps.refl
    | ((with_reducible apply Keeps.cut (countEvent_keeps ..)); case hs => decide)
    | ((with_reducible apply Keeps.cut (State.emit_keeps ..)); case hs => decide)

theorem State.fromHost_keeps (s : State) : Keeps [.regs] s (State.fromHost s) := by
  unfold State.fromHost
  repeat' first
    | dsimp only
    | with_reducible apply Keeps.refl
    | ((with_reducible apply Keeps.cut (countEvent_keeps ..)); case hs => decide)

theorem sendVector_keeps (s : State) (f : Nat) (v : Nat) : Keeps [.regs, .host, .out] s (sendVector s f v) := by
  unfold sendVector
  repeat' first
    | dsimp only
    | with_reducible apply Keeps.refl
    | ((with_reducible apply Keeps.cut (State.toHost_keeps ..)); case hs => decide)
    | ((with_reducible apply Keeps.cut (State.mapHost_keeps ..)); case hs => decide)
    | with_reducible apply Keeps.ite <;> intro _
    | split

theorem evtMsg_keeps (s : State) (slot : Nat) : Keeps [.regs, .host, .out] s (evtMsg s slot) := by
  unfold evtMsg
  repeat' first
    | dsimp only
    | with_reducible apply Keeps.refl
    | ((with_reducible apply Keeps.cut (sendVector_keeps ..)); case hs => decide)
    | ((with_reducible apply Keeps.cut (State.emit_keeps ..)); case hs => decide)
    | with_reducible apply Keeps.ite <;> intro _
    | split

theorem evtAfterWrite_keeps (s : State) (slot : Nat) : Keeps [.regs, .host, .out] s (evtAfterWrite s slot) := by
  unfold evtAfterWrite
  repeat' first
    | dsimp only
    | with_reducible apply Keeps.refl
    | ((with_reducible apply Keeps.cut (evtMsg_keeps ..)); case hs => decide)
    | with_reducible apply Keeps.ite <;> intro _
    | split

theorem unsupported_keeps (s : State) : Keeps [.regs, .evts] s (unsupported s) := by
  unfold unsupported
  repeat' first
    | dsimp only
    | with_reducible apply Keeps.refl
    | ((with_reducible apply Keeps.cut (State.bump_keeps ..)); case hs => decide)
    | ((with_reducible apply Keeps.cut (State.pulse_keeps ..)); case hs => decide)

theorem countFollower_keeps (was : PSt) (s : State) (d : Nat) : Keeps [.regs] s (countFollower was s d) := by
  unfold countFollower
  repeat' first
    | dsimp only
    | with_reducible apply Keeps.refl
    | ((with_reducible apply Keeps.cut (State.bump_keeps ..)); case hs => decide)
    | with_reducible apply Keeps.ite <;> intro _
    | split

theorem changeDom_keeps (s : State) (d : Nat) (v : Dom) : Keeps [.regs, .evts, .power, .sharal] s (changeDom s d v) := by
  unfold changeDom
  repeat' first
    | dsimp only
    | with_reducible apply Keeps.refl
    | ((with_reducible apply Keeps.cut (countFollower_keeps ..)); case hs => decide)
    | ((with_reducible apply Keeps.cut (traceEv_keeps ..)); case hs => decide)
    | ((with_reducible apply Keeps.cut (State.setDom_keeps ..)); case hs => decide)
    | ((with_reducible apply Keeps.cut (State.pulse_keeps ..)); case hs => decide)
    | (with_reducible apply Keeps.foldl) <;> try intro _ _
    | with_reducible apply Keeps.ite <;> intro _
    | split

theorem countWake_keeps (was : List Nat) (s : State) : Keeps [.regs] s (countWake was s) := by
  unfold countWake
  repeat' first
    | dsimp only
    | with_reducible apply Keeps.refl
    | ((with_reducible apply Keeps.cut (State.bump_keeps ..)); case hs => decide)
    | (with_reducible apply Keeps.foldl) <;> try intro _ _

theorem wakeOne_keeps (s : State) (d : Nat) : Keeps [.regs, .evts, .power, .sharal] s (wakeOne s d) := by
  unfold wakeOne
  repeat' first
    | dsimp only
    | with_reducible apply Keeps.refl
    | ((with_reducible apply Keeps.cut (countWake_keeps ..)); case hs => decide)
    | ((with_reducible apply Keeps.cut (changeDom_keeps ..)); case hs => decide)
    | ((with_reducible apply Keeps.cut (State.setDom_keeps ..)); case hs => decide)
    | with_reducible apply Keeps.ite <;> intro _
    | split

theorem startWake_keeps (s : State) (d : Nat) : Keeps [.regs, .evts, .power, .sharal] s (startWake s d) := by
  unfold startWake
  repeat' first
    | dsimp only
    | with_reducible apply Keeps.refl
    | ((with_reducible apply Keeps.cut (wakeOne_keeps ..)); case hs => decide)

theorem startEntry_keeps (s : State) (d : Nat) (t : PSt) : Keeps [.regs, .power] s (startEntry s d t) := by
  unfold startEntry
  repeat' first
    | dsimp only
    | with_reducible apply Keeps.refl
    | ((with_reducible apply Keeps.cut (State.bump_keeps ..)); case hs => decide)
    | ((with_reducible apply Keeps.cut (State.setDom_keeps ..)); case hs => decide)
    | ((with_reducible apply Keeps.cut (State.mapPower_keeps ..)); case hs => decide)

theorem startOn_keeps (s : State) (d : Nat) : Keeps [.regs, .evts, .power, .sharal] s (startOn s d) := by
  unfold startOn
  repeat' first
    | dsimp only
    | with_reducible apply Keeps.refl
    | ((with_reducible apply Keeps.cut (wakeOne_keeps ..)); case hs => decide)
    | ((with_reducible apply Keeps.cut (countWake_keeps ..)); case hs => decide)
    | ((with_reducible apply Keeps.cut (State.setDom_keeps ..)); case hs => decide)

end Sys2Proof.Machine
end

