-- ==== Sys2Proof/Laws/Store.lean ====
section
/-! SUPPORT. What the operations of Machine/Store.lean may change. -/

set_option linter.unusedTactic false
set_option linter.unreachableTactic false

namespace Sys2Proof.Machine

theorem takePort_keeps (s : State) (p : Nat) (n : Nat) : Keeps [.slots] s (takePort s p n) := by
  unfold takePort
  repeat' first
    | dsimp only
    | with_reducible apply Keeps.refl
    | with_reducible apply Keeps.ite <;> intro _
    | split
    | with_reducible exact (Keeps.slots s _).mono (by decide)
    | ((with_reducible apply Keeps.cut (Keeps.slots ..)); case hs => decide)

theorem countSlots_keeps (s : State) (a : Nat) (n : Nat) : Keeps [.regs] s (countSlots s a n) := by
  unfold countSlots
  repeat' first
    | dsimp only
    | with_reducible apply Keeps.refl
    | ((with_reducible apply Keeps.cut (countEvent_keeps ..)); case hs => decide)
    | with_reducible apply Keeps.ite <;> intro _
    | split

theorem touchDom_keeps (s : State) (a : Nat) : Keeps [.power] s (touchDom s a) := by
  unfold touchDom
  repeat' first
    | dsimp only
    | with_reducible apply Keeps.refl
    | ((with_reducible apply Keeps.cut (State.setDom_keeps ..)); case hs => decide)
    | with_reducible apply Keeps.ite <;> intro _
    | split

end Sys2Proof.Machine
end

