-- ==== Sys2Proof/Laws/Tasks.lean ====
section
/-! SUPPORT. What the operations of Machine/Tasks.lean may change. -/

set_option linter.unusedTactic false
set_option linter.unreachableTactic false

namespace Sys2Proof.Machine

theorem State.mapDrover_keeps (s : State) (f : Drover → Drover) : Keeps [.drover] s (State.mapDrover s f) := by
  unfold State.mapDrover
  repeat' first
    | dsimp only
    | with_reducible apply Keeps.refl
    | with_reducible exact (Keeps.drover s _).mono (by decide)
    | ((with_reducible apply Keeps.cut (Keeps.drover ..)); case hs => decide)

theorem setImage_keeps (s : State) (i : Image) : Keeps [.drover] s (setImage s i) := by
  unfold setImage
  repeat' first
    | dsimp only
    | with_reducible apply Keeps.refl
    | ((with_reducible apply Keeps.cut (State.mapDrover_keeps ..)); case hs => decide)
    | with_reducible apply Keeps.ite <;> intro _
    | split

theorem imageAnswered_keeps (s : State) (i : Image) : Keeps [.host] s (imageAnswered s i) := by
  unfold imageAnswered
  repeat' first
    | dsimp only
    | with_reducible apply Keeps.refl
    | ((with_reducible apply Keeps.cut (State.setQueue_keeps ..)); case hs => decide)

theorem copyIn_keeps (s : State) (src : Nat) (size : Nat) : Keeps [.mem] s (copyIn s src size) := by
  unfold copyIn
  repeat' first
    | dsimp only
    | with_reducible apply Keeps.refl
    | ((with_reducible apply Keeps.cut (State.mapMem_keeps _ _ (fun _ hm => Memory.put_wf _ _ _ hm))); case hs => decide)
    | ((with_reducible apply Keeps.cut (State.mapMem_keeps _ _ (fun _ hm => Memory.mark_wf _ _ hm))); case hs => decide)
    | ((with_reducible apply Keeps.cut (State.mapMem_keeps _ _ (fun _ hm => Memory.putPart_wf _ _ _ hm))); case hs => decide)
    | ((with_reducible apply Keeps.cut (State.mapMem_keeps _ _ (fun _ hm => Memory.moveBlock_wf _ _ _ hm))); case hs => decide)
    | ((with_reducible apply Keeps.cut (State.mapMem_keeps _ _ (fun _ hm => Memory.zeroRange_wf _ _ _ hm))); case hs => decide)
    | ((with_reducible apply Keeps.cut (State.mapMem_keeps _ _ (fun _ hm => Memory.zeroRange_wf _ _ _ (Memory.zeroRange_wf _ _ _ hm)))); case hs => decide)
    | ((with_reducible apply Keeps.cut (State.mapMem_keeps _ _ (fun _ hm => atomicGo_wf _ _ _ _ _ hm))); case hs => decide)
    | ((with_reducible apply Keeps.cut (State.mapMem_keeps _ _ (fun _ hm => putHeader_wf _ _ _ _ hm))); case hs => decide)
    | ((with_reducible apply Keeps.cut (State.mapMem_keeps _ _ (fun _ hm => putHeader_wf _ _ _ _ (putGold_wf _ _ _ _ _ hm)))); case hs => decide)
    | ((with_reducible apply Keeps.cut (State.mapMem_keeps _ _ (fun _ hm => putHeader_wf _ _ _ _ (by split <;> first | exact putGold_wf _ _ _ _ _ hm | exact hm)))); case hs => decide)
    | ((with_reducible apply Keeps.cut (State.mapMem_keeps _ _ (fun _ hm => Memory.fromHost_wf _ _ _ _ hm))); case hs => decide)
    | ((with_reducible apply Keeps.cut (State.mapMem_keeps _ _ (fun _ hm => copyDown_wf _ _ _ _ _ hm))); case hs => decide)
    | ((with_reducible apply Keeps.cut (State.mapMem_keeps _ _ (fun _ hm => Memory.foldl_wf _ _ (fun _ _ h => freeCell_wf _ _ _ h) _ hm))); case hs => decide)
    | ((with_reducible apply Keeps.cut (State.mapMem_keeps _ _ (fun _ hm => Memory.foldl_wf _ _ (fun _ _ h => writePage_wf _ _ _ _ _ h) _ hm))); case hs => decide)

theorem copyOut_keeps (s : State) (key : Nat) : Keeps [.mem] s (copyOut s key) := by
  unfold copyOut
  repeat' first
    | dsimp only
    | with_reducible apply Keeps.refl
    | ((with_reducible apply Keeps.cut (State.mapMem_keeps _ _ (fun _ hm => Memory.put_wf _ _ _ hm))); case hs => decide)
    | ((with_reducible apply Keeps.cut (State.mapMem_keeps _ _ (fun _ hm => Memory.mark_wf _ _ hm))); case hs => decide)
    | ((with_reducible apply Keeps.cut (State.mapMem_keeps _ _ (fun _ hm => Memory.putPart_wf _ _ _ hm))); case hs => decide)
    | ((with_reducible apply Keeps.cut (State.mapMem_keeps _ _ (fun _ hm => Memory.moveBlock_wf _ _ _ hm))); case hs => decide)
    | ((with_reducible apply Keeps.cut (State.mapMem_keeps _ _ (fun _ hm => Memory.zeroRange_wf _ _ _ hm))); case hs => decide)
    | ((with_reducible apply Keeps.cut (State.mapMem_keeps _ _ (fun _ hm => Memory.zeroRange_wf _ _ _ (Memory.zeroRange_wf _ _ _ hm)))); case hs => decide)
    | ((with_reducible apply Keeps.cut (State.mapMem_keeps _ _ (fun _ hm => atomicGo_wf _ _ _ _ _ hm))); case hs => decide)
    | ((with_reducible apply Keeps.cut (State.mapMem_keeps _ _ (fun _ hm => putHeader_wf _ _ _ _ hm))); case hs => decide)
    | ((with_reducible apply Keeps.cut (State.mapMem_keeps _ _ (fun _ hm => putHeader_wf _ _ _ _ (putGold_wf _ _ _ _ _ hm)))); case hs => decide)
    | ((with_reducible apply Keeps.cut (State.mapMem_keeps _ _ (fun _ hm => putHeader_wf _ _ _ _ (by split <;> first | exact putGold_wf _ _ _ _ _ hm | exact hm)))); case hs => decide)
    | ((with_reducible apply Keeps.cut (State.mapMem_keeps _ _ (fun _ hm => Memory.fromHost_wf _ _ _ _ hm))); case hs => decide)
    | ((with_reducible apply Keeps.cut (State.mapMem_keeps _ _ (fun _ hm => copyDown_wf _ _ _ _ _ hm))); case hs => decide)
    | ((with_reducible apply Keeps.cut (State.mapMem_keeps _ _ (fun _ hm => Memory.foldl_wf _ _ (fun _ _ h => freeCell_wf _ _ _ h) _ hm))); case hs => decide)
    | ((with_reducible apply Keeps.cut (State.mapMem_keeps _ _ (fun _ hm => Memory.foldl_wf _ _ (fun _ _ h => writePage_wf _ _ _ _ _ h) _ hm))); case hs => decide)
    | (with_reducible apply Keeps.foldl) <;> try intro _ _

theorem setTask_keeps (s : State) (t : Nat) (v : Task) : Keeps [.drover] s (setTask s t v) := by
  unfold setTask
  repeat' first
    | dsimp only
    | with_reducible apply Keeps.refl
    | ((with_reducible apply Keeps.cut (State.mapDrover_keeps ..)); case hs => decide)

theorem wantAbort_keeps (s : State) (t : Nat) (code : Nat) : Keeps [.cores, .drover] s (wantAbort s t code) := by
  unfold wantAbort
  repeat' first
    | dsimp only
    | with_reducible apply Keeps.refl
    | ((with_reducible apply Keeps.cut (State.mapDrover_keeps ..)); case hs => decide)
    | with_reducible apply Keeps.ite <;> intro _
    | split
    | with_reducible exact (Keeps.cores s _).mono (by decide)
    | ((with_reducible apply Keeps.cut (Keeps.cores ..)); case hs => decide)

theorem taskFault_keeps (s : State) (slot : Nat) (t : Nat) (core : Option Nat) (code : Nat) (addr : Option Nat) (d0 : Word) (d1 : Word) : Keeps [.faults, .cores, .drover] s (taskFault s slot t core code addr d0 d1) := by
  unfold taskFault
  repeat' first
    | dsimp only
    | with_reducible apply Keeps.refl
    | ((with_reducible apply Keeps.cut (wantAbort_keeps ..)); case hs => decide)
    | ((with_reducible apply Keeps.cut (State.fault_keeps ..)); case hs => decide)

theorem taskTrace_keeps (s : State) (cls : Nat) (kind : Nat) (slot : Nat) (t : Nat) (d : List Word) : Keeps [.sharal] s (taskTrace s cls kind slot t d) := by
  unfold taskTrace
  repeat' first
    | dsimp only
    | with_reducible apply Keeps.refl
    | ((with_reducible apply Keeps.cut (traceEv_keeps ..)); case hs => decide)
    | with_reducible apply Keeps.ite <;> intro _
    | split

theorem postRec_keeps (s : State) (q : Nat) (sess : Nat) (r : ORec) : Keeps [.regs, .evts, .host] s (postRec s q sess r) := by
  unfold postRec
  repeat' first
    | dsimp only
    | with_reducible apply Keeps.refl
    | ((with_reducible apply Keeps.cut (State.setQueue_keeps ..)); case hs => decide)
    | ((with_reducible apply Keeps.cut (State.bump_keeps ..)); case hs => decide)
    | ((with_reducible apply Keeps.cut (State.pulse_keeps ..)); case hs => decide)
    | with_reducible apply Keeps.ite <;> intro _
    | split

end Sys2Proof.Machine
end

