-- ==== Sys2Proof/Laws/Route.lean ====
section
/-! SUPPORT. What the operations of Machine/Route.lean may change. -/

set_option linter.unusedTactic false
set_option linter.unreachableTactic false

namespace Sys2Proof.Machine

theorem State.mapFabric_keeps (s : State) (f : Fabric → Fabric) : Keeps [.fabric] s (State.mapFabric s f) := by
  unfold State.mapFabric
  repeat' first
    | dsimp only
    | with_reducible apply Keeps.refl
    | with_reducible exact (Keeps.fabric s _).mono (by decide)
    | ((with_reducible apply Keeps.cut (Keeps.fabric ..)); case hs => decide)

theorem State.setPort_keeps (s : State) (p : Nat) (v : Port) : Keeps [.fabric] s (State.setPort s p v) := by
  unfold State.setPort
  repeat' first
    | dsimp only
    | with_reducible apply Keeps.refl
    | ((with_reducible apply Keeps.cut (State.mapFabric_keeps ..)); case hs => decide)

theorem enqueueOut_keeps (s : State) (port : Nat) (p : Packet) (v : Via) : Keeps [.fabric] s (enqueueOut s port p v) := by
  unfold enqueueOut
  repeat' first
    | dsimp only
    | with_reducible apply Keeps.refl
    | ((with_reducible apply Keeps.cut (State.setPort_keeps ..)); case hs => decide)

theorem enqueueLocal_keeps (s : State) (p : Packet) (v : Via) : Keeps [.fabric] s (enqueueLocal s p v) := by
  unfold enqueueLocal
  repeat' first
    | dsimp only
    | with_reducible apply Keeps.refl
    | ((with_reducible apply Keeps.cut (State.mapFabric_keeps ..)); case hs => decide)

theorem countNoRoute_keeps (s : State) : Keeps [.regs, .evts] s (countNoRoute s) := by
  unfold countNoRoute
  repeat' first
    | dsimp only
    | with_reducible apply Keeps.refl
    | ((with_reducible apply Keeps.cut (State.bump_keeps ..)); case hs => decide)
    | ((with_reducible apply Keeps.cut (State.pulse_keeps ..)); case hs => decide)

theorem sendOn_keeps (s : State) (p : Packet) (v : Via) : Keeps [.regs, .evts, .fabric] s (sendOn s p v) := by
  unfold sendOn
  repeat' first
    | dsimp only
    | with_reducible apply Keeps.refl
    | ((with_reducible apply Keeps.cut (countNoRoute_keeps ..)); case hs => decide)
    | ((with_reducible apply Keeps.cut (enqueueLocal_keeps ..)); case hs => decide)
    | ((with_reducible apply Keeps.cut (enqueueOut_keeps ..)); case hs => decide)
    | with_reducible apply Keeps.ite <;> intro _
    | split

theorem nextStamp_keeps (s : State) : Keeps [.fabric] s (nextStamp s) := by
  unfold nextStamp
  repeat' first
    | dsimp only
    | with_reducible apply Keeps.refl
    | ((with_reducible apply Keeps.cut (State.mapFabric_keeps ..)); case hs => decide)

theorem respond_keeps (s : State) (r : Packet) : Keeps [.regs, .evts, .fabric] s (respond s r) := by
  unfold respond
  repeat' first
    | dsimp only
    | with_reducible apply Keeps.refl
    | ((with_reducible apply Keeps.cut (nextStamp_keeps ..)); case hs => decide)
    | ((with_reducible apply Keeps.cut (sendOn_keeps ..)); case hs => decide)

theorem routeUnicast_keeps (s : State) (p : Packet) (v : Via) : Keeps [.regs, .evts, .fabric] s (routeUnicast s p v) := by
  unfold routeUnicast
  repeat' first
    | dsimp only
    | with_reducible apply Keeps.refl
    | ((with_reducible apply Keeps.cut (respond_keeps ..)); case hs => decide)
    | ((with_reducible apply Keeps.cut (sendOn_keeps ..)); case hs => decide)
    | ((with_reducible apply Keeps.cut (countNoRoute_keeps ..)); case hs => decide)
    | with_reducible apply Keeps.ite <;> intro _
    | split

theorem sendOwn_keeps (s : State) (p : Packet) : Keeps [.regs, .evts, .fabric] s (sendOwn s p) := by
  unfold sendOwn
  repeat' first
    | dsimp only
    | with_reducible apply Keeps.refl
    | ((with_reducible apply Keeps.cut (routeUnicast_keeps ..)); case hs => decide)
    | ((with_reducible apply Keeps.cut (nextStamp_keeps ..)); case hs => decide)

theorem sendBy_keeps (s : State) (port : Nat) (p : Packet) : Keeps [.fabric] s (sendBy s port p) := by
  unfold sendBy
  repeat' first
    | dsimp only
    | with_reducible apply Keeps.refl
    | ((with_reducible apply Keeps.cut (nextStamp_keeps ..)); case hs => decide)
    | ((with_reducible apply Keeps.cut (enqueueOut_keeps ..)); case hs => decide)

theorem routeMulticast_keeps (s : State) (p : Packet) (v : Via) : Keeps [.regs, .evts, .fabric] s (routeMulticast s p v) := by
  unfold routeMulticast
  repeat' first
    | dsimp only
    | with_reducible apply Keeps.refl
    | ((with_reducible apply Keeps.cut (countNoRoute_keeps ..)); case hs => decide)
    | ((with_reducible apply Keeps.cut (enqueueLocal_keeps ..)); case hs => decide)
    | ((with_reducible apply Keeps.cut (enqueueOut_keeps ..)); case hs => decide)
    | (with_reducible apply Keeps.foldl) <;> try intro _ _
    | with_reducible apply Keeps.ite <;> intro _
    | split

theorem multicastOwn_keeps (s : State) (p : Packet) : Keeps [.regs, .evts, .fabric] s (multicastOwn s p) := by
  unfold multicastOwn
  repeat' first
    | dsimp only
    | with_reducible apply Keeps.refl
    | ((with_reducible apply Keeps.cut (routeMulticast_keeps ..)); case hs => decide)
    | ((with_reducible apply Keeps.cut (nextStamp_keeps ..)); case hs => decide)

theorem clearPrunes_keeps (s : State) (group : Nat) (gen : Nat) : Keeps [.fabric] s (clearPrunes s group gen) := by
  unfold clearPrunes
  repeat' first
    | dsimp only
    | with_reducible apply Keeps.refl
    | ((with_reducible apply Keeps.cut (State.mapFabric_keeps ..)); case hs => decide)

theorem sendControl_keeps (s : State) (p : Nat) : Keeps [.fabric, .out] s (sendControl s p) := by
  unfold sendControl
  repeat' first
    | dsimp only
    | with_reducible apply Keeps.refl
    | ((with_reducible apply Keeps.cut (State.setPort_keeps ..)); case hs => decide)
    | ((with_reducible apply Keeps.cut (State.emit_keeps ..)); case hs => decide)

theorem settlePort_keeps (s : State) (p : Nat) : Keeps [.fabric, .out] s (settlePort s p) := by
  unfold settlePort
  repeat' first
    | dsimp only
    | with_reducible apply Keeps.refl
    | ((with_reducible apply Keeps.cut (sendControl_keeps ..)); case hs => decide)
    | ((with_reducible apply Keeps.cut (State.setPort_keeps ..)); case hs => decide)
    | (with_reducible apply Keeps.foldl) <;> try intro _ _
    | with_reducible apply Keeps.ite <;> intro _
    | split

theorem settle_keeps (s : State) : Keeps [.fabric, .out] s (settle s) := by
  unfold settle
  repeat' first
    | dsimp only
    | with_reducible apply Keeps.refl
    | ((with_reducible apply Keeps.cut (settlePort_keeps ..)); case hs => decide)
    | (with_reducible apply Keeps.foldl) <;> try intro _ _

theorem dropCopies_keeps (s : State) (stamp : Nat) : Keeps [.fabric] s (dropCopies s stamp) := by
  unfold dropCopies
  repeat' first
    | dsimp only
    | with_reducible apply Keeps.refl
    | ((with_reducible apply Keeps.cut (State.setPort_keeps ..)); case hs => decide)
    | ((with_reducible apply Keeps.cut (State.mapFabric_keeps ..)); case hs => decide)
    | (with_reducible apply Keeps.foldl) <;> try intro _ _

theorem dropPartial_keeps (s : State) (p : Nat) : Keeps [.fabric, .out] s (dropPartial s p) := by
  unfold dropPartial
  repeat' first
    | dsimp only
    | with_reducible apply Keeps.refl
    | ((with_reducible apply Keeps.cut (dropCopies_keeps ..)); case hs => decide)
    | ((with_reducible apply Keeps.cut (settle_keeps ..)); case hs => decide)
    | ((with_reducible apply Keeps.cut (State.setPort_keeps ..)); case hs => decide)
    | with_reducible apply Keeps.ite <;> intro _
    | split

theorem dropBuffers_keeps (s : State) (p : Nat) : Keeps [.fabric] s (dropBuffers s p) := by
  unfold dropBuffers
  repeat' first
    | dsimp only
    | with_reducible apply Keeps.refl
    | ((with_reducible apply Keeps.cut (dropCopies_keeps ..)); case hs => decide)
    | ((with_reducible apply Keeps.cut (State.setPort_keeps ..)); case hs => decide)
    | (with_reducible apply Keeps.foldl) <;> try intro _ _

end Sys2Proof.Machine
end

