-- ==== Sys2Proof/Laws/Drove.lean ====
section
/-! SUPPORT. What the operations of Machine/Drove.lean may change. -/

set_option linter.unusedTactic false
set_option linter.unreachableTactic false

namespace Sys2Proof.Machine

theorem setSlotOf_keeps (s : State) (c : Nat) (i : Nat) (v : ChSlot) : Keeps [.cores] s (setSlotOf s c i v) := by
  unfold setSlotOf
  repeat' first
    | dsimp only
    | with_reducible apply Keeps.refl
    | ((with_reducible apply Keeps.cut (State.mapCore_keeps ..)); case hs => decide)

theorem State.mapChan_keeps (s : State) (c : Nat) (ch : Nat) (f : Chan → Chan) : Keeps [.cores] s (State.mapChan s c ch f) := by
  unfold State.mapChan
  repeat' first
    | dsimp only
    | with_reducible apply Keeps.refl
    | ((with_reducible apply Keeps.cut (State.mapCore_keeps ..)); case hs => decide)

theorem sendMsg_keeps (s : State) (v : ChSlot) (src : Nat) (dst : Nat) (b : Option ChBlock) (m : Option ChMark) (fwd : Bool) : Keeps [.cores] s (sendMsg s v src dst b m fwd) := by
  unfold sendMsg
  repeat' first
    | dsimp only
    | with_reducible apply Keeps.refl
    | ((with_reducible apply Keeps.cut (setSlotOf_keeps ..)); case hs => decide)
    | with_reducible apply Keeps.ite <;> intro _
    | split

theorem forwardMark_keeps (s : State) (c : Nat) (v : ChSlot) (m : ChMark) : Keeps [.cores] s (forwardMark s c v m) := by
  unfold forwardMark
  repeat' first
    | dsimp only
    | with_reducible apply Keeps.refl
    | ((with_reducible apply Keeps.cut (sendMsg_keeps ..)); case hs => decide)
    | (with_reducible apply Keeps.foldl) <;> try intro _ _
    | with_reducible apply Keeps.ite <;> intro _
    | split

theorem mcMarker_keeps (s : State) (v : ChSlot) (m : ChMark) : Keeps [.regs, .evts, .fabric] s (mcMarker s v m) := by
  unfold mcMarker
  repeat' first
    | dsimp only
    | with_reducible apply Keeps.refl
    | ((with_reducible apply Keeps.cut (multicastOwn_keeps ..)); case hs => decide)
    | with_reducible apply Keeps.ite <;> intro _
    | split

theorem leadMark_keeps (s : State) (c : Nat) (v : ChSlot) (m : ChMark) : Keeps [.regs, .evts, .cores, .fabric] s (leadMark s c v m) := by
  unfold leadMark
  repeat' first
    | dsimp only
    | with_reducible apply Keeps.refl
    | ((with_reducible apply Keeps.cut (mcMarker_keeps ..)); case hs => decide)
    | ((with_reducible apply Keeps.cut (forwardMark_keeps ..)); case hs => decide)

theorem leadCommit_keeps (s : State) (c : Nat) (i : Nat) (v : ChSlot) (n : Nat) : Keeps [.regs, .evts, .cores, .fabric] s (leadCommit s c i v n) := by
  unfold leadCommit
  repeat' first
    | dsimp only
    | with_reducible apply Keeps.refl
    | ((with_reducible apply Keeps.cut (leadMark_keeps ..)); case hs => decide)
    | ((with_reducible apply Keeps.cut (setSlotOf_keeps ..)); case hs => decide)
    | with_reducible apply Keeps.ite <;> intro _
    | split

theorem leadCancel_keeps (s : State) (c : Nat) (i : Nat) (v : ChSlot) (last : Bool) : Keeps [.regs, .evts, .cores, .fabric] s (leadCancel s c i v last) := by
  unfold leadCancel
  repeat' first
    | dsimp only
    | with_reducible apply Keeps.refl
    | ((with_reducible apply Keeps.cut (leadMark_keeps ..)); case hs => decide)
    | ((with_reducible apply Keeps.cut (setSlotOf_keeps ..)); case hs => decide)

theorem returnCredits_keeps (s : State) (v : ChSlot) (c : Nat) (n : Nat) : Keeps [.cores] s (returnCredits s v c n) := by
  unfold returnCredits
  repeat' first
    | dsimp only
    | with_reducible apply Keeps.refl
    | ((with_reducible apply Keeps.cut (setSlotOf_keeps ..)); case hs => decide)
    | with_reducible apply Keeps.ite <;> intro _
    | split

theorem sendTo_keeps (s : State) (v : ChSlot) (c : Nat) (d : Nat) : Keeps [.cores] s (sendTo s v c d) := by
  unfold sendTo
  repeat' first
    | dsimp only
    | with_reducible apply Keeps.refl
    | ((with_reducible apply Keeps.cut (setSlotOf_keeps ..)); case hs => decide)
    | with_reducible apply Keeps.ite <;> intro _
    | split

theorem freeRing_keeps (s : State) (c : Nat) (i : Nat) (v : ChSlot) (keep : ChBlock → Bool) : Keeps [.cores] s (freeRing s c i v keep) := by
  unfold freeRing
  repeat' first
    | dsimp only
    | with_reducible apply Keeps.refl
    | ((with_reducible apply Keeps.cut (returnCredits_keeps ..)); case hs => decide)
    | ((with_reducible apply Keeps.cut (setSlotOf_keeps ..)); case hs => decide)

theorem sweepRing_keeps (s : State) (c : Nat) (i : Nat) : Keeps [.cores] s (sweepRing s c i) := by
  unfold sweepRing
  repeat' first
    | dsimp only
    | with_reducible apply Keeps.refl
    | ((with_reducible apply Keeps.cut (freeRing_keeps ..)); case hs => decide)
    | with_reducible apply Keeps.ite <;> intro _
    | split

theorem ringWrite_keeps (s : State) (c : Nat) (v : ChSlot) (b : ChBlock) : Keeps [.mem] s (ringWrite s c v b) := by
  unfold ringWrite
  exact State.mapMem_keeps _ _ (fun m hm => Memory.writeN_wf m _ b.data hm)

theorem ringPut_keeps (s : State) (c : Nat) (i : Nat) (v : ChSlot) (b : ChBlock) : Keeps [.regs, .mem, .slots, .cores] s (ringPut s c i v b) := by
  unfold ringPut
  repeat' first
    | dsimp only
    | with_reducible apply Keeps.refl
    | ((with_reducible apply Keeps.cut (ringWrite_keeps ..)); case hs => decide)
    | ((with_reducible apply Keeps.cut (setSlotOf_keeps ..)); case hs => decide)
    | ((with_reducible apply Keeps.cut (countSlots_keeps ..)); case hs => decide)
    | ((with_reducible apply Keeps.cut (takePort_keeps ..)); case hs => decide)
    | ((with_reducible apply Keeps.cut (State.bump_keeps ..)); case hs => decide)
    | with_reducible apply Keeps.ite <;> intro _
    | split

theorem attachNext_keeps (s : State) (c : Nat) (v : ChSlot) (b : ChBlock) (next : Option Nat) : Keeps [.cores] s (attachNext s c v b next) := by
  unfold attachNext
  repeat' first
    | dsimp only
    | with_reducible apply Keeps.refl
    | ((with_reducible apply Keeps.cut (sendTo_keeps ..)); case hs => decide)
    | ((with_reducible apply Keeps.cut (setSlotOf_keeps ..)); case hs => decide)
    | with_reducible apply Keeps.ite <;> intro _
    | split

theorem mcBlock_keeps (s : State) (v : ChSlot) (b : ChBlock) : Keeps [.regs, .evts, .fabric] s (mcBlock s v b) := by
  unfold mcBlock
  repeat' first
    | dsimp only
    | with_reducible apply Keeps.refl
    | ((with_reducible apply Keeps.cut (clearPrunes_keeps ..)); case hs => decide)
    | ((with_reducible apply Keeps.cut (multicastOwn_keeps ..)); case hs => decide)
    | with_reducible apply Keeps.ite <;> intro _
    | split

theorem leadVerifyFault_keeps (s : State) (c : Nat) (v : ChSlot) (b : ChBlock) : Keeps [.regs, .evts, .faults, .cores, .drover] s (optState s (leadVerifyFault s c v b)) := by
  unfold leadVerifyFault
  repeat' first
    | dsimp only [optState_some, optState_none]
    | with_reducible apply Keeps.refl
    | with_reducible apply Keeps.opt_ite <;> intro _
    | ((with_reducible apply Keeps.cut (taskFault_keeps ..)); case hs => decide)
    | ((with_reducible apply Keeps.cut (State.bump_keeps ..)); case hs => decide)
    | ((with_reducible apply Keeps.cut (State.pulse_keeps ..)); case hs => decide)
    | with_reducible apply Keeps.ite <;> intro _
    | split

theorem leadVerifyFault_some {s : State} {c : Nat} {v : ChSlot} {b : ChBlock} {x' : State} (hx' : leadVerifyFault s c v b = some x') : Keeps [.regs, .evts, .faults, .cores, .drover] s x' := by
  have k := leadVerifyFault_keeps s c v b
  rw [hx'] at k
  exact k

theorem leadPass_keeps (s : State) (c : Nat) (i : Nat) (v : ChSlot) (b : ChBlock) : Keeps [.regs, .evts, .cores, .fabric] s (leadPass s c i v b) := by
  unfold leadPass
  repeat' first
    | dsimp only
    | with_reducible apply Keeps.refl
    | ((with_reducible apply Keeps.cut (leadCommit_keeps ..)); case hs => decide)
    | ((with_reducible apply Keeps.cut (State.mapCore_keeps ..)); case hs => decide)

theorem sendBlock_keeps (s : State) (c : Nat) (i : Nat) (v : ChSlot) (b : ChBlock) (next : Option Nat) : Keeps [.regs, .evts, .cores, .fabric] s (sendBlock s c i v b next) := by
  unfold sendBlock
  repeat' first
    | dsimp only
    | with_reducible apply Keeps.refl
    | ((with_reducible apply Keeps.cut (leadPass_keeps ..)); case hs => decide)
    | ((with_reducible apply Keeps.cut (mcBlock_keeps ..)); case hs => decide)
    | ((with_reducible apply Keeps.cut (sweepRing_keeps ..)); case hs => decide)
    | ((with_reducible apply Keeps.cut (sendMsg_keeps ..)); case hs => decide)
    | ((with_reducible apply Keeps.cut (setSlotOf_keeps ..)); case hs => decide)
    | ((with_reducible apply Keeps.cut (State.bump_keeps ..)); case hs => decide)
    | with_reducible apply Keeps.ite <;> intro _
    | split

theorem chainForward_keeps (s : State) (c : Nat) (i : Nat) : Keeps [.regs, .evts, .faults, .cores, .drover, .fabric] s (chainForward s c i) := by
  unfold chainForward
  repeat' first
    | dsimp only
    | with_reducible apply Keeps.refl
    | ((with_reducible apply Keeps.cut (sendBlock_keeps ..)); case hs => decide)
    | ((with_reducible apply Keeps.cut (leadVerifyFault_some (by assumption))); case hs => decide)
    | ((with_reducible apply Keeps.cut (leadVerifyFault_keeps ..)); case hs => decide)
    | ((with_reducible apply Keeps.cut (attachNext_keeps ..)); case hs => decide)
    | with_reducible apply Keeps.opt_if (by assumption)
    | with_reducible apply Keeps.ite <;> intro _
    | split

theorem chainArrive_keeps (s : State) (c : Nat) (i : Nat) : Keeps [.regs, .mem, .slots, .cores] s (chainArrive s c i) := by
  unfold chainArrive
  repeat' first
    | dsimp only
    | with_reducible apply Keeps.refl
    | ((with_reducible apply Keeps.cut (ringPut_keeps ..)); case hs => decide)
    | with_reducible apply Keeps.ite <;> intro _
    | split

theorem cancelRing_keeps (s : State) (c : Nat) (i : Nat) (v : ChSlot) (m : ChMark) : Keeps [.regs, .evts, .cores] s (cancelRing s c i v m) := by
  unfold cancelRing
  repeat' first
    | dsimp only
    | with_reducible apply Keeps.refl
    | ((with_reducible apply Keeps.cut (freeRing_keeps ..)); case hs => decide)
    | ((with_reducible apply Keeps.cut (setSlotOf_keeps ..)); case hs => decide)
    | ((with_reducible apply Keeps.cut (State.bump_keeps ..)); case hs => decide)
    | ((with_reducible apply Keeps.cut (State.pulse_keeps ..)); case hs => decide)
    | with_reducible apply Keeps.ite <;> intro _
    | split

theorem commitRing_keeps (s : State) (c : Nat) (i : Nat) (v : ChSlot) (m : ChMark) : Keeps [.cores] s (commitRing s c i v m) := by
  unfold commitRing
  repeat' first
    | dsimp only
    | with_reducible apply Keeps.refl
    | ((with_reducible apply Keeps.cut (setSlotOf_keeps ..)); case hs => decide)
    | with_reducible apply Keeps.ite <;> intro _
    | split

theorem takeMark_keeps (s : State) (c : Nat) (i : Nat) (v : ChSlot) (m : ChMark) : Keeps [.regs, .evts, .cores] s (takeMark s c i v m) := by
  unfold takeMark
  repeat' first
    | dsimp only
    | with_reducible apply Keeps.refl
    | ((with_reducible apply Keeps.cut (commitRing_keeps ..)); case hs => decide)
    | ((with_reducible apply Keeps.cut (cancelRing_keeps ..)); case hs => decide)
    | ((with_reducible apply Keeps.cut (setSlotOf_keeps ..)); case hs => decide)
    | with_reducible apply Keeps.ite <;> intro _
    | split

theorem chainMarker_keeps (s : State) (c : Nat) (i : Nat) : Keeps [.regs, .evts, .cores] s (chainMarker s c i) := by
  unfold chainMarker
  repeat' first
    | dsimp only
    | with_reducible apply Keeps.refl
    | ((with_reducible apply Keeps.cut (takeMark_keeps ..)); case hs => decide)
    | ((with_reducible apply Keeps.cut (forwardMark_keeps ..)); case hs => decide)
    | with_reducible apply Keeps.ite <;> intro _
    | split

theorem chainCredit_keeps (s : State) (c : Nat) (i : Nat) : Keeps [.cores] s (chainCredit s c i) := by
  unfold chainCredit
  repeat' first
    | dsimp only
    | with_reducible apply Keeps.refl
    | ((with_reducible apply Keeps.cut (setSlotOf_keeps ..)); case hs => decide)
    | with_reducible apply Keeps.ite <;> intro _
    | split

theorem bypass_keeps (s : State) (v : ChSlot) (p : Option Nat) : Keeps [.cores] s (bypass s v p) := by
  unfold bypass
  repeat' first
    | dsimp only
    | with_reducible apply Keeps.refl
    | ((with_reducible apply Keeps.cut (sendTo_keeps ..)); case hs => decide)
    | with_reducible apply Keeps.ite <;> intro _
    | split

theorem noteDetach_keeps (s : State) (c : Nat) (i : Nat) (gen : Nat) (seq : Nat) (v : ChSlot) : Keeps [.regs, .evts, .sharal] s (noteDetach s c i gen seq v) := by
  unfold noteDetach
  repeat' first
    | dsimp only
    | with_reducible apply Keeps.refl
    | ((with_reducible apply Keeps.cut (taskTrace_keeps ..)); case hs => decide)
    | ((with_reducible apply Keeps.cut (State.bump_keeps ..)); case hs => decide)
    | ((with_reducible apply Keeps.cut (State.pulse_keeps ..)); case hs => decide)

theorem detachMember_keeps (s : State) (c : Nat) (i : Nat) (v : ChSlot) (gen : Nat) (seq : Nat) : Keeps [.regs, .evts, .faults, .cores, .drover, .sharal] s (detachMember s c i v gen seq) := by
  unfold detachMember
  repeat' first
    | dsimp only
    | with_reducible apply Keeps.refl
    | ((with_reducible apply Keeps.cut (noteDetach_keeps ..)); case hs => decide)
    | ((with_reducible apply Keeps.cut (bypass_keeps ..)); case hs => decide)
    | ((with_reducible apply Keeps.cut (setSlotOf_keeps ..)); case hs => decide)
    | ((with_reducible apply Keeps.cut (taskFault_keeps ..)); case hs => decide)
    | with_reducible apply Keeps.ite <;> intro _
    | split

theorem chainDetach_keeps (s : State) (c : Nat) (i : Nat) : Keeps [.regs, .evts, .faults, .cores, .drover, .sharal] s (chainDetach s c i) := by
  unfold chainDetach
  repeat' first
    | dsimp only
    | with_reducible apply Keeps.refl
    | ((with_reducible apply Keeps.cut (detachMember_keeps ..)); case hs => decide)
    | with_reducible apply Keeps.ite <;> intro _
    | split

theorem droveTimeout_keeps (s : State) (c : Nat) (i : Nat) : Keeps [.evts, .faults, .cores, .drover] s (droveTimeout s c i) := by
  unfold droveTimeout
  repeat' first
    | dsimp only
    | with_reducible apply Keeps.refl
    | ((with_reducible apply Keeps.cut (setSlotOf_keeps ..)); case hs => decide)
    | ((with_reducible apply Keeps.cut (taskFault_keeps ..)); case hs => decide)
    | ((with_reducible apply Keeps.cut (State.pulse_keeps ..)); case hs => decide)
    | with_reducible apply Keeps.ite <;> intro _
    | split

theorem dropChains_keeps (s : State) (inst : Nat) : Keeps [.cores] s (dropChains s inst) := by
  unfold dropChains
  repeat' first
    | dsimp only
    | with_reducible apply Keeps.refl
    | with_reducible exact (Keeps.cores s _).mono (by decide)
    | ((with_reducible apply Keeps.cut (Keeps.cores ..)); case hs => decide)

theorem endChains_keeps (s : State) (inst : Nat) : Keeps [.regs, .evts, .cores, .fabric, .sharal] s (endChains s inst) := by
  unfold endChains
  repeat' first
    | dsimp only
    | with_reducible apply Keeps.refl
    | ((with_reducible apply Keeps.cut (noteDetach_keeps ..)); case hs => decide)
    | ((with_reducible apply Keeps.cut (leadCancel_keeps ..)); case hs => decide)
    | (with_reducible apply Keeps.foldl) <;> try intro _ _
    | with_reducible apply Keeps.ite <;> intro _
    | split

end Sys2Proof.Machine
end

