-- ==== Sys2Proof/Laws/Sched.lean ====
section
/-! SUPPORT. What the operations of Machine/Sched.lean may change. -/

set_option linter.unusedTactic false
set_option linter.unreachableTactic false

namespace Sys2Proof.Machine

theorem clearBusy_keeps (s : State) (entry : Nat) : Keeps [.mem] s (clearBusy s entry) := by
  unfold clearBusy
  repeat' first
    | dsimp only
    | with_reducible apply Keeps.refl
    | ((with_reducible apply Keeps.cut (State.mapMem_keeps _ _ (fun _ hm => Memory.put_wf _ _ _ hm))); case hs => decide)
    | ((with_reducible apply Keeps.cut (State.mapMem_keeps _ _ (fun _ hm => Memory.mark_wf _ _ hm))); case hs => decide)
    | ((with_reducible apply Keeps.cut (State.mapMem_keeps _ _ (fun _ hm => Memory.putPart_wf _ _ _ hm))); case hs => decide)
    | ((with_reducible apply Keeps.cut (State.mapMem_keeps _ _ (fun _ hm => Memory.moveBlock_wf _ _ _ hm))); case hs => decide)
    | ((with_reducible apply Keeps.cut (State.mapMem_keeps _ _ (fun _ hm => Memory.zeroRange_wf _ _ _ hm))); case hs => decide)
    | ((with_reducible apply Keeps.cut (State.mapMem_keeps _ _ (fun _ hm => Memory.zeroRange_wf _ _ _ (Memory.zeroRange_wf _ _ _ hm)))); case hs => decide)
    | ((with_reducible apply Keeps.cut (State.mapMem_keeps _ _ (fun _ hm => atomicGo_wf _ _ _ _ _ hm))); case hs => decide)
    | ((with_reducible apply Keeps.cut (State.mapMem_keeps _ _ (fun _ hm => putHeader_wf _ _ _ _ hm))); case hs => decide)
    | ((with_reducible apply Keeps.cut (State.mapMem_keeps _ _ (fun _ hm => putHeader_wf _ _ _ _ (putGold_wf _ _ _ _ _ hm)))); case hs => decide)
    | ((with_reducible apply Keeps.cut (State.mapMem_keeps _ _ (fun _ hm => putHeader_wf _ _ _ _ (by split <;> first | exact putGold_wf _ _ _ _ _ hm | exact hm)))); case hs => decide)
    | ((with_reducible apply Keeps.cut (State.mapMem_keeps _ _ (fun _ hm => Memory.fromHost_wf _ _ _ _ hm))); case hs => decide)
    | ((with_reducible apply Keeps.cut (State.mapMem_keeps _ _ (fun _ hm => copyDown_wf _ _ _ _ _ hm))); case hs => decide)
    | ((with_reducible apply Keeps.cut (State.mapMem_keeps _ _ (fun _ hm => Memory.foldl_wf _ _ (fun _ _ h => freeCell_wf _ _ _ h) _ hm))); case hs => decide)
    | ((with_reducible apply Keeps.cut (State.mapMem_keeps _ _ (fun _ hm => Memory.foldl_wf _ _ (fun _ _ h => writePage_wf _ _ _ _ _ h) _ hm))); case hs => decide)

theorem dropBusy_keeps (s : State) (c : Nat) (t : Nat) : Keeps [.mem] s (dropBusy s c t) := by
  unfold dropBusy
  repeat' first
    | dsimp only
    | with_reducible apply Keeps.refl
    | ((with_reducible apply Keeps.cut (clearBusy_keeps ..)); case hs => decide)
    | with_reducible apply Keeps.ite <;> intro _
    | split

theorem freeBytes_keeps (s : State) (as : List Nat) : Keeps [.mem, .free] s (freeBytes s as) := by
  unfold freeBytes
  repeat' first
    | dsimp only
    | with_reducible apply Keeps.refl
    | ((with_reducible apply Keeps.cut (State.draw_keeps ..)); case hs => decide)
    | ((with_reducible apply Keeps.cut (State.mapMem_keeps _ _ (fun _ hm => Memory.put_wf _ _ _ hm))); case hs => decide)
    | ((with_reducible apply Keeps.cut (State.mapMem_keeps _ _ (fun _ hm => Memory.mark_wf _ _ hm))); case hs => decide)
    | ((with_reducible apply Keeps.cut (State.mapMem_keeps _ _ (fun _ hm => Memory.putPart_wf _ _ _ hm))); case hs => decide)
    | ((with_reducible apply Keeps.cut (State.mapMem_keeps _ _ (fun _ hm => Memory.moveBlock_wf _ _ _ hm))); case hs => decide)
    | ((with_reducible apply Keeps.cut (State.mapMem_keeps _ _ (fun _ hm => Memory.zeroRange_wf _ _ _ hm))); case hs => decide)
    | ((with_reducible apply Keeps.cut (State.mapMem_keeps _ _ (fun _ hm => Memory.zeroRange_wf _ _ _ (Memory.zeroRange_wf _ _ _ hm)))); case hs => decide)
    | ((with_reducible apply Keeps.cut (State.mapMem_keeps _ _ (fun _ hm => atomicGo_wf _ _ _ _ _ hm))); case hs => decide)
    | ((with_reducible apply Keeps.cut (State.mapMem_keeps _ _ (fun _ hm => putHeader_wf _ _ _ _ hm))); case hs => decide)
    | ((with_reducible apply Keeps.cut (State.mapMem_keeps _ _ (fun _ hm => putHeader_wf _ _ _ _ (putGold_wf _ _ _ _ _ hm)))); case hs => decide)
    | ((with_reducible apply Keeps.cut (State.mapMem_keeps _ _ (fun _ hm => putHeader_wf _ _ _ _ (by split <;> first | exact putGold_wf _ _ _ _ _ hm | exact hm)))); case hs => decide)
    | ((with_reducible apply Keeps.cut (State.mapMem_keeps _ _ (fun _ hm => Memory.fromHost_wf _ _ _ _ hm))); case hs => decide)
    | ((with_reducible apply Keeps.cut (State.mapMem_keeps _ _ (fun _ hm => copyDown_wf _ _ _ _ _ hm))); case hs => decide)
    | ((with_reducible apply Keeps.cut (State.mapMem_keeps _ _ (fun _ hm => Memory.foldl_wf _ _ (fun _ _ h => freeCell_wf _ _ _ h) _ hm))); case hs => decide)
    | ((with_reducible apply Keeps.cut (State.mapMem_keeps _ _ (fun _ hm => Memory.foldl_wf _ _ (fun _ _ h => writePage_wf _ _ _ _ _ h) _ hm))); case hs => decide)
    | (with_reducible apply Keeps.foldl) <;> try intro _ _
    | with_reducible apply Keeps.ite <;> intro _
    | split

theorem freeOutput_keeps (s : State) (c : Nat) (ch : Nat) (start : Nat) : Keeps [.mem, .cores, .free] s (freeOutput s c ch start) := by
  unfold freeOutput
  repeat' first
    | dsimp only
    | with_reducible apply Keeps.refl
    | ((with_reducible apply Keeps.cut (freeBytes_keeps ..)); case hs => decide)
    | ((with_reducible apply Keeps.cut (State.mapChan_keeps ..)); case hs => decide)

theorem dropAttend_keeps (s : State) (c : Nat) (t : Nat) : Keeps [.mem, .cores, .free] s (dropAttend s c t) := by
  unfold dropAttend
  repeat' first
    | dsimp only
    | with_reducible apply Keeps.refl
    | ((with_reducible apply Keeps.cut (freeOutput_keeps ..)); case hs => decide)
    | ((with_reducible apply Keeps.cut (dropBusy_keeps ..)); case hs => decide)
    | with_reducible apply Keeps.ite <;> intro _
    | split

theorem discardTask_keeps (s : State) (t : Nat) : Keeps [.mem, .cores, .free] s (discardTask s t) := by
  unfold discardTask
  repeat' first
    | dsimp only
    | with_reducible apply Keeps.refl
    | ((with_reducible apply Keeps.cut (dropAttend_keeps ..)); case hs => decide)
    | ((with_reducible apply Keeps.cut (State.mapCore_keeps ..)); case hs => decide)
    | (with_reducible apply Keeps.foldl) <;> try intro _ _

theorem haltBanks_keeps (s : State) : Keeps [.paddock] s (haltBanks s) := by
  unfold haltBanks
  repeat' first
    | dsimp only
    | with_reducible apply Keeps.refl
    | with_reducible exact (Keeps.paddock s _).mono (by decide)
    | ((with_reducible apply Keeps.cut (Keeps.paddock ..)); case hs => decide)

theorem dropHerd_keeps (s : State) (t : Nat) : Keeps [.mem, .herd, .free] s (dropHerd s t) := by
  unfold dropHerd
  repeat' first
    | dsimp only
    | with_reducible apply Keeps.refl
    | ((with_reducible apply Keeps.cut (freeBytes_keeps ..)); case hs => decide)
    | with_reducible apply Keeps.ite <;> intro _
    | split
    | with_reducible exact (Keeps.herd s _).mono (by decide)
    | ((with_reducible apply Keeps.cut (Keeps.herd ..)); case hs => decide)

theorem stopUnits_keeps (s : State) (t : Nat) : Keeps [.mem, .herd, .paddock, .free] s (stopUnits s t) := by
  unfold stopUnits
  repeat' first
    | dsimp only
    | with_reducible apply Keeps.refl
    | ((with_reducible apply Keeps.cut (dropHerd_keeps ..)); case hs => decide)
    | with_reducible apply Keeps.ite <;> intro _
    | split
    | with_reducible exact (Keeps.paddock s _).mono (by decide)
    | ((with_reducible apply Keeps.cut (Keeps.paddock ..)); case hs => decide)

theorem stopFabric_keeps (s : State) (t : Nat) : Keeps [.fabric] s (stopFabric s t) := by
  unfold stopFabric
  repeat' first
    | dsimp only
    | with_reducible apply Keeps.refl
    | ((with_reducible apply Keeps.cut (State.mapFabric_keeps ..)); case hs => decide)

theorem stopTask_keeps (s : State) (t : Nat) : Keeps [.mem, .cores, .herd, .paddock, .fabric, .free] s (stopTask s t) := by
  unfold stopTask
  repeat' first
    | dsimp only
    | with_reducible apply Keeps.refl
    | ((with_reducible apply Keeps.cut (stopFabric_keeps ..)); case hs => decide)
    | ((with_reducible apply Keeps.cut (stopUnits_keeps ..)); case hs => decide)
    | ((with_reducible apply Keeps.cut (dropAttend_keeps ..)); case hs => decide)
    | ((with_reducible apply Keeps.cut (State.mapCore_keeps ..)); case hs => decide)
    | (with_reducible apply Keeps.foldl) <;> try intro _ _

theorem dropInst_keeps (s : State) (i : Inst) : Keeps [.drover] s (dropInst s i) := by
  unfold dropInst
  repeat' first
    | dsimp only
    | with_reducible apply Keeps.refl
    | ((with_reducible apply Keeps.cut (State.mapDrover_keeps ..)); case hs => decide)

theorem recommit_keeps (s : State) : Keeps [.power] s (recommit s) := by
  unfold recommit
  repeat' first
    | dsimp only
    | with_reducible apply Keeps.refl
    | ((with_reducible apply Keeps.cut (State.mapPower_keeps ..)); case hs => decide)
    | with_reducible apply Keeps.ite <;> intro _
    | split

theorem stopInst_keeps (s : State) (i : Inst) (fault : Nat) : Keeps [.regs, .evts, .mem, .cores, .drover, .herd, .paddock, .fabric, .power, .sharal, .free] s (stopInst s i fault) := by
  unfold stopInst
  repeat' first
    | dsimp only
    | with_reducible apply Keeps.refl
    | ((with_reducible apply Keeps.cut (recommit_keeps ..)); case hs => decide)
    | ((with_reducible apply Keeps.cut (dropInst_keeps ..)); case hs => decide)
    | ((with_reducible apply Keeps.cut (stopTask_keeps ..)); case hs => decide)
    | ((with_reducible apply Keeps.cut (endChains_keeps ..)); case hs => decide)
    | ((with_reducible apply Keeps.cut (dropChains_keeps ..)); case hs => decide)
    | ((with_reducible apply Keeps.cut (taskTrace_keeps ..)); case hs => decide)
    | ((with_reducible apply Keeps.cut (State.mapDrover_keeps ..)); case hs => decide)
    | (with_reducible apply Keeps.foldl) <;> try intro _ _

theorem abortInst_keeps (s : State) (num : Nat) (fault : Nat) (task : Option Nat) : Keeps [.regs, .evts, .mem, .cores, .drover, .herd, .paddock, .fabric, .host, .power, .sharal, .free] s (abortInst s num fault task) := by
  unfold abortInst
  repeat' first
    | dsimp only
    | with_reducible apply Keeps.refl
    | ((with_reducible apply Keeps.cut (stopInst_keeps ..)); case hs => decide)
    | ((with_reducible apply Keeps.cut (postRec_keeps ..)); case hs => decide)
    | ((with_reducible apply Keeps.cut (State.bump_keeps ..)); case hs => decide)
    | ((with_reducible apply Keeps.cut (State.pulse_keeps ..)); case hs => decide)
    | with_reducible apply Keeps.ite <;> intro _
    | split

theorem abortHung_keeps (s : State) (fault : Nat) : Keeps [.regs, .evts, .mem, .cores, .drover, .herd, .paddock, .fabric, .power, .sharal, .free] s (abortHung s fault) := by
  unfold abortHung
  repeat' first
    | dsimp only
    | with_reducible apply Keeps.refl
    | ((with_reducible apply Keeps.cut (stopInst_keeps ..)); case hs => decide)
    | (with_reducible apply Keeps.foldl) <;> try intro _ _

theorem abortWhere_keeps (s : State) (fault : Nat) (p : Inst → Bool) : Keeps [.regs, .evts, .mem, .cores, .drover, .herd, .paddock, .fabric, .host, .power, .sharal, .free] s (abortWhere s fault p) := by
  unfold abortWhere
  repeat' first
    | dsimp only
    | with_reducible apply Keeps.refl
    | ((with_reducible apply Keeps.cut (abortInst_keeps ..)); case hs => decide)
    | (with_reducible apply Keeps.foldl) <;> try intro _ _

theorem endInst_keeps (s : State) (i : Inst) : Keeps [.regs, .evts, .cores, .drover, .host, .power] s (endInst s i) := by
  unfold endInst
  repeat' first
    | dsimp only
    | with_reducible apply Keeps.refl
    | ((with_reducible apply Keeps.cut (recommit_keeps ..)); case hs => decide)
    | ((with_reducible apply Keeps.cut (dropInst_keeps ..)); case hs => decide)
    | ((with_reducible apply Keeps.cut (dropChains_keeps ..)); case hs => decide)
    | ((with_reducible apply Keeps.cut (postRec_keeps ..)); case hs => decide)
    | ((with_reducible apply Keeps.cut (State.bump_keeps ..)); case hs => decide)

theorem instanceAbort_keeps (s : State) : Keeps [.regs, .evts, .faults, .mem, .cores, .drover, .herd, .paddock, .fabric, .host, .power, .sharal, .free] s (instanceAbort s) := by
  unfold instanceAbort
  repeat' first
    | dsimp only
    | with_reducible apply Keeps.refl
    | ((with_reducible apply Keeps.cut (abortInst_keeps ..)); case hs => decide)
    | ((with_reducible apply Keeps.cut (State.mapDrover_keeps ..)); case hs => decide)
    | ((with_reducible apply Keeps.cut (State.fault_keeps ..)); case hs => decide)
    | with_reducible apply Keeps.ite <;> intro _
    | split

end Sys2Proof.Machine
end

