-- ==== Sys2Proof/Laws/Feed.lean ====
section
/-! SUPPORT. What the operations of Machine/Feed.lean may change. -/

set_option linter.unusedTactic false
set_option linter.unreachableTactic false

namespace Sys2Proof.Machine

/-- The state that a take leaves. -/
def takeState : Take → State
  | .wait s => s
  | .stop s => s
  | .got s _ => s

theorem takeState_wait (s : State) : takeState (.wait s) = s := rfl
theorem takeState_stop (s : State) : takeState (.stop s) = s := rfl
theorem takeState_got (s : State) (l : List Word) : takeState (.got s l) = s := rfl

theorem chanFault_keeps (s : State) (c : Nat) (ch : Nat) (code : Nat) (addr : Option Nat) (d0 : Word) (d1 : Word) : Keeps [.faults, .cores, .drover] s (chanFault s c ch code addr d0 d1) := by
  unfold chanFault
  repeat' first
    | dsimp only
    | with_reducible apply Keeps.refl
    | ((with_reducible apply Keeps.cut (taskFault_keeps ..)); case hs => decide)
    | with_reducible apply Keeps.ite <;> intro _
    | split

theorem blockFault_keeps (s : State) (c : Nat) (ch : Nat) (blk : Nat) (v : Verdict) : Keeps [.regs, .evts, .faults, .cores, .drover] s (blockFault s c ch blk v) := by
  unfold blockFault
  repeat' first
    | dsimp only
    | with_reducible apply Keeps.refl
    | ((with_reducible apply Keeps.cut (chanFault_keeps ..)); case hs => decide)
    | ((with_reducible apply Keeps.cut (State.bump_keeps ..)); case hs => decide)
    | ((with_reducible apply Keeps.cut (State.pulse_keeps ..)); case hs => decide)
    | with_reducible apply Keeps.ite <;> intro _
    | split

theorem droveFault_keeps (s : State) (c : Nat) (i : Nat) (code : Nat) (v : ChSlot) (seq : Nat) : Keeps [.faults, .cores, .drover] s (droveFault s c i code v seq) := by
  unfold droveFault
  repeat' first
    | dsimp only
    | with_reducible apply Keeps.refl
    | ((with_reducible apply Keeps.cut (taskFault_keeps ..)); case hs => decide)
    | with_reducible apply Keeps.ite <;> intro _
    | split

theorem usedBefore_keeps (s : State) (c : Nat) (i : Nat) (seq : Nat) : Keeps [.cores] s (usedBefore s c i seq) := by
  unfold usedBefore
  repeat' first
    | dsimp only
    | with_reducible apply Keeps.refl
    | ((with_reducible apply Keeps.cut (sweepRing_keeps ..)); case hs => decide)
    | ((with_reducible apply Keeps.cut (setSlotOf_keeps ..)); case hs => decide)
    | with_reducible apply Keeps.ite <;> intro _
    | split

theorem leadTaken_keeps (s : State) (c : Nat) (ch : Nat) : Keeps [.regs, .evts, .cores, .fabric] s (leadTaken s c ch) := by
  unfold leadTaken
  repeat' first
    | dsimp only
    | with_reducible apply Keeps.refl
    | ((with_reducible apply Keeps.cut (leadCommit_keeps ..)); case hs => decide)
    | with_reducible apply Keeps.ite <;> intro _
    | split

theorem takeBlock_keeps (s : State) (c : Nat) (ch : Nat) (want : Nat) : Keeps [.cores] s (takeState (takeBlock s c ch want)) := by
  unfold takeBlock
  repeat' first
    | dsimp only [takeState_wait, takeState_stop, takeState_got]
    | with_reducible apply Keeps.refl
    | ((with_reducible apply Keeps.cut (usedBefore_keeps ..)); case hs => decide)
    | ((with_reducible apply Keeps.cut (State.mapChan_keeps ..)); case hs => decide)
    | with_reducible apply Keeps.ite <;> intro _
    | split

theorem takeBlock_wait {s : State} {c : Nat} {ch : Nat} {want : Nat} {x' : State} (hx' : takeBlock s c ch want = .wait x') : Keeps [.cores] s x' := by
  have k := takeBlock_keeps s c ch want
  rw [hx'] at k
  exact k

theorem takeBlock_stop {s : State} {c : Nat} {ch : Nat} {want : Nat} {x' : State} (hx' : takeBlock s c ch want = .stop x') : Keeps [.cores] s x' := by
  have k := takeBlock_keeps s c ch want
  rw [hx'] at k
  exact k

theorem takeBlock_got {s : State} {c : Nat} {ch : Nat} {want : Nat} {x' : State} {y' : List Word} (hx' : takeBlock s c ch want = .got x' y') : Keeps [.cores] s x' := by
  have k := takeBlock_keeps s c ch want
  rw [hx'] at k
  exact k

theorem joinedBroken_keeps (s : State) (c : Nat) (h : Chan) : Keeps [.faults, .cores, .drover] s (optState s (joinedBroken s c h)) := by
  unfold joinedBroken
  repeat' first
    | dsimp only [optState_some, optState_none]
    | with_reducible apply Keeps.refl
    | with_reducible apply Keeps.opt_ite <;> intro _
    | ((with_reducible apply Keeps.cut (droveFault_keeps ..)); case hs => decide)
    | with_reducible apply Keeps.ite <;> intro _
    | split

theorem joinedBroken_some {s : State} {c : Nat} {h : Chan} {x' : State} (hx' : joinedBroken s c h = some x') : Keeps [.faults, .cores, .drover] s x' := by
  have k := joinedBroken_keeps s c h
  rw [hx'] at k
  exact k

theorem takeRun_keeps (s : State) (c : Nat) (ch : Nat) (want : Nat) : Keeps [.regs, .evts, .faults, .cores, .drover, .fabric] s (takeState (takeRun s c ch want)) := by
  unfold takeRun
  repeat' first
    | dsimp only [takeState_wait, takeState_stop, takeState_got]
    | with_reducible apply Keeps.refl
    | ((with_reducible apply Keeps.cut (joinedBroken_some (by assumption))); case hs => decide)
    | ((with_reducible apply Keeps.cut (joinedBroken_keeps ..)); case hs => decide)
    | ((with_reducible apply Keeps.cut (takeBlock_wait (by assumption))); case hs => decide)
    | ((with_reducible apply Keeps.cut (takeBlock_stop (by assumption))); case hs => decide)
    | ((with_reducible apply Keeps.cut (takeBlock_got (by assumption))); case hs => decide)
    | ((with_reducible apply Keeps.cut (takeBlock_keeps ..)); case hs => decide)
    | ((with_reducible apply Keeps.cut (leadTaken_keeps ..)); case hs => decide)
    | ((with_reducible apply Keeps.cut (blockFault_keeps ..)); case hs => decide)
    | ((with_reducible apply Keeps.cut (chanFault_keeps ..)); case hs => decide)
    | ((with_reducible apply Keeps.cut (State.mapChan_keeps ..)); case hs => decide)
    | with_reducible apply Keeps.opt_if (by assumption)
    | with_reducible apply Keeps.ite <;> intro _
    | split

theorem takeRun_wait {s : State} {c : Nat} {ch : Nat} {want : Nat} {x' : State} (hx' : takeRun s c ch want = .wait x') : Keeps [.regs, .evts, .faults, .cores, .drover, .fabric] s x' := by
  have k := takeRun_keeps s c ch want
  rw [hx'] at k
  exact k

theorem takeRun_stop {s : State} {c : Nat} {ch : Nat} {want : Nat} {x' : State} (hx' : takeRun s c ch want = .stop x') : Keeps [.regs, .evts, .faults, .cores, .drover, .fabric] s x' := by
  have k := takeRun_keeps s c ch want
  rw [hx'] at k
  exact k

theorem takeRun_got {s : State} {c : Nat} {ch : Nat} {want : Nat} {x' : State} {y' : List Word} (hx' : takeRun s c ch want = .got x' y') : Keeps [.regs, .evts, .faults, .cores, .drover, .fabric] s x' := by
  have k := takeRun_keeps s c ch want
  rw [hx'] at k
  exact k

theorem feedGo_keeps (c : Nat) (n : Nat) (s : State) (f : Feed) :
    Keeps [.regs, .evts, .faults, .cores, .drover, .fabric] s (feedGo c n s f).1 := by
  induction n generalizing s f with
  | zero => exact Keeps.refl _ _
  | succ n ih =>
    unfold feedGo
    split
    · exact Keeps.refl _ _
    · split
      · exact takeRun_wait (by assumption)
      · exact takeRun_stop (by assumption)
      · exact (takeRun_got (by assumption)).trans (ih _ _)

theorem feed_keeps (s : State) (c : Nat) (task : Nat) (f : Feed) : Keeps [.regs, .evts, .faults, .cores, .drover, .fabric] s (feed s c task f).1 := by
  unfold feed
  repeat' first
    | dsimp only
    | with_reducible apply Keeps.refl
    | ((with_reducible apply Keeps.cut (feedGo_keeps ..)); case hs => decide)
    | with_reducible apply Keeps.ite <;> intro _
    | split

theorem pushOut_keeps (s : State) (c : Nat) (ch : Nat) (task : Nat) (vals : List Word) : Keeps [.faults, .cores, .drover] s (pushOut s c ch task vals).1 := by
  unfold pushOut
  repeat' first
    | dsimp only
    | with_reducible apply Keeps.refl
    | ((with_reducible apply Keeps.cut (chanFault_keeps ..)); case hs => decide)
    | ((with_reducible apply Keeps.cut (State.mapChan_keeps ..)); case hs => decide)
    | with_reducible apply Keeps.ite <;> intro _
    | split

theorem pullMm_keeps (s : State) (c : Nat) : Keeps [.regs, .evts, .faults, .cores, .drover, .fabric] s (pullMm s c) := by
  unfold pullMm
  repeat' first
    | dsimp only
    | with_reducible apply Keeps.refl
    | ((with_reducible apply Keeps.cut (feed_keeps ..)); case hs => decide)
    | ((with_reducible apply Keeps.cut (State.mapCore_keeps ..)); case hs => decide)
    | with_reducible apply Keeps.ite <;> intro _
    | split

theorem pullDr_keeps (s : State) (c : Nat) : Keeps [.regs, .evts, .faults, .cores, .drover, .fabric] s (pullDr s c) := by
  unfold pullDr
  repeat' first
    | dsimp only
    | with_reducible apply Keeps.refl
    | ((with_reducible apply Keeps.cut (pushOut_keeps ..)); case hs => decide)
    | ((with_reducible apply Keeps.cut (feed_keeps ..)); case hs => decide)
    | ((with_reducible apply Keeps.cut (State.mapCore_keeps ..)); case hs => decide)
    | with_reducible apply Keeps.ite <;> intro _
    | split

theorem attFault_keeps (s : State) (c : Nat) (t : Nat) (code : Nat) (addr : Option Nat) (d0 : Word) (d1 : Word) : Keeps [.faults, .cores, .drover] s (attFault s c t code addr d0 d1) := by
  unfold attFault
  repeat' first
    | dsimp only
    | with_reducible apply Keeps.refl
    | ((with_reducible apply Keeps.cut (taskFault_keeps ..)); case hs => decide)

theorem planAdd_keeps (s : State) (c : Nat) (ch : Nat) (runs : List (Nat × Nat)) : Keeps [.cores] s (planAdd s c ch runs) := by
  unfold planAdd
  repeat' first
    | dsimp only
    | with_reducible apply Keeps.refl
    | ((with_reducible apply Keeps.cut (State.mapChan_keeps ..)); case hs => decide)

theorem planEntry_keeps (c : Nat) (r : State × AttRun) (j : Nat) : Keeps [.faults, .cores, .drover] r.1 (planEntry c r j).1 := by
  unfold planEntry
  repeat' first
    | dsimp only
    | with_reducible apply Keeps.refl
    | ((with_reducible apply Keeps.cut (planAdd_keeps ..)); case hs => decide)
    | ((with_reducible apply Keeps.cut (attFault_keeps ..)); case hs => decide)
    | with_reducible apply Keeps.ite <;> intro _
    | split

theorem pullAtt_keeps (s : State) (c : Nat) : Keeps [.regs, .evts, .faults, .cores, .drover, .fabric] s (pullAtt s c) := by
  unfold pullAtt
  repeat' first
    | dsimp only
    | with_reducible apply Keeps.refl
    | (with_reducible apply Keeps.foldl_fst) <;> try intro _ _
    | ((with_reducible apply Keeps.cut (planEntry_keeps ..)); case hs => decide)
    | ((with_reducible apply Keeps.cut (pushOut_keeps ..)); case hs => decide)
    | ((with_reducible apply Keeps.cut (feed_keeps ..)); case hs => decide)
    | ((with_reducible apply Keeps.cut (State.mapCore_keeps ..)); case hs => decide)
    | (with_reducible apply Keeps.foldl) <;> try intro _ _
    | with_reducible apply Keeps.ite <;> intro _
    | split

theorem pullOp_keeps (s : State) (c : Nat) : Keeps [.regs, .evts, .faults, .cores, .drover, .fabric] s (pullOp s c) := by
  unfold pullOp
  repeat' first
    | dsimp only
    | with_reducible apply Keeps.refl
    | ((with_reducible apply Keeps.cut (feed_keeps ..)); case hs => decide)
    | ((with_reducible apply Keeps.cut (State.mapFabric_keeps ..)); case hs => decide)
    | with_reducible apply Keeps.ite <;> intro _
    | split

theorem pullBox_keeps (s : State) (x : Inbox) : Keeps [.faults, .cores, .drover, .fabric] s (pullBox s x) := by
  unfold pullBox
  repeat' first
    | dsimp only
    | with_reducible apply Keeps.refl
    | ((with_reducible apply Keeps.cut (pushOut_keeps ..)); case hs => decide)
    | ((with_reducible apply Keeps.cut (State.mapFabric_keeps ..)); case hs => decide)
    | with_reducible apply Keeps.ite <;> intro _
    | split

theorem pullInbox_keeps (s : State) (c : Nat) : Keeps [.faults, .cores, .drover, .fabric] s (pullInbox s c) := by
  unfold pullInbox
  repeat' first
    | dsimp only
    | with_reducible apply Keeps.refl
    | ((with_reducible apply Keeps.cut (pullBox_keeps ..)); case hs => decide)
    | (with_reducible apply Keeps.foldl) <;> try intro _ _

theorem pull_keeps (s : State) (c : Nat) : Keeps [.regs, .evts, .faults, .cores, .drover, .fabric] s (pull s c) := by
  unfold pull
  repeat' first
    | dsimp only
    | with_reducible apply Keeps.refl
    | ((with_reducible apply Keeps.cut (pullInbox_keeps ..)); case hs => decide)
    | ((with_reducible apply Keeps.cut (pullOp_keeps ..)); case hs => decide)
    | ((with_reducible apply Keeps.cut (pullAtt_keeps ..)); case hs => decide)
    | ((with_reducible apply Keeps.cut (pullDr_keeps ..)); case hs => decide)
    | ((with_reducible apply Keeps.cut (pullMm_keeps ..)); case hs => decide)

end Sys2Proof.Machine
end

