-- ==== Sys2Proof/Laws/Issue.lean ====
section
/-! SUPPORT. What the operations of Machine/Issue.lean may change. -/

set_option linter.unusedTactic false
set_option linter.unreachableTactic false

namespace Sys2Proof.Machine

/-- The state that a core's front leaves. -/
def frontState (s : State) : Front → State
  | .stall => s
  | .fault t => t
  | .words t _ _ => t

theorem frontState_stall (s : State) : frontState s .stall = s := rfl
theorem frontState_fault (s t : State) : frontState s (.fault t) = t := rfl
theorem frontState_words (s t : State) (p : Prog) (ws : List Word) : frontState s (.words t p ws) = t := rfl

theorem front_ite {ps : List Part} {c : Prop} [Decidable c] {s u : State} {a b : Front} (h : c → Keeps ps s (frontState u a))
    (k : ¬c → Keeps ps s (frontState u b)) : Keeps ps s (frontState u (if c then a else b)) := by
  by_cases x : c
  · rw [if_pos x]; exact h x
  · rw [if_neg x]; exact k x

theorem setProg_keeps (s : State) (c : Nat) (p : Prog) : Keeps [.cores] s (setProg s c p) := by
  unfold setProg
  repeat' first
    | dsimp only
    | with_reducible apply Keeps.refl
    | ((with_reducible apply Keeps.cut (State.mapCore_keeps ..)); case hs => decide)

theorem progFault_keeps (s : State) (c : Nat) (t : Nat) (pc : Nat) (code : Nat) (addr : Option Nat) (w : Word) : Keeps [.faults, .cores, .drover] s (progFault s c t pc code addr w) := by
  unfold progFault
  repeat' first
    | dsimp only
    | with_reducible apply Keeps.refl
    | ((with_reducible apply Keeps.cut (taskFault_keeps ..)); case hs => decide)

theorem progBlock_keeps (s : State) (c : Nat) (p : Prog) (pc : Nat) (w : Word) : Keeps [.faults, .cores, .drover] s (optState s (progBlock s c p pc w)) := by
  unfold progBlock
  repeat' first
    | dsimp only [optState_some, optState_none]
    | with_reducible apply Keeps.refl
    | with_reducible apply Keeps.opt_ite <;> intro _
    | ((with_reducible apply Keeps.cut (progFault_keeps ..)); case hs => decide)
    | with_reducible apply Keeps.ite <;> intro _
    | split

theorem progBlock_some {s : State} {c : Nat} {p : Prog} {pc : Nat} {w : Word} {x' : State} (hx' : progBlock s c p pc w = some x') : Keeps [.faults, .cores, .drover] s x' := by
  have k := progBlock_keeps s c p pc w
  rw [hx'] at k
  exact k

theorem frontWords_keeps (s : State) (c : Nat) (p : Prog) (n : Nat) : Keeps [.faults, .cores, .drover] s (frontState s (frontWords s c p n)) := by
  unfold frontWords
  split
  · rw [frontState_fault]
    exact (progBlock_some (by assumption)).mono (by decide)
  · rw [frontState_words]
    exact (setProg_keeps ..).mono (by decide)

theorem frontAt_keeps (s : State) (c : Nat) (p : Prog) : Keeps [.faults, .cores, .drover] s (frontState s (frontAt s c p)) := by
  unfold frontAt
  split
  · rw [frontState_fault]
    exact (progBlock_some (by assumption)).mono (by decide)
  · with_reducible apply front_ite <;> intro _
    · rw [frontState_fault]
      exact (progFault_keeps ..).mono (by decide)
    · exact frontWords_keeps ..

theorem front_keeps (s : State) (c : Nat) : Keeps [.faults, .cores, .drover] s (frontState s (front s c)) := by
  unfold front
  split
  · exact Keeps.refl _ _
  · with_reducible apply front_ite <;> intro _
    · rw [frontState_fault]
      exact (progFault_keeps ..).mono (by decide)
    · exact frontAt_keeps ..

theorem front_fault {s : State} {c : Nat} {x : State} (h : front s c = .fault x) : Keeps [.faults, .cores, .drover] s x := by
  have k := front_keeps s c
  rw [h] at k
  exact k

theorem front_words {s : State} {c : Nat} {x : State} {p : Prog} {ws : List Word} (h : front s c = .words x p ws) :
    Keeps [.faults, .cores, .drover] s x := by
  have k := front_keeps s c
  rw [h] at k
  exact k

theorem advance_keeps (s : State) (c : Nat) (p : Prog) (ws : List Word) : Keeps [.cores] s (advance s c p ws) := by
  unfold advance
  repeat' first
    | dsimp only
    | with_reducible apply Keeps.refl
    | ((with_reducible apply Keeps.cut (setProg_keeps ..)); case hs => decide)
    | ((with_reducible apply Keeps.cut (State.mapCore_keeps ..)); case hs => decide)

theorem issue_keeps (op c : Nat) (body : State → Prog → List Word → State) (s : State) (ps : List Part)
    (hb : ∀ t p ws, Keeps ps t (body t p ws)) (hs : [Part.faults, .cores, .drover] ⊆ ps) : Keeps ps s (issue op c body s) := by
  unfold issue
  split
  · exact Keeps.refl _ _
  · exact (front_fault (by assumption)).mono hs
  · have k := (front_words (by assumption)).mono hs
    split
    · exact k.trans (hb _ _ _)
    · exact Keeps.refl _ _

theorem issueEnd_keeps (c : Nat) (s : State) : Keeps [.faults, .cores, .drover] s (issueEnd c s) := by
  unfold issueEnd
  repeat' first
    | dsimp only
    | with_reducible apply Keeps.refl
    | ((with_reducible apply Keeps.cut (front_fault (by assumption))); case hs => decide)
    | ((with_reducible apply Keeps.cut (front_words (by assumption))); case hs => decide)
    | ((with_reducible apply Keeps.cut (setProg_keeps ..)); case hs => decide)
    | ((with_reducible apply Keeps.cut (State.mapCore_keeps ..)); case hs => decide)
    | with_reducible apply Keeps.ite <;> intro _
    | split

theorem issueUndefined_keeps (c : Nat) (s : State) : Keeps [.faults, .cores, .drover] s (issueUndefined c s) := by
  unfold issueUndefined
  repeat' first
    | dsimp only
    | with_reducible apply Keeps.refl
    | ((with_reducible apply Keeps.cut (front_fault (by assumption))); case hs => decide)
    | ((with_reducible apply Keeps.cut (front_words (by assumption))); case hs => decide)
    | ((with_reducible apply Keeps.cut (progFault_keeps ..)); case hs => decide)
    | with_reducible apply Keeps.ite <;> intro _
    | split

end Sys2Proof.Machine
end

