-- ==== Sys2Proof/Laws/Streams.lean ====
section
/-! SUPPORT. What the operations of Machine/Streams.lean may change. -/

set_option linter.unusedTactic false
set_option linter.unreachableTactic false

namespace Sys2Proof.Machine

theorem streamFault_keeps (s : State) (c : Nat) (t : Nat) (ch : Nat) (code : Nat) (addr : Option Nat) (d0 : Word) (d1 : Word) : Keeps [.faults, .cores, .drover] s (streamFault s c t ch code addr d0 d1) := by
  unfold streamFault
  repeat' first
    | dsimp only
    | with_reducible apply Keeps.refl
    | ((with_reducible apply Keeps.cut (State.mapChan_keeps ..)); case hs => decide)
    | ((with_reducible apply Keeps.cut (taskFault_keeps ..)); case hs => decide)
    | with_reducible apply Keeps.ite <;> intro _
    | split

theorem readDesc_keeps (s : State) (c : Nat) (t : Nat) (ch : Nat) (addr : Nat) (w0 : Word) (joined : Bool) : Keeps [.regs, .evts, .faults, .cores, .drover] s (inlState s (readDesc s c t ch addr w0 joined)) := by
  unfold readDesc
  repeat' first
    | dsimp only [inlState_inl, inlState_inr]
    | with_reducible apply Keeps.refl
    | with_reducible apply Keeps.inl_ite <;> intro _
    | ((with_reducible apply Keeps.cut (streamFault_keeps ..)); case hs => decide)
    | ((with_reducible apply Keeps.cut (State.bump_keeps ..)); case hs => decide)
    | ((with_reducible apply Keeps.cut (State.pulse_keeps ..)); case hs => decide)
    | with_reducible apply Keeps.ite <;> intro _
    | split

theorem readDesc_some {s : State} {c : Nat} {t : Nat} {ch : Nat} {addr : Nat} {w0 : Word} {joined : Bool} {x' : State} (hx' : readDesc s c t ch addr w0 joined = .inl x') : Keeps [.regs, .evts, .faults, .cores, .drover] s x' := by
  have k := readDesc_keeps s c t ch addr w0 joined
  rw [hx'] at k
  exact k

theorem disarmFirst_keeps (s : State) (c : Nat) (ch : Nat) (q : QInst) : Keeps [.cores] s (disarmFirst s c ch q) := by
  unfold disarmFirst
  repeat' first
    | dsimp only
    | with_reducible apply Keeps.refl
    | ((with_reducible apply Keeps.cut (State.mapChan_keeps ..)); case hs => decide)

theorem traceArm_keeps (s : State) (c : Nat) (t : Nat) (ch : Nat) (addr : Nat) (ws : List Word) : Keeps [.sharal] s (traceArm s c t ch addr ws) := by
  unfold traceArm
  repeat' first
    | dsimp only
    | with_reducible apply Keeps.refl
    | ((with_reducible apply Keeps.cut (taskTrace_keeps ..)); case hs => decide)

theorem issueArm_keeps (c : Nat) (s : State) (p : Prog) (ws : List Word) : Keeps [.regs, .evts, .faults, .cores, .drover, .sharal] s (issueArm c s p ws) := by
  unfold issueArm
  repeat' first
    | dsimp only
    | with_reducible apply Keeps.refl
    | ((with_reducible apply Keeps.cut (traceArm_keeps ..)); case hs => decide)
    | ((with_reducible apply Keeps.cut (disarmFirst_keeps ..)); case hs => decide)
    | ((with_reducible apply Keeps.cut (readDesc_some (by assumption))); case hs => decide)
    | ((with_reducible apply Keeps.cut (readDesc_keeps ..)); case hs => decide)
    | ((with_reducible apply Keeps.cut (streamFault_keeps ..)); case hs => decide)
    | ((with_reducible apply Keeps.cut (advance_keeps ..)); case hs => decide)
    | ((with_reducible apply Keeps.cut (State.mapChan_keeps ..)); case hs => decide)
    | with_reducible apply Keeps.ite <;> intro _
    | split

theorem issueRearm_keeps (c : Nat) (s : State) (p : Prog) (ws : List Word) : Keeps [.faults, .cores, .drover] s (issueRearm c s p ws) := by
  unfold issueRearm
  repeat' first
    | dsimp only
    | with_reducible apply Keeps.refl
    | ((with_reducible apply Keeps.cut (streamFault_keeps ..)); case hs => decide)
    | ((with_reducible apply Keeps.cut (advance_keeps ..)); case hs => decide)
    | ((with_reducible apply Keeps.cut (State.mapChan_keeps ..)); case hs => decide)
    | with_reducible apply Keeps.ite <;> intro _
    | split

theorem leadNext_keeps (s : State) (c : Nat) (ch : Nat) (again : Bool) : Keeps [.regs, .evts, .cores, .fabric] s (leadNext s c ch again) := by
  unfold leadNext
  repeat' first
    | dsimp only
    | with_reducible apply Keeps.refl
    | ((with_reducible apply Keeps.cut (sweepRing_keeps ..)); case hs => decide)
    | ((with_reducible apply Keeps.cut (leadCancel_keeps ..)); case hs => decide)
    | ((with_reducible apply Keeps.cut (setSlotOf_keeps ..)); case hs => decide)
    | with_reducible apply Keeps.ite <;> intro _
    | split

theorem leadSrc_keeps (s : State) (c : Nat) (ch : Nat) : Keeps [.cores] s (leadSrc s c ch) := by
  unfold leadSrc
  repeat' first
    | dsimp only
    | with_reducible apply Keeps.refl
    | ((with_reducible apply Keeps.cut (setSlotOf_keeps ..)); case hs => decide)
    | with_reducible apply Keeps.ite <;> intro _
    | split

theorem rearmEffect_keeps (s : State) (c : Nat) (ch : Nat) : Keeps [.regs, .evts, .cores, .fabric, .sharal] s (rearmEffect s c ch) := by
  unfold rearmEffect
  repeat' first
    | dsimp only
    | with_reducible apply Keeps.refl
    | ((with_reducible apply Keeps.cut (leadSrc_keeps ..)); case hs => decide)
    | ((with_reducible apply Keeps.cut (leadNext_keeps ..)); case hs => decide)
    | ((with_reducible apply Keeps.cut (taskTrace_keeps ..)); case hs => decide)
    | ((with_reducible apply Keeps.cut (State.mapCore_keeps ..)); case hs => decide)
    | with_reducible apply Keeps.ite <;> intro _
    | split

theorem issueSwap_keeps (c : Nat) (s : State) (p : Prog) (ws : List Word) : Keeps [.faults, .cores, .drover] s (issueSwap c s p ws) := by
  unfold issueSwap
  repeat' first
    | dsimp only
    | with_reducible apply Keeps.refl
    | ((with_reducible apply Keeps.cut (streamFault_keeps ..)); case hs => decide)
    | ((with_reducible apply Keeps.cut (advance_keeps ..)); case hs => decide)
    | ((with_reducible apply Keeps.cut (State.mapChan_keeps ..)); case hs => decide)
    | with_reducible apply Keeps.ite <;> intro _
    | split

theorem halvesSwap_keeps (s : State) (c : Nat) (ch : Nat) : Keeps [.regs, .evts, .faults, .cores, .drover, .fabric, .sharal] s (halvesSwap s c ch) := by
  unfold halvesSwap
  repeat' first
    | dsimp only
    | with_reducible apply Keeps.refl
    | ((with_reducible apply Keeps.cut (pull_keeps ..)); case hs => decide)
    | ((with_reducible apply Keeps.cut (State.mapChan_keeps ..)); case hs => decide)
    | ((with_reducible apply Keeps.cut (taskTrace_keeps ..)); case hs => decide)
    | with_reducible apply Keeps.ite <;> intro _
    | split

theorem issueDisarm_keeps (c : Nat) (s : State) (p : Prog) (ws : List Word) : Keeps [.faults, .cores, .drover] s (issueDisarm c s p ws) := by
  unfold issueDisarm
  repeat' first
    | dsimp only
    | with_reducible apply Keeps.refl
    | ((with_reducible apply Keeps.cut (streamFault_keeps ..)); case hs => decide)
    | ((with_reducible apply Keeps.cut (advance_keeps ..)); case hs => decide)
    | ((with_reducible apply Keeps.cut (State.mapChan_keeps ..)); case hs => decide)
    | with_reducible apply Keeps.ite <;> intro _
    | split

theorem disarmDone_keeps (s : State) (c : Nat) (ch : Nat) : Keeps [.regs, .evts, .cores, .fabric, .sharal] s (disarmDone s c ch) := by
  unfold disarmDone
  repeat' first
    | dsimp only
    | with_reducible apply Keeps.refl
    | ((with_reducible apply Keeps.cut (leadNext_keeps ..)); case hs => decide)
    | ((with_reducible apply Keeps.cut (State.mapChan_keeps ..)); case hs => decide)
    | ((with_reducible apply Keeps.cut (taskTrace_keeps ..)); case hs => decide)
    | with_reducible apply Keeps.ite <;> intro _
    | split

theorem indexFault_keeps (s : State) (c : Nat) (k : Core) (h : Chan) (w : Want) : Keeps [.regs, .evts, .faults, .cores, .drover] s (optState s (indexFault s c k h w)) := by
  unfold indexFault
  repeat' first
    | dsimp only [optState_some, optState_none]
    | with_reducible apply Keeps.refl
    | with_reducible apply Keeps.opt_ite <;> intro _
    | ((with_reducible apply Keeps.cut (blockFault_keeps ..)); case hs => decide)
    | with_reducible apply Keeps.ite <;> intro _
    | split

theorem indexFault_some {s : State} {c : Nat} {k : Core} {h : Chan} {w : Want} {x' : State} (hx' : indexFault s c k h w = some x') : Keeps [.regs, .evts, .faults, .cores, .drover] s x' := by
  have k := indexFault_keeps s c k h w
  rw [hx'] at k
  exact k

theorem walkFault_keeps (s : State) (c : Nat) (ch : Nat) (w : Want) : Keeps [.regs, .evts, .faults, .cores, .drover] s (optState s (walkFault s c ch w)) := by
  unfold walkFault
  repeat' first
    | dsimp only [optState_some, optState_none]
    | with_reducible apply Keeps.refl
    | with_reducible apply Keeps.opt_ite <;> intro _
    | ((with_reducible apply Keeps.cut (indexFault_some (by assumption))); case hs => decide)
    | ((with_reducible apply Keeps.cut (indexFault_keeps ..)); case hs => decide)
    | ((with_reducible apply Keeps.cut (chanFault_keeps ..)); case hs => decide)
    | with_reducible apply Keeps.opt_if (by assumption)
    | with_reducible apply Keeps.ite <;> intro _
    | split

theorem walkFault_some {s : State} {c : Nat} {ch : Nat} {w : Want} {x' : State} (hx' : walkFault s c ch w = some x') : Keeps [.regs, .evts, .faults, .cores, .drover] s x' := by
  have k := walkFault_keeps s c ch w
  rw [hx'] at k
  exact k

theorem wantFault_keeps (s : State) (c : Nat) (ch : Nat) (w : Want) : Keeps [.regs, .evts, .faults, .cores, .drover] s (optState s (wantFault s c ch w)) := by
  unfold wantFault
  repeat' first
    | dsimp only [optState_some, optState_none]
    | with_reducible apply Keeps.refl
    | with_reducible apply Keeps.opt_ite <;> intro _
    | ((with_reducible apply Keeps.cut (walkFault_some (by assumption))); case hs => decide)
    | ((with_reducible apply Keeps.cut (walkFault_keeps ..)); case hs => decide)
    | ((with_reducible apply Keeps.cut (State.mapChan_keeps ..)); case hs => decide)
    | ((with_reducible apply Keeps.cut (taskFault_keeps ..)); case hs => decide)
    | with_reducible apply Keeps.opt_if (by assumption)
    | with_reducible apply Keeps.ite <;> intro _
    | split

theorem wantFault_some {s : State} {c : Nat} {ch : Nat} {w : Want} {x' : State} (hx' : wantFault s c ch w = some x') : Keeps [.regs, .evts, .faults, .cores, .drover] s x' := by
  have k := wantFault_keeps s c ch w
  rw [hx'] at k
  exact k

theorem wantWake_keeps (s : State) (w : Want) : Keeps [.regs, .evts, .power, .sharal] s (optState s (wantWake s w)) := by
  unfold wantWake
  repeat' first
    | dsimp only [optState_some, optState_none]
    | with_reducible apply Keeps.refl
    | with_reducible apply Keeps.opt_ite <;> intro _
    | ((with_reducible apply Keeps.cut (startWake_keeps ..)); case hs => decide)
    | with_reducible apply Keeps.ite <;> intro _
    | split

theorem wantWake_some {s : State} {w : Want} {x' : State} (hx' : wantWake s w = some x') : Keeps [.regs, .evts, .power, .sharal] s x' := by
  have k := wantWake_keeps s w
  rw [hx'] at k
  exact k

theorem portFaults_keeps (s : State) (p : Nat) : Keeps [.regs, .evts, .faults, .cores, .drover, .power, .sharal] s (optState s (portFaults s p)) := by
  unfold portFaults
  repeat' first
    | dsimp only [optState_some, optState_none]
    | with_reducible apply Keeps.refl
    | with_reducible apply Keeps.opt_ite <;> intro _
    | ((with_reducible apply Keeps.cut (wantWake_some (by assumption))); case hs => decide)
    | ((with_reducible apply Keeps.cut (wantWake_keeps ..)); case hs => decide)
    | ((with_reducible apply Keeps.cut (wantFault_some (by assumption))); case hs => decide)
    | ((with_reducible apply Keeps.cut (wantFault_keeps ..)); case hs => decide)
    | with_reducible apply Keeps.opt_if (by assumption)
    | with_reducible apply Keeps.opt_find <;> intro _
    | with_reducible apply Keeps.ite <;> intro _
    | split

theorem portFaults_some {s : State} {p : Nat} {x' : State} (hx' : portFaults s p = some x') : Keeps [.regs, .evts, .faults, .cores, .drover, .power, .sharal] s x' := by
  have k := portFaults_keeps s p
  rw [hx'] at k
  exact k

theorem grantTo_keeps (s : State) (c : Nat) (ch : Nat) (w : Want) : Keeps [.regs, .slots, .cores, .power] s (grantTo s c ch w) := by
  unfold grantTo
  repeat' first
    | dsimp only
    | with_reducible apply Keeps.refl
    | ((with_reducible apply Keeps.cut (touchDom_keeps ..)); case hs => decide)
    | ((with_reducible apply Keeps.cut (countSlots_keeps ..)); case hs => decide)
    | ((with_reducible apply Keeps.cut (takePort_keeps ..)); case hs => decide)
    | ((with_reducible apply Keeps.cut (State.bump_keeps ..)); case hs => decide)
    | ((with_reducible apply Keeps.cut (State.setCore_keeps ..)); case hs => decide)
    | with_reducible apply Keeps.ite <;> intro _
    | split

theorem learnWalk_keeps (s : State) (c : Nat) (ch : Nat) : Keeps [.cores] s (learnWalk s c ch) := by
  unfold learnWalk
  repeat' first
    | dsimp only
    | with_reducible apply Keeps.refl
    | ((with_reducible apply Keeps.cut (setSlotOf_keeps ..)); case hs => decide)
    | with_reducible apply Keeps.ite <;> intro _
    | split

theorem noteRequest_keeps (s : State) (c : Nat) (ch : Nat) : Keeps [.cores] s (noteRequest s c ch) := by
  unfold noteRequest
  repeat' first
    | dsimp only
    | with_reducible apply Keeps.refl
    | ((with_reducible apply Keeps.cut (State.mapChan_keeps ..)); case hs => decide)
    | with_reducible apply Keeps.ite <;> intro _
    | split

theorem flightFault_keeps (s : State) (c : Nat) (ch : Nat) (f : Flight) (v : Verdict) : Keeps [.regs, .evts, .faults, .cores, .drover] s (flightFault s c ch f v) := by
  unfold flightFault
  repeat' first
    | dsimp only
    | with_reducible apply Keeps.refl
    | ((with_reducible apply Keeps.cut (taskFault_keeps ..)); case hs => decide)
    | ((with_reducible apply Keeps.cut (State.bump_keeps ..)); case hs => decide)
    | ((with_reducible apply Keeps.cut (State.pulse_keeps ..)); case hs => decide)
    | with_reducible apply Keeps.ite <;> intro _
    | split

theorem landWrite_keeps (s : State) (c ch : Nat) (f : Flight) : Keeps [.regs, .evts, .faults, .mem, .cores, .drover] s (landWrite s c ch f) := by
  unfold landWrite
  extract_lets s1
  have k : Keeps [.regs, .evts, .faults, .mem, .cores, .drover] s s1 := (State.mapChan_keeps ..).mono (by decide)
  split
  · exact k.trans ((State.mapMem_keeps _ _ (fun _ hm => Memory.moveBlock_wf _ _ _ hm)).mono (by decide))
  · split
    · rename_i m hm
      refine k.trans ((Keeps.mem s1 m (fun h => ?_)).mono (by decide))
      have w := mergeCells_wf s.mem f.block f.cells h
      rw [hm] at w
      exact w
    · exact k.trans ((flightFault_keeps ..).mono (by decide))

theorem landLead_keeps (s : State) (c : Nat) (h : Chan) (f : Flight) : Keeps [.cores] s (landLead s c h f) := by
  unfold landLead
  repeat' first
    | dsimp only
    | with_reducible apply Keeps.refl
    | ((with_reducible apply Keeps.cut (setSlotOf_keeps ..)); case hs => decide)
    | with_reducible apply Keeps.ite <;> intro _
    | split

theorem landStage_keeps (s : State) (c : Nat) (ch : Nat) (f : Flight) : Keeps [.regs, .evts, .faults, .cores, .drover] s (landStage s c ch f) := by
  unfold landStage
  repeat' first
    | dsimp only
    | with_reducible apply Keeps.refl
    | ((with_reducible apply Keeps.cut (flightFault_keeps ..)); case hs => decide)
    | ((with_reducible apply Keeps.cut (State.mapChan_keeps ..)); case hs => decide)
    | with_reducible apply Keeps.ite <;> intro _
    | split

theorem landRead_keeps (s : State) (c : Nat) (ch : Nat) (f : Flight) : Keeps [.regs, .evts, .faults, .cores, .drover] s (landRead s c ch f) := by
  unfold landRead
  repeat' first
    | dsimp only
    | with_reducible apply Keeps.refl
    | ((with_reducible apply Keeps.cut (landStage_keeps ..)); case hs => decide)
    | ((with_reducible apply Keeps.cut (landLead_keeps ..)); case hs => decide)
    | ((with_reducible apply Keeps.cut (State.mapChan_keeps ..)); case hs => decide)
    | with_reducible apply Keeps.ite <;> intro _
    | split

theorem transferDone_keeps (s : State) (c : Nat) (ch : Nat) : Keeps [.regs, .evts, .faults, .mem, .cores, .drover, .fabric] s (transferDone s c ch) := by
  unfold transferDone
  repeat' first
    | dsimp only
    | with_reducible apply Keeps.refl
    | ((with_reducible apply Keeps.cut (landRead_keeps ..)); case hs => decide)
    | ((with_reducible apply Keeps.cut (landWrite_keeps ..)); case hs => decide)
    | ((with_reducible apply Keeps.cut (pull_keeps ..)); case hs => decide)
    | ((with_reducible apply Keeps.cut (State.mapChan_keeps ..)); case hs => decide)
    | with_reducible apply Keeps.ite <;> intro _
    | split

theorem channelPrimed_keeps (s : State) (c : Nat) (ch : Nat) : Keeps [.cores] s (channelPrimed s c ch) := by
  unfold channelPrimed
  repeat' first
    | dsimp only
    | with_reducible apply Keeps.refl
    | ((with_reducible apply Keeps.cut (State.mapChan_keeps ..)); case hs => decide)
    | with_reducible apply Keeps.ite <;> intro _
    | split

theorem setupFault_keeps (s : State) (c : Nat) (t : Nat) (ch : Nat) (code : Nat) (w0 : Word) : Keeps [.faults, .cores, .drover] s (setupFault s c t ch code w0) := by
  unfold setupFault
  repeat' first
    | dsimp only
    | with_reducible apply Keeps.refl
    | ((with_reducible apply Keeps.cut (State.mapChan_keeps ..)); case hs => decide)
    | ((with_reducible apply Keeps.cut (taskFault_keeps ..)); case hs => decide)
    | with_reducible apply Keeps.ite <;> intro _
    | split

theorem bindChain_keeps (s : State) (c : Nat) (t : Nat) (ch : Nat) (i : Nat) (v : ChSlot) (h : Chan) : Keeps [.cores] s (bindChain s c t ch i v h) := by
  unfold bindChain
  repeat' first
    | dsimp only
    | with_reducible apply Keeps.refl
    | ((with_reducible apply Keeps.cut (State.mapChan_keeps ..)); case hs => decide)
    | ((with_reducible apply Keeps.cut (State.mapCore_keeps ..)); case hs => decide)
    | with_reducible apply Keeps.ite <;> intro _
    | split

theorem issueChain_keeps (lead : Bool) (c : Nat) (s : State) (p : Prog) (ws : List Word) : Keeps [.regs, .evts, .faults, .cores, .drover, .sharal] s (issueChain lead c s p ws) := by
  unfold issueChain
  repeat' first
    | dsimp only
    | with_reducible apply Keeps.refl
    | ((with_reducible apply Keeps.cut (bindChain_keeps ..)); case hs => decide)
    | ((with_reducible apply Keeps.cut (setupFault_keeps ..)); case hs => decide)
    | ((with_reducible apply Keeps.cut (traceArm_keeps ..)); case hs => decide)
    | ((with_reducible apply Keeps.cut (disarmFirst_keeps ..)); case hs => decide)
    | ((with_reducible apply Keeps.cut (readDesc_some (by assumption))); case hs => decide)
    | ((with_reducible apply Keeps.cut (readDesc_keeps ..)); case hs => decide)
    | ((with_reducible apply Keeps.cut (streamFault_keeps ..)); case hs => decide)
    | ((with_reducible apply Keeps.cut (advance_keeps ..)); case hs => decide)
    | with_reducible apply Keeps.ite <;> intro _
    | split

end Sys2Proof.Machine
end

