-- ==== Sys2Proof/Laws/Codebook.lean ====
section
/-! SUPPORT. What the operations of Machine/Codebook.lean may change. -/

set_option linter.unusedTactic false
set_option linter.unreachableTactic false

namespace Sys2Proof.Machine

theorem bookFault_keeps (s : State) (c : Nat) (task : Option Nat) (code : Nat) (claim : Nat) (addr : Option Nat) (d1 : Word) : Keeps [.faults, .cores, .drover] s (bookFault s c task code claim addr d1) := by
  unfold bookFault
  repeat' first
    | dsimp only
    | with_reducible apply Keeps.refl
    | ((with_reducible apply Keeps.cut (taskFault_keeps ..)); case hs => decide)
    | ((with_reducible apply Keeps.cut (State.fault_keeps ..)); case hs => decide)
    | with_reducible apply Keeps.ite <;> intro _
    | split

theorem grantBooks_keeps (s : State) (c : Nat) (t : Nat) (i : Nat) (ps : List (Nat × Nat)) : Keeps [.cores, .drover] s (grantBooks s c t i ps) := by
  unfold grantBooks
  repeat' first
    | dsimp only
    | with_reducible apply Keeps.refl
    | ((with_reducible apply Keeps.cut (setTask_keeps ..)); case hs => decide)
    | ((with_reducible apply Keeps.cut (State.mapCore_keeps ..)); case hs => decide)
    | (with_reducible apply Keeps.foldl) <;> try intro _ _
    | with_reducible apply Keeps.ite <;> intro _
    | split

theorem groupLookup_keeps (s : State) (c : Nat) (t : Nat) (group : Nat) (ws : List CbWant) : Keeps [.regs, .faults, .cores, .drover] s (optState s (groupLookup s c t group ws)) := by
  unfold groupLookup
  repeat' first
    | dsimp only [optState_some, optState_none]
    | with_reducible apply Keeps.refl
    | with_reducible apply Keeps.opt_ite <;> intro _
    | ((with_reducible apply Keeps.cut (grantBooks_keeps ..)); case hs => decide)
    | ((with_reducible apply Keeps.cut (bookFault_keeps ..)); case hs => decide)
    | ((with_reducible apply Keeps.cut (countEvent_keeps ..)); case hs => decide)
    | with_reducible apply Keeps.ite <;> intro _
    | split

theorem groupLookup_some {s : State} {c : Nat} {t : Nat} {group : Nat} {ws : List CbWant} {x' : State} (hx' : groupLookup s c t group ws = some x') : Keeps [.regs, .faults, .cores, .drover] s x' := by
  have k := groupLookup_keeps s c t group ws
  rw [hx'] at k
  exact k

theorem pinnedLookup_keeps (s : State) (c : Nat) (t : Nat) (idx : Nat) (cl : Claim) : Keeps [.regs, .faults, .cores, .drover] s (pinnedLookup s c t idx cl) := by
  unfold pinnedLookup
  repeat' first
    | dsimp only
    | with_reducible apply Keeps.refl
    | ((with_reducible apply Keeps.cut (grantBooks_keeps ..)); case hs => decide)
    | ((with_reducible apply Keeps.cut (bookFault_keeps ..)); case hs => decide)
    | ((with_reducible apply Keeps.cut (countEvent_keeps ..)); case hs => decide)
    | with_reducible apply Keeps.opt_find <;> intro _
    | with_reducible apply Keeps.ite <;> intro _
    | split

theorem claimBooks_keeps (s : State) (t : Nat) (c : Nat) : Keeps [.regs, .faults, .cores, .drover] s (claimBooks s t c) := by
  unfold claimBooks
  repeat' first
    | dsimp only
    | with_reducible apply Keeps.refl
    | ((with_reducible apply Keeps.cut (pinnedLookup_keeps ..)); case hs => decide)
    | ((with_reducible apply Keeps.cut (groupLookup_some (by assumption))); case hs => decide)
    | ((with_reducible apply Keeps.cut (groupLookup_keeps ..)); case hs => decide)
    | ((with_reducible apply Keeps.cut (State.mapCore_keeps ..)); case hs => decide)
    | (with_reducible apply Keeps.foldl) <;> try intro _ _
    | with_reducible apply Keeps.opt_if (by assumption)
    | with_reducible apply Keeps.ite <;> intro _
    | split

theorem releaseBooks_keeps (s : State) (t : Nat) : Keeps [.cores, .drover] s (releaseBooks s t) := by
  unfold releaseBooks
  repeat' first
    | dsimp only
    | with_reducible apply Keeps.refl
    | ((with_reducible apply Keeps.cut (setTask_keeps ..)); case hs => decide)
    | with_reducible apply Keeps.ite <;> intro _
    | split
    | with_reducible exact (Keeps.cores s _).mono (by decide)
    | ((with_reducible apply Keeps.cut (Keeps.cores ..)); case hs => decide)

theorem startLoad_keeps (s : State) (c : Nat) (i : Nat) (l : CbLoad) : Keeps [.cores] s (startLoad s c i l) := by
  unfold startLoad
  repeat' first
    | dsimp only
    | with_reducible apply Keeps.refl
    | ((with_reducible apply Keeps.cut (State.mapCore_keeps ..)); case hs => decide)
    | with_reducible apply Keeps.ite <;> intro _
    | split

theorem codebookLoad_keeps (s : State) (c : Nat) : Keeps [.regs, .faults, .cores, .drover] s (codebookLoad s c) := by
  unfold codebookLoad
  repeat' first
    | dsimp only
    | with_reducible apply Keeps.refl
    | ((with_reducible apply Keeps.cut (startLoad_keeps ..)); case hs => decide)
    | ((with_reducible apply Keeps.cut (groupLookup_some (by assumption))); case hs => decide)
    | ((with_reducible apply Keeps.cut (groupLookup_keeps ..)); case hs => decide)
    | ((with_reducible apply Keeps.cut (State.mapCore_keeps ..)); case hs => decide)
    | with_reducible apply Keeps.opt_if (by assumption)
    | with_reducible apply Keeps.ite <;> intro _
    | split

theorem removePins_keeps (s : State) (key : Nat) : Keeps [.slots, .cores] s (removePins s key) := by
  unfold removePins
  repeat' first
    | dsimp only
    | with_reducible apply Keeps.refl
    | with_reducible exact (Keeps.slots s _).mono (by decide)
    | with_reducible exact (Keeps.cores s _).mono (by decide)
    | exact Keeps.of_only ⟨rfl, fun p hp => by cases p <;> first | rfl | simp at hp⟩

theorem refuseImage_keeps (s : State) (i : Image) (reason : Nat) : Keeps [.regs, .evts, .mem, .slots, .cores, .drover, .host] s (refuseImage s i reason) := by
  unfold refuseImage
  repeat' first
    | dsimp only
    | with_reducible apply Keeps.refl
    | ((with_reducible apply Keeps.cut (removePins_keeps ..)); case hs => decide)
    | ((with_reducible apply Keeps.cut (postRec_keeps ..)); case hs => decide)
    | ((with_reducible apply Keeps.cut (copyOut_keeps ..)); case hs => decide)
    | ((with_reducible apply Keeps.cut (imageAnswered_keeps ..)); case hs => decide)
    | ((with_reducible apply Keeps.cut (State.mapDrover_keeps ..)); case hs => decide)
    | ((with_reducible apply Keeps.cut (State.pulse_keeps ..)); case hs => decide)
    | ((with_reducible apply Keeps.cut (State.setReg_keeps ..)); case hs => decide)

theorem refusePinned_keeps (s : State) (keys : List Nat) : Keeps [.regs, .evts, .mem, .slots, .cores, .drover, .host] s (refusePinned s keys) := by
  unfold refusePinned
  repeat' first
    | dsimp only
    | with_reducible apply Keeps.refl
    | ((with_reducible apply Keeps.cut (refuseImage_keeps ..)); case hs => decide)
    | (with_reducible apply Keeps.foldl) <;> try intro _ _

theorem loadComplete_keeps (s : State) (c : Nat) : Keeps [.regs, .evts, .faults, .mem, .slots, .cores, .drover, .host] s (loadComplete s c) := by
  unfold loadComplete
  repeat' first
    | dsimp only
    | with_reducible apply Keeps.refl
    | ((with_reducible apply Keeps.cut (refusePinned_keeps ..)); case hs => decide)
    | ((with_reducible apply Keeps.cut (grantBooks_keeps ..)); case hs => decide)
    | ((with_reducible apply Keeps.cut (bookFault_keeps ..)); case hs => decide)
    | ((with_reducible apply Keeps.cut (State.bump_keeps ..)); case hs => decide)
    | ((with_reducible apply Keeps.cut (State.mapCore_keeps ..)); case hs => decide)
    | with_reducible apply Keeps.ite <;> intro _
    | split

theorem pinnedLoad_keeps (s : State) (c : Nat) : Keeps [.cores] s (pinnedLoad s c) := by
  unfold pinnedLoad
  repeat' first
    | dsimp only
    | with_reducible apply Keeps.refl
    | ((with_reducible apply Keeps.cut (startLoad_keeps ..)); case hs => decide)
    | ((with_reducible apply Keeps.cut (State.mapCore_keeps ..)); case hs => decide)
    | with_reducible apply Keeps.ite <;> intro _
    | split

theorem chargeReserve_keeps (s : State) (col : Nat) (n : Nat) : Keeps [.drover] s (chargeReserve s col n) := by
  unfold chargeReserve
  repeat' first
    | dsimp only
    | with_reducible apply Keeps.refl
    | ((with_reducible apply Keeps.cut (State.mapDrover_keeps ..)); case hs => decide)

theorem extendTask_keeps (s : State) (t : Nat) (core : Nat) (n : Nat) : Keeps [.drover] s (extendTask s t core n) := by
  unfold extendTask
  repeat' first
    | dsimp only
    | with_reducible apply Keeps.refl
    | ((with_reducible apply Keeps.cut (setTask_keeps ..)); case hs => decide)
    | with_reducible apply Keeps.ite <;> intro _
    | split

theorem extendWaiters_keeps (s : State) (c : Nat) (i : Nat) (n : Nat) : Keeps [.drover] s (extendWaiters s c i n) := by
  unfold extendWaiters
  repeat' first
    | dsimp only
    | with_reducible apply Keeps.refl
    | ((with_reducible apply Keeps.cut (extendTask_keeps ..)); case hs => decide)
    | (with_reducible apply Keeps.foldl) <;> try intro _ _
    | with_reducible apply Keeps.ite <;> intro _
    | split

theorem slotReload_keeps (s : State) (c : Nat) (i : Nat) : Keeps [.cores, .drover] s (slotReload s c i) := by
  unfold slotReload
  repeat' first
    | dsimp only
    | with_reducible apply Keeps.refl
    | ((with_reducible apply Keeps.cut (extendWaiters_keeps ..)); case hs => decide)
    | ((with_reducible apply Keeps.cut (chargeReserve_keeps ..)); case hs => decide)
    | ((with_reducible apply Keeps.cut (startLoad_keeps ..)); case hs => decide)
    | with_reducible apply Keeps.ite <;> intro _
    | split

theorem pinReload_keeps (s : State) (c : Nat) : Keeps [.cores, .drover] s (pinReload s c) := by
  unfold pinReload
  repeat' first
    | dsimp only
    | with_reducible apply Keeps.refl
    | ((with_reducible apply Keeps.cut (chargeReserve_keeps ..)); case hs => decide)
    | ((with_reducible apply Keeps.cut (startLoad_keeps ..)); case hs => decide)
    | ((with_reducible apply Keeps.cut (State.mapCore_keeps ..)); case hs => decide)
    | with_reducible apply Keeps.ite <;> intro _
    | split

end Sys2Proof.Machine
end

