-- ==== Sys2Proof/Laws/Array.lean ====
section
/-! SUPPORT. What the operations of Machine/Array.lean may change. -/

set_option linter.unusedTactic false
set_option linter.unreachableTactic false

namespace Sys2Proof.Machine

theorem putTile_keeps (s : State) (c : Nat) (b : Bool) (cleared : Bool) (t : Tile) : Keeps [.evts, .cores] s (putTile s c b cleared t) := by
  unfold putTile
  repeat' first
    | dsimp only
    | with_reducible apply Keeps.refl
    | ((with_reducible apply Keeps.cut (State.pulse_keeps ..)); case hs => decide)
    | ((with_reducible apply Keeps.cut (State.mapCore_keeps ..)); case hs => decide)
    | with_reducible apply Keeps.ite <;> intro _
    | split

theorem tileCollision_keeps (s : State) (c : Nat) (t : Nat) (b : Bool) (w0 : Word) : Keeps [.regs, .evts, .faults, .mem, .cores, .drover, .free] s (tileCollision s c t b w0) := by
  unfold tileCollision
  repeat' first
    | dsimp only
    | with_reducible apply Keeps.refl
    | ((with_reducible apply Keeps.cut (discardTask_keeps ..)); case hs => decide)
    | ((with_reducible apply Keeps.cut (taskFault_keeps ..)); case hs => decide)
    | ((with_reducible apply Keeps.cut (State.bump_keeps ..)); case hs => decide)
    | ((with_reducible apply Keeps.cut (State.pulse_keeps ..)); case hs => decide)
    | ((with_reducible apply Keeps.cut (State.mapCore_keeps ..)); case hs => decide)
    | with_reducible apply Keeps.ite <;> intro _
    | split

theorem arrFault_keeps (s : State) (c : Nat) (t : Nat) (code : Nat) (d0 : Word) (d1 : Word) : Keeps [.faults, .cores, .drover] s (arrFault s c t code d0 d1) := by
  unfold arrFault
  repeat' first
    | dsimp only
    | with_reducible apply Keeps.refl
    | ((with_reducible apply Keeps.cut (taskFault_keeps ..)); case hs => decide)

theorem enterMatmul_keeps (s : State) (c : Nat) (p : Prog) (w : List Word) : Keeps [.regs, .cores] s (enterMatmul s c p w) := by
  unfold enterMatmul
  repeat' first
    | dsimp only
    | with_reducible apply Keeps.refl
    | ((with_reducible apply Keeps.cut (advance_keeps ..)); case hs => decide)
    | ((with_reducible apply Keeps.cut (countEvent_keeps ..)); case hs => decide)
    | ((with_reducible apply Keeps.cut (State.setReg_keeps ..)); case hs => decide)
    | ((with_reducible apply Keeps.cut (State.mapCore_keeps ..)); case hs => decide)
    | with_reducible apply Keeps.ite <;> intro _
    | split

theorem issueMatmul_keeps (c : Nat) (s : State) (p : Prog) (w : List Word) : Keeps [.regs, .evts, .faults, .mem, .cores, .drover, .free] s (issueMatmul c s p w) := by
  unfold issueMatmul
  repeat' first
    | dsimp only
    | with_reducible apply Keeps.refl
    | ((with_reducible apply Keeps.cut (enterMatmul_keeps ..)); case hs => decide)
    | ((with_reducible apply Keeps.cut (arrFault_keeps ..)); case hs => decide)
    | ((with_reducible apply Keeps.cut (tileCollision_keeps ..)); case hs => decide)
    | with_reducible apply Keeps.ite <;> intro _
    | split

theorem matmulStart_keeps (s : State) (c : Nat) : Keeps [.regs, .evts, .faults, .cores, .drover, .fabric] s (matmulStart s c) := by
  unfold matmulStart
  repeat' first
    | dsimp only
    | with_reducible apply Keeps.refl
    | ((with_reducible apply Keeps.cut (pull_keeps ..)); case hs => decide)
    | ((with_reducible apply Keeps.cut (State.setCore_keeps ..)); case hs => decide)
    | with_reducible apply Keeps.ite <;> intro _
    | split

theorem noteStep_keeps (s : State) (c : Nat) (p : Nat) (cc : Nat) (ws : Nat) (bs : List Block) : Keeps [.regs, .evts] s (noteStep s c p cc ws bs) := by
  unfold noteStep
  repeat' first
    | dsimp only
    | with_reducible apply Keeps.refl
    | ((with_reducible apply Keeps.cut (State.bump_keeps ..)); case hs => decide)
    | ((with_reducible apply Keeps.cut (State.pulse_keeps ..)); case hs => decide)
    | with_reducible apply Keeps.ite <;> intro _
    | split

theorem arrayStep_keeps (s : State) (c : Nat) : Keeps [.regs, .evts, .faults, .cores, .drover, .fabric] s (arrayStep s c) := by
  unfold arrayStep
  repeat' first
    | dsimp only
    | with_reducible apply Keeps.refl
    | ((with_reducible apply Keeps.cut (noteStep_keeps ..)); case hs => decide)
    | ((with_reducible apply Keeps.cut (arrFault_keeps ..)); case hs => decide)
    | ((with_reducible apply Keeps.cut (putTile_keeps ..)); case hs => decide)
    | ((with_reducible apply Keeps.cut (pull_keeps ..)); case hs => decide)
    | ((with_reducible apply Keeps.cut (State.mapChan_keeps ..)); case hs => decide)
    | ((with_reducible apply Keeps.cut (State.mapCore_keeps ..)); case hs => decide)
    | with_reducible apply Keeps.ite <;> intro _
    | split

theorem matmulComplete_keeps (s : State) (c : Nat) : Keeps [.regs, .cores] s (matmulComplete s c) := by
  unfold matmulComplete
  repeat' first
    | dsimp only
    | with_reducible apply Keeps.refl
    | ((with_reducible apply Keeps.cut (State.bump_keeps ..)); case hs => decide)
    | ((with_reducible apply Keeps.cut (State.mapCore_keeps ..)); case hs => decide)
    | with_reducible apply Keeps.ite <;> intro _
    | split

end Sys2Proof.Machine
end

