-- ==== Sys2Proof/Laws/Drain.lean ====
section
/-! SUPPORT. What the operations of Machine/Drain.lean may change. -/

set_option linter.unusedTactic false
set_option linter.unreachableTactic false

namespace Sys2Proof.Machine

theorem enterDrain_keeps (s : State) (c : Nat) (p : Prog) (w : List Word) (ext : Option Extent) : Keeps [.cores] s (enterDrain s c p w ext) := by
  unfold enterDrain
  repeat' first
    | dsimp only
    | with_reducible apply Keeps.refl
    | ((with_reducible apply Keeps.cut (advance_keeps ..)); case hs => decide)
    | ((with_reducible apply Keeps.cut (State.mapCore_keeps ..)); case hs => decide)

theorem issueDrain_keeps (c : Nat) (s : State) (p : Prog) (w : List Word) : Keeps [.regs, .evts, .faults, .mem, .cores, .drover, .free] s (issueDrain c s p w) := by
  unfold issueDrain
  repeat' first
    | dsimp only
    | with_reducible apply Keeps.refl
    | ((with_reducible apply Keeps.cut (enterDrain_keeps ..)); case hs => decide)
    | ((with_reducible apply Keeps.cut (arrFault_keeps ..)); case hs => decide)
    | ((with_reducible apply Keeps.cut (tileCollision_keeps ..)); case hs => decide)
    | ((with_reducible apply Keeps.cut (State.setReg_keeps ..)); case hs => decide)
    | with_reducible apply Keeps.ite <;> intro _
    | split

theorem drainStart_keeps (s : State) (c : Nat) : Keeps [.regs, .evts, .faults, .cores, .drover, .fabric] s (drainStart s c) := by
  unfold drainStart
  repeat' first
    | dsimp only
    | with_reducible apply Keeps.refl
    | ((with_reducible apply Keeps.cut (pull_keeps ..)); case hs => decide)
    | ((with_reducible apply Keeps.cut (feed_keeps ..)); case hs => decide)
    | ((with_reducible apply Keeps.cut (State.setCore_keeps ..)); case hs => decide)
    | with_reducible apply Keeps.ite <;> intro _
    | split

theorem freeTile_keeps (s : State) (c : Nat) (b : Bool) : Keeps [.cores] s (freeTile s c b) := by
  unfold freeTile
  repeat' first
    | dsimp only
    | with_reducible apply Keeps.refl
    | ((with_reducible apply Keeps.cut (State.mapCore_keeps ..)); case hs => decide)

theorem drainRelease_keeps (s : State) (c : Nat) : Keeps [.regs, .evts, .faults, .cores, .drover, .fabric] s (drainRelease s c) := by
  unfold drainRelease
  repeat' first
    | dsimp only
    | with_reducible apply Keeps.refl
    | ((with_reducible apply Keeps.cut (freeTile_keeps ..)); case hs => decide)
    | ((with_reducible apply Keeps.cut (pull_keeps ..)); case hs => decide)
    | ((with_reducible apply Keeps.cut (State.bump_keeps ..)); case hs => decide)
    | ((with_reducible apply Keeps.cut (State.mapCore_keeps ..)); case hs => decide)
    | with_reducible apply Keeps.ite <;> intro _
    | split

theorem drainComplete_keeps (s : State) (c : Nat) : Keeps [.regs, .cores] s (drainComplete s c) := by
  unfold drainComplete
  repeat' first
    | dsimp only
    | with_reducible apply Keeps.refl
    | ((with_reducible apply Keeps.cut (State.bump_keeps ..)); case hs => decide)
    | ((with_reducible apply Keeps.cut (State.mapCore_keeps ..)); case hs => decide)
    | with_reducible apply Keeps.ite <;> intro _
    | split

theorem issueXfer_keeps (c : Nat) (s : State) (p : Prog) (w : List Word) : Keeps [.regs, .evts, .faults, .mem, .cores, .drover, .free] s (issueXfer c s p w) := by
  unfold issueXfer
  repeat' first
    | dsimp only
    | with_reducible apply Keeps.refl
    | ((with_reducible apply Keeps.cut (enterDrain_keeps ..)); case hs => decide)
    | ((with_reducible apply Keeps.cut (arrFault_keeps ..)); case hs => decide)
    | ((with_reducible apply Keeps.cut (tileCollision_keeps ..)); case hs => decide)
    | ((with_reducible apply Keeps.cut (State.mapCore_keeps ..)); case hs => decide)
    | with_reducible apply Keeps.ite <;> intro _
    | split

theorem xferStart_keeps (s : State) (c : Nat) : Keeps [.regs, .evts, .faults, .cores, .drover, .fabric] s (xferStart s c) := by
  unfold xferStart
  repeat' first
    | dsimp only
    | with_reducible apply Keeps.refl
    | ((with_reducible apply Keeps.cut (pull_keeps ..)); case hs => decide)
    | ((with_reducible apply Keeps.cut (feed_keeps ..)); case hs => decide)
    | ((with_reducible apply Keeps.cut (State.setCore_keeps ..)); case hs => decide)
    | with_reducible apply Keeps.ite <;> intro _
    | split

theorem xferRelease_keeps (s : State) (c : Nat) : Keeps [.regs, .evts, .faults, .cores, .drover, .fabric] s (xferRelease s c) := by
  unfold xferRelease
  repeat' first
    | dsimp only
    | with_reducible apply Keeps.refl
    | ((with_reducible apply Keeps.cut (freeTile_keeps ..)); case hs => decide)
    | ((with_reducible apply Keeps.cut (putTile_keeps ..)); case hs => decide)
    | ((with_reducible apply Keeps.cut (pull_keeps ..)); case hs => decide)
    | ((with_reducible apply Keeps.cut (State.mapCore_keeps ..)); case hs => decide)
    | with_reducible apply Keeps.ite <;> intro _
    | split

theorem xferComplete_keeps (s : State) (c : Nat) : Keeps [.cores] s (xferComplete s c) := by
  unfold xferComplete
  repeat' first
    | dsimp only
    | with_reducible apply Keeps.refl
    | ((with_reducible apply Keeps.cut (State.mapCore_keeps ..)); case hs => decide)
    | with_reducible apply Keeps.ite <;> intro _
    | split

end Sys2Proof.Machine
end

