-- ==== Sys2Proof/Laws/Attend.lean ====
section
/-! SUPPORT. What the operations of Machine/Attend.lean may change. -/

set_option linter.unusedTactic false
set_option linter.unreachableTactic false

namespace Sys2Proof.Machine

theorem issueAttend_keeps (c : Nat) (s : State) (p : Prog) (w : List Word) : Keeps [.regs, .faults, .cores, .drover] s (issueAttend c s p w) := by
  unfold issueAttend
  repeat' first
    | dsimp only
    | with_reducible apply Keeps.refl
    | ((with_reducible apply Keeps.cut (advance_keeps ..)); case hs => decide)
    | ((with_reducible apply Keeps.cut (attFault_keeps ..)); case hs => decide)
    | ((with_reducible apply Keeps.cut (State.setReg_keeps ..)); case hs => decide)
    | ((with_reducible apply Keeps.cut (State.mapCore_keeps ..)); case hs => decide)
    | with_reducible apply Keeps.ite <;> intro _
    | split

theorem unitRead_keeps (s : State) (c : Nat) (t : Nat) (a : Nat) (n : Nat) : Keeps [.regs, .evts, .faults, .cores, .drover] s (optState s (unitRead s c t a n)) := by
  unfold unitRead
  repeat' first
    | dsimp only [optState_some, optState_none]
    | with_reducible apply Keeps.refl
    | with_reducible apply Keeps.opt_ite <;> intro _
    | ((with_reducible apply Keeps.cut (attFault_keeps ..)); case hs => decide)
    | ((with_reducible apply Keeps.cut (taskFault_keeps ..)); case hs => decide)
    | ((with_reducible apply Keeps.cut (State.bump_keeps ..)); case hs => decide)
    | ((with_reducible apply Keeps.cut (State.pulse_keeps ..)); case hs => decide)
    | with_reducible apply Keeps.ite <;> intro _
    | split

theorem unitRead_some {s : State} {c : Nat} {t : Nat} {a : Nat} {n : Nat} {x' : State} (hx' : unitRead s c t a n = some x') : Keeps [.regs, .evts, .faults, .cores, .drover] s x' := by
  have k := unitRead_keeps s c t a n
  rw [hx'] at k
  exact k

theorem unitWakes_keeps (s : State) (a : Nat) : Keeps [.regs, .evts, .power, .sharal] s (optState s (unitWakes s a)) := by
  unfold unitWakes
  repeat' first
    | dsimp only [optState_some, optState_none]
    | with_reducible apply Keeps.refl
    | with_reducible apply Keeps.opt_ite <;> intro _
    | ((with_reducible apply Keeps.cut (startWake_keeps ..)); case hs => decide)
    | with_reducible apply Keeps.ite <;> intro _
    | split

theorem unitWakes_some {s : State} {a : Nat} {x' : State} (hx' : unitWakes s a = some x') : Keeps [.regs, .evts, .power, .sharal] s x' := by
  have k := unitWakes_keeps s a
  rw [hx'] at k
  exact k

theorem unitArm_keeps (s : State) (c : Nat) (t : Nat) (w : List Word) (klist : Nat) (vlist : Nat) (order : List Nat) (scans : Nat) : Keeps [.cores] s (unitArm s c t w klist vlist order scans) := by
  unfold unitArm
  repeat' first
    | dsimp only
    | with_reducible apply Keeps.refl
    | ((with_reducible apply Keeps.cut (State.mapCore_keeps ..)); case hs => decide)

theorem attBegin_keeps (s : State) (c : Nat) (q : QInst) (dirA : Nat) (e : List Word) : Keeps [.regs, .evts, .faults, .mem, .cores, .drover, .fabric] s (attBegin s c q dirA e) := by
  unfold attBegin
  repeat' first
    | dsimp only
    | with_reducible apply Keeps.refl
    | ((with_reducible apply Keeps.cut (unitArm_keeps ..)); case hs => decide)
    | ((with_reducible apply Keeps.cut (unitRead_some (by assumption))); case hs => decide)
    | ((with_reducible apply Keeps.cut (unitRead_keeps ..)); case hs => decide)
    | ((with_reducible apply Keeps.cut (pull_keeps ..)); case hs => decide)
    | ((with_reducible apply Keeps.cut (attFault_keeps ..)); case hs => decide)
    | ((with_reducible apply Keeps.cut (feed_keeps ..)); case hs => decide)
    | ((with_reducible apply Keeps.cut (State.mapCore_keeps ..)); case hs => decide)
    | ((with_reducible apply Keeps.cut (State.mapMem_keeps _ _ (fun _ hm => Memory.put_wf _ _ _ hm))); case hs => decide)
    | ((with_reducible apply Keeps.cut (State.mapMem_keeps _ _ (fun _ hm => Memory.mark_wf _ _ hm))); case hs => decide)
    | ((with_reducible apply Keeps.cut (State.mapMem_keeps _ _ (fun _ hm => Memory.putPart_wf _ _ _ hm))); case hs => decide)
    | ((with_reducible apply Keeps.cut (State.mapMem_keeps _ _ (fun _ hm => Memory.moveBlock_wf _ _ _ hm))); case hs => decide)
    | ((with_reducible apply Keeps.cut (State.mapMem_keeps _ _ (fun _ hm => Memory.zeroRange_wf _ _ _ hm))); case hs => decide)
    | ((with_reducible apply Keeps.cut (State.mapMem_keeps _ _ (fun _ hm => Memory.zeroRange_wf _ _ _ (Memory.zeroRange_wf _ _ _ hm)))); case hs => decide)
    | ((with_reducible apply Keeps.cut (State.mapMem_keeps _ _ (fun _ hm => atomicGo_wf _ _ _ _ _ hm))); case hs => decide)
    | ((with_reducible apply Keeps.cut (State.mapMem_keeps _ _ (fun _ hm => putHeader_wf _ _ _ _ hm))); case hs => decide)
    | ((with_reducible apply Keeps.cut (State.mapMem_keeps _ _ (fun _ hm => putHeader_wf _ _ _ _ (putGold_wf _ _ _ _ _ hm)))); case hs => decide)
    | ((with_reducible apply Keeps.cut (State.mapMem_keeps _ _ (fun _ hm => putHeader_wf _ _ _ _ (by split <;> first | exact putGold_wf _ _ _ _ _ hm | exact hm)))); case hs => decide)
    | ((with_reducible apply Keeps.cut (State.mapMem_keeps _ _ (fun _ hm => Memory.fromHost_wf _ _ _ _ hm))); case hs => decide)
    | ((with_reducible apply Keeps.cut (State.mapMem_keeps _ _ (fun _ hm => copyDown_wf _ _ _ _ _ hm))); case hs => decide)
    | ((with_reducible apply Keeps.cut (State.mapMem_keeps _ _ (fun _ hm => Memory.foldl_wf _ _ (fun _ _ h => freeCell_wf _ _ _ h) _ hm))); case hs => decide)
    | ((with_reducible apply Keeps.cut (State.mapMem_keeps _ _ (fun _ hm => Memory.foldl_wf _ _ (fun _ _ h => writePage_wf _ _ _ _ _ h) _ hm))); case hs => decide)
    | with_reducible apply Keeps.opt_if (by assumption)
    | with_reducible apply Keeps.ite <;> intro _
    | split

theorem attWakes_keeps (s : State) (a : Nat) (w : List Word) : Keeps [.regs, .evts, .power, .sharal] s (optState s (attWakes s a w)) := by
  unfold attWakes
  repeat' first
    | dsimp only [optState_some, optState_none]
    | with_reducible apply Keeps.refl
    | with_reducible apply Keeps.opt_ite <;> intro _
    | ((with_reducible apply Keeps.cut (unitWakes_some (by assumption))); case hs => decide)
    | ((with_reducible apply Keeps.cut (unitWakes_keeps ..)); case hs => decide)
    | with_reducible apply Keeps.opt_if (by assumption)
    | with_reducible apply Keeps.ite <;> intro _
    | split

theorem attWakes_some {s : State} {a : Nat} {w : List Word} {x' : State} (hx' : attWakes s a w = some x') : Keeps [.regs, .evts, .power, .sharal] s x' := by
  have k := attWakes_keeps s a w
  rw [hx'] at k
  exact k

theorem attendStart_keeps (s : State) (c : Nat) : Keeps [.regs, .evts, .faults, .mem, .cores, .drover, .fabric, .power, .sharal] s (attendStart s c) := by
  unfold attendStart
  repeat' first
    | dsimp only
    | with_reducible apply Keeps.refl
    | ((with_reducible apply Keeps.cut (attWakes_some (by assumption))); case hs => decide)
    | ((with_reducible apply Keeps.cut (attWakes_keeps ..)); case hs => decide)
    | ((with_reducible apply Keeps.cut (attBegin_keeps ..)); case hs => decide)
    | ((with_reducible apply Keeps.cut (unitRead_some (by assumption))); case hs => decide)
    | ((with_reducible apply Keeps.cut (unitRead_keeps ..)); case hs => decide)
    | ((with_reducible apply Keeps.cut (attFault_keeps ..)); case hs => decide)
    | ((with_reducible apply Keeps.cut (State.setCore_keeps ..)); case hs => decide)
    | with_reducible apply Keeps.opt_if (by assumption)
    | with_reducible apply Keeps.ite <;> intro _
    | split

theorem takeInput_keeps (s : State) (c : Nat) (a : AttRun) : Keeps [.faults, .cores, .drover] s (inlState s (takeInput s c a)) := by
  unfold takeInput
  repeat' first
    | dsimp only [inlState_inl, inlState_inr]
    | with_reducible apply Keeps.refl
    | with_reducible apply Keeps.inl_ite <;> intro _
    | ((with_reducible apply Keeps.cut (attFault_keeps ..)); case hs => decide)
    | with_reducible apply Keeps.ite <;> intro _
    | split

theorem takeInput_some {s : State} {c : Nat} {a : AttRun} {x' : State} (hx' : takeInput s c a = .inl x') : Keeps [.faults, .cores, .drover] s x' := by
  have k := takeInput_keeps s c a
  rw [hx'] at k
  exact k

theorem blockKeys_keeps (s : State) (c : Nat) (a : AttRun) (page : Option Nat) : Keeps [.faults, .cores, .drover] s (inlState s (blockKeys s c a page)) := by
  unfold blockKeys
  repeat' first
    | dsimp only [inlState_inl, inlState_inr]
    | with_reducible apply Keeps.refl
    | with_reducible apply Keeps.inl_ite <;> intro _
    | ((with_reducible apply Keeps.cut (attFault_keeps ..)); case hs => decide)
    | with_reducible apply Keeps.ite <;> intro _
    | split

theorem blockKeys_some {s : State} {c : Nat} {a : AttRun} {page : Option Nat} {x' : State} (hx' : blockKeys s c a page = .inl x') : Keeps [.faults, .cores, .drover] s x' := by
  have k := blockKeys_keeps s c a page
  rw [hx'] at k
  exact k

theorem attendBlock_keeps (s : State) (c : Nat) : Keeps [.regs, .evts, .faults, .cores, .drover, .fabric] s (attendBlock s c) := by
  unfold attendBlock
  repeat' first
    | dsimp only
    | with_reducible apply Keeps.refl
    | ((with_reducible apply Keeps.cut (blockKeys_some (by assumption))); case hs => decide)
    | ((with_reducible apply Keeps.cut (blockKeys_keeps ..)); case hs => decide)
    | ((with_reducible apply Keeps.cut (takeInput_some (by assumption))); case hs => decide)
    | ((with_reducible apply Keeps.cut (takeInput_keeps ..)); case hs => decide)
    | ((with_reducible apply Keeps.cut (pull_keeps ..)); case hs => decide)
    | ((with_reducible apply Keeps.cut (attFault_keeps ..)); case hs => decide)
    | ((with_reducible apply Keeps.cut (State.bump_keeps ..)); case hs => decide)
    | ((with_reducible apply Keeps.cut (State.mapCore_keeps ..)); case hs => decide)
    | with_reducible apply Keeps.ite <;> intro _
    | split

theorem appendPlan_keeps (s : State) (c : Nat) (a : AttRun) : Keeps [.faults, .cores, .drover] s (inlState s (appendPlan s c a)) := by
  unfold appendPlan
  repeat' first
    | dsimp only [inlState_inl, inlState_inr]
    | with_reducible apply Keeps.refl
    | with_reducible apply Keeps.inl_ite <;> intro _
    | ((with_reducible apply Keeps.cut (attFault_keeps ..)); case hs => decide)
    | with_reducible apply Keeps.ite <;> intro _
    | split

theorem appendPlan_some {s : State} {c : Nat} {a : AttRun} {x' : State} (hx' : appendPlan s c a = .inl x') : Keeps [.faults, .cores, .drover] s x' := by
  have k := appendPlan_keeps s c a
  rw [hx'] at k
  exact k

theorem attFinish_keeps (s : State) (c : Nat) (a : AttRun) : Keeps [.regs, .evts, .faults, .mem, .cores, .drover, .fabric] s (attFinish s c a) := by
  unfold attFinish
  dsimp only
  split
  · rename_i hq
    by_cases h : a.append = true
    · rw [if_pos h] at hq
      exact (appendPlan_some hq).mono (by decide)
    · rw [if_neg h] at hq
      cases hq
  · with_reducible apply Keeps.ite <;> intro _
    · exact Keeps.refl _ _
    · refine Keeps.cut (pull_keeps ..) (by decide) (Keeps.cut (State.mapCore_keeps ..) (by decide) ?_)
      exact (State.mapMem_keeps _ _ (fun _ hm => Memory.foldl_wf _ _ (fun _ _ h => writePage_wf _ _ _ _ _ h) _ hm)).mono
        (by decide)

theorem attEnd_keeps (s : State) (c : Nat) (a : AttRun) : Keeps [.regs, .evts, .mem, .cores] s (attEnd s c a) := by
  unfold attEnd
  repeat' first
    | dsimp only
    | with_reducible apply Keeps.refl
    | ((with_reducible apply Keeps.cut (State.bump_keeps ..)); case hs => decide)
    | ((with_reducible apply Keeps.cut (State.pulse_keeps ..)); case hs => decide)
    | ((with_reducible apply Keeps.cut (State.setReg_keeps ..)); case hs => decide)
    | ((with_reducible apply Keeps.cut (State.mapCore_keeps ..)); case hs => decide)
    | ((with_reducible apply Keeps.cut (State.mapMem_keeps _ _ (fun _ hm => Memory.put_wf _ _ _ hm))); case hs => decide)
    | ((with_reducible apply Keeps.cut (State.mapMem_keeps _ _ (fun _ hm => Memory.mark_wf _ _ hm))); case hs => decide)
    | ((with_reducible apply Keeps.cut (State.mapMem_keeps _ _ (fun _ hm => Memory.putPart_wf _ _ _ hm))); case hs => decide)
    | ((with_reducible apply Keeps.cut (State.mapMem_keeps _ _ (fun _ hm => Memory.moveBlock_wf _ _ _ hm))); case hs => decide)
    | ((with_reducible apply Keeps.cut (State.mapMem_keeps _ _ (fun _ hm => Memory.zeroRange_wf _ _ _ hm))); case hs => decide)
    | ((with_reducible apply Keeps.cut (State.mapMem_keeps _ _ (fun _ hm => Memory.zeroRange_wf _ _ _ (Memory.zeroRange_wf _ _ _ hm)))); case hs => decide)
    | ((with_reducible apply Keeps.cut (State.mapMem_keeps _ _ (fun _ hm => atomicGo_wf _ _ _ _ _ hm))); case hs => decide)
    | ((with_reducible apply Keeps.cut (State.mapMem_keeps _ _ (fun _ hm => putHeader_wf _ _ _ _ hm))); case hs => decide)
    | ((with_reducible apply Keeps.cut (State.mapMem_keeps _ _ (fun _ hm => putHeader_wf _ _ _ _ (putGold_wf _ _ _ _ _ hm)))); case hs => decide)
    | ((with_reducible apply Keeps.cut (State.mapMem_keeps _ _ (fun _ hm => putHeader_wf _ _ _ _ (by split <;> first | exact putGold_wf _ _ _ _ _ hm | exact hm)))); case hs => decide)
    | ((with_reducible apply Keeps.cut (State.mapMem_keeps _ _ (fun _ hm => Memory.fromHost_wf _ _ _ _ hm))); case hs => decide)
    | ((with_reducible apply Keeps.cut (State.mapMem_keeps _ _ (fun _ hm => copyDown_wf _ _ _ _ _ hm))); case hs => decide)
    | ((with_reducible apply Keeps.cut (State.mapMem_keeps _ _ (fun _ hm => Memory.foldl_wf _ _ (fun _ _ h => freeCell_wf _ _ _ h) _ hm))); case hs => decide)
    | ((with_reducible apply Keeps.cut (State.mapMem_keeps _ _ (fun _ hm => Memory.foldl_wf _ _ (fun _ _ h => writePage_wf _ _ _ _ _ h) _ hm))); case hs => decide)
    | (with_reducible apply Keeps.foldl) <;> try intro _ _
    | with_reducible apply Keeps.ite <;> intro _
    | split

theorem attendComplete_keeps (s : State) (c : Nat) : Keeps [.regs, .evts, .faults, .mem, .cores, .drover, .fabric] s (attendComplete s c) := by
  unfold attendComplete
  repeat' first
    | dsimp only
    | with_reducible apply Keeps.refl
    | ((with_reducible apply Keeps.cut (attEnd_keeps ..)); case hs => decide)
    | ((with_reducible apply Keeps.cut (attFinish_keeps ..)); case hs => decide)
    | ((with_reducible apply Keeps.cut (takeInput_some (by assumption))); case hs => decide)
    | ((with_reducible apply Keeps.cut (takeInput_keeps ..)); case hs => decide)
    | with_reducible apply Keeps.ite <;> intro _
    | split

end Sys2Proof.Machine
end

