-- ==== Sys2Proof/Laws/Images.lean ====
section
/-! SUPPORT. What the operations of Machine/Images.lean may change. -/

set_option linter.unusedTactic false
set_option linter.unreachableTactic false

namespace Sys2Proof.Machine

theorem answered_keeps (s : State) (c : Cmd) : Keeps [.host] s (answered s c) := by
  unfold answered
  repeat' first
    | dsimp only
    | with_reducible apply Keeps.refl
    | ((with_reducible apply Keeps.cut (State.setQueue_keeps ..)); case hs => decide)
    | with_reducible apply Keeps.ite <;> intro _
    | split

theorem refuse_keeps (s : State) (c : Cmd) (reason : Nat) : Keeps [.regs, .evts, .host] s (refuse s c reason) := by
  unfold refuse
  repeat' first
    | dsimp only
    | with_reducible apply Keeps.refl
    | ((with_reducible apply Keeps.cut (answered_keeps ..)); case hs => decide)
    | ((with_reducible apply Keeps.cut (postRec_keeps ..)); case hs => decide)
    | ((with_reducible apply Keeps.cut (State.bump_keeps ..)); case hs => decide)
    | ((with_reducible apply Keeps.cut (State.pulse_keeps ..)); case hs => decide)
    | ((with_reducible apply Keeps.cut (State.setReg_keeps ..)); case hs => decide)
    | with_reducible apply Keeps.ite <;> intro _
    | split

theorem popCmd_keeps (s : State) : Keeps [.drover] s (popCmd s) := by
  unfold popCmd
  repeat' first
    | dsimp only
    | with_reducible apply Keeps.refl
    | ((with_reducible apply Keeps.cut (State.mapDrover_keeps ..)); case hs => decide)

theorem pinCore_keeps (s : State) (i : Image) (c : Nat) : Keeps [.cores] s (pinCore s i c) := by
  unfold pinCore
  repeat' first
    | dsimp only
    | with_reducible apply Keeps.refl
    | ((with_reducible apply Keeps.cut (State.setCore_keeps ..)); case hs => decide)
    | (with_reducible apply Keeps.foldl) <;> try intro _ _
    | with_reducible apply Keeps.ite <;> intro _
    | split

theorem reside_keeps (s : State) : Keeps [.regs, .evts, .mem, .cores, .drover, .host] s (reside s) := by
  unfold reside
  repeat' first
    | dsimp only
    | with_reducible apply Keeps.refl
    | ((with_reducible apply Keeps.cut (pinCore_keeps ..)); case hs => decide)
    | ((with_reducible apply Keeps.cut (popCmd_keeps ..)); case hs => decide)
    | ((with_reducible apply Keeps.cut (refuse_keeps ..)); case hs => decide)
    | ((with_reducible apply Keeps.cut (copyIn_keeps ..)); case hs => decide)
    | ((with_reducible apply Keeps.cut (State.mapDrover_keeps ..)); case hs => decide)
    | (with_reducible apply Keeps.foldl) <;> try intro _ _
    | with_reducible apply Keeps.ite <;> intro _
    | split

theorem imageResident_keeps (s : State) (tenant : Nat) (index : Nat) : Keeps [.regs, .evts, .drover, .host] s (imageResident s tenant index) := by
  unfold imageResident
  repeat' first
    | dsimp only
    | with_reducible apply Keeps.refl
    | ((with_reducible apply Keeps.cut (postRec_keeps ..)); case hs => decide)
    | ((with_reducible apply Keeps.cut (imageAnswered_keeps ..)); case hs => decide)
    | ((with_reducible apply Keeps.cut (setImage_keeps ..)); case hs => decide)
    | with_reducible apply Keeps.ite <;> intro _
    | split

theorem retire_keeps (s : State) : Keeps [.regs, .evts, .drover, .host] s (retire s) := by
  unfold retire
  repeat' first
    | dsimp only
    | with_reducible apply Keeps.refl
    | ((with_reducible apply Keeps.cut (popCmd_keeps ..)); case hs => decide)
    | ((with_reducible apply Keeps.cut (refuse_keeps ..)); case hs => decide)
    | ((with_reducible apply Keeps.cut (setImage_keeps ..)); case hs => decide)
    | with_reducible apply Keeps.ite <;> intro _
    | split

theorem imageRetired_keeps (s : State) (tenant : Nat) (index : Nat) : Keeps [.regs, .evts, .mem, .slots, .cores, .drover, .host] s (imageRetired s tenant index) := by
  unfold imageRetired
  repeat' first
    | dsimp only
    | with_reducible apply Keeps.refl
    | ((with_reducible apply Keeps.cut (removePins_keeps ..)); case hs => decide)
    | ((with_reducible apply Keeps.cut (postRec_keeps ..)); case hs => decide)
    | ((with_reducible apply Keeps.cut (copyOut_keeps ..)); case hs => decide)
    | ((with_reducible apply Keeps.cut (imageAnswered_keeps ..)); case hs => decide)
    | ((with_reducible apply Keeps.cut (State.mapDrover_keeps ..)); case hs => decide)
    | with_reducible apply Keeps.ite <;> intro _
    | split

theorem template_keeps (s : State) (enable : Bool) : Keeps [.regs, .evts, .drover, .host] s (template s enable) := by
  unfold template
  repeat' first
    | dsimp only
    | with_reducible apply Keeps.refl
    | ((with_reducible apply Keeps.cut (popCmd_keeps ..)); case hs => decide)
    | ((with_reducible apply Keeps.cut (refuse_keeps ..)); case hs => decide)
    | ((with_reducible apply Keeps.cut (answered_keeps ..)); case hs => decide)
    | ((with_reducible apply Keeps.cut (postRec_keeps ..)); case hs => decide)
    | ((with_reducible apply Keeps.cut (State.mapDrover_keeps ..)); case hs => decide)
    | with_reducible apply Keeps.ite <;> intro _
    | split

end Sys2Proof.Machine
end

