-- ==== Sys2Proof/Laws/Admit.lean ====
section
/-! SUPPORT. What the operations of Machine/Admit.lean may change. -/

set_option linter.unusedTactic false
set_option linter.unreachableTactic false

namespace Sys2Proof.Machine

theorem rollLedger_keeps (s : State) : Keeps [.drover] s (rollLedger s) := by
  unfold rollLedger
  repeat' first
    | dsimp only
    | with_reducible apply Keeps.refl
    | ((with_reducible apply Keeps.cut (State.mapDrover_keeps ..)); case hs => decide)
    | with_reducible apply Keeps.ite <;> intro _
    | split

theorem commitWakes_keeps (s : State) (i : Image) : Keeps [.regs, .evts, .power, .sharal] s (commitWakes s i) := by
  unfold commitWakes
  repeat' first
    | dsimp only
    | with_reducible apply Keeps.refl
    | ((with_reducible apply Keeps.cut (startWake_keeps ..)); case hs => decide)
    | ((with_reducible apply Keeps.cut (State.setDom_keeps ..)); case hs => decide)
    | (with_reducible apply Keeps.foldl) <;> try intro _ _
    | with_reducible apply Keeps.ite <;> intro _
    | split

theorem completeTask_keeps (s : State) (t : Nat) : Keeps [.drover, .sharal] s (completeTask s t) := by
  unfold completeTask
  repeat' first
    | dsimp only
    | with_reducible apply Keeps.refl
    | ((with_reducible apply Keeps.cut (taskTrace_keeps ..)); case hs => decide)
    | ((with_reducible apply Keeps.cut (setTask_keeps ..)); case hs => decide)
    | ((with_reducible apply Keeps.cut (State.mapDrover_keeps ..)); case hs => decide)
    | (with_reducible apply Keeps.foldl) <;> try intro _ _
    | with_reducible apply Keeps.ite <;> intro _
    | split

theorem barriers_keeps (num n : Nat) (s : State) : Keeps [.drover, .sharal] s (barriers num n s) := by
  induction n generalizing s with
  | zero => exact Keeps.refl _ _
  | succ n ih =>
    unfold barriers
    split
    · exact Keeps.refl _ _
    · split
      · exact ((completeTask_keeps ..).mono (by decide)).trans (ih _)
      · exact Keeps.refl _ _

theorem endIfDone_keeps (s : State) (num : Nat) : Keeps [.regs, .evts, .cores, .drover, .host, .power] s (endIfDone s num) := by
  unfold endIfDone
  repeat' first
    | dsimp only
    | with_reducible apply Keeps.refl
    | ((with_reducible apply Keeps.cut (endInst_keeps ..)); case hs => decide)
    | with_reducible apply Keeps.ite <;> intro _
    | split

theorem traceDecision_keeps (s : State) (c : Cmd) (kind : Nat) (reason : Nat) (num : Nat) : Keeps [.sharal] s (traceDecision s c kind reason num) := by
  unfold traceDecision
  repeat' first
    | dsimp only
    | with_reducible apply Keeps.refl
    | ((with_reducible apply Keeps.cut (traceEv_keeps ..)); case hs => decide)

theorem accept_keeps (s : State) (c : Cmd) (i : Image) (dl : Nat) (slots : List Nat) (new : List Demand) : Keeps [.regs, .evts, .cores, .drover, .host, .power, .sharal] s (accept s c i dl slots new) := by
  unfold accept
  repeat' first
    | dsimp only
    | with_reducible apply Keeps.refl
    | ((with_reducible apply Keeps.cut (traceDecision_keeps ..)); case hs => decide)
    | ((with_reducible apply Keeps.cut (endIfDone_keeps ..)); case hs => decide)
    | ((with_reducible apply Keeps.cut (barriers_keeps ..)); case hs => decide)
    | ((with_reducible apply Keeps.cut (commitWakes_keeps ..)); case hs => decide)
    | ((with_reducible apply Keeps.cut (answered_keeps ..)); case hs => decide)
    | ((with_reducible apply Keeps.cut (postRec_keeps ..)); case hs => decide)
    | ((with_reducible apply Keeps.cut (State.mapDrover_keeps ..)); case hs => decide)
    | ((with_reducible apply Keeps.cut (State.bump_keeps ..)); case hs => decide)
    | (with_reducible apply Keeps.foldl) <;> try intro _ _

theorem turnDown_keeps (s : State) (c : Cmd) (reason : Nat) : Keeps [.regs, .evts, .host, .sharal] s (turnDown s c reason) := by
  unfold turnDown
  repeat' first
    | dsimp only
    | with_reducible apply Keeps.refl
    | ((with_reducible apply Keeps.cut (traceDecision_keeps ..)); case hs => decide)
    | ((with_reducible apply Keeps.cut (refuse_keeps ..)); case hs => decide)
    | ((with_reducible apply Keeps.cut (countEvent_keeps ..)); case hs => decide)
    | with_reducible apply Keeps.ite <;> intro _
    | split

theorem decideSubmit_keeps (s : State) (c : Cmd) : Keeps [.regs, .evts, .cores, .drover, .host, .power, .sharal] s (decideSubmit s c) := by
  unfold decideSubmit
  repeat' first
    | dsimp only
    | with_reducible apply Keeps.refl
    | ((with_reducible apply Keeps.cut (turnDown_keeps ..)); case hs => decide)
    | ((with_reducible apply Keeps.cut (accept_keeps ..)); case hs => decide)
    | with_reducible apply Keeps.ite <;> intro _
    | split

theorem submit_keeps (s : State) : Keeps [.regs, .evts, .cores, .drover, .host, .power, .sharal] s (submit s) := by
  unfold submit
  repeat' first
    | dsimp only
    | with_reducible apply Keeps.refl
    | ((with_reducible apply Keeps.cut (decideSubmit_keeps ..)); case hs => decide)
    | ((with_reducible apply Keeps.cut (rollLedger_keeps ..)); case hs => decide)
    | ((with_reducible apply Keeps.cut (popCmd_keeps ..)); case hs => decide)
    | ((with_reducible apply Keeps.cut (State.mapDrover_keeps ..)); case hs => decide)
    | ((with_reducible apply Keeps.cut (countEvent_keeps ..)); case hs => decide)
    | with_reducible apply Keeps.ite <;> intro _
    | split

end Sys2Proof.Machine
end

