-- ==== Sys2Proof/Laws/Drover.lean ====
section
/-! SUPPORT. What the operations of Machine/Drover.lean may change. -/

set_option linter.unusedTactic false
set_option linter.unreachableTactic false

namespace Sys2Proof.Machine

theorem programChain_keeps (s : State) (inst : Nat) (i : Image) (chain : Nat) : Keeps [.cores] s (programChain s inst i chain) := by
  unfold programChain
  repeat' first
    | dsimp only
    | with_reducible apply Keeps.refl
    | ((with_reducible apply Keeps.cut (setSlotOf_keeps ..)); case hs => decide)
    | (with_reducible apply Keeps.foldl) <;> try intro _ _
    | with_reducible apply Keeps.ite <;> intro _
    | split

theorem serveChain_keeps (s : State) (t : Nat) (inst : Nat) (chain : Nat) (cores : List Nat) : Keeps [.cores] s (serveChain s t inst chain cores) := by
  unfold serveChain
  repeat' first
    | dsimp only
    | with_reducible apply Keeps.refl
    | ((with_reducible apply Keeps.cut (setSlotOf_keeps ..)); case hs => decide)
    | (with_reducible apply Keeps.foldl) <;> try intro _ _
    | with_reducible apply Keeps.ite <;> intro _
    | split

theorem grantTiles_keeps (s : State) (t : Nat) (c : Nat) : Keeps [.cores] s (grantTiles s t c) := by
  unfold grantTiles
  repeat' first
    | dsimp only
    | with_reducible apply Keeps.refl
    | ((with_reducible apply Keeps.cut (State.mapCore_keeps ..)); case hs => decide)
    | (with_reducible apply Keeps.foldl) <;> try intro _ _
    | with_reducible apply Keeps.ite <;> intro _
    | split

theorem grantCodebooks_keeps (s : State) (t : Nat) (cores : List Nat) : Keeps [.regs, .faults, .cores, .drover] s (grantCodebooks s t cores) := by
  unfold grantCodebooks
  repeat' first
    | dsimp only
    | with_reducible apply Keeps.refl
    | ((with_reducible apply Keeps.cut (claimBooks_keeps ..)); case hs => decide)
    | (with_reducible apply Keeps.foldl) <;> try intro _ _

theorem ageOthers_keeps (s : State) (t : Nat) : Keeps [.drover] s (ageOthers s t) := by
  unfold ageOthers
  repeat' first
    | dsimp only
    | with_reducible apply Keeps.refl
    | ((with_reducible apply Keeps.cut (setTask_keeps ..)); case hs => decide)
    | (with_reducible apply Keeps.foldl) <;> try intro _ _
    | with_reducible apply Keeps.ite <;> intro _
    | split

theorem startProgs_keeps (s : State) (t : Nat) (d : TaskD) : Keeps [.cores] s (startProgs s t d) := by
  unfold startProgs
  repeat' first
    | dsimp only
    | with_reducible apply Keeps.refl
    | ((with_reducible apply Keeps.cut (State.mapCore_keeps ..)); case hs => decide)
    | (with_reducible apply Keeps.foldl) <;> try intro _ _

theorem countFolds_keeps (s : State) (cores : List Nat) (code : Nat) : Keeps [.regs] s (countFolds s cores code) := by
  unfold countFolds
  repeat' first
    | dsimp only
    | with_reducible apply Keeps.refl
    | ((with_reducible apply Keeps.cut (countEvent_keeps ..)); case hs => decide)
    | (with_reducible apply Keeps.foldl) <;> try intro _ _

theorem startTask_keeps (s : State) (t : Nat) (k : Task) (d : TaskD) (i : Image) (filler : Bool) : Keeps [.regs, .faults, .cores, .drover, .sharal] s (startTask s t k d i filler) := by
  unfold startTask
  repeat' first
    | dsimp only
    | with_reducible apply Keeps.refl
    | ((with_reducible apply Keeps.cut (countFolds_keeps ..)); case hs => decide)
    | ((with_reducible apply Keeps.cut (startProgs_keeps ..)); case hs => decide)
    | ((with_reducible apply Keeps.cut (ageOthers_keeps ..)); case hs => decide)
    | ((with_reducible apply Keeps.cut (grantCodebooks_keeps ..)); case hs => decide)
    | ((with_reducible apply Keeps.cut (grantTiles_keeps ..)); case hs => decide)
    | ((with_reducible apply Keeps.cut (serveChain_keeps ..)); case hs => decide)
    | ((with_reducible apply Keeps.cut (programChain_keeps ..)); case hs => decide)
    | ((with_reducible apply Keeps.cut (taskTrace_keeps ..)); case hs => decide)
    | ((with_reducible apply Keeps.cut (setTask_keeps ..)); case hs => decide)
    | ((with_reducible apply Keeps.cut (State.bump_keeps ..)); case hs => decide)
    | (with_reducible apply Keeps.foldl) <;> try intro _ _
    | with_reducible apply Keeps.ite <;> intro _
    | split

theorem dispatchTask_keeps (s : State) (t : Nat) : Keeps [.regs, .faults, .cores, .drover, .sharal] s (dispatchTask s t) := by
  unfold dispatchTask
  repeat' first
    | dsimp only
    | with_reducible apply Keeps.refl
    | ((with_reducible apply Keeps.cut (startTask_keeps ..)); case hs => decide)
    | with_reducible apply Keeps.ite <;> intro _
    | split

theorem beginSuspend_keeps (s : State) (o : Nat) : Keeps [.regs, .cores, .drover] s (beginSuspend s o) := by
  unfold beginSuspend
  repeat' first
    | dsimp only
    | with_reducible apply Keeps.refl
    | ((with_reducible apply Keeps.cut (countFolds_keeps ..)); case hs => decide)
    | ((with_reducible apply Keeps.cut (setTask_keeps ..)); case hs => decide)
    | ((with_reducible apply Keeps.cut (State.bump_keeps ..)); case hs => decide)
    | with_reducible apply Keeps.ite <;> intro _
    | split
    | with_reducible exact (Keeps.cores s _).mono (by decide)
    | ((with_reducible apply Keeps.cut (Keeps.cores ..)); case hs => decide)

theorem suspendFor_keeps (s : State) (t : Nat) : Keeps [.regs, .cores, .drover] s (suspendFor s t) := by
  unfold suspendFor
  repeat' first
    | dsimp only
    | with_reducible apply Keeps.refl
    | ((with_reducible apply Keeps.cut (beginSuspend_keeps ..)); case hs => decide)
    | (with_reducible apply Keeps.foldl) <;> try intro _ _
    | with_reducible apply Keeps.ite <;> intro _
    | split

theorem suspendDrained_keeps (s : State) (t : Nat) : Keeps [.drover] s (suspendDrained s t) := by
  unfold suspendDrained
  repeat' first
    | dsimp only
    | with_reducible apply Keeps.refl
    | ((with_reducible apply Keeps.cut (setTask_keeps ..)); case hs => decide)
    | with_reducible apply Keeps.ite <;> intro _
    | split

theorem writeSave_keeps (s : State) (off : Nat) (v : Saved) : Keeps [.regs, .evts, .mem] s (writeSave s off v) := by
  unfold writeSave
  repeat' first
    | dsimp only
    | with_reducible apply Keeps.refl
    | ((with_reducible apply Keeps.cut (State.bump_keeps ..)); case hs => decide)
    | ((with_reducible apply Keeps.cut (State.pulse_keeps ..)); case hs => decide)
    | ((with_reducible apply Keeps.cut (State.mapMem_keeps _ _ (fun _ hm => Memory.put_wf _ _ _ hm))); case hs => decide)
    | ((with_reducible apply Keeps.cut (State.mapMem_keeps _ _ (fun _ hm => Memory.mark_wf _ _ hm))); case hs => decide)
    | ((with_reducible apply Keeps.cut (State.mapMem_keeps _ _ (fun _ hm => Memory.putPart_wf _ _ _ hm))); case hs => decide)
    | ((with_reducible apply Keeps.cut (State.mapMem_keeps _ _ (fun _ hm => Memory.moveBlock_wf _ _ _ hm))); case hs => decide)
    | ((with_reducible apply Keeps.cut (State.mapMem_keeps _ _ (fun _ hm => Memory.zeroRange_wf _ _ _ hm))); case hs => decide)
    | ((with_reducible apply Keeps.cut (State.mapMem_keeps _ _ (fun _ hm => Memory.zeroRange_wf _ _ _ (Memory.zeroRange_wf _ _ _ hm)))); case hs => decide)
    | ((with_reducible apply Keeps.cut (State.mapMem_keeps _ _ (fun _ hm => atomicGo_wf _ _ _ _ _ hm))); case hs => decide)
    | ((with_reducible apply Keeps.cut (State.mapMem_keeps _ _ (fun _ hm => putHeader_wf _ _ _ _ hm))); case hs => decide)
    | ((with_reducible apply Keeps.cut (State.mapMem_keeps _ _ (fun _ hm => putHeader_wf _ _ _ _ (putGold_wf _ _ _ _ _ hm)))); case hs => decide)
    | ((with_reducible apply Keeps.cut (State.mapMem_keeps _ _ (fun _ hm => putHeader_wf _ _ _ _ (by split <;> first | exact putGold_wf _ _ _ _ _ hm | exact hm)))); case hs => decide)
    | ((with_reducible apply Keeps.cut (State.mapMem_keeps _ _ (fun _ hm => Memory.fromHost_wf _ _ _ _ hm))); case hs => decide)
    | ((with_reducible apply Keeps.cut (State.mapMem_keeps _ _ (fun _ hm => copyDown_wf _ _ _ _ _ hm))); case hs => decide)
    | ((with_reducible apply Keeps.cut (State.mapMem_keeps _ _ (fun _ hm => Memory.foldl_wf _ _ (fun _ _ h => freeCell_wf _ _ _ h) _ hm))); case hs => decide)
    | ((with_reducible apply Keeps.cut (State.mapMem_keeps _ _ (fun _ hm => Memory.foldl_wf _ _ (fun _ _ h => writePage_wf _ _ _ _ _ h) _ hm))); case hs => decide)

theorem vacate_keeps (s : State) (t : Nat) (cores : List Nat) : Keeps [.cores] s (vacate s t cores) := by
  unfold vacate
  repeat' first
    | dsimp only
    | with_reducible apply Keeps.refl
    | ((with_reducible apply Keeps.cut (State.mapCore_keeps ..)); case hs => decide)
    | (with_reducible apply Keeps.foldl) <;> try intro _ _

theorem dispatchOn_keeps (s : State) (rs : List Nat) : Keeps [.regs, .faults, .cores, .drover, .sharal] s (dispatchOn s rs) := by
  unfold dispatchOn
  repeat' first
    | dsimp only
    | with_reducible apply Keeps.refl
    | ((with_reducible apply Keeps.cut (dispatchTask_keeps ..)); case hs => decide)
    | (with_reducible apply Keeps.foldl) <;> try intro _ _
    | with_reducible apply Keeps.ite <;> intro _
    | split

theorem traceSave_keeps (s : State) (t : Nat) (kind : Nat) (since : Nat) (c : Nat) : Keeps [.sharal] s (traceSave s t kind since c) := by
  unfold traceSave
  repeat' first
    | dsimp only
    | with_reducible apply Keeps.refl
    | ((with_reducible apply Keeps.cut (taskTrace_keeps ..)); case hs => decide)

theorem saveComplete_keeps (s : State) (t : Nat) : Keeps [.regs, .evts, .faults, .mem, .cores, .drover, .sharal] s (saveComplete s t) := by
  unfold saveComplete
  repeat' first
    | dsimp only
    | with_reducible apply Keeps.refl
    | ((with_reducible apply Keeps.cut (traceSave_keeps ..)); case hs => decide)
    | ((with_reducible apply Keeps.cut (dispatchOn_keeps ..)); case hs => decide)
    | ((with_reducible apply Keeps.cut (vacate_keeps ..)); case hs => decide)
    | ((with_reducible apply Keeps.cut (writeSave_keeps ..)); case hs => decide)
    | ((with_reducible apply Keeps.cut (releaseBooks_keeps ..)); case hs => decide)
    | ((with_reducible apply Keeps.cut (setTask_keeps ..)); case hs => decide)
    | (with_reducible apply Keeps.foldl) <;> try intro _ _
    | with_reducible apply Keeps.ite <;> intro _
    | split

theorem restoreProgs_keeps (s : State) (t : Nat) (k : Task) : Keeps [.cores] s (restoreProgs s t k) := by
  unfold restoreProgs
  repeat' first
    | dsimp only
    | with_reducible apply Keeps.refl
    | ((with_reducible apply Keeps.cut (State.mapCore_keeps ..)); case hs => decide)
    | (with_reducible apply Keeps.foldl) <;> try intro _ _

theorem resumeTask_keeps (s : State) (t : Nat) : Keeps [.regs, .faults, .cores, .drover] s (resumeTask s t) := by
  unfold resumeTask
  repeat' first
    | dsimp only
    | with_reducible apply Keeps.refl
    | ((with_reducible apply Keeps.cut (restoreProgs_keeps ..)); case hs => decide)
    | ((with_reducible apply Keeps.cut (ageOthers_keeps ..)); case hs => decide)
    | ((with_reducible apply Keeps.cut (grantCodebooks_keeps ..)); case hs => decide)
    | ((with_reducible apply Keeps.cut (grantTiles_keeps ..)); case hs => decide)
    | ((with_reducible apply Keeps.cut (setTask_keeps ..)); case hs => decide)
    | (with_reducible apply Keeps.foldl) <;> try intro _ _
    | with_reducible apply Keeps.ite <;> intro _
    | split

theorem restoreFault_keeps (s : State) (t : Nat) (off : Nat) (l : List Saved) : Keeps [.faults, .cores, .drover] s (optState s (restoreFault s t off l)) := by
  unfold restoreFault
  repeat' first
    | dsimp only [optState_some, optState_none]
    | with_reducible apply Keeps.refl
    | with_reducible apply Keeps.opt_ite <;> intro _
    | ((with_reducible apply Keeps.cut (taskFault_keeps ..)); case hs => decide)
    | with_reducible apply Keeps.opt_find <;> intro _
    | with_reducible apply Keeps.ite <;> intro _
    | split

theorem restoreFault_some {s : State} {t : Nat} {off : Nat} {l : List Saved} {x' : State} (hx' : restoreFault s t off l = some x') : Keeps [.faults, .cores, .drover] s x' := by
  have k := restoreFault_keeps s t off l
  rw [hx'] at k
  exact k

theorem restoreTile_keeps (s : State) (c : Nat) (t : Nat) (b : Bool) (a : Nat) (x : Option Tile) : Keeps [.evts, .cores] s (restoreTile s c t b a x) := by
  unfold restoreTile
  repeat' first
    | dsimp only
    | with_reducible apply Keeps.refl
    | ((with_reducible apply Keeps.cut (putTile_keeps ..)); case hs => decide)
    | with_reducible apply Keeps.ite <;> intro _
    | split

theorem restoreCore_keeps (s : State) (t : Nat) (save : Option Nat) (v : Saved) : Keeps [.regs, .evts, .cores] s (restoreCore s t save v) := by
  unfold restoreCore
  repeat' first
    | dsimp only
    | with_reducible apply Keeps.refl
    | ((with_reducible apply Keeps.cut (restoreTile_keeps ..)); case hs => decide)
    | ((with_reducible apply Keeps.cut (State.bump_keeps ..)); case hs => decide)
    | ((with_reducible apply Keeps.cut (State.pulse_keeps ..)); case hs => decide)
    | ((with_reducible apply Keeps.cut (State.mapCore_keeps ..)); case hs => decide)
    | (with_reducible apply Keeps.foldl) <;> try intro _ _
    | with_reducible apply Keeps.ite <;> intro _
    | split

theorem chargeRestore_keeps (s : State) (t : Nat) (since : Nat) (v : Saved) : Keeps [.drover] s (chargeRestore s t since v) := by
  unfold chargeRestore
  repeat' first
    | dsimp only
    | with_reducible apply Keeps.refl
    | ((with_reducible apply Keeps.cut (extendTask_keeps ..)); case hs => decide)
    | ((with_reducible apply Keeps.cut (chargeReserve_keeps ..)); case hs => decide)
    | with_reducible apply Keeps.ite <;> intro _
    | split

theorem restoreAll_keeps (s : State) (t : Nat) (save : Option Nat) (k : Task) : Keeps [.regs, .evts, .cores, .drover, .sharal] s (restoreAll s t save k) := by
  unfold restoreAll
  repeat' first
    | dsimp only
    | with_reducible apply Keeps.refl
    | ((with_reducible apply Keeps.cut (chargeRestore_keeps ..)); case hs => decide)
    | ((with_reducible apply Keeps.cut (restoreCore_keeps ..)); case hs => decide)
    | ((with_reducible apply Keeps.cut (traceSave_keeps ..)); case hs => decide)
    | ((with_reducible apply Keeps.cut (setTask_keeps ..)); case hs => decide)
    | (with_reducible apply Keeps.foldl) <;> try intro _ _
    | with_reducible apply Keeps.ite <;> intro _
    | split

theorem restoreComplete_keeps (s : State) (t : Nat) : Keeps [.regs, .evts, .faults, .cores, .drover, .sharal] s (restoreComplete s t) := by
  unfold restoreComplete
  repeat' first
    | dsimp only
    | with_reducible apply Keeps.refl
    | ((with_reducible apply Keeps.cut (restoreAll_keeps ..)); case hs => decide)
    | ((with_reducible apply Keeps.cut (restoreFault_some (by assumption))); case hs => decide)
    | ((with_reducible apply Keeps.cut (restoreFault_keeps ..)); case hs => decide)
    | with_reducible apply Keeps.opt_if (by assumption)
    | with_reducible apply Keeps.ite <;> intro _
    | split

theorem releaseChain_keeps (s : State) (i : Inst) (chain : Nat) : Keeps [.cores] s (releaseChain s i chain) := by
  unfold releaseChain
  repeat' first
    | dsimp only
    | with_reducible apply Keeps.refl
    | with_reducible apply Keeps.ite <;> intro _
    | split
    | with_reducible exact (Keeps.cores s _).mono (by decide)
    | ((with_reducible apply Keeps.cut (Keeps.cores ..)); case hs => decide)

theorem leaveCores_keeps (s : State) (t : Nat) : Keeps [.cores] s (leaveCores s t) := by
  unfold leaveCores
  repeat' first
    | dsimp only
    | with_reducible apply Keeps.refl
    | with_reducible apply Keeps.ite <;> intro _
    | split
    | with_reducible exact (Keeps.cores s _).mono (by decide)
    | ((with_reducible apply Keeps.cut (Keeps.cores ..)); case hs => decide)

theorem finishTask_keeps (s : State) (t : Nat) : Keeps [.regs, .evts, .cores, .drover, .host, .power, .sharal] s (finishTask s t) := by
  unfold finishTask
  repeat' first
    | dsimp only
    | with_reducible apply Keeps.refl
    | ((with_reducible apply Keeps.cut (leaveCores_keeps ..)); case hs => decide)
    | ((with_reducible apply Keeps.cut (releaseChain_keeps ..)); case hs => decide)
    | ((with_reducible apply Keeps.cut (endIfDone_keeps ..)); case hs => decide)
    | ((with_reducible apply Keeps.cut (barriers_keeps ..)); case hs => decide)
    | ((with_reducible apply Keeps.cut (completeTask_keeps ..)); case hs => decide)
    | ((with_reducible apply Keeps.cut (releaseBooks_keeps ..)); case hs => decide)
    | (with_reducible apply Keeps.foldl) <;> try intro _ _
    | with_reducible apply Keeps.ite <;> intro _
    | split

theorem taskComplete_keeps (s : State) (t : Nat) : Keeps [.regs, .evts, .cores, .drover, .host, .power, .sharal] s (taskComplete s t) := by
  unfold taskComplete
  repeat' first
    | dsimp only
    | with_reducible apply Keeps.refl
    | ((with_reducible apply Keeps.cut (finishTask_keeps ..)); case hs => decide)
    | with_reducible apply Keeps.ite <;> intro _
    | split

theorem overrun_keeps (s : State) (t : Nat) : Keeps [.regs, .evts, .faults, .cores, .drover] s (overrun s t) := by
  unfold overrun
  repeat' first
    | dsimp only
    | with_reducible apply Keeps.refl
    | ((with_reducible apply Keeps.cut (taskFault_keeps ..)); case hs => decide)
    | ((with_reducible apply Keeps.cut (State.bump_keeps ..)); case hs => decide)
    | ((with_reducible apply Keeps.cut (State.pulse_keeps ..)); case hs => decide)
    | with_reducible apply Keeps.ite <;> intro _
    | split

theorem reserveExhausted_keeps (s : State) (col : Nat) : Keeps [.regs, .evts, .faults, .drover] s (reserveExhausted s col) := by
  unfold reserveExhausted
  repeat' first
    | dsimp only
    | with_reducible apply Keeps.refl
    | ((with_reducible apply Keeps.cut (State.mapDrover_keeps ..)); case hs => decide)
    | ((with_reducible apply Keeps.cut (State.bump_keeps ..)); case hs => decide)
    | ((with_reducible apply Keeps.cut (State.fault_keeps ..)); case hs => decide)
    | ((with_reducible apply Keeps.cut (State.pulse_keeps ..)); case hs => decide)
    | with_reducible apply Keeps.ite <;> intro _
    | split

end Sys2Proof.Machine
end

