-- ==== Sys2Proof/Laws/Banks.lean ====
section
/-! SUPPORT. What the operations of Machine/Banks.lean may change. -/

set_option linter.unusedTactic false
set_option linter.unreachableTactic false

namespace Sys2Proof.Machine

theorem State.mapPaddock_keeps (s : State) (f : Paddock → Paddock) : Keeps [.paddock] s (State.mapPaddock s f) := by
  unfold State.mapPaddock
  repeat' first
    | dsimp only
    | with_reducible apply Keeps.refl
    | with_reducible exact (Keeps.paddock s _).mono (by decide)
    | ((with_reducible apply Keeps.cut (Keeps.paddock ..)); case hs => decide)

theorem State.setBank_keeps (s : State) (b : Nat) (v : Bank) : Keeps [.paddock] s (State.setBank s b v) := by
  unfold State.setBank
  repeat' first
    | dsimp only
    | with_reducible apply Keeps.refl
    | ((with_reducible apply Keeps.cut (State.mapPaddock_keeps ..)); case hs => decide)

end Sys2Proof.Machine
end

