-- ==== Sys2Proof/Laws/Herd.lean ====
section
/-! SUPPORT. What the operations of Machine/Herd.lean may change. -/

set_option linter.unusedTactic false
set_option linter.unreachableTactic false

namespace Sys2Proof.Machine

theorem herdFault_keeps (s : State) (t : Nat) (code : Nat) (addr : Option Nat) (d0 : Word) (d1 : Word) : Keeps [.faults, .cores, .drover] s (herdFault s t code addr d0 d1) := by
  unfold herdFault
  repeat' first
    | dsimp only
    | with_reducible apply Keeps.refl
    | ((with_reducible apply Keeps.cut (taskFault_keeps ..)); case hs => decide)

theorem herdRead_keeps (s : State) (t : Nat) (rec : Nat) (a : Nat) (n : Nat) : Keeps [.faults, .cores, .drover] s (optState s (herdRead s t rec a n)) := by
  unfold herdRead
  repeat' first
    | dsimp only [optState_some, optState_none]
    | with_reducible apply Keeps.refl
    | with_reducible apply Keeps.opt_ite <;> intro _
    | ((with_reducible apply Keeps.cut (herdFault_keeps ..)); case hs => decide)
    | with_reducible apply Keeps.ite <;> intro _
    | split

theorem herdRead_some {s : State} {t : Nat} {rec : Nat} {a : Nat} {n : Nat} {x' : State} (hx' : herdRead s t rec a n = some x') : Keeps [.faults, .cores, .drover] s x' := by
  have k := herdRead_keeps s t rec a n
  rw [hx'] at k
  exact k

theorem bankFault_keeps (s : State) (t : Nat) (b : Nat) (code : Nat) (rec : Nat) : Keeps [.faults, .cores, .drover] s (bankFault s t b code rec) := by
  unfold bankFault
  repeat' first
    | dsimp only
    | with_reducible apply Keeps.refl
    | ((with_reducible apply Keeps.cut (taskFault_keeps ..)); case hs => decide)

theorem herdBegin_keeps (s : State) (t : Nat) (a : Nat) (j : List Word) (h : List Word) (feats : List Feat) (count : Nat) : Keeps [.herd, .paddock] s (herdBegin s t a j h feats count) := by
  unfold herdBegin
  repeat' first
    | dsimp only
    | with_reducible apply Keeps.refl
    | ((with_reducible apply Keeps.cut (State.mapPaddock_keeps ..)); case hs => decide)
    | with_reducible exact (Keeps.herd s _).mono (by decide)
    | ((with_reducible apply Keeps.cut (Keeps.herd ..)); case hs => decide)

theorem herdChecks_keeps (s : State) (t : Nat) (a : Nat) (j : List Word) : Keeps [.faults, .cores, .drover, .herd, .paddock] s (herdChecks s t a j) := by
  unfold herdChecks
  repeat' first
    | dsimp only
    | with_reducible apply Keeps.refl
    | ((with_reducible apply Keeps.cut (herdBegin_keeps ..)); case hs => decide)
    | ((with_reducible apply Keeps.cut (bankFault_keeps ..)); case hs => decide)
    | ((with_reducible apply Keeps.cut (herdRead_some (by assumption))); case hs => decide)
    | ((with_reducible apply Keeps.cut (herdRead_keeps ..)); case hs => decide)
    | ((with_reducible apply Keeps.cut (herdFault_keeps ..)); case hs => decide)
    | with_reducible apply Keeps.opt_if (by assumption)
    | with_reducible apply Keeps.opt_find <;> intro _
    | with_reducible apply Keeps.ite <;> intro _
    | split

theorem herdJobStart_keeps (s : State) : Keeps [.regs, .faults, .cores, .drover, .herd, .paddock] s (herdJobStart s) := by
  unfold herdJobStart
  repeat' first
    | dsimp only
    | with_reducible apply Keeps.refl
    | ((with_reducible apply Keeps.cut (herdChecks_keeps ..)); case hs => decide)
    | ((with_reducible apply Keeps.cut (herdRead_some (by assumption))); case hs => decide)
    | ((with_reducible apply Keeps.cut (herdRead_keeps ..)); case hs => decide)
    | ((with_reducible apply Keeps.cut (herdFault_keeps ..)); case hs => decide)
    | ((with_reducible apply Keeps.cut (State.setReg_keeps ..)); case hs => decide)
    | with_reducible apply Keeps.opt_if (by assumption)
    | with_reducible apply Keeps.ite <;> intro _
    | split

theorem nodeFault_keeps (s : State) (e : WalkEnv) (code : Nat) (n : Nat) : Keeps [.faults, .cores, .drover] s (nodeFault s e code n) := by
  unfold nodeFault
  repeat' first
    | dsimp only
    | with_reducible apply Keeps.refl
    | ((with_reducible apply Keeps.cut (herdFault_keeps ..)); case hs => decide)

theorem WalkAt.visit_keeps (w : WalkAt) (b : Bool) : Keeps [.regs] w.st (w.visit b).st := by
  unfold WalkAt.visit
  dsimp only
  with_reducible apply Keeps.ite <;> intro _
  · exact Keeps.cut (State.bump_keeps ..) (by decide) (State.bump_keeps ..)
  · exact State.bump_keeps ..

theorem walk_keeps (e : WalkEnv) (root count depth fuel : Nat) (w : WalkAt) (n : Nat) :
    (∀ u, walk e root count depth fuel w n = .stop u → Keeps [.regs, .faults, .cores, .drover] w.st u) ∧
    (∀ v k lo hi, walk e root count depth fuel w n = .leaf v k lo hi → Keeps [.regs, .faults, .cores, .drover] w.st v.st) := by
  induction fuel generalizing w n with
  | zero =>
    refine ⟨fun u h => ?_, fun v k lo hi h => ?_⟩
    · unfold walk at h
      injection h with h
      subst h
      exact (nodeFault_keeps ..).mono (by decide)
    · unfold walk at h
      cases h
  | succ fuel ih =>
    have stop (x : WalkEnd) (hx : (∃ t, x = .stop t ∧ Keeps [.regs, .faults, .cores, .drover] w.st t) ∨ (∃ k lo hi, x = .leaf w k lo hi) ∨
        (∃ b m, x = walk e root count depth fuel (w.visit b) m)) :
        (∀ u, x = .stop u → Keeps [.regs, .faults, .cores, .drover] w.st u) ∧ (∀ v k lo hi, x = .leaf v k lo hi → Keeps [.regs, .faults, .cores, .drover] w.st v.st) := by
      rcases hx with ⟨t, rfl, ht⟩ | ⟨k, lo, hi, rfl⟩ | ⟨b, m, rfl⟩
      · exact ⟨fun u h => by cases h; exact ht, fun v k lo hi h => by cases h⟩
      · exact ⟨fun u h => by (cases h), fun v k lo hi h => by (cases h; exact Keeps.refl _ _)⟩
      · have hv : Keeps [.regs, .faults, .cores, .drover] w.st (w.visit b).st := (w.visit_keeps b).mono (by decide)
        obtain ⟨p, q⟩ := ih (w.visit b) m
        exact ⟨fun u h => hv.trans (p u h), fun v k lo hi h => hv.trans (q v k lo hi h)⟩
    unfold walk
    dsimp only
    split
    · exact stop _ (.inl ⟨_, rfl, (herdRead_some (by assumption)).mono (by decide)⟩)
    · split
      · split
        · exact stop _ (.inl ⟨_, rfl, (nodeFault_keeps ..).mono (by decide)⟩)
        · exact stop _ (.inr (.inl ⟨_, _, _, rfl⟩))
      · split
        · exact stop _ (.inl ⟨_, rfl, (nodeFault_keeps ..).mono (by decide)⟩)
        · split
          · exact stop _ (.inr (.inr ⟨_, _, rfl⟩))
          · split
            · rename_i hu
              split at hu
              · exact stop _ (.inl ⟨_, rfl, (herdRead_some hu).mono (by decide)⟩)
              · cases hu
            · exact stop _ (.inr (.inr ⟨_, _, rfl⟩))

/-- What the walk of a tree changes, whether it ends the job or reaches a leaf. -/
theorem scoreTree_keeps (e : WalkEnv) (acc : RecAcc) (t : Nat) :
    (∀ u, scoreTree e acc t = .inl u → Keeps [.regs, .faults, .cores, .drover] acc.at_.st u) ∧
    (∀ a, scoreTree e acc t = .inr a → Keeps [.regs, .faults, .cores, .drover] acc.at_.st a.at_.st) := by
  unfold scoreTree
  dsimp only
  split
  · exact ⟨fun u h => by injection h with h; subst h; exact (herdRead_some (by assumption)).mono (by decide), fun a h => (by cases h)⟩
  · split
    · exact ⟨fun u h => by injection h with h; subst h; exact (herdFault_keeps ..).mono (by decide), fun a h => (by cases h)⟩
    · split
      · rename_i hw
        exact ⟨fun u h => by injection h with h; subst h; exact (walk_keeps _ _ _ _ _ { acc.at_ with visits := 0 } _).1 _ hw, fun a h => (by cases h)⟩
      · rename_i v k lo hi hw
        have k := (walk_keeps _ _ _ _ _ { acc.at_ with visits := 0 } _).2 _ _ _ _ hw
        refine ⟨fun u h => (by cases h), fun a h => ?_⟩
        injection h with h
        subst h
        dsimp only
        split
        · exact k.trans ((v.visit_keeps false).mono (by decide))
        · exact k

theorem scoreTrees_keeps (e : WalkEnv) (l : List Nat) (acc : RecAcc) :
    (∀ u, scoreTrees e l acc = .inl u → Keeps [.regs, .faults, .cores, .drover] acc.at_.st u) ∧
    (∀ a, scoreTrees e l acc = .inr a → Keeps [.regs, .faults, .cores, .drover] acc.at_.st a.at_.st) := by
  induction l generalizing acc with
  | nil => exact ⟨fun u h => (by cases h), fun a h => by injection h with h; subst h; exact Keeps.refl _ _⟩
  | cons t l ih =>
    unfold scoreTrees
    have k := scoreTree_keeps e acc t
    split
    · rename_i hb
      exact ⟨fun u h => by injection h with h; subst h; exact k.1 _ hb, fun a h => (by cases h)⟩
    · rename_i a hb
      exact ⟨fun u h => (k.2 _ hb).trans ((ih a).1 u h), fun b h => (k.2 _ hb).trans ((ih a).2 b h)⟩

theorem recordRead_keeps (s : State) (r : HerdRun) : Keeps [.faults, .cores, .drover] s (optState s (recordRead s r)) := by
  unfold recordRead
  repeat' first
    | dsimp only [optState_some, optState_none]
    | with_reducible apply Keeps.refl
    | with_reducible apply Keeps.opt_ite <;> intro _
    | ((with_reducible apply Keeps.cut (herdRead_some (by assumption))); case hs => decide)
    | ((with_reducible apply Keeps.cut (herdRead_keeps ..)); case hs => decide)
    | with_reducible apply Keeps.opt_if (by assumption)
    | with_reducible apply Keeps.opt_find <;> intro _
    | with_reducible apply Keeps.ite <;> intro _
    | split

theorem recordRead_some {s : State} {r : HerdRun} {x' : State} (hx' : recordRead s r = some x') : Keeps [.faults, .cores, .drover] s x' := by
  have k := recordRead_keeps s r
  rw [hx'] at k
  exact k

theorem recordScored_keeps (s : State) (r : HerdRun) (acc : RecAcc) (bins : List (Option Nat)) :
    Keeps [.regs, .herd] acc.at_.st (recordScored s r acc bins) := by
  unfold recordScored
  generalize acc.at_.st = u
  repeat' first
    | dsimp only
    | with_reducible apply Keeps.refl
    | ((with_reducible apply Keeps.cut (State.bump_keeps ..)); case hs => decide)
    | with_reducible apply Keeps.ite <;> intro _
    | exact (Keeps.herd u _).mono (by decide)

theorem countUnseen_keeps (s : State) (un : Bool) : Keeps [.regs, .evts] s (countUnseen s un) := by
  unfold countUnseen
  repeat' first
    | dsimp only
    | with_reducible apply Keeps.refl
    | ((with_reducible apply Keeps.cut (State.bump_keeps ..)); case hs => decide)
    | ((with_reducible apply Keeps.cut (State.pulse_keeps ..)); case hs => decide)
    | with_reducible apply Keeps.ite <;> intro _
    | split

theorem herdRecordRead_keeps (s : State) : Keeps [.regs, .evts, .faults, .cores, .drover, .herd] s (herdRecordRead s) := by
  unfold herdRecordRead
  have c : ∀ un, Keeps [.regs, .evts, .faults, .cores, .drover, .herd] s (countUnseen s un) := fun un => (countUnseen_keeps s un).mono (by decide)
  split
  · exact Keeps.refl _ _
  · with_reducible apply Keeps.ite <;> intro _
    · exact Keeps.refl _ _
    · split
      · exact (recordRead_some (by assumption)).mono (by decide)
      · dsimp only
        split
        · rename_i hs
          exact (c _).trans (((scoreTrees_keeps _ _ _).1 _ hs).mono (by decide))
        · rename_i acc hs
          have k := (c _).trans (((scoreTrees_keeps _ _ _).2 _ hs).mono (qs := [.regs, .evts, .faults, .cores, .drover, .herd]) (by decide))
          with_reducible apply Keeps.ite <;> intro _
          · exact k.trans ((herdFault_keeps ..).mono (by decide))
          · exact k.trans ((recordScored_keeps ..).mono (by decide))

theorem herdRecordOutput_keeps (s : State) : Keeps [.regs, .mem, .herd] s (herdRecordOutput s) := by
  unfold herdRecordOutput
  repeat' first
    | with_reducible apply Keeps.refl
    | ((with_reducible apply Keeps.cut (State.bump_keeps ..)); case hs => decide)
    | with_reducible apply Keeps.ite <;> intro _
    | split
    | dsimp only
  exact Keeps.cut (Keeps.herd { s with mem := _ } _) (by decide)
    ((Keeps.mem s _ (fun h => flushOut_wf _ _ _ _ _ _ h)).mono (by decide))

theorem herdJobComplete_keeps (s : State) : Keeps [.regs, .evts, .cores, .drover, .herd, .paddock, .host, .power, .sharal] s (herdJobComplete s) := by
  unfold herdJobComplete
  repeat' first
    | dsimp only
    | with_reducible apply Keeps.refl
    | ((with_reducible apply Keeps.cut (State.mapPaddock_keeps ..)); case hs => decide)
    | ((with_reducible apply Keeps.cut (finishTask_keeps ..)); case hs => decide)
    | ((with_reducible apply Keeps.cut (State.bump_keeps ..)); case hs => decide)
    | ((with_reducible apply Keeps.cut (State.pulse_keeps ..)); case hs => decide)
    | with_reducible apply Keeps.ite <;> intro _
    | split
    | with_reducible exact (Keeps.herd s _).mono (by decide)
    | ((with_reducible apply Keeps.cut (Keeps.herd ..)); case hs => decide)

end Sys2Proof.Machine
end

