-- ==== Sys2Proof/Laws/Paddock.lean ====
section
/-! SUPPORT. What the operations of Machine/Paddock.lean may change. -/

set_option linter.unusedTactic false
set_option linter.unreachableTactic false

namespace Sys2Proof.Machine

theorem unitPoison_keeps (s : State) (t : Nat) (b : Nat) (u : Nat) (marked : Bool) : Keeps [.faults, .cores, .drover] s (unitPoison s t b u marked) := by
  unfold unitPoison
  repeat' first
    | dsimp only
    | with_reducible apply Keeps.refl
    | ((with_reducible apply Keeps.cut (taskFault_keeps ..)); case hs => decide)

theorem giveCounts_keeps (s : State) (r : HerdRun) (p : PSearch) : Keeps [.regs, .herd, .paddock] s (giveCounts s r p) := by
  unfold giveCounts
  repeat' first
    | dsimp only
    | with_reducible apply Keeps.refl
    | ((with_reducible apply Keeps.cut (State.mapPaddock_keeps ..)); case hs => decide)
    | ((with_reducible apply Keeps.cut (State.bump_keeps ..)); case hs => decide)
    | with_reducible apply Keeps.ite <;> intro _
    | split
    | with_reducible exact (Keeps.herd s _).mono (by decide)
    | ((with_reducible apply Keeps.cut (Keeps.herd ..)); case hs => decide)

theorem bankSearch_keeps (s : State) (b : Nat) (r : HerdRun) (p : PSearch) : Keeps [.regs, .faults, .cores, .drover, .herd, .paddock] s (bankSearch s b r p) := by
  unfold bankSearch
  repeat' first
    | dsimp only
    | with_reducible apply Keeps.refl
    | ((with_reducible apply Keeps.cut (giveCounts_keeps ..)); case hs => decide)
    | ((with_reducible apply Keeps.cut (unitPoison_keeps ..)); case hs => decide)
    | ((with_reducible apply Keeps.cut (bankFault_keeps ..)); case hs => decide)
    | ((with_reducible apply Keeps.cut (State.mapPaddock_keeps ..)); case hs => decide)
    | ((with_reducible apply Keeps.cut (State.bump_keeps ..)); case hs => decide)
    | with_reducible apply Keeps.ite <;> intro _
    | split

theorem paddockBankSearch_keeps (s : State) (b : Nat) : Keeps [.regs, .faults, .cores, .drover, .herd, .paddock] s (paddockBankSearch s b) := by
  unfold paddockBankSearch
  repeat' first
    | dsimp only
    | with_reducible apply Keeps.refl
    | ((with_reducible apply Keeps.cut (bankSearch_keeps ..)); case hs => decide)
    | with_reducible apply Keeps.ite <;> intro _
    | split

theorem searchReplay_keeps (s : State) (b : Nat) (u : Nat) (persists : Bool) : Keeps [.regs, .faults, .cores, .drover, .herd, .paddock] s (searchReplay s b u persists) := by
  unfold searchReplay
  repeat' first
    | dsimp only
    | with_reducible apply Keeps.refl
    | ((with_reducible apply Keeps.cut (bankSearch_keeps ..)); case hs => decide)
    | ((with_reducible apply Keeps.cut (unitPoison_keeps ..)); case hs => decide)
    | ((with_reducible apply Keeps.cut (State.setBank_keeps ..)); case hs => decide)
    | ((with_reducible apply Keeps.cut (extendTask_keeps ..)); case hs => decide)
    | ((with_reducible apply Keeps.cut (chargeReserve_keeps ..)); case hs => decide)
    | ((with_reducible apply Keeps.cut (State.bump_keeps ..)); case hs => decide)
    | with_reducible apply Keeps.ite <;> intro _
    | split

theorem bankBlockFault_keeps (s : State) (t : Nat) (b : Nat) (blk : Nat) (v : Verdict) : Keeps [.faults, .cores, .drover] s (bankBlockFault s t b blk v) := by
  unfold bankBlockFault
  repeat' first
    | dsimp only
    | with_reducible apply Keeps.refl
    | ((with_reducible apply Keeps.cut (taskFault_keeps ..)); case hs => decide)
    | with_reducible apply Keeps.ite <;> intro _
    | split

theorem padRead_keeps (s : State) (t : Nat) (a : Nat) (n : Nat) : Keeps [.faults, .cores, .drover] s (optState s (padRead s t a n)) := by
  unfold padRead
  repeat' first
    | dsimp only [optState_some, optState_none]
    | with_reducible apply Keeps.refl
    | with_reducible apply Keeps.opt_ite <;> intro _
    | ((with_reducible apply Keeps.cut (bankBlockFault_keeps ..)); case hs => decide)
    | with_reducible apply Keeps.ite <;> intro _
    | split

theorem padRead_some {s : State} {t : Nat} {a : Nat} {n : Nat} {x' : State} (hx' : padRead s t a n = some x') : Keeps [.faults, .cores, .drover] s x' := by
  have k := padRead_keeps s t a n
  rw [hx'] at k
  exact k

theorem paddockJobStart_keeps (s : State) : Keeps [.faults, .cores, .drover, .paddock] s (paddockJobStart s) := by
  unfold paddockJobStart
  repeat' first
    | dsimp only
    | with_reducible apply Keeps.refl
    | ((with_reducible apply Keeps.cut (padRead_some (by assumption))); case hs => decide)
    | ((with_reducible apply Keeps.cut (padRead_keeps ..)); case hs => decide)
    | ((with_reducible apply Keeps.cut (State.mapPaddock_keeps ..)); case hs => decide)
    | ((with_reducible apply Keeps.cut (taskFault_keeps ..)); case hs => decide)
    | with_reducible apply Keeps.opt_if (by assumption)
    | with_reducible apply Keeps.ite <;> intro _
    | split

theorem paddockOpEnqueue_keeps (s : State) : Keeps [.faults, .cores, .drover, .paddock] s (paddockOpEnqueue s) := by
  unfold paddockOpEnqueue
  repeat' first
    | dsimp only
    | with_reducible apply Keeps.refl
    | ((with_reducible apply Keeps.cut (padRead_some (by assumption))); case hs => decide)
    | ((with_reducible apply Keeps.cut (padRead_keeps ..)); case hs => decide)
    | ((with_reducible apply Keeps.cut (State.setBank_keeps ..)); case hs => decide)
    | ((with_reducible apply Keeps.cut (State.mapPaddock_keeps ..)); case hs => decide)
    | with_reducible apply Keeps.opt_if (by assumption)
    | with_reducible apply Keeps.ite <;> intro _
    | split

theorem paddockJobComplete_keeps (s : State) : Keeps [.regs, .evts, .cores, .drover, .paddock, .host, .power, .sharal] s (paddockJobComplete s) := by
  unfold paddockJobComplete
  repeat' first
    | dsimp only
    | with_reducible apply Keeps.refl
    | ((with_reducible apply Keeps.cut (State.mapPaddock_keeps ..)); case hs => decide)
    | ((with_reducible apply Keeps.cut (finishTask_keeps ..)); case hs => decide)
    | with_reducible apply Keeps.ite <;> intro _
    | split

theorem rebuildFails_keeps (s : State) (b : Nat) : Keeps [.paddock] s (rebuildFails s b) := by
  unfold rebuildFails
  repeat' first
    | dsimp only
    | with_reducible apply Keeps.refl
    | ((with_reducible apply Keeps.cut (State.setBank_keeps ..)); case hs => decide)

theorem opStart_keeps (s : State) (b : Nat) : Keeps [.faults, .cores, .drover, .paddock] s (opStart s b) := by
  unfold opStart
  repeat' first
    | dsimp only
    | with_reducible apply Keeps.refl
    | ((with_reducible apply Keeps.cut (rebuildFails_keeps ..)); case hs => decide)
    | ((with_reducible apply Keeps.cut (bankBlockFault_keeps ..)); case hs => decide)
    | ((with_reducible apply Keeps.cut (State.setBank_keeps ..)); case hs => decide)
    | ((with_reducible apply Keeps.cut (taskFault_keeps ..)); case hs => decide)
    | with_reducible apply Keeps.ite <;> intro _
    | split

theorem countStep_keeps (s : State) (b : Nat) (commit : Bool) : Keeps [.regs, .evts] s (countStep s b commit) := by
  unfold countStep
  repeat' first
    | dsimp only
    | with_reducible apply Keeps.refl
    | ((with_reducible apply Keeps.cut (State.bump_keeps ..)); case hs => decide)
    | ((with_reducible apply Keeps.cut (countEvent_keeps ..)); case hs => decide)
    | ((with_reducible apply Keeps.cut (State.pulse_keeps ..)); case hs => decide)
    | with_reducible apply Keeps.ite <;> intro _
    | split

theorem opDone_keeps (s : State) (b : Nat) (v : Bank) (st : BankSt) : Keeps [.regs, .paddock] s (opDone s b v st) := by
  unfold opDone
  repeat' first
    | dsimp only
    | with_reducible apply Keeps.refl
    | ((with_reducible apply Keeps.cut (State.setBank_keeps ..)); case hs => decide)
    | ((with_reducible apply Keeps.cut (State.mapPaddock_keeps ..)); case hs => decide)
    | ((with_reducible apply Keeps.cut (State.bump_keeps ..)); case hs => decide)

theorem makeStep_keeps (s : State) (b : Nat) (v : Bank) (r : POpRun) : Keeps [.regs, .evts, .faults, .mem, .cores, .drover, .paddock] s (makeStep s b v r) := by
  unfold makeStep
  repeat' first
    | dsimp only
    | with_reducible apply Keeps.refl
    | ((with_reducible apply Keeps.cut (opDone_keeps ..)); case hs => decide)
    | ((with_reducible apply Keeps.cut (countStep_keeps ..)); case hs => decide)
    | ((with_reducible apply Keeps.cut (bankBlockFault_keeps ..)); case hs => decide)
    | ((with_reducible apply Keeps.cut (State.setBank_keeps ..)); case hs => decide)
    | ((with_reducible apply Keeps.cut (State.mapMem_keeps _ _ (fun _ hm => Memory.put_wf _ _ _ hm))); case hs => decide)
    | ((with_reducible apply Keeps.cut (State.mapMem_keeps _ _ (fun _ hm => Memory.mark_wf _ _ hm))); case hs => decide)
    | ((with_reducible apply Keeps.cut (State.mapMem_keeps _ _ (fun _ hm => Memory.putPart_wf _ _ _ hm))); case hs => decide)
    | ((with_reducible apply Keeps.cut (State.mapMem_keeps _ _ (fun _ hm => Memory.moveBlock_wf _ _ _ hm))); case hs => decide)
    | ((with_reducible apply Keeps.cut (State.mapMem_keeps _ _ (fun _ hm => Memory.zeroRange_wf _ _ _ hm))); case hs => decide)
    | ((with_reducible apply Keeps.cut (State.mapMem_keeps _ _ (fun _ hm => Memory.zeroRange_wf _ _ _ (Memory.zeroRange_wf _ _ _ hm)))); case hs => decide)
    | ((with_reducible apply Keeps.cut (State.mapMem_keeps _ _ (fun _ hm => atomicGo_wf _ _ _ _ _ hm))); case hs => decide)
    | ((with_reducible apply Keeps.cut (State.mapMem_keeps _ _ (fun _ hm => putHeader_wf _ _ _ _ hm))); case hs => decide)
    | ((with_reducible apply Keeps.cut (State.mapMem_keeps _ _ (fun _ hm => putHeader_wf _ _ _ _ (putGold_wf _ _ _ _ _ hm)))); case hs => decide)
    | ((with_reducible apply Keeps.cut (State.mapMem_keeps _ _ (fun _ hm => putHeader_wf _ _ _ _ (by split <;> first | exact putGold_wf _ _ _ _ _ hm | exact hm)))); case hs => decide)
    | ((with_reducible apply Keeps.cut (State.mapMem_keeps _ _ (fun _ hm => Memory.fromHost_wf _ _ _ _ hm))); case hs => decide)
    | ((with_reducible apply Keeps.cut (State.mapMem_keeps _ _ (fun _ hm => copyDown_wf _ _ _ _ _ hm))); case hs => decide)
    | ((with_reducible apply Keeps.cut (State.mapMem_keeps _ _ (fun _ hm => Memory.foldl_wf _ _ (fun _ _ h => freeCell_wf _ _ _ h) _ hm))); case hs => decide)
    | ((with_reducible apply Keeps.cut (State.mapMem_keeps _ _ (fun _ hm => Memory.foldl_wf _ _ (fun _ _ h => writePage_wf _ _ _ _ _ h) _ hm))); case hs => decide)
    | with_reducible apply Keeps.ite <;> intro _
    | split

theorem goldBad_keeps (s : State) : Keeps [.regs, .evts] s (goldBad s) := by
  unfold goldBad
  repeat' first
    | dsimp only
    | with_reducible apply Keeps.refl
    | ((with_reducible apply Keeps.cut (State.bump_keeps ..)); case hs => decide)
    | ((with_reducible apply Keeps.cut (State.pulse_keeps ..)); case hs => decide)

theorem scrubStep_keeps (s : State) (b : Nat) (v0 : Bank) : Keeps [.regs, .evts, .faults, .mem, .cores, .drover, .paddock] s (scrubStep s b v0) := by
  unfold scrubStep
  repeat' first
    | dsimp only
    | with_reducible apply Keeps.refl
    | ((with_reducible apply Keeps.cut (goldBad_keeps ..)); case hs => decide)
    | ((with_reducible apply Keeps.cut (State.setBank_keeps ..)); case hs => decide)
    | ((with_reducible apply Keeps.cut (State.bump_keeps ..)); case hs => decide)
    | ((with_reducible apply Keeps.cut (State.pulse_keeps ..)); case hs => decide)
    | with_reducible apply Keeps.ite <;> intro _
    | split

theorem bankTheft_keeps (s : State) (b : Nat) : Keeps [.regs, .evts, .faults, .mem, .cores, .drover, .paddock] s (bankTheft s b) := by
  unfold bankTheft
  repeat' first
    | dsimp only
    | with_reducible apply Keeps.refl
    | ((with_reducible apply Keeps.cut (scrubStep_keeps ..)); case hs => decide)
    | ((with_reducible apply Keeps.cut (makeStep_keeps ..)); case hs => decide)
    | ((with_reducible apply Keeps.cut (opStart_keeps ..)); case hs => decide)
    | with_reducible apply Keeps.ite <;> intro _
    | split

theorem theft_keeps (s : State) : Keeps [.regs, .evts, .faults, .mem, .cores, .drover, .paddock] s (theft s) := by
  unfold theft
  repeat' first
    | dsimp only
    | with_reducible apply Keeps.refl
    | ((with_reducible apply Keeps.cut (bankTheft_keeps ..)); case hs => decide)
    | (with_reducible apply Keeps.foldl) <;> try intro _ _
    | with_reducible apply Keeps.ite <;> intro _
    | split

theorem opEvent_keeps (s : State) (b : Nat) (k : Nat) : Keeps [.regs, .evts, .faults, .mem, .cores, .drover, .paddock] s (opEvent s b k) := by
  unfold opEvent
  repeat' first
    | dsimp only
    | with_reducible apply Keeps.refl
    | ((with_reducible apply Keeps.cut (bankTheft_keeps ..)); case hs => decide)
    | ((with_reducible apply Keeps.cut (opStart_keeps ..)); case hs => decide)
    | with_reducible apply Keeps.ite <;> intro _
    | split

theorem closeStep_keeps (s : State) (b : Nat) (v : Bank) (r : POpRun) (h : Nat) : Keeps [.regs, .evts, .faults, .mem, .cores, .drover, .paddock] s (closeStep s b v r h) := by
  unfold closeStep
  repeat' first
    | dsimp only
    | with_reducible apply Keeps.refl
    | ((with_reducible apply Keeps.cut (theft_keeps ..)); case hs => decide)
    | ((with_reducible apply Keeps.cut (countStep_keeps ..)); case hs => decide)
    | ((with_reducible apply Keeps.cut (rebuildFails_keeps ..)); case hs => decide)
    | ((with_reducible apply Keeps.cut (bankBlockFault_keeps ..)); case hs => decide)
    | ((with_reducible apply Keeps.cut (State.setBank_keeps ..)); case hs => decide)
    | ((with_reducible apply Keeps.cut (State.mapMem_keeps _ _ (fun _ hm => Memory.put_wf _ _ _ hm))); case hs => decide)
    | ((with_reducible apply Keeps.cut (State.mapMem_keeps _ _ (fun _ hm => Memory.mark_wf _ _ hm))); case hs => decide)
    | ((with_reducible apply Keeps.cut (State.mapMem_keeps _ _ (fun _ hm => Memory.putPart_wf _ _ _ hm))); case hs => decide)
    | ((with_reducible apply Keeps.cut (State.mapMem_keeps _ _ (fun _ hm => Memory.moveBlock_wf _ _ _ hm))); case hs => decide)
    | ((with_reducible apply Keeps.cut (State.mapMem_keeps _ _ (fun _ hm => Memory.zeroRange_wf _ _ _ hm))); case hs => decide)
    | ((with_reducible apply Keeps.cut (State.mapMem_keeps _ _ (fun _ hm => Memory.zeroRange_wf _ _ _ (Memory.zeroRange_wf _ _ _ hm)))); case hs => decide)
    | ((with_reducible apply Keeps.cut (State.mapMem_keeps _ _ (fun _ hm => atomicGo_wf _ _ _ _ _ hm))); case hs => decide)
    | ((with_reducible apply Keeps.cut (State.mapMem_keeps _ _ (fun _ hm => putHeader_wf _ _ _ _ hm))); case hs => decide)
    | ((with_reducible apply Keeps.cut (State.mapMem_keeps _ _ (fun _ hm => putHeader_wf _ _ _ _ (putGold_wf _ _ _ _ _ hm)))); case hs => decide)
    | ((with_reducible apply Keeps.cut (State.mapMem_keeps _ _ (fun _ hm => putHeader_wf _ _ _ _ (by split <;> first | exact putGold_wf _ _ _ _ _ hm | exact hm)))); case hs => decide)
    | ((with_reducible apply Keeps.cut (State.mapMem_keeps _ _ (fun _ hm => Memory.fromHost_wf _ _ _ _ hm))); case hs => decide)
    | ((with_reducible apply Keeps.cut (State.mapMem_keeps _ _ (fun _ hm => copyDown_wf _ _ _ _ _ hm))); case hs => decide)
    | ((with_reducible apply Keeps.cut (State.mapMem_keeps _ _ (fun _ hm => Memory.foldl_wf _ _ (fun _ _ h => freeCell_wf _ _ _ h) _ hm))); case hs => decide)
    | ((with_reducible apply Keeps.cut (State.mapMem_keeps _ _ (fun _ hm => Memory.foldl_wf _ _ (fun _ _ h => writePage_wf _ _ _ _ _ h) _ hm))); case hs => decide)
    | with_reducible apply Keeps.ite <;> intro _
    | split

theorem loadStep_keeps (s : State) (b : Nat) (v : Bank) (r : POpRun) : Keeps [.regs, .evts, .faults, .mem, .cores, .drover, .paddock] s (loadStep s b v r) := by
  unfold loadStep
  repeat' first
    | dsimp only
    | with_reducible apply Keeps.refl
    | ((with_reducible apply Keeps.cut (theft_keeps ..)); case hs => decide)
    | ((with_reducible apply Keeps.cut (countStep_keeps ..)); case hs => decide)
    | ((with_reducible apply Keeps.cut (rebuildFails_keeps ..)); case hs => decide)
    | ((with_reducible apply Keeps.cut (bankBlockFault_keeps ..)); case hs => decide)
    | ((with_reducible apply Keeps.cut (State.setBank_keeps ..)); case hs => decide)
    | ((with_reducible apply Keeps.cut (taskFault_keeps ..)); case hs => decide)
    | with_reducible apply Keeps.ite <;> intro _
    | split

theorem finishStep_keeps (s : State) (b : Nat) (v : Bank) (r : POpRun) : Keeps [.regs, .evts, .faults, .mem, .cores, .drover, .paddock] s (finishStep s b v r) := by
  unfold finishStep
  repeat' first
    | dsimp only
    | with_reducible apply Keeps.refl
    | ((with_reducible apply Keeps.cut (theft_keeps ..)); case hs => decide)
    | ((with_reducible apply Keeps.cut (opDone_keeps ..)); case hs => decide)
    | ((with_reducible apply Keeps.cut (countStep_keeps ..)); case hs => decide)
    | ((with_reducible apply Keeps.cut (State.mapMem_keeps _ _ (fun _ hm => Memory.put_wf _ _ _ hm))); case hs => decide)
    | ((with_reducible apply Keeps.cut (State.mapMem_keeps _ _ (fun _ hm => Memory.mark_wf _ _ hm))); case hs => decide)
    | ((with_reducible apply Keeps.cut (State.mapMem_keeps _ _ (fun _ hm => Memory.putPart_wf _ _ _ hm))); case hs => decide)
    | ((with_reducible apply Keeps.cut (State.mapMem_keeps _ _ (fun _ hm => Memory.moveBlock_wf _ _ _ hm))); case hs => decide)
    | ((with_reducible apply Keeps.cut (State.mapMem_keeps _ _ (fun _ hm => Memory.zeroRange_wf _ _ _ hm))); case hs => decide)
    | ((with_reducible apply Keeps.cut (State.mapMem_keeps _ _ (fun _ hm => Memory.zeroRange_wf _ _ _ (Memory.zeroRange_wf _ _ _ hm)))); case hs => decide)
    | ((with_reducible apply Keeps.cut (State.mapMem_keeps _ _ (fun _ hm => atomicGo_wf _ _ _ _ _ hm))); case hs => decide)
    | ((with_reducible apply Keeps.cut (State.mapMem_keeps _ _ (fun _ hm => putHeader_wf _ _ _ _ hm))); case hs => decide)
    | ((with_reducible apply Keeps.cut (State.mapMem_keeps _ _ (fun _ hm => putHeader_wf _ _ _ _ (putGold_wf _ _ _ _ _ hm)))); case hs => decide)
    | ((with_reducible apply Keeps.cut (State.mapMem_keeps _ _ (fun _ hm => putHeader_wf _ _ _ _ (by split <;> first | exact putGold_wf _ _ _ _ _ hm | exact hm)))); case hs => decide)
    | ((with_reducible apply Keeps.cut (State.mapMem_keeps _ _ (fun _ hm => Memory.fromHost_wf _ _ _ _ hm))); case hs => decide)
    | ((with_reducible apply Keeps.cut (State.mapMem_keeps _ _ (fun _ hm => copyDown_wf _ _ _ _ _ hm))); case hs => decide)
    | ((with_reducible apply Keeps.cut (State.mapMem_keeps _ _ (fun _ hm => Memory.foldl_wf _ _ (fun _ _ h => freeCell_wf _ _ _ h) _ hm))); case hs => decide)
    | ((with_reducible apply Keeps.cut (State.mapMem_keeps _ _ (fun _ hm => Memory.foldl_wf _ _ (fun _ _ h => writePage_wf _ _ _ _ _ h) _ hm))); case hs => decide)
    | with_reducible apply Keeps.ite <;> intro _
    | split

theorem rebuildStep_keeps (s : State) (b : Nat) : Keeps [.regs, .evts, .faults, .mem, .cores, .drover, .paddock] s (rebuildStep s b) := by
  unfold rebuildStep
  repeat' first
    | dsimp only
    | with_reducible apply Keeps.refl
    | ((with_reducible apply Keeps.cut (finishStep_keeps ..)); case hs => decide)
    | ((with_reducible apply Keeps.cut (loadStep_keeps ..)); case hs => decide)
    | ((with_reducible apply Keeps.cut (closeStep_keeps ..)); case hs => decide)
    | with_reducible apply Keeps.ite <;> intro _
    | split

theorem padkCtrl_keeps (s : State) (v : Word) : Keeps [.regs, .faults] s (padkCtrl s v) := by
  unfold padkCtrl
  repeat' first
    | dsimp only
    | with_reducible apply Keeps.refl
    | ((with_reducible apply Keeps.cut (State.fault_keeps ..)); case hs => decide)
    | ((with_reducible apply Keeps.cut (State.setReg_keeps ..)); case hs => decide)
    | with_reducible apply Keeps.ite <;> intro _
    | split

end Sys2Proof.Machine
end

