-- ==== Sys2Proof/Laws/Ralso.lean ====
section
/-! SUPPORT. What the operations of Machine/Ralso.lean may change. -/

set_option linter.unusedTactic false
set_option linter.unreachableTactic false

namespace Sys2Proof.Machine

theorem ralsoFault_keeps (s : State) (port : Nat) (c : Nat) (t : Nat) (code : Nat) (node : BitVec 16) (addr : Option Nat) (d0 : Word) (d1 : Word) : Keeps [.faults, .cores, .drover] s (ralsoFault s port c t code node addr d0 d1) := by
  unfold ralsoFault
  repeat' first
    | dsimp only
    | with_reducible apply Keeps.refl
    | ((with_reducible apply Keeps.cut (wantAbort_keeps ..)); case hs => decide)
    | ((with_reducible apply Keeps.cut (State.fault_keeps ..)); case hs => decide)

theorem issueRemote_keeps (c : Nat) (s : State) (p : Prog) (w : List Word) : Keeps [.regs, .evts, .faults, .cores, .drover, .fabric] s (issueRemote c s p w) := by
  unfold issueRemote
  repeat' first
    | dsimp only
    | with_reducible apply Keeps.refl
    | ((with_reducible apply Keeps.cut (ralsoFault_keeps ..)); case hs => decide)
    | ((with_reducible apply Keeps.cut (advance_keeps ..)); case hs => decide)
    | ((with_reducible apply Keeps.cut (pull_keeps ..)); case hs => decide)
    | ((with_reducible apply Keeps.cut (feed_keeps ..)); case hs => decide)
    | ((with_reducible apply Keeps.cut (State.mapFabric_keeps ..)); case hs => decide)
    | with_reducible apply Keeps.ite <;> intro _
    | split

theorem sendRequest_keeps (s : State) (p : Packet) (w : Pending) : Keeps [.regs, .evts, .fabric] s (sendRequest s p w) := by
  unfold sendRequest
  repeat' first
    | dsimp only
    | with_reducible apply Keeps.refl
    | ((with_reducible apply Keeps.cut (sendOwn_keeps ..)); case hs => decide)
    | ((with_reducible apply Keeps.cut (State.mapFabric_keeps ..)); case hs => decide)

theorem launchOp_keeps (s : State) (o : RemOp) : Keeps [.regs, .evts, .faults, .cores, .drover, .fabric] s (launchOp s o) := by
  unfold launchOp
  repeat' first
    | dsimp only
    | with_reducible apply Keeps.refl
    | ((with_reducible apply Keeps.cut (sendRequest_keeps ..)); case hs => decide)
    | ((with_reducible apply Keeps.cut (pull_keeps ..)); case hs => decide)
    | ((with_reducible apply Keeps.cut (feed_keeps ..)); case hs => decide)
    | ((with_reducible apply Keeps.cut (State.mapFabric_keeps ..)); case hs => decide)
    | with_reducible apply Keeps.ite <;> intro _
    | split

theorem launchAll_keeps (s : State) : Keeps [.regs, .evts, .faults, .cores, .drover, .fabric] s (launchAll s) := by
  unfold launchAll
  repeat' first
    | dsimp only
    | with_reducible apply Keeps.refl
    | ((with_reducible apply Keeps.cut (launchOp_keeps ..)); case hs => decide)
    | (with_reducible apply Keeps.foldl) <;> try intro _ _
    | with_reducible apply Keeps.ite <;> intro _
    | split

theorem headAsk_keeps (s : State) (c : Nat) (i : Nat) : Keeps [.regs, .evts, .fabric] s (headAsk s c i) := by
  unfold headAsk
  repeat' first
    | dsimp only
    | with_reducible apply Keeps.refl
    | ((with_reducible apply Keeps.cut (sendRequest_keeps ..)); case hs => decide)
    | with_reducible apply Keeps.ite <;> intro _
    | split

theorem touchPort_keeps (s : State) (p : Nat) : Keeps [.power] s (touchPort s p) := by
  unfold touchPort
  repeat' first
    | dsimp only
    | with_reducible apply Keeps.refl
    | ((with_reducible apply Keeps.cut (State.setDom_keeps ..)); case hs => decide)

theorem sendNak_keeps (s : State) (p : Nat) : Keeps [.out] s (sendNak s p) := by
  unfold sendNak
  repeat' first
    | dsimp only
    | with_reducible apply Keeps.refl
    | ((with_reducible apply Keeps.cut (State.emit_keeps ..)); case hs => decide)

theorem startTimer_keeps (s : State) (p : Packet) : Keeps [.fabric] s (startTimer s p) := by
  unfold startTimer
  repeat' first
    | dsimp only
    | with_reducible apply Keeps.refl
    | ((with_reducible apply Keeps.cut (State.mapFabric_keeps ..)); case hs => decide)
    | with_reducible apply Keeps.ite <;> intro _
    | split

theorem sendFlits_keeps (s : State) (p : Nat) (o : OutPkt) : Keeps [.regs, .fabric, .power, .out] s (sendFlits s p o) := by
  unfold sendFlits
  repeat' first
    | dsimp only
    | with_reducible apply Keeps.refl
    | ((with_reducible apply Keeps.cut (startTimer_keeps ..)); case hs => decide)
    | ((with_reducible apply Keeps.cut (touchPort_keeps ..)); case hs => decide)
    | ((with_reducible apply Keeps.cut (settle_keeps ..)); case hs => decide)
    | ((with_reducible apply Keeps.cut (State.setPort_keeps ..)); case hs => decide)
    | ((with_reducible apply Keeps.cut (State.bump_keeps ..)); case hs => decide)
    | ((with_reducible apply Keeps.cut (countFlits_keeps ..)); case hs => decide)
    | ((with_reducible apply Keeps.cut (State.emit_keeps ..)); case hs => decide)
    | (with_reducible apply Keeps.foldl) <;> try intro _ _
    | with_reducible apply Keeps.ite <;> intro _
    | split

theorem packetSend_keeps (s : State) (p : Nat) : Keeps [.regs, .evts, .faults, .cores, .drover, .fabric, .power, .sharal, .out] s (packetSend s p) := by
  unfold packetSend
  repeat' first
    | dsimp only
    | with_reducible apply Keeps.refl
    | ((with_reducible apply Keeps.cut (sendFlits_keeps ..)); case hs => decide)
    | ((with_reducible apply Keeps.cut (launchAll_keeps ..)); case hs => decide)
    | ((with_reducible apply Keeps.cut (startWake_keeps ..)); case hs => decide)
    | ((with_reducible apply Keeps.cut (State.emit_keeps ..)); case hs => decide)
    | with_reducible apply Keeps.ite <;> intro _
    | split

theorem takeMgmt_keeps (s : State) (k : Packet) (v : Via) : Keeps [.fabric] s (takeMgmt s k v) := by
  unfold takeMgmt
  repeat' first
    | dsimp only
    | with_reducible apply Keeps.refl
    | ((with_reducible apply Keeps.cut (enqueueLocal_keeps ..)); case hs => decide)
    | with_reducible apply Keeps.ite <;> intro _
    | split

theorem forwardPacket_keeps (s : State) (k : Packet) (v : Via) : Keeps [.regs, .evts, .fabric] s (forwardPacket s k v) := by
  unfold forwardPacket
  repeat' first
    | dsimp only
    | with_reducible apply Keeps.refl
    | ((with_reducible apply Keeps.cut (takeMgmt_keeps ..)); case hs => decide)
    | ((with_reducible apply Keeps.cut (clearPrunes_keeps ..)); case hs => decide)
    | ((with_reducible apply Keeps.cut (routeMulticast_keeps ..)); case hs => decide)
    | ((with_reducible apply Keeps.cut (routeUnicast_keeps ..)); case hs => decide)
    | ((with_reducible apply Keeps.cut (countNoRoute_keeps ..)); case hs => decide)
    | with_reducible apply Keeps.ite <;> intro _
    | split

theorem packetForward_keeps (s : State) (p : Nat) (vc : Nat) : Keeps [.regs, .evts, .fabric, .power, .sharal, .out] s (packetForward s p vc) := by
  unfold packetForward
  repeat' first
    | dsimp only
    | with_reducible apply Keeps.refl
    | ((with_reducible apply Keeps.cut (forwardPacket_keeps ..)); case hs => decide)
    | ((with_reducible apply Keeps.cut (settle_keeps ..)); case hs => decide)
    | ((with_reducible apply Keeps.cut (State.setPort_keeps ..)); case hs => decide)
    | ((with_reducible apply Keeps.cut (startWake_keeps ..)); case hs => decide)
    | with_reducible apply Keeps.ite <;> intro _
    | split

theorem dropLocal_keeps (s : State) (o : OutPkt) : Keeps [.fabric, .out] s (dropLocal s o) := by
  unfold dropLocal
  repeat' first
    | dsimp only
    | with_reducible apply Keeps.refl
    | ((with_reducible apply Keeps.cut (settle_keeps ..)); case hs => decide)
    | ((with_reducible apply Keeps.cut (State.mapFabric_keeps ..)); case hs => decide)

theorem takeSlot_keeps (s : State) (a : Nat) (n : Nat) : Keeps [.regs, .slots, .herd, .power] s (takeSlot s a n) := by
  unfold takeSlot
  repeat' first
    | dsimp only
    | with_reducible apply Keeps.refl
    | ((with_reducible apply Keeps.cut (touchDom_keeps ..)); case hs => decide)
    | ((with_reducible apply Keeps.cut (countSlots_keeps ..)); case hs => decide)
    | ((with_reducible apply Keeps.cut (takePort_keeps ..)); case hs => decide)
    | ((with_reducible apply Keeps.cut (State.bump_keeps ..)); case hs => decide)
    | with_reducible apply Keeps.ite <;> intro _
    | split
    | with_reducible exact (Keeps.herd s _).mono (by decide)
    | ((with_reducible apply Keeps.cut (Keeps.herd ..)); case hs => decide)

theorem ackWith_keeps (s : State) (o : OutPkt) (status : Nat) : Keeps [.regs, .evts, .fabric, .out] s (ackWith s o status) := by
  unfold ackWith
  repeat' first
    | dsimp only
    | with_reducible apply Keeps.refl
    | ((with_reducible apply Keeps.cut (dropLocal_keeps ..)); case hs => decide)
    | ((with_reducible apply Keeps.cut (respond_keeps ..)); case hs => decide)
    | ((with_reducible apply Keeps.cut (State.bump_keeps ..)); case hs => decide)
    | ((with_reducible apply Keeps.cut (State.pulse_keeps ..)); case hs => decide)
    | with_reducible apply Keeps.ite <;> intro _
    | split

theorem withEntry_cut {s : State} {o : OutPkt} {permBit : Nat} {go : State → Nat → Nat → State} {ps : List Part} {s0 : State} (h0 : Keeps ps s0 s) (hgo0 : ∀ (y0_0 : State) (y0_1 : Nat) (y0_2 : Nat), Keeps ps y0_0 (go y0_0 y0_1 y0_2))
    (hs : [.regs, .evts, .slots, .herd, .fabric, .host, .power, .sharal, .out] ⊆ ps) : Keeps ps s0 (withEntry s o permBit go) := by
  unfold withEntry
  repeat' first
    | dsimp only
    | with_reducible apply Keeps.refl
    | exact h0
    | ((with_reducible apply Keeps.cut (hgo0 ..)); case hs => exact fun _ hm => hm)
    | ((with_reducible apply Keeps.cut (ackWith_keeps ..)); case hs => exact List.Subset.trans (by decide) hs)
    | ((with_reducible apply Keeps.cut (takeSlot_keeps ..)); case hs => exact List.Subset.trans (by decide) hs)
    | ((with_reducible apply Keeps.cut (startWake_keeps ..)); case hs => exact List.Subset.trans (by decide) hs)
    | with_reducible apply Keeps.ite <;> intro _
    | split

theorem oneDone_keeps (s : State) (o : OutPkt) (k : Packet) : Keeps [.fabric] s (oneDone s o k) := by
  unfold oneDone
  repeat' first
    | dsimp only
    | with_reducible apply Keeps.refl
    | ((with_reducible apply Keeps.cut (State.mapFabric_keeps ..)); case hs => decide)
    | with_reducible apply Keeps.ite <;> intro _
    | split

theorem writeReceive_keeps (s : State) (o : OutPkt) : Keeps [.regs, .evts, .mem, .slots, .herd, .fabric, .host, .power, .sharal, .out] s (writeReceive s o) := by
  unfold writeReceive
  repeat' first
    | dsimp only
    | with_reducible apply Keeps.refl
    | ((with_reducible apply Keeps.cut (oneDone_keeps ..)); case hs => decide)
    | ((with_reducible apply withEntry_cut); case hs => decide)
    | ((with_reducible apply Keeps.cut (ackWith_keeps ..)); case hs => decide)
    | ((with_reducible apply Keeps.cut (State.mapMem_keeps _ _ (fun _ hm => Memory.put_wf _ _ _ hm))); case hs => decide)
    | ((with_reducible apply Keeps.cut (State.mapMem_keeps _ _ (fun _ hm => Memory.mark_wf _ _ hm))); case hs => decide)
    | ((with_reducible apply Keeps.cut (State.mapMem_keeps _ _ (fun _ hm => Memory.putPart_wf _ _ _ hm))); case hs => decide)
    | ((with_reducible apply Keeps.cut (State.mapMem_keeps _ _ (fun _ hm => Memory.moveBlock_wf _ _ _ hm))); case hs => decide)
    | ((with_reducible apply Keeps.cut (State.mapMem_keeps _ _ (fun _ hm => Memory.zeroRange_wf _ _ _ hm))); case hs => decide)
    | ((with_reducible apply Keeps.cut (State.mapMem_keeps _ _ (fun _ hm => Memory.zeroRange_wf _ _ _ (Memory.zeroRange_wf _ _ _ hm)))); case hs => decide)
    | ((with_reducible apply Keeps.cut (State.mapMem_keeps _ _ (fun _ hm => atomicGo_wf _ _ _ _ _ hm))); case hs => decide)
    | ((with_reducible apply Keeps.cut (State.mapMem_keeps _ _ (fun _ hm => putHeader_wf _ _ _ _ hm))); case hs => decide)
    | ((with_reducible apply Keeps.cut (State.mapMem_keeps _ _ (fun _ hm => putHeader_wf _ _ _ _ (putGold_wf _ _ _ _ _ hm)))); case hs => decide)
    | ((with_reducible apply Keeps.cut (State.mapMem_keeps _ _ (fun _ hm => putHeader_wf _ _ _ _ (by split <;> first | exact putGold_wf _ _ _ _ _ hm | exact hm)))); case hs => decide)
    | ((with_reducible apply Keeps.cut (State.mapMem_keeps _ _ (fun _ hm => Memory.fromHost_wf _ _ _ _ hm))); case hs => decide)
    | ((with_reducible apply Keeps.cut (State.mapMem_keeps _ _ (fun _ hm => copyDown_wf _ _ _ _ _ hm))); case hs => decide)
    | ((with_reducible apply Keeps.cut (State.mapMem_keeps _ _ (fun _ hm => Memory.foldl_wf _ _ (fun _ _ h => freeCell_wf _ _ _ h) _ hm))); case hs => decide)
    | ((with_reducible apply Keeps.cut (State.mapMem_keeps _ _ (fun _ hm => Memory.foldl_wf _ _ (fun _ _ h => writePage_wf _ _ _ _ _ h) _ hm))); case hs => decide)
    | with_reducible apply Keeps.ite <;> intro _
    | split
    | intro _
    | exact Keeps.refl _ _

theorem withNext_cut {s : State} {t : Nat} {go : State → OutPkt → State} {ps : List Part} {s0 : State} (h0 : Keeps ps s0 s) (hgo0 : ∀ (y0_0 : State) (y0_1 : OutPkt), Keeps ps y0_0 (go y0_0 y0_1))
    (hs : [] ⊆ ps) : Keeps ps s0 (withNext s t go) := by
  unfold withNext
  repeat' first
    | dsimp only
    | with_reducible apply Keeps.refl
    | exact h0
    | ((with_reducible apply Keeps.cut (hgo0 ..)); case hs => exact fun _ hm => hm)
    | with_reducible apply Keeps.ite <;> intro _
    | split

theorem readReceive_keeps (s : State) (o : OutPkt) : Keeps [.regs, .evts, .slots, .herd, .fabric, .host, .power, .sharal, .out] s (readReceive s o) := by
  unfold readReceive
  repeat' first
    | dsimp only
    | with_reducible apply Keeps.refl
    | ((with_reducible apply Keeps.cut (oneDone_keeps ..)); case hs => decide)
    | ((with_reducible apply withEntry_cut); case hs => decide)
    | ((with_reducible apply Keeps.cut (ackWith_keeps ..)); case hs => decide)
    | ((with_reducible apply Keeps.cut (dropLocal_keeps ..)); case hs => decide)
    | ((with_reducible apply Keeps.cut (respond_keeps ..)); case hs => decide)
    | with_reducible apply Keeps.ite <;> intro _
    | split
    | intro _
    | exact Keeps.refl _ _

theorem atomicReceive_keeps (s : State) (o : OutPkt) : Keeps [.regs, .evts, .mem, .slots, .herd, .fabric, .host, .power, .sharal, .out] s (atomicReceive s o) := by
  unfold atomicReceive
  repeat' first
    | dsimp only
    | with_reducible apply Keeps.refl
    | ((with_reducible apply Keeps.cut (oneDone_keeps ..)); case hs => decide)
    | ((with_reducible apply withEntry_cut); case hs => decide)
    | ((with_reducible apply Keeps.cut (ackWith_keeps ..)); case hs => decide)
    | ((with_reducible apply Keeps.cut (State.mapMem_keeps _ _ (fun _ hm => Memory.put_wf _ _ _ hm))); case hs => decide)
    | ((with_reducible apply Keeps.cut (State.mapMem_keeps _ _ (fun _ hm => Memory.mark_wf _ _ hm))); case hs => decide)
    | ((with_reducible apply Keeps.cut (State.mapMem_keeps _ _ (fun _ hm => Memory.putPart_wf _ _ _ hm))); case hs => decide)
    | ((with_reducible apply Keeps.cut (State.mapMem_keeps _ _ (fun _ hm => Memory.moveBlock_wf _ _ _ hm))); case hs => decide)
    | ((with_reducible apply Keeps.cut (State.mapMem_keeps _ _ (fun _ hm => Memory.zeroRange_wf _ _ _ hm))); case hs => decide)
    | ((with_reducible apply Keeps.cut (State.mapMem_keeps _ _ (fun _ hm => Memory.zeroRange_wf _ _ _ (Memory.zeroRange_wf _ _ _ hm)))); case hs => decide)
    | ((with_reducible apply Keeps.cut (State.mapMem_keeps _ _ (fun _ hm => atomicGo_wf _ _ _ _ _ hm))); case hs => decide)
    | ((with_reducible apply Keeps.cut (State.mapMem_keeps _ _ (fun _ hm => putHeader_wf _ _ _ _ hm))); case hs => decide)
    | ((with_reducible apply Keeps.cut (State.mapMem_keeps _ _ (fun _ hm => putHeader_wf _ _ _ _ (putGold_wf _ _ _ _ _ hm)))); case hs => decide)
    | ((with_reducible apply Keeps.cut (State.mapMem_keeps _ _ (fun _ hm => putHeader_wf _ _ _ _ (by split <;> first | exact putGold_wf _ _ _ _ _ hm | exact hm)))); case hs => decide)
    | ((with_reducible apply Keeps.cut (State.mapMem_keeps _ _ (fun _ hm => Memory.fromHost_wf _ _ _ _ hm))); case hs => decide)
    | ((with_reducible apply Keeps.cut (State.mapMem_keeps _ _ (fun _ hm => copyDown_wf _ _ _ _ _ hm))); case hs => decide)
    | ((with_reducible apply Keeps.cut (State.mapMem_keeps _ _ (fun _ hm => Memory.foldl_wf _ _ (fun _ _ h => freeCell_wf _ _ _ h) _ hm))); case hs => decide)
    | ((with_reducible apply Keeps.cut (State.mapMem_keeps _ _ (fun _ hm => Memory.foldl_wf _ _ (fun _ _ h => writePage_wf _ _ _ _ _ h) _ hm))); case hs => decide)
    | with_reducible apply Keeps.ite <;> intro _
    | split
    | intro _
    | exact Keeps.refl _ _

theorem doorbellReceive_keeps (s : State) : Keeps [.regs, .evts, .fabric, .out] s (doorbellReceive s) := by
  unfold doorbellReceive
  repeat' first
    | dsimp only
    | with_reducible apply Keeps.refl
    | ((with_reducible apply Keeps.cut (ackWith_keeps ..)); case hs => decide)
    | ((with_reducible apply Keeps.cut (dropLocal_keeps ..)); case hs => decide)
    | ((with_reducible apply Keeps.cut (State.mapFabric_keeps ..)); case hs => decide)
    | with_reducible apply Keeps.ite <;> intro _
    | split

theorem doorbellHandover_keeps (s : State) : Keeps [.regs, .evts, .drover, .fabric, .power, .sharal] s (doorbellHandover s) := by
  unfold doorbellHandover
  repeat' first
    | dsimp only
    | with_reducible apply Keeps.refl
    | ((with_reducible apply Keeps.cut (respond_keeps ..)); case hs => decide)
    | ((with_reducible apply Keeps.cut (State.mapFabric_keeps ..)); case hs => decide)
    | ((with_reducible apply Keeps.cut (State.mapDrover_keeps ..)); case hs => decide)
    | ((with_reducible apply Keeps.cut (startWake_keeps ..)); case hs => decide)
    | ((with_reducible apply Keeps.cut (State.bump_keeps ..)); case hs => decide)
    | with_reducible apply Keeps.ite <;> intro _
    | split

theorem dropPend_keeps (s : State) (p : Pending) : Keeps [.fabric] s (dropPend s p) := by
  unfold dropPend
  repeat' first
    | dsimp only
    | with_reducible apply Keeps.refl
    | ((with_reducible apply Keeps.cut (State.mapFabric_keeps ..)); case hs => decide)

theorem caughtUp_keeps (s : State) (p : Pending) (k : Packet) : Keeps [.regs, .mem, .slots, .cores] s (caughtUp s p k) := by
  unfold caughtUp
  repeat' first
    | dsimp only
    | with_reducible apply Keeps.refl
    | ((with_reducible apply Keeps.cut (ringPut_keeps ..)); case hs => decide)
    | ((with_reducible apply Keeps.cut (State.bump_keeps ..)); case hs => decide)
    | with_reducible apply Keeps.ite <;> intro _
    | split

theorem deliver_keeps (s : State) (p : Pending) (bytes : List Byte) : Keeps [.fabric] s (deliver s p bytes) := by
  unfold deliver
  repeat' first
    | dsimp only
    | with_reducible apply Keeps.refl
    | ((with_reducible apply Keeps.cut (State.mapFabric_keeps ..)); case hs => decide)
    | with_reducible apply Keeps.ite <;> intro _
    | split

theorem readDataReceive_keeps (s : State) : Keeps [.regs, .evts, .faults, .mem, .slots, .cores, .drover, .fabric, .out] s (readDataReceive s) := by
  unfold readDataReceive
  repeat' first
    | dsimp only
    | with_reducible apply Keeps.refl
    | ((with_reducible apply Keeps.cut (deliver_keeps ..)); case hs => decide)
    | ((with_reducible apply Keeps.cut (caughtUp_keeps ..)); case hs => decide)
    | ((with_reducible apply Keeps.cut (dropPend_keeps ..)); case hs => decide)
    | ((with_reducible apply Keeps.cut (dropLocal_keeps ..)); case hs => decide)
    | ((with_reducible apply Keeps.cut (pull_keeps ..)); case hs => decide)
    | ((with_reducible apply Keeps.cut (taskFault_keeps ..)); case hs => decide)
    | ((with_reducible apply Keeps.cut (State.bump_keeps ..)); case hs => decide)
    | ((with_reducible apply Keeps.cut (State.pulse_keeps ..)); case hs => decide)
    | with_reducible apply Keeps.ite <;> intro _
    | split

theorem ackReceive_keeps (s : State) : Keeps [.faults, .cores, .drover, .fabric, .out] s (ackReceive s) := by
  unfold ackReceive
  repeat' first
    | dsimp only
    | with_reducible apply Keeps.refl
    | ((with_reducible apply Keeps.cut (dropPend_keeps ..)); case hs => decide)
    | ((with_reducible apply Keeps.cut (dropLocal_keeps ..)); case hs => decide)
    | ((with_reducible apply Keeps.cut (ralsoFault_keeps ..)); case hs => decide)
    | with_reducible apply Keeps.ite <;> intro _
    | split

theorem ralsoTimeout_keeps (s : State) (rtag : BitVec 16) : Keeps [.evts, .faults, .cores, .drover, .fabric] s (ralsoTimeout s rtag) := by
  unfold ralsoTimeout
  repeat' first
    | dsimp only
    | with_reducible apply Keeps.refl
    | ((with_reducible apply Keeps.cut (dropPend_keeps ..)); case hs => decide)
    | ((with_reducible apply Keeps.cut (ralsoFault_keeps ..)); case hs => decide)
    | ((with_reducible apply Keeps.cut (State.pulse_keeps ..)); case hs => decide)
    | with_reducible apply Keeps.ite <;> intro _
    | split

theorem pruneBranch_keeps (s : State) (g : Nat) (gen : Nat) (port : Nat) : Keeps [.regs, .fabric, .out] s (pruneBranch s g gen port) := by
  unfold pruneBranch
  repeat' first
    | dsimp only
    | with_reducible apply Keeps.refl
    | ((with_reducible apply Keeps.cut (settle_keeps ..)); case hs => decide)
    | ((with_reducible apply Keeps.cut (State.setPort_keeps ..)); case hs => decide)
    | ((with_reducible apply Keeps.cut (State.mapFabric_keeps ..)); case hs => decide)
    | ((with_reducible apply Keeps.cut (State.bump_keeps ..)); case hs => decide)
    | with_reducible apply Keeps.ite <;> intro _
    | split

theorem headTakes_keeps (s : State) (c : Nat) (i : Nat) (v : ChSlot) (k : Packet) : Keeps [.regs, .evts, .faults, .mem, .slots, .cores, .drover, .sharal] s (headTakes s c i v k) := by
  unfold headTakes
  repeat' first
    | dsimp only
    | with_reducible apply Keeps.refl
    | ((with_reducible apply Keeps.cut (detachMember_keeps ..)); case hs => decide)
    | ((with_reducible apply Keeps.cut (ringPut_keeps ..)); case hs => decide)
    | with_reducible apply Keeps.ite <;> intro _
    | split

theorem mcBlockReceive_keeps (s : State) : Keeps [.regs, .evts, .faults, .mem, .slots, .cores, .drover, .fabric, .sharal, .out] s (mcBlockReceive s) := by
  unfold mcBlockReceive
  repeat' first
    | dsimp only
    | with_reducible apply Keeps.refl
    | ((with_reducible apply Keeps.cut (headTakes_keeps ..)); case hs => decide)
    | ((with_reducible apply Keeps.cut (pruneBranch_keeps ..)); case hs => decide)
    | ((with_reducible apply Keeps.cut (dropLocal_keeps ..)); case hs => decide)
    | ((with_reducible apply Keeps.cut (countNoRoute_keeps ..)); case hs => decide)
    | with_reducible apply Keeps.ite <;> intro _
    | split

theorem mcMarkerReceive_keeps (s : State) : Keeps [.regs, .evts, .faults, .cores, .drover, .fabric, .sharal, .out] s (mcMarkerReceive s) := by
  unfold mcMarkerReceive
  repeat' first
    | dsimp only
    | with_reducible apply Keeps.refl
    | ((with_reducible apply Keeps.cut (dropLocal_keeps ..)); case hs => decide)
    | ((with_reducible apply Keeps.cut (detachMember_keeps ..)); case hs => decide)
    | ((with_reducible apply Keeps.cut (takeMark_keeps ..)); case hs => decide)
    | ((with_reducible apply Keeps.cut (forwardMark_keeps ..)); case hs => decide)
    | ((with_reducible apply Keeps.cut (countNoRoute_keeps ..)); case hs => decide)
    | with_reducible apply Keeps.ite <;> intro _
    | split

theorem mcastPrune_keeps (s : State) (p : Nat) : Keeps [.regs, .fabric, .out] s (mcastPrune s p) := by
  unfold mcastPrune
  repeat' first
    | dsimp only
    | with_reducible apply Keeps.refl
    | ((with_reducible apply Keeps.cut (pruneBranch_keeps ..)); case hs => decide)
    | with_reducible apply Keeps.ite <;> intro _
    | split

theorem leaveUp_keeps (s : State) (p : Nat) (st : LinkSt) : Keeps [.evts, .fabric] s (leaveUp s p st) := by
  unfold leaveUp
  repeat' first
    | dsimp only
    | with_reducible apply Keeps.refl
    | ((with_reducible apply Keeps.cut (State.setPort_keeps ..)); case hs => decide)
    | ((with_reducible apply Keeps.cut (State.pulse_keeps ..)); case hs => decide)
    | with_reducible apply Keeps.ite <;> intro _
    | split

theorem startRetrain_keeps (s : State) (p : Nat) : Keeps [.regs, .evts, .fabric] s (startRetrain s p) := by
  unfold startRetrain
  repeat' first
    | dsimp only
    | with_reducible apply Keeps.refl
    | ((with_reducible apply Keeps.cut (leaveUp_keeps ..)); case hs => decide)
    | ((with_reducible apply Keeps.cut (State.setPort_keeps ..)); case hs => decide)
    | ((with_reducible apply Keeps.cut (State.bump_keeps ..)); case hs => decide)

theorem nakReceive_keeps (s : State) (p : Nat) (seq : BitVec 12) : Keeps [.regs, .evts, .fabric, .out] s (nakReceive s p seq) := by
  unfold nakReceive
  repeat' first
    | dsimp only
    | with_reducible apply Keeps.refl
    | ((with_reducible apply Keeps.cut (startRetrain_keeps ..)); case hs => decide)
    | ((with_reducible apply Keeps.cut (State.setPort_keeps ..)); case hs => decide)
    | ((with_reducible apply Keeps.cut (State.bump_keeps ..)); case hs => decide)
    | ((with_reducible apply Keeps.cut (State.emit_keeps ..)); case hs => decide)
    | ((with_reducible apply Keeps.cut (State.pulse_keeps ..)); case hs => decide)
    | (with_reducible apply Keeps.foldl) <;> try intro _ _
    | with_reducible apply Keeps.ite <;> intro _
    | split

theorem takeControl_keeps (s : State) (p : Nat) (ws : List Word) : Keeps [.regs, .evts, .fabric, .out] s (takeControl s p ws) := by
  unfold takeControl
  repeat' first
    | dsimp only
    | with_reducible apply Keeps.refl
    | ((with_reducible apply Keeps.cut (nakReceive_keeps ..)); case hs => decide)
    | ((with_reducible apply Keeps.cut (State.setPort_keeps ..)); case hs => decide)
    | with_reducible apply Keeps.ite <;> intro _
    | split

theorem spread_keeps (s : State) (stamp : Nat) (bytes : List Byte) (last : Bool) : Keeps [.fabric] s (spread s stamp bytes last) := by
  unfold spread
  repeat' first
    | dsimp only
    | with_reducible apply Keeps.refl
    | ((with_reducible apply Keeps.cut (State.setPort_keeps ..)); case hs => decide)
    | ((with_reducible apply Keeps.cut (State.mapFabric_keeps ..)); case hs => decide)
    | (with_reducible apply Keeps.foldl) <;> try intro _ _
    | with_reducible apply Keeps.ite <;> intro _
    | split

theorem takeData_keeps (s : State) (p : Nat) (bytes : List Byte) : Keeps [.regs, .fabric, .out] s (takeData s p bytes) := by
  unfold takeData
  repeat' first
    | dsimp only
    | with_reducible apply Keeps.refl
    | ((with_reducible apply Keeps.cut (spread_keeps ..)); case hs => decide)
    | ((with_reducible apply Keeps.cut (settle_keeps ..)); case hs => decide)
    | ((with_reducible apply Keeps.cut (State.setPort_keeps ..)); case hs => decide)
    | ((with_reducible apply Keeps.cut (State.bump_keeps ..)); case hs => decide)
    | ((with_reducible apply Keeps.cut (countFlits_keeps ..)); case hs => decide)
    | with_reducible apply Keeps.ite <;> intro _
    | split

theorem takeHeader_keeps (s : State) (p : Nat) (ws : List Word) : Keeps [.regs, .fabric, .power, .out] s (takeHeader s p ws) := by
  unfold takeHeader
  repeat' first
    | dsimp only
    | with_reducible apply Keeps.refl
    | ((with_reducible apply Keeps.cut (touchPort_keeps ..)); case hs => decide)
    | ((with_reducible apply Keeps.cut (dropPartial_keeps ..)); case hs => decide)
    | ((with_reducible apply Keeps.cut (nextStamp_keeps ..)); case hs => decide)
    | ((with_reducible apply Keeps.cut (State.setPort_keeps ..)); case hs => decide)
    | ((with_reducible apply Keeps.cut (State.bump_keeps ..)); case hs => decide)
    | ((with_reducible apply Keeps.cut (countFlits_keeps ..)); case hs => decide)
    | with_reducible apply Keeps.ite <;> intro _
    | split

theorem takeFlit_keeps (s : State) (p : Nat) (f : Flit) : Keeps [.regs, .evts, .fabric, .power, .out] s (takeFlit s p f) := by
  unfold takeFlit
  repeat' first
    | dsimp only
    | with_reducible apply Keeps.refl
    | ((with_reducible apply Keeps.cut (takeHeader_keeps ..)); case hs => decide)
    | ((with_reducible apply Keeps.cut (takeData_keeps ..)); case hs => decide)
    | ((with_reducible apply Keeps.cut (takeControl_keeps ..)); case hs => decide)
    | with_reducible apply Keeps.ite <;> intro _
    | split

theorem refuseCodeword_keeps (s : State) (p : Nat) : Keeps [.regs, .evts, .fabric, .out] s (refuseCodeword s p) := by
  unfold refuseCodeword
  repeat' first
    | dsimp only
    | with_reducible apply Keeps.refl
    | ((with_reducible apply Keeps.cut (startRetrain_keeps ..)); case hs => decide)
    | ((with_reducible apply Keeps.cut (sendNak_keeps ..)); case hs => decide)
    | ((with_reducible apply Keeps.cut (State.setPort_keeps ..)); case hs => decide)
    | with_reducible apply Keeps.ite <;> intro _
    | split

theorem codewordReceive_keeps (s : State) (p : Nat) (fec : Fec) (w : Codeword) : Keeps [.regs, .evts, .fabric, .power, .out] s (codewordReceive s p fec w) := by
  unfold codewordReceive
  repeat' first
    | dsimp only
    | with_reducible apply Keeps.refl
    | ((with_reducible apply Keeps.cut (refuseCodeword_keeps ..)); case hs => decide)
    | ((with_reducible apply Keeps.cut (takeFlit_keeps ..)); case hs => decide)
    | ((with_reducible apply Keeps.cut (sendControl_keeps ..)); case hs => decide)
    | ((with_reducible apply Keeps.cut (State.setPort_keeps ..)); case hs => decide)
    | ((with_reducible apply Keeps.cut (State.bump_keeps ..)); case hs => decide)
    | (with_reducible apply Keeps.foldl) <;> try intro _ _
    | with_reducible apply Keeps.ite <;> intro _
    | split

theorem controlFlitReceive_keeps (s : State) (p : Nat) (f : Flit) : Keeps [.regs, .evts, .fabric, .out] s (controlFlitReceive s p f) := by
  unfold controlFlitReceive
  repeat' first
    | dsimp only
    | with_reducible apply Keeps.refl
    | ((with_reducible apply Keeps.cut (takeControl_keeps ..)); case hs => decide)
    | ((with_reducible apply Keeps.cut (State.bump_keeps ..)); case hs => decide)
    | with_reducible apply Keeps.ite <;> intro _
    | split

theorem dropQueued_keeps (s : State) (p : Nat) : Keeps [.regs, .evts, .fabric, .out] s (dropQueued s p) := by
  unfold dropQueued
  repeat' first
    | dsimp only
    | with_reducible apply Keeps.refl
    | ((with_reducible apply Keeps.cut (settle_keeps ..)); case hs => decide)
    | ((with_reducible apply Keeps.cut (respond_keeps ..)); case hs => decide)
    | ((with_reducible apply Keeps.cut (countNoRoute_keeps ..)); case hs => decide)
    | ((with_reducible apply Keeps.cut (State.setPort_keeps ..)); case hs => decide)
    | (with_reducible apply Keeps.foldl) <;> try intro _ _
    | with_reducible apply Keeps.ite <;> intro _
    | split

theorem linkFalls_keeps (s : State) (p : Nat) : Keeps [.regs, .evts, .fabric, .out] s (linkFalls s p) := by
  unfold linkFalls
  repeat' first
    | dsimp only
    | with_reducible apply Keeps.refl
    | ((with_reducible apply Keeps.cut (dropQueued_keeps ..)); case hs => decide)
    | ((with_reducible apply Keeps.cut (leaveUp_keeps ..)); case hs => decide)
    | ((with_reducible apply Keeps.cut (dropPartial_keeps ..)); case hs => decide)
    | ((with_reducible apply Keeps.cut (State.setPort_keeps ..)); case hs => decide)

theorem retrainTimeout_keeps (s : State) (p : Nat) : Keeps [.regs, .evts, .fabric, .out] s (retrainTimeout s p) := by
  unfold retrainTimeout
  repeat' first
    | dsimp only
    | with_reducible apply Keeps.refl
    | ((with_reducible apply Keeps.cut (linkFalls_keeps ..)); case hs => decide)
    | with_reducible apply Keeps.ite <;> intro _
    | split

theorem startTraining_keeps (s : State) (p : Nat) : Keeps [.regs, .evts, .fabric] s (startTraining s p) := by
  unfold startTraining
  repeat' first
    | dsimp only
    | with_reducible apply Keeps.refl
    | ((with_reducible apply Keeps.cut (leaveUp_keeps ..)); case hs => decide)
    | ((with_reducible apply Keeps.cut (State.setPort_keeps ..)); case hs => decide)
    | ((with_reducible apply Keeps.cut (State.bump_keeps ..)); case hs => decide)

theorem trainingComplete_keeps (s : State) (p : Nat) (r : Option TrainResult) : Keeps [.fabric, .power, .out] s (trainingComplete s p r) := by
  unfold trainingComplete
  cases r <;> (repeat' first
    | with_reducible apply Keeps.refl
    | ((with_reducible apply Keeps.cut (touchPort_keeps ..)); case hs => decide)
    | ((with_reducible apply Keeps.cut (State.setPort_keeps ..)); case hs => decide)
    | ((with_reducible apply Keeps.cut (State.emit_keeps ..)); case hs => decide)
    | (with_reducible apply Keeps.foldl) <;> try intro _ _
    | with_reducible apply Keeps.ite <;> intro _
    | dsimp only)

theorem linkDown_keeps (s : State) (p : Nat) : Keeps [.regs, .evts, .fabric, .out] s (linkDown s p) := by
  unfold linkDown
  repeat' first
    | dsimp only
    | with_reducible apply Keeps.refl
    | ((with_reducible apply Keeps.cut (linkFalls_keeps ..)); case hs => decide)
    | with_reducible apply Keeps.ite <;> intro _
    | split

theorem peerStartsTraining_keeps (s : State) (p : Nat) : Keeps [.regs, .evts, .fabric] s (peerStartsTraining s p) := by
  unfold peerStartsTraining
  repeat' first
    | dsimp only
    | with_reducible apply Keeps.refl
    | ((with_reducible apply Keeps.cut (startTraining_keeps ..)); case hs => decide)
    | with_reducible apply Keeps.ite <;> intro _
    | split

theorem linkCtrl_keeps (s : State) (p : Nat) (v : Word) : Keeps [.regs, .evts, .fabric, .out] s (linkCtrl s p v) := by
  unfold linkCtrl
  repeat' first
    | dsimp only
    | with_reducible apply Keeps.refl
    | ((with_reducible apply Keeps.cut (startTraining_keeps ..)); case hs => decide)
    | ((with_reducible apply Keeps.cut (linkFalls_keeps ..)); case hs => decide)
    | ((with_reducible apply Keeps.cut (State.setReg_keeps ..)); case hs => decide)
    | with_reducible apply Keeps.ite <;> intro _
    | split

theorem fabricConfig_keeps (s : State) (off : Nat) (v : Word) : Keeps [.faults] s (fabricConfig s off v) := by
  unfold fabricConfig
  repeat' first
    | dsimp only
    | with_reducible apply Keeps.refl
    | ((with_reducible apply Keeps.cut (State.fault_keeps ..)); case hs => decide)

theorem powerPorts_keeps (s : State) : Keeps [.regs, .evts, .power, .sharal] s (powerPorts s) := by
  unfold powerPorts
  repeat' first
    | dsimp only
    | with_reducible apply Keeps.refl
    | ((with_reducible apply Keeps.cut (startOn_keeps ..)); case hs => decide)
    | (with_reducible apply Keeps.foldl) <;> try intro _ _
    | with_reducible apply Keeps.ite <;> intro _
    | split

theorem selfWrite_keeps (s : State) (v : Word) : Keeps [.regs, .evts, .faults, .power, .sharal] s (selfWrite s v) := by
  unfold selfWrite
  repeat' first
    | dsimp only
    | with_reducible apply Keeps.refl
    | ((with_reducible apply Keeps.cut (powerPorts_keeps ..)); case hs => decide)
    | ((with_reducible apply Keeps.cut (fabricConfig_keeps ..)); case hs => decide)
    | ((with_reducible apply Keeps.cut (State.setReg_keeps ..)); case hs => decide)
    | with_reducible apply Keeps.ite <;> intro _
    | split

theorem dimsWrite_keeps (s : State) (v : Word) : Keeps [.regs, .faults] s (dimsWrite s v) := by
  unfold dimsWrite
  repeat' first
    | dsimp only
    | with_reducible apply Keeps.refl
    | ((with_reducible apply Keeps.cut (fabricConfig_keeps ..)); case hs => decide)
    | ((with_reducible apply Keeps.cut (State.setReg_keeps ..)); case hs => decide)
    | with_reducible apply Keeps.ite <;> intro _
    | split

theorem rtAdvance_keeps (s : State) : Keeps [.regs] s (rtAdvance s) := by
  unfold rtAdvance
  repeat' first
    | dsimp only
    | with_reducible apply Keeps.refl
    | ((with_reducible apply Keeps.cut (State.hardReg_keeps ..)); case hs => decide)
    | with_reducible apply Keeps.ite <;> intro _
    | split

theorem rtWrite_keeps (s : State) (v : Word) : Keeps [.regs, .fabric] s (rtWrite s v) := by
  unfold rtWrite
  repeat' first
    | dsimp only
    | with_reducible apply Keeps.refl
    | ((with_reducible apply Keeps.cut (rtAdvance_keeps ..)); case hs => decide)
    | ((with_reducible apply Keeps.cut (State.mapFabric_keeps ..)); case hs => decide)
    | with_reducible apply Keeps.ite <;> intro _
    | split

end Sys2Proof.Machine
end

