-- ==== Sys2Proof/Laws/Tally.lean ====
section
/-! SUPPORT. What the operations of Machine/Tally.lean may change. -/

set_option linter.unusedTactic false
set_option linter.unreachableTactic false

namespace Sys2Proof.Machine

theorem State.mapSharal_keeps (s : State) (f : Sharal → Sharal) : Keeps [.sharal] s (State.mapSharal s f) := by
  unfold State.mapSharal
  repeat' first
    | dsimp only
    | with_reducible apply Keeps.refl
    | with_reducible exact (Keeps.sharal s _).mono (by decide)
    | ((with_reducible apply Keeps.cut (Keeps.sharal ..)); case hs => decide)

theorem State.mapTally_keeps (s : State) (f : Tally → Tally) : Keeps [.sharal] s (State.mapTally s f) := by
  unfold State.mapTally
  repeat' first
    | dsimp only
    | with_reducible apply Keeps.refl
    | ((with_reducible apply Keeps.cut (State.mapSharal_keeps ..)); case hs => decide)

theorem tallyCreate_keeps (s : State) (code : Nat) (srcType : Nat) (srcInst : Nat) (addrs : List Word) (vals : List Word) : Keeps [.regs, .evts, .sharal] s (tallyCreate s code srcType srcInst addrs vals) := by
  unfold tallyCreate
  repeat' first
    | dsimp only
    | with_reducible apply Keeps.refl
    | ((with_reducible apply Keeps.cut (State.mapTally_keeps ..)); case hs => decide)
    | ((with_reducible apply Keeps.cut (State.bump_keeps ..)); case hs => decide)
    | ((with_reducible apply Keeps.cut (State.pulse_keeps ..)); case hs => decide)
    | with_reducible apply Keeps.ite <;> intro _
    | split

theorem tallyEvent_keeps (s : State) (code : Nat) (srcType : Nat) (srcInst : Nat) (addrs : List Word) (vals : List Word) : Keeps [.regs, .evts, .sharal] s (tallyEvent s code srcType srcInst addrs vals) := by
  unfold tallyEvent
  repeat' first
    | dsimp only
    | with_reducible apply Keeps.refl
    | ((with_reducible apply Keeps.cut (tallyCreate_keeps ..)); case hs => decide)
    | ((with_reducible apply Keeps.cut (State.mapTally_keeps ..)); case hs => decide)
    | with_reducible apply Keeps.ite <;> intro _
    | split

theorem smbAlert_keeps (s : State) (source : Nat) : Keeps [.power] s (smbAlert s source) := by
  unfold smbAlert
  repeat' first
    | dsimp only
    | with_reducible apply Keeps.refl
    | ((with_reducible apply Keeps.cut (State.mapPower_keeps ..)); case hs => decide)
    | with_reducible apply Keeps.ite <;> intro _
    | split

theorem mandatory_keeps (s : State) (code : Nat) (vals : List Word) : Keeps [.regs, .evts, .power, .sharal] s (mandatory s code vals) := by
  unfold mandatory
  repeat' first
    | dsimp only
    | with_reducible apply Keeps.refl
    | ((with_reducible apply Keeps.cut (smbAlert_keeps ..)); case hs => decide)
    | ((with_reducible apply Keeps.cut (tallyEvent_keeps ..)); case hs => decide)
    | with_reducible apply Keeps.ite <;> intro _
    | split

end Sys2Proof.Machine
end

