-- ==== Sys2Proof/Laws/Host.lean ====
section
/-! SUPPORT. What the operations of Machine/Host.lean may change. -/

set_option linter.unusedTactic false
set_option linter.unreachableTactic false

namespace Sys2Proof.Machine

theorem State.setBank__keeps (s : State) (f : Nat) (off : Nat) (v : Word) : Keeps [.host] s (State.setBank_ s f off v) := by
  unfold State.setBank_
  repeat' first
    | dsimp only
    | with_reducible apply Keeps.refl
    | ((with_reducible apply Keeps.cut (State.mapHost_keeps ..)); case hs => decide)

theorem sessStatus_keeps (s : State) (f : Nat) (code : Nat) (sess : Nat) : Keeps [.host] s (sessStatus s f code sess) := by
  unfold sessStatus
  repeat' first
    | dsimp only
    | with_reducible apply Keeps.refl
    | ((with_reducible apply Keeps.cut (State.setBank__keeps ..)); case hs => decide)

theorem hostFault_keeps (s : State) (code : Nat) (sess : Option Nat) (addr : Option Nat) (d0 : Word) (d1 : Word) : Keeps [.faults] s (hostFault s code sess addr d0 d1) := by
  unfold hostFault
  repeat' first
    | dsimp only
    | with_reducible apply Keeps.refl
    | ((with_reducible apply Keeps.cut (State.fault_keeps ..)); case hs => decide)

theorem detachQueue_keeps (s : State) (q : Nat) : Keeps [.host] s (detachQueue s q) := by
  unfold detachQueue
  repeat' first
    | dsimp only
    | with_reducible apply Keeps.refl
    | ((with_reducible apply Keeps.cut (State.mapHost_keeps ..)); case hs => decide)

theorem closeSession_keeps (s : State) (cause : Nat) (n : Nat) : Keeps [.regs, .evts, .faults, .mem, .cores, .drover, .herd, .paddock, .fabric, .host, .power, .sharal, .free] s (closeSession s cause n) := by
  unfold closeSession
  repeat' first
    | dsimp only
    | with_reducible apply Keeps.refl
    | ((with_reducible apply Keeps.cut (detachQueue_keeps ..)); case hs => decide)
    | ((with_reducible apply Keeps.cut (hostFault_keeps ..)); case hs => decide)
    | ((with_reducible apply Keeps.cut (abortWhere_keeps ..)); case hs => decide)
    | ((with_reducible apply Keeps.cut (State.mapDrover_keeps ..)); case hs => decide)
    | ((with_reducible apply Keeps.cut (State.mapHost_keeps ..)); case hs => decide)
    | (with_reducible apply Keeps.foldl) <;> try intro _ _
    | with_reducible apply Keeps.ite <;> intro _
    | split

theorem closeWhere_keeps (s : State) (cause : Nat) (p : Session → Bool) : Keeps [.regs, .evts, .faults, .mem, .cores, .drover, .herd, .paddock, .fabric, .host, .power, .sharal, .free] s (closeWhere s cause p) := by
  unfold closeWhere
  repeat' first
    | dsimp only
    | with_reducible apply Keeps.refl
    | ((with_reducible apply Keeps.cut (closeSession_keeps ..)); case hs => decide)
    | (with_reducible apply Keeps.foldl) <;> try intro _ _

theorem sessionNumberFree_keeps (s : State) (n : Nat) : Keeps [.host] s (sessionNumberFree s n) := by
  unfold sessionNumberFree
  repeat' first
    | dsimp only
    | with_reducible apply Keeps.refl
    | ((with_reducible apply Keeps.cut (State.mapHost_keeps ..)); case hs => decide)
    | with_reducible apply Keeps.ite <;> intro _
    | split

theorem challenge_keeps (s : State) (f : Nat) : Keeps [.host, .free] s (challenge s f) := by
  unfold challenge
  repeat' first
    | dsimp only
    | with_reducible apply Keeps.refl
    | ((with_reducible apply Keeps.cut (sessStatus_keeps ..)); case hs => decide)
    | ((with_reducible apply Keeps.cut (State.setBank__keeps ..)); case hs => decide)
    | ((with_reducible apply Keeps.cut (State.mapHost_keeps ..)); case hs => decide)
    | ((with_reducible apply Keeps.cut (State.draw_keeps ..)); case hs => decide)
    | (with_reducible apply Keeps.foldl) <;> try intro _ _
    | with_reducible apply Keeps.ite <;> intro _
    | split

theorem answerFails_keeps (s : State) (f : Nat) (slot : Nat) : Keeps [.regs, .evts, .host, .power, .sharal] s (answerFails s f slot) := by
  unfold answerFails
  repeat' first
    | dsimp only
    | with_reducible apply Keeps.refl
    | ((with_reducible apply Keeps.cut (sessStatus_keeps ..)); case hs => decide)
    | ((with_reducible apply Keeps.cut (mandatory_keeps ..)); case hs => decide)
    | ((with_reducible apply Keeps.cut (State.mapHost_keeps ..)); case hs => decide)
    | ((with_reducible apply Keeps.cut (State.pulse_keeps ..)); case hs => decide)
    | with_reducible apply Keeps.ite <;> intro _
    | split

theorem answer_keeps (s : State) (f : Nat) : Keeps [.regs, .evts, .host, .power, .sharal] s (answer s f) := by
  unfold answer
  repeat' first
    | dsimp only
    | with_reducible apply Keeps.refl
    | ((with_reducible apply Keeps.cut (answerFails_keeps ..)); case hs => decide)
    | ((with_reducible apply Keeps.cut (sessStatus_keeps ..)); case hs => decide)
    | ((with_reducible apply Keeps.cut (State.mapHost_keeps ..)); case hs => decide)
    | with_reducible apply Keeps.ite <;> intro _
    | split

theorem nonceLapse_keeps (s : State) (f : Nat) : Keeps [.host] s (nonceLapse s f) := by
  unfold nonceLapse
  repeat' first
    | dsimp only
    | with_reducible apply Keeps.refl
    | ((with_reducible apply Keeps.cut (State.mapHost_keeps ..)); case hs => decide)
    | with_reducible apply Keeps.ite <;> intro _
    | split

theorem lockEnd_keeps (s : State) (slot : Nat) : Keeps [.host] s (lockEnd s slot) := by
  unfold lockEnd
  repeat' first
    | dsimp only
    | with_reducible apply Keeps.refl
    | ((with_reducible apply Keeps.cut (State.mapHost_keeps ..)); case hs => decide)
    | with_reducible apply Keeps.ite <;> intro _
    | split

theorem ctlStatus_keeps (s : State) (f : Nat) (code : Nat) : Keeps [.host] s (ctlStatus s f code) := by
  unfold ctlStatus
  repeat' first
    | dsimp only
    | with_reducible apply Keeps.refl
    | ((with_reducible apply Keeps.cut (State.setBank__keeps ..)); case hs => decide)

theorem closeCmd_keeps (s : State) (f : FuncId) : Keeps [.regs, .evts, .faults, .mem, .cores, .drover, .herd, .paddock, .fabric, .host, .power, .sharal, .free] s (closeCmd s f) := by
  unfold closeCmd
  repeat' first
    | dsimp only
    | with_reducible apply Keeps.refl
    | ((with_reducible apply Keeps.cut (ctlStatus_keeps ..)); case hs => decide)
    | ((with_reducible apply Keeps.cut (closeSession_keeps ..)); case hs => decide)
    | with_reducible apply Keeps.ite <;> intro _
    | split

theorem attachCmd_keeps (s : State) (f : FuncId) : Keeps [.host] s (attachCmd s f) := by
  unfold attachCmd
  repeat' first
    | dsimp only
    | with_reducible apply Keeps.refl
    | ((with_reducible apply Keeps.cut (ctlStatus_keeps ..)); case hs => decide)
    | ((with_reducible apply Keeps.cut (State.setQueue_keeps ..)); case hs => decide)
    | with_reducible apply Keeps.ite <;> intro _
    | split

theorem detachCmd_keeps (s : State) (f : FuncId) : Keeps [.host] s (detachCmd s f) := by
  unfold detachCmd
  repeat' first
    | dsimp only
    | with_reducible apply Keeps.refl
    | ((with_reducible apply Keeps.cut (ctlStatus_keeps ..)); case hs => decide)
    | ((with_reducible apply Keeps.cut (detachQueue_keeps ..)); case hs => decide)
    | with_reducible apply Keeps.ite <;> intro _
    | split

theorem rewriteSlot_keeps (s : State) (slot : Nat) (k : Option KeySlot) : Keeps [.regs, .evts, .faults, .mem, .cores, .drover, .herd, .paddock, .fabric, .host, .power, .sharal, .free] s (rewriteSlot s slot k) := by
  unfold rewriteSlot
  repeat' first
    | dsimp only
    | with_reducible apply Keeps.refl
    | ((with_reducible apply Keeps.cut (closeWhere_keeps ..)); case hs => decide)
    | ((with_reducible apply Keeps.cut (State.mapHost_keeps ..)); case hs => decide)
    | with_reducible apply Keeps.ite <;> intro _
    | split

theorem clearKeyData_keeps (s : State) : Keeps [.regs] s (clearKeyData s) := by
  unfold clearKeyData
  repeat' first
    | dsimp only
    | with_reducible apply Keeps.refl
    | ((with_reducible apply Keeps.cut (State.setReg_keeps ..)); case hs => decide)
    | (with_reducible apply Keeps.foldl) <;> try intro _ _

theorem keyWrite_keeps (s : State) : Keeps [.regs, .evts, .faults, .mem, .cores, .drover, .herd, .paddock, .fabric, .host, .power, .sharal, .free] s (keyWrite s) := by
  unfold keyWrite
  repeat' first
    | dsimp only
    | with_reducible apply Keeps.refl
    | ((with_reducible apply Keeps.cut (clearKeyData_keeps ..)); case hs => decide)
    | ((with_reducible apply Keeps.cut (rewriteSlot_keeps ..)); case hs => decide)
    | ((with_reducible apply Keeps.cut (hostFault_keeps ..)); case hs => decide)
    | ((with_reducible apply Keeps.cut (State.strobeRefused_keeps ..)); case hs => decide)
    | with_reducible apply Keeps.ite <;> intro _
    | split

theorem keyErase_keeps (s : State) : Keeps [.regs, .evts, .faults, .mem, .cores, .drover, .herd, .paddock, .fabric, .host, .power, .sharal, .free] s (keyErase s) := by
  unfold keyErase
  repeat' first
    | dsimp only
    | with_reducible apply Keeps.refl
    | ((with_reducible apply Keeps.cut (rewriteSlot_keeps ..)); case hs => decide)
    | ((with_reducible apply Keeps.cut (State.strobeRefused_keeps ..)); case hs => decide)
    | with_reducible apply Keeps.ite <;> intro _
    | split

theorem doorbell_keeps (s : State) (q : Nat) (v : Word) : Keeps [.regs, .evts, .host, .power, .sharal] s (doorbell s q v) := by
  unfold doorbell
  repeat' first
    | dsimp only
    | with_reducible apply Keeps.refl
    | ((with_reducible apply Keeps.cut (startWake_keeps ..)); case hs => decide)
    | ((with_reducible apply Keeps.cut (State.setQueue_keeps ..)); case hs => decide)
    | ((with_reducible apply Keeps.cut (countEvent_keeps ..)); case hs => decide)
    | ((with_reducible apply Keeps.cut (State.pulse_keeps ..)); case hs => decide)
    | ((with_reducible apply Keeps.cut (State.setReg_keeps ..)); case hs => decide)
    | with_reducible apply Keeps.ite <;> intro _
    | split

theorem placeCmd_keeps (s : State) (c : Cmd) : Keeps [.regs, .evts, .drover, .host] s (placeCmd s c) := by
  unfold placeCmd
  repeat' first
    | dsimp only
    | with_reducible apply Keeps.refl
    | ((with_reducible apply Keeps.cut (refuse_keeps ..)); case hs => decide)
    | ((with_reducible apply Keeps.cut (State.mapDrover_keeps ..)); case hs => decide)
    | ((with_reducible apply Keeps.cut (State.mapHost_keeps ..)); case hs => decide)
    | with_reducible apply Keeps.ite <;> intro _
    | split

theorem commandFetch_keeps (s : State) (q : Nat) (w0 : Word) (w1 : Word) (w2 : Word) (w3 : Word) : Keeps [.regs, .evts, .drover, .host] s (commandFetch s q w0 w1 w2 w3) := by
  unfold commandFetch
  repeat' first
    | dsimp only
    | with_reducible apply Keeps.refl
    | ((with_reducible apply Keeps.cut (placeCmd_keeps ..)); case hs => decide)
    | ((with_reducible apply Keeps.cut (State.fromHost_keeps ..)); case hs => decide)
    | ((with_reducible apply Keeps.cut (State.setQueue_keeps ..)); case hs => decide)
    | ((with_reducible apply Keeps.cut (State.bump_keeps ..)); case hs => decide)
    | ((with_reducible apply Keeps.cut (State.setReg_keeps ..)); case hs => decide)
    | with_reducible apply Keeps.ite <;> intro _
    | split

theorem qCtrl_keeps (s : State) (q : Nat) (v : Word) : Keeps [.regs, .evts, .host] s (qCtrl s q v) := by
  unfold qCtrl
  repeat' first
    | dsimp only
    | with_reducible apply Keeps.refl
    | ((with_reducible apply Keeps.cut (State.setQueue_keeps ..)); case hs => decide)
    | ((with_reducible apply Keeps.cut (State.pulse_keeps ..)); case hs => decide)
    | ((with_reducible apply Keeps.cut (State.setReg_keeps ..)); case hs => decide)
    | (with_reducible apply Keeps.foldl) <;> try intro _ _
    | with_reducible apply Keeps.ite <;> intro _
    | split

theorem queueDrained_keeps (s : State) (q : Nat) : Keeps [.host] s (queueDrained s q) := by
  unfold queueDrained
  repeat' first
    | dsimp only
    | with_reducible apply Keeps.refl
    | ((with_reducible apply Keeps.cut (State.setQueue_keeps ..)); case hs => decide)
    | with_reducible apply Keeps.ite <;> intro _
    | split

theorem writeRec_keeps (q : Nat) (s : State) (r : ORec) : Keeps [.regs, .evts, .faults, .mem, .cores, .drover, .herd, .paddock, .fabric, .host, .power, .sharal, .out, .free] s (writeRec q s r) := by
  unfold writeRec
  repeat' first
    | dsimp only
    | with_reducible apply Keeps.refl
    | ((with_reducible apply Keeps.cut (State.toHost_keeps ..)); case hs => decide)
    | ((with_reducible apply Keeps.cut (State.setReg_keeps ..)); case hs => decide)

theorem completionWrite_keeps (s : State) (q : Nat) : Keeps [.regs, .evts, .faults, .mem, .cores, .drover, .herd, .paddock, .fabric, .host, .power, .sharal, .out, .free] s (completionWrite s q) := by
  unfold completionWrite
  repeat' first
    | dsimp only
    | with_reducible apply Keeps.refl
    | ((with_reducible apply Keeps.cut (writeRec_keeps ..)); case hs => decide)
    | ((with_reducible apply Keeps.cut (State.toHost_keeps ..)); case hs => decide)
    | ((with_reducible apply Keeps.cut (State.setQueue_keeps ..)); case hs => decide)
    | ((with_reducible apply Keeps.cut (State.pulse_keeps ..)); case hs => decide)
    | (with_reducible apply Keeps.foldl) <;> try intro _ _
    | with_reducible apply Keeps.ite <;> intro _
    | split

theorem hostDone_keeps (s : State) (c : Cmd) (kind : Nat) (reason : Nat) (fault : Nat) (inst : Nat) : Keeps [.regs, .evts, .host] s (hostDone s c kind reason fault inst) := by
  unfold hostDone
  repeat' first
    | dsimp only
    | with_reducible apply Keeps.refl
    | ((with_reducible apply Keeps.cut (answered_keeps ..)); case hs => decide)
    | ((with_reducible apply Keeps.cut (postRec_keeps ..)); case hs => decide)
    | with_reducible apply Keeps.ite <;> intro _
    | split

theorem setCtx_keeps (s : State) (n : Nat) (x : Ctx) : Keeps [.host] s (setCtx s n x) := by
  unfold setCtx
  repeat' first
    | dsimp only
    | with_reducible apply Keeps.refl
    | ((with_reducible apply Keeps.cut (State.mapHost_keeps ..)); case hs => decide)

theorem ctxCommand_cut {s : State} {op : Nat} {go : State → Cmd → State} {ps : List Part} {s0 : State} (h0 : Keeps ps s0 s) (hgo0 : ∀ (y0_0 : State) (y0_1 : Cmd), Keeps ps y0_0 (go y0_0 y0_1))
    (hs : [.regs, .evts, .drover, .host] ⊆ ps) : Keeps ps s0 (ctxCommand s op go) := by
  unfold ctxCommand
  repeat' first
    | dsimp only
    | with_reducible apply Keeps.refl
    | exact h0
    | ((with_reducible apply Keeps.cut (hgo0 ..)); case hs => exact fun _ hm => hm)
    | ((with_reducible apply Keeps.cut (hostDone_keeps ..)); case hs => exact List.Subset.trans (by decide) hs)
    | ((with_reducible apply Keeps.cut (popCmd_keeps ..)); case hs => exact List.Subset.trans (by decide) hs)
    | with_reducible apply Keeps.ite <;> intro _
    | split

theorem ctxOpen_keeps (s : State) : Keeps [.regs, .evts, .drover, .host] s (ctxOpen s) := by
  unfold ctxOpen
  repeat' first
    | dsimp only
    | with_reducible apply Keeps.refl
    | ((with_reducible apply ctxCommand_cut); case hs => decide)
    | ((with_reducible apply Keeps.cut (setCtx_keeps ..)); case hs => decide)
    | ((with_reducible apply Keeps.cut (hostDone_keeps ..)); case hs => decide)
    | with_reducible apply Keeps.ite <;> intro _
    | split
    | intro _
    | exact Keeps.refl _ _

theorem ctxRoot_keeps (s : State) : Keeps [.regs, .evts, .drover, .host] s (ctxRoot s) := by
  unfold ctxRoot
  repeat' first
    | dsimp only
    | with_reducible apply Keeps.refl
    | ((with_reducible apply ctxCommand_cut); case hs => decide)
    | ((with_reducible apply Keeps.cut (setCtx_keeps ..)); case hs => decide)
    | ((with_reducible apply Keeps.cut (hostDone_keeps ..)); case hs => decide)
    | with_reducible apply Keeps.ite <;> intro _
    | split
    | intro _
    | exact Keeps.refl _ _

theorem ctxRelease_keeps (s : State) : Keeps [.regs, .evts, .faults, .mem, .cores, .drover, .herd, .paddock, .fabric, .host, .power, .sharal, .free] s (ctxRelease s) := by
  unfold ctxRelease
  repeat' first
    | dsimp only
    | with_reducible apply Keeps.refl
    | ((with_reducible apply ctxCommand_cut); case hs => decide)
    | ((with_reducible apply Keeps.cut (setCtx_keeps ..)); case hs => decide)
    | ((with_reducible apply Keeps.cut (hostDone_keeps ..)); case hs => decide)
    | ((with_reducible apply Keeps.cut (abortWhere_keeps ..)); case hs => decide)
    | ((with_reducible apply Keeps.cut (State.fault_keeps ..)); case hs => decide)
    | with_reducible apply Keeps.ite <;> intro _
    | split
    | intro _
    | exact Keeps.refl _ _

theorem contextFreed_keeps (s : State) (n : Nat) : Keeps [.regs, .evts, .host] s (contextFreed s n) := by
  unfold contextFreed
  repeat' first
    | dsimp only
    | with_reducible apply Keeps.refl
    | ((with_reducible apply Keeps.cut (postRec_keeps ..)); case hs => decide)
    | ((with_reducible apply Keeps.cut (State.setQueue_keeps ..)); case hs => decide)
    | ((with_reducible apply Keeps.cut (State.mapHost_keeps ..)); case hs => decide)
    | with_reducible apply Keeps.ite <;> intro _
    | split

theorem bar2Refused_keeps (s : State) (b : Bar2) : Keeps [.regs, .evts, .out] s (bar2Refused s b) := by
  unfold bar2Refused
  repeat' first
    | dsimp only
    | with_reducible apply Keeps.refl
    | ((with_reducible apply Keeps.cut (unsupported_keeps ..)); case hs => decide)
    | ((with_reducible apply Keeps.cut (State.toHost_keeps ..)); case hs => decide)
    | with_reducible apply Keeps.ite <;> intro _
    | split

theorem bar2Bad_keeps (s : State) (f : Nat) (a : Nat) (v : Verdict) : Keeps [.faults] s (bar2Bad s f a v) := by
  unfold bar2Bad
  repeat' first
    | dsimp only
    | with_reducible apply Keeps.refl
    | ((with_reducible apply Keeps.cut (hostFault_keeps ..)); case hs => decide)
    | with_reducible apply Keeps.ite <;> intro _
    | split

theorem bar2Put_keeps (f : Nat) (a : Nat) (data : List Byte) (ep : Bool) (s : State) (blk : Nat) : Keeps [.regs, .faults, .mem] s (bar2Put f a data ep s blk) := by
  unfold bar2Put
  repeat' first
    | dsimp only
    | with_reducible apply Keeps.refl
    | ((with_reducible apply Keeps.cut (bar2Bad_keeps ..)); case hs => decide)
    | ((with_reducible apply Keeps.cut (State.fromHost_keeps ..)); case hs => decide)
    | ((with_reducible apply Keeps.cut (State.mapMem_keeps _ _ (fun _ hm => Memory.put_wf _ _ _ hm))); case hs => decide)
    | ((with_reducible apply Keeps.cut (State.mapMem_keeps _ _ (fun _ hm => Memory.mark_wf _ _ hm))); case hs => decide)
    | ((with_reducible apply Keeps.cut (State.mapMem_keeps _ _ (fun _ hm => Memory.putPart_wf _ _ _ hm))); case hs => decide)
    | ((with_reducible apply Keeps.cut (State.mapMem_keeps _ _ (fun _ hm => Memory.moveBlock_wf _ _ _ hm))); case hs => decide)
    | ((with_reducible apply Keeps.cut (State.mapMem_keeps _ _ (fun _ hm => Memory.zeroRange_wf _ _ _ hm))); case hs => decide)
    | ((with_reducible apply Keeps.cut (State.mapMem_keeps _ _ (fun _ hm => Memory.zeroRange_wf _ _ _ (Memory.zeroRange_wf _ _ _ hm)))); case hs => decide)
    | ((with_reducible apply Keeps.cut (State.mapMem_keeps _ _ (fun _ hm => atomicGo_wf _ _ _ _ _ hm))); case hs => decide)
    | ((with_reducible apply Keeps.cut (State.mapMem_keeps _ _ (fun _ hm => putHeader_wf _ _ _ _ hm))); case hs => decide)
    | ((with_reducible apply Keeps.cut (State.mapMem_keeps _ _ (fun _ hm => putHeader_wf _ _ _ _ (putGold_wf _ _ _ _ _ hm)))); case hs => decide)
    | ((with_reducible apply Keeps.cut (State.mapMem_keeps _ _ (fun _ hm => putHeader_wf _ _ _ _ (by split <;> first | exact putGold_wf _ _ _ _ _ hm | exact hm)))); case hs => decide)
    | ((with_reducible apply Keeps.cut (State.mapMem_keeps _ _ (fun _ hm => Memory.fromHost_wf _ _ _ _ hm))); case hs => decide)
    | ((with_reducible apply Keeps.cut (State.mapMem_keeps _ _ (fun _ hm => copyDown_wf _ _ _ _ _ hm))); case hs => decide)
    | ((with_reducible apply Keeps.cut (State.mapMem_keeps _ _ (fun _ hm => Memory.foldl_wf _ _ (fun _ _ h => freeCell_wf _ _ _ h) _ hm))); case hs => decide)
    | ((with_reducible apply Keeps.cut (State.mapMem_keeps _ _ (fun _ hm => Memory.foldl_wf _ _ (fun _ _ h => writePage_wf _ _ _ _ _ h) _ hm))); case hs => decide)
    | with_reducible apply Keeps.ite <;> intro _
    | split

theorem bar2Answer_keeps (s : State) (b : Bar2) : Keeps [.regs, .out] s (bar2Answer s b) := by
  unfold bar2Answer
  repeat' first
    | dsimp only
    | with_reducible apply Keeps.refl
    | ((with_reducible apply Keeps.cut (State.toHost_keeps ..)); case hs => decide)

theorem bar2Spoilt_keeps (s : State) (b : Bar2) (v : Verdict) (blk : Nat) : Keeps [.regs, .faults, .out] s (bar2Spoilt s b v blk) := by
  unfold bar2Spoilt
  repeat' first
    | dsimp only
    | with_reducible apply Keeps.refl
    | ((with_reducible apply Keeps.cut (bar2Bad_keeps ..)); case hs => decide)
    | ((with_reducible apply Keeps.cut (State.toHost_keeps ..)); case hs => decide)

theorem bar2Serve_cut {s : State} {b : Bar2} {more : State → Bar2 → State} {ps : List Part} {s0 : State} (h0 : Keeps ps s0 s) (hgo0 : ∀ (y0_0 : State) (y0_1 : Bar2), Keeps ps y0_0 (more y0_0 y0_1))
    (hs : [.regs, .faults, .mem, .slots, .herd, .power, .out] ⊆ ps) : Keeps ps s0 (bar2Serve s b more) := by
  unfold bar2Serve
  repeat' first
    | dsimp only
    | with_reducible apply Keeps.refl
    | exact h0
    | ((with_reducible apply Keeps.cut (hgo0 ..)); case hs => exact fun _ hm => hm)
    | ((with_reducible apply Keeps.cut (bar2Spoilt_keeps ..)); case hs => exact List.Subset.trans (by decide) hs)
    | ((with_reducible apply Keeps.cut (bar2Answer_keeps ..)); case hs => exact List.Subset.trans (by decide) hs)
    | ((with_reducible apply Keeps.cut (bar2Put_keeps ..)); case hs => exact List.Subset.trans (by decide) hs)
    | ((with_reducible apply Keeps.cut (takeSlot_keeps ..)); case hs => exact List.Subset.trans (by decide) hs)
    | ((with_reducible apply Keeps.cut (countEvent_keeps ..)); case hs => exact List.Subset.trans (by decide) hs)
    | with_reducible apply Keeps.ite <;> intro _
    | split

theorem bar2TaskMem_keeps (s : State) (b : Bar2) : Keeps [.regs, .faults, .out] s (bar2TaskMem s b) := by
  unfold bar2TaskMem
  repeat' first
    | dsimp only
    | with_reducible apply Keeps.refl
    | ((with_reducible apply Keeps.cut (bar2Spoilt_keeps ..)); case hs => decide)
    | ((with_reducible apply Keeps.cut (bar2Answer_keeps ..)); case hs => decide)
    | ((with_reducible apply Keeps.cut (countEvent_keeps ..)); case hs => decide)
    | with_reducible apply Keeps.ite <;> intro _
    | split

theorem bar2Try_cut {s : State} {b : Bar2} {wait : State → Bar2 → State} {ps : List Part} {s0 : State} (h0 : Keeps ps s0 s) (hgo0 : ∀ (y0_0 : State) (y0_1 : Bar2), Keeps ps y0_0 (wait y0_0 y0_1))
    (hs : [.regs, .evts, .faults, .mem, .slots, .herd, .host, .power, .sharal, .out] ⊆ ps) : Keeps ps s0 (bar2Try s b wait) := by
  unfold bar2Try
  repeat' first
    | dsimp only
    | with_reducible apply Keeps.refl
    | exact h0
    | ((with_reducible apply Keeps.cut (hgo0 ..)); case hs => exact fun _ hm => hm)
    | ((with_reducible apply Keeps.cut (bar2TaskMem_keeps ..)); case hs => exact List.Subset.trans (by decide) hs)
    | ((with_reducible apply bar2Serve_cut); case hs => exact List.Subset.trans (by decide) hs)
    | ((with_reducible apply Keeps.cut (bar2Refused_keeps ..)); case hs => exact List.Subset.trans (by decide) hs)
    | ((with_reducible apply Keeps.cut (answer_keeps ..)); case hs => exact List.Subset.trans (by decide) hs)
    | ((with_reducible apply Keeps.cut (startWake_keeps ..)); case hs => exact List.Subset.trans (by decide) hs)
    | with_reducible apply Keeps.ite <;> intro _
    | split
    | intro _
    | exact Keeps.refl _ _

theorem bar2Wait_keeps (s : State) (b : Bar2) : Keeps [.host] s (bar2Wait s b) := by
  unfold bar2Wait
  repeat' first
    | dsimp only
    | with_reducible apply Keeps.refl
    | ((with_reducible apply Keeps.cut (State.mapHost_keeps ..)); case hs => decide)

theorem bar2Arrive_keeps (s : State) (b : Bar2) : Keeps [.regs, .evts, .faults, .mem, .slots, .herd, .host, .power, .sharal, .out] s (bar2Arrive s b) := by
  unfold bar2Arrive
  repeat' first
    | dsimp only
    | with_reducible apply Keeps.refl
    | ((with_reducible apply Keeps.cut (bar2Wait_keeps ..)); case hs => decide)
    | ((with_reducible apply bar2Try_cut); case hs => decide)
    | ((with_reducible apply Keeps.cut (bar2Refused_keeps ..)); case hs => decide)
    | ((with_reducible apply Keeps.cut (State.fromHost_keeps ..)); case hs => decide)
    | with_reducible apply Keeps.ite <;> intro _
    | split
    | intro _
    | exact Keeps.refl _ _

theorem bar2Retry_keeps (s : State) (b : Bar2) : Keeps [.regs, .evts, .faults, .mem, .slots, .herd, .host, .power, .sharal, .out] s (bar2Retry s b) := by
  unfold bar2Retry
  repeat' first
    | dsimp only
    | with_reducible apply Keeps.refl
    | ((with_reducible apply bar2Try_cut); case hs => decide)
    | ((with_reducible apply Keeps.cut (State.mapHost_keeps ..)); case hs => decide)
    | with_reducible apply Keeps.ite <;> intro _
    | split
    | intro _
    | exact Keeps.refl _ _

theorem bar2Timeout_keeps (s : State) : Keeps [.regs, .faults, .host, .out] s (bar2Timeout s) := by
  unfold bar2Timeout
  repeat' first
    | dsimp only
    | with_reducible apply Keeps.refl
    | ((with_reducible apply Keeps.cut (hostFault_keeps ..)); case hs => decide)
    | ((with_reducible apply Keeps.cut (State.toHost_keeps ..)); case hs => decide)
    | ((with_reducible apply Keeps.cut (State.mapHost_keeps ..)); case hs => decide)
    | with_reducible apply Keeps.ite <;> intro _
    | split

theorem xferBegin_keeps (s : State) (op : Nat) : Keeps [.regs, .evts, .host] s (xferBegin s op) := by
  unfold xferBegin
  repeat' first
    | dsimp only
    | with_reducible apply Keeps.refl
    | ((with_reducible apply Keeps.cut (hostDone_keeps ..)); case hs => decide)
    | ((with_reducible apply Keeps.cut (State.mapHost_keeps ..)); case hs => decide)
    | with_reducible apply Keeps.ite <;> intro _
    | split

theorem xferFault_keeps (s : State) (x : Xfer) (code : Nat) (d1 : Word) : Keeps [.faults, .host] s (xferFault s x code d1) := by
  unfold xferFault
  repeat' first
    | dsimp only
    | with_reducible apply Keeps.refl
    | ((with_reducible apply Keeps.cut (hostFault_keeps ..)); case hs => decide)
    | ((with_reducible apply Keeps.cut (State.mapHost_keeps ..)); case hs => decide)

theorem xferBlock_cut {s : State} {op : Nat} {move : State → Xfer → Nat → State} {ps : List Part} {s0 : State} (h0 : Keeps ps s0 s) (hgo0 : ∀ (y0_0 : State) (y0_1 : Xfer) (y0_2 : Nat), Keeps ps y0_0 (move y0_0 y0_1 y0_2))
    (hs : [.regs, .evts, .faults, .slots, .herd, .host, .power, .sharal] ⊆ ps) : Keeps ps s0 (xferBlock s op move) := by
  unfold xferBlock
  repeat' first
    | dsimp only
    | with_reducible apply Keeps.refl
    | exact h0
    | ((with_reducible apply Keeps.cut (hgo0 ..)); case hs => exact fun _ hm => hm)
    | ((with_reducible apply Keeps.cut (xferFault_keeps ..)); case hs => exact List.Subset.trans (by decide) hs)
    | ((with_reducible apply Keeps.cut (answer_keeps ..)); case hs => exact List.Subset.trans (by decide) hs)
    | ((with_reducible apply Keeps.cut (takeSlot_keeps ..)); case hs => exact List.Subset.trans (by decide) hs)
    | ((with_reducible apply Keeps.cut (startWake_keeps ..)); case hs => exact List.Subset.trans (by decide) hs)
    | ((with_reducible apply Keeps.cut (State.mapHost_keeps ..)); case hs => exact List.Subset.trans (by decide) hs)
    | ((with_reducible apply Keeps.cut (State.fault_keeps ..)); case hs => exact List.Subset.trans (by decide) hs)
    | with_reducible apply Keeps.ite <;> intro _
    | split

theorem xferMoved_keeps (s : State) (x : Xfer) : Keeps [.host] s (xferMoved s x) := by
  unfold xferMoved
  repeat' first
    | dsimp only
    | with_reducible apply Keeps.refl
    | ((with_reducible apply Keeps.cut (State.mapHost_keeps ..)); case hs => decide)

theorem xferIn_keeps (s : State) (data : List Byte) (ep : Bool) : Keeps [.regs, .evts, .faults, .mem, .slots, .herd, .host, .power, .sharal] s (xferIn s data ep) := by
  unfold xferIn
  repeat' first
    | dsimp only
    | with_reducible apply Keeps.refl
    | ((with_reducible apply Keeps.cut (xferMoved_keeps ..)); case hs => decide)
    | ((with_reducible apply xferBlock_cut); case hs => decide)
    | ((with_reducible apply Keeps.cut (xferBegin_keeps ..)); case hs => decide)
    | ((with_reducible apply Keeps.cut (State.fromHost_keeps ..)); case hs => decide)
    | ((with_reducible apply Keeps.cut (State.mapMem_keeps _ _ (fun _ hm => Memory.put_wf _ _ _ hm))); case hs => decide)
    | ((with_reducible apply Keeps.cut (State.mapMem_keeps _ _ (fun _ hm => Memory.mark_wf _ _ hm))); case hs => decide)
    | ((with_reducible apply Keeps.cut (State.mapMem_keeps _ _ (fun _ hm => Memory.putPart_wf _ _ _ hm))); case hs => decide)
    | ((with_reducible apply Keeps.cut (State.mapMem_keeps _ _ (fun _ hm => Memory.moveBlock_wf _ _ _ hm))); case hs => decide)
    | ((with_reducible apply Keeps.cut (State.mapMem_keeps _ _ (fun _ hm => Memory.zeroRange_wf _ _ _ hm))); case hs => decide)
    | ((with_reducible apply Keeps.cut (State.mapMem_keeps _ _ (fun _ hm => Memory.zeroRange_wf _ _ _ (Memory.zeroRange_wf _ _ _ hm)))); case hs => decide)
    | ((with_reducible apply Keeps.cut (State.mapMem_keeps _ _ (fun _ hm => atomicGo_wf _ _ _ _ _ hm))); case hs => decide)
    | ((with_reducible apply Keeps.cut (State.mapMem_keeps _ _ (fun _ hm => putHeader_wf _ _ _ _ hm))); case hs => decide)
    | ((with_reducible apply Keeps.cut (State.mapMem_keeps _ _ (fun _ hm => putHeader_wf _ _ _ _ (putGold_wf _ _ _ _ _ hm)))); case hs => decide)
    | ((with_reducible apply Keeps.cut (State.mapMem_keeps _ _ (fun _ hm => putHeader_wf _ _ _ _ (by split <;> first | exact putGold_wf _ _ _ _ _ hm | exact hm)))); case hs => decide)
    | ((with_reducible apply Keeps.cut (State.mapMem_keeps _ _ (fun _ hm => Memory.fromHost_wf _ _ _ _ hm))); case hs => decide)
    | ((with_reducible apply Keeps.cut (State.mapMem_keeps _ _ (fun _ hm => copyDown_wf _ _ _ _ _ hm))); case hs => decide)
    | ((with_reducible apply Keeps.cut (State.mapMem_keeps _ _ (fun _ hm => Memory.foldl_wf _ _ (fun _ _ h => freeCell_wf _ _ _ h) _ hm))); case hs => decide)
    | ((with_reducible apply Keeps.cut (State.mapMem_keeps _ _ (fun _ hm => Memory.foldl_wf _ _ (fun _ _ h => writePage_wf _ _ _ _ _ h) _ hm))); case hs => decide)
    | intro _
    | exact Keeps.refl _ _

theorem xferOut_keeps (s : State) : Keeps [.regs, .evts, .faults, .mem, .slots, .cores, .drover, .herd, .paddock, .fabric, .host, .power, .sharal, .out, .free] s (xferOut s) := by
  unfold xferOut
  repeat' first
    | dsimp only
    | with_reducible apply Keeps.refl
    | ((with_reducible apply Keeps.cut (xferMoved_keeps ..)); case hs => decide)
    | ((with_reducible apply xferBlock_cut); case hs => decide)
    | ((with_reducible apply Keeps.cut (xferFault_keeps ..)); case hs => decide)
    | ((with_reducible apply Keeps.cut (xferBegin_keeps ..)); case hs => decide)
    | ((with_reducible apply Keeps.cut (State.toHost_keeps ..)); case hs => decide)
    | with_reducible apply Keeps.ite <;> intro _
    | split
    | intro _
    | exact Keeps.refl _ _

theorem xferDone_keeps (s : State) : Keeps [.regs, .evts, .faults, .host] s (xferDone s) := by
  unfold xferDone
  repeat' first
    | dsimp only
    | with_reducible apply Keeps.refl
    | ((with_reducible apply Keeps.cut (hostDone_keeps ..)); case hs => decide)
    | ((with_reducible apply Keeps.cut (State.mapHost_keeps ..)); case hs => decide)
    | ((with_reducible apply Keeps.cut (State.fault_keeps ..)); case hs => decide)
    | with_reducible apply Keeps.ite <;> intro _
    | split

theorem infoSnap_keeps (s : State) : Keeps [.regs] s (infoSnap s) := by
  unfold infoSnap
  repeat' first
    | dsimp only
    | with_reducible apply Keeps.refl
    | ((with_reducible apply Keeps.cut (State.setReg_keeps ..)); case hs => decide)
    | (with_reducible apply Keeps.foldl) <;> try intro _ _

theorem functionLevelReset_keeps (s : State) (f : Nat) : Keeps [.regs, .evts, .faults, .mem, .cores, .drover, .herd, .paddock, .fabric, .host, .power, .sharal, .free] s (functionLevelReset s f) := by
  unfold functionLevelReset
  repeat' first
    | dsimp only
    | with_reducible apply Keeps.refl
    | ((with_reducible apply Keeps.cut (closeWhere_keeps ..)); case hs => decide)
    | ((with_reducible apply Keeps.cut (State.mapHost_keeps ..)); case hs => decide)

theorem hostLost_keeps (s : State) : Keeps [.regs, .evts, .faults, .host] s (hostLost s) := by
  unfold hostLost
  repeat' first
    | dsimp only
    | with_reducible apply Keeps.refl
    | ((with_reducible apply Keeps.cut (State.mapHost_keeps ..)); case hs => decide)
    | with_reducible exact (Keeps.regs s _).mono (by decide)
    | with_reducible exact (Keeps.evts s _).mono (by decide)
    | exact Keeps.parts (Keeps.refl _ s) ⟨rfl, fun p hp => by cases p <;> first | rfl | simp at hp⟩ (by first | exact .inl rfl | exact .inr rfl) (by first | exact .inl rfl | exact .inr rfl) (fun p hp => by first | exact hp | cases hp; done | exact List.mem_of_mem_filter hp)

theorem hostOff_keeps (s : State) : Keeps [.regs, .evts, .faults, .mem, .cores, .drover, .herd, .paddock, .fabric, .host, .power, .sharal, .free] s (hostOff s) := by
  unfold hostOff
  repeat' first
    | dsimp only
    | with_reducible apply Keeps.refl
    | ((with_reducible apply Keeps.cut (hostLost_keeps ..)); case hs => decide)
    | ((with_reducible apply Keeps.cut (closeWhere_keeps ..)); case hs => decide)
    | ((with_reducible apply Keeps.cut (changeDom_keeps ..)); case hs => decide)

theorem hostOn_keeps (s : State) : Keeps [.regs, .evts, .host, .power, .sharal] s (hostOn s) := by
  unfold hostOn
  repeat' first
    | dsimp only
    | with_reducible apply Keeps.refl
    | ((with_reducible apply Keeps.cut (changeDom_keeps ..)); case hs => decide)
    | ((with_reducible apply Keeps.cut (State.mapHost_keeps ..)); case hs => decide)

theorem perstAssert_keeps (s : State) : Keeps [.regs, .evts, .faults, .mem, .cores, .drover, .herd, .paddock, .fabric, .host, .power, .sharal, .free] s (perstAssert s) := by
  unfold perstAssert
  repeat' first
    | dsimp only
    | with_reducible apply Keeps.refl
    | ((with_reducible apply Keeps.cut (hostOff_keeps ..)); case hs => decide)
    | ((with_reducible apply Keeps.cut (State.mapPower_keeps ..)); case hs => decide)
    | with_reducible apply Keeps.ite <;> intro _
    | split

theorem perstDeassert_keeps (s : State) : Keeps [.regs, .evts, .host, .power, .sharal] s (perstDeassert s) := by
  unfold perstDeassert
  repeat' first
    | dsimp only
    | with_reducible apply Keeps.refl
    | ((with_reducible apply Keeps.cut (hostOn_keeps ..)); case hs => decide)
    | ((with_reducible apply Keeps.cut (State.mapPower_keeps ..)); case hs => decide)
    | with_reducible apply Keeps.ite <;> intro _
    | split

end Sys2Proof.Machine
end

