-- ==== Sys2Proof/Laws/Loss.lean ====
section
/-! SUPPORT. What the operations of Machine/Loss.lean may change. -/

set_option linter.unusedTactic false
set_option linter.unreachableTactic false

namespace Sys2Proof.Machine

theorem pageLost_keeps (s : State) (slot : Nat) (keep : Nat → Bool) : Keeps [.regs, .evts, .faults] s (pageLost s slot keep) := by
  unfold pageLost
  exact Keeps.parts (t := s.dropPage slot keep) ((State.dropPage_keeps ..).mono (by decide)) ⟨rfl, fun p hp => by cases p <;> first | rfl | simp at hp⟩
    (by first | exact .inl rfl | exact .inr rfl) (by first | exact .inl rfl | exact .inr rfl)
    (fun p hp => by first | exact hp | (cases hp; done) | exact List.mem_of_mem_filter hp)

theorem coreLost_keeps (s : State) (c : Nat) : Keeps [.regs, .evts, .faults, .cores, .drover] s (coreLost s c) := by
  unfold coreLost
  extract_lets s1 s2
  have k : Keeps [.regs, .evts, .faults, .cores, .drover] s s2 := Keeps.cut (State.mapDrover_keeps ..) (by decide)
    (Keeps.foldl _ _ (fun _ _ => (pageLost_keeps ..).mono (by decide)) ((Keeps.cores s _).mono (by decide)))
  exact Keeps.foldl _ _ (fun _ _ => (pinCore_keeps ..).mono (by decide)) k

theorem foldLost_keeps (s : State) (f : Nat) : Keeps [.regs, .evts, .faults, .cores, .drover] s (foldLost s f) := by
  unfold foldLost
  repeat' first
    | dsimp only
    | with_reducible apply Keeps.refl
    | ((with_reducible apply Keeps.cut (coreLost_keeps ..)); case hs => decide)
    | ((with_reducible apply Keeps.cut (pageLost_keeps ..)); case hs => decide)
    | (with_reducible apply Keeps.foldl) <;> try intro _ _

theorem foldZeroed_keeps (s : State) (f : Nat) : Keeps [.mem] s (foldZeroed s f) := by
  unfold foldZeroed
  repeat' first
    | dsimp only
    | with_reducible apply Keeps.refl
    | ((with_reducible apply Keeps.cut (State.mapMem_keeps _ _ (fun _ hm => Memory.put_wf _ _ _ hm))); case hs => decide)
    | ((with_reducible apply Keeps.cut (State.mapMem_keeps _ _ (fun _ hm => Memory.mark_wf _ _ hm))); case hs => decide)
    | ((with_reducible apply Keeps.cut (State.mapMem_keeps _ _ (fun _ hm => Memory.putPart_wf _ _ _ hm))); case hs => decide)
    | ((with_reducible apply Keeps.cut (State.mapMem_keeps _ _ (fun _ hm => Memory.moveBlock_wf _ _ _ hm))); case hs => decide)
    | ((with_reducible apply Keeps.cut (State.mapMem_keeps _ _ (fun _ hm => Memory.zeroRange_wf _ _ _ hm))); case hs => decide)
    | ((with_reducible apply Keeps.cut (State.mapMem_keeps _ _ (fun _ hm => Memory.zeroRange_wf _ _ _ (Memory.zeroRange_wf _ _ _ hm)))); case hs => decide)
    | ((with_reducible apply Keeps.cut (State.mapMem_keeps _ _ (fun _ hm => atomicGo_wf _ _ _ _ _ hm))); case hs => decide)
    | ((with_reducible apply Keeps.cut (State.mapMem_keeps _ _ (fun _ hm => putHeader_wf _ _ _ _ hm))); case hs => decide)
    | ((with_reducible apply Keeps.cut (State.mapMem_keeps _ _ (fun _ hm => putHeader_wf _ _ _ _ (putGold_wf _ _ _ _ _ hm)))); case hs => decide)
    | ((with_reducible apply Keeps.cut (State.mapMem_keeps _ _ (fun _ hm => putHeader_wf _ _ _ _ (by split <;> first | exact putGold_wf _ _ _ _ _ hm | exact hm)))); case hs => decide)
    | ((with_reducible apply Keeps.cut (State.mapMem_keeps _ _ (fun _ hm => Memory.fromHost_wf _ _ _ _ hm))); case hs => decide)
    | ((with_reducible apply Keeps.cut (State.mapMem_keeps _ _ (fun _ hm => copyDown_wf _ _ _ _ _ hm))); case hs => decide)
    | ((with_reducible apply Keeps.cut (State.mapMem_keeps _ _ (fun _ hm => Memory.foldl_wf _ _ (fun _ _ h => freeCell_wf _ _ _ h) _ hm))); case hs => decide)
    | ((with_reducible apply Keeps.cut (State.mapMem_keeps _ _ (fun _ hm => Memory.foldl_wf _ _ (fun _ _ h => writePage_wf _ _ _ _ _ h) _ hm))); case hs => decide)

theorem herdLost_keeps (s : State) : Keeps [.regs, .evts, .faults, .herd] s (herdLost s) := by
  unfold herdLost
  exact Keeps.cut (Keeps.herd (pageLost s slotHerd keepNone) _) (by decide) ((pageLost_keeps ..).mono (by decide))

theorem herdZeroed_keeps (s : State) : Keeps [.mem] s (herdZeroed s) := by
  unfold herdZeroed
  repeat' first
    | dsimp only
    | with_reducible apply Keeps.refl
    | ((with_reducible apply Keeps.cut (State.mapMem_keeps _ _ (fun _ hm => Memory.put_wf _ _ _ hm))); case hs => decide)
    | ((with_reducible apply Keeps.cut (State.mapMem_keeps _ _ (fun _ hm => Memory.mark_wf _ _ hm))); case hs => decide)
    | ((with_reducible apply Keeps.cut (State.mapMem_keeps _ _ (fun _ hm => Memory.putPart_wf _ _ _ hm))); case hs => decide)
    | ((with_reducible apply Keeps.cut (State.mapMem_keeps _ _ (fun _ hm => Memory.moveBlock_wf _ _ _ hm))); case hs => decide)
    | ((with_reducible apply Keeps.cut (State.mapMem_keeps _ _ (fun _ hm => Memory.zeroRange_wf _ _ _ hm))); case hs => decide)
    | ((with_reducible apply Keeps.cut (State.mapMem_keeps _ _ (fun _ hm => Memory.zeroRange_wf _ _ _ (Memory.zeroRange_wf _ _ _ hm)))); case hs => decide)
    | ((with_reducible apply Keeps.cut (State.mapMem_keeps _ _ (fun _ hm => atomicGo_wf _ _ _ _ _ hm))); case hs => decide)
    | ((with_reducible apply Keeps.cut (State.mapMem_keeps _ _ (fun _ hm => putHeader_wf _ _ _ _ hm))); case hs => decide)
    | ((with_reducible apply Keeps.cut (State.mapMem_keeps _ _ (fun _ hm => putHeader_wf _ _ _ _ (putGold_wf _ _ _ _ _ hm)))); case hs => decide)
    | ((with_reducible apply Keeps.cut (State.mapMem_keeps _ _ (fun _ hm => putHeader_wf _ _ _ _ (by split <;> first | exact putGold_wf _ _ _ _ _ hm | exact hm)))); case hs => decide)
    | ((with_reducible apply Keeps.cut (State.mapMem_keeps _ _ (fun _ hm => Memory.fromHost_wf _ _ _ _ hm))); case hs => decide)
    | ((with_reducible apply Keeps.cut (State.mapMem_keeps _ _ (fun _ hm => copyDown_wf _ _ _ _ _ hm))); case hs => decide)
    | ((with_reducible apply Keeps.cut (State.mapMem_keeps _ _ (fun _ hm => Memory.foldl_wf _ _ (fun _ _ h => freeCell_wf _ _ _ h) _ hm))); case hs => decide)
    | ((with_reducible apply Keeps.cut (State.mapMem_keeps _ _ (fun _ hm => Memory.foldl_wf _ _ (fun _ _ h => writePage_wf _ _ _ _ _ h) _ hm))); case hs => decide)

theorem padkLost_keeps (s : State) (f : Bank → Bank) : Keeps [.regs, .evts, .faults, .paddock] s (padkLost s f) := by
  unfold padkLost
  dsimp only
  generalize hu : List.foldl (fun u p => pageLost u p keepNone) s (slotPadk :: (List.range 64).map slotBank) = u
  exact Keeps.cut (Keeps.paddock u _) (by decide)
    (hu ▸ Keeps.foldl _ _ (fun _ _ => (pageLost_keeps ..).mono (by decide)) (Keeps.refl _ _))

theorem paddockReset_keeps (s : State) : Keeps [.regs, .evts, .faults, .paddock] s (paddockReset s) := by
  unfold paddockReset
  repeat' first
    | dsimp only
    | with_reducible apply Keeps.refl
    | ((with_reducible apply Keeps.cut (padkLost_keeps ..)); case hs => decide)

theorem banksLost_keeps (s : State) : Keeps [.paddock] s (banksLost s) := by
  unfold banksLost
  repeat' first
    | dsimp only
    | with_reducible apply Keeps.refl
    | with_reducible exact (Keeps.paddock s _).mono (by decide)
    | ((with_reducible apply Keeps.cut (Keeps.paddock ..)); case hs => decide)

theorem portLost_keeps (s : State) (p : Nat) : Keeps [.regs, .evts, .faults, .fabric, .out] s (portLost s p) := by
  unfold portLost
  repeat' first
    | dsimp only
    | with_reducible apply Keeps.refl
    | ((with_reducible apply Keeps.cut (pageLost_keeps ..)); case hs => decide)
    | ((with_reducible apply Keeps.cut (dropBuffers_keeps ..)); case hs => decide)
    | ((with_reducible apply Keeps.cut (settle_keeps ..)); case hs => decide)
    | ((with_reducible apply Keeps.cut (State.setPort_keeps ..)); case hs => decide)
    | ((with_reducible apply Keeps.cut (State.setReg_keeps ..)); case hs => decide)

theorem droverLost_keeps (s : State) : Keeps [.regs, .evts, .faults, .drover] s (droverLost s) := by
  unfold droverLost
  repeat' first
    | dsimp only
    | with_reducible apply Keeps.refl
    | ((with_reducible apply Keeps.cut (pageLost_keeps ..)); case hs => decide)
    | ((with_reducible apply Keeps.cut (State.mapDrover_keeps ..)); case hs => decide)

theorem domainLost_keeps (s : State) (d : Nat) : Keeps [.regs, .evts, .faults, .cores, .drover, .herd, .paddock, .fabric, .out] s (domainLost s d) := by
  unfold domainLost
  repeat' first
    | dsimp only
    | with_reducible apply Keeps.refl
    | ((with_reducible apply Keeps.cut (portLost_keeps ..)); case hs => decide)
    | ((with_reducible apply Keeps.cut (banksLost_keeps ..)); case hs => decide)
    | ((with_reducible apply Keeps.cut (padkLost_keeps ..)); case hs => decide)
    | ((with_reducible apply Keeps.cut (herdLost_keeps ..)); case hs => decide)
    | ((with_reducible apply Keeps.cut (foldLost_keeps ..)); case hs => decide)
    | with_reducible apply Keeps.ite <;> intro _
    | split

theorem domainFilled_keeps (s : State) (d : Nat) : Keeps [.mem] s (domainFilled s d) := by
  unfold domainFilled
  repeat' first
    | dsimp only
    | with_reducible apply Keeps.refl
    | ((with_reducible apply Keeps.cut (herdZeroed_keeps ..)); case hs => decide)
    | ((with_reducible apply Keeps.cut (foldZeroed_keeps ..)); case hs => decide)
    | with_reducible apply Keeps.ite <;> intro _
    | split

end Sys2Proof.Machine
end

