-- ==== Sys2Proof/Laws/Power.lean ====
section
/-! SUPPORT. What the operations of Machine/Power.lean may change. -/

set_option linter.unusedTactic false
set_option linter.unreachableTactic false

namespace Sys2Proof.Machine

theorem pwrRefused_keeps (s : State) (code : Nat) (v : Word) : Keeps [.evts, .faults] s (pwrRefused s code v) := by
  unfold pwrRefused
  repeat' first
    | dsimp only
    | with_reducible apply Keeps.refl
    | ((with_reducible apply Keeps.cut (State.fault_keeps ..)); case hs => decide)
    | ((with_reducible apply Keeps.cut (State.pulse_keeps ..)); case hs => decide)

theorem cmdStatus_keeps (s : State) (code : Nat) (cmd : Nat) (d : Nat) : Keeps [.regs] s (cmdStatus s code cmd d) := by
  unfold cmdStatus
  repeat' first
    | dsimp only
    | with_reducible apply Keeps.refl
    | ((with_reducible apply Keeps.cut (State.setReg_keeps ..)); case hs => decide)

theorem fieldRefused_keeps (s : State) (code : Nat) (v : Word) : Keeps [.regs, .evts, .faults] s (fieldRefused s code v) := by
  unfold fieldRefused
  repeat' first
    | dsimp only
    | with_reducible apply Keeps.refl
    | ((with_reducible apply Keeps.cut (pwrRefused_keeps ..)); case hs => decide)
    | ((with_reducible apply Keeps.cut (State.setReg_keeps ..)); case hs => decide)

theorem lowerTo_keeps (s : State) (d : Nat) (t : PSt) : Keeps [.regs, .evts, .fabric, .power, .out] s (lowerTo s d t) := by
  unfold lowerTo
  repeat' first
    | dsimp only
    | with_reducible apply Keeps.refl
    | ((with_reducible apply Keeps.cut (linkFalls_keeps ..)); case hs => decide)
    | ((with_reducible apply Keeps.cut (startEntry_keeps ..)); case hs => decide)
    | with_reducible apply Keeps.ite <;> intro _
    | split

theorem cmdEffect_keeps (s : State) (cmd : Nat) (d : Nat) : Keeps [.regs, .evts, .fabric, .power, .sharal, .out] s (cmdEffect s cmd d) := by
  unfold cmdEffect
  repeat' first
    | dsimp only
    | with_reducible apply Keeps.refl
    | ((with_reducible apply Keeps.cut (lowerTo_keeps ..)); case hs => decide)
    | ((with_reducible apply Keeps.cut (startOn_keeps ..)); case hs => decide)
    | ((with_reducible apply Keeps.cut (startWake_keeps ..)); case hs => decide)
    | ((with_reducible apply Keeps.cut (State.setDom_keeps ..)); case hs => decide)
    | with_reducible apply Keeps.ite <;> intro _
    | split

theorem domCmd_keeps (s : State) (v : Word) : Keeps [.regs, .evts, .faults, .fabric, .power, .sharal, .out] s (domCmd s v) := by
  unfold domCmd
  repeat' first
    | dsimp only
    | with_reducible apply Keeps.refl
    | ((with_reducible apply Keeps.cut (cmdEffect_keeps ..)); case hs => decide)
    | ((with_reducible apply Keeps.cut (cmdStatus_keeps ..)); case hs => decide)
    | ((with_reducible apply Keeps.cut (pwrRefused_keeps ..)); case hs => decide)
    | with_reducible apply Keeps.ite <;> intro _
    | split

theorem domPolicy_keeps (s : State) (d : Nat) (v : Word) : Keeps [.regs, .evts, .faults] s (domPolicy s d v) := by
  unfold domPolicy
  repeat' first
    | dsimp only
    | with_reducible apply Keeps.refl
    | ((with_reducible apply Keeps.cut (fieldRefused_keeps ..)); case hs => decide)
    | ((with_reducible apply Keeps.cut (State.setReg_keeps ..)); case hs => decide)
    | with_reducible apply Keeps.ite <;> intro _
    | split

theorem idleEntry_keeps (s : State) (d : Nat) : Keeps [.regs, .power] s (idleEntry s d) := by
  unfold idleEntry
  repeat' first
    | dsimp only
    | with_reducible apply Keeps.refl
    | ((with_reducible apply Keeps.cut (startEntry_keeps ..)); case hs => decide)
    | with_reducible apply Keeps.ite <;> intro _
    | split

theorem portIdleEntry_keeps (s : State) (p : Nat) : Keeps [.regs, .power] s (portIdleEntry s p) := by
  unfold portIdleEntry
  repeat' first
    | dsimp only
    | with_reducible apply Keeps.refl
    | ((with_reducible apply Keeps.cut (startEntry_keeps ..)); case hs => decide)
    | with_reducible apply Keeps.ite <;> intro _
    | split

theorem dieNetworkDoze_keeps (s : State) : Keeps [.regs, .power] s (dieNetworkDoze s) := by
  unfold dieNetworkDoze
  repeat' first
    | dsimp only
    | with_reducible apply Keeps.refl
    | ((with_reducible apply Keeps.cut (startEntry_keeps ..)); case hs => decide)
    | with_reducible apply Keeps.ite <;> intro _
    | split

theorem critDone_keeps (s : State) : Keeps [.resets] s (critDone s) := by
  unfold critDone
  repeat' first
    | dsimp only
    | with_reducible apply Keeps.refl
    | with_reducible apply Keeps.ite <;> intro _
    | split
    | with_reducible exact (Keeps.resets s _).mono (by decide)
    | ((with_reducible apply Keeps.cut (Keeps.resets ..)); case hs => decide)

theorem entryDone_keeps (s : State) (d : Nat) (t : PSt) : Keeps [.regs, .evts, .faults, .cores, .drover, .herd, .paddock, .fabric, .power, .resets, .sharal, .out] s (entryDone s d t) := by
  unfold entryDone
  repeat' first
    | dsimp only
    | with_reducible apply Keeps.refl
    | ((with_reducible apply Keeps.cut (critDone_keeps ..)); case hs => decide)
    | ((with_reducible apply Keeps.cut (domainLost_keeps ..)); case hs => decide)
    | ((with_reducible apply Keeps.cut (changeDom_keeps ..)); case hs => decide)
    | with_reducible apply Keeps.ite <;> intro _
    | split

theorem portBack_keeps (s : State) (d : Nat) (was : PSt) : Keeps [.regs, .evts, .fabric] s (portBack s d was) := by
  unfold portBack
  repeat' first
    | dsimp only
    | with_reducible apply Keeps.refl
    | ((with_reducible apply Keeps.cut (startTraining_keeps ..)); case hs => decide)
    | with_reducible apply Keeps.ite <;> intro _
    | split

theorem wakeDone_keeps (s : State) (d : Nat) : Keeps [.regs, .evts, .mem, .fabric, .power, .sharal] s (wakeDone s d) := by
  unfold wakeDone
  repeat' first
    | dsimp only
    | with_reducible apply Keeps.refl
    | ((with_reducible apply Keeps.cut (portBack_keeps ..)); case hs => decide)
    | ((with_reducible apply Keeps.cut (domainFilled_keeps ..)); case hs => decide)
    | ((with_reducible apply Keeps.cut (changeDom_keeps ..)); case hs => decide)
    | ((with_reducible apply Keeps.cut (countEvent_keeps ..)); case hs => decide)
    | with_reducible apply Keeps.ite <;> intro _
    | split

theorem domainTransitionComplete_keeps (s : State) (d : Nat) : Keeps [.regs, .evts, .faults, .mem, .cores, .drover, .herd, .paddock, .fabric, .power, .resets, .sharal, .out] s (domainTransitionComplete s d) := by
  unfold domainTransitionComplete
  repeat' first
    | dsimp only
    | with_reducible apply Keeps.refl
    | ((with_reducible apply Keeps.cut (wakeDone_keeps ..)); case hs => decide)
    | ((with_reducible apply Keeps.cut (entryDone_keeps ..)); case hs => decide)
    | with_reducible apply Keeps.ite <;> intro _
    | split

theorem critOff_keeps (s : State) (d : Nat) : Keeps [.regs, .power] s (critOff s d) := by
  unfold critOff
  repeat' first
    | dsimp only
    | with_reducible apply Keeps.refl
    | ((with_reducible apply Keeps.cut (startEntry_keeps ..)); case hs => decide)
    | with_reducible apply Keeps.ite <;> intro _
    | split

theorem imagesLost_keeps (s : State) : Keeps [.regs, .evts, .mem, .slots, .cores, .drover, .host] s (imagesLost s) := by
  unfold imagesLost
  repeat' first
    | dsimp only
    | with_reducible apply Keeps.refl
    | ((with_reducible apply Keeps.cut (refusePinned_keeps ..)); case hs => decide)
    | ((with_reducible apply Keeps.cut (postRec_keeps ..)); case hs => decide)
    | ((with_reducible apply Keeps.cut (imageAnswered_keeps ..)); case hs => decide)
    | ((with_reducible apply Keeps.cut (State.mapDrover_keeps ..)); case hs => decide)
    | ((with_reducible apply Keeps.cut (State.mapMem_keeps _ _ (fun _ hm => Memory.put_wf _ _ _ hm))); case hs => decide)
    | ((with_reducible apply Keeps.cut (State.mapMem_keeps _ _ (fun _ hm => Memory.mark_wf _ _ hm))); case hs => decide)
    | ((with_reducible apply Keeps.cut (State.mapMem_keeps _ _ (fun _ hm => Memory.putPart_wf _ _ _ hm))); case hs => decide)
    | ((with_reducible apply Keeps.cut (State.mapMem_keeps _ _ (fun _ hm => Memory.moveBlock_wf _ _ _ hm))); case hs => decide)
    | ((with_reducible apply Keeps.cut (State.mapMem_keeps _ _ (fun _ hm => Memory.zeroRange_wf _ _ _ hm))); case hs => decide)
    | ((with_reducible apply Keeps.cut (State.mapMem_keeps _ _ (fun _ hm => Memory.zeroRange_wf _ _ _ (Memory.zeroRange_wf _ _ _ hm)))); case hs => decide)
    | ((with_reducible apply Keeps.cut (State.mapMem_keeps _ _ (fun _ hm => atomicGo_wf _ _ _ _ _ hm))); case hs => decide)
    | ((with_reducible apply Keeps.cut (State.mapMem_keeps _ _ (fun _ hm => putHeader_wf _ _ _ _ hm))); case hs => decide)
    | ((with_reducible apply Keeps.cut (State.mapMem_keeps _ _ (fun _ hm => putHeader_wf _ _ _ _ (putGold_wf _ _ _ _ _ hm)))); case hs => decide)
    | ((with_reducible apply Keeps.cut (State.mapMem_keeps _ _ (fun _ hm => putHeader_wf _ _ _ _ (by split <;> first | exact putGold_wf _ _ _ _ _ hm | exact hm)))); case hs => decide)
    | ((with_reducible apply Keeps.cut (State.mapMem_keeps _ _ (fun _ hm => Memory.fromHost_wf _ _ _ _ hm))); case hs => decide)
    | ((with_reducible apply Keeps.cut (State.mapMem_keeps _ _ (fun _ hm => copyDown_wf _ _ _ _ _ hm))); case hs => decide)
    | ((with_reducible apply Keeps.cut (State.mapMem_keeps _ _ (fun _ hm => Memory.foldl_wf _ _ (fun _ _ h => freeCell_wf _ _ _ h) _ hm))); case hs => decide)
    | ((with_reducible apply Keeps.cut (State.mapMem_keeps _ _ (fun _ hm => Memory.foldl_wf _ _ (fun _ _ h => writePage_wf _ _ _ _ _ h) _ hm))); case hs => decide)
    | (with_reducible apply Keeps.foldl) <;> try intro _ _

theorem critical_keeps (s : State) : Keeps [.regs, .evts, .faults, .mem, .slots, .cores, .drover, .herd, .paddock, .fabric, .host, .power, .resets, .sharal, .free] s (critical s) := by
  unfold critical
  repeat' first
    | dsimp only
    | with_reducible apply Keeps.refl
    | ((with_reducible apply Keeps.cut (imagesLost_keeps ..)); case hs => decide)
    | ((with_reducible apply Keeps.cut (critOff_keeps ..)); case hs => decide)
    | ((with_reducible apply Keeps.cut (critDone_keeps ..)); case hs => decide)
    | ((with_reducible apply Keeps.cut (paddockReset_keeps ..)); case hs => decide)
    | ((with_reducible apply Keeps.cut (mandatory_keeps ..)); case hs => decide)
    | ((with_reducible apply Keeps.cut (smbAlert_keeps ..)); case hs => decide)
    | ((with_reducible apply Keeps.cut (abortWhere_keeps ..)); case hs => decide)
    | ((with_reducible apply Keeps.cut (haltBanks_keeps ..)); case hs => decide)
    | ((with_reducible apply Keeps.cut (State.mapPower_keeps ..)); case hs => decide)
    | ((with_reducible apply Keeps.cut (State.fault_keeps ..)); case hs => decide)
    | ((with_reducible apply Keeps.cut (State.pulse_keeps ..)); case hs => decide)
    | (with_reducible apply Keeps.foldl) <;> try intro _ _
    | with_reducible exact (Keeps.resets s _).mono (by decide)
    | ((with_reducible apply Keeps.cut (Keeps.resets ..)); case hs => decide)

theorem sensorSample_keeps (s : State) (t : List (BitVec 16)) : Keeps [.regs, .evts, .faults, .mem, .slots, .cores, .drover, .herd, .paddock, .fabric, .host, .power, .resets, .sharal, .free] s (sensorSample s t) := by
  unfold sensorSample
  repeat' first
    | dsimp only
    | with_reducible apply Keeps.refl
    | ((with_reducible apply Keeps.cut (critical_keeps ..)); case hs => decide)
    | ((with_reducible apply Keeps.cut (smbAlert_keeps ..)); case hs => decide)
    | ((with_reducible apply Keeps.cut (State.mapPower_keeps ..)); case hs => decide)
    | with_reducible apply Keeps.ite <;> intro _
    | split

theorem thermResume_keeps (s : State) (v : Word) : Keeps [.regs, .evts, .faults, .power] s (thermResume s v) := by
  unfold thermResume
  repeat' first
    | dsimp only
    | with_reducible apply Keeps.refl
    | ((with_reducible apply Keeps.cut (fieldRefused_keeps ..)); case hs => decide)
    | ((with_reducible apply Keeps.cut (State.mapPower_keeps ..)); case hs => decide)
    | with_reducible apply Keeps.ite <;> intro _
    | split

theorem cautionWrite_keeps (s : State) (v : Word) : Keeps [.regs, .evts, .faults] s (cautionWrite s v) := by
  unfold cautionWrite
  repeat' first
    | dsimp only
    | with_reducible apply Keeps.refl
    | ((with_reducible apply Keeps.cut (fieldRefused_keeps ..)); case hs => decide)
    | ((with_reducible apply Keeps.cut (State.setReg_keeps ..)); case hs => decide)
    | with_reducible apply Keeps.ite <;> intro _
    | split

theorem supplySample_keeps (s : State) (vin : BitVec 16) (iin : BitVec 16) (pin : BitVec 16) : Keeps [.regs, .power] s (supplySample s vin iin pin) := by
  unfold supplySample
  repeat' first
    | dsimp only
    | with_reducible apply Keeps.refl
    | ((with_reducible apply Keeps.cut (smbAlert_keeps ..)); case hs => decide)
    | ((with_reducible apply Keeps.cut (State.setReg_keeps ..)); case hs => decide)
    | with_reducible apply Keeps.ite <;> intro _
    | split

end Sys2Proof.Machine
end

