-- ==== Sys2Proof/Laws/Fence.lean ====
section
/-! SUPPORT. What the operations of Machine/Fence.lean may change. -/

set_option linter.unusedTactic false
set_option linter.unreachableTactic false

namespace Sys2Proof.Machine

theorem drvrNotes_keeps (s : State) (d : RDom) : Keeps [.faults] s (drvrNotes s d) := by
  unfold drvrNotes
  cases d <;> dsimp only <;> first
    | exact Keeps.refl _ _
    | exact Keeps.foldl _ _ (fun _ _ => State.fault_keeps ..) (Keeps.refl _ _)

theorem forgetAppends_keeps (s : State) (d : RDom) : Keeps [.cores] s (forgetAppends s d) := by
  unfold forgetAppends
  repeat' first
    | dsimp only
    | with_reducible apply Keeps.refl
    | with_reducible apply Keeps.ite <;> intro _
    | split
    | with_reducible exact (Keeps.cores s _).mono (by decide)
    | ((with_reducible apply Keeps.cut (Keeps.cores ..)); case hs => decide)

theorem forgetOps_keeps (s : State) (d : RDom) : Keeps [.paddock] s (forgetOps s d) := by
  unfold forgetOps
  repeat' first
    | dsimp only
    | with_reducible apply Keeps.refl
    | ((with_reducible apply Keeps.cut (haltBanks_keeps ..)); case hs => decide)
    | with_reducible apply Keeps.ite <;> intro _
    | split

theorem resetAborts_keeps (s : State) (d : RDom) (cause : Nat) : Keeps [.regs, .evts, .faults, .mem, .cores, .drover, .herd, .paddock, .fabric, .host, .power, .sharal, .free] s (resetAborts s d cause) := by
  unfold resetAborts
  repeat' first
    | dsimp only
    | with_reducible apply Keeps.refl
    | ((with_reducible apply Keeps.cut (forgetOps_keeps ..)); case hs => decide)
    | ((with_reducible apply Keeps.cut (forgetAppends_keeps ..)); case hs => decide)
    | ((with_reducible apply Keeps.cut (drvrNotes_keeps ..)); case hs => decide)
    | ((with_reducible apply Keeps.cut (closeWhere_keeps ..)); case hs => decide)
    | ((with_reducible apply Keeps.cut (abortWhere_keeps ..)); case hs => decide)
    | ((with_reducible apply Keeps.cut (abortHung_keeps ..)); case hs => decide)
    | with_reducible apply Keeps.ite <;> intro _
    | split

theorem resetNotice_keeps (s : State) (d : RDom) (cause : Nat) : Keeps [.faults] s (resetNotice s d cause) := by
  unfold resetNotice
  repeat' first
    | dsimp only
    | with_reducible apply Keeps.refl
    | ((with_reducible apply Keeps.cut (hostFault_keeps ..)); case hs => decide)
    | with_reducible apply Keeps.ite <;> intro _
    | split

theorem resetWakes_keeps (s : State) (d : RDom) : Keeps [.regs, .evts, .power, .sharal] s (resetWakes s d) := by
  unfold resetWakes
  repeat' first
    | dsimp only
    | with_reducible apply Keeps.refl
    | ((with_reducible apply Keeps.cut (startWake_keeps ..)); case hs => decide)
    | (with_reducible apply Keeps.foldl) <;> try intro _ _
    | with_reducible apply Keeps.ite <;> intro _
    | split

theorem mapResets_keeps (s : State) (f : Resets → Resets) : Keeps [.resets] s (mapResets s f) := by
  unfold mapResets
  repeat' first
    | dsimp only
    | with_reducible apply Keeps.refl
    | with_reducible exact (Keeps.resets s _).mono (by decide)
    | ((with_reducible apply Keeps.cut (Keeps.resets ..)); case hs => decide)

theorem tracePhase_keeps (s : State) (d : RDom) (cause : Nat) (phase : Nat) : Keeps [.sharal] s (tracePhase s d cause phase) := by
  unfold tracePhase
  repeat' first
    | dsimp only
    | with_reducible apply Keeps.refl
    | ((with_reducible apply Keeps.cut (traceEv_keeps ..)); case hs => decide)

theorem raise_keeps (s : State) (d : RDom) (cause : Nat) : Keeps [.regs, .evts, .faults, .mem, .cores, .drover, .herd, .paddock, .fabric, .host, .power, .resets, .sharal, .free] s (raise s d cause) := by
  unfold raise
  repeat' first
    | dsimp only
    | with_reducible apply Keeps.refl
    | ((with_reducible apply Keeps.cut (tracePhase_keeps ..)); case hs => decide)
    | ((with_reducible apply Keeps.cut (resetWakes_keeps ..)); case hs => decide)
    | ((with_reducible apply Keeps.cut (resetNotice_keeps ..)); case hs => decide)
    | ((with_reducible apply Keeps.cut (resetAborts_keeps ..)); case hs => decide)
    | ((with_reducible apply Keeps.cut (mandatory_keeps ..)); case hs => decide)
    | ((with_reducible apply Keeps.cut (State.bump_keeps ..)); case hs => decide)
    | ((with_reducible apply Keeps.cut (State.mapPower_keeps ..)); case hs => decide)
    | ((with_reducible apply Keeps.cut (State.pulse_keeps ..)); case hs => decide)
    | ((with_reducible apply Keeps.cut (State.setReg_keeps ..)); case hs => decide)
    | with_reducible apply Keeps.ite <;> intro _
    | split
    | with_reducible exact (Keeps.resets s _).mono (by decide)
    | ((with_reducible apply Keeps.cut (Keeps.resets ..)); case hs => decide)

theorem startReset_cut {s : State} {d : RDom} {cause : Nat} {refuse : State → State} {ps : List Part} {s0 : State} (h0 : Keeps ps s0 s) (hgo0 : ∀ (y0_0 : State), Keeps ps y0_0 (refuse y0_0))
    (hs : [.regs, .evts, .faults, .mem, .cores, .drover, .herd, .paddock, .fabric, .host, .power, .resets, .sharal, .free] ⊆ ps) : Keeps ps s0 (startReset s d cause refuse) := by
  unfold startReset
  repeat' first
    | dsimp only
    | with_reducible apply Keeps.refl
    | exact h0
    | ((with_reducible apply Keeps.cut (hgo0 ..)); case hs => exact fun _ hm => hm)
    | ((with_reducible apply Keeps.cut (raise_keeps ..)); case hs => exact List.Subset.trans (by decide) hs)
    | ((with_reducible apply Keeps.cut (refuse_keeps ..)); case hs => exact List.Subset.trans (by decide) hs)
    | with_reducible apply Keeps.ite <;> intro _
    | split

theorem resetCmd_keeps (s : State) : Keeps [.regs, .evts, .faults, .mem, .cores, .drover, .herd, .paddock, .fabric, .host, .power, .resets, .sharal, .free] s (resetCmd s) := by
  unfold resetCmd
  repeat' first
    | dsimp only
    | with_reducible apply Keeps.refl
    | ((with_reducible apply startReset_cut); case hs => decide)
    | ((with_reducible apply Keeps.cut (refuse_keeps ..)); case hs => decide)
    | ((with_reducible apply Keeps.cut (State.strobeRefused_keeps ..)); case hs => decide)
    | with_reducible apply Keeps.ite <;> intro _
    | split
    | intro _
    | exact Keeps.refl _ _

theorem pcieHotReset_keeps (s : State) : Keeps [.regs, .evts, .faults, .mem, .cores, .drover, .herd, .paddock, .fabric, .host, .power, .resets, .sharal, .free] s (pcieHotReset s) := by
  unfold pcieHotReset
  repeat' first
    | dsimp only
    | with_reducible apply Keeps.refl
    | ((with_reducible apply startReset_cut); case hs => decide)
    | with_reducible apply Keeps.ite <;> intro _
    | split
    | intro _
    | exact Keeps.refl _ _

theorem modRst_keeps (s : State) : Keeps [.regs, .evts, .faults, .mem, .cores, .drover, .herd, .paddock, .fabric, .host, .power, .resets, .sharal, .free] s (modRst s) := by
  unfold modRst
  repeat' first
    | dsimp only
    | with_reducible apply Keeps.refl
    | ((with_reducible apply startReset_cut); case hs => decide)
    | with_reducible apply Keeps.ite <;> intro _
    | split
    | intro _
    | exact Keeps.refl _ _

theorem hung_keeps (s : State) (unit : Nat) (t : Nat) : Keeps [.regs, .evts, .faults, .mem, .cores, .drover, .herd, .paddock, .fabric, .host, .power, .resets, .sharal, .free] s (hung s unit t) := by
  unfold hung
  repeat' first
    | dsimp only
    | with_reducible apply Keeps.refl
    | ((with_reducible apply startReset_cut); case hs => decide)
    | ((with_reducible apply Keeps.cut (State.fault_keeps ..)); case hs => decide)
    | with_reducible apply Keeps.ite <;> intro _
    | split
    | intro _
    | exact Keeps.refl _ _

theorem hangDetect_keeps (s : State) : Keeps [.regs, .evts, .faults, .mem, .cores, .drover, .herd, .paddock, .fabric, .host, .power, .resets, .sharal, .free] s (hangDetect s) := by
  unfold hangDetect
  repeat' first
    | dsimp only
    | with_reducible apply Keeps.refl
    | ((with_reducible apply Keeps.cut (hung_keeps ..)); case hs => decide)
    | ((with_reducible apply Keeps.cut (State.mapDrover_keeps ..)); case hs => decide)
    | with_reducible apply Keeps.ite <;> intro _
    | split

theorem heartbeatCheck_keeps (s : State) (beat : Bool) : Keeps [.resets] s (heartbeatCheck s beat) := by
  unfold heartbeatCheck
  repeat' first
    | dsimp only
    | with_reducible apply Keeps.refl
    | ((with_reducible apply Keeps.cut (mapResets_keeps ..)); case hs => decide)
    | with_reducible apply Keeps.ite <;> intro _
    | split

theorem watchdogExpire_keeps (s : State) : Keeps [.regs, .evts, .faults, .mem, .cores, .drover, .herd, .paddock, .fabric, .host, .power, .resets, .sharal, .free] s (watchdogExpire s) := by
  unfold watchdogExpire
  repeat' first
    | dsimp only
    | with_reducible apply Keeps.refl
    | ((with_reducible apply startReset_cut); case hs => decide)
    | ((with_reducible apply Keeps.cut (mapResets_keeps ..)); case hs => decide)
    | with_reducible apply Keeps.ite <;> intro _
    | split
    | intro _
    | exact Keeps.refl _ _

end Sys2Proof.Machine
end

