-- ==== Sys2Proof/Laws/Resets.lean ====
section
/-! SUPPORT. What the operations of Machine/Resets.lean may change. -/

set_option linter.unusedTactic false
set_option linter.unreachableTactic false

namespace Sys2Proof.Machine

theorem dropChannel_keeps (cores : List Nat) (s : State) (c : Nat) (ch : Nat) : Keeps [.faults, .cores, .drover] s (dropChannel cores s c ch) := by
  unfold dropChannel
  repeat' first
    | dsimp only
    | with_reducible apply Keeps.refl
    | ((with_reducible apply Keeps.cut (chanFault_keeps ..)); case hs => decide)
    | ((with_reducible apply Keeps.cut (State.mapCore_keeps ..)); case hs => decide)
    | with_reducible apply Keeps.ite <;> intro _
    | split

theorem dropOpen_keeps (s : State) (d : RDom) : Keeps [.regs, .evts, .faults, .cores, .drover, .host, .out] s (dropOpen s d) := by
  unfold dropOpen
  repeat' first
    | dsimp only
    | with_reducible apply Keeps.refl
    | ((with_reducible apply Keeps.cut (dropChannel_keeps ..)); case hs => decide)
    | ((with_reducible apply Keeps.cut (bar2Refused_keeps ..)); case hs => decide)
    | ((with_reducible apply Keeps.cut (State.mapHost_keeps ..)); case hs => decide)
    | (with_reducible apply Keeps.foldl) <;> try intro _ _

theorem setRun_keeps (s : State) (r : RRun) : Keeps [.resets] s (setRun s r) := by
  unfold setRun
  repeat' first
    | dsimp only
    | with_reducible apply Keeps.refl
    | ((with_reducible apply Keeps.cut (mapResets_keeps ..)); case hs => decide)
    | with_reducible apply Keeps.ite <;> intro _
    | split

theorem setChain_keeps (s : State) (c : Chain) : Keeps [.resets] s (setChain s c) := by
  unfold setChain
  repeat' first
    | dsimp only
    | with_reducible apply Keeps.refl
    | ((with_reducible apply Keeps.cut (mapResets_keeps ..)); case hs => decide)
    | with_reducible apply Keeps.ite <;> intro _
    | split

theorem sampleBegin_keeps (s : State) (r : RRun) : Keeps [.regs, .resets] s (sampleBegin s r) := by
  unfold sampleBegin
  repeat' first
    | dsimp only
    | with_reducible apply Keeps.refl
    | ((with_reducible apply Keeps.cut (setChain_keeps ..)); case hs => decide)
    | ((with_reducible apply Keeps.cut (mapResets_keeps ..)); case hs => decide)
    | ((with_reducible apply Keeps.cut (State.hardReg_keeps ..)); case hs => decide)
    | ((with_reducible apply Keeps.cut (State.setReg_keeps ..)); case hs => decide)
    | with_reducible apply Keeps.ite <;> intro _
    | split

theorem resetDrainEnd_keeps (s : State) (d : RDom) : Keeps [.regs, .evts, .faults, .cores, .drover, .host, .resets, .sharal, .out] s (resetDrainEnd s d) := by
  unfold resetDrainEnd
  repeat' first
    | dsimp only
    | with_reducible apply Keeps.refl
    | ((with_reducible apply Keeps.cut (sampleBegin_keeps ..)); case hs => decide)
    | ((with_reducible apply Keeps.cut (setRun_keeps ..)); case hs => decide)
    | ((with_reducible apply Keeps.cut (dropOpen_keeps ..)); case hs => decide)
    | ((with_reducible apply Keeps.cut (tracePhase_keeps ..)); case hs => decide)
    | with_reducible apply Keeps.ite <;> intro _
    | split

theorem sampleReadTimeout_keeps (s : State) (d : RDom) (u : SampleUnit) : Keeps [.resets] s (sampleReadTimeout s d u) := by
  unfold sampleReadTimeout
  repeat' first
    | dsimp only
    | with_reducible apply Keeps.refl
    | ((with_reducible apply Keeps.cut (setChain_keeps ..)); case hs => decide)
    | with_reducible apply Keeps.ite <;> intro _
    | split

theorem truncated_keeps (s : State) (c : Chain) : Keeps [.regs, .resets] s (truncated s c) := by
  unfold truncated
  repeat' first
    | dsimp only
    | with_reducible apply Keeps.refl
    | ((with_reducible apply Keeps.cut (setChain_keeps ..)); case hs => decide)
    | ((with_reducible apply Keeps.cut (State.setReg_keeps ..)); case hs => decide)

theorem putRecord_keeps (s : State) (id : Nat) (r : List Byte × Bool) : Keeps [.regs, .evts, .faults, .mem, .cores, .drover, .herd, .paddock, .fabric, .host, .power, .resets, .sharal, .out, .free] s (putRecord s id r) := by
  unfold putRecord
  repeat' first
    | dsimp only
    | with_reducible apply Keeps.refl
    | ((with_reducible apply Keeps.cut (truncated_keeps ..)); case hs => decide)
    | ((with_reducible apply Keeps.cut (setChain_keeps ..)); case hs => decide)
    | ((with_reducible apply Keeps.cut (mapResets_keeps ..)); case hs => decide)
    | ((with_reducible apply Keeps.cut (State.toHost_keeps ..)); case hs => decide)
    | with_reducible apply Keeps.ite <;> intro _
    | split

theorem resetAssert_keeps (s : State) (d : RDom) : Keeps [.regs, .evts, .faults, .mem, .cores, .drover, .herd, .paddock, .fabric, .host, .power, .resets, .sharal, .out, .free] s (resetAssert s d) := by
  unfold resetAssert
  repeat' first
    | dsimp only
    | with_reducible apply Keeps.refl
    | ((with_reducible apply Keeps.cut (putRecord_keeps ..)); case hs => decide)
    | ((with_reducible apply Keeps.cut (setRun_keeps ..)); case hs => decide)
    | ((with_reducible apply Keeps.cut (tracePhase_keeps ..)); case hs => decide)
    | (with_reducible apply Keeps.foldl) <;> try intro _ _
    | with_reducible apply Keeps.ite <;> intro _
    | split

theorem mgmtLost_keeps (s : State) : Keeps [.regs, .evts, .faults, .power, .resets, .sharal, .roles] s (mgmtLost s) := by
  unfold mgmtLost
  dsimp only
  generalize hu : State.mapPower _ _ = u
  have k : Keeps [.regs, .evts, .faults, .power, .resets, .sharal, .roles] s u := by
    rw [← hu]
    exact Keeps.cut (State.mapPower_keeps ..) (by decide) (Keeps.cut (pageLost_keeps ..) (by decide)
      (Keeps.cut (pageLost_keeps ..) (by decide) ((pageLost_keeps ..).mono (by decide))))
  exact Keeps.parts (t := u) k ⟨rfl, fun p hp => by cases p <;> first | rfl | simp at hp⟩
    (by first | exact .inl rfl | exact .inr rfl) (by first | exact .inl rfl | exact .inr rfl)
    (fun p hp => by first | exact hp | (cases hp; done) | exact List.mem_of_mem_filter hp)

theorem portInit_keeps (s : State) (p : Nat) : Keeps [.regs, .evts, .faults, .fabric, .out] s (portInit s p) := by
  unfold portInit
  repeat' first
    | dsimp only
    | with_reducible apply Keeps.refl
    | ((with_reducible apply Keeps.cut (portLost_keeps ..)); case hs => decide)
    | ((with_reducible apply Keeps.cut (State.emit_keeps ..)); case hs => decide)
    | with_reducible apply Keeps.ite <;> intro _
    | split

theorem runNow_keeps (s : State) (d : Nat) : Keeps [.power] s (runNow s d) := by
  unfold runNow
  repeat' first
    | dsimp only
    | with_reducible apply Keeps.refl
    | ((with_reducible apply Keeps.cut (State.setDom_keeps ..)); case hs => decide)

theorem offNow_keeps (s : State) (d : Nat) : Keeps [.power] s (offNow s d) := by
  unfold offNow
  repeat' first
    | dsimp only
    | with_reducible apply Keeps.refl
    | ((with_reducible apply Keeps.cut (State.setDom_keeps ..)); case hs => decide)

theorem allRun_keeps (s : State) : Keeps [.power] s (allRun s) := by
  unfold allRun
  repeat' first
    | dsimp only
    | with_reducible apply Keeps.refl
    | ((with_reducible apply Keeps.cut (offNow_keeps ..)); case hs => decide)
    | ((with_reducible apply Keeps.cut (runNow_keeps ..)); case hs => decide)
    | (with_reducible apply Keeps.foldl) <;> try intro _ _
    | with_reducible apply Keeps.ite <;> intro _
    | split

theorem moduleLost_keeps (s : State) : Keeps [.regs, .evts, .faults, .mem, .slots, .soft, .cores, .drover, .herd, .paddock, .fabric, .host, .power, .resets, .sharal, .roles, .out] s (moduleLost s) := by
  unfold moduleLost
  dsimp only
  generalize hu : mgmtLost _ = u
  have k : Keeps [.regs, .evts, .faults, .mem, .slots, .soft, .cores, .drover, .herd, .paddock, .fabric, .host, .power, .resets, .sharal, .roles, .out] s u := by
    rw [← hu]
    exact Keeps.cut (mgmtLost_keeps ..) (by decide) (Keeps.cut (hostLost_keeps ..) (by decide)
      (Keeps.foldl _ _ (fun _ _ => (portInit_keeps ..).mono (by decide)) (Keeps.refl _ _)))
  refine Keeps.cut (State.mapPower_keeps ..) (by decide) (Keeps.cut (allRun_keeps ..) (by decide)
    (Keeps.cut (State.mapHost_keeps ..) (by decide) ?_))
  exact Keeps.parts (t := u) k ⟨rfl, fun p hp => by cases p <;> first | rfl | simp at hp⟩
    (by first | exact .inl rfl | exact .inr rfl) (by first | exact .inl rfl | exact .inr rfl)
    (fun p hp => by first | exact hp | (cases hp; done) | exact List.mem_of_mem_filter hp)

theorem computeLost_keeps (s : State) : Keeps [.regs, .evts, .faults, .cores, .drover] s (computeLost s) := by
  unfold computeLost
  repeat' first
    | dsimp only
    | with_reducible apply Keeps.refl
    | ((with_reducible apply Keeps.cut (droverLost_keeps ..)); case hs => decide)
    | ((with_reducible apply Keeps.cut (foldLost_keeps ..)); case hs => decide)
    | (with_reducible apply Keeps.foldl) <;> try intro _ _

theorem resetLost_keeps (s : State) (d : RDom) : Keeps [.regs, .evts, .faults, .mem, .slots, .soft, .cores, .drover, .herd, .paddock, .fabric, .host, .power, .resets, .sharal, .roles, .out] s (resetLost s d) := by
  unfold resetLost
  repeat' first
    | dsimp only
    | with_reducible apply Keeps.refl
    | ((with_reducible apply Keeps.cut (computeLost_keeps ..)); case hs => decide)
    | ((with_reducible apply Keeps.cut (moduleLost_keeps ..)); case hs => decide)
    | ((with_reducible apply Keeps.cut (portInit_keeps ..)); case hs => decide)
    | ((with_reducible apply Keeps.cut (mgmtLost_keeps ..)); case hs => decide)
    | ((with_reducible apply Keeps.cut (paddockReset_keeps ..)); case hs => decide)
    | ((with_reducible apply Keeps.cut (herdLost_keeps ..)); case hs => decide)
    | ((with_reducible apply Keeps.cut (foldLost_keeps ..)); case hs => decide)
    | ((with_reducible apply Keeps.cut (coreLost_keeps ..)); case hs => decide)
    | ((with_reducible apply Keeps.cut (hostLost_keeps ..)); case hs => decide)
    | with_reducible apply Keeps.ite <;> intro _
    | split

theorem chainEnd_keeps (s : State) (c : Chain) : Keeps [.regs, .evts, .faults, .mem, .cores, .drover, .herd, .paddock, .fabric, .host, .power, .resets, .sharal, .out, .free] s (chainEnd s c) := by
  unfold chainEnd
  repeat' first
    | dsimp only
    | with_reducible apply Keeps.refl
    | ((with_reducible apply Keeps.cut (mapResets_keeps ..)); case hs => decide)
    | ((with_reducible apply Keeps.cut (State.toHost_keeps ..)); case hs => decide)
    | ((with_reducible apply Keeps.cut (State.pulse_keeps ..)); case hs => decide)
    | ((with_reducible apply Keeps.cut (State.setReg_keeps ..)); case hs => decide)
    | with_reducible apply Keeps.ite <;> intro _
    | split

theorem critRest_keeps (s : State) : Keeps [.regs, .power, .resets] s (critRest s) := by
  unfold critRest
  repeat' first
    | dsimp only
    | with_reducible apply Keeps.refl
    | ((with_reducible apply Keeps.cut (critOff_keeps ..)); case hs => decide)
    | ((with_reducible apply Keeps.cut (critDone_keeps ..)); case hs => decide)
    | (with_reducible apply Keeps.foldl) <;> try intro _ _
    | with_reducible apply Keeps.ite <;> intro _
    | split

theorem resetComplete_keeps (s : State) (d : RDom) : Keeps [.regs, .evts, .faults, .mem, .slots, .soft, .cores, .drover, .herd, .paddock, .fabric, .host, .power, .resets, .sharal, .roles, .out, .free] s (resetComplete s d) := by
  unfold resetComplete
  repeat' first
    | dsimp only
    | with_reducible apply Keeps.refl
    | ((with_reducible apply Keeps.cut (critRest_keeps ..)); case hs => decide)
    | ((with_reducible apply Keeps.cut (chainEnd_keeps ..)); case hs => decide)
    | ((with_reducible apply Keeps.cut (resetLost_keeps ..)); case hs => decide)
    | ((with_reducible apply Keeps.cut (tracePhase_keeps ..)); case hs => decide)
    | ((with_reducible apply Keeps.cut (mapResets_keeps ..)); case hs => decide)
    | ((with_reducible apply Keeps.cut (State.pulse_keeps ..)); case hs => decide)
    | with_reducible apply Keeps.ite <;> intro _
    | split

theorem resetEscalate_keeps (s : State) (d : RDom) : Keeps [.regs, .evts, .faults, .mem, .cores, .drover, .herd, .paddock, .fabric, .host, .power, .resets, .sharal, .free] s (resetEscalate s d) := by
  unfold resetEscalate
  repeat' first
    | dsimp only
    | with_reducible apply Keeps.refl
    | ((with_reducible apply Keeps.cut (raise_keeps ..)); case hs => decide)
    | ((with_reducible apply Keeps.cut (State.bump_keeps ..)); case hs => decide)
    | with_reducible apply Keeps.ite <;> intro _
    | split

theorem dumpCtrl_keeps (s : State) (v : Word) : Keeps [.regs, .faults, .soft, .resets] s (dumpCtrl s v) := by
  unfold dumpCtrl
  repeat' first
    | dsimp only
    | with_reducible apply Keeps.refl
    | ((with_reducible apply Keeps.cut (mapResets_keeps ..)); case hs => decide)
    | ((with_reducible apply Keeps.cut (State.strobeRefused_keeps ..)); case hs => decide)
    | ((with_reducible apply Keeps.cut (State.softReg_keeps ..)); case hs => decide)
    | with_reducible apply Keeps.ite <;> intro _
    | split

theorem aoAdvance_keeps (s : State) : Keeps [.regs] s (aoAdvance s) := by
  unfold aoAdvance
  repeat' first
    | dsimp only
    | with_reducible apply Keeps.refl
    | ((with_reducible apply Keeps.cut (State.hardReg_keeps ..)); case hs => decide)
    | with_reducible apply Keeps.ite <;> intro _
    | split

end Sys2Proof.Machine
end

