-- ==== Sys2Proof/Laws/Startup.lean ====
section
/-! SUPPORT. What the operations of Machine/Startup.lean may change. -/

set_option linter.unusedTactic false
set_option linter.unreachableTactic false

namespace Sys2Proof.Machine

theorem allOff_keeps (s : State) : Keeps [.regs, .evts, .faults, .mem, .slots, .cores, .drover, .herd, .paddock, .fabric, .host, .power, .resets, .sharal] s (allOff s) := by
  unfold allOff
  refine Keeps.cut (State.mapPower_keeps ..) (by decide) (Keeps.foldl _ _ (fun _ _ => (offNow_keeps ..).mono (by decide)) ?_)
  exact Keeps.parts (t := s) (Keeps.refl _ s) ⟨rfl, fun p hp => by cases p <;> first | rfl | simp at hp⟩
    (by first | exact .inl rfl | exact .inr rfl) (by first | exact .inl rfl | exact .inr rfl)
    (fun p hp => by first | exact hp | (cases hp; done) | exact List.mem_of_mem_filter hp)

theorem closeRecord_keeps (s : State) : Keeps [.sharal] s (closeRecord s) := by
  unfold closeRecord
  repeat' first
    | dsimp only
    | with_reducible apply Keeps.refl
    | ((with_reducible apply Keeps.cut (State.mapTally_keeps ..)); case hs => decide)

theorem programAll_keeps (s : State) : Keeps [.sharal] s (programAll s) := by
  unfold programAll
  repeat' first
    | dsimp only
    | with_reducible apply Keeps.refl
    | ((with_reducible apply Keeps.cut (State.mapTally_keeps ..)); case hs => decide)

theorem supplyOff_keeps (s : State) (code : Nat) : Keeps [.regs, .evts, .faults, .mem, .slots, .cores, .drover, .herd, .paddock, .fabric, .host, .power, .resets, .sharal] s (supplyOff s code) := by
  unfold supplyOff
  repeat' first
    | dsimp only
    | with_reducible apply Keeps.refl
    | ((with_reducible apply Keeps.cut (allOff_keeps ..)); case hs => decide)
    | ((with_reducible apply Keeps.cut (mandatory_keeps ..)); case hs => decide)
    | ((with_reducible apply Keeps.cut (State.mapPower_keeps ..)); case hs => decide)

theorem underVoltage_keeps (s : State) : Keeps [.regs, .evts, .faults, .mem, .slots, .cores, .drover, .herd, .paddock, .fabric, .host, .power, .resets, .sharal] s (underVoltage s) := by
  unfold underVoltage
  repeat' first
    | dsimp only
    | with_reducible apply Keeps.refl
    | ((with_reducible apply Keeps.cut (supplyOff_keeps ..)); case hs => decide)
    | ((with_reducible apply Keeps.cut (programAll_keeps ..)); case hs => decide)
    | ((with_reducible apply Keeps.cut (closeRecord_keeps ..)); case hs => decide)
    | with_reducible apply Keeps.ite <;> intro _
    | split

theorem overVoltage_keeps (s : State) : Keeps [.regs, .evts, .faults, .mem, .slots, .cores, .drover, .herd, .paddock, .fabric, .host, .power, .resets, .sharal] s (overVoltage s) := by
  unfold overVoltage
  repeat' first
    | dsimp only
    | with_reducible apply Keeps.refl
    | ((with_reducible apply Keeps.cut (supplyOff_keeps ..)); case hs => decide)
    | with_reducible apply Keeps.ite <;> intro _
    | split

theorem referenceLoss_keeps (s : State) : Keeps [.regs, .evts, .faults, .mem, .slots, .cores, .drover, .herd, .paddock, .fabric, .host, .power, .resets, .sharal] s (referenceLoss s) := by
  unfold referenceLoss
  repeat' first
    | dsimp only
    | with_reducible apply Keeps.refl
    | ((with_reducible apply Keeps.cut (closeRecord_keeps ..)); case hs => decide)
    | ((with_reducible apply Keeps.cut (allOff_keeps ..)); case hs => decide)
    | ((with_reducible apply Keeps.cut (State.mapPower_keeps ..)); case hs => decide)
    | with_reducible apply Keeps.ite <;> intro _
    | split

theorem bootBegin_keeps (s : State) : Keeps [.regs, .evts, .faults, .power, .resets, .sharal, .roles] s (bootBegin s) := by
  unfold bootBegin
  repeat' first
    | dsimp only
    | with_reducible apply Keeps.refl
    | with_reducible exact (Keeps.regs s _).mono (by decide)
    | with_reducible exact (Keeps.evts s _).mono (by decide)
    | with_reducible exact (Keeps.power s _).mono (by decide)
    | with_reducible exact (Keeps.resets s _).mono (by decide)
    | with_reducible exact (Keeps.sharal s _).mono (by decide)
    | exact Keeps.parts (Keeps.refl _ s) ⟨rfl, fun p hp => by cases p <;> first | rfl | simp at hp⟩ (by first | exact .inl rfl | exact .inr rfl) (by first | exact .inl rfl | exact .inr rfl) (fun p hp => by first | exact hp | cases hp; done | exact List.mem_of_mem_filter hp)

theorem bootFails_keeps (s : State) : Keeps [.regs, .power] s (bootFails s) := by
  unfold bootFails
  repeat' first
    | dsimp only
    | with_reducible apply Keeps.refl
    | ((with_reducible apply Keeps.cut (State.mapPower_keeps ..)); case hs => decide)
    | ((with_reducible apply Keeps.cut (State.setReg_keeps ..)); case hs => decide)

theorem bootStep4_keeps (s : State) (a : Nat) : Keeps [.regs, .evts, .power, .sharal] s (bootStep4 s a) := by
  unfold bootStep4
  repeat' first
    | dsimp only
    | with_reducible apply Keeps.refl
    | ((with_reducible apply Keeps.cut (mandatory_keeps ..)); case hs => decide)
    | ((with_reducible apply Keeps.cut (State.mapTally_keeps ..)); case hs => decide)
    | ((with_reducible apply Keeps.cut (State.setReg_keeps ..)); case hs => decide)
    | with_reducible apply Keeps.ite <;> intro _
    | split
    | with_reducible exact (Keeps.sharal s _).mono (by decide)
    | ((with_reducible apply Keeps.cut (Keeps.sharal ..)); case hs => decide)

theorem applyFabric_keeps (s : State) (r : FabRec) : Keeps [.regs, .evts, .fabric, .power, .sharal] s (applyFabric s r) := by
  unfold applyFabric
  repeat' first
    | dsimp only
    | with_reducible apply Keeps.refl
    | ((with_reducible apply Keeps.cut (powerPorts_keeps ..)); case hs => decide)
    | ((with_reducible apply Keeps.cut (State.mapFabric_keeps ..)); case hs => decide)
    | ((with_reducible apply Keeps.cut (State.setReg_keeps ..)); case hs => decide)
    | (with_reducible apply Keeps.foldl) <;> try intro _ _

theorem bootDoms_keeps (s : State) (failed : Bool) : Keeps [.power] s (bootDoms s failed) := by
  unfold bootDoms
  repeat' first
    | dsimp only
    | with_reducible apply Keeps.refl
    | ((with_reducible apply Keeps.cut (runNow_keeps ..)); case hs => decide)
    | (with_reducible apply Keeps.foldl) <;> try intro _ _
    | with_reducible apply Keeps.ite <;> intro _
    | split

theorem selfTestFailed_keeps (s : State) (boot : Word) : Keeps [.regs, .evts, .power, .resets, .sharal] s (selfTestFailed s boot) := by
  unfold selfTestFailed
  dsimp only
  have k : Keeps [.regs, .evts, .power, .resets, .sharal] s (mandatory s 0x1005 [boot]) := (mandatory_keeps ..).mono (by decide)
  generalize mandatory s 0x1005 [boot] = u at *
  exact Keeps.parts (t := u) k ⟨rfl, fun p hp => by cases p <;> first | rfl | simp at hp⟩
    (by first | exact .inl rfl | exact .inr rfl) (by first | exact .inl rfl | exact .inr rfl)
    (fun p hp => by first | exact hp | (cases hp; done) | exact List.mem_of_mem_filter hp)

theorem bootRun_keeps (s : State) (a : Nat) (fail : Option TestFail) : Keeps [.regs, .evts, .fabric, .host, .power, .resets, .sharal] s (bootRun s a fail) := by
  unfold bootRun
  repeat' first
    | dsimp only
    | with_reducible apply Keeps.refl
    | ((with_reducible apply Keeps.cut (selfTestFailed_keeps ..)); case hs => decide)
    | ((with_reducible apply Keeps.cut (bootDoms_keeps ..)); case hs => decide)
    | ((with_reducible apply Keeps.cut (applyFabric_keeps ..)); case hs => decide)
    | ((with_reducible apply Keeps.cut (State.mapHost_keeps ..)); case hs => decide)
    | ((with_reducible apply Keeps.cut (State.mapPower_keeps ..)); case hs => decide)
    | ((with_reducible apply Keeps.cut (State.setReg_keeps ..)); case hs => decide)
    | with_reducible apply Keeps.ite <;> intro _
    | split

theorem startUp_keeps (s : State) (fail : Option TestFail) : Keeps [.regs, .evts, .faults, .fabric, .host, .power, .resets, .sharal, .roles] s (startUp s fail) := by
  unfold startUp
  repeat' first
    | dsimp only
    | with_reducible apply Keeps.refl
    | ((with_reducible apply Keeps.cut (bootRun_keeps ..)); case hs => decide)
    | ((with_reducible apply Keeps.cut (bootStep4_keeps ..)); case hs => decide)
    | ((with_reducible apply Keeps.cut (bootFails_keeps ..)); case hs => decide)
    | ((with_reducible apply Keeps.cut (bootBegin_keeps ..)); case hs => decide)
    | with_reducible apply Keeps.ite <;> intro _
    | split

theorem supplyRestore_keeps (s : State) (fail : Option TestFail) : Keeps [.regs, .evts, .faults, .fabric, .host, .power, .resets, .sharal, .roles] s (supplyRestore s fail) := by
  unfold supplyRestore
  repeat' first
    | dsimp only
    | with_reducible apply Keeps.refl
    | ((with_reducible apply Keeps.cut (startUp_keeps ..)); case hs => decide)
    | ((with_reducible apply Keeps.cut (State.mapPower_keeps ..)); case hs => decide)
    | with_reducible apply Keeps.ite <;> intro _
    | split

theorem referenceReturn_keeps (s : State) (fail : Option TestFail) : Keeps [.regs, .evts, .faults, .fabric, .host, .power, .resets, .sharal, .roles] s (referenceReturn s fail) := by
  unfold referenceReturn
  repeat' first
    | dsimp only
    | with_reducible apply Keeps.refl
    | ((with_reducible apply Keeps.cut (startUp_keeps ..)); case hs => decide)
    | ((with_reducible apply Keeps.cut (mandatory_keeps ..)); case hs => decide)
    | ((with_reducible apply Keeps.cut (State.mapPower_keeps ..)); case hs => decide)
    | with_reducible apply Keeps.ite <;> intro _
    | split

theorem powerLoss_keeps (s : State) : Keeps [.now, .regs, .evts, .faults, .mem, .slots, .cores, .drover, .herd, .paddock, .fabric, .host, .power, .resets, .sharal, .roles] s (powerLoss s) := by
  unfold powerLoss
  with_reducible apply Keeps.ite <;> intro _
  · exact Keeps.refl _ _
  · dsimp only
    have k : Keeps [.now, .regs, .evts, .faults, .mem, .slots, .cores, .drover, .herd, .paddock, .fabric, .host, .power, .resets, .sharal, .roles] s (allOff s) := (allOff_keeps ..).mono (by decide)
    generalize allOff s = u at *
    exact Keeps.parts (t := u) k ⟨rfl, fun p hp => by cases p <;> first | rfl | simp at hp⟩
      (by first | exact .inl rfl | exact .inr rfl) (by first | exact .inl rfl | exact .inr rfl)
      (fun p hp => by first | exact hp | (cases hp; done) | exact List.mem_of_mem_filter hp)

theorem powerUp_keeps (s : State) (fail : Option TestFail) : Keeps [.now, .regs, .evts, .faults, .fabric, .host, .power, .resets, .sharal, .roles] s (powerUp s fail) := by
  unfold powerUp
  with_reducible apply Keeps.ite <;> intro _
  · exact Keeps.refl _ _
  · refine Keeps.cut (startUp_keeps ..) (by decide) ?_
    exact Keeps.parts (t := s) (Keeps.refl _ s) ⟨rfl, fun p hp => by cases p <;> first | rfl | simp at hp⟩
      (by first | exact .inl rfl | exact .inr rfl) (by first | exact .inl rfl | exact .inr rfl)
      (fun p hp => by first | exact hp | (cases hp; done) | exact List.mem_of_mem_filter hp)

end Sys2Proof.Machine
end

