-- ==== Sys2Proof/Laws/Observe.lean ====
section
/-! SUPPORT. What the operations of Machine/Observe.lean may change. -/

set_option linter.unusedTactic false
set_option linter.unreachableTactic false

namespace Sys2Proof.Machine

theorem traceStart_keeps (s : State) : Keeps [.sharal] s (traceStart s) := by
  unfold traceStart
  repeat' first
    | dsimp only
    | with_reducible apply Keeps.refl
    | ((with_reducible apply Keeps.cut (State.mapSharal_keeps ..)); case hs => decide)

theorem traceStop_keeps (s : State) : Keeps [.sharal] s (traceStop s) := by
  unfold traceStop
  repeat' first
    | dsimp only
    | with_reducible apply Keeps.refl
    | ((with_reducible apply Keeps.cut (State.mapSharal_keeps ..)); case hs => decide)

theorem traceCopy_keeps (s : State) : Keeps [.regs, .evts, .faults, .mem, .cores, .drover, .herd, .paddock, .fabric, .host, .power, .sharal, .out, .free] s (traceCopy s) := by
  unfold traceCopy
  repeat' first
    | dsimp only
    | with_reducible apply Keeps.refl
    | ((with_reducible apply Keeps.cut (State.mapSharal_keeps ..)); case hs => decide)
    | ((with_reducible apply Keeps.cut (State.toHost_keeps ..)); case hs => decide)
    | ((with_reducible apply Keeps.cut (State.strobeRefused_keeps ..)); case hs => decide)
    | with_reducible apply Keeps.ite <;> intro _
    | split

theorem traceCtrl_keeps (s : State) (v : Word) : Keeps [.regs, .evts, .faults, .mem, .cores, .drover, .herd, .paddock, .fabric, .host, .power, .sharal, .out, .free] s (traceCtrl s v) := by
  unfold traceCtrl
  repeat' first
    | dsimp only
    | with_reducible apply Keeps.refl
    | ((with_reducible apply Keeps.cut (traceCopy_keeps ..)); case hs => decide)
    | ((with_reducible apply Keeps.cut (traceStop_keeps ..)); case hs => decide)
    | ((with_reducible apply Keeps.cut (traceStart_keeps ..)); case hs => decide)
    | ((with_reducible apply Keeps.cut (State.setReg_keeps ..)); case hs => decide)
    | with_reducible apply Keeps.ite <;> intro _
    | split

theorem traceCopyDone_keeps (s : State) : Keeps [.evts, .sharal] s (traceCopyDone s) := by
  unfold traceCopyDone
  repeat' first
    | dsimp only
    | with_reducible apply Keeps.refl
    | ((with_reducible apply Keeps.cut (State.mapSharal_keeps ..)); case hs => decide)
    | ((with_reducible apply Keeps.cut (State.pulse_keeps ..)); case hs => decide)
    | with_reducible apply Keeps.ite <;> intro _
    | split

theorem traceAdvance_keeps (s : State) : Keeps [.regs] s (traceAdvance s) := by
  unfold traceAdvance
  repeat' first
    | dsimp only
    | with_reducible apply Keeps.refl
    | ((with_reducible apply Keeps.cut (State.hardReg_keeps ..)); case hs => decide)
    | with_reducible apply Keeps.ite <;> intro _
    | split

theorem countersClear_keeps (s : State) : Keeps [.regs] s (countersClear s) := by
  unfold countersClear
  repeat' first
    | dsimp only
    | with_reducible apply Keeps.refl
    | with_reducible exact (Keeps.regs s _).mono (by decide)
    | ((with_reducible apply Keeps.cut (Keeps.regs ..)); case hs => decide)

theorem countersRun_keeps (s : State) (b : Bool) : Keeps [.sharal] s (countersRun s b) := by
  unfold countersRun
  repeat' first
    | dsimp only
    | with_reducible apply Keeps.refl
    | ((with_reducible apply Keeps.cut (State.mapSharal_keeps ..)); case hs => decide)

theorem counterCtrl_keeps (s : State) (v : Word) : Keeps [.regs, .sharal] s (counterCtrl s v) := by
  unfold counterCtrl
  repeat' first
    | dsimp only
    | with_reducible apply Keeps.refl
    | ((with_reducible apply Keeps.cut (countersRun_keeps ..)); case hs => decide)
    | ((with_reducible apply Keeps.cut (countersClear_keeps ..)); case hs => decide)
    | with_reducible apply Keeps.ite <;> intro _
    | split

theorem faultCopyTake_keeps (s : State) : Keeps [.regs, .evts, .sharal] s (faultCopyTake s) := by
  unfold faultCopyTake
  repeat' first
    | dsimp only
    | with_reducible apply Keeps.refl
    | ((with_reducible apply Keeps.cut (tallyEvent_keeps ..)); case hs => decide)
    | ((with_reducible apply Keeps.cut (State.mapSharal_keeps ..)); case hs => decide)
    | with_reducible apply Keeps.ite <;> intro _
    | split

theorem setTrig_keeps (s : State) (f : Trig → Trig) : Keeps [.sharal] s (setTrig s f) := by
  unfold setTrig
  repeat' first
    | dsimp only
    | with_reducible apply Keeps.refl
    | ((with_reducible apply Keeps.cut (State.mapSharal_keeps ..)); case hs => decide)

theorem trigCode_keeps (s : State) (v : Word) : Keeps [.sharal] s (trigCode s v) := by
  unfold trigCode
  repeat' first
    | dsimp only
    | with_reducible apply Keeps.refl
    | ((with_reducible apply Keeps.cut (setTrig_keeps ..)); case hs => decide)

theorem trigSnap_keeps (s : State) (n : Nat) (v : Word) : Keeps [.sharal] s (trigSnap s n v) := by
  unfold trigSnap
  repeat' first
    | dsimp only
    | with_reducible apply Keeps.refl
    | ((with_reducible apply Keeps.cut (setTrig_keeps ..)); case hs => decide)
    | with_reducible apply Keeps.ite <;> intro _
    | split

theorem tallyRecordClose_keeps (s : State) : Keeps [.sharal] s (tallyRecordClose s) := by
  unfold tallyRecordClose
  repeat' first
    | dsimp only
    | with_reducible apply Keeps.refl
    | ((with_reducible apply Keeps.cut (closeRecord_keeps ..)); case hs => decide)
    | with_reducible apply Keeps.ite <;> intro _
    | split

theorem tallyProgram_keeps (s : State) : Keeps [.sharal] s (tallyProgram s) := by
  unfold tallyProgram
  repeat' first
    | dsimp only
    | with_reducible apply Keeps.refl
    | ((with_reducible apply Keeps.cut (State.mapTally_keeps ..)); case hs => decide)
    | with_reducible apply Keeps.ite <;> intro _
    | split

theorem hoursIncrement_keeps (s : State) : Keeps [.sharal] s (hoursIncrement s) := by
  unfold hoursIncrement
  repeat' first
    | dsimp only
    | with_reducible apply Keeps.refl
    | ((with_reducible apply Keeps.cut (State.mapTally_keeps ..)); case hs => decide)
    | with_reducible apply Keeps.ite <;> intro _
    | split

theorem tallyLoad_keeps (s : State) : Keeps [.sharal] s (tallyLoad s) := by
  unfold tallyLoad
  repeat' first
    | dsimp only
    | with_reducible apply Keeps.refl
    | ((with_reducible apply Keeps.cut (State.mapTally_keeps ..)); case hs => decide)
    | with_reducible apply Keeps.ite <;> intro _
    | split

theorem logCleared_keeps (s : State) (n : Nat) : Keeps [.regs, .evts, .power, .sharal] s (logCleared s n) := by
  unfold logCleared
  repeat' first
    | dsimp only
    | with_reducible apply Keeps.refl
    | ((with_reducible apply Keeps.cut (mandatory_keeps ..)); case hs => decide)
    | ((with_reducible apply Keeps.cut (State.mapTally_keeps ..)); case hs => decide)
    | ((with_reducible apply Keeps.cut (State.pulse_keeps ..)); case hs => decide)
    | with_reducible apply Keeps.ite <;> intro _
    | split

theorem tallyClear_keeps (s : State) (f : Nat) : Keeps [.regs, .evts, .faults, .power, .sharal] s (tallyClear s f) := by
  unfold tallyClear
  repeat' first
    | dsimp only
    | with_reducible apply Keeps.refl
    | ((with_reducible apply Keeps.cut (logCleared_keeps ..)); case hs => decide)
    | ((with_reducible apply Keeps.cut (State.strobeRefused_keeps ..)); case hs => decide)
    | with_reducible apply Keeps.ite <;> intro _
    | split

end Sys2Proof.Machine
end

