-- ==== Sys2Proof/Laws/Mailbox.lean ====
section
/-! SUPPORT. What the operations of Machine/Mailbox.lean may change. -/

set_option linter.unusedTactic false
set_option linter.unreachableTactic false

namespace Sys2Proof.Machine

theorem mbSend_keeps (s : State) (owner : Bool) : Keeps [.regs, .faults, .sharal] s (mbSend s owner) := by
  unfold mbSend
  repeat' first
    | dsimp only
    | with_reducible apply Keeps.refl
    | ((with_reducible apply Keeps.cut (State.mapSharal_keeps ..)); case hs => decide)
    | ((with_reducible apply Keeps.cut (State.strobeRefused_keeps ..)); case hs => decide)
    | ((with_reducible apply Keeps.cut (State.setReg_keeps ..)); case hs => decide)
    | with_reducible apply Keeps.ite <;> intro _
    | split

theorem mbAnswer_keeps (s : State) (m : Mbox) (status : Nat) (more : List Word) : Keeps [.sharal] s (mbAnswer s m status more) := by
  unfold mbAnswer
  repeat' first
    | dsimp only
    | with_reducible apply Keeps.refl
    | ((with_reducible apply Keeps.cut (State.mapSharal_keeps ..)); case hs => decide)

theorem mbHandle_cut {s : State} {code : Nat} {go : State → Mbox → State} {ps : List Part} {s0 : State} (h0 : Keeps ps s0 s) (hgo0 : ∀ (y0_0 : State) (y0_1 : Mbox), Keeps ps y0_0 (go y0_0 y0_1))
    (hs : [] ⊆ ps) : Keeps ps s0 (mbHandle s code go) := by
  unfold mbHandle
  repeat' first
    | dsimp only
    | with_reducible apply Keeps.refl
    | exact h0
    | ((with_reducible apply Keeps.cut (hgo0 ..)); case hs => exact fun _ hm => hm)
    | with_reducible apply Keeps.ite <;> intro _
    | split

theorem mbWrite_keeps (s : State) (ws : List Word) : Keeps [.regs, .evts, .sharal] s (mbWrite s ws) := by
  unfold mbWrite
  repeat' first
    | dsimp only
    | with_reducible apply Keeps.refl
    | ((with_reducible apply Keeps.cut (State.mapSharal_keeps ..)); case hs => decide)
    | ((with_reducible apply Keeps.cut (State.pulse_keeps ..)); case hs => decide)
    | ((with_reducible apply Keeps.cut (State.setReg_keeps ..)); case hs => decide)
    | (with_reducible apply Keeps.foldl) <;> try intro _ _

theorem mailboxResponse_keeps (s : State) : Keeps [.regs, .evts, .sharal] s (mailboxResponse s) := by
  unfold mailboxResponse
  repeat' first
    | dsimp only
    | with_reducible apply Keeps.refl
    | ((with_reducible apply Keeps.cut (mbWrite_keeps ..)); case hs => decide)
    | with_reducible apply Keeps.ite <;> intro _
    | split

theorem fuImage_keeps (s : State) (m : Mbox) (i : FwImage) : Keeps [.regs, .evts, .power, .sharal] s (fuImage s m i) := by
  unfold fuImage
  repeat' first
    | dsimp only
    | with_reducible apply Keeps.refl
    | ((with_reducible apply Keeps.cut (mbAnswer_keeps ..)); case hs => decide)
    | ((with_reducible apply Keeps.cut (mandatory_keeps ..)); case hs => decide)
    | ((with_reducible apply Keeps.cut (State.mapSharal_keeps ..)); case hs => decide)
    | with_reducible apply Keeps.ite <;> intro _
    | split

theorem fwUpdate_keeps (s : State) (m : Mbox) : Keeps [.regs, .evts, .power, .sharal] s (fwUpdate s m) := by
  unfold fwUpdate
  repeat' first
    | dsimp only
    | with_reducible apply Keeps.refl
    | ((with_reducible apply Keeps.cut (fuImage_keeps ..)); case hs => decide)
    | ((with_reducible apply Keeps.cut (mbAnswer_keeps ..)); case hs => decide)
    | ((with_reducible apply Keeps.cut (startWake_keeps ..)); case hs => decide)
    | with_reducible apply Keeps.ite <;> intro _
    | split

theorem fwConfirm_keeps (s : State) (m : Mbox) : Keeps [.regs, .evts, .power, .sharal] s (fwConfirm s m) := by
  unfold fwConfirm
  repeat' first
    | dsimp only
    | with_reducible apply Keeps.refl
    | ((with_reducible apply Keeps.cut (mbAnswer_keeps ..)); case hs => decide)
    | ((with_reducible apply Keeps.cut (mandatory_keeps ..)); case hs => decide)
    | ((with_reducible apply Keeps.cut (State.mapSharal_keeps ..)); case hs => decide)
    | with_reducible apply Keeps.ite <;> intro _
    | split

theorem rollbackCommit_keeps (s : State) (m : Mbox) : Keeps [.regs, .evts, .power, .sharal] s (rollbackCommit s m) := by
  unfold rollbackCommit
  repeat' first
    | dsimp only
    | with_reducible apply Keeps.refl
    | ((with_reducible apply Keeps.cut (mbAnswer_keeps ..)); case hs => decide)
    | ((with_reducible apply Keeps.cut (mandatory_keeps ..)); case hs => decide)
    | ((with_reducible apply Keeps.cut (State.mapSharal_keeps ..)); case hs => decide)
    | with_reducible apply Keeps.ite <;> intro _
    | split

theorem setOwner_keeps (s : State) (key : List Byte) : Keeps [.regs, .evts, .faults, .mem, .cores, .drover, .herd, .paddock, .fabric, .host, .power, .sharal, .free] s (setOwner s key) := by
  unfold setOwner
  repeat' first
    | dsimp only
    | with_reducible apply Keeps.refl
    | ((with_reducible apply Keeps.cut (rewriteSlot_keeps ..)); case hs => decide)

theorem ownerSet_keeps (s : State) (m : Mbox) : Keeps [.regs, .evts, .faults, .mem, .cores, .drover, .herd, .paddock, .fabric, .host, .power, .sharal, .free] s (ownerSet s m) := by
  unfold ownerSet
  repeat' first
    | dsimp only
    | with_reducible apply Keeps.refl
    | ((with_reducible apply Keeps.cut (setOwner_keeps ..)); case hs => decide)
    | ((with_reducible apply Keeps.cut (mbAnswer_keeps ..)); case hs => decide)
    | ((with_reducible apply Keeps.cut (mandatory_keeps ..)); case hs => decide)
    | with_reducible apply Keeps.ite <;> intro _
    | split

theorem fabricSave_keeps (s : State) (m : Mbox) : Keeps [.sharal] s (fabricSave s m) := by
  unfold fabricSave
  repeat' first
    | dsimp only
    | with_reducible apply Keeps.refl
    | ((with_reducible apply Keeps.cut (mbAnswer_keeps ..)); case hs => decide)
    | ((with_reducible apply Keeps.cut (State.mapSharal_keeps ..)); case hs => decide)
    | with_reducible apply Keeps.ite <;> intro _
    | split

theorem fabricErase_keeps (s : State) (m : Mbox) : Keeps [.sharal] s (fabricErase s m) := by
  unfold fabricErase
  repeat' first
    | dsimp only
    | with_reducible apply Keeps.refl
    | ((with_reducible apply Keeps.cut (mbAnswer_keeps ..)); case hs => decide)
    | ((with_reducible apply Keeps.cut (State.mapSharal_keeps ..)); case hs => decide)
    | with_reducible apply Keeps.ite <;> intro _
    | split

theorem neighbour_keeps (s : State) (m : Mbox) : Keeps [.fabric, .sharal] s (neighbour s m) := by
  unfold neighbour
  repeat' first
    | dsimp only
    | with_reducible apply Keeps.refl
    | ((with_reducible apply Keeps.cut (mbAnswer_keeps ..)); case hs => decide)
    | ((with_reducible apply Keeps.cut (State.mapSharal_keeps ..)); case hs => decide)
    | ((with_reducible apply Keeps.cut (sendBy_keeps ..)); case hs => decide)
    | ((with_reducible apply Keeps.cut (State.mapFabric_keeps ..)); case hs => decide)
    | with_reducible apply Keeps.ite <;> intro _
    | split

theorem nbResult_keeps (s : State) (m : Mbox) (k : Packet) : Keeps [.sharal] s (nbResult s m k) := by
  unfold nbResult
  repeat' first
    | dsimp only
    | with_reducible apply Keeps.refl
    | ((with_reducible apply Keeps.cut (mbAnswer_keeps ..)); case hs => decide)
    | ((with_reducible apply Keeps.cut (State.mapSharal_keeps ..)); case hs => decide)
    | with_reducible apply Keeps.ite <;> intro _
    | split

theorem mgmtResultReceive_keeps (s : State) : Keeps [.fabric, .sharal, .out] s (mgmtResultReceive s) := by
  unfold mgmtResultReceive
  repeat' first
    | dsimp only
    | with_reducible apply Keeps.refl
    | ((with_reducible apply Keeps.cut (nbResult_keeps ..)); case hs => decide)
    | ((with_reducible apply Keeps.cut (dropLocal_keeps ..)); case hs => decide)
    | with_reducible apply Keeps.ite <;> intro _
    | split

theorem neighbourTimeout_keeps (s : State) : Keeps [.sharal] s (neighbourTimeout s) := by
  unfold neighbourTimeout
  repeat' first
    | dsimp only
    | with_reducible apply Keeps.refl
    | ((with_reducible apply Keeps.cut (mbAnswer_keeps ..)); case hs => decide)
    | ((with_reducible apply Keeps.cut (State.mapSharal_keeps ..)); case hs => decide)
    | with_reducible apply Keeps.ite <;> intro _
    | split

end Sys2Proof.Machine
end

