-- ==== Sys2Proof/Laws/Regs.lean ====
section
/-! SUPPORT. What the operations of Machine/Regs.lean may change. -/

set_option linter.unusedTactic false
set_option linter.unreachableTactic false

namespace Sys2Proof.Machine

theorem linkCtrlWrite_keeps (s : State) (p : Nat) (v : Word) : Keeps [.regs, .evts, .faults, .fabric, .out] s (linkCtrlWrite s p v) := by
  unfold linkCtrlWrite
  repeat' first
    | dsimp only
    | with_reducible apply Keeps.refl
    | ((with_reducible apply Keeps.cut (linkCtrl_keeps ..)); case hs => decide)
    | ((with_reducible apply Keeps.cut (State.strobeRefused_keeps ..)); case hs => decide)
    | with_reducible apply Keeps.ite <;> intro _
    | split

theorem ctrlWrite_keeps (s : State) (slot : Nat) (v : Word) : Keeps [.regs, .evts, .faults, .fabric, .out] s (ctrlWrite s slot v) := by
  unfold ctrlWrite
  repeat' first
    | dsimp only
    | with_reducible apply Keeps.refl
    | ((with_reducible apply Keeps.cut (linkCtrlWrite_keeps ..)); case hs => decide)
    | ((with_reducible apply Keeps.cut (padkCtrl_keeps ..)); case hs => decide)
    | ((with_reducible apply Keeps.cut (State.setReg_keeps ..)); case hs => decide)
    | with_reducible apply Keeps.ite <;> intro _
    | split

theorem latchWrite_keeps (s : State) (slot : Nat) (v : Word) : Keeps [.regs, .evts, .host, .out] s (latchWrite s slot v) := by
  unfold latchWrite
  repeat' first
    | dsimp only
    | with_reducible apply Keeps.refl
    | ((with_reducible apply Keeps.cut (evtAfterWrite_keeps ..)); case hs => decide)
    | ((with_reducible apply Keeps.cut (State.setEvt_keeps ..)); case hs => decide)

theorem headerWrite_keeps (s : State) (slot : Nat) (off : Nat) (v : Word) : Keeps [.regs, .evts, .faults, .fabric, .host, .out] s (headerWrite s slot off v) := by
  unfold headerWrite
  repeat' first
    | dsimp only
    | with_reducible apply Keeps.refl
    | ((with_reducible apply Keeps.cut (latchWrite_keeps ..)); case hs => decide)
    | ((with_reducible apply Keeps.cut (ctrlWrite_keeps ..)); case hs => decide)
    | ((with_reducible apply Keeps.cut (evtAfterWrite_keeps ..)); case hs => decide)
    | ((with_reducible apply Keeps.cut (State.setReg_keeps ..)); case hs => decide)
    | with_reducible apply Keeps.ite <;> intro _
    | split

theorem roleWrite_keeps (s : State) (v : Word) : Keeps [.regs, .faults, .roles] s (roleWrite s v) := by
  unfold roleWrite
  dsimp only
  generalize hu : s.setReg slotMgmt 0x100 ((s.reg slotMgmt 0x100 &&& 0x0F) ||| (v &&& 0xF0)) = u
  have k : Keeps [.regs, .faults, .roles] s u := hu ▸ (State.setReg_keeps ..).mono (by decide)
  with_reducible apply Keeps.ite <;> intro _
  · exact k
  · with_reducible apply Keeps.ite <;> intro h
    · exact k.trans ((State.fault_keeps ..).mono (by decide))
    · refine k.trans ⟨(Only.roles u _).mono (by decide), fun x => ?_⟩
      unfold State.sound at *
      simp only [Bool.and_eq_true, decide_eq_true_eq] at *
      refine ⟨⟨x.1.1, ?_⟩, x.2⟩
      rw [List.length_append]
      have : [BitVec.ofNat 4 (bits v 7 4)].length = 1 := rfl
      omega

theorem roleChange_keeps (s : State) : Keeps [.regs, .roles] s (roleChange s) := by
  unfold roleChange
  split
  · exact Keeps.refl _ _
  · rename_i r rest hr
    have k : Keeps [.regs, .roles] s { s with roles := rest } := by
      refine ⟨(Only.roles s _).mono (by decide), fun x => ?_⟩
      unfold State.sound at *
      simp only [Bool.and_eq_true, decide_eq_true_eq] at *
      refine ⟨⟨x.1.1, ?_⟩, x.2⟩
      have := x.1.2
      rw [hr, List.length_cons] at this
      exact Nat.le_of_succ_le this
    with_reducible apply Keeps.ite <;> intro _
    · exact Keeps.refl _ _
    · dsimp only
      with_reducible apply Keeps.ite <;> intro _
      · exact k.trans ((State.setReg_keeps ..).mono (by decide))
      · exact k

theorem ledgerSnap_keeps (s : State) : Keeps [.drover] s (ledgerSnap s) := by
  unfold ledgerSnap
  repeat' first
    | dsimp only
    | with_reducible apply Keeps.refl
    | ((with_reducible apply Keeps.cut (rollLedger_keeps ..)); case hs => decide)
    | ((with_reducible apply Keeps.cut (State.mapDrover_keeps ..)); case hs => decide)
    | with_reducible apply Keeps.ite <;> intro _
    | split

theorem drvrWrite_keeps (s : State) (off : Nat) (v : Word) : Keeps [.regs, .drover] s (drvrWrite s off v) := by
  unfold drvrWrite
  repeat' first
    | dsimp only
    | with_reducible apply Keeps.refl
    | ((with_reducible apply Keeps.cut (ledgerSnap_keeps ..)); case hs => decide)
    | ((with_reducible apply Keeps.cut (State.setReg_keeps ..)); case hs => decide)
    | with_reducible apply Keeps.ite <;> intro _
    | split

theorem winWrite_keeps (s : State) (off : Nat) (v : Word) : Keeps [.regs] s (winWrite s off v) := by
  unfold winWrite
  repeat' first
    | dsimp only
    | with_reducible apply Keeps.refl
    | ((with_reducible apply Keeps.cut (State.setReg_keeps ..)); case hs => decide)
    | with_reducible apply Keeps.ite <;> intro _
    | split

theorem routeWrite_keeps (s : State) (off : Nat) (v : Word) : Keeps [.regs, .evts, .faults, .soft, .fabric, .power, .sharal] s (routeWrite s off v) := by
  unfold routeWrite
  repeat' first
    | dsimp only
    | with_reducible apply Keeps.refl
    | ((with_reducible apply Keeps.cut (winWrite_keeps ..)); case hs => decide)
    | ((with_reducible apply Keeps.cut (rtWrite_keeps ..)); case hs => decide)
    | ((with_reducible apply Keeps.cut (dimsWrite_keeps ..)); case hs => decide)
    | ((with_reducible apply Keeps.cut (selfWrite_keeps ..)); case hs => decide)
    | ((with_reducible apply Keeps.cut (State.softReg_keeps ..)); case hs => decide)
    | ((with_reducible apply Keeps.cut (State.setReg_keeps ..)); case hs => decide)
    | with_reducible apply Keeps.ite <;> intro _
    | split

theorem domCmdWrite_keeps (s : State) (v : Word) : Keeps [.regs, .evts, .faults, .fabric, .power, .sharal, .out] s (domCmdWrite s v) := by
  unfold domCmdWrite
  repeat' first
    | dsimp only
    | with_reducible apply Keeps.refl
    | ((with_reducible apply Keeps.cut (domCmd_keeps ..)); case hs => decide)
    | ((with_reducible apply Keeps.cut (State.setReg_keeps ..)); case hs => decide)
    | with_reducible apply Keeps.ite <;> intro _
    | split

theorem thermWrite_keeps (s : State) (v : Word) : Keeps [.regs, .evts, .faults, .power] s (thermWrite s v) := by
  unfold thermWrite
  repeat' first
    | dsimp only
    | with_reducible apply Keeps.refl
    | ((with_reducible apply Keeps.cut (cautionWrite_keeps ..)); case hs => decide)
    | ((with_reducible apply Keeps.cut (thermResume_keeps ..)); case hs => decide)
    | with_reducible apply Keeps.ite <;> intro _
    | split

theorem pwrWrite_keeps (s : State) (off : Nat) (v : Word) : Keeps [.regs, .evts, .faults, .fabric, .power, .sharal, .out] s (pwrWrite s off v) := by
  unfold pwrWrite
  repeat' first
    | dsimp only
    | with_reducible apply Keeps.refl
    | ((with_reducible apply Keeps.cut (thermWrite_keeps ..)); case hs => decide)
    | ((with_reducible apply Keeps.cut (domCmdWrite_keeps ..)); case hs => decide)
    | ((with_reducible apply Keeps.cut (domPolicy_keeps ..)); case hs => decide)
    | with_reducible apply Keeps.ite <;> intro _
    | split

theorem resetCmdWrite_keeps (s : State) (v : Word) : Keeps [.regs, .evts, .faults, .mem, .cores, .drover, .herd, .paddock, .fabric, .host, .power, .resets, .sharal, .free] s (resetCmdWrite s v) := by
  unfold resetCmdWrite
  repeat' first
    | dsimp only
    | with_reducible apply Keeps.refl
    | ((with_reducible apply Keeps.cut (resetCmd_keeps ..)); case hs => decide)
    | ((with_reducible apply Keeps.cut (State.setReg_keeps ..)); case hs => decide)
    | with_reducible apply Keeps.ite <;> intro _
    | split

theorem mbCtrlWrite_keeps (s : State) (owner : Bool) (v : Word) : Keeps [.regs, .faults, .sharal] s (mbCtrlWrite s owner v) := by
  unfold mbCtrlWrite
  repeat' first
    | dsimp only
    | with_reducible apply Keeps.refl
    | ((with_reducible apply Keeps.cut (mbSend_keeps ..)); case hs => decide)
    | ((with_reducible apply Keeps.cut (State.setReg_keeps ..)); case hs => decide)
    | with_reducible apply Keeps.ite <;> intro _
    | split

theorem mgmtWrite_keeps (s : State) (owner : Bool) (off : Nat) (v : Word) : Keeps [.regs, .evts, .faults, .mem, .soft, .cores, .drover, .herd, .paddock, .fabric, .host, .power, .resets, .sharal, .roles, .out, .free] s (mgmtWrite s owner off v) := by
  unfold mgmtWrite
  repeat' first
    | dsimp only
    | with_reducible apply Keeps.refl
    | ((with_reducible apply Keeps.cut (mbCtrlWrite_keeps ..)); case hs => decide)
    | ((with_reducible apply Keeps.cut (resetCmdWrite_keeps ..)); case hs => decide)
    | ((with_reducible apply Keeps.cut (roleWrite_keeps ..)); case hs => decide)
    | ((with_reducible apply Keeps.cut (counterCtrl_keeps ..)); case hs => decide)
    | ((with_reducible apply Keeps.cut (traceCtrl_keeps ..)); case hs => decide)
    | ((with_reducible apply Keeps.cut (dumpCtrl_keeps ..)); case hs => decide)
    | ((with_reducible apply Keeps.cut (State.softReg_keeps ..)); case hs => decide)
    | ((with_reducible apply Keeps.cut (State.setReg_keeps ..)); case hs => decide)
    | with_reducible apply Keeps.ite <;> intro _
    | split

theorem tallyWrite_keeps (s : State) (f : Nat) (off : Nat) (v : Word) : Keeps [.regs, .evts, .faults, .power, .sharal] s (tallyWrite s f off v) := by
  unfold tallyWrite
  repeat' first
    | dsimp only
    | with_reducible apply Keeps.refl
    | ((with_reducible apply Keeps.cut (tallyClear_keeps ..)); case hs => decide)
    | ((with_reducible apply Keeps.cut (tallyLoad_keeps ..)); case hs => decide)
    | ((with_reducible apply Keeps.cut (trigSnap_keeps ..)); case hs => decide)
    | ((with_reducible apply Keeps.cut (trigCode_keeps ..)); case hs => decide)
    | ((with_reducible apply Keeps.cut (State.setReg_keeps ..)); case hs => decide)
    | with_reducible apply Keeps.ite <;> intro _
    | split

theorem sessReqWrite_keeps (s : State) (f : FuncId) (v : Word) : Keeps [.regs, .evts, .host, .power, .sharal, .free] s (sessReqWrite s f v) := by
  unfold sessReqWrite
  repeat' first
    | dsimp only
    | with_reducible apply Keeps.refl
    | ((with_reducible apply Keeps.cut (answer_keeps ..)); case hs => decide)
    | ((with_reducible apply Keeps.cut (challenge_keeps ..)); case hs => decide)
    | ((with_reducible apply Keeps.cut (State.setBank__keeps ..)); case hs => decide)
    | with_reducible apply Keeps.ite <;> intro _
    | split

theorem sessCtlWrite_keeps (s : State) (f : FuncId) (v : Word) : Keeps [.regs, .evts, .faults, .mem, .cores, .drover, .herd, .paddock, .fabric, .host, .power, .sharal, .free] s (sessCtlWrite s f v) := by
  unfold sessCtlWrite
  repeat' first
    | dsimp only
    | with_reducible apply Keeps.refl
    | ((with_reducible apply Keeps.cut (detachCmd_keeps ..)); case hs => decide)
    | ((with_reducible apply Keeps.cut (attachCmd_keeps ..)); case hs => decide)
    | ((with_reducible apply Keeps.cut (closeCmd_keeps ..)); case hs => decide)
    | ((with_reducible apply Keeps.cut (State.setBank__keeps ..)); case hs => decide)
    | with_reducible apply Keeps.ite <;> intro _
    | split

theorem bankedWrite_keeps (s : State) (f : FuncId) (off : Nat) (v : Word) : Keeps [.regs, .evts, .faults, .mem, .cores, .drover, .herd, .paddock, .fabric, .host, .power, .sharal, .free] s (bankedWrite s f off v) := by
  unfold bankedWrite
  repeat' first
    | dsimp only
    | with_reducible apply Keeps.refl
    | ((with_reducible apply Keeps.cut (sessCtlWrite_keeps ..)); case hs => decide)
    | ((with_reducible apply Keeps.cut (sessReqWrite_keeps ..)); case hs => decide)
    | ((with_reducible apply Keeps.cut (State.setBank__keeps ..)); case hs => decide)
    | with_reducible apply Keeps.ite <;> intro _
    | split

theorem keySelWrite_keeps (s : State) (v : Word) : Keeps [.regs, .evts, .faults, .mem, .cores, .drover, .herd, .paddock, .fabric, .host, .power, .sharal, .free] s (keySelWrite s v) := by
  unfold keySelWrite
  repeat' first
    | dsimp only
    | with_reducible apply Keeps.refl
    | ((with_reducible apply Keeps.cut (keyErase_keeps ..)); case hs => decide)
    | ((with_reducible apply Keeps.cut (keyWrite_keeps ..)); case hs => decide)
    | ((with_reducible apply Keeps.cut (State.setReg_keeps ..)); case hs => decide)
    | with_reducible apply Keeps.ite <;> intro _
    | split

theorem infoSelWrite_keeps (s : State) (v : Word) : Keeps [.regs] s (infoSelWrite s v) := by
  unfold infoSelWrite
  repeat' first
    | dsimp only
    | with_reducible apply Keeps.refl
    | ((with_reducible apply Keeps.cut (infoSnap_keeps ..)); case hs => decide)
    | ((with_reducible apply Keeps.cut (State.setReg_keeps ..)); case hs => decide)
    | with_reducible apply Keeps.ite <;> intro _
    | split

theorem hwinWrite_keeps (s : State) (off : Nat) (v : Word) : Keeps [.regs] s (hwinWrite s off v) := by
  unfold hwinWrite
  repeat' first
    | dsimp only
    | with_reducible apply Keeps.refl
    | ((with_reducible apply Keeps.cut (State.setReg_keeps ..)); case hs => decide)
    | with_reducible apply Keeps.ite <;> intro _
    | split

theorem hostWrite_keeps (s : State) (f : FuncId) (off : Nat) (v : Word) : Keeps [.regs, .evts, .faults, .mem, .cores, .drover, .herd, .paddock, .fabric, .host, .power, .sharal, .free] s (hostWrite s f off v) := by
  unfold hostWrite
  repeat' first
    | dsimp only
    | with_reducible apply Keeps.refl
    | ((with_reducible apply Keeps.cut (hwinWrite_keeps ..)); case hs => decide)
    | ((with_reducible apply Keeps.cut (infoSelWrite_keeps ..)); case hs => decide)
    | ((with_reducible apply Keeps.cut (keySelWrite_keeps ..)); case hs => decide)
    | ((with_reducible apply Keeps.cut (bankedWrite_keeps ..)); case hs => decide)
    | ((with_reducible apply Keeps.cut (State.setReg_keeps ..)); case hs => decide)
    | with_reducible apply Keeps.ite <;> intro _
    | split

theorem queueBase_keeps (s : State) (q : Nat) (off : Nat) (v : Word) : Keeps [.regs] s (queueBase s q off v) := by
  unfold queueBase
  repeat' first
    | dsimp only
    | with_reducible apply Keeps.refl
    | ((with_reducible apply Keeps.cut (State.setReg_keeps ..)); case hs => decide)
    | with_reducible apply Keeps.ite <;> intro _
    | split

theorem queueWrite_keeps (s : State) (q : Nat) (off : Nat) (v : Word) : Keeps [.regs, .evts, .host, .power, .sharal] s (queueWrite s q off v) := by
  unfold queueWrite
  repeat' first
    | dsimp only
    | with_reducible apply Keeps.refl
    | ((with_reducible apply Keeps.cut (queueBase_keeps ..)); case hs => decide)
    | ((with_reducible apply Keeps.cut (qCtrl_keeps ..)); case hs => decide)
    | ((with_reducible apply Keeps.cut (doorbell_keeps ..)); case hs => decide)
    | ((with_reducible apply Keeps.cut (State.setReg_keeps ..)); case hs => decide)
    | with_reducible apply Keeps.ite <;> intro _
    | split

theorem blockWrite_keeps (s : State) (f : FuncId) (owner : Bool) (slot : Nat) (off : Nat) (v : Word) : Keeps [.regs, .evts, .faults, .mem, .soft, .cores, .drover, .herd, .paddock, .fabric, .host, .power, .resets, .sharal, .roles, .out, .free] s (blockWrite s f owner slot off v) := by
  unfold blockWrite
  repeat' first
    | dsimp only
    | with_reducible apply Keeps.refl
    | ((with_reducible apply Keeps.cut (queueWrite_keeps ..)); case hs => decide)
    | ((with_reducible apply Keeps.cut (hostWrite_keeps ..)); case hs => decide)
    | ((with_reducible apply Keeps.cut (tallyWrite_keeps ..)); case hs => decide)
    | ((with_reducible apply Keeps.cut (mgmtWrite_keeps ..)); case hs => decide)
    | ((with_reducible apply Keeps.cut (pwrWrite_keeps ..)); case hs => decide)
    | ((with_reducible apply Keeps.cut (routeWrite_keeps ..)); case hs => decide)
    | ((with_reducible apply Keeps.cut (drvrWrite_keeps ..)); case hs => decide)
    | ((with_reducible apply Keeps.cut (State.setReg_keeps ..)); case hs => decide)
    | with_reducible apply Keeps.ite <;> intro _
    | split

theorem pageWrite_keeps (s : State) (f : FuncId) (owner : Bool) (slot : Nat) (off : Nat) (v : Word) : Keeps [.regs, .evts, .faults, .mem, .soft, .cores, .drover, .herd, .paddock, .fabric, .host, .power, .resets, .sharal, .roles, .out, .free] s (pageWrite s f owner slot off v) := by
  unfold pageWrite
  repeat' first
    | dsimp only
    | with_reducible apply Keeps.refl
    | ((with_reducible apply Keeps.cut (blockWrite_keeps ..)); case hs => decide)
    | ((with_reducible apply Keeps.cut (headerWrite_keeps ..)); case hs => decide)
    | with_reducible apply Keeps.ite <;> intro _
    | split

theorem bar4Write_keeps (s : State) (f : FuncId) (off : Nat) (v : Word) : Keeps [.regs, .host, .out] s (bar4Write s f off v) := by
  unfold bar4Write
  repeat' first
    | dsimp only
    | with_reducible apply Keeps.refl
    | ((with_reducible apply Keeps.cut (State.toHost_keeps ..)); case hs => decide)
    | ((with_reducible apply Keeps.cut (State.mapHost_keeps ..)); case hs => decide)
    | with_reducible apply Keeps.ite <;> intro _
    | split

theorem barNow_keeps (u : State) (f : FuncId) (a : Nat) (v : Word) : Keeps [.regs, .evts, .faults, .mem, .soft, .cores, .drover, .herd, .paddock, .fabric, .host, .power, .resets, .sharal, .roles, .out, .free] u (barNow u f a v) := by
  unfold barNow
  repeat' first
    | dsimp only
    | with_reducible apply Keeps.refl
    | ((with_reducible apply Keeps.cut (bar4Write_keeps ..)); case hs => decide)
    | ((with_reducible apply Keeps.cut (pageWrite_keeps ..)); case hs => decide)
    | ((with_reducible apply Keeps.cut (unsupported_keeps ..)); case hs => decide)
    | with_reducible apply Keeps.ite <;> intro _
    | split

theorem barWrite_keeps (s : State) (f : FuncId) (a : Nat) (v : Word) : Keeps [.regs, .evts, .faults, .mem, .soft, .cores, .drover, .herd, .paddock, .fabric, .host, .power, .resets, .sharal, .roles, .out, .free] s (barWrite s f a v) := by
  unfold barWrite
  repeat' first
    | dsimp only
    | with_reducible apply Keeps.refl
    | ((with_reducible apply Keeps.cut (barNow_keeps ..)); case hs => decide)
    | ((with_reducible apply Keeps.cut (bar2Wait_keeps ..)); case hs => decide)
    | ((with_reducible apply Keeps.cut (State.fromHost_keeps ..)); case hs => decide)
    | with_reducible apply Keeps.ite <;> intro _
    | split

theorem extWrite_keeps (s : State) (a : Nat) (v : Word) : Keeps [.regs, .evts, .faults, .mem, .soft, .cores, .drover, .herd, .paddock, .fabric, .host, .power, .resets, .sharal, .roles, .out, .free] s (extWrite s a v) := by
  unfold extWrite
  repeat' first
    | dsimp only
    | with_reducible apply Keeps.refl
    | ((with_reducible apply Keeps.cut (pageWrite_keeps ..)); case hs => decide)
    | ((with_reducible apply Keeps.cut (unsupported_keeps ..)); case hs => decide)
    | with_reducible apply Keeps.ite <;> intro _
    | split

theorem extPulse_keeps (s : State) : Keeps [.evts] s (extPulse s) := by
  unfold extPulse
  repeat' first
    | dsimp only
    | with_reducible apply Keeps.refl
    | ((with_reducible apply Keeps.cut (State.pulse_keeps ..)); case hs => decide)

theorem smbDone_keeps (s : State) (status : Nat) : Keeps [.regs, .sharal] s (smbDone s status) := by
  unfold smbDone
  repeat' first
    | dsimp only
    | with_reducible apply Keeps.refl
    | ((with_reducible apply Keeps.cut (State.mapSharal_keeps ..)); case hs => decide)
    | ((with_reducible apply Keeps.cut (State.bump_keeps ..)); case hs => decide)

theorem smbRefuse_keeps (s : State) : Keeps [.regs, .out] s (smbRefuse s) := by
  unfold smbRefuse
  repeat' first
    | dsimp only
    | with_reducible apply Keeps.refl
    | ((with_reducible apply Keeps.cut (State.bump_keeps ..)); case hs => decide)
    | ((with_reducible apply Keeps.cut (State.emit_keeps ..)); case hs => decide)

theorem smbWriteReg_keeps (s : State) (a : Nat) (v : Word) (pec : Option Bool) : Keeps [.regs, .evts, .faults, .mem, .soft, .cores, .drover, .herd, .paddock, .fabric, .host, .power, .resets, .sharal, .roles, .out, .free] s (smbWriteReg s a v pec) := by
  unfold smbWriteReg
  repeat' first
    | dsimp only
    | with_reducible apply Keeps.refl
    | ((with_reducible apply Keeps.cut (smbRefuse_keeps ..)); case hs => decide)
    | ((with_reducible apply Keeps.cut (smbDone_keeps ..)); case hs => decide)
    | ((with_reducible apply Keeps.cut (extPulse_keeps ..)); case hs => decide)
    | ((with_reducible apply Keeps.cut (extWrite_keeps ..)); case hs => decide)
    | with_reducible apply Keeps.ite <;> intro _
    | split

theorem fabWriteReg_keeps (s : State) (a : Nat) (v : Word) : Keeps [.regs, .evts, .faults, .mem, .soft, .cores, .drover, .herd, .paddock, .fabric, .host, .power, .resets, .sharal, .roles, .out, .free] s (fabWriteReg s a v) := by
  unfold fabWriteReg
  repeat' first
    | dsimp only
    | with_reducible apply Keeps.refl
    | ((with_reducible apply Keeps.cut (extPulse_keeps ..)); case hs => decide)
    | ((with_reducible apply Keeps.cut (extWrite_keeps ..)); case hs => decide)
    | with_reducible apply Keeps.ite <;> intro _
    | split

theorem writeBy_keeps (s : State) (r : Requester) (a : Nat) (v : Word) : Keeps [.regs, .evts, .faults, .mem, .soft, .cores, .drover, .herd, .paddock, .fabric, .host, .power, .resets, .sharal, .roles, .out, .free] s (writeBy s r a v) := by
  unfold writeBy
  repeat' first
    | dsimp only
    | with_reducible apply Keeps.refl
    | ((with_reducible apply Keeps.cut (fabWriteReg_keeps ..)); case hs => decide)
    | ((with_reducible apply Keeps.cut (smbWriteReg_keeps ..)); case hs => decide)
    | ((with_reducible apply Keeps.cut (barWrite_keeps ..)); case hs => decide)
    | with_reducible apply Keeps.ite <;> intro _
    | split

theorem readEffect_keeps (s : State) (a : Nat) : Keeps [.regs] s (readEffect s a) := by
  unfold readEffect
  repeat' first
    | dsimp only
    | with_reducible apply Keeps.refl
    | ((with_reducible apply Keeps.cut (traceAdvance_keeps ..)); case hs => decide)
    | ((with_reducible apply Keeps.cut (aoAdvance_keeps ..)); case hs => decide)
    | ((with_reducible apply Keeps.cut (rtAdvance_keeps ..)); case hs => decide)
    | with_reducible apply Keeps.ite <;> intro _
    | split

theorem barReadNow_keeps (u : State) (f : FuncId) (a : Nat) : Keeps [.regs, .evts, .out] u (barReadNow u f a) := by
  unfold barReadNow
  repeat' first
    | dsimp only
    | with_reducible apply Keeps.refl
    | ((with_reducible apply Keeps.cut (readEffect_keeps ..)); case hs => decide)
    | ((with_reducible apply Keeps.cut (unsupported_keeps ..)); case hs => decide)
    | ((with_reducible apply Keeps.cut (State.toHost_keeps ..)); case hs => decide)
    | with_reducible apply Keeps.ite <;> intro _
    | split

theorem barRead_keeps (s : State) (f : FuncId) (a : Nat) : Keeps [.regs, .evts, .host, .out] s (barRead s f a) := by
  unfold barRead
  repeat' first
    | dsimp only
    | with_reducible apply Keeps.refl
    | ((with_reducible apply Keeps.cut (barReadNow_keeps ..)); case hs => decide)
    | ((with_reducible apply Keeps.cut (bar2Wait_keeps ..)); case hs => decide)
    | ((with_reducible apply Keeps.cut (State.fromHost_keeps ..)); case hs => decide)
    | with_reducible apply Keeps.ite <;> intro _
    | split

theorem unsupportedNow_keeps (u : State) (f : FuncId) (size : Nat) (write : Bool) : Keeps [.regs, .evts, .out] u (unsupportedNow u f size write) := by
  unfold unsupportedNow
  repeat' first
    | dsimp only
    | with_reducible apply Keeps.refl
    | ((with_reducible apply Keeps.cut (unsupported_keeps ..)); case hs => decide)
    | ((with_reducible apply Keeps.cut (State.toHost_keeps ..)); case hs => decide)
    | with_reducible apply Keeps.ite <;> intro _
    | split

theorem unsupportedAccess_keeps (s : State) (f : FuncId) (off : Nat) (size : Nat) (write : Bool) : Keeps [.regs, .evts, .host, .out] s (unsupportedAccess s f off size write) := by
  unfold unsupportedAccess
  repeat' first
    | dsimp only
    | with_reducible apply Keeps.refl
    | ((with_reducible apply Keeps.cut (unsupportedNow_keeps ..)); case hs => decide)
    | ((with_reducible apply Keeps.cut (bar2Wait_keeps ..)); case hs => decide)
    | ((with_reducible apply Keeps.cut (State.fromHost_keeps ..)); case hs => decide)
    | with_reducible apply Keeps.ite <;> intro _
    | split

theorem bar0Do_keeps (s : State) (b : Bar2) : Keeps [.regs, .evts, .faults, .mem, .soft, .cores, .drover, .herd, .paddock, .fabric, .host, .power, .resets, .sharal, .roles, .out, .free] s (bar0Do s b) := by
  unfold bar0Do
  repeat' first
    | dsimp only
    | with_reducible apply Keeps.refl
    | ((with_reducible apply Keeps.cut (unsupportedNow_keeps ..)); case hs => decide)
    | ((with_reducible apply Keeps.cut (barReadNow_keeps ..)); case hs => decide)
    | ((with_reducible apply Keeps.cut (barNow_keeps ..)); case hs => decide)
    | with_reducible apply Keeps.ite <;> intro _
    | split

theorem bar0Line_keeps (s : State) : Keeps [.regs, .evts, .faults, .mem, .soft, .cores, .drover, .herd, .paddock, .fabric, .host, .power, .resets, .sharal, .roles, .out, .free] s (bar0Line s) := by
  unfold bar0Line
  repeat' first
    | dsimp only
    | with_reducible apply Keeps.refl
    | ((with_reducible apply Keeps.cut (bar0Do_keeps ..)); case hs => decide)
    | ((with_reducible apply Keeps.cut (State.mapHost_keeps ..)); case hs => decide)
    | (with_reducible apply Keeps.foldl) <;> try intro _ _
    | with_reducible apply Keeps.ite <;> intro _
    | split

theorem copyToSharal_keeps (s : State) (slot : Nat) (ws : List Word) (code : Nat) : Keeps [.regs, .evts, .sharal] s (copyToSharal s slot ws code) := by
  unfold copyToSharal
  repeat' first
    | dsimp only
    | with_reducible apply Keeps.refl
    | ((with_reducible apply Keeps.cut (State.mapTally_keeps ..)); case hs => decide)
    | ((with_reducible apply Keeps.cut (State.mapSharal_keeps ..)); case hs => decide)
    | ((with_reducible apply Keeps.cut (State.bump_keeps ..)); case hs => decide)
    | ((with_reducible apply Keeps.cut (State.pulse_keeps ..)); case hs => decide)
    | with_reducible apply Keeps.ite <;> intro _
    | split

theorem traceFault_keeps (s : State) (slot : Nat) (r : FaultRec) (ws : List Word) : Keeps [.sharal] s (traceFault s slot r ws) := by
  unfold traceFault
  repeat' first
    | dsimp only
    | with_reducible apply Keeps.refl
    | ((with_reducible apply Keeps.cut (traceEv_keeps ..)); case hs => decide)
    | with_reducible apply Keeps.ite <;> intro _
    | split

theorem faultRecordWrite_keeps (s : State) (slot : Nat) : Keeps [.regs, .evts, .faults, .sharal] s (faultRecordWrite s slot) := by
  unfold faultRecordWrite
  dsimp only
  split
  · exact Keeps.refl _ _
  · rename_i r rest hq
    with_reducible apply Keeps.ite <;> intro _
    · exact Keeps.refl _ _
    · refine Keeps.cut (copyToSharal_keeps ..) (by decide) (Keeps.cut (traceFault_keeps ..) (by decide)
        (Keeps.cut (State.pulse_keeps ..) (by decide) ?_))
      refine Keeps.foldl _ _ (fun _ _ => (State.setReg_keeps ..).mono (by decide)) ?_
      refine ⟨(Only.faults s _).mono (by decide), fun x => ?_⟩
      unfold State.sound at *
      simp only [Bool.and_eq_true, List.all_eq_true, decide_eq_true_eq] at *
      refine ⟨x.1, fun p hp => ?_⟩
      rcases Tbl.mem_set hp with rfl | hp
      · have h4 : (s.faultPage slot).queue.length ≤ 4 := faultPage_le s slot x.2
        rw [hq, List.length_cons] at h4
        exact Nat.le_of_succ_le h4
      · exact x.2 p hp

theorem domGo_keeps (s : State) (r : Requester) (cmd : Nat) (v : Word) : Keeps [.regs, .evts, .faults, .mem, .soft, .cores, .drover, .herd, .paddock, .fabric, .host, .power, .resets, .sharal, .roles, .out, .free] s (domGo s r cmd v) := by
  unfold domGo
  repeat' first
    | dsimp only
    | with_reducible apply Keeps.refl
    | ((with_reducible apply Keeps.cut (writeBy_keeps ..)); case hs => decide)

end Sys2Proof.Machine
end

