-- ==== Sys2Proof/Laws/Smbus.lean ====
section
/-! SUPPORT. What the operations of Machine/Smbus.lean may change. -/

set_option linter.unusedTactic false
set_option linter.unreachableTactic false

namespace Sys2Proof.Machine

theorem smbReply_keeps (s : State) (sent : List Byte) (data : List Byte) : Keeps [.out] s (smbReply s sent data) := by
  unfold smbReply
  repeat' first
    | dsimp only
    | with_reducible apply Keeps.refl
    | ((with_reducible apply Keeps.cut (State.emit_keeps ..)); case hs => decide)

theorem smbCall_keeps (s : State) (cmd : Nat) (off : Word) (data : List Byte) : Keeps [.out] s (smbCall s cmd off data) := by
  unfold smbCall
  repeat' first
    | dsimp only
    | with_reducible apply Keeps.refl
    | ((with_reducible apply Keeps.cut (smbReply_keeps ..)); case hs => decide)

theorem smbFirmware_cut {s : State} {go : State → State} {ps : List Part} {s0 : State} (h0 : Keeps ps s0 s) (hgo0 : ∀ (y0_0 : State), Keeps ps y0_0 (go y0_0))
    (hs : [.regs, .out] ⊆ ps) : Keeps ps s0 (smbFirmware s go) := by
  unfold smbFirmware
  repeat' first
    | dsimp only
    | with_reducible apply Keeps.refl
    | exact h0
    | ((with_reducible apply Keeps.cut (hgo0 ..)); case hs => exact fun _ hm => hm)
    | ((with_reducible apply Keeps.cut (smbRefuse_keeps ..)); case hs => exact List.Subset.trans (by decide) hs)
    | with_reducible apply Keeps.ite <;> intro _
    | split

theorem readBoot_keeps (s : State) : Keeps [.regs, .sharal, .out] s (readBoot s) := by
  unfold readBoot
  repeat' first
    | dsimp only
    | with_reducible apply Keeps.refl
    | ((with_reducible apply Keeps.cut (smbReply_keeps ..)); case hs => decide)
    | ((with_reducible apply Keeps.cut (smbDone_keeps ..)); case hs => decide)
    | with_reducible apply Keeps.ite <;> intro _
    | split

theorem readReg_keeps (s : State) (off : Word) : Keeps [.regs, .sharal, .out, .free] s (readReg s off) := by
  unfold readReg
  repeat' first
    | dsimp only
    | with_reducible apply Keeps.refl
    | ((with_reducible apply smbFirmware_cut); case hs => decide)
    | ((with_reducible apply Keeps.cut (smbCall_keeps ..)); case hs => decide)
    | ((with_reducible apply Keeps.cut (readEffect_keeps ..)); case hs => decide)
    | ((with_reducible apply Keeps.cut (smbDone_keeps ..)); case hs => decide)
    | ((with_reducible apply Keeps.cut (State.draw_keeps ..)); case hs => decide)
    | with_reducible apply Keeps.ite <;> intro _
    | split
    | intro _
    | exact Keeps.refl _ _

theorem rtDataAccess_keeps (s : State) (r : Requester) (v : Option Word) : Keeps [.regs, .evts, .faults, .mem, .soft, .cores, .drover, .herd, .paddock, .fabric, .host, .power, .resets, .sharal, .roles, .out, .free] s (rtDataAccess s r v) := by
  unfold rtDataAccess
  repeat' first
    | dsimp only
    | with_reducible apply Keeps.refl
    | ((with_reducible apply Keeps.cut (readReg_keeps ..)); case hs => decide)
    | ((with_reducible apply Keeps.cut (barRead_keeps ..)); case hs => decide)
    | ((with_reducible apply Keeps.cut (readEffect_keeps ..)); case hs => decide)
    | ((with_reducible apply Keeps.cut (writeBy_keeps ..)); case hs => decide)
    | with_reducible apply Keeps.ite <;> intro _
    | split

theorem tallyRead_keeps (s : State) (q : Word) : Keeps [.regs, .sharal, .out, .free] s (tallyRead s q) := by
  unfold tallyRead
  repeat' first
    | dsimp only
    | with_reducible apply Keeps.refl
    | ((with_reducible apply smbFirmware_cut); case hs => decide)
    | ((with_reducible apply Keeps.cut (smbCall_keeps ..)); case hs => decide)
    | ((with_reducible apply Keeps.cut (smbDone_keeps ..)); case hs => decide)
    | ((with_reducible apply Keeps.cut (State.draw_keeps ..)); case hs => decide)
    | with_reducible apply Keeps.ite <;> intro _
    | split
    | intro _
    | exact Keeps.refl _ _

theorem aoRead_keeps (s : State) (off : Word) : Keeps [.regs, .sharal, .out, .free] s (aoRead s off) := by
  unfold aoRead
  repeat' first
    | dsimp only
    | with_reducible apply Keeps.refl
    | ((with_reducible apply smbFirmware_cut); case hs => decide)
    | ((with_reducible apply Keeps.cut (smbCall_keeps ..)); case hs => decide)
    | ((with_reducible apply Keeps.cut (smbDone_keeps ..)); case hs => decide)
    | ((with_reducible apply Keeps.cut (State.draw_keeps ..)); case hs => decide)
    | with_reducible apply Keeps.ite <;> intro _
    | split
    | intro _
    | exact Keeps.refl _ _

theorem smbOwnerSet_keeps (s : State) (key : List Byte) (pec : Option Bool) : Keeps [.regs, .evts, .faults, .mem, .cores, .drover, .herd, .paddock, .fabric, .host, .power, .sharal, .out, .free] s (smbOwnerSet s key pec) := by
  unfold smbOwnerSet
  repeat' first
    | dsimp only
    | with_reducible apply Keeps.refl
    | ((with_reducible apply smbFirmware_cut); case hs => decide)
    | ((with_reducible apply Keeps.cut (smbRefuse_keeps ..)); case hs => decide)
    | ((with_reducible apply Keeps.cut (smbDone_keeps ..)); case hs => decide)
    | ((with_reducible apply Keeps.cut (setOwner_keeps ..)); case hs => decide)
    | ((with_reducible apply Keeps.cut (mandatory_keeps ..)); case hs => decide)
    | with_reducible apply Keeps.ite <;> intro _
    | split
    | intro _
    | exact Keeps.refl _ _

theorem lastStatus_keeps (s : State) : Keeps [.regs, .sharal, .out] s (lastStatus s) := by
  unfold lastStatus
  repeat' first
    | dsimp only
    | with_reducible apply Keeps.refl
    | ((with_reducible apply Keeps.cut (smbReply_keeps ..)); case hs => decide)
    | ((with_reducible apply Keeps.cut (smbDone_keeps ..)); case hs => decide)
    | with_reducible apply Keeps.ite <;> intro _
    | split

theorem smbRecovery_cut {s : State} {go : State → State} {ps : List Part} {s0 : State} (h0 : Keeps ps s0 s) (hgo0 : ∀ (y0_0 : State), Keeps ps y0_0 (go y0_0))
    (hs : [.regs, .out] ⊆ ps) : Keeps ps s0 (smbRecovery s go) := by
  unfold smbRecovery
  repeat' first
    | dsimp only
    | with_reducible apply Keeps.refl
    | exact h0
    | ((with_reducible apply Keeps.cut (hgo0 ..)); case hs => exact fun _ hm => hm)
    | ((with_reducible apply Keeps.cut (smbRefuse_keeps ..)); case hs => exact List.Subset.trans (by decide) hs)
    | with_reducible apply Keeps.ite <;> intro _
    | split

theorem recoveryWrite_keeps (s : State) (off : Word) (data : List Byte) (pec : Option Bool) : Keeps [.regs, .sharal, .out] s (recoveryWrite s off data pec) := by
  unfold recoveryWrite
  repeat' first
    | dsimp only
    | with_reducible apply Keeps.refl
    | ((with_reducible apply smbRecovery_cut); case hs => decide)
    | ((with_reducible apply Keeps.cut (smbRefuse_keeps ..)); case hs => decide)
    | ((with_reducible apply Keeps.cut (smbDone_keeps ..)); case hs => decide)
    | ((with_reducible apply Keeps.cut (State.mapSharal_keeps ..)); case hs => decide)
    | (with_reducible apply Keeps.foldl) <;> try intro _ _
    | with_reducible apply Keeps.ite <;> intro _
    | split
    | intro _
    | exact Keeps.refl _ _

theorem recoveryCommit_keeps (s : State) (pec : Option Bool) : Keeps [.regs, .evts, .faults, .fabric, .host, .power, .resets, .sharal, .roles, .out] s (recoveryCommit s pec) := by
  unfold recoveryCommit
  repeat' first
    | dsimp only
    | with_reducible apply Keeps.refl
    | ((with_reducible apply smbRecovery_cut); case hs => decide)
    | ((with_reducible apply Keeps.cut (smbRefuse_keeps ..)); case hs => decide)
    | ((with_reducible apply Keeps.cut (smbDone_keeps ..)); case hs => decide)
    | ((with_reducible apply Keeps.cut (startUp_keeps ..)); case hs => decide)
    | ((with_reducible apply Keeps.cut (State.mapSharal_keeps ..)); case hs => decide)
    | with_reducible apply Keeps.ite <;> intro _
    | split
    | intro _
    | exact Keeps.refl _ _

theorem recoveryStatus_keeps (s : State) : Keeps [.regs, .sharal, .out] s (recoveryStatus s) := by
  unfold recoveryStatus
  repeat' first
    | dsimp only
    | with_reducible apply Keeps.refl
    | ((with_reducible apply smbRecovery_cut); case hs => decide)
    | ((with_reducible apply Keeps.cut (smbReply_keeps ..)); case hs => decide)
    | ((with_reducible apply Keeps.cut (smbDone_keeps ..)); case hs => decide)
    | intro _
    | exact Keeps.refl _ _

theorem smbAlertResponse_keeps (s : State) : Keeps [.power, .out] s (smbAlertResponse s) := by
  unfold smbAlertResponse
  repeat' first
    | dsimp only
    | with_reducible apply Keeps.refl
    | ((with_reducible apply Keeps.cut (State.mapPower_keeps ..)); case hs => decide)
    | ((with_reducible apply Keeps.cut (State.emit_keeps ..)); case hs => decide)
    | with_reducible apply Keeps.ite <;> intro _
    | split

theorem sendResult_keeps (s : State) (k : Packet) (status : Nat) (data : List Byte) : Keeps [.regs, .evts, .fabric] s (sendResult s k status data) := by
  unfold sendResult
  repeat' first
    | dsimp only
    | with_reducible apply Keeps.refl
    | ((with_reducible apply Keeps.cut (sendBy_keeps ..)); case hs => decide)
    | ((with_reducible apply Keeps.cut (countNoRoute_keeps ..)); case hs => decide)
    | with_reducible apply Keeps.ite <;> intro _
    | split

theorem mgmtServe_cut {s : State} {op : Nat} {go : State → Packet → State} {ps : List Part} {s0 : State} (h0 : Keeps ps s0 s)
    (hgo0 : ∀ (u : State) (k : Packet), Keeps ps u (go u k)) (hs : [.regs, .evts, .fabric, .out] ⊆ ps) : Keeps ps s0 (mgmtServe s op go) := by
  unfold mgmtServe
  split
  · exact h0
  · dsimp only
    have hd : ∀ o : OutPkt, Keeps ps s0 (dropLocal s o) :=
      fun _ => Keeps.cut (dropLocal_keeps ..) (List.Subset.trans (by decide) hs) h0
    with_reducible apply Keeps.ite <;> intro _
    · exact (hd _).trans (hgo0 ..)
    · exact Keeps.cut (sendResult_keeps ..) (List.Subset.trans (by decide) hs) (hd _)

theorem mgmtReadReq_keeps (s : State) (k : Packet) : Keeps [.regs, .evts, .fabric] s (mgmtReadReq s k) := by
  unfold mgmtReadReq
  repeat' first
    | dsimp only
    | with_reducible apply Keeps.refl
    | ((with_reducible apply Keeps.cut (sendResult_keeps ..)); case hs => decide)
    | ((with_reducible apply Keeps.cut (readEffect_keeps ..)); case hs => decide)
    | (with_reducible apply Keeps.foldl_fst) <;> try intro _ _
    | (with_reducible apply Keeps.foldl) <;> try intro _ _
    | with_reducible apply Keeps.ite <;> intro _
    | split

theorem mgmtWriteReq_keeps (s : State) (k : Packet) : Keeps [.regs, .evts, .faults, .mem, .soft, .cores, .drover, .herd, .paddock, .fabric, .host, .power, .resets, .sharal, .roles, .out, .free] s (mgmtWriteReq s k) := by
  unfold mgmtWriteReq
  repeat' first
    | dsimp only
    | with_reducible apply Keeps.refl
    | ((with_reducible apply Keeps.cut (sendResult_keeps ..)); case hs => decide)
    | ((with_reducible apply Keeps.cut (extPulse_keeps ..)); case hs => decide)
    | ((with_reducible apply Keeps.cut (extWrite_keeps ..)); case hs => decide)
    | (with_reducible apply Keeps.foldl) <;> try intro _ _
    | with_reducible apply Keeps.ite <;> intro _
    | split

theorem mgmtTallyReq_keeps (s : State) (k : Packet) : Keeps [.regs, .evts, .fabric] s (mgmtTallyReq s k) := by
  unfold mgmtTallyReq
  repeat' first
    | dsimp only
    | with_reducible apply Keeps.refl
    | ((with_reducible apply Keeps.cut (sendResult_keeps ..)); case hs => decide)
    | with_reducible apply Keeps.ite <;> intro _
    | split

end Sys2Proof.Machine
end

