-- ==== Sys2Proof/Laws/Grants.lean ====
section
/-! SUPPORT. What the operations of Machine/Grants.lean may change. -/

set_option linter.unusedTactic false
set_option linter.unreachableTactic false

namespace Sys2Proof.Machine

theorem serveRequest_keeps (s : State) (o : OutPkt) : Keeps [.regs, .evts, .mem, .slots, .herd, .fabric, .host, .power, .sharal, .out] s (serveRequest s o) := by
  unfold serveRequest
  repeat' first
    | dsimp only
    | with_reducible apply Keeps.refl
    | ((with_reducible apply Keeps.cut (atomicReceive_keeps ..)); case hs => decide)
    | ((with_reducible apply Keeps.cut (readReceive_keeps ..)); case hs => decide)
    | ((with_reducible apply Keeps.cut (writeReceive_keeps ..)); case hs => decide)
    | with_reducible apply Keeps.ite <;> intro _
    | split

theorem serveOutside_keeps (s : State) (p : Nat) : Keeps [.regs, .evts, .faults, .mem, .slots, .herd, .fabric, .host, .power, .sharal, .out] s (serveOutside s p) := by
  unfold serveOutside
  repeat' first
    | dsimp only
    | with_reducible apply Keeps.refl
    | ((with_reducible apply Keeps.cut (serveRequest_keeps ..)); case hs => decide)
    | ((with_reducible apply Keeps.cut (bar2Retry_keeps ..)); case hs => decide)
    | with_reducible apply Keeps.ite <;> intro _
    | split

theorem portGrant_keeps (s : State) (p : Nat) : Keeps [.regs, .evts, .faults, .mem, .slots, .cores, .drover, .herd, .fabric, .host, .power, .sharal, .out] s (portGrant s p) := by
  unfold portGrant
  repeat' first
    | dsimp only
    | with_reducible apply Keeps.refl
    | ((with_reducible apply Keeps.cut (serveOutside_keeps ..)); case hs => decide)
    | ((with_reducible apply Keeps.cut (grantTo_keeps ..)); case hs => decide)
    | ((with_reducible apply Keeps.cut (portFaults_some (by assumption))); case hs => decide)
    | ((with_reducible apply Keeps.cut (portFaults_keeps ..)); case hs => decide)
    | with_reducible apply Keeps.opt_if (by assumption)
    | with_reducible apply Keeps.ite <;> intro _
    | split

theorem replaySlot_keeps (s : State) (addr : Nat) : Keeps [.slots] s (replaySlot s addr) := by
  unfold replaySlot
  repeat' first
    | dsimp only
    | with_reducible apply Keeps.refl
    | with_reducible apply Keeps.ite <;> intro _
    | split
    | with_reducible exact (Keeps.slots s _).mono (by decide)
    | ((with_reducible apply Keeps.cut (Keeps.slots ..)); case hs => decide)

theorem replayCharge_keeps (s : State) (col : Nat) (task : Option Nat) (core : Nat) (n : Nat) : Keeps [.drover] s (replayCharge s col task core n) := by
  unfold replayCharge
  repeat' first
    | dsimp only
    | with_reducible apply Keeps.refl
    | ((with_reducible apply Keeps.cut (extendTask_keeps ..)); case hs => decide)
    | ((with_reducible apply Keeps.cut (chargeReserve_keeps ..)); case hs => decide)
    | with_reducible apply Keeps.ite <;> intro _
    | split

theorem replayCount_keeps (s : State) (c : Option Nat) (persists : Bool) : Keeps [.regs, .evts] s (replayCount s c persists) := by
  unfold replayCount
  repeat' first
    | dsimp only
    | with_reducible apply Keeps.refl
    | ((with_reducible apply Keeps.cut (State.bump_keeps ..)); case hs => decide)
    | ((with_reducible apply Keeps.cut (State.pulse_keeps ..)); case hs => decide)
    | with_reducible apply Keeps.ite <;> intro _
    | split

theorem replayed_keeps (s : State) (r : Reader) (addr : Nat) (persists : Bool) : Keeps [.cores, .drover, .herd, .paddock] s (replayed s r addr persists) := by
  cases r <;> unfold replayed <;> dsimp only
  case channel => exact (State.mapChan_keeps ..).mono (by decide)
  case load => exact (State.mapCore_keeps ..).mono (by decide)
  case attend => exact (State.mapCore_keeps ..).mono (by decide)
  case restore =>
    have k : ∀ c f, Keeps [.cores, .drover, .herd, .paddock] s (s.mapCore c f) := fun _ _ => (State.mapCore_keeps ..).mono (by decide)
    split
    · split
      · exact Keeps.cut (setTask_keeps ..) (by decide) (k ..)
      · exact k ..
    · exact k ..
  case herd => exact (Keeps.herd s _).mono (by decide)
  case paddock => exact (Keeps.paddock s _).mono (by decide)
  all_goals exact Keeps.refl _ _

theorem replayStore_keeps (s : State) (r : Reader) (addr : Nat) (persists : Bool) : Keeps [.regs, .evts, .mem, .slots, .cores, .drover, .herd, .paddock] s (replayStore s r addr persists) := by
  unfold replayStore
  repeat' first
    | dsimp only
    | with_reducible apply Keeps.refl
    | ((with_reducible apply Keeps.cut (replayed_keeps ..)); case hs => decide)
    | ((with_reducible apply Keeps.cut (replayCount_keeps ..)); case hs => decide)
    | ((with_reducible apply Keeps.cut (replayCharge_keeps ..)); case hs => decide)
    | ((with_reducible apply Keeps.cut (replaySlot_keeps ..)); case hs => decide)
    | ((with_reducible apply Keeps.cut (State.mapMem_keeps _ _ (fun _ hm => Memory.put_wf _ _ _ hm))); case hs => decide)
    | ((with_reducible apply Keeps.cut (State.mapMem_keeps _ _ (fun _ hm => Memory.mark_wf _ _ hm))); case hs => decide)
    | ((with_reducible apply Keeps.cut (State.mapMem_keeps _ _ (fun _ hm => Memory.putPart_wf _ _ _ hm))); case hs => decide)
    | ((with_reducible apply Keeps.cut (State.mapMem_keeps _ _ (fun _ hm => Memory.moveBlock_wf _ _ _ hm))); case hs => decide)
    | ((with_reducible apply Keeps.cut (State.mapMem_keeps _ _ (fun _ hm => Memory.zeroRange_wf _ _ _ hm))); case hs => decide)
    | ((with_reducible apply Keeps.cut (State.mapMem_keeps _ _ (fun _ hm => Memory.zeroRange_wf _ _ _ (Memory.zeroRange_wf _ _ _ hm)))); case hs => decide)
    | ((with_reducible apply Keeps.cut (State.mapMem_keeps _ _ (fun _ hm => atomicGo_wf _ _ _ _ _ hm))); case hs => decide)
    | ((with_reducible apply Keeps.cut (State.mapMem_keeps _ _ (fun _ hm => putHeader_wf _ _ _ _ hm))); case hs => decide)
    | ((with_reducible apply Keeps.cut (State.mapMem_keeps _ _ (fun _ hm => putHeader_wf _ _ _ _ (putGold_wf _ _ _ _ _ hm)))); case hs => decide)
    | ((with_reducible apply Keeps.cut (State.mapMem_keeps _ _ (fun _ hm => putHeader_wf _ _ _ _ (by split <;> first | exact putGold_wf _ _ _ _ _ hm | exact hm)))); case hs => decide)
    | ((with_reducible apply Keeps.cut (State.mapMem_keeps _ _ (fun _ hm => Memory.fromHost_wf _ _ _ _ hm))); case hs => decide)
    | ((with_reducible apply Keeps.cut (State.mapMem_keeps _ _ (fun _ hm => copyDown_wf _ _ _ _ _ hm))); case hs => decide)
    | ((with_reducible apply Keeps.cut (State.mapMem_keeps _ _ (fun _ hm => Memory.foldl_wf _ _ (fun _ _ h => freeCell_wf _ _ _ h) _ hm))); case hs => decide)
    | ((with_reducible apply Keeps.cut (State.mapMem_keeps _ _ (fun _ hm => Memory.foldl_wf _ _ (fun _ _ h => writePage_wf _ _ _ _ _ h) _ hm))); case hs => decide)
    | with_reducible apply Keeps.ite <;> intro _
    | split

theorem slotFails_keeps (s : State) (c : Nat) (i : Nat) (word : Nat) : Keeps [.faults, .cores, .drover] s (slotFails s c i word) := by
  unfold slotFails
  repeat' first
    | dsimp only
    | with_reducible apply Keeps.refl
    | ((with_reducible apply Keeps.cut (taskFault_keeps ..)); case hs => decide)
    | ((with_reducible apply Keeps.cut (State.mapCore_keeps ..)); case hs => decide)
    | (with_reducible apply Keeps.foldl) <;> try intro _ _
    | with_reducible apply Keeps.ite <;> intro _
    | split

theorem replayBook_keeps (s : State) (c : Nat) (i : Nat) (word : Nat) (persists : Bool) : Keeps [.regs, .evts, .faults, .cores, .drover] s (replayBook s c i word persists) := by
  unfold replayBook
  repeat' first
    | dsimp only
    | with_reducible apply Keeps.refl
    | ((with_reducible apply Keeps.cut (slotFails_keeps ..)); case hs => decide)
    | ((with_reducible apply Keeps.cut (replayCount_keeps ..)); case hs => decide)
    | ((with_reducible apply Keeps.cut (replayCharge_keeps ..)); case hs => decide)
    | with_reducible apply Keeps.ite <;> intro _
    | split

theorem parityReplay_keeps (s : State) (r : Reader) (addr : Nat) (persists : Bool) : Keeps [.regs, .evts, .faults, .mem, .slots, .cores, .drover, .herd, .paddock] s (parityReplay s r addr persists) := by
  unfold parityReplay
  repeat' first
    | dsimp only
    | with_reducible apply Keeps.refl
    | ((with_reducible apply Keeps.cut (replayBook_keeps ..)); case hs => decide)
    | ((with_reducible apply Keeps.cut (replayStore_keeps ..)); case hs => decide)
    | with_reducible apply Keeps.ite <;> intro _
    | split

end Sys2Proof.Machine
end

