-- ==== Sys2Proof/Laws/Tick.lean ====
section
/-! SUPPORT. What the operations of Machine/Tick.lean may change. -/

set_option linter.unusedTactic false
set_option linter.unreachableTactic false

namespace Sys2Proof.Machine

theorem latchPage_keeps (s : State) (slot : Nat) : Keeps [.regs, .evts, .host, .out] s (latchPage s slot) := by
  unfold latchPage
  repeat' first
    | dsimp only
    | with_reducible apply Keeps.refl
    | ((with_reducible apply Keeps.cut (evtMsg_keeps ..)); case hs => decide)
    | ((with_reducible apply Keeps.cut (State.setEvt_keeps ..)); case hs => decide)
    | with_reducible apply Keeps.ite <;> intro _
    | split

theorem latchAll_keeps (s : State) : Keeps [.regs, .evts, .host, .out] s (latchAll s) := by
  unfold latchAll
  repeat' first
    | dsimp only
    | with_reducible apply Keeps.refl
    | ((with_reducible apply Keeps.cut (latchPage_keeps ..)); case hs => decide)
    | (with_reducible apply Keeps.foldl) <;> try intro _ _

theorem starve_keeps (s : State) (c : Nat) (ch : Nat) : Keeps [.regs, .evts, .cores, .sharal] s (starve s c ch) := by
  unfold starve
  repeat' first
    | dsimp only
    | with_reducible apply Keeps.refl
    | ((with_reducible apply Keeps.cut (State.mapChan_keeps ..)); case hs => decide)
    | ((with_reducible apply Keeps.cut (taskTrace_keeps ..)); case hs => decide)
    | ((with_reducible apply Keeps.cut (State.bump_keeps ..)); case hs => decide)
    | ((with_reducible apply Keeps.cut (State.pulse_keeps ..)); case hs => decide)
    | with_reducible apply Keeps.ite <;> intro _
    | split

theorem refillCore_keeps (s : State) (c : Nat) : Keeps [.cores] s (refillCore s c) := by
  unfold refillCore
  repeat' first
    | dsimp only
    | with_reducible apply Keeps.refl
    | ((with_reducible apply Keeps.cut (State.mapCore_keeps ..)); case hs => decide)

theorem stallCore_keeps (s : State) (c : Nat) : Keeps [.regs, .cores] s (stallCore s c) := by
  unfold stallCore
  repeat' first
    | dsimp only
    | with_reducible apply Keeps.refl
    | ((with_reducible apply Keeps.cut (State.bump_keeps ..)); case hs => decide)
    | ((with_reducible apply Keeps.cut (State.mapCore_keeps ..)); case hs => decide)
    | with_reducible apply Keeps.ite <;> intro _
    | split

theorem tickJoined_keeps (s : State) (c : Nat) (ch : Nat) : Keeps [.regs, .evts, .cores, .fabric] s (tickJoined s c ch) := by
  unfold tickJoined
  repeat' first
    | dsimp only
    | with_reducible apply Keeps.refl
    | ((with_reducible apply Keeps.cut (headAsk_keeps ..)); case hs => decide)
    | ((with_reducible apply Keeps.cut (learnWalk_keeps ..)); case hs => decide)
    | ((with_reducible apply Keeps.cut (setSlotOf_keeps ..)); case hs => decide)
    | with_reducible apply Keeps.ite <;> intro _
    | split

theorem tickNonfin_keeps (s : State) (c : Nat) : Keeps [.evts, .cores] s (tickNonfin s c) := by
  unfold tickNonfin
  repeat' first
    | dsimp only
    | with_reducible apply Keeps.refl
    | ((with_reducible apply Keeps.cut (State.pulse_keeps ..)); case hs => decide)
    | ((with_reducible apply Keeps.cut (State.mapCore_keeps ..)); case hs => decide)
    | with_reducible apply Keeps.ite <;> intro _
    | split

theorem tickChan_keeps (c : Nat) (s : State) (ch : Nat) : Keeps [.regs, .evts, .cores, .fabric, .sharal] s (tickChan c s ch) := by
  unfold tickChan
  repeat' first
    | dsimp only
    | with_reducible apply Keeps.refl
    | ((with_reducible apply Keeps.cut (tickJoined_keeps ..)); case hs => decide)
    | ((with_reducible apply Keeps.cut (starve_keeps ..)); case hs => decide)
    | ((with_reducible apply Keeps.cut (noteRequest_keeps ..)); case hs => decide)

theorem tickCore_keeps (s : State) (c : Nat) : Keeps [.regs, .evts, .faults, .cores, .drover, .fabric, .sharal] s (tickCore s c) := by
  unfold tickCore
  repeat' first
    | dsimp only
    | with_reducible apply Keeps.refl
    | ((with_reducible apply Keeps.cut (tickChan_keeps ..)); case hs => decide)
    | ((with_reducible apply Keeps.cut (tickNonfin_keeps ..)); case hs => decide)
    | ((with_reducible apply Keeps.cut (stallCore_keeps ..)); case hs => decide)
    | ((with_reducible apply Keeps.cut (refillCore_keeps ..)); case hs => decide)
    | ((with_reducible apply Keeps.cut (pull_keeps ..)); case hs => decide)
    | ((with_reducible apply Keeps.cut (State.bump_keeps ..)); case hs => decide)
    | (with_reducible apply Keeps.foldl) <;> try intro _ _
    | with_reducible apply Keeps.ite <;> intro _
    | split

theorem tickPort_keeps (s0 : State) (p : Nat) : Keeps [.regs, .evts, .fabric, .power, .sharal] s0 (tickPort s0 p) := by
  unfold tickPort
  repeat' first
    | dsimp only
    | with_reducible apply Keeps.refl
    | ((with_reducible apply Keeps.cut (State.setPort_keeps ..)); case hs => decide)
    | ((with_reducible apply Keeps.cut (startWake_keeps ..)); case hs => decide)
    | ((with_reducible apply Keeps.cut (State.bump_keeps ..)); case hs => decide)
    | with_reducible apply Keeps.ite <;> intro _
    | split

theorem tickLocal_keeps (s : State) : Keeps [.fabric] s (tickLocal s) := by
  unfold tickLocal
  repeat' first
    | dsimp only
    | with_reducible apply Keeps.refl
    | ((with_reducible apply Keeps.cut (State.mapFabric_keeps ..)); case hs => decide)
    | with_reducible apply Keeps.ite <;> intro _
    | split

theorem tickAccess_keeps (s : State) (was : Nat) : Keeps [.herd] s (tickAccess s was) := by
  unfold tickAccess
  repeat' first
    | dsimp only
    | with_reducible apply Keeps.refl
    | with_reducible apply Keeps.ite <;> intro _
    | split
    | with_reducible exact (Keeps.herd s _).mono (by decide)
    | ((with_reducible apply Keeps.cut (Keeps.herd ..)); case hs => decide)

theorem tickCounters_keeps (s : State) : Keeps [.regs] s (tickCounters s) := by
  unfold tickCounters
  repeat' first
    | dsimp only
    | with_reducible apply Keeps.refl
    | ((with_reducible apply Keeps.cut (countEvent_keeps ..)); case hs => decide)
    | (with_reducible apply Keeps.foldl) <;> try intro _ _
    | with_reducible apply Keeps.ite <;> intro _
    | split

theorem tickUnits_keeps (s : State) : Keeps [.regs, .evts, .faults, .cores, .drover, .herd, .fabric, .power, .sharal] s (tickUnits s) := by
  unfold tickUnits
  repeat' first
    | dsimp only
    | with_reducible apply Keeps.refl
    | ((with_reducible apply Keeps.cut (tickCounters_keeps ..)); case hs => decide)
    | ((with_reducible apply Keeps.cut (tickAccess_keeps ..)); case hs => decide)
    | ((with_reducible apply Keeps.cut (tickLocal_keeps ..)); case hs => decide)
    | ((with_reducible apply Keeps.cut (tickPort_keeps ..)); case hs => decide)
    | ((with_reducible apply Keeps.cut (tickCore_keeps ..)); case hs => decide)
    | ((with_reducible apply Keeps.cut (State.bump_keeps ..)); case hs => decide)
    | (with_reducible apply Keeps.foldl) <;> try intro _ _
    | with_reducible apply Keeps.ite <;> intro _
    | split

theorem busyDom_keeps (s : State) (d : Nat) : Keeps [.power] s (busyDom s d) := by
  unfold busyDom
  repeat' first
    | dsimp only
    | with_reducible apply Keeps.refl
    | ((with_reducible apply Keeps.cut (State.setDom_keeps ..)); case hs => decide)
    | with_reducible apply Keeps.ite <;> intro _
    | split

theorem drainWaits_keeps (s : State) : Keeps [.resets] s (drainWaits s) := by
  unfold drainWaits
  repeat' first
    | dsimp only
    | with_reducible apply Keeps.refl
    | ((with_reducible apply Keeps.cut (mapResets_keeps ..)); case hs => decide)
    | with_reducible apply Keeps.ite <;> intro _
    | split

theorem hostLink_keeps (s : State) : Keeps [.host] s (hostLink s) := by
  unfold hostLink
  repeat' first
    | dsimp only
    | with_reducible apply Keeps.refl
    | ((with_reducible apply Keeps.cut (State.mapHost_keeps ..)); case hs => decide)
    | with_reducible apply Keeps.ite <;> intro _
    | split

theorem tickFrom_keeps (s u : State) (k : Keeps [.now, .regs, .evts, .faults, .mem, .slots, .soft, .cores, .drover, .herd, .paddock, .fabric, .host, .power, .resets, .sharal, .roles, .out, .free] s u) :
    Keeps [.now, .regs, .evts, .faults, .mem, .slots, .soft, .cores, .drover, .herd, .paddock, .fabric, .host, .power, .resets, .sharal, .roles, .out, .free] s (traceWrite (drainWaits (hostLink (bar0Line ((List.range 24).foldl busyDom
      (tickUnits { u with now := u.now + 1, slots := nextSlots u.slots, soft := [] })))))) := by
  ((with_reducible apply Keeps.cut (traceWrite_keeps ..)); case hs => decide)
  ((with_reducible apply Keeps.cut (drainWaits_keeps ..)); case hs => decide)
  ((with_reducible apply Keeps.cut (hostLink_keeps ..)); case hs => decide)
  ((with_reducible apply Keeps.cut (bar0Line_keeps ..)); case hs => decide)
  with_reducible apply Keeps.foldl
  · intro _ _
    exact (busyDom_keeps ..).mono (by decide)
  ((with_reducible apply Keeps.cut (tickUnits_keeps ..)); case hs => decide)
  exact Keeps.cut (Keeps.soft { u with now := u.now + 1, slots := nextSlots u.slots } _) (by decide)
    (Keeps.cut (Keeps.slots { u with now := u.now + 1 } _) (by decide) (Keeps.cut (Keeps.now u _) (by decide) k))

theorem tick_keeps (s : State) : Keeps [.now, .regs, .evts, .faults, .mem, .slots, .soft, .cores, .drover, .herd, .paddock, .fabric, .host, .power, .resets, .sharal, .roles, .out, .free] s (tick s) := by
  unfold tick
  with_reducible apply Keeps.ite <;> intro _
  · exact Keeps.refl _ _
  · exact tickFrom_keeps s (latchAll s) ((latchAll_keeps ..).mono (by decide))

end Sys2Proof.Machine
end

