-- ==== Sys2Proof/Laws/Exec.lean ====
section
/-! SUPPORT. What each command may change: the frames of the meanings. -/

set_option linter.unusedTactic false
set_option linter.unreachableTactic false

namespace Sys2Proof.Machine

theorem execChainBlockForward_keeps {c : CoreId} {slot : Fin 4} {s : State} {t' : State} (h' : execChainBlockForward c slot s = .next t') : Keeps [.regs, .evts, .faults, .cores, .drover, .fabric] s t' := by
  unfold execChainBlockForward at h'
  injection h' with h'
  subst h'
  repeat' first
    | dsimp only
    | with_reducible apply Keeps.refl
    | ((with_reducible apply Keeps.cut (chainForward_keeps ..)); case hs => decide)
    | with_reducible apply Keeps.onlyIf
    | with_reducible apply Keeps.onlyIf

theorem execChainBlockArrive_keeps {c : CoreId} {slot : Fin 4} {s : State} {t' : State} (h' : execChainBlockArrive c slot s = .next t') : Keeps [.regs, .mem, .slots, .cores] s t' := by
  unfold execChainBlockArrive at h'
  injection h' with h'
  subst h'
  repeat' first
    | dsimp only
    | with_reducible apply Keeps.refl
    | ((with_reducible apply Keeps.cut (chainArrive_keeps ..)); case hs => decide)

theorem execChainMarkerArrive_keeps {c : CoreId} {slot : Fin 4} {s : State} {t' : State} (h' : execChainMarkerArrive c slot s = .next t') : Keeps [.regs, .evts, .cores] s t' := by
  unfold execChainMarkerArrive at h'
  injection h' with h'
  subst h'
  repeat' first
    | dsimp only
    | with_reducible apply Keeps.refl
    | ((with_reducible apply Keeps.cut (chainMarker_keeps ..)); case hs => decide)

theorem execChainCreditReturn_keeps {c : CoreId} {slot : Fin 4} {s : State} {t' : State} (h' : execChainCreditReturn c slot s = .next t') : Keeps [.cores] s t' := by
  unfold execChainCreditReturn at h'
  injection h' with h'
  subst h'
  repeat' first
    | dsimp only
    | with_reducible apply Keeps.refl
    | ((with_reducible apply Keeps.cut (chainCredit_keeps ..)); case hs => decide)

theorem execChainDetach_keeps {c : CoreId} {slot : Fin 4} {s : State} {t' : State} (h' : execChainDetach c slot s = .next t') : Keeps [.regs, .evts, .faults, .cores, .drover, .sharal] s t' := by
  unfold execChainDetach at h'
  injection h' with h'
  subst h'
  repeat' first
    | dsimp only
    | with_reducible apply Keeps.refl
    | ((with_reducible apply Keeps.cut (chainDetach_keeps ..)); case hs => decide)

theorem execDroveTimeout_keeps {c : CoreId} {slot : Fin 4} {s : State} {t' : State} (h' : execDroveTimeout c slot s = .next t') : Keeps [.evts, .faults, .cores, .drover] s t' := by
  unfold execDroveTimeout at h'
  injection h' with h'
  subst h'
  repeat' first
    | dsimp only
    | with_reducible apply Keeps.refl
    | ((with_reducible apply Keeps.cut (droveTimeout_keeps ..)); case hs => decide)

theorem execInstanceAbort_keeps {s : State} {t' : State} (h' : execInstanceAbort s = .next t') : Keeps [.regs, .evts, .faults, .mem, .cores, .drover, .herd, .paddock, .fabric, .host, .power, .sharal, .free] s t' := by
  unfold execInstanceAbort at h'
  injection h' with h'
  subst h'
  repeat' first
    | dsimp only
    | with_reducible apply Keeps.refl
    | ((with_reducible apply Keeps.cut (instanceAbort_keeps ..)); case hs => decide)

theorem execEndInstr_keeps {c : CoreId} {s : State} {t' : State} (h' : execEndInstr c s = .next t') : Keeps [.faults, .cores, .drover] s t' := by
  unfold execEndInstr at h'
  injection h' with h'
  subst h'
  repeat' first
    | dsimp only
    | with_reducible apply Keeps.refl
    | ((with_reducible apply Keeps.cut (issueEnd_keeps ..)); case hs => decide)

theorem execUndefinedInstruction_keeps {c : CoreId} {s : State} {t' : State} (h' : execUndefinedInstruction c s = .next t') : Keeps [.faults, .cores, .drover] s t' := by
  unfold execUndefinedInstruction at h'
  injection h' with h'
  subst h'
  repeat' first
    | dsimp only
    | with_reducible apply Keeps.refl
    | ((with_reducible apply Keeps.cut (issueUndefined_keeps ..)); case hs => decide)

theorem execArm_keeps {c : CoreId} {s : State} {t' : State} (h' : execArm c s = .next t') : Keeps [.regs, .evts, .faults, .cores, .drover, .sharal] s t' := by
  unfold execArm at h'
  injection h' with h'
  subst h'
  exact issue_keeps _ _ _ _ _ (fun _ _ _ => (issueArm_keeps ..).mono (by decide)) (by decide)

theorem execRearm_keeps {c : CoreId} {s : State} {t' : State} (h' : execRearm c s = .next t') : Keeps [.faults, .cores, .drover] s t' := by
  unfold execRearm at h'
  injection h' with h'
  subst h'
  exact issue_keeps _ _ _ _ _ (fun _ _ _ => (issueRearm_keeps ..).mono (by decide)) (by decide)

theorem execRearmTakeEffect_keeps {c : CoreId} {ch : ChanId} {s : State} {t' : State} (h' : execRearmTakeEffect c ch s = .next t') : Keeps [.regs, .evts, .faults, .cores, .drover, .fabric, .sharal] s t' := by
  unfold execRearmTakeEffect at h'
  injection h' with h'
  subst h'
  repeat' first
    | dsimp only
    | with_reducible apply Keeps.refl
    | ((with_reducible apply Keeps.cut (rearmEffect_keeps ..)); case hs => decide)
    | ((with_reducible apply Keeps.cut (pull_keeps ..)); case hs => decide)
    | with_reducible apply Keeps.onlyIf
    | with_reducible apply Keeps.onlyIf

theorem execSwap_keeps {c : CoreId} {s : State} {t' : State} (h' : execSwap c s = .next t') : Keeps [.faults, .cores, .drover] s t' := by
  unfold execSwap at h'
  injection h' with h'
  subst h'
  exact issue_keeps _ _ _ _ _ (fun _ _ _ => (issueSwap_keeps ..).mono (by decide)) (by decide)

theorem execHalvesSwap_keeps {c : CoreId} {ch : ChanId} {s : State} {t' : State} (h' : execHalvesSwap c ch s = .next t') : Keeps [.regs, .evts, .faults, .cores, .drover, .fabric, .sharal] s t' := by
  unfold execHalvesSwap at h'
  injection h' with h'
  subst h'
  repeat' first
    | dsimp only
    | with_reducible apply Keeps.refl
    | ((with_reducible apply Keeps.cut (halvesSwap_keeps ..)); case hs => decide)
    | ((with_reducible apply Keeps.cut (pull_keeps ..)); case hs => decide)
    | with_reducible apply Keeps.onlyIf
    | with_reducible apply Keeps.onlyIf

theorem execDisarm_keeps {c : CoreId} {s : State} {t' : State} (h' : execDisarm c s = .next t') : Keeps [.faults, .cores, .drover] s t' := by
  unfold execDisarm at h'
  injection h' with h'
  subst h'
  exact issue_keeps _ _ _ _ _ (fun _ _ _ => (issueDisarm_keeps ..).mono (by decide)) (by decide)

theorem execDisarmComplete_keeps {c : CoreId} {ch : ChanId} {s : State} {t' : State} (h' : execDisarmComplete c ch s = .next t') : Keeps [.regs, .evts, .faults, .cores, .drover, .fabric, .sharal] s t' := by
  unfold execDisarmComplete at h'
  injection h' with h'
  subst h'
  repeat' first
    | dsimp only
    | with_reducible apply Keeps.refl
    | ((with_reducible apply Keeps.cut (disarmDone_keeps ..)); case hs => decide)
    | ((with_reducible apply Keeps.cut (pull_keeps ..)); case hs => decide)
    | with_reducible apply Keeps.onlyIf
    | with_reducible apply Keeps.onlyIf

theorem execTransferComplete_keeps {c : CoreId} {ch : ChanId} {s : State} {t' : State} (h' : execTransferComplete c ch s = .next t') : Keeps [.regs, .evts, .faults, .mem, .cores, .drover, .fabric] s t' := by
  unfold execTransferComplete at h'
  injection h' with h'
  subst h'
  repeat' first
    | dsimp only
    | with_reducible apply Keeps.refl
    | ((with_reducible apply Keeps.cut (transferDone_keeps ..)); case hs => decide)

theorem execChannelPrimed_keeps {c : CoreId} {ch : ChanId} {s : State} {t' : State} (h' : execChannelPrimed c ch s = .next t') : Keeps [.cores] s t' := by
  unfold execChannelPrimed at h'
  injection h' with h'
  subst h'
  repeat' first
    | dsimp only
    | with_reducible apply Keeps.refl
    | ((with_reducible apply Keeps.cut (channelPrimed_keeps ..)); case hs => decide)
    | with_reducible apply Keeps.onlyIf
    | with_reducible apply Keeps.onlyIf

theorem execDlead_keeps {c : CoreId} {s : State} {t' : State} (h' : execDlead c s = .next t') : Keeps [.regs, .evts, .faults, .cores, .drover, .sharal] s t' := by
  unfold execDlead at h'
  injection h' with h'
  subst h'
  exact issue_keeps _ _ _ _ _ (fun _ _ _ => (issueChain_keeps ..).mono (by decide)) (by decide)

theorem execDjoin_keeps {c : CoreId} {s : State} {t' : State} (h' : execDjoin c s = .next t') : Keeps [.regs, .evts, .faults, .cores, .drover, .sharal] s t' := by
  unfold execDjoin at h'
  injection h' with h'
  subst h'
  exact issue_keeps _ _ _ _ _ (fun _ _ _ => (issueChain_keeps ..).mono (by decide)) (by decide)

theorem execCodebookLoad_keeps {c : CoreId} {s : State} {t' : State} (h' : execCodebookLoad c s = .next t') : Keeps [.regs, .faults, .cores, .drover] s t' := by
  unfold execCodebookLoad at h'
  injection h' with h'
  subst h'
  repeat' first
    | dsimp only
    | with_reducible apply Keeps.refl
    | ((with_reducible apply Keeps.cut (codebookLoad_keeps ..)); case hs => decide)
    | with_reducible apply Keeps.onlyIf
    | with_reducible apply Keeps.onlyIf

theorem execCodebookLoadComplete_keeps {c : CoreId} {s : State} {t' : State} (h' : execCodebookLoadComplete c s = .next t') : Keeps [.regs, .evts, .faults, .mem, .slots, .cores, .drover, .host] s t' := by
  unfold execCodebookLoadComplete at h'
  injection h' with h'
  subst h'
  repeat' first
    | dsimp only
    | with_reducible apply Keeps.refl
    | ((with_reducible apply Keeps.cut (loadComplete_keeps ..)); case hs => decide)
    | with_reducible apply Keeps.onlyIf
    | with_reducible apply Keeps.onlyIf

theorem execPinnedLoad_keeps {c : CoreId} {s : State} {t' : State} (h' : execPinnedLoad c s = .next t') : Keeps [.cores] s t' := by
  unfold execPinnedLoad at h'
  injection h' with h'
  subst h'
  repeat' first
    | dsimp only
    | with_reducible apply Keeps.refl
    | ((with_reducible apply Keeps.cut (pinnedLoad_keeps ..)); case hs => decide)
    | with_reducible apply Keeps.onlyIf
    | with_reducible apply Keeps.onlyIf

theorem execPinnedSlotReload_keeps {c : CoreId} {slot : Fin 16} {s : State} {t' : State} (h' : execPinnedSlotReload c slot s = .next t') : Keeps [.cores, .drover] s t' := by
  unfold execPinnedSlotReload at h'
  injection h' with h'
  subst h'
  repeat' first
    | dsimp only
    | with_reducible apply Keeps.refl
    | ((with_reducible apply Keeps.cut (slotReload_keeps ..)); case hs => decide)
    | with_reducible apply Keeps.onlyIf
    | with_reducible apply Keeps.onlyIf

theorem execPinReload_keeps {c : CoreId} {s : State} {t' : State} (h' : execPinReload c s = .next t') : Keeps [.cores, .drover] s t' := by
  unfold execPinReload at h'
  injection h' with h'
  subst h'
  repeat' first
    | dsimp only
    | with_reducible apply Keeps.refl
    | ((with_reducible apply Keeps.cut (pinReload_keeps ..)); case hs => decide)
    | with_reducible apply Keeps.onlyIf
    | with_reducible apply Keeps.onlyIf

theorem execMatmul_keeps {c : CoreId} {s : State} {t' : State} (h' : execMatmul c s = .next t') : Keeps [.regs, .evts, .faults, .mem, .cores, .drover, .free] s t' := by
  unfold execMatmul at h'
  injection h' with h'
  subst h'
  exact issue_keeps _ _ _ _ _ (fun _ _ _ => (issueMatmul_keeps ..).mono (by decide)) (by decide)

theorem execMatmulStart_keeps {c : CoreId} {s : State} {t' : State} (h' : execMatmulStart c s = .next t') : Keeps [.regs, .evts, .faults, .cores, .drover, .fabric] s t' := by
  unfold execMatmulStart at h'
  injection h' with h'
  subst h'
  repeat' first
    | dsimp only
    | with_reducible apply Keeps.refl
    | ((with_reducible apply Keeps.cut (matmulStart_keeps ..)); case hs => decide)
    | with_reducible apply Keeps.onlyIf
    | with_reducible apply Keeps.onlyIf

theorem execArrayStep_keeps {c : CoreId} {s : State} {t' : State} (h' : execArrayStep c s = .next t') : Keeps [.regs, .evts, .faults, .cores, .drover, .fabric] s t' := by
  unfold execArrayStep at h'
  injection h' with h'
  subst h'
  repeat' first
    | dsimp only
    | with_reducible apply Keeps.refl
    | ((with_reducible apply Keeps.cut (arrayStep_keeps ..)); case hs => decide)
    | ((with_reducible apply Keeps.cut (pull_keeps ..)); case hs => decide)
    | with_reducible apply Keeps.onlyIf
    | with_reducible apply Keeps.onlyIf

theorem execMatmulComplete_keeps {c : CoreId} {s : State} {t' : State} (h' : execMatmulComplete c s = .next t') : Keeps [.regs, .cores] s t' := by
  unfold execMatmulComplete at h'
  injection h' with h'
  subst h'
  repeat' first
    | dsimp only
    | with_reducible apply Keeps.refl
    | ((with_reducible apply Keeps.cut (matmulComplete_keeps ..)); case hs => decide)
    | with_reducible apply Keeps.onlyIf
    | with_reducible apply Keeps.onlyIf

theorem execDrain_keeps {c : CoreId} {s : State} {t' : State} (h' : execDrain c s = .next t') : Keeps [.regs, .evts, .faults, .mem, .cores, .drover, .free] s t' := by
  unfold execDrain at h'
  injection h' with h'
  subst h'
  exact issue_keeps _ _ _ _ _ (fun _ _ _ => (issueDrain_keeps ..).mono (by decide)) (by decide)

theorem execDrainStart_keeps {c : CoreId} {s : State} {t' : State} (h' : execDrainStart c s = .next t') : Keeps [.regs, .evts, .faults, .cores, .drover, .fabric] s t' := by
  unfold execDrainStart at h'
  injection h' with h'
  subst h'
  repeat' first
    | dsimp only
    | with_reducible apply Keeps.refl
    | ((with_reducible apply Keeps.cut (drainStart_keeps ..)); case hs => decide)
    | with_reducible apply Keeps.onlyIf
    | with_reducible apply Keeps.onlyIf

theorem execDrainTileRelease_keeps {c : CoreId} {s : State} {t' : State} (h' : execDrainTileRelease c s = .next t') : Keeps [.regs, .evts, .faults, .cores, .drover, .fabric] s t' := by
  unfold execDrainTileRelease at h'
  injection h' with h'
  subst h'
  repeat' first
    | dsimp only
    | with_reducible apply Keeps.refl
    | ((with_reducible apply Keeps.cut (drainRelease_keeps ..)); case hs => decide)
    | ((with_reducible apply Keeps.cut (pull_keeps ..)); case hs => decide)
    | with_reducible apply Keeps.onlyIf
    | with_reducible apply Keeps.onlyIf

theorem execDrainComplete_keeps {c : CoreId} {s : State} {t' : State} (h' : execDrainComplete c s = .next t') : Keeps [.regs, .evts, .faults, .cores, .drover, .fabric] s t' := by
  unfold execDrainComplete at h'
  injection h' with h'
  subst h'
  repeat' first
    | dsimp only
    | with_reducible apply Keeps.refl
    | ((with_reducible apply Keeps.cut (drainComplete_keeps ..)); case hs => decide)
    | ((with_reducible apply Keeps.cut (pull_keeps ..)); case hs => decide)
    | with_reducible apply Keeps.onlyIf
    | with_reducible apply Keeps.onlyIf

theorem execTileStore_keeps {c : CoreId} {s : State} {t' : State} (h' : execTileStore c s = .next t') : Keeps [.regs, .evts, .faults, .mem, .cores, .drover, .free] s t' := by
  unfold execTileStore at h'
  injection h' with h'
  subst h'
  exact issue_keeps _ _ _ _ _ (fun _ _ _ => (issueXfer_keeps ..).mono (by decide)) (by decide)

theorem execTileLoad_keeps {c : CoreId} {s : State} {t' : State} (h' : execTileLoad c s = .next t') : Keeps [.regs, .evts, .faults, .mem, .cores, .drover, .free] s t' := by
  unfold execTileLoad at h'
  injection h' with h'
  subst h'
  exact issue_keeps _ _ _ _ _ (fun _ _ _ => (issueXfer_keeps ..).mono (by decide)) (by decide)

theorem execTileAdd_keeps {c : CoreId} {s : State} {t' : State} (h' : execTileAdd c s = .next t') : Keeps [.regs, .evts, .faults, .mem, .cores, .drover, .free] s t' := by
  unfold execTileAdd at h'
  injection h' with h'
  subst h'
  exact issue_keeps _ _ _ _ _ (fun _ _ _ => (issueXfer_keeps ..).mono (by decide)) (by decide)

theorem execTileTransferStart_keeps {c : CoreId} {s : State} {t' : State} (h' : execTileTransferStart c s = .next t') : Keeps [.regs, .evts, .faults, .cores, .drover, .fabric] s t' := by
  unfold execTileTransferStart at h'
  injection h' with h'
  subst h'
  repeat' first
    | dsimp only
    | with_reducible apply Keeps.refl
    | ((with_reducible apply Keeps.cut (xferStart_keeps ..)); case hs => decide)
    | with_reducible apply Keeps.onlyIf
    | with_reducible apply Keeps.onlyIf

theorem execTileTransferRelease_keeps {c : CoreId} {s : State} {t' : State} (h' : execTileTransferRelease c s = .next t') : Keeps [.regs, .evts, .faults, .cores, .drover, .fabric] s t' := by
  unfold execTileTransferRelease at h'
  injection h' with h'
  subst h'
  repeat' first
    | dsimp only
    | with_reducible apply Keeps.refl
    | ((with_reducible apply Keeps.cut (xferRelease_keeps ..)); case hs => decide)
    | ((with_reducible apply Keeps.cut (pull_keeps ..)); case hs => decide)
    | with_reducible apply Keeps.onlyIf
    | with_reducible apply Keeps.onlyIf

theorem execTileTransferComplete_keeps {c : CoreId} {s : State} {t' : State} (h' : execTileTransferComplete c s = .next t') : Keeps [.regs, .evts, .faults, .cores, .drover, .fabric] s t' := by
  unfold execTileTransferComplete at h'
  injection h' with h'
  subst h'
  repeat' first
    | dsimp only
    | with_reducible apply Keeps.refl
    | ((with_reducible apply Keeps.cut (xferComplete_keeps ..)); case hs => decide)
    | ((with_reducible apply Keeps.cut (pull_keeps ..)); case hs => decide)
    | with_reducible apply Keeps.onlyIf
    | with_reducible apply Keeps.onlyIf

theorem execAttend_keeps {c : CoreId} {s : State} {t' : State} (h' : execAttend c s = .next t') : Keeps [.regs, .faults, .cores, .drover] s t' := by
  unfold execAttend at h'
  injection h' with h'
  subst h'
  exact issue_keeps _ _ _ _ _ (fun _ _ _ => (issueAttend_keeps ..).mono (by decide)) (by decide)

theorem execAttendStart_keeps {c : CoreId} {s : State} {t' : State} (h' : execAttendStart c s = .next t') : Keeps [.regs, .evts, .faults, .mem, .cores, .drover, .fabric, .power, .sharal] s t' := by
  unfold execAttendStart at h'
  injection h' with h'
  subst h'
  repeat' first
    | dsimp only
    | with_reducible apply Keeps.refl
    | ((with_reducible apply Keeps.cut (attendStart_keeps ..)); case hs => decide)
    | with_reducible apply Keeps.onlyIf
    | with_reducible apply Keeps.onlyIf

theorem execAttendBlock_keeps {c : CoreId} {s : State} {t' : State} (h' : execAttendBlock c s = .next t') : Keeps [.regs, .evts, .faults, .cores, .drover, .fabric] s t' := by
  unfold execAttendBlock at h'
  injection h' with h'
  subst h'
  repeat' first
    | dsimp only
    | with_reducible apply Keeps.refl
    | ((with_reducible apply Keeps.cut (attendBlock_keeps ..)); case hs => decide)
    | ((with_reducible apply Keeps.cut (pull_keeps ..)); case hs => decide)
    | with_reducible apply Keeps.onlyIf
    | with_reducible apply Keeps.onlyIf

theorem execAttendComplete_keeps {c : CoreId} {s : State} {t' : State} (h' : execAttendComplete c s = .next t') : Keeps [.regs, .evts, .faults, .mem, .cores, .drover, .fabric] s t' := by
  unfold execAttendComplete at h'
  injection h' with h'
  subst h'
  repeat' first
    | dsimp only
    | with_reducible apply Keeps.refl
    | ((with_reducible apply Keeps.cut (attendComplete_keeps ..)); case hs => decide)
    | ((with_reducible apply Keeps.cut (pull_keeps ..)); case hs => decide)
    | with_reducible apply Keeps.onlyIf
    | with_reducible apply Keeps.onlyIf

theorem execReside_keeps {s : State} {t' : State} (h' : execReside s = .next t') : Keeps [.regs, .evts, .mem, .cores, .drover, .host] s t' := by
  unfold execReside at h'
  injection h' with h'
  subst h'
  repeat' first
    | dsimp only
    | with_reducible apply Keeps.refl
    | ((with_reducible apply Keeps.cut (reside_keeps ..)); case hs => decide)

theorem execImageResident_keeps {tenant : Byte} {index : Fin 1024} {s : State} {t' : State} (h' : execImageResident tenant index s = .next t') : Keeps [.regs, .evts, .drover, .host] s t' := by
  unfold execImageResident at h'
  injection h' with h'
  subst h'
  repeat' first
    | dsimp only
    | with_reducible apply Keeps.refl
    | ((with_reducible apply Keeps.cut (imageResident_keeps ..)); case hs => decide)

theorem execRetire_keeps {s : State} {t' : State} (h' : execRetire s = .next t') : Keeps [.regs, .evts, .drover, .host] s t' := by
  unfold execRetire at h'
  injection h' with h'
  subst h'
  repeat' first
    | dsimp only
    | with_reducible apply Keeps.refl
    | ((with_reducible apply Keeps.cut (retire_keeps ..)); case hs => decide)

theorem execImageRetired_keeps {tenant : Byte} {index : Fin 1024} {s : State} {t' : State} (h' : execImageRetired tenant index s = .next t') : Keeps [.regs, .evts, .mem, .slots, .cores, .drover, .host] s t' := by
  unfold execImageRetired at h'
  injection h' with h'
  subst h'
  repeat' first
    | dsimp only
    | with_reducible apply Keeps.refl
    | ((with_reducible apply Keeps.cut (imageRetired_keeps ..)); case hs => decide)

theorem execTemplateSet_keeps {s : State} {t' : State} (h' : execTemplateSet s = .next t') : Keeps [.regs, .evts, .drover, .host] s t' := by
  unfold execTemplateSet at h'
  injection h' with h'
  subst h'
  repeat' first
    | dsimp only
    | with_reducible apply Keeps.refl
    | ((with_reducible apply Keeps.cut (template_keeps ..)); case hs => decide)

theorem execTemplateClear_keeps {s : State} {t' : State} (h' : execTemplateClear s = .next t') : Keeps [.regs, .evts, .drover, .host] s t' := by
  unfold execTemplateClear at h'
  injection h' with h'
  subst h'
  repeat' first
    | dsimp only
    | with_reducible apply Keeps.refl
    | ((with_reducible apply Keeps.cut (template_keeps ..)); case hs => decide)

theorem execSubmit_keeps {s : State} {t' : State} (h' : execSubmit s = .next t') : Keeps [.regs, .evts, .cores, .drover, .host, .power, .sharal] s t' := by
  unfold execSubmit at h'
  injection h' with h'
  subst h'
  repeat' first
    | dsimp only
    | with_reducible apply Keeps.refl
    | ((with_reducible apply Keeps.cut (submit_keeps ..)); case hs => decide)

theorem execLedgerSlotAdvance_keeps {s : State} {t' : State} (h' : execLedgerSlotAdvance s = .next t') : Keeps [.drover] s t' := by
  unfold execLedgerSlotAdvance at h'
  injection h' with h'
  subst h'
  repeat' first
    | dsimp only
    | with_reducible apply Keeps.refl
    | ((with_reducible apply Keeps.cut (rollLedger_keeps ..)); case hs => decide)

theorem execTaskDispatch_keeps {slot : Fin 4096} {s : State} {t' : State} (h' : execTaskDispatch slot s = .next t') : Keeps [.regs, .faults, .cores, .drover, .sharal] s t' := by
  unfold execTaskDispatch at h'
  injection h' with h'
  subst h'
  repeat' first
    | dsimp only
    | with_reducible apply Keeps.refl
    | ((with_reducible apply Keeps.cut (dispatchTask_keeps ..)); case hs => decide)

theorem execTaskSuspend_keeps {slot : Fin 4096} {s : State} {t' : State} (h' : execTaskSuspend slot s = .next t') : Keeps [.regs, .cores, .drover] s t' := by
  unfold execTaskSuspend at h'
  injection h' with h'
  subst h'
  repeat' first
    | dsimp only
    | with_reducible apply Keeps.refl
    | ((with_reducible apply Keeps.cut (suspendFor_keeps ..)); case hs => decide)

theorem execSuspendDrained_keeps {slot : Fin 4096} {s : State} {t' : State} (h' : execSuspendDrained slot s = .next t') : Keeps [.drover] s t' := by
  unfold execSuspendDrained at h'
  injection h' with h'
  subst h'
  repeat' first
    | dsimp only
    | with_reducible apply Keeps.refl
    | ((with_reducible apply Keeps.cut (suspendDrained_keeps ..)); case hs => decide)

theorem execSuspendSaveComplete_keeps {slot : Fin 4096} {s : State} {t' : State} (h' : execSuspendSaveComplete slot s = .next t') : Keeps [.regs, .evts, .faults, .mem, .cores, .drover, .sharal] s t' := by
  unfold execSuspendSaveComplete at h'
  injection h' with h'
  subst h'
  repeat' first
    | dsimp only
    | with_reducible apply Keeps.refl
    | ((with_reducible apply Keeps.cut (saveComplete_keeps ..)); case hs => decide)

theorem execTaskResume_keeps {slot : Fin 4096} {s : State} {t' : State} (h' : execTaskResume slot s = .next t') : Keeps [.regs, .faults, .cores, .drover] s t' := by
  unfold execTaskResume at h'
  injection h' with h'
  subst h'
  repeat' first
    | dsimp only
    | with_reducible apply Keeps.refl
    | ((with_reducible apply Keeps.cut (resumeTask_keeps ..)); case hs => decide)

theorem execRestoreComplete_keeps {slot : Fin 4096} {s : State} {t' : State} (h' : execRestoreComplete slot s = .next t') : Keeps [.regs, .evts, .faults, .cores, .drover, .sharal] s t' := by
  unfold execRestoreComplete at h'
  injection h' with h'
  subst h'
  repeat' first
    | dsimp only
    | with_reducible apply Keeps.refl
    | ((with_reducible apply Keeps.cut (restoreComplete_keeps ..)); case hs => decide)

theorem execTaskComplete_keeps {slot : Fin 4096} {s : State} {t' : State} (h' : execTaskComplete slot s = .next t') : Keeps [.regs, .evts, .cores, .drover, .host, .power, .sharal] s t' := by
  unfold execTaskComplete at h'
  injection h' with h'
  subst h'
  repeat' first
    | dsimp only
    | with_reducible apply Keeps.refl
    | ((with_reducible apply Keeps.cut (taskComplete_keeps ..)); case hs => decide)

theorem execOverrun_keeps {slot : Fin 4096} {s : State} {t' : State} (h' : execOverrun slot s = .next t') : Keeps [.regs, .evts, .faults, .cores, .drover] s t' := by
  unfold execOverrun at h'
  injection h' with h'
  subst h'
  repeat' first
    | dsimp only
    | with_reducible apply Keeps.refl
    | ((with_reducible apply Keeps.cut (overrun_keeps ..)); case hs => decide)

theorem execReserveExhausted_keeps {column : Fin 18} {s : State} {t' : State} (h' : execReserveExhausted column s = .next t') : Keeps [.regs, .evts, .faults, .drover] s t' := by
  unfold execReserveExhausted at h'
  injection h' with h'
  subst h'
  repeat' first
    | dsimp only
    | with_reducible apply Keeps.refl
    | ((with_reducible apply Keeps.cut (reserveExhausted_keeps ..)); case hs => decide)

theorem execHerdJobStart_keeps {s : State} {t' : State} (h' : execHerdJobStart s = .next t') : Keeps [.regs, .faults, .cores, .drover, .herd, .paddock] s t' := by
  unfold execHerdJobStart at h'
  injection h' with h'
  subst h'
  repeat' first
    | dsimp only
    | with_reducible apply Keeps.refl
    | ((with_reducible apply Keeps.cut (herdJobStart_keeps ..)); case hs => decide)

theorem execHerdRecordRead_keeps {s : State} {t' : State} (h' : execHerdRecordRead s = .next t') : Keeps [.regs, .evts, .faults, .cores, .drover, .herd] s t' := by
  unfold execHerdRecordRead at h'
  injection h' with h'
  subst h'
  repeat' first
    | dsimp only
    | with_reducible apply Keeps.refl
    | ((with_reducible apply Keeps.cut (herdRecordRead_keeps ..)); case hs => decide)

theorem execHerdRecordOutput_keeps {s : State} {t' : State} (h' : execHerdRecordOutput s = .next t') : Keeps [.regs, .mem, .herd] s t' := by
  unfold execHerdRecordOutput at h'
  injection h' with h'
  subst h'
  repeat' first
    | dsimp only
    | with_reducible apply Keeps.refl
    | ((with_reducible apply Keeps.cut (herdRecordOutput_keeps ..)); case hs => decide)

theorem execHerdJobComplete_keeps {s : State} {t' : State} (h' : execHerdJobComplete s = .next t') : Keeps [.regs, .evts, .cores, .drover, .herd, .paddock, .host, .power, .sharal] s t' := by
  unfold execHerdJobComplete at h'
  injection h' with h'
  subst h'
  repeat' first
    | dsimp only
    | with_reducible apply Keeps.refl
    | ((with_reducible apply Keeps.cut (herdJobComplete_keeps ..)); case hs => decide)

theorem execPaddockBankSearch_keeps {b : BankId} {s : State} {t' : State} (h' : execPaddockBankSearch b s = .next t') : Keeps [.regs, .faults, .cores, .drover, .herd, .paddock] s t' := by
  unfold execPaddockBankSearch at h'
  injection h' with h'
  subst h'
  repeat' first
    | dsimp only
    | with_reducible apply Keeps.refl
    | ((with_reducible apply Keeps.cut (paddockBankSearch_keeps ..)); case hs => decide)

theorem execSearchReplay_keeps {b : BankId} {unit : Fin 32768} {persists : Bool} {s : State} {t' : State} (h' : execSearchReplay b unit persists s = .next t') : Keeps [.regs, .faults, .cores, .drover, .herd, .paddock] s t' := by
  unfold execSearchReplay at h'
  injection h' with h'
  subst h'
  repeat' first
    | dsimp only
    | with_reducible apply Keeps.refl
    | ((with_reducible apply Keeps.cut (searchReplay_keeps ..)); case hs => decide)

theorem execPaddockJobStart_keeps {s : State} {t' : State} (h' : execPaddockJobStart s = .next t') : Keeps [.faults, .cores, .drover, .paddock] s t' := by
  unfold execPaddockJobStart at h'
  injection h' with h'
  subst h'
  repeat' first
    | dsimp only
    | with_reducible apply Keeps.refl
    | ((with_reducible apply Keeps.cut (paddockJobStart_keeps ..)); case hs => decide)

theorem execPaddockOpEnqueue_keeps {s : State} {t' : State} (h' : execPaddockOpEnqueue s = .next t') : Keeps [.faults, .cores, .drover, .paddock] s t' := by
  unfold execPaddockOpEnqueue at h'
  injection h' with h'
  subst h'
  repeat' first
    | dsimp only
    | with_reducible apply Keeps.refl
    | ((with_reducible apply Keeps.cut (paddockOpEnqueue_keeps ..)); case hs => decide)

theorem execPaddockJobComplete_keeps {s : State} {t' : State} (h' : execPaddockJobComplete s = .next t') : Keeps [.regs, .evts, .cores, .drover, .paddock, .host, .power, .sharal] s t' := by
  unfold execPaddockJobComplete at h'
  injection h' with h'
  subst h'
  repeat' first
    | dsimp only
    | with_reducible apply Keeps.refl
    | ((with_reducible apply Keeps.cut (paddockJobComplete_keeps ..)); case hs => decide)

theorem execTheftPc_keeps {s : State} {t' : State} (h' : execTheftPc s = .next t') : Keeps [.regs, .evts, .faults, .mem, .cores, .drover, .paddock] s t' := by
  unfold execTheftPc at h'
  injection h' with h'
  subst h'
  repeat' first
    | dsimp only
    | with_reducible apply Keeps.refl
    | ((with_reducible apply Keeps.cut (theft_keeps ..)); case hs => decide)

theorem execInsert_keeps {b : BankId} {s : State} {t' : State} (h' : execInsert b s = .next t') : Keeps [.regs, .evts, .faults, .mem, .cores, .drover, .paddock] s t' := by
  unfold execInsert at h'
  injection h' with h'
  subst h'
  repeat' first
    | dsimp only
    | with_reducible apply Keeps.refl
    | ((with_reducible apply Keeps.cut (opEvent_keeps ..)); case hs => decide)

theorem execRemove_keeps {b : BankId} {s : State} {t' : State} (h' : execRemove b s = .next t') : Keeps [.regs, .evts, .faults, .mem, .cores, .drover, .paddock] s t' := by
  unfold execRemove at h'
  injection h' with h'
  subst h'
  repeat' first
    | dsimp only
    | with_reducible apply Keeps.refl
    | ((with_reducible apply Keeps.cut (opEvent_keeps ..)); case hs => decide)

theorem execWrite_keeps {b : BankId} {s : State} {t' : State} (h' : execWrite b s = .next t') : Keeps [.regs, .evts, .faults, .mem, .cores, .drover, .paddock] s t' := by
  unfold execWrite at h'
  injection h' with h'
  subst h'
  repeat' first
    | dsimp only
    | with_reducible apply Keeps.refl
    | ((with_reducible apply Keeps.cut (opEvent_keeps ..)); case hs => decide)

theorem execSetvalid_keeps {b : BankId} {s : State} {t' : State} (h' : execSetvalid b s = .next t') : Keeps [.regs, .evts, .faults, .mem, .cores, .drover, .paddock] s t' := by
  unfold execSetvalid at h'
  injection h' with h'
  subst h'
  repeat' first
    | dsimp only
    | with_reducible apply Keeps.refl
    | ((with_reducible apply Keeps.cut (opEvent_keeps ..)); case hs => decide)

theorem execClear_keeps {b : BankId} {s : State} {t' : State} (h' : execClear b s = .next t') : Keeps [.regs, .evts, .faults, .mem, .cores, .drover, .paddock] s t' := by
  unfold execClear at h'
  injection h' with h'
  subst h'
  repeat' first
    | dsimp only
    | with_reducible apply Keeps.refl
    | ((with_reducible apply Keeps.cut (opEvent_keeps ..)); case hs => decide)

theorem execRebuild_keeps {b : BankId} {s : State} {t' : State} (h' : execRebuild b s = .next t') : Keeps [.faults, .cores, .drover, .paddock] s t' := by
  unfold execRebuild at h'
  injection h' with h'
  subst h'
  repeat' first
    | dsimp only
    | with_reducible apply Keeps.refl
    | ((with_reducible apply Keeps.cut (opStart_keeps ..)); case hs => decide)
    | with_reducible apply Keeps.onlyIf
    | with_reducible apply Keeps.onlyIf

theorem execRebuildStep_keeps {b : BankId} {s : State} {t' : State} (h' : execRebuildStep b s = .next t') : Keeps [.regs, .evts, .faults, .mem, .cores, .drover, .paddock] s t' := by
  unfold execRebuildStep at h'
  injection h' with h'
  subst h'
  repeat' first
    | dsimp only
    | with_reducible apply Keeps.refl
    | ((with_reducible apply Keeps.cut (rebuildStep_keeps ..)); case hs => decide)

theorem execRwrite_keeps {c : CoreId} {s : State} {t' : State} (h' : execRwrite c s = .next t') : Keeps [.regs, .evts, .faults, .cores, .drover, .fabric] s t' := by
  unfold execRwrite at h'
  injection h' with h'
  subst h'
  exact issue_keeps _ _ _ _ _ (fun _ _ _ => (issueRemote_keeps ..).mono (by decide)) (by decide)

theorem execRread_keeps {c : CoreId} {s : State} {t' : State} (h' : execRread c s = .next t') : Keeps [.regs, .evts, .faults, .cores, .drover, .fabric] s t' := by
  unfold execRread at h'
  injection h' with h'
  subst h'
  exact issue_keeps _ _ _ _ _ (fun _ _ _ => (issueRemote_keeps ..).mono (by decide)) (by decide)

theorem execRadd_keeps {c : CoreId} {s : State} {t' : State} (h' : execRadd c s = .next t') : Keeps [.regs, .evts, .faults, .cores, .drover, .fabric] s t' := by
  unfold execRadd at h'
  injection h' with h'
  subst h'
  exact issue_keeps _ _ _ _ _ (fun _ _ _ => (issueRemote_keeps ..).mono (by decide)) (by decide)

theorem execRbell_keeps {c : CoreId} {s : State} {t' : State} (h' : execRbell c s = .next t') : Keeps [.regs, .evts, .faults, .cores, .drover, .fabric] s t' := by
  unfold execRbell at h'
  injection h' with h'
  subst h'
  exact issue_keeps _ _ _ _ _ (fun _ _ _ => (issueRemote_keeps ..).mono (by decide)) (by decide)

theorem execPacketSend_keeps {p : PortId} {s : State} {t' : State} (h' : execPacketSend p s = .next t') : Keeps [.regs, .evts, .faults, .cores, .drover, .fabric, .power, .sharal, .out] s t' := by
  unfold execPacketSend at h'
  injection h' with h'
  subst h'
  repeat' first
    | dsimp only
    | with_reducible apply Keeps.refl
    | ((with_reducible apply Keeps.cut (packetSend_keeps ..)); case hs => decide)

theorem execPacketForward_keeps {p : PortId} {vc : Fin 7} {s : State} {t' : State} (h' : execPacketForward p vc s = .next t') : Keeps [.regs, .evts, .fabric, .power, .sharal, .out] s t' := by
  unfold execPacketForward at h'
  injection h' with h'
  subst h'
  repeat' first
    | dsimp only
    | with_reducible apply Keeps.refl
    | ((with_reducible apply Keeps.cut (packetForward_keeps ..)); case hs => decide)

theorem execWriteReceive_keeps {s : State} {t' : State} (h' : execWriteReceive s = .next t') : Keeps [.regs, .evts, .mem, .slots, .herd, .fabric, .host, .power, .sharal, .out] s t' := by
  unfold execWriteReceive at h'
  injection h' with h'
  subst h'
  repeat' first
    | dsimp only
    | with_reducible apply Keeps.refl
    | ((with_reducible apply withNext_cut); case hs => decide)
    | ((with_reducible apply Keeps.cut (writeReceive_keeps ..)); case hs => decide)
    | intro _
    | exact Keeps.refl _ _

theorem execReadReceive_keeps {s : State} {t' : State} (h' : execReadReceive s = .next t') : Keeps [.regs, .evts, .slots, .herd, .fabric, .host, .power, .sharal, .out] s t' := by
  unfold execReadReceive at h'
  injection h' with h'
  subst h'
  repeat' first
    | dsimp only
    | with_reducible apply Keeps.refl
    | ((with_reducible apply Keeps.cut (readReceive_keeps ..)); case hs => decide)
    | ((with_reducible apply withNext_cut); case hs => decide)
    | intro _
    | exact Keeps.refl _ _

theorem execAtomicReceive_keeps {s : State} {t' : State} (h' : execAtomicReceive s = .next t') : Keeps [.regs, .evts, .mem, .slots, .herd, .fabric, .host, .power, .sharal, .out] s t' := by
  unfold execAtomicReceive at h'
  injection h' with h'
  subst h'
  repeat' first
    | dsimp only
    | with_reducible apply Keeps.refl
    | ((with_reducible apply Keeps.cut (atomicReceive_keeps ..)); case hs => decide)
    | ((with_reducible apply withNext_cut); case hs => decide)
    | intro _
    | exact Keeps.refl _ _

theorem execDoorbellReceive_keeps {s : State} {t' : State} (h' : execDoorbellReceive s = .next t') : Keeps [.regs, .evts, .fabric, .out] s t' := by
  unfold execDoorbellReceive at h'
  injection h' with h'
  subst h'
  repeat' first
    | dsimp only
    | with_reducible apply Keeps.refl
    | ((with_reducible apply Keeps.cut (doorbellReceive_keeps ..)); case hs => decide)

theorem execDoorbellHandover_keeps {s : State} {t' : State} (h' : execDoorbellHandover s = .next t') : Keeps [.regs, .evts, .drover, .fabric, .power, .sharal] s t' := by
  unfold execDoorbellHandover at h'
  injection h' with h'
  subst h'
  repeat' first
    | dsimp only
    | with_reducible apply Keeps.refl
    | ((with_reducible apply Keeps.cut (doorbellHandover_keeps ..)); case hs => decide)

theorem execReadDataReceive_keeps {s : State} {t' : State} (h' : execReadDataReceive s = .next t') : Keeps [.regs, .evts, .faults, .mem, .slots, .cores, .drover, .fabric, .out] s t' := by
  unfold execReadDataReceive at h'
  injection h' with h'
  subst h'
  repeat' first
    | dsimp only
    | with_reducible apply Keeps.refl
    | ((with_reducible apply Keeps.cut (readDataReceive_keeps ..)); case hs => decide)

theorem execAckReceive_keeps {s : State} {t' : State} (h' : execAckReceive s = .next t') : Keeps [.faults, .cores, .drover, .fabric, .out] s t' := by
  unfold execAckReceive at h'
  injection h' with h'
  subst h'
  repeat' first
    | dsimp only
    | with_reducible apply Keeps.refl
    | ((with_reducible apply Keeps.cut (ackReceive_keeps ..)); case hs => decide)

theorem execRalsoTimeout_keeps {rtag : BitVec 16} {s : State} {t' : State} (h' : execRalsoTimeout rtag s = .next t') : Keeps [.evts, .faults, .cores, .drover, .fabric] s t' := by
  unfold execRalsoTimeout at h'
  injection h' with h'
  subst h'
  repeat' first
    | dsimp only
    | with_reducible apply Keeps.refl
    | ((with_reducible apply Keeps.cut (ralsoTimeout_keeps ..)); case hs => decide)

theorem execMcBlockReceive_keeps {s : State} {t' : State} (h' : execMcBlockReceive s = .next t') : Keeps [.regs, .evts, .faults, .mem, .slots, .cores, .drover, .fabric, .sharal, .out] s t' := by
  unfold execMcBlockReceive at h'
  injection h' with h'
  subst h'
  repeat' first
    | dsimp only
    | with_reducible apply Keeps.refl
    | ((with_reducible apply Keeps.cut (mcBlockReceive_keeps ..)); case hs => decide)

theorem execMcMarkerReceive_keeps {s : State} {t' : State} (h' : execMcMarkerReceive s = .next t') : Keeps [.regs, .evts, .faults, .cores, .drover, .fabric, .sharal, .out] s t' := by
  unfold execMcMarkerReceive at h'
  injection h' with h'
  subst h'
  repeat' first
    | dsimp only
    | with_reducible apply Keeps.refl
    | ((with_reducible apply Keeps.cut (mcMarkerReceive_keeps ..)); case hs => decide)

theorem execMcastPrune_keeps {p : PortId} {s : State} {t' : State} (h' : execMcastPrune p s = .next t') : Keeps [.regs, .fabric, .out] s t' := by
  unfold execMcastPrune at h'
  injection h' with h'
  subst h'
  repeat' first
    | dsimp only
    | with_reducible apply Keeps.refl
    | ((with_reducible apply Keeps.cut (mcastPrune_keeps ..)); case hs => decide)

theorem execNakReceive_keeps {p : PortId} {seq : BitVec 12} {s : State} {t' : State} (h' : execNakReceive p seq s = .next t') : Keeps [.regs, .evts, .fabric, .out] s t' := by
  unfold execNakReceive at h'
  injection h' with h'
  subst h'
  repeat' first
    | dsimp only
    | with_reducible apply Keeps.refl
    | ((with_reducible apply Keeps.cut (nakReceive_keeps ..)); case hs => decide)

theorem execCodewordReceive_keeps {p : PortId} {fec : Fec} {w : Codeword} {s : State} {t' : State} (h' : execCodewordReceive p fec w s = .next t') : Keeps [.regs, .evts, .fabric, .power, .out] s t' := by
  unfold execCodewordReceive at h'
  injection h' with h'
  subst h'
  repeat' first
    | dsimp only
    | with_reducible apply Keeps.refl
    | ((with_reducible apply Keeps.cut (codewordReceive_keeps ..)); case hs => decide)

theorem execControlFlitReceive_keeps {p : PortId} {flit : Flit} {s : State} {t' : State} (h' : execControlFlitReceive p flit s = .next t') : Keeps [.regs, .evts, .fabric, .out] s t' := by
  unfold execControlFlitReceive at h'
  injection h' with h'
  subst h'
  repeat' first
    | dsimp only
    | with_reducible apply Keeps.refl
    | ((with_reducible apply Keeps.cut (controlFlitReceive_keeps ..)); case hs => decide)

theorem execRetrainTimeout_keeps {p : PortId} {s : State} {t' : State} (h' : execRetrainTimeout p s = .next t') : Keeps [.regs, .evts, .fabric, .out] s t' := by
  unfold execRetrainTimeout at h'
  injection h' with h'
  subst h'
  repeat' first
    | dsimp only
    | with_reducible apply Keeps.refl
    | ((with_reducible apply Keeps.cut (retrainTimeout_keeps ..)); case hs => decide)

theorem execTrainingComplete_keeps {p : PortId} {r : Option TrainResult} {s : State} {t' : State} (h' : execTrainingComplete p r s = .next t') : Keeps [.fabric, .power, .out] s t' := by
  unfold execTrainingComplete at h'
  injection h' with h'
  subst h'
  repeat' first
    | dsimp only
    | with_reducible apply Keeps.refl
    | ((with_reducible apply Keeps.cut (trainingComplete_keeps ..)); case hs => decide)

theorem execLinkDown_keeps {p : PortId} {s : State} {t' : State} (h' : execLinkDown p s = .next t') : Keeps [.regs, .evts, .fabric, .out] s t' := by
  unfold execLinkDown at h'
  injection h' with h'
  subst h'
  repeat' first
    | dsimp only
    | with_reducible apply Keeps.refl
    | ((with_reducible apply Keeps.cut (linkDown_keeps ..)); case hs => decide)

theorem execPeerStartsTraining_keeps {p : PortId} {s : State} {t' : State} (h' : execPeerStartsTraining p s = .next t') : Keeps [.regs, .evts, .fabric] s t' := by
  unfold execPeerStartsTraining at h'
  injection h' with h'
  subst h'
  repeat' first
    | dsimp only
    | with_reducible apply Keeps.refl
    | ((with_reducible apply Keeps.cut (peerStartsTraining_keeps ..)); case hs => decide)

theorem execSessionNumberFree_keeps {n : Fin 256} {s : State} {t' : State} (h' : execSessionNumberFree n s = .next t') : Keeps [.host] s t' := by
  unfold execSessionNumberFree at h'
  injection h' with h'
  subst h'
  repeat' first
    | dsimp only
    | with_reducible apply Keeps.refl
    | ((with_reducible apply Keeps.cut (sessionNumberFree_keeps ..)); case hs => decide)

theorem execNonceLapse_keeps {f : FuncId} {s : State} {t' : State} (h' : execNonceLapse f s = .next t') : Keeps [.host] s t' := by
  unfold execNonceLapse at h'
  injection h' with h'
  subst h'
  repeat' first
    | dsimp only
    | with_reducible apply Keeps.refl
    | ((with_reducible apply Keeps.cut (nonceLapse_keeps ..)); case hs => decide)

theorem execLockEnd_keeps {slot : Fin 32} {s : State} {t' : State} (h' : execLockEnd slot s = .next t') : Keeps [.host] s t' := by
  unfold execLockEnd at h'
  injection h' with h'
  subst h'
  repeat' first
    | dsimp only
    | with_reducible apply Keeps.refl
    | ((with_reducible apply Keeps.cut (lockEnd_keeps ..)); case hs => decide)

theorem execCommandFetch_keeps {q : QueueId} {w0 : Word} {w1 : Word} {w2 : Word} {w3 : Word} {s : State} {t' : State} (h' : execCommandFetch q w0 w1 w2 w3 s = .next t') : Keeps [.regs, .evts, .drover, .host] s t' := by
  unfold execCommandFetch at h'
  injection h' with h'
  subst h'
  repeat' first
    | dsimp only
    | with_reducible apply Keeps.refl
    | ((with_reducible apply Keeps.cut (commandFetch_keeps ..)); case hs => decide)

theorem execQueueDrained_keeps {q : QueueId} {s : State} {t' : State} (h' : execQueueDrained q s = .next t') : Keeps [.host] s t' := by
  unfold execQueueDrained at h'
  injection h' with h'
  subst h'
  repeat' first
    | dsimp only
    | with_reducible apply Keeps.refl
    | ((with_reducible apply Keeps.cut (queueDrained_keeps ..)); case hs => decide)

theorem execCompletionWrite_keeps {q : QueueId} {s : State} {t' : State} (h' : execCompletionWrite q s = .next t') : Keeps [.regs, .evts, .faults, .mem, .cores, .drover, .herd, .paddock, .fabric, .host, .power, .sharal, .out, .free] s t' := by
  unfold execCompletionWrite at h'
  injection h' with h'
  subst h'
  repeat' first
    | dsimp only
    | with_reducible apply Keeps.refl
    | ((with_reducible apply Keeps.cut (completionWrite_keeps ..)); case hs => decide)

theorem execCtxOpen_keeps {s : State} {t' : State} (h' : execCtxOpen s = .next t') : Keeps [.regs, .evts, .drover, .host] s t' := by
  unfold execCtxOpen at h'
  injection h' with h'
  subst h'
  repeat' first
    | dsimp only
    | with_reducible apply Keeps.refl
    | ((with_reducible apply Keeps.cut (ctxOpen_keeps ..)); case hs => decide)

theorem execCtxRoot_keeps {s : State} {t' : State} (h' : execCtxRoot s = .next t') : Keeps [.regs, .evts, .drover, .host] s t' := by
  unfold execCtxRoot at h'
  injection h' with h'
  subst h'
  repeat' first
    | dsimp only
    | with_reducible apply Keeps.refl
    | ((with_reducible apply Keeps.cut (ctxRoot_keeps ..)); case hs => decide)

theorem execCtxRelease_keeps {s : State} {t' : State} (h' : execCtxRelease s = .next t') : Keeps [.regs, .evts, .faults, .mem, .cores, .drover, .herd, .paddock, .fabric, .host, .power, .sharal, .free] s t' := by
  unfold execCtxRelease at h'
  injection h' with h'
  subst h'
  repeat' first
    | dsimp only
    | with_reducible apply Keeps.refl
    | ((with_reducible apply Keeps.cut (ctxRelease_keeps ..)); case hs => decide)

theorem execContextFreed_keeps {ctx : Fin 16384} {s : State} {t' : State} (h' : execContextFreed ctx s = .next t') : Keeps [.regs, .evts, .host] s t' := by
  unfold execContextFreed at h'
  injection h' with h'
  subst h'
  repeat' first
    | dsimp only
    | with_reducible apply Keeps.refl
    | ((with_reducible apply Keeps.cut (contextFreed_keeps ..)); case hs => decide)

theorem execBar2Read_keeps {f : FuncId} {addr : Nat} {len : Nat} {s : State} {t' : State} (h' : execBar2Read f addr len s = .next t') : Keeps [.regs, .evts, .faults, .mem, .slots, .herd, .host, .power, .sharal, .out] s t' := by
  unfold execBar2Read at h'
  injection h' with h'
  subst h'
  repeat' first
    | dsimp only
    | with_reducible apply Keeps.refl
    | ((with_reducible apply Keeps.cut (bar2Arrive_keeps ..)); case hs => decide)

theorem execBar2Write_keeps {f : FuncId} {addr : Nat} {data : Tlp (List Byte)} {s : State} {t' : State} (h' : execBar2Write f addr data s = .next t') : Keeps [.regs, .evts, .faults, .mem, .slots, .herd, .host, .power, .sharal, .out] s t' := by
  unfold execBar2Write at h'
  injection h' with h'
  subst h'
  repeat' first
    | dsimp only
    | with_reducible apply Keeps.refl
    | ((with_reducible apply Keeps.cut (bar2Arrive_keeps ..)); case hs => decide)

theorem execBar2Timeout_keeps {s : State} {t' : State} (h' : execBar2Timeout s = .next t') : Keeps [.regs, .faults, .host, .out] s t' := by
  unfold execBar2Timeout at h'
  injection h' with h'
  subst h'
  repeat' first
    | dsimp only
    | with_reducible apply Keeps.refl
    | ((with_reducible apply Keeps.cut (bar2Timeout_keeps ..)); case hs => decide)

theorem execXferIn_keeps {data : Tlp (Vector Byte 512)} {s : State} {t' : State} (h' : execXferIn data s = .next t') : Keeps [.regs, .evts, .faults, .mem, .slots, .herd, .host, .power, .sharal] s t' := by
  unfold execXferIn at h'
  injection h' with h'
  subst h'
  repeat' first
    | dsimp only
    | with_reducible apply Keeps.refl
    | ((with_reducible apply Keeps.cut (xferIn_keeps ..)); case hs => decide)

theorem execXferOut_keeps {s : State} {t' : State} (h' : execXferOut s = .next t') : Keeps [.regs, .evts, .faults, .mem, .slots, .cores, .drover, .herd, .paddock, .fabric, .host, .power, .sharal, .out, .free] s t' := by
  unfold execXferOut at h'
  injection h' with h'
  subst h'
  repeat' first
    | dsimp only
    | with_reducible apply Keeps.refl
    | ((with_reducible apply Keeps.cut (xferOut_keeps ..)); case hs => decide)

theorem execXferDone_keeps {s : State} {t' : State} (h' : execXferDone s = .next t') : Keeps [.regs, .evts, .faults, .host] s t' := by
  unfold execXferDone at h'
  injection h' with h'
  subst h'
  repeat' first
    | dsimp only
    | with_reducible apply Keeps.refl
    | ((with_reducible apply Keeps.cut (xferDone_keeps ..)); case hs => decide)

theorem execFunctionLevelReset_keeps {f : FuncId} {s : State} {t' : State} (h' : execFunctionLevelReset f s = .next t') : Keeps [.regs, .evts, .faults, .mem, .cores, .drover, .herd, .paddock, .fabric, .host, .power, .sharal, .free] s t' := by
  unfold execFunctionLevelReset at h'
  injection h' with h'
  subst h'
  repeat' first
    | dsimp only
    | with_reducible apply Keeps.refl
    | ((with_reducible apply Keeps.cut (functionLevelReset_keeps ..)); case hs => decide)

theorem execD3hotEntry_keeps {f : FuncId} {s : State} {t' : State} (h' : execD3hotEntry f s = .next t') : Keeps [.regs, .evts, .faults, .mem, .cores, .drover, .herd, .paddock, .fabric, .host, .power, .sharal, .free] s t' := by
  unfold execD3hotEntry at h'
  injection h' with h'
  subst h'
  repeat' first
    | dsimp only
    | with_reducible apply Keeps.refl
    | ((with_reducible apply Keeps.cut (closeWhere_keeps ..)); case hs => decide)
    | ((with_reducible apply Keeps.cut (State.mapHost_keeps ..)); case hs => decide)
    | with_reducible apply Keeps.ite <;> intro _
    | split

theorem execVfEnableClear_keeps {s : State} {t' : State} (h' : execVfEnableClear s = .next t') : Keeps [.regs, .evts, .faults, .mem, .cores, .drover, .herd, .paddock, .fabric, .host, .power, .sharal, .free] s t' := by
  unfold execVfEnableClear at h'
  injection h' with h'
  subst h'
  repeat' first
    | dsimp only
    | with_reducible apply Keeps.refl
    | ((with_reducible apply Keeps.cut (closeWhere_keeps ..)); case hs => decide)
    | ((with_reducible apply Keeps.cut (State.mapHost_keeps ..)); case hs => decide)

theorem execPerstAssert_keeps {s : State} {t' : State} (h' : execPerstAssert s = .next t') : Keeps [.regs, .evts, .faults, .mem, .cores, .drover, .herd, .paddock, .fabric, .host, .power, .sharal, .free] s t' := by
  unfold execPerstAssert at h'
  injection h' with h'
  subst h'
  repeat' first
    | dsimp only
    | with_reducible apply Keeps.refl
    | ((with_reducible apply Keeps.cut (perstAssert_keeps ..)); case hs => decide)

theorem execPerstDeassert_keeps {s : State} {t' : State} (h' : execPerstDeassert s = .next t') : Keeps [.regs, .evts, .host, .power, .sharal] s t' := by
  unfold execPerstDeassert at h'
  injection h' with h'
  subst h'
  repeat' first
    | dsimp only
    | with_reducible apply Keeps.refl
    | ((with_reducible apply Keeps.cut (perstDeassert_keeps ..)); case hs => decide)

theorem execIdleEntry_keeps {d : DomId} {s : State} {t' : State} (h' : execIdleEntry d s = .next t') : Keeps [.regs, .power] s t' := by
  unfold execIdleEntry at h'
  injection h' with h'
  subst h'
  repeat' first
    | dsimp only
    | with_reducible apply Keeps.refl
    | ((with_reducible apply Keeps.cut (idleEntry_keeps ..)); case hs => decide)

theorem execPortIdleEntry_keeps {p : PortId} {s : State} {t' : State} (h' : execPortIdleEntry p s = .next t') : Keeps [.regs, .power] s t' := by
  unfold execPortIdleEntry at h'
  injection h' with h'
  subst h'
  repeat' first
    | dsimp only
    | with_reducible apply Keeps.refl
    | ((with_reducible apply Keeps.cut (portIdleEntry_keeps ..)); case hs => decide)

theorem execDieNetworkDoze_keeps {s : State} {t' : State} (h' : execDieNetworkDoze s = .next t') : Keeps [.regs, .power] s t' := by
  unfold execDieNetworkDoze at h'
  injection h' with h'
  subst h'
  repeat' first
    | dsimp only
    | with_reducible apply Keeps.refl
    | ((with_reducible apply Keeps.cut (dieNetworkDoze_keeps ..)); case hs => decide)

theorem execDomainTransitionComplete_keeps {d : DomId} {s : State} {t' : State} (h' : execDomainTransitionComplete d s = .next t') : Keeps [.regs, .evts, .faults, .mem, .cores, .drover, .herd, .paddock, .fabric, .power, .resets, .sharal, .out] s t' := by
  unfold execDomainTransitionComplete at h'
  injection h' with h'
  subst h'
  repeat' first
    | dsimp only
    | with_reducible apply Keeps.refl
    | ((with_reducible apply Keeps.cut (domainTransitionComplete_keeps ..)); case hs => decide)

theorem execSensorSample_keeps {t : Vector (BitVec 16) 96} {s : State} {t' : State} (h' : execSensorSample t s = .next t') : Keeps [.regs, .evts, .faults, .mem, .slots, .cores, .drover, .herd, .paddock, .fabric, .host, .power, .resets, .sharal, .free] s t' := by
  unfold execSensorSample at h'
  injection h' with h'
  subst h'
  repeat' first
    | dsimp only
    | with_reducible apply Keeps.refl
    | ((with_reducible apply Keeps.cut (sensorSample_keeps ..)); case hs => decide)
    | with_reducible apply Keeps.onlyIf
    | with_reducible apply Keeps.onlyIf

theorem execSupplySample_keeps {vin : BitVec 16} {iin : BitVec 16} {pin : BitVec 16} {s : State} {t' : State} (h' : execSupplySample vin iin pin s = .next t') : Keeps [.regs, .power] s t' := by
  unfold execSupplySample at h'
  injection h' with h'
  subst h'
  repeat' first
    | dsimp only
    | with_reducible apply Keeps.refl
    | ((with_reducible apply Keeps.cut (supplySample_keeps ..)); case hs => decide)
    | with_reducible apply Keeps.onlyIf
    | with_reducible apply Keeps.onlyIf

theorem execPcieHotReset_keeps {s : State} {t' : State} (h' : execPcieHotReset s = .next t') : Keeps [.regs, .evts, .faults, .mem, .cores, .drover, .herd, .paddock, .fabric, .host, .power, .resets, .sharal, .free] s t' := by
  unfold execPcieHotReset at h'
  injection h' with h'
  subst h'
  repeat' first
    | dsimp only
    | with_reducible apply Keeps.refl
    | ((with_reducible apply Keeps.cut (pcieHotReset_keeps ..)); case hs => decide)

theorem execModRstAssert_keeps {s : State} {t' : State} (h' : execModRstAssert s = .next t') : Keeps [.regs, .evts, .faults, .mem, .cores, .drover, .herd, .paddock, .fabric, .host, .power, .resets, .sharal, .free] s t' := by
  unfold execModRstAssert at h'
  injection h' with h'
  subst h'
  repeat' first
    | dsimp only
    | with_reducible apply Keeps.refl
    | ((with_reducible apply Keeps.cut (modRst_keeps ..)); case hs => decide)

theorem execHangDetect_keeps {s : State} {t' : State} (h' : execHangDetect s = .next t') : Keeps [.regs, .evts, .faults, .mem, .cores, .drover, .herd, .paddock, .fabric, .host, .power, .resets, .sharal, .free] s t' := by
  unfold execHangDetect at h'
  injection h' with h'
  subst h'
  repeat' first
    | dsimp only
    | with_reducible apply Keeps.refl
    | ((with_reducible apply Keeps.cut (hangDetect_keeps ..)); case hs => decide)

theorem execHeartbeatCheck_keeps {beat : Bool} {s : State} {t' : State} (h' : execHeartbeatCheck beat s = .next t') : Keeps [.resets] s t' := by
  unfold execHeartbeatCheck at h'
  injection h' with h'
  subst h'
  repeat' first
    | dsimp only
    | with_reducible apply Keeps.refl
    | ((with_reducible apply Keeps.cut (heartbeatCheck_keeps ..)); case hs => decide)

theorem execWatchdogExpire_keeps {s : State} {t' : State} (h' : execWatchdogExpire s = .next t') : Keeps [.regs, .evts, .faults, .mem, .cores, .drover, .herd, .paddock, .fabric, .host, .power, .resets, .sharal, .free] s t' := by
  unfold execWatchdogExpire at h'
  injection h' with h'
  subst h'
  repeat' first
    | dsimp only
    | with_reducible apply Keeps.refl
    | ((with_reducible apply Keeps.cut (watchdogExpire_keeps ..)); case hs => decide)

theorem execResetDrainEnd_keeps {d : RDom} {s : State} {t' : State} (h' : execResetDrainEnd d s = .next t') : Keeps [.regs, .evts, .faults, .cores, .drover, .host, .resets, .sharal, .out] s t' := by
  unfold execResetDrainEnd at h'
  injection h' with h'
  subst h'
  repeat' first
    | dsimp only
    | with_reducible apply Keeps.refl
    | ((with_reducible apply Keeps.cut (resetDrainEnd_keeps ..)); case hs => decide)

theorem execSampleReadTimeout_keeps {d : RDom} {u : SampleUnit} {s : State} {t' : State} (h' : execSampleReadTimeout d u s = .next t') : Keeps [.resets] s t' := by
  unfold execSampleReadTimeout at h'
  injection h' with h'
  subst h'
  repeat' first
    | dsimp only
    | with_reducible apply Keeps.refl
    | ((with_reducible apply Keeps.cut (sampleReadTimeout_keeps ..)); case hs => decide)

theorem execResetAssert_keeps {d : RDom} {s : State} {t' : State} (h' : execResetAssert d s = .next t') : Keeps [.regs, .evts, .faults, .mem, .cores, .drover, .herd, .paddock, .fabric, .host, .power, .resets, .sharal, .out, .free] s t' := by
  unfold execResetAssert at h'
  injection h' with h'
  subst h'
  repeat' first
    | dsimp only
    | with_reducible apply Keeps.refl
    | ((with_reducible apply Keeps.cut (resetAssert_keeps ..)); case hs => decide)

theorem execResetComplete_keeps {d : RDom} {s : State} {t' : State} (h' : execResetComplete d s = .next t') : Keeps [.regs, .evts, .faults, .mem, .slots, .soft, .cores, .drover, .herd, .paddock, .fabric, .host, .power, .resets, .sharal, .roles, .out, .free] s t' := by
  unfold execResetComplete at h'
  injection h' with h'
  subst h'
  repeat' first
    | dsimp only
    | with_reducible apply Keeps.refl
    | ((with_reducible apply Keeps.cut (resetComplete_keeps ..)); case hs => decide)

theorem execResetEscalate_keeps {d : RDom} {s : State} {t' : State} (h' : execResetEscalate d s = .next t') : Keeps [.regs, .evts, .faults, .mem, .cores, .drover, .herd, .paddock, .fabric, .host, .power, .resets, .sharal, .free] s t' := by
  unfold execResetEscalate at h'
  injection h' with h'
  subst h'
  repeat' first
    | dsimp only
    | with_reducible apply Keeps.refl
    | ((with_reducible apply Keeps.cut (resetEscalate_keeps ..)); case hs => decide)

theorem execUnderVoltage_keeps {s : State} {t' : State} (h' : execUnderVoltage s = .next t') : Keeps [.regs, .evts, .faults, .mem, .slots, .cores, .drover, .herd, .paddock, .fabric, .host, .power, .resets, .sharal] s t' := by
  unfold execUnderVoltage at h'
  injection h' with h'
  subst h'
  repeat' first
    | dsimp only
    | with_reducible apply Keeps.refl
    | ((with_reducible apply Keeps.cut (underVoltage_keeps ..)); case hs => decide)

theorem execOverVoltage_keeps {s : State} {t' : State} (h' : execOverVoltage s = .next t') : Keeps [.regs, .evts, .faults, .mem, .slots, .cores, .drover, .herd, .paddock, .fabric, .host, .power, .resets, .sharal] s t' := by
  unfold execOverVoltage at h'
  injection h' with h'
  subst h'
  repeat' first
    | dsimp only
    | with_reducible apply Keeps.refl
    | ((with_reducible apply Keeps.cut (overVoltage_keeps ..)); case hs => decide)

theorem execReferenceLoss_keeps {s : State} {t' : State} (h' : execReferenceLoss s = .next t') : Keeps [.regs, .evts, .faults, .mem, .slots, .cores, .drover, .herd, .paddock, .fabric, .host, .power, .resets, .sharal] s t' := by
  unfold execReferenceLoss at h'
  injection h' with h'
  subst h'
  repeat' first
    | dsimp only
    | with_reducible apply Keeps.refl
    | ((with_reducible apply Keeps.cut (referenceLoss_keeps ..)); case hs => decide)

theorem execSupplyRestore_keeps {fail : Option TestFail} {s : State} {t' : State} (h' : execSupplyRestore fail s = .next t') : Keeps [.regs, .evts, .faults, .fabric, .host, .power, .resets, .sharal, .roles] s t' := by
  unfold execSupplyRestore at h'
  injection h' with h'
  subst h'
  repeat' first
    | dsimp only
    | with_reducible apply Keeps.refl
    | ((with_reducible apply Keeps.cut (supplyRestore_keeps ..)); case hs => decide)

theorem execReferenceReturn_keeps {fail : Option TestFail} {s : State} {t' : State} (h' : execReferenceReturn fail s = .next t') : Keeps [.regs, .evts, .faults, .fabric, .host, .power, .resets, .sharal, .roles] s t' := by
  unfold execReferenceReturn at h'
  injection h' with h'
  subst h'
  repeat' first
    | dsimp only
    | with_reducible apply Keeps.refl
    | ((with_reducible apply Keeps.cut (referenceReturn_keeps ..)); case hs => decide)

theorem execPowerLoss_keeps {s : State} {t' : State} (h' : execPowerLoss s = .next t') : Keeps [.now, .regs, .evts, .faults, .mem, .slots, .cores, .drover, .herd, .paddock, .fabric, .host, .power, .resets, .sharal, .roles] s t' := by
  unfold execPowerLoss at h'
  injection h' with h'
  subst h'
  repeat' first
    | dsimp only
    | with_reducible apply Keeps.refl
    | ((with_reducible apply Keeps.cut (powerLoss_keeps ..)); case hs => decide)

theorem execPowerUp_keeps {fail : Option TestFail} {s : State} {t' : State} (h' : execPowerUp fail s = .next t') : Keeps [.now, .regs, .evts, .faults, .fabric, .host, .power, .resets, .sharal, .roles] s t' := by
  unfold execPowerUp at h'
  injection h' with h'
  subst h'
  repeat' first
    | dsimp only
    | with_reducible apply Keeps.refl
    | ((with_reducible apply Keeps.cut (powerUp_keeps ..)); case hs => decide)

theorem execTraceCopyDone_keeps {s : State} {t' : State} (h' : execTraceCopyDone s = .next t') : Keeps [.evts, .sharal] s t' := by
  unfold execTraceCopyDone at h'
  injection h' with h'
  subst h'
  repeat' first
    | dsimp only
    | with_reducible apply Keeps.refl
    | ((with_reducible apply Keeps.cut (traceCopyDone_keeps ..)); case hs => decide)

theorem execFaultCopyTake_keeps {s : State} {t' : State} (h' : execFaultCopyTake s = .next t') : Keeps [.regs, .evts, .sharal] s t' := by
  unfold execFaultCopyTake at h'
  injection h' with h'
  subst h'
  repeat' first
    | dsimp only
    | with_reducible apply Keeps.refl
    | ((with_reducible apply Keeps.cut (faultCopyTake_keeps ..)); case hs => decide)

theorem execTallyRecordClose_keeps {s : State} {t' : State} (h' : execTallyRecordClose s = .next t') : Keeps [.sharal] s t' := by
  unfold execTallyRecordClose at h'
  injection h' with h'
  subst h'
  repeat' first
    | dsimp only
    | with_reducible apply Keeps.refl
    | ((with_reducible apply Keeps.cut (tallyRecordClose_keeps ..)); case hs => decide)

theorem execTallyProgram_keeps {s : State} {t' : State} (h' : execTallyProgram s = .next t') : Keeps [.sharal] s t' := by
  unfold execTallyProgram at h'
  injection h' with h'
  subst h'
  repeat' first
    | dsimp only
    | with_reducible apply Keeps.refl
    | ((with_reducible apply Keeps.cut (tallyProgram_keeps ..)); case hs => decide)

theorem execHoursIncrement_keeps {s : State} {t' : State} (h' : execHoursIncrement s = .next t') : Keeps [.sharal] s t' := by
  unfold execHoursIncrement at h'
  injection h' with h'
  subst h'
  repeat' first
    | dsimp only
    | with_reducible apply Keeps.refl
    | ((with_reducible apply Keeps.cut (hoursIncrement_keeps ..)); case hs => decide)

theorem execMailboxResponse_keeps {s : State} {t' : State} (h' : execMailboxResponse s = .next t') : Keeps [.regs, .evts, .sharal] s t' := by
  unfold execMailboxResponse at h'
  injection h' with h'
  subst h'
  repeat' first
    | dsimp only
    | with_reducible apply Keeps.refl
    | ((with_reducible apply Keeps.cut (mailboxResponse_keeps ..)); case hs => decide)

theorem execFwUpdate_keeps {s : State} {t' : State} (h' : execFwUpdate s = .next t') : Keeps [.regs, .evts, .power, .sharal] s t' := by
  unfold execFwUpdate at h'
  injection h' with h'
  subst h'
  repeat' first
    | dsimp only
    | with_reducible apply Keeps.refl
    | ((with_reducible apply Keeps.cut (fwUpdate_keeps ..)); case hs => decide)
    | ((with_reducible apply mbHandle_cut); case hs => decide)
    | intro _
    | exact Keeps.refl _ _

theorem execFwConfirm_keeps {s : State} {t' : State} (h' : execFwConfirm s = .next t') : Keeps [.regs, .evts, .power, .sharal] s t' := by
  unfold execFwConfirm at h'
  injection h' with h'
  subst h'
  repeat' first
    | dsimp only
    | with_reducible apply Keeps.refl
    | ((with_reducible apply Keeps.cut (fwConfirm_keeps ..)); case hs => decide)
    | ((with_reducible apply mbHandle_cut); case hs => decide)
    | intro _
    | exact Keeps.refl _ _

theorem execRollbackCommit_keeps {s : State} {t' : State} (h' : execRollbackCommit s = .next t') : Keeps [.regs, .evts, .power, .sharal] s t' := by
  unfold execRollbackCommit at h'
  injection h' with h'
  subst h'
  repeat' first
    | dsimp only
    | with_reducible apply Keeps.refl
    | ((with_reducible apply Keeps.cut (rollbackCommit_keeps ..)); case hs => decide)
    | ((with_reducible apply mbHandle_cut); case hs => decide)
    | intro _
    | exact Keeps.refl _ _

theorem execOwnerSet_keeps {s : State} {t' : State} (h' : execOwnerSet s = .next t') : Keeps [.regs, .evts, .faults, .mem, .cores, .drover, .herd, .paddock, .fabric, .host, .power, .sharal, .free] s t' := by
  unfold execOwnerSet at h'
  injection h' with h'
  subst h'
  repeat' first
    | dsimp only
    | with_reducible apply Keeps.refl
    | ((with_reducible apply Keeps.cut (ownerSet_keeps ..)); case hs => decide)
    | ((with_reducible apply mbHandle_cut); case hs => decide)
    | intro _
    | exact Keeps.refl _ _

theorem execFabricSave_keeps {s : State} {t' : State} (h' : execFabricSave s = .next t') : Keeps [.sharal] s t' := by
  unfold execFabricSave at h'
  injection h' with h'
  subst h'
  repeat' first
    | dsimp only
    | with_reducible apply Keeps.refl
    | ((with_reducible apply Keeps.cut (fabricSave_keeps ..)); case hs => decide)
    | ((with_reducible apply mbHandle_cut); case hs => decide)
    | intro _
    | exact Keeps.refl _ _

theorem execFabricErase_keeps {s : State} {t' : State} (h' : execFabricErase s = .next t') : Keeps [.sharal] s t' := by
  unfold execFabricErase at h'
  injection h' with h'
  subst h'
  repeat' first
    | dsimp only
    | with_reducible apply Keeps.refl
    | ((with_reducible apply Keeps.cut (fabricErase_keeps ..)); case hs => decide)
    | ((with_reducible apply mbHandle_cut); case hs => decide)
    | intro _
    | exact Keeps.refl _ _

theorem execNeighbour_keeps {s : State} {t' : State} (h' : execNeighbour s = .next t') : Keeps [.fabric, .sharal] s t' := by
  unfold execNeighbour at h'
  injection h' with h'
  subst h'
  repeat' first
    | dsimp only
    | with_reducible apply Keeps.refl
    | ((with_reducible apply Keeps.cut (neighbour_keeps ..)); case hs => decide)
    | ((with_reducible apply mbHandle_cut); case hs => decide)
    | intro _
    | exact Keeps.refl _ _

theorem execMgmtResultReceive_keeps {s : State} {t' : State} (h' : execMgmtResultReceive s = .next t') : Keeps [.fabric, .sharal, .out] s t' := by
  unfold execMgmtResultReceive at h'
  injection h' with h'
  subst h'
  repeat' first
    | dsimp only
    | with_reducible apply Keeps.refl
    | ((with_reducible apply Keeps.cut (mgmtResultReceive_keeps ..)); case hs => decide)

theorem execNeighbourTimeout_keeps {s : State} {t' : State} (h' : execNeighbourTimeout s = .next t') : Keeps [.sharal] s t' := by
  unfold execNeighbourTimeout at h'
  injection h' with h'
  subst h'
  repeat' first
    | dsimp only
    | with_reducible apply Keeps.refl
    | ((with_reducible apply Keeps.cut (neighbourTimeout_keeps ..)); case hs => decide)

theorem execRoleChangeComplete_keeps {s : State} {t' : State} (h' : execRoleChangeComplete s = .next t') : Keeps [.regs, .roles] s t' := by
  unfold execRoleChangeComplete at h'
  injection h' with h'
  subst h'
  repeat' first
    | dsimp only
    | with_reducible apply Keeps.refl
    | ((with_reducible apply Keeps.cut (roleChange_keeps ..)); case hs => decide)

theorem execWriteReg_keeps {off : Word} {v : Word} {pec : Option Bool} {s : State} {t' : State} (h' : execWriteReg off v pec s = .next t') : Keeps [.regs, .evts, .faults, .mem, .soft, .cores, .drover, .herd, .paddock, .fabric, .host, .power, .resets, .sharal, .roles, .out, .free] s t' := by
  unfold execWriteReg at h'
  injection h' with h'
  subst h'
  repeat' first
    | dsimp only
    | with_reducible apply Keeps.refl
    | ((with_reducible apply Keeps.cut (smbWriteReg_keeps ..)); case hs => decide)

theorem execUnsupportedAccess_keeps {f : FuncId} {off : Nat} {size : Nat} {write : Bool} {s : State} {t' : State} (h' : execUnsupportedAccess f off size write s = .next t') : Keeps [.regs, .evts, .host, .out] s t' := by
  unfold execUnsupportedAccess at h'
  injection h' with h'
  subst h'
  repeat' first
    | dsimp only
    | with_reducible apply Keeps.refl
    | ((with_reducible apply Keeps.cut (unsupportedAccess_keeps ..)); case hs => decide)

theorem execFaultRecordWrite_keeps {slot : Nat} {s : State} {t' : State} (h' : execFaultRecordWrite slot s = .next t') : Keeps [.regs, .evts, .faults, .sharal] s t' := by
  unfold execFaultRecordWrite at h'
  injection h' with h'
  subst h'
  repeat' first
    | dsimp only
    | with_reducible apply Keeps.refl
    | ((with_reducible apply Keeps.cut (faultRecordWrite_keeps ..)); case hs => decide)

theorem execRegisterWrite_keeps {f : FuncId} {off : Nat} {v : Word} {s : State} {t' : State} (h' : execRegisterWrite f off v s = .next t') : Keeps [.regs, .evts, .faults, .mem, .soft, .cores, .drover, .herd, .paddock, .fabric, .host, .power, .resets, .sharal, .roles, .out, .free] s t' := by
  unfold execRegisterWrite at h'
  injection h' with h'
  subst h'
  repeat' first
    | dsimp only
    | with_reducible apply Keeps.refl
    | ((with_reducible apply Keeps.cut (barWrite_keeps ..)); case hs => decide)

theorem execEvtLatchWrite_keeps {f : FuncId} {slot : Nat} {v : Word} {s : State} {t' : State} (h' : execEvtLatchWrite f slot v s = .next t') : Keeps [.regs, .evts, .faults, .mem, .soft, .cores, .drover, .herd, .paddock, .fabric, .host, .power, .resets, .sharal, .roles, .out, .free] s t' := by
  unfold execEvtLatchWrite at h'
  injection h' with h'
  subst h'
  repeat' first
    | dsimp only
    | with_reducible apply Keeps.refl
    | ((with_reducible apply Keeps.cut (barWrite_keeps ..)); case hs => decide)

theorem execRoleApply_keeps {r : Requester} {v : Word} {s : State} {t' : State} (h' : execRoleApply r v s = .next t') : Keeps [.regs, .evts, .faults, .mem, .soft, .cores, .drover, .herd, .paddock, .fabric, .host, .power, .resets, .sharal, .roles, .out, .free] s t' := by
  unfold execRoleApply at h'
  injection h' with h'
  subst h'
  repeat' first
    | dsimp only
    | with_reducible apply Keeps.refl
    | ((with_reducible apply Keeps.cut (writeBy_keeps ..)); case hs => decide)

theorem execLedgerSnap_keeps {f : FuncId} {v : Word} {s : State} {t' : State} (h' : execLedgerSnap f v s = .next t') : Keeps [.regs, .evts, .faults, .mem, .soft, .cores, .drover, .herd, .paddock, .fabric, .host, .power, .resets, .sharal, .roles, .out, .free] s t' := by
  unfold execLedgerSnap at h'
  injection h' with h'
  subst h'
  repeat' first
    | dsimp only
    | with_reducible apply Keeps.refl
    | ((with_reducible apply Keeps.cut (barWrite_keeps ..)); case hs => decide)

theorem execPadkCtrlWrite_keeps {f : FuncId} {v : Word} {s : State} {t' : State} (h' : execPadkCtrlWrite f v s = .next t') : Keeps [.regs, .evts, .faults, .mem, .soft, .cores, .drover, .herd, .paddock, .fabric, .host, .power, .resets, .sharal, .roles, .out, .free] s t' := by
  unfold execPadkCtrlWrite at h'
  injection h' with h'
  subst h'
  repeat' first
    | dsimp only
    | with_reducible apply Keeps.refl
    | ((with_reducible apply Keeps.cut (barWrite_keeps ..)); case hs => decide)

theorem execLinkTrain_keeps {f : FuncId} {p : PortId} {v : Word} {s : State} {t' : State} (h' : execLinkTrain f p v s = .next t') : Keeps [.regs, .evts, .faults, .mem, .soft, .cores, .drover, .herd, .paddock, .fabric, .host, .power, .resets, .sharal, .roles, .out, .free] s t' := by
  unfold execLinkTrain at h'
  injection h' with h'
  subst h'
  repeat' first
    | dsimp only
    | with_reducible apply Keeps.refl
    | ((with_reducible apply Keeps.cut (barWrite_keeps ..)); case hs => decide)

theorem execSelfWrite_keeps {r : Requester} {v : Word} {s : State} {t' : State} (h' : execSelfWrite r v s = .next t') : Keeps [.regs, .evts, .faults, .mem, .soft, .cores, .drover, .herd, .paddock, .fabric, .host, .power, .resets, .sharal, .roles, .out, .free] s t' := by
  unfold execSelfWrite at h'
  injection h' with h'
  subst h'
  repeat' first
    | dsimp only
    | with_reducible apply Keeps.refl
    | ((with_reducible apply Keeps.cut (writeBy_keeps ..)); case hs => decide)

theorem execDimsWrite_keeps {r : Requester} {v : Word} {s : State} {t' : State} (h' : execDimsWrite r v s = .next t') : Keeps [.regs, .evts, .faults, .mem, .soft, .cores, .drover, .herd, .paddock, .fabric, .host, .power, .resets, .sharal, .roles, .out, .free] s t' := by
  unfold execDimsWrite at h'
  injection h' with h'
  subst h'
  repeat' first
    | dsimp only
    | with_reducible apply Keeps.refl
    | ((with_reducible apply Keeps.cut (writeBy_keeps ..)); case hs => decide)

theorem execChallenge_keeps {f : FuncId} {v : Word} {s : State} {t' : State} (h' : execChallenge f v s = .next t') : Keeps [.regs, .evts, .faults, .mem, .soft, .cores, .drover, .herd, .paddock, .fabric, .host, .power, .resets, .sharal, .roles, .out, .free] s t' := by
  unfold execChallenge at h'
  injection h' with h'
  subst h'
  repeat' first
    | dsimp only
    | with_reducible apply Keeps.refl
    | ((with_reducible apply Keeps.cut (barWrite_keeps ..)); case hs => decide)

theorem execAnswer_keeps {f : FuncId} {v : Word} {s : State} {t' : State} (h' : execAnswer f v s = .next t') : Keeps [.regs, .evts, .faults, .mem, .soft, .cores, .drover, .herd, .paddock, .fabric, .host, .power, .resets, .sharal, .roles, .out, .free] s t' := by
  unfold execAnswer at h'
  injection h' with h'
  subst h'
  repeat' first
    | dsimp only
    | with_reducible apply Keeps.refl
    | ((with_reducible apply Keeps.cut (barWrite_keeps ..)); case hs => decide)

theorem execClose_keeps {f : FuncId} {v : Word} {s : State} {t' : State} (h' : execClose f v s = .next t') : Keeps [.regs, .evts, .faults, .mem, .soft, .cores, .drover, .herd, .paddock, .fabric, .host, .power, .resets, .sharal, .roles, .out, .free] s t' := by
  unfold execClose at h'
  injection h' with h'
  subst h'
  repeat' first
    | dsimp only
    | with_reducible apply Keeps.refl
    | ((with_reducible apply Keeps.cut (barWrite_keeps ..)); case hs => decide)

theorem execAttach_keeps {f : FuncId} {v : Word} {s : State} {t' : State} (h' : execAttach f v s = .next t') : Keeps [.regs, .evts, .faults, .mem, .soft, .cores, .drover, .herd, .paddock, .fabric, .host, .power, .resets, .sharal, .roles, .out, .free] s t' := by
  unfold execAttach at h'
  injection h' with h'
  subst h'
  repeat' first
    | dsimp only
    | with_reducible apply Keeps.refl
    | ((with_reducible apply Keeps.cut (barWrite_keeps ..)); case hs => decide)

theorem execDetach_keeps {f : FuncId} {v : Word} {s : State} {t' : State} (h' : execDetach f v s = .next t') : Keeps [.regs, .evts, .faults, .mem, .soft, .cores, .drover, .herd, .paddock, .fabric, .host, .power, .resets, .sharal, .roles, .out, .free] s t' := by
  unfold execDetach at h'
  injection h' with h'
  subst h'
  repeat' first
    | dsimp only
    | with_reducible apply Keeps.refl
    | ((with_reducible apply Keeps.cut (barWrite_keeps ..)); case hs => decide)

theorem execKeySelWrite_keeps {f : FuncId} {v : Word} {s : State} {t' : State} (h' : execKeySelWrite f v s = .next t') : Keeps [.regs, .evts, .faults, .mem, .soft, .cores, .drover, .herd, .paddock, .fabric, .host, .power, .resets, .sharal, .roles, .out, .free] s t' := by
  unfold execKeySelWrite at h'
  injection h' with h'
  subst h'
  repeat' first
    | dsimp only
    | with_reducible apply Keeps.refl
    | ((with_reducible apply Keeps.cut (barWrite_keeps ..)); case hs => decide)

theorem execKeySelErase_keeps {f : FuncId} {v : Word} {s : State} {t' : State} (h' : execKeySelErase f v s = .next t') : Keeps [.regs, .evts, .faults, .mem, .soft, .cores, .drover, .herd, .paddock, .fabric, .host, .power, .resets, .sharal, .roles, .out, .free] s t' := by
  unfold execKeySelErase at h'
  injection h' with h'
  subst h'
  repeat' first
    | dsimp only
    | with_reducible apply Keeps.refl
    | ((with_reducible apply Keeps.cut (barWrite_keeps ..)); case hs => decide)

theorem execSqDoorbell_keeps {f : FuncId} {q : QueueId} {v : Word} {s : State} {t' : State} (h' : execSqDoorbell f q v s = .next t') : Keeps [.regs, .evts, .faults, .mem, .soft, .cores, .drover, .herd, .paddock, .fabric, .host, .power, .resets, .sharal, .roles, .out, .free] s t' := by
  unfold execSqDoorbell at h'
  injection h' with h'
  subst h'
  repeat' first
    | dsimp only
    | with_reducible apply Keeps.refl
    | ((with_reducible apply Keeps.cut (barWrite_keeps ..)); case hs => decide)

theorem execQCtrlWrite_keeps {f : FuncId} {q : QueueId} {v : Word} {s : State} {t' : State} (h' : execQCtrlWrite f q v s = .next t') : Keeps [.regs, .evts, .faults, .mem, .soft, .cores, .drover, .herd, .paddock, .fabric, .host, .power, .resets, .sharal, .roles, .out, .free] s t' := by
  unfold execQCtrlWrite at h'
  injection h' with h'
  subst h'
  repeat' first
    | dsimp only
    | with_reducible apply Keeps.refl
    | ((with_reducible apply Keeps.cut (barWrite_keeps ..)); case hs => decide)

theorem execInfoSelSnap_keeps {f : FuncId} {v : Word} {s : State} {t' : State} (h' : execInfoSelSnap f v s = .next t') : Keeps [.regs, .evts, .faults, .mem, .soft, .cores, .drover, .herd, .paddock, .fabric, .host, .power, .resets, .sharal, .roles, .out, .free] s t' := by
  unfold execInfoSelSnap at h'
  injection h' with h'
  subst h'
  repeat' first
    | dsimp only
    | with_reducible apply Keeps.refl
    | ((with_reducible apply Keeps.cut (barWrite_keeps ..)); case hs => decide)

theorem execWake_keeps {r : Requester} {v : Word} {s : State} {t' : State} (h' : execWake r v s = .next t') : Keeps [.regs, .evts, .faults, .mem, .soft, .cores, .drover, .herd, .paddock, .fabric, .host, .power, .resets, .sharal, .roles, .out, .free] s t' := by
  unfold execWake at h'
  injection h' with h'
  subst h'
  repeat' first
    | dsimp only
    | with_reducible apply Keeps.refl
    | ((with_reducible apply Keeps.cut (domGo_keeps ..)); case hs => decide)

theorem execHold_keeps {r : Requester} {v : Word} {s : State} {t' : State} (h' : execHold r v s = .next t') : Keeps [.regs, .evts, .faults, .mem, .soft, .cores, .drover, .herd, .paddock, .fabric, .host, .power, .resets, .sharal, .roles, .out, .free] s t' := by
  unfold execHold at h'
  injection h' with h'
  subst h'
  repeat' first
    | dsimp only
    | with_reducible apply Keeps.refl
    | ((with_reducible apply Keeps.cut (domGo_keeps ..)); case hs => decide)

theorem execRelease_keeps {r : Requester} {v : Word} {s : State} {t' : State} (h' : execRelease r v s = .next t') : Keeps [.regs, .evts, .faults, .mem, .soft, .cores, .drover, .herd, .paddock, .fabric, .host, .power, .resets, .sharal, .roles, .out, .free] s t' := by
  unfold execRelease at h'
  injection h' with h'
  subst h'
  repeat' first
    | dsimp only
    | with_reducible apply Keeps.refl
    | ((with_reducible apply Keeps.cut (domGo_keeps ..)); case hs => decide)

theorem execDoze_keeps {r : Requester} {v : Word} {s : State} {t' : State} (h' : execDoze r v s = .next t') : Keeps [.regs, .evts, .faults, .mem, .soft, .cores, .drover, .herd, .paddock, .fabric, .host, .power, .resets, .sharal, .roles, .out, .free] s t' := by
  unfold execDoze at h'
  injection h' with h'
  subst h'
  repeat' first
    | dsimp only
    | with_reducible apply Keeps.refl
    | ((with_reducible apply Keeps.cut (domGo_keeps ..)); case hs => decide)

theorem execNap_keeps {r : Requester} {v : Word} {s : State} {t' : State} (h' : execNap r v s = .next t') : Keeps [.regs, .evts, .faults, .mem, .soft, .cores, .drover, .herd, .paddock, .fabric, .host, .power, .resets, .sharal, .roles, .out, .free] s t' := by
  unfold execNap at h'
  injection h' with h'
  subst h'
  repeat' first
    | dsimp only
    | with_reducible apply Keeps.refl
    | ((with_reducible apply Keeps.cut (domGo_keeps ..)); case hs => decide)

theorem execOff_keeps {r : Requester} {v : Word} {s : State} {t' : State} (h' : execOff r v s = .next t') : Keeps [.regs, .evts, .faults, .mem, .soft, .cores, .drover, .herd, .paddock, .fabric, .host, .power, .resets, .sharal, .roles, .out, .free] s t' := by
  unfold execOff at h'
  injection h' with h'
  subst h'
  repeat' first
    | dsimp only
    | with_reducible apply Keeps.refl
    | ((with_reducible apply Keeps.cut (domGo_keeps ..)); case hs => decide)

theorem execOn_keeps {r : Requester} {v : Word} {s : State} {t' : State} (h' : execOn r v s = .next t') : Keeps [.regs, .evts, .faults, .mem, .soft, .cores, .drover, .herd, .paddock, .fabric, .host, .power, .resets, .sharal, .roles, .out, .free] s t' := by
  unfold execOn at h'
  injection h' with h'
  subst h'
  repeat' first
    | dsimp only
    | with_reducible apply Keeps.refl
    | ((with_reducible apply Keeps.cut (domGo_keeps ..)); case hs => decide)

theorem execDomPolicyWrite_keeps {f : FuncId} {d : Fin 24} {v : Word} {s : State} {t' : State} (h' : execDomPolicyWrite f d v s = .next t') : Keeps [.regs, .evts, .faults, .mem, .soft, .cores, .drover, .herd, .paddock, .fabric, .host, .power, .resets, .sharal, .roles, .out, .free] s t' := by
  unfold execDomPolicyWrite at h'
  injection h' with h'
  subst h'
  repeat' first
    | dsimp only
    | with_reducible apply Keeps.refl
    | ((with_reducible apply Keeps.cut (barWrite_keeps ..)); case hs => decide)

theorem execResume_keeps {r : Requester} {v : Word} {s : State} {t' : State} (h' : execResume r v s = .next t') : Keeps [.regs, .evts, .faults, .mem, .soft, .cores, .drover, .herd, .paddock, .fabric, .host, .power, .resets, .sharal, .roles, .out, .free] s t' := by
  unfold execResume at h'
  injection h' with h'
  subst h'
  repeat' first
    | dsimp only
    | with_reducible apply Keeps.refl
    | ((with_reducible apply Keeps.cut (writeBy_keeps ..)); case hs => decide)

theorem execCautionSet_keeps {r : Requester} {v : Word} {s : State} {t' : State} (h' : execCautionSet r v s = .next t') : Keeps [.regs, .evts, .faults, .mem, .soft, .cores, .drover, .herd, .paddock, .fabric, .host, .power, .resets, .sharal, .roles, .out, .free] s t' := by
  unfold execCautionSet at h'
  injection h' with h'
  subst h'
  repeat' first
    | dsimp only
    | with_reducible apply Keeps.refl
    | ((with_reducible apply Keeps.cut (writeBy_keeps ..)); case hs => decide)

theorem execResetCommand_keeps {r : Requester} {v : Word} {s : State} {t' : State} (h' : execResetCommand r v s = .next t') : Keeps [.regs, .evts, .faults, .mem, .soft, .cores, .drover, .herd, .paddock, .fabric, .host, .power, .resets, .sharal, .roles, .out, .free] s t' := by
  unfold execResetCommand at h'
  injection h' with h'
  subst h'
  repeat' first
    | dsimp only
    | with_reducible apply Keeps.refl
    | ((with_reducible apply Keeps.cut (writeBy_keeps ..)); case hs => decide)

theorem execDumpArm_keeps {f : FuncId} {v : Word} {s : State} {t' : State} (h' : execDumpArm f v s = .next t') : Keeps [.regs, .evts, .faults, .mem, .soft, .cores, .drover, .herd, .paddock, .fabric, .host, .power, .resets, .sharal, .roles, .out, .free] s t' := by
  unfold execDumpArm at h'
  injection h' with h'
  subst h'
  repeat' first
    | dsimp only
    | with_reducible apply Keeps.refl
    | ((with_reducible apply Keeps.cut (barWrite_keeps ..)); case hs => decide)

theorem execAoClear_keeps {f : FuncId} {v : Word} {s : State} {t' : State} (h' : execAoClear f v s = .next t') : Keeps [.regs, .evts, .faults, .mem, .soft, .cores, .drover, .herd, .paddock, .fabric, .host, .power, .resets, .sharal, .roles, .out, .free] s t' := by
  unfold execAoClear at h'
  injection h' with h'
  subst h'
  repeat' first
    | dsimp only
    | with_reducible apply Keeps.refl
    | ((with_reducible apply Keeps.cut (barWrite_keeps ..)); case hs => decide)

theorem execAoDataRead_keeps {f : FuncId} {s : State} {t' : State} (h' : execAoDataRead f s = .next t') : Keeps [.regs, .evts, .host, .out] s t' := by
  unfold execAoDataRead at h'
  injection h' with h'
  subst h'
  repeat' first
    | dsimp only
    | with_reducible apply Keeps.refl
    | ((with_reducible apply Keeps.cut (barRead_keeps ..)); case hs => decide)

theorem execTraceStart_keeps {f : FuncId} {v : Word} {s : State} {t' : State} (h' : execTraceStart f v s = .next t') : Keeps [.regs, .evts, .faults, .mem, .soft, .cores, .drover, .herd, .paddock, .fabric, .host, .power, .resets, .sharal, .roles, .out, .free] s t' := by
  unfold execTraceStart at h'
  injection h' with h'
  subst h'
  repeat' first
    | dsimp only
    | with_reducible apply Keeps.refl
    | ((with_reducible apply Keeps.cut (barWrite_keeps ..)); case hs => decide)

theorem execTraceStop_keeps {f : FuncId} {v : Word} {s : State} {t' : State} (h' : execTraceStop f v s = .next t') : Keeps [.regs, .evts, .faults, .mem, .soft, .cores, .drover, .herd, .paddock, .fabric, .host, .power, .resets, .sharal, .roles, .out, .free] s t' := by
  unfold execTraceStop at h'
  injection h' with h'
  subst h'
  repeat' first
    | dsimp only
    | with_reducible apply Keeps.refl
    | ((with_reducible apply Keeps.cut (barWrite_keeps ..)); case hs => decide)

theorem execTraceCopy_keeps {f : FuncId} {v : Word} {s : State} {t' : State} (h' : execTraceCopy f v s = .next t') : Keeps [.regs, .evts, .faults, .mem, .soft, .cores, .drover, .herd, .paddock, .fabric, .host, .power, .resets, .sharal, .roles, .out, .free] s t' := by
  unfold execTraceCopy at h'
  injection h' with h'
  subst h'
  repeat' first
    | dsimp only
    | with_reducible apply Keeps.refl
    | ((with_reducible apply Keeps.cut (barWrite_keeps ..)); case hs => decide)

theorem execTraceDataRead_keeps {f : FuncId} {s : State} {t' : State} (h' : execTraceDataRead f s = .next t') : Keeps [.regs, .evts, .host, .out] s t' := by
  unfold execTraceDataRead at h'
  injection h' with h'
  subst h'
  repeat' first
    | dsimp only
    | with_reducible apply Keeps.refl
    | ((with_reducible apply Keeps.cut (barRead_keeps ..)); case hs => decide)

theorem execCounterStart_keeps {f : FuncId} {v : Word} {s : State} {t' : State} (h' : execCounterStart f v s = .next t') : Keeps [.regs, .evts, .faults, .mem, .soft, .cores, .drover, .herd, .paddock, .fabric, .host, .power, .resets, .sharal, .roles, .out, .free] s t' := by
  unfold execCounterStart at h'
  injection h' with h'
  subst h'
  repeat' first
    | dsimp only
    | with_reducible apply Keeps.refl
    | ((with_reducible apply Keeps.cut (barWrite_keeps ..)); case hs => decide)

theorem execCounterStop_keeps {f : FuncId} {v : Word} {s : State} {t' : State} (h' : execCounterStop f v s = .next t') : Keeps [.regs, .evts, .faults, .mem, .soft, .cores, .drover, .herd, .paddock, .fabric, .host, .power, .resets, .sharal, .roles, .out, .free] s t' := by
  unfold execCounterStop at h'
  injection h' with h'
  subst h'
  repeat' first
    | dsimp only
    | with_reducible apply Keeps.refl
    | ((with_reducible apply Keeps.cut (barWrite_keeps ..)); case hs => decide)

theorem execCounterClear_keeps {f : FuncId} {v : Word} {s : State} {t' : State} (h' : execCounterClear f v s = .next t') : Keeps [.regs, .evts, .faults, .mem, .soft, .cores, .drover, .herd, .paddock, .fabric, .host, .power, .resets, .sharal, .roles, .out, .free] s t' := by
  unfold execCounterClear at h'
  injection h' with h'
  subst h'
  repeat' first
    | dsimp only
    | with_reducible apply Keeps.refl
    | ((with_reducible apply Keeps.cut (barWrite_keeps ..)); case hs => decide)

theorem execTallyLoad_keeps {f : FuncId} {v : Word} {s : State} {t' : State} (h' : execTallyLoad f v s = .next t') : Keeps [.regs, .evts, .faults, .mem, .soft, .cores, .drover, .herd, .paddock, .fabric, .host, .power, .resets, .sharal, .roles, .out, .free] s t' := by
  unfold execTallyLoad at h'
  injection h' with h'
  subst h'
  repeat' first
    | dsimp only
    | with_reducible apply Keeps.refl
    | ((with_reducible apply Keeps.cut (barWrite_keeps ..)); case hs => decide)

theorem execTallyClear_keeps {f : FuncId} {v : Word} {s : State} {t' : State} (h' : execTallyClear f v s = .next t') : Keeps [.regs, .evts, .faults, .mem, .soft, .cores, .drover, .herd, .paddock, .fabric, .host, .power, .resets, .sharal, .roles, .out, .free] s t' := by
  unfold execTallyClear at h'
  injection h' with h'
  subst h'
  repeat' first
    | dsimp only
    | with_reducible apply Keeps.refl
    | ((with_reducible apply Keeps.cut (barWrite_keeps ..)); case hs => decide)

theorem execReadBoot_keeps {s : State} {t' : State} (h' : execReadBoot s = .next t') : Keeps [.regs, .sharal, .out] s t' := by
  unfold execReadBoot at h'
  injection h' with h'
  subst h'
  repeat' first
    | dsimp only
    | with_reducible apply Keeps.refl
    | ((with_reducible apply Keeps.cut (readBoot_keeps ..)); case hs => decide)

theorem execReadReg_keeps {off : Word} {s : State} {t' : State} (h' : execReadReg off s = .next t') : Keeps [.regs, .sharal, .out, .free] s t' := by
  unfold execReadReg at h'
  injection h' with h'
  subst h'
  repeat' first
    | dsimp only
    | with_reducible apply Keeps.refl
    | ((with_reducible apply Keeps.cut (readReg_keeps ..)); case hs => decide)

theorem execRtDataAccess_keeps {r : Requester} {v : Option Word} {s : State} {t' : State} (h' : execRtDataAccess r v s = .next t') : Keeps [.regs, .evts, .faults, .mem, .soft, .cores, .drover, .herd, .paddock, .fabric, .host, .power, .resets, .sharal, .roles, .out, .free] s t' := by
  unfold execRtDataAccess at h'
  injection h' with h'
  subst h'
  repeat' first
    | dsimp only
    | with_reducible apply Keeps.refl
    | ((with_reducible apply Keeps.cut (rtDataAccess_keeps ..)); case hs => decide)

theorem execTallyRead_keeps {seq : Word} {s : State} {t' : State} (h' : execTallyRead seq s = .next t') : Keeps [.regs, .sharal, .out, .free] s t' := by
  unfold execTallyRead at h'
  injection h' with h'
  subst h'
  repeat' first
    | dsimp only
    | with_reducible apply Keeps.refl
    | ((with_reducible apply Keeps.cut (tallyRead_keeps ..)); case hs => decide)

theorem execAoRead_keeps {off : Word} {s : State} {t' : State} (h' : execAoRead off s = .next t') : Keeps [.regs, .sharal, .out, .free] s t' := by
  unfold execAoRead at h'
  injection h' with h'
  subst h'
  repeat' first
    | dsimp only
    | with_reducible apply Keeps.refl
    | ((with_reducible apply Keeps.cut (aoRead_keeps ..)); case hs => decide)

theorem execSmbOwnerSet_keeps {key : Vector Byte 32} {pec : Option Bool} {s : State} {t' : State} (h' : execSmbOwnerSet key pec s = .next t') : Keeps [.regs, .evts, .faults, .mem, .cores, .drover, .herd, .paddock, .fabric, .host, .power, .sharal, .out, .free] s t' := by
  unfold execSmbOwnerSet at h'
  injection h' with h'
  subst h'
  repeat' first
    | dsimp only
    | with_reducible apply Keeps.refl
    | ((with_reducible apply Keeps.cut (smbOwnerSet_keeps ..)); case hs => decide)

theorem execLastStatus_keeps {s : State} {t' : State} (h' : execLastStatus s = .next t') : Keeps [.regs, .sharal, .out] s t' := by
  unfold execLastStatus at h'
  injection h' with h'
  subst h'
  repeat' first
    | dsimp only
    | with_reducible apply Keeps.refl
    | ((with_reducible apply Keeps.cut (lastStatus_keeps ..)); case hs => decide)

theorem execRecoveryWrite_keeps {off : Word} {data : List Byte} {pec : Option Bool} {s : State} {t' : State} (h' : execRecoveryWrite off data pec s = .next t') : Keeps [.regs, .sharal, .out] s t' := by
  unfold execRecoveryWrite at h'
  injection h' with h'
  subst h'
  repeat' first
    | dsimp only
    | with_reducible apply Keeps.refl
    | ((with_reducible apply Keeps.cut (recoveryWrite_keeps ..)); case hs => decide)

theorem execRecoveryCommit_keeps {pec : Option Bool} {s : State} {t' : State} (h' : execRecoveryCommit pec s = .next t') : Keeps [.regs, .evts, .faults, .fabric, .host, .power, .resets, .sharal, .roles, .out] s t' := by
  unfold execRecoveryCommit at h'
  injection h' with h'
  subst h'
  repeat' first
    | dsimp only
    | with_reducible apply Keeps.refl
    | ((with_reducible apply Keeps.cut (recoveryCommit_keeps ..)); case hs => decide)

theorem execRecoveryStatus_keeps {s : State} {t' : State} (h' : execRecoveryStatus s = .next t') : Keeps [.regs, .sharal, .out] s t' := by
  unfold execRecoveryStatus at h'
  injection h' with h'
  subst h'
  repeat' first
    | dsimp only
    | with_reducible apply Keeps.refl
    | ((with_reducible apply Keeps.cut (recoveryStatus_keeps ..)); case hs => decide)

theorem execSmbAlertResponse_keeps {s : State} {t' : State} (h' : execSmbAlertResponse s = .next t') : Keeps [.power, .out] s t' := by
  unfold execSmbAlertResponse at h'
  injection h' with h'
  subst h'
  repeat' first
    | dsimp only
    | with_reducible apply Keeps.refl
    | ((with_reducible apply Keeps.cut (smbAlertResponse_keeps ..)); case hs => decide)

theorem execMgmtRead_keeps {s : State} {t' : State} (h' : execMgmtRead s = .next t') : Keeps [.regs, .evts, .fabric, .out] s t' := by
  unfold execMgmtRead at h'
  injection h' with h'
  subst h'
  repeat' first
    | dsimp only
    | with_reducible apply Keeps.refl
    | ((with_reducible apply Keeps.cut (mgmtReadReq_keeps ..)); case hs => decide)
    | ((with_reducible apply mgmtServe_cut); case hs => decide)
    | intro _
    | exact Keeps.refl _ _

theorem execMgmtWrite_keeps {s : State} {t' : State} (h' : execMgmtWrite s = .next t') : Keeps [.regs, .evts, .faults, .mem, .soft, .cores, .drover, .herd, .paddock, .fabric, .host, .power, .resets, .sharal, .roles, .out, .free] s t' := by
  unfold execMgmtWrite at h'
  injection h' with h'
  subst h'
  repeat' first
    | dsimp only
    | with_reducible apply Keeps.refl
    | ((with_reducible apply Keeps.cut (mgmtWriteReq_keeps ..)); case hs => decide)
    | ((with_reducible apply mgmtServe_cut); case hs => decide)
    | intro _
    | exact Keeps.refl _ _

theorem execMgmtTallyRead_keeps {s : State} {t' : State} (h' : execMgmtTallyRead s = .next t') : Keeps [.regs, .evts, .fabric, .out] s t' := by
  unfold execMgmtTallyRead at h'
  injection h' with h'
  subst h'
  repeat' first
    | dsimp only
    | with_reducible apply Keeps.refl
    | ((with_reducible apply Keeps.cut (mgmtTallyReq_keeps ..)); case hs => decide)
    | ((with_reducible apply mgmtServe_cut); case hs => decide)
    | intro _
    | exact Keeps.refl _ _

theorem execPortGrant_keeps {p : StorePort} {s : State} {t' : State} (h' : execPortGrant p s = .next t') : Keeps [.regs, .evts, .faults, .mem, .slots, .cores, .drover, .herd, .fabric, .host, .power, .sharal, .out] s t' := by
  unfold execPortGrant at h'
  injection h' with h'
  subst h'
  repeat' first
    | dsimp only
    | with_reducible apply Keeps.refl
    | ((with_reducible apply Keeps.cut (portGrant_keeps ..)); case hs => decide)

theorem execParityReplay_keeps {r : Reader} {addr : Nat} {persists : Bool} {s : State} {t' : State} (h' : execParityReplay r addr persists s = .next t') : Keeps [.regs, .evts, .faults, .mem, .slots, .cores, .drover, .herd, .paddock] s t' := by
  unfold execParityReplay at h'
  injection h' with h'
  subst h'
  repeat' first
    | dsimp only
    | with_reducible apply Keeps.refl
    | ((with_reducible apply Keeps.cut (parityReplay_keeps ..)); case hs => decide)

end Sys2Proof.Machine
end

