-- ==== Sys2Proof/Laws/Access.lean ====
section
/-! SUPPORT. The frames of the commands that are register accesses with a row of their own, without what writes of
other registers may change. -/

namespace Sys2Proof.Machine

/-- No page lies where BAR4 follows. -/
theorem mayWrite_bar4 (s : State) (f : FuncId) (a : Nat) (h : inBar4 a = true) : mayWrite s f (a / 0x1000) (a % 0x1000) = false := by
  have hn : 0x4000 ≤ a / 0x1000 := by
    unfold inBar4 at h
    simp only [Bool.and_eq_true, decide_eq_true_eq] at h
    omega
  generalize a / 0x1000 = n at hn
  have hp : pageKind n = .none := by
    unfold pageKind
    have g : ∀ k, k ≤ 0x4000 → ¬ n < k := fun k hk => by omega
    have e : ∀ k, k < 0x4000 → ¬ n = k := fun k hk => by omega
    rw [if_neg (g _ (by norm_num)), if_neg (g _ (by norm_num)), if_neg (g _ (by norm_num)), if_neg (g _ (by norm_num)),
      if_neg (e _ (by norm_num)), if_neg (e _ (by norm_num)), if_neg (e _ (by norm_num)), if_neg (e _ (by norm_num)),
      if_neg (e _ (by norm_num)), if_neg (e _ (by norm_num)), if_neg (e _ (by norm_num)), if_neg (e _ (by norm_num)),
      if_neg (g _ (by norm_num)), if_neg (g _ (by norm_num)), if_neg (g _ (by norm_num)), if_neg (g _ (by norm_num))]
  unfold mayWrite
  rw [hp]

/-- The pages of BAR0 lie below BAR4. -/
theorem bar0_page {slot off : Nat} (ho : off < 0x1000) (h : slot < 0x4000) : inBar4 (regAt slot off) = false := by
  unfold inBar4 regAt
  rw [decide_eq_false (by omega)]
  rfl

/-- A write that reaches the page is the page's write. -/
theorem barWrite_reaches {s : State} {f : FuncId} {a : Nat} (h : Reaches s f a) (v : Word) :
    barWrite s f a v = pageWrite s.fromHost f (isOwner s.fromHost f) (a / 0x1000) (a % 0x1000) v := by
  obtain ⟨⟨h0, h1⟩, h2, h3, h4⟩ := h
  have h5 : inBar4 a = false := by
    cases hi : inBar4 a
    · rfl
    · rw [mayWrite_bar4 _ _ _ hi] at h3
      cases h3
  unfold barWrite barNow
  rw [if_neg (by simp [h0]), if_neg (by simp [h1]), if_neg (by simp [h5]), if_neg (by simp [h2, h3]; omega)]

/-- An accepted write of any requester is the page's write, with what it answers. -/
theorem writeBy_arrives {s : State} {r : Requester} {a : Nat} (h : Arrives s r a) (v : Word) :
    writeBy s r a v = reported r (pageWrite (arriving r s) (match r with
      | .func f => f
      | _ => 0) (asOwner r s) (a / 0x1000) (a % 0x1000) v) := by
  cases r with
  | func f => exact barWrite_reaches h v
  | smbus =>
    obtain ⟨h1, h2, h3, h4, h5⟩ := h
    show smbWriteReg s a v (some true) = _
    unfold smbWriteReg extWrite
    simp only [h1, h2, h3, h4, pecBad, Bool.not_true, Bool.false_eq_true, Bool.or_self, if_false, if_true]
    rw [if_neg (by omega)]
    rfl
  | fabric =>
    obtain ⟨h1, h2, h3, h4, h5⟩ := h
    show fabWriteReg s a v = _
    unfold fabWriteReg extWrite
    simp only [h1, h2, h3, h4, Bool.and_self, if_true]
    rw [if_neg (by omega)]
    rfl

/-- A write through BAR0 changes what the page's write changes, and counters and events of the host page; one that waits
changes the line of the host port. -/
theorem barWrite_keeps_of {ps : List Part} {f : FuncId} {a : Nat} {v : Word} (s : State) (ha : inBar4 a = false ∨ Part.out ∈ ps)
    (hs : [Part.regs, .evts, .host] ⊆ ps)
    (h : ∀ u o, Keeps ps u (pageWrite u f o (a / 0x1000) (a % 0x1000) v)) : Keeps ps s (barWrite s f a v) := by
  have hf : Keeps ps s s.fromHost := (State.fromHost_keeps s).mono (fun p hp => hs (by simp_all))
  unfold barWrite
  refine Keeps.ite (fun _ => Keeps.refl ps s) (fun _ => Keeps.ite (fun _ => ?_) (fun _ => ?_))
  · exact Keeps.cut (bar2Wait_keeps ..) (fun p hp => hs (by simp_all)) hf
  · unfold barNow
    refine hf.trans (Keeps.ite (fun hb => ?_) (fun _ => ?_))
    · rcases ha with ha | ha
      · rw [ha] at hb
        cases hb
      · exact (bar4Write_keeps ..).mono (fun p hp => by simp at hp; rcases hp with rfl | rfl | rfl; exacts [hs (by simp), hs (by simp), ha])
    exact (Keeps.ite (fun _ => (unsupported_keeps _).mono (fun p hp => hs (by simp at hp; rcases hp with rfl | rfl <;> simp)))
      (fun _ => h _ _))

/-- A write of any requester changes what the page's write changes, and what its answer changes. -/
theorem writeBy_keeps_of {ps : List Part} {r : Requester} {a : Nat} {v : Word} (s : State) (ha : inBar4 a = false)
    (hs : [Part.regs, .evts, .host, .sharal, .out] ⊆ ps)
    (h : ∀ u f o, Keeps ps u (pageWrite u f o (a / 0x1000) (a % 0x1000) v)) : Keeps ps s (writeBy s r a v) := by
  have hx : ∀ u, Keeps ps u (extPulse (extWrite u a v)) := fun u => by
    refine Keeps.cut (extPulse_keeps _) (fun p hp => hs (by simp_all)) ?_
    unfold extWrite
    exact Keeps.ite (fun _ => (unsupported_keeps _).mono (fun p hp => hs (by simp at hp; rcases hp with rfl | rfl <;> simp)))
      (fun _ => h _ _ _)
  have hd : ∀ u n, Keeps ps u (smbDone u n) := fun u n =>
    (smbDone_keeps u n).mono (fun p hp => hs (by simp at hp; rcases hp with rfl | rfl <;> simp))
  have hr : ∀ u, Keeps ps u (smbRefuse u) := fun u =>
    (smbRefuse_keeps u).mono (fun p hp => hs (by simp at hp; rcases hp with rfl | rfl <;> simp))
  cases r with
  | func f => exact barWrite_keeps_of s (.inl ha) (fun p hp => hs (by simp at hp; rcases hp with rfl | rfl | rfl <;> simp)) (fun u o => h u f o)
  | smbus =>
    show Keeps ps s (smbWriteReg s a v (some true))
    unfold smbWriteReg
    refine Keeps.ite (fun _ => Keeps.refl ps s) (fun _ => Keeps.ite (fun _ => hr s) (fun _ => ?_))
    exact Keeps.ite (fun _ => (hx s).trans (hd _ 0)) (fun _ => hd s 1)
  | fabric =>
    show Keeps ps s (fabWriteReg s a v)
    unfold fabWriteReg
    exact Keeps.ite (fun _ => hx s) (fun _ => Keeps.refl ps s)

/-- A slot from 0x1000 on is the page of a queue. -/
theorem pageKind_queue (q : QueueId) : pageKind (slotQueue q.val) = .queue q.val := by
  have hq : q.val < 1024 := q.isLt
  have hs : slotQueue q.val = 0x1000 + q.val := rfl
  generalize slotQueue q.val = n at hs
  unfold pageKind
  have h : ∀ k, k ≤ 0x1000 → ¬ n < k := fun k hk => by omega
  have e : ∀ k, k < 0x1000 → ¬ n = k := fun k hk => by omega
  rw [if_neg (h _ (by norm_num)), if_neg (h _ (by norm_num)), if_neg (h _ (by norm_num)), if_neg (h _ (by norm_num)),
    if_neg (e _ (by norm_num)), if_neg (e _ (by norm_num)), if_neg (e _ (by norm_num)), if_neg (e _ (by norm_num)),
    if_neg (e _ (by norm_num)), if_neg (e _ (by norm_num)), if_neg (e _ (by norm_num)), if_neg (e _ (by norm_num)),
    if_neg (h _ (by norm_num)), if_neg (h _ (by norm_num)), if_neg (h _ (by norm_num)), if_pos (by omega)]
  rw [show n - 0x1000 = q.val by omega]

theorem execEvtLatchWrite_narrow {f : FuncId} {slot : Nat} {v : Word} {s t' : State} (h' : execEvtLatchWrite f slot v s = .next t') :
    Keeps [.regs, .evts, .host, .out] s t' := by
  injection h' with h'
  subst h'
  refine barWrite_keeps_of s (.inr (by decide)) (by decide) (fun u o => ?_)
  have h1 : regAt slot 0x018 / 0x1000 = slot := by unfold regAt; omega
  have h2 : regAt slot 0x018 % 0x1000 = 0x018 := by unfold regAt; omega
  rw [h1, h2]
  exact latchWrite_keeps u slot v

theorem execRoleApply_narrow {r : Requester} {v : Word} {s t' : State} (h' : execRoleApply r v s = .next t') :
    Keeps [.regs, .evts, .faults, .host, .sharal, .roles, .out] s t' := by
  injection h' with h'
  subst h'
  exact writeBy_keeps_of s (by decide) (by decide) (fun u f o => (roleWrite_keeps u (v ||| 0x80000000)).mono (by decide))

theorem execLedgerSnap_narrow {f : FuncId} {v : Word} {s t' : State} (h' : execLedgerSnap f v s = .next t') :
    Keeps [.regs, .evts, .drover, .host] s t' := by
  injection h' with h'
  subst h'
  exact barWrite_keeps_of s (.inl (by decide)) (by decide) (fun u o => (drvrWrite_keeps u 0x080 (v ||| 0x80000000)).mono (by decide))

theorem execPadkCtrlWrite_narrow {f : FuncId} {v : Word} {s t' : State} (h' : execPadkCtrlWrite f v s = .next t') :
    Keeps [.regs, .evts, .faults, .fabric, .host, .out] s t' := by
  injection h' with h'
  subst h'
  exact barWrite_keeps_of s (.inl (by decide)) (by decide) (fun u o => (headerWrite_keeps u slotPadk 0x008 v).mono (by decide))

theorem execLinkTrain_narrow {f : FuncId} {p : PortId} {v : Word} {s t' : State} (h' : execLinkTrain f p v s = .next t') :
    Keeps [.regs, .evts, .faults, .fabric, .host, .out] s t' := by
  injection h' with h'
  subst h'
  refine barWrite_keeps_of s (.inl (bar0_page (by decide) (by unfold slotLink; omega))) (by decide) (fun u o => ?_)
  have h1 : regAt (slotLink p.val) 0x008 / 0x1000 = slotLink p.val := by unfold regAt; omega
  have h2 : regAt (slotLink p.val) 0x008 % 0x1000 = 0x008 := by unfold regAt; omega
  rw [h1, h2]
  exact headerWrite_keeps u (slotLink p.val) 0x008 _

theorem execSelfWrite_narrow {r : Requester} {v : Word} {s t' : State} (h' : execSelfWrite r v s = .next t') :
    Keeps [.regs, .evts, .faults, .host, .power, .sharal, .out] s t' := by
  injection h' with h'
  subst h'
  exact writeBy_keeps_of s (by decide) (by decide) (fun u f o => (selfWrite_keeps u v).mono (by decide))

theorem execDimsWrite_narrow {r : Requester} {v : Word} {s t' : State} (h' : execDimsWrite r v s = .next t') :
    Keeps [.regs, .evts, .faults, .host, .sharal, .out] s t' := by
  injection h' with h'
  subst h'
  exact writeBy_keeps_of s (by decide) (by decide) (fun u f o => (dimsWrite_keeps u v).mono (by decide))

theorem execChallenge_narrow {f : FuncId} {v : Word} {s t' : State} (h' : execChallenge f v s = .next t') :
    Keeps [.regs, .evts, .host, .power, .sharal, .free] s t' := by
  injection h' with h'
  subst h'
  exact barWrite_keeps_of s (.inl (by decide)) (by decide) (fun u o => (sessReqWrite_keeps u f (v ||| 0x80000000)).mono (by decide))

theorem execAnswer_narrow {f : FuncId} {v : Word} {s t' : State} (h' : execAnswer f v s = .next t') :
    Keeps [.regs, .evts, .host, .power, .sharal, .free] s t' := by
  injection h' with h'
  subst h'
  exact barWrite_keeps_of s (.inl (by decide)) (by decide) (fun u o => (sessReqWrite_keeps u f (v ||| 0x40000000)).mono (by decide))

theorem execClose_narrow {f : FuncId} {v : Word} {s t' : State} (h' : execClose f v s = .next t') :
    Keeps [.regs, .evts, .faults, .mem, .cores, .drover, .herd, .paddock, .fabric, .host, .power, .sharal, .free] s t' := by
  injection h' with h'
  subst h'
  exact barWrite_keeps_of s (.inl (by decide)) (by decide) (fun u o => (sessCtlWrite_keeps u f (v ||| 0x80000000)).mono (by decide))

theorem execAttach_narrow {f : FuncId} {v : Word} {s t' : State} (h' : execAttach f v s = .next t') :
    Keeps [.regs, .evts, .faults, .mem, .cores, .drover, .herd, .paddock, .fabric, .host, .power, .sharal, .free] s t' := by
  injection h' with h'
  subst h'
  exact barWrite_keeps_of s (.inl (by decide)) (by decide) (fun u o => (sessCtlWrite_keeps u f (v ||| 0x40000000)).mono (by decide))

theorem execDetach_narrow {f : FuncId} {v : Word} {s t' : State} (h' : execDetach f v s = .next t') :
    Keeps [.regs, .evts, .faults, .mem, .cores, .drover, .herd, .paddock, .fabric, .host, .power, .sharal, .free] s t' := by
  injection h' with h'
  subst h'
  exact barWrite_keeps_of s (.inl (by decide)) (by decide) (fun u o => (sessCtlWrite_keeps u f (v ||| 0x20000000)).mono (by decide))

theorem execKeySelWrite_narrow {f : FuncId} {v : Word} {s t' : State} (h' : execKeySelWrite f v s = .next t') :
    Keeps [.regs, .evts, .faults, .mem, .cores, .drover, .herd, .paddock, .fabric, .host, .power, .sharal, .free] s t' := by
  injection h' with h'
  subst h'
  exact barWrite_keeps_of s (.inl (by decide)) (by decide) (fun u o => (keySelWrite_keeps u (v ||| 0x80000000)).mono (by decide))

theorem execKeySelErase_narrow {f : FuncId} {v : Word} {s t' : State} (h' : execKeySelErase f v s = .next t') :
    Keeps [.regs, .evts, .faults, .mem, .cores, .drover, .herd, .paddock, .fabric, .host, .power, .sharal, .free] s t' := by
  injection h' with h'
  subst h'
  exact barWrite_keeps_of s (.inl (by decide)) (by decide) (fun u o => (keySelWrite_keeps u (v ||| 0x40000000)).mono (by decide))

theorem execSqDoorbell_narrow {f : FuncId} {q : QueueId} {v : Word} {s t' : State} (h' : execSqDoorbell f q v s = .next t') :
    Keeps [.regs, .evts, .host, .power, .sharal] s t' := by
  injection h' with h'
  subst h'
  refine barWrite_keeps_of s (.inl (bar0_page (by decide) (by unfold slotQueue; omega))) (by decide) (fun u o => ?_)
  have hp : pageWrite u f o (regAt (slotQueue q.val) 0x060 / 0x1000) (regAt (slotQueue q.val) 0x060 % 0x1000) v = doorbell u q.val v := by
    have h1 : regAt (slotQueue q.val) 0x060 / 0x1000 = slotQueue q.val := by unfold regAt; omega
    have h2 : regAt (slotQueue q.val) 0x060 % 0x1000 = 0x060 := by unfold regAt; omega
    rw [h1, h2]
    simp [pageWrite, blockWrite, isSelect, pageKind_queue, queueWrite]
  rw [hp]
  exact doorbell_keeps u q.val v

theorem execQCtrlWrite_narrow {f : FuncId} {q : QueueId} {v : Word} {s t' : State} (h' : execQCtrlWrite f q v s = .next t') :
    Keeps [.regs, .evts, .host] s t' := by
  injection h' with h'
  subst h'
  refine barWrite_keeps_of s (.inl (bar0_page (by decide) (by unfold slotQueue; omega))) (by decide) (fun u o => ?_)
  have hp : pageWrite u f o (regAt (slotQueue q.val) 0x044 / 0x1000) (regAt (slotQueue q.val) 0x044 % 0x1000) v = qCtrl u q.val v := by
    have h1 : regAt (slotQueue q.val) 0x044 / 0x1000 = slotQueue q.val := by unfold regAt; omega
    have h2 : regAt (slotQueue q.val) 0x044 % 0x1000 = 0x044 := by unfold regAt; omega
    rw [h1, h2]
    simp [pageWrite, blockWrite, isSelect, pageKind_queue, queueWrite]
  rw [hp]
  exact qCtrl_keeps u q.val v

theorem execInfoSelSnap_narrow {f : FuncId} {v : Word} {s t' : State} (h' : execInfoSelSnap f v s = .next t') :
    Keeps [.regs, .evts, .host] s t' := by
  injection h' with h'
  subst h'
  exact barWrite_keeps_of s (.inl (by decide)) (by decide) (fun u o => (infoSelWrite_keeps u (v ||| 0x80000000)).mono (by decide))

theorem execWake_narrow {r : Requester} {v : Word} {s t' : State} (h' : execWake r v s = .next t') :
    Keeps [.regs, .evts, .faults, .fabric, .host, .power, .sharal, .out] s t' := by
  injection h' with h'
  subst h'
  exact writeBy_keeps_of s (by decide) (by decide) (fun u f o => (domCmdWrite_keeps u _).mono (by decide))

theorem execHold_narrow {r : Requester} {v : Word} {s t' : State} (h' : execHold r v s = .next t') :
    Keeps [.regs, .evts, .faults, .fabric, .host, .power, .sharal, .out] s t' := by
  injection h' with h'
  subst h'
  exact writeBy_keeps_of s (by decide) (by decide) (fun u f o => (domCmdWrite_keeps u _).mono (by decide))

theorem execRelease_narrow {r : Requester} {v : Word} {s t' : State} (h' : execRelease r v s = .next t') :
    Keeps [.regs, .evts, .faults, .fabric, .host, .power, .sharal, .out] s t' := by
  injection h' with h'
  subst h'
  exact writeBy_keeps_of s (by decide) (by decide) (fun u f o => (domCmdWrite_keeps u _).mono (by decide))

theorem execDoze_narrow {r : Requester} {v : Word} {s t' : State} (h' : execDoze r v s = .next t') :
    Keeps [.regs, .evts, .faults, .fabric, .host, .power, .sharal, .out] s t' := by
  injection h' with h'
  subst h'
  exact writeBy_keeps_of s (by decide) (by decide) (fun u f o => (domCmdWrite_keeps u _).mono (by decide))

theorem execNap_narrow {r : Requester} {v : Word} {s t' : State} (h' : execNap r v s = .next t') :
    Keeps [.regs, .evts, .faults, .fabric, .host, .power, .sharal, .out] s t' := by
  injection h' with h'
  subst h'
  exact writeBy_keeps_of s (by decide) (by decide) (fun u f o => (domCmdWrite_keeps u _).mono (by decide))

theorem execOff_narrow {r : Requester} {v : Word} {s t' : State} (h' : execOff r v s = .next t') :
    Keeps [.regs, .evts, .faults, .fabric, .host, .power, .sharal, .out] s t' := by
  injection h' with h'
  subst h'
  exact writeBy_keeps_of s (by decide) (by decide) (fun u f o => (domCmdWrite_keeps u _).mono (by decide))

theorem execOn_narrow {r : Requester} {v : Word} {s t' : State} (h' : execOn r v s = .next t') :
    Keeps [.regs, .evts, .faults, .fabric, .host, .power, .sharal, .out] s t' := by
  injection h' with h'
  subst h'
  exact writeBy_keeps_of s (by decide) (by decide) (fun u f o => (domCmdWrite_keeps u _).mono (by decide))

theorem execDomPolicyWrite_narrow {f : FuncId} {d : Fin 24} {v : Word} {s t' : State} (h' : execDomPolicyWrite f d v s = .next t') :
    Keeps [.regs, .evts, .faults, .host] s t' := by
  injection h' with h'
  subst h'
  refine barWrite_keeps_of s (.inl (bar0_page (by omega) (by decide))) (by decide) (fun u o => ?_)
  have hp : pageWrite u f o (regAt slotPwr (0x200 + 4 * d.val) / 0x1000) (regAt slotPwr (0x200 + 4 * d.val) % 0x1000) v = domPolicy u d.val v := by
    revert d
    intro d
    fin_cases d <;> rfl
  rw [hp]
  exact (domPolicy_keeps u d.val v).mono (by decide)

theorem execResume_narrow {r : Requester} {v : Word} {s t' : State} (h' : execResume r v s = .next t') :
    Keeps [.regs, .evts, .faults, .host, .power, .sharal, .out] s t' := by
  injection h' with h'
  subst h'
  exact writeBy_keeps_of s (by decide) (by decide) (fun u f o => (thermWrite_keeps u (v ||| 0x80000000)).mono (by decide))

theorem execCautionSet_narrow {r : Requester} {v : Word} {s t' : State} (h' : execCautionSet r v s = .next t') :
    Keeps [.regs, .evts, .faults, .host, .power, .sharal, .out] s t' := by
  injection h' with h'
  subst h'
  exact writeBy_keeps_of s (by decide) (by decide) (fun u f o => (thermWrite_keeps u v).mono (by decide))

theorem execResetCommand_narrow {r : Requester} {v : Word} {s t' : State} (h' : execResetCommand r v s = .next t') :
    Keeps [.regs, .evts, .faults, .mem, .cores, .drover, .herd, .paddock, .fabric, .host, .power, .resets, .sharal, .out, .free] s t' := by
  injection h' with h'
  subst h'
  exact writeBy_keeps_of s (by decide) (by decide) (fun u f o => (resetCmdWrite_keeps u (v ||| 0x80000000)).mono (by decide))

theorem execDumpArm_narrow {f : FuncId} {v : Word} {s t' : State} (h' : execDumpArm f v s = .next t') :
    Keeps [.regs, .evts, .faults, .soft, .host, .resets] s t' := by
  injection h' with h'
  subst h'
  exact barWrite_keeps_of s (.inl (by decide)) (by decide) (fun u o => (dumpCtrl_keeps u (v ||| 0x80000000)).mono (by decide))

theorem execAoClear_narrow {f : FuncId} {v : Word} {s t' : State} (h' : execAoClear f v s = .next t') :
    Keeps [.regs, .evts, .faults, .soft, .host, .resets] s t' := by
  injection h' with h'
  subst h'
  exact barWrite_keeps_of s (.inl (by decide)) (by decide) (fun u o => (dumpCtrl_keeps u (v ||| 0x40000000)).mono (by decide))

theorem execTraceStart_narrow {f : FuncId} {v : Word} {s t' : State} (h' : execTraceStart f v s = .next t') :
    Keeps [.regs, .evts, .faults, .mem, .cores, .drover, .herd, .paddock, .fabric, .host, .power, .sharal, .out, .free] s t' := by
  injection h' with h'
  subst h'
  exact barWrite_keeps_of s (.inl (by decide)) (by decide) (fun u o => (traceCtrl_keeps u (v ||| 0x80000000)).mono (by decide))

theorem execTraceStop_narrow {f : FuncId} {v : Word} {s t' : State} (h' : execTraceStop f v s = .next t') :
    Keeps [.regs, .evts, .faults, .mem, .cores, .drover, .herd, .paddock, .fabric, .host, .power, .sharal, .out, .free] s t' := by
  injection h' with h'
  subst h'
  exact barWrite_keeps_of s (.inl (by decide)) (by decide) (fun u o => (traceCtrl_keeps u (v ||| 0x40000000)).mono (by decide))

theorem execTraceCopy_narrow {f : FuncId} {v : Word} {s t' : State} (h' : execTraceCopy f v s = .next t') :
    Keeps [.regs, .evts, .faults, .mem, .cores, .drover, .herd, .paddock, .fabric, .host, .power, .sharal, .out, .free] s t' := by
  injection h' with h'
  subst h'
  exact barWrite_keeps_of s (.inl (by decide)) (by decide) (fun u o => (traceCtrl_keeps u (v ||| 0x20000000)).mono (by decide))

theorem execCounterStart_narrow {f : FuncId} {v : Word} {s t' : State} (h' : execCounterStart f v s = .next t') :
    Keeps [.regs, .evts, .host, .sharal] s t' := by
  injection h' with h'
  subst h'
  exact barWrite_keeps_of s (.inl (by decide)) (by decide) (fun u o => (counterCtrl_keeps u (v ||| 0x80000000)).mono (by decide))

theorem execCounterStop_narrow {f : FuncId} {v : Word} {s t' : State} (h' : execCounterStop f v s = .next t') :
    Keeps [.regs, .evts, .host, .sharal] s t' := by
  injection h' with h'
  subst h'
  exact barWrite_keeps_of s (.inl (by decide)) (by decide) (fun u o => (counterCtrl_keeps u (v ||| 0x40000000)).mono (by decide))

theorem execCounterClear_narrow {f : FuncId} {v : Word} {s t' : State} (h' : execCounterClear f v s = .next t') :
    Keeps [.regs, .evts, .host, .sharal] s t' := by
  injection h' with h'
  subst h'
  exact barWrite_keeps_of s (.inl (by decide)) (by decide) (fun u o => (counterCtrl_keeps u (v ||| 0x20000000)).mono (by decide))

theorem execTallyLoad_narrow {f : FuncId} {v : Word} {s t' : State} (h' : execTallyLoad f v s = .next t') :
    Keeps [.regs, .evts, .faults, .host, .power, .sharal] s t' := by
  injection h' with h'
  subst h'
  exact barWrite_keeps_of s (.inl (by decide)) (by decide) (fun u o => (tallyWrite_keeps u f.val 0x05C (v ||| 0x80000000)).mono (by decide))

theorem execTallyClear_narrow {f : FuncId} {v : Word} {s t' : State} (h' : execTallyClear f v s = .next t') :
    Keeps [.regs, .evts, .faults, .host, .power, .sharal] s t' := by
  injection h' with h'
  subst h'
  exact barWrite_keeps_of s (.inl (by decide)) (by decide) (fun u o => (tallyWrite_keeps u f.val 0x064 (v ||| 0x80000000)).mono (by decide))

end Sys2Proof.Machine
end

