-- ==== Sys2Proof/Laws/State.lean ====
section
/-! SUPPORT. The fields of State after each named update, by computation; and reading back what an update stores. -/

namespace Sys2Proof.Machine

/-! ### The fields after an update -/

@[simp] theorem State.mapMem_pending (s : State) (f : Memory → Memory) : (s.mapMem f).pending = s.pending := rfl
@[simp] theorem State.mapMem_now (s : State) (f : Memory → Memory) : (s.mapMem f).now = s.now := rfl
@[simp] theorem State.mapMem_regs (s : State) (f : Memory → Memory) : (s.mapMem f).regs = s.regs := rfl
@[simp] theorem State.mapMem_evts (s : State) (f : Memory → Memory) : (s.mapMem f).evts = s.evts := rfl
@[simp] theorem State.mapMem_faults (s : State) (f : Memory → Memory) : (s.mapMem f).faults = s.faults := rfl
@[simp] theorem State.mapMem_mem (s : State) (f : Memory → Memory) : (s.mapMem f).mem = f s.mem := rfl
@[simp] theorem State.mapMem_slots (s : State) (f : Memory → Memory) : (s.mapMem f).slots = s.slots := rfl
@[simp] theorem State.mapMem_soft (s : State) (f : Memory → Memory) : (s.mapMem f).soft = s.soft := rfl
@[simp] theorem State.mapMem_cores (s : State) (f : Memory → Memory) : (s.mapMem f).cores = s.cores := rfl
@[simp] theorem State.mapMem_drover (s : State) (f : Memory → Memory) : (s.mapMem f).drover = s.drover := rfl
@[simp] theorem State.mapMem_herd (s : State) (f : Memory → Memory) : (s.mapMem f).herd = s.herd := rfl
@[simp] theorem State.mapMem_paddock (s : State) (f : Memory → Memory) : (s.mapMem f).paddock = s.paddock := rfl
@[simp] theorem State.mapMem_fabric (s : State) (f : Memory → Memory) : (s.mapMem f).fabric = s.fabric := rfl
@[simp] theorem State.mapMem_host (s : State) (f : Memory → Memory) : (s.mapMem f).host = s.host := rfl
@[simp] theorem State.mapMem_power (s : State) (f : Memory → Memory) : (s.mapMem f).power = s.power := rfl
@[simp] theorem State.mapMem_resets (s : State) (f : Memory → Memory) : (s.mapMem f).resets = s.resets := rfl
@[simp] theorem State.mapMem_sharal (s : State) (f : Memory → Memory) : (s.mapMem f).sharal = s.sharal := rfl
@[simp] theorem State.mapMem_roles (s : State) (f : Memory → Memory) : (s.mapMem f).roles = s.roles := rfl
@[simp] theorem State.mapMem_out (s : State) (f : Memory → Memory) : (s.mapMem f).out = s.out := rfl
@[simp] theorem State.mapMem_free (s : State) (f : Memory → Memory) : (s.mapMem f).free = s.free := rfl

@[simp] theorem State.setCore_pending (s : State) (c : Nat) (k : Core) : (s.setCore c k).pending = s.pending := rfl
@[simp] theorem State.setCore_now (s : State) (c : Nat) (k : Core) : (s.setCore c k).now = s.now := rfl
@[simp] theorem State.setCore_regs (s : State) (c : Nat) (k : Core) : (s.setCore c k).regs = s.regs := rfl
@[simp] theorem State.setCore_evts (s : State) (c : Nat) (k : Core) : (s.setCore c k).evts = s.evts := rfl
@[simp] theorem State.setCore_faults (s : State) (c : Nat) (k : Core) : (s.setCore c k).faults = s.faults := rfl
@[simp] theorem State.setCore_mem (s : State) (c : Nat) (k : Core) : (s.setCore c k).mem = s.mem := rfl
@[simp] theorem State.setCore_slots (s : State) (c : Nat) (k : Core) : (s.setCore c k).slots = s.slots := rfl
@[simp] theorem State.setCore_soft (s : State) (c : Nat) (k : Core) : (s.setCore c k).soft = s.soft := rfl
@[simp] theorem State.setCore_cores (s : State) (c : Nat) (k : Core) : (s.setCore c k).cores = Tbl.set s.cores c k := rfl
@[simp] theorem State.setCore_drover (s : State) (c : Nat) (k : Core) : (s.setCore c k).drover = s.drover := rfl
@[simp] theorem State.setCore_herd (s : State) (c : Nat) (k : Core) : (s.setCore c k).herd = s.herd := rfl
@[simp] theorem State.setCore_paddock (s : State) (c : Nat) (k : Core) : (s.setCore c k).paddock = s.paddock := rfl
@[simp] theorem State.setCore_fabric (s : State) (c : Nat) (k : Core) : (s.setCore c k).fabric = s.fabric := rfl
@[simp] theorem State.setCore_host (s : State) (c : Nat) (k : Core) : (s.setCore c k).host = s.host := rfl
@[simp] theorem State.setCore_power (s : State) (c : Nat) (k : Core) : (s.setCore c k).power = s.power := rfl
@[simp] theorem State.setCore_resets (s : State) (c : Nat) (k : Core) : (s.setCore c k).resets = s.resets := rfl
@[simp] theorem State.setCore_sharal (s : State) (c : Nat) (k : Core) : (s.setCore c k).sharal = s.sharal := rfl
@[simp] theorem State.setCore_roles (s : State) (c : Nat) (k : Core) : (s.setCore c k).roles = s.roles := rfl
@[simp] theorem State.setCore_out (s : State) (c : Nat) (k : Core) : (s.setCore c k).out = s.out := rfl
@[simp] theorem State.setCore_free (s : State) (c : Nat) (k : Core) : (s.setCore c k).free = s.free := rfl

@[simp] theorem State.mapCore_pending (s : State) (c : Nat) (f : Core → Core) : (s.mapCore c f).pending = s.pending := rfl
@[simp] theorem State.mapCore_now (s : State) (c : Nat) (f : Core → Core) : (s.mapCore c f).now = s.now := rfl
@[simp] theorem State.mapCore_regs (s : State) (c : Nat) (f : Core → Core) : (s.mapCore c f).regs = s.regs := rfl
@[simp] theorem State.mapCore_evts (s : State) (c : Nat) (f : Core → Core) : (s.mapCore c f).evts = s.evts := rfl
@[simp] theorem State.mapCore_faults (s : State) (c : Nat) (f : Core → Core) : (s.mapCore c f).faults = s.faults := rfl
@[simp] theorem State.mapCore_mem (s : State) (c : Nat) (f : Core → Core) : (s.mapCore c f).mem = s.mem := rfl
@[simp] theorem State.mapCore_slots (s : State) (c : Nat) (f : Core → Core) : (s.mapCore c f).slots = s.slots := rfl
@[simp] theorem State.mapCore_soft (s : State) (c : Nat) (f : Core → Core) : (s.mapCore c f).soft = s.soft := rfl
@[simp] theorem State.mapCore_cores (s : State) (c : Nat) (f : Core → Core) : (s.mapCore c f).cores = Tbl.set s.cores c (f (s.core c)) := rfl
@[simp] theorem State.mapCore_drover (s : State) (c : Nat) (f : Core → Core) : (s.mapCore c f).drover = s.drover := rfl
@[simp] theorem State.mapCore_herd (s : State) (c : Nat) (f : Core → Core) : (s.mapCore c f).herd = s.herd := rfl
@[simp] theorem State.mapCore_paddock (s : State) (c : Nat) (f : Core → Core) : (s.mapCore c f).paddock = s.paddock := rfl
@[simp] theorem State.mapCore_fabric (s : State) (c : Nat) (f : Core → Core) : (s.mapCore c f).fabric = s.fabric := rfl
@[simp] theorem State.mapCore_host (s : State) (c : Nat) (f : Core → Core) : (s.mapCore c f).host = s.host := rfl
@[simp] theorem State.mapCore_power (s : State) (c : Nat) (f : Core → Core) : (s.mapCore c f).power = s.power := rfl
@[simp] theorem State.mapCore_resets (s : State) (c : Nat) (f : Core → Core) : (s.mapCore c f).resets = s.resets := rfl
@[simp] theorem State.mapCore_sharal (s : State) (c : Nat) (f : Core → Core) : (s.mapCore c f).sharal = s.sharal := rfl
@[simp] theorem State.mapCore_roles (s : State) (c : Nat) (f : Core → Core) : (s.mapCore c f).roles = s.roles := rfl
@[simp] theorem State.mapCore_out (s : State) (c : Nat) (f : Core → Core) : (s.mapCore c f).out = s.out := rfl
@[simp] theorem State.mapCore_free (s : State) (c : Nat) (f : Core → Core) : (s.mapCore c f).free = s.free := rfl

@[simp] theorem State.mapChan_pending (s : State) (c ch : Nat) (f : Chan → Chan) : (s.mapChan c ch f).pending = s.pending := rfl
@[simp] theorem State.mapChan_now (s : State) (c ch : Nat) (f : Chan → Chan) : (s.mapChan c ch f).now = s.now := rfl
@[simp] theorem State.mapChan_regs (s : State) (c ch : Nat) (f : Chan → Chan) : (s.mapChan c ch f).regs = s.regs := rfl
@[simp] theorem State.mapChan_evts (s : State) (c ch : Nat) (f : Chan → Chan) : (s.mapChan c ch f).evts = s.evts := rfl
@[simp] theorem State.mapChan_faults (s : State) (c ch : Nat) (f : Chan → Chan) : (s.mapChan c ch f).faults = s.faults := rfl
@[simp] theorem State.mapChan_mem (s : State) (c ch : Nat) (f : Chan → Chan) : (s.mapChan c ch f).mem = s.mem := rfl
@[simp] theorem State.mapChan_slots (s : State) (c ch : Nat) (f : Chan → Chan) : (s.mapChan c ch f).slots = s.slots := rfl
@[simp] theorem State.mapChan_soft (s : State) (c ch : Nat) (f : Chan → Chan) : (s.mapChan c ch f).soft = s.soft := rfl
@[simp] theorem State.mapChan_drover (s : State) (c ch : Nat) (f : Chan → Chan) : (s.mapChan c ch f).drover = s.drover := rfl
@[simp] theorem State.mapChan_herd (s : State) (c ch : Nat) (f : Chan → Chan) : (s.mapChan c ch f).herd = s.herd := rfl
@[simp] theorem State.mapChan_paddock (s : State) (c ch : Nat) (f : Chan → Chan) : (s.mapChan c ch f).paddock = s.paddock := rfl
@[simp] theorem State.mapChan_fabric (s : State) (c ch : Nat) (f : Chan → Chan) : (s.mapChan c ch f).fabric = s.fabric := rfl
@[simp] theorem State.mapChan_host (s : State) (c ch : Nat) (f : Chan → Chan) : (s.mapChan c ch f).host = s.host := rfl
@[simp] theorem State.mapChan_power (s : State) (c ch : Nat) (f : Chan → Chan) : (s.mapChan c ch f).power = s.power := rfl
@[simp] theorem State.mapChan_resets (s : State) (c ch : Nat) (f : Chan → Chan) : (s.mapChan c ch f).resets = s.resets := rfl
@[simp] theorem State.mapChan_sharal (s : State) (c ch : Nat) (f : Chan → Chan) : (s.mapChan c ch f).sharal = s.sharal := rfl
@[simp] theorem State.mapChan_roles (s : State) (c ch : Nat) (f : Chan → Chan) : (s.mapChan c ch f).roles = s.roles := rfl
@[simp] theorem State.mapChan_out (s : State) (c ch : Nat) (f : Chan → Chan) : (s.mapChan c ch f).out = s.out := rfl
@[simp] theorem State.mapChan_free (s : State) (c ch : Nat) (f : Chan → Chan) : (s.mapChan c ch f).free = s.free := rfl

@[simp] theorem setProg_pending (s : State) (c : Nat) (p : Prog) : (setProg s c p).pending = s.pending := rfl
@[simp] theorem setProg_now (s : State) (c : Nat) (p : Prog) : (setProg s c p).now = s.now := rfl
@[simp] theorem setProg_regs (s : State) (c : Nat) (p : Prog) : (setProg s c p).regs = s.regs := rfl
@[simp] theorem setProg_evts (s : State) (c : Nat) (p : Prog) : (setProg s c p).evts = s.evts := rfl
@[simp] theorem setProg_faults (s : State) (c : Nat) (p : Prog) : (setProg s c p).faults = s.faults := rfl
@[simp] theorem setProg_mem (s : State) (c : Nat) (p : Prog) : (setProg s c p).mem = s.mem := rfl
@[simp] theorem setProg_slots (s : State) (c : Nat) (p : Prog) : (setProg s c p).slots = s.slots := rfl
@[simp] theorem setProg_soft (s : State) (c : Nat) (p : Prog) : (setProg s c p).soft = s.soft := rfl
@[simp] theorem setProg_drover (s : State) (c : Nat) (p : Prog) : (setProg s c p).drover = s.drover := rfl
@[simp] theorem setProg_herd (s : State) (c : Nat) (p : Prog) : (setProg s c p).herd = s.herd := rfl
@[simp] theorem setProg_paddock (s : State) (c : Nat) (p : Prog) : (setProg s c p).paddock = s.paddock := rfl
@[simp] theorem setProg_fabric (s : State) (c : Nat) (p : Prog) : (setProg s c p).fabric = s.fabric := rfl
@[simp] theorem setProg_host (s : State) (c : Nat) (p : Prog) : (setProg s c p).host = s.host := rfl
@[simp] theorem setProg_power (s : State) (c : Nat) (p : Prog) : (setProg s c p).power = s.power := rfl
@[simp] theorem setProg_resets (s : State) (c : Nat) (p : Prog) : (setProg s c p).resets = s.resets := rfl
@[simp] theorem setProg_sharal (s : State) (c : Nat) (p : Prog) : (setProg s c p).sharal = s.sharal := rfl
@[simp] theorem setProg_roles (s : State) (c : Nat) (p : Prog) : (setProg s c p).roles = s.roles := rfl
@[simp] theorem setProg_out (s : State) (c : Nat) (p : Prog) : (setProg s c p).out = s.out := rfl
@[simp] theorem setProg_free (s : State) (c : Nat) (p : Prog) : (setProg s c p).free = s.free := rfl

@[simp] theorem State.wr_pending (s : State) (a : Nat) (v : Word) : (s.wr a v).pending = s.pending := rfl
@[simp] theorem State.wr_now (s : State) (a : Nat) (v : Word) : (s.wr a v).now = s.now := rfl
@[simp] theorem State.wr_regs (s : State) (a : Nat) (v : Word) : (s.wr a v).regs = Tbl.set s.regs a v := rfl
@[simp] theorem State.wr_evts (s : State) (a : Nat) (v : Word) : (s.wr a v).evts = s.evts := rfl
@[simp] theorem State.wr_faults (s : State) (a : Nat) (v : Word) : (s.wr a v).faults = s.faults := rfl
@[simp] theorem State.wr_mem (s : State) (a : Nat) (v : Word) : (s.wr a v).mem = s.mem := rfl
@[simp] theorem State.wr_slots (s : State) (a : Nat) (v : Word) : (s.wr a v).slots = s.slots := rfl
@[simp] theorem State.wr_soft (s : State) (a : Nat) (v : Word) : (s.wr a v).soft = s.soft := rfl
@[simp] theorem State.wr_cores (s : State) (a : Nat) (v : Word) : (s.wr a v).cores = s.cores := rfl
@[simp] theorem State.wr_drover (s : State) (a : Nat) (v : Word) : (s.wr a v).drover = s.drover := rfl
@[simp] theorem State.wr_herd (s : State) (a : Nat) (v : Word) : (s.wr a v).herd = s.herd := rfl
@[simp] theorem State.wr_paddock (s : State) (a : Nat) (v : Word) : (s.wr a v).paddock = s.paddock := rfl
@[simp] theorem State.wr_fabric (s : State) (a : Nat) (v : Word) : (s.wr a v).fabric = s.fabric := rfl
@[simp] theorem State.wr_host (s : State) (a : Nat) (v : Word) : (s.wr a v).host = s.host := rfl
@[simp] theorem State.wr_power (s : State) (a : Nat) (v : Word) : (s.wr a v).power = s.power := rfl
@[simp] theorem State.wr_resets (s : State) (a : Nat) (v : Word) : (s.wr a v).resets = s.resets := rfl
@[simp] theorem State.wr_sharal (s : State) (a : Nat) (v : Word) : (s.wr a v).sharal = s.sharal := rfl
@[simp] theorem State.wr_roles (s : State) (a : Nat) (v : Word) : (s.wr a v).roles = s.roles := rfl
@[simp] theorem State.wr_out (s : State) (a : Nat) (v : Word) : (s.wr a v).out = s.out := rfl
@[simp] theorem State.wr_free (s : State) (a : Nat) (v : Word) : (s.wr a v).free = s.free := rfl

@[simp] theorem State.setReg_pending (s : State) (slot off : Nat) (v : Word) : (s.setReg slot off v).pending = s.pending := rfl
@[simp] theorem State.setReg_now (s : State) (slot off : Nat) (v : Word) : (s.setReg slot off v).now = s.now := rfl
@[simp] theorem State.setReg_regs (s : State) (slot off : Nat) (v : Word) : (s.setReg slot off v).regs = Tbl.set s.regs (regAt slot off) v := rfl
@[simp] theorem State.setReg_evts (s : State) (slot off : Nat) (v : Word) : (s.setReg slot off v).evts = s.evts := rfl
@[simp] theorem State.setReg_faults (s : State) (slot off : Nat) (v : Word) : (s.setReg slot off v).faults = s.faults := rfl
@[simp] theorem State.setReg_mem (s : State) (slot off : Nat) (v : Word) : (s.setReg slot off v).mem = s.mem := rfl
@[simp] theorem State.setReg_slots (s : State) (slot off : Nat) (v : Word) : (s.setReg slot off v).slots = s.slots := rfl
@[simp] theorem State.setReg_soft (s : State) (slot off : Nat) (v : Word) : (s.setReg slot off v).soft = s.soft := rfl
@[simp] theorem State.setReg_cores (s : State) (slot off : Nat) (v : Word) : (s.setReg slot off v).cores = s.cores := rfl
@[simp] theorem State.setReg_drover (s : State) (slot off : Nat) (v : Word) : (s.setReg slot off v).drover = s.drover := rfl
@[simp] theorem State.setReg_herd (s : State) (slot off : Nat) (v : Word) : (s.setReg slot off v).herd = s.herd := rfl
@[simp] theorem State.setReg_paddock (s : State) (slot off : Nat) (v : Word) : (s.setReg slot off v).paddock = s.paddock := rfl
@[simp] theorem State.setReg_fabric (s : State) (slot off : Nat) (v : Word) : (s.setReg slot off v).fabric = s.fabric := rfl
@[simp] theorem State.setReg_host (s : State) (slot off : Nat) (v : Word) : (s.setReg slot off v).host = s.host := rfl
@[simp] theorem State.setReg_power (s : State) (slot off : Nat) (v : Word) : (s.setReg slot off v).power = s.power := rfl
@[simp] theorem State.setReg_resets (s : State) (slot off : Nat) (v : Word) : (s.setReg slot off v).resets = s.resets := rfl
@[simp] theorem State.setReg_sharal (s : State) (slot off : Nat) (v : Word) : (s.setReg slot off v).sharal = s.sharal := rfl
@[simp] theorem State.setReg_roles (s : State) (slot off : Nat) (v : Word) : (s.setReg slot off v).roles = s.roles := rfl
@[simp] theorem State.setReg_out (s : State) (slot off : Nat) (v : Word) : (s.setReg slot off v).out = s.out := rfl
@[simp] theorem State.setReg_free (s : State) (slot off : Nat) (v : Word) : (s.setReg slot off v).free = s.free := rfl

@[simp] theorem State.dropPage_pending (s : State) (slot : Nat) (keep : Nat → Bool) : (s.dropPage slot keep).pending = s.pending := rfl
@[simp] theorem State.dropPage_now (s : State) (slot : Nat) (keep : Nat → Bool) : (s.dropPage slot keep).now = s.now := rfl
@[simp] theorem State.dropPage_evts (s : State) (slot : Nat) (keep : Nat → Bool) : (s.dropPage slot keep).evts = s.evts := rfl
@[simp] theorem State.dropPage_faults (s : State) (slot : Nat) (keep : Nat → Bool) : (s.dropPage slot keep).faults = s.faults := rfl
@[simp] theorem State.dropPage_mem (s : State) (slot : Nat) (keep : Nat → Bool) : (s.dropPage slot keep).mem = s.mem := rfl
@[simp] theorem State.dropPage_slots (s : State) (slot : Nat) (keep : Nat → Bool) : (s.dropPage slot keep).slots = s.slots := rfl
@[simp] theorem State.dropPage_soft (s : State) (slot : Nat) (keep : Nat → Bool) : (s.dropPage slot keep).soft = s.soft := rfl
@[simp] theorem State.dropPage_cores (s : State) (slot : Nat) (keep : Nat → Bool) : (s.dropPage slot keep).cores = s.cores := rfl
@[simp] theorem State.dropPage_drover (s : State) (slot : Nat) (keep : Nat → Bool) : (s.dropPage slot keep).drover = s.drover := rfl
@[simp] theorem State.dropPage_herd (s : State) (slot : Nat) (keep : Nat → Bool) : (s.dropPage slot keep).herd = s.herd := rfl
@[simp] theorem State.dropPage_paddock (s : State) (slot : Nat) (keep : Nat → Bool) : (s.dropPage slot keep).paddock = s.paddock := rfl
@[simp] theorem State.dropPage_fabric (s : State) (slot : Nat) (keep : Nat → Bool) : (s.dropPage slot keep).fabric = s.fabric := rfl
@[simp] theorem State.dropPage_host (s : State) (slot : Nat) (keep : Nat → Bool) : (s.dropPage slot keep).host = s.host := rfl
@[simp] theorem State.dropPage_power (s : State) (slot : Nat) (keep : Nat → Bool) : (s.dropPage slot keep).power = s.power := rfl
@[simp] theorem State.dropPage_resets (s : State) (slot : Nat) (keep : Nat → Bool) : (s.dropPage slot keep).resets = s.resets := rfl
@[simp] theorem State.dropPage_sharal (s : State) (slot : Nat) (keep : Nat → Bool) : (s.dropPage slot keep).sharal = s.sharal := rfl
@[simp] theorem State.dropPage_roles (s : State) (slot : Nat) (keep : Nat → Bool) : (s.dropPage slot keep).roles = s.roles := rfl
@[simp] theorem State.dropPage_out (s : State) (slot : Nat) (keep : Nat → Bool) : (s.dropPage slot keep).out = s.out := rfl
@[simp] theorem State.dropPage_free (s : State) (slot : Nat) (keep : Nat → Bool) : (s.dropPage slot keep).free = s.free := rfl

@[simp] theorem State.setEvt_pending (s : State) (slot : Nat) (e : EvtState) : (s.setEvt slot e).pending = s.pending := rfl
@[simp] theorem State.setEvt_now (s : State) (slot : Nat) (e : EvtState) : (s.setEvt slot e).now = s.now := rfl
@[simp] theorem State.setEvt_regs (s : State) (slot : Nat) (e : EvtState) : (s.setEvt slot e).regs = s.regs := rfl
@[simp] theorem State.setEvt_evts (s : State) (slot : Nat) (e : EvtState) : (s.setEvt slot e).evts = Tbl.set s.evts slot e := rfl
@[simp] theorem State.setEvt_faults (s : State) (slot : Nat) (e : EvtState) : (s.setEvt slot e).faults = s.faults := rfl
@[simp] theorem State.setEvt_mem (s : State) (slot : Nat) (e : EvtState) : (s.setEvt slot e).mem = s.mem := rfl
@[simp] theorem State.setEvt_slots (s : State) (slot : Nat) (e : EvtState) : (s.setEvt slot e).slots = s.slots := rfl
@[simp] theorem State.setEvt_soft (s : State) (slot : Nat) (e : EvtState) : (s.setEvt slot e).soft = s.soft := rfl
@[simp] theorem State.setEvt_cores (s : State) (slot : Nat) (e : EvtState) : (s.setEvt slot e).cores = s.cores := rfl
@[simp] theorem State.setEvt_drover (s : State) (slot : Nat) (e : EvtState) : (s.setEvt slot e).drover = s.drover := rfl
@[simp] theorem State.setEvt_herd (s : State) (slot : Nat) (e : EvtState) : (s.setEvt slot e).herd = s.herd := rfl
@[simp] theorem State.setEvt_paddock (s : State) (slot : Nat) (e : EvtState) : (s.setEvt slot e).paddock = s.paddock := rfl
@[simp] theorem State.setEvt_fabric (s : State) (slot : Nat) (e : EvtState) : (s.setEvt slot e).fabric = s.fabric := rfl
@[simp] theorem State.setEvt_host (s : State) (slot : Nat) (e : EvtState) : (s.setEvt slot e).host = s.host := rfl
@[simp] theorem State.setEvt_power (s : State) (slot : Nat) (e : EvtState) : (s.setEvt slot e).power = s.power := rfl
@[simp] theorem State.setEvt_resets (s : State) (slot : Nat) (e : EvtState) : (s.setEvt slot e).resets = s.resets := rfl
@[simp] theorem State.setEvt_sharal (s : State) (slot : Nat) (e : EvtState) : (s.setEvt slot e).sharal = s.sharal := rfl
@[simp] theorem State.setEvt_roles (s : State) (slot : Nat) (e : EvtState) : (s.setEvt slot e).roles = s.roles := rfl
@[simp] theorem State.setEvt_out (s : State) (slot : Nat) (e : EvtState) : (s.setEvt slot e).out = s.out := rfl
@[simp] theorem State.setEvt_free (s : State) (slot : Nat) (e : EvtState) : (s.setEvt slot e).free = s.free := rfl

@[simp] theorem State.pulse_pending (s : State) (slot i : Nat) : (s.pulse slot i).pending = s.pending := rfl
@[simp] theorem State.pulse_now (s : State) (slot i : Nat) : (s.pulse slot i).now = s.now := rfl
@[simp] theorem State.pulse_regs (s : State) (slot i : Nat) : (s.pulse slot i).regs = s.regs := rfl
@[simp] theorem State.pulse_faults (s : State) (slot i : Nat) : (s.pulse slot i).faults = s.faults := rfl
@[simp] theorem State.pulse_mem (s : State) (slot i : Nat) : (s.pulse slot i).mem = s.mem := rfl
@[simp] theorem State.pulse_slots (s : State) (slot i : Nat) : (s.pulse slot i).slots = s.slots := rfl
@[simp] theorem State.pulse_soft (s : State) (slot i : Nat) : (s.pulse slot i).soft = s.soft := rfl
@[simp] theorem State.pulse_cores (s : State) (slot i : Nat) : (s.pulse slot i).cores = s.cores := rfl
@[simp] theorem State.pulse_drover (s : State) (slot i : Nat) : (s.pulse slot i).drover = s.drover := rfl
@[simp] theorem State.pulse_herd (s : State) (slot i : Nat) : (s.pulse slot i).herd = s.herd := rfl
@[simp] theorem State.pulse_paddock (s : State) (slot i : Nat) : (s.pulse slot i).paddock = s.paddock := rfl
@[simp] theorem State.pulse_fabric (s : State) (slot i : Nat) : (s.pulse slot i).fabric = s.fabric := rfl
@[simp] theorem State.pulse_host (s : State) (slot i : Nat) : (s.pulse slot i).host = s.host := rfl
@[simp] theorem State.pulse_power (s : State) (slot i : Nat) : (s.pulse slot i).power = s.power := rfl
@[simp] theorem State.pulse_resets (s : State) (slot i : Nat) : (s.pulse slot i).resets = s.resets := rfl
@[simp] theorem State.pulse_sharal (s : State) (slot i : Nat) : (s.pulse slot i).sharal = s.sharal := rfl
@[simp] theorem State.pulse_roles (s : State) (slot i : Nat) : (s.pulse slot i).roles = s.roles := rfl
@[simp] theorem State.pulse_out (s : State) (slot i : Nat) : (s.pulse slot i).out = s.out := rfl
@[simp] theorem State.pulse_free (s : State) (slot i : Nat) : (s.pulse slot i).free = s.free := rfl

@[simp] theorem State.emit_pending (s : State) (o : Out) : (s.emit o).pending = s.pending := rfl
@[simp] theorem State.emit_now (s : State) (o : Out) : (s.emit o).now = s.now := rfl
@[simp] theorem State.emit_regs (s : State) (o : Out) : (s.emit o).regs = s.regs := rfl
@[simp] theorem State.emit_evts (s : State) (o : Out) : (s.emit o).evts = s.evts := rfl
@[simp] theorem State.emit_faults (s : State) (o : Out) : (s.emit o).faults = s.faults := rfl
@[simp] theorem State.emit_mem (s : State) (o : Out) : (s.emit o).mem = s.mem := rfl
@[simp] theorem State.emit_slots (s : State) (o : Out) : (s.emit o).slots = s.slots := rfl
@[simp] theorem State.emit_soft (s : State) (o : Out) : (s.emit o).soft = s.soft := rfl
@[simp] theorem State.emit_cores (s : State) (o : Out) : (s.emit o).cores = s.cores := rfl
@[simp] theorem State.emit_drover (s : State) (o : Out) : (s.emit o).drover = s.drover := rfl
@[simp] theorem State.emit_herd (s : State) (o : Out) : (s.emit o).herd = s.herd := rfl
@[simp] theorem State.emit_paddock (s : State) (o : Out) : (s.emit o).paddock = s.paddock := rfl
@[simp] theorem State.emit_fabric (s : State) (o : Out) : (s.emit o).fabric = s.fabric := rfl
@[simp] theorem State.emit_host (s : State) (o : Out) : (s.emit o).host = s.host := rfl
@[simp] theorem State.emit_power (s : State) (o : Out) : (s.emit o).power = s.power := rfl
@[simp] theorem State.emit_resets (s : State) (o : Out) : (s.emit o).resets = s.resets := rfl
@[simp] theorem State.emit_sharal (s : State) (o : Out) : (s.emit o).sharal = s.sharal := rfl
@[simp] theorem State.emit_roles (s : State) (o : Out) : (s.emit o).roles = s.roles := rfl
@[simp] theorem State.emit_out (s : State) (o : Out) : (s.emit o).out = s.out ++ [o] := rfl
@[simp] theorem State.emit_free (s : State) (o : Out) : (s.emit o).free = s.free := rfl

@[simp] theorem State.draw_pending (s : State) (n : Nat) : (s.draw n).pending = s.pending := rfl
@[simp] theorem State.draw_now (s : State) (n : Nat) : (s.draw n).now = s.now := rfl
@[simp] theorem State.draw_regs (s : State) (n : Nat) : (s.draw n).regs = s.regs := rfl
@[simp] theorem State.draw_evts (s : State) (n : Nat) : (s.draw n).evts = s.evts := rfl
@[simp] theorem State.draw_faults (s : State) (n : Nat) : (s.draw n).faults = s.faults := rfl
@[simp] theorem State.draw_mem (s : State) (n : Nat) : (s.draw n).mem = s.mem := rfl
@[simp] theorem State.draw_slots (s : State) (n : Nat) : (s.draw n).slots = s.slots := rfl
@[simp] theorem State.draw_soft (s : State) (n : Nat) : (s.draw n).soft = s.soft := rfl
@[simp] theorem State.draw_cores (s : State) (n : Nat) : (s.draw n).cores = s.cores := rfl
@[simp] theorem State.draw_drover (s : State) (n : Nat) : (s.draw n).drover = s.drover := rfl
@[simp] theorem State.draw_herd (s : State) (n : Nat) : (s.draw n).herd = s.herd := rfl
@[simp] theorem State.draw_paddock (s : State) (n : Nat) : (s.draw n).paddock = s.paddock := rfl
@[simp] theorem State.draw_fabric (s : State) (n : Nat) : (s.draw n).fabric = s.fabric := rfl
@[simp] theorem State.draw_host (s : State) (n : Nat) : (s.draw n).host = s.host := rfl
@[simp] theorem State.draw_power (s : State) (n : Nat) : (s.draw n).power = s.power := rfl
@[simp] theorem State.draw_resets (s : State) (n : Nat) : (s.draw n).resets = s.resets := rfl
@[simp] theorem State.draw_sharal (s : State) (n : Nat) : (s.draw n).sharal = s.sharal := rfl
@[simp] theorem State.draw_roles (s : State) (n : Nat) : (s.draw n).roles = s.roles := rfl
@[simp] theorem State.draw_out (s : State) (n : Nat) : (s.draw n).out = s.out := rfl
@[simp] theorem State.draw_free (s : State) (n : Nat) : (s.draw n).free = s.free + n := rfl

@[simp] theorem State.mapPower_pending (s : State) (f : Power → Power) : (s.mapPower f).pending = s.pending := rfl
@[simp] theorem State.mapPower_now (s : State) (f : Power → Power) : (s.mapPower f).now = s.now := rfl
@[simp] theorem State.mapPower_regs (s : State) (f : Power → Power) : (s.mapPower f).regs = s.regs := rfl
@[simp] theorem State.mapPower_evts (s : State) (f : Power → Power) : (s.mapPower f).evts = s.evts := rfl
@[simp] theorem State.mapPower_faults (s : State) (f : Power → Power) : (s.mapPower f).faults = s.faults := rfl
@[simp] theorem State.mapPower_mem (s : State) (f : Power → Power) : (s.mapPower f).mem = s.mem := rfl
@[simp] theorem State.mapPower_slots (s : State) (f : Power → Power) : (s.mapPower f).slots = s.slots := rfl
@[simp] theorem State.mapPower_soft (s : State) (f : Power → Power) : (s.mapPower f).soft = s.soft := rfl
@[simp] theorem State.mapPower_cores (s : State) (f : Power → Power) : (s.mapPower f).cores = s.cores := rfl
@[simp] theorem State.mapPower_drover (s : State) (f : Power → Power) : (s.mapPower f).drover = s.drover := rfl
@[simp] theorem State.mapPower_herd (s : State) (f : Power → Power) : (s.mapPower f).herd = s.herd := rfl
@[simp] theorem State.mapPower_paddock (s : State) (f : Power → Power) : (s.mapPower f).paddock = s.paddock := rfl
@[simp] theorem State.mapPower_fabric (s : State) (f : Power → Power) : (s.mapPower f).fabric = s.fabric := rfl
@[simp] theorem State.mapPower_host (s : State) (f : Power → Power) : (s.mapPower f).host = s.host := rfl
@[simp] theorem State.mapPower_power (s : State) (f : Power → Power) : (s.mapPower f).power = f s.power := rfl
@[simp] theorem State.mapPower_resets (s : State) (f : Power → Power) : (s.mapPower f).resets = s.resets := rfl
@[simp] theorem State.mapPower_sharal (s : State) (f : Power → Power) : (s.mapPower f).sharal = s.sharal := rfl
@[simp] theorem State.mapPower_roles (s : State) (f : Power → Power) : (s.mapPower f).roles = s.roles := rfl
@[simp] theorem State.mapPower_out (s : State) (f : Power → Power) : (s.mapPower f).out = s.out := rfl
@[simp] theorem State.mapPower_free (s : State) (f : Power → Power) : (s.mapPower f).free = s.free := rfl

@[simp] theorem State.setDom_pending (s : State) (d : Nat) (v : Dom) : (s.setDom d v).pending = s.pending := rfl
@[simp] theorem State.setDom_now (s : State) (d : Nat) (v : Dom) : (s.setDom d v).now = s.now := rfl
@[simp] theorem State.setDom_regs (s : State) (d : Nat) (v : Dom) : (s.setDom d v).regs = s.regs := rfl
@[simp] theorem State.setDom_evts (s : State) (d : Nat) (v : Dom) : (s.setDom d v).evts = s.evts := rfl
@[simp] theorem State.setDom_faults (s : State) (d : Nat) (v : Dom) : (s.setDom d v).faults = s.faults := rfl
@[simp] theorem State.setDom_mem (s : State) (d : Nat) (v : Dom) : (s.setDom d v).mem = s.mem := rfl
@[simp] theorem State.setDom_slots (s : State) (d : Nat) (v : Dom) : (s.setDom d v).slots = s.slots := rfl
@[simp] theorem State.setDom_soft (s : State) (d : Nat) (v : Dom) : (s.setDom d v).soft = s.soft := rfl
@[simp] theorem State.setDom_cores (s : State) (d : Nat) (v : Dom) : (s.setDom d v).cores = s.cores := rfl
@[simp] theorem State.setDom_drover (s : State) (d : Nat) (v : Dom) : (s.setDom d v).drover = s.drover := rfl
@[simp] theorem State.setDom_herd (s : State) (d : Nat) (v : Dom) : (s.setDom d v).herd = s.herd := rfl
@[simp] theorem State.setDom_paddock (s : State) (d : Nat) (v : Dom) : (s.setDom d v).paddock = s.paddock := rfl
@[simp] theorem State.setDom_fabric (s : State) (d : Nat) (v : Dom) : (s.setDom d v).fabric = s.fabric := rfl
@[simp] theorem State.setDom_host (s : State) (d : Nat) (v : Dom) : (s.setDom d v).host = s.host := rfl
@[simp] theorem State.setDom_power (s : State) (d : Nat) (v : Dom) : (s.setDom d v).power = { s.power with doms := Tbl.set s.power.doms d v } := rfl
@[simp] theorem State.setDom_resets (s : State) (d : Nat) (v : Dom) : (s.setDom d v).resets = s.resets := rfl
@[simp] theorem State.setDom_sharal (s : State) (d : Nat) (v : Dom) : (s.setDom d v).sharal = s.sharal := rfl
@[simp] theorem State.setDom_roles (s : State) (d : Nat) (v : Dom) : (s.setDom d v).roles = s.roles := rfl
@[simp] theorem State.setDom_out (s : State) (d : Nat) (v : Dom) : (s.setDom d v).out = s.out := rfl
@[simp] theorem State.setDom_free (s : State) (d : Nat) (v : Dom) : (s.setDom d v).free = s.free := rfl

@[simp] theorem State.mapHost_pending (s : State) (f : HostPort → HostPort) : (s.mapHost f).pending = s.pending := rfl
@[simp] theorem State.mapHost_now (s : State) (f : HostPort → HostPort) : (s.mapHost f).now = s.now := rfl
@[simp] theorem State.mapHost_regs (s : State) (f : HostPort → HostPort) : (s.mapHost f).regs = s.regs := rfl
@[simp] theorem State.mapHost_evts (s : State) (f : HostPort → HostPort) : (s.mapHost f).evts = s.evts := rfl
@[simp] theorem State.mapHost_faults (s : State) (f : HostPort → HostPort) : (s.mapHost f).faults = s.faults := rfl
@[simp] theorem State.mapHost_mem (s : State) (f : HostPort → HostPort) : (s.mapHost f).mem = s.mem := rfl
@[simp] theorem State.mapHost_slots (s : State) (f : HostPort → HostPort) : (s.mapHost f).slots = s.slots := rfl
@[simp] theorem State.mapHost_soft (s : State) (f : HostPort → HostPort) : (s.mapHost f).soft = s.soft := rfl
@[simp] theorem State.mapHost_cores (s : State) (f : HostPort → HostPort) : (s.mapHost f).cores = s.cores := rfl
@[simp] theorem State.mapHost_drover (s : State) (f : HostPort → HostPort) : (s.mapHost f).drover = s.drover := rfl
@[simp] theorem State.mapHost_herd (s : State) (f : HostPort → HostPort) : (s.mapHost f).herd = s.herd := rfl
@[simp] theorem State.mapHost_paddock (s : State) (f : HostPort → HostPort) : (s.mapHost f).paddock = s.paddock := rfl
@[simp] theorem State.mapHost_fabric (s : State) (f : HostPort → HostPort) : (s.mapHost f).fabric = s.fabric := rfl
@[simp] theorem State.mapHost_host (s : State) (f : HostPort → HostPort) : (s.mapHost f).host = f s.host := rfl
@[simp] theorem State.mapHost_power (s : State) (f : HostPort → HostPort) : (s.mapHost f).power = s.power := rfl
@[simp] theorem State.mapHost_resets (s : State) (f : HostPort → HostPort) : (s.mapHost f).resets = s.resets := rfl
@[simp] theorem State.mapHost_sharal (s : State) (f : HostPort → HostPort) : (s.mapHost f).sharal = s.sharal := rfl
@[simp] theorem State.mapHost_roles (s : State) (f : HostPort → HostPort) : (s.mapHost f).roles = s.roles := rfl
@[simp] theorem State.mapHost_out (s : State) (f : HostPort → HostPort) : (s.mapHost f).out = s.out := rfl
@[simp] theorem State.mapHost_free (s : State) (f : HostPort → HostPort) : (s.mapHost f).free = s.free := rfl

@[simp] theorem State.setQueue_pending (s : State) (q : Nat) (v : HQueue) : (s.setQueue q v).pending = s.pending := rfl
@[simp] theorem State.setQueue_now (s : State) (q : Nat) (v : HQueue) : (s.setQueue q v).now = s.now := rfl
@[simp] theorem State.setQueue_regs (s : State) (q : Nat) (v : HQueue) : (s.setQueue q v).regs = s.regs := rfl
@[simp] theorem State.setQueue_evts (s : State) (q : Nat) (v : HQueue) : (s.setQueue q v).evts = s.evts := rfl
@[simp] theorem State.setQueue_faults (s : State) (q : Nat) (v : HQueue) : (s.setQueue q v).faults = s.faults := rfl
@[simp] theorem State.setQueue_mem (s : State) (q : Nat) (v : HQueue) : (s.setQueue q v).mem = s.mem := rfl
@[simp] theorem State.setQueue_slots (s : State) (q : Nat) (v : HQueue) : (s.setQueue q v).slots = s.slots := rfl
@[simp] theorem State.setQueue_soft (s : State) (q : Nat) (v : HQueue) : (s.setQueue q v).soft = s.soft := rfl
@[simp] theorem State.setQueue_cores (s : State) (q : Nat) (v : HQueue) : (s.setQueue q v).cores = s.cores := rfl
@[simp] theorem State.setQueue_drover (s : State) (q : Nat) (v : HQueue) : (s.setQueue q v).drover = s.drover := rfl
@[simp] theorem State.setQueue_herd (s : State) (q : Nat) (v : HQueue) : (s.setQueue q v).herd = s.herd := rfl
@[simp] theorem State.setQueue_paddock (s : State) (q : Nat) (v : HQueue) : (s.setQueue q v).paddock = s.paddock := rfl
@[simp] theorem State.setQueue_fabric (s : State) (q : Nat) (v : HQueue) : (s.setQueue q v).fabric = s.fabric := rfl
@[simp] theorem State.setQueue_host (s : State) (q : Nat) (v : HQueue) : (s.setQueue q v).host = { s.host with queues := Tbl.set s.host.queues q v } := rfl
@[simp] theorem State.setQueue_power (s : State) (q : Nat) (v : HQueue) : (s.setQueue q v).power = s.power := rfl
@[simp] theorem State.setQueue_resets (s : State) (q : Nat) (v : HQueue) : (s.setQueue q v).resets = s.resets := rfl
@[simp] theorem State.setQueue_sharal (s : State) (q : Nat) (v : HQueue) : (s.setQueue q v).sharal = s.sharal := rfl
@[simp] theorem State.setQueue_roles (s : State) (q : Nat) (v : HQueue) : (s.setQueue q v).roles = s.roles := rfl
@[simp] theorem State.setQueue_out (s : State) (q : Nat) (v : HQueue) : (s.setQueue q v).out = s.out := rfl
@[simp] theorem State.setQueue_free (s : State) (q : Nat) (v : HQueue) : (s.setQueue q v).free = s.free := rfl

@[simp] theorem State.setBanked_pending (s : State) (f off : Nat) (v : Word) : (s.setBank_ f off v).pending = s.pending := rfl
@[simp] theorem State.setBanked_now (s : State) (f off : Nat) (v : Word) : (s.setBank_ f off v).now = s.now := rfl
@[simp] theorem State.setBanked_regs (s : State) (f off : Nat) (v : Word) : (s.setBank_ f off v).regs = s.regs := rfl
@[simp] theorem State.setBanked_evts (s : State) (f off : Nat) (v : Word) : (s.setBank_ f off v).evts = s.evts := rfl
@[simp] theorem State.setBanked_faults (s : State) (f off : Nat) (v : Word) : (s.setBank_ f off v).faults = s.faults := rfl
@[simp] theorem State.setBanked_mem (s : State) (f off : Nat) (v : Word) : (s.setBank_ f off v).mem = s.mem := rfl
@[simp] theorem State.setBanked_slots (s : State) (f off : Nat) (v : Word) : (s.setBank_ f off v).slots = s.slots := rfl
@[simp] theorem State.setBanked_soft (s : State) (f off : Nat) (v : Word) : (s.setBank_ f off v).soft = s.soft := rfl
@[simp] theorem State.setBanked_cores (s : State) (f off : Nat) (v : Word) : (s.setBank_ f off v).cores = s.cores := rfl
@[simp] theorem State.setBanked_drover (s : State) (f off : Nat) (v : Word) : (s.setBank_ f off v).drover = s.drover := rfl
@[simp] theorem State.setBanked_herd (s : State) (f off : Nat) (v : Word) : (s.setBank_ f off v).herd = s.herd := rfl
@[simp] theorem State.setBanked_paddock (s : State) (f off : Nat) (v : Word) : (s.setBank_ f off v).paddock = s.paddock := rfl
@[simp] theorem State.setBanked_fabric (s : State) (f off : Nat) (v : Word) : (s.setBank_ f off v).fabric = s.fabric := rfl
@[simp] theorem State.setBanked_host (s : State) (f off : Nat) (v : Word) : (s.setBank_ f off v).host = { s.host with banked := Tbl.set s.host.banked (f * 0x100 + off) v } := rfl
@[simp] theorem State.setBanked_power (s : State) (f off : Nat) (v : Word) : (s.setBank_ f off v).power = s.power := rfl
@[simp] theorem State.setBanked_resets (s : State) (f off : Nat) (v : Word) : (s.setBank_ f off v).resets = s.resets := rfl
@[simp] theorem State.setBanked_sharal (s : State) (f off : Nat) (v : Word) : (s.setBank_ f off v).sharal = s.sharal := rfl
@[simp] theorem State.setBanked_roles (s : State) (f off : Nat) (v : Word) : (s.setBank_ f off v).roles = s.roles := rfl
@[simp] theorem State.setBanked_out (s : State) (f off : Nat) (v : Word) : (s.setBank_ f off v).out = s.out := rfl
@[simp] theorem State.setBanked_free (s : State) (f off : Nat) (v : Word) : (s.setBank_ f off v).free = s.free := rfl

@[simp] theorem setCtx_pending (s : State) (n : Nat) (x : Ctx) : (setCtx s n x).pending = s.pending := rfl
@[simp] theorem setCtx_now (s : State) (n : Nat) (x : Ctx) : (setCtx s n x).now = s.now := rfl
@[simp] theorem setCtx_regs (s : State) (n : Nat) (x : Ctx) : (setCtx s n x).regs = s.regs := rfl
@[simp] theorem setCtx_evts (s : State) (n : Nat) (x : Ctx) : (setCtx s n x).evts = s.evts := rfl
@[simp] theorem setCtx_faults (s : State) (n : Nat) (x : Ctx) : (setCtx s n x).faults = s.faults := rfl
@[simp] theorem setCtx_mem (s : State) (n : Nat) (x : Ctx) : (setCtx s n x).mem = s.mem := rfl
@[simp] theorem setCtx_slots (s : State) (n : Nat) (x : Ctx) : (setCtx s n x).slots = s.slots := rfl
@[simp] theorem setCtx_soft (s : State) (n : Nat) (x : Ctx) : (setCtx s n x).soft = s.soft := rfl
@[simp] theorem setCtx_cores (s : State) (n : Nat) (x : Ctx) : (setCtx s n x).cores = s.cores := rfl
@[simp] theorem setCtx_drover (s : State) (n : Nat) (x : Ctx) : (setCtx s n x).drover = s.drover := rfl
@[simp] theorem setCtx_herd (s : State) (n : Nat) (x : Ctx) : (setCtx s n x).herd = s.herd := rfl
@[simp] theorem setCtx_paddock (s : State) (n : Nat) (x : Ctx) : (setCtx s n x).paddock = s.paddock := rfl
@[simp] theorem setCtx_fabric (s : State) (n : Nat) (x : Ctx) : (setCtx s n x).fabric = s.fabric := rfl
@[simp] theorem setCtx_host (s : State) (n : Nat) (x : Ctx) : (setCtx s n x).host = { s.host with ctxs := Tbl.set s.host.ctxs n x } := rfl
@[simp] theorem setCtx_power (s : State) (n : Nat) (x : Ctx) : (setCtx s n x).power = s.power := rfl
@[simp] theorem setCtx_resets (s : State) (n : Nat) (x : Ctx) : (setCtx s n x).resets = s.resets := rfl
@[simp] theorem setCtx_sharal (s : State) (n : Nat) (x : Ctx) : (setCtx s n x).sharal = s.sharal := rfl
@[simp] theorem setCtx_roles (s : State) (n : Nat) (x : Ctx) : (setCtx s n x).roles = s.roles := rfl
@[simp] theorem setCtx_out (s : State) (n : Nat) (x : Ctx) : (setCtx s n x).out = s.out := rfl
@[simp] theorem setCtx_free (s : State) (n : Nat) (x : Ctx) : (setCtx s n x).free = s.free := rfl

@[simp] theorem State.mapDrover_pending (s : State) (f : Drover → Drover) : (s.mapDrover f).pending = s.pending := rfl
@[simp] theorem State.mapDrover_now (s : State) (f : Drover → Drover) : (s.mapDrover f).now = s.now := rfl
@[simp] theorem State.mapDrover_regs (s : State) (f : Drover → Drover) : (s.mapDrover f).regs = s.regs := rfl
@[simp] theorem State.mapDrover_evts (s : State) (f : Drover → Drover) : (s.mapDrover f).evts = s.evts := rfl
@[simp] theorem State.mapDrover_faults (s : State) (f : Drover → Drover) : (s.mapDrover f).faults = s.faults := rfl
@[simp] theorem State.mapDrover_mem (s : State) (f : Drover → Drover) : (s.mapDrover f).mem = s.mem := rfl
@[simp] theorem State.mapDrover_slots (s : State) (f : Drover → Drover) : (s.mapDrover f).slots = s.slots := rfl
@[simp] theorem State.mapDrover_soft (s : State) (f : Drover → Drover) : (s.mapDrover f).soft = s.soft := rfl
@[simp] theorem State.mapDrover_cores (s : State) (f : Drover → Drover) : (s.mapDrover f).cores = s.cores := rfl
@[simp] theorem State.mapDrover_drover (s : State) (f : Drover → Drover) : (s.mapDrover f).drover = f s.drover := rfl
@[simp] theorem State.mapDrover_herd (s : State) (f : Drover → Drover) : (s.mapDrover f).herd = s.herd := rfl
@[simp] theorem State.mapDrover_paddock (s : State) (f : Drover → Drover) : (s.mapDrover f).paddock = s.paddock := rfl
@[simp] theorem State.mapDrover_fabric (s : State) (f : Drover → Drover) : (s.mapDrover f).fabric = s.fabric := rfl
@[simp] theorem State.mapDrover_host (s : State) (f : Drover → Drover) : (s.mapDrover f).host = s.host := rfl
@[simp] theorem State.mapDrover_power (s : State) (f : Drover → Drover) : (s.mapDrover f).power = s.power := rfl
@[simp] theorem State.mapDrover_resets (s : State) (f : Drover → Drover) : (s.mapDrover f).resets = s.resets := rfl
@[simp] theorem State.mapDrover_sharal (s : State) (f : Drover → Drover) : (s.mapDrover f).sharal = s.sharal := rfl
@[simp] theorem State.mapDrover_roles (s : State) (f : Drover → Drover) : (s.mapDrover f).roles = s.roles := rfl
@[simp] theorem State.mapDrover_out (s : State) (f : Drover → Drover) : (s.mapDrover f).out = s.out := rfl
@[simp] theorem State.mapDrover_free (s : State) (f : Drover → Drover) : (s.mapDrover f).free = s.free := rfl

@[simp] theorem setTask_pending (s : State) (t : Nat) (v : Task) : (setTask s t v).pending = s.pending := rfl
@[simp] theorem setTask_now (s : State) (t : Nat) (v : Task) : (setTask s t v).now = s.now := rfl
@[simp] theorem setTask_regs (s : State) (t : Nat) (v : Task) : (setTask s t v).regs = s.regs := rfl
@[simp] theorem setTask_evts (s : State) (t : Nat) (v : Task) : (setTask s t v).evts = s.evts := rfl
@[simp] theorem setTask_faults (s : State) (t : Nat) (v : Task) : (setTask s t v).faults = s.faults := rfl
@[simp] theorem setTask_mem (s : State) (t : Nat) (v : Task) : (setTask s t v).mem = s.mem := rfl
@[simp] theorem setTask_slots (s : State) (t : Nat) (v : Task) : (setTask s t v).slots = s.slots := rfl
@[simp] theorem setTask_soft (s : State) (t : Nat) (v : Task) : (setTask s t v).soft = s.soft := rfl
@[simp] theorem setTask_cores (s : State) (t : Nat) (v : Task) : (setTask s t v).cores = s.cores := rfl
@[simp] theorem setTask_drover (s : State) (t : Nat) (v : Task) : (setTask s t v).drover = { s.drover with tasks := Tbl.set s.drover.tasks t v } := rfl
@[simp] theorem setTask_herd (s : State) (t : Nat) (v : Task) : (setTask s t v).herd = s.herd := rfl
@[simp] theorem setTask_paddock (s : State) (t : Nat) (v : Task) : (setTask s t v).paddock = s.paddock := rfl
@[simp] theorem setTask_fabric (s : State) (t : Nat) (v : Task) : (setTask s t v).fabric = s.fabric := rfl
@[simp] theorem setTask_host (s : State) (t : Nat) (v : Task) : (setTask s t v).host = s.host := rfl
@[simp] theorem setTask_power (s : State) (t : Nat) (v : Task) : (setTask s t v).power = s.power := rfl
@[simp] theorem setTask_resets (s : State) (t : Nat) (v : Task) : (setTask s t v).resets = s.resets := rfl
@[simp] theorem setTask_sharal (s : State) (t : Nat) (v : Task) : (setTask s t v).sharal = s.sharal := rfl
@[simp] theorem setTask_roles (s : State) (t : Nat) (v : Task) : (setTask s t v).roles = s.roles := rfl
@[simp] theorem setTask_out (s : State) (t : Nat) (v : Task) : (setTask s t v).out = s.out := rfl
@[simp] theorem setTask_free (s : State) (t : Nat) (v : Task) : (setTask s t v).free = s.free := rfl

@[simp] theorem popCmd_pending (s : State)  : (popCmd s).pending = s.pending := rfl
@[simp] theorem popCmd_now (s : State)  : (popCmd s).now = s.now := rfl
@[simp] theorem popCmd_regs (s : State)  : (popCmd s).regs = s.regs := rfl
@[simp] theorem popCmd_evts (s : State)  : (popCmd s).evts = s.evts := rfl
@[simp] theorem popCmd_faults (s : State)  : (popCmd s).faults = s.faults := rfl
@[simp] theorem popCmd_mem (s : State)  : (popCmd s).mem = s.mem := rfl
@[simp] theorem popCmd_slots (s : State)  : (popCmd s).slots = s.slots := rfl
@[simp] theorem popCmd_soft (s : State)  : (popCmd s).soft = s.soft := rfl
@[simp] theorem popCmd_cores (s : State)  : (popCmd s).cores = s.cores := rfl
@[simp] theorem popCmd_drover (s : State)  : (popCmd s).drover = { s.drover with cmds := s.drover.cmds.tail } := rfl
@[simp] theorem popCmd_herd (s : State)  : (popCmd s).herd = s.herd := rfl
@[simp] theorem popCmd_paddock (s : State)  : (popCmd s).paddock = s.paddock := rfl
@[simp] theorem popCmd_fabric (s : State)  : (popCmd s).fabric = s.fabric := rfl
@[simp] theorem popCmd_host (s : State)  : (popCmd s).host = s.host := rfl
@[simp] theorem popCmd_power (s : State)  : (popCmd s).power = s.power := rfl
@[simp] theorem popCmd_resets (s : State)  : (popCmd s).resets = s.resets := rfl
@[simp] theorem popCmd_sharal (s : State)  : (popCmd s).sharal = s.sharal := rfl
@[simp] theorem popCmd_roles (s : State)  : (popCmd s).roles = s.roles := rfl
@[simp] theorem popCmd_out (s : State)  : (popCmd s).out = s.out := rfl
@[simp] theorem popCmd_free (s : State)  : (popCmd s).free = s.free := rfl

@[simp] theorem State.mapFabric_pending (s : State) (f : Fabric → Fabric) : (s.mapFabric f).pending = s.pending := rfl
@[simp] theorem State.mapFabric_now (s : State) (f : Fabric → Fabric) : (s.mapFabric f).now = s.now := rfl
@[simp] theorem State.mapFabric_regs (s : State) (f : Fabric → Fabric) : (s.mapFabric f).regs = s.regs := rfl
@[simp] theorem State.mapFabric_evts (s : State) (f : Fabric → Fabric) : (s.mapFabric f).evts = s.evts := rfl
@[simp] theorem State.mapFabric_faults (s : State) (f : Fabric → Fabric) : (s.mapFabric f).faults = s.faults := rfl
@[simp] theorem State.mapFabric_mem (s : State) (f : Fabric → Fabric) : (s.mapFabric f).mem = s.mem := rfl
@[simp] theorem State.mapFabric_slots (s : State) (f : Fabric → Fabric) : (s.mapFabric f).slots = s.slots := rfl
@[simp] theorem State.mapFabric_soft (s : State) (f : Fabric → Fabric) : (s.mapFabric f).soft = s.soft := rfl
@[simp] theorem State.mapFabric_cores (s : State) (f : Fabric → Fabric) : (s.mapFabric f).cores = s.cores := rfl
@[simp] theorem State.mapFabric_drover (s : State) (f : Fabric → Fabric) : (s.mapFabric f).drover = s.drover := rfl
@[simp] theorem State.mapFabric_herd (s : State) (f : Fabric → Fabric) : (s.mapFabric f).herd = s.herd := rfl
@[simp] theorem State.mapFabric_paddock (s : State) (f : Fabric → Fabric) : (s.mapFabric f).paddock = s.paddock := rfl
@[simp] theorem State.mapFabric_fabric (s : State) (f : Fabric → Fabric) : (s.mapFabric f).fabric = f s.fabric := rfl
@[simp] theorem State.mapFabric_host (s : State) (f : Fabric → Fabric) : (s.mapFabric f).host = s.host := rfl
@[simp] theorem State.mapFabric_power (s : State) (f : Fabric → Fabric) : (s.mapFabric f).power = s.power := rfl
@[simp] theorem State.mapFabric_resets (s : State) (f : Fabric → Fabric) : (s.mapFabric f).resets = s.resets := rfl
@[simp] theorem State.mapFabric_sharal (s : State) (f : Fabric → Fabric) : (s.mapFabric f).sharal = s.sharal := rfl
@[simp] theorem State.mapFabric_roles (s : State) (f : Fabric → Fabric) : (s.mapFabric f).roles = s.roles := rfl
@[simp] theorem State.mapFabric_out (s : State) (f : Fabric → Fabric) : (s.mapFabric f).out = s.out := rfl
@[simp] theorem State.mapFabric_free (s : State) (f : Fabric → Fabric) : (s.mapFabric f).free = s.free := rfl

@[simp] theorem State.setPort_pending (s : State) (p : Nat) (v : Port) : (s.setPort p v).pending = s.pending := rfl
@[simp] theorem State.setPort_now (s : State) (p : Nat) (v : Port) : (s.setPort p v).now = s.now := rfl
@[simp] theorem State.setPort_regs (s : State) (p : Nat) (v : Port) : (s.setPort p v).regs = s.regs := rfl
@[simp] theorem State.setPort_evts (s : State) (p : Nat) (v : Port) : (s.setPort p v).evts = s.evts := rfl
@[simp] theorem State.setPort_faults (s : State) (p : Nat) (v : Port) : (s.setPort p v).faults = s.faults := rfl
@[simp] theorem State.setPort_mem (s : State) (p : Nat) (v : Port) : (s.setPort p v).mem = s.mem := rfl
@[simp] theorem State.setPort_slots (s : State) (p : Nat) (v : Port) : (s.setPort p v).slots = s.slots := rfl
@[simp] theorem State.setPort_soft (s : State) (p : Nat) (v : Port) : (s.setPort p v).soft = s.soft := rfl
@[simp] theorem State.setPort_cores (s : State) (p : Nat) (v : Port) : (s.setPort p v).cores = s.cores := rfl
@[simp] theorem State.setPort_drover (s : State) (p : Nat) (v : Port) : (s.setPort p v).drover = s.drover := rfl
@[simp] theorem State.setPort_herd (s : State) (p : Nat) (v : Port) : (s.setPort p v).herd = s.herd := rfl
@[simp] theorem State.setPort_paddock (s : State) (p : Nat) (v : Port) : (s.setPort p v).paddock = s.paddock := rfl
@[simp] theorem State.setPort_fabric (s : State) (p : Nat) (v : Port) : (s.setPort p v).fabric = { s.fabric with ports := Tbl.set s.fabric.ports p v } := rfl
@[simp] theorem State.setPort_host (s : State) (p : Nat) (v : Port) : (s.setPort p v).host = s.host := rfl
@[simp] theorem State.setPort_power (s : State) (p : Nat) (v : Port) : (s.setPort p v).power = s.power := rfl
@[simp] theorem State.setPort_resets (s : State) (p : Nat) (v : Port) : (s.setPort p v).resets = s.resets := rfl
@[simp] theorem State.setPort_sharal (s : State) (p : Nat) (v : Port) : (s.setPort p v).sharal = s.sharal := rfl
@[simp] theorem State.setPort_roles (s : State) (p : Nat) (v : Port) : (s.setPort p v).roles = s.roles := rfl
@[simp] theorem State.setPort_out (s : State) (p : Nat) (v : Port) : (s.setPort p v).out = s.out := rfl
@[simp] theorem State.setPort_free (s : State) (p : Nat) (v : Port) : (s.setPort p v).free = s.free := rfl

@[simp] theorem State.mapPaddock_pending (s : State) (f : Paddock → Paddock) : (s.mapPaddock f).pending = s.pending := rfl
@[simp] theorem State.mapPaddock_now (s : State) (f : Paddock → Paddock) : (s.mapPaddock f).now = s.now := rfl
@[simp] theorem State.mapPaddock_regs (s : State) (f : Paddock → Paddock) : (s.mapPaddock f).regs = s.regs := rfl
@[simp] theorem State.mapPaddock_evts (s : State) (f : Paddock → Paddock) : (s.mapPaddock f).evts = s.evts := rfl
@[simp] theorem State.mapPaddock_faults (s : State) (f : Paddock → Paddock) : (s.mapPaddock f).faults = s.faults := rfl
@[simp] theorem State.mapPaddock_mem (s : State) (f : Paddock → Paddock) : (s.mapPaddock f).mem = s.mem := rfl
@[simp] theorem State.mapPaddock_slots (s : State) (f : Paddock → Paddock) : (s.mapPaddock f).slots = s.slots := rfl
@[simp] theorem State.mapPaddock_soft (s : State) (f : Paddock → Paddock) : (s.mapPaddock f).soft = s.soft := rfl
@[simp] theorem State.mapPaddock_cores (s : State) (f : Paddock → Paddock) : (s.mapPaddock f).cores = s.cores := rfl
@[simp] theorem State.mapPaddock_drover (s : State) (f : Paddock → Paddock) : (s.mapPaddock f).drover = s.drover := rfl
@[simp] theorem State.mapPaddock_herd (s : State) (f : Paddock → Paddock) : (s.mapPaddock f).herd = s.herd := rfl
@[simp] theorem State.mapPaddock_paddock (s : State) (f : Paddock → Paddock) : (s.mapPaddock f).paddock = f s.paddock := rfl
@[simp] theorem State.mapPaddock_fabric (s : State) (f : Paddock → Paddock) : (s.mapPaddock f).fabric = s.fabric := rfl
@[simp] theorem State.mapPaddock_host (s : State) (f : Paddock → Paddock) : (s.mapPaddock f).host = s.host := rfl
@[simp] theorem State.mapPaddock_power (s : State) (f : Paddock → Paddock) : (s.mapPaddock f).power = s.power := rfl
@[simp] theorem State.mapPaddock_resets (s : State) (f : Paddock → Paddock) : (s.mapPaddock f).resets = s.resets := rfl
@[simp] theorem State.mapPaddock_sharal (s : State) (f : Paddock → Paddock) : (s.mapPaddock f).sharal = s.sharal := rfl
@[simp] theorem State.mapPaddock_roles (s : State) (f : Paddock → Paddock) : (s.mapPaddock f).roles = s.roles := rfl
@[simp] theorem State.mapPaddock_out (s : State) (f : Paddock → Paddock) : (s.mapPaddock f).out = s.out := rfl
@[simp] theorem State.mapPaddock_free (s : State) (f : Paddock → Paddock) : (s.mapPaddock f).free = s.free := rfl

@[simp] theorem State.setBank_pending (s : State) (b : Nat) (v : Bank) : (s.setBank b v).pending = s.pending := rfl
@[simp] theorem State.setBank_now (s : State) (b : Nat) (v : Bank) : (s.setBank b v).now = s.now := rfl
@[simp] theorem State.setBank_regs (s : State) (b : Nat) (v : Bank) : (s.setBank b v).regs = s.regs := rfl
@[simp] theorem State.setBank_evts (s : State) (b : Nat) (v : Bank) : (s.setBank b v).evts = s.evts := rfl
@[simp] theorem State.setBank_faults (s : State) (b : Nat) (v : Bank) : (s.setBank b v).faults = s.faults := rfl
@[simp] theorem State.setBank_mem (s : State) (b : Nat) (v : Bank) : (s.setBank b v).mem = s.mem := rfl
@[simp] theorem State.setBank_slots (s : State) (b : Nat) (v : Bank) : (s.setBank b v).slots = s.slots := rfl
@[simp] theorem State.setBank_soft (s : State) (b : Nat) (v : Bank) : (s.setBank b v).soft = s.soft := rfl
@[simp] theorem State.setBank_cores (s : State) (b : Nat) (v : Bank) : (s.setBank b v).cores = s.cores := rfl
@[simp] theorem State.setBank_drover (s : State) (b : Nat) (v : Bank) : (s.setBank b v).drover = s.drover := rfl
@[simp] theorem State.setBank_herd (s : State) (b : Nat) (v : Bank) : (s.setBank b v).herd = s.herd := rfl
@[simp] theorem State.setBank_paddock (s : State) (b : Nat) (v : Bank) : (s.setBank b v).paddock = { s.paddock with banks := Tbl.set s.paddock.banks b v } := rfl
@[simp] theorem State.setBank_fabric (s : State) (b : Nat) (v : Bank) : (s.setBank b v).fabric = s.fabric := rfl
@[simp] theorem State.setBank_host (s : State) (b : Nat) (v : Bank) : (s.setBank b v).host = s.host := rfl
@[simp] theorem State.setBank_power (s : State) (b : Nat) (v : Bank) : (s.setBank b v).power = s.power := rfl
@[simp] theorem State.setBank_resets (s : State) (b : Nat) (v : Bank) : (s.setBank b v).resets = s.resets := rfl
@[simp] theorem State.setBank_sharal (s : State) (b : Nat) (v : Bank) : (s.setBank b v).sharal = s.sharal := rfl
@[simp] theorem State.setBank_roles (s : State) (b : Nat) (v : Bank) : (s.setBank b v).roles = s.roles := rfl
@[simp] theorem State.setBank_out (s : State) (b : Nat) (v : Bank) : (s.setBank b v).out = s.out := rfl
@[simp] theorem State.setBank_free (s : State) (b : Nat) (v : Bank) : (s.setBank b v).free = s.free := rfl

@[simp] theorem State.mapSharal_pending (s : State) (f : Sharal → Sharal) : (s.mapSharal f).pending = s.pending := rfl
@[simp] theorem State.mapSharal_now (s : State) (f : Sharal → Sharal) : (s.mapSharal f).now = s.now := rfl
@[simp] theorem State.mapSharal_regs (s : State) (f : Sharal → Sharal) : (s.mapSharal f).regs = s.regs := rfl
@[simp] theorem State.mapSharal_evts (s : State) (f : Sharal → Sharal) : (s.mapSharal f).evts = s.evts := rfl
@[simp] theorem State.mapSharal_faults (s : State) (f : Sharal → Sharal) : (s.mapSharal f).faults = s.faults := rfl
@[simp] theorem State.mapSharal_mem (s : State) (f : Sharal → Sharal) : (s.mapSharal f).mem = s.mem := rfl
@[simp] theorem State.mapSharal_slots (s : State) (f : Sharal → Sharal) : (s.mapSharal f).slots = s.slots := rfl
@[simp] theorem State.mapSharal_soft (s : State) (f : Sharal → Sharal) : (s.mapSharal f).soft = s.soft := rfl
@[simp] theorem State.mapSharal_cores (s : State) (f : Sharal → Sharal) : (s.mapSharal f).cores = s.cores := rfl
@[simp] theorem State.mapSharal_drover (s : State) (f : Sharal → Sharal) : (s.mapSharal f).drover = s.drover := rfl
@[simp] theorem State.mapSharal_herd (s : State) (f : Sharal → Sharal) : (s.mapSharal f).herd = s.herd := rfl
@[simp] theorem State.mapSharal_paddock (s : State) (f : Sharal → Sharal) : (s.mapSharal f).paddock = s.paddock := rfl
@[simp] theorem State.mapSharal_fabric (s : State) (f : Sharal → Sharal) : (s.mapSharal f).fabric = s.fabric := rfl
@[simp] theorem State.mapSharal_host (s : State) (f : Sharal → Sharal) : (s.mapSharal f).host = s.host := rfl
@[simp] theorem State.mapSharal_power (s : State) (f : Sharal → Sharal) : (s.mapSharal f).power = s.power := rfl
@[simp] theorem State.mapSharal_resets (s : State) (f : Sharal → Sharal) : (s.mapSharal f).resets = s.resets := rfl
@[simp] theorem State.mapSharal_sharal (s : State) (f : Sharal → Sharal) : (s.mapSharal f).sharal = f s.sharal := rfl
@[simp] theorem State.mapSharal_roles (s : State) (f : Sharal → Sharal) : (s.mapSharal f).roles = s.roles := rfl
@[simp] theorem State.mapSharal_out (s : State) (f : Sharal → Sharal) : (s.mapSharal f).out = s.out := rfl
@[simp] theorem State.mapSharal_free (s : State) (f : Sharal → Sharal) : (s.mapSharal f).free = s.free := rfl

@[simp] theorem State.mapTally_pending (s : State) (f : Tally → Tally) : (s.mapTally f).pending = s.pending := rfl
@[simp] theorem State.mapTally_now (s : State) (f : Tally → Tally) : (s.mapTally f).now = s.now := rfl
@[simp] theorem State.mapTally_regs (s : State) (f : Tally → Tally) : (s.mapTally f).regs = s.regs := rfl
@[simp] theorem State.mapTally_evts (s : State) (f : Tally → Tally) : (s.mapTally f).evts = s.evts := rfl
@[simp] theorem State.mapTally_faults (s : State) (f : Tally → Tally) : (s.mapTally f).faults = s.faults := rfl
@[simp] theorem State.mapTally_mem (s : State) (f : Tally → Tally) : (s.mapTally f).mem = s.mem := rfl
@[simp] theorem State.mapTally_slots (s : State) (f : Tally → Tally) : (s.mapTally f).slots = s.slots := rfl
@[simp] theorem State.mapTally_soft (s : State) (f : Tally → Tally) : (s.mapTally f).soft = s.soft := rfl
@[simp] theorem State.mapTally_cores (s : State) (f : Tally → Tally) : (s.mapTally f).cores = s.cores := rfl
@[simp] theorem State.mapTally_drover (s : State) (f : Tally → Tally) : (s.mapTally f).drover = s.drover := rfl
@[simp] theorem State.mapTally_herd (s : State) (f : Tally → Tally) : (s.mapTally f).herd = s.herd := rfl
@[simp] theorem State.mapTally_paddock (s : State) (f : Tally → Tally) : (s.mapTally f).paddock = s.paddock := rfl
@[simp] theorem State.mapTally_fabric (s : State) (f : Tally → Tally) : (s.mapTally f).fabric = s.fabric := rfl
@[simp] theorem State.mapTally_host (s : State) (f : Tally → Tally) : (s.mapTally f).host = s.host := rfl
@[simp] theorem State.mapTally_power (s : State) (f : Tally → Tally) : (s.mapTally f).power = s.power := rfl
@[simp] theorem State.mapTally_resets (s : State) (f : Tally → Tally) : (s.mapTally f).resets = s.resets := rfl
@[simp] theorem State.mapTally_sharal (s : State) (f : Tally → Tally) : (s.mapTally f).sharal = { s.sharal with tally := f s.sharal.tally } := rfl
@[simp] theorem State.mapTally_roles (s : State) (f : Tally → Tally) : (s.mapTally f).roles = s.roles := rfl
@[simp] theorem State.mapTally_out (s : State) (f : Tally → Tally) : (s.mapTally f).out = s.out := rfl
@[simp] theorem State.mapTally_free (s : State) (f : Tally → Tally) : (s.mapTally f).free = s.free := rfl

@[simp] theorem mapResets_pending (s : State) (f : Resets → Resets) : (mapResets s f).pending = s.pending := rfl
@[simp] theorem mapResets_now (s : State) (f : Resets → Resets) : (mapResets s f).now = s.now := rfl
@[simp] theorem mapResets_regs (s : State) (f : Resets → Resets) : (mapResets s f).regs = s.regs := rfl
@[simp] theorem mapResets_evts (s : State) (f : Resets → Resets) : (mapResets s f).evts = s.evts := rfl
@[simp] theorem mapResets_faults (s : State) (f : Resets → Resets) : (mapResets s f).faults = s.faults := rfl
@[simp] theorem mapResets_mem (s : State) (f : Resets → Resets) : (mapResets s f).mem = s.mem := rfl
@[simp] theorem mapResets_slots (s : State) (f : Resets → Resets) : (mapResets s f).slots = s.slots := rfl
@[simp] theorem mapResets_soft (s : State) (f : Resets → Resets) : (mapResets s f).soft = s.soft := rfl
@[simp] theorem mapResets_cores (s : State) (f : Resets → Resets) : (mapResets s f).cores = s.cores := rfl
@[simp] theorem mapResets_drover (s : State) (f : Resets → Resets) : (mapResets s f).drover = s.drover := rfl
@[simp] theorem mapResets_herd (s : State) (f : Resets → Resets) : (mapResets s f).herd = s.herd := rfl
@[simp] theorem mapResets_paddock (s : State) (f : Resets → Resets) : (mapResets s f).paddock = s.paddock := rfl
@[simp] theorem mapResets_fabric (s : State) (f : Resets → Resets) : (mapResets s f).fabric = s.fabric := rfl
@[simp] theorem mapResets_host (s : State) (f : Resets → Resets) : (mapResets s f).host = s.host := rfl
@[simp] theorem mapResets_power (s : State) (f : Resets → Resets) : (mapResets s f).power = s.power := rfl
@[simp] theorem mapResets_resets (s : State) (f : Resets → Resets) : (mapResets s f).resets = f s.resets := rfl
@[simp] theorem mapResets_sharal (s : State) (f : Resets → Resets) : (mapResets s f).sharal = s.sharal := rfl
@[simp] theorem mapResets_roles (s : State) (f : Resets → Resets) : (mapResets s f).roles = s.roles := rfl
@[simp] theorem mapResets_out (s : State) (f : Resets → Resets) : (mapResets s f).out = s.out := rfl
@[simp] theorem mapResets_free (s : State) (f : Resets → Resets) : (mapResets s f).free = s.free := rfl

/-! ### Reading back -/

@[simp] theorem State.core_setCore_same (s : State) (c : Nat) (k : Core) : (s.setCore c k).core c = k :=
  Tbl.getD_set_same s.cores c k Core.idle

theorem State.core_setCore_other (s : State) {c d : Nat} (k : Core) (h : d ≠ c) : (s.setCore c k).core d = s.core d :=
  Tbl.getD_set_other s.cores k Core.idle h

@[simp] theorem State.core_mapCore_same (s : State) (c : Nat) (f : Core → Core) : (s.mapCore c f).core c = f (s.core c) :=
  Tbl.getD_set_same s.cores c _ Core.idle

theorem State.core_mapCore_other (s : State) {c d : Nat} (f : Core → Core) (h : d ≠ c) : (s.mapCore c f).core d = s.core d :=
  Tbl.getD_set_other s.cores _ Core.idle h

@[simp] theorem Core.chan_setChan_same (k : Core) (i : Nat) (h : Chan) : (k.setChan i h).chan i = h :=
  Tbl.getD_set_same k.chans i h Chan.idle

theorem Core.chan_setChan_other (k : Core) {i j : Nat} (h : Chan) (n : j ≠ i) : (k.setChan i h).chan j = k.chan j :=
  Tbl.getD_set_other k.chans h Chan.idle n

@[simp] theorem Core.slot_setSlot_same (k : Core) (i : Nat) (v : CbSlot) : (k.setSlot i v).slot i = v :=
  Tbl.getD_set_same k.slots i v CbSlot.empty

theorem Core.slot_setSlot_other (k : Core) {i j : Nat} (v : CbSlot) (n : j ≠ i) : (k.setSlot i v).slot j = k.slot j :=
  Tbl.getD_set_other k.slots v CbSlot.empty n

@[simp] theorem State.evt_setEvt_same (s : State) (p : Nat) (e : EvtState) : (s.setEvt p e).evt p = e :=
  Tbl.getD_set_same s.evts p e _

theorem State.evt_setEvt_other (s : State) {p q : Nat} (e : EvtState) (h : q ≠ p) : (s.setEvt p e).evt q = s.evt q :=
  Tbl.getD_set_other s.evts e _ h

@[simp] theorem State.dom_setDom_same (s : State) (d : Nat) (v : Dom) : (s.setDom d v).dom d = v :=
  Tbl.getD_set_same s.power.doms d v _

theorem State.dom_setDom_other (s : State) {d e : Nat} (v : Dom) (h : e ≠ d) : (s.setDom d v).dom e = s.dom e :=
  Tbl.getD_set_other s.power.doms v _ h

@[simp] theorem State.queue_setQueue_same (s : State) (q : Nat) (v : HQueue) : (s.setQueue q v).queue q = v :=
  Tbl.getD_set_same s.host.queues q v _

theorem State.queue_setQueue_other (s : State) {q r : Nat} (v : HQueue) (h : r ≠ q) : (s.setQueue q v).queue r = s.queue r :=
  Tbl.getD_set_other s.host.queues v _ h

@[simp] theorem State.port_setPort_same (s : State) (p : Nat) (v : Port) : (s.setPort p v).port p = v :=
  Tbl.getD_set_same s.fabric.ports p v _

theorem State.port_setPort_other (s : State) {p q : Nat} (v : Port) (h : q ≠ p) : (s.setPort p v).port q = s.port q :=
  Tbl.getD_set_other s.fabric.ports v _ h

@[simp] theorem State.bank_setBank_same (s : State) (b : Nat) (v : Bank) : (s.setBank b v).bank b = v :=
  Tbl.getD_set_same s.paddock.banks b v _

theorem State.bank_setBank_other (s : State) {b c : Nat} (v : Bank) (h : c ≠ b) : (s.setBank b v).bank c = s.bank c :=
  Tbl.getD_set_other s.paddock.banks v _ h

@[simp] theorem State.task_setTask_same (s : State) (t : Nat) (v : Task) : (setTask s t v).task t = some v :=
  Tbl.get_set_same s.drover.tasks t v

theorem State.task_setTask_other (s : State) {t u : Nat} (v : Task) (h : u ≠ t) : (setTask s t v).task u = s.task u :=
  Tbl.get_set_other s.drover.tasks v h

@[simp] theorem ctxAt_setCtx_same (s : State) (n : Nat) (x : Ctx) : ctxAt (setCtx s n x) n = x :=
  Tbl.getD_set_same s.host.ctxs n x _

theorem ctxAt_setCtx_other (s : State) {n m : Nat} (x : Ctx) (h : m ≠ n) : ctxAt (setCtx s n x) m = ctxAt s m :=
  Tbl.getD_set_other s.host.ctxs x _ h

@[simp] theorem State.rd_wr_same (s : State) (a : Nat) (v : Word) : (s.wr a v).rd a = v :=
  Tbl.getD_set_same s.regs a v _

theorem State.rd_wr_other (s : State) {a b : Nat} (v : Word) (h : b ≠ a) : (s.wr a v).rd b = s.rd b :=
  Tbl.getD_set_other s.regs v _ h

@[simp] theorem State.reg_setReg_same (s : State) (p o : Nat) (v : Word) : (s.setReg p o v).reg p o = v :=
  State.rd_wr_same s (regAt p o) v

theorem State.reg_setReg_other (s : State) {p o q n : Nat} (v : Word) (h : regAt q n ≠ regAt p o) :
    (s.setReg p o v).reg q n = s.reg q n :=
  State.rd_wr_other s v h

/-! ### Register addresses -/

/-- The page of a register. -/
theorem regAt_page (p : Nat) {o : Nat} (h : o < 0x1000) : regAt p o / 0x1000 = p := by
  unfold regAt
  omega

/-- Its offset in the page. -/
theorem regAt_offset (p : Nat) {o : Nat} (h : o < 0x1000) : regAt p o % 0x1000 = o := by
  unfold regAt
  omega

/-- Two registers are the same only where page and offset are. -/
theorem regAt_inj {p o q n : Nat} (ho : o < 0x1000) (hn : n < 0x1000) : regAt p o = regAt q n ↔ p = q ∧ o = n := by
  unfold regAt
  omega

end Sys2Proof.Machine
end

