-- ==== Sys2Proof/WellFormed.lean ====
section
/-! DEFINITION. When the operands of a command are what the interface can carry: the widths and
counts that the spec gives the transfers, samples and packets. -/

namespace Sys2Proof

/-- A BAR0 offset of a 64 MiB window (02_register_pages.md R34). -/
def barOffsetOk (off : Nat) : Bool := decide (off < 0x4000000)

/-- A register write that has a row of its own or falls to REGISTER_WRITE is a naturally aligned 32-bit
access (00_scope.md R9); an access of any other size or alignment is UNSUPPORTED_ACCESS. The 16 KiB of BAR4 follow BAR0 (log
entry 122). -/
def registerAccessOk (off : Nat) : Bool := decide (off < 0x4004000) && decide (off % 4 = 0)

/-- A page slot of BAR0 (16,384 of them). -/
def pageSlotOk (slot : Nat) : Bool := decide (slot < 16384)

/-- A BAR2 access lies in the 4 GiB window (13_host_sessions.md Table 13-2), and is not empty. -/
def bar2Ok (addr len : Nat) : Bool := decide (0 < len) && decide (addr + len ≤ 2 ^ 32)

/-- A codeword carries ten flits (12_ralso_fabric.md R313). -/
def codewordOk (w : Codeword) : Bool := decide (w.flits.length = 10)

/-- What the interface can carry. -/
def Instr.wf : Instr → Bool
  | .registerWrite _ a _ => registerAccessOk a
  | .unsupportedAccess _ a size _ => barOffsetOk a && decide (0 < size)
  | .evtLatchWrite _ slot _ => pageSlotOk slot
  | .faultRecordWrite slot => pageSlotOk slot
  | .parityReplay _ addr _ => decide (addr < 2 ^ 32)
  | .bar2Read _ addr len => bar2Ok addr len
  | .bar2Write _ addr data => bar2Ok addr data.bytes.length
  | .codewordReceive _ _ w => codewordOk w
  | .recoveryWrite _ data _ => decide (0 < data.length) && decide (data.length ≤ 128)
  | _ => true

end Sys2Proof
end

