-- ==== Sys2Proof/Tests/Slice0.lean ====
section
/-! SUPPORT. Own tests: for the hypotheses of every statement a state and operands that meet them, one theorem for
each clause of a statement; the spec's worked examples; and commands that the interface cannot carry. Expected
values of the examples are the spec's. -/

set_option linter.unusedVariables false
set_option Elab.async false

namespace Sys2Proof.Tests
open Sys2Proof Sys2Proof.Machine

/-- Reset with a session of key slot 0 open on function 0. -/
def stMgmt : State :=
  { State.reset with host := { HostPort.start with sessions := [(0, ⟨0, 7, 0, 0, false⟩)] } }

/-- `stMgmt` with queue 3 attached to session 0. -/
def stQueue : State := stMgmt.setQueue 3 { HQueue.idle with sess := some 0 }

/-! ### A task on core 0 -/

def clTile : Claim := ⟨0x10000000, 0, 0, 0⟩
/-- A codebook of tag 7 in the group at 0x600 of the near store. -/
def clBook : Claim := ⟨0x20000000, 7, 0, 0x600⟩
/-- A channel at the full rate in the core's near store. -/
def clChan (ch : Nat) : Claim := ⟨0x30000000 ||| w32 ch, 256, 0, 0⟩

def imageWith (kind : Nat) (cls : List Claim) : Image :=
  ⟨1, 5, 4096, 31, 0, [⟨kind, false, cls.length, 0, 0, 0, 0, 1, 1000, 0, 0, 0⟩], [], cls, [], [], 1000, .resident, 3, 0, 9⟩

/-- A running task of the kind, with the claims, in slot 0 of instance 1, with nothing on its core. -/
def stTask (kind : Nat) (cls : List Claim) : State :=
  { stQueue with
    now := 400
    drover := { Drover.start with
      images := [imageWith kind cls]
      insts := [⟨1, 1, 5, 0, 0, 3, 9, 10000, 0, [0], false⟩]
      tasks := [(0, ⟨1, 0, .running, 0, 0, 0, [], 0, 10000, false, [], []⟩)]
      instCtr := 2 } }

/-- The program of the task at its first instruction, not fetched yet. -/
def prog0 : Prog := ⟨0, 0, false, false, none⟩
/-- The same program with its first block verified. -/
def prog1 : Prog := ⟨0, 0, false, false, some 0⟩

/-- The words at the start of core 0's near store, the rest of the core as given. -/
def stProg (kind : Nat) (cls : List Claim) (ws : List Word) (k : Core) : State :=
  { stTask kind cls with
    mem := Memory.put ⟨[], [], []⟩ 0 (wordsBytes ws)
    cores := [(0, { k with prog := some prog0 })] }

/-- A channel that the task has armed over a linear walk of `n` elements from `base`. -/
def armed (fmt n base : Nat) (write : Bool) : Chan :=
  { Chan.idle with
    armed := true, primed := true, task := some 0, base := base, tokens := 256
    desc := { Desc.zero with format := fmt, write := write, lens := [n], strides := [1], base := base, rate := 256 } }

/-- A channel of activations with conversion. -/
def armedAct (n base : Nat) : Chan :=
  { armed 2 n base false with
    desc := { Desc.zero with format := 2, lens := [n], strides := [1], base := base, rate := 256, convEn := true } }

/-- Tile A held by the task, with an extent. -/
def tileHeld (e : Option Extent) : Tile := { Tile.empty with holder := some 0, extent := e }


/-- The state that an outcome goes on with. -/
def nextSt (o : Res) : State := match o with
  | .next s => s
  | _ => State.reset

/-! ### Accesses that reach their register -/

theorem reaches {s : State} {f : FuncId} {a : Nat} (h : (answers s f && !bar0Waits s f && a % 4 == 0
    && mayWrite s.fromHost f (a / 0x1000) (a % 0x1000) && decide (s.fromHost.dstate (a / 0x1000) < 2)) = true) :
    Reaches s f a := by
  simp only [Bool.and_eq_true, Bool.not_eq_true', beq_iff_eq, decide_eq_true_eq] at h
  exact ⟨⟨h.1.1.1.1, h.1.1.1.2⟩, h.1.1.2, h.1.2, h.2⟩

theorem reads {s : State} {f : FuncId} {a : Nat} (h : (answers s f && !bar0Waits s f && a % 4 == 0
    && mayRead s.fromHost f (a / 0x1000) (a % 0x1000)) = true) : ReadReaches s f a := by
  simp only [Bool.and_eq_true, Bool.not_eq_true', beq_iff_eq] at h
  exact ⟨⟨h.1.1.1, h.1.1.2⟩, h.1.2, h.2⟩

theorem arrives {s : State} {r : Requester} {a : Nat} (h : (match r with
    | .func f => answers s f && !bar0Waits s f && a % 4 == 0 && mayWrite s.fromHost f (a / 0x1000) (a % 0x1000)
        && decide (s.fromHost.dstate (a / 0x1000) < 2)
    | .smbus => s.power.aoOn && fwRunning s && bit (s.reg slotMgmt 0x240) 31 && extReach a && decide (s.dstate (a / 0x1000) < 2)
    | .fabric => fwRunning s && bit (s.reg slotMgmt 0x254) 31 && bit (s.reg slotMgmt 0x254) 30 && extReach a
        && decide (s.dstate (a / 0x1000) < 2)) = true) : Arrives s r a := by
  cases r with
  | func f => exact reaches h
  | smbus => simpa [Arrives, and_assoc] using h
  | fabric => simpa [Arrives, and_assoc] using h
end Sys2Proof.Tests

namespace Sys2Proof.Tests.Registers
open Sys2Proof Sys2Proof.Machine Sys2Proof.Tests

def stWait : State := stMgmt.mapHost (fun h => { h with bar2 := [{ func := 0, addr := 0x40, len := 4, data := some [1, 2, 3, 4], bar0 := false, ep := false, since := 0, done := 0, got := [] }] })
def sDz : State := {State.reset with pending := [.dieNetworkDoze]}

theorem test_StepOnEmptyQueueIsAFastCycle_2_met :
    ∃ (s : State), s.pending = [] ∧ s.power.aoOn = false :=
  ⟨State.reset.mapPower (fun p => {p with aoOn := false}), by decide +kernel⟩

theorem test_RegisterWriteStoresItsBits_1_met :
    ∃ (s : State) (f : FuncId) (off : ℕ), Reaches s f off :=
  ⟨stMgmt, 0, regAt slotMgmt 0x190, reaches (by decide +kernel)⟩

theorem test_RegisterWriteStoresItsBits_2_met :
    ∃ (s : State) (f : FuncId), answers s f = true ∧ bar0Waits s f = true :=
  ⟨stWait, 0, by decide +kernel⟩

theorem test_RegisterWriteStoresItsBits_3_met :
    ∃ (s : State) (f : FuncId) (slot : ℕ), Reaches s f (regAt slot 20) :=
  ⟨stMgmt, 0, slotMgmt, reaches (by decide +kernel)⟩

theorem test_RegisterWriteStoresItsBits_4_met :
    ∃ (s : State) (f : FuncId) (r : ℕ × ℕ × BitVec 32), r ∈ [(slotMgmt, 400, 4294963200#32), (slotMgmt, 404, 4294967295#32),
      (slotMgmt, 408, 4294966784#32), (slotMgmt, 576, 3221225487#32), (slotMgmt, 596, 3221225472#32), (slotMgmt, 792, 16383#32),
      (slotMgmt, 808, 4294963200#32), (slotRoute, 72, 16777215#32), (slotRoute, 76, 65535#32), (slotTally, 88, 4294967295#32),
      (slotHost, 256, 31#32), (slotHost, 516, 134153215#32), (slotHost, 2052, 134152447#32), (slotHost, 2080, 4294967295#32),
      (slotHost, 2108, 4294967295#32)] ∧ Reaches s f (regAt r.1 r.2.1) :=
  ⟨stMgmt, 0, (slotMgmt, 0x190, 0xFFFFF000#32), by decide +kernel, reaches (by decide +kernel)⟩

theorem test_RegisterWriteStoresItsBits_5_met :
    ∃ (s : State) (f : FuncId) (r : ℕ × ℕ × BitVec 32), r ∈ [(slotMgmt, 424, 2147500031#32), (slotMgmt, 800, 2147745791#32),
      (slotRoute, 80, 2147487743#32)] ∧ Reaches s f (regAt r.1 r.2.1) :=
  ⟨stMgmt, 0, (slotMgmt, 0x1A8, 0x80003FFF#32), by decide +kernel, reaches (by decide +kernel)⟩

theorem test_RegisterWriteStoresItsBits_6_met :
    ∃ (s : State) (f : FuncId) (q : QueueId), Reaches s f (regAt (slotQueue ↑q) 72) ∧ (s.fromHost.queue ↑q).enable = false ∧
      (s.fromHost.queue ↑q).draining = false :=
  ⟨stQueue, 0, 3, reaches (by decide +kernel), by decide +kernel⟩

theorem test_RegisterWriteStoresItsBits_7_met :
    ∃ (s : State) (f : FuncId) (q : QueueId), Reaches s f (regAt (slotQueue ↑q) 72) ∧ ((s.fromHost.queue ↑q).enable = true ∨
      (s.fromHost.queue ↑q).draining = true) :=
  ⟨stQueue.setQueue 3 { HQueue.idle with sess := some 0, enable := true }, 0, 3, reaches (by decide +kernel), by decide +kernel⟩

theorem test_RegisterWriteStoresItsBits_8_met :
    ∃ (s : State) (f : FuncId) (slot : ℕ) (off : ℕ), off ∈ [0, 4, 12, 16, 28, 32, 36, 40, 44, 48, 52, 56, 60] ∧ Reaches s f
      (regAt slot off) :=
  ⟨stMgmt, 0, slotMgmt, 0x03C, by decide +kernel, reaches (by decide +kernel)⟩

theorem test_RegisterWriteStoresItsBits_9_met :
    ∃ (s : State) (f : FuncId) (c : CoreId) (k : Fin 5) (off : ℕ), 64 ≤ off ∧ off < 2816 ∧ Reaches s f (regAt (8 * ↑c + ↑k) off) :=
  ⟨stMgmt, 0, 255, 4, 0x040, by decide +kernel, by decide +kernel, reaches (by decide +kernel)⟩

theorem test_RegisterWriteStoresItsBits_10_met :
    ∃ (s : State) (f : FuncId), answers s f = false :=
  ⟨stMgmt.setDom 25 ⟨.off, none, false, false, false, 0⟩, 0, by decide +kernel⟩

theorem test_UnsupportedAccessIsCounted_1_met :
    ∃ (s : State) (f : FuncId) (off : ℕ) (size : ℕ), Served s f ∧ inBar4 off = false ∧ (size ≠ 4 ∨ off % 4 ≠ 0 ∨ mayWrite s f
      (off / 4096) (off % 4096) = false ∨ 2 ≤ s.dstate (off / 4096)) :=
  ⟨State.reset, 0, 0x8C0002, 2, ⟨by decide +kernel, by decide +kernel⟩, by decide +kernel⟩

theorem test_UnsupportedAccessIsCounted_2_met :
    ∃ (s : State) (f : FuncId) (off : ℕ) (size : ℕ), Served s f ∧ inBar4 off = false ∧ (size ≠ 4 ∨ off % 4 ≠ 0 ∨ mayRead s f
      (off / 4096) (off % 4096) = false) :=
  ⟨State.reset, 0, 0x8C0002, 2, ⟨by decide +kernel, by decide +kernel⟩, by decide +kernel⟩

theorem test_UnsupportedAccessIsCounted_3_met :
    ∃ (s : State) (f : FuncId) (off : ℕ), Served s f ∧ inBar4 off = false ∧ (off % 4 ≠ 0 ∨ mayWrite s.fromHost f (off / 4096)
      (off % 4096) = false ∨ 2 ≤ s.fromHost.dstate (off / 4096)) :=
  ⟨State.reset, 0, 0x8C0100, ⟨by decide +kernel, by decide +kernel⟩, by decide +kernel⟩

theorem test_EvtLatchWriteClears_met :
    ∃ (s : State) (f : FuncId) (slot : ℕ), Reaches s f (regAt slot 24) :=
  ⟨stMgmt.setEvt slotMgmt ⟨3,0,0xF,1,false⟩, 0, slotMgmt, reaches (by decide +kernel)⟩

theorem test_FaultRecordWritten_1_met :
    ∃ (s : State) (slot : ℕ) (r : FaultRec) (rest : List FaultRec), (s.faultPage slot).queue = r :: rest ∧ ((s.faultPage
      slot).last = none ∨ ∃ (n : ℕ), (s.faultPage slot).last = some n ∧ n + 16 ≤ s.now) :=
  ⟨State.reset.fault slotMgmt {code := 4}, slotMgmt, {code := 4}, [], by decide +kernel⟩

theorem test_FaultRecordWritten_2_met :
    ∃ (s : State) (slot : ℕ) (n : ℕ), (s.faultPage slot).last = some n ∧ s.now < n + 16 :=
  ⟨{(State.reset.fault slotMgmt {code := 4}) with now := 15, faults := [(slotMgmt,⟨[{code := 4}],0,some 0⟩)]}, slotMgmt, 0,
    by decide +kernel⟩

theorem test_FaultRecordWritten_3_met :
    ∃ (s : State) (slot : ℕ), (s.faultPage slot).queue = [] :=
  ⟨State.reset, slotMgmt, by decide +kernel⟩

theorem test_RoleChangesQueue_1_met :
    ∃ (s : State) (r : Requester), Arrives s r (regAt slotMgmt 256) ∧ s.roles.length < 15 :=
  ⟨stMgmt, .func 0, arrives (by decide +kernel), by decide +kernel⟩

theorem test_RoleChangesQueue_2_met :
    ∃ (s : State) (r : Requester), Arrives s r (regAt slotMgmt 256) ∧ 15 ≤ s.roles.length :=
  ⟨{stMgmt with roles := List.replicate 15 2}, .func 0, arrives (by decide +kernel), by decide +kernel⟩

theorem test_RoleChangesQueue_3_met :
    ∃ (s : State) (n : BitVec 4) (rest : List (BitVec 4)), s.roles = n :: rest ∧ s.drover.insts = [] ∧ n.toNat < 5 :=
  ⟨{stMgmt with roles := [4, 1]}, 4, [1], by decide +kernel⟩

theorem test_RoleChangesQueue_4_met :
    ∃ (s : State) (n : BitVec 4) (rest : List (BitVec 4)), s.roles = n :: rest ∧ s.drover.insts = [] ∧ 5 ≤ n.toNat :=
  ⟨{stMgmt with roles := [5, 1]}, 5, [1], by decide +kernel⟩

theorem test_RoleChangesQueue_5_met :
    ∃ (s : State), (s.drover.insts ≠ [] ∨ s.roles = []) :=
  ⟨stMgmt, by decide +kernel⟩

theorem test_CommandsChangeOnlyTheirParts_met :
    ∃ (c : Instr) (s : State) (t : State), exec c s = Host.Outcome.next t :=
  ⟨.dieNetworkDoze, State.reset, nextSt (exec .dieNetworkDoze State.reset), rfl⟩

theorem test_StepKeepsSound_met :
    ∃ (s : State) (t : State), s.sound = true ∧ step s = Host.Outcome.next t :=
  ⟨sDz, nextSt (step sDz), by decide +kernel, rfl⟩

theorem test_StepOnEmptyQueueIsAFastCycle_1_met :
    ∃ (s : State), s.pending = [] ∧ s.power.aoOn = true :=
  ⟨State.reset, by decide +kernel⟩

theorem test_VirtualFunctionsAreContained_met :
    ∃ (s : State) (t : State) (f : FuncId) (off : ℕ) (v : Word), ↑f ≠ 0 ∧ exec (Instr.registerWrite f off v) s =
      Host.Outcome.next t :=
  ⟨stMgmt, nextSt (exec (.registerWrite 1 (regAt slotMgmt 0x194) 5) stMgmt), 1, regAt slotMgmt 0x194, 5, by decide +kernel, rfl⟩

end Sys2Proof.Tests.Registers

namespace Sys2Proof.Tests.Codebook
open Sys2Proof Sys2Proof.Machine Sys2Proof.Tests

def want0 : CbWant := ⟨1, 0, false, 7, 0⟩
def load0 : CbLoad := ⟨some 0, 1, 0x600, [want0], [], none, 0, []⟩
def lev : List Byte := (List.range 16).map (fun i => BitVec.ofNat 8 i)
def recW : List Byte := wordsBytes [7, 0, levelCheck lev, 0] ++ lev
def cls := [clTile, clBook, clChan 0, clChan 1]
def s1 : State := (stTask 1 cls).setCore 0 { Core.idle with loads := [load0] }
def s2 : State := (stTask 1 cls).setCore 0 { Core.idle with load := some { load0 with slot := some 3, start := 300 } }
def pin0 : PinE := ⟨0, 1, false, false, 0, 7, levelCheck lev, 0x600⟩
def im0 : Image := { imageWith 1 cls with pins := [pin0] }
def lp0 : CbLoad := ⟨none, 1, 0x600, [⟨0xFFFF, 0, false, 7, levelCheck lev⟩], [1029], none, 0, []⟩
def s3 : State := ((stTask 1 cls).setCore 0 { Core.idle with slots := [(2, {CbSlot.empty with books := [⟨1,false,7,levelCheck lev,[]⟩], failed := true, parity := true, pins := [1029], group := 0x600})] }).mapDrover (fun d => {d with images := [im0]})
def s4 : State := (stTask 1 cls).mapDrover (fun d => {d with images := [im0]})
def s5 : State := ((stTask 1 cls).setCore 0 { Core.idle with slots := [(2, {CbSlot.empty with books := [⟨1,false,7,levelCheck lev,lev⟩], pins := [2000]})] }).mapDrover (fun d => {d with images := [im0]})

theorem test_CodebookLoadFillsItsSlot_1_met :
    ∃ (s : State) (c : CoreId) (l : CbLoad) (tk : ℕ) (i : ℕ), s.coreRuns ↑c = true ∧ (s.core ↑c).load = none ∧ List.find? (fun (l
      : CbLoad) => l.task.isSome) (s.core ↑c).loads = some l ∧ l.task = some tk ∧ groupConflict (s.core ↑c) (taskTenant s tk)
      l.wants = none ∧ groupHit (s.core ↑c) (taskTenant s tk) l.wants = none ∧ chooseSlot (s.core ↑c) = some i :=
  ⟨s1, 0, load0, 0, 0, by decide +kernel⟩

theorem test_CodebookLoadFillsItsSlot_2_met :
    ∃ (s : State) (c : CoreId) (l : CbLoad) (i : ℕ) (rs : List Record), s.coreRuns ↑c = true ∧ (s.core ↑c).load = some l ∧
      l.slot = some i ∧ l.start + 48 ≤ s.now ∧ s.mem.verify (l.group / 512) = Verdict.good ∧ groupOfBlock (s.mem.block (l.group
      / 512)) = some rs ∧ (∀ r ∈ rs, levelCheck r.levels = r.check) ∧ (∀ w ∈ l.wants, ∃ (r : Record), rs[w.index]? = some r ∧
      r.tag = w.tag ∧ r.e256 = w.e256 ∧ (l.task = none → l.pins ≠ [] → r.check = w.check)) :=
  ⟨s2.mapMem (fun m => m.put 0x600 recW), 0, { load0 with slot := some 3, start := 300 }, 3, [⟨7,false,levelCheck lev,lev⟩],
    by decide +kernel⟩

theorem test_CodebookLoadFillsItsSlot_3_met :
    ∃ (s : State) (c : CoreId) (l : CbLoad), (s.core ↑c).load = some l ∧ s.now < l.start + 48 :=
  ⟨{s2 with now := 347}, 0, { load0 with slot := some 3, start := 300 }, by decide +kernel⟩

theorem test_CodebookLoadFillsItsSlot_4_met :
    ∃ (s : State) (c : CoreId) (l : CbLoad) (tk : ℕ) (i : ℕ) (x : Word), s.coreRuns ↑c = true ∧ (s.core ↑c).load = some l ∧
      l.slot = some i ∧ l.start + 48 ≤ s.now ∧ l.task = some tk ∧ l.pins = [] ∧ (s.mem.verify (l.group / 512) = Verdict.mismatch
      x) :=
  ⟨s2.mapMem (fun m => m.write 0x600 5), 0, { load0 with slot := some 3, start := 300 }, 0, 3, blockCheck ((s2.mem.write 0x600
    5).block 3), by decide +kernel⟩

theorem test_PinnedGroupsAreLoaded_1_met :
    ∃ (s : State) (c : CoreId) (l : CbLoad) (rest : List CbLoad) (i : ℕ), s.coreRuns ↑c = true ∧ (s.core ↑c).load = none ∧
      (s.core ↑c).loads = l :: rest ∧ (∀ m ∈ l :: rest, m.task = none) ∧ chooseSlot (s.core ↑c) = some i :=
  ⟨(stTask 1 cls).setCore 0 { Core.idle with loads := [lp0] }, 0, lp0, [], 0, by decide +kernel⟩

theorem test_PinnedGroupsAreLoaded_2_met :
    ∃ (s : State) (c : CoreId) (slot : Fin 16) (m : Image) (p : PinE) (rest : List (Image × PinE)), s.coreRuns ↑c = true ∧
      (s.core ↑c).load = none ∧ ((s.core ↑c).slot ↑slot).failed = true ∧ ((s.core ↑c).slot ↑slot).parity = true ∧ ((s.core
      ↑c).slot ↑slot).pins ≠ [] ∧ (pinsOf s c).filter (fun p => ((s.core c).slot slot).pinnedBy c p.1 p.2 && p.2.group c ==
      ((s.core c).slot slot).group) ++ (pinsOf s c).filter (fun p => ((s.core c).slot slot).pinnedBy c p.1 p.2) = (m, p) :: rest :=
  ⟨s3, 0, 2, im0, pin0, [(im0,pin0)], by decide +kernel⟩

theorem test_PinnedGroupsAreLoaded_3_met :
    ∃ (s : State) (c : CoreId) (m : Image) (p : PinE) (rest : List (Image × PinE)) (i : ℕ), s.coreRuns ↑c = true ∧ (s.core
      ↑c).load = none ∧ missingPins s ↑c = (m, p) :: rest ∧ reloadHit (s.core ↑c) m p = none ∧ chooseSlot (s.core ↑c) = some i :=
  ⟨s4, 0, im0, pin0, [], 0, by decide +kernel⟩

theorem test_PinnedGroupsAreLoaded_4_met :
    ∃ (s : State) (c : CoreId) (m : Image) (p : PinE) (rest : List (Image × PinE)) (i : ℕ), s.coreRuns ↑c = true ∧ (s.core
      ↑c).load = none ∧ missingPins s ↑c = (m, p) :: rest ∧ reloadHit (s.core ↑c) m p = some i :=
  ⟨s5, 0, im0, pin0, [], 2, by decide +kernel⟩

end Sys2Proof.Tests.Codebook

namespace Sys2Proof.Tests.Arrays
open Sys2Proof Sys2Proof.Machine Sys2Proof.Tests

def cls := [clTile, clBook, clChan 0, clChan 1]
def mmW0 (twin : Bool) : Word := 0x21000000 ||| fld 1 11 ||| flag twin 17
def mm (twin := false) : List Word := [mmW0 twin, 0x01010200, 4, 0]
def kA : Core := { Core.idle with tileA := tileHeld none, chans := [(0, armed 3 8 0x400 false), (1, armedAct 4 0x500)] }
def sA := stProg 1 cls mm kA
def fe (s : State) := setProg s 0 prog1
def k8 : Core := {kA with chans := [(0, armed 4 8 0x400 false), (1, armedAct 4 0x500)]}
def bk : Book := ⟨1,false,7,0,List.replicate 16 1⟩
def kt : Core := {kA with slots := [(2, {CbSlot.empty with books := [bk]})]}
def st : State := (stProg 1 cls (mm true) kt).mapDrover (fun d => {d with tasks := [(0, ⟨1, 0, .running, 0, 0, 0, [], 0, 10000, false, [(1, 32)], []⟩)]})
def tk1 (s : State) : State := s.mapDrover (fun d => {d with tasks := [(0, ⟨1, 0, .running, 0, 0, 0, [], 0, 10000, false, [(1, 32)], []⟩)]})
def q0 : QInst := ⟨mm,0,0,none,0⟩
def sqq : State := tk1 ((stTask 1 cls).setCore 0 {kt with arrQ := [q0]})
def m0 : MmRun := ⟨q0, 0, 300, ⟨0, 0, List.replicate 8 1, 0⟩, ⟨1, 0, [0x3F800000,0x40000000,0,0xBF800000], 0⟩⟩
def sr : State := tk1 ((stTask 1 cls).setCore 0 {kt with mm := some m0})
def m3 : MmRun := {m0 with a := ⟨1, 0, [0x3F800000,0x40000000,0x7F800000,0xBF800000], 0⟩}
def sr3 : State := tk1 ((stTask 1 cls).setCore 0 {kt with mm := some m3})

theorem test_MatmulIssues_1_met :
    ∃ (s : State) (u : State) (c : CoreId) (p : Prog) (ws : List Word), Issues s opMatmul (↑c) u p ws ∧ 4 ≤ (u.core
      ↑c).arrQ.length :=
  ⟨stProg 1 cls mm {kA with arrQ := List.replicate 4 ⟨mm,0,0,none,0⟩}, fe (stProg 1 cls mm {kA with arrQ := List.replicate 4 ⟨mm,0,0,none,0⟩}),
    0, prog1, mm, ⟨by decide +kernel, by decide +kernel, by decide +kernel⟩, by decide +kernel⟩

theorem test_MatmulIssues_2_met :
    ∃ (s : State) (u : State) (c : CoreId) (p : Prog) (ws : List Word), Issues s opMatmul (↑c) u p ws ∧ (u.core ↑c).arrQ.length
      < 4 ∧ ((u.core ↑c).tile (mmTile ws)).holder ≠ some p.task :=
  ⟨stProg 1 cls mm {kA with tileA := Tile.empty}, fe (stProg 1 cls mm {kA with tileA := Tile.empty}), 0, prog1, mm,
    ⟨by decide +kernel, by decide +kernel, by decide +kernel⟩, by decide +kernel⟩

theorem test_MatmulIssues_3_met :
    ∃ (s : State) (u : State) (c : CoreId) (p : Prog) (ws : List Word) (code : ℕ), Issues s opMatmul (↑c) u p ws ∧ (u.core
      ↑c).arrQ.length < 4 ∧ ((u.core ↑c).tile (mmTile ws)).holder = some p.task ∧ mmCode u (↑c) p.task ws = some code :=
  ⟨stProg 1 cls mm {kA with chans := []}, fe (stProg 1 cls mm {kA with chans := []}), 0, prog1, mm, 7, ⟨by decide +kernel,
    by decide +kernel, by decide +kernel⟩, by decide +kernel⟩

theorem test_MatmulIssues_4_met :
    ∃ (s : State) (u : State) (c : CoreId) (p : Prog) (ws : List Word) (cl : Claim), Issues s opMatmul (↑c) u p ws ∧ (u.core
      ↑c).arrQ.length < 4 ∧ ((u.core ↑c).tile (mmTile ws)).holder = some p.task ∧ mmCode u (↑c) p.task ws = none ∧ (taskClaims u
      p.task)[mmCb ws]? = some cl ∧ bit cl.w0 26 ≠ (((u.core ↑c).chan (mmW ws)).desc.format == 4) :=
  ⟨stProg 1 cls mm k8, fe (stProg 1 cls mm k8), 0, prog1, mm, clBook, ⟨by decide +kernel, by decide +kernel, by decide +kernel⟩,
    by decide +kernel⟩

theorem test_MatmulIssues_5_met :
    ∃ (s : State) (u : State) (c : CoreId) (p : Prog) (ws : List Word) (cl : Claim) (b : Book) (i : ℕ), Issues s opMatmul (↑c) u
      p ws ∧ (u.core ↑c).arrQ.length < 4 ∧ ((u.core ↑c).tile (mmTile ws)).holder = some p.task ∧ mmCode u (↑c) p.task ws = none
      ∧ (taskClaims u p.task)[mmCb ws]? = some cl ∧ bit cl.w0 26 = (((u.core ↑c).chan (mmW ws)).desc.format == 4) ∧ mmTwin ws =
      true ∧ claimBook u (↑c) p.task (mmCb ws) = some (b, i) ∧ twinBits (u.core ↑c) ws i ≠ 0 :=
  ⟨st, fe st, 0, prog1, mm true, clBook, bk, 2, ⟨by decide +kernel, by decide +kernel, by decide +kernel⟩, by decide +kernel⟩

theorem test_MatmulIssues_6_met :
    ∃ (s : State) (u : State) (c : CoreId) (p : Prog) (ws : List Word) (cl : Claim), Issues s opMatmul (↑c) u p ws ∧ (u.core
      ↑c).arrQ.length < 4 ∧ ((u.core ↑c).tile (mmTile ws)).holder = some p.task ∧ mmCode u (↑c) p.task ws = none ∧ (taskClaims u
      p.task)[mmCb ws]? = some cl ∧ bit cl.w0 26 = (((u.core ↑c).chan (mmW ws)).desc.format == 4) ∧ (mmTwin ws = false ∨ ∃ (b :
      Book) (i : ℕ), claimBook u (↑c) p.task (mmCb ws) = some (b, i) ∧ twinBits (u.core ↑c) ws i = 0) :=
  ⟨sA, fe sA, 0, prog1, mm, clBook, ⟨by decide +kernel, by decide +kernel, by decide +kernel⟩, by decide +kernel,
    by decide +kernel, by decide +kernel, by decide +kernel, by decide +kernel, .inl (by decide +kernel)⟩

theorem test_MatmulRuns_1_met :
    ∃ (s : State) (c : CoreId) (q : QInst) (rest : List QInst), s.coreRuns ↑c = true ∧ (s.core ↑c).mm = none ∧ (s.core ↑c).arrQ
      = q :: rest ∧ (claimBook s (↑c) q.task (mmCb q.words)).isSome = true ∧ ((s.core ↑c).chan (mmW q.words)).primed = true ∧
      ((s.core ↑c).chan (mmA q.words)).primed = true ∧ aborting s q.task = false :=
  ⟨sqq, 0, q0, [], by decide +kernel⟩

theorem test_MatmulRuns_2_met :
    ∃ (s : State) (u : State) (c : CoreId) (m : MmRun) (book : Book) (i : ℕ), s.coreRuns ↑c = true ∧ u = pull s ↑c ∧ (u.core
      ↑c).mm = some m ∧ m.w.need = 0 ∧ m.a.need = 0 ∧ aborting u m.inst.task = false ∧ badElem (stepBlocks (u.core ↑c) m) = none
      ∧ claimBook u (↑c) m.inst.task (mmCb m.inst.words) = some (book, i) ∧ (m.step = 0 → tileFree u (↑c) m.inst = true) ∧ m.at_
      + (stepTime m.inst.words (mmG (u.core ↑c) m.inst.words) (mmSpan m.inst.words (mmG (u.core ↑c) m.inst.words) m.step) 2
      book.e256 (weightRate (u.core ↑c) (↑c) ((u.core ↑c).chan (mmW m.inst.words)) (chanNib u (u.core ↑c) ((u.core ↑c).chan (mmW
      m.inst.words)) (((u.core ↑c).chan (mmW m.inst.words)).done - 1) / 2))).1 ≤ u.now :=
  ⟨sr, pull sr 0, 0, m0, bk, 2, by decide +kernel, rfl, by decide +kernel⟩

theorem test_MatmulRuns_3_met :
    ∃ (s : State) (u : State) (c : CoreId) (m : MmRun) (pos : ℕ) (i : ℕ), s.coreRuns ↑c = true ∧ u = pull s ↑c ∧ (u.core ↑c).mm
      = some m ∧ m.w.need = 0 ∧ m.a.need = 0 ∧ aborting u m.inst.task = false ∧ badElem (stepBlocks (u.core ↑c) m) = some (pos,
      i) :=
  ⟨sr3, pull sr3 0, 0, m3, 0, 2, by decide +kernel, rfl, by decide +kernel⟩

theorem test_MatmulRuns_4_met :
    ∃ (s : State) (c : CoreId) (m : MmRun) (rest : List MmRun), s.coreRuns ↑c = true ∧ (s.core ↑c).fins = m :: rest ∧ aborting s
      m.inst.task = false :=
  ⟨tk1 ((stTask 1 cls).setCore 0 {kt with fins := [{m0 with at_ := 392}]}), 0, {m0 with at_ := 392}, [], by decide +kernel⟩

theorem test_StepAddsEachGroupOnce_1_met :
    ∃ (e : Extent) (bs : List (ℕ × ℕ × Block)), (List.map (fun (b : ℕ × ℕ × Block) => e.row b.2.1 b.1) bs).Nodup ∧ e.cols ≤ 64 :=
  ⟨⟨false,1,2,3⟩, [(0,0,⟨[1,2,3,4],3,0,0,false,false,false⟩),(1,0,⟨[1,-2,3,4],3,0,0,false,false,false⟩)], by decide +kernel⟩

theorem test_StepAddsEachGroupOnce_2_met :
    ∃ (e : Extent) (bs : List (ℕ × ℕ × Block)), (List.map (fun (b : ℕ × ℕ × Block) => e.row b.2.1 b.1) bs).Nodup ∧ e.cols ≤ 64 :=
  ⟨⟨false,1,2,3⟩, [(0,0,⟨[1,2,3,4],3,0,0,false,false,false⟩),(1,0,⟨[1,-2,3,4],3,0,0,false,false,false⟩)], by decide +kernel⟩

end Sys2Proof.Tests.Arrays

namespace Sys2Proof.Tests.Drains
open Sys2Proof Sys2Proof.Machine Sys2Proof.Tests

def cls := [clTile, clBook, clChan 0, clChan 1, clChan 2]
def ext0 : Extent := ⟨false, 1, 1, 2⟩
def k0 : Core := { Core.idle with tileA := { tileHeld (some ext0) with elems := [(0, W64.ofGroup 5 150), (1, W64.ofGroup (-3) 150)] }, chans := [(0, armed 1 2 0x400 true), (1, armed 0 24 0x800 true), (2, armed 0 24 0x800 false)] }
def drn : List Word := [0x22000000, 0, 0, 0]
def sto : List Word := [0x23000000 ||| fld 1 14, 0, 0, 0]
def ldi : List Word := [0x24000000 ||| fld 2 14, 0x00010200, 3, 0]
def add_ : List Word := [0x25000000 ||| fld 2 14, 0, 3, 0]
def fe (s : State) := setProg s 0 prog1
def q0 : QInst := ⟨drn, 0, 0, some ext0, 0⟩
def kf : Core := {k0 with drQ := List.replicate 4 q0}
def kn : Core := {k0 with tileA := {k0.tileA with holder := some 9}}
def ke : Core := {k0 with tileA := tileHeld none}
def sk (k : Core) : State := (stTask 1 cls).setCore 0 k
def d0 : DrRun := ⟨q0, 380, 400, 400, false, none, 2, []⟩
def qs (w : List Word) : QInst := ⟨w, 0, 0, some ext0, 0⟩
def ds : DrRun := {d0 with inst := qs sto}
def fd : Feed := ⟨2, 0, (List.range 24).map (fun i => w32 (i+1)), 0⟩
def dl : DrRun := {d0 with inst := qs ldi, feed := some fd}
def da : DrRun := {d0 with inst := qs add_, feed := some fd}

theorem test_DrainUnitIssues_1_met :
    (∃ (s : State) (u : State) (c : CoreId) (p : Prog) (ws : List Word), 4 ≤ (u.core ↑c).drQ.length ∧ Issues s opDrain (↑c) u p
      ws) ∧
    (∃ (s : State) (u : State) (c : CoreId) (p : Prog) (ws : List Word), 4 ≤ (u.core ↑c).drQ.length ∧ Issues s opTileStore (↑c)
      u p ws) ∧
    (∃ (s : State) (u : State) (c : CoreId) (p : Prog) (ws : List Word), 4 ≤ (u.core ↑c).drQ.length ∧ Issues s opTileLoad (↑c) u
      p ws) ∧
    (∃ (s : State) (u : State) (c : CoreId) (p : Prog) (ws : List Word), 4 ≤ (u.core ↑c).drQ.length ∧ Issues s opTileAdd (↑c) u
      p ws) :=
  ⟨⟨stProg 1 cls drn kf, fe (stProg 1 cls drn kf), 0, prog1, drn, by decide +kernel, ⟨by decide +kernel, by decide +kernel,
     by decide +kernel⟩⟩,
   ⟨stProg 1 cls sto kf, fe (stProg 1 cls sto kf), 0, prog1, sto, by decide +kernel, ⟨by decide +kernel, by decide +kernel,
     by decide +kernel⟩⟩,
   ⟨stProg 1 cls ldi kf, fe (stProg 1 cls ldi kf), 0, prog1, ldi, by decide +kernel, ⟨by decide +kernel, by decide +kernel,
     by decide +kernel⟩⟩,
   ⟨stProg 1 cls add_ kf, fe (stProg 1 cls add_ kf), 0, prog1, add_, by decide +kernel, ⟨by decide +kernel, by decide +kernel,
     by decide +kernel⟩⟩⟩

theorem test_DrainUnitIssues_2_met :
    (∃ (s : State) (u : State) (c : CoreId) (p : Prog) (ws : List Word), (u.core ↑c).drQ.length < 4 ∧ ((u.core ↑c).tile (bit (wd
      ws 0) 23)).holder ≠ some p.task ∧ Issues s opDrain (↑c) u p ws) ∧
    (∃ (s : State) (u : State) (c : CoreId) (p : Prog) (ws : List Word), (u.core ↑c).drQ.length < 4 ∧ ((u.core ↑c).tile (bit (wd
      ws 0) 23)).holder ≠ some p.task ∧ Issues s opTileStore (↑c) u p ws) ∧
    (∃ (s : State) (u : State) (c : CoreId) (p : Prog) (ws : List Word), (u.core ↑c).drQ.length < 4 ∧ ((u.core ↑c).tile (bit (wd
      ws 0) 23)).holder ≠ some p.task ∧ Issues s opTileLoad (↑c) u p ws) ∧
    (∃ (s : State) (u : State) (c : CoreId) (p : Prog) (ws : List Word), (u.core ↑c).drQ.length < 4 ∧ ((u.core ↑c).tile (bit (wd
      ws 0) 23)).holder ≠ some p.task ∧ Issues s opTileAdd (↑c) u p ws) :=
  ⟨⟨stProg 1 cls drn kn, fe (stProg 1 cls drn kn), 0, prog1, drn, by decide +kernel, by decide +kernel, ⟨by decide +kernel,
     by decide +kernel, by decide +kernel⟩⟩,
   ⟨stProg 1 cls sto kn, fe (stProg 1 cls sto kn), 0, prog1, sto, by decide +kernel, by decide +kernel, ⟨by decide +kernel,
     by decide +kernel, by decide +kernel⟩⟩,
   ⟨stProg 1 cls ldi kn, fe (stProg 1 cls ldi kn), 0, prog1, ldi, by decide +kernel, by decide +kernel, ⟨by decide +kernel,
     by decide +kernel, by decide +kernel⟩⟩,
   ⟨stProg 1 cls add_ kn, fe (stProg 1 cls add_ kn), 0, prog1, add_, by decide +kernel, by decide +kernel, ⟨by decide +kernel,
     by decide +kernel, by decide +kernel⟩⟩⟩

theorem test_DrainUnitIssues_3_met :
    (∃ (s : State) (u : State) (c : CoreId) (p : Prog) (ws : List Word) (code : ℕ), (u.core ↑c).drQ.length < 4 ∧ ((u.core
      ↑c).tile (bit (wd ws 0) 23)).holder = some p.task ∧ Issues s opDrain (↑c) u p ws ∧ drainCode u (↑c) p.task ws = some code) ∧
    (∃ (s : State) (u : State) (c : CoreId) (p : Prog) (ws : List Word) (code : ℕ), (u.core ↑c).drQ.length < 4 ∧ ((u.core
      ↑c).tile (bit (wd ws 0) 23)).holder = some p.task ∧ xferCode u (↑c) p.task ws = some code ∧ Issues s opTileStore (↑c) u p
      ws) ∧
    (∃ (s : State) (u : State) (c : CoreId) (p : Prog) (ws : List Word) (code : ℕ), (u.core ↑c).drQ.length < 4 ∧ ((u.core
      ↑c).tile (bit (wd ws 0) 23)).holder = some p.task ∧ xferCode u (↑c) p.task ws = some code ∧ Issues s opTileLoad (↑c) u p
      ws) ∧
    (∃ (s : State) (u : State) (c : CoreId) (p : Prog) (ws : List Word) (code : ℕ), (u.core ↑c).drQ.length < 4 ∧ ((u.core
      ↑c).tile (bit (wd ws 0) 23)).holder = some p.task ∧ xferCode u (↑c) p.task ws = some code ∧ Issues s opTileAdd (↑c) u p
      ws) :=
  ⟨⟨stProg 1 cls drn ke, fe (stProg 1 cls drn ke), 0, prog1, drn, 5, by decide +kernel, by decide +kernel, ⟨by decide +kernel,
     by decide +kernel, by decide +kernel⟩, by decide +kernel⟩,
   ⟨stProg 1 cls sto ke, fe (stProg 1 cls sto ke), 0, prog1, sto, 5, by decide +kernel, by decide +kernel, by decide +kernel,
     ⟨by decide +kernel, by decide +kernel, by decide +kernel⟩⟩,
   ⟨stProg 1 cls [0x24000000,0x00010200,0,0] ke, fe (stProg 1 cls [0x24000000,0x00010200,0,0] ke), 0, prog1,
     [0x24000000,0x00010200,0,0], 12, by decide +kernel, by decide +kernel, by decide +kernel, ⟨by decide +kernel,
     by decide +kernel, by decide +kernel⟩⟩,
   ⟨stProg 1 cls add_ ke, fe (stProg 1 cls add_ ke), 0, prog1, add_, 5, by decide +kernel, by decide +kernel, by decide +kernel,
     ⟨by decide +kernel, by decide +kernel, by decide +kernel⟩⟩⟩

theorem test_DrainUnitIssues_4_met :
    (∃ (s : State) (u : State) (c : CoreId) (p : Prog) (ws : List Word), (u.core ↑c).drQ.length < 4 ∧ ((u.core ↑c).tile (bit (wd
      ws 0) 23)).holder = some p.task ∧ Issues s opDrain (↑c) u p ws ∧ drainCode u (↑c) p.task ws = none) ∧
    (∃ (s : State) (u : State) (c : CoreId) (p : Prog) (ws : List Word), (u.core ↑c).drQ.length < 4 ∧ ((u.core ↑c).tile (bit (wd
      ws 0) 23)).holder = some p.task ∧ xferCode u (↑c) p.task ws = none ∧ Issues s opTileStore (↑c) u p ws) ∧
    (∃ (s : State) (u : State) (c : CoreId) (p : Prog) (ws : List Word), (u.core ↑c).drQ.length < 4 ∧ ((u.core ↑c).tile (bit (wd
      ws 0) 23)).holder = some p.task ∧ xferCode u (↑c) p.task ws = none ∧ Issues s opTileAdd (↑c) u p ws) ∧
    (∃ (s : State) (u : State) (c : CoreId) (p : Prog) (ws : List Word), (u.core ↑c).drQ.length < 4 ∧ ((u.core ↑c).tile (bit (wd
      ws 0) 23)).holder = some p.task ∧ xferCode u (↑c) p.task ws = none ∧ Issues s opTileLoad (↑c) u p ws) :=
  ⟨⟨stProg 1 cls drn k0, fe (stProg 1 cls drn k0), 0, prog1, drn, by decide +kernel, by decide +kernel, ⟨by decide +kernel,
     by decide +kernel, by decide +kernel⟩, by decide +kernel⟩,
   ⟨stProg 1 cls sto k0, fe (stProg 1 cls sto k0), 0, prog1, sto, by decide +kernel, by decide +kernel, by decide +kernel,
     ⟨by decide +kernel, by decide +kernel, by decide +kernel⟩⟩,
   ⟨stProg 1 cls add_ k0, fe (stProg 1 cls add_ k0), 0, prog1, add_, by decide +kernel, by decide +kernel, by decide +kernel,
     ⟨by decide +kernel, by decide +kernel, by decide +kernel⟩⟩,
   ⟨stProg 1 cls ldi k0, fe (stProg 1 cls ldi k0), 0, prog1, ldi, by decide +kernel, by decide +kernel, by decide +kernel,
     ⟨by decide +kernel, by decide +kernel, by decide +kernel⟩⟩⟩

theorem test_DrainRuns_1_met :
    ∃ (s : State) (c : CoreId) (q : QInst) (rest : List QInst), s.coreRuns ↑c = true ∧ (s.core ↑c).dr = none ∧ (s.core ↑c).drQ =
      q :: rest ∧ opcodeOf (wd q.words 0) = opDrain ∧ tileFree s (↑c) q = true ∧ aborting s q.task = false :=
  ⟨sk {k0 with drQ := [q0]}, 0, q0, [], by decide +kernel⟩

theorem test_DrainRuns_2_met :
    ∃ (s : State) (u : State) (c : CoreId) (d : DrRun), s.coreRuns ↑c = true ∧ u = pull s ↑c ∧ (u.core ↑c).dr = some d ∧
      opcodeOf (wd d.inst.words 0) = opDrain ∧ d.released = false ∧ d.relAt ≤ u.now ∧ feedReady d.feed = true ∧ aborting u
      d.inst.task = false :=
  ⟨sk {k0 with dr := some d0}, pull (sk {k0 with dr := some d0}) 0, 0, d0, by decide +kernel, rfl, by decide +kernel⟩

theorem test_DrainRuns_3_met :
    ∃ (s : State) (u : State) (c : CoreId) (d : DrRun), s.coreRuns ↑c = true ∧ u = pull s ↑c ∧ (u.core ↑c).dr = some d ∧
      opcodeOf (wd d.inst.words 0) = opDrain ∧ d.endAt ≤ u.now ∧ d.released = true ∧ d.out = [] ∧ aborting u d.inst.task = false :=
  ⟨sk {k0 with dr := some {d0 with released := true}}, pull (sk {k0 with dr := some {d0 with released := true}}) 0, 0, {d0 with released := true},
    by decide +kernel, rfl, by decide +kernel⟩

theorem test_TileTransferRuns_1_met :
    ∃ (s : State) (c : CoreId) (q : QInst) (rest : List QInst), s.coreRuns ↑c = true ∧ (s.core ↑c).dr = none ∧ (s.core ↑c).drQ =
      q :: rest ∧ opcodeOf (wd q.words 0) ≠ opDrain ∧ tileFree s (↑c) q = true ∧ aborting s q.task = false :=
  ⟨sk {k0 with drQ := [qs sto]}, 0, qs sto, [], by decide +kernel⟩

theorem test_TileTransferRuns_2_met :
    ∃ (s : State) (u : State) (c : CoreId) (d : DrRun), s.coreRuns ↑c = true ∧ u = pull s ↑c ∧ (u.core ↑c).dr = some d ∧
      opcodeOf (wd d.inst.words 0) = opTileStore ∧ d.released = false ∧ d.relAt ≤ u.now ∧ feedReady d.feed = true ∧ aborting u
      d.inst.task = false :=
  ⟨sk {k0 with dr := some ds}, pull (sk {k0 with dr := some ds}) 0, 0, ds, by decide +kernel, rfl, by decide +kernel⟩

theorem test_TileTransferRuns_3_met :
    ∃ (s : State) (u : State) (c : CoreId) (d : DrRun), s.coreRuns ↑c = true ∧ u = pull s ↑c ∧ (u.core ↑c).dr = some d ∧
      (opcodeOf (wd d.inst.words 0) = opTileLoad ∨ opcodeOf (wd d.inst.words 0) = opTileAdd) ∧ d.released = false ∧ d.relAt ≤
      u.now ∧ feedReady d.feed = true ∧ aborting u d.inst.task = false :=
  ⟨sk {k0 with dr := some dl}, pull (sk {k0 with dr := some dl}) 0, 0, dl, by decide +kernel, rfl, by decide +kernel⟩

theorem test_TileTransferRuns_4_met :
    ∃ (s : State) (u : State) (c : CoreId) (d : DrRun), s.coreRuns ↑c = true ∧ u = pull s ↑c ∧ (u.core ↑c).dr = some d ∧
      opcodeOf (wd d.inst.words 0) ≠ opDrain ∧ d.endAt ≤ u.now ∧ d.released = true ∧ d.out = [] ∧ aborting u d.inst.task = false :=
  ⟨sk {k0 with dr := some {da with released := true}}, pull (sk {k0 with dr := some {da with released := true}}) 0, 0, {da with released := true},
    by decide +kernel, rfl, by decide +kernel⟩

end Sys2Proof.Tests.Drains

namespace Sys2Proof.Tests.Attention
open Sys2Proof Sys2Proof.Machine Sys2Proof.Tests

def clCol (ch : Nat) : Claim := ⟨0x30000000 ||| w32 ch, 0x01000100, 0, 0⟩
def cls := [clChan 0, clChan 1, clCol 2, clCol 3, clCol 4, clCol 5]
def aw (app : Bool) (max : Nat) : List Word :=
  [0x31000000 ||| flag app 23 ||| 0x00200000 ||| 0x00180000 ||| 0x00040000 ||| fld 1 8, fld 2 17 ||| fld 3 14 ||| fld 4 11 ||| fld 5 8 ||| 1, 0x3F800000, 0, 0, 0, 0, w32 max]
def kq : Core := { Core.idle with chans := [(0, armed 2 96 0x400 false), (1, armed 2 32 0x800 true)] }
def fe (s : State) := setProg s 0 prog1
def q0 (app : Bool) (max : Nat := 64) : QInst := ⟨aw app max, 0, 0, none, 0⟩
def x0 : Ctx := ⟨.opened, 1, 0x20000000, 1, 3, 0, 0⟩
def dirE (busy : Bool) (len : Nat) : List Word := [0x20001000, 0x20002000, flag busy 31 ||| w32 len, 1]
def sd (busy : Bool) (len : Nat) (k : Core) : State :=
  (((stTask 2 cls).mapHost (fun h => {h with ctxs := [(0, x0)]})).mapMem (fun m => m.put 0x20000000 (wordsBytes (dirE busy len)))).setCore 0 k
def kz (app : Bool) (mx : Nat := 64) : Core := {kq with attQ := [q0 app mx]}
def ones (n : Nat) : List Word := List.replicate n 0x3F800000
def fd (ch : Nat) (got : List Word) : Feed := ⟨ch, 0, got, 0⟩
def runOf (pages block : List Nat) (done taking : Bool) (qs : List (List Word)) (got : List Word) : AttRun :=
  ⟨q0 true, true, 0x20000000, 3, 4, [0], 1, 1, taking, fd 3 [0x20010001], fd 5 [0x20020001], fd 2 [], fd 4 [], [], [], 0, qs, [ones 32], [ones 32], [], pages, block, [⟨0xFF800000, 0, List.replicate 32 0, false⟩], ⟨0, 0, got, 0⟩, 406, [], done⟩
def rA (a : AttRun) : State :=
  { stTask 2 cls with
    now := 100000
    mem := ⟨[(536870913, 16), (536870915, 32), (536870917, 32), (536870919, 32), (536870920, 3), (536870923, 128), (536870924, 1)], [(1048576, 0x8734f0b9)], []⟩
    host := { stQueue.host with ctxs := [(0, x0)] }
    cores := [(0, { kz true with prog := some prog0, att := some a })] }
def w16 : List Word := (aw true 64).set 0 ((aw true 64).headD 0 &&& 0xFFE7FFFF)
def a1 : AttRun := { runOf [0] [] false true [List.replicate 32 0] [] with inst := ⟨w16, 0, 0, none, 0⟩, t0 := 0, t := 1, newK := [List.replicate 32 0], newV := [List.replicate 32 0] }
def r1 : State := rA a1
def getR (x : State ⊕ AttRun) : AttRun := match x with
  | .inr a => a
  | _ => a1
def getK (x : State ⊕ List (Option KeyRow)) : List (Option KeyRow) := match x with
  | .inr a => a
  | _ => []
theorem inr_getK {x : State ⊕ List (Option KeyRow)} (h : x.isRight = true) : x = .inr (getK x) := by
  cases x with
  | inl a => cases h
  | inr a => rfl
def getB (x : List AttRow ⊕ (Nat × Nat)) : List AttRow := match x with
  | .inl a => a
  | _ => []
theorem inl_getB {x : List AttRow ⊕ (Nat × Nat)} (h : x.isLeft = true) : x = .inl (getB x) := by
  cases x with
  | inl a => rfl
  | inr a => cases h
def tk1 := getR (takeInput (pull r1 0) 0 a1)
def ks1 := getK (blockKeys (pull r1 0) 0 tk1 (some 0))
def a2 : AttRun := { runOf [] [1, 2] false true [ones 32] [] with globals := [1, 2] }
def r2 : State := rA a2
def tk2 := getR (takeInput (pull r2 0) 0 a2)
def ks2 := getK (blockKeys (pull r2 0) 0 tk2 none)
def a3 : AttRun := runOf [0] [] false true [] (0x7F800000 :: ones 95)
def r3 : State := rA a3
def a4 : AttRun := runOf [] [] false false [ones 32] []
def r4 : State := rA a4
def tk4 := getR (takeInput (pull r4 0) 0 a4)
def ps4 : List PageWrite := match appendPlan (pull r4 0) 0 tk4 with
  | .inr p => p
  | _ => []
def a5 : AttRun := runOf [] [] true false [ones 32] []
def r5 : State := rA a5

theorem test_AttendIssuesAndStarts_1_met :
    ∃ (s : State) (u : State) (c : CoreId) (p : Prog) (ws : List Word), Issues s opAttend (↑c) u p ws ∧ 2 ≤ (u.core
      ↑c).attQ.length :=
  ⟨stProg 2 cls (aw true 64) {kq with attQ := [q0 true, q0 true]}, fe (stProg 2 cls (aw true 64) {kq with attQ := [q0 true, q0 true]}),
    0, prog1, aw true 64, ⟨by decide +kernel, by decide +kernel, by decide +kernel⟩, by decide +kernel⟩

theorem test_AttendIssuesAndStarts_2_met :
    ∃ (s : State) (u : State) (c : CoreId) (p : Prog) (ws : List Word) (code : ℕ), Issues s opAttend (↑c) u p ws ∧ (u.core
      ↑c).attQ.length < 2 ∧ attCode u (↑c) p.task ws = some code :=
  ⟨stProg 2 cls (aw true 0) kq, fe (stProg 2 cls (aw true 0) kq), 0, prog1, aw true 0, 8, ⟨by decide +kernel, by decide +kernel,
    by decide +kernel⟩, by decide +kernel⟩

theorem test_AttendIssuesAndStarts_3_met :
    ∃ (s : State) (u : State) (c : CoreId) (p : Prog) (ws : List Word), Issues s opAttend (↑c) u p ws ∧ (u.core ↑c).attQ.length
      < 2 ∧ attCode u (↑c) p.task ws = none :=
  ⟨stProg 2 cls (aw true 64) kq, fe (stProg 2 cls (aw true 64) kq), 0, prog1, aw true 64, ⟨by decide +kernel, by decide +kernel,
    by decide +kernel⟩, by decide +kernel⟩

theorem test_AttendIssuesAndStarts_4_met :
    (∃ (s : State) (s0 : State) (c : CoreId) (q : QInst) (rest : List QInst) (x : Ctx) (e : List Word), s.coreRuns ↑c = true ∧
      (s.core ↑c).att = none ∧ (s.core ↑c).attQ = q :: rest ∧ aborting s q.task = false ∧ s0 = s.setCore (↑c) ({ s.core ↑c with attQ := rest })
      ∧ ctxOfTask s q.task = some x ∧ atDir q.words < x.count ∧ attWakes s (x.base + 16 * atDir q.words) q.words = none ∧
      unitRead s0 (↑c) q.task (x.base + 16 * atDir q.words) 16 = none ∧ e = s.mem.words (x.base + 16 * atDir q.words) 4 ∧ dirBad
      e = false ∧ atAppend q.words = true ∧ bit (wd e 2) 31 = true) ∧
    (∃ (s : State) (s0 : State) (c : CoreId) (q : QInst) (rest : List QInst) (x : Ctx) (e : List Word), s.coreRuns ↑c = true ∧
      (s.core ↑c).att = none ∧ (s.core ↑c).attQ = q :: rest ∧ aborting s q.task = false ∧ s0 = s.setCore (↑c) ({ s.core ↑c with attQ := rest })
      ∧ ctxOfTask s q.task = some x ∧ atDir q.words < x.count ∧ attWakes s (x.base + 16 * atDir q.words) q.words = none ∧
      unitRead s0 (↑c) q.task (x.base + 16 * atDir q.words) 16 = none ∧ e = s.mem.words (x.base + 16 * atDir q.words) 4 ∧ dirBad
      e = false ∧ (atAppend q.words = true → bit (wd e 2) 31 = false) ∧ ((atMaxtok q.words < bits (wd e 2) 20 0 + if atAppend
      q.words = true then atQrows q.words else 0) ∨ 64 * bits (wd e 3) 14 0 < bits (wd e 2) 20 0 + if atAppend q.words = true
      then atQrows q.words else 0)) ∧
    (∃ (s : State) (s0 : State) (c : CoreId) (q : QInst) (rest : List QInst) (x : Ctx) (e : List Word), s.coreRuns ↑c = true ∧
      (s.core ↑c).att = none ∧ (s.core ↑c).attQ = q :: rest ∧ aborting s q.task = false ∧ s0 = s.setCore (↑c) ({ s.core ↑c with attQ := rest })
      ∧ ctxOfTask s q.task = some x ∧ atDir q.words < x.count ∧ attWakes s (x.base + 16 * atDir q.words) q.words = none ∧
      unitRead s0 (↑c) q.task (x.base + 16 * atDir q.words) 16 = none ∧ e = s.mem.words (x.base + 16 * atDir q.words) 4 ∧ dirBad
      e = false ∧ (atAppend q.words = true → bit (wd e 2) 31 = false) ∧ ((bits (wd e 2) 20 0 + if atAppend q.words = true then
      atQrows q.words else 0) ≤ atMaxtok q.words) ∧ ((bits (wd e 2) 20 0 + if atAppend q.words = true then atQrows q.words else
      0) ≤ 64 * bits (wd e 3) 14 0) ∧ unitRead s0 (↑c) q.task (atGbase q.words) (4 * atNglobal q.words) = none) :=
  ⟨⟨sd true 3 (kz true), (sd true 3 (kz true)).setCore 0 {kz true with attQ := []}, 0, q0 true, [], x0, dirE true 3,
     by decide +kernel, by decide +kernel, by decide +kernel, by decide +kernel, rfl, by decide +kernel⟩,
   ⟨sd false 3 (kz true 3), (sd false 3 (kz true 3)).setCore 0 {kz true 3 with attQ := []}, 0, q0 true 3, [], x0, dirE false 3,
     by decide +kernel, by decide +kernel, by decide +kernel, by decide +kernel, rfl, by decide +kernel⟩,
   ⟨sd false 3 (kz true), (sd false 3 (kz true)).setCore 0 {kz true with attQ := []}, 0, q0 true, [], x0, dirE false 3,
     by decide +kernel, by decide +kernel, by decide +kernel, by decide +kernel, rfl, by decide +kernel⟩⟩

theorem test_AttendIssuesAndStarts_5_met :
    ∃ (s : State) (c : CoreId) (q : QInst) (rest : List QInst) (x : Ctx), s.coreRuns ↑c = true ∧ (s.core ↑c).att = none ∧
      (s.core ↑c).attQ = q :: rest ∧ aborting s q.task = false ∧ ctxOfTask s q.task = some x ∧ x.count ≤ atDir q.words :=
  ⟨(sd true 3 (kz false)).mapHost (fun h => {h with ctxs := [(0, {x0 with count := 0})]}), 0, q0 false, [], {x0 with count := 0},
    by decide +kernel⟩

theorem test_AttendRuns_1_met :
    ∃ (s : State) (u : State) (c : CoreId) (a0 : AttRun) (a : AttRun) (page : ℕ) (rest : List ℕ) (keys : List (Option KeyRow))
      (rows : List AttRow), s.coreRuns ↑c = true ∧ u = pull s ↑c ∧ (u.core ↑c).att = some a0 ∧ a0.feed.need = 0 ∧ aborting u
      a0.inst.task = false ∧ a0.taking = true ∧ a0.kf.need = 0 ∧ a0.vf.need = 0 ∧ a0.pages = page :: rest ∧ a0.at_ + timePage
      a0.inst.words (↑c) (pageAddr (a0.entry false page)) (pageAddr (a0.entry true page)) ≤ u.now ∧ takeInput u (↑c) a0 =
      Sum.inr a ∧ blockKeys u (↑c) a (some page) = Sum.inr keys ∧ blockRows a keys = Sum.inl rows :=
  ⟨r1, pull r1 0, 0, a1, tk1, 0, [], ks1, getB (blockRows tk1 ks1), by decide +kernel, rfl, by decide +kernel,
    by decide +kernel, by decide +kernel, by decide +kernel, by decide +kernel, by decide +kernel, by decide +kernel,
    by decide +kernel, by decide +kernel, inr_getK (by decide +kernel), inl_getB (by decide +kernel)⟩

theorem test_AttendRuns_2_met :
    ∃ (s : State) (u : State) (c : CoreId) (a0 : AttRun) (a : AttRun) (keys : List (Option KeyRow)) (rows : List AttRow),
      s.coreRuns ↑c = true ∧ u = pull s ↑c ∧ (u.core ↑c).att = some a0 ∧ a0.feed.need = 0 ∧ aborting u a0.inst.task = false ∧
      a0.taking = true ∧ a0.kf.need = 0 ∧ a0.vf.need = 0 ∧ a0.pages = [] ∧ a0.at_ + timeGlobal a0.inst.words a0.block.length ≤
      u.now ∧ takeInput u (↑c) a0 = Sum.inr a ∧ blockKeys u (↑c) a none = Sum.inr keys ∧ blockRows a keys = Sum.inl rows :=
  ⟨r2, pull r2 0, 0, a2, tk2, ks2, getB (blockRows tk2 ks2), by decide +kernel, rfl, by decide +kernel, by decide +kernel,
    by decide +kernel, by decide +kernel, by decide +kernel, by decide +kernel, by decide +kernel, by decide +kernel,
    by decide +kernel, inr_getK (by decide +kernel), inl_getB (by decide +kernel)⟩

theorem test_AttendRuns_3_met :
    ∃ (s : State) (u : State) (c : CoreId) (a : AttRun) (r : ℕ) (i : ℕ), s.coreRuns ↑c = true ∧ u = pull s ↑c ∧ (u.core ↑c).att
      = some a ∧ a.feed.need = 0 ∧ aborting u a.inst.task = false ∧ a.taking = true ∧ a.kf.need = 0 ∧ a.vf.need = 0 ∧ a.queries
      = [] ∧ a.at_ + timeBlock (↑c) a a.pages.head? ≤ u.now ∧ badIn (inputRows a.inst.words a.feed.got).1 = some (r, i) :=
  ⟨r3, pull r3 0, 0, a3, 0, 0, by decide +kernel, rfl, by decide +kernel⟩

theorem test_AttendRuns_4_met :
    ∃ (s : State) (u : State) (c : CoreId) (a0 : AttRun) (a : AttRun) (ps : List PageWrite), s.coreRuns ↑c = true ∧ u = pull s
      ↑c ∧ (u.core ↑c).att = some a0 ∧ a0.feed.need = 0 ∧ aborting u a0.inst.task = false ∧ a0.pages = [] ∧ a0.block = [] ∧
      a0.done = false ∧ takeInput u (↑c) a0 = Sum.inr a ∧ (if a.append = true then appendPlan u (↑c) a else Sum.inr []) =
      Sum.inr ps ∧ a.at_ + timeFinish a.inst.words ps ≤ u.now :=
  ⟨r4, pull r4 0, 0, a4, tk4, ps4, by decide +kernel, rfl, by decide +kernel⟩

theorem test_AttendRuns_5_met :
    ∃ (s : State) (u : State) (c : CoreId) (a : AttRun), s.coreRuns ↑c = true ∧ u = pull s ↑c ∧ (u.core ↑c).att = some a ∧
      a.feed.need = 0 ∧ aborting u a.inst.task = false ∧ a.pages = [] ∧ a.block = [] ∧ a.done = true ∧ a.out = [] :=
  ⟨r5, pull r5 0, 0, a5, by decide +kernel, rfl, by decide +kernel⟩

end Sys2Proof.Tests.Attention

namespace Sys2Proof.Tests.Streaming
open Sys2Proof Sys2Proof.Machine Sys2Proof.Tests

def cls := [clChan 0, clChan 1]
def fe (s : State) := setProg s 0 prog1
def dw (rate : Nat) : List Word := [0x20000000, 0x2000, 64, 0,0,0, 1,0,0,0, 0,0, 0, 0, fld rate 16, 0]
def arm (a : Word := 0x400) : List Word := [0x11000000, a, 0, 0]
def stA (k : Core) (rate : Nat := 256) (a : Word := 0x400) : State := (stProg 5 cls (arm a) k).mapMem (fun m => m.put 0x400 (wordsBytes (dw rate)))
def kA : Core := {Core.idle with chans := [(0, armed 2 64 0x2000 false)]}
def bad : State := (stA .idle).mapMem (fun m => m.write 0x450 3)
def re (a : Word := 0x3000) : List Word := [0x12000000, a, 0, 0]
def kH : Core := {Core.idle with chans := [(0, {armed 2 512 0x2000 false with desc := {(armed 2 512 0x2000 false).desc with feed := 1, bufBase := 0x4000, halfBlk := 1}})]}
def sw : List Word := [0x13000000, 3, 0, 0]
def dis : List Word := [0x14000000, 0, 0, 0]
def q0 (ws : List Word) : QInst := ⟨ws, 0, 0, none, 0⟩
def sk (k : Core) : State := (stTask 5 cls).setCore 0 k
def hr : Chan := {armed 2 64 0x2000 false with rearm := some (q0 re), done := 5, fetched := 7}
def kR : Core := {Core.idle with chans := [(0, hr)]}
def kRu : Core := {kR with dr := some ⟨q0 [0x24000000,0x00010200,0,0], 0, 0, 0, false, some ⟨0, 4, [], 0⟩, 2, []⟩}
def kD : Core := {Core.idle with chans := [(0, {armed 2 64 0x2000 true with disarm := some (q0 dis)})]}
def kD2 : Core := {Core.idle with chans := [(0, {armed 2 64 0x2000 true with disarm := some (q0 dis), outBuf := [1]})]}
def hS : Chan := {armed 2 512 0x2000 false with desc := {(armed 2 512 0x2000 false).desc with feed := 1, bufBase := 0x4000, halfBlk := 1}, auth := 1, done := 128, fetched := 128, landed := 128, stored := 256, filled := 256, walked := 256, walkIn := 256}
def kS : Core := {Core.idle with chans := [(0, hS)]}
def hp (at_ : Nat) : Chan := {armed 2 512 0x2000 false with primed := false, armedAt := at_}
def rq0 : Request := ⟨0,false,0,0,0,⟨.walk,0,0,0,false,false,none,0⟩⟩
def kAr : Core := {Core.idle with chans := [(0, {armed 2 64 0x2000 false with reqAt := some 399})]}
def rq : Request := (bestOf (portRequests (sk kAr) 0)).getD rq0
def pw : OutPkt := ⟨{Packet.zero with ptype := tWrite, addr := 0x100}, ⟨some 0, 1, 1⟩, 0, 0, none, 0⟩
def sF : State := State.reset.mapFabric (fun f => {f with local_ := [pw]})
def b2 : Bar2 := { func := 0, addr := 0x40, len := 4, data := some [1, 2, 3, 4], bar0 := false, ep := false, since := 0, done := 0, got := [] }
def fl : Flight := ⟨.walk, 2, 400, true, 16, (List.range 8).map (fun i => (0x2000+i, BitVec.ofNat 8 (i+1))), none, 0, true⟩
def kT : Core := {Core.idle with chans := [(0, {armed 2 8 0x2000 true with flights := [fl, {fl with at_ := 401}]})]}
def fr : Flight := ⟨.queue, 2, 400, false, 16, [], none, 0, true⟩
def kT2 : Core := {Core.idle with chans := [(0, {armed 2 8 0x2000 false with flights := [fr]})]}
def stHerd : State := stTask 3 []
def kB : Core := {Core.idle with slots := [(2, {CbSlot.empty with books := [⟨1,false,7,0,[]⟩], claims := [0]})]}

theorem test_StreamInstructionsIssue_1_met :
    ∃ (s : State) (u : State) (c : CoreId) (p : Prog) (ws : List Word) (code : ℕ), Issues s opArm (↑c) u p ws ∧ preCode u (↑c)
      p.task (chOf (wd ws 0)) (BitVec.toNat (wd ws 1)) = some code :=
  ⟨stA .idle 256 0x404, fe (stA .idle 256 0x404), 0, prog1, arm 0x404, 11, ⟨by decide +kernel, by decide +kernel,
    by decide +kernel⟩, by decide +kernel⟩

theorem test_StreamInstructionsIssue_2_met :
    ∃ (s : State) (u : State) (c : CoreId) (p : Prog) (ws : List Word), Issues s opArm (↑c) u p ws ∧ preCode u (↑c) p.task (chOf
      (wd ws 0)) (BitVec.toNat (wd ws 1)) = none ∧ ((u.core ↑c).chan (chOf (wd ws 0))).armed = true :=
  ⟨stA kA, fe (stA kA), 0, prog1, arm, ⟨by decide +kernel, by decide +kernel, by decide +kernel⟩, by decide +kernel⟩

theorem test_StreamInstructionsIssue_3_met :
    (∃ (s : State) (u : State) (c : CoreId) (p : Prog) (ws : List Word) (dw : List Word) (x : Word), Issues s opArm (↑c) u p ws
      ∧ preCode u (↑c) p.task (chOf (wd ws 0)) (BitVec.toNat (wd ws 1)) = none ∧ ((u.core ↑c).chan (chOf (wd ws 0))).armed =
      false ∧ bits (wd ws 0) 20 0 = 0 ∧ wd ws 2 = 0 ∧ wd ws 3 = 0 ∧ dw = u.mem.words (BitVec.toNat (wd ws 1)) 16 ∧ (u.mem.verify
      (BitVec.toNat (wd ws 1) / 512) = Verdict.mismatch x)) ∧
    (∃ (s : State) (u : State) (c : CoreId) (p : Prog) (ws : List Word) (dw : List Word) (code : ℕ), Issues s opArm (↑c) u p ws
      ∧ preCode u (↑c) p.task (chOf (wd ws 0)) (BitVec.toNat (wd ws 1)) = none ∧ ((u.core ↑c).chan (chOf (wd ws 0))).armed =
      false ∧ bits (wd ws 0) 20 0 = 0 ∧ wd ws 2 = 0 ∧ wd ws 3 = 0 ∧ dw = u.mem.words (BitVec.toNat (wd ws 1)) 16 ∧ u.mem.verify
      (BitVec.toNat (wd ws 1) / 512) = Verdict.good ∧ descCode u (↑c) p.task (chOf (wd ws 0)) dw (parseDesc dw) false = some
      code) ∧
    (∃ (s : State) (u : State) (c : CoreId) (p : Prog) (ws : List Word) (dw : List Word), Issues s opArm (↑c) u p ws ∧ preCode u
      (↑c) p.task (chOf (wd ws 0)) (BitVec.toNat (wd ws 1)) = none ∧ ((u.core ↑c).chan (chOf (wd ws 0))).armed = false ∧ bits
      (wd ws 0) 20 0 = 0 ∧ wd ws 2 = 0 ∧ wd ws 3 = 0 ∧ dw = u.mem.words (BitVec.toNat (wd ws 1)) 16 ∧ u.mem.verify (BitVec.toNat
      (wd ws 1) / 512) = Verdict.good ∧ descCode u (↑c) p.task (chOf (wd ws 0)) dw (parseDesc dw) false = none ∧ fFinite
      (parseDesc dw).scale = true ∧ ((parseDesc dw).convEn = true → convBad (parseDesc dw).conv = false)) :=
  ⟨⟨bad, fe bad, 0, prog1, arm, bad.mem.words 0x400 16, blockCheck (bad.mem.block 2), ⟨by decide +kernel, by decide +kernel,
     by decide +kernel⟩, by decide +kernel⟩,
   ⟨stA .idle 257, fe (stA .idle 257), 0, prog1, arm, dw 257, 9, ⟨by decide +kernel, by decide +kernel, by decide +kernel⟩,
     by decide +kernel⟩,
   ⟨stA .idle, fe (stA .idle), 0, prog1, arm, dw 256, ⟨by decide +kernel, by decide +kernel, by decide +kernel⟩,
     by decide +kernel⟩⟩

theorem test_StreamInstructionsIssue_4_met :
    (∃ (s : State) (u : State) (c : CoreId) (p : Prog) (ws : List Word) (code : ℕ), Issues s opRearm (↑c) u p ws ∧ rearmCode u
      (↑c) p.task (chOf (wd ws 0)) ws = some code) ∧
    (∃ (s : State) (u : State) (c : CoreId) (p : Prog) (ws : List Word), Issues s opRearm (↑c) u p ws ∧ rearmCode u (↑c) p.task
      (chOf (wd ws 0)) ws = none ∧ fFinite (rearmScale ((u.core ↑c).chan (chOf (wd ws 0))) ws) = true ∧ (((u.core ↑c).chan (chOf
      (wd ws 0))).desc.convEn = true → convBad (rearmConv ((u.core ↑c).chan (chOf (wd ws 0))) ws) = false)) :=
  ⟨⟨stProg 5 cls re .idle, fe (stProg 5 cls re .idle), 0, prog1, re, 10, ⟨by decide +kernel, by decide +kernel,
     by decide +kernel⟩, by decide +kernel⟩,
   ⟨stProg 5 cls re kA, fe (stProg 5 cls re kA), 0, prog1, re, ⟨by decide +kernel, by decide +kernel, by decide +kernel⟩,
     by decide +kernel⟩⟩

theorem test_StreamInstructionsIssue_5_met :
    ∃ (s : State) (u : State) (c : CoreId) (p : Prog) (ws : List Word), Issues s opSwap (↑c) u p ws ∧ (chanClaim u p.task (chOf
      (wd ws 0))).isSome = true ∧ ((u.core ↑c).chan (chOf (wd ws 0))).armed = true ∧ ((u.core ↑c).chan (chOf (wd ws
      0))).desc.feed = 1 ∧ bits (wd ws 1) 15 0 ≠ 0 ∧ bits (wd ws 0) 20 0 = 0 ∧ bits (wd ws 1) 31 16 = 0 ∧ wd ws 2 = 0 ∧ wd ws 3
      = 0 :=
  ⟨stProg 5 cls sw kH, fe (stProg 5 cls sw kH), 0, prog1, sw, ⟨by decide +kernel, by decide +kernel, by decide +kernel⟩,
    by decide +kernel⟩

theorem test_StreamInstructionsIssue_6_met :
    ∃ (s : State) (u : State) (c : CoreId) (p : Prog) (ws : List Word), Issues s opSwap (↑c) u p ws ∧ chanClaim u p.task (chOf
      (wd ws 0)) = none :=
  ⟨stProg 5 [] sw kH, fe (stProg 5 [] sw kH), 0, prog1, sw, ⟨by decide +kernel, by decide +kernel, by decide +kernel⟩,
    by decide +kernel⟩

theorem test_StreamInstructionsIssue_7_met :
    (∃ (s : State) (u : State) (c : CoreId) (p : Prog) (ws : List Word), Issues s opDisarm (↑c) u p ws ∧ (chanClaim u p.task
      (chOf (wd ws 0))).isSome = true ∧ ((u.core ↑c).chan (chOf (wd ws 0))).armed = false) ∧
    (∃ (s : State) (u : State) (c : CoreId) (p : Prog) (ws : List Word), Issues s opDisarm (↑c) u p ws ∧ (chanClaim u p.task
      (chOf (wd ws 0))).isSome = true ∧ ((u.core ↑c).chan (chOf (wd ws 0))).armed = true ∧ bits (wd ws 0) 20 0 = 0 ∧ wd ws 1 = 0
      ∧ wd ws 2 = 0 ∧ wd ws 3 = 0) :=
  ⟨⟨stProg 5 cls dis .idle, fe (stProg 5 cls dis .idle), 0, prog1, dis, ⟨by decide +kernel, by decide +kernel,
     by decide +kernel⟩, by decide +kernel⟩,
   ⟨stProg 5 cls dis kA, fe (stProg 5 cls dis kA), 0, prog1, dis, ⟨by decide +kernel, by decide +kernel, by decide +kernel⟩,
     by decide +kernel⟩⟩

theorem test_StreamWaitsTakeEffect_1_met :
    ∃ (s : State) (u : State) (c : CoreId) (ch : ChanId) (q : QInst), s.coreRuns ↑c = true ∧ u = pull s ↑c ∧ ((u.core ↑c).chan
      ↑ch).rearm = some q ∧ chanUsed u ↑c ↑ch = false ∧ (((u.core ↑c).chan ↑ch).desc.write = true → ((u.core ↑c).chan ↑ch).done
      ≤ ((u.core ↑c).chan ↑ch).fetched) ∧ ((u.core ↑c).chan ↑ch).chain = none :=
  ⟨sk kR, pull (sk kR) 0, 0, 0, q0 re, by decide +kernel, rfl, by decide +kernel⟩

theorem test_StreamWaitsTakeEffect_2_met :
    ∃ (s : State) (u : State) (c : CoreId) (ch : ChanId) (q : QInst), s.coreRuns ↑c = true ∧ u = pull s ↑c ∧ ((u.core ↑c).chan
      ↑ch).rearm = some q ∧ chanUsed u ↑c ↑ch = true :=
  ⟨sk kRu, pull (sk kRu) 0, 0, 0, q0 re, by decide +kernel, rfl, by decide +kernel⟩

theorem test_StreamWaitsTakeEffect_3_met :
    ∃ (s : State) (u : State) (c : CoreId) (ch : ChanId) (q : QInst), s.coreRuns ↑c = true ∧ u = pull s ↑c ∧ ((u.core ↑c).chan
      ↑ch).disarm = some q ∧ chanUsed u ↑c ↑ch = false ∧ writesDone ((u.core ↑c).chan ↑ch) = true ∧ ((u.core ↑c).chan ↑ch).chain
      = none :=
  ⟨sk kD, pull (sk kD) 0, 0, 0, q0 dis, by decide +kernel, rfl, by decide +kernel⟩

theorem test_StreamWaitsTakeEffect_4_met :
    ∃ (s : State) (u : State) (c : CoreId) (ch : ChanId) (q : QInst), s.coreRuns ↑c = true ∧ u = pull s ↑c ∧ ((u.core ↑c).chan
      ↑ch).disarm = some q ∧ (chanUsed u ↑c ↑ch = true ∨ writesDone ((u.core ↑c).chan ↑ch) = false) :=
  ⟨sk kD2, pull (sk kD2) 0, 0, 0, q0 dis, by decide +kernel, rfl, by decide +kernel⟩

theorem test_StreamWaitsTakeEffect_5_met :
    ∃ (s : State) (u : State) (c : CoreId) (ch : ChanId), s.coreRuns ↑c = true ∧ u = pull s ↑c ∧ swapReady (u.core ↑c) ((u.core
      ↑c).chan ↑ch) = true :=
  ⟨sk kS, pull (sk kS) 0, 0, 0, by decide +kernel, rfl, by decide +kernel⟩

theorem test_StreamWaitsTakeEffect_6_met :
    ∃ (s : State) (u : State) (c : CoreId) (ch : ChanId), s.coreRuns ↑c = true ∧ u = pull s ↑c ∧ ((u.core ↑c).chan ↑ch).auth = 0 :=
  ⟨sk kA, pull (sk kA) 0, 0, 0, by decide +kernel, rfl, by decide +kernel⟩

theorem test_StreamWaitsTakeEffect_7_met :
    ∃ (s : State) (c : CoreId) (ch : ChanId), s.coreRuns ↑c = true ∧ ((s.core ↑c).chan ↑ch).armed = true ∧ ((s.core ↑c).chan
      ↑ch).primed = false :=
  ⟨sk {Core.idle with chans := [(0, hp 387)]}, 0, 0, by decide +kernel⟩

theorem test_TransfersAreGranted_1_met :
    ∃ (s : State) (p : StorePort), portNumber p ∈ s.slots :=
  ⟨{sk kA with slots := [0]}, .near 0, by decide +kernel⟩

theorem test_TransfersAreGranted_2_met :
    ∃ (s : State) (p : StorePort) (r : Request), portNumber p ∉ s.slots ∧ portFaults s (portNumber p) = none ∧ bestOf
      (portRequests s (portNumber p)) = some r ∧ (((s.core r.core).chan r.ch).desc.gather = 0 ∨ ((s.core r.core).chan
      r.ch).desc.ich ≠ r.ch) :=
  ⟨sk kAr, .near 0, rq, by decide +kernel⟩

theorem test_TransfersAreGranted_4_met :
    ∃ (s : State) (p : StorePort) (o : OutPkt), portNumber p ∉ s.slots ∧ portFaults s (portNumber p) = none ∧ portRequests s
      (portNumber p) = [] ∧ reqAtPort s (portNumber p) = some o ∧ bar2At s (portNumber p) = none :=
  ⟨sF, .near 0, pw, by decide +kernel⟩

theorem test_TransfersAreGranted_5_met :
    ∃ (s : State) (p : StorePort) (b : Bar2), portNumber p ∉ s.slots ∧ portFaults s (portNumber p) = none ∧ portRequests s
      (portNumber p) = [] ∧ reqAtPort s (portNumber p) = none ∧ bar2At s (portNumber p) = some b :=
  ⟨stMgmt.mapHost (fun h => {h with bar2 := [b2]}), .near 0, b2, by decide +kernel⟩

theorem test_TransfersAreGranted_6_met :
    ∃ (s : State) (p : StorePort), portNumber p ∉ s.slots ∧ portFaults s (portNumber p) = none ∧ portRequests s (portNumber p) =
      [] ∧ reqAtPort s (portNumber p) = none ∧ bar2At s (portNumber p) = none :=
  ⟨State.reset, .near 0, by decide +kernel⟩

theorem test_TransfersAreGranted_7_met :
    ∃ (s : State) (c : CoreId) (ch : ChanId) (f : Flight), dueFlight s ((s.core ↑c).chan ↑ch) = some f ∧ f.write = true ∧ f.src
      = none ∧ (mergeCells s.mem f.block f.cells).1 = Verdict.good ∧ (List.map (fun (x : Host.Cell) => x.1) f.cells).Nodup :=
  ⟨sk kT, 0, 0, fl, by decide +kernel⟩

theorem test_TransfersAreGranted_8_met :
    ∃ (s : State) (c : CoreId) (ch : ChanId) (f : Flight), dueFlight s ((s.core ↑c).chan ↑ch) = some f ∧ f.write = false ∧
      f.elems ≠ 0 ∧ f.leg = Leg.queue ∧ aborting s f.task = false ∧ ((s.core ↑c).chan ↑ch).desc.write = false ∧ ((s.core
      ↑c).chan ↑ch).chain = none :=
  ⟨sk kT2, 0, 0, fr, by decide +kernel⟩

theorem test_TransfersAreGranted_9_met :
    ∃ (s : State) (c : CoreId) (ch : ChanId), (∀ f ∈ ((s.core ↑c).chan ↑ch).flights, s.now < f.at_) :=
  ⟨sk {Core.idle with chans := [(0, {armed 2 8 0x2000 false with flights := [{fr with at_ := 401}]})]}, 0, 0, by decide +kernel⟩

theorem test_GrantFollowsR184_2_met :
    ∃ (l : List Request), l ≠ [] :=
  ⟨[{ rq0 with dry := 1 }, rq0], by decide +kernel⟩

theorem test_GrantFollowsR184_4_met :
    ∃ (a : Request) (b : Request) (c : Request), a.before b = true ∧ b.before c = true :=
  ⟨{rq0 with dry := 1}, {rq0 with dry := 2}, {rq0 with dry := 3}, by decide +kernel⟩

theorem test_GrantFollowsR184_5_met :
    ∃ (a : Request) (b : Request), a.dry < b.dry :=
  ⟨{rq0 with dry := 1}, {rq0 with dry := 2}, by decide +kernel⟩

theorem test_GrantFollowsR184_6_met :
    ∃ (a : Request) (b : Request), a.dry = b.dry ∧ a.away = false ∧ b.away = true :=
  ⟨rq0, {rq0 with away := true}, by decide +kernel⟩

theorem test_ParityErrorsReplayOnce_1_met :
    (∃ (s : State) (c : CoreId) (ch : ChanId) (addr : ℕ) (t : ℕ), s.coreRuns ↑c = true ∧ rangeOk (storeAddr addr) 1 false = true
      ∧ addr / 8 ∉ s.mem.poison ∧ ((s.core ↑c).chan ↑ch).task = some t) ∧
    (∃ (s : State) (c : CoreId) (ch : ChanId) (addr : ℕ) (t : ℕ), s.coreRuns ↑c = true ∧ rangeOk (storeAddr addr) 1 false = true
      ∧ addr / 8 ∉ s.mem.poison ∧ ((s.core ↑c).chan ↑ch).task = some t) :=
  ⟨⟨sk kA, 0, 0, 0x2000, 0, by decide +kernel⟩,
   ⟨sk kA, 0, 0, 0x2000, 0, by decide +kernel⟩⟩

theorem test_ParityErrorsReplayOnce_2_met :
    ∃ (addr : ℕ), addr < 2684354560 :=
  ⟨0x2000, by decide +kernel⟩

theorem test_ParityErrorsReplayOnce_3_met :
    ∃ (s : State) (c : ℕ) (ch : ℕ) (t : ℕ), ((s.core c).chan ch).task = some t :=
  ⟨sk kA, 0, 0, 0, by decide +kernel⟩

theorem test_ParityErrorsReplayOnce_4_met :
    ∃ (s : State) (c : CoreId) (addr : ℕ) (p : Prog), s.coreRuns ↑c = true ∧ rangeOk (storeAddr addr) 1 false = true ∧ region
      (storeAddr addr) = Region.near ↑c ∧ addr / 8 ∉ s.mem.poison ∧ (s.core ↑c).prog = some p :=
  ⟨stA .idle, 0, 0x8, prog0, by decide +kernel⟩

theorem test_ParityErrorsReplayOnce_5_met :
    (∃ (s : State) (addr : ℕ) (t : ℕ), rangeOk (storeAddr addr) 1 false = true ∧ region (storeAddr addr) = Region.herd ∧ addr /
      8 ∉ s.mem.poison ∧ occupant s 256 = some t) ∧
    (∃ (s : State) (addr : ℕ) (t : ℕ), rangeOk (storeAddr addr) 1 false = true ∧ region (storeAddr addr) = Region.herd ∧ addr /
      8 ∉ s.mem.poison ∧ occupant s 256 = some t) :=
  ⟨⟨stHerd, 0x10000100, 0, by decide +kernel⟩,
   ⟨stHerd, 0x10000100, 0, by decide +kernel⟩⟩

theorem test_ParityErrorsReplayOnce_6_met :
    ∃ (s : State) (r : Reader) (addr : ℕ), addr / 8 ∈ s.mem.poison ∧ (∀ (c : CoreId) (i : Fin 16), r ≠ Reader.codebook c i) :=
  ⟨(sk kA).mapMem (fun m => m.mark 0x2000), .channel 0 0, 0x2000, by decide +kernel⟩

theorem test_ParityErrorsReplayOnce_7_met :
    ∃ (s : State) (c : CoreId) (i : Fin 16) (addr : ℕ), s.coreRuns ↑c = true ∧ ((s.core ↑c).slot ↑i).books ≠ [] ∧ ((s.core
      ↑c).slot ↑i).failed = false ∧ addr / 8 ∉ ((s.core ↑c).slot ↑i).marks ∧ ((s.core ↑c).slot ↑i).pins = [] :=
  ⟨sk kB, 0, 2, 0, by decide +kernel⟩

theorem test_TransfersAreGranted_3_met :
    (∃ (h : Chan), h.desc.feed = 0) ∧
    (∃ (h : Chan) (w : Want), w.leg = Leg.queue ∧ h.desc.write = false) :=
  ⟨⟨kAr.chan 0, by decide +kernel⟩,
   ⟨kAr.chan 0, rq.want, by decide +kernel⟩⟩

theorem test_GrantFollowsR184_1_met :
    ∃ (l : List Request) (r : Request), bestOf l = some r :=
  ⟨[{ rq0 with dry := 1 }, rq0], rq0, by decide +kernel⟩

end Sys2Proof.Tests.Streaming

namespace Sys2Proof.Tests.Chains
open Sys2Proof Sys2Proof.Machine Sys2Proof.Tests

def clChain : Claim := ⟨0x50000007, 0, 0, 0⟩
def cls := [clChan 0, clChain]
def fe (s : State) := setProg s 0 prog1
def dC (mem : List Nat) : ChainD := ⟨false, true, false, 3, 1, 0, 0, 0, 0x8000, 100, 256, mem⟩
def slotC (mem : List Nat) (pos : Nat) : ChSlot := ⟨dC mem, 7, 1, none, pos, none, false, none, 1, 0, 0, 0, [], [], 0, 0, [], [], 4, [], none, none, 0, false, false, []⟩
def dw (rate : Nat) : List Word := [0x20000000, 0x2000, 64, 0,0,0, 1,0,0,0, 0,0, 0, 0, fld rate 16, 0]
def dl : List Word := [0x15000000 ||| fld 1 13, 0x400, 0, 0]
def dj : List Word := [0x16000000 ||| fld 1 13, 0x400, 0, 0]
def sL : State := (stProg 5 cls dl {Core.idle with drove := [(2, slotC [0,1,2] 0)]}).mapMem (fun m => m.put 0x400 (wordsBytes (dw 256)))
def blk (e seq : Nat) : ChBlock := ⟨e, 0, seq, 0x20000000, List.replicate 512 (BitVec.ofNat 8 seq), 0, [], none, false, false⟩
def member (v : ChSlot) : ChSlot := {v with task := some 0}
def s3 (v : ChSlot) (w : ChSlot) : State := ((stTask 5 cls).setCore 1 {Core.idle with drove := [(0, v)]}).setCore 2 {Core.idle with drove := [(1, w)]}
def v1 : ChSlot := {member (slotC [0,1,2] 1) with ring := [{blk 0 0 with sent := true}, blk 1 1], wr := 2}
def w1 : ChSlot := member (slotC [0,1,2] 2)
def v1n : ChSlot := {v1 with ring := [{blk 0 0 with gen := 1, src := some ⟨0x20000000, none⟩}]}
def w2 : ChSlot := {w1 with coming := [⟨400, some (blk 0 1), none, false⟩], wr := 5}
def v3 (c : Bool) : ChSlot := {v1 with coming := [⟨399, none, some ⟨c, 0, 1, false⟩, true⟩], ring := [{blk 0 0 with sent := true}, blk 1 1]}
def vs : ChSlot := {v1 with credits := 0}
def ws : ChSlot := {w1 with stallAt := some 396}
def ws1 (v : ChSlot) (b : ChBlock) : ChSlot := { v with detached := true, stallAt := none, catching := if 0 < v.allow then some b.gen else none, allow := v.allow - 1 }
def xof (s : State) (v : ChSlot) (b : ChBlock) : State := bypass (((taskTrace (setSlotOf s 2 1 (ws1 v b)) 4 0x0D (slotDrove 2) (v.task.getD 0)
          [w32 1, w32 b.gen, w32 b.seq]).bump (slotDrove 2) 0x04C 1).pulse (slotDrove 2) 4) (ws1 v b) (predecessor s v)
def sb (s : State) (v : ChSlot) : ChBlock := (stalledBlock s v).getD (blk 9 9)
def wz : ChSlot := {ws with allow := 0}

theorem test_ChainSetupAndForward_1_met :
    (∃ (s : State) (u : State) (c : CoreId) (lead : Bool) (p : Prog) (ws : List Word) (i : ℕ) (v : ChSlot), Issues s (if lead =
      true then opDlead else opDjoin) (↑c) u p ws ∧ preCode u (↑c) p.task (chOf (wd ws 0)) (BitVec.toNat (wd ws 1)) = none ∧
      ((u.core ↑c).chan (chOf (wd ws 0))).armed = false ∧ claimSlot u (↑c) p.task (wd ws 0) = some (i, v) ∧ bits (wd ws 0) 12 0
      = 0 ∧ wd ws 2 = 0 ∧ wd ws 3 = 0 ∧ v.lead ≠ lead) ∧
    (∃ (s : State) (u : State) (c : CoreId) (lead : Bool) (p : Prog) (ws : List Word) (dw : List Word) (i : ℕ) (v : ChSlot),
      Issues s (if lead = true then opDlead else opDjoin) (↑c) u p ws ∧ preCode u (↑c) p.task (chOf (wd ws 0)) (BitVec.toNat (wd
      ws 1)) = none ∧ ((u.core ↑c).chan (chOf (wd ws 0))).armed = false ∧ claimSlot u (↑c) p.task (wd ws 0) = some (i, v) ∧ bits
      (wd ws 0) 12 0 = 0 ∧ wd ws 2 = 0 ∧ wd ws 3 = 0 ∧ v.lead = lead ∧ ((u.core ↑c).chan (chOf (wd ws 0))).chain = none ∧
      v.joined = none ∧ u.mem.verify (BitVec.toNat (wd ws 1) / 512) = Verdict.good ∧ dw = u.mem.words (BitVec.toNat (wd ws 1))
      16 ∧ (descCode u (↑c) p.task (chOf (wd ws 0)) dw (parseDesc dw) !lead) = none ∧ fFinite (parseDesc dw).scale = true ∧
      ((parseDesc dw).convEn = true → convBad (parseDesc dw).conv = false) ∧ (parseDesc dw).write = false ∧ (parseDesc dw).feed
      = 0 ∧ (parseDesc dw).gather = 0 ∧ (parseDesc dw).index = false ∧ (lead = true → (parseDesc dw).rate = v.desc.rate)) :=
  ⟨⟨stProg 5 cls dj {Core.idle with drove := [(2, slotC [0,1,2] 0)]}, fe (stProg 5 cls dj {Core.idle with drove := [(2, slotC [0,1,2] 0)]}),
     0, false, prog1, dj, 2, slotC [0,1,2] 0, ⟨by decide +kernel, by decide +kernel, by decide +kernel⟩, by decide +kernel⟩,
   ⟨sL, fe sL, 0, true, prog1, dl, dw 256, 2, slotC [0,1,2] 0, ⟨by decide +kernel, by decide +kernel, by decide +kernel⟩,
     by decide +kernel⟩⟩

theorem test_ChainSetupAndForward_2_met :
    ∃ (s : State) (u : State) (c : CoreId) (p : Prog) (ws : List Word), Issues s opDlead (↑c) u p ws ∧ chanClaim u p.task (chOf
      (wd ws 0)) = none :=
  ⟨stProg 5 [] dl .idle, fe (stProg 5 [] dl .idle), 0, prog1, dl, ⟨by decide +kernel, by decide +kernel, by decide +kernel⟩,
    by decide +kernel⟩

theorem test_ChainSetupAndForward_3_met :
    ∃ (s : State) (u : State) (c : CoreId) (p : Prog) (ws : List Word), Issues s opDjoin (↑c) u p ws ∧ chanClaim u p.task (chOf
      (wd ws 0)) = none :=
  ⟨stProg 5 [] dj .idle, fe (stProg 5 [] dj .idle), 0, prog1, dj, ⟨by decide +kernel, by decide +kernel, by decide +kernel⟩,
    by decide +kernel⟩

theorem test_ChainSetupAndForward_4_met :
    ∃ (s : State) (c : CoreId) (i : Fin 4) (v : ChSlot) (w : ChSlot) (b : ChBlock) (d : ℕ) (j : ℕ), s.coreRuns ↑c = true ∧
      (s.core ↑c).chSlot ↑i = some v ∧ v.unsent = some b ∧ v.lead = false ∧ nextFor s v b = some d ∧ memberSlot s v d = some (j,
      w) ∧ w.detached = false ∧ v.credits = 0 :=
  ⟨s3 {v1 with credits := 0} w1, 1, 0, {v1 with credits := 0}, w1, blk 1 1, 2, 1, by decide +kernel⟩

theorem test_ChainSetupAndForward_5_met :
    ∃ (s : State) (c : CoreId) (i : Fin 4) (v : ChSlot) (w : ChSlot) (b : ChBlock) (d : ℕ) (j : ℕ), s.coreRuns ↑c = true ∧
      (s.core ↑c).chSlot ↑i = some v ∧ v.unsent = some b ∧ v.lead = false ∧ v.sentAt ≤ s.now ∧ nextFor s v b = some d ∧
      memberSlot s v d = some (j, w) ∧ w.detached = false ∧ v.credits ≠ 0 :=
  ⟨s3 v1 w1, 1, 0, v1, w1, blk 1 1, 2, 1, by decide +kernel⟩

theorem test_ChainSetupAndForward_6_met :
    ∃ (s : State) (c : CoreId) (i : Fin 4) (v : ChSlot) (w : ChSlot) (b : ChBlock) (d : ℕ) (j : ℕ), s.coreRuns ↑c = true ∧
      (s.core ↑c).chSlot ↑i = some v ∧ v.unsent = some b ∧ v.lead = false ∧ v.sentAt ≤ s.now ∧ nextFor s v b = some d ∧
      memberSlot s v d = some (j, w) ∧ w.detached = true ∧ d ≠ ↑c :=
  ⟨s3 v1n {w1 with detached := true}, 1, 0, v1n, {w1 with detached := true}, {blk 0 0 with gen := 1, src := some ⟨0x20000000, none⟩},
    2, 1, by decide +kernel⟩

theorem test_ChainSetupAndForward_7_met :
    ∃ (s : State) (c : CoreId) (i : Fin 4) (v : ChSlot), (s.core ↑c).chSlot ↑i = some v ∧ s.now < v.sentAt :=
  ⟨s3 {v1 with sentAt := 402} w1, 1, 0, {v1 with sentAt := 402}, by decide +kernel⟩

theorem test_ChainSetupAndForward_8_met :
    ∃ (s : State) (v : ChSlot) (w : ChSlot) (dst : ℕ) (j : ℕ), memberSlot s v dst = some (j, w) :=
  ⟨s3 v1 w1, v1, w1, 2, 1, by decide +kernel⟩

theorem test_ChainArrivals_1_met :
    ∃ (s : State) (c : CoreId) (i : Fin 4) (v : ChSlot) (b : ChBlock) (m : Option ChMark) (at_ : ℕ) (fwd : Bool), (s.core
      ↑c).chSlot ↑i = some v ∧ v.arrived s.now = some { at_ := at_, block := some b, mark := m, fwd := fwd } ∧ 2 * c.val ∉
      s.slots ∧ b.data.length = 512 :=
  ⟨s3 v1 w2, 2, 1, w2, blk 0 1, none, 400, false, by decide +kernel⟩

theorem test_ChainArrivals_2_met :
    ∃ (s : State) (c : CoreId) (i : Fin 4) (v : ChSlot), (s.core ↑c).chSlot ↑i = some v ∧ v.arrived s.now = none :=
  ⟨s3 v1 {w2 with coming := [⟨401, some (blk 0 1), none, false⟩]}, 2, 1, {w2 with coming := [⟨401, some (blk 0 1), none, false⟩]},
    by decide +kernel⟩

theorem test_ChainArrivals_3_met :
    (∃ (s : State) (c : CoreId) (i : Fin 4) (v : ChSlot) (w : ChSlot) (m : ChMark) (at_ : ℕ) (fwd : Bool), (s.core ↑c).chSlot ↑i
      = some v ∧ v.arrived s.now = some { at_ := at_, block := none, mark := some m, fwd := fwd } ∧ w = { v with coming := takeMsg s.now v.coming }
      ∧ v.past m.gen = false ∧ m.cancel = false) ∧
    (∃ (s : State) (c : CoreId) (i : Fin 4) (v : ChSlot) (w : ChSlot) (m : ChMark) (at_ : ℕ) (fwd : Bool), (s.core ↑c).chSlot ↑i
      = some v ∧ v.arrived s.now = some { at_ := at_, block := none, mark := some m, fwd := fwd } ∧ w = { v with coming := takeMsg s.now v.coming }
      ∧ v.past m.gen = false ∧ m.cancel = true) ∧
    (∃ (s : State) (c : CoreId) (i : Fin 4) (v : ChSlot) (w : ChSlot) (m : ChMark) (at_ : ℕ) (fwd : Bool), (s.core ↑c).chSlot ↑i
      = some v ∧ v.arrived s.now = some { at_ := at_, block := none, mark := some m, fwd := fwd } ∧ w = { v with coming := takeMsg s.now v.coming }
      ∧ v.past m.gen = true) :=
  ⟨⟨s3 (v3 false) w1, 1, 0, v3 false, {v3 false with coming := []}, ⟨false, 0, 1, false⟩, 399, true, by decide +kernel⟩,
   ⟨s3 (v3 true) w1, 1, 0, v3 true, {v3 true with coming := []}, ⟨true, 0, 1, false⟩, 399, true, by decide +kernel⟩,
   ⟨s3 {v3 true with gen := 1} w1, 1, 0, {v3 true with gen := 1}, {v3 true with gen := 1, coming := []}, ⟨true, 0, 1, false⟩,
     399, true, by decide +kernel⟩⟩

theorem test_ChainArrivals_4_met :
    ∃ (s : State) (c : CoreId) (i : Fin 4) (v : ChSlot) (n : ℕ) (rest : List ℕ), (s.core ↑c).chSlot ↑i = some v ∧ v.back = n ::
      rest :=
  ⟨s3 {v1 with back := [424, 425]} w1, 1, 0, {v1 with back := [424, 425]}, 424, [425], by decide +kernel⟩

theorem test_ChainLimits_1_met :
    ∃ (s : State) (c : CoreId) (i : Fin 4) (v : ChSlot) (t0 : ℕ), (s.core ↑c).chSlot ↑i = some v ∧ v.stallAt = some t0 ∧ s.now <
      t0 + v.desc.stallLimit :=
  ⟨s3 v1 {w1 with stallAt := some 397}, 2, 1, {w1 with stallAt := some 397}, 397, by decide +kernel⟩

theorem test_ChainLimits_2_met :
    (∃ (s : State) (c : CoreId) (i : Fin 4) (v : ChSlot) (v1 : ChSlot) (t0 : ℕ) (b : ChBlock) (x : State), (s.core ↑c).chSlot ↑i
      = some v ∧ v.stallAt = some t0 ∧ t0 + v.desc.stallLimit ≤ s.now ∧ stalledBlock s v = some b ∧ (v1 = { v with detached := true, catching := if 0 < v.allow then some b.gen else none, allow := v.allow - 1, stallAt := none })
      ∧ x = bypass (((taskTrace (setSlotOf s (↑c) (↑i) v1) 4 13 (slotDrove ↑c) (v.task.getD 0) [w32 ↑i, w32 b.gen, w32
      b.seq]).bump (slotDrove ↑c) 76 1).pulse (slotDrove ↑c) 4) v1 (predecessor s v) ∧ 0 < v.allow) ∧
    (∃ (s : State) (c : CoreId) (i : Fin 4) (v : ChSlot) (v1 : ChSlot) (t0 : ℕ) (b : ChBlock) (x : State) (t : ℕ), (s.core
      ↑c).chSlot ↑i = some v ∧ v.stallAt = some t0 ∧ t0 + v.desc.stallLimit ≤ s.now ∧ stalledBlock s v = some b ∧ (v1 = { v with detached := true, catching := if 0 < v.allow then some b.gen else none, allow := v.allow - 1, stallAt := none })
      ∧ x = bypass (((taskTrace (setSlotOf s (↑c) (↑i) v1) 4 13 (slotDrove ↑c) (v.task.getD 0) [w32 ↑i, w32 b.gen, w32
      b.seq]).bump (slotDrove ↑c) 76 1).pulse (slotDrove ↑c) 4) v1 (predecessor s v) ∧ v.allow = 0 ∧ slotTask s v = some t) :=
  ⟨⟨s3 vs ws, 2, 1, ws, ws1 ws (sb (s3 vs ws) ws), 396, sb (s3 vs ws) ws, xof (s3 vs ws) ws (sb (s3 vs ws) ws),
     by decide +kernel, by decide +kernel, by decide +kernel, by decide +kernel, by decide +kernel, rfl, by decide +kernel⟩,
   ⟨s3 vs wz, 2, 1, wz, ws1 wz (sb (s3 vs wz) wz), 396, sb (s3 vs wz) wz, xof (s3 vs wz) wz (sb (s3 vs wz) wz), 0,
     by decide +kernel, by decide +kernel, by decide +kernel, by decide +kernel, by decide +kernel, rfl, by decide +kernel⟩⟩

theorem test_ChainLimits_3_met :
    ∃ (s : State) (c : CoreId) (i : Fin 4) (v : ChSlot) (t0 : ℕ) (t : ℕ), (s.core ↑c).chSlot ↑i = some v ∧ v.waitAt = some t0 ∧
      v.task = some t ∧ 0 < v.desc.arrive ∧ t0 + v.desc.arrive ≤ s.now :=
  ⟨s3 v1 {w1 with waitAt := some 300}, 2, 1, {w1 with waitAt := some 300}, 300, 0, by decide +kernel⟩

theorem test_ChainLimits_4_met :
    ∃ (s : State) (c : CoreId) (i : Fin 4) (v : ChSlot) (t0 : ℕ), (s.core ↑c).chSlot ↑i = some v ∧ v.waitAt = some t0 ∧
      (v.desc.arrive = 0 ∨ s.now < t0 + v.desc.arrive) :=
  ⟨s3 v1 {w1 with waitAt := some 301}, 2, 1, {w1 with waitAt := some 301}, 301, by decide +kernel⟩

end Sys2Proof.Tests.Chains

namespace Sys2Proof.Tests.Droving
open Sys2Proof Sys2Proof.Machine Sys2Proof.Tests

def cmd (op ctx : Nat) (w2 w3 : Word) (cookie : Nat := 77) : Cmd := ⟨3, 0, fld op 24 ||| 5, fld cookie 16 ||| w32 ctx, w2, w3, 10, false⟩
def im (st : ImgState) : Image := { imageWith 1 [clTile] with tenant := 0, st := st, queue := 3, sess := 0 }
def sB (cs : List Cmd) (ims : List Image) : State := { (stQueue.setQueue 3 {HQueue.idle with sess := some 0, inflight := 2}) with now := 4000, drover := { Drover.start with cmds := cs, images := ims } }
def c2 : Cmd := cmd 2 0 0x20000000 0
def hdr : List Word := [0x0100001F, 96, 1, 0, 0, 64, 96, 96, 96, 0, 0, 0,0,0,0,0]
def tsk : List Word := [0x50000000, 0, 0x00008000, 1000, 0, 0x1000, 0, 0]
def sI : State := (sB [c2] []).mapMem (fun m => m.put 0x20000000 (wordsBytes (hdr ++ tsk)))
def imP : Image := match resideReason sI c2 with | .inr i => i | .inl _ => im .loading
def c3 : Cmd := cmd 3 0 0 0
def c4 : Cmd := cmd 4 2 100 1
def c4d : Cmd := ⟨3, 0, fld 4 24 ||| fld 9 10, fld 77 16, 0, 0, 10, false⟩
def sT (cs : List Cmd) (ten : Nat) : State := (sB cs [im .resident]).mapHost (fun h => {h with ctxs := [(2, ⟨.opened, 0, 0x20000000, 1, 3, 0, 0⟩)]}) |>.mapDrover (fun d => {d with templates := [(9, ⟨5, 2, 10, 3, 0, ten, 3⟩)]})
def c1 : Cmd := cmd 1 2 2000 0
def cnt (s : State) (rest : List Cmd) : State := countEvent (rollLedger (s.mapDrover (fun d => { d with cmds := rest, lastDec := some s.now }))) slotDrvr 1 1
def sS (r : List (BitVec 4)) : State := {sT [c1] 0 with roles := r}
def sH : State := {sS [] with resets := {Resets.start with compHurdle := true}}
def sOk : State := ((sS []).setReg slotMgmt 0x100 1)
def uOk := cnt sOk []
def snapV : Word := 0x000F0F00 ||| fld 0 0
def sN : State := {sB [] [] with drover := {Drover.start with demands := [⟨1, none, 255, 400, 3⟩, ⟨1, none, 255, 5000, 3⟩]}}

theorem test_ImagesAndTemplates_1_met :
    (∃ (s : State) (c : Cmd) (rest : List Cmd) (r : ℕ), s.drover.cmds = c :: rest ∧ c.op = 2 ∧ commonReason s c = some r) ∧
    (∃ (s : State) (c : Cmd) (rest : List Cmd) (r : ℕ), s.drover.cmds = c :: rest ∧ c.op = 2 ∧ commonReason s c = none ∧
      resideReason s c = Sum.inl r) ∧
    (∃ (s : State) (c : Cmd) (rest : List Cmd) (i : Image), s.drover.cmds = c :: rest ∧ c.op = 2 ∧ commonReason s c = none ∧
      resideReason s c = Sum.inr i) :=
  ⟨⟨sB [cmd 2 0 0x20000000 2] [], cmd 2 0 0x20000000 2, [], 1, by decide +kernel⟩,
   ⟨sB [c2] [im .resident], c2, [], 0x20, by decide +kernel⟩,
   ⟨sI, c2, [], imP, by decide +kernel⟩⟩

theorem test_ImagesAndTemplates_2_met :
    (∃ (s : State) (tenant : Byte) (index : Fin 1024) (i : Image), imageOf s (BitVec.toNat tenant) ↑index = some i ∧ i.st =
      ImgState.loading ∧ pinsLoaded s i = true) ∧
    (∃ (s : State) (tenant : Byte) (index : Fin 1024) (i : Image), imageOf s (BitVec.toNat tenant) ↑index = some i ∧ (i.st ≠
      ImgState.loading ∨ pinsLoaded s i = false)) ∧
    (∃ (s : State) (tenant : Byte) (index : Fin 1024) (i : Image), imageOf s (BitVec.toNat tenant) ↑index = some i ∧ i.st =
      ImgState.retiring ∧ (∀ x ∈ s.drover.insts, ¬(x.tenant = BitVec.toNat tenant ∧ x.image = ↑index))) ∧
    (∃ (s : State) (tenant : Byte) (index : Fin 1024) (i : Image), imageOf s (BitVec.toNat tenant) ↑index = some i ∧ (i.st ≠
      ImgState.retiring ∨ ∃ x ∈ s.drover.insts, x.tenant = BitVec.toNat tenant ∧ x.image = ↑index)) :=
  ⟨⟨sB [] [im .loading], 0, 5, im .loading, by decide +kernel⟩,
   ⟨sB [] [im .resident], 0, 5, im .resident, by decide +kernel⟩,
   ⟨sB [] [im .retiring], 0, 5, im .retiring, by decide +kernel⟩,
   ⟨sB [] [im .resident], 0, 5, im .resident, by decide +kernel⟩⟩

theorem test_ImagesAndTemplates_3_met :
    (∃ (s : State) (c : Cmd) (rest : List Cmd) (i : Image), s.drover.cmds = c :: rest ∧ c.op = 3 ∧ commonReason s c = none ∧
      imageOf s (sessTenant s c.sess) c.image = some i ∧ i.st = ImgState.resident) ∧
    (∃ (s : State) (c : Cmd) (rest : List Cmd), s.drover.cmds = c :: rest ∧ c.op = 3 ∧ commonReason s c = none ∧ (∀ (i : Image),
      imageOf s (sessTenant s c.sess) c.image = some i → i.st ≠ ImgState.resident)) :=
  ⟨⟨sB [c3] [im .resident], c3, [], im .resident, by decide +kernel⟩,
   ⟨sB [c3] [im .loading], c3, [], by decide +kernel⟩⟩

theorem test_ImagesAndTemplates_4_met :
    (∃ (s : State) (c : Cmd) (rest : List Cmd), s.drover.cmds = c :: rest ∧ c.op = 4 ∧ templateReason s c = none ∧ bit c.w3 0 =
      true) ∧
    (∃ (s : State) (c : Cmd) (rest : List Cmd), s.drover.cmds = c :: rest ∧ c.op = 4 ∧ templateReason s c = none ∧ bit c.w3 0 =
      false) :=
  ⟨⟨sT [c4] 0, c4, [], by decide +kernel⟩,
   ⟨sT [c4d] 0, c4d, [], by decide +kernel⟩⟩

theorem test_ImagesAndTemplates_5_met :
    ∃ (s : State) (c : Cmd) (rest : List Cmd), s.drover.cmds = c :: rest ∧ c.op = 4 ∧ commonReason s c = none ∧ templateForeign
      s c = true ∧ bit c.w3 0 = false :=
  ⟨sT [c4d] 1, c4d, [], by decide +kernel⟩

theorem test_SubmissionsAreDecided_1_met :
    ∃ (s : State) (c : Cmd) (rest : List Cmd), s.drover.cmds = c :: rest ∧ c.op = 1 ∧ submitReady s = false :=
  ⟨(sB [c1] []).mapDrover (fun d => {d with lastDec := some 3801}), c1, [], by decide +kernel⟩

theorem test_SubmissionsAreDecided_2_met :
    (∃ (s : State) (u : State) (c : Cmd) (rest : List Cmd), s.drover.cmds = c :: rest ∧ c.op = 1 ∧ submitReady s = true ∧ (u =
      countEvent (rollLedger (s.mapDrover fun (d : Drover) => { d with cmds := rest, lastDec := some s.now })) slotDrvr 1 1) ∧
      commonReason u c = none ∧ u.roles ≠ []) ∧
    (∃ (s : State) (u : State) (c : Cmd) (rest : List Cmd), s.drover.cmds = c :: rest ∧ c.op = 1 ∧ submitReady s = true ∧ (u =
      countEvent (rollLedger (s.mapDrover fun (d : Drover) => { d with cmds := rest, lastDec := some s.now })) slotDrvr 1 1) ∧
      commonReason u c = none ∧ u.roles = [] ∧ u.hurdled RDom.compute = true) ∧
    (∃ (s : State) (u : State) (c : Cmd) (rest : List Cmd) (i : Image) (slots : List ℕ) (new : List Demand), s.drover.cmds = c
      :: rest ∧ c.op = 1 ∧ submitReady s = true ∧ (u = countEvent (rollLedger (s.mapDrover fun (d : Drover) => { d with cmds := rest, lastDec := some s.now }))
      slotDrvr 1 1) ∧ commonReason u c = none ∧ u.roles = [] ∧ u.hurdled RDom.compute = false ∧ imageOf u (sessTenant u c.sess)
      c.image = some i ∧ i.st = ImgState.resident ∧ ctxOk u (sessTenant u c.sess) c.ctx = true ∧ placeReason u i = none ∧ slots
      = List.take i.tasks.length (freeTaskSlots u) ∧ new = newDemands u i u.drover.instCtr (c.bell + BitVec.toNat c.w2) slots ∧
      loadReason u i (c.bell + BitVec.toNat c.w2) slots new = none) :=
  ⟨⟨sS [3], cnt (sS [3]) [], c1, [], by decide +kernel, by decide +kernel, by decide +kernel, rfl, by decide +kernel⟩,
   ⟨sH, cnt sH [], c1, [], by decide +kernel, by decide +kernel, by decide +kernel, rfl, by decide +kernel⟩,
   ⟨sOk, uOk, c1, [], im .resident, [0], newDemands uOk (im .resident) 1 2010 [0], by decide +kernel, by decide +kernel,
     by decide +kernel, rfl, by decide +kernel⟩⟩

theorem test_SubmissionsAreDecided_3_met :
    ∃ (s : State), s.ac < s.drover.slotBase + 5000 :=
  ⟨{sB [] [] with now := 199999}, by decide +kernel⟩

theorem test_SubmissionsAreDecided_4_met :
    ∃ (s : State), s.drover.slotBase + 5000 ≤ s.ac :=
  ⟨{sB [] [] with now := 200000, drover := {Drover.start with demands := [⟨1, none, 0, 4999, 3⟩, ⟨1, none, 0, 5000, 3⟩]}},
    by decide +kernel⟩

theorem test_SubmissionsAreDecided_5_met :
    ∃ (s : State) (r : State) (f : FuncId) (v : Word), Reaches s f (regAt slotDrvr 128) ∧ bits v 20 16 < 16 ∧ r = rollLedger
      (s.fromHost.setReg slotDrvr 128 (v &&& 2035519)) :=
  ⟨sN, rollLedger (sN.fromHost.setReg slotDrvr 0x080 (snapV &&& 0x001F0F3F)), 0, snapV, reaches (by decide +kernel),
    by decide +kernel, rfl⟩

theorem test_AdmittedInstancesPassTheChecks_met :
    ∃ (s : State) (t : State), exec Instr.submit s = Host.Outcome.next t ∧ t.drover.instCtr ≠ s.drover.instCtr :=
  ⟨sOk, nextSt (exec .submit sOk), rfl, by decide +kernel⟩

end Sys2Proof.Tests.Droving

namespace Sys2Proof.Tests.Herding
open Sys2Proof Sys2Proof.Machine Sys2Proof.Tests

def clBank : Claim := ⟨0x40000000, 0, 0, 0⟩
def jb (w0 cnt : Word) (im : Word := 0x10000200) (w7 : Word := 0): List Word := [w0, im, 0x10000400, 16, cnt, 0x10000600, 0, w7, 0,0,0,0,0,0,0,0]
def hd : List Word := [0x01000001, 1, 1, 512, 128, 136, 144, 3, 0, 0, 0, 0, 1, 0, 0, 0] ++ List.replicate 16 0
def ft : List Word := [0x20000001, 168]
def tr : List Word := [0, (fld 1 27 ||| 3)]
def nodes : List Word := [fld 1 24 ||| 1, 0, 0x3F800000, 0x80000000, 0x40000000, 0x80000000]
def imgW : List Word := hd ++ ft ++ tr ++ nodes ++ [10]
/-- The nonzero bytes of words from an address. -/
def cellsOf (a : Nat) (ws : List Word) : List Host.Cell := ((wordsBytes ws).zipIdx a).filterMap (fun p => if p.1 = 0 then none else some (p.2, p.1))
/-- A job at 0x10000000, and its image at 0x10000200, with the check values of their blocks. -/
def sJ (j im : List Word) (cj ci : Word) : State :=
  { stTask 3 [] with
    mem := ⟨cellsOf 0x10000000 j ++ cellsOf 0x10000200 im, [(524288, cj), (524289, ci)], []⟩ }
def uo (s : State) : State := s.setReg slotHerd 0x058 (w32 0x10000000)
def a0 : Nat := 0x10000000
def sA : State := sJ (jb 0x01000000 2) imgW 1232551367 1428074138
def sUn : State := sA.mapDrover (fun d => {d with images := d.images.map (fun i => {i with tasks := i.tasks.map (fun t => {t with progOff := 32})})})
def sMk : State := sA.mapMem (fun m => m.mark 0x10000008)
def rdOf (s : State) : State := match herdRead (uo s) 0 0 a0 64 with | some w => w | none => s
def args (s : State) (j : List Word) := ()
def sB1 : State := sJ (jb 0x02000000 2) [] 1216757447 zeroCheck
def sB2 : State := sJ (jb 0x01000000 2 0x10000208) [] 1365720527 zeroCheck
def hB := hd.set 3 100
def sB3 : State := sJ (jb 0x01000000 2) (hB ++ imgW.drop 32) 1232551367 3265834238
def imgF : List Word := hd ++ [0x40000001, 168] ++ imgW.drop 34
def sBf : State := sJ (jb 0x01000000 2) imgF 1232551367 0x3686ce9a
def fcode : Nat := (featCode hd 0x40000001 168).getD 99
def fs : List Feat := [⟨0, true, 1, 168⟩]
def sB4 : State := sJ (jb 0x01000000 0) imgW 1200045509 1428074138
def sB5 : State :=
  { stTask 3 [] with
    mem := ⟨cellsOf 0x10000000 (jb 0x01000010 2 0x10000200 0x10000480) ++ cellsOf 0x10000200 imgW ++ cellsOf 0x10000480 [3], [(524288, 2878624343), (524289, 1428074138), (524290, 3080913080)], []⟩ }
/-- The job as it runs from its first record. -/
def r1 : HerdRun := ⟨0, 0x10000000, jb 0x01000000 2, hd, fs, 2, 16, 0, 0, [], [], 0⟩
def run (s : State) (r : HerdRun) : State := { s with herd := ⟨some r, [], none⟩ }
def mp : List (List Word) := [[10]]
def un (s : State) : State := s
def scT (s : State) (r : HerdRun) (v : List Word) (b : List (Option Nat)) : State ⊕ RecAcc := scoreTrees ⟨r, r.next, v, b⟩ (List.range (hTrees r.header)) ⟨⟨s, 0⟩, startSums s r, [], 0⟩
/-- The trees, nodes, map and first record that the job reads. -/
def s1 : State := run { stTask 3 [] with mem := ⟨[(268436108, 3), (268436111, 8), (268436112, 1), (268436115, 1), (268436122, 128), (268436123, 63), (268436127, 128), (268436131, 64), (268436135, 128), (268436136, 10), (268436480, 5)], [(524289, 1951631698), (524290, 3127050426)], []⟩ } r1
def getU (x : State ⊕ RecAcc) : State := match x with
  | .inl u => u
  | .inr a => a.at_.st
def getA (x : State ⊕ RecAcc) : RecAcc := match x with
  | .inr a => a
  | .inl u => ⟨⟨u, 0⟩, [], [], 0⟩
theorem inl_getU {x : State ⊕ RecAcc} (h : x.isLeft = true) : x = .inl (getU x) := by
  cases x with
  | inl a => rfl
  | inr a => cases h
theorem inr_getA {x : State ⊕ RecAcc} (h : x.isRight = true) : x = .inr (getA x) := by
  cases x with
  | inl a => cases h
  | inr a => rfl
def s1p : State := { s1 with mem := { s1.mem with poison := [0x10000400 / 8] } }
/-- The same with a leaf value that is infinite. -/
def s1n : State := run { stTask 3 [] with mem := ⟨[(268436108, 3), (268436111, 8), (268436112, 1), (268436115, 1), (268436122, 128), (268436123, 127), (268436127, 128), (268436131, 64), (268436135, 128), (268436136, 10), (268436480, 5)], [(524289, 922143058), (524290, 3127050426)], []⟩ } r1
def hV := hd.set 2 3
def rV : HerdRun := { r1 with header := hV }
def s1v : State := run s1 rV
def o2 : HerdOut := ⟨0, [⟨0x400000000000, 0x216, 0, false, false, false, false, false⟩], [1], [some 0], some []⟩
def r2 : HerdRun := { r1 with next := 1, outs := [o2] }
def s2 : State := run sA r2
def bf2 : List Byte := r2.buf ++ outRecord r2.words r2.header o2 []
def r4 : HerdRun := { r1 with next := 2, written := 2, blocks := 1 }
def s4 : State := run sA r4
def r3 : HerdRun := { r1 with next := 2, written := 1, outs := [{ o2 with index := 1, counts := none }] }
def s3 : State := run sA r3
def u4 : State := (((({s4 with herd := {s4.herd with run := none, marked := []}} : State).bump slotHerd 0x040 1).pulse slotHerd 1).mapPaddock (fun p => { p with search := none, builds := [] }))
def e1 : WalkEnv := ⟨r1, 0, [5], [some 0]⟩
def wA (x : WalkEnd) : WalkAt := match x with
  | .leaf w _ _ _ => w
  | _ => ⟨State.reset, 0⟩
def wN (x : WalkEnd) : Nat := match x with
  | .leaf _ n _ _ => n
  | _ => 0
def wL (x : WalkEnd) : Word := match x with
  | .leaf _ _ l _ => l
  | _ => 0
def wH (x : WalkEnd) : Word := match x with
  | .leaf _ _ _ h => h
  | _ => 0
def isLeaf (x : WalkEnd) : Bool := match x with
  | .leaf .. => true
  | _ => false
theorem leaf_of {x : WalkEnd} (h : isLeaf x = true) : x = .leaf (wA x) (wN x) (wL x) (wH x) := by
  cases x <;> first | rfl | cases h
def we : WalkEnd := walk e1 0 3 1 3 ⟨s1, 0⟩ 0

theorem test_HerdJobStarts_1_met :
    ∃ (s : State), (herdTask s = none ∨ s.herd.run ≠ none) :=
  ⟨State.reset, by decide +kernel⟩

theorem test_HerdJobStarts_2_met :
    (∃ (s : State) (u : State) (n : ℕ) (d : TaskD) (a : ℕ) (j : List Word), herdTask s = some n ∧ s.herd.run = none ∧ taskD s n
      = some d ∧ a = 268435456 + d.progOff ∧ u = s.setReg slotHerd 88 (w32 a) ∧ j = s.mem.words a 16 ∧ a % 64 ≠ 0 ∧ herdRead u n
      0 a 4 = none) ∧
    (∃ (s : State) (u : State) (n : ℕ) (d : TaskD) (a : ℕ) (j : List Word) (w : State), herdTask s = some n ∧ s.herd.run = none
      ∧ taskD s n = some d ∧ a = 268435456 + d.progOff ∧ u = s.setReg slotHerd 88 (w32 a) ∧ j = s.mem.words a 16 ∧ herdRead u n
      0 a (if a % 64 = 0 then 64 else 4) = some w) ∧
    (∃ (s : State) (u : State) (n : ℕ) (d : TaskD) (a : ℕ) (j : List Word), herdTask s = some n ∧ s.herd.run = none ∧ taskD s n
      = some d ∧ a = 268435456 + d.progOff ∧ u = s.setReg slotHerd 88 (w32 a) ∧ j = s.mem.words a 16 ∧ a % 64 = 0 ∧ herdRead u n
      0 a 64 = none ∧ jobBad j = true) ∧
    (∃ (s : State) (u : State) (n : ℕ) (d : TaskD) (a : ℕ) (j : List Word), herdTask s = some n ∧ s.herd.run = none ∧ taskD s n
      = some d ∧ a = 268435456 + d.progOff ∧ u = s.setReg slotHerd 88 (w32 a) ∧ j = s.mem.words a 16 ∧ a % 64 = 0 ∧ herdRead u n
      0 a 64 = none ∧ jobBad j = false ∧ jobMisaligned j = true) ∧
    (∃ (s : State) (u : State) (n : ℕ) (d : TaskD) (a : ℕ) (j : List Word) (h : List Word) (c : ℕ), herdTask s = some n ∧
      s.herd.run = none ∧ taskD s n = some d ∧ a = 268435456 + d.progOff ∧ u = s.setReg slotHerd 88 (w32 a) ∧ j = s.mem.words a
      16 ∧ a % 64 = 0 ∧ herdRead u n 0 a 64 = none ∧ jobBad j = false ∧ jobMisaligned j = false ∧ herdRead u n 0 (jImage j) 128
      = none ∧ h = s.mem.words (jImage j) 32 ∧ headerCode h (jImage j) = some c) ∧
    (∃ (s : State) (u : State) (n : ℕ) (d : TaskD) (a : ℕ) (j : List Word) (h : List Word) (i : ℕ) (c : ℕ), herdTask s = some n
      ∧ s.herd.run = none ∧ taskD s n = some d ∧ a = 268435456 + d.progOff ∧ u = s.setReg slotHerd 88 (w32 a) ∧ j = s.mem.words
      a 16 ∧ a % 64 = 0 ∧ herdRead u n 0 a 64 = none ∧ jobBad j = false ∧ jobMisaligned j = false ∧ herdRead u n 0 (jImage j)
      128 = none ∧ h = s.mem.words (jImage j) 32 ∧ headerCode h (jImage j) = none ∧ herdRead u n 0 (jImage j + hOffFeat h) (8 *
      hFeat h) = none ∧ i < hFeat h ∧ (∀ k < i, featCode h (s.mem.word (jImage j + hOffFeat h + 8 * k)) (s.mem.word (jImage j +
      hOffFeat h + 8 * k + 4)) = none) ∧ featCode h (s.mem.word (jImage j + hOffFeat h + 8 * i)) (s.mem.word (jImage j +
      hOffFeat h + 8 * i + 4)) = some c) ∧
    (∃ (s : State) (u : State) (n : ℕ) (d : TaskD) (a : ℕ) (j : List Word) (h : List Word) (fs : List Feat) (c : ℕ), herdTask s
      = some n ∧ s.herd.run = none ∧ taskD s n = some d ∧ a = 268435456 + d.progOff ∧ u = s.setReg slotHerd 88 (w32 a) ∧ j =
      s.mem.words a 16 ∧ a % 64 = 0 ∧ herdRead u n 0 a 64 = none ∧ jobBad j = false ∧ jobMisaligned j = false ∧ herdRead u n 0
      (jImage j) 128 = none ∧ h = s.mem.words (jImage j) 32 ∧ headerCode h (jImage j) = none ∧ herdRead u n 0 (jImage j +
      hOffFeat h) (8 * hFeat h) = none ∧ (∀ i < hFeat h, featCode h (s.mem.word (jImage j + hOffFeat h + 8 * i)) (s.mem.word
      (jImage j + hOffFeat h + 8 * i + 4)) = none) ∧ fs = List.map (fun (i : ℕ) => parseFeat (s.mem.word (jImage j + hOffFeat h
      + 8 * i)) (s.mem.word (jImage j + hOffFeat h + 8 * i + 4))) (List.range (hFeat h)) ∧ jobCode u n j h = some c) ∧
    (∃ (s : State) (u : State) (n : ℕ) (d : TaskD) (a : ℕ) (j : List Word) (h : List Word) (fs : List Feat) (count : ℕ),
      herdTask s = some n ∧ s.herd.run = none ∧ taskD s n = some d ∧ a = 268435456 + d.progOff ∧ u = s.setReg slotHerd 88 (w32
      a) ∧ j = s.mem.words a 16 ∧ a % 64 = 0 ∧ herdRead u n 0 a 64 = none ∧ jobBad j = false ∧ jobMisaligned j = false ∧
      herdRead u n 0 (jImage j) 128 = none ∧ h = s.mem.words (jImage j) 32 ∧ headerCode h (jImage j) = none ∧ herdRead u n 0
      (jImage j + hOffFeat h) (8 * hFeat h) = none ∧ (∀ i < hFeat h, featCode h (s.mem.word (jImage j + hOffFeat h + 8 * i))
      (s.mem.word (jImage j + hOffFeat h + 8 * i + 4)) = none) ∧ fs = List.map (fun (i : ℕ) => parseFeat (s.mem.word (jImage j +
      hOffFeat h + 8 * i)) (s.mem.word (jImage j + hOffFeat h + 8 * i + 4))) (List.range (hFeat h)) ∧ jobCode u n j h = none ∧
      (count = if jInd j = true then BitVec.toNat (s.mem.word (jCountAt j)) else jCount j) ∧ (jInd j = true → herdRead u n 0
      (jCountAt j) 4 = none) ∧ jCount j < count) ∧
    (∃ (s : State) (u : State) (n : ℕ) (d : TaskD) (a : ℕ) (j : List Word) (h : List Word) (fs : List Feat) (count : ℕ),
      herdTask s = some n ∧ s.herd.run = none ∧ taskD s n = some d ∧ a = 268435456 + d.progOff ∧ u = s.setReg slotHerd 88 (w32
      a) ∧ j = s.mem.words a 16 ∧ a % 64 = 0 ∧ herdRead u n 0 a 64 = none ∧ jobBad j = false ∧ jobMisaligned j = false ∧
      herdRead u n 0 (jImage j) 128 = none ∧ h = s.mem.words (jImage j) 32 ∧ headerCode h (jImage j) = none ∧ herdRead u n 0
      (jImage j + hOffFeat h) (8 * hFeat h) = none ∧ (∀ i < hFeat h, featCode h (s.mem.word (jImage j + hOffFeat h + 8 * i))
      (s.mem.word (jImage j + hOffFeat h + 8 * i + 4)) = none) ∧ fs = List.map (fun (i : ℕ) => parseFeat (s.mem.word (jImage j +
      hOffFeat h + 8 * i)) (s.mem.word (jImage j + hOffFeat h + 8 * i + 4))) (List.range (hFeat h)) ∧ jobCode u n j h = none ∧
      (count = if jInd j = true then BitVec.toNat (s.mem.word (jCountAt j)) else jCount j) ∧ (jInd j = true → herdRead u n 0
      (jCountAt j) 4 = none) ∧ count ≤ jCount j ∧ (jPad j = true → bankBad u n (hFeat h) = none)) :=
  ⟨⟨sUn, sUn.setReg slotHerd 0x058 0x10000020, 0, ((taskD sUn 0).get (by decide +kernel)), 0x10000020, sUn.mem.words 0x10000020
     16, by decide +kernel, by decide +kernel, by decide +kernel, by decide +kernel, rfl, by decide +kernel⟩,
   ⟨sMk, uo sMk, 0, ((taskD sMk 0).get (by decide +kernel)), a0, jb 0x01000000 2, rdOf sMk, by decide +kernel,
     by decide +kernel, by decide +kernel, by decide +kernel, rfl, by decide +kernel⟩,
   ⟨sB1, uo sB1, 0, ((taskD sB1 0).get (by decide +kernel)), a0, jb 0x02000000 2, by decide +kernel, by decide +kernel,
     by decide +kernel, by decide +kernel, rfl, by decide +kernel⟩,
   ⟨sB2, uo sB2, 0, ((taskD sB2 0).get (by decide +kernel)), a0, jb 0x01000000 2 0x10000208, by decide +kernel,
     by decide +kernel, by decide +kernel, by decide +kernel, rfl, by decide +kernel⟩,
   ⟨sB3, uo sB3, 0, ((taskD sB3 0).get (by decide +kernel)), a0, jb 0x01000000 2, hB, 2, by decide +kernel, by decide +kernel,
     by decide +kernel, by decide +kernel, rfl, by decide +kernel⟩,
   ⟨sBf, uo sBf, 0, ((taskD sBf 0).get (by decide +kernel)), a0, jb 0x01000000 2, hd, 0, fcode, by decide +kernel,
     by decide +kernel, by decide +kernel, by decide +kernel, rfl, by decide +kernel⟩,
   ⟨sB4, uo sB4, 0, ((taskD sB4 0).get (by decide +kernel)), a0, jb 0x01000000 0, hd, fs, 4, by decide +kernel,
     by decide +kernel, by decide +kernel, by decide +kernel, rfl, by decide +kernel⟩,
   ⟨sB5, uo sB5, 0, ((taskD sB5 0).get (by decide +kernel)), a0, jb 0x01000010 2 0x10000200 0x10000480, hd, fs, 3,
     by decide +kernel, by decide +kernel, by decide +kernel, by decide +kernel, rfl, by decide +kernel⟩,
   ⟨sA, uo sA, 0, ((taskD sA 0).get (by decide +kernel)), a0, jb 0x01000000 2, hd, fs, 2, by decide +kernel, by decide +kernel,
     by decide +kernel, by decide +kernel, rfl, by decide +kernel⟩⟩

theorem test_HerdJobStarts_3_met :
    ∃ (s : State) (t : State), exec Instr.herdJobStart s = Host.Outcome.next t :=
  ⟨sA, herdJobStart sA, rfl⟩

theorem test_HerdRecords_1_met :
    (∃ (s : State) (u0 : State) (r : HerdRun) (maps : List (List Word)) (vals : List Word) (bins : List (Option ℕ)) (u : State),
      s.herd.run = some r ∧ r.next < r.count ∧ aborting s r.task = false ∧ (s.dom 22).st = PSt.run ∧ s.inReset RDom.herd = false
      ∧ (maps = List.map (fun (f : Feat) => if f.binned = true then s.mem.words (jImage r.words + f.offMap) f.ncut else [])
      r.feats) ∧ vals = s.mem.words (jRec r.words + r.next * jStride r.words) (hFeat r.header) ∧ bins = List.map (fun (p : (Feat
      × List Word) × Word) => binOf p.1.1 p.1.2 p.2) ((r.feats.zip maps).zip vals) ∧ (u0 = if (((r.feats.zip maps).zip vals).any
      fun (p : (Feat × List Word) × Word) => unseen p.1.1 p.1.2 p.2) = true then (s.bump slotHerd 80 1).pulse slotHerd 2 else s)
      ∧ recordRead s r = some u) ∧
    (∃ (s : State) (u0 : State) (r : HerdRun) (maps : List (List Word)) (vals : List Word) (bins : List (Option ℕ)) (u : State),
      s.herd.run = some r ∧ r.next < r.count ∧ aborting s r.task = false ∧ (s.dom 22).st = PSt.run ∧ s.inReset RDom.herd = false
      ∧ (maps = List.map (fun (f : Feat) => if f.binned = true then s.mem.words (jImage r.words + f.offMap) f.ncut else [])
      r.feats) ∧ vals = s.mem.words (jRec r.words + r.next * jStride r.words) (hFeat r.header) ∧ bins = List.map (fun (p : (Feat
      × List Word) × Word) => binOf p.1.1 p.1.2 p.2) ((r.feats.zip maps).zip vals) ∧ (u0 = if (((r.feats.zip maps).zip vals).any
      fun (p : (Feat × List Word) × Word) => unseen p.1.1 p.1.2 p.2) = true then (s.bump slotHerd 80 1).pulse slotHerd 2 else s)
      ∧ recordRead s r = none ∧ scoreTrees { run := r, rix := r.next, vals := vals, bins := bins } (List.range (hTrees
      r.header)) { at_ := { st := u0, visits := 0 }, sums := startSums s r, leaves := [], depths := 0 } = Sum.inl u) ∧
    (∃ (s : State) (u0 : State) (r : HerdRun) (maps : List (List Word)) (vals : List Word) (bins : List (Option ℕ)) (acc :
      RecAcc), s.herd.run = some r ∧ r.next < r.count ∧ aborting s r.task = false ∧ (s.dom 22).st = PSt.run ∧ s.inReset
      RDom.herd = false ∧ (maps = List.map (fun (f : Feat) => if f.binned = true then s.mem.words (jImage r.words + f.offMap)
      f.ncut else []) r.feats) ∧ vals = s.mem.words (jRec r.words + r.next * jStride r.words) (hFeat r.header) ∧ bins = List.map
      (fun (p : (Feat × List Word) × Word) => binOf p.1.1 p.1.2 p.2) ((r.feats.zip maps).zip vals) ∧ (u0 = if (((r.feats.zip
      maps).zip vals).any fun (p : (Feat × List Word) × Word) => unseen p.1.1 p.1.2 p.2) = true then (s.bump slotHerd 80
      1).pulse slotHerd 2 else s) ∧ recordRead s r = none ∧ scoreTrees { run := r, rix := r.next, vals := vals, bins := bins }
      (List.range (hTrees r.header)) { at_ := { st := u0, visits := 0 }, sums := startSums s r, leaves := [], depths := 0 } =
      Sum.inr acc ∧ r.next = 0 ∧ acc.depths ≠ hVisits r.header) ∧
    (∃ (s : State) (u0 : State) (r : HerdRun) (maps : List (List Word)) (vals : List Word) (bins : List (Option ℕ)) (acc :
      RecAcc), s.herd.run = some r ∧ r.next < r.count ∧ aborting s r.task = false ∧ (s.dom 22).st = PSt.run ∧ s.inReset
      RDom.herd = false ∧ (maps = List.map (fun (f : Feat) => if f.binned = true then s.mem.words (jImage r.words + f.offMap)
      f.ncut else []) r.feats) ∧ vals = s.mem.words (jRec r.words + r.next * jStride r.words) (hFeat r.header) ∧ bins = List.map
      (fun (p : (Feat × List Word) × Word) => binOf p.1.1 p.1.2 p.2) ((r.feats.zip maps).zip vals) ∧ (u0 = if (((r.feats.zip
      maps).zip vals).any fun (p : (Feat × List Word) × Word) => unseen p.1.1 p.1.2 p.2) = true then (s.bump slotHerd 80
      1).pulse slotHerd 2 else s) ∧ recordRead s r = none ∧ scoreTrees { run := r, rix := r.next, vals := vals, bins := bins }
      (List.range (hTrees r.header)) { at_ := { st := u0, visits := 0 }, sums := startSums s r, leaves := [], depths := 0 } =
      Sum.inr acc ∧ (r.next = 0 → acc.depths = hVisits r.header)) :=
  ⟨⟨s1p, s1p, r1, mp, [5], [some 0], (recordRead s1p r1).get (by decide +kernel), by decide +kernel, by decide +kernel,
     by decide +kernel, by decide +kernel, by decide +kernel, by decide +kernel, by decide +kernel, by decide +kernel, rfl,
     (Option.some_get (by decide +kernel)).symm⟩,
   ⟨s1n, s1n, r1, mp, [5], [some 0], getU (scT s1n r1 [5] [some 0]), by decide +kernel, by decide +kernel, by decide +kernel,
     by decide +kernel, by decide +kernel, by decide +kernel, by decide +kernel, by decide +kernel, rfl, by decide +kernel,
     inl_getU (by decide +kernel)⟩,
   ⟨s1v, s1v, rV, mp, [5], [some 0], getA (scT s1v rV [5] [some 0]), by decide +kernel, by decide +kernel, by decide +kernel,
     by decide +kernel, by decide +kernel, by decide +kernel, by decide +kernel, by decide +kernel, rfl, by decide +kernel,
     inr_getA (by decide +kernel), by decide +kernel⟩,
   ⟨s1, s1, r1, mp, [5], [some 0], getA (scT s1 r1 [5] [some 0]), by decide +kernel, by decide +kernel, by decide +kernel,
     by decide +kernel, by decide +kernel, by decide +kernel, by decide +kernel, by decide +kernel, rfl, by decide +kernel,
     inr_getA (by decide +kernel), by decide +kernel⟩⟩

theorem test_HerdRecords_2_met :
    ∃ (s : State), (∀ (r : HerdRun), s.herd.run = some r → r.count ≤ r.next ∨ aborting s r.task = true ∨ (s.dom 22).st ≠ PSt.run
      ∨ s.inReset RDom.herd = true) :=
  ⟨State.reset, by decide +kernel⟩

theorem test_HerdRecords_3_met :
    ∃ (s : State) (r : HerdRun) (o : HerdOut) (rest : List HerdOut) (cs : List ℕ) (buf : List Byte) (n : ℕ) (w : ℕ), s.herd.run
      = some r ∧ r.outs = o :: rest ∧ aborting s r.task = false ∧ (s.dom 22).st = PSt.run ∧ s.inReset RDom.herd = false ∧
      o.counts = some cs ∧ buf = r.buf ++ outRecord r.words r.header o cs ∧ (n = if r.count ≤ o.index + 1 then (buf.length +
      511) / 512 else buf.length / 512) ∧ (w = if r.count ≤ o.index + 1 then r.count else min r.count (512 * (r.blocks + n) /
      max 1 r.osize)) :=
  ⟨s2, r2, o2, [], [], bf2, 0, 0, by decide +kernel⟩

theorem test_HerdRecords_4_met :
    ∃ (s : State) (r : HerdRun) (o : HerdOut) (rest : List HerdOut), s.herd.run = some r ∧ r.outs = o :: rest ∧ o.counts = none :=
  ⟨s3, r3, { o2 with index := 1, counts := none }, [], by decide +kernel⟩

theorem test_HerdRecords_5_met :
    (∃ (s : State) (r : HerdRun), s.herd.run = some r ∧ r.written = r.count ∧ aborting s r.task = false) ∧
    (∃ (s : State) (r : HerdRun), s.herd.run = some r ∧ (r.written ≠ r.count ∨ aborting s r.task = true)) :=
  ⟨⟨s4, r4, by decide +kernel⟩,
   ⟨s3, r3, by decide +kernel⟩⟩

theorem test_WalksStayInTheirTree_met :
    ∃ (e : WalkEnv) (root : ℕ) (count : ℕ) (depth : ℕ) (fuel : ℕ) (n : ℕ) (s : State) (w : WalkAt) (lo : Word) (hi : Word), 0 <
      count ∧ walk e root count depth fuel { st := s, visits := 0 } root = WalkEnd.leaf w n lo hi :=
  ⟨e1, 0, 3, 1, 3, wN we, s1, wA we, wL we, wH we, by decide +kernel, leaf_of (by decide +kernel)⟩

end Sys2Proof.Tests.Herding

namespace Sys2Proof.Tests.Tasking
open Sys2Proof Sys2Proof.Machine Sys2Proof.Tests

def tk (inst : Nat) (st : TState) (dl : Nat) : Task := ⟨inst, 0, st, 0, 0, 0, [], 0, dl, false, [], []⟩
def cSave : Claim := ⟨0x60000000, 0, 0, 0x1000⟩
def sD (a : Task) (b : Option Task) (cls : List Claim) (kind : Nat := 1) : State :=
  (stTask kind cls).mapDrover (fun d => { d with insts := d.insts ++ [⟨2, 1, 5, 0, 0, 3, 10, 9000, 0, [1], false⟩], tasks := (0, a) :: (match b with | some b => [(1, b)] | none => []) })
def sR : State := sD (tk 1 .ready 10000) none [clTile]
def k0 (s : State) (n : Nat) : Task := match s.task n with
  | some x => x
  | none => ⟨0, 0, .waiting, 0, 0, 0, [], 0, 0, false, [], []⟩
def d0 (s : State) (n : Nat) : TaskD := match taskD s n with
  | some x => x
  | none => ⟨0, false, 0, 0, 0, 0, 0, 0, 0, 0, 0, 0⟩
def i0 (s : State) (n : Nat) : Image := match imageOfTask s n with
  | some x => x
  | none => imageWith 0 []
def sW : State := sD (tk 1 .waiting 10000) none [clTile]
def sS : State := (sD (tk 1 .running 10000) (some (tk 2 .ready 9000)) [clTile, cSave]).mapCore 0 (fun k => {k with prog := some prog1, tileA := {tileHeld none with elems := [(3, W64.ofF32 0x3FC00000)]}})
def osS := ((resourcesIn sS 1).filterMap (occupant sS)).eraseDups
def sS2 : State := (sD (tk 1 .running 8000) (some (tk 2 .ready 9000)) [clTile, cSave]).mapCore 0 (fun k => {k with prog := some prog1})
def sS3 := nextSt (exec (.taskSuspend 1) sS)
def sS3q : State := sS3.mapCore 0 (fun k => {k with arrQ := [⟨[], 0, 1, none, 0⟩]})
def sS4 := nextSt (exec (.suspendDrained 0) sS3)
def sS5 : State := {sS4 with now := 592}
def sS6 := nextSt (exec (.suspendSaveComplete 0) sS5)
def sS7 : State := (sS6.mapCore 0 (fun k => stopCore k 1)).mapDrover (fun d => {d with tasks := Tbl.del d.tasks 1})
def sZ (n : Nat) (l : List Saved) : State := {sD {tk 1 .restoring 10000 with since := 300, saved := l} none [clTile, cSave] with now := n}
def sZ0 : State := sZ 784 []
def sS9b : State := (sZ 784 [⟨0, 0, false, none, none, [], 0⟩]).mapMem (fun m => {m with poison := [0x20001000/8]})
def sE (ws : List Word) : State := stProg 1 [clTile] ws { Core.idle with chans := [(2, armed 2 4 0x100 false)] }
def fr (s : State) : State × Prog × List Word := match front s 0 with
  | .words u p w => (u, p, w)
  | _ => (s, prog0, [])
def wk : List Word := [0xFF000000,1,2,3]
def wg : List Word := [0x21000000,0,0,0]
def sO : State := {sS with now := 1001}
def sO1 : State := {sS with now := 1000}
def sOh (n : Nat) : State := {sD (tk 1 .running 10000) none [] 3 with now := n}
def sV : State := {stTask 1 [] with drover := {(stTask 1 []).drover with reserve := [(0,320001)], demands := [⟨1, some 0, 0, 10000, 5⟩], slotBase := 0}}
def sC : State := (sD (tk 1 .running 10000) none []).mapCore 0 (fun k => {k with prog := some {prog1 with ended := true}})
def sAb : State := sS.mapDrover (fun d => {d with aborts := [⟨1,0x0401,none⟩,⟨1,7,none⟩,⟨2,7,none⟩], demands := [⟨1, some 0, 0, 10000, 5⟩]})

theorem test_TasksDispatchAndSuspend_1_met :
    ∃ (s : State) (n : Fin 4096) (k : Machine.Task) (d : TaskD) (i : Image), s.task ↑n = some k ∧ taskD s ↑n = some d ∧
      imageOfTask s ↑n = some i ∧ k.st = TState.ready ∧ aborting s ↑n = false ∧ d.kind ≠ kBarrier ∧ claimsReady s ↑n = true ∧
      isHead s ↑n = true ∧ (∀ r ∈ resourcesOf d, occupant s r = none) :=
  ⟨sR, 0, k0 sR 0, d0 sR 0, i0 sR 0, by decide +kernel⟩

theorem test_TasksDispatchAndSuspend_2_met :
    ∃ (s : State) (n : Fin 4096) (k : Machine.Task), s.task ↑n = some k ∧ (k.st ≠ TState.ready ∨ aborting s ↑n = true ∨
      claimsReady s ↑n = false) :=
  ⟨sW, 0, k0 sW 0, by decide +kernel⟩

theorem test_TasksDispatchAndSuspend_3_met :
    (∃ (s : State) (n : Fin 4096) (k : Machine.Task) (os : List ℕ), s.task ↑n = some k ∧ os = (List.filterMap (occupant s)
      (resourcesIn s ↑n)).eraseDups ∧ wantsUnits s ↑n = true ∧ isHead s ↑n = true ∧ os ≠ [] ∧ (∀ o ∈ os, maySuspend s o k.dline
      = true)) ∧
    (∃ (s : State) (n : Fin 4096) (k : Machine.Task) (os : List ℕ), s.task ↑n = some k ∧ os = (List.filterMap (occupant s)
      (resourcesIn s ↑n)).eraseDups ∧ wantsUnits s ↑n = true ∧ isHead s ↑n = true ∧ os ≠ [] ∧ (∃ o ∈ os, maySuspend s o k.dline
      = false)) :=
  ⟨⟨sS, 1, k0 sS 1, osS, by decide +kernel⟩,
   ⟨sS2, 1, k0 sS2 1, osS, by decide +kernel⟩⟩

theorem test_TasksDispatchAndSuspend_4_met :
    ∃ (s : State) (o : ℕ) (k : Machine.Task), s.task o = some k ∧ k.st = TState.running :=
  ⟨sS, 0, k0 sS 0, by decide +kernel⟩

theorem test_TasksDispatchAndSuspend_5_met :
    (∃ (s : State) (n : Fin 4096) (k : Machine.Task) (d : TaskD), s.task ↑n = some k ∧ taskD s ↑n = some d ∧ k.st =
      TState.draining ∧ (∀ c ∈ d.cores, coreQuiet s c ↑n = true ∧ writesFlushed s (↑n) c = true)) ∧
    (∃ (s : State) (n : Fin 4096) (k : Machine.Task) (d : TaskD), s.task ↑n = some k ∧ taskD s ↑n = some d ∧ k.st =
      TState.draining ∧ (∃ c ∈ d.cores, coreQuiet s c ↑n = false ∨ writesFlushed s (↑n) c = false)) :=
  ⟨⟨sS3, 0, k0 sS3 0, d0 sS3 0, by decide +kernel⟩,
   ⟨sS3q, 0, k0 sS3q 0, d0 sS3q 0, by decide +kernel⟩⟩

theorem test_TasksDispatchAndSuspend_6_met :
    (∃ (s : State) (n : Fin 4096) (k : Machine.Task) (d : TaskD) (off : ℕ), s.task ↑n = some k ∧ taskD s ↑n = some d ∧ k.st =
      TState.saving ∧ aborting s ↑n = false ∧ hasSave s ↑n = some off ∧ s.now < k.since + 192) ∧
    (∃ (s : State) (n : Fin 4096) (k : Machine.Task) (d : TaskD) (off : ℕ), s.task ↑n = some k ∧ taskD s ↑n = some d ∧ k.st =
      TState.saving ∧ aborting s ↑n = false ∧ hasSave s ↑n = some off ∧ k.since + 192 ≤ s.now) :=
  ⟨⟨sS4, 0, k0 sS4 0, d0 sS4 0, 0x1000, by decide +kernel⟩,
   ⟨sS5, 0, k0 sS5 0, d0 sS5 0, 0x1000, by decide +kernel⟩⟩

theorem test_TasksDispatchAndSuspend_7_met :
    ∃ (s : State) (n : Fin 4096) (k : Machine.Task) (d : TaskD), s.task ↑n = some k ∧ taskD s ↑n = some d ∧ k.st =
      TState.suspended ∧ claimsReady s ↑n = true ∧ aborting s ↑n = false ∧ isHead s ↑n = true ∧ (∀ c ∈ d.cores, occupant s c =
      none) :=
  ⟨sS7, 0, k0 sS7 0, d0 sS7 0, by decide +kernel⟩

theorem test_TasksDispatchAndSuspend_8_met :
    (∃ (s : State) (n : Fin 4096) (k : Machine.Task) (off : ℕ), s.task ↑n = some k ∧ k.st = TState.restoring ∧ aborting s ↑n =
      false ∧ hasSave s ↑n = some off ∧ s.now < k.since + 192) ∧
    (∃ (s : State) (n : Fin 4096) (k : Machine.Task) (off : ℕ) (u : State), s.task ↑n = some k ∧ k.st = TState.restoring ∧
      aborting s ↑n = false ∧ hasSave s ↑n = some off ∧ k.since + 192 ≤ s.now ∧ restoreFault s (↑n) off k.saved = some u) ∧
    (∃ (s : State) (n : Fin 4096) (k : Machine.Task) (off : ℕ), s.task ↑n = some k ∧ k.st = TState.restoring ∧ aborting s ↑n =
      false ∧ hasSave s ↑n = some off ∧ k.since + 192 ≤ s.now ∧ restoreFault s (↑n) off k.saved = none) :=
  ⟨⟨sZ 400 [], 0, k0 (sZ 400 []) 0, 0x1000, by decide +kernel⟩,
   ⟨sS9b, 0, k0 sS9b 0, 0x1000, ((restoreFault sS9b 0 0x1000 (k0 sS9b 0).saved).get (by decide +kernel)), by decide +kernel,
     by decide +kernel, by decide +kernel, by decide +kernel, by decide +kernel, (Option.some_get (by decide +kernel)).symm⟩,
   ⟨sZ0, 0, k0 sZ0 0, 0x1000, by decide +kernel⟩⟩

theorem test_ProgramsEnd_1_met :
    ∃ (s : State) (u : State) (c : CoreId) (p : Prog), front s ↑c = Front.words u p [0, 0, 0, 0] :=
  ⟨sE [0,0,0,0], (fr (sE [0,0,0,0])).1, 0, (fr (sE [0,0,0,0])).2.1, by decide +kernel⟩

theorem test_ProgramsEnd_2_met :
    (∃ (s : State) (u : State) (c : CoreId) (p : Prog) (ws : List Word), front s ↑c = Front.words u p ws ∧ ws ≠ [0, 0, 0, 0]) ∧
    (∃ (s : State) (u : State) (c : CoreId) (p : Prog) (ws : List Word), front s ↑c = Front.words u p ws ∧ ws ≠ [0, 0, 0, 0] ∧
      (opKnown (opcodeOf (wd ws 0)) = false ∨ kindAllows (taskKind u p.task) (opcodeOf (wd ws 0)) = false)) ∧
    (∃ (s : State) (u : State) (c : CoreId) (p : Prog) (ws : List Word), front s ↑c = Front.words u p ws ∧ ws ≠ [0, 0, 0, 0] ∧
      opKnown (opcodeOf (wd ws 0)) = true ∧ kindAllows (taskKind u p.task) (opcodeOf (wd ws 0)) = true) :=
  ⟨⟨sE wk, (fr (sE wk)).1, 0, (fr (sE wk)).2.1, wk, by decide +kernel⟩,
   ⟨sE wk, (fr (sE wk)).1, 0, (fr (sE wk)).2.1, wk, by decide +kernel⟩,
   ⟨sE wg, (fr (sE wg)).1, 0, (fr (sE wg)).2.1, wg, by decide +kernel⟩⟩

theorem test_ProgramsEnd_3_met :
    ∃ (s : State) (c : CoreId), mayIssue s ↑c = none :=
  ⟨State.reset, 0, by decide +kernel⟩

theorem test_ProgramsEnd_4_met :
    (∃ (s : State) (n : Fin 4096) (k : Machine.Task) (d : TaskD) (c : ℕ), s.task ↑n = some k ∧ taskD s ↑n = some d ∧ (k.st =
      TState.running ∨ k.st = TState.draining) ∧ aborting s ↑n = false ∧ d.onCores = true ∧ List.find? (fun (c : ℕ) => !partDone
      s (↑n) c && decide (d.wcet + k.ext.getD c 0 < ranFor s k)) d.cores = some c ∧ c < 256) ∧
    (∃ (s : State) (n : Fin 4096) (k : Machine.Task) (d : TaskD), s.task ↑n = some k ∧ taskD s ↑n = some d ∧ (k.st =
      TState.running ∨ k.st = TState.draining) ∧ aborting s ↑n = false ∧ d.onCores = true ∧ (∀ c ∈ d.cores, partDone s (↑n) c =
      true ∨ ranFor s k ≤ d.wcet + k.ext.getD c 0)) ∧
    (∃ (s : State) (n : Fin 4096) (k : Machine.Task) (d : TaskD), s.task ↑n = some k ∧ taskD s ↑n = some d ∧ (k.st =
      TState.running ∨ k.st = TState.draining) ∧ aborting s ↑n = false ∧ d.onCores = false ∧ d.wcet + k.ext.getD 256 0 < ranFor
      s k) ∧
    (∃ (s : State) (n : Fin 4096) (k : Machine.Task) (d : TaskD), s.task ↑n = some k ∧ taskD s ↑n = some d ∧ (k.st =
      TState.running ∨ k.st = TState.draining) ∧ aborting s ↑n = false ∧ d.onCores = false ∧ ranFor s k ≤ d.wcet + k.ext.getD
      256 0) :=
  ⟨⟨sO, 0, k0 sO 0, d0 sO 0, 0, by decide +kernel⟩,
   ⟨sO1, 0, k0 sO1 0, d0 sO1 0, by decide +kernel⟩,
   ⟨sOh 1001, 0, k0 (sOh 1001) 0, d0 (sOh 1001) 0, by decide +kernel⟩,
   ⟨sOh 1000, 0, k0 (sOh 1000) 0, d0 (sOh 1000) 0, by decide +kernel⟩⟩

theorem test_ProgramsEnd_5_met :
    ∃ (s : State) (col : Fin 18), (s.drover.reserve.getD (↑col) 0 ≤ if ↑col < 16 then 320000 else 20000) :=
  ⟨{State.reset with drover := {Drover.start with reserve := [(3,320000)]}}, 3, by decide +kernel⟩

theorem test_ProgramsEnd_6_met :
    ∃ (s : State) (col : Fin 18) (i : Inst), s.drover.resAborts.getD (↑col) 0 = 0 ∧ (if ↑col < 16 then 320000 else 20000) <
      s.drover.reserve.getD (↑col) 0 ∧ victim s ↑col = some i :=
  ⟨sV, 0, ((victim sV 0).get (by decide +kernel)), by decide +kernel⟩

theorem test_CompletionAndAbort_1_met :
    ∃ (s : State) (n : Fin 4096) (k : Machine.Task) (d : TaskD) (i : Inst), s.task ↑n = some k ∧ taskD s ↑n = some d ∧
      instOfTask s ↑n = some i ∧ k.st = TState.running ∧ d.onCores = true ∧ aborting s ↑n = false ∧ (∀ c ∈ d.cores, partDone s
      (↑n) c = true) :=
  ⟨sC, 0, k0 sC 0, d0 sC 0, ((instOfTask sC 0).get (by decide +kernel)), by decide +kernel⟩

theorem test_CompletionAndAbort_2_met :
    ∃ (s : State) (n : Fin 4096) (d : TaskD) (c : ℕ), taskD s ↑n = some d ∧ c ∈ d.cores ∧ partDone s (↑n) c = false :=
  ⟨sS, 0, d0 sS 0, 0, by decide +kernel⟩

theorem test_CompletionAndAbort_3_met :
    ∃ (s : State) (a : AbortReq) (rest : List AbortReq) (i : Inst), s.drover.aborts = a :: rest ∧ findInst s a.inst = some i :=
  ⟨sAb, ⟨1,0x0401,none⟩, [⟨1,7,none⟩,⟨2,7,none⟩], ((findInst sAb 1).get (by decide +kernel)), by decide +kernel⟩

theorem test_CompletionAndAbort_4_met :
    ∃ (s : State), s.drover.aborts = [] :=
  ⟨sS, by decide +kernel⟩

end Sys2Proof.Tests.Tasking

namespace Sys2Proof.Tests.Paddocks
open Sys2Proof Sys2Proof.Machine Sys2Proof.Tests

def clBank : Claim := ⟨0x40000000, 0, 0b11, 0⟩
def sM : State := stMgmt
def sP (cls : List Claim) : State := stTask 4 cls
def us (tag : Nat) : List Machine.PUnit := [⟨List.replicate 16 0, flag true 31 ||| fld tag 16⟩]
def bk : Bank := ({ Bank.zero with st := .ready, map := List.replicate 16 0, fill := 2, gold := 0x10010000 }.setEntry 0 0 (us 7)).setEntry 0 1 (us 9)
def hj : List Word := [0x01000004 ||| fld 1 16, 0x10000200, 0x10000400, 16, 1, 0x10000600, 0, 0, 7 ||| fld 9 16, 0,0,0,0,0,0,0]
def hdr : List Word := [0x01000001, 1, 1, 512, 128, 136, 144, 3, 0, 0, 0, 0, 1, 0, 0, 0] ++ List.replicate 16 0
def hr : HerdRun := ⟨0, 0x10000000, hj, hdr, [⟨0,true,1,168⟩], 1, 16, 1, 0, [⟨0, [W64.zero], [1], [some 0], none⟩], [], 0⟩
def sS (n : Nat := 402) (b0 : Bank := bk) (s : Option PSearch := none) : State := {stTask 3 [clBank] with now := n, herd := ⟨some hr, [], none⟩, paddock := { (stTask 3 [clBank]).paddock with banks := [(0,b0),(1,bk)], search := s, builds := [(0,0),(1,0)]}}
def so (s : State) : HerdRun × PSearch := match searchOf s with | some x => x | none => (hr, ⟨99,[],[],[]⟩)
def rp1 := so (sS 402)
def sBad : State := sS 402 {bk with st := .inconsistent}
def uS (s : State) (b : Nat) (n : Nat) : State := ((s.mapPaddock (fun q => { q with searchAt := s.pc, searchN := n })).bump slotPadk 0x044 1).bump (slotBank b) 0x050 1
def sPo : State := sS 402 {bk with poison := [1]}
def sL : State := sS 402 bk (some ⟨0,[some 0],[1],[1,0]⟩)
def uR (s : State) (n : Nat) : State := (((extendTask (chargeReserve (s.bump (slotBank 0) 0x060 1) 17 2) 0 256 2).mapPaddock (fun q => { q with searchAt := s.pc, searchN := n })).bump slotPadk 0x044 1).bump (slotBank 0) 0x050 1
def sR1 : State := sS 402 bk (some ⟨0,[some 0],[0],[1,0]⟩)
def pj (j : List Word) (ops : List Word) (off : Nat := 0): State := 
  let s := (sP [clBank]).mapMem (fun m => (m.put 0x10000000 (wordsBytes j)).put 0x10000200 (wordsBytes ops))
  s.mapDrover (fun d => {d with images := d.images.map (fun i => {i with tasks := i.tasks.map (fun t => {t with progOff := off})})})
def jw : List Word := [0x01000002, 0x10000200, 0,0,0,0,0,0,0,0,0,0,0,0,0,0]
def opI : List Word := [fld 1 28 ||| flag true 21, fld 8 16, 0x10000300, 0]
def opR : List Word := [fld 2 28 ||| fld 1 22, fld 7 16 ||| 0, 0, 0]
def sU := pj jw (opI ++ opR) 32
def sJ := pj jw (opI ++ opR)
def sJp : State := sJ.mapMem (fun m => {m with poison := [0x10000000/8]})
def jz : List Word := jw.set 0 0x01000000
def sJ1 : State := sJ.mapPaddock (fun p => { p with job := some ⟨0, 0x10000200, 2, 0, 0, 0⟩ })
def sJq : State := sJ1.setBank 0 {bk with queue := List.replicate 16 ⟨0,0,0,0,0,0⟩}
def sJ2 : State := sJ.mapPaddock (fun p => { p with job := some ⟨0, 0x10000200, 2, 2, 0, 0⟩ })
def sJ3 : State := sJ.mapPaddock (fun p => { p with job := some ⟨0, 0x10000200, 2, 2, 2, 0⟩ })
/-- A gold image at 0x10010000 with FILL 2, entries of the tags 7 and 9. -/
def base (b0 : Bank) (n : Nat := 384) : State :=
  { sP [clBank] with
    now := n
    paddock := { (sP [clBank]).paddock with banks := [(0, b0), (1, bk)], job := some ⟨0, 0x10000200, 2, 2, 0, 0⟩ }
    mem := ⟨[(268500995, 1), (268500996, 2), (269025794, 7), (269025795, 128), (269025798, 9), (269025799, 128)], [(524416, 0xb66e01b7), (525441, 0xd42300d4)], []⟩ }
def mkop (k pos tag : Nat) (valid : Bool := true) (mx : Nat := 0) (data : Word := 0) : POp := ⟨fld k 28 ||| flag valid 21 ||| w32 mx, fld tag 16 ||| w32 pos, data, 0, 0, 0⟩
def opIns : POp := mkop 1 0 8 true 0 0x10000300
def opRem : POp := mkop 2 0 7 false
def opWr : POp := mkop 3 1 9 true 0 0x10000300
def opSv : POp := mkop 4 1 9 false
def opCl : POp := mkop 5 0 0 false
def bq (o : POp) : Bank := {bk with queue := [o]}
def stt (o : POp) (n := 402) : State := base (bq o) n
def rOf (o : POp) : POpRun := match opCheck (stt o) 0 (bq o) o with
  | .ok r => r
  | _ => ⟨⟨0, 0, 0, 0, 0, 0⟩, 0, 0, 0, [], 0, [], 0, none⟩
def bStep (v : Bank) (r : POpRun) : Bank := {v with cur := some r, st := .busy, queue := [r.op]}
def sStep (v : Bank) (r : POpRun) : State := base (bStep v r)
def vI := bStep bk (rOf opIns)
def bH : Bank := {bk.copyEntry 1 2 with hole := some 1}
def opRem1 : POp := mkop 2 1 9 false
def opRb : POp := mkop 6 0 0 false 0 0x10010000
def bE : Bank := {Bank.zero with queue := [opRb]}
def sE : State := base bE 402
def rRb : POpRun := match opCheck sE 0 bE opRb with
  | .ok r => r
  | _ => ⟨⟨0, 0, 0, 0, 0, 0⟩, 0, 0, 0, [], 0, [], 0, none⟩
def opRbB : POp := mkop 6 0 0 false 0 0x10010001
def sEp : State := sE.mapMem (fun m => {m with poison := [0x10010000/8 + 3]})
def sE1 := nextSt (exec (.rebuild 0) sE)
def sE1p : State := sE1.mapMem (fun m => {m with poison := [0x10010000/8 + 65]})
def rRb1 : POpRun := {rRb with pos := 1}
def sE2 : State := sE1.setBank 0 {({sE1.bank 0 with cur := some rRb1}.setEntry 0 0 (us 10)) with cur := some rRb1}
def rRb2 : POpRun := {rRb with pos := 2}
def sE3 : State := sE1.setBank 0 {sE1.bank 0 with cur := some rRb2}
def rRbh : POpRun := {rRb with hole := some 0, fill := 2}
def sE4 : State := sE1.setBank 0 {sE1.bank 0 with cur := some rRbh}
def scr (v : Bank) : State := (base v).setReg slotPadk 0x008 0x110
def bS : Bank := {bk with inPass := true}

theorem test_PadkCtrlGuardsTheftN_1_met :
    (∃ (s : State) (f : FuncId) (v : Word), Reaches s f (regAt slotPadk 8) ∧ (bits v 6 0 < 2 ∨ 64 < bits v 6 0 ∨ bits v 6 0 ≠
      theftN s ∧ ∃ i ∈ s.drover.insts, hasPaddock s i = true)) ∧
    (∃ (s : State) (f : FuncId) (v : Word), Reaches s f (regAt slotPadk 8) ∧ 2 ≤ bits v 6 0 ∧ bits v 6 0 ≤ 64 ∧ (bits v 6 0 =
      theftN s ∨ ∀ i ∈ s.drover.insts, hasPaddock s i = false)) :=
  ⟨⟨sM, 0, 0x80000101, reaches (by decide +kernel), by decide +kernel⟩,
   ⟨sM, 0, 64 ||| 0x80000000, reaches (by decide +kernel), by decide +kernel⟩⟩

theorem test_PaddockSearchesAndJobs_1_met :
    (∃ (s : State) (b : BankId) (r : HerdRun) (p : PSearch) (c : ℕ), searchOf s = some (r, p) ∧ p.left.head? = some ↑b ∧
      searchSlot s = true ∧ padRuns s = true ∧ searchBad s ↑b = some c) ∧
    (∃ (s : State) (b : BankId) (r : HerdRun) (p : PSearch) (n : ℕ) (u : State) (k : ℕ), searchOf s = some (r, p) ∧ p.left.head?
      = some ↑b ∧ searchSlot s = true ∧ padRuns s = true ∧ searchBad s ↑b = none ∧ (n = if s.paddock.searchAt = s.pc then
      s.paddock.searchN + 1 else 1) ∧ (u = ((s.mapPaddock fun (q : Paddock) => { q with searchAt := s.pc, searchN := n }).bump
      slotPadk 68 1).bump (slotBank ↑b) 80 1) ∧ poisonedUnit (s.bank ↑b) = some k) ∧
    (∃ (s : State) (b : BankId) (r : HerdRun) (p : PSearch) (n : ℕ) (u : State), searchOf s = some (r, p) ∧ p.left.head? = some
      ↑b ∧ searchSlot s = true ∧ padRuns s = true ∧ searchBad s ↑b = none ∧ (n = if s.paddock.searchAt = s.pc then
      s.paddock.searchN + 1 else 1) ∧ (u = ((s.mapPaddock fun (q : Paddock) => { q with searchAt := s.pc, searchN := n }).bump
      slotPadk 68 1).bump (slotBank ↑b) 80 1) ∧ poisonedUnit (s.bank ↑b) = none ∧ p.left = [↑b]) ∧
    (∃ (s : State) (b : BankId) (r : HerdRun) (p : PSearch) (n : ℕ) (u : State) (x : ℕ) (l : List ℕ), searchOf s = some (r, p) ∧
      p.left.head? = some ↑b ∧ searchSlot s = true ∧ padRuns s = true ∧ searchBad s ↑b = none ∧ (n = if s.paddock.searchAt =
      s.pc then s.paddock.searchN + 1 else 1) ∧ (u = ((s.mapPaddock fun (q : Paddock) => { q with searchAt := s.pc, searchN := n }).bump
      slotPadk 68 1).bump (slotBank ↑b) 80 1) ∧ poisonedUnit (s.bank ↑b) = none ∧ p.left = ↑b :: x :: l) :=
  ⟨⟨sBad, 0, hr, (so sBad).2, 1, by decide +kernel⟩,
   ⟨sPo, 0, hr, (so sPo).2, 1, uS sPo 0 1, 1, by decide +kernel, by decide +kernel, by decide +kernel, by decide +kernel,
     by decide +kernel, by decide +kernel, rfl, by decide +kernel⟩,
   ⟨sL, 1, hr, (so sL).2, 1, uS sL 1 1, by decide +kernel, by decide +kernel, by decide +kernel, by decide +kernel,
     by decide +kernel, by decide +kernel, rfl, by decide +kernel⟩,
   ⟨sS 402, 0, hr, rp1.2, 1, uS (sS 402) 0 1, 1, [], by decide +kernel, by decide +kernel, by decide +kernel, by decide +kernel,
     by decide +kernel, by decide +kernel, rfl, by decide +kernel⟩⟩

theorem test_PaddockSearchesAndJobs_3_met :
    ∃ (s : State) (b : BankId), (s.bank ↑b).searchable = false :=
  ⟨sS 402 {bk with st := .empty}, 0, by decide +kernel⟩

theorem test_PaddockSearchesAndJobs_4_met :
    (∃ (s : State) (u : State) (b : BankId) (r : HerdRun) (p : PSearch) (n : ℕ), searchOf s = some (r, p) ∧ p.left.head? = some
      ↑b ∧ searchSlot s = true ∧ padRuns s = true ∧ (s.bank ↑b).searchable = true ∧ searchBad s ↑b = none ∧ poisonedUnit (s.bank
      ↑b) = none ∧ (n = if s.paddock.searchAt = s.pc then s.paddock.searchN + 1 else 1) ∧ (u = (((extendTask (chargeReserve
      (s.bump (slotBank ↑b) 96 1) 17 2) r.task 256 2).mapPaddock fun (q : Paddock) => { q with searchAt := s.pc, searchN := n }).bump
      slotPadk 68 1).bump (slotBank ↑b) 80 1) ∧ p.left = [↑b]) ∧
    (∃ (s : State) (u : State) (b : BankId) (r : HerdRun) (p : PSearch) (n : ℕ) (x : ℕ) (l : List ℕ), searchOf s = some (r, p) ∧
      p.left.head? = some ↑b ∧ searchSlot s = true ∧ padRuns s = true ∧ (s.bank ↑b).searchable = true ∧ searchBad s ↑b = none ∧
      poisonedUnit (s.bank ↑b) = none ∧ (n = if s.paddock.searchAt = s.pc then s.paddock.searchN + 1 else 1) ∧ (u =
      (((extendTask (chargeReserve (s.bump (slotBank ↑b) 96 1) 17 2) r.task 256 2).mapPaddock fun (q : Paddock) => { q with searchAt := s.pc, searchN := n }).bump
      slotPadk 68 1).bump (slotBank ↑b) 80 1) ∧ p.left = ↑b :: x :: l) :=
  ⟨⟨sR1, uR sR1 1, 0, hr, (so sR1).2, 1, by decide +kernel, by decide +kernel, by decide +kernel, by decide +kernel,
     by decide +kernel, by decide +kernel, by decide +kernel, by decide +kernel, rfl, by decide +kernel⟩,
   ⟨sS 402, uR (sS 402) 1, 0, hr, rp1.2, 1, 1, [], by decide +kernel, by decide +kernel, by decide +kernel, by decide +kernel,
     by decide +kernel, by decide +kernel, by decide +kernel, by decide +kernel, rfl, by decide +kernel⟩⟩

theorem test_PaddockSearchesAndJobs_5_met :
    ∃ (s : State) (b : BankId) (r : HerdRun) (p : PSearch), searchOf s = some (r, p) ∧ p.left.head? = some ↑b ∧ searchSlot s =
      true ∧ padRuns s = true ∧ (s.bank ↑b).searchable = true :=
  ⟨sS 402, 0, hr, rp1.2, by decide +kernel⟩

theorem test_PaddockSearchesAndJobs_6_met :
    (∃ (s : State) (n : ℕ) (d : TaskD) (a : ℕ) (j : List Word), padTask s = some n ∧ s.paddock.job = none ∧ taskD s n = some d ∧
      a = 268435456 + d.progOff ∧ j = s.mem.words a 16 ∧ a % 64 ≠ 0 ∧ padRead s n a 4 = none) ∧
    (∃ (s : State) (n : ℕ) (d : TaskD) (a : ℕ) (j : List Word) (u : State), padTask s = some n ∧ s.paddock.job = none ∧ taskD s
      n = some d ∧ a = 268435456 + d.progOff ∧ j = s.mem.words a 16 ∧ padRead s n a (if a % 64 = 0 then 64 else 4) = some u) ∧
    (∃ (s : State) (n : ℕ) (d : TaskD) (a : ℕ) (j : List Word) (c : ℕ), padTask s = some n ∧ s.paddock.job = none ∧ taskD s n =
      some d ∧ a = 268435456 + d.progOff ∧ j = s.mem.words a 16 ∧ a % 64 = 0 ∧ padRead s n a 64 = none ∧ padJobCode j = some c) ∧
    (∃ (s : State) (n : ℕ) (d : TaskD) (a : ℕ) (j : List Word), padTask s = some n ∧ s.paddock.job = none ∧ taskD s n = some d ∧
      a = 268435456 + d.progOff ∧ j = s.mem.words a 16 ∧ a % 64 = 0 ∧ padRead s n a 64 = none ∧ padJobCode j = none) :=
  ⟨⟨sU, 0, ((taskD sU 0).get (by decide +kernel)), 0x10000020, sU.mem.words 0x10000020 16, by decide +kernel⟩,
   ⟨sJp, 0, ((taskD sJp 0).get (by decide +kernel)), 0x10000000, jw, ((padRead sJp 0 0x10000000 64).get (by decide +kernel)),
     by decide +kernel⟩,
   ⟨pj jz [], 0, ((taskD sJp 0).get (by decide +kernel)), 0x10000000, jz, 2, by decide +kernel⟩,
   ⟨sJ, 0, ((taskD sJ 0).get (by decide +kernel)), 0x10000000, jw, by decide +kernel⟩⟩

theorem test_PaddockSearchesAndJobs_7_met :
    ∃ (s : State), (padTask s = none ∨ s.paddock.job ≠ none) :=
  ⟨State.reset, by decide +kernel⟩

theorem test_PaddockSearchesAndJobs_8_met :
    (∃ (s : State) (n : ℕ) (a : ℕ) (j : PJob), padTask s = some n ∧ s.paddock.job = some j ∧ j.task = n ∧ j.next < j.nops ∧ a =
      j.base + 16 * j.next ∧ padRead s n a 16 = none ∧ 16 ≤ (s.bank (bits (s.mem.word a) 27 22)).queue.length) ∧
    (∃ (s : State) (n : ℕ) (a : ℕ) (j : PJob), padTask s = some n ∧ s.paddock.job = some j ∧ j.task = n ∧ j.next < j.nops ∧ a =
      j.base + 16 * j.next ∧ padRead s n a 16 = none ∧ (s.bank (bits (s.mem.word a) 27 22)).queue.length < 16) :=
  ⟨⟨sJq, 0, 0x10000200, (sJq.paddock.job.get (by decide +kernel)), by decide +kernel⟩,
   ⟨sJ1, 0, 0x10000200, (sJ1.paddock.job.get (by decide +kernel)), by decide +kernel⟩⟩

theorem test_PaddockSearchesAndJobs_9_met :
    (∃ (s : State) (n : ℕ) (j : PJob), padTask s = some n ∧ s.paddock.job = some j ∧ (j.nops ≤ j.next ∨ j.task ≠ n)) ∧
    (∃ (s : State) (n : ℕ) (j : PJob), padTask s = some n ∧ s.paddock.job = some j ∧ j.task = n ∧ j.done = j.nops) ∧
    (∃ (s : State) (n : ℕ) (j : PJob), padTask s = some n ∧ s.paddock.job = some j ∧ (j.task ≠ n ∨ j.done ≠ j.nops)) :=
  ⟨⟨sJ2, 0, (sJ2.paddock.job.get (by decide +kernel)), by decide +kernel⟩,
   ⟨sJ3, 0, (sJ3.paddock.job.get (by decide +kernel)), by decide +kernel⟩,
   ⟨sJ2, 0, (sJ2.paddock.job.get (by decide +kernel)), by decide +kernel⟩⟩

theorem test_PaddockOperationsStep_7_met :
    ∃ (s : State) (b : BankId) (v : Bank) (o : POp) (rest : List POp), v = s.bank ↑b ∧ v.cur = none ∧ v.queue = o :: rest ∧
      padRuns s = true ∧ theftPc s = false ∧ aborting s o.task = false :=
  ⟨stt opIns, 0, bq opIns, opIns, [], by decide +kernel⟩

theorem test_PaddockOperationsStep_8_met :
    (∃ (s : State) (b : BankId), (headKind (s.bank ↑b) ≠ kInsert ∨ padRuns s = false)) ∧
    (∃ (s : State) (b : BankId), (headKind (s.bank ↑b) ≠ kRemove ∨ padRuns s = false)) ∧
    (∃ (s : State) (b : BankId), (headKind (s.bank ↑b) ≠ kWrite ∨ padRuns s = false)) ∧
    (∃ (s : State) (b : BankId), (headKind (s.bank ↑b) ≠ kSetvalid ∨ padRuns s = false)) ∧
    (∃ (s : State) (b : BankId), (headKind (s.bank ↑b) ≠ kClear ∨ padRuns s = false)) :=
  ⟨⟨stt opRem, 0, by decide +kernel⟩,
   ⟨stt opIns, 0, by decide +kernel⟩,
   ⟨stt opIns, 0, by decide +kernel⟩,
   ⟨stt opIns, 0, by decide +kernel⟩,
   ⟨stt opIns, 0, by decide +kernel⟩⟩

theorem test_PaddockOperationsStep_1_met :
    ∃ (s : State) (b : BankId) (v : Bank) (r : POpRun) (o : StepOut), v = s.bank ↑b ∧ v.cur = some r ∧ padRuns s = true ∧
      theftPc s = true ∧ v.theft ≠ s.pc + 1 ∧ v.st ≠ BankSt.rebuilding ∧ aborting s r.op.task = false ∧ o = opStep v r ∧
      goldMergeBad s.mem v.gold v.width o.wrote = none :=
  ⟨sStep bk (rOf opIns), 0, vI, rOf opIns, opStep vI (rOf opIns), by decide +kernel⟩

theorem test_PaddockOperationsStep_2_met :
    (∃ (v : Bank) (r : POpRun), r.op.kind = kInsert ∧ v.hole = none ∧ r.pos ≠ v.fill) ∧
    (∃ (v : Bank) (r : POpRun) (h : ℕ), r.op.kind = kInsert ∧ v.hole = some h ∧ h ≠ r.pos) ∧
    (∃ (v : Bank) (r : POpRun), r.op.kind = kInsert ∧ (v.hole = some r.pos ∨ v.hole = none ∧ v.fill = r.pos)) :=
  ⟨⟨bk, rOf opIns, by decide +kernel⟩,
   ⟨{bH.copyEntry 1 2 with hole := some 2}, rOf opIns, 2, by decide +kernel⟩,
   ⟨bH, rOf opIns, by decide +kernel⟩⟩

theorem test_PaddockOperationsStep_3_met :
    (∃ (v : Bank) (r : POpRun), r.op.kind = kRemove ∧ v.hole = none ∧ r.pos + 1 = v.fill) ∧
    (∃ (v : Bank) (r : POpRun), r.op.kind = kRemove ∧ v.hole = none ∧ r.pos + 1 < v.fill) ∧
    (∃ (v : Bank) (r : POpRun) (h : ℕ), r.op.kind = kRemove ∧ v.hole = some h ∧ h + 1 = v.fill) ∧
    (∃ (v : Bank) (r : POpRun) (h : ℕ), r.op.kind = kRemove ∧ v.hole = some h ∧ h + 1 ≠ v.fill) :=
  ⟨⟨bk, rOf opRem1, by decide +kernel⟩,
   ⟨bk, rOf opRem, by decide +kernel⟩,
   ⟨{bk with hole := some 0, fill := 1}, rOf opRem, 0, by decide +kernel⟩,
   ⟨{bk with hole := some 0, fill := 2}, rOf opRem, 0, by decide +kernel⟩⟩

theorem test_PaddockOperationsStep_4_met :
    ∃ (r : POpRun), r.op.kind = kClear :=
  ⟨rOf opCl, by decide +kernel⟩

theorem test_PaddockOperationsStep_5_met :
    ∃ (r : POpRun), r.op.kind = kWrite :=
  ⟨rOf opWr, by decide +kernel⟩

theorem test_PaddockOperationsStep_6_met :
    ∃ (r : POpRun), r.op.kind = kSetvalid :=
  ⟨rOf opSv, by decide +kernel⟩

theorem test_RebuildsAndTheft_1_met :
    ∃ (s : State) (b : BankId), (headKind (s.bank ↑b) ≠ kRebuild ∨ padRuns s = false) :=
  ⟨stt opIns, 0, by decide +kernel⟩

theorem test_RebuildsAndTheft_2_met :
    (∃ (s : State) (b : BankId) (v : Bank) (o : POp) (rest : List POp) (c : ℕ), v = s.bank ↑b ∧ v.cur = none ∧ v.queue = o ::
      rest ∧ o.kind = kRebuild ∧ padRuns s = true ∧ aborting s o.task = false ∧ opCheck s (↑b) v o = OpCheck.code c) ∧
    (∃ (s : State) (b : BankId) (v : Bank) (o : POp) (rest : List POp) (x : Verdict) (k : ℕ), v = s.bank ↑b ∧ v.cur = none ∧
      v.queue = o :: rest ∧ o.kind = kRebuild ∧ padRuns s = true ∧ aborting s o.task = false ∧ opCheck s (↑b) v o =
      OpCheck.block x k) ∧
    (∃ (s : State) (b : BankId) (v : Bank) (o : POp) (rest : List POp) (r : POpRun), v = s.bank ↑b ∧ v.cur = none ∧ v.queue = o
      :: rest ∧ o.kind = kRebuild ∧ padRuns s = true ∧ aborting s o.task = false ∧ opCheck s (↑b) v o = OpCheck.ok r) :=
  ⟨⟨base {bE with queue := [opRbB]} 402, 0, {bE with queue := [opRbB]}, opRbB, [], 8, by decide +kernel⟩,
   ⟨sEp, 0, bE, opRb, [], .poisoned 3, 0x10010000/512, by decide +kernel⟩,
   ⟨sE, 0, bE, opRb, [], rRb, by decide +kernel⟩⟩

theorem test_RebuildsAndTheft_3_met :
    (∃ (s : State) (b : BankId) (v : Bank) (r : POpRun) (h : ℕ), v = s.bank ↑b ∧ v.cur = some r ∧ v.st = BankSt.rebuilding ∧
      v.theft ≠ s.pc + 1 ∧ aborting s r.op.task = false ∧ padRuns s = true ∧ r.hole = some h ∧ h < r.fill ∧ (goldVerify s.mem
      r.op.data r.width (h + 1)).1 = Verdict.good ∧ goldMergeBad s.mem r.op.data r.width (some h) = none) ∧
    (∃ (s : State) (b : BankId) (v : Bank) (r : POpRun), v = s.bank ↑b ∧ v.cur = some r ∧ v.st = BankSt.rebuilding ∧ v.theft ≠
      s.pc + 1 ∧ aborting s r.op.task = false ∧ padRuns s = true ∧ (∀ (h : ℕ), r.hole = some h → r.fill ≤ h) ∧ r.pos < r.fill ∧
      (goldVerify s.mem r.op.data r.width r.pos).1 ≠ Verdict.good) ∧
    (∃ (s : State) (b : BankId) (v : Bank) (r : POpRun), v = s.bank ↑b ∧ v.cur = some r ∧ v.st = BankSt.rebuilding ∧ v.theft ≠
      s.pc + 1 ∧ aborting s r.op.task = false ∧ padRuns s = true ∧ (∀ (h : ℕ), r.hole = some h → r.fill ≤ h) ∧ r.pos < r.fill ∧
      (goldVerify s.mem r.op.data r.width r.pos).1 = Verdict.good ∧ loadBad v r (goldEntry s.mem r.op.data r.width r.pos) =
      true) ∧
    (∃ (s : State) (b : BankId) (v : Bank) (r : POpRun), v = s.bank ↑b ∧ v.cur = some r ∧ v.st = BankSt.rebuilding ∧ v.theft ≠
      s.pc + 1 ∧ aborting s r.op.task = false ∧ padRuns s = true ∧ (∀ (h : ℕ), r.hole = some h → r.fill ≤ h) ∧ r.pos < r.fill ∧
      (goldVerify s.mem r.op.data r.width r.pos).1 = Verdict.good ∧ loadBad v r (goldEntry s.mem r.op.data r.width r.pos) =
      false) ∧
    (∃ (s : State) (b : BankId) (v : Bank) (r : POpRun), v = s.bank ↑b ∧ v.cur = some r ∧ v.st = BankSt.rebuilding ∧ v.theft ≠
      s.pc + 1 ∧ aborting s r.op.task = false ∧ padRuns s = true ∧ r.hole = none ∧ r.fill ≤ r.pos) :=
  ⟨⟨sE4, 0, sE4.bank 0, rRbh, 0, by decide +kernel⟩,
   ⟨sE1p, 0, sE1p.bank 0, rRb, by decide +kernel⟩,
   ⟨sE2, 0, sE2.bank 0, rRb1, by decide +kernel⟩,
   ⟨sE1, 0, sE1.bank 0, rRb, by decide +kernel⟩,
   ⟨sE3, 0, sE3.bank 0, rRb2, by decide +kernel⟩⟩

theorem test_RebuildsAndTheft_4_met :
    ∃ (s : State) (b : BankId), ((s.bank ↑b).cur = none ∨ (s.bank ↑b).st ≠ BankSt.rebuilding ∨ padRuns s = false ∨ (s.bank
      ↑b).theft = s.pc + 1) :=
  ⟨sE, 0, by decide +kernel⟩

theorem test_RebuildsAndTheft_5_met :
    ∃ (s : State), (theftPc s = false ∨ padRuns s = false) :=
  ⟨sE, by decide +kernel⟩

theorem test_RebuildsAndTheft_6_met :
    ∃ (s : State), theftPc s = true ∧ padRuns s = true :=
  ⟨stt opIns 384, by decide +kernel⟩

theorem test_RebuildsAndTheft_7_met :
    (∃ (s : State) (b : ℕ) (v : Bank), v = s.bank b ∧ v.cur = none ∧ v.queue = [] ∧ v.theft ≠ s.pc + 1 ∧ scrubEn s = false) ∧
    (∃ (s : State) (b : ℕ) (e : ℕ) (v : Bank), v = s.bank b ∧ v.cur = none ∧ v.queue = [] ∧ v.theft ≠ s.pc + 1 ∧ scrubEn s =
      true ∧ (v.st = BankSt.ready ∨ v.st = BankSt.busy) ∧ v.passBad = false ∧ (s.dom 22).st = PSt.run ∧ (v.inPass = true ∨
      scrubHeaderBad s.mem v = false) ∧ (List.find? (fun (e : ℕ) => decide (v.scrub ≤ e)) v.positions = some e ∨ List.find? (fun (e
      : ℕ) => decide (v.scrub ≤ e)) v.positions = none ∧ v.positions.head? = some e ∧ scrubHeaderBad s.mem v = false) ∧
      (goldVerify s.mem v.gold v.width e).1 = Verdict.good) :=
  ⟨⟨(base bk).setReg slotPadk 0x008 0x10, 0, bk, by decide +kernel⟩,
   ⟨scr bS, 0, 0, bS, by decide +kernel⟩⟩

theorem test_PaddockSearchesAndJobs_2_met :
    ∃ (s : State) (b : BankId), (searchOf s = none ∨ searchSlot s = false ∨ padRuns s = false ∨ ∃ (r : HerdRun) (p : PSearch),
      searchOf s = some (r, p) ∧ p.left.head? ≠ some ↑b) :=
  ⟨sS 384, 0, .inr (.inl (by decide +kernel))⟩

end Sys2Proof.Tests.Paddocks

namespace Sys2Proof.Tests.Remote
open Sys2Proof Sys2Proof.Machine Sys2Proof.Tests

def mis (v : Verdict) : Word := match v with | .mismatch x => x | _ => 0
def net (s : State) : State := (((s.setReg slotRoute 0x040 0x80000000).setReg slotRoute 0x044 0x00001800).mapFabric (fun f => {f with routes := [(1, 0x80000001)]})).setPort 0 {Port.start with st := .up} |> fun s => ((List.range 6).foldl (fun s p => s.setDom (16+p) {s.dom (16+p) with st := .run}) s)
def rw (op : Nat) (w0 w1 w2 w3 : Word) : List Word := [fld op 24 ||| w0, w1, w2, w3]
def sP (ws : List Word) (k : Core := Core.idle) : State := net (stProg 7 [clChan 2] ws k)
def fr (s : State) : State × Prog × List Word := match front s 0 with | .words u p w => (u, p, w) | _ => (s, prog0, [])
def kW : Core := { Core.idle with chans := [(2, armed 2 4 0x100 false)] }
def kR : Core := { Core.idle with chans := [(2, armed 2 4 0x100 true)] }
def wsW : List Word := rw opRwrite (fld 2 21) 0x0800 0x20000000 0
def wsR : List Word := rw opRread (fld 2 21) 0x0800 0x20000000 16
def wsA : List Word := rw opRadd (fld 2 21 ||| fld 1 19) 0x0800 0x20000000 0
def wsB1 : List Word := rw opRbell 0 0x00050000 0 0
def pkt (t : Nat) (data : List Byte := []) (vc : Nat := 0) (addr : Nat := 0x20000000) : Packet := {Packet.zero with ptype := t, vc := vc, dest := 0x0800, src := 0, rtag := 9, addr := addr, data := data, len := data.length}
def nQ (s : State) (l : List OutPkt) (f : Port → Port := id) : State := s.setPort 0 (f {s.port 0 with outQ := l})
def sN : State := net stMgmt
def via (n : Nat := 2) : Via := ⟨none, 5, n⟩
def pw : OutPkt := ⟨pkt tWrite [1,2,3], via, 0, 0, none, 0⟩
def sQ : State := nQ sN [pw]
def sQd : State := sQ.setDom 16 {sQ.dom 16 with st := .doze}
def sQ0 : State := nQ sN [pw] (fun v => {v with credits := [1,1,1,1,1,1,1]})
def pwS : OutPkt := {pw with sent := 2, via := via 4}
def sQs : State := nQ sN [pwS]
def sQf : State := nQ sN [pw] (fun v => {v with replay := List.replicate 1024 ⟨0,[]⟩})
def mcQ : OutPkt := {pw with pkt := {pkt tMcBlock [1,2] with vc := 4}}
def sQm : State := nQ sN [mcQ]
def rxk (k : Packet) (l : Nat := 0) : RxPkt := ⟨k, k.vc, 7, l, false, 2⟩
def sF (k : Packet) : State := sN.setPort 0 {sN.port 0 with rx := [rxk k]}
def kf : Packet := {pkt tWrite [1] with dest := 0}
def sFd : State := (sF kf).setDom 16 {(sF kf).dom 16 with st := .doze}
def sPn (ws : List Word) (k : Core := Core.idle) : State := (sP ws k).setReg slotRoute 0x040 0
def win (s : State) : State := (((s.setReg slotRoute 0x100 0).setReg slotRoute 0x104 0xFFFFFFFF).setReg slotRoute 0x108 0).setReg slotRoute 0x10C (0xF8000000 ||| fld 255 8)
def loc (s : State) (l : List OutPkt) : State := s.mapFabric (fun f => {f with local_ := l})
def rq (t : Nat) (data : List Byte) (a : Nat := 0x20000004) : OutPkt := ⟨{pkt t data 0 a with src := 0x0800, dest := 0}, ⟨some 0, 5, 1 + (data.length + 59)/60⟩, 0, 0, none, 0⟩
def sWr (o : OutPkt) : State := loc (win sN) [o]
def oW : OutPkt := rq tWrite [7,8,9,10]
def rd1 : OutPkt := {rq tRead [] with pkt := {(rq tRead []).pkt with len := 4}}
def ts (o : OutPkt) : State := takeSlot (sWr o) o.pkt.addr 2
def oW2 : OutPkt := rq tWrite (List.replicate 8 3) 0x200001FC
def sWrp (o : OutPkt) : State := (sWr o).mapMem (fun m => {m with poison := [0x20000000/8]})
def oR : OutPkt := rd1
def tsr (s : State) (o : OutPkt) (n : Nat := 1) : State := takeSlot s o.pkt.addr n
def oR2 : OutPkt := {rq tRead [] 0x200001FC with pkt := {(rq tRead [] 0x200001FC).pkt with len := 8}}
def sWrc (o : OutPkt) : State := (sWr o).mapMem (fun m => {m with checks := [(0x20000000/512, 5)]})
def oA (fmt : Nat) (d : List Byte) (a : Nat) : OutPkt := let r := rq tAtomic d a; {r with pkt := {r.pkt with opx := fmt}}
def aA1 : OutPkt := oA 1 (wordsBytes [0x3F800000, 0x40000000]) 0x20000002
def aA2 : OutPkt := oA 1 (wordsBytes [0x3F800000, 0x40000000]) 0x20000004
def aA4 : OutPkt := oA 1 (wordsBytes [0x3F800000, 0x40000000]) 0x200001FC
def oD : OutPkt := let r := rq tDoorbell []; {r with pkt := {r.pkt with opx := 9}}
def sHd : State := let s := sWr oD; {s with resets := {s.resets with crit := [.module]}}
def sBl : State := sN.mapFabric (fun f => {f with bells := [(0x800, 9, 4)]})
def kk (u : State) : Nat → Packet := fun st => ackOf u { Packet.zero with src := 0x800, rtag := 9 } st
def ub (s : State) : State := s.mapFabric (fun f => {f with bells := []})
def sBo : State := sBl.setDom 26 {sBl.dom 26 with st := .doze}
def tmx : Template := ⟨5, 2, 10, 3, 0, 0, 3⟩
def sBt : State := (sBl.mapDrover (fun d => {d with templates := [(4,tmx)]})).setQueue 3 {HQueue.idle with enable := true}
def oK (st : Nat) : OutPkt := let r := rq tAck []; {r with pkt := {r.pkt with opx := st}}
def oRD (d : List Byte) (c : List Word) : OutPkt := let r := rq tReadData d; {r with pkt := {r.pkt with checks := c}}
def pd : Pending := ⟨9, 0, 0, 0, 1, 2, some 1000, 0x800, 0x20000000, 16, 0, 0⟩
def sPd (o : OutPkt) (k : Nat := 1) : State := (loc (net (stProg 7 [clChan 2] [] kR)) [o]).mapFabric (fun f => {f with pend := [{pd with kind := k}]})
def uPd (o : OutPkt) (k : Nat := 1): State := dropPend (dropLocal (sPd o k) o) {pd with kind := k}
def bad := oRD (List.replicate 512 1) [0]
def uB := uPd bad
def xB : Word := (carriedBad 0x20000000 bad.pkt).getD 0
def good := oRD (List.replicate 16 1) [0]
def mb (seq gen : Nat) (since : Option Nat := none): OutPkt := ⟨{Packet.zero with ptype := tMcBlock, vc := 4, group := 0x80, gen := gen, seq := seq, data := List.replicate 512 1, checks := [7], addr := 0x5000, len := 512}, ⟨some 0, 5, 10⟩, 0, 0, since, 0⟩

theorem test_RemoteOperations_1_met :
    (∃ (s : State) (u : State) (c : CoreId) (p : Prog) (ws : List Word) (code : ℕ), roCode u (↑c) p.task ws = some code ∧ Issues
      s opRwrite (↑c) u p ws) ∧
    (∃ (s : State) (u : State) (c : CoreId) (p : Prog) (ws : List Word) (code : ℕ), roCode u (↑c) p.task ws = some code ∧ Issues
      s opRread (↑c) u p ws) ∧
    (∃ (s : State) (u : State) (c : CoreId) (p : Prog) (ws : List Word) (code : ℕ), roCode u (↑c) p.task ws = some code ∧ Issues
      s opRadd (↑c) u p ws) ∧
    (∃ (s : State) (u : State) (c : CoreId) (p : Prog) (ws : List Word) (code : ℕ), roCode u (↑c) p.task ws = some code ∧ Issues
      s opRbell (↑c) u p ws) :=
  ⟨⟨sP wsW, (fr (sP wsW)).1, 0, (fr (sP wsW)).2.1, wsW, 2, by decide +kernel, ⟨by decide +kernel, by decide +kernel,
     by decide +kernel⟩⟩,
   ⟨sP wsR, (fr (sP wsR)).1, 0, (fr (sP wsR)).2.1, wsR, 2, by decide +kernel, ⟨by decide +kernel, by decide +kernel,
     by decide +kernel⟩⟩,
   ⟨sP wsA, (fr (sP wsA)).1, 0, (fr (sP wsA)).2.1, wsA, 2, by decide +kernel, ⟨by decide +kernel, by decide +kernel,
     by decide +kernel⟩⟩,
   ⟨sP wsB1, (fr (sP wsB1)).1, 0, (fr (sP wsB1)).2.1, wsB1, 3, by decide +kernel, ⟨by decide +kernel, by decide +kernel,
     by decide +kernel⟩⟩⟩

theorem test_RemoteOperations_2_met :
    ∃ (u : State) (c : CoreId) (p : Prog) (ws : List Word), roCode u (↑c) p.task ws = none :=
  ⟨(fr (sP wsW kW)).1, 0, (fr (sP wsW kW)).2.1, wsW, by decide +kernel⟩

theorem test_RemoteOperations_3_met :
    (∃ (s : State) (u : State) (p : PortId), u = launchAll s ∧ ((u.port ↑p).st ≠ LinkSt.up ∨ (u.port ↑p).outQ = [])) ∧
    (∃ (s : State) (u : State) (p : PortId), u = launchAll s ∧ (u.port ↑p).st = LinkSt.up ∧ (u.port ↑p).outQ ≠ [] ∧ portRuns u
      ↑p = false) ∧
    (∃ (s : State) (u : State) (p : PortId), u = launchAll s ∧ (u.port ↑p).st = LinkSt.up ∧ portRuns u ↑p = true ∧ pickOut u ↑p
      = none) ∧
    (∃ (s : State) (u : State) (p : PortId) (o : OutPkt) (n : ℕ), u = launchAll s ∧ (u.port ↑p).st = LinkSt.up ∧ portRuns u ↑p =
      true ∧ pickOut u ↑p = some o ∧ n = min o.via.flits o.pkt.flits - o.sent ∧ n = 0) ∧
    (∃ (s : State) (u : State) (p : PortId) (o : OutPkt) (n : ℕ), u = launchAll s ∧ (u.port ↑p).st = LinkSt.up ∧ portRuns u ↑p =
      true ∧ pickOut u ↑p = some o ∧ n = min o.via.flits o.pkt.flits - o.sent ∧ n ≠ 0 ∧ 1024 < (u.port ↑p).replay.length + (n +
      9) / 10) ∧
    (∃ (s : State) (u : State) (p : PortId) (o : OutPkt) (n : ℕ), u = launchAll s ∧ (u.port ↑p).st = LinkSt.up ∧ portRuns u ↑p =
      true ∧ pickOut u ↑p = some o ∧ n = min o.via.flits o.pkt.flits - o.sent ∧ n ≠ 0 ∧ (u.port ↑p).replay.length + (n + 9) / 10
      ≤ 1024) :=
  ⟨⟨sN, launchAll sN, 0, rfl, by decide +kernel⟩,
   ⟨sQd, launchAll sQd, 0, rfl, by decide +kernel⟩,
   ⟨sQ0, launchAll sQ0, 0, rfl, by decide +kernel⟩,
   ⟨sQs, launchAll sQs, 0, pwS, 0, rfl, by decide +kernel⟩,
   ⟨sQf, launchAll sQf, 0, pw, 2, rfl, by decide +kernel⟩,
   ⟨sQ, launchAll sQ, 0, pw, 2, rfl, by decide +kernel⟩⟩

theorem test_RemoteOperations_6_met :
    ∃ (s : State) (p : PortId) (vc : Fin 7), (∀ r ∈ (s.port ↑p).rx, r.vc ≠ ↑vc ∨ r.routed = true) :=
  ⟨sN, 0, 0, by decide +kernel⟩

theorem test_RemoteOperations_7_met :
    (∃ (s : State) (p : PortId) (vc : Fin 7) (r : RxPkt), List.find? (fun (r : RxPkt) => r.vc == ↑vc && !r.routed) (s.port
      ↑p).rx = some r ∧ portRuns s ↑p = false) ∧
    (∃ (s : State) (p : PortId) (vc : Fin 7) (r : RxPkt), List.find? (fun (r : RxPkt) => r.vc == ↑vc && !r.routed) (s.port
      ↑p).rx = some r ∧ portRuns s ↑p = true) :=
  ⟨⟨sFd, 0, 0, rxk kf, by decide +kernel⟩,
   ⟨sF kf, 0, 0, rxk kf, by decide +kernel⟩⟩

theorem test_SelfAndDims_1_met :
    (∃ (s : State) (u : State) (r : Requester), u = arriving r s ∧ (∃ (p : PortId), (s.port ↑p).st ≠ LinkSt.down) ∧ Arrives s r
      (regAt slotRoute 64)) ∧
    (∃ (s : State) (u : State) (r : Requester), u = arriving r s ∧ (∃ (p : PortId), (s.port ↑p).st ≠ LinkSt.down) ∧ Arrives s r
      (regAt slotRoute 68)) :=
  ⟨⟨sN, arriving (.func 0) sN, .func 0, rfl, by decide +kernel, arrives (by decide +kernel)⟩,
   ⟨sN, arriving (.func 0) sN, .func 0, rfl, by decide +kernel, arrives (by decide +kernel)⟩⟩

theorem test_SelfAndDims_2_met :
    (∃ (s : State) (u : State) (r : Requester), u = arriving r s ∧ (∀ (p : PortId), (s.port ↑p).st = LinkSt.down) ∧ Arrives s r
      (regAt slotRoute 68)) ∧
    (∃ (s : State) (u : State) (r : Requester), u = arriving r s ∧ (∀ (p : PortId), (s.port ↑p).st = LinkSt.down) ∧ Arrives s r
      (regAt slotRoute 64)) :=
  ⟨⟨stMgmt, arriving (.func 0) stMgmt, .func 0, rfl, by decide +kernel, arrives (by decide +kernel)⟩,
   ⟨stMgmt, arriving (.func 0) stMgmt, .func 0, rfl, by decide +kernel, arrives (by decide +kernel)⟩⟩

theorem test_SelfAndDims_4_met :
    ∃ (u : State), bit (u.reg slotRoute 64) 31 = false :=
  ⟨(fr (sPn wsW kW)).1, by decide +kernel⟩

theorem test_RequestsAreServed_2_met :
    (∃ (s : State) (u : State) (o : OutPkt) (e : Entry), (e = Entry.wait → u = s) ∧ (∀ (c : ℕ), e = Entry.answer c → u = ackWith
      s o c) ∧ (∀ (d : ℕ), e = Entry.wake d → u = startWake s d) ∧ e ≠ Entry.go ∧ nextReq s tWrite = some o ∧ requestEntry s o
      30 = e) ∧
    (∃ (s : State) (u : State) (o : OutPkt) (e : Entry), (e = Entry.wait → u = s) ∧ (∀ (c : ℕ), e = Entry.answer c → u = ackWith
      s o c) ∧ (∀ (d : ℕ), e = Entry.wake d → u = startWake s d) ∧ e ≠ Entry.go ∧ nextReq s tRead = some o ∧ requestEntry s o 29
      = e) ∧
    (∃ (s : State) (u : State) (o : OutPkt) (e : Entry), (e = Entry.wait → u = s) ∧ (∀ (c : ℕ), e = Entry.answer c → u = ackWith
      s o c) ∧ (∀ (d : ℕ), e = Entry.wake d → u = startWake s d) ∧ e ≠ Entry.go ∧ nextReq s tAtomic = some o ∧ requestEntry s o
      28 = e) :=
  ⟨⟨loc sN [rq tWrite [1]], ackWith (loc sN [rq tWrite [1]]) (rq tWrite [1]) 1, rq tWrite [1], .answer 1, (by intro h; cases h),
     (by intro c h; cases h; rfl), (by intro d h; cases h), by decide +kernel⟩,
   ⟨loc sN [rd1], ackWith (loc sN [rd1]) rd1 1, rd1, .answer 1, (by intro h; cases h), (by intro c h; cases h; rfl),
     (by intro d h; cases h), by decide +kernel⟩,
   ⟨loc sN [rq tAtomic [1,0,0,0]], ackWith (loc sN [rq tAtomic [1,0,0,0]]) (rq tAtomic [1,0,0,0]) 2, rq tAtomic [1,0,0,0],
     .answer 2, (by intro h; cases h), (by intro c h; cases h; rfl), (by intro d h; cases h), by decide +kernel⟩⟩

theorem test_RequestsAreServed_3_met :
    (∃ (o : OutPkt), rangeOk o.pkt.addr (reqLen o.pkt) false = false) ∧
    (∃ (s : State) (o : OutPkt) (b : ℕ), reqLen o.pkt ≠ 0 ∧ rangeOk o.pkt.addr (reqLen o.pkt) false = true ∧ o.done = 0 ∧
      admitsRange s o.pkt.src b o.pkt.addr (reqLen o.pkt) = false) :=
  ⟨⟨rq tWrite [1] 0x1FFFFFFFF, by decide +kernel⟩,
   ⟨sN, rq tWrite [1], 30, by decide +kernel⟩⟩

theorem test_RequestsAreServed_4_met :
    (∃ (s : State) (u : State) (o : OutPkt) (a : ℕ) (n : ℕ), nextReq s tWrite = some o ∧ requestEntry s o 30 = Entry.go ∧ (a, n)
      = blockPart o.pkt.addr (reqLen o.pkt) o.done ∧ u = takeSlot s a (if n = 512 then 1 else 2) ∧ lastBlock o = false) ∧
    (∃ (s : State) (u : State) (o : OutPkt) (a : ℕ) (n : ℕ) (c : ℕ), nextReq s tWrite = some o ∧ requestEntry s o 30 = Entry.go
      ∧ (a, n) = blockPart o.pkt.addr (reqLen o.pkt) o.done ∧ u = takeSlot s a (if n = 512 then 1 else 2) ∧ lastBlock o = true ∧
      writeStatus s.mem o.pkt.addr o.pkt.data o.pkt.checks = c + 1) ∧
    (∃ (s : State) (u : State) (o : OutPkt) (a : ℕ) (n : ℕ), nextReq s tWrite = some o ∧ requestEntry s o 30 = Entry.go ∧ (a, n)
      = blockPart o.pkt.addr (reqLen o.pkt) o.done ∧ u = takeSlot s a (if n = 512 then 1 else 2) ∧ lastBlock o = true ∧
      writeStatus s.mem o.pkt.addr o.pkt.data o.pkt.checks = 0) :=
  ⟨⟨sWr oW2, ts oW2, oW2, 0x200001FC, 4, by decide +kernel, by decide +kernel, by decide +kernel, rfl, by decide +kernel⟩,
   ⟨sWrp oW, takeSlot (sWrp oW) oW.pkt.addr 2, oW, 0x20000004, 4, 3, by decide +kernel, by decide +kernel, by decide +kernel,
     rfl, by decide +kernel⟩,
   ⟨sWr oW, ts oW, oW, 0x20000004, 4, by decide +kernel, by decide +kernel, by decide +kernel, rfl, by decide +kernel⟩⟩

theorem test_RequestsAreServed_5_met :
    (∃ (s : State) (u : State) (o : OutPkt) (a : ℕ) (n : ℕ) (w : ℕ), nextReq s tRead = some o ∧ requestEntry s o 29 = Entry.go ∧
      (a, n) = blockPart o.pkt.addr (reqLen o.pkt) o.done ∧ o.pkt.ptype = tRead ∧ u = takeSlot s a 1 ∧ s.mem.verify (a / 512) =
      Verdict.poisoned w) ∧
    (∃ (s : State) (u : State) (o : OutPkt) (a : ℕ) (n : ℕ) (x : Word), nextReq s tRead = some o ∧ requestEntry s o 29 =
      Entry.go ∧ (a, n) = blockPart o.pkt.addr (reqLen o.pkt) o.done ∧ o.pkt.ptype = tRead ∧ u = takeSlot s a 1 ∧ (s.mem.verify
      (a / 512) = Verdict.mismatch x)) ∧
    (∃ (s : State) (u : State) (o : OutPkt) (a : ℕ) (n : ℕ), nextReq s tRead = some o ∧ requestEntry s o 29 = Entry.go ∧ (a, n)
      = blockPart o.pkt.addr (reqLen o.pkt) o.done ∧ o.pkt.ptype = tRead ∧ u = takeSlot s a 1 ∧ s.mem.verify (a / 512) =
      Verdict.good ∧ lastBlock o = false) ∧
    (∃ (s : State) (u : State) (o : OutPkt) (a : ℕ) (n : ℕ), nextReq s tRead = some o ∧ requestEntry s o 29 = Entry.go ∧ (a, n)
      = blockPart o.pkt.addr (reqLen o.pkt) o.done ∧ o.pkt.ptype = tRead ∧ u = takeSlot s a 1 ∧ s.mem.verify (a / 512) =
      Verdict.good ∧ lastBlock o = true) :=
  ⟨⟨sWrp oR, tsr (sWrp oR) oR, oR, 0x20000004, 4, 0, by decide +kernel, by decide +kernel, by decide +kernel, by decide +kernel,
     rfl, by decide +kernel⟩,
   ⟨sWrc oR, tsr (sWrc oR) oR, oR, 0x20000004, 4, (mis ((sWrc oR).mem.verify (0x20000004/512))), by decide +kernel,
     by decide +kernel, by decide +kernel, by decide +kernel, rfl, by decide +kernel⟩,
   ⟨sWr oR2, tsr (sWr oR2) oR2, oR2, 0x200001FC, 4, by decide +kernel, by decide +kernel, by decide +kernel, by decide +kernel,
     rfl, by decide +kernel⟩,
   ⟨sWr oR, tsr (sWr oR) oR, oR, 0x20000004, 4, by decide +kernel, by decide +kernel, by decide +kernel, by decide +kernel, rfl,
     by decide +kernel⟩⟩

theorem test_RequestsAreServed_6_met :
    (∃ (s : State) (u : State) (o : OutPkt) (a : ℕ) (m : ℕ) (size : ℕ) (stride : ℕ) (n : ℕ), nextReq s tAtomic = some o ∧ (size
      = if o.pkt.opx = 0 then 12 else 4) ∧ (stride = if o.pkt.opx = 0 then 16 else 4) ∧ n = o.pkt.data.length / size ∧
      o.pkt.ptype = tAtomic ∧ requestEntry s o 28 = Entry.go ∧ (a, m) = blockPart o.pkt.addr (n * stride) o.done ∧ u = takeSlot
      s a (if m = 512 then 1 else 2) ∧ lastBlock o = false) ∧
    (∃ (s : State) (u : State) (o : OutPkt) (a : ℕ) (m : ℕ) (size : ℕ) (stride : ℕ) (n : ℕ), nextReq s tAtomic = some o ∧ (size
      = if o.pkt.opx = 0 then 12 else 4) ∧ (stride = if o.pkt.opx = 0 then 16 else 4) ∧ n = o.pkt.data.length / size ∧
      o.pkt.ptype = tAtomic ∧ requestEntry s o 28 = Entry.go ∧ (a, m) = blockPart o.pkt.addr (n * stride) o.done ∧ u = takeSlot
      s a (if m = 512 then 1 else 2) ∧ lastBlock o = true ∧ o.pkt.addr % stride ≠ 0) ∧
    (∃ (s : State) (u : State) (o : OutPkt) (a : ℕ) (m : ℕ) (size : ℕ) (stride : ℕ) (n : ℕ) (w : ℕ), nextReq s tAtomic = some o
      ∧ (size = if o.pkt.opx = 0 then 12 else 4) ∧ (stride = if o.pkt.opx = 0 then 16 else 4) ∧ n = o.pkt.data.length / size ∧
      o.pkt.ptype = tAtomic ∧ requestEntry s o 28 = Entry.go ∧ (a, m) = blockPart o.pkt.addr (n * stride) o.done ∧ u = takeSlot
      s a (if m = 512 then 1 else 2) ∧ lastBlock o = true ∧ o.pkt.addr % stride = 0 ∧ (s.mem.verifyRange o.pkt.addr (n *
      stride)).1 = Verdict.poisoned w) ∧
    (∃ (s : State) (u : State) (o : OutPkt) (a : ℕ) (m : ℕ) (size : ℕ) (stride : ℕ) (n : ℕ), nextReq s tAtomic = some o ∧ (size
      = if o.pkt.opx = 0 then 12 else 4) ∧ (stride = if o.pkt.opx = 0 then 16 else 4) ∧ n = o.pkt.data.length / size ∧
      o.pkt.ptype = tAtomic ∧ requestEntry s o 28 = Entry.go ∧ (a, m) = blockPart o.pkt.addr (n * stride) o.done ∧ u = takeSlot
      s a (if m = 512 then 1 else 2) ∧ lastBlock o = true ∧ o.pkt.addr % stride = 0 ∧ (s.mem.verifyRange o.pkt.addr (n *
      stride)).1 = Verdict.good) :=
  ⟨⟨sWr aA4, tsr (sWr aA4) aA4 2, aA4, 0x200001FC, 4, 4, 4, 2, by decide +kernel, by decide +kernel, by decide +kernel,
     by decide +kernel, by decide +kernel, by decide +kernel, by decide +kernel, rfl, by decide +kernel⟩,
   ⟨sWr aA1, tsr (sWr aA1) aA1 2, aA1, 0x20000002, 8, 4, 4, 2, by decide +kernel, by decide +kernel, by decide +kernel,
     by decide +kernel, by decide +kernel, by decide +kernel, by decide +kernel, rfl, by decide +kernel⟩,
   ⟨sWrp aA2, tsr (sWrp aA2) aA2 2, aA2, 0x20000004, 8, 4, 4, 2, 0, by decide +kernel, by decide +kernel, by decide +kernel,
     by decide +kernel, by decide +kernel, by decide +kernel, by decide +kernel, rfl, by decide +kernel⟩,
   ⟨sWr aA2, tsr (sWr aA2) aA2 2, aA2, 0x20000004, 8, 4, 4, 2, by decide +kernel, by decide +kernel, by decide +kernel,
     by decide +kernel, by decide +kernel, by decide +kernel, by decide +kernel, rfl, by decide +kernel⟩⟩

theorem test_RequestsAreServed_7_met :
    (∃ (s : State) (o : OutPkt), nextBell s = some o ∧ admitsBell s o.pkt.src o.pkt.opx = false) ∧
    (∃ (s : State) (o : OutPkt), nextBell s = some o ∧ admitsBell s o.pkt.src o.pkt.opx = true ∧ s.hurdled RDom.module = true) ∧
    (∃ (s : State) (o : OutPkt), nextBell s = some o ∧ admitsBell s o.pkt.src o.pkt.opx = true ∧ s.hurdled RDom.module = false) :=
  ⟨⟨loc sN [oD], oD, by decide +kernel⟩,
   ⟨sHd, oD, by decide +kernel⟩,
   ⟨sWr oD, oD, by decide +kernel⟩⟩

theorem test_RequestsAreServed_8_met :
    ∃ (s : State), s.fabric.bells = [] :=
  ⟨sN, by decide +kernel⟩

theorem test_ResponsesAndMulticast_2_met :
    (∃ (s : State) (o : OutPkt), pendOf s o.pkt.rtag = none ∧ localOf s tReadData = some o) ∧
    (∃ (s : State) (o : OutPkt), pendOf s o.pkt.rtag = none ∧ localOf s tAck = some o) :=
  ⟨⟨loc sN [oRD [1] []], oRD [1] [], by decide +kernel⟩,
   ⟨loc sN [oK 0], oK 0, by decide +kernel⟩⟩

theorem test_ResponsesAndMulticast_3_met :
    (∃ (s : State) (u : State) (o : OutPkt) (p : Pending), pendOf s o.pkt.rtag = some p ∧ u = dropPend (dropLocal s o) p ∧
      localOf s tAck = some o ∧ o.pkt.opx = 0) ∧
    (∃ (s : State) (u : State) (o : OutPkt) (p : Pending), pendOf s o.pkt.rtag = some p ∧ u = dropPend (dropLocal s o) p ∧
      localOf s tAck = some o ∧ o.pkt.opx ≠ 0) ∧
    (∃ (s : State) (u : State) (o : OutPkt) (p : Pending) (x : Word), pendOf s o.pkt.rtag = some p ∧ u = dropPend (dropLocal s
      o) p ∧ localOf s tReadData = some o ∧ carriedBad p.addr o.pkt = some x) ∧
    (∃ (s : State) (u : State) (o : OutPkt) (p : Pending), pendOf s o.pkt.rtag = some p ∧ u = dropPend (dropLocal s o) p ∧
      localOf s tReadData = some o ∧ carriedBad p.addr o.pkt = none ∧ p.kind ≠ 2) ∧
    (∃ (s : State) (u : State) (o : OutPkt) (p : Pending), pendOf s o.pkt.rtag = some p ∧ u = dropPend (dropLocal s o) p ∧
      localOf s tReadData = some o ∧ carriedBad p.addr o.pkt = none ∧ p.kind = 2) :=
  ⟨⟨sPd (oK 0), uPd (oK 0), oK 0, pd, by decide +kernel, rfl, by decide +kernel⟩,
   ⟨sPd (oK 4), uPd (oK 4), oK 4, pd, by decide +kernel, rfl, by decide +kernel⟩,
   ⟨sPd bad, uB, bad, pd, xB, by decide +kernel, rfl, by decide +kernel⟩,
   ⟨sPd good, uPd good, good, pd, by decide +kernel, rfl, by decide +kernel⟩,
   ⟨sPd good 2, uPd good 2, good, {pd with kind := 2}, by decide +kernel, rfl, by decide +kernel⟩⟩

theorem test_ResponsesAndMulticast_5_met :
    ∃ (s : State) (r : BitVec 16), pendOf s r = none :=
  ⟨sN, 5, by decide +kernel⟩

theorem test_ResponsesAndMulticast_6_met :
    (∃ (s : State) (r : BitVec 16) (p : Pending), pendOf s r = some p ∧ p.ends = none) ∧
    (∃ (s : State) (r : BitVec 16) (p : Pending) (e : ℕ), pendOf s r = some p ∧ p.ends = some e ∧ s.now < e) ∧
    (∃ (s : State) (r : BitVec 16) (p : Pending) (e : ℕ), pendOf s r = some p ∧ p.ends = some e ∧ e ≤ s.now) :=
  ⟨⟨(sPd good).mapFabric (fun f => {f with pend := [{pd with ends := none}]}), 9, {pd with ends := none}, by decide +kernel⟩,
   ⟨{sPd good with now := 999}, 9, pd, 1000, by decide +kernel⟩,
   ⟨{sPd good with now := 1000}, 9, pd, 1000, by decide +kernel⟩⟩

theorem test_ResponsesAndMulticast_7_met :
    ∃ (s : State) (o : OutPkt), localOf s tMcBlock = some o ∧ headOfGroup s o.pkt.group = none :=
  ⟨loc sN [mb 0 1], mb 0 1, by decide +kernel⟩

theorem test_RemoteOperations_4_met :
    (∃ (s : State) (q : ℕ) (o : OutPkt), pickOut s q = some o) ∧
    (∃ (s : State) (q : ℕ) (o : OutPkt), pickOut s q = some o ∧ o.sent = 0) ∧
    (∃ (s : State) (q : ℕ) (o : OutPkt), pickOut s q = some o ∧ o.sent = 0 ∧ o.pkt.ptype = tMcBlock) ∧
    (∃ (s : State) (q : ℕ) (o : OutPkt) (x : OutPkt), pickOut s q = some o ∧ o.sent = 0 ∧ x ∈ (s.port q).outQ) ∧
    (∃ (s : State) (q : ℕ) (o : OutPkt) (x : OutPkt), pickOut s q = some o ∧ o.sent = 0 ∧ x ∈ (s.port q).outQ ∧ x.pkt.vc =
      o.pkt.vc) :=
  ⟨⟨sQ, 0, pw, by decide +kernel⟩,
   ⟨sQ, 0, pw, by decide +kernel⟩,
   ⟨sQm, 0, mcQ, by decide +kernel⟩,
   ⟨sQ, 0, pw, pw, by decide +kernel⟩,
   ⟨sQ, 0, pw, pw, by decide +kernel⟩⟩

theorem test_RequestsAreServed_1_met :
    (∃ (s : State), nextReq s tWrite = none) ∧
    (∃ (s : State), nextReq s tRead = none) ∧
    (∃ (s : State), nextReq s tAtomic = none) ∧
    (∃ (s : State), nextBell s = none) :=
  ⟨⟨sN, by decide +kernel⟩,
   ⟨sN, by decide +kernel⟩,
   ⟨sN, by decide +kernel⟩,
   ⟨sN, by decide +kernel⟩⟩

theorem test_ResponsesAndMulticast_1_met :
    (∃ (s : State), localOf s tReadData = none) ∧
    (∃ (s : State), localOf s tAck = none) ∧
    (∃ (s : State), localOf s tMcBlock = none) ∧
    (∃ (s : State), localOf s tMcMarker = none) :=
  ⟨⟨sN, by decide +kernel⟩,
   ⟨sN, by decide +kernel⟩,
   ⟨sN, by decide +kernel⟩,
   ⟨sN, by decide +kernel⟩⟩

theorem test_RequestsAreServed_9_met :
    (∃ (s u : State) (src rtag : BitVec 16) (n : Nat) (rest : List (BitVec 16 × BitVec 16 × Nat)) (k : Nat → Packet),
      s.fabric.bells = (src, rtag, n) :: rest ∧ u = s.mapFabric (fun f => { f with bells := rest }) ∧
      k = (fun st => ackOf u { Packet.zero with src := src, rtag := rtag } st) ∧ netRuns s = false) ∧
    (∃ (s u : State) (src rtag : BitVec 16) (n : Nat) (rest : List (BitVec 16 × BitVec 16 × Nat)) (k : Nat → Packet),
      s.fabric.bells = (src, rtag, n) :: rest ∧ u = s.mapFabric (fun f => { f with bells := rest }) ∧
      k = (fun st => ackOf u { Packet.zero with src := src, rtag := rtag } st) ∧ netRuns s = true ∧
      (∀ x, Tbl.get s.drover.templates n = some x → (s.queue x.queue).enable = false)) ∧
    (∃ (s u : State) (src rtag : BitVec 16) (n : Nat) (rest : List (BitVec 16 × BitVec 16 × Nat)) (k : Nat → Packet)
      (x : Template), s.fabric.bells = (src, rtag, n) :: rest ∧ u = s.mapFabric (fun f => { f with bells := rest }) ∧
      k = (fun st => ackOf u { Packet.zero with src := src, rtag := rtag } st) ∧ netRuns s = true ∧
      Tbl.get s.drover.templates n = some x ∧ (s.queue x.queue).enable = true) :=
  ⟨⟨sBo, ub sBo, 0x800, 9, 4, [], kk (ub sBo), by decide +kernel, rfl, rfl, by decide +kernel⟩,
   ⟨sBl, ub sBl, 0x800, 9, 4, [], kk (ub sBl), by decide +kernel, rfl, rfl, by decide +kernel, by
      intro x h
      have e : Tbl.get sBl.drover.templates 4 = none := by decide +kernel
      exact absurd (e.symm.trans h) (by intro h; cases h)⟩,
   ⟨sBt, ub sBt, 0x800, 9, 4, [], kk (ub sBt), tmx, by decide +kernel, rfl, rfl, by decide +kernel⟩⟩

end Sys2Proof.Tests.Remote

namespace Sys2Proof.Tests.Served
open Sys2Proof Sys2Proof.Machine Sys2Proof.Tests

def net (s : State) : State := (((s.setReg slotRoute 0x040 0x80000000).setReg slotRoute 0x044 0x00001800).mapFabric (fun f => {f with routes := [(1, 0x80000001)]})).setPort 0 {Port.start with st := .up} |> fun s => ((List.range 6).foldl (fun s p => s.setDom (16+p) {s.dom (16+p) with st := .run}) s)
def kR : Core := { Core.idle with chans := [(2, armed 2 4 0x100 true)] }
def pkt (t : Nat) (data : List Byte := []) (vc : Nat := 0) (addr : Nat := 0x20000000) : Packet := {Packet.zero with ptype := t, vc := vc, dest := 0x0800, src := 0, rtag := 9, addr := addr, data := data, len := data.length}
def nQ (s : State) (l : List OutPkt) (f : Port → Port := id) : State := s.setPort 0 (f {s.port 0 with outQ := l})
def sN : State := net stMgmt
def via (n : Nat := 2) : Via := ⟨none, 5, n⟩
def pw : OutPkt := ⟨pkt tWrite [1,2,3], via, 0, 0, none, 0⟩
def mb (seq gen : Nat) (since : Option Nat := none): OutPkt := ⟨{Packet.zero with ptype := tMcBlock, vc := 4, group := 0x80, gen := gen, seq := seq, data := List.replicate 512 1, checks := [7], addr := 0x5000, len := 512}, ⟨some 0, 5, 10⟩, 0, 0, since, 0⟩
def loc (s : State) (l : List OutPkt) : State := s.mapFabric (fun f => {f with local_ := l})
def dsc : ChainD := ⟨true, true, false, 1, 0, 0, 0x800, 0x80, 0, 0, 256, [0]⟩
def sl (ring : List ChBlock) : ChSlot := {newChSlot dsc 0 1 0 (some 0) with ring := ring}
def bl (seq : Nat) : ChBlock := ⟨0, 1, seq, 0, [], 0, [], none, false, false⟩
def sG (v : ChSlot) (l : List OutPkt) : State := (loc (net (stProg 5 [clChan 2] [] kR)) l).mapCore 0 (fun k => {k with drove := [(0, v)]})
def ringOf (v : ChSlot) (n : Nat) : ChSlot := {v with ring := (List.range n).map bl}
def fullN := ringOf (sl []) (sl []).ringSize
def sGf (n : Nat) (w : Option Nat) : State := {sG fullN [mb 2 1 w] with now := n}
def mc0 := mcStall sN
def one : ChSlot := {sl [bl 0] with wr := 1, recvGen := 1, recvSeq := 0}
def cb (seq gen : Nat) : ChBlock := ⟨0, gen, seq, 0x5000, List.replicate 512 1, 7, [], (if seq = 0 then some ⟨0x5000, none⟩ else none), false, false⟩
def oneD : ChSlot := {one with detached := true}
def mkr (opx seq gen : Nat) : OutPkt := ⟨{Packet.zero with ptype := tMcMarker, vc := 4, group := 0x80, gen := gen, seq := seq, opx := opx}, ⟨some 0, 5, 1⟩, 0, 0, none, 0⟩
def mk (c : Bool) : ChMark := ⟨c, 1, 1, false⟩
def uM (v : ChSlot) (o : OutPkt) (m : ChMark) : State := forwardMark (takeMark (dropLocal (sG v [o]) o) 0 0 v m) 0 v m
def m2k : ChMark := ⟨false, 1, 3, false⟩
def sPr (n : Nat) (w : Option Nat := some 0) : State := {nQ sN [pw, mb 0 1 w, mb 1 1 w] (fun v => {v with credits := [512,512,512,512,9,512,64]}) with now := n}
def sPp : State := (sPr mc0).mapFabric (fun f => {f with prunes := [(0x80, 1, 0)]})

theorem test_ResponsesAndMulticast_7_met :
    (∃ (s : State) (o : OutPkt) (c : ℕ) (i : ℕ) (v : ChSlot), localOf s tMcBlock = some o ∧ headOfGroup s o.pkt.group = some (c,
      i, v) ∧ s.hurdled (RDom.core (coreOf c)) = true) ∧
    (∃ (s : State) (o : OutPkt) (c : ℕ) (i : ℕ) (v : ChSlot), localOf s tMcBlock = some o ∧ headOfGroup s o.pkt.group = some (c,
      i, v) ∧ s.hurdled (RDom.core (coreOf c)) = false ∧ (v.ringSize ≤ v.ring.length ∨ portFree s (2 * c) = false) ∧ (∀ (t : ℕ),
      o.waitAt = some t → s.now < t + mcStall s)) ∧
    (∃ (s : State) (o : OutPkt) (c : ℕ) (i : ℕ) (v : ChSlot) (t : ℕ), localOf s tMcBlock = some o ∧ headOfGroup s o.pkt.group =
      some (c, i, v) ∧ s.hurdled (RDom.core (coreOf c)) = false ∧ (v.ringSize ≤ v.ring.length ∨ portFree s (2 * c) = false) ∧
      o.waitAt = some t ∧ t + mcStall s ≤ s.now) ∧
    (∃ (s : State) (o : OutPkt) (c : ℕ) (i : ℕ) (v : ChSlot) (b : ChBlock) (h : ℕ), localOf s tMcBlock = some o ∧ headOfGroup s
      o.pkt.group = some (c, i, v) ∧ s.hurdled (RDom.core (coreOf c)) = false ∧ v.ring.length < v.ringSize ∧ portFree s (2 * c)
      = true ∧ (h = if v.recvGen = o.pkt.gen ∧ v.wr ≠ 0 then v.recvSeq + 1 else 0) ∧ (b = { o.pkt with entry := 0, check := wd o.pkt.checks 0, poison := [], src := if o.pkt.seq = 0 then some { base := o.pkt.addr, walk := none } else none, sent := false, used := false })
      ∧ v.detached = false ∧ (o.pkt.seq = 0 ∨ o.pkt.seq = h)) ∧
    (∃ (s : State) (o : OutPkt) (c : ℕ) (i : ℕ) (v : ChSlot) (b : ChBlock) (h : ℕ), localOf s tMcBlock = some o ∧ headOfGroup s
      o.pkt.group = some (c, i, v) ∧ s.hurdled (RDom.core (coreOf c)) = false ∧ v.ring.length < v.ringSize ∧ portFree s (2 * c)
      = true ∧ (h = if v.recvGen = o.pkt.gen ∧ v.wr ≠ 0 then v.recvSeq + 1 else 0) ∧ (b = { o.pkt with entry := 0, check := wd o.pkt.checks 0, poison := [], src := if o.pkt.seq = 0 then some { base := o.pkt.addr, walk := none } else none, sent := false, used := false })
      ∧ v.detached = false ∧ o.pkt.seq ≠ 0 ∧ o.pkt.seq ≠ h) ∧
    (∃ (s : State) (o : OutPkt) (c : ℕ) (i : ℕ) (v : ChSlot) (b : ChBlock) (h : ℕ), localOf s tMcBlock = some o ∧ headOfGroup s
      o.pkt.group = some (c, i, v) ∧ s.hurdled (RDom.core (coreOf c)) = false ∧ v.ring.length < v.ringSize ∧ portFree s (2 * c)
      = true ∧ (h = if v.recvGen = o.pkt.gen ∧ v.wr ≠ 0 then v.recvSeq + 1 else 0) ∧ (b = { o.pkt with entry := 0, check := wd o.pkt.checks 0, poison := [], src := if o.pkt.seq = 0 then some { base := o.pkt.addr, walk := none } else none, sent := false, used := false })
      ∧ v.detached = true ∧ rejoins (dropLocal s o) v b = true) ∧
    (∃ (s : State) (o : OutPkt) (c : ℕ) (i : ℕ) (v : ChSlot) (b : ChBlock) (h : ℕ), localOf s tMcBlock = some o ∧ headOfGroup s
      o.pkt.group = some (c, i, v) ∧ s.hurdled (RDom.core (coreOf c)) = false ∧ v.ring.length < v.ringSize ∧ portFree s (2 * c)
      = true ∧ (h = if v.recvGen = o.pkt.gen ∧ v.wr ≠ 0 then v.recvSeq + 1 else 0) ∧ (b = { o.pkt with entry := 0, check := wd o.pkt.checks 0, poison := [], src := if o.pkt.seq = 0 then some { base := o.pkt.addr, walk := none } else none, sent := false, used := false })
      ∧ v.detached = true ∧ rejoins (dropLocal s o) v b = false) :=
  ⟨⟨(sG fullN [mb 2 1]) |> fun s => {s with resets := {s.resets with crit := [.core 0]}}, mb 2 1, 0, 0, fullN,
     by decide +kernel⟩,
   ⟨sGf (mc0 - 1) (some 0), mb 2 1 (some 0), 0, 0, fullN, by decide +kernel⟩,
   ⟨sGf mc0 (some 0), mb 2 1 (some 0), 0, 0, fullN, 0, by decide +kernel⟩,
   ⟨sG one [mb 1 1], mb 1 1, 0, 0, one, cb 1 1, 1, by decide +kernel⟩,
   ⟨sG one [mb 2 1], mb 2 1, 0, 0, one, cb 2 1, 1, by decide +kernel⟩,
   ⟨sG oneD [mb 0 2], mb 0 2, 0, 0, oneD, cb 0 2, 0, by decide +kernel⟩,
   ⟨sG oneD [mb 1 1], mb 1 1, 0, 0, oneD, cb 1 1, 1, by decide +kernel⟩⟩

theorem test_ResponsesAndMulticast_8_met :
    (∃ (s : State) (o : OutPkt) (m : ChMark), localOf s tMcMarker = some o ∧ m = { cancel := o.pkt.opx == 2, gen := o.pkt.gen, n := o.pkt.seq, last := false }
      ∧ headOfGroup s o.pkt.group = none) ∧
    (∃ (s : State) (o : OutPkt) (m : ChMark) (c : ℕ) (i : ℕ) (v : ChSlot), localOf s tMcMarker = some o ∧ m = { cancel := o.pkt.opx == 2, gen := o.pkt.gen, n := o.pkt.seq, last := false }
      ∧ headOfGroup s o.pkt.group = some (c, i, v) ∧ s.hurdled (RDom.core (coreOf c)) = true) ∧
    (∃ (s : State) (o : OutPkt) (m : ChMark) (c : ℕ) (i : ℕ) (v : ChSlot) (u : State) (h : ℕ), localOf s tMcMarker = some o ∧ m
      = { cancel := o.pkt.opx == 2, gen := o.pkt.gen, n := o.pkt.seq, last := false } ∧ headOfGroup s o.pkt.group = some (c, i,
      v) ∧ s.hurdled (RDom.core (coreOf c)) = false ∧ u = forwardMark (takeMark (dropLocal s o) c i v m) c v m ∧ (h = if
      v.recvGen = m.gen ∧ v.wr ≠ 0 then v.recvSeq + 1 else 0) ∧ (m.n ≤ h ∨ v.detached = true ∨ v.past m.gen = true)) ∧
    (∃ (s : State) (o : OutPkt) (m : ChMark) (c : ℕ) (i : ℕ) (v : ChSlot) (u : State) (h : ℕ) (w : ChSlot), localOf s tMcMarker
      = some o ∧ m = { cancel := o.pkt.opx == 2, gen := o.pkt.gen, n := o.pkt.seq, last := false } ∧ headOfGroup s o.pkt.group =
      some (c, i, v) ∧ s.hurdled (RDom.core (coreOf c)) = false ∧ u = forwardMark (takeMark (dropLocal s o) c i v m) c v m ∧ (h
      = if v.recvGen = m.gen ∧ v.wr ≠ 0 then v.recvSeq + 1 else 0) ∧ h < m.n ∧ v.detached = false ∧ v.past m.gen = false ∧
      (u.core c).chSlot i = some w) :=
  ⟨⟨loc sN [mkr 2 1 1], mkr 2 1 1, mk true, by decide +kernel⟩,
   ⟨(sG one [mkr 2 1 1]) |> fun s => {s with resets := {s.resets with crit := [.core 0]}}, mkr 2 1 1, mk true, 0, 0, one,
     by decide +kernel⟩,
   ⟨sG one [mkr 2 1 1], mkr 2 1 1, mk true, 0, 0, one, uM one (mkr 2 1 1) (mk true), 1, by decide +kernel, by decide +kernel,
     by decide +kernel, by decide +kernel, rfl, by decide +kernel⟩,
   ⟨sG one [mkr 1 3 1], mkr 1 3 1, m2k, 0, 0, one, uM one (mkr 1 3 1) m2k, 1, ((((uM one (mkr 1 3 1) m2k).core 0).chSlot 0).get
     (by decide +kernel)), by decide +kernel, by decide +kernel, by decide +kernel, by decide +kernel, rfl, by decide +kernel⟩⟩

theorem test_ResponsesAndMulticast_9_met :
    (∃ (s : State) (p : PortId) (o : OutPkt), List.find? (fun (o : OutPkt) => o.pkt.ptype == tMcBlock && stalledOut s o) (s.port
      ↑p).outQ = some o ∧ pruned s o.pkt.group o.pkt.gen ↑p = true) ∧
    (∃ (s : State) (p : PortId) (o : OutPkt), List.find? (fun (o : OutPkt) => o.pkt.ptype == tMcBlock && stalledOut s o) (s.port
      ↑p).outQ = some o ∧ pruned s o.pkt.group o.pkt.gen ↑p = false) :=
  ⟨⟨sPp, 0, mb 0 1 (some 0), by decide +kernel⟩,
   ⟨sPr mc0, 0, mb 0 1 (some 0), by decide +kernel⟩⟩

theorem test_ResponsesAndMulticast_10_met :
    ∃ (s : State) (p : PortId), (∀ o ∈ (s.port ↑p).outQ, o.pkt.ptype = tMcBlock → ∀ (t : ℕ), o.waitAt = some t → s.now < t +
      mcStall s) :=
  ⟨nQ sN [pw, mb 0 1], 0, by decide +kernel⟩

end Sys2Proof.Tests.Served

namespace Sys2Proof.Tests.Linking
open Sys2Proof Sys2Proof.Machine Sys2Proof.Tests

def net (s : State) : State := (((s.setReg slotRoute 0x040 0x80000000).setReg slotRoute 0x044 0x00001800).mapFabric (fun f => {f with routes := [(1, 0x80000001)]})).setPort 0 {Port.start with st := .up} |> fun s => ((List.range 6).foldl (fun s p => s.setDom (16+p) {s.dom (16+p) with st := .run}) s)
def pkt (t : Nat) (data : List Byte := []) (vc : Nat := 0) (addr : Nat := 0x20000000) : Packet := {Packet.zero with ptype := t, vc := vc, dest := 0x0800, src := 0, rtag := 9, addr := addr, data := data, len := data.length}
def sN : State := net stMgmt
def via (n : Nat := 2) : Via := ⟨none, 5, n⟩
def pw : OutPkt := ⟨pkt tWrite [1,2,3], via, 0, 0, none, 0⟩
def cw (n : BitVec 12) (fs : List Flit) : Codeword := ⟨n ++ (0 : BitVec 8), fs⟩
def hf : List Flit := (pkt tWrite [1,2,3]).allFlits 2
def cw0 := cw 0 hf
def badF : Flit := ⟨false, Vector.replicate 16 1⟩
def sDis : State := sN.setPort 0 {sN.port 0 with discard := true}
def sNk (naks : Nat) : State := sN.setPort 0 {sN.port 0 with replay := [cw 3 hf, cw 4 hf], nakSeq := 4, naks := naks}
def uNk (n k : Nat) : State := (((sNk k).setPort 0 { (sNk k).port 0 with replay := [cw 4 hf], nakSeq := 4, naks := n }).bump (slotLink 0) 0x064 1).pulse (slotLink 0) 1
def cf : Flit := mkFlit false (controlWords false false 3 [1,2,3,4,5,6,7])
def sRt (n : Nat) : State := {((sNk 2).setPort 0 {(sNk 2).port 0 with st := .retrain, trainAt := 100, outQ := [⟨{pkt tWrite [1] with src := 0x800}, via, 0, 0, none, 0⟩, pw]}) with now := n}
def sPe : State := (sN.setPort 0 Port.start).setReg (slotLink 0) 0x008 0x04000000
def uT (s : State) (v : Word) : State := s.fromHost.setReg (slotLink 0) 0x008 (v &&& 0x84000000)
def sTr : State := sN.setPort 0 {sN.port 0 with st := .training}
def sRr : State := (sNk 2).setPort 0 {(sNk 2).port 0 with st := .retrain}

theorem test_LinkLayer_2_met :
    ∃ (s : State) (p : PortId) (w : Codeword), (s.port ↑p).st = LinkSt.up ∧ seqOf w = (s.port ↑p).rxSeq ∧ (∀ f ∈ w.flits,
      flitGood f = true) :=
  ⟨sN, 0, cw0, by decide +kernel, by decide +kernel, List.all_eq_true.mp (by decide +kernel)⟩

theorem test_LinkLayer_3_met :
    ∃ (s : State) (p : PortId) (w : Codeword), (s.port ↑p).st = LinkSt.up ∧ (s.port ↑p).discard = false ∧ (s.port ↑p).rxNaks < 7
      ∧ (seqOf w ≠ (s.port ↑p).rxSeq ∨ ∃ f ∈ w.flits, flitGood f = false) :=
  ⟨sN, 0, cw 5 hf, by decide +kernel⟩

theorem test_LinkLayer_4_met :
    ∃ (s : State) (p : PortId) (w : Codeword), (s.port ↑p).st = LinkSt.up ∧ (s.port ↑p).discard = true ∧ seqOf w ≠ (s.port
      ↑p).rxSeq :=
  ⟨sDis, 0, cw 5 hf, by decide +kernel⟩

theorem test_LinkLayer_5_met :
    (∃ (s : State) (u : State) (p : PortId) (q : BitVec 12) (n : ℕ) (l : List Codeword), (s.port ↑p).st = LinkSt.up ∧ (n = if
      (s.port ↑p).nakSeq = q ∧ (s.port ↑p).naks ≠ 0 then (s.port ↑p).naks + 1 else 1) ∧ l = ackedTo (s.port ↑p).replay (q - 1) ∧
      u = ((s.setPort (↑p) ({ s.port ↑p with replay := l, nakSeq := q, naks := n })).bump (slotLink ↑p) 100 1).pulse (slotLink
      ↑p) 1 ∧ n < 8) ∧
    (∃ (s : State) (u : State) (p : PortId) (q : BitVec 12) (n : ℕ) (l : List Codeword), (s.port ↑p).st = LinkSt.up ∧ (n = if
      (s.port ↑p).nakSeq = q ∧ (s.port ↑p).naks ≠ 0 then (s.port ↑p).naks + 1 else 1) ∧ l = ackedTo (s.port ↑p).replay (q - 1) ∧
      u = ((s.setPort (↑p) ({ s.port ↑p with replay := l, nakSeq := q, naks := n })).bump (slotLink ↑p) 100 1).pulse (slotLink
      ↑p) 1 ∧ 8 ≤ n) :=
  ⟨⟨sNk 6, uNk 7 6, 0, 4, 7, [cw 4 hf], by decide +kernel, by decide +kernel, by decide +kernel, rfl, by decide +kernel⟩,
   ⟨sNk 7, uNk 8 7, 0, 4, 8, [cw 4 hf], by decide +kernel, by decide +kernel, by decide +kernel, rfl, by decide +kernel⟩⟩

theorem test_LinkLayer_6_met :
    (∃ (s : State) (p : PortId) (f : Flit), (s.port ↑p).st = LinkSt.up ∧ flitGood f = false) ∧
    (∃ (s : State) (p : PortId) (f : Flit), (s.port ↑p).st = LinkSt.up ∧ flitGood f = true ∧ f.data = true) ∧
    (∃ (s : State) (p : PortId) (f : Flit), (s.port ↑p).st = LinkSt.up ∧ flitGood f = true ∧ f.data = false ∧ bits (wd
      f.words.toList 0) 31 28 = 1 ∧ bit (wd f.words.toList 0) 26 = false) :=
  ⟨⟨sN, 0, badF, by decide +kernel⟩,
   ⟨sN, 0, mkFlit true (List.replicate 15 1), by decide +kernel⟩,
   ⟨sNk 2, 0, cf, by decide +kernel⟩⟩

theorem test_LinkLayer_7_met :
    (∃ (s : State) (p : PortId), (s.port ↑p).st = LinkSt.retrain ∧ (s.port ↑p).trainAt / 40 + 5000 ≤ s.ac) ∧
    (∃ (s : State) (p : PortId), ((s.port ↑p).st ≠ LinkSt.retrain ∨ s.ac < (s.port ↑p).trainAt / 40 + 5000)) ∧
    (∃ (s : State) (p : PortId), (s.port ↑p).st ∈ [LinkSt.up, LinkSt.retrain, LinkSt.miswired]) ∧
    (∃ (s : State) (p : PortId), (s.port ↑p).st ∉ [LinkSt.up, LinkSt.retrain, LinkSt.miswired]) :=
  ⟨⟨sRt 200080, 0, by decide +kernel⟩,
   ⟨sRt 200079, 0, by decide +kernel⟩,
   ⟨sRt 5, 0, by decide +kernel⟩,
   ⟨stMgmt, 0, by decide +kernel⟩⟩

theorem test_LinkLayer_8_met :
    (∃ (s : State) (p : PortId), (s.port ↑p).st = LinkSt.down ∧ bit (s.reg (slotLink ↑p) 8) 26 = true ∧ portRuns s ↑p = true) ∧
    (∃ (s : State) (p : PortId), ((s.port ↑p).st ≠ LinkSt.down ∨ bit (s.reg (slotLink ↑p) 8) 26 = false ∨ portRuns s ↑p =
      false)) :=
  ⟨⟨sPe, 0, by decide +kernel⟩,
   ⟨sN, 0, by decide +kernel⟩⟩

theorem test_LinkLayer_9_met :
    (∃ (s : State) (u : State) (f : FuncId) (p : PortId) (v : Word), Reaches s f (regAt (slotLink ↑p) 8) ∧ u = s.fromHost.setReg
      (slotLink ↑p) 8 (v &&& 2214592512) ∧ s.fromHost.hurdled (RDom.port p) = false ∧ (s.fromHost.dom (16 + ↑p)).st = PSt.run ∧
      bit v 26 = true) ∧
    (∃ (s : State) (u : State) (f : FuncId) (p : PortId) (v : Word), Reaches s f (regAt (slotLink ↑p) 8) ∧ u = s.fromHost.setReg
      (slotLink ↑p) 8 (v &&& 2214592512) ∧ s.fromHost.hurdled (RDom.port p) = false ∧ (s.fromHost.dom (16 + ↑p)).st = PSt.run ∧
      bit v 26 = false ∧ (s.port ↑p).st = LinkSt.down) ∧
    (∃ (s : State) (u : State) (f : FuncId) (p : PortId) (v : Word), Reaches s f (regAt (slotLink ↑p) 8) ∧ u = s.fromHost.setReg
      (slotLink ↑p) 8 (v &&& 2214592512) ∧ s.fromHost.hurdled (RDom.port p) = false ∧ (s.fromHost.dom (16 + ↑p)).st = PSt.run ∧
      bit v 26 = false ∧ (s.port ↑p).st ≠ LinkSt.down) :=
  ⟨⟨sPe, uT sPe 0x0C000000, 0, 0, 0x0C000000, reaches (by decide +kernel), rfl, by decide +kernel⟩,
   ⟨sPe, uT sPe 0, 0, 0, 0, reaches (by decide +kernel), rfl, by decide +kernel⟩,
   ⟨sN, uT sN 0, 0, 0, 0, reaches (by decide +kernel), rfl, by decide +kernel⟩⟩

theorem test_LinkLayer_10_met :
    ∃ (s : State) (p : PortId), (s.port ↑p).st = LinkSt.training :=
  ⟨sTr, 0, by decide +kernel⟩

theorem test_LinkLayer_11_met :
    ∃ (s : State) (p : PortId) (l : List Codeword), (s.port ↑p).st = LinkSt.retrain ∧ l = ackedTo (s.port ↑p).replay ((s.port
      ↑p).nakSeq - 1) :=
  ⟨sRr, 0, ackedTo [cw 3 hf, cw 4 hf] 3, by decide +kernel⟩

theorem test_LinkLayer_12_met :
    ∃ (s : State) (p : PortId), (s.port ↑p).st ∉ [LinkSt.training, LinkSt.retrain] :=
  ⟨sN, 0, by decide +kernel⟩

theorem test_LinkLayer_1_met :
    (∃ (s : State) (p : PortId), (s.port ↑p).st ≠ LinkSt.up) ∧
    (∃ (s : State) (p : PortId), (s.port ↑p).st ≠ LinkSt.up) ∧
    (∃ (s : State) (p : PortId), (s.port ↑p).st ≠ LinkSt.up) :=
  ⟨⟨stMgmt, 0, by decide +kernel⟩,
   ⟨stMgmt, 0, by decide +kernel⟩,
   ⟨stMgmt, 0, by decide +kernel⟩⟩

end Sys2Proof.Tests.Linking

namespace Sys2Proof.Tests.Neighbours
open Sys2Proof Sys2Proof.Machine Sys2Proof.Tests

def net (s : State) : State := (((s.setReg slotRoute 0x040 0x80000000).setReg slotRoute 0x044 0x00001800).mapFabric (fun f => {f with routes := [(1, 0x80000001)]})).setPort 0 {Port.start with st := .up} |> fun s => ((List.range 6).foldl (fun s p => s.setDom (16+p) {s.dom (16+p) with st := .run}) s)
def pkt (t : Nat) (data : List Byte := []) (vc : Nat := 0) (addr : Nat := 0x20000000) : Packet := {Packet.zero with ptype := t, vc := vc, dest := 0x0800, src := 0, rtag := 9, addr := addr, data := data, len := data.length}
def sN : State := net stMgmt
def loc (s : State) (l : List OutPkt) : State := s.mapFabric (fun f => {f with local_ := l})
def sPe : State := (sN.setPort 0 Port.start).setReg (slotLink 0) 0x008 0x04000000
def uT (s : State) (v : Word) : State := s.fromHost.setReg (slotLink 0) 0x008 (v &&& 0x84000000)
def sDz1 : State := sPe.setDom 16 {sPe.dom 16 with st := .doze}
def sHu : State := {sPe with resets := {sPe.resets with crit := [.port 0]}}
def mg (op len : Nat) (a : Nat) (d : List Byte := []) (gen : Nat := 0): OutPkt := ⟨{Packet.zero with ptype := tMgmt, vc := 6, dest := 0, src := 0x0800, rtag := 9, addr := a, opx := op, len := len, data := d, gen := gen}, ⟨some 0, 5, 1 + (d.length + 59)/60⟩, 0, 0, none, 0⟩
def sA : State := (sN.setReg slotMgmt 0x254 0xC0000000).setReg slotMgmt 0x250 0 |>.setPort 0 {Port.start with st := .up, peer := 0x0800}
def sX (s : State) (o : OutPkt) : State := loc s [o]
def sN0 : State := sA.setReg slotMgmt 0x254 0
def dl (s : State) (o : OutPkt) : State := dropLocal (sX s o) o
def q1 : Nat := match sA.sharal.tally.recs with | r :: _ => (seqView r.seq) | [] => 0
def aT := regAt slotMgmt 0x100
def sA2 : State := sA.setReg slotMgmt 0x254 0x80000000
def w4 := mg 2 4 aT (wordsBytes [1])
def w5 := mg 2 4 (aT+4) (wordsBytes [1])
def mbx (ws : List Word) : Mbox := ⟨false, ws, none⟩
def m1 : Mbox := mbx [0x07000005, 0, 1, 0, 4]
def sM (m : Mbox) (n : Option Neigh) (o : Option OutPkt := none) : State := (match o with | some o => sX sA o | none => sA).mapSharal (fun h => {h with mbox := some m, neigh := n})
def m2 : Mbox := mbx [0x07000005, 6, 1, 0, 4]
def m3 : Mbox := mbx [0x07000005, 1, 1, 0, 4]
def sRt1 : State := sA.setReg slotRoute 0x050 0x80000FFF

theorem test_LinkLayer_9_met :
    (∃ (s : State) (u : State) (f : FuncId) (p : PortId) (v : Word), Reaches s f (regAt (slotLink ↑p) 8) ∧ u = s.fromHost.setReg
      (slotLink ↑p) 8 (v &&& 2214592512) ∧ bit v 26 = true ∧ s.fromHost.hurdled (RDom.port p) = true) ∧
    (∃ (s : State) (u : State) (f : FuncId) (p : PortId) (v : Word), Reaches s f (regAt (slotLink ↑p) 8) ∧ u = s.fromHost.setReg
      (slotLink ↑p) 8 (v &&& 2214592512) ∧ bit v 26 = true ∧ s.fromHost.hurdled (RDom.port p) = false ∧ (s.fromHost.dom (16 +
      ↑p)).st ≠ PSt.run) :=
  ⟨⟨sHu, uT sHu 0x0C000000, 0, 0, 0x0C000000, reaches (by decide +kernel), rfl, by decide +kernel⟩,
   ⟨sDz1, uT sDz1 0x0C000000, 0, 0, 0x0C000000, reaches (by decide +kernel), rfl, by decide +kernel⟩⟩

theorem test_NeighbourManagement_2_met :
    (∃ (s : State) (u : State) (o : OutPkt), u = dropLocal s o ∧ mgmtAdmits s o.pkt.src = false ∧ mgmtPacket s [1] = some o) ∧
    (∃ (s : State) (u : State) (o : OutPkt), u = dropLocal s o ∧ mgmtAdmits s o.pkt.src = false ∧ mgmtPacket s [2] = some o) ∧
    (∃ (s : State) (u : State) (o : OutPkt), u = dropLocal s o ∧ mgmtAdmits s o.pkt.src = false ∧ mgmtPacket s [3] = some o) :=
  ⟨⟨sX sN0 (mg 1 4 0), dropLocal (sX sN0 (mg 1 4 0)) (mg 1 4 0), mg 1 4 0, rfl, by decide +kernel⟩,
   ⟨sX sN0 (mg 2 4 0), dropLocal (sX sN0 (mg 2 4 0)) (mg 2 4 0), mg 2 4 0, rfl, by decide +kernel⟩,
   ⟨sX sN0 (mg 3 4 0), dropLocal (sX sN0 (mg 3 4 0)) (mg 3 4 0), mg 3 4 0, rfl, by decide +kernel⟩⟩

theorem test_NeighbourManagement_3_met :
    (∃ (s : State) (u : State) (o : OutPkt) (r : TRec), u = dropLocal s o ∧ mgmtAdmits s o.pkt.src = true ∧ mgmtPacket s [3] =
      some o ∧ recordOf s (BitVec.ofNat 32 o.pkt.addr) = some r) ∧
    (∃ (s : State) (u : State) (o : OutPkt), u = dropLocal s o ∧ mgmtAdmits s o.pkt.src = true ∧ mgmtPacket s [3] = some o ∧
      recordOf s (BitVec.ofNat 32 o.pkt.addr) = none) ∧
    (∃ (s : State) (u : State) (o : OutPkt), u = dropLocal s o ∧ mgmtAdmits s o.pkt.src = true ∧ mgmtPacket s [1] = some o ∧
      o.pkt.len = 4 ∧ o.pkt.addr % 4 = 0 ∧ smbPage (o.pkt.addr / 4096) = true) ∧
    (∃ (s : State) (u : State) (o : OutPkt), u = dropLocal s o ∧ mgmtAdmits s o.pkt.src = true ∧ mgmtPacket s [1] = some o ∧
      (o.pkt.len % 4 ≠ 0 ∨ o.pkt.len < 4 ∨ 32 < o.pkt.len)) ∧
    (∃ (s : State) (u : State) (o : OutPkt), u = dropLocal s o ∧ mgmtAdmits s o.pkt.src = true ∧ mgmtPacket s [2] = some o ∧ bit
      (s.reg slotMgmt 596) 30 = false) ∧
    (∃ (s : State) (u : State) (o : OutPkt), u = dropLocal s o ∧ mgmtAdmits s o.pkt.src = true ∧ mgmtPacket s [2] = some o ∧ bit
      (s.reg slotMgmt 596) 30 = true ∧ o.pkt.len = 4 ∧ extReach o.pkt.addr = true) ∧
    (∃ (s : State) (u : State) (o : OutPkt), u = dropLocal s o ∧ mgmtAdmits s o.pkt.src = true ∧ mgmtPacket s [2] = some o ∧ bit
      (s.reg slotMgmt 596) 30 = true ∧ (o.pkt.len % 4 ≠ 0 ∨ o.pkt.len < 4 ∨ 32 < o.pkt.len ∨ extReach o.pkt.addr = false)) :=
  ⟨⟨sX sA (mg 3 0 q1), dl sA (mg 3 0 q1), mg 3 0 q1, ((recordOf sA (w32 q1)).get (by decide +kernel)), rfl, by decide +kernel⟩,
   ⟨sX sA (mg 3 0 (q1+9)), dl sA (mg 3 0 (q1+9)), mg 3 0 (q1+9), rfl, by decide +kernel⟩,
   ⟨sX sA (mg 1 4 aT), dl sA (mg 1 4 aT), mg 1 4 aT, rfl, by decide +kernel⟩,
   ⟨sX sA (mg 1 36 aT), dl sA (mg 1 36 aT), mg 1 36 aT, rfl, by decide +kernel⟩,
   ⟨sX sA2 (mg 2 4 aT), dl sA2 (mg 2 4 aT), mg 2 4 aT, rfl, by decide +kernel⟩,
   ⟨sX sA w4, dl sA w4, w4, rfl, by decide +kernel⟩,
   ⟨sX sA w5, dl sA w5, w5, rfl, by decide +kernel⟩⟩

theorem test_NeighbourManagement_4_met :
    (∃ (s : State) (o : OutPkt), mgmtPacket s [8] = some o ∧ (∀ (n : Neigh), s.sharal.neigh = some n → n.rtag ≠ o.pkt.rtag)) ∧
    (∃ (s : State) (o : OutPkt) (n : Neigh) (m : Mbox), mgmtPacket s [8] = some o ∧ s.sharal.neigh = some n ∧ s.sharal.mbox =
      some m ∧ n.rtag = o.pkt.rtag ∧ o.pkt.gen = 0 ∧ nbOp m = 1) ∧
    (∃ (s : State) (o : OutPkt) (n : Neigh) (m : Mbox), mgmtPacket s [8] = some o ∧ s.sharal.neigh = some n ∧ s.sharal.mbox =
      some m ∧ n.rtag = o.pkt.rtag ∧ o.pkt.gen ≠ 0 ∧ nbOp m ≠ 3) :=
  ⟨⟨sX sA (mg 8 0 0), mg 8 0 0, by decide +kernel⟩,
   ⟨sM m1 (some ⟨9, 0⟩) (some (mg 8 4 0 [1,2,3,4])), mg 8 4 0 [1,2,3,4], ⟨9,0⟩, m1, by decide +kernel⟩,
   ⟨sM m1 (some ⟨9, 0⟩) (some (mg 8 4 0 [1,2,3,4] 2)), mg 8 4 0 [1,2,3,4] 2, ⟨9,0⟩, m1, by decide +kernel⟩⟩

theorem test_NeighbourManagement_5_met :
    (∃ (s : State) (m : Mbox), s.sharal.mbox = some m ∧ m.code = 7 ∧ m.rsp = none ∧ s.sharal.neigh ≠ none) ∧
    (∃ (s : State) (m : Mbox), s.sharal.mbox = some m ∧ m.code = 7 ∧ m.rsp = none ∧ s.sharal.neigh = none ∧ nbBad m = true) ∧
    (∃ (s : State) (m : Mbox), s.sharal.mbox = some m ∧ m.code = 7 ∧ m.rsp = none ∧ s.sharal.neigh = none ∧ nbBad m = false ∧
      portUp s (nbPort m) = false) ∧
    (∃ (s : State) (m : Mbox), s.sharal.mbox = some m ∧ m.code = 7 ∧ m.rsp = none ∧ s.sharal.neigh = none ∧ nbBad m = false ∧
      portUp s (nbPort m) = true) :=
  ⟨⟨sM m1 (some ⟨9,0⟩), m1, by decide +kernel⟩,
   ⟨sM m2 none, m2, by decide +kernel⟩,
   ⟨sM m3 none, m3, by decide +kernel⟩,
   ⟨sM m1 none, m1, by decide +kernel⟩⟩

theorem test_NeighbourManagement_6_met :
    (∃ (s : State), (s.sharal.neigh = none ∨ s.sharal.mbox = none)) ∧
    (∃ (s : State) (n : Neigh) (m : Mbox), s.sharal.neigh = some n ∧ s.sharal.mbox = some m ∧ s.ac < n.since / 40 + 5000) ∧
    (∃ (s : State) (n : Neigh) (m : Mbox), s.sharal.neigh = some n ∧ s.sharal.mbox = some m ∧ n.since / 40 + 5000 ≤ s.ac) :=
  ⟨⟨sA, by decide +kernel⟩,
   ⟨{sM m1 (some ⟨9,5⟩) with now := 199999}, ⟨9,5⟩, m1, by decide +kernel⟩,
   ⟨{sM m1 (some ⟨9,5⟩) with now := 200000}, ⟨9,5⟩, m1, by decide +kernel⟩⟩

theorem test_NeighbourManagement_7_met :
    ∃ (s : State) (r : Requester), Arrives s r (regAt slotRoute 84) :=
  ⟨sRt1, .func 0, arrives (by decide +kernel)⟩

theorem test_NeighbourManagement_8_met :
    ∃ (s : State) (f : FuncId), ReadReaches s f (regAt slotRoute 84) ∧ s.fromHost.dstate slotRoute < 2 :=
  ⟨sRt1, 0, reads (by decide +kernel), by decide +kernel⟩

theorem test_NeighbourManagement_1_met :
    (∃ (s : State), mgmtPacket s [1] = none) ∧
    (∃ (s : State), mgmtPacket s [2] = none) ∧
    (∃ (s : State), mgmtPacket s [3] = none) ∧
    (∃ (s : State), mgmtPacket s [8] = none) :=
  ⟨⟨sA, by decide +kernel⟩,
   ⟨sA, by decide +kernel⟩,
   ⟨sA, by decide +kernel⟩,
   ⟨sA, by decide +kernel⟩⟩

end Sys2Proof.Tests.Neighbours

namespace Sys2Proof.Tests.Keys
open Sys2Proof Sys2Proof.Machine Sys2Proof.Tests

def nn : Nonce := ⟨[1,2,3,4], 2, 1, 100⟩
def sX : State := ({stQueue with host := {stQueue.host with sessions := [(0, ⟨0,7,0,0,false⟩), (1,⟨3,7,0,0,false⟩)], vfs := 8}}).setReg slotHost 0x200 0x00100000 |>.setReg slotHost 0x20C 0x00100000
def sXe : State := sX.setQueue 3 {HQueue.idle with sess := some 0, enable := true}
def sQc (cs : List Cmd) : State := ((sX.mapDrover (fun d => {d with cmds := cs})).mapHost (fun h => {h with sessions := [(0, ⟨0,7,0,4,false⟩)]})).setQueue 3 {HQueue.idle with sess := some 0, inflight := 1}
def xc (op : Nat) (blk n : Nat) : Cmd := ⟨3,0,fld op 24 ||| w32 blk, fld 7 16 ||| w32 n, 0x100000, 0, 0, false⟩
def hc (cs : List Cmd) (x : Option Xfer) (n : Nat := 400): State := {(sQc []).mapHost (fun h => {h with cmds := cs, xfer := x}) with now := n}
def x1 (op : Nat) (mv : Nat := 0): Xfer := ⟨xc op 0x100000 2, mv, none, 400, false⟩
def st (op : Nat) (n : Nat := 400) (mv : Nat := 0) : State := hc [] (some (x1 op mv)) n
def aX : Nat := 0x100000*512
def sB : State := {sX with now := 400}
def sDo : State := sB.setDom 25 {sB.dom 25 with st := .off}
def bA : Bar2 := ⟨0, aX, 4, none, false, false, 0, 0, []⟩
def bB : Bar2 := ⟨3, aX, 4, some [1], false, false, 1, 0, []⟩
def sTo (n : Nat) (l : List Bar2) : State := {sB with now := n, host := {sB.host with bar2 := l}}
def sBk : State := ((sXe.setBank_ 0 0x40 7).setBank_ 3 0x40 8).mapHost (fun h => {h with nonces := [(0,nn),(3,nn)]})

theorem test_Bar2AndPortEvents_1_met :
    ∃ (s : State) (f : FuncId), answers s f = false :=
  ⟨sDo, 0, by decide +kernel⟩

theorem test_Bar2AndPortEvents_6_met :
    (∃ (s : State), (∀ b ∈ s.host.bar2, b.bar0 = true ∨ s.ac < b.since / 40 + 50000)) ∧
    (∃ (s : State) (b : Bar2), List.find? (fun (b : Bar2) => !b.bar0 && decide (b.since / 40 + 50000 ≤ s.ac)) s.host.bar2 = some
      b) :=
  ⟨⟨sB, by decide +kernel⟩,
   ⟨sTo 2000000 [bA,bB], bA, by decide +kernel⟩⟩

theorem test_Bar2AndPortEvents_9_met :
    (∃ (s : State) (f : FuncId) (i : ℕ), Served s f ∧ i < 128) ∧
    (∃ (s : State) (f : FuncId) (i : ℕ), Served s f ∧ 128 ≤ i ∧ i < 4096) :=
  ⟨⟨sBk, 3, 127, ⟨by decide +kernel, by decide +kernel⟩, by decide +kernel⟩,
   ⟨sBk, 3, 4095, ⟨by decide +kernel, by decide +kernel⟩, by decide +kernel⟩⟩

theorem test_Bar2AndPortEvents_11_met :
    (∃ (s : State) (u : State), (u = s.mapPower fun (p : Power) => { p with perst := true }) ∧ (s.power.pwrGood = false ∨ (s.dom
      25).st = PSt.off)) ∧
    (∃ (s : State) (u : State), (u = s.mapPower fun (p : Power) => { p with perst := true }) ∧ s.power.pwrGood = true ∧ (s.dom
      25).st ≠ PSt.off) :=
  ⟨⟨sDo, sDo.mapPower (fun p => { p with perst := true }), rfl, by decide +kernel⟩,
   ⟨sBk, sBk.mapPower (fun p => { p with perst := true }), rfl, by decide +kernel⟩⟩

theorem test_Bar2AndPortEvents_12_met :
    (∃ (s : State) (u : State), (u = s.mapPower fun (p : Power) => { p with perst := false }) ∧ (s.power.pwrGood = false ∨
      (s.dom 25).st ≠ PSt.off)) ∧
    (∃ (s : State) (u : State), (u = s.mapPower fun (p : Power) => { p with perst := false }) ∧ s.power.pwrGood = true ∧ (s.dom
      25).st = PSt.off) :=
  ⟨⟨sBk, sBk.mapPower (fun p => { p with perst := false }), rfl, by decide +kernel⟩,
   ⟨sDo, sDo.mapPower (fun p => { p with perst := false }), rfl, by decide +kernel⟩⟩

theorem test_Bar2AndPortEvents_13_met :
    (∃ (s : State), (s.dom 25).st ≠ PSt.run) ∧
    (∃ (s : State), (s.dom 25).st = PSt.run ∧ (s.hurdled RDom.host = true ∨ resetOff s RDom.host = true)) ∧
    (∃ (s : State), (s.dom 25).st = PSt.run ∧ s.hurdled RDom.host = false ∧ resetOff s RDom.host = false) :=
  ⟨⟨sDo, by decide +kernel⟩,
   ⟨{sB with resets := {sB.resets with crit := [.host]}}, by decide +kernel⟩,
   ⟨sB, by decide +kernel⟩⟩

theorem test_KeySlotsKeepTheirRules_3_3_met :
    ∃ (s : State) (n : Nat) (p : Session → Bool) (x : Session), Tbl.get s.host.sessions n = some x ∧ p x = false ∧
      (∀ y, (n, y) ∈ s.host.sessions → y = x) :=
  ⟨stMgmt, 0, fun _ => false, ⟨0, 7, 0, 0, false⟩, by decide +kernel, rfl, by
    intro y h
    have h : (0, y) ∈ [((0 : Nat), (⟨0, 7, 0, 0, false⟩ : Session))] := h
    simpa using h⟩

end Sys2Proof.Tests.Keys

namespace Sys2Proof.Tests.Sessions
open Sys2Proof Sys2Proof.Machine Sys2Proof.Tests

def sM : State := stMgmt
def uK (s : State) (v : Word) : State := s.fromHost.setReg slotHost 0x800 (v &&& 0x1F)
def sK (a : Word) : State := (List.range 8).foldl (fun s k => s.setReg slotHost (0x820 + 4*k) (w32 (k+1))) ((sM.setReg slotHost 0x804 a).mapHost (fun h => {h with nonces := [(3,⟨[],2,1,0⟩)], sessions := [(0, ⟨0, 7, 0, 0, false⟩), (5,⟨0,1,2,3,false⟩)]}))
def v1 : Word := 0x80000002
def aG : Word := 0x03010000
def v2 : Word := 0x40000002
def sE : State := (sK aG).mapHost (fun h => {h with keys := [(2,⟨[],1,1,0⟩),(5,⟨[],1,1,0⟩)]})
def ky : KeySlot := ⟨List.replicate 32 5, 1, 1, 0xFF⟩
def sC (ks : Tbl KeySlot := [(2,ky)]) : State := sM.mapHost (fun h => {h with keys := ks})
def uC (s : State) (v : Word) (f : Nat := 0): State := (s.fromHost.setBank_ f 0x040 (v &&& 0x00071F00)).mapHost (fun h => { h with nonces := Tbl.del h.nonces f })
def vC : Word := 0x80010200
def vA : Word := 0x40000000
def nn : Nonce := ⟨[1,2,3,4], 2, 1, 100⟩
def sA (ac : Nat) : State := {sC.mapHost (fun h => {h with nonces := [(0,nn)]}) with now := ac * 40}
def sAl (s : State) (e : Nat) (n : Nat) : State := s.mapHost (fun h => {h with locks := (if e = 0 then [] else [(2,e)]), fails := [(2,n)]})
def ans : List Word := leWords (hmac256 ky.key (challengeMsg 0 nn))
def sG : State := (List.range 8).foldl (fun s k => s.setBank_ 0 (0x060 + 4*k) (wd ans k)) (sAl (sA 200) 0 7)
def sF : State := sG.mapHost (fun h => {h with sessions := (List.range 256).map (fun n => (n, ⟨0,1,2,3,false⟩))})
def uX (s : State) (v : Word) (f : Nat := 0) : State := s.fromHost.setBank_ f 0x080 (v &&& 0x03FF00FF)
def sX : State := ({stQueue with host := {stQueue.host with sessions := [(0, ⟨0,7,0,0,false⟩), (1,⟨3,7,0,0,false⟩)], vfs := 8}}).setReg slotHost 0x200 0x00100000 |>.setReg slotHost 0x20C 0x00100000
def sXe : State := sX.setQueue 3 {HQueue.idle with sess := some 0, enable := true}
def sCl : State := sXe.mapDrover (fun d => {d with cmds := [⟨3,0,0,0,0,0,0,false⟩, ⟨4,1,0,0,0,0,0,false⟩], templates := [(9, ⟨5, 2, 10, 3, 0, 0, 3⟩)]})
def sFr : State := (closeSession sCl 0 0)
def sBell := nextSt (exec (.sqDoorbell 0 3 2) sXe)
def c (op : Nat) : Cmd := ⟨3,0,fld op 24,0,0,0,0,false⟩
def sDr : State := sX.setQueue 3 {HQueue.idle with sess := some 0, draining := true}
def rc : ORec := ⟨1,0,7,0,0,0,none,0⟩
def sSt : State := (sX.setReg (slotQueue 3) 0x06C 15).setQueue 3 {HQueue.idle with sess := some 0, enable := true, staged := [rc, rc]}
def sSt1 : State := sSt.setReg (slotQueue 3) 0x068 13

theorem test_KeySlotsKeepTheirRules_1_met :
    (∃ (s : State) (u : State) (f : FuncId) (v : Word) (a : Word), Reaches s f (regAt slotHost 2048) ∧ bit v 30 = false ∧ u =
      s.fromHost.setReg slotHost 2048 (v &&& 31) ∧ a = s.reg slotHost 2052 ∧ bits v 4 0 ≠ 0 ∧ (bits a 23 16 = 0 ∧ bit a 24 =
      true ∨ (bit a 25 = true ∨ bit a 26 = true) ∧ bits a 7 0 ≠ 0)) ∧
    (∃ (s : State) (u : State) (f : FuncId) (v : Word) (a : Word), Reaches s f (regAt slotHost 2048) ∧ bit v 30 = false ∧ u =
      s.fromHost.setReg slotHost 2048 (v &&& 31) ∧ a = s.reg slotHost 2052 ∧ bits v 4 0 ≠ 0 ∧ ¬(bits a 23 16 = 0 ∧ bit a 24 =
      true ∨ (bit a 25 = true ∨ bit a 26 = true) ∧ bits a 7 0 ≠ 0)) ∧
    (∃ (s : State) (u : State) (f : FuncId) (v : Word) (a : Word), Reaches s f (regAt slotHost 2048) ∧ bit v 30 = false ∧ u =
      s.fromHost.setReg slotHost 2048 (v &&& 31) ∧ a = s.reg slotHost 2052 ∧ bits v 4 0 = 0) :=
  ⟨⟨sK 0x01000000, uK (sK 0x01000000) v1, 0, v1, 0x01000000, reaches (by decide +kernel), by decide +kernel, rfl,
     by decide +kernel⟩,
   ⟨sK aG, uK (sK aG) v1, 0, v1, aG, reaches (by decide +kernel), by decide +kernel, rfl, by decide +kernel⟩,
   ⟨sK aG, uK (sK aG) 0x80000000, 0, 0x80000000, aG, reaches (by decide +kernel), by decide +kernel, rfl, by decide +kernel⟩⟩

theorem test_KeySlotsKeepTheirRules_2_met :
    (∃ (s : State) (u : State) (f : FuncId) (v : Word), Reaches s f (regAt slotHost 2048) ∧ bit v 31 = false ∧ u =
      s.fromHost.setReg slotHost 2048 (v &&& 31) ∧ bits v 4 0 ≠ 0) ∧
    (∃ (s : State) (u : State) (f : FuncId) (v : Word), Reaches s f (regAt slotHost 2048) ∧ bit v 31 = false ∧ u =
      s.fromHost.setReg slotHost 2048 (v &&& 31) ∧ bits v 4 0 = 0) :=
  ⟨⟨sE, uK sE v2, 0, v2, reaches (by decide +kernel), by decide +kernel, rfl, by decide +kernel⟩,
   ⟨sE, uK sE 0x40000000, 0, 0x40000000, reaches (by decide +kernel), by decide +kernel, rfl, by decide +kernel⟩⟩

theorem test_SessionsOpenAndClose_1_met :
    (∃ (s : State) (u : State) (f : FuncId) (v : Word) (slot : ℕ) (priv : BitVec 3) (c : ℕ), Reaches s f (regAt slotHost 64) ∧
      bit v 30 = false ∧ slot = bits v 12 8 ∧ priv = BitVec.ofNat 3 (bits v 18 16) ∧ (u = (s.fromHost.setBank_ (↑f) 64 (v &&&
      466688)).mapHost fun (h : HostPort) => { h with nonces := h.nonces.del ↑f }) ∧ challengeCode s (↑f) slot priv = some c) ∧
    (∃ (s : State) (u : State) (f : FuncId) (v : Word) (slot : ℕ) (priv : BitVec 3), Reaches s f (regAt slotHost 64) ∧ bit v 30
      = false ∧ slot = bits v 12 8 ∧ priv = BitVec.ofNat 3 (bits v 18 16) ∧ (u = (s.fromHost.setBank_ (↑f) 64 (v &&&
      466688)).mapHost fun (h : HostPort) => { h with nonces := h.nonces.del ↑f }) ∧ challengeCode s (↑f) slot priv = none) :=
  ⟨⟨sC [], uC (sC []) vC, 0, vC, 2, 1, 8, reaches (by decide +kernel), by decide +kernel, by decide +kernel, by decide +kernel,
     rfl, by decide +kernel⟩,
   ⟨sC, uC sC vC, 0, vC, 2, 1, reaches (by decide +kernel), by decide +kernel, by decide +kernel, by decide +kernel, rfl,
     by decide +kernel⟩⟩

theorem test_SessionsOpenAndClose_2_met :
    (∃ (s : State) (u : State) (f : FuncId) (v : Word), Reaches s f (regAt slotHost 64) ∧ bit v 31 = false ∧ (u =
      (s.fromHost.setBank_ (↑f) 64 (v &&& 466688)).mapHost fun (h : HostPort) => { h with nonces := h.nonces.del ↑f }) ∧
      s.host.nonces.get ↑f = none) ∧
    (∃ (s : State) (u : State) (f : FuncId) (v : Word) (n : Nonce), Reaches s f (regAt slotHost 64) ∧ bit v 31 = false ∧ (u =
      (s.fromHost.setBank_ (↑f) 64 (v &&& 466688)).mapHost fun (h : HostPort) => { h with nonces := h.nonces.del ↑f }) ∧
      s.host.nonces.get ↑f = some n ∧ n.at_ + 50000000 ≤ s.ac) ∧
    (∃ (s : State) (u : State) (f : FuncId) (v : Word) (n : Nonce), Reaches s f (regAt slotHost 64) ∧ bit v 31 = false ∧ (u =
      (s.fromHost.setBank_ (↑f) 64 (v &&& 466688)).mapHost fun (h : HostPort) => { h with nonces := h.nonces.del ↑f }) ∧
      s.host.nonces.get ↑f = some n ∧ s.ac < n.at_ + 50000000 ∧ slotLocked s n.slot = true) ∧
    (∃ (s : State) (u : State) (f : FuncId) (v : Word) (n : Nonce), Reaches s f (regAt slotHost 64) ∧ bit v 31 = false ∧ (u =
      (s.fromHost.setBank_ (↑f) 64 (v &&& 466688)).mapHost fun (h : HostPort) => { h with nonces := h.nonces.del ↑f }) ∧
      s.host.nonces.get ↑f = some n ∧ s.ac < n.at_ + 50000000 ∧ slotLocked s n.slot = false ∧ (∀ (k : KeySlot), s.host.keys.get
      n.slot = some k → hmac256 k.key (challengeMsg (↑f) n) ≠ answerBytes s ↑f) ∧ failCount s n.slot < 7) ∧
    (∃ (s : State) (u : State) (f : FuncId) (v : Word) (n : Nonce), Reaches s f (regAt slotHost 64) ∧ bit v 31 = false ∧ (u =
      (s.fromHost.setBank_ (↑f) 64 (v &&& 466688)).mapHost fun (h : HostPort) => { h with nonces := h.nonces.del ↑f }) ∧
      s.host.nonces.get ↑f = some n ∧ s.ac < n.at_ + 50000000 ∧ slotLocked s n.slot = false ∧ (∀ (k : KeySlot), s.host.keys.get
      n.slot = some k → hmac256 k.key (challengeMsg (↑f) n) ≠ answerBytes s ↑f) ∧ 7 ≤ failCount s n.slot) ∧
    (∃ (s : State) (u : State) (f : FuncId) (v : Word) (n : Nonce) (k : KeySlot) (x : ℕ), Reaches s f (regAt slotHost 64) ∧ bit
      v 31 = false ∧ (u = (s.fromHost.setBank_ (↑f) 64 (v &&& 466688)).mapHost fun (h : HostPort) => { h with nonces := h.nonces.del ↑f })
      ∧ s.host.nonces.get ↑f = some n ∧ s.ac < n.at_ + 50000000 ∧ slotLocked s n.slot = false ∧ s.host.keys.get n.slot = some k
      ∧ hmac256 k.key (challengeMsg (↑f) n) = answerBytes s ↑f ∧ freeSession s = some x) ∧
    (∃ (s : State) (u : State) (f : FuncId) (v : Word) (n : Nonce) (k : KeySlot), Reaches s f (regAt slotHost 64) ∧ bit v 31 =
      false ∧ (u = (s.fromHost.setBank_ (↑f) 64 (v &&& 466688)).mapHost fun (h : HostPort) => { h with nonces := h.nonces.del ↑f })
      ∧ s.host.nonces.get ↑f = some n ∧ s.ac < n.at_ + 50000000 ∧ slotLocked s n.slot = false ∧ s.host.keys.get n.slot = some k
      ∧ hmac256 k.key (challengeMsg (↑f) n) = answerBytes s ↑f ∧ freeSession s = none) :=
  ⟨⟨sC, uC sC vA, 0, vA, reaches (by decide +kernel), by decide +kernel, rfl, by decide +kernel⟩,
   ⟨sA 50000100, uC (sA 50000100) vA, 0, vA, nn, reaches (by decide +kernel), by decide +kernel, rfl, by decide +kernel⟩,
   ⟨sAl (sA 200) 201 8, uC (sAl (sA 200) 201 8) vA, 0, vA, nn, reaches (by decide +kernel), by decide +kernel, rfl,
     by decide +kernel⟩,
   ⟨sAl (sA 200) 0 6, uC (sAl (sA 200) 0 6) vA, 0, vA, nn, reaches (by decide +kernel), by decide +kernel, rfl,
     by decide +kernel⟩,
   ⟨sAl (sA 200) 0 7, uC (sAl (sA 200) 0 7) vA, 0, vA, nn, reaches (by decide +kernel), by decide +kernel, rfl,
     by decide +kernel⟩,
   ⟨sG, uC sG vA, 0, vA, nn, ky, 1, reaches (by decide +kernel), by decide +kernel, rfl, by decide +kernel⟩,
   ⟨sF, uC sF vA, 0, vA, nn, ky, reaches (by decide +kernel), by decide +kernel, rfl, by decide +kernel⟩⟩

theorem test_SessionsOpenAndClose_5_met :
    (∃ (s : State) (k : Fin 32), s.host.locks.get ↑k = none) ∧
    (∃ (s : State) (k : Fin 32) (e : ℕ), s.host.locks.get ↑k = some e ∧ s.ac < e) ∧
    (∃ (s : State) (k : Fin 32) (e : ℕ), s.host.locks.get ↑k = some e ∧ e ≤ s.ac) :=
  ⟨⟨sM, 2, by decide +kernel⟩,
   ⟨sAl (sA 200) 201 8, 2, 201, by decide +kernel⟩,
   ⟨sAl (sA 200) 200 8, 2, 200, by decide +kernel⟩⟩

theorem test_SessionsOpenAndClose_6_met :
    (∃ (s : State) (u : State) (f : FuncId) (v : Word), Reaches s f (regAt slotHost 128) ∧ u = s.fromHost.setBank_ (↑f) 128 (v
      &&& 67043583) ∧ bit v 30 = false ∧ bit v 29 = false ∧ openSession s (bits v 7 0) = none) ∧
    (∃ (s : State) (u : State) (f : FuncId) (v : Word) (x : Session), Reaches s f (regAt slotHost 128) ∧ u = s.fromHost.setBank_
      (↑f) 128 (v &&& 67043583) ∧ bit v 30 = false ∧ bit v 29 = false ∧ openSession s (bits v 7 0) = some x ∧ (x.func = ↑f ∨
      isMgmt s f = true)) ∧
    (∃ (s : State) (u : State) (f : FuncId) (v : Word) (x : Session), Reaches s f (regAt slotHost 128) ∧ u = s.fromHost.setBank_
      (↑f) 128 (v &&& 67043583) ∧ bit v 30 = false ∧ bit v 29 = false ∧ openSession s (bits v 7 0) = some x ∧ x.func ≠ ↑f ∧
      isMgmt s f = false) ∧
    (∃ (s : State) (u : State) (f : FuncId) (v : Word) (x : Session), Reaches s f (regAt slotHost 128) ∧ u = s.fromHost.setBank_
      (↑f) 128 (v &&& 67043583) ∧ bit v 31 = false ∧ bit v 29 = false ∧ openSession s (bits v 7 0) = some x ∧ x.func ≠ ↑f) ∧
    (∃ (s : State) (u : State) (f : FuncId) (v : Word) (x : Session), Reaches s f (regAt slotHost 128) ∧ u = s.fromHost.setBank_
      (↑f) 128 (v &&& 67043583) ∧ bit v 31 = false ∧ bit v 29 = false ∧ openSession s (bits v 7 0) = some x ∧ x.func = ↑f ∧
      inQueueRange s (↑f) (bits v 25 16) = false) ∧
    (∃ (s : State) (u : State) (f : FuncId) (v : Word) (x : Session), Reaches s f (regAt slotHost 128) ∧ u = s.fromHost.setBank_
      (↑f) 128 (v &&& 67043583) ∧ bit v 31 = false ∧ bit v 29 = false ∧ openSession s (bits v 7 0) = some x ∧ x.func = ↑f ∧
      inQueueRange s (↑f) (bits v 25 16) = true ∧ (s.queue (bits v 25 16)).sess ≠ none) ∧
    (∃ (s : State) (u : State) (f : FuncId) (v : Word) (x : Session), Reaches s f (regAt slotHost 128) ∧ u = s.fromHost.setBank_
      (↑f) 128 (v &&& 67043583) ∧ bit v 31 = false ∧ bit v 29 = false ∧ openSession s (bits v 7 0) = some x ∧ x.func = ↑f ∧
      inQueueRange s (↑f) (bits v 25 16) = true ∧ (s.queue (bits v 25 16)).sess = none) ∧
    (∃ (s : State) (u : State) (f : FuncId) (v : Word), Reaches s f (regAt slotHost 128) ∧ u = s.fromHost.setBank_ (↑f) 128 (v
      &&& 67043583) ∧ bit v 31 = false ∧ bit v 29 = false ∧ openSession s (bits v 7 0) = none) ∧
    (∃ (s : State) (u : State) (f : FuncId) (v : Word), Reaches s f (regAt slotHost 128) ∧ u = s.fromHost.setBank_ (↑f) 128 (v
      &&& 67043583) ∧ bit v 31 = false ∧ bit v 30 = false ∧ inQueueRange s (↑f) (bits v 25 16) = false) ∧
    (∃ (s : State) (u : State) (f : FuncId) (v : Word) (n : ℕ) (x : Session), Reaches s f (regAt slotHost 128) ∧ u =
      s.fromHost.setBank_ (↑f) 128 (v &&& 67043583) ∧ bit v 31 = false ∧ bit v 30 = false ∧ inQueueRange s (↑f) (bits v 25 16) =
      true ∧ (s.queue (bits v 25 16)).sess = some n ∧ openSession s n = some x ∧ x.func = ↑f ∧ ((s.queue (bits v 25 16)).enable
      = true ∨ (s.queue (bits v 25 16)).draining = true ∨ 0 < (s.queue (bits v 25 16)).inflight ∨ (s.queue (bits v 25
      16)).staged ≠ [])) ∧
    (∃ (s : State) (u : State) (f : FuncId) (v : Word) (n : ℕ) (x : Session), Reaches s f (regAt slotHost 128) ∧ u =
      s.fromHost.setBank_ (↑f) 128 (v &&& 67043583) ∧ bit v 31 = false ∧ bit v 30 = false ∧ inQueueRange s (↑f) (bits v 25 16) =
      true ∧ (s.queue (bits v 25 16)).sess = some n ∧ openSession s n = some x ∧ x.func = ↑f ∧ (s.queue (bits v 25 16)).enable =
      false ∧ (s.queue (bits v 25 16)).draining = false ∧ (s.queue (bits v 25 16)).inflight = 0 ∧ (s.queue (bits v 25
      16)).staged = []) :=
  ⟨⟨sX, uX sX 0x80000007, 0, 0x80000007, reaches (by decide +kernel), rfl, by decide +kernel⟩,
   ⟨sX, uX sX 0x80000001, 0, 0x80000001, ⟨3,7,0,0,false⟩, reaches (by decide +kernel), rfl, by decide +kernel⟩,
   ⟨sX, uX sX 0x80000000 3, 3, 0x80000000, ⟨0,7,0,0,false⟩, reaches (by decide +kernel), rfl, by decide +kernel⟩,
   ⟨sX, uX sX 0x40000001, 0, 0x40000001, ⟨3,7,0,0,false⟩, reaches (by decide +kernel), rfl, by decide +kernel⟩,
   ⟨sX, uX sX 0x40200000, 0, 0x40200000, ⟨0,7,0,0,false⟩, reaches (by decide +kernel), rfl, by decide +kernel⟩,
   ⟨sX, uX sX 0x40030000, 0, 0x40030000, ⟨0,7,0,0,false⟩, reaches (by decide +kernel), rfl, by decide +kernel⟩,
   ⟨sX, uX sX 0x40040000, 0, 0x40040000, ⟨0,7,0,0,false⟩, reaches (by decide +kernel), rfl, by decide +kernel⟩,
   ⟨sX, uX sX 0x40040009, 0, 0x40040009, reaches (by decide +kernel), rfl, by decide +kernel⟩,
   ⟨sX, uX sX 0x20200000, 0, 0x20200000, reaches (by decide +kernel), rfl, by decide +kernel⟩,
   ⟨sXe, uX sXe 0x20030000, 0, 0x20030000, 0, ⟨0,7,0,0,false⟩, reaches (by decide +kernel), rfl, by decide +kernel⟩,
   ⟨sX, uX sX 0x20030000, 0, 0x20030000, 0, ⟨0,7,0,0,false⟩, reaches (by decide +kernel), rfl, by decide +kernel⟩⟩

theorem test_SessionsOpenAndClose_7_met :
    ∃ (s : State) (n : ℕ) (x : Session), openSession s n = some x ∧ (∀ i ∈ s.drover.insts, i.sess ≠ n) :=
  ⟨sCl, 0, ⟨0,7,0,0,false⟩, by decide +kernel⟩

theorem test_SessionsOpenAndClose_8_met :
    (∃ (s : State) (n : Fin 256) (x : Session), s.host.sessions.get ↑n = some x ∧ x.closing = true ∧ (∀ i ∈ s.drover.insts,
      i.sess ≠ ↑n)) ∧
    (∃ (s : State) (n : Fin 256), (∀ (x : Session), s.host.sessions.get ↑n = some x → x.closing = false ∨ ∃ i ∈ s.drover.insts,
      i.sess = ↑n)) :=
  ⟨⟨sFr, 0, ⟨0,7,0,0,true⟩, by decide +kernel⟩,
   ⟨sX, 0, by decide +kernel⟩⟩

theorem test_QueuesAndRecords_1_met :
    (∃ (s : State) (u : State) (f : FuncId) (q : QueueId) (v : Word), Reaches s f (regAt (slotQueue ↑q) 96) ∧ u = s.fromHost ∧
      sqSize u ↑q ≤ BitVec.toNat v) ∧
    (∃ (s : State) (u : State) (f : FuncId) (q : QueueId) (v : Word), Reaches s f (regAt (slotQueue ↑q) 96) ∧ u = s.fromHost ∧
      BitVec.toNat v < sqSize u ↑q ∧ (s.queue ↑q).enable = false) ∧
    (∃ (s : State) (u : State) (f : FuncId) (q : QueueId) (v : Word), Reaches s f (regAt (slotQueue ↑q) 96) ∧ u = s.fromHost ∧
      BitVec.toNat v < sqSize u ↑q ∧ (s.queue ↑q).enable = true) :=
  ⟨⟨sXe, sXe.fromHost, 0, 3, 16, reaches (by decide +kernel), rfl, by decide +kernel⟩,
   ⟨sX, sX.fromHost, 0, 3, 15, reaches (by decide +kernel), rfl, by decide +kernel⟩,
   ⟨sXe, sXe.fromHost, 0, 3, 15, reaches (by decide +kernel), rfl, by decide +kernel⟩⟩

theorem test_QueuesAndRecords_2_met :
    (∃ (s : State) (q : QueueId) (n : ℕ), (s.queue ↑q).sess = some n ∧ (hostUp s = false ∨ fetchable s ↑q = false ∨ bellFirst s
      ↑q = false)) ∧
    (∃ (s : State) (q : QueueId) (n : ℕ), (s.queue ↑q).sess = some n ∧ hostUp s = true ∧ fetchable s ↑q = true ∧ bellFirst s ↑q
      = true) :=
  ⟨⟨sXe, 3, 0, by decide +kernel⟩,
   ⟨sBell, 3, 0, by decide +kernel⟩⟩

theorem test_QueuesAndRecords_3_met :
    ∃ (s : State) (q : QueueId), (s.queue ↑q).sess = none :=
  ⟨sM, 3, by decide +kernel⟩

theorem test_QueuesAndRecords_4_met :
    (∃ (u : State) (c : Cmd), 1 ≤ c.op ∧ c.op ≤ 4 ∧ u.power.failed = false) ∧
    (∃ (u : State) (c : Cmd), 1 ≤ c.op ∧ c.op ≤ 4 ∧ u.power.failed = true) ∧
    (∃ (c : Cmd), 129 ≤ c.op ∧ c.op ≤ 131) ∧
    (∃ (c : Cmd), (c.op = 132 ∨ c.op = 133)) ∧
    (∃ (c : Cmd), (c.op = 0 ∨ 4 < c.op ∧ c.op < 129 ∨ 133 < c.op)) :=
  ⟨⟨sM, c 4, by decide +kernel⟩,
   ⟨sM.mapPower (fun p => {p with failed := true}), c 1, by decide +kernel⟩,
   ⟨c 0x83, by decide +kernel⟩,
   ⟨c 0x85, by decide +kernel⟩,
   ⟨c 0x86, by decide +kernel⟩⟩

theorem test_QueuesAndRecords_5_met :
    (∃ (s : State) (u : State) (f : FuncId) (q : QueueId) (v : Word), Reaches s f (regAt (slotQueue ↑q) 68) ∧ u = s.fromHost ∧
      bit v 31 = true ∧ (s.queue ↑q).enable = false ∧ (s.queue ↑q).draining = false) ∧
    (∃ (s : State) (u : State) (f : FuncId) (q : QueueId) (v : Word), Reaches s f (regAt (slotQueue ↑q) 68) ∧ u = s.fromHost ∧
      bit v 31 = true ∧ (s.queue ↑q).draining = true) ∧
    (∃ (s : State) (u : State) (f : FuncId) (q : QueueId) (v : Word), Reaches s f (regAt (slotQueue ↑q) 68) ∧ u = s.fromHost ∧
      bit v 31 = false ∧ (s.queue ↑q).enable = true) ∧
    (∃ (s : State) (u : State) (f : FuncId) (q : QueueId) (v : Word), Reaches s f (regAt (slotQueue ↑q) 68) ∧ u = s.fromHost ∧
      bit v 31 = false ∧ (s.queue ↑q).enable = false ∧ (s.queue ↑q).draining = false) :=
  ⟨⟨sX, sX.fromHost, 0, 3, 0x80001103, reaches (by decide +kernel), rfl, by decide +kernel⟩,
   ⟨sDr, sDr.fromHost, 0, 3, 0x80001103, reaches (by decide +kernel), rfl, by decide +kernel⟩,
   ⟨sXe, sXe.fromHost, 0, 3, 0x00001103, reaches (by decide +kernel), rfl, by decide +kernel⟩,
   ⟨sX, sX.fromHost, 0, 3, 0x00001103, reaches (by decide +kernel), rfl, by decide +kernel⟩⟩

theorem test_QueuesAndRecords_7_met :
    (∃ (s : State) (q : QueueId) (k : ℕ) (tail : ℕ), k = min (s.queue ↑q).staged.length (cqFree s ↑q) ∧ tail = BitVec.toNat
      (s.reg (slotQueue ↑q) 108) ∧ tail < cqSize s ↑q ∧ (hostUp s = false ∨ (s.queue ↑q).sess = none ∨ k = 0)) ∧
    (∃ (s : State) (q : QueueId) (k : ℕ) (tail : ℕ), k = min (s.queue ↑q).staged.length (cqFree s ↑q) ∧ tail = BitVec.toNat
      (s.reg (slotQueue ↑q) 108) ∧ tail < cqSize s ↑q ∧ hostUp s = true ∧ (s.queue ↑q).sess ≠ none ∧ 0 < k) :=
  ⟨⟨sX, 3, 0, 0, by decide +kernel⟩,
   ⟨sSt1, 3, min 2 (cqFree sSt1 3), 15, by decide +kernel⟩⟩

theorem test_KeySlotsKeepTheirRules_3_met :
    ∃ (s : State) (n : ℕ) (p : Session → Bool) (x : Session), s.host.sessions.get n = some x ∧ p x = true :=
  ⟨sE, 5, (fun x => x.slot == 2), ⟨0,1,2,3,false⟩, by decide +kernel⟩

theorem test_SessionsOpenAndClose_3_met :
    (∃ (s : State) (x : ℕ), freeSession s = some x) ∧
    (∃ (s : State) (x : ℕ), freeSession s = some x) ∧
    (∃ (s : State) (x : ℕ), freeSession s = some x) :=
  ⟨⟨sG, 1, by decide +kernel⟩,
   ⟨sG, 1, by decide +kernel⟩,
   ⟨sG, 1, by decide +kernel⟩⟩

theorem test_SessionsOpenAndClose_4_met :
    (∃ (s : State) (f : FuncId), s.host.nonces.get ↑f = none) ∧
    (∃ (s : State) (f : FuncId) (n : Nonce), s.host.nonces.get ↑f = some n ∧ n.at_ + 50000000 ≤ s.ac) ∧
    (∃ (s : State) (f : FuncId) (n : Nonce), s.host.nonces.get ↑f = some n ∧ s.ac < n.at_ + 50000000) :=
  ⟨⟨sM, 0, by decide +kernel⟩,
   ⟨sA 50000100, 0, nn, by decide +kernel⟩,
   ⟨sA 50000099, 0, nn, by decide +kernel⟩⟩

theorem test_QueuesAndRecords_6_met :
    (∃ (s : State) (q : QueueId), (s.queue ↑q).draining = true ∧ outstanding s ↑q = false) ∧
    (∃ (s : State) (q : QueueId), ((s.queue ↑q).draining = false ∨ outstanding s ↑q = true)) :=
  ⟨⟨sDr, 3, by decide +kernel⟩,
   ⟨sX, 3, by decide +kernel⟩⟩

theorem test_SessionsOpenAndClose_6_4_met :
    ∃ (s : State) (u : State) (f : FuncId) (v : Word), Reaches s f (regAt slotHost 0x080) ∧
      u = s.fromHost.setBank_ f.val 0x080 (v &&& 0x03FF00FF) ∧ bit v 31 = false ∧ bit v 30 = false ∧
      inQueueRange s f.val (bits v 25 16) = true ∧
      (∀ n x, (s.queue (bits v 25 16)).sess = some n → openSession s n = some x → x.func ≠ f.val) :=
  ⟨sX, uX sX 0x20040000, 0, 0x20040000, reaches (by decide +kernel), rfl, by decide +kernel,
    by decide +kernel, by decide +kernel, by
      intro n x h
      have e : (sX.queue (bits (0x20040000 : Word) 25 16)).sess = none := by decide +kernel
      exact absurd (e.symm.trans h) (by intro h; cases h)⟩

end Sys2Proof.Tests.Sessions

namespace Sys2Proof.Tests.Contexts
open Sys2Proof Sys2Proof.Machine Sys2Proof.Tests

def mis (v : Verdict) : Word := match v with | .mismatch x => x | _ => 0
def sM : State := stMgmt
def ky : KeySlot := ⟨List.replicate 32 5, 1, 1, 0xFF⟩
def sC (ks : Tbl KeySlot := [(2,ky)]) : State := sM.mapHost (fun h => {h with keys := ks})
def uC (s : State) (v : Word) (f : Nat := 0): State := (s.fromHost.setBank_ f 0x040 (v &&& 0x00071F00)).mapHost (fun h => { h with nonces := Tbl.del h.nonces f })
def vA : Word := 0x40000000
def nn : Nonce := ⟨[1,2,3,4], 2, 1, 100⟩
def sA (ac : Nat) : State := {sC.mapHost (fun h => {h with nonces := [(0,nn)]}) with now := ac * 40}
def sAl (s : State) (e : Nat) (n : Nat) : State := s.mapHost (fun h => {h with locks := (if e = 0 then [] else [(2,e)]), fails := [(2,n)]})
def w2 : State := ((sessStatus (((uC (sAl (sA 200) 0 7) vA).mapHost (fun h => { h with fails := Tbl.set h.fails 2 8, locks := Tbl.del h.locks 2 })).pulse slotHost 1) 0 4 0).mapHost (fun h => { h with locks := Tbl.set h.locks 2 (200 + 3000000000) })).pulse slotHost 0
def sX : State := ({stQueue with host := {stQueue.host with sessions := [(0, ⟨0,7,0,0,false⟩), (1,⟨3,7,0,0,false⟩)], vfs := 8}}).setReg slotHost 0x200 0x00100000 |>.setReg slotHost 0x20C 0x00100000
def c (op : Nat) : Cmd := ⟨3,0,fld op 24,0,0,0,0,false⟩
def rc : ORec := ⟨1,0,7,0,0,0,none,0⟩
def sSt : State := (sX.setReg (slotQueue 3) 0x06C 15).setQueue 3 {HQueue.idle with sess := some 0, enable := true, staged := [rc, rc]}
def sSt1 : State := sSt.setReg (slotQueue 3) 0x068 13
def cc (op : Nat) (w2 w3 : Word) (w1 : Word := 0x00070009) : Cmd := ⟨3,0,fld op 24,w1,w2,w3,0,false⟩
def sQc (cs : List Cmd) : State := ((sX.mapDrover (fun d => {d with cmds := cs})).mapHost (fun h => {h with sessions := [(0, ⟨0,7,0,4,false⟩)]})).setQueue 3 {HQueue.idle with sess := some 0, inflight := 1}
def t1 (c : Cmd) : State := sQc [c]
def noP (s : State) : State := s.mapHost (fun h => {h with sessions := [(0, ⟨0,6,0,4,false⟩)]})
def op9 (s : State) (st : CtxSt) (ten : Nat := 4): State := setCtx s 9 ⟨st, ten, 0, 0, 3, 0, 7⟩
def ins (s : State) : State := s.mapDrover (fun d => {d with insts := [⟨1, 1, 5, 9, 0, 3, 9, 10000, 0, [], false⟩]})
def sFre : State := op9 (sQc []) .releasing
def xc (op : Nat) (blk n : Nat) : Cmd := ⟨3,0,fld op 24 ||| w32 blk, fld 7 16 ||| w32 n, 0x100000, 0, 0, false⟩
def hc (cs : List Cmd) (x : Option Xfer) (n : Nat := 400): State := {(sQc []).mapHost (fun h => {h with cmds := cs, xfer := x}) with now := n}
def x1 (op : Nat) (mv : Nat := 0): Xfer := ⟨xc op 0x100000 2, mv, none, 400, false⟩
def st (op : Nat) (n : Nat := 400) (mv : Nat := 0) : State := hc [] (some (x1 op mv)) n
def aX : Nat := 0x100000*512
def stM : State := (st 0x85).mapMem (fun m => {m with checks := [(aX/512, 5)]})
def stP : State := (st 0x85).mapMem (fun m => {m with poison := [aX/8 + 3]})
def stD (op : Nat) : State := (List.range 16).foldl (fun s d => s.setDom d {s.dom d with st := .doze}) (st op)
def dD (op : Nat) : Nat := match hostEntry (stD op) aX 512 400 with | .wake d => d | _ => 99
def stW (op : Nat) : State := {st op with slots := [portOf aX]}
def stH (op : Nat) : State := {st op with resets := {(st op).resets with crit := [.module]}}
def uI (v : Word) : State := sX.fromHost.setReg slotHost 0x110 (v &&& 0x30003FFF)
def sB : State := {sX with now := 400}
def sDo : State := sB.setDom 25 {sB.dom 25 with st := .off}
def wB (s : State) (f : FuncId) (a n : Nat) (d : Option (List Byte)) (e : Bool) : Bar2 := ⟨f, a, n, d, false, e, s.now, 0, []⟩
def sBq : State := sB.mapHost (fun h => {h with bar2 := [⟨0, aX, 4, none, false, false, 0, 0, []⟩]})
def sTm : State := sB.mapMem (fun m => m.put 0x16000000 [1,2,3,4])
def sTn : State := sTm.setDom 26 {sTm.dom 26 with st := .doze}
def sBs : State := {sB with slots := [portOf aX]}
def sBd : State := sB.mapMem (fun m => m.put aX [1,2,3,4])
def sBm : State := sB.mapMem (fun m => {m with checks := [(aX/512, 5)]})
def sBp : State := sB.mapMem (fun m => {m with poison := [aX/8]})

theorem test_QueuesAndRecords_7_met :
    ∃ (s : State) (q : QueueId) (k : ℕ) (tail : ℕ), k = min (s.queue ↑q).staged.length (cqFree s ↑q) ∧ tail = BitVec.toNat
      (s.reg (slotQueue ↑q) 108) ∧ tail < cqSize s ↑q ∧ hostUp s = true ∧ (s.queue ↑q).sess ≠ none ∧ 0 < k :=
  ⟨sSt1, 3, 2, 15, by decide +kernel⟩

theorem test_ContextsAndTransfers_2_met :
    (∃ (s : State) (n : Fin 16384), ((ctxAt s ↑n).st ≠ CtxSt.releasing ∨ ∃ i ∈ s.drover.insts, i.ctx = ↑n)) ∧
    (∃ (s : State) (n : Fin 16384), (ctxAt s ↑n).st = CtxSt.releasing ∧ (∀ i ∈ s.drover.insts, i.ctx ≠ ↑n)) :=
  ⟨⟨(op9 sX .opened), 9, by decide +kernel⟩,
   ⟨sFre, 9, by decide +kernel⟩⟩

theorem test_ContextsAndTransfers_3_met :
    (∃ (s : State) (c : Cmd) (rest : List Cmd) (r : ℕ), s.host.xfer = none ∧ s.host.cmds = c :: rest ∧ xferReason s c = some r ∧
      c.op = 132) ∧
    (∃ (s : State) (c : Cmd) (rest : List Cmd) (r : ℕ), s.host.xfer = none ∧ s.host.cmds = c :: rest ∧ xferReason s c = some r ∧
      c.op = 133) :=
  ⟨⟨hc [xc 0x84 0x100000 0] none, xc 0x84 0x100000 0, [], 1, by decide +kernel⟩,
   ⟨hc [xc 0x85 0x100000 0] none, xc 0x85 0x100000 0, [], 1, by decide +kernel⟩⟩

theorem test_ContextsAndTransfers_4_met :
    (∃ (s : State) (x : Xfer) (a : ℕ), s.host.xfer = some x ∧ x.fault = none ∧ x.moved < xferBlocks x.cmd ∧ a = xferDie x.cmd +
      512 * x.moved ∧ x.since / 40 + 50000 ≤ s.ac ∧ x.cmd.op = 132) ∧
    (∃ (s : State) (x : Xfer) (a : ℕ), s.host.xfer = some x ∧ x.fault = none ∧ x.moved < xferBlocks x.cmd ∧ a = xferDie x.cmd +
      512 * x.moved ∧ x.since / 40 + 50000 ≤ s.ac ∧ x.cmd.op = 133) ∧
    (∃ (s : State) (x : Xfer) (a : ℕ), s.host.xfer = some x ∧ x.fault = none ∧ x.moved < xferBlocks x.cmd ∧ a = xferDie x.cmd +
      512 * x.moved ∧ s.ac < x.since / 40 + 50000 ∧ x.cmd.op = 132 ∧ hostEntry s a 512 x.since = Entry.go) ∧
    (∃ (s : State) (x : Xfer) (a : ℕ), s.host.xfer = some x ∧ x.fault = none ∧ x.moved < xferBlocks x.cmd ∧ a = xferDie x.cmd +
      512 * x.moved ∧ s.ac < x.since / 40 + 50000 ∧ x.cmd.op = 133 ∧ hostEntry s a 512 x.since = Entry.go ∧ s.mem.verify (a /
      512) = Verdict.good) ∧
    (∃ (s : State) (x : Xfer) (a : ℕ) (m : Word), s.host.xfer = some x ∧ x.fault = none ∧ x.moved < xferBlocks x.cmd ∧ a =
      xferDie x.cmd + 512 * x.moved ∧ s.ac < x.since / 40 + 50000 ∧ x.cmd.op = 133 ∧ hostEntry s a 512 x.since = Entry.go ∧
      (s.mem.verify (a / 512) = Verdict.mismatch m)) ∧
    (∃ (s : State) (x : Xfer) (a : ℕ) (w : ℕ), s.host.xfer = some x ∧ x.fault = none ∧ x.moved < xferBlocks x.cmd ∧ a = xferDie
      x.cmd + 512 * x.moved ∧ s.ac < x.since / 40 + 50000 ∧ x.cmd.op = 133 ∧ hostEntry s a 512 x.since = Entry.go ∧ s.mem.verify
      (a / 512) = Verdict.poisoned w) ∧
    (∃ (s : State) (x : Xfer) (a : ℕ) (d : ℕ), s.host.xfer = some x ∧ x.fault = none ∧ x.moved < xferBlocks x.cmd ∧ a = xferDie
      x.cmd + 512 * x.moved ∧ s.ac < x.since / 40 + 50000 ∧ hostEntry s a 512 x.since = Entry.wake d ∧ x.cmd.op = 132) ∧
    (∃ (s : State) (x : Xfer) (a : ℕ) (d : ℕ), s.host.xfer = some x ∧ x.fault = none ∧ x.moved < xferBlocks x.cmd ∧ a = xferDie
      x.cmd + 512 * x.moved ∧ s.ac < x.since / 40 + 50000 ∧ hostEntry s a 512 x.since = Entry.wake d ∧ x.cmd.op = 133) ∧
    (∃ (s : State) (x : Xfer) (a : ℕ), s.host.xfer = some x ∧ x.fault = none ∧ x.moved < xferBlocks x.cmd ∧ a = xferDie x.cmd +
      512 * x.moved ∧ s.ac < x.since / 40 + 50000 ∧ hostEntry s a 512 x.since = Entry.wait ∧ x.cmd.op = 132) ∧
    (∃ (s : State) (x : Xfer) (a : ℕ), s.host.xfer = some x ∧ x.fault = none ∧ x.moved < xferBlocks x.cmd ∧ a = xferDie x.cmd +
      512 * x.moved ∧ s.ac < x.since / 40 + 50000 ∧ hostEntry s a 512 x.since = Entry.wait ∧ x.cmd.op = 133) ∧
    (∃ (s : State) (x : Xfer) (a : ℕ) (n : ℕ), s.host.xfer = some x ∧ x.fault = none ∧ x.moved < xferBlocks x.cmd ∧ a = xferDie
      x.cmd + 512 * x.moved ∧ s.ac < x.since / 40 + 50000 ∧ hostEntry s a 512 x.since = Entry.answer n ∧ x.cmd.op = 132) ∧
    (∃ (s : State) (x : Xfer) (a : ℕ) (n : ℕ), s.host.xfer = some x ∧ x.fault = none ∧ x.moved < xferBlocks x.cmd ∧ a = xferDie
      x.cmd + 512 * x.moved ∧ s.ac < x.since / 40 + 50000 ∧ hostEntry s a 512 x.since = Entry.answer n ∧ x.cmd.op = 133) ∧
    (∃ (s : State) (x : Xfer) (a : ℕ), s.host.xfer = some x ∧ x.fault = none ∧ x.moved < xferBlocks x.cmd ∧ a = xferDie x.cmd +
      512 * x.moved) :=
  ⟨⟨st 0x84 2000400, x1 0x84, aX, by decide +kernel⟩,
   ⟨st 0x85 2000400, x1 0x85, aX, by decide +kernel⟩,
   ⟨st 0x84 2000399, x1 0x84, aX, by decide +kernel⟩,
   ⟨st 0x85 2000399, x1 0x85, aX, by decide +kernel⟩,
   ⟨stM, x1 0x85, aX, (mis (stM.mem.verify (aX/512))), by decide +kernel⟩,
   ⟨stP, x1 0x85, aX, 3, by decide +kernel⟩,
   ⟨stD 0x84, x1 0x84, aX, dD 0x84, by decide +kernel⟩,
   ⟨stD 0x85, x1 0x85, aX, dD 0x85, by decide +kernel⟩,
   ⟨stW 0x84, x1 0x84, aX, by decide +kernel⟩,
   ⟨stW 0x85, x1 0x85, aX, by decide +kernel⟩,
   ⟨stH 0x84, x1 0x84, aX, 5, by decide +kernel⟩,
   ⟨stH 0x85, x1 0x85, aX, 5, by decide +kernel⟩,
   ⟨st 0x85, x1 0x85, aX, by decide +kernel⟩⟩

theorem test_ContextsAndTransfers_5_met :
    (∃ (s : State) (x : Xfer) (c : ℕ), s.host.xfer = some x ∧ x.fault = some c) ∧
    (∃ (s : State) (x : Xfer), s.host.xfer = some x ∧ x.fault = none ∧ xferBlocks x.cmd ≤ x.moved) :=
  ⟨⟨hc [] (some {x1 0x85 with fault := some 3}), {x1 0x85 with fault := some 3}, 3, by decide +kernel⟩,
   ⟨st 0x85 400 2, x1 0x85 2, by decide +kernel⟩⟩

theorem test_ContextsAndTransfers_6_met :
    ∃ (s : State), s.host.xfer = none :=
  ⟨sX, by decide +kernel⟩

theorem test_ContextsAndTransfers_7_met :
    ∃ (s : State) (u : State) (f : FuncId) (v : Word), Reaches s f (regAt slotHost 272) ∧ u = s.fromHost.setReg slotHost 272 (v
      &&& 805322751) :=
  ⟨sX, uI 0x80000000, 0, 0x80000000, reaches (by decide +kernel), rfl⟩

theorem test_Bar2AndPortEvents_1_met :
    ∃ (s : State) (f : FuncId), answers s f = false :=
  ⟨sDo, 0, by decide +kernel⟩

theorem test_Bar2AndPortEvents_2_met :
    (∃ (s : State) (u : State) (f : FuncId) (a : ℕ) (n : ℕ) (p : ℕ) (k : ℕ) (w : Bar2), answers s f = true ∧ u = s.fromHost ∧
      (p, k) = blockPart a n 0 ∧ w = { func := f, addr := a, len := n, data := none, bar0 := false, ep := false, since := s.now, done := 0, got := [] }
      ∧ (rangeOk a n true = false ∨ isMgmt u f = false ∧ windowHolds u (↑f) a n false = false)) ∧
    (∃ (s : State) (u : State) (f : FuncId) (a : ℕ) (n : ℕ) (p : ℕ) (k : ℕ) (w : Bar2), answers s f = true ∧ u = s.fromHost ∧
      (p, k) = blockPart a n 0 ∧ w = { func := f, addr := a, len := n, data := none, bar0 := false, ep := false, since := s.now, done := 0, got := [] }
      ∧ rangeOk a n true = true ∧ (isMgmt u f = true ∨ windowHolds u (↑f) a n false = true) ∧ (∃ b ∈ s.host.bar2, b.func = f)) ∧
    (∃ (s : State) (u : State) (f : FuncId) (a : ℕ) (n : ℕ) (p : ℕ) (k : ℕ) (w : Bar2), answers s f = true ∧ u = s.fromHost ∧
      (p, k) = blockPart a n 0 ∧ w = { func := f, addr := a, len := n, data := none, bar0 := false, ep := false, since := s.now, done := 0, got := [] }
      ∧ rangeOk a n true = true ∧ (isMgmt u f = true ∨ windowHolds u (↑f) a n false = true) ∧ (∀ b ∈ s.host.bar2, b.func ≠ f) ∧
      region a = Region.taskMem ∧ netRuns u = false) ∧
    (∃ (s : State) (u : State) (f : FuncId) (a : ℕ) (n : ℕ) (p : ℕ) (k : ℕ) (w : Bar2), answers s f = true ∧ u = s.fromHost ∧
      (p, k) = blockPart a n 0 ∧ w = { func := f, addr := a, len := n, data := none, bar0 := false, ep := false, since := s.now, done := 0, got := [] }
      ∧ rangeOk a n true = true ∧ (isMgmt u f = true ∨ windowHolds u (↑f) a n false = true) ∧ (∀ b ∈ s.host.bar2, b.func ≠ f) ∧
      region a = Region.taskMem ∧ netRuns u = true ∧ (s.mem.verifyRange a n).1 = Verdict.good) ∧
    (∃ (s : State) (u : State) (f : FuncId) (a : ℕ) (n : ℕ) (p : ℕ) (k : ℕ) (w : Bar2), answers s f = true ∧ u = s.fromHost ∧
      (p, k) = blockPart a n 0 ∧ w = { func := f, addr := a, len := n, data := none, bar0 := false, ep := false, since := s.now, done := 0, got := [] }
      ∧ rangeOk a n true = true ∧ (isMgmt u f = true ∨ windowHolds u (↑f) a n false = true) ∧ (∀ b ∈ s.host.bar2, b.func ≠ f) ∧
      region a ≠ Region.taskMem ∧ hostEntry u p k s.now = Entry.wait) ∧
    (∃ (s : State) (u : State) (f : FuncId) (a : ℕ) (n : ℕ) (p : ℕ) (k : ℕ) (w : Bar2), answers s f = true ∧ u = s.fromHost ∧
      (p, k) = blockPart a n 0 ∧ w = { func := f, addr := a, len := n, data := none, bar0 := false, ep := false, since := s.now, done := 0, got := [] }
      ∧ rangeOk a n true = true ∧ (isMgmt u f = true ∨ windowHolds u (↑f) a n false = true) ∧ (∀ b ∈ s.host.bar2, b.func ≠ f) ∧
      region a ≠ Region.taskMem ∧ hostEntry u p k s.now = Entry.go ∧ s.mem.verify (p / 512) = Verdict.good) ∧
    (∃ (s : State) (u : State) (f : FuncId) (a : ℕ) (n : ℕ) (p : ℕ) (k : ℕ) (w : Bar2) (x : Word), answers s f = true ∧ u =
      s.fromHost ∧ (p, k) = blockPart a n 0 ∧ w = { func := f, addr := a, len := n, data := none, bar0 := false, ep := false, since := s.now, done := 0, got := [] }
      ∧ rangeOk a n true = true ∧ (isMgmt u f = true ∨ windowHolds u (↑f) a n false = true) ∧ (∀ b ∈ s.host.bar2, b.func ≠ f) ∧
      region a ≠ Region.taskMem ∧ hostEntry u p k s.now = Entry.go ∧ (s.mem.verify (p / 512) = Verdict.mismatch x)) ∧
    (∃ (s : State) (u : State) (f : FuncId) (a : ℕ) (n : ℕ) (p : ℕ) (k : ℕ) (w : Bar2) (x : ℕ), answers s f = true ∧ u =
      s.fromHost ∧ (p, k) = blockPart a n 0 ∧ w = { func := f, addr := a, len := n, data := none, bar0 := false, ep := false, since := s.now, done := 0, got := [] }
      ∧ rangeOk a n true = true ∧ (isMgmt u f = true ∨ windowHolds u (↑f) a n false = true) ∧ (∀ b ∈ s.host.bar2, b.func ≠ f) ∧
      region a ≠ Region.taskMem ∧ hostEntry u p k s.now = Entry.go ∧ s.mem.verify (p / 512) = Verdict.poisoned x) :=
  ⟨⟨sB, sB.fromHost, 3, aX, 4, aX, 4, wB sB 3 aX 4 none false, by decide +kernel, rfl, by decide +kernel⟩,
   ⟨sBq, sBq.fromHost, 0, aX, 4, aX, 4, wB sBq 0 aX 4 none false, by decide +kernel, rfl, by decide +kernel⟩,
   ⟨sTn, sTn.fromHost, 0, 0x16000000, 4, 0x16000000, 4, wB sTn 0 0x16000000 4 none false, by decide +kernel, rfl,
     by decide +kernel⟩,
   ⟨sTm, sTm.fromHost, 0, 0x16000000, 4, 0x16000000, 4, wB sTm 0 0x16000000 4 none false, by decide +kernel, rfl,
     by decide +kernel⟩,
   ⟨sBs, sBs.fromHost, 0, aX, 4, aX, 4, wB sBs 0 aX 4 none false, by decide +kernel, rfl, by decide +kernel⟩,
   ⟨sBd, sBd.fromHost, 0, aX, 4, aX, 4, wB sBd 0 aX 4 none false, by decide +kernel, rfl, by decide +kernel⟩,
   ⟨sBm, sBm.fromHost, 0, aX, 4, aX, 4, wB sBm 0 aX 4 none false, (mis (sBm.mem.verify (aX/512))), by decide +kernel, rfl,
     by decide +kernel⟩,
   ⟨sBp, sBp.fromHost, 0, aX, 4, aX, 4, wB sBp 0 aX 4 none false, 0, by decide +kernel, rfl, by decide +kernel⟩⟩

theorem test_Bar2AndPortEvents_3_met :
    (∃ (s : State) (u : State) (f : FuncId) (a : ℕ) (p : ℕ) (k : ℕ) (d : List Byte) (e : Bool) (w : Bar2), answers s f = true ∧
      u = s.fromHost ∧ (p, k) = blockPart a d.length 0 ∧ w = { func := f, addr := a, len := d.length, data := some d, bar0 := false, ep := e, since := s.now, done := 0, got := [] }
      ∧ (rangeOk a d.length false = false ∨ isMgmt u f = false ∧ windowHolds u (↑f) a d.length true = false)) ∧
    (∃ (s : State) (u : State) (f : FuncId) (a : ℕ) (p : ℕ) (k : ℕ) (d : List Byte) (e : Bool) (w : Bar2), answers s f = true ∧
      u = s.fromHost ∧ (p, k) = blockPart a d.length 0 ∧ w = { func := f, addr := a, len := d.length, data := some d, bar0 := false, ep := e, since := s.now, done := 0, got := [] }
      ∧ rangeOk a d.length false = true ∧ (isMgmt u f = true ∨ windowHolds u (↑f) a d.length true = true) ∧ (∃ b ∈ s.host.bar2,
      b.func = f)) ∧
    (∃ (s : State) (u : State) (f : FuncId) (a : ℕ) (p : ℕ) (k : ℕ) (d : List Byte) (e : Bool) (w : Bar2), answers s f = true ∧
      u = s.fromHost ∧ (p, k) = blockPart a d.length 0 ∧ w = { func := f, addr := a, len := d.length, data := some d, bar0 := false, ep := e, since := s.now, done := 0, got := [] }
      ∧ rangeOk a d.length false = true ∧ (isMgmt u f = true ∨ windowHolds u (↑f) a d.length true = true) ∧ (∀ b ∈ s.host.bar2,
      b.func ≠ f) ∧ region a ≠ Region.taskMem ∧ hostEntry u p k s.now = Entry.go ∧ s.mem.mergeVerify (p / 512) p k =
      Verdict.good) :=
  ⟨⟨sB, sB.fromHost, 3, aX, aX, 2, [1,2], false, wB sB 3 aX 2 (some [1,2]) false, by decide +kernel, rfl, by decide +kernel⟩,
   ⟨sBq, sBq.fromHost, 0, aX, aX, 2, [1,2], true, wB sBq 0 aX 2 (some [1,2]) true, by decide +kernel, rfl, by decide +kernel⟩,
   ⟨sB, sB.fromHost, 0, aX, aX, 2, [1,2], false, wB sB 0 aX 2 (some [1,2]) false, by decide +kernel, rfl, by decide +kernel⟩⟩

theorem test_Bar2AndPortEvents_4_met :
    ∃ (s : State) (t : State) (f : FuncId) (a : ℕ) (d : List Byte) (e : Bool) (x : ℕ), exec (Instr.bar2Write f a { bytes := d, poisoned := e })
      s = Host.Outcome.next t ∧ (x < a ∨ a + d.length ≤ x) :=
  ⟨sB, nextSt (exec (.bar2Write 0 aX ⟨[1,2], false⟩) sB), 0, aX, [1,2], false, aX+2, rfl, by decide +kernel⟩

theorem test_Bar2AndPortEvents_5_met :
    ∃ (s : State) (t : State) (f : FuncId) (a : ℕ) (n : ℕ), exec (Instr.bar2Read f a n) s = Host.Outcome.next t :=
  ⟨sB, nextSt (exec (.bar2Read 0 aX 2) sB), 0, aX, 2, rfl⟩

theorem test_ContextsAndTransfers_1_met :
    (∃ (s : State) (c : Cmd) (rest : List Cmd), s.drover.cmds = c :: rest ∧ hostCmdBad c = true ∧ c.op = 129) ∧
    (∃ (s : State) (c : Cmd) (rest : List Cmd), s.drover.cmds = c :: rest ∧ hostCmdBad c = true ∧ c.op = 130) ∧
    (∃ (s : State) (c : Cmd) (rest : List Cmd), s.drover.cmds = c :: rest ∧ hostCmdBad c = true ∧ c.op = 131) ∧
    (∃ (s : State) (c : Cmd) (rest : List Cmd), s.drover.cmds = c :: rest ∧ hostCmdBad c = false ∧ (sessPriv s c.sess).getLsbD 0
      = false ∧ c.op = 129) ∧
    (∃ (s : State) (c : Cmd) (rest : List Cmd), s.drover.cmds = c :: rest ∧ hostCmdBad c = false ∧ (sessPriv s c.sess).getLsbD 0
      = false ∧ c.op = 130) ∧
    (∃ (s : State) (c : Cmd) (rest : List Cmd), s.drover.cmds = c :: rest ∧ hostCmdBad c = false ∧ (sessPriv s c.sess).getLsbD 0
      = false ∧ c.op = 131) ∧
    (∃ (s : State) (c : Cmd) (rest : List Cmd), s.drover.cmds = c :: rest ∧ hostCmdBad c = false ∧ (sessPriv s c.sess).getLsbD 0
      = true ∧ c.op = 129 ∧ (ctxAt s c.ctx).st ≠ CtxSt.free) ∧
    (∃ (s : State) (c : Cmd) (rest : List Cmd), s.drover.cmds = c :: rest ∧ hostCmdBad c = false ∧ (sessPriv s c.sess).getLsbD 0
      = true ∧ c.op = 129 ∧ (ctxAt s c.ctx).st = CtxSt.free) ∧
    (∃ (s : State) (c : Cmd) (rest : List Cmd), s.drover.cmds = c :: rest ∧ hostCmdBad c = false ∧ (sessPriv s c.sess).getLsbD 0
      = true ∧ c.op = 130 ∧ ctxOpenFor s c = false) ∧
    (∃ (s : State) (c : Cmd) (rest : List Cmd), s.drover.cmds = c :: rest ∧ hostCmdBad c = false ∧ (sessPriv s c.sess).getLsbD 0
      = true ∧ c.op = 130 ∧ ctxOpenFor s c = true ∧ (∃ i ∈ s.drover.insts, i.ctx = c.ctx)) ∧
    (∃ (s : State) (c : Cmd) (rest : List Cmd), s.drover.cmds = c :: rest ∧ hostCmdBad c = false ∧ (sessPriv s c.sess).getLsbD 0
      = true ∧ c.op = 130 ∧ ctxOpenFor s c = true ∧ (∀ i ∈ s.drover.insts, i.ctx ≠ c.ctx)) ∧
    (∃ (s : State) (c : Cmd) (rest : List Cmd), s.drover.cmds = c :: rest ∧ hostCmdBad c = false ∧ (sessPriv s c.sess).getLsbD 0
      = true ∧ c.op = 131 ∧ ctxOpenFor s c = false) ∧
    (∃ (s : State) (c : Cmd) (rest : List Cmd), s.drover.cmds = c :: rest ∧ hostCmdBad c = false ∧ (sessPriv s c.sess).getLsbD 0
      = true ∧ c.op = 131 ∧ ctxOpenFor s c = true ∧ (∀ i ∈ s.drover.insts, i.ctx ≠ c.ctx)) :=
  ⟨⟨t1 (cc 0x81 0x10 0x2000), cc 0x81 0x10 0x2000, [], by decide +kernel⟩,
   ⟨t1 (cc 0x82 0x10 0x2000), cc 0x82 0x10 0x2000, [], by decide +kernel⟩,
   ⟨t1 (cc 0x83 0x10 0), cc 0x83 0x10 0, [], by decide +kernel⟩,
   ⟨noP (t1 (cc 0x81 0x10 4)), cc 0x81 0x10 4, [], by decide +kernel⟩,
   ⟨noP (t1 (cc 0x82 0x10 4)), cc 0x82 0x10 4, [], by decide +kernel⟩,
   ⟨noP (t1 (cc 0x83 0 0)), cc 0x83 0 0, [], by decide +kernel⟩,
   ⟨op9 (t1 (cc 0x81 0x10 4)) .opened, cc 0x81 0x10 4, [], by decide +kernel⟩,
   ⟨t1 (cc 0x81 0x10 4), cc 0x81 0x10 4, [], by decide +kernel⟩,
   ⟨op9 (t1 (cc 0x82 0x10 4)) .opened 5, cc 0x82 0x10 4, [], by decide +kernel⟩,
   ⟨ins (op9 (t1 (cc 0x82 0x10 4)) .opened), cc 0x82 0x10 4, [], by decide +kernel⟩,
   ⟨op9 (t1 (cc 0x82 0x10 4)) .opened, cc 0x82 0x10 4, [], by decide +kernel⟩,
   ⟨(op9 (t1 (cc 0x83 0 0)) .free), cc 0x83 0 0, [], by decide +kernel⟩,
   ⟨(op9 (t1 (cc 0x83 0 0)) .opened), cc 0x83 0 0, [], by decide +kernel⟩⟩

end Sys2Proof.Tests.Contexts

namespace Sys2Proof.Tests.Powering
open Sys2Proof Sys2Proof.Machine Sys2Proof.Tests

def sM : State := stMgmt
def uD (s : State) (cmd : Nat) (v : Word) : State := (arriving (.func 0) s).setReg slotPwr 0x040 (domWord cmd v &&& 0x000F001F)
def dz (s : State) (d : Nat) (p : PSt) : State := s.setDom d {s.dom d with st := p}
def sPu : State := (sM.setPort 1 {Port.start with st := .up}).setDom 17 {sM.dom 17 with st := .run}
def ent (d : Nat) (g : PSt) (s : State := (stProg 1 [] [1,2] Core.idle)) : State := s.setDom d {s.dom d with target := some g}
def idl (d : Nat) (v : Word) (s : State := sM) : State := {s.setReg slotPwr (0x200 + 4*d) v with now := 400}
def pUp (s : State) : State := (s.setPort 1 {Port.start with st := .up}).setDom 17 {s.dom 17 with st := .run}
def alln (s : State) : State := (List.range 24).foldl (fun s d => dz s d .doze) s
def wrCh : Chan := {armed 2 4 0x100 true with flights := [⟨.queue, 4, 500, true, 0, [], none, 0, true⟩]}
def sFw : State := ent 0 .off (stProg 1 [] [1,2] {Core.idle with chans := [(2, wrCh)]})
def wk (d : Nat) (p : PSt) : State := (stProg 1 [] [1,2] Core.idle) |> fun s => s.setDom d {s.dom d with st := p, waking := true}
def tv (k : Int) (i : Nat) (j : Int := 0): Vector (BitVec 16) 96 := Vector.ofFn (fun n => if n.val = i then BitVec.ofInt 16 (16*k) else BitVec.ofInt 16 (16*j))
def sAo : State := sM.mapPower (fun p => {p with aoOn := false})
def tT (s : State) (x : Vector (BitVec 16) 96) := nextSt (exec (.sensorSample x) s)
def t109 := tT sM (tv 109 7)
def sT : State := stProg 1 [] [1,2] Core.idle
def sUv := nextSt (exec .underVoltage sT)
def sRl := nextSt (exec .referenceLoss sT)

theorem test_PowerDomains_1_met :
    ∃ (s : State) (u : State) (r : Requester) (v : Word) (cmd : ℕ) (d : ℕ), Arrives s r (regAt slotPwr 64) ∧ 1 ≤ cmd ∧ cmd ≤ 7 ∧
      d = bits v 4 0 ∧ u = (arriving r s).setReg slotPwr 64 (domWord cmd v &&& 983071) :=
  ⟨dz sM 3 .doze, uD (dz sM 3 .doze) 1 3, .func 0, 3, 1, 3, arrives (by decide +kernel), by decide +kernel, by decide +kernel,
    by decide +kernel, rfl⟩

theorem test_PowerDomains_2_met :
    (∃ (s : State) (d : ℕ) (g : PSt), (s.dom d).target = none ∧ (s.dom d).st.rank ≤ g.rank ∧ (s.dom d).waking = false) ∧
    (∃ (s : State) (d : ℕ) (g : PSt), (s.dom d).target = none ∧ g.rank < (s.dom d).st.rank ∧ (d < 16 ∨ 22 ≤ d)) ∧
    (∃ (s : State) (d : ℕ) (g : PSt), (s.dom d).target = none ∧ g.rank < (s.dom d).st.rank ∧ g.rank ≤ 1 ∧ 16 ≤ d ∧ d < 22) :=
  ⟨⟨sM, 3, .run, by decide +kernel⟩,
   ⟨sM, 3, .nap, by decide +kernel⟩,
   ⟨sPu, 17, .off, by decide +kernel⟩⟩

theorem test_PowerDomains_4_met :
    ∃ (s : State) (d : ℕ), ((s.dom d).st = PSt.doze ∨ (s.dom d).st = PSt.nap) ∧ (s.dom d).target = none :=
  ⟨dz sM 3 .nap, 3, by decide +kernel⟩

theorem test_PowerDomains_5_met :
    ∃ (s : State) (d : ℕ) (g : PSt), (s.dom d).target = some g ∧ g ≠ PSt.off :=
  ⟨ent 3 .doze sM, 3, .doze, by decide +kernel⟩

theorem test_PowerDomains_6_met :
    (∃ (s : State) (u : State) (f : FuncId) (d : Fin 24) (v : Word), Reaches s f (regAt slotPwr (512 + 4 * ↑d)) ∧ u = s.fromHost
      ∧ (bits v 31 30 = 3 ∨ 16 ≤ ↑d ∧ ↑d < 22 ∧ bits v 31 30 = 2)) ∧
    (∃ (s : State) (u : State) (f : FuncId) (d : Fin 24) (v : Word), Reaches s f (regAt slotPwr (512 + 4 * ↑d)) ∧ u = s.fromHost
      ∧ bits v 31 30 ≠ 3 ∧ ¬(16 ≤ ↑d ∧ ↑d < 22 ∧ bits v 31 30 = 2)) :=
  ⟨⟨sM, sM.fromHost, 0, 3, 0xC0001234, reaches (by decide +kernel), rfl, by decide +kernel⟩,
   ⟨sM, sM.fromHost, 0, 3, 0x80001234, reaches (by decide +kernel), rfl, by decide +kernel⟩⟩

theorem test_PowerDomains_7_met :
    (∃ (s : State) (d : DomId), (↑d < 16 ∨ ↑d = 22 ∨ ↑d = 23) ∧ idleDue s ↑d = true ∧ domDemand s ↑d = false) ∧
    (∃ (s : State) (d : DomId), (idleDue s ↑d = false ∨ domDemand s ↑d = true ∨ 16 ≤ ↑d ∧ ↑d < 22 ∨ 24 ≤ ↑d)) :=
  ⟨⟨idl 3 0x8000000A, 3, by decide +kernel⟩,
   ⟨idl 3 0x8000000B, 3, by decide +kernel⟩⟩

theorem test_PowerDomains_8_met :
    (∃ (s : State) (p : PortId), idleDue s (16 + ↑p) = true ∧ (s.port ↑p).st = LinkSt.up ∧ (s.port ↑p).outQ = [] ∧ (s.port
      ↑p).rx = [] ∧ (s.port ↑p).partial_ = none ∧ (∀ x ∈ s.fabric.pend, x.port ≠ ↑p)) ∧
    (∃ (s : State) (p : PortId), (idleDue s (16 + ↑p) = false ∨ (s.port ↑p).st ≠ LinkSt.up ∨ (s.port ↑p).outQ ≠ [] ∨ (s.port
      ↑p).rx ≠ [] ∨ (s.port ↑p).partial_ ≠ none ∨ ∃ x ∈ s.fabric.pend, x.port = ↑p)) :=
  ⟨⟨idl 17 0x4000000A (pUp sM), 1, by decide +kernel⟩,
   ⟨idl 17 0x4000000A ((pUp sM).setPort 1 Port.start), 1, by decide +kernel⟩⟩

theorem test_PowerDomains_9_met :
    ∃ (s : State) (d : ℕ), idleDue s d = true :=
  ⟨idl 3 0x8000000A, 3, by decide +kernel⟩

theorem test_PowerDomains_10_met :
    (∃ (s : State), (s.dom 26).st = PSt.run ∧ (s.dom 26).target = none ∧ (∀ d < 24, (s.dom d).asleep = true) ∧ s.host.bar2 = []
      ∧ s.host.xfer = none ∧ s.host.cmds = [] ∧ s.drover.cmds = []) ∧
    (∃ (s : State), ((s.dom 26).st ≠ PSt.run ∨ (s.dom 26).target ≠ none ∨ (∃ d < 24, (s.dom d).asleep = false) ∨ s.host.bar2 ≠
      [] ∨ s.host.xfer ≠ none ∨ s.host.cmds ≠ [] ∨ s.drover.cmds ≠ [])) :=
  ⟨⟨alln sM, by decide +kernel⟩,
   ⟨sM, by decide +kernel⟩⟩

theorem test_PowerDomains_11_met :
    (∃ (s : State) (d : DomId), (s.dom ↑d).target = none ∧ (s.dom ↑d).waking = false) ∧
    (∃ (s : State) (d : DomId), (s.dom ↑d).target = some PSt.off ∧ ↑d < 16 ∧ foldWrites s ↑d = true) ∧
    (∃ (s : State) (d : DomId) (g : PSt), (s.dom ↑d).target = some g ∧ (g = PSt.off → ↑d < 16 → foldWrites s ↑d = false)) ∧
    (∃ (s : State) (d : DomId), (s.dom ↑d).target = none ∧ (s.dom ↑d).waking = true) :=
  ⟨⟨sM, 3, by decide +kernel⟩,
   ⟨sFw, 0, by decide +kernel⟩,
   ⟨ent 0 .doze, 0, .doze, by decide +kernel⟩,
   ⟨wk 0 .nap, 0, by decide +kernel⟩⟩

theorem test_SensorsSuppliesAndPower_1_met :
    ∃ (s : State), s.power.aoOn = false :=
  ⟨sAo, by decide +kernel⟩

theorem test_SensorsSuppliesAndPower_3_met :
    ∃ (f : ℕ), f < 16 :=
  ⟨1, by decide +kernel⟩

theorem test_SensorsSuppliesAndPower_4_met :
    (∃ (s : State) (u : State) (r : Requester) (v : Word), Arrives s r (regAt slotPwr 88) ∧ u = arriving r s ∧ bit v 31 = false
      ∧ 60 ≤ bits v 7 0 ∧ bits v 7 0 ≤ 105) ∧
    (∃ (s : State) (u : State) (r : Requester) (v : Word), Arrives s r (regAt slotPwr 88) ∧ u = arriving r s ∧ bit v 31 = false
      ∧ (bits v 7 0 < 60 ∨ 105 < bits v 7 0)) ∧
    (∃ (s : State) (u : State) (r : Requester) (v : Word), Arrives s r (regAt slotPwr 88) ∧ u = arriving r s ∧ 60 ≤ bits v 7 0 ∧
      bits v 7 0 ≤ 105 ∧ (∀ i < 96, reading s i < 16 * (↑(bits v 7 0) - 10))) ∧
    (∃ (s : State) (u : State) (r : Requester) (v : Word), Arrives s r (regAt slotPwr 88) ∧ u = arriving r s ∧ 60 ≤ bits v 7 0 ∧
      bits v 7 0 ≤ 105 ∧ (∃ i < 96, 16 * (↑(bits v 7 0) - 10) ≤ reading s i)) :=
  ⟨⟨sM, arriving (.func 0) sM, .func 0, 0x3C, arrives (by decide +kernel), rfl, by decide +kernel⟩,
   ⟨sM, arriving (.func 0) sM, .func 0, 0x3B, arrives (by decide +kernel), rfl, by decide +kernel⟩,
   ⟨sM, arriving (.func 0) sM, .func 0, 0x8000003C, arrives (by decide +kernel), rfl, by decide +kernel⟩,
   ⟨t109, arriving (.func 0) t109, .func 0, 0x3C, arrives (by decide +kernel), rfl, by decide +kernel⟩⟩

theorem test_SensorsSuppliesAndPower_6_met :
    (∃ (s : State), (s.power.aoOn = false ∨ s.power.supplyOk = false)) ∧
    (∃ (s : State), s.power.aoOn = true ∧ s.power.supplyOk = true) ∧
    (∃ (s : State), (s.power.aoOn = false ∨ s.power.refOk = false)) ∧
    (∃ (s : State), s.power.aoOn = true ∧ s.power.refOk = true) :=
  ⟨⟨sAo, by decide +kernel⟩,
   ⟨sT, by decide +kernel⟩,
   ⟨sAo, by decide +kernel⟩,
   ⟨sT, by decide +kernel⟩⟩

theorem test_SensorsSuppliesAndPower_7_met :
    (∃ (s : State), (s.power.aoOn = false ∨ s.power.supplyOk = true)) ∧
    (∃ (s : State), s.power.aoOn = true ∧ s.power.supplyOk = false ∧ s.power.refOk = true) ∧
    (∃ (s : State), s.power.aoOn = true ∧ s.power.supplyOk = false ∧ s.power.refOk = false) ∧
    (∃ (s : State), (s.power.aoOn = false ∨ s.power.refOk = true)) ∧
    (∃ (s : State), s.power.aoOn = true ∧ s.power.refOk = false ∧ s.power.supplyOk = true) ∧
    (∃ (s : State), s.power.aoOn = true) ∧
    (∃ (s : State), s.power.aoOn = false) :=
  ⟨⟨sT, by decide +kernel⟩,
   ⟨sUv, by decide +kernel⟩,
   ⟨sUv.mapPower (fun p => {p with refOk := false}), by decide +kernel⟩,
   ⟨sT, by decide +kernel⟩,
   ⟨sRl, by decide +kernel⟩,
   ⟨sT, by decide +kernel⟩,
   ⟨sAo, by decide +kernel⟩⟩

theorem test_SensorsSuppliesAndPower_5_met :
    (∃ (s : State), s.power.aoOn = false) ∧
    (∃ (s : State), s.power.aoOn = true) :=
  ⟨⟨sAo, by decide +kernel⟩,
   ⟨sM, by decide +kernel⟩⟩

theorem test_SensorsSuppliesAndPower_9_met :
    (∃ (s : State), s.power.aoOn = false) ∧
    (∃ (s : State), s.power.aoOn = true) :=
  ⟨⟨sAo, by decide +kernel⟩,
   ⟨sT, by decide +kernel⟩⟩

theorem test_SensorsSuppliesAndPower_10_met :
    (∃ (s : State), s.power.pwrGood = false) ∧
    (∃ (s : State), s.power.pwrGood = true ∧ s.hurdled RDom.module = true) ∧
    (∃ (s : State), s.power.pwrGood = true ∧ s.hurdled RDom.module = false) :=
  ⟨⟨sUv, by decide +kernel⟩,
   ⟨{sT with resets := {sT.resets with crit := [.module]}}, by decide +kernel⟩,
   ⟨sT, by decide +kernel⟩⟩

theorem test_SensorsSuppliesAndPower_2_met :
    (∃ (s : State) (x : Vector (BitVec 16) 96), s.power.aoOn = true ∧
      ((∀ i, (h : i < 96) → x[i].toInt < 1760) ∨ s.power.halt = true)) ∧
    (∃ (s : State) (x : Vector (BitVec 16) 96), s.power.aoOn = true ∧ ∃ i, ∃ h : i < 96, 1760 ≤ x[i].toInt ∧ s.power.halt = false) :=
  ⟨⟨sM, Vector.replicate 96 1759, by decide +kernel, .inl (by
      intro i h
      rw [Vector.getElem_replicate]
      decide)⟩,
   ⟨sM, Vector.replicate 96 1760, by decide +kernel, 95, by decide, by
      rw [Vector.getElem_replicate]
      decide, by decide +kernel⟩⟩

end Sys2Proof.Tests.Powering

namespace Sys2Proof.Tests.Resetting
open Sys2Proof Sys2Proof.Machine Sys2Proof.Tests

def sM : State := stMgmt
def sT : State := stProg 1 [] [1,2] Core.idle
def uSt (s : State) : State := s.mapDrover (fun d => { d with stops := s.drover.stops.filter (notStopped s) })
def fl : Flight := ⟨.queue, 0, 0, false, 0, [], none, 0, true⟩
def sSt (n : Nat) : State := {sT.mapDrover (fun d => {d with stops := [⟨0,0,500⟩]}) with now := n, cores := [(0, {Core.idle with chans := [(2, {armed 2 4 0x100 false with flights := [fl]})]})]}
def sLd : State := {setTask sT 0 {((sT.task 0).get (by decide +kernel)) with st := .draining, since := 0} with now := 100000}
def ms (n : Nat) : State := mapResets sT (fun r => {r with missed := n})
def uR (s : State) (v : Word) : State := (arriving (.func 0) s).setReg slotMgmt 0x180 (v &&& 0x000F00FF)
def sH := raise sM (.fold 15) 1
def rd (d : RDom) (s : State := sT) : State := raise s d 1
def rn (s : State) : RRun := match s.resets.runs with | r :: _ => r | [] => ⟨.mgmt,0,.drain,0,0⟩
def sBusy : State := sT.mapCore 0 (fun k => {k with chans := [(2, {armed 2 4 0x100 false with flights := [fl]})]})
def rB : State := rd (.core 0) sBusy
def rB4 : State := {rB with now := 4400}
def sm (d : RDom) (s : State := sT) : State := nextSt (exec (.resetDrainEnd d) (rd d s))
def ch (s : State) : Chain := match s.resets.chains with
  | x :: _ => x
  | [] => ⟨0, .compute, .compute, 0, 0, none, 0, 0, 0, 0, 0, false, []⟩
def as (d : RDom) (s : State := sT) : State := nextSt (exec (.resetAssert d) (sm d s))
def sAo : State := sm (.core 0)
def sAi : State := (as (.core 0)).setReg slotMgmt 0x1A8 0x80003FFF
def sAs : State := {sAi with soft := [regAt slotMgmt 0x1A8]}

theorem test_ResetsRunThroughTheirPhases_1_met :
    (∃ (s : State) (u : State), (u = s.mapDrover fun (d : Drover) => { d with stops := List.filter (notStopped s) s.drover.stops })
      ∧ (∀ w ∈ s.drover.stops, notStopped s w = true → s.now ≤ w.by_) ∧ lateDrain s = none) ∧
    (∃ (s : State) (u : State) (c : ℕ) (k : ℕ), (u = s.mapDrover fun (d : Drover) => { d with stops := List.filter (notStopped s) s.drover.stops })
      ∧ (∀ w ∈ s.drover.stops, notStopped s w = true → s.now ≤ w.by_) ∧ lateDrain s = some (c, k) ∧ c < 256) ∧
    (∃ (s : State) (u : State) (w : StopWait), (u = s.mapDrover fun (d : Drover) => { d with stops := List.filter (notStopped s) s.drover.stops })
      ∧ List.find? (fun (w : StopWait) => decide (w.by_ < s.now)) (List.filter (notStopped s) s.drover.stops) = some w ∧ w.unit
      < 256) :=
  ⟨⟨sT, uSt sT, rfl, by decide +kernel⟩,
   ⟨sLd, uSt sLd, 0, 0, rfl, by decide +kernel⟩,
   ⟨sSt 501, uSt (sSt 501), ⟨0,0,500⟩, rfl, by decide +kernel⟩⟩

theorem test_ResetsRunThroughTheirPhases_4_met :
    (∃ (s : State) (u : State) (r : Requester) (v : Word), Arrives s r (regAt slotMgmt 384) ∧ u = (arriving r s).setReg slotMgmt
      384 (v &&& 983295) ∧ rdomOf (bits v 19 16) (bits v 7 0) = none) ∧
    (∃ (s : State) (u : State) (r : Requester) (v : Word) (d : RDom), Arrives s r (regAt slotMgmt 384) ∧ u = (arriving r
      s).setReg slotMgmt 384 (v &&& 983295) ∧ rdomOf (bits v 19 16) (bits v 7 0) = some d ∧ (s.hurdled d = true ∨ resetOff s d =
      true)) ∧
    (∃ (s : State) (u : State) (r : Requester) (v : Word) (d : RDom), Arrives s r (regAt slotMgmt 384) ∧ u = (arriving r
      s).setReg slotMgmt 384 (v &&& 983295) ∧ rdomOf (bits v 19 16) (bits v 7 0) = some d ∧ s.hurdled d = false ∧ resetOff s d =
      false) :=
  ⟨⟨sM, uR sM 0x80020010, .func 0, 0x80020010, arrives (by decide +kernel), rfl, by decide +kernel⟩,
   ⟨sH, uR sH 0x8002000F, .func 0, 0x8002000F, .fold 15, arrives (by decide +kernel), rfl, by decide +kernel⟩,
   ⟨sM, uR sM 0x8002000F, .func 0, 0x8002000F, .fold 15, arrives (by decide +kernel), rfl, by decide +kernel⟩⟩

theorem test_ResetsRunThroughTheirPhases_6_met :
    (∃ (s : State) (d : RDom), runAt s d RPhase.drain = none) ∧
    (∃ (s : State) (d : RDom) (r : RRun), runAt s d RPhase.drain = some r ∧ (awake s d = false ∨ drained s d = false ∧ s.ac <
      r.since / 40 + drainLimit d)) ∧
    (∃ (s : State) (d : RDom) (r : RRun), runAt s d RPhase.drain = some r ∧ awake s d = true ∧ drained s d = true) ∧
    (∃ (s : State) (d : RDom) (r : RRun), runAt s d RPhase.drain = some r ∧ awake s d = true ∧ drained s d = false ∧ r.since /
      40 + drainLimit d ≤ s.ac) :=
  ⟨⟨sT, .core 0, by decide +kernel⟩,
   ⟨{rB with now := 400 + 3999}, .core 0, rn rB, by decide +kernel⟩,
   ⟨rd (.core 0), .core 0, rn (rd (.core 0)), by decide +kernel⟩,
   ⟨rB4, .core 0, rn rB, by decide +kernel⟩⟩

theorem test_ResetsRunThroughTheirPhases_7_met :
    (∃ (s : State) (d : RDom), runAt s d RPhase.sample = none) ∧
    (∃ (s : State) (d : RDom) (k : SampleUnit) (r : RRun) (c : Chain), runAt s d RPhase.sample = some r ∧ chainOf s r.chain =
      some c ∧ (s.ac < r.since / 40 + 100 ∨ k ∈ c.marked)) ∧
    (∃ (s : State) (d : RDom) (k : SampleUnit) (r : RRun) (c : Chain), runAt s d RPhase.sample = some r ∧ chainOf s r.chain =
      some c ∧ r.since / 40 + 100 ≤ s.ac ∧ k ∉ c.marked) :=
  ⟨⟨sT, .core 0, by decide +kernel⟩,
   ⟨{sm (.core 0) with now := 4399}, .core 0, .regsOf 0, rn (sm (.core 0)), ch (sm (.core 0)), by decide +kernel⟩,
   ⟨{sm (.core 0) with now := 4400}, .core 0, .regsOf 0, rn (sm (.core 0)), ch (sm (.core 0)), by decide +kernel⟩⟩

theorem test_ResetsRunThroughTheirPhases_8_met :
    (∃ (s : State) (d : RDom), (runAt s d RPhase.sample = none ∨ sampleTurn s d = false)) ∧
    (∃ (s : State) (d : RDom) (r : RRun), runAt s d RPhase.sample = some r ∧ sampleTurn s d = true) :=
  ⟨⟨sT, .core 0, by decide +kernel⟩,
   ⟨sm (.core 0), .core 0, rn (sm (.core 0)), by decide +kernel⟩⟩

theorem test_ResetsRunThroughTheirPhases_9_met :
    (∃ (s : State) (d : RDom), runAt s d RPhase.asserted = none) ∧
    (∃ (s : State) (d : RDom) (r : RRun), runAt s d RPhase.asserted = some r) :=
  ⟨⟨sT, .core 0, by decide +kernel⟩,
   ⟨as (.core 0), .core 0, rn (as (.core 0)), by decide +kernel⟩⟩

theorem test_ResetsRunThroughTheirPhases_11_met :
    ∃ (s : State) (d : RDom), runAt s d RPhase.asserted = none :=
  ⟨sT, .core 0, by decide +kernel⟩

theorem test_ResetsRunThroughTheirPhases_13_met :
    ∃ (s : State) (u : State) (f : FuncId), ReadReaches s f (regAt slotMgmt 428) ∧ u = s.fromHost ∧ u.dstate slotMgmt < 2 ∧
      regAt slotMgmt 424 ∉ s.soft :=
  ⟨as (.core 0), (as (.core 0)).fromHost, 0, reads (by decide +kernel), rfl, by decide +kernel⟩

theorem test_ResetsRunThroughTheirPhases_14_met :
    ∃ (s : State) (u : State) (f : FuncId), ReadReaches s f (regAt slotMgmt 428) ∧ u = s.fromHost ∧ u.dstate slotMgmt < 2 ∧
      regAt slotMgmt 424 ∈ s.soft :=
  ⟨sAs, sAs.fromHost, 0, reads (by decide +kernel), rfl, by decide +kernel⟩

theorem test_ResetsRunThroughTheirPhases_2_met :
    (∃ (s : State), s.power.aoOn = false) ∧
    (∃ (s : State), s.power.aoOn = true) :=
  ⟨⟨sM.mapPower (fun p => {p with aoOn := false}), by decide +kernel⟩,
   ⟨sM, by decide +kernel⟩⟩

theorem test_ResetsRunThroughTheirPhases_3_met :
    (∃ (s : State), s.resets.missed < 50) ∧
    (∃ (s : State), 50 ≤ s.resets.missed) :=
  ⟨⟨ms 49, by decide +kernel⟩,
   ⟨ms 50, by decide +kernel⟩⟩

theorem test_ResetsRunThroughTheirPhases_5_met :
    (∃ (s : State) (d : RDom), (s.hurdled d = true ∨ resetOff s d = true)) ∧
    (∃ (s : State) (d : RDom), s.hurdled d = false ∧ resetOff s d = false) ∧
    (∃ (s : State) (d : RDom) (cause : ℕ) (x : RRun), x ∈ (raise s d cause).resets.runs) :=
  ⟨⟨sH, .fold 15, by decide +kernel⟩,
   ⟨sH, .compute, by decide +kernel⟩,
   ⟨sH, .fold 15, 2, rn (raise sH (.fold 15) 2), by decide +kernel⟩⟩

theorem test_ResetsRunThroughTheirPhases_10_met :
    (∃ (s : State) (d : RDom) (r : RRun) (l : ℕ), runAt s d RPhase.asserted = some r ∧ overdueAt d = some l ∧ s.ac < r.since /
      40 + l) ∧
    (∃ (s : State) (d : RDom) (r : RRun) (l : ℕ), runAt s d RPhase.asserted = some r ∧ overdueAt d = some l ∧ r.since / 40 + l ≤
      s.ac) :=
  ⟨⟨{as (.core 0) with now := 20399}, .core 0, rn (as (.core 0)), 500, by decide +kernel⟩,
   ⟨{as (.core 0) with now := 20400}, .core 0, rn (as (.core 0)), 500, by decide +kernel⟩⟩

theorem test_ResetsRunThroughTheirPhases_12_met :
    (∃ (s : State) (u : State) (f : FuncId) (v : Word), Reaches s f (regAt slotMgmt 412) ∧ u = s.fromHost ∧ bit v 30 = false) ∧
    (∃ (s : State) (u : State) (f : FuncId), Reaches s f (regAt slotMgmt 412) ∧ u = s.fromHost ∧ aoBusy s = true) ∧
    (∃ (s : State) (u : State) (f : FuncId), Reaches s f (regAt slotMgmt 412) ∧ u = s.fromHost ∧ aoBusy s = false) :=
  ⟨⟨sT, sT.fromHost, 0, 0x80000000, reaches (by decide +kernel), rfl, by decide +kernel⟩,
   ⟨sAo, sAo.fromHost, 0, reaches (by decide +kernel), rfl, by decide +kernel⟩,
   ⟨sT, sT.fromHost, 0, reaches (by decide +kernel), rfl, by decide +kernel⟩⟩

end Sys2Proof.Tests.Resetting

namespace Sys2Proof.Tests.Tracing
open Sys2Proof Sys2Proof.Machine Sys2Proof.Tests

def sM : State := {stMgmt with now := 400}
def uT (s : State) (v : Word) : State := s.fromHost.setReg slotMgmt 0x300 (v &&& 0x1000013F)
def sTr : State := sM.mapSharal (fun h => {h with tracing := true})
def sRg : State := sM.mapSharal (fun h => {h with ring := [[1,2,3,4,5,6,7,8],[9,10,11,12,13,14,15,16]]})
def sRi : State := sRg.setReg slotMgmt 0x320 0x80000009
def sCn : State := (sM.setReg (slotCore 3) 0xC04 7).setReg slotHost 0xC00 5
def sRs : State := {sRi with soft := [regAt slotMgmt 0x320]}
def fc (code : Nat) (slot : Nat := slotDrvr) : FCopy := ⟨slot, [1,2,3,4,5,6,7,8,9], code⟩
def sFc (c : FCopy) : State := sM.mapSharal (fun h => {h with copies := [c, fc 7]})
def c0 := fc (trigOf sM 0).code
def sn := (List.range (trigOf sM 0).nsnap).map (fun k => snapshot (sFc c0) c0 (wd (trigOf sM 0).snaps k))
def ev (s : State) : State := tallyEvent s 7 3 0 [1] [2]
def sE1 := ev sM
def nr (s : State) : TRec := match s.sharal.tally.newest with
  | some r => r
  | none => ⟨0, 0, 0, 0, 0, 0, 0, 0, [], [], 0, 0, 0, false⟩
def sFull : State := sE1.mapTally (fun t => {t with staged := 512})

theorem test_ObservationAndTally_1_met :
    (∃ (s : State) (u : State) (f : FuncId) (v : Word), Reaches s f (regAt slotMgmt 768) ∧ u = s.fromHost.setReg slotMgmt 768 (v
      &&& 268435775) ∧ bit v 30 = false ∧ bit v 29 = false) ∧
    (∃ (s : State) (u : State) (f : FuncId) (v : Word), Reaches s f (regAt slotMgmt 768) ∧ u = s.fromHost.setReg slotMgmt 768 (v
      &&& 268435775) ∧ bit v 31 = false ∧ bit v 29 = false) ∧
    (∃ (s : State) (u : State) (f : FuncId) (v : Word), Reaches s f (regAt slotMgmt 768) ∧ u = s.fromHost.setReg slotMgmt 768 (v
      &&& 268435775) ∧ bit v 31 = false ∧ bit v 30 = false ∧ (s.sharal.tracing = true ∨ hostWritable s = false)) ∧
    (∃ (s : State) (u : State) (f : FuncId) (v : Word), Reaches s f (regAt slotMgmt 768) ∧ u = s.fromHost.setReg slotMgmt 768 (v
      &&& 268435775) ∧ bit v 31 = false ∧ bit v 30 = false ∧ s.sharal.tracing = false ∧ hostWritable s = true) :=
  ⟨⟨sM, uT sM 0x80000103, 0, 0x80000103, reaches (by decide +kernel), rfl, by decide +kernel⟩,
   ⟨sM, uT sM 0x40000103, 0, 0x40000103, reaches (by decide +kernel), rfl, by decide +kernel⟩,
   ⟨sTr, uT sTr 0x20000103, 0, 0x20000103, reaches (by decide +kernel), rfl, by decide +kernel⟩,
   ⟨sRg, uT sRg 0x20000103, 0, 0x20000103, reaches (by decide +kernel), rfl, by decide +kernel⟩⟩

theorem test_ObservationAndTally_3_met :
    ∃ (s : State) (u : State) (f : FuncId), ReadReaches s f (regAt slotMgmt 804) ∧ u = s.fromHost ∧ u.dstate slotMgmt < 2 ∧
      regAt slotMgmt 800 ∉ s.soft :=
  ⟨sRi, sRi.fromHost, 0, reads (by decide +kernel), rfl, by decide +kernel⟩

theorem test_ObservationAndTally_4_met :
    ∃ (s : State) (u : State) (f : FuncId), ReadReaches s f (regAt slotMgmt 804) ∧ u = s.fromHost ∧ u.dstate slotMgmt < 2 ∧
      regAt slotMgmt 800 ∈ s.soft :=
  ⟨sRs, sRs.fromHost, 0, reads (by decide +kernel), rfl, by decide +kernel⟩

theorem test_ObservationAndTally_5_met :
    (∃ (s : State) (u : State) (f : FuncId) (v : Word), Reaches s f (regAt slotMgmt 832) ∧ u = s.fromHost ∧ bit v 30 = false ∧
      bit v 29 = false) ∧
    (∃ (s : State) (u : State) (f : FuncId) (v : Word), Reaches s f (regAt slotMgmt 832) ∧ u = s.fromHost ∧ bit v 31 = false ∧
      bit v 29 = false) ∧
    (∃ (s : State) (u : State) (f : FuncId) (v : Word), Reaches s f (regAt slotMgmt 832) ∧ u = s.fromHost ∧ bit v 31 = false ∧
      bit v 30 = false) :=
  ⟨⟨sCn, sCn.fromHost, 0, 0x80000000, reaches (by decide +kernel), rfl, by decide +kernel⟩,
   ⟨sCn, sCn.fromHost, 0, 0x40000000, reaches (by decide +kernel), rfl, by decide +kernel⟩,
   ⟨sCn, sCn.fromHost, 0, 0x20000000, reaches (by decide +kernel), rfl, by decide +kernel⟩⟩

theorem test_ObservationAndTally_6_met :
    ∃ (s : State), s.sharal.copies = [] :=
  ⟨sM, by decide +kernel⟩

theorem test_ObservationAndTally_7_met :
    (∃ (s : State) (c : FCopy) (rest : List FCopy), s.sharal.copies = c :: rest ∧ (∀ i < 64, (trigOf s i).takes c.code = false)) ∧
    (∃ (s : State) (c : FCopy) (rest : List FCopy) (i : ℕ) (snaps : List (Word × Word)), s.sharal.copies = c :: rest ∧ i < 64 ∧
      (trigOf s i).takes c.code = true ∧ (∀ j < i, (trigOf s j).takes c.code = false) ∧ snaps = List.map (fun (k : ℕ) =>
      snapshot s c (wd (trigOf s i).snaps k)) (List.range (trigOf s i).nsnap)) :=
  ⟨⟨sFc (fc 0xFFF), fc 0xFFF, [fc 7], by decide +kernel⟩,
   ⟨sFc c0, c0, [fc 7], 0, sn, by decide +kernel⟩⟩

theorem test_ObservationAndTally_8_met :
    (∃ (s : State) (code : ℕ) (ty : ℕ) (inst : ℕ) (as : List Word) (vs : List Word) (r : TRec), s.sharal.tally.newest = some r ∧
      tallyOpen s = true ∧ r.same code ty inst as vs = true) ∧
    (∃ (s : State) (code : ℕ) (ty : ℕ) (inst : ℕ) (as : List Word) (vs : List Word), (∀ (r : TRec), s.sharal.tally.newest = some
      r → tallyOpen s = false ∨ r.same code ty inst as vs = false) ∧ s.sharal.tally.staged < 512) ∧
    (∃ (s : State) (code : ℕ) (ty : ℕ) (inst : ℕ) (as : List Word) (vs : List Word), (∀ (r : TRec), s.sharal.tally.newest = some
      r → tallyOpen s = false ∨ r.same code ty inst as vs = false) ∧ 512 ≤ s.sharal.tally.staged) :=
  ⟨⟨sE1, 7, 3, 0, [1], [2], nr sE1, by decide +kernel⟩,
   ⟨sM, 7, 3, 0, [1], [2], by decide +kernel⟩,
   ⟨sFull, 7, 3, 0, [1], [3], by decide +kernel⟩⟩

theorem test_ObservationAndTally_9_met :
    (∃ (s : State), s.sharal.tally.opened = none) ∧
    (∃ (s : State) (n : ℕ), s.sharal.tally.opened = some n ∧ s.ac < n + 50000000) ∧
    (∃ (s : State) (n : ℕ), s.sharal.tally.opened = some n ∧ n + 50000000 ≤ s.ac) :=
  ⟨⟨sM.mapTally (fun t => {t with opened := none}), by decide +kernel⟩,
   ⟨{sE1 with now := 400 + 40*50000000-1}, sE1.ac, by decide +kernel⟩,
   ⟨{sE1 with now := 400 + 40*50000000}, sE1.ac, by decide +kernel⟩⟩

theorem test_ObservationAndTally_10_met :
    ∃ (s : State), (s.sharal.tally.staged = 0 ∨ s.sharal.tally.staged = 1 ∧ tallyOpen s = true) :=
  ⟨sE1.mapTally (fun t => {t with staged := 1}), by decide +kernel⟩

theorem test_ObservationAndTally_2_met :
    (∃ (s : State), s.sharal.copying = false) ∧
    (∃ (s : State), s.sharal.copying = true) :=
  ⟨⟨sRg, by decide +kernel⟩,
   ⟨sRg.mapSharal (fun h => {h with copying := true}), by decide +kernel⟩⟩

end Sys2Proof.Tests.Tracing

namespace Sys2Proof.Tests.Recording
open Sys2Proof Sys2Proof.Machine Sys2Proof.Tests

def sM : State := {stMgmt with now := 400}
def ev (s : State) : State := tallyEvent s 7 3 0 [1] [2]
def sE1 := ev sM
def nr (s : State) : TRec := match s.sharal.tally.newest with
  | some r => r
  | none => ⟨0, 0, 0, 0, 0, 0, 0, 0, [], [], 0, 0, 0, false⟩
def sPr : State := {sE1 with now := 400 + 40*50000000} |>.mapTally (fun t => {t with opened := none})
def rb (n : Nat) : TRec := {nr sE1 with seq := n}
def sSe : State := sPr.mapTally (fun t => {t with recs := [rb 1, rb 512, rb 513, rb 32769], staged := 1, tail := 1, head := 32769})
def hr (n : Nat) : State := {sM with now := 40 * n}
def ld (s : State) (q : Word) : State := s.setReg slotTally 0x058 q
def uCl (s : State) (v : Word) : State := s.fromHost.setReg slotTally 0x064 (v &&& 0xFF)

theorem test_ObservationAndTally_10_met :
    (∃ (s : State) (r : TRec), toProgram s = some r ∧ ((r.seq - 1) % 512 ≠ 0 ∨ r.seq ≤ 32768)) ∧
    (∃ (s : State) (r : TRec), toProgram s = some r ∧ (r.seq - 1) % 512 = 0 ∧ 32768 < r.seq) :=
  ⟨⟨sPr, ((toProgram sPr).get (by decide +kernel)), by decide +kernel⟩,
   ⟨sSe, ((toProgram sSe).get (by decide +kernel)), by decide +kernel⟩⟩

theorem test_ObservationAndTally_11_met :
    (∃ (s : State), s.power.aoOn = true ∧ s.sharal.tally.hoursAt + 2812500000 ≤ s.ac) ∧
    (∃ (s : State), (s.power.aoOn = false ∨ s.ac < s.sharal.tally.hoursAt + 2812500000)) :=
  ⟨⟨hr 2812500000, by decide +kernel⟩,
   ⟨hr 2812499999, by decide +kernel⟩⟩

theorem test_ObservationAndTally_12_met :
    (∃ (s : State) (u : State) (f : FuncId) (q : Word) (r : TRec), Reaches s f (regAt slotTally 92) ∧ u = s.fromHost ∧ q = s.reg
      slotTally 88 ∧ recordOf s q = some r) ∧
    (∃ (s : State) (u : State) (f : FuncId) (q : Word), Reaches s f (regAt slotTally 92) ∧ u = s.fromHost ∧ q = s.reg slotTally
      88 ∧ recordOf s q = none) :=
  ⟨⟨ld sE1 2, (ld sE1 2).fromHost, 0, 2, ((recordOf sE1 2).get (by decide +kernel)), reaches (by decide +kernel), rfl,
     by decide +kernel⟩,
   ⟨ld sE1 5, (ld sE1 5).fromHost, 0, 5, reaches (by decide +kernel), rfl, by decide +kernel⟩⟩

theorem test_ObservationAndTally_13_met :
    (∃ (s : State) (u : State) (f : FuncId) (v : Word), Reaches s f (regAt slotTally 100) ∧ (u = if ↑f = 0 then
      s.fromHost.setReg slotTally 100 (v &&& 255) else s.fromHost) ∧ ↑f = 0 ∧ mayClear s (bits v 7 0) = true) ∧
    (∃ (s : State) (u : State) (f : FuncId) (v : Word), Reaches s f (regAt slotTally 100) ∧ (u = if ↑f = 0 then
      s.fromHost.setReg slotTally 100 (v &&& 255) else s.fromHost) ∧ (↑f ≠ 0 ∨ mayClear s (bits v 7 0) = false)) :=
  ⟨⟨sE1, uCl sE1 0x80000000, 0, 0x80000000, reaches (by decide +kernel), rfl, by decide +kernel⟩,
   ⟨sE1, uCl sE1 0x80000001, 0, 0x80000001, reaches (by decide +kernel), rfl, by decide +kernel⟩⟩

end Sys2Proof.Tests.Recording

namespace Sys2Proof.Tests.Messages
open Sys2Proof Sys2Proof.Machine Sys2Proof.Tests

def sM : State := {stMgmt with now := 400}
def mbx (ws : List Word) (ow : Bool := true) : Mbox := ⟨ow, ws, none⟩
def sB (m : Mbox) : State := sM.mapSharal (fun h => {h with mbox := some m})
def mF (a n : Word) : Mbox := mbx [0x01000000, a, n]
def sF : State := sB (mF 0x10000000 1024)
def im : FwImage := fwOfBytes (sF.mem.readN 0x10000000 1024)
def m2 : Mbox := mbx [0x02000000]
def sTrl : State := (sB m2).mapSharal (fun h => {writeHdr h true true with runB := false})
def m3 (o : Bool) : Mbox := mbx [0x03000000] o
def sRo : State := (sB (m3 true)).mapSharal (fun h => {h with fwRoll := 64, runB := false, fuse := 63})
def m4 (o : Bool) : Mbox := mbx [0x04000000,1,2,3,4,5,6,7,8] o
def m5 : Mbox := mbx [0x05000000]
def sW : State := (sB m5).setReg slotRoute 0x104 9
def m6 : Mbox := mbx [0x06000000]
def m0 : Mbox := mbx [0x08000000,1]

theorem test_MailboxMessages_1_met :
    ∃ (s : State), (∀ (m : Mbox), s.sharal.mbox = some m → m.code ≠ 1 ∨ m.rsp ≠ none) :=
  ⟨sM, by decide +kernel⟩

theorem test_MailboxMessages_2_met :
    ∃ (s : State), (∀ (m : Mbox), s.sharal.mbox = some m → m.code ≠ 2 ∨ m.rsp ≠ none) :=
  ⟨sB (mbx [0x01000000]), by decide +kernel⟩

theorem test_MailboxMessages_3_met :
    ∃ (s : State), (∀ (m : Mbox), s.sharal.mbox = some m → m.code ≠ 3 ∨ m.rsp ≠ none) :=
  ⟨sB (mbx [0x01000000]), by decide +kernel⟩

theorem test_MailboxMessages_4_met :
    ∃ (s : State), (∀ (m : Mbox), s.sharal.mbox = some m → m.code ≠ 4 ∨ m.rsp ≠ none) :=
  ⟨sB (mbx [0x01000000]), by decide +kernel⟩

theorem test_MailboxMessages_5_met :
    ∃ (s : State), (∀ (m : Mbox), s.sharal.mbox = some m → m.code ≠ 5 ∨ m.rsp ≠ none) :=
  ⟨sB (mbx [0x01000000]), by decide +kernel⟩

theorem test_MailboxMessages_6_met :
    ∃ (s : State), (∀ (m : Mbox), s.sharal.mbox = some m → m.code ≠ 6 ∨ m.rsp ≠ none) :=
  ⟨sB (mbx [0x01000000]), by decide +kernel⟩

theorem test_MailboxMessages_7_met :
    (∃ (s : State) (m : Mbox), s.sharal.mbox = some m ∧ m.rsp = none ∧ m.code = 1 ∧ fuBad m = true) ∧
    (∃ (s : State) (m : Mbox), s.sharal.mbox = some m ∧ m.rsp = none ∧ m.code = 1 ∧ fuBad m = false ∧ fuPlaced (fuAddr m)
      (fuBytes m) = false) ∧
    (∃ (s : State) (m : Mbox) (i : FwImage), s.sharal.mbox = some m ∧ m.rsp = none ∧ m.code = 1 ∧ fuBad m = false ∧ fuPlaced
      (fuAddr m) (fuBytes m) = true ∧ s.reach (fuAddr m) = Reach.ready ∧ (s.mem.verifyRange (fuAddr m) (fuBytes m)).1 =
      Verdict.good ∧ i = fwOfBytes (s.mem.readN (fuAddr m) (fuBytes m))) :=
  ⟨⟨sB (mbx [0x01000000]), mbx [0x01000000], by decide +kernel⟩,
   ⟨sB (mF 0xFFFFFE00 1024), mF 0xFFFFFE00 1024, by decide +kernel⟩,
   ⟨sF, mF 0x10000000 1024, im, by decide +kernel⟩⟩

theorem test_MailboxMessages_8_met :
    (∃ (s : State) (m : Mbox), s.sharal.mbox = some m ∧ m.rsp = none ∧ m.code = 2 ∧ m.len ≠ 1) ∧
    (∃ (s : State) (m : Mbox), s.sharal.mbox = some m ∧ m.rsp = none ∧ m.code = 2 ∧ m.len = 1 ∧ (s.sharal.runB = true ∨ (bootHdr
      s.sharal).trial = false)) ∧
    (∃ (s : State) (m : Mbox), s.sharal.mbox = some m ∧ m.rsp = none ∧ m.code = 2 ∧ m.len = 1 ∧ s.sharal.runB = false ∧ (bootHdr
      s.sharal).trial = true) :=
  ⟨⟨sB (mbx [0x02000000, 1]), mbx [0x02000000, 1], by decide +kernel⟩,
   ⟨sB m2, m2, by decide +kernel⟩,
   ⟨sTrl, m2, by decide +kernel⟩⟩

theorem test_MailboxMessages_9_met :
    (∃ (s : State) (m : Mbox), s.sharal.mbox = some m ∧ m.rsp = none ∧ m.code = 3 ∧ m.len ≠ 1) ∧
    (∃ (s : State) (m : Mbox), s.sharal.mbox = some m ∧ m.rsp = none ∧ m.code = 3 ∧ m.len = 1 ∧ m.owner = false) ∧
    (∃ (s : State) (m : Mbox), s.sharal.mbox = some m ∧ m.rsp = none ∧ m.code = 3 ∧ m.len = 1 ∧ m.owner = true ∧ (s.sharal.runB
      = true ∨ (bootHdr s.sharal).trial = true ∨ s.sharal.fwRoll ≤ s.sharal.fuse ∨ 64 < s.sharal.fwRoll)) ∧
    (∃ (s : State) (m : Mbox), s.sharal.mbox = some m ∧ m.rsp = none ∧ m.code = 3 ∧ m.len = 1 ∧ m.owner = true ∧ s.sharal.runB =
      false ∧ (bootHdr s.sharal).trial = false ∧ s.sharal.fuse < s.sharal.fwRoll ∧ s.sharal.fwRoll ≤ 64) :=
  ⟨⟨sB (mbx [0x03000000, 1]), mbx [0x03000000, 1], by decide +kernel⟩,
   ⟨sB (m3 false), m3 false, by decide +kernel⟩,
   ⟨(sB (m3 true)).mapSharal (fun h => {h with fwRoll := 65}), m3 true, by decide +kernel⟩,
   ⟨sRo, m3 true, by decide +kernel⟩⟩

theorem test_MailboxMessages_10_met :
    (∃ (s : State) (m : Mbox), s.sharal.mbox = some m ∧ m.rsp = none ∧ m.code = 4 ∧ m.len ≠ 9) ∧
    (∃ (s : State) (m : Mbox), s.sharal.mbox = some m ∧ m.rsp = none ∧ m.code = 4 ∧ m.len = 9 ∧ m.owner = false) ∧
    (∃ (s : State) (m : Mbox), s.sharal.mbox = some m ∧ m.rsp = none ∧ m.code = 4 ∧ m.len = 9 ∧ m.owner = true) :=
  ⟨⟨sB (mbx [0x04000000]), mbx [0x04000000], by decide +kernel⟩,
   ⟨sB (m4 false), m4 false, by decide +kernel⟩,
   ⟨sB (m4 true), m4 true, by decide +kernel⟩⟩

theorem test_MailboxMessages_11_met :
    (∃ (s : State) (m : Mbox), s.sharal.mbox = some m ∧ m.rsp = none ∧ m.code = 5 ∧ m.len ≠ 1) ∧
    (∃ (s : State) (m : Mbox), s.sharal.mbox = some m ∧ m.rsp = none ∧ m.code = 5 ∧ m.len = 1) ∧
    (∃ (s : State) (m : Mbox), s.sharal.mbox = some m ∧ m.rsp = none ∧ m.code = 6 ∧ m.len ≠ 1) ∧
    (∃ (s : State) (m : Mbox), s.sharal.mbox = some m ∧ m.rsp = none ∧ m.code = 6 ∧ m.len = 1) :=
  ⟨⟨sB (mbx [0x05000000,1]), mbx [0x05000000,1], by decide +kernel⟩,
   ⟨sW, m5, by decide +kernel⟩,
   ⟨sB (mbx [0x06000000,1]), mbx [0x06000000,1], by decide +kernel⟩,
   ⟨sB m6, m6, by decide +kernel⟩⟩

theorem test_MailboxMessages_12_met :
    ∃ (s : State), s.sharal.mbox = none :=
  ⟨sM, by decide +kernel⟩

theorem test_MailboxMessages_13_met :
    (∃ (s : State) (m : Mbox), s.sharal.mbox = some m ∧ m.rsp = none ∧ 1 ≤ m.code ∧ m.code ≤ 7) ∧
    (∃ (s : State) (m : Mbox) (ws : List Word), s.sharal.mbox = some m ∧ (m.rsp = some ws ∨ m.rsp = none ∧ (m.code = 0 ∨ 7 <
      m.code) ∧ ws = [fld m.code 24 ||| 1])) :=
  ⟨⟨sB m6, m6, by decide +kernel⟩,
   ⟨sB m0, m0, [0x08000001], by decide +kernel⟩⟩

end Sys2Proof.Tests.Messages

namespace Sys2Proof.Tests.Baseboard
open Sys2Proof Sys2Proof.Machine Sys2Proof.Tests

def sWe : State := stMgmt.setReg slotMgmt 0x240 0x80000000
def sOffAo : State := stMgmt.mapPower (fun p => {p with aoOn := false})
def sStop : State := stMgmt.setReg slotMgmt 0x104 0x60000000
def sTl : State := tallyEvent stMgmt 7 3 0 [1] [2]
def kfull : State := stMgmt.mapHost (fun h => {h with keys := [(0,⟨List.replicate 32 1,0,6,0⟩)]})
def kempty : State := stMgmt.mapHost (fun h => {h with keys := []})

theorem test_SmbusCommands_1_met :
    (∃ (s : State) (pec : Option Bool), s.power.aoOn = true ∧ fwRunning s = true ∧ pecBad s pec = false ∧ bit (s.reg slotMgmt
      576) 31 = false) ∧
    (∃ (s : State) (off : Word) (pec : Option Bool), s.power.aoOn = true ∧ fwRunning s = true ∧ pecBad s pec = false ∧ bit
      (s.reg slotMgmt 576) 31 = true ∧ extReach (BitVec.toNat off) = true ∧ s.dstate (BitVec.toNat off / 4096) < 2) ∧
    (∃ (s : State) (off : Word) (pec : Option Bool), s.power.aoOn = true ∧ fwRunning s = true ∧ pecBad s pec = false ∧ bit
      (s.reg slotMgmt 576) 31 = true ∧ extReach (BitVec.toNat off) = false) :=
  ⟨⟨stMgmt.setReg slotMgmt 0x240 0, none, by decide +kernel⟩,
   ⟨sWe, w32 (regAt slotPwr 0x040), some true, by decide +kernel⟩,
   ⟨sWe, w32 (regAt slotMgmt 0x104), none, by decide +kernel⟩⟩

theorem test_SmbusCommands_4_met :
    ∃ (s : State), s.power.aoOn = false :=
  ⟨sOffAo, by decide +kernel⟩

theorem test_SmbusCommands_5_met :
    ∃ (s : State), s.power.aoOn = true ∧ fwRunning s = false :=
  ⟨sStop, by decide +kernel⟩

theorem test_SmbusCommands_6_met :
    ∃ (s : State), s.power.aoOn = true ∧ fwRunning s = true :=
  ⟨stMgmt, by decide +kernel⟩

theorem test_SmbusCommands_7_met :
    ∃ (s : State), s.power.aoOn = true :=
  ⟨stMgmt, by decide +kernel⟩

theorem test_SmbusCommands_8_met :
    (∃ (s : State) (o : Word), s.power.aoOn = true ∧ fwRunning s = true ∧ smbPage (BitVec.toNat o / 4096) = true ∧ BitVec.toNat
      o % 4 = 0) ∧
    (∃ (s : State) (o : Word) (r : TRec), s.power.aoOn = true ∧ fwRunning s = true ∧ recordOf s o = some r) ∧
    (∃ (s : State) (o : Word), s.power.aoOn = true ∧ fwRunning s = true ∧ BitVec.toNat o + 128 ≤ 65536) :=
  ⟨⟨stMgmt, w32 (regAt slotMgmt 0x104), by decide +kernel⟩,
   ⟨sTl, 2, ((recordOf sTl 2).get (by decide +kernel)), by decide +kernel⟩,
   ⟨stMgmt, 65408, by decide +kernel⟩⟩

theorem test_SmbusCommands_9_met :
    (∃ (s : State) (p : Option Bool), s.power.aoOn = true ∧ fwRunning s = true ∧ pecBad s p = true) ∧
    (∃ (s : State) (p : Option Bool), s.power.aoOn = true ∧ fwRunning s = true ∧ pecBad s p = false ∧ s.host.keys.get 0 ≠ none) ∧
    (∃ (s : State) (p : Option Bool), s.power.aoOn = true ∧ fwRunning s = true ∧ pecBad s p = false ∧ s.host.keys.get 0 = none) :=
  ⟨⟨stMgmt, some false, by decide +kernel⟩,
   ⟨kfull, some true, by decide +kernel⟩,
   ⟨kempty, none, by decide +kernel⟩⟩

theorem test_SmbusCommands_10_met :
    (∃ (s : State), s.power.aoOn = true ∧ fwRunning s = false) ∧
    (∃ (s : State) (p : Option Bool), s.power.aoOn = true ∧ fwRunning s = false ∧ pecBad s p = true) ∧
    (∃ (s : State) (o : Word) (d : List Byte) (p : Option Bool), s.power.aoOn = true ∧ fwRunning s = false ∧ pecBad s p = false
      ∧ 458752 < BitVec.toNat o + d.length) ∧
    (∃ (s : State) (o : Word) (d : List Byte) (p : Option Bool), s.power.aoOn = true ∧ fwRunning s = false ∧ pecBad s p = false
      ∧ BitVec.toNat o + d.length ≤ 458752) ∧
    (∃ (s : State) (p : Option Bool), s.power.aoOn = true ∧ fwRunning s = false ∧ pecBad s p = false) :=
  ⟨⟨sStop, by decide +kernel⟩,
   ⟨sStop, some false, by decide +kernel⟩,
   ⟨sStop, 458752, [1], none, by decide +kernel⟩,
   ⟨sStop, 0, [1], none, by decide +kernel⟩,
   ⟨sStop, none, by decide +kernel⟩⟩

theorem test_SmbusCommands_11_met :
    (∃ (s : State), s.power.aoOn = true ∧ s.power.alert = false) ∧
    (∃ (s : State), s.power.aoOn = true ∧ s.power.alert = true) :=
  ⟨⟨stMgmt, by decide +kernel⟩,
   ⟨stMgmt.mapPower (fun p => {p with alert := true}), by decide +kernel⟩⟩

end Sys2Proof.Tests.Baseboard

/-! ### Worked examples of the spec -/

namespace Sys2Proof.Tests.Examples
open Sys2Proof Sys2Proof.Machine

/-- 02_register_pages.md, example of core 37: its STRM page, and fold 2's FOLD page. -/
theorem test_core37_pages : slotStrm 37 * 0x1000 = 0x0012B000 ∧ slotFold 2 * 0x1000 = 0x00802000 := by decide

/-- 05_accumulation.md, example of the group integer 1,000 at E = 129: 62.5 in W64. -/
theorem test_group_integer : (W64.ofGroup 1000 129).words = [0, 0x021B7D00, 0] := by decide +kernel

/-- The same example: adding 2^-60 gives COMP = 0x2000; a further 2^-80 leaves COMP and sets INEXACT. -/
theorem test_w64_small_addends :
    (W64.add (W64.ofGroup 1000 129) (W64.ofF32 0x21800000)).words = [0, 0x021B7D00, 0x2000] ∧
    (W64.add (W64.add (W64.ofGroup 1000 129) (W64.ofF32 0x21800000)) (W64.ofF32 0x17800000)).words
      = [0, 0x421B7D00, 0x2000] := by decide +kernel

/-- 03_numbers_codebooks.md, conversion example: 5.2 takes E = 129, 9.0 takes 130, 0.3 takes 125 and 2.5 takes 128. -/
theorem test_block_exponents :
    [0x40A66666, 0x41100000, 0x3E99999A, 0x40200000].map (fun x => blockExp ⟨false, 0, 127⟩ [x])
      = [(129, false), (130, false), (125, false), (128, false)] := by decide +kernel

/-- The mantissas of the same example: 83, 72, 77 and, at the predicted E = 129, 40. -/
theorem test_block_mantissas :
    ConvForm.operand ⟨false, 0, 127⟩ 0x40A66666 129 = 83 ∧ ConvForm.operand ⟨false, 0, 127⟩ 0x41100000 130 = 72 ∧
    ConvForm.operand ⟨false, 0, 127⟩ 0x3E99999A 125 = 77 ∧ ConvForm.operand ⟨false, 0, 127⟩ 0x40200000 129 = 40 := by
  decide +kernel

/-- 06_attention_kv.md Table 6-7: T_start 6, T_page 64 and F 10 of one token of attention. -/
theorem test_attend_times :
    timeStart [0x31800060, 1, 0, 0, 0, 0, 0, 1024] = 6 ∧ timePage [0x31800060, 1, 0, 0, 0, 0, 0, 1024] 0 0 0 = 64 ∧
    timeFinish [0x31800060, 1, 0, 0, 0, 0, 0, 1024]
      [⟨0, 16128, [], List.replicate 256 0⟩, ⟨0, 16128, [], List.replicate 256 0⟩] = 10 := by decide +kernel

/-- 15_startup_module_edge.md R400 with 07_streams.md R188: the check value of a block of zeros. -/
theorem test_zero_check : blockCheck (List.replicate 512 0) = zeroCheck := by decide +kernel

end Sys2Proof.Tests.Examples

/-! ### Commands that the interface cannot carry -/

namespace Sys2Proof.Tests.IllFormed
open Sys2Proof

theorem test_wf_registerWrite_alignment : Instr.wf (.registerWrite 0 2 0) = false := by decide
theorem test_wf_registerWrite_window : Instr.wf (.registerWrite 0 0x4004000 0) = false := by decide
theorem test_wf_unsupportedAccess_empty : Instr.wf (.unsupportedAccess 0 2 0 true) = false := by decide
theorem test_wf_unsupportedAccess_window : Instr.wf (.unsupportedAccess 0 0x4000000 4 true) = false := by decide
theorem test_wf_evtLatchWrite_slot : Instr.wf (.evtLatchWrite 0 16384 0) = false := by decide
theorem test_wf_faultRecordWrite_slot : Instr.wf (.faultRecordWrite 16384) = false := by decide
theorem test_wf_parityReplay_address (r : Reader) : Instr.wf (.parityReplay r 0x100000000 true) = false := rfl
theorem test_wf_bar2Read_empty : Instr.wf (.bar2Read 0 0 0) = false := by decide
theorem test_wf_bar2Read_window : Instr.wf (.bar2Read 0 0xFFFFFFFF 2) = false := by decide
theorem test_wf_bar2Write_empty : Instr.wf (.bar2Write 0 0 ⟨[], false⟩) = false := by decide
theorem test_wf_bar2Write_window : Instr.wf (.bar2Write 0 0xFFFFFFFF ⟨[1, 2], true⟩) = false := by decide
theorem test_wf_codewordReceive_flits : Instr.wf (.codewordReceive 0 .clean ⟨0, []⟩) = false := by decide
theorem test_wf_recoveryWrite_empty : Instr.wf (.recoveryWrite 0 [] none) = false := by decide
theorem test_wf_recoveryWrite_long : Instr.wf (.recoveryWrite 0 (List.replicate 129 0) none) = false := by decide +kernel
theorem test_wf_registerWrite_good : Instr.wf (.registerWrite 0 0x4003FFC 0) = true := by decide

end Sys2Proof.Tests.IllFormed

namespace Sys2Proof.Tests.Notices
open Sys2Proof Sys2Proof.Machine

theorem test_ResetsRunThroughTheirPhases_5_notice_met : ∃ (d : RDom) (code dom unit : Nat),
    (∃ c, d = .core c ∧ code = 0x0901 ∧ dom = 1 ∧ unit = c.val) ∨ (∃ x, d = .fold x ∧ code = 0x0902 ∧ dom = 2 ∧ unit = x.val)
      ∨ (d = .compute ∧ code = 0x0903 ∧ dom = 3 ∧ unit = 0) ∨ (d = .herd ∧ code = 0x0904 ∧ dom = 4 ∧ unit = 0)
      ∨ (d = .paddock ∧ code = 0x0905 ∧ dom = 5 ∧ unit = 0) ∨ (∃ p, d = .port p ∧ code = 0x0906 ∧ dom = 7 ∧ unit = p.val)
      ∨ (d = .mgmt ∧ code = 0x0907 ∧ dom = 8 ∧ unit = 0) :=
  ⟨.port 3, 0x0906, 7, 3, by simp⟩

/-- The reset notices of 16_faults_recovery.md, by reset domain. -/
theorem test_reset_notice_codes : (rdomFault (.core 3) = 0x0901 ∧ rdomFault .host = 0x0701) ∧ rdomFault (.port 0) = 0x0906
    ∧ rdomFault .mgmt = 0x0907 ∧ rdomFault .module = 0x0908 := by decide

end Sys2Proof.Tests.Notices
end

/-! PROOFS. The frame of every command: the meanings whose frame is narrower than their laws say, then all 221. -/

namespace Sys2Proof.Machine

/-! ### A change of the host port's domain -/

/-- The stack periphery follows the folds alone (R388). -/
theorem stackSt_setDom_host (s : State) (v : Dom) : stackSt (s.setDom 25 v) = stackSt s := by
  unfold stackSt
  rw [List.foldl_ext _ (fun m f => max m (s.dom f).st.rank) 0]
  intro m f hf
  have hne : f ≠ 25 := by
    have := List.mem_range.mp hf
    omega
  rw [State.dom_setDom_other s v hne]

/-- No other domain follows the host port's (R388, R389). -/
theorem State.domSt_setDom_host (s : State) (v : Dom) {d : Nat} (h : d ≠ 25) : (s.setDom 25 v).domSt d = s.domSt d := by
  unfold State.domSt
  rw [State.dom_setDom_other s v (by decide : (24 : Nat) ≠ 25), State.dom_setDom_other s v (by decide : (23 : Nat) ≠ 25),
    State.dom_setDom_other s v h, stackSt_setDom_host]

/-- A follower that stays where it was counts nothing. -/
theorem countFollower_same {was : PSt} {s : State} {d : Nat} (h : s.domSt d = was) : countFollower was s d = s := by
  subst h
  exact if_neg (Nat.lt_irrefl _)

/-- The domain of the host port counts in no ENTRIES of a follower: registers stay. -/
theorem changeDom_host_keeps (s : State) (v : Dom) : Keeps [.evts, .power, .sharal] s (changeDom s 25 v) := by
  have hfollow : [24, 27].foldl (fun u x => if x = 25 then u else countFollower (s.domSt x) u x) (s.setDom 25 v)
      = s.setDom 25 v := by
    rw [List.foldl_cons, List.foldl_cons, List.foldl_nil, if_neg (by decide), if_neg (by decide),
      countFollower_same (State.domSt_setDom_host s v (by decide)), countFollower_same (State.domSt_setDom_host s v (by decide))]
  have hset : Keeps [.evts, .power, .sharal] s (s.setDom 25 v) := (State.setDom_keeps s 25 v).mono (by decide)
  unfold changeDom
  simp only [hfollow]
  refine Keeps.ite (fun _ => hset) (fun _ => Keeps.foldl _ _ (fun u i => ?_) ?_)
  · exact Keeps.ite (fun _ => Keeps.refl _ u) (fun _ => (traceEv_keeps ..).mono (by decide))
  · exact Keeps.cut (State.pulse_keeps ..) (by decide) hset

theorem perstDeassert_narrow (s : State) : Keeps [.evts, .host, .power, .sharal] s (perstDeassert s) := by
  have hpin : Keeps [.evts, .host, .power, .sharal] s (s.mapPower (fun p => { p with perst := false })) :=
    (State.mapPower_keeps ..).mono (by decide)
  unfold perstDeassert hostOn
  exact Keeps.ite (fun _ => Keeps.cut (State.mapHost_keeps ..) (by decide) (Keeps.cut (changeDom_host_keeps ..) (by decide) hpin))
    (fun _ => hpin)

/-! ### The critical event takes no slot of a store port -/

theorem removePins_narrow (s : State) (key : Nat) : Keeps [.cores] s (removePins s key) := Keeps.cores s _

theorem refuseImage_narrow (s : State) (i : Image) (reason : Nat) :
    Keeps [.regs, .evts, .mem, .cores, .drover, .host] s (refuseImage s i reason) := by
  unfold refuseImage
  refine Keeps.cut (imageAnswered_keeps ..) (by decide) (Keeps.cut (postRec_keeps ..) (by decide) ?_)
  refine Keeps.cut (State.pulse_keeps ..) (by decide) (Keeps.cut (State.mapDrover_keeps ..) (by decide) ?_)
  refine Keeps.cut (State.setReg_keeps ..) (by decide) (Keeps.cut (copyOut_keeps ..) (by decide) ?_)
  exact (removePins_narrow ..).mono (by decide)

theorem refusePinned_narrow (s : State) (keys : List Nat) :
    Keeps [.regs, .evts, .mem, .cores, .drover, .host] s (refusePinned s keys) :=
  Keeps.foldl _ _ (fun u i => refuseImage_narrow u i 0x21) (Keeps.refl _ s)

theorem imagesLost_narrow (s : State) : Keeps [.regs, .evts, .mem, .cores, .drover, .host] s (imagesLost s) := by
  unfold imagesLost
  refine Keeps.cut (State.mapDrover_keeps ..) (by decide)
    (Keeps.cut (State.mapMem_keeps _ _ (fun _ hm => Memory.zeroRange_wf _ _ _ hm)) (by decide) ?_)
  exact Keeps.foldl _ _ (fun u i => Keeps.cut (imageAnswered_keeps ..) (by decide) ((postRec_keeps ..).mono (by decide)))
    (refusePinned_narrow ..)

/-- What the critical event may change (R394). -/
abbrev critParts : List Part :=
  [.regs, .evts, .faults, .mem, .cores, .drover, .herd, .paddock, .fabric, .host, .power, .resets, .sharal, .free]

theorem critical_narrow (s : State) : Keeps critParts s (critical s) := by
  unfold critical
  refine Keeps.cut (critDone_keeps ..) (by decide) (Keeps.cut (smbAlert_keeps ..) (by decide) ?_)
  refine Keeps.cut (State.mapPower_keeps ..) (by decide) (Keeps.cut (mandatory_keeps ..) (by decide) ?_)
  refine Keeps.foldl _ _ (fun u d => (critOff_keeps u d).mono (by decide)) ?_
  refine Keeps.cut (imagesLost_narrow ..) (by decide) (Keeps.cut (paddockReset_keeps ..) (by decide) ?_)
  refine Keeps.cut (abortWhere_keeps ..) (by decide) (Keeps.cut (haltBanks_keeps ..) (by decide) ?_)
  refine Keeps.cut (Keeps.resets ..) (by decide) (Keeps.cut (State.pulse_keeps ..) (by decide) ?_)
  exact Keeps.cut (State.pulse_keeps ..) (by decide) ((State.fault_keeps ..).mono (by decide))

theorem sensorSample_narrow (s : State) (t : List (BitVec 16)) : Keeps critParts s (sensorSample s t) := by
  have hpower : ∀ u f, Keeps critParts u (u.mapPower f) := fun u f => (State.mapPower_keeps u f).mono (by decide)
  have halert : ∀ u, Keeps critParts u (smbAlert u 0) := fun u => (smbAlert_keeps u 0).mono (by decide)
  unfold sensorSample
  refine Keeps.ite (fun _ => Keeps.trans ?_ (critical_narrow _)) (fun _ => ?_)
  all_goals exact Keeps.ite (fun _ => ((hpower _ _).trans (hpower _ _)).trans (halert _)) (fun _ => (hpower _ _).trans (hpower _ _))

theorem execSensorSample_narrow {x : Vector (BitVec 16) 96} {s t' : State} (h' : execSensorSample x s = .next t') :
    Keeps critParts s t' := by
  injection h' with h'
  subst h'
  exact Keeps.onlyIf _ _ (sensorSample_narrow s x.toList) (Keeps.refl _ s)

theorem execPerstDeassert_narrow {s t' : State} (h' : execPerstDeassert s = .next t') :
    Keeps [.evts, .host, .power, .sharal] s t' := by
  injection h' with h'
  subst h'
  exact perstDeassert_narrow s

/-! ### The frame of every command -/

/-- A command changes the parts that its rules name, and a sound state stays sound: the frame of each command's meaning. -/
theorem exec_keeps {s t : State} : (c : Instr) → exec c s = .next t → Keeps (partsOf c) s t
  | .registerWrite .., h => execRegisterWrite_keeps h
  | .unsupportedAccess .., h => execUnsupportedAccess_keeps h
  | .evtLatchWrite .., h => execEvtLatchWrite_narrow h
  | .faultRecordWrite .., h => execFaultRecordWrite_keeps h
  | .roleApply .., h => execRoleApply_narrow h
  | .roleChangeComplete, h => execRoleChangeComplete_keeps h
  | .codebookLoad .., h => execCodebookLoad_keeps h
  | .codebookLoadComplete .., h => execCodebookLoadComplete_keeps h
  | .pinnedLoad .., h => execPinnedLoad_keeps h
  | .pinnedSlotReload .., h => execPinnedSlotReload_keeps h
  | .pinReload .., h => execPinReload_keeps h
  | .matmul .., h => execMatmul_keeps h
  | .matmulStart .., h => execMatmulStart_keeps h
  | .arrayStep .., h => execArrayStep_keeps h
  | .matmulComplete .., h => execMatmulComplete_keeps h
  | .drain .., h => execDrain_keeps h
  | .drainStart .., h => execDrainStart_keeps h
  | .drainTileRelease .., h => execDrainTileRelease_keeps h
  | .drainComplete .., h => execDrainComplete_keeps h
  | .tileStore .., h => execTileStore_keeps h
  | .tileLoad .., h => execTileLoad_keeps h
  | .tileAdd .., h => execTileAdd_keeps h
  | .tileTransferStart .., h => execTileTransferStart_keeps h
  | .tileTransferRelease .., h => execTileTransferRelease_keeps h
  | .tileTransferComplete .., h => execTileTransferComplete_keeps h
  | .attend .., h => execAttend_keeps h
  | .attendStart .., h => execAttendStart_keeps h
  | .attendBlock .., h => execAttendBlock_keeps h
  | .attendComplete .., h => execAttendComplete_keeps h
  | .arm .., h => execArm_keeps h
  | .rearm .., h => execRearm_keeps h
  | .rearmTakeEffect .., h => execRearmTakeEffect_keeps h
  | .swap .., h => execSwap_keeps h
  | .halvesSwap .., h => execHalvesSwap_keeps h
  | .disarm .., h => execDisarm_keeps h
  | .disarmComplete .., h => execDisarmComplete_keeps h
  | .portGrant .., h => execPortGrant_keeps h
  | .transferComplete .., h => execTransferComplete_keeps h
  | .channelPrimed .., h => execChannelPrimed_keeps h
  | .parityReplay .., h => execParityReplay_keeps h
  | .dlead .., h => execDlead_keeps h
  | .djoin .., h => execDjoin_keeps h
  | .chainBlockForward .., h => execChainBlockForward_keeps h
  | .chainBlockArrive .., h => execChainBlockArrive_keeps h
  | .chainMarkerArrive .., h => execChainMarkerArrive_keeps h
  | .chainCreditReturn .., h => execChainCreditReturn_keeps h
  | .chainDetach .., h => execChainDetach_keeps h
  | .droveTimeout .., h => execDroveTimeout_keeps h
  | .submit, h => execSubmit_keeps h
  | .reside, h => execReside_keeps h
  | .imageResident .., h => execImageResident_keeps h
  | .retire, h => execRetire_keeps h
  | .imageRetired .., h => execImageRetired_keeps h
  | .templateSet, h => execTemplateSet_keeps h
  | .templateClear, h => execTemplateClear_keeps h
  | .ledgerSlotAdvance, h => execLedgerSlotAdvance_keeps h
  | .taskDispatch .., h => execTaskDispatch_keeps h
  | .taskSuspend .., h => execTaskSuspend_keeps h
  | .suspendDrained .., h => execSuspendDrained_keeps h
  | .suspendSaveComplete .., h => execSuspendSaveComplete_keeps h
  | .taskResume .., h => execTaskResume_keeps h
  | .restoreComplete .., h => execRestoreComplete_keeps h
  | .endInstr .., h => execEndInstr_keeps h
  | .undefinedInstruction .., h => execUndefinedInstruction_keeps h
  | .taskComplete .., h => execTaskComplete_keeps h
  | .overrun .., h => execOverrun_keeps h
  | .reserveExhausted .., h => execReserveExhausted_keeps h
  | .instanceAbort, h => execInstanceAbort_keeps h
  | .ledgerSnap .., h => execLedgerSnap_narrow h
  | .herdJobStart, h => execHerdJobStart_keeps h
  | .herdRecordRead, h => execHerdRecordRead_keeps h
  | .herdRecordOutput, h => execHerdRecordOutput_keeps h
  | .herdJobComplete, h => execHerdJobComplete_keeps h
  | .paddockBankSearch .., h => execPaddockBankSearch_keeps h
  | .searchReplay .., h => execSearchReplay_keeps h
  | .theftPc, h => execTheftPc_keeps h
  | .paddockJobStart, h => execPaddockJobStart_keeps h
  | .paddockOpEnqueue, h => execPaddockOpEnqueue_keeps h
  | .insert .., h => execInsert_keeps h
  | .remove .., h => execRemove_keeps h
  | .write .., h => execWrite_keeps h
  | .setvalid .., h => execSetvalid_keeps h
  | .clear .., h => execClear_keeps h
  | .rebuild .., h => execRebuild_keeps h
  | .rebuildStep .., h => execRebuildStep_keeps h
  | .paddockJobComplete, h => execPaddockJobComplete_keeps h
  | .padkCtrlWrite .., h => execPadkCtrlWrite_narrow h
  | .rwrite .., h => execRwrite_keeps h
  | .rread .., h => execRread_keeps h
  | .radd .., h => execRadd_keeps h
  | .rbell .., h => execRbell_keeps h
  | .packetSend .., h => execPacketSend_keeps h
  | .packetForward .., h => execPacketForward_keeps h
  | .writeReceive, h => execWriteReceive_keeps h
  | .readReceive, h => execReadReceive_keeps h
  | .atomicReceive, h => execAtomicReceive_keeps h
  | .doorbellReceive, h => execDoorbellReceive_keeps h
  | .doorbellHandover, h => execDoorbellHandover_keeps h
  | .readDataReceive, h => execReadDataReceive_keeps h
  | .ackReceive, h => execAckReceive_keeps h
  | .mcBlockReceive, h => execMcBlockReceive_keeps h
  | .mcMarkerReceive, h => execMcMarkerReceive_keeps h
  | .ralsoTimeout .., h => execRalsoTimeout_keeps h
  | .mcastPrune .., h => execMcastPrune_keeps h
  | .codewordReceive .., h => execCodewordReceive_keeps h
  | .controlFlitReceive .., h => execControlFlitReceive_keeps h
  | .nakReceive .., h => execNakReceive_keeps h
  | .retrainTimeout .., h => execRetrainTimeout_keeps h
  | .linkTrain .., h => execLinkTrain_narrow h
  | .trainingComplete .., h => execTrainingComplete_keeps h
  | .selfWrite .., h => execSelfWrite_narrow h
  | .dimsWrite .., h => execDimsWrite_narrow h
  | .rtDataAccess .., h => execRtDataAccess_keeps h
  | .mgmtRead, h => execMgmtRead_keeps h
  | .mgmtWrite, h => execMgmtWrite_keeps h
  | .mgmtTallyRead, h => execMgmtTallyRead_keeps h
  | .mgmtResultReceive, h => execMgmtResultReceive_keeps h
  | .neighbourTimeout, h => execNeighbourTimeout_keeps h
  | .bar2Read .., h => execBar2Read_keeps h
  | .bar2Write .., h => execBar2Write_keeps h
  | .bar2Timeout, h => execBar2Timeout_keeps h
  | .challenge .., h => execChallenge_narrow h
  | .answer .., h => execAnswer_narrow h
  | .nonceLapse .., h => execNonceLapse_keeps h
  | .lockEnd .., h => execLockEnd_keeps h
  | .close .., h => execClose_narrow h
  | .sessionNumberFree .., h => execSessionNumberFree_keeps h
  | .attach .., h => execAttach_narrow h
  | .detach .., h => execDetach_narrow h
  | .keySelWrite .., h => execKeySelWrite_narrow h
  | .keySelErase .., h => execKeySelErase_narrow h
  | .sqDoorbell .., h => execSqDoorbell_narrow h
  | .commandFetch .., h => execCommandFetch_keeps h
  | .qCtrlWrite .., h => execQCtrlWrite_narrow h
  | .queueDrained .., h => execQueueDrained_keeps h
  | .completionWrite .., h => execCompletionWrite_keeps h
  | .ctxOpen, h => execCtxOpen_keeps h
  | .ctxRoot, h => execCtxRoot_keeps h
  | .ctxRelease, h => execCtxRelease_keeps h
  | .contextFreed .., h => execContextFreed_keeps h
  | .xferIn .., h => execXferIn_keeps h
  | .xferOut, h => execXferOut_keeps h
  | .xferDone, h => execXferDone_keeps h
  | .infoSelSnap .., h => execInfoSelSnap_narrow h
  | .functionLevelReset .., h => execFunctionLevelReset_keeps h
  | .d3hotEntry .., h => execD3hotEntry_keeps h
  | .vfEnableClear, h => execVfEnableClear_keeps h
  | .perstAssert, h => execPerstAssert_keeps h
  | .pcieHotReset, h => execPcieHotReset_keeps h
  | .wake .., h => execWake_narrow h
  | .hold .., h => execHold_narrow h
  | .release .., h => execRelease_narrow h
  | .doze .., h => execDoze_narrow h
  | .nap .., h => execNap_narrow h
  | .off .., h => execOff_narrow h
  | .on .., h => execOn_narrow h
  | .idleEntry .., h => execIdleEntry_keeps h
  | .portIdleEntry .., h => execPortIdleEntry_keeps h
  | .dieNetworkDoze, h => execDieNetworkDoze_keeps h
  | .domainTransitionComplete .., h => execDomainTransitionComplete_keeps h
  | .domPolicyWrite .., h => execDomPolicyWrite_narrow h
  | .sensorSample .., h => execSensorSample_narrow h
  | .resume .., h => execResume_narrow h
  | .cautionSet .., h => execCautionSet_narrow h
  | .supplySample .., h => execSupplySample_keeps h
  | .underVoltage, h => execUnderVoltage_keeps h
  | .overVoltage, h => execOverVoltage_keeps h
  | .supplyRestore .., h => execSupplyRestore_keeps h
  | .referenceLoss, h => execReferenceLoss_keeps h
  | .referenceReturn .., h => execReferenceReturn_keeps h
  | .powerUp .., h => execPowerUp_keeps h
  | .modRstAssert, h => execModRstAssert_keeps h
  | .hangDetect, h => execHangDetect_keeps h
  | .heartbeatCheck .., h => execHeartbeatCheck_keeps h
  | .watchdogExpire, h => execWatchdogExpire_keeps h
  | .resetCommand .., h => execResetCommand_narrow h
  | .resetDrainEnd .., h => execResetDrainEnd_keeps h
  | .sampleReadTimeout .., h => execSampleReadTimeout_keeps h
  | .resetAssert .., h => execResetAssert_keeps h
  | .resetComplete .., h => execResetComplete_keeps h
  | .resetEscalate .., h => execResetEscalate_keeps h
  | .dumpArm .., h => execDumpArm_narrow h
  | .aoClear .., h => execAoClear_narrow h
  | .aoDataRead .., h => execAoDataRead_keeps h
  | .faultCopyTake, h => execFaultCopyTake_keeps h
  | .tallyRecordClose, h => execTallyRecordClose_keeps h
  | .tallyProgram, h => execTallyProgram_keeps h
  | .hoursIncrement, h => execHoursIncrement_keeps h
  | .fwUpdate, h => execFwUpdate_keeps h
  | .fwConfirm, h => execFwConfirm_keeps h
  | .rollbackCommit, h => execRollbackCommit_keeps h
  | .ownerSet, h => execOwnerSet_keeps h
  | .fabricSave, h => execFabricSave_keeps h
  | .fabricErase, h => execFabricErase_keeps h
  | .neighbour, h => execNeighbour_keeps h
  | .readBoot, h => execReadBoot_keeps h
  | .readReg .., h => execReadReg_keeps h
  | .writeReg .., h => execWriteReg_keeps h
  | .tallyRead .., h => execTallyRead_keeps h
  | .aoRead .., h => execAoRead_keeps h
  | .smbOwnerSet .., h => execSmbOwnerSet_keeps h
  | .lastStatus, h => execLastStatus_keeps h
  | .recoveryWrite .., h => execRecoveryWrite_keeps h
  | .recoveryCommit .., h => execRecoveryCommit_keeps h
  | .recoveryStatus, h => execRecoveryStatus_keeps h
  | .smbAlertResponse, h => execSmbAlertResponse_keeps h
  | .traceStart .., h => execTraceStart_narrow h
  | .traceStop .., h => execTraceStop_narrow h
  | .traceCopy .., h => execTraceCopy_narrow h
  | .traceCopyDone, h => execTraceCopyDone_keeps h
  | .traceDataRead .., h => execTraceDataRead_keeps h
  | .counterStart .., h => execCounterStart_narrow h
  | .counterStop .., h => execCounterStop_narrow h
  | .counterClear .., h => execCounterClear_narrow h
  | .tallyLoad .., h => execTallyLoad_narrow h
  | .tallyClear .., h => execTallyClear_narrow h
  | .perstDeassert, h => execPerstDeassert_narrow h
  | .powerLoss, h => execPowerLoss_keeps h
  | .linkDown .., h => execLinkDown_keeps h
  | .peerStartsTraining .., h => execPeerStartsTraining_keeps h
  | .mailboxResponse, h => execMailboxResponse_keeps h

/-- Settles O4: the frame of each command is that of its meaning. -/
theorem commandsChangeOnlyTheirParts : Obligations.CommandsChangeOnlyTheirParts :=
  fun c _ _ h => (exec_keeps c h).only

end Sys2Proof.Machine

/-! PROOFS. A step, and how a register access takes effect. -/

namespace Sys2Proof.Machine

/-! ### What a frame says of one part -/

theorem Only.now_eq {ps : List Part} {s t : State} (h : Only ps s t) (hp : Part.now ∉ ps) : t.now = s.now := h.2 .now hp
theorem Only.evts_eq {ps : List Part} {s t : State} (h : Only ps s t) (hp : Part.evts ∉ ps) : t.evts = s.evts := h.2 .evts hp
theorem Only.slots_eq {ps : List Part} {s t : State} (h : Only ps s t) (hp : Part.slots ∉ ps) : t.slots = s.slots := h.2 .slots hp

/-! ### A step -/

/-- What the rest of a fast cycle may change, once the cycle is counted and the slots are those of the new cycle. -/
abbrev cycleParts : List Part := [.regs, .evts, .faults, .mem, .soft, .cores, .drover, .herd, .paddock, .fabric, .host,
  .power, .resets, .sharal, .roles, .out, .free]

/-- The fast cycle of the always-on domain: the events are latched, the cycle is counted with its slots, the rest follows. -/
theorem tick_counted (s : State) (h : s.power.aoOn = true) : Keeps cycleParts
    { latchAll s with now := (latchAll s).now + 1, slots := nextSlots (latchAll s).slots, soft := [] } (tick s) := by
  unfold tick
  rw [if_neg (by simp [h])]
  refine Keeps.cut (traceWrite_keeps _) (by decide) (Keeps.cut (drainWaits_keeps _) (by decide) ?_)
  refine Keeps.cut (hostLink_keeps _) (by decide) (Keeps.cut (bar0Line_keeps _) (by decide) ?_)
  exact Keeps.foldl _ _ (fun u d => (busyDom_keeps u d).mono (by decide)) ((tickUnits_keeps _).mono (by decide))

theorem tick_now (s : State) (h : s.power.aoOn = true) : (tick s).now = s.now + 1 := by
  rw [(tick_counted s h).only.now_eq (by decide), (latchAll_keeps s).only.now_eq (by decide)]

theorem tick_slots (s : State) (h : s.power.aoOn = true) : (tick s).slots = nextSlots s.slots := by
  rw [(tick_counted s h).only.slots_eq (by decide), (latchAll_keeps s).only.slots_eq (by decide)]

theorem tick_pending (s : State) : (tick s).pending = s.pending := (tick_keeps s).only.1

theorem tick_unpowered (s : State) (h : s.power.aoOn = false) : tick s = s :=
  if_pos (by simp [h])

theorem step_empty {s : State} (h : s.pending = []) : step s = .next (tick s) := by
  unfold step
  rw [h]

/-- Settles O1: the queue's front is taken off and carried out. -/
theorem stepRunsFront : Obligations.StepRunsFront :=
  fun _ _ _ => rfl

/-- Settles O2: on an empty queue the step is the fast cycle, which counts itself and moves the slots on. -/
theorem stepOnEmptyQueueIsAFastCycle : Obligations.StepOnEmptyQueueIsAFastCycle := by
  intro s hq
  refine ⟨fun hp => ⟨tick s, step_empty hq, tick_now s hp, (tick_pending s).trans hq, tick_slots s hp⟩, fun hp => ?_⟩
  rw [step_empty hq, tick_unpowered s hp]

/-! ### A register write, page by page -/

/-- A write that reaches a register is the write of its page. -/
theorem registerWrite_page {s : State} {f : FuncId} {slot off : Nat} (ho : off < 0x1000) (h : Reaches s f (regAt slot off))
    (v : Word) : exec (.registerWrite f (regAt slot off) v) s
      = .next (pageWrite s.fromHost f (isOwner s.fromHost f) slot off v) := by
  show Host.Outcome.next (barWrite s f (regAt slot off) v) = _
  rw [barWrite_reaches h v, regAt_page slot ho, regAt_offset slot ho]

theorem isSelect_low (slot : Nat) {off : Nat} (h : off < 0xB00) : isSelect slot off = false := by
  unfold isSelect
  rw [decide_eq_false (by omega), Bool.false_and]

theorem pageWrite_header (s : State) (f : FuncId) (o : Bool) (slot : Nat) {off : Nat} (v : Word) (h : off < 0x040) :
    pageWrite s f o slot off v = headerWrite s slot off v :=
  if_pos h

/-- Beyond the header and below the counter selects, a write to a queue's page is one of its registers. -/
theorem pageWrite_queue (s : State) (f : FuncId) (o : Bool) (q : QueueId) {off : Nat} (v : Word) (h : 0x040 ≤ off)
    (hs : off < 0xB00) : pageWrite s f o (slotQueue q.val) off v = queueWrite s q.val off v := by
  unfold pageWrite blockWrite
  rw [if_neg (by omega), isSelect_low _ hs, pageKind_queue]
  rfl

/-- The pages of a core's units. -/
theorem pageKind_coreUnit (c : CoreId) (k : Fin 5) : pageKind (8 * c.val + k.val)
    ∈ [PageKind.core c.val, .arr c.val, .att c.val, .strm c.val, .drove c.val] := by
  have hlow : 8 * c.val + k.val < 0x800 := by omega
  have hdiv : (8 * c.val + k.val) / 8 = c.val := by omega
  have hmod : (8 * c.val + k.val) % 8 = k.val := by omega
  unfold pageKind
  rw [if_pos hlow, hdiv, hmod]
  fin_cases k <;> simp

/-- Beyond the header and below the counter selects, no register of a core's units is written. -/
theorem pageWrite_coreUnit (s : State) (f : FuncId) (o : Bool) (c : CoreId) (k : Fin 5) {off : Nat} (v : Word)
    (h : 0x040 ≤ off) (hs : off < 0xB00) : pageWrite s f o (8 * c.val + k.val) off v = s := by
  have hkind := pageKind_coreUnit c k
  unfold pageWrite blockWrite
  rw [if_neg (by omega), isSelect_low _ hs]
  simp only [List.mem_cons, List.not_mem_nil, or_false] at hkind
  rcases hkind with hk | hk | hk | hk | hk <;> rw [hk] <;> rfl

/-- The offsets of a page's header that are read-only or reserved (R36, R37). -/
abbrev readOnlyHeader : List Nat :=
  [0x000, 0x004, 0x00C, 0x010, 0x01C, 0x020, 0x024, 0x028, 0x02C, 0x030, 0x034, 0x038, 0x03C]

theorem readOnlyHeader_low : ∀ off ∈ readOnlyHeader, off < 0x040 := by decide

theorem readOnlyHeader_ne : ∀ off ∈ readOnlyHeader, off ≠ 0x008 ∧ off ≠ 0x014 ∧ off ≠ 0x018 := by decide

theorem headerWrite_readOnly (s : State) (slot : Nat) {off : Nat} (v : Word) (h : off ∈ readOnlyHeader) :
    headerWrite s slot off v = s := by
  obtain ⟨hctrl, hen, hlatch⟩ := readOnlyHeader_ne off h
  unfold headerWrite
  split
  · exact absurd rfl hctrl
  · exact absurd rfl hen
  · exact absurd rfl hlatch
  · rfl

/-- A base of a queue is written while the queue is disabled and not draining (R360). -/
theorem queueBase_idle {s : State} {q : Nat} (he : (s.queue q).enable = false) (hd : (s.queue q).draining = false) (off : Nat)
    (v : Word) : queueBase s q off v = s.setReg (slotQueue q) off v :=
  if_neg (by simp [he, hd])

theorem queueBase_busy {s : State} {q : Nat} (h : (s.queue q).enable = true ∨ (s.queue q).draining = true) (off : Nat)
    (v : Word) : queueBase s q off v = s :=
  if_pos (by simpa using h)

/-- A register all of whose bits are kept. -/
theorem and_allBits (v : Word) : v &&& 0xFFFFFFFF#32 = v := BitVec.and_allOnes

/-- Registers that are read-write and start nothing, as page, offset and bits (Tables 12-16, 13-10, 13-11, 16-10, 17-16,
17-19). -/
abbrev plainRegs : List (Nat × Nat × Word) :=
  [(slotMgmt, 0x190, 0xFFFFF000#32), (slotMgmt, 0x194, 0xFFFFFFFF#32), (slotMgmt, 0x198, 0xFFFFFE00#32),
   (slotMgmt, 0x240, 0xC000000F#32), (slotMgmt, 0x254, 0xC0000000#32), (slotMgmt, 0x318, 0x00003FFF#32),
   (slotMgmt, 0x328, 0xFFFFF000#32), (slotRoute, 0x048, 0x00FFFFFF#32), (slotRoute, 0x04C, 0x0000FFFF#32),
   (slotTally, 0x058, 0xFFFFFFFF#32), (slotHost, 0x100, 0x0000001F#32), (slotHost, 0x204, 0x07FF03FF#32),
   (slotHost, 0x804, 0x07FF00FF#32), (slotHost, 0x820, 0xFFFFFFFF#32), (slotHost, 0x83C, 0xFFFFFFFF#32)]

/-- Registers of the same sort that hardware updates too (00_scope.md R13). -/
abbrev softRegs : List (Nat × Nat × Word) :=
  [(slotMgmt, 0x1A8, 0x80003FFF#32), (slotMgmt, 0x320, 0x8003FFFF#32), (slotRoute, 0x050, 0x80000FFF#32)]

theorem plainRegs_offset : ∀ r ∈ plainRegs, r.2.1 < 0x1000 := by decide

theorem softRegs_offset : ∀ r ∈ softRegs, r.2.1 < 0x1000 := by decide

theorem pageWrite_plain (s : State) (f : FuncId) (o : Bool) (v : Word) :
    ∀ r ∈ plainRegs, pageWrite s f o r.1 r.2.1 v = s.setReg r.1 r.2.1 (v &&& r.2.2) := by
  have hall : ∀ slot off, s.setReg slot off v = s.setReg slot off (v &&& 0xFFFFFFFF#32) :=
    fun _ _ => by rw [and_allBits]
  simp only [List.forall_mem_cons, List.not_mem_nil, false_imp_iff, implies_true, and_true]
  exact ⟨rfl, rfl, rfl, rfl, rfl, rfl, rfl, rfl, rfl, hall _ _, rfl, rfl, rfl, hall _ _, hall _ _⟩

theorem pageWrite_soft (s : State) (f : FuncId) (o : Bool) (v : Word) :
    ∀ r ∈ softRegs, pageWrite s f o r.1 r.2.1 v = s.softReg r.1 r.2.1 (v &&& r.2.2) := by
  simp only [List.forall_mem_cons, List.not_mem_nil, false_imp_iff, implies_true, and_true]
  exact ⟨rfl, rfl, rfl⟩

/-! ### How an access arrives -/

theorem barWrite_waits {s : State} {f : FuncId} (ha : answers s f = true) (hw : bar0Waits s f = true) (a : Nat) (v : Word) :
    barWrite s f a v = bar2Wait s.fromHost { func := f, addr := a, len := 4, data := some (leBytes 4 v.toNat), bar0 := true
                                             ep := false, since := s.now, done := 0, got := [] } := by
  unfold barWrite
  rw [if_neg (by simp [ha]), if_pos hw]

theorem barWrite_unanswered {s : State} {f : FuncId} (h : answers s f = false) (a : Nat) (v : Word) : barWrite s f a v = s :=
  if_pos (by simp [h])

theorem barWrite_served {s : State} {f : FuncId} (h : Served s f) (a : Nat) (v : Word) :
    barWrite s f a v = barNow s.fromHost f a v := by
  obtain ⟨ha, hw⟩ := h
  unfold barWrite
  rw [if_neg (by simp [ha]), if_neg (by simp [hw])]

/-- Settles O7: where an access is served the write is that of its page, and each register named is one of the page's write. -/
theorem registerWriteStoresItsBits : Obligations.RegisterWriteStoresItsBits := by
  refine ⟨?reaches, ?waits, ?enable, ?plain, ?soft, ?queueIdle, ?queueBusy, ?header, ?coreUnit, ?unanswered, ?total⟩
  case reaches => exact fun s f off v h => congrArg Host.Outcome.next (barWrite_reaches h v)
  case waits => exact fun s f off v ha hw => congrArg Host.Outcome.next (barWrite_waits ha hw off v)
  case enable =>
    intro s f slot v h
    rw [registerWrite_page (by decide) h, pageWrite_header _ _ _ _ _ (by decide)]
    rfl
  case plain =>
    intro s f v r hr h
    rw [registerWrite_page (plainRegs_offset r hr) h, pageWrite_plain _ _ _ _ r hr]
  case soft =>
    intro s f v r hr h
    rw [registerWrite_page (softRegs_offset r hr) h, pageWrite_soft _ _ _ _ r hr]
  case queueIdle =>
    intro s f q v h he hd
    rw [registerWrite_page (by decide) h, pageWrite_queue _ _ _ _ _ (by decide) (by decide)]
    exact congrArg Host.Outcome.next (queueBase_idle he hd _ _)
  case queueBusy =>
    intro s f q v h hb
    rw [registerWrite_page (by decide) h, pageWrite_queue _ _ _ _ _ (by decide) (by decide)]
    exact congrArg Host.Outcome.next (queueBase_busy hb _ _)
  case header =>
    intro s f slot off v hoff h
    have hlow := readOnlyHeader_low off hoff
    rw [registerWrite_page (by omega) h, pageWrite_header _ _ _ _ _ hlow, headerWrite_readOnly _ _ _ hoff]
  case coreUnit =>
    intro s f c k off v hlo hhi h
    rw [registerWrite_page (by omega) h, pageWrite_coreUnit _ _ _ _ _ _ hlo hhi]
  case unanswered => exact fun s f off v h => congrArg Host.Outcome.next (barWrite_unanswered h off v)
  case total => exact fun s f off v => ⟨barWrite s f off v, rfl⟩

/-! ### Unsupported accesses -/

/-- A served write that the function may not make, or to a page in nap, off or reset, is unsupported (R9, R34, R35, R40). -/
theorem barNow_bad {s : State} {f : FuncId} {a : Nat} (hb : inBar4 a = false)
    (h : a % 4 ≠ 0 ∨ mayWrite s f (a / 0x1000) (a % 0x1000) = false ∨ 2 ≤ s.dstate (a / 0x1000)) (v : Word) :
    barNow s f a v = unsupported s := by
  unfold barNow
  rw [if_neg (by simp [hb]), if_pos h]

/-- A served access that R9, R34, R35 or R40 treats as unsupported takes effect as such. -/
theorem unsupportedAccess_served {s : State} {f : FuncId} {off size : Nat} {write : Bool} (h : Served s f)
    (hbad : accessBad s f off size write = true) :
    unsupportedAccess s f off size write = unsupportedNow s.fromHost f size write := by
  obtain ⟨ha, hw⟩ := h
  unfold unsupportedAccess
  rw [if_neg (by simp [ha, hbad]), if_neg (by simp [hw])]

theorem accessBad_write {s : State} {f : FuncId} {off size : Nat} (hb : inBar4 off = false)
    (h : size ≠ 4 ∨ off % 4 ≠ 0 ∨ mayWrite s f (off / 0x1000) (off % 0x1000) = false ∨ 2 ≤ s.dstate (off / 0x1000)) :
    accessBad s f off size true = true := by
  unfold accessBad
  simpa [hb, or_assoc] using h

theorem accessBad_read {s : State} {f : FuncId} {off size : Nat} (hb : inBar4 off = false)
    (h : size ≠ 4 ∨ off % 4 ≠ 0 ∨ mayRead s f (off / 0x1000) (off % 0x1000) = false) :
    accessBad s f off size false = true := by
  unfold accessBad
  simpa [hb, or_assoc] using h

/-- UNSUPPORTED is no register that an event counter shares. -/
theorem unsupported_eq (s : State) :
    unsupported s = (s.setReg slotHost 0x108 (s.reg slotHost 0x108 + 1)).pulse slotHost 2 := rfl

theorem bit_or (v w : Word) (i : Nat) : bit (v ||| w) i = (bit v i || bit w i) := BitVec.getLsbD_or

theorem bit_flag_same {i : Nat} (h : i < 32) : bit (flag true i) i = true := by
  show (BitVec.ofNat 32 (2 ^ i)).getLsbD i = true
  rw [BitVec.getLsbD_ofNat, Nat.testBit_two_pow_self, decide_eq_true h, Bool.and_self]

theorem pulse_pulses (s : State) (slot : Nat) {i : Nat} (h : i < 32) : bit ((s.pulse slot i).evt slot).pulses i = true := by
  unfold State.pulse
  rw [State.evt_setEvt_same]
  show bit ((s.evt slot).pulses ||| flag true i) i = true
  rw [bit_or, bit_flag_same h, Bool.or_true]

/-- Settles O8: a served access of this kind is `unsupported` alone, which counts in one register and pulses one event. -/
theorem unsupportedAccessIsCounted : Obligations.UnsupportedAccessIsCounted := by
  refine ⟨?write, ?read, ?register, ?effect⟩
  case write =>
    exact fun s f off size h hb hbad => congrArg Host.Outcome.next (unsupportedAccess_served h (accessBad_write hb hbad))
  case read =>
    exact fun s f off size h hb hbad => congrArg Host.Outcome.next (unsupportedAccess_served h (accessBad_read hb hbad))
  case register =>
    exact fun s f off v h hb hbad => congrArg Host.Outcome.next ((barWrite_served h off v).trans (barNow_bad hb hbad v))
  case effect =>
    intro s
    refine ⟨?_, ?_, (unsupported_keeps s).only⟩
    · rw [unsupported_eq]
      exact State.reg_setReg_same s slotHost 0x108 _
    · rw [unsupported_eq]
      exact pulse_pulses _ _ (by decide)

end Sys2Proof.Machine

/-! PROOFS. The events of a page: its output, its message and its latched bits. -/

namespace Sys2Proof.Machine

/-! ### Registers below the counters -/

theorem counterCount_le (slot : Nat) : counterCount slot ≤ 64 := by
  unfold counterCount
  split <;> decide

/-- Event counters stand from 0xC00 on: counting changes no register below. -/
theorem countOn_reg (s : State) (page code n : Nat) (ok : Word → Bool) (slot : Nat) {off : Nat} (h : off < 0xC00) :
    (countOn s page code n ok).reg slot off = s.reg slot off := by
  unfold countOn
  split
  · rfl
  · refine List.foldlRecOn (motive := fun u => State.reg u slot off = s.reg slot off) _ _ rfl (fun u hu i hi => ?_)
    have hcount := List.mem_range.mp hi
    have hle := counterCount_le page
    have hne : regAt slot off ≠ regAt page (0xC00 + 4 * i) := by
      rw [Ne, regAt_inj (by omega) (by omega)]
      omega
    dsimp only
    split
    · rw [State.reg_setReg_other u _ hne, hu]
    · exact hu

theorem countEvent_reg (s : State) (page code n : Nat) (slot : Nat) {off : Nat} (h : off < 0xC00) :
    (countEvent s page code n).reg slot off = s.reg slot off := by
  unfold countEvent
  split
  · rfl
  · split
    · rw [countOn_reg _ _ _ _ _ _ h, countOn_reg _ _ _ _ _ _ h]
    · exact countOn_reg _ _ _ _ _ _ h

theorem sendVector_reg (s : State) (f v : Nat) (slot : Nat) {off : Nat} (h : off < 0xC00) :
    (sendVector s f v).reg slot off = s.reg slot off := by
  unfold sendVector State.toHost
  split
  · rfl
  · rw [countEvent_reg _ _ _ _ _ h]
    rfl

/-- A page's message may be counted as an event; it changes no register below the counters. -/
theorem evtMsg_reg (s : State) (page slot : Nat) {off : Nat} (h : off < 0xC00) :
    (evtMsg s page).reg slot off = s.reg slot off := by
  have hvec : ∀ f v, ((sendVector s f v).emit (.sharalMsg page)).reg slot off = s.reg slot off :=
    fun f v => sendVector_reg s f v slot h
  unfold evtMsg
  dsimp only
  split
  · split
    · split
      · exact hvec _ _
      · rfl
    · exact hvec _ _
  · rfl

/-! ### The output of a page -/

theorem evt_of_evts {s t : State} (h : t.evts = s.evts) (slot : Nat) : t.evt slot = s.evt slot := by
  unfold State.evt
  rw [h]

theorem evtAfterWrite_evt (s : State) (page slot : Nat) : (evtAfterWrite s page).evt slot = s.evt slot :=
  evt_of_evts ((evtAfterWrite_keeps s page).only.evts_eq (by decide)) slot

/-- The page's message leaves its output as it is. -/
theorem evtOut_evtAfterWrite (s : State) (page slot : Nat) : evtOut (evtAfterWrite s page) slot = evtOut s slot := by
  have hreg : ∀ off, off < 0xC00 → (evtAfterWrite s page).reg slot off = s.reg slot off := by
    intro off h
    unfold evtAfterWrite
    split
    · exact evtMsg_reg s page slot h
    · rfl
  unfold evtOut
  rw [hreg 0x008 (by decide), hreg 0x014 (by decide), evtAfterWrite_evt]

/-- Nothing is sent where the output is not asserted after the write (R48). -/
theorem evtAfterWrite_low {s : State} {slot : Nat} (h : evtOut s slot = false) : evtAfterWrite s slot = s :=
  if_neg (by simp [h])

/-! ### The latched bits -/

theorem bit_and (v w : Word) (i : Nat) : bit (v &&& w) i = (bit v i && bit w i) := BitVec.getLsbD_and

theorem bit_not (v : Word) {i : Nat} (h : i < 32) : bit (~~~v) i = !bit v i := by
  unfold bit
  rw [BitVec.getLsbD_not, decide_eq_true h, Bool.true_and]

/-- A write clears the bits written as 1, but for those that hardware set in the same fc (R12). -/
theorem latchWrite_latch (s : State) (slot : Nat) (v : Word) {i : Nat} (h : i < 32) :
    bit ((latchWrite s slot v).evt slot).latch i
      = (bit (s.evt slot).latch i && (!bit v i || bit (s.evt slot).fresh i)) := by
  unfold latchWrite
  dsimp only
  rw [evtAfterWrite_evt, State.evt_setEvt_same]
  dsimp only
  rw [bit_and, bit_not _ h, bit_and, bit_not _ h, Bool.not_and, Bool.not_not]

theorem latchWrite_evt_other (s : State) {slot j : Nat} (v : Word) (h : j ≠ slot) :
    (latchWrite s slot v).evt j = s.evt j := by
  unfold latchWrite
  rw [evtAfterWrite_evt, State.evt_setEvt_other _ _ h]

theorem latchWrite_out {s : State} {slot : Nat} {v : Word} (h : evtOut (latchWrite s slot v) slot = false) :
    (latchWrite s slot v).out = s.out := by
  unfold latchWrite at h ⊢
  rw [evtOut_evtAfterWrite] at h
  rw [evtAfterWrite_low h]
  rfl

/-- A write of EVT_LATCH that reaches its page. -/
theorem evtLatchWrite_reaches {s : State} {f : FuncId} {slot : Nat} (h : Reaches s f (regAt slot 0x018)) (v : Word) :
    exec (.evtLatchWrite f slot v) s = .next (latchWrite s.fromHost slot v) :=
  (registerWrite_page (by decide) h v).trans (congrArg Host.Outcome.next (pageWrite_header _ _ _ _ _ (by decide)))

/-- Settles O9: the write that reaches the page is `latchWrite` there. -/
theorem evtLatchWriteClears : Obligations.EvtLatchWriteClears := by
  intro s f slot v h
  have hexec := evtLatchWrite_reaches h v
  exact ⟨latchWrite s.fromHost slot v, hexec, (execEvtLatchWrite_narrow hexec).only, fun i hi => latchWrite_latch _ _ _ hi,
    fun j hj => latchWrite_evt_other _ _ hj, latchWrite_out⟩

end Sys2Proof.Machine

/-! PROOFS. Every step keeps a sound state sound. -/

namespace Sys2Proof.Machine

theorem step_pending {s : State} {c : Instr} {rest : List Instr} (h : s.pending = c :: rest) :
    step s = exec c { s with pending := rest } := by
  unfold step
  rw [h]

/-- Settles O5: the fast cycle and each command keep a sound state sound, and the queue is no part of what is sound. -/
theorem stepKeepsSound : Obligations.StepKeepsSound := by
  intro s t hs hstep
  cases hq : s.pending with
  | nil =>
    rw [step_empty hq] at hstep
    injection hstep with ht
    exact ht ▸ (tick_keeps s).sound hs
  | cons c rest =>
    rw [step_pending hq] at hstep
    exact (exec_keeps c hstep).sound hs

end Sys2Proof.Machine

/-! PROOFS. Role changes: a write of MODULE_ROLE with APPLY, and the completion of a change (01_device_overview.md R31). -/

namespace Sys2Proof.Machine

/-! ### APPLY beside the rest of its write -/

theorem bit_apply (v : Word) : bit (v ||| 0x80000000) 31 = true := by
  rw [bit_or]
  exact Bool.or_true _

theorem and_next_apply (v : Word) : (v ||| 0x80000000) &&& 0xF0 = v &&& 0xF0 := by
  calc (v ||| 0x80000000) &&& 0xF0
      = 0xF0 &&& v ||| 0xF0 &&& 0x80000000 := by rw [BitVec.and_comm, BitVec.and_or_distrib_left]
    _ = 0xF0 &&& v := BitVec.or_zero
    _ = v &&& 0xF0 := BitVec.and_comm ..

theorem bits_next (v : Word) : bits v 7 4 = (v.extractLsb' 4 4).toNat := (BitVec.extractLsb'_toNat ..).symm

theorem bits_next_apply (v : Word) : bits (v ||| 0x80000000) 7 4 = bits v 7 4 := by
  rw [bits_next, bits_next, BitVec.extractLsb'_or]
  exact congrArg BitVec.toNat BitVec.or_zero

/-! ### A write with APPLY -/

theorem arriving_roles (r : Requester) (s : State) : (arriving r s).roles = s.roles := by
  cases r with
  | func f => exact (State.fromHost_keeps s).only.2 .roles (by decide)
  | smbus => rfl
  | fabric => rfl

/-- NEXT with the value that a write of MODULE_ROLE holds; ROLE as it was. -/
abbrev nextStored (s : State) (v : Word) : State :=
  s.setReg slotMgmt 0x100 ((s.reg slotMgmt 0x100 &&& 0x0F) ||| (v &&& 0xF0))

theorem nextStored_apply (s : State) (v : Word) : nextStored s (v ||| 0x80000000) = nextStored s v := by
  rw [nextStored, and_next_apply]

/-- NEXT is stored first; the change is queued while fewer than 15 are (R31). -/
theorem roleWrite_apply (s : State) (v : Word) : roleWrite s (v ||| 0x80000000)
    = if 15 ≤ s.roles.length then (nextStored s v).fault slotMgmt { code := 0x0006 }
      else { nextStored s v with roles := s.roles ++ [BitVec.ofNat 4 (bits v 7 4)] } := by
  rw [← nextStored_apply s v, ← bits_next_apply v]
  exact if_neg (by rw [bit_apply]; decide)

/-- A write with APPLY that is accepted is a write of MODULE_ROLE with bit 31. -/
theorem roleApply_arrives {s : State} {r : Requester} (h : Arrives s r (regAt slotMgmt 0x100)) (v : Word) :
    exec (.roleApply r v) s = .next (reported r (roleWrite (arriving r s) (v ||| 0x80000000))) :=
  congrArg Host.Outcome.next (writeBy_arrives h _)

/-! ### The completion of a change -/

theorem roleChange_idle {s : State} (h : s.drover.insts ≠ [] ∨ s.roles = []) : roleChange s = s := by
  unfold roleChange
  split
  · rfl
  · next hroles =>
    have hne : s.drover.insts ≠ [] := h.resolve_right (by simp [hroles])
    exact if_pos (by simpa using hne)

/-- Without an admitted instance the first target leaves the queue; ROLE takes it where Table 1-5 gives it a role. -/
theorem roleChange_first {s : State} {n : BitVec 4} {rest : List (BitVec 4)} (h : s.roles = n :: rest)
    (hi : s.drover.insts = []) : roleChange s
      = if n.toNat < 5 then
          { s.setReg slotMgmt 0x100 ((s.reg slotMgmt 0x100 &&& 0xF0) ||| w32 n.toNat) with roles := rest }
        else { s with roles := rest } := by
  unfold roleChange
  rw [h]
  dsimp only
  rw [if_neg (by simp [hi])]
  rfl

/-- Settles O11: an accepted APPLY is `roleWrite`, with room or without; a completion is `roleChange`. -/
theorem roleChangesQueue : Obligations.RoleChangesQueue := by
  refine ⟨?queued, ?full, ?taken, ?reserved, ?idle⟩
  case queued =>
    intro s r v ha hroom
    rw [roleApply_arrives ha, roleWrite_apply, arriving_roles, if_neg (Nat.not_le.mpr hroom)]
  case full =>
    intro s r v ha hfull
    rw [roleApply_arrives ha, roleWrite_apply, arriving_roles, if_pos hfull]
  case taken =>
    exact fun s n rest h hi hn => congrArg Host.Outcome.next ((roleChange_first h hi).trans (if_pos hn))
  case reserved =>
    exact fun s n rest h hi hn => congrArg Host.Outcome.next ((roleChange_first h hi).trans (if_neg (Nat.not_lt.mpr hn)))
  case idle => exact fun s h => congrArg Host.Outcome.next (roleChange_idle h)

end Sys2Proof.Machine

/-! PROOFS. A write to the MSI-X table that unmasks a pending vector (17_sharal_tally.md R453, Table 17-11). -/

namespace Sys2Proof.Machine

/-- Vector 0 of function 0 is masked with a message pending, and counter 0 of the HOST page counts what is sent to the host
(17_sharal_tally.md Table 17-11). -/
def msixPending : State :=
  (countersRun State.reset true).setReg slotHost 0xB00 0x80000002#32 |>.mapHost
    (fun h => { h with msix := [(0, [0, 0, 0, 1])], pba := [0] })

theorem msixPending_served : Served msixPending 0 := ⟨by decide +kernel, by decide +kernel⟩

theorem msixPending_counted : msixPending.fromHost.reg slotHost 0xC00 = 0 := by decide +kernel

theorem registerWrite_next {s t : State} {f : FuncId} {a : Nat} {v : Word} (h : exec (.registerWrite f a v) s = .next t) :
    t = barWrite s f a v := by
  injection h with h
  exact h.symm

/-- The write that clears the mask sends the message, and the counter counts it. -/
theorem unmask_counted : (barWrite msixPending 0 (0x4000000 + 4 * 3) 0).reg slotHost 0xC00 = 1 := by decide +kernel

theorem reg_of_regs {s t : State} (h : t.regs = s.regs) (slot off : Nat) : t.reg slot off = s.reg slot off := by
  unfold State.reg State.rd
  rw [h]

/-- Refutes O53: its clause of a write to the MSI-X table says that the host port and the outputs change alone, but the message
that such a write sends once it unmasks a pending vector is counted in a register of the HOST page (R453). -/
theorem not_bar2AndPortEvents : ¬ Obligations.Bar2AndPortEvents := by
  intro h
  obtain ⟨-, -, -, -, -, -, -, -, hmsix, -⟩ := h
  obtain ⟨t, hexec, honly, -⟩ := (hmsix msixPending 0 0 3 msixPending_served).1 (by decide)
  have hsame := reg_of_regs (honly.2 .regs (by decide)) slotHost 0xC00
  rw [registerWrite_next hexec, unmask_counted, msixPending_counted] at hsame
  exact absurd hsame (by decide)

end Sys2Proof.Machine

/-! PROOFS. A fault waiting in a page's queue becomes its record (02_register_pages.md R49, R50). -/

namespace Sys2Proof.Machine

/-! ### Words stored in a row -/

/-- Words stored in consecutive registers of a page, numbered from `n` on; register 0 stands at `base`. -/
def storedFrom (s : State) (slot base : Nat) (ws : List Word) (n : Nat) : State :=
  (ws.zipIdx n).foldl (fun u x => u.setReg slot (base + 4 * x.2) x.1) s

theorem storedFrom_cons (s : State) (slot base : Nat) (w : Word) (ws : List Word) (n : Nat) :
    storedFrom s slot base (w :: ws) n = storedFrom (s.setReg slot (base + 4 * n) w) slot base ws (n + 1) := rfl

theorem storedFrom_keeps (s : State) (slot base : Nat) (ws : List Word) (n : Nat) :
    Keeps [.regs] s (storedFrom s slot base ws n) :=
  Keeps.foldl _ _ (fun _ _ => State.setReg_keeps ..) (Keeps.refl _ _)

/-- Registers before the first one stored keep their values. -/
theorem storedFrom_before (s : State) (slot base : Nat) (ws : List Word) {n k : Nat} (h : k < n) :
    (storedFrom s slot base ws n).reg slot (base + 4 * k) = s.reg slot (base + 4 * k) := by
  induction ws generalizing s n with
  | nil => rfl
  | cons w ws ih =>
    have hne : regAt slot (base + 4 * k) ≠ regAt slot (base + 4 * n) := by
      unfold regAt
      omega
    rw [storedFrom_cons, ih _ (Nat.lt_succ_of_lt h), State.reg_setReg_other _ _ hne]

/-- Each register of the row takes its own word. -/
theorem storedFrom_reg (s : State) (slot base : Nat) (ws : List Word) (n : Nat) {k : Nat} (h : k < ws.length) :
    (storedFrom s slot base ws n).reg slot (base + 4 * (n + k)) = wd ws k := by
  induction ws generalizing s n k with
  | nil => exact absurd h (Nat.not_lt_zero k)
  | cons w ws ih =>
    rw [storedFrom_cons]
    cases k with
    | zero => exact (storedFrom_before _ slot base ws (Nat.lt_succ_self n)).trans (State.reg_setReg_same _ _ _ _)
    | succ k =>
      rw [show n + (k + 1) = n + 1 + k by omega]
      exact ih _ (n + 1) (Nat.lt_of_succ_lt_succ h)

/-! ### Events and waiting faults beside other changes -/

theorem faultPage_of_faults {s t : State} (h : t.faults = s.faults) (slot : Nat) : t.faultPage slot = s.faultPage slot := by
  unfold State.faultPage
  rw [h]

/-- A pulse of an event ends no other pulse of this fc. -/
theorem pulses_pulse {s : State} {slot i : Nat} (page j : Nat) (h : bit (s.evt slot).pulses i = true) :
    bit ((s.pulse page j).evt slot).pulses i = true := by
  unfold State.pulse
  by_cases hp : slot = page
  · subst hp
    rw [State.evt_setEvt_same]
    dsimp only
    rw [bit_or, h, Bool.true_or]
  · rw [State.evt_setEvt_other _ _ hp, h]

/-! ### Sharal's copy of a record -/

/-- TALLY counts a copy that is dropped in a register beyond the header. -/
theorem copyToSharal_reg (s : State) (page : Nat) (ws : List Word) (code slot : Nat) {off : Nat} (h : off < 0x040) :
    (copyToSharal s page ws code).reg slot off = s.reg slot off := by
  have hne : regAt slot off ≠ regAt slotTally 0x04C := by
    rw [Ne, regAt_inj (by omega) (by decide)]
    omega
  unfold copyToSharal
  split
  · rfl
  · split
    · rfl
    · exact State.reg_setReg_other _ _ hne

theorem copyToSharal_pulses {s : State} {slot i : Nat} (page : Nat) (ws : List Word) (code : Nat)
    (h : bit (s.evt slot).pulses i = true) : bit ((copyToSharal s page ws code).evt slot).pulses i = true := by
  unfold copyToSharal
  split
  · exact h
  · split
    · exact h
    · refine pulses_pulse _ _ ?_
      rwa [evt_of_evts ((State.bump_keeps ..).only.evts_eq (by decide))]

/-! ### FAULT_RECORD_WRITE -/

/-- The page after its oldest fault has left the queue: none is counted as lost, and 16 fc begin. -/
abbrev faultTaken (s : State) (slot : Nat) (rest : List FaultRec) : State :=
  { s with faults := Tbl.set s.faults slot ⟨rest, 0, some s.now⟩ }

/-- FAULT_CODE and INFO0 to INFO7 hold the record, and EVT_RAW.FAULT pulses. -/
abbrev faultShown (s : State) (slot : Nat) (rest : List FaultRec) (ws : List Word) : State :=
  (storedFrom (faultTaken s slot rest) slot 0x01C ws 0).pulse slot 31

/-- SEQ of the page's next record. -/
abbrev nextFaultSeq (s : State) (slot : Nat) : Nat := (bits (s.reg slot 0x01C) 31 16 + 1) % 65536

/-- The words of the record of a page's oldest fault. -/
abbrev nextFaultWords (s : State) (slot : Nat) (r : FaultRec) : List Word :=
  faultWords r (nextFaultSeq s slot) (s.faultPage slot).lost

theorem faultRecordWrite_due {s : State} {slot : Nat} {r : FaultRec} {rest : List FaultRec}
    (hq : (s.faultPage slot).queue = r :: rest)
    (hdue : (s.faultPage slot).last = none ∨ ∃ n, (s.faultPage slot).last = some n ∧ n + 16 ≤ s.now) :
    faultRecordWrite s slot
      = copyToSharal (traceFault (faultShown s slot rest (nextFaultWords s slot r)) slot r (nextFaultWords s slot r)) slot
          (nextFaultWords s slot r) r.code := by
  unfold faultRecordWrite
  dsimp only
  rw [hq]
  obtain hlast | ⟨n, hlast, hn⟩ := hdue
  · rw [hlast]
    rfl
  · rw [hlast]
    exact if_neg (by simp [hn])

theorem faultRecordWrite_early {s : State} {slot n : Nat} (hlast : (s.faultPage slot).last = some n) (h : s.now < n + 16) :
    faultRecordWrite s slot = s := by
  unfold faultRecordWrite
  dsimp only
  rw [hlast]
  split
  · rfl
  · exact if_pos (by simp [h])

theorem faultRecordWrite_none {s : State} {slot : Nat} (hq : (s.faultPage slot).queue = []) : faultRecordWrite s slot = s := by
  unfold faultRecordWrite
  dsimp only
  rw [hq]

/-- What the copy and the trace of a record leave of the page's header. -/
theorem faultCopied_reg (s : State) (slot : Nat) (r : FaultRec) (ws : List Word) {off : Nat} (h : off < 0x040) :
    (copyToSharal (traceFault s slot r ws) slot ws r.code).reg slot off = s.reg slot off :=
  (copyToSharal_reg _ _ _ _ _ h).trans (reg_of_regs ((traceFault_keeps ..).only.2 .regs (by decide)) slot off)

theorem faultCopied_pulses {s : State} {slot i : Nat} (r : FaultRec) (ws : List Word) (h : bit (s.evt slot).pulses i = true) :
    bit ((copyToSharal (traceFault s slot r ws) slot ws r.code).evt slot).pulses i = true := by
  refine copyToSharal_pulses _ _ _ ?_
  rwa [evt_of_evts ((traceFault_keeps ..).only.evts_eq (by decide))]

/-- Each of the nine words of the record stands in its register. -/
theorem faultShown_reg (s : State) (slot : Nat) (rest : List FaultRec) (ws : List Word) {k : Nat} (h : k < ws.length) :
    (faultShown s slot rest ws).reg slot (0x01C + 4 * k) = wd ws k := by
  rw [reg_of_regs ((State.pulse_keeps ..).only.2 .regs (by decide))]
  have hstored := storedFrom_reg (faultTaken s slot rest) slot 0x01C ws 0 h
  rwa [Nat.zero_add] at hstored

/-- Of the waiting faults a record takes the oldest of its page. -/
theorem faultCopied_faults (s : State) (slot : Nat) (r : FaultRec) (rest : List FaultRec) (ws : List Word) :
    (copyToSharal (traceFault (faultShown s slot rest ws) slot r ws) slot ws r.code).faults
      = Tbl.set s.faults slot ⟨rest, 0, some s.now⟩ := by
  have hshown : Keeps [.regs, .evts, .sharal] (faultTaken s slot rest)
      (copyToSharal (traceFault (faultShown s slot rest ws) slot r ws) slot ws r.code) :=
    (copyToSharal_keeps ..).cut (by decide) <| (traceFault_keeps ..).cut (by decide) <|
      (State.pulse_keeps ..).cut (by decide) <| (storedFrom_keeps ..).mono (by decide)
  exact hshown.only.2 .faults (by decide)

/-- Settles O10: a record that is due is the nine words stored, one fault fewer in the queue, and the pulse; the copy to
Sharal and the trace touch none of them. -/
theorem faultRecordWritten : Obligations.FaultRecordWritten := by
  refine ⟨?due, ?early, ?empty⟩
  case due =>
    intro s slot r rest hq hdue
    have hexec := faultRecordWrite_due hq hdue
    have hfaults := faultCopied_faults s slot r rest (nextFaultWords s slot r)
    have hword : ∀ k, k < 9 → (faultRecordWrite s slot).reg slot (0x01C + 4 * k) = wd (nextFaultWords s slot r) k := by
      intro k hk
      rw [hexec, faultCopied_reg _ _ _ _ (by omega)]
      exact faultShown_reg _ _ _ _ hk
    refine ⟨faultRecordWrite s slot, rfl, (faultRecordWrite_keeps s slot).only, ?page, hword 0 (by decide), ?info, ?pulse, ?others⟩
    case page =>
      rw [hexec, State.faultPage, hfaults]
      exact Tbl.getD_set_same ..
    case info =>
      intro i hi
      rw [show 0x020 + 4 * i = 0x01C + 4 * (i + 1) by omega]
      exact hword (i + 1) (by omega)
    case pulse =>
      rw [hexec]
      exact faultCopied_pulses _ _ (pulse_pulses _ _ (by decide))
    case others =>
      intro j hj
      rw [hexec, State.faultPage, hfaults]
      exact Tbl.getD_set_other _ _ _ hj
  case early => exact fun s slot n hlast h => congrArg Host.Outcome.next (faultRecordWrite_early hlast h)
  case empty => exact fun s slot hq => congrArg Host.Outcome.next (faultRecordWrite_none hq)

end Sys2Proof.Machine

/-! PROOFS. A virtual function that closes its session ends the chains of the session's instances, and the cancel marker of a
bellwether that multicasts may find no route (08_drove_chains.md R215, R216; 12_ralso_fabric.md R324). -/

namespace Sys2Proof.Machine

/-- A chain of core 0 alone that also sends to multicast group 0x080 (MCAST_EN = 1). -/
def multicastChain : ChainD :=
  { fabric := false, consumes := true, mcast := true, ringBlk := 3, catchup := 0, stall := 0, srcNode := 0, group := 0x080
    ringOff := 0x800, arrive := 0, rate := 256, members := [0] }

/-- Session 1 is open on virtual function 3 without MGMT privilege; its instance 1 runs the task of slot 0, whose core is the
bellwether of the chain. The route table is empty. -/
def vfBellwether : State :=
  { State.reset with
    cores := [(0, { Core.idle with drove := [(0, newChSlot multicastChain 0 1 0 (some 0))] })]
    drover := { Drover.start with
      insts := [⟨1, 1, 5, 0, 1, 3, 9, 10000, 0, [0], false⟩]
      tasks := [(0, ⟨1, 0, .running, 0, 0, 0, [], 0, 10000, false, [], []⟩)]
      instCtr := 2 }
    host := { HostPort.start with sessions := [(1, ⟨3, 1, 2, 1, false⟩)] } }

theorem vfBellwether_noRoute : vfBellwether.reg slotRoute 0x05C = 0 := by decide +kernel

/-- The write of SESS_CTL.CLOSE aborts the instance, and NO_ROUTE counts the cancel marker. -/
theorem close_countsNoRoute : (barWrite vfBellwether 3 (regAt slotHost 0x080) 0x80000001).reg slotRoute 0x05C = 1 := by
  decide +kernel

/-- Refutes O60: its clause of the LINK routing page. A virtual function closes its own session (R358), the bellwether of the
aborted instance sends a cancel marker to its multicast group, and the marker, for which the route table holds no valid entry,
counts in LINK.NO_ROUTE. -/
theorem not_virtualFunctionsAreContained : ¬ Obligations.VirtualFunctionsAreContained := by
  intro h
  obtain ⟨hpages, -⟩ := h vfBellwether _ 3 (regAt slotHost 0x080) 0x80000001 (by decide) rfl
  obtain ⟨-, hroute⟩ := hpages 0x05C (by decide)
  rw [close_countsNoRoute, vfBellwether_noRoute] at hroute
  exact absurd hroute (by decide)

end Sys2Proof.Machine

/-! PROOFS. What counting, faults and traces leave of the cores, and what a core's update leaves of the others. -/

namespace Sys2Proof.Machine

/-! ### An event whose conditions hold, and one that does nothing (log entry 11) -/

theorem onlyIf_of {b : Bool} (h : b = true) (f : State → State) (s : State) : onlyIf b f s = f s :=
  if_pos h

theorem onlyIf_unchanged {f : State → State} {s : State} (h : f s = s) (b : Bool) : onlyIf b f s = s := by
  unfold onlyIf
  split
  · exact h
  · rfl

/-! ### Parts beside those that change -/

theorem Only.cores_eq {ps : List Part} {s t : State} (h : Only ps s t) (hp : Part.cores ∉ ps) : t.cores = s.cores := h.2 .cores hp
theorem Only.mem_eq {ps : List Part} {s t : State} (h : Only ps s t) (hp : Part.mem ∉ ps) : t.mem = s.mem := h.2 .mem hp
theorem Only.faults_eq {ps : List Part} {s t : State} (h : Only ps s t) (hp : Part.faults ∉ ps) : t.faults = s.faults :=
  h.2 .faults hp

/-! ### Cores beside other changes -/

theorem core_of_cores {s t : State} (h : t.cores = s.cores) (c : Nat) : t.core c = s.core c := by
  unfold State.core
  rw [h]

@[simp] theorem setReg_core (s : State) (slot off : Nat) (v : Word) (c : Nat) : (s.setReg slot off v).core c = s.core c := rfl

@[simp] theorem mapMem_core (s : State) (f : Memory → Memory) (c : Nat) : (s.mapMem f).core c = s.core c := rfl

@[simp] theorem countEvent_core (s : State) (slot code n c : Nat) : (countEvent s slot code n).core c = s.core c :=
  core_of_cores ((countEvent_keeps s slot code n).only.cores_eq (by decide)) c

@[simp] theorem bump_core (s : State) (slot off n c : Nat) : (s.bump slot off n).core c = s.core c :=
  core_of_cores ((State.bump_keeps s slot off n).only.cores_eq (by decide)) c

@[simp] theorem taskTrace_core (s : State) (cls kind slot t : Nat) (d : List Word) (c : Nat) :
    (taskTrace s cls kind slot t d).core c = s.core c :=
  core_of_cores ((taskTrace_keeps s cls kind slot t d).only.cores_eq (by decide)) c

/-! ### One core, one channel, one tile -/

@[simp] theorem mapChan_core_same (s : State) (c ch : Nat) (f : Chan → Chan) :
    (s.mapChan c ch f).core c = (s.core c).setChan ch (f ((s.core c).chan ch)) :=
  State.core_mapCore_same s c _

theorem mapChan_core_other (s : State) {c d : Nat} (ch : Nat) (f : Chan → Chan) (h : d ≠ c) :
    (s.mapChan c ch f).core d = s.core d :=
  State.core_mapCore_other s _ h

@[simp] theorem mapChan_chan_same (s : State) (c ch : Nat) (f : Chan → Chan) :
    ((s.mapChan c ch f).core c).chan ch = f ((s.core c).chan ch) := by
  rw [mapChan_core_same, Core.chan_setChan_same]

theorem mapChan_chan_other (s : State) (c : Nat) {ch i : Nat} (f : Chan → Chan) (h : i ≠ ch) :
    ((s.mapChan c ch f).core c).chan i = (s.core c).chan i := by
  rw [mapChan_core_same, Core.chan_setChan_other _ _ h]

@[simp] theorem Core.tile_setTile_same (k : Core) (b : Bool) (t : Tile) : (k.setTile b t).tile b = t := by
  cases b <;> rfl

@[simp] theorem Core.tile_setTile_not (k : Core) (b : Bool) (t : Tile) : (k.setTile b t).tile (!b) = k.tile (!b) := by
  cases b <;> rfl

@[simp] theorem Core.setTile_seq (k : Core) (b : Bool) (t : Tile) : (k.setTile b t).seq = k.seq := by cases b <;> rfl
@[simp] theorem Core.setTile_chans (k : Core) (b : Bool) (t : Tile) : (k.setTile b t).chans = k.chans := by cases b <;> rfl
@[simp] theorem Core.setTile_mm (k : Core) (b : Bool) (t : Tile) : (k.setTile b t).mm = k.mm := by cases b <;> rfl
@[simp] theorem Core.setTile_drQ (k : Core) (b : Bool) (t : Tile) : (k.setTile b t).drQ = k.drQ := by cases b <;> rfl
@[simp] theorem Core.setTile_fins (k : Core) (b : Bool) (t : Tile) : (k.setTile b t).fins = k.fins := by cases b <;> rfl

/-! ### Programs that an abort stops -/

theorem Tbl.get_mapV {α : Type} (t : Tbl α) (f : Nat → α → α) (i : Nat) : Tbl.get (Tbl.mapV t f) i = (Tbl.get t i).map (f i) := by
  induction t with
  | nil => rfl
  | cons p t ih =>
    obtain ⟨k, v⟩ := p
    by_cases hk : k = i
    · subst hk
      simp [Tbl.mapV, Tbl.get]
    · simp only [Tbl.mapV, List.map_cons, Tbl.get, if_neg hk]
      exact ih

/-- An abort that the Drover has to make stops programs, and changes nothing else of a core (R246). -/
theorem wantAbort_core (s : State) (t code c : Nat) : ∃ o, (wantAbort s t code).core c = { s.core c with prog := o } := by
  unfold wantAbort
  split
  · unfold State.core Tbl.getD State.mapDrover
    dsimp only
    rw [Tbl.get_mapV]
    cases Tbl.get s.cores c with
    | none => exact ⟨none, rfl⟩
    | some k =>
      dsimp only [Option.map_some, Option.getD_some]
      split
      · split
        · exact ⟨_, rfl⟩
        · exact ⟨_, rfl⟩
      · exact ⟨_, rfl⟩
  · exact ⟨_, rfl⟩

theorem taskFault_core (s : State) (slot t : Nat) (core : Option Nat) (code : Nat) (addr : Option Nat) (d0 d1 : Word) (c : Nat) :
    ∃ o, (taskFault s slot t core code addr d0 d1).core c = { s.core c with prog := o } :=
  wantAbort_core (s.fault slot (taskRec s t core code addr d0 d1)) t code c

theorem taskFault_slot (s : State) (slot t : Nat) (core : Option Nat) (code : Nat) (addr : Option Nat) (d0 d1 : Word) (c i : Nat) :
    ((taskFault s slot t core code addr d0 d1).core c).slot i = (s.core c).slot i := by
  obtain ⟨o, ho⟩ := taskFault_core s slot t core code addr d0 d1 c
  rw [ho]
  rfl

theorem taskFault_load (s : State) (slot t : Nat) (core : Option Nat) (code : Nat) (addr : Option Nat) (d0 d1 : Word) (c : Nat) :
    ((taskFault s slot t core code addr d0 d1).core c).load = (s.core c).load := by
  obtain ⟨o, ho⟩ := taskFault_core s slot t core code addr d0 d1 c
  rw [ho]

theorem taskFault_faultPage (s : State) (slot t : Nat) (core : Option Nat) (code : Nat) (addr : Option Nat) (d0 d1 : Word) (p : Nat) :
    (taskFault s slot t core code addr d0 d1).faultPage p
      = (s.fault slot (taskRec s t core code addr d0 d1)).faultPage p :=
  faultPage_of_faults ((wantAbort_keeps _ t code).only.faults_eq (by decide)) p

/-! ### Counting registers -/

/-- A counting register counts; the event counters that count the same stand from 0xC00 on. -/
theorem bump_reg (s : State) (page o n slot : Nat) {off : Nat} (h : off < 0xC00) :
    (s.bump page o n).reg slot off = (s.setReg page o (s.reg page o + w32 n)).reg slot off := by
  unfold State.bump
  dsimp only
  split
  · exact countEvent_reg _ _ _ _ slot h
  · rfl

theorem bump_reg_same (s : State) (slot n : Nat) {off : Nat} (h : off < 0xC00) :
    (s.bump slot off n).reg slot off = s.reg slot off + w32 n := by
  rw [bump_reg s slot off n slot h, State.reg_setReg_same]

theorem bump_reg_other (s : State) {page o slot off : Nat} (n : Nat) (h : off < 0xC00) (hne : regAt slot off ≠ regAt page o) :
    (s.bump page o n).reg slot off = s.reg slot off := by
  rw [bump_reg s page o n slot h, State.reg_setReg_other _ _ hne]

end Sys2Proof.Machine

/-! PROOFS. MATMUL: its issue. -/

namespace Sys2Proof.Machine

/-- Where an instruction issues, its row does what its body says. -/
theorem issue_of_issues {s u : State} {op c : Nat} {p : Prog} {ws : List Word} (h : Issues s op c u p ws)
    (body : State → Prog → List Word → State) : issue op c body s = body u p ws := by
  obtain ⟨hfront, hop, hkind⟩ := h
  unfold issue
  rw [hfront]
  exact if_pos ⟨hop, hkind⟩

theorem exec_matmul {s u : State} {c : CoreId} {p : Prog} {ws : List Word} (h : Issues s opMatmul c.val u p ws) :
    exec (.matmul c) s = .next (issueMatmul c.val u p ws) :=
  congrArg Host.Outcome.next (issue_of_issues h _)

/-- The core of an instruction's program once it is past the instruction. -/
theorem advance_core (s : State) (c : Nat) (p : Prog) (ws : List Word) :
    (advance s c p ws).core c
      = { s.core c with prog := some { p with pc := p.pc + 4 * ws.length }, seq := (s.core c).seq + 1 } := by
  unfold advance setProg
  rw [State.core_mapCore_same, State.core_mapCore_same]

theorem advance_core_other (s : State) {c d : Nat} (p : Prog) (ws : List Word) (h : d ≠ c) :
    (advance s c p ws).core d = s.core d := by
  unfold advance setProg
  rw [State.core_mapCore_other _ _ h, State.core_mapCore_other _ _ h]

/-! ### The checks in their order (R100) -/

section
variable {s : State} {c : Nat} {p : Prog} {w : List Word}

theorem issueMatmul_full (h : 4 ≤ (s.core c).arrQ.length) : issueMatmul c s p w = s := if_pos h

/-- With room in the queue and the tile its own, a MATMUL meets the checks of Table 4-6. -/
theorem issueMatmul_foreign (hroom : (s.core c).arrQ.length < 4) (h : ((s.core c).tile (mmTile w)).holder ≠ some p.task) :
    issueMatmul c s p w = tileCollision s c p.task (mmTile w) (wd w 0) := by
  unfold issueMatmul
  dsimp only
  rw [if_neg (Nat.not_le.mpr hroom), if_pos (bne_iff_ne.mpr h)]

variable (hroom : (s.core c).arrQ.length < 4) (hown : ((s.core c).tile (mmTile w)).holder = some p.task)
include hroom hown

theorem issueMatmul_code {code : Nat} (h : mmCode s c p.task w = some code) :
    issueMatmul c s p w = arrFault s c p.task 0x0107 (w32 code) (wd w 0) := by
  unfold issueMatmul
  dsimp only
  rw [if_neg (Nat.not_le.mpr hroom), if_neg (by simp [hown]), h]

variable {cl : Claim} (hcode : mmCode s c p.task w = none) (hcl : (taskClaims s p.task)[mmCb w]? = some cl)
include hcode hcl

theorem issueMatmul_format (h : bit cl.w0 26 ≠ (((s.core c).chan (mmW w)).desc.format == 4)) :
    issueMatmul c s p w = arrFault s c p.task 0x0101 (w32 (mmCb w)) (w32 (cl.group c)) := by
  unfold issueMatmul
  dsimp only
  rw [if_neg (Nat.not_le.mpr hroom), if_neg (by simp [hown]), hcode]
  dsimp only
  rw [List.getD_eq_getElem?_getD, hcl, Option.getD_some, if_pos (bne_iff_ne.mpr h)]

variable (hformat : bit cl.w0 26 = (((s.core c).chan (mmW w)).desc.format == 4))
include hformat

theorem issueMatmul_plain (htwin : mmTwin w = false) : issueMatmul c s p w = enterMatmul s c p w := by
  unfold issueMatmul
  dsimp only
  rw [if_neg (Nat.not_le.mpr hroom), if_neg (by simp [hown]), hcode]
  dsimp only
  rw [List.getD_eq_getElem?_getD, hcl, Option.getD_some, if_neg (by simp [hformat]), if_neg (by simp [htwin])]

/-- Twin mode has requirements of its own, on the codebook in its slot (R94). -/
theorem issueMatmul_twin {b : Book} {i : Nat} (htwin : mmTwin w = true) (hbook : claimBook s c p.task (mmCb w) = some (b, i)) :
    issueMatmul c s p w
      = if twinBits (s.core c) w i != 0 then arrFault s c p.task 0x0108 (twinBits (s.core c) w i) (wd w 0)
        else enterMatmul s c p w := by
  unfold issueMatmul
  dsimp only
  rw [if_neg (Nat.not_le.mpr hroom), if_neg (by simp [hown]), hcode]
  dsimp only
  rw [List.getD_eq_getElem?_getD, hcl, Option.getD_some, if_neg (by simp [hformat]), if_pos htwin, hbook]

theorem issueMatmul_enters (h : mmTwin w = false ∨ ∃ b i, claimBook s c p.task (mmCb w) = some (b, i)
    ∧ twinBits (s.core c) w i = 0) : issueMatmul c s p w = enterMatmul s c p w := by
  obtain hplain | ⟨b, i, hbook, hbits⟩ := h
  · exact issueMatmul_plain hroom hown hcode hcl hformat hplain
  · cases htwin : mmTwin w with
    | false => exact issueMatmul_plain hroom hown hcode hcl hformat htwin
    | true =>
      rw [issueMatmul_twin hroom hown hcode hcl hformat htwin hbook]
      exact if_neg (by simp [hbits])

end

/-! ### A MATMUL in the queue -/

/-- The tile as the issue of a MATMUL leaves it (R63, R99). -/
abbrev issuedTile (k : Core) (w : List Word) : Tile :=
  { k.tile (mmTile w) with
    scale := (k.chan (mmW w)).scale
    extent := if mmAcc w then (k.tile (mmTile w)).extent else some (mmExtent w) }

/-- The core once a MATMUL has entered its array queue. -/
theorem enterMatmul_core (s : State) (c : Nat) (p : Prog) (w : List Word) :
    (enterMatmul s c p w).core c
      = { (s.core c).setTile (mmTile w) (issuedTile (s.core c) w) with
          arrQ := (s.core c).arrQ ++ [queued s c p w]
          prog := some { p with pc := p.pc + 4 * w.length }, seq := (s.core c).seq + 1 } := by
  unfold enterMatmul
  rw [advance_core]
  simp only [countEvent_core, setReg_core, State.core_mapCore_same, Core.setTile_seq, issuedTile]
  cases mmAcc w <;> rfl

theorem enterMatmul_core_other (s : State) {c d : Nat} (p : Prog) (w : List Word) (h : d ≠ c) :
    (enterMatmul s c p w).core d = s.core d := by
  unfold enterMatmul
  rw [advance_core_other _ _ _ h]
  simp only [countEvent_core, setReg_core, State.core_mapCore_other _ _ h]

/-- Settles O14: the checks of `issueMatmul` in their order, and the core that a MATMUL in the queue leaves. -/
theorem matmulIssues : Obligations.MatmulIssues := by
  refine ⟨?full, ?foreign, ?code, ?format, ?twinBad, ?enters⟩
  case full =>
    intro s u c p ws hi hfull
    rw [exec_matmul hi, issueMatmul_full hfull]
  case foreign =>
    intro s u c p ws hi hroom hforeign
    rw [exec_matmul hi, issueMatmul_foreign hroom hforeign]
  case code =>
    intro s u c p ws code hi hroom hown hcode
    rw [exec_matmul hi, issueMatmul_code hroom hown hcode]
    rfl
  case format =>
    intro s u c p ws cl hi hroom hown hcode hcl hformat
    rw [exec_matmul hi, issueMatmul_format hroom hown hcode hcl hformat]
    rfl
  case twinBad =>
    intro s u c p ws cl b i hi hroom hown hcode hcl hformat htwin hbook hbad
    rw [exec_matmul hi, issueMatmul_twin hroom hown hcode hcl hformat htwin hbook, if_pos (bne_iff_ne.mpr hbad)]
    rfl
  case enters =>
    intro s u c p ws cl hi hroom hown hcode hcl hformat htwin
    refine ⟨_, (exec_matmul hi).trans (congrArg _ (issueMatmul_enters hroom hown hcode hcl hformat htwin)),
      (enterMatmul_keeps u c.val p ws).only, ?_, ?_, ?_, ?_, ?_, ?_, ?_, fun d hd => enterMatmul_core_other u p ws hd⟩
    all_goals rw [enterMatmul_core]
    · exact Core.tile_setTile_same (u.core c.val) (mmTile ws) _
    · exact Core.tile_setTile_not (u.core c.val) (mmTile ws) _
    · exact Core.setTile_chans (u.core c.val) (mmTile ws) _
    · exact Core.setTile_mm (u.core c.val) (mmTile ws) _
    · exact Core.setTile_drQ (u.core c.val) (mmTile ws) _

end Sys2Proof.Machine

/-! PROOFS. MATMUL: its start, its steps and its completion. -/

namespace Sys2Proof.Machine

/-! ### Its start (R103) -/

/-- The run of a MATMUL that starts: its first products follow 10 fc later, or at once behind a predecessor. -/
abbrev startedRun (s : State) (k : Core) (q : QInst) : MmRun :=
  { inst := q, step := 0, at_ := if k.fins.any (fun m => m.at_ == s.now) then s.now else s.now + 10
    w := ⟨mmW q.words, 0, [], (k.chan (mmW q.words)).done⟩, a := ⟨mmA q.words, 0, [], (k.chan (mmA q.words)).done⟩ }

theorem matmulStart_first {s : State} {c : Nat} {q : QInst} {rest : List QInst} (hidle : (s.core c).mm = none)
    (hq : (s.core c).arrQ = q :: rest) (hbook : (claimBook s c q.task (mmCb q.words)).isSome = true)
    (hw : ((s.core c).chan (mmW q.words)).primed = true) (ha : ((s.core c).chan (mmA q.words)).primed = true)
    (hrun : aborting s q.task = false) :
    matmulStart s c = pull (s.setCore c { s.core c with
      arrQ := rest, mm := some (stepFeeds (s.core c) (startedRun s (s.core c) q) 0) }) c := by
  unfold matmulStart
  dsimp only
  rw [hidle, hq]
  dsimp only
  rw [if_neg (by simp [Option.ne_none_iff_isSome.mpr hbook, hw, ha, hrun])]

/-! ### The products of a step (R87 to R97) -/

/-- The blocks of a step as the row feeder gives them to the cells: array row, stripe, converted block. -/
def stepConverted (k : Core) (m : MmRun) : List (Nat × Nat × Block) :=
  (stepBlocks k m).map (fun b => (b.1, b.2.1,
    convBlock (k.chan (mmA m.inst.words)).pred.hist (k.chan (mmA m.inst.words)).conv b.2.2.1 b.2.2.2))

/-- The tile once the step's groups are in it; the first step finds it as R99 and R123 say. -/
def steppedTile (k : Core) (m : MmRun) (levels : List Byte) : Tile :=
  addGroups
    (if m.step = 0 then firstStep (k.tile m.inst.tile) m.inst.words (mmG k m.inst.words) else k.tile m.inst.tile)
    (mmExtent m.inst.words) levels m.w.got (mmG k m.inst.words) (mmSpan m.inst.words (mmG k m.inst.words) m.step)
    (stepConverted k m)

/-- The cycles that conversion adds to a step: 2 where the exponent of a block was not predicted (R72, R88). -/
def stepExtra (k : Core) (m : MmRun) : Nat :=
  if ((stepConverted k m).map (·.2.2)).any (fun b => b.exact_ || b.replay) then 2 else 0

/-- The time of a step whose conversion adds `cc` cycles. -/
def stepLength (s : State) (c : Nat) (m : MmRun) (e256 : Bool) (cc : Nat) : Nat × Nat :=
  let k := s.core c
  let w := m.inst.words
  let h := k.chan (mmW w)
  stepTime w (mmG k w) (mmSpan w (mmG k w) m.step) cc e256 (weightRate k c h (chanNib s k h (h.done - 1) / 2))

/-- The state once the groups are in the tile, the history is noted (R72) and the counters have counted. -/
def stepProducts (s : State) (c : Nat) (m : MmRun) (book : Book) : State :=
  let k := s.core c
  let w := m.inst.words
  let blocks := (stepConverted k m).map (·.2.2)
  noteStep ((putTile s c m.inst.tile (m.step == 0 && !mmAcc w) (steppedTile k m book.levels)).mapChan c (mmA w)
    (fun h => { h with pred := noteHist h.pred blocks })) c (if mmTwin w then mmG k w / 2 else mmG k w) (stepExtra k m)
    (stepLength s c m book.e256 (stepExtra k m)).2 blocks

/-- A step follows. -/
abbrev hasNextStep (k : Core) (m : MmRun) : Prop := m.step + 1 < mmSteps m.inst.words (mmG k m.inst.words)

/-- The MATMUL goes on to the step that follows, or waits for its completion. -/
def runOn (more : Prop) [Decidable more] (m : MmRun) (now : Nat) (k : Core) : Core :=
  if more then { k with mm := some (stepFeeds k { m with at_ := now } (m.step + 1)) }
  else { k with mm := none, fins := k.fins ++ [{ m with at_ := now, step := m.step + 1 }] }

theorem runOn_next {more : Prop} [Decidable more] (h : more) (m : MmRun) (now : Nat) :
    runOn more m now = fun k => { k with mm := some (stepFeeds k { m with at_ := now } (m.step + 1)) } :=
  funext fun _ => if_pos h

theorem runOn_last {more : Prop} [Decidable more] (h : ¬more) (m : MmRun) (now : Nat) :
    runOn more m now
      = fun k => { k with mm := none, fins := k.fins ++ [{ m with at_ := now, step := m.step + 1 }] } :=
  funext fun _ => if_neg h

/-- The state after a step. -/
def stepped (s : State) (c : Nat) (m : MmRun) (book : Book) : State :=
  (stepProducts s c m book).mapCore c (runOn (hasNextStep (s.core c) m) m s.now)

/-! ### When a step takes place -/

section
variable {s : State} {c : Nat} {m : MmRun} (hm : (s.core c).mm = some m) (hw : m.w.need = 0) (ha : m.a.need = 0)
  (hrun : aborting s m.inst.task = false)
include hm hw ha hrun

/-- Weights and activations have come, but an activation is NaN or infinite (R69). -/
theorem arrayStep_nonfinite {pos i : Nat} (hbad : badElem (stepBlocks (s.core c) m) = some (pos, i)) :
    arrayStep s c = arrFault s c m.inst.task 0x0106 (w32 pos) (w32 i) := by
  unfold arrayStep
  dsimp only
  rw [hm]
  dsimp only
  rw [if_neg (by simp [hw, ha, hrun]), hbad]

theorem arrayStep_due {book : Book} {i : Nat} (hfinite : badElem (stepBlocks (s.core c) m) = none)
    (hbook : claimBook s c m.inst.task (mmCb m.inst.words) = some (book, i))
    (hfree : m.step = 0 → tileFree s c m.inst = true)
    (htime : m.at_ + (stepLength s c m book.e256 (stepExtra (s.core c) m)).1 ≤ s.now) :
    arrayStep s c = if hasNextStep (s.core c) m then pull (stepped s c m book) c else stepped s c m book := by
  have hwait : ¬ (decide (s.now < m.at_ + (stepLength s c m book.e256 (stepExtra (s.core c) m)).1)
      || (m.step == 0 && !tileFree s c m.inst)) = true := by
    simp only [Bool.or_eq_true, decide_eq_true_eq, Bool.and_eq_true, beq_iff_eq, Bool.not_eq_true']
    rintro (hlate | ⟨hfirst, hheld⟩)
    · omega
    · simp [hfree hfirst] at hheld
  unfold arrayStep
  dsimp only
  rw [hm]
  dsimp only
  rw [if_neg (by simp [hw, ha, hrun]), hfinite]
  dsimp only
  rw [hbook]
  dsimp only
  simp only [stepLength, stepExtra, stepConverted] at hwait
  refine (if_neg ?_).trans ?_
  · exact hwait
  unfold stepped
  by_cases hmore : hasNextStep (s.core c) m
  · refine (if_pos hmore).trans (Eq.trans ?_ (if_pos hmore).symm)
    rw [runOn_next hmore]
    rfl
  · refine (if_neg hmore).trans (Eq.trans ?_ (if_neg hmore).symm)
    rw [runOn_last hmore]
    rfl

end

/-- Conversion of a block that no history predicts takes the longest that a step can take. -/
theorem stepTime_le (w : List Word) (g n : Nat) (e256 : Bool) (rate : Nat × Nat) {cc : Nat} (h : cc ≤ 2) :
    (stepTime w g n cc e256 rate).1 ≤ (stepTime w g n 2 e256 rate).1 :=
  max_le_max_right _ (Nat.add_le_add_left h _)

theorem stepExtra_le (k : Core) (m : MmRun) : stepExtra k m ≤ 2 := by
  unfold stepExtra
  split <;> decide

/-! ### What a step leaves -/

@[simp] theorem noteStep_core (s : State) (c p cc ws : Nat) (bs : List Block) (d : Nat) :
    (noteStep s c p cc ws bs).core d = s.core d :=
  core_of_cores ((noteStep_keeps s c p cc ws bs).only.cores_eq (by decide)) d

theorem putTile_cores (s : State) (c : Nat) (b cleared : Bool) (t : Tile) :
    (putTile s c b cleared t).cores = (s.mapCore c (fun k => k.setTile b t)).cores := by
  unfold putTile
  dsimp only
  split <;> split <;> rfl

/-- The core after the products of a step: its tile, and the history of the activation channel. -/
theorem stepProducts_core (s : State) (c : Nat) (m : MmRun) (book : Book) :
    (stepProducts s c m book).core c
      = ((s.core c).setTile m.inst.tile (steppedTile (s.core c) m book.levels)).setChan (mmA m.inst.words)
          { (s.core c).chan (mmA m.inst.words) with
            pred := noteHist ((s.core c).chan (mmA m.inst.words)).pred ((stepConverted (s.core c) m).map (·.2.2)) } := by
  unfold stepProducts
  rw [noteStep_core, mapChan_core_same, core_of_cores (putTile_cores ..), State.core_mapCore_same]
  unfold Core.chan
  rw [Core.setTile_chans]

theorem stepProducts_core_other (s : State) {c d : Nat} (m : MmRun) (book : Book) (h : d ≠ c) :
    (stepProducts s c m book).core d = s.core d := by
  unfold stepProducts
  rw [noteStep_core, mapChan_core_other _ _ _ h, core_of_cores (putTile_cores ..), State.core_mapCore_other _ _ h]

theorem stepped_keeps (s : State) (c : Nat) (m : MmRun) (book : Book) :
    Keeps [.regs, .evts, .cores] s (stepped s c m book) :=
  (State.mapCore_keeps ..).cut (by decide) <| (noteStep_keeps ..).cut (by decide) <|
    (State.mapChan_keeps ..).cut (by decide) <| (putTile_keeps ..).mono (by decide)

theorem stepped_core_other (s : State) {c d : Nat} (m : MmRun) (book : Book) (h : d ≠ c) :
    (stepped s c m book).core d = s.core d := by
  unfold stepped
  rw [State.core_mapCore_other _ _ h, stepProducts_core_other s m book h]

/-- What a step takes does not depend on the MATMUL that runs. -/
theorem runOn_next_mm {more : Prop} [Decidable more] (h : more) (m : MmRun) (now : Nat) (k : Core) :
    (runOn more m now k).mm = some (stepFeeds (runOn more m now k) { m with at_ := now } (m.step + 1)) := by
  rw [runOn_next h]
  rfl

theorem runOn_tile (more : Prop) [Decidable more] (m : MmRun) (now : Nat) (k : Core) (b : Bool) :
    (runOn more m now k).tile b = k.tile b := by
  unfold runOn
  split <;> rfl

theorem stepped_tile (s : State) (c : Nat) (m : MmRun) (book : Book) :
    ((stepped s c m book).core c).tile m.inst.tile = steppedTile (s.core c) m book.levels := by
  unfold stepped
  rw [State.core_mapCore_same, runOn_tile, stepProducts_core]
  exact Core.tile_setTile_same ..

theorem stepped_tile_not (s : State) (c : Nat) (m : MmRun) (book : Book) :
    ((stepped s c m book).core c).tile (!m.inst.tile) = (s.core c).tile (!m.inst.tile) := by
  unfold stepped
  rw [State.core_mapCore_same, runOn_tile, stepProducts_core]
  exact Core.tile_setTile_not ..

/-- A step that another follows leaves the MATMUL running, with the feeds of the next. -/
theorem stepped_next {s : State} {c : Nat} {m : MmRun} (book : Book) (h : hasNextStep (s.core c) m) :
    ((stepped s c m book).core c).mm
        = some (stepFeeds ((stepped s c m book).core c) { m with at_ := s.now } (m.step + 1))
      ∧ ((stepped s c m book).core c).fins = (s.core c).fins := by
  unfold stepped
  rw [State.core_mapCore_same]
  refine ⟨runOn_next_mm h .., ?_⟩
  rw [runOn_next h, stepProducts_core]
  exact Core.setTile_fins ..

/-- After its last step a MATMUL waits for its completion. -/
theorem stepped_last {s : State} {c : Nat} {m : MmRun} (book : Book) (h : ¬hasNextStep (s.core c) m) :
    ((stepped s c m book).core c).mm = none
      ∧ ((stepped s c m book).core c).fins = (s.core c).fins ++ [{ m with at_ := s.now, step := m.step + 1 }] := by
  unfold stepped
  rw [runOn_last h, State.core_mapCore_same]
  refine ⟨rfl, ?_⟩
  rw [stepProducts_core]
  exact congrArg (· ++ _) (Core.setTile_fins ..)

/-! ### Its completion (R103) -/

theorem matmulComplete_first {s : State} {c : Nat} {m : MmRun} {rest : List MmRun} (hfin : (s.core c).fins = m :: rest)
    (hrun : aborting s m.inst.task = false) :
    matmulComplete s c = if s.now < m.at_ + 8 then s else
      (s.mapCore c (fun k => { k with fins := rest })).bump (slotArr c) 0x048 1 := by
  unfold matmulComplete
  rw [hfin]
  simp only [hrun, Bool.or_false, decide_eq_true_eq]

/-- Settles O15: each command does what the equation of its meaning says; a step leaves its tile, its run record and nothing
else of the array. -/
theorem matmulRuns : Obligations.MatmulRuns := by
  refine ⟨?start, ?step, ?nonfinite, ?complete⟩
  case start =>
    intro s c q rest hon hidle hq hbook hw ha hrun
    exact congrArg Host.Outcome.next
      ((onlyIf_of hon _ s).trans (matmulStart_first hidle hq hbook hw ha hrun))
  case step =>
    intro s u c m book i hon hu hm hw ha hrun hfinite hbook hfree htime
    subst hu
    have htime' := (Nat.add_le_add_left (stepTime_le _ _ _ _ _ (stepExtra_le (pull s c.val |>.core c.val) m)) m.at_).trans htime
    have hkeeps := (stepped_keeps (pull s c.val) c.val m book).only
    refine ⟨stepped (pull s c.val) c.val m book, ?_, ?_, stepped_tile_not .., ?_,
      hkeeps.mem_eq (by decide), hkeeps.faults_eq (by decide), fun d hd => stepped_core_other _ m book hd⟩
    · exact congrArg Host.Outcome.next
        ((onlyIf_of hon _ s).trans (arrayStep_due hm hw ha hrun hfinite hbook hfree htime'))
    · rw [stepped_tile]
      rfl
    · split
      · exact stepped_next book ‹_›
      · exact stepped_last book ‹_›
  case nonfinite =>
    intro s u c m pos i hon hu hm hw ha hrun hbad
    subst hu
    exact congrArg Host.Outcome.next ((onlyIf_of hon _ s).trans (arrayStep_nonfinite hm hw ha hrun hbad))
  case complete =>
    intro s c m rest hon hfin hrun
    exact congrArg Host.Outcome.next ((onlyIf_of hon _ s).trans (matmulComplete_first hfin hrun))

end Sys2Proof.Machine

/-! PROOFS. The waits of a stream channel: its re-arm, its disarm, the swap of its halves and its priming. -/

namespace Sys2Proof.Machine

/-! ### A channel outside every chain -/

theorem joinedSlot_unchained {k : Core} {h : Chan} (hc : h.chain = none) : joinedSlot k h = none := by
  unfold joinedSlot
  rw [hc]

theorem leadNext_unchained {s : State} {c ch : Nat} (h : ((s.core c).chan ch).chain = none) (again : Bool) :
    leadNext s c ch again = s := by
  unfold leadNext
  rw [h]

theorem leadSrc_unchained {s : State} {c ch : Nat} (h : ((s.core c).chan ch).chain = none) : leadSrc s c ch = s := by
  unfold leadSrc
  dsimp only
  rw [h]

/-! ### REARM_TAKE_EFFECT (R176) -/

/-- The state once a channel outside every chain is re-armed, before the trace notes it. -/
abbrev rearmedState (s : State) (c ch : Nat) (q : QInst) : State :=
  s.mapChan c ch (fun h => rearmed s (s.core c) h q (taskSess s q.task))

section
variable {s : State} {c ch : Nat} {q : QInst} (hq : ((s.core c).chan ch).rearm = some q)
include hq

theorem rearmEffect_waits (hused : chanUsed s c ch = true) : rearmEffect s c ch = s := by
  unfold rearmEffect
  dsimp only
  rw [hq]
  exact if_pos (by simp [hused])

theorem rearmEffect_free (hfree : chanUsed s c ch = false)
    (hgranted : ((s.core c).chan ch).desc.write = true → ((s.core c).chan ch).done ≤ ((s.core c).chan ch).fetched)
    (hchain : ((s.core c).chan ch).chain = none) :
    rearmEffect s c ch = taskTrace (rearmedState s c ch q) 3 0x09 (slotStrm c) q.task
      [w32 ch, w32 (((rearmedState s c ch q).core c).chan ch).base] := by
  have hwait : ¬ (chanUsed s c ch || (((s.core c).chan ch).desc.write
      && decide (((s.core c).chan ch).fetched < ((s.core c).chan ch).done))) = true := by
    simp only [hfree, Bool.false_or, Bool.and_eq_true, decide_eq_true_eq, not_and, Nat.not_lt]
    exact hgranted
  have hout : (((rearmedState s c ch q).core c).chan ch).chain = none := by
    rw [mapChan_chan_same]
    exact hchain
  unfold rearmEffect
  dsimp only
  rw [hq]
  dsimp only
  rw [if_neg hwait, leadNext_unchained hchain]
  exact congrArg (fun u => taskTrace u 3 0x09 (slotStrm c) q.task [w32 ch, w32 ((u.core c).chan ch).base])
    (leadSrc_unchained hout)

end

/-! ### DISARM_COMPLETE (R177) -/

section
variable {s : State} {c ch : Nat} {q : QInst} (hq : ((s.core c).chan ch).disarm = some q)
include hq

theorem disarmDone_waits (h : chanUsed s c ch = true ∨ writesDone ((s.core c).chan ch) = false) : disarmDone s c ch = s := by
  unfold disarmDone
  dsimp only
  rw [hq]
  exact if_pos (by simpa using h)

theorem disarmDone_free (hfree : chanUsed s c ch = false) (hwritten : writesDone ((s.core c).chan ch) = true)
    (hchain : ((s.core c).chan ch).chain = none) :
    disarmDone s c ch = taskTrace (s.mapChan c ch Chan.stop) 3 0x0A (slotStrm c) q.task
      [w32 ch, w32 ((s.core c).chan ch).done] := by
  unfold disarmDone
  dsimp only
  rw [hq]
  dsimp only
  rw [if_neg (by simp [hfree, hwritten]), leadNext_unchained hchain]

end

/-! ### HALVES_SWAP (R180, R181) -/

theorem swapReady_unauthorised {k : Core} {h : Chan} (ha : h.auth = 0) : swapReady k h = false := by
  simp [swapReady, ha]

/-! ### The commands on a core that runs, once its engines have taken and handed over what they can -/

section
variable {s u : State} {c : CoreId} (ch : ChanId) (hon : s.coreRuns c.val = true) (hu : u = pull s c.val)
include hon hu

theorem exec_rearmTakeEffect : exec (.rearmTakeEffect c ch) s = .next (rearmEffect u c.val ch.val) := by
  subst hu
  exact congrArg Host.Outcome.next (onlyIf_of hon _ s)

theorem exec_disarmComplete : exec (.disarmComplete c ch) s = .next (disarmDone u c.val ch.val) := by
  subst hu
  exact congrArg Host.Outcome.next (onlyIf_of hon _ s)

theorem exec_halvesSwap : exec (.halvesSwap c ch) s = .next (halvesSwap u c.val ch.val) := by
  subst hu
  exact congrArg Host.Outcome.next (onlyIf_of hon _ s)

end

/-- Settles O23: a command whose condition holds has the effect of its meaning on the channel, and otherwise none. -/
theorem streamWaitsTakeEffect : Obligations.StreamWaitsTakeEffect := by
  refine ⟨?rearm, ?rearmWaits, ?disarm, ?disarmWaits, ?swap, ?unauthorised, ?primed⟩
  case rearm =>
    intro s u c ch q hon hu hq hfree hgranted hchain
    refine ⟨_, (exec_rearmTakeEffect ch hon hu).trans (congrArg _ (rearmEffect_free hq hfree hgranted hchain)),
      ((taskTrace_keeps ..).cut (by decide) ((State.mapChan_keeps ..).mono (by decide))).only, ?_⟩
    simp only [taskTrace_core, mapChan_chan_same]
    refine ⟨?_, rfl, rfl, rfl, rfl, rfl, rfl, rfl, rfl, rfl, fun i hi => mapChan_chan_other _ _ _ hi,
      fun d hd => mapChan_core_other _ _ _ hd⟩
    simp [rearmed, isJoined, joinedSlot_unchained hchain]
  case rearmWaits =>
    intro s u c ch q hon hu hq hused
    rw [exec_rearmTakeEffect ch hon hu, rearmEffect_waits hq hused]
  case disarm =>
    intro s u c ch q hon hu hq hfree hwritten hchain
    refine ⟨_, (exec_disarmComplete ch hon hu).trans (congrArg _ (disarmDone_free hq hfree hwritten hchain)),
      ((taskTrace_keeps ..).cut (by decide) ((State.mapChan_keeps ..).mono (by decide))).only, ?_⟩
    simp only [taskTrace_core, mapChan_chan_same]
    exact ⟨rfl, rfl, rfl, rfl, fun i hi => mapChan_chan_other _ _ _ hi, fun d hd => mapChan_core_other _ _ _ hd⟩
  case disarmWaits =>
    intro s u c ch q hon hu hq hwait
    rw [exec_disarmComplete ch hon hu, disarmDone_waits hq hwait]
  case swap =>
    intro s u c ch hon hu hready
    refine ⟨u.mapChan c.val ch.val Chan.swap, (exec_halvesSwap ch hon hu).trans (congrArg _ (if_pos hready)),
      (State.mapChan_keeps ..).only, ?_⟩
    rw [mapChan_chan_same]
    exact ⟨rfl, rfl, rfl⟩
  case unauthorised =>
    intro s u c ch hon hu hauth
    have hnot : ¬ swapReady (u.core c.val) ((u.core c.val).chan ch.val) = true := by
      simp [swapReady_unauthorised hauth]
    exact (exec_halvesSwap ch hon hu).trans (congrArg _ (if_neg hnot))
  case primed =>
    intro s c ch hon harmed hnot
    refine congrArg Host.Outcome.next ((onlyIf_of hon _ s).trans ?_)
    unfold channelPrimed
    simp only [harmed, hnot, Bool.not_false, Bool.true_and, decide_eq_true_eq]

end Sys2Proof.Machine

/-! PROOFS. The codebook store: a load starts into the slot that R79 chooses and ends 48 fc later. -/

namespace Sys2Proof.Machine

/-! ### The start of a load (R77, R79) -/

/-- The slot that a load has taken: empty but for its pins, claimed by the load's task. -/
def loadingSlot (v : CbSlot) (l : CbLoad) (now : Nat) : CbSlot :=
  { CbSlot.empty with loading := true, claims := l.task.toList, pins := v.pins, group := l.group
                      granted := if l.task.isSome then now else v.granted }

theorem startLoad_core (s : State) (c i : Nat) (l : CbLoad) :
    (startLoad s c i l).core c
      = { (s.core c).setSlot i (loadingSlot ((s.core c).slot i) l s.now) with
          load := some { l with slot := some i, start := s.now, marked := [] } } := by
  unfold startLoad
  rw [State.core_mapCore_same]
  obtain ⟨task, tenant, group, wants, pins, slot, start, marked⟩ := l
  cases task <;> rfl

theorem startLoad_core_other (s : State) {c d : Nat} (i : Nat) (l : CbLoad) (h : d ≠ c) :
    (startLoad s c i l).core d = s.core d :=
  State.core_mapCore_other s _ h

theorem startLoad_slot_same (s : State) (c i : Nat) (l : CbLoad) :
    ((startLoad s c i l).core c).slot i = loadingSlot ((s.core c).slot i) l s.now := by
  rw [startLoad_core]
  exact Core.slot_setSlot_same ..

theorem startLoad_slot_other (s : State) (c : Nat) {i j : Nat} (l : CbLoad) (h : j ≠ i) :
    ((startLoad s c i l).core c).slot j = (s.core c).slot j := by
  rw [startLoad_core]
  exact Core.slot_setSlot_other _ _ h

theorem groupLookup_misses {s : State} {c t : Nat} (g : Nat) {ws : List CbWant}
    (hconflict : groupConflict (s.core c) (taskTenant s t) ws = none) (hhit : groupHit (s.core c) (taskTenant s t) ws = none) :
    groupLookup s c t g ws = none := by
  unfold groupLookup
  dsimp only
  rw [hconflict]
  dsimp only
  rw [hhit]

/-- The state in which a waiting load has left its line. -/
abbrev lineLeft (s : State) (c : Nat) (l : CbLoad) : State :=
  s.mapCore c (fun k => { k with loads := dropFirst l k.loads })

theorem codebookLoad_starts {s : State} {c : Nat} {l : CbLoad} {tk i : Nat} (hidle : (s.core c).load = none)
    (hfirst : (s.core c).loads.find? (fun l => l.task.isSome) = some l) (htask : l.task = some tk)
    (hconflict : groupConflict (s.core c) (taskTenant s tk) l.wants = none)
    (hhit : groupHit (s.core c) (taskTenant s tk) l.wants = none) (hslot : chooseSlot (s.core c) = some i) :
    codebookLoad s c = startLoad (lineLeft s c l) c i l := by
  have hmiss : groupLookup (lineLeft s c l) c tk l.group l.wants = none := by
    refine groupLookup_misses _ ?_ ?_
    · rw [State.core_mapCore_same]
      exact hconflict
    · rw [State.core_mapCore_same]
      exact hhit
  unfold codebookLoad
  dsimp only
  rw [if_neg (by simp [hidle]), hfirst]
  dsimp only
  rw [htask, Option.getD_some, hmiss]
  dsimp only
  rw [hslot]

/-! ### The end of a load (R77, R468) -/

/-- The codebooks that a load brings: the records of its group. -/
def CbLoad.booksOf (l : CbLoad) (rs : List Record) : List Book :=
  rs.map (fun r => { tenant := l.tenant, e256 := r.e256, tag := r.tag, check := r.check, levels := r.levels })

theorem loadEnd_good {s : State} {l : CbLoad} {rs : List Record} (hgood : s.mem.verify (l.group / 512) = .good)
    (hgroup : groupOfBlock (s.mem.block (l.group / 512)) = some rs) (hcheck : ∀ r ∈ rs, levelCheck r.levels = r.check)
    (hwants : ∀ w ∈ l.wants, ∃ r, rs[w.index]? = some r ∧ r.tag = w.tag ∧ r.e256 = w.e256
      ∧ (l.task = none → l.pins ≠ [] → r.check = w.check)) :
    loadEnd s l = .ok (l.booksOf rs) := by
  unfold loadEnd
  rw [hgood]
  dsimp only
  rw [hgroup]
  dsimp only
  rw [List.find?_eq_none.mpr (fun r hr => by simp [hcheck r hr])]
  dsimp only
  rw [List.find?_eq_none.mpr]
  · rfl
  · intro w hw
    obtain ⟨r, hr, htag, hkind, hlevels⟩ := hwants w hw
    rw [hr]
    simpa [htag, hkind] using hlevels

theorem loadEnd_mismatch {s : State} {l : CbLoad} {x : Word} (h : s.mem.verify (l.group / 512) = .mismatch x) :
    loadEnd s l = .bad 0x0002 l.claim x := by
  unfold loadEnd
  rw [h]

/-- The slot once the records of a load are in it. -/
abbrev loadedSlot (v : CbSlot) (l : CbLoad) (books : List Book) : CbSlot :=
  { v with books := books, wide := books.any (·.e256), loading := false, failed := false, parity := false
           pins := (v.pins ++ l.pins).eraseDups }

/-- The state in which no load of the core runs and the load's slot has been replaced. -/
abbrev loadOver (s : State) (c i : Nat) (f : CbSlot → CbSlot) : State :=
  (s.mapCore c (fun k => { k with load := none })).mapCore c (fun k => k.setSlot i (f (k.slot i)))

/-- The records are in the slot, and CODEBOOK_LOADS has counted. -/
abbrev loadedState (s : State) (c i : Nat) (l : CbLoad) (books : List Book) : State :=
  (loadOver s c i (fun v => loadedSlot v l books)).bump (slotArr c) 0x24C 1

theorem loadOver_load (s : State) (c i : Nat) (f : CbSlot → CbSlot) : ((loadOver s c i f).core c).load = none := by
  rw [State.core_mapCore_same, State.core_mapCore_same]
  rfl

theorem loadOver_slot (s : State) (c i : Nat) (f : CbSlot → CbSlot) :
    ((loadOver s c i f).core c).slot i = f ((s.core c).slot i) := by
  rw [State.core_mapCore_same, State.core_mapCore_same, Core.slot_setSlot_same]
  rfl

theorem loadOver_core_other (s : State) {c d : Nat} (i : Nat) (f : CbSlot → CbSlot) (h : d ≠ c) :
    (loadOver s c i f).core d = s.core d := by
  rw [State.core_mapCore_other _ _ h, State.core_mapCore_other _ _ h]

section
variable (s : State) (c i : Nat) (l : CbLoad) (books : List Book)

theorem loadedState_keeps : Keeps [.regs, .cores] s (loadedState s c i l books) :=
  (State.bump_keeps ..).cut (by decide) <| (State.mapCore_keeps ..).cut (by decide) <| (State.mapCore_keeps ..).mono (by decide)

theorem loadedState_load : ((loadedState s c i l books).core c).load = none := by
  rw [bump_core, loadOver_load]

theorem loadedState_slot : ((loadedState s c i l books).core c).slot i = loadedSlot ((s.core c).slot i) l books := by
  rw [bump_core, loadOver_slot]

theorem loadedState_core_other {d : Nat} (h : d ≠ c) : (loadedState s c i l books).core d = s.core d := by
  rw [bump_core, loadOver_core_other _ _ _ h]

theorem loadedState_reg : (loadedState s c i l books).reg (slotArr c) 0x24C = s.reg (slotArr c) 0x24C + 1 :=
  bump_reg_same _ (slotArr c) 1 (by decide)

end

/-- A slot with a granted claim of a task; the slot counts as granted now (R79). -/
def claimedBy (v : CbSlot) (t now : Nat) : CbSlot :=
  { v with claims := if v.claims.contains t then v.claims else v.claims ++ [t], granted := now }

theorem grantBooks_core (s : State) (c t i : Nat) (ps : List (Nat × Nat)) (d : Nat) :
    (grantBooks s c t i ps).core d
      = (s.mapCore c (fun k => k.setSlot i (claimedBy (k.slot i) t s.now))).core d := by
  unfold grantBooks
  dsimp only
  split <;> rfl

theorem grantBooks_load (s : State) (c t i : Nat) (ps : List (Nat × Nat)) :
    ((grantBooks s c t i ps).core c).load = (s.core c).load := by
  rw [grantBooks_core, State.core_mapCore_same]
  rfl

theorem grantBooks_slot (s : State) (c t i : Nat) (ps : List (Nat × Nat)) :
    ((grantBooks s c t i ps).core c).slot i = claimedBy ((s.core c).slot i) t s.now := by
  rw [grantBooks_core, State.core_mapCore_same, Core.slot_setSlot_same]

theorem grantBooks_core_other (s : State) {c d : Nat} (t i : Nat) (ps : List (Nat × Nat)) (h : d ≠ c) :
    (grantBooks s c t i ps).core d = s.core d := by
  rw [grantBooks_core, State.core_mapCore_other _ _ h]

theorem refusePinned_nil (s : State) : refusePinned s [] = s := by
  unfold refusePinned
  simp

theorem loadComplete_early {s : State} {c : Nat} {l : CbLoad} (hl : (s.core c).load = some l) (h : s.now < l.start + 48) :
    loadComplete s c = s := by
  unfold loadComplete
  rw [hl]
  exact if_pos h

section
variable {s : State} {c i : Nat} {l : CbLoad} (hl : (s.core c).load = some l) (hi : l.slot = some i)
  (hlate : l.start + 48 ≤ s.now)
include hl hi hlate

theorem loadComplete_pins {books : List Book} (hend : loadEnd s l = .ok books) (htask : l.task = none) :
    loadComplete s c = loadedState s c i l books := by
  unfold loadComplete
  rw [hl]
  dsimp only
  rw [if_neg (Nat.not_lt.mpr hlate), hend, hi, htask]
  rfl

theorem loadComplete_task {books : List Book} {tk : Nat} (hend : loadEnd s l = .ok books) (htask : l.task = some tk) :
    loadComplete s c
      = grantBooks (loadedState s c i l books) c tk i (l.wants.map (fun w => (w.claim, w.index))) := by
  unfold loadComplete
  rw [hl]
  dsimp only
  rw [if_neg (Nat.not_lt.mpr hlate), hend, hi, htask]
  rfl

/-- The load of a task into an unpinned slot fails: the task is aborted, and the slot is empty again. -/
theorem loadComplete_bad {code claim tk : Nat} {d1 : Word} (hend : loadEnd s l = .bad code claim d1)
    (htask : l.task = some tk) (hpins : l.pins = []) :
    loadComplete s c = taskFault (loadOver s c i (fun v => { CbSlot.empty with granted := v.granted })) (slotArr c) tk (some c)
      code (some l.group) (w32 claim) d1 := by
  unfold loadComplete
  rw [hl]
  dsimp only
  rw [if_neg (Nat.not_lt.mpr hlate), hend, hi, htask, hpins]
  exact refusePinned_nil _

end

/-- Settles O12: the first waiting load starts into its slot; a load that is due ends with the books of its group in the slot,
or with the fault of its block. -/
theorem codebookLoadFillsItsSlot : Obligations.CodebookLoadFillsItsSlot := by
  refine ⟨?start, ?fills, ?early, ?mismatch⟩
  case start =>
    intro s c l tk i hon hidle hfirst htask hconflict hhit hslot
    refine ⟨_, congrArg Host.Outcome.next ((onlyIf_of hon _ s).trans
        (codebookLoad_starts hidle hfirst htask hconflict hhit hslot)),
      ((startLoad_keeps ..).cut (by decide) (State.mapCore_keeps ..)).only, ?_, ?_, ?_, fun j hj => ?_, fun d hd => ?_⟩
    · rw [startLoad_core]
      rfl
    · rw [startLoad_core, State.core_mapCore_same]
      rfl
    · rw [startLoad_slot_same, State.core_mapCore_same, loadingSlot, htask]
      rfl
    · rw [startLoad_slot_other _ _ _ hj, State.core_mapCore_same]
      rfl
    · rw [startLoad_core_other _ _ _ hd, State.core_mapCore_other _ _ hd]
  case fills =>
    intro s c l i rs hon hl hi hlate hgood hgroup hcheck hwants
    have hend := loadEnd_good hgood hgroup hcheck hwants
    have hframe := (loadedState_keeps s c.val i l (l.booksOf rs)).only
    refine ⟨_, congrArg Host.Outcome.next (onlyIf_of hon _ s), ?_⟩
    cases htask : l.task with
    | none =>
      rw [loadComplete_pins hl hi hlate hend htask]
      refine ⟨loadedState_load .., ?_, ?_, ?_, loadedState_reg .., hframe.mem_eq (by decide), hframe.faults_eq (by decide),
        fun d hd => loadedState_core_other _ _ _ _ _ hd⟩
      all_goals rw [loadedState_slot]
      rfl
    | some tk =>
      have hgrant := (grantBooks_keeps (loadedState s c.val i l (l.booksOf rs)) c.val tk i
        (l.wants.map (fun w => (w.claim, w.index)))).only
      rw [loadComplete_task hl hi hlate hend htask]
      refine ⟨?_, ?_, ?_, ?_, ?_, (hgrant.mem_eq (by decide)).trans (hframe.mem_eq (by decide)),
        (hgrant.faults_eq (by decide)).trans (hframe.faults_eq (by decide)), fun d hd => ?_⟩
      · rw [grantBooks_load, loadedState_load]
      · rw [grantBooks_slot, loadedState_slot]
        rfl
      · rw [grantBooks_slot, loadedState_slot]
        rfl
      · rw [grantBooks_slot, loadedState_slot]
        rfl
      · rw [reg_of_regs (hgrant.2 .regs (by decide)), loadedState_reg]
      · rw [grantBooks_core_other _ _ _ _ hd, loadedState_core_other _ _ _ _ _ hd]
  case early =>
    intro s c l hl hearly
    exact congrArg Host.Outcome.next (onlyIf_unchanged (loadComplete_early hl hearly) _)
  case mismatch =>
    intro s c l tk i x hon hl hi hlate htask hpins hbad
    refine ⟨_, congrArg Host.Outcome.next ((onlyIf_of hon _ s).trans
      (loadComplete_bad hl hi hlate (loadEnd_mismatch hbad) htask hpins)), ?_, ?_, ?_⟩
    · rw [taskFault_load, loadOver_load]
    · rw [taskFault_slot, loadOver_slot]
    · exact taskFault_faultPage ..

end Sys2Proof.Machine

/-! PROOFS. Pinned groups: their loads when an image is made resident, and their reloads. -/

namespace Sys2Proof.Machine

/-! ### A pinned load starts (R79, R82) -/

/-- The load of pins starts into a slot, which its images pin from then on. -/
abbrev startPinned (s : State) (c i : Nat) (l : CbLoad) : State :=
  (startLoad s c i l).mapCore c (fun k => k.setSlot i { k.slot i with pins := l.pins })

theorem startPinned_keeps (s : State) (c i : Nat) (l : CbLoad) : Keeps [.cores] s (startPinned s c i l) :=
  (State.mapCore_keeps ..).cut (by decide) (startLoad_keeps ..)

theorem startPinned_load (s : State) (c i : Nat) (l : CbLoad) :
    ((startPinned s c i l).core c).load = some { l with slot := some i, start := s.now, marked := [] } := by
  rw [State.core_mapCore_same, startLoad_core]
  rfl

theorem startPinned_loads (s : State) (c i : Nat) (l : CbLoad) :
    ((startPinned s c i l).core c).loads = (s.core c).loads := by
  rw [State.core_mapCore_same, startLoad_core]
  rfl

theorem startPinned_slot (s : State) (c i : Nat) (l : CbLoad) :
    ((startPinned s c i l).core c).slot i = { loadingSlot ((s.core c).slot i) l s.now with pins := l.pins } := by
  rw [State.core_mapCore_same, Core.slot_setSlot_same, startLoad_slot_same]

theorem pinnedLoad_starts {s : State} {c : Nat} {l : CbLoad} {rest : List CbLoad} {i : Nat} (hidle : (s.core c).load = none)
    (hline : (s.core c).loads = l :: rest) (hpins : ∀ m ∈ l :: rest, m.task = none) (hslot : chooseSlot (s.core c) = some i) :
    pinnedLoad s c = startPinned (s.mapCore c (fun k => { k with loads := rest })) c i l := by
  have htask : (l :: rest).any (fun m => m.task.isSome) = false := by
    simpa [Option.isSome_eq_false_iff] using hpins
  unfold pinnedLoad
  dsimp only
  rw [hidle, hline, htask, if_neg (by decide)]
  dsimp only
  rw [hslot]

/-! ### Time that goes to the reserve (R242) -/

theorem chargeReserve_reserve (s : State) (col n : Nat) :
    Tbl.getD (chargeReserve s col n).drover.reserve col 0 = Tbl.getD s.drover.reserve col 0 + n :=
  Tbl.getD_set_same s.drover.reserve col _ 0

@[simp] theorem chargeReserve_demands (s : State) (col n : Nat) : (chargeReserve s col n).drover.demands = s.drover.demands := rfl

@[simp] theorem chargeReserve_core (s : State) (col n c : Nat) : (chargeReserve s col n).core c = s.core c := rfl

@[simp] theorem startLoad_drover (s : State) (c i : Nat) (l : CbLoad) : (startLoad s c i l).drover = s.drover := rfl

/-- What an extended budget leaves of the Drover. -/
def SameReserve (s t : State) : Prop :=
  t.drover.reserve = s.drover.reserve ∧ t.drover.demands = s.drover.demands

theorem extendTask_reserve (s : State) (t core n : Nat) : SameReserve s (extendTask s t core n) := by
  unfold extendTask
  split <;> exact ⟨rfl, rfl⟩

theorem extendWaiters_reserve (s : State) (c i n : Nat) : SameReserve s (extendWaiters s c i n) := by
  unfold extendWaiters
  refine List.foldlRecOn (motive := fun u => SameReserve s u) _ _ ⟨rfl, rfl⟩ (fun u hu t _ => ?_)
  obtain ⟨hreserve, hdemands⟩ := hu
  obtain ⟨hreserve', hdemands'⟩ := extendTask_reserve u t c n
  exact ⟨hreserve'.trans hreserve, hdemands'.trans hdemands⟩

/-! ### Reloads (R85, R86) -/

theorem slotReload_starts {s : State} {c i : Nat} {m : Image} {p : PinE} {rest : List (Image × PinE)}
    (hidle : (s.core c).load = none) (hfailed : ((s.core c).slot i).failed = true) (hparity : ((s.core c).slot i).parity = true)
    (hpins : ((s.core c).slot i).pins ≠ [])
    (hmine : (let mine := (pinsOf s c).filter (fun p => ((s.core c).slot i).pinnedBy c p.1 p.2)
      mine.filter (fun p => p.2.group c == ((s.core c).slot i).group) ++ mine) = (m, p) :: rest) :
    slotReload s c i
      = chargeReserve (startLoad (extendWaiters s c i 48) c i (reloadOf (pinsOf s c) c (p.group c) m.tenant)) (c / 16) 48 := by
  unfold slotReload
  dsimp only at hmine ⊢
  rw [if_neg (by simp [hidle, hfailed, hparity, hpins]), hmine]

section
variable {s : State} {c : Nat} {m : Image} {p : PinE} {rest : List (Image × PinE)} {i : Nat}
  (hidle : (s.core c).load = none) (hmissing : missingPins s c = (m, p) :: rest)
include hidle hmissing

theorem pinReload_loads (hmiss : reloadHit (s.core c) m p = none) (hslot : chooseSlot (s.core c) = some i) :
    pinReload s c
      = (if s.drover.noCharge.contains c then startPinned s c i (reloadOf (pinsOf s c) c (p.group c) m.tenant)
         else chargeReserve (startPinned s c i (reloadOf (pinsOf s c) c (p.group c) m.tenant)) (c / 16) 48) := by
  unfold pinReload
  dsimp only
  rw [if_neg (by simp [hidle]), hmissing]
  dsimp only
  rw [hmiss]
  dsimp only
  rw [hslot]

theorem pinReload_shares (hhit : reloadHit (s.core c) m p = some i) :
    pinReload s c
      = s.mapCore c (fun k => k.setSlot i { k.slot i with pins := ((k.slot i).pins ++ [m.key]).eraseDups }) := by
  unfold pinReload
  dsimp only
  rw [if_neg (by simp [hidle]), hmissing]
  dsimp only
  rw [hhit]

end

/-- Settles O13: each load of pins is `startLoad` into its slot, with the pins and the charge that its rule gives. -/
theorem pinnedGroupsAreLoaded : Obligations.PinnedGroupsAreLoaded := by
  refine ⟨?waiting, ?failed, ?emptied, ?shared⟩
  case waiting =>
    intro s c l rest i hon hidle hline hpins hslot
    refine ⟨_, congrArg Host.Outcome.next ((onlyIf_of hon _ s).trans (pinnedLoad_starts hidle hline hpins hslot)),
      ((startPinned_keeps ..).cut (by decide) (State.mapCore_keeps ..)).only, startPinned_load .., ?_, ?_, ?_⟩
    · rw [startPinned_loads, State.core_mapCore_same]
    · rw [startPinned_slot]
      rfl
    · rw [startPinned_slot]
  case failed =>
    intro s c slot m p rest hon hidle hfailed hparity hpins hmine
    have hwait := extendWaiters_keeps s c.val slot.val 48
    obtain ⟨hreserve, hdemands⟩ := extendWaiters_reserve s c.val slot.val 48
    refine ⟨_, congrArg Host.Outcome.next ((onlyIf_of hon _ s).trans
        (slotReload_starts hidle hfailed hparity hpins hmine)),
      ((chargeReserve_keeps ..).cut (by decide) ((startLoad_keeps ..).cut (by decide) (hwait.mono (by decide)))).only,
      ?_, ?_, ?_, ?_⟩
    · rw [chargeReserve_core, startLoad_core, hwait.only.now_eq (by decide)]
      rfl
    · rw [chargeReserve_core, startLoad_slot_same]
      rfl
    · rw [chargeReserve_reserve, startLoad_drover, hreserve]
    · rw [chargeReserve_demands, startLoad_drover, hdemands]
  case emptied =>
    intro s c m p rest i hon hidle hmissing hmiss hslot
    refine ⟨_, congrArg Host.Outcome.next ((onlyIf_of hon _ s).trans (pinReload_loads hidle hmissing hmiss hslot)), ?_⟩
    have hkeeps := (startPinned_keeps s c.val i (reloadOf (pinsOf s c.val) c.val (p.group c.val) m.tenant)).mono
      (qs := [.cores, .drover]) (by decide)
    split
    · refine ⟨hkeeps.only, startPinned_load .., ?_, rfl, rfl⟩
      rw [startPinned_slot]
    · refine ⟨((chargeReserve_keeps ..).cut (by decide) hkeeps).only, ?_, ?_, chargeReserve_reserve .., rfl⟩
      · rw [chargeReserve_core, startPinned_load]
        rfl
      · rw [chargeReserve_core, startPinned_slot]
  case shared =>
    intro s c m p rest i hon hidle hmissing hhit
    refine ⟨_, congrArg Host.Outcome.next ((onlyIf_of hon _ s).trans (pinReload_shares hidle hmissing hhit)),
      (State.mapCore_keeps ..).only, ?_, ?_, ?_⟩
    all_goals rw [State.core_mapCore_same]
    · exact hidle
    · rw [Core.slot_setSlot_same]
    · rw [Core.slot_setSlot_same]

end Sys2Proof.Machine

/-! PROOFS. PARITY_REPLAY: what one replay costs, and what a persistent error leaves. -/

namespace Sys2Proof.Machine

/-! ### Marked words (R193, R467) -/

theorem Memory.mem_mark (m : Memory) (a : Nat) : a / 8 ∈ (m.mark a).poison := by
  unfold Memory.mark
  split
  · rename_i h
    simpa using h
  · simp

/-- A block with a marked word is found poisoned. -/
theorem Memory.verify_marked {m : Memory} {blk w : Nat} (hw : w < 64) (h : blk * 64 + w ∈ m.poison) :
    ∃ v, m.verify blk = .poisoned v := by
  have hmem : w ∈ m.poisonIn blk := by
    simp [Memory.poisonIn, hw, h]
  unfold Memory.verify
  cases hp : m.poisonIn blk with
  | nil => exact absurd (hp ▸ hmem) List.not_mem_nil
  | cons v l => exact ⟨v, rfl⟩

theorem blockFault_poisoned {s : State} {c ch t : Nat} (blk w : Nat) (h : ((s.core c).chan ch).task = some t) :
    blockFault s c ch blk (.poisoned w) = taskFault s (slotStrm c) t (some c) 0x0003 (some (blk * 512 + 8 * w))
      (w32 ch ||| fld w 8) (flag (markedBy ((s.core c).chan ch).marked blk w) 0) := by
  unfold blockFault chanFault
  dsimp only
  rw [h]

/-! ### When a read is replayed -/

theorem parityReplay_marked {s : State} {r : Reader} {addr : Nat} (hr : ∀ c i, r ≠ .codebook c i)
    (h : addr / 8 ∈ s.mem.poison) (b : Bool) : parityReplay s r addr b = s := by
  have hskip : (s.mem.poison.contains (addr / 8) || !readerReaches s r addr) = true := by
    simp [h]
  cases r with
  | codebook c i => exact absurd rfl (hr c i)
  | _ => exact if_pos hskip

theorem parityReplay_store {s : State} {r : Reader} {addr : Nat} (hr : ∀ c i, r ≠ .codebook c i)
    (h : addr / 8 ∉ s.mem.poison) (hreach : readerReaches s r addr = true) (b : Bool) :
    parityReplay s r addr b = replayStore s r addr b := by
  have hreplay : ¬ (s.mem.poison.contains (addr / 8) || !readerReaches s r addr) = true := by
    simp [h, hreach]
  cases r with
  | codebook c i => exact absurd rfl (hr c i)
  | _ => exact if_neg hreplay

section
variable {s : State} {c : CoreId} {addr : Nat} (hrange : rangeOk (storeAddr addr) 1 false = true)
include hrange

theorem readerReaches_channel (hon : s.coreRuns c.val = true) (ch : ChanId) : readerReaches s (.channel c ch) addr = true := by
  unfold readerReaches
  dsimp only [readerCore]
  rw [hrange, hon]
  rfl

theorem readerReaches_program (hon : s.coreRuns c.val = true) (hnear : region (storeAddr addr) = .near c.val) :
    readerReaches s (.program c) addr = true := by
  unfold readerReaches
  dsimp only [readerCore]
  rw [hrange, hon, hnear]
  exact beq_self_eq_true _

theorem readerReaches_herd (hherd : region (storeAddr addr) = .herd) : readerReaches s .herd addr = true := by
  unfold readerReaches
  dsimp only [readerCore]
  rw [hrange, hherd]
  rfl

end

/-! ### What a replay costs (R194) -/

/-- The state once a replay has its slot, its time is charged and its counters have counted. -/
abbrev replayPaid (s : State) (r : Reader) (addr : Nat) (t : Option Nat) (persists : Bool) : State :=
  replayCount (replayCharge (replaySlot s addr) (replayCol r addr) t ((readerCore r).getD 256) (replayLatency r addr))
    ((readerCore r).or (regionCore (storeAddr addr))) persists

/-- A replay that reads correctly. -/
theorem replayStore_reads {s : State} {r : Reader} {t : Option Nat} (h : readerTask s r = some t) (addr : Nat) :
    replayStore s r addr false = replayed (replayPaid s r addr t false) r addr false := by
  unfold replayStore
  rw [h]
  dsimp only [replayPaid]
  cases hc : readerCore r <;> rfl

/-- An error that persists marks the word. -/
theorem replayStore_marks {s : State} {r : Reader} {t : Option Nat} (h : readerTask s r = some t) (addr : Nat) :
    replayStore s r addr true = (replayed (replayPaid s r addr t true) r addr true).mapMem (fun m => m.mark addr) := by
  unfold replayStore
  rw [h]
  dsimp only [replayPaid]
  cases hc : readerCore r <;> rfl

section
variable (s : State) (r : Reader) (addr : Nat) (t : Option Nat) (b : Bool)

theorem replayPaid_keeps : Keeps [.regs, .evts, .slots, .drover] s (replayPaid s r addr t b) :=
  (replayCount_keeps ..).cut (by decide) <| (replayCharge_keeps ..).cut (by decide) <| (replaySlot_keeps ..).mono (by decide)

/-- The state after the replay of a read but for the mark: what its reader remembers is in it. -/
theorem replayed_paid_keeps : Keeps [.regs, .evts, .slots, .cores, .drover, .herd, .paddock] s
    (replayed (replayPaid s r addr t b) r addr b) :=
  (replayed_keeps ..).cut (by decide) ((replayPaid_keeps s r addr t b).mono (by decide))

/-- A replay takes one further slot. -/
theorem replayed_paid_slots : (replayed (replayPaid s r addr t b) r addr b).slots.length = s.slots.length + 1 := by
  rw [(replayed_keeps ..).only.slots_eq (by decide), (replayCount_keeps ..).only.slots_eq (by decide),
    (replayCharge_keeps ..).only.slots_eq (by decide)]
  exact List.length_append

end

/-- REPLAYS counts a replay on a core. -/
theorem replayCount_replays (s : State) (c : Nat) (b : Bool) :
    (replayCount s (some c) b).reg (slotStrm c) 0x048 = s.reg (slotStrm c) 0x048 + 1 := by
  have hcounts : ((s.bump (slotStrm c) 0x048 1).pulse (slotStrm c) 1).reg (slotStrm c) 0x048
      = s.reg (slotStrm c) 0x048 + 1 := bump_reg_same s _ 1 (by decide)
  have hne : regAt (slotStrm c) 0x048 ≠ regAt (slotStrm c) 0x04C := by
    rw [Ne, regAt_inj (by decide) (by decide)]
    omega
  unfold replayCount
  cases b with
  | false => exact hcounts
  | true => exact (bump_reg_other _ 1 (by decide) hne).trans hcounts

/-- POISONS counts an error that persists. -/
theorem replayCount_poisons (s : State) (c : Nat) :
    (replayCount s (some c) true).reg (slotStrm c) 0x04C = s.reg (slotStrm c) 0x04C + 1 := by
  have hne : regAt (slotStrm c) 0x04C ≠ regAt (slotStrm c) 0x048 := by
    rw [Ne, regAt_inj (by decide) (by decide)]
    omega
  have hkept : ((s.bump (slotStrm c) 0x048 1).pulse (slotStrm c) 1).reg (slotStrm c) 0x04C = s.reg (slotStrm c) 0x04C :=
    bump_reg_other s 1 (by decide) hne
  exact (bump_reg_same _ (slotStrm c) 1 (by decide)).trans (congrArg (· + 1) hkept)

/-- What a replay has charged before it counts leaves the registers as they are. -/
theorem charged_reg (s : State) (addr col : Nat) (t : Option Nat) (core n slot off : Nat) :
    (replayCharge (replaySlot s addr) col t core n).reg slot off = s.reg slot off :=
  reg_of_regs ((replayCharge_keeps ..).cut (ps := [.drover]) (qs := [.drover, .slots]) (by decide)
    ((replaySlot_keeps s addr).mono (by decide)) |>.only.2 .regs (by decide)) slot off

theorem replayed_reg (s : State) (r : Reader) (addr : Nat) (b : Bool) (slot off : Nat) :
    (replayed s r addr b).reg slot off = s.reg slot off :=
  reg_of_regs ((replayed_keeps s r addr b).only.2 .regs (by decide)) slot off

/-! ### A channel's read -/

/-- The channel after a replay of its read: it remembers a word that it has marked, and the time of the replay excuses its
waits (R187, R194). -/
def Chan.afterReplay (h : Chan) (now late blk : Nat) (new : List Nat) : Chan :=
  { h with
    marked := h.marked ++ new
    armedAt := if h.primed then h.armedAt else h.armedAt + late
    excuse := if h.primed then now + late else h.excuse
    flights := h.flights.map (fun f => if f.block = blk then { f with at_ := f.at_ + late } else f) }

theorem replayed_channel (s : State) (c : CoreId) (ch : ChanId) (addr : Nat) (b : Bool) :
    replayed s (.channel c ch) addr b = s.mapChan c.val ch.val (fun h =>
      h.afterReplay s.now (replayLatency (.channel c ch) addr) (storeAddr addr / 512) (if b then [addr / 8] else [])) := rfl

section
variable (s : State) (c : CoreId) (ch : ChanId) (addr : Nat) (t : Option Nat) (b : Bool)

theorem replayed_channel_chan :
    ((replayed (replayPaid s (.channel c ch) addr t b) (.channel c ch) addr b).core c.val).chan ch.val
      = ((s.core c.val).chan ch.val).afterReplay (replayPaid s (.channel c ch) addr t b).now
          (replayLatency (.channel c ch) addr) (storeAddr addr / 512) (if b then [addr / 8] else []) := by
  rw [replayed_channel, mapChan_chan_same, core_of_cores ((replayPaid_keeps ..).only.cores_eq (by decide))]

theorem replayed_channel_core_other {d : Nat} (h : d ≠ c.val) :
    (replayed (replayPaid s (.channel c ch) addr t b) (.channel c ch) addr b).core d = s.core d := by
  rw [replayed_channel, mapChan_core_other _ _ _ h, core_of_cores ((replayPaid_keeps ..).only.cores_eq (by decide))]

theorem replayed_channel_replays :
    (replayed (replayPaid s (.channel c ch) addr t b) (.channel c ch) addr b).reg (slotStrm c.val) 0x048
      = s.reg (slotStrm c.val) 0x048 + 1 := by
  rw [replayed_reg]
  exact (replayCount_replays _ c.val b).trans (congrArg (· + 1) (charged_reg ..))

theorem replayed_channel_poisons :
    (replayed (replayPaid s (.channel c ch) addr t true) (.channel c ch) addr true).reg (slotStrm c.val) 0x04C
      = s.reg (slotStrm c.val) 0x04C + 1 := by
  rw [replayed_reg]
  exact (replayCount_poisons _ c.val).trans (congrArg (· + 1) (charged_reg ..))

end

/-! ### The codebook store (R85) -/

/-- The slot of an unpinned group that has failed: empty but for its claims, which are being ended. -/
theorem slotFails_unpinned {s : State} {c i : Nat} (hpins : ((s.core c).slot i).pins = []) (word : Nat) :
    (((slotFails s c i word).core c).slot i).books = [] ∧ (((slotFails s c i word).core c).slot i).failed = false := by
  unfold slotFails
  dsimp only
  refine List.foldlRecOn (motive := fun u => (((State.core u c).slot i).books = [] ∧ ((State.core u c).slot i).failed = false))
    _ _ ?_ (fun u hu t _ => ?_)
  · rw [State.core_mapCore_same, Core.slot_setSlot_same, hpins]
    exact ⟨rfl, rfl⟩
  · rwa [taskFault_slot]

theorem replayBook_persists {s : State} {c i word : Nat} (hbooks : ((s.core c).slot i).books ≠ [])
    (hgood : ((s.core c).slot i).failed = false) (hnew : word ∉ ((s.core c).slot i).marks) :
    replayBook s c i word true = slotFails
      (replayCount (replayCharge s (c / 16) (mmTask (s.core c)) c Config.bookReplayFc) (some c) true) c i word := by
  unfold replayBook
  exact if_neg (by simp [hbooks, hgood, hnew])

/-- Settles O26: a replay is `replayed` on the state that has paid for it, with the word's mark where the error persists. -/
theorem parityErrorsReplayOnce : Obligations.ParityErrorsReplayOnce := by
  refine ⟨?channel, ?verified, ?aborted, ?program, ?herd, ?marked, ?codebook⟩
  case channel =>
    intro s c ch addr t hon hrange hnew htask
    have hread : ∀ b, exec (.parityReplay (.channel c ch) addr b) s = .next (replayStore s (.channel c ch) addr b) := fun b =>
      congrArg Host.Outcome.next (parityReplay_store (by simp) hnew (readerReaches_channel hrange hon ch) b)
    have hreader : readerTask s (.channel c ch) = some (some t) := congrArg (Option.map some) htask
    have hkeeps := fun b => (replayed_paid_keeps s (.channel c ch) addr (some t) b).only
    refine ⟨⟨_, (hread false).trans (congrArg _ (replayStore_reads hreader addr)), (hkeeps false).mem_eq (by decide),
      (hkeeps false).faults_eq (by decide), ?_, ?_, fun d hd => replayed_channel_core_other _ _ _ _ _ _ hd,
      replayed_paid_slots .., replayed_channel_replays ..⟩,
      ⟨_, (hread true).trans (congrArg _ (replayStore_marks hreader addr)),
        congrArg (Memory.mark · addr) ((hkeeps true).mem_eq (by decide)), (hkeeps true).faults_eq (by decide), ?_, ?_, ?_⟩⟩
    · rw [replayed_channel_chan]
      rfl
    · rw [replayed_channel_chan]
      rfl
    · rw [reg_of_regs (State.mapMem_regs ..), replayed_channel_replays]
    · rw [reg_of_regs (State.mapMem_regs ..), replayed_channel_poisons]
    · rw [mapMem_core, replayed_channel_chan]
      rfl
  case verified =>
    intro m addr _
    have hword : addr / 512 * 64 + addr / 8 % 64 = addr / 8 := by omega
    refine Memory.verify_marked (w := addr / 8 % 64) (by omega) ?_
    rw [hword]
    exact m.mem_mark addr
  case aborted =>
    intro s c ch blk w t htask
    exact blockFault_poisoned blk w htask
  case program =>
    intro s c addr p hon hrange hnear hnew hprog
    have hreader : readerTask s (.program c) = some (some p.task) := congrArg (Option.map _) hprog
    have hkeeps := (replayed_paid_keeps s (.program c) addr (some p.task) true).only
    exact ⟨_, congrArg Host.Outcome.next ((parityReplay_store (by simp) hnew (readerReaches_program hrange hon hnear) true).trans
        (replayStore_marks hreader addr)),
      congrArg (Memory.mark · addr) (hkeeps.mem_eq (by decide)), hkeeps.faults_eq (by decide)⟩
  case herd =>
    intro s addr t hrange hherd hnew hocc
    have hread : ∀ b, exec (.parityReplay .herd addr b) s = .next (replayStore s .herd addr b) := fun b =>
      congrArg Host.Outcome.next (parityReplay_store (by simp) hnew (readerReaches_herd hrange hherd) b)
    have hreader : readerTask s .herd = some (some t) := congrArg (Option.map some) hocc
    have hkeeps := fun b => (replayed_paid_keeps s .herd addr (some t) b).only
    refine ⟨⟨_, (hread false).trans (congrArg _ (replayStore_reads hreader addr)), (hkeeps false).mem_eq (by decide),
      (hkeeps false).faults_eq (by decide), replayed_paid_slots ..⟩,
      ⟨_, (hread true).trans (congrArg _ (replayStore_marks hreader addr)),
        congrArg (Memory.mark · addr) ((hkeeps true).mem_eq (by decide)), (hkeeps true).faults_eq (by decide), ?_⟩⟩
    exact congrArg (fun u => u.marked ++ [addr / 8]) ((replayPaid_keeps ..).only.2 .herd (by decide))
  case marked =>
    intro s r addr b hmarked hr
    exact congrArg Host.Outcome.next (parityReplay_marked hr hmarked b)
  case codebook =>
    intro s c i addr hon hbooks hgood hnew hpins
    have hcore : ∀ u : State, u.cores = s.cores → ((u.core c.val).slot i.val).pins = [] := fun u hu => by
      rw [core_of_cores hu, hpins]
    have hmem := (replayBook_keeps s c.val i.val (addr / 8) true).only.mem_eq (by decide)
    rw [replayBook_persists hbooks hgood hnew] at hmem
    refine ⟨_, congrArg Host.Outcome.next ((if_pos hon).trans (replayBook_persists hbooks hgood hnew)), hmem,
      slotFails_unpinned (hcore _ ?_) _⟩
    rw [(replayCount_keeps ..).only.cores_eq (by decide), (replayCharge_keeps ..).only.cores_eq (by decide)]

end Sys2Proof.Machine

/-! PROOFS. An array step adds the group of each cell into its tile element, once. -/

namespace Sys2Proof.Machine

/-! ### One element of a tile -/

/-- Elements of a tile's 64 columns have numbers of their own. -/
theorem elemNo_inj {r r' j j' : Nat} (hj : j < 64) (hj' : j' < 64) (h : 64 * r + j = 64 * r' + j') : (r, j) = (r', j') := by
  rw [Prod.mk.injEq]
  omega

@[simp] theorem Tile.elem_note (t : Tile) (vs : List W64) (r j : Nat) : (t.note vs).elem r j = t.elem r j := rfl

@[simp] theorem Tile.elem_setElem_same (t : Tile) (r j : Nat) (v : W64) : (t.setElem r j v).elem r j = v :=
  Tbl.getD_set_same t.elems (64 * r + j) v W64.zero

theorem Tile.elem_setElem_other (t : Tile) {r r' j j' : Nat} (v : W64) (hj : j < 64) (hj' : j' < 64)
    (h : (r, j) ≠ (r', j')) : (t.setElem r' j' v).elem r j = t.elem r j :=
  Tbl.getD_set_other t.elems v W64.zero (fun heq => h (elemNo_inj hj hj' heq))

/-! ### The cells of a step (R87, R89, R91) -/

/-- A cell of a step: a block as the row feeder gives it, and a column. -/
abbrev Cell := (Nat × Nat × Block) × Nat

section
variable (e : Extent) (levels : List Byte) (got : List Word) (g n : Nat)

/-- Array row and column of a cell. -/
def cellAt (p : Cell) : Nat × Nat := (e.row p.1.2.1 p.1.1, p.2)

/-- What a cell adds. -/
def cellGroup (p : Cell) : W64 :=
  W64.ofGroup (groupSum levels got g n e.cols p.1.2.1 p.2 p.1.2.2.ops) p.1.2.2.e

/-- One cell adds its group. -/
def addCell (t : Tile) (p : Cell) : Tile :=
  let v := (t.elem (cellAt e p).1 (cellAt e p).2).add (cellGroup e levels got g n p)
  (t.setElem (cellAt e p).1 (cellAt e p).2 v).note [v]

/-- The cells of a step: each of its blocks with each column of the extent. -/
def stepCells (bs : List (Nat × Nat × Block)) : List Cell := bs.product (List.range e.cols)

theorem addGroups_eq_foldl_addCell (t : Tile) (bs : List (Nat × Nat × Block)) :
    addGroups t e levels got g n bs = (stepCells e bs).foldl (addCell e levels got g n) t := by
  unfold stepCells List.product
  rw [List.foldl_flatMap]
  simp only [List.foldl_map]
  rfl

theorem groupSum_eq_sum (cols i j : Nat) (ops : List Int) :
    groupSum levels got g n cols i j ops
      = (ops.zipIdx.map (fun p => ((levels.getD (wd got (weightAt g n cols p.2 i j)).toNat 0).toInt : Int) * p.1)).sum :=
  (List.sum_eq_foldl (xs := ops.zipIdx.map _)).symm

end

theorem mem_stepCells {e : Extent} {bs : List (Nat × Nat × Block)} {p : Cell} :
    p ∈ stepCells e bs ↔ p.1 ∈ bs ∧ p.2 < e.cols := by
  rw [stepCells, List.pair_mem_product, List.mem_range]

/-- Blocks of distinct array rows give distinct cells. -/
theorem stepCells_nodup {e : Extent} {bs : List (Nat × Nat × Block)} (h : (bs.map (fun b => e.row b.2.1 b.1)).Nodup) :
    ((stepCells e bs).map (cellAt e)).Nodup := by
  have hcells : (stepCells e bs).map (cellAt e) = (bs.map (fun b => e.row b.2.1 b.1)).product (List.range e.cols) := by
    simp only [stepCells, List.product, List.map_flatMap, List.flatMap_map, List.map_map]
    rfl
  rw [hcells]
  exact h.product List.nodup_range

section
variable {e : Extent} {levels : List Byte} {got : List Word} {g n : Nat}

theorem addCell_elem_same (t : Tile) (p : Cell) :
    (addCell e levels got g n t p).elem (cellAt e p).1 (cellAt e p).2
      = (t.elem (cellAt e p).1 (cellAt e p).2).add (cellGroup e levels got g n p) := by
  unfold addCell
  rw [Tile.elem_note, Tile.elem_setElem_same]

theorem addCell_elem_other (t : Tile) {p : Cell} {a : Nat × Nat} (ha : a.2 < 64) (hp : p.2 < 64) (h : a ≠ cellAt e p) :
    (addCell e levels got g n t p).elem a.1 a.2 = t.elem a.1 a.2 := by
  unfold addCell
  rw [Tile.elem_note]
  exact Tile.elem_setElem_other t _ ha hp h

/-- An element that is none of the cells keeps its value. -/
theorem foldl_addCell_elem_other {a : Nat × Nat} (ha : a.2 < 64) {ps : List Cell} (hps : ∀ p ∈ ps, p.2 < 64)
    (h : a ∉ ps.map (cellAt e)) (t : Tile) :
    (ps.foldl (addCell e levels got g n) t).elem a.1 a.2 = t.elem a.1 a.2 := by
  induction ps generalizing t with
  | nil => rfl
  | cons q ps ih =>
    rw [List.map_cons, List.mem_cons, not_or] at h
    obtain ⟨hne, hrest⟩ := h
    rw [List.foldl_cons, ih (fun p hp => hps p (List.mem_cons_of_mem q hp)) hrest]
    exact addCell_elem_other t ha (hps q List.mem_cons_self) hne

/-- Distinct cells add each its group once: a cell's element is as before until its turn, and stays as it is afterwards. -/
theorem foldl_addCell_elem_same {ps : List Cell} (hps : ∀ p ∈ ps, p.2 < 64) (hnodup : (ps.map (cellAt e)).Nodup)
    {p : Cell} (hp : p ∈ ps) (t : Tile) :
    (ps.foldl (addCell e levels got g n) t).elem (cellAt e p).1 (cellAt e p).2
      = (t.elem (cellAt e p).1 (cellAt e p).2).add (cellGroup e levels got g n p) := by
  induction ps generalizing t with
  | nil => exact absurd hp List.not_mem_nil
  | cons q ps ih =>
    have hcols : ∀ x ∈ ps, x.2 < 64 := fun x hx => hps x (List.mem_cons_of_mem q hx)
    have hq : q.2 < 64 := hps q List.mem_cons_self
    rw [List.map_cons, List.nodup_cons] at hnodup
    obtain ⟨hfresh, hnodup⟩ := hnodup
    rw [List.foldl_cons]
    obtain rfl | htail := List.mem_cons.mp hp
    · rw [foldl_addCell_elem_other (hps p hp) hcols hfresh, addCell_elem_same]
    · have hne : cellAt e p ≠ cellAt e q := fun heq => hfresh (heq ▸ List.mem_map_of_mem htail)
      rw [ih hcols hnodup htail, addCell_elem_other t (hcols p htail) hq hne]

end

/-- Settles O16: a step runs over its cells, which are distinct elements of the tile. -/
theorem stepAddsEachGroupOnce : Obligations.StepAddsEachGroupOnce := by
  intro t e levels got g n bs hrows hwide
  have hcols : ∀ p ∈ stepCells e bs, p.2 < 64 := fun p hp => (mem_stepCells.mp hp).2.trans_le hwide
  rw [addGroups_eq_foldl_addCell]
  refine ⟨fun b hb j hj => ?_, fun r j hj hout => ?_⟩
  · rw [← groupSum_eq_sum]
    exact foldl_addCell_elem_same hcols (stepCells_nodup hrows) (p := (b, j)) (mem_stepCells.mpr ⟨hb, hj⟩) t
  · refine foldl_addCell_elem_other (a := (r, j)) hj hcols (fun hcell => ?_) t
    obtain ⟨p, hp, hat⟩ := List.mem_map.mp hcell
    obtain ⟨hblock, hcol⟩ := mem_stepCells.mp hp
    obtain ⟨rfl, rfl⟩ := Prod.mk.inj hat
    exact hout.elim (fun hrow => hrow (List.mem_map_of_mem hblock)) (fun hbeyond => absurd hcol hbeyond.not_gt)

end Sys2Proof.Machine

/-! PROOFS. The drain unit: the issue of DRAIN and of the tile transfers. -/

namespace Sys2Proof.Machine

/-! ### The checks in their order (R100, R128) -/

/-- The issue of an instruction of the drain unit whose lowest code of Table 4-6 is `code`, and which with no code leaves
the state `entered`. -/
def drainUnitIssue (c : Nat) (s : State) (p : Prog) (w : List Word) (code : Option Nat) (entered : State) : State :=
  if 4 ≤ (s.core c).drQ.length then s else
  if ((s.core c).tile (bit (wd w 0) 23)).holder != some p.task then tileCollision s c p.task (bit (wd w 0) 23) (wd w 0) else
  code.elim entered (fun n => arrFault s c p.task 0x0107 (w32 n) (wd w 0))

section
variable {s : State} {c : Nat} {p : Prog} {w : List Word} (code : Option Nat) (entered : State)

theorem drainUnitIssue_full (h : 4 ≤ (s.core c).drQ.length) : drainUnitIssue c s p w code entered = s := if_pos h

variable (hroom : (s.core c).drQ.length < 4)
include hroom

theorem drainUnitIssue_foreign (h : ((s.core c).tile (bit (wd w 0) 23)).holder ≠ some p.task) :
    drainUnitIssue c s p w code entered = tileCollision s c p.task (bit (wd w 0) 23) (wd w 0) :=
  (if_neg hroom.not_ge).trans (if_pos (bne_iff_ne.mpr h))

theorem drainUnitIssue_own (h : ((s.core c).tile (bit (wd w 0) 23)).holder = some p.task) :
    drainUnitIssue c s p w code entered = code.elim entered (fun n => arrFault s c p.task 0x0107 (w32 n) (wd w 0)) :=
  (if_neg hroom.not_ge).trans (if_neg (by simp [h]))

end

/-- The state once a DRAIN is in the queue: DR_LAST shows its word 0. -/
abbrev drainEntered (c : Nat) (s : State) (p : Prog) (w : List Word) : State :=
  enterDrain (s.setReg (slotArr c) 0x044 (wd w 0)) c p w ((s.core c).tile (bit (wd w 0) 23)).extent

/-- The state once a tile transfer is in the queue: TILE_LOAD has set the tile's extent (R124). -/
def xferEntered (c : Nat) (s : State) (p : Prog) (w : List Word) : State :=
  if opcodeOf (wd w 0) = opTileLoad then
    enterDrain (s.mapCore c (fun k => k.setTile (bit (wd w 0) 23) { k.tile (bit (wd w 0) 23) with extent := some (mmExtent w) }))
      c p w (some (mmExtent w))
  else enterDrain s c p w ((s.core c).tile (bit (wd w 0) 23)).extent

theorem issueDrain_eq (c : Nat) (s : State) (p : Prog) (w : List Word) :
    issueDrain c s p w = drainUnitIssue c s p w (drainCode s c p.task w) (drainEntered c s p w) := by
  unfold issueDrain drainUnitIssue
  cases drainCode s c p.task w <;> rfl

theorem issueXfer_eq (c : Nat) (s : State) (p : Prog) (w : List Word) :
    issueXfer c s p w = drainUnitIssue c s p w (xferCode s c p.task w) (xferEntered c s p w) := by
  unfold issueXfer drainUnitIssue
  cases xferCode s c p.task w <;> rfl

/-! ### The four instructions at their issue -/

theorem opcode_of_issues {s u : State} {op c : Nat} {p : Prog} {ws : List Word} (h : Issues s op c u p ws) :
    opcodeOf (wd ws 0) = op := by
  obtain ⟨-, hop, -⟩ := h
  exact hop

section
variable {s u : State} {c : CoreId} {p : Prog} {ws : List Word}

theorem exec_drain (h : Issues s opDrain c.val u p ws) :
    exec (.drain c) s = .next (drainUnitIssue c.val u p ws (drainCode u c.val p.task ws) (drainEntered c.val u p ws)) :=
  congrArg Host.Outcome.next ((issue_of_issues h _).trans (issueDrain_eq ..))

theorem exec_tileStore (h : Issues s opTileStore c.val u p ws) :
    exec (.tileStore c) s = .next (drainUnitIssue c.val u p ws (xferCode u c.val p.task ws) (xferEntered c.val u p ws)) :=
  congrArg Host.Outcome.next ((issue_of_issues h _).trans (issueXfer_eq ..))

theorem exec_tileLoad (h : Issues s opTileLoad c.val u p ws) :
    exec (.tileLoad c) s = .next (drainUnitIssue c.val u p ws (xferCode u c.val p.task ws) (xferEntered c.val u p ws)) :=
  congrArg Host.Outcome.next ((issue_of_issues h _).trans (issueXfer_eq ..))

theorem exec_tileAdd (h : Issues s opTileAdd c.val u p ws) :
    exec (.tileAdd c) s = .next (drainUnitIssue c.val u p ws (xferCode u c.val p.task ws) (xferEntered c.val u p ws)) :=
  congrArg Host.Outcome.next ((issue_of_issues h _).trans (issueXfer_eq ..))

/-- What the issue of a tile transfer answers is the same for the three of them. -/
theorem exec_tileTransfers {t : State}
    (h : drainUnitIssue c.val u p ws (xferCode u c.val p.task ws) (xferEntered c.val u p ws) = t) :
    (Issues s opTileStore c.val u p ws → exec (.tileStore c) s = .next t)
    ∧ (Issues s opTileLoad c.val u p ws → exec (.tileLoad c) s = .next t)
    ∧ (Issues s opTileAdd c.val u p ws → exec (.tileAdd c) s = .next t) :=
  ⟨fun hi => h ▸ exec_tileStore hi, fun hi => h ▸ exec_tileLoad hi, fun hi => h ▸ exec_tileAdd hi⟩

end

/-! ### An instruction in the queue -/

theorem xferEntered_other {w : List Word} (h : opcodeOf (wd w 0) ≠ opTileLoad) (c : Nat) (s : State) (p : Prog) :
    xferEntered c s p w = enterDrain s c p w ((s.core c).tile (bit (wd w 0) 23)).extent := if_neg h

theorem xferEntered_load {w : List Word} (h : opcodeOf (wd w 0) = opTileLoad) (c : Nat) (s : State) (p : Prog) :
    xferEntered c s p w
      = enterDrain (s.mapCore c (fun k =>
          k.setTile (bit (wd w 0) 23) { k.tile (bit (wd w 0) 23) with extent := some (mmExtent w) })) c p w
          (some (mmExtent w)) := if_pos h

/-- The core once an instruction has entered the drain queue. -/
theorem enterDrain_core (s : State) (c : Nat) (p : Prog) (w : List Word) (ext : Option Extent) :
    (enterDrain s c p w ext).core c
      = { s.core c with
          drQ := (s.core c).drQ ++ [⟨w, p.task, (s.core c).seq, ext, ((s.core c).tile (bit (wd w 0) 23)).scale⟩]
          prog := some { p with pc := p.pc + 4 * w.length }, seq := (s.core c).seq + 1 } := by
  unfold enterDrain
  rw [advance_core, State.core_mapCore_same]
  rfl

/-- The core once a TILE_LOAD is in the queue. -/
theorem xferEntered_load_core {w : List Word} (h : opcodeOf (wd w 0) = opTileLoad) (c : Nat) (s : State) (p : Prog) :
    (xferEntered c s p w).core c
      = { (s.core c).setTile (bit (wd w 0) 23)
            { (s.core c).tile (bit (wd w 0) 23) with extent := some (mmExtent w) } with
          drQ := (s.core c).drQ ++ [⟨w, p.task, (s.core c).seq, some (mmExtent w),
            ((s.core c).tile (bit (wd w 0) 23)).scale⟩]
          prog := some { p with pc := p.pc + 4 * w.length }, seq := (s.core c).seq + 1 } := by
  rw [xferEntered_load h, enterDrain_core, State.core_mapCore_same, Core.tile_setTile_same, Core.setTile_drQ, Core.setTile_seq]

/-- Settles O17: the checks of `drainUnitIssue` in their order, and the core that an instruction in the queue leaves. -/
theorem drainUnitIssues : Obligations.DrainUnitIssues := by
  refine ⟨?full, ?foreign, ?code, ?enters⟩
  case full =>
    intro s u c p ws hfull
    exact ⟨fun hi => (exec_drain hi).trans (congrArg _ (drainUnitIssue_full _ _ hfull)),
      exec_tileTransfers (drainUnitIssue_full _ _ hfull)⟩
  case foreign =>
    intro s u c p ws hroom hforeign
    exact ⟨fun hi => (exec_drain hi).trans (congrArg _ (drainUnitIssue_foreign _ _ hroom hforeign)),
      exec_tileTransfers (drainUnitIssue_foreign _ _ hroom hforeign)⟩
  case code =>
    intro s u c p ws code hroom hown
    refine ⟨fun hi hcode => ?_, fun hcode => exec_tileTransfers ?_⟩
    · rw [exec_drain hi, drainUnitIssue_own _ _ hroom hown, hcode]
      rfl
    · rw [drainUnitIssue_own _ _ hroom hown, hcode]
      rfl
  case enters =>
    intro s u c p ws hroom hown
    refine ⟨fun hi hcode => ?_, fun hcode => ?_⟩
    · rw [exec_drain hi, drainUnitIssue_own _ _ hroom hown, hcode]
      rfl
    · obtain ⟨hstore, hload, hadd⟩ := exec_tileTransfers (s := s) ((drainUnitIssue_own _ _ hroom hown).trans
        (congrArg (fun o => Option.elim o _ _) hcode))
      refine ⟨fun hi => (hstore hi).trans ?_, fun hi => (hadd hi).trans ?_, fun hi => ⟨_, hload hi, ?_, ?_⟩⟩
      · rw [Option.elim_none, xferEntered_other (by rw [opcode_of_issues hi]; decide)]
        rfl
      · rw [Option.elim_none, xferEntered_other (by rw [opcode_of_issues hi]; decide)]
        rfl
      · rw [Option.elim_none, xferEntered_load (opcode_of_issues hi)]
        exact ((enterDrain_keeps ..).cut (by decide) (State.mapCore_keeps ..)).only
      · rw [Option.elim_none, xferEntered_load_core (opcode_of_issues hi)]
        exact ⟨Core.tile_setTile_same .., Core.tile_setTile_not .., rfl, rfl⟩

end Sys2Proof.Machine

/-! PROOFS. DRAIN: its start, the release of its tile and its completion. -/

namespace Sys2Proof.Machine

/-! ### Its start (R109) -/

/-- The run of a DRAIN that starts. -/
abbrev startedDrain (s : State) (k : Core) (q : QInst) : DrRun :=
  { inst := q, start := s.now, relAt := s.now + 2 + drainRead q.extent
    endAt := s.now + 16 + 4 * (if q.extent.striped then Nat.log2 q.extent.s else 0) + drainRead q.extent
    released := false
    feed := if drFuse q.words = 0 then none
      else some { ch := drFch q.words, need := q.extent.rows * q.extent.cols, got := [], start := (k.chan (drFch q.words)).done }
    fmt := (k.chan (drFch q.words)).desc.format, out := [] }

theorem drainStart_first {s : State} {c : Nat} {q : QInst} {rest : List QInst} (hidle : (s.core c).dr = none)
    (hq : (s.core c).drQ = q :: rest) (hop : opcodeOf (wd q.words 0) = opDrain) (hfree : tileFree s c q = true)
    (hrun : aborting s q.task = false) :
    drainStart s c = pull (s.setCore c { s.core c with drQ := rest, dr := some (startedDrain s (s.core c) q) }) c := by
  unfold drainStart
  dsimp only
  rw [hidle, hq]
  dsimp only
  rw [if_neg (by simp [hop, hfree, hrun])]

/-! ### The release of its tile (R107 to R109) -/

/-- The state once a DRAIN has read its last element, before the unit hands over what it can. -/
abbrev drainReleased (s : State) (c : Nat) (d : DrRun) : State :=
  let out := drainOut (s.core c) d.inst d.fmt (feedVals d.feed)
  ((freeTile s c d.inst.tile).mapCore c (fun k =>
    { k with dr := some { d with released := true, out := out }
             nonfin := k.nonfin + badCycles (drFmt d.inst.words) out })).bump
    (slotArr c) 0x05C (out.filter (outNonfinite (drFmt d.inst.words))).length

theorem drainRelease_due {s : State} {c : Nat} {d : DrRun} (hd : (s.core c).dr = some d)
    (hop : opcodeOf (wd d.inst.words 0) = opDrain) (hheld : d.released = false) (htime : d.relAt ≤ s.now)
    (hfed : feedReady d.feed = true) (hrun : aborting s d.inst.task = false) :
    drainRelease s c = pull (drainReleased s c d) c := by
  unfold drainRelease
  dsimp only
  rw [hd]
  dsimp only
  rw [if_neg (by simp [hop, hheld, htime, hfed, hrun])]

/-! ### Its completion -/

theorem drEnded_of {s : State} {d : DrRun} (htime : d.endAt ≤ s.now) (hfreed : d.released = true) (hout : d.out = []) :
    drEnded s d = true := by
  simp [drEnded, htime, hfreed, hout]

theorem drainComplete_ended {s : State} {c : Nat} {d : DrRun} (hd : (s.core c).dr = some d)
    (hop : opcodeOf (wd d.inst.words 0) = opDrain) (hend : drEnded s d = true) (hrun : aborting s d.inst.task = false) :
    drainComplete s c = (s.mapCore c (fun k => { k with dr := none })).bump (slotArr c) 0x04C 1 := by
  unfold drainComplete
  rw [hd]
  exact if_pos ⟨hop, hend, hrun⟩

/-- A drain has one output for each batch row and column of its extent (R108). -/
theorem drainOut_length (k : Core) (q : QInst) (fmt : Nat) (fused : List Word) :
    (drainOut k q fmt fused).length = q.extent.rows * q.extent.cols := by
  unfold drainOut
  rw [List.length_map, List.length_range]

/-- Settles O18: each command does what the equation of its meaning says. -/
theorem drainRuns : Obligations.DrainRuns := by
  refine ⟨?start, ?release, ?complete, drainOut_length⟩
  case start =>
    intro s c q rest hon hidle hq hop hfree hrun
    exact congrArg Host.Outcome.next ((onlyIf_of hon _ s).trans (drainStart_first hidle hq hop hfree hrun))
  case release =>
    intro s u c d hon hu hd hop hheld htime hfed hrun
    subst hu
    exact congrArg Host.Outcome.next ((onlyIf_of hon _ s).trans (drainRelease_due hd hop hheld htime hfed hrun))
  case complete =>
    intro s u c d hon hu hd hop htime hfreed hout hrun
    subst hu
    exact congrArg Host.Outcome.next
      ((onlyIf_of hon _ s).trans (drainComplete_ended hd hop (drEnded_of htime hfreed hout) hrun))

end Sys2Proof.Machine

/-! PROOFS. Tile transfers: their start, the release of their tile and their completion. -/

namespace Sys2Proof.Machine

/-! ### Their start (R126) -/

/-- The run of a tile transfer that starts: 256 bytes an fc, and the latency of its kind. -/
abbrev startedXfer (s : State) (k : Core) (q : QInst) : DrRun :=
  let op := opcodeOf (wd q.words 0)
  let ch := bits (wd q.words 0) 16 14
  let moved := (xferBytes q.extent + 255) / 256
  { inst := q, start := s.now
    relAt := s.now + moved + (if op = opTileStore then 2 else xferLat op)
    endAt := s.now + moved + xferLat op
    released := false
    feed := if op = opTileStore then none
      else some { ch := ch, need := xferBytes q.extent, got := [], start := (k.chan ch).done }
    fmt := 0, out := [] }

theorem xferStart_first {s : State} {c : Nat} {q : QInst} {rest : List QInst} (hidle : (s.core c).dr = none)
    (hq : (s.core c).drQ = q :: rest) (hop : opcodeOf (wd q.words 0) ≠ opDrain) (hfree : tileFree s c q = true)
    (hrun : aborting s q.task = false) :
    xferStart s c = pull (s.setCore c { s.core c with drQ := rest, dr := some (startedXfer s (s.core c) q) }) c := by
  unfold xferStart
  dsimp only
  rw [hidle, hq]
  dsimp only
  rw [if_neg (by simp [hop, hfree, hrun])]

/-! ### The release of its tile (R117, R123, R125, R127) -/

/-- The state once a TILE_LOAD or TILE_ADD has written its tile, all its elements in one step (log entries 110, 111). -/
abbrev xferWritten (s : State) (c : Nat) (d : DrRun) : State :=
  let t := (s.core c).tile d.inst.tile
  let vs := bytesW64 (feedVals d.feed)
  putTile s c d.inst.tile (opcodeOf (wd d.inst.words 0) == opTileLoad)
    (if opcodeOf (wd d.inst.words 0) = opTileLoad then tileLoaded t d.inst.extent d.inst.words vs
     else tileAdded t d.inst.extent d.inst.words vs)

/-- The state in which a transfer has given up its tile and has `out` to hand over. -/
abbrev xferReleased (s : State) (c : Nat) (d : DrRun) (out : List Word) : State :=
  (freeTile s c d.inst.tile).mapCore c (fun k => { k with dr := some { d with released := true, out := out } })

section
variable {s : State} {c : Nat} {d : DrRun} (hd : (s.core c).dr = some d) (hheld : d.released = false)
  (htime : d.relAt ≤ s.now) (hfed : feedReady d.feed = true) (hrun : aborting s d.inst.task = false)
include hd hheld htime hfed hrun

theorem xferRelease_store (hop : opcodeOf (wd d.inst.words 0) = opTileStore) :
    xferRelease s c
      = pull (xferReleased s c d (storeBytes ((s.core c).tile d.inst.tile) d.inst.extent)) c := by
  unfold xferRelease
  dsimp only
  rw [hd]
  dsimp only
  rw [hop, if_neg (by simp [hheld, htime, hfed, hrun, opTileStore, opDrain]), if_pos rfl, if_pos rfl]

theorem xferRelease_writes (hdrain : opcodeOf (wd d.inst.words 0) ≠ opDrain)
    (hstore : opcodeOf (wd d.inst.words 0) ≠ opTileStore) :
    xferRelease s c = pull (xferReleased (xferWritten s c d) c d []) c := by
  unfold xferRelease
  dsimp only
  rw [hd]
  dsimp only
  rw [if_neg (by simp [hdrain, hheld, htime, hfed, hrun]), if_neg hstore, if_neg hstore]

end

/-! ### Its completion -/

theorem xferComplete_ended {s : State} {c : Nat} {d : DrRun} (hd : (s.core c).dr = some d)
    (hop : opcodeOf (wd d.inst.words 0) ≠ opDrain) (hend : drEnded s d = true) (hrun : aborting s d.inst.task = false) :
    xferComplete s c = s.mapCore c (fun k => { k with dr := none }) := by
  unfold xferComplete
  rw [hd]
  exact if_pos ⟨hop, hend, hrun⟩

/-- Settles O19: the start, the release (TILE_STORE leaves its tile, the others write theirs) and the end, each where it is due. -/
theorem tileTransferRuns : Obligations.TileTransferRuns := by
  refine ⟨?start, ?store, ?write, ?complete⟩
  case start =>
    intro s c q rest hon hidle hq hop hfree hrun
    exact congrArg Host.Outcome.next ((onlyIf_of hon _ s).trans (xferStart_first hidle hq hop hfree hrun))
  case store =>
    intro s u c d hon hu hd hop hheld htime hfed hrun
    subst hu
    exact congrArg Host.Outcome.next ((onlyIf_of hon _ s).trans (xferRelease_store hd hheld htime hfed hrun hop))
  case write =>
    intro s u c d hon hu hd hop hheld htime hfed hrun
    subst hu
    have hdrain : opcodeOf (wd d.inst.words 0) ≠ opDrain := by rcases hop with h | h <;> rw [h] <;> decide
    have hstore : opcodeOf (wd d.inst.words 0) ≠ opTileStore := by rcases hop with h | h <;> rw [h] <;> decide
    exact congrArg Host.Outcome.next
      ((onlyIf_of hon _ s).trans (xferRelease_writes hd hheld htime hfed hrun hdrain hstore))
  case complete =>
    intro s u c d hon hu hd hop htime hfreed hout hrun
    subst hu
    exact congrArg Host.Outcome.next
      ((onlyIf_of hon _ s).trans (xferComplete_ended hd hop (drEnded_of htime hfreed hout) hrun))

end Sys2Proof.Machine

/-! PROOFS. What grants, charges and faults leave of the tasks and of the programs on the cores. -/

namespace Sys2Proof.Machine

/-! ### Tasks beside other changes, and an update of every core -/

theorem task_of_only {ps : List Part} {s t : State} (h : Only ps s t) (hp : Part.drover ∉ ps) (n : Nat) : t.task n = s.task n := by
  unfold State.task
  rw [h.2 .drover hp]

/-- An update of every listed core is one of every core, where it leaves an idle one idle. -/
theorem core_mapV (s : State) {f : Core → Core} (hf : f Core.idle = Core.idle) (c : Nat) :
    ({ s with cores := Tbl.mapV s.cores (fun _ k => f k) } : State).core c = f (s.core c) := by
  unfold State.core Tbl.getD
  rw [Tbl.get_mapV]
  cases Tbl.get s.cores c with
  | none => exact hf.symm
  | some k => rfl

/-! ### Tasks and programs that stand as they stood -/

/-- A task without what grants of codebooks and charges to the reserve write in it. -/
def Task.bare (k : Task) : Task := { k with books := [], ext := [] }

/-- A program without the mark by which an abort stops it. -/
def Prog.bare (p : Prog) : Prog := { p with stopped := false }

theorem Task.of_bare {k v : Task} (h : v.bare = k.bare) : v.st = k.st ∧ v.since = k.since ∧ v.used = k.used
    ∧ v.filler = k.filler ∧ v.inst = k.inst ∧ v.saved = k.saved := by
  simp only [Task.bare, Task.mk.injEq] at h
  tauto

theorem Prog.of_bare {p q : Prog} (h : q.bare = p.bare) : q.task = p.task ∧ q.pc = p.pc ∧ q.ended = p.ended := by
  simp only [Prog.bare, Prog.mk.injEq] at h
  tauto

/-- No task differs in `t` but in its codebooks and its budget's extension. -/
def SameTasks (s t : State) : Prop := ∀ n, (t.task n).map Task.bare = (s.task n).map Task.bare

/-- No program differs in `t` but in whether it is stopped. -/
def SameProgs (s t : State) : Prop := ∀ c, (t.core c).prog.map Prog.bare = (s.core c).prog.map Prog.bare

theorem SameTasks.refl (s : State) : SameTasks s s := fun _ => rfl
theorem SameProgs.refl (s : State) : SameProgs s s := fun _ => rfl

theorem SameTasks.trans {s t u : State} (h : SameTasks s t) (k : SameTasks t u) : SameTasks s u := fun n => (k n).trans (h n)
theorem SameProgs.trans {s t u : State} (h : SameProgs s t) (k : SameProgs t u) : SameProgs s u := fun c => (k c).trans (h c)

theorem SameTasks.of_only {ps : List Part} {s t : State} (h : Only ps s t) (hp : Part.drover ∉ ps) : SameTasks s t :=
  fun n => by rw [task_of_only h hp]

theorem SameProgs.of_only {ps : List Part} {s t : State} (h : Only ps s t) (hp : Part.cores ∉ ps) : SameProgs s t :=
  fun c => by rw [core_of_cores (h.cores_eq hp)]

theorem SameTasks.task {s t : State} (h : SameTasks s t) {n : Nat} {k : Task} (hk : s.task n = some k) :
    ∃ k', t.task n = some k' ∧ k'.bare = k.bare := by
  have hn := h n
  rwa [hk, Option.map_some, Option.map_eq_some_iff] at hn

theorem SameProgs.prog {s t : State} (h : SameProgs s t) {c : Nat} {p : Prog} (hp : (s.core c).prog = some p) :
    ∃ p', (t.core c).prog = some p' ∧ p'.bare = p.bare := by
  have hc := h c
  rwa [hp, Option.map_some, Option.map_eq_some_iff] at hc

theorem SameTasks.foldl {α : Type} (f : State → α → State) (l : List α) (hf : ∀ u a, SameTasks u (f u a)) (s : State) :
    SameTasks s (l.foldl f s) :=
  List.foldlRecOn (motive := SameTasks s) l f (.refl s) (fun u hu a _ => hu.trans (hf u a))

/-! ### Updates of one task, of one core -/

theorem setTask_sameTasks {s : State} {n : Nat} {k v : Task} (hk : s.task n = some k) (hv : v.bare = k.bare) :
    SameTasks s (setTask s n v) := by
  intro m
  by_cases hm : m = n
  · subst hm
    rw [State.task_setTask_same, hk, Option.map_some, Option.map_some, hv]
  · rw [State.task_setTask_other _ _ hm]

theorem mapCore_sameProgs {s : State} {c : Nat} {f : Core → Core} (hf : ∀ k, (f k).prog = k.prog) :
    SameProgs s (s.mapCore c f) := by
  intro d
  by_cases hd : d = c
  · subst hd
    rw [State.core_mapCore_same, hf]
  · rw [State.core_mapCore_other _ _ hd]

theorem extendTask_sameTasks (s : State) (t core n : Nat) : SameTasks s (extendTask s t core n) := by
  unfold extendTask
  split
  next k hk => exact setTask_sameTasks hk rfl
  next => exact SameTasks.refl s

/-! ### Both together -/

/-- Tasks and programs stand in `t` as in `s`, but for grants, charges and stops. -/
structure SameWork (s t : State) : Prop where
  tasks : SameTasks s t
  progs : SameProgs s t

theorem SameWork.refl (s : State) : SameWork s s := ⟨.refl s, .refl s⟩

theorem SameWork.trans {s t u : State} (h : SameWork s t) (k : SameWork t u) : SameWork s u :=
  ⟨h.tasks.trans k.tasks, h.progs.trans k.progs⟩

theorem SameWork.of_only {ps : List Part} {s t : State} (h : Only ps s t) (hd : Part.drover ∉ ps) (hc : Part.cores ∉ ps) :
    SameWork s t :=
  ⟨.of_only h hd, .of_only h hc⟩

theorem SameWork.foldl {α : Type} (f : State → α → State) (l : List α) (hf : ∀ u a, SameWork u (f u a)) (s : State) :
    SameWork s (l.foldl f s) :=
  List.foldlRecOn (motive := SameWork s) l f (.refl s) (fun u hu a _ => hu.trans (hf u a))

theorem mapCore_sameWork {s : State} {c : Nat} {f : Core → Core} (hf : ∀ k, (f k).prog = k.prog) :
    SameWork s (s.mapCore c f) :=
  ⟨.of_only (State.mapCore_keeps s c f).only (by decide), mapCore_sameProgs hf⟩

theorem setTask_sameWork {s : State} {n : Nat} {k v : Task} (hk : s.task n = some k) (hv : v.bare = k.bare) :
    SameWork s (setTask s n v) :=
  ⟨setTask_sameTasks hk hv, .of_only (setTask_keeps ..).only (by decide)⟩

/-! ### Faults (R246) -/

/-- An abort that waits is no part of a task. -/
theorem wantAbort_task (s : State) (t code n : Nat) : (wantAbort s t code).task n = s.task n := by
  unfold wantAbort
  split <;> rfl

/-- An abort that waits stops programs, and does nothing else to them. -/
theorem wantAbort_sameProgs (s : State) (t code : Nat) : SameProgs s (wantAbort s t code) := by
  intro c
  unfold wantAbort
  split
  next i _ =>
    dsimp only
    rw [core_mapV _ rfl]
    split
    next p hp =>
      have hprog : (s.core c).prog = some p := hp
      split
      · rw [hprog]
        rfl
      · rfl
    next => rfl
  next => rfl

theorem taskFault_sameWork (s : State) (slot t : Nat) (core : Option Nat) (code : Nat) (addr : Option Nat) (d0 d1 : Word) :
    SameWork s (taskFault s slot t core code addr d0 d1) :=
  (SameWork.of_only (State.fault_keeps s slot (taskRec s t core code addr d0 d1)).only (by decide) (by decide)).trans
    ⟨fun n => congrArg _ (wantAbort_task _ t code n), wantAbort_sameProgs _ t code⟩

theorem bookFault_sameWork (s : State) (c : Nat) (task : Option Nat) (code claim : Nat) (addr : Option Nat) (d1 : Word) :
    SameWork s (bookFault s c task code claim addr d1) := by
  unfold bookFault
  split
  · exact taskFault_sameWork ..
  · exact SameWork.of_only (State.fault_keeps ..).only (by decide) (by decide)

/-! ### Codebook claims (03_numbers_codebooks.md R78, R84) -/

theorem grantBooks_sameWork (s : State) (c t i : Nat) (ps : List (Nat × Nat)) : SameWork s (grantBooks s c t i ps) := by
  unfold grantBooks
  dsimp only
  split
  next k hk =>
    refine SameWork.trans ?_ (setTask_sameWork hk rfl)
    exact mapCore_sameWork fun _ => rfl
  next => exact mapCore_sameWork fun k => rfl

theorem countEvent_sameWork (s : State) (slot code n : Nat) : SameWork s (countEvent s slot code n) :=
  .of_only (countEvent_keeps ..).only (by decide) (by decide)

theorem groupLookup_sameWork {s u : State} {c t g : Nat} {ws : List CbWant} (h : groupLookup s c t g ws = some u) :
    SameWork s u := by
  unfold groupLookup at h
  dsimp only at h
  split at h
  · injection h with h
    exact h ▸ bookFault_sameWork ..
  · split at h
    · injection h with h
      exact h ▸ (grantBooks_sameWork ..).trans (countEvent_sameWork ..)
    · cases h

theorem pinnedLookup_sameWork (s : State) (c t idx : Nat) (cl : Claim) : SameWork s (pinnedLookup s c t idx cl) := by
  unfold pinnedLookup
  dsimp only
  split
  · split
    · exact bookFault_sameWork ..
    · exact (grantBooks_sameWork ..).trans (countEvent_sameWork ..)
  · exact bookFault_sameWork ..

theorem claimBooks_sameWork (s : State) (t c : Nat) : SameWork s (claimBooks s t c) := by
  unfold claimBooks
  dsimp only
  refine SameWork.trans (SameWork.foldl _ _ (fun u p => pinnedLookup_sameWork ..) s) (SameWork.foldl _ _ (fun u g => ?_) _)
  split
  · exact groupLookup_sameWork (by assumption)
  · exact mapCore_sameWork fun k => rfl

theorem grantCodebooks_sameWork (s : State) (t : Nat) (cores : List Nat) : SameWork s (grantCodebooks s t cores) :=
  SameWork.foldl _ _ (fun _ _ => claimBooks_sameWork ..) s

end Sys2Proof.Machine

/-! PROOFS. Tasks: their dispatch, and their suspension and restore. -/

namespace Sys2Proof.Machine

/-! ### Dispatch (R237, R238) -/

/-- The state in which a dispatched task has its chain slots. -/
abbrev chainsServed (s : State) (t : Nat) (k : Task) (d : TaskD) (i : Image) : State :=
  (chainClaims s t).foldl (fun u ch =>
      serveChain (programChain u k.inst i ch) t k.inst ch (if d.onCores then d.cores else []))
    (setTask (ageOthers s t) t { k with st := .running, since := s.now, filler := false })

/-- The state in which it has its tiles too and its program stands on its cores. -/
abbrev launched (s : State) (t : Nat) (k : Task) (d : TaskD) (i : Image) : State :=
  if d.onCores then startProgs (d.cores.foldl (fun u c => grantTiles u t c) (chainsServed s t k d i)) t d
  else chainsServed s t k d i

theorem chainsServed_keeps (s : State) (t : Nat) (k : Task) (d : TaskD) (i : Image) :
    Keeps [.cores] (setTask (ageOthers s t) t { k with st := .running, since := s.now, filler := false })
      (chainsServed s t k d i) :=
  Keeps.foldl _ _ (fun _ _ => (programChain_keeps ..).trans (serveChain_keeps ..)) (Keeps.refl _ _)

theorem launched_keeps (s : State) (t : Nat) (k : Task) (d : TaskD) (i : Image) :
    Keeps [.cores] (setTask (ageOthers s t) t { k with st := .running, since := s.now, filler := false })
      (launched s t k d i) := by
  have hserved := chainsServed_keeps s t k d i
  unfold launched
  split
  · exact (Keeps.foldl _ _ (fun _ _ => grantTiles_keeps ..) hserved).trans (startProgs_keeps ..)
  · exact hserved

theorem launched_task (s : State) (t : Nat) (k : Task) (d : TaskD) (i : Image) :
    (launched s t k d i).task t = some { k with st := .running, since := s.now, filler := false } := by
  rw [task_of_only (launched_keeps ..).only (by decide), State.task_setTask_same]

/-- A task's program stands at its first instruction on each of its cores. -/
theorem startProgs_prog (s : State) (t : Nat) (d : TaskD) {c : Nat} (hc : c ∈ d.cores) :
    ((startProgs s t d).core c).prog
      = some { task := t, pc := d.progOff, ended := false, stopped := false, block := none } := by
  unfold startProgs
  generalize d.cores = l at hc
  induction l using List.reverseRecOn with
  | nil => cases hc
  | append_singleton l x ih =>
    rw [List.foldl_append, List.foldl_cons, List.foldl_nil]
    by_cases hx : c = x
    · rw [hx, State.core_mapCore_same]
    · rw [State.core_mapCore_other _ _ hx]
      exact ih ((List.mem_append.mp hc).resolve_right (by simpa using hx))

theorem launched_prog (s : State) (t : Nat) (k : Task) {d : TaskD} (i : Image) (hon : d.onCores = true) {c : Nat}
    (hc : c ∈ d.cores) : ((launched s t k d i).core c).prog
      = some { task := t, pc := d.progOff, ended := false, stopped := false, block := none } := by
  rw [launched, if_pos hon, startProgs_prog _ _ _ hc]

/-- What follows in a dispatch grants codebooks, counts and traces (R237). -/
theorem startTask_sameWork (s : State) (t : Nat) (k : Task) (d : TaskD) (i : Image) :
    SameWork (launched s t k d i) (startTask s t k d i false) := by
  unfold startTask
  refine SameWork.trans ?_ (.of_only (taskTrace_keeps ..).only (by decide) (by decide))
  cases hd : d.onCores with
  | true =>
    refine SameWork.trans ?_ (.of_only (countFolds_keeps ..).only (by decide) (by decide))
    simp only [launched, chainsServed, hd]
    exact grantCodebooks_sameWork ..
  | false =>
    simp only [launched, chainsServed, hd]
    exact SameWork.refl _

theorem dispatchTask_starts {s : State} {t : Nat} {k : Task} {d : TaskD} {i : Image} (hk : s.task t = some k)
    (hd : taskD s t = some d) (hi : imageOfTask s t = some i) (hst : k.st = .ready) (hrun : aborting s t = false)
    (hkind : d.kind ≠ kBarrier) (hclaims : claimsReady s t = true) (hhead : isHead s t = true)
    (hfree : ∀ r ∈ resourcesOf d, occupant s r = none) : dispatchTask s t = startTask s t k d i false := by
  unfold dispatchTask
  rw [hk, hd, hi]
  dsimp only
  rw [if_neg (by simp [hst, hrun, hkind, hclaims]), if_pos (by simpa [hhead] using hfree)]

theorem dispatchTask_waits {s : State} {t : Nat} {k : Task} (hk : s.task t = some k)
    (h : k.st ≠ .ready ∨ aborting s t = true ∨ claimsReady s t = false) : dispatchTask s t = s := by
  unfold dispatchTask
  split
  next k' d i hk' _ _ =>
    obtain rfl : k = k' := Option.some.inj (hk.symm.trans hk')
    exact if_pos (by rcases h with h | h | h <;> simp [h])
  next => rfl

/-! ### Suspension (R239) -/

theorem suspendFor_begins {s : State} {t : Nat} {k : Task} (hk : s.task t = some k) (hwants : wantsUnits s t = true)
    (hhead : isHead s t = true) (hheld : ((resourcesIn s t).filterMap (occupant s)).eraseDups ≠ [])
    (hmay : ∀ o ∈ ((resourcesIn s t).filterMap (occupant s)).eraseDups, maySuspend s o k.dline = true) :
    suspendFor s t = ((resourcesIn s t).filterMap (occupant s)).eraseDups.foldl beginSuspend s := by
  unfold suspendFor
  rw [hk]
  exact if_pos (by simpa only [hwants, hhead, Bool.true_and, Bool.and_eq_true, Bool.not_eq_true', List.isEmpty_eq_false_iff,
    List.all_eq_true] using And.intro hheld hmay)

theorem suspendFor_waits {s : State} {t o : Nat} {k : Task} (hk : s.task t = some k)
    (ho : o ∈ ((resourcesIn s t).filterMap (occupant s)).eraseDups) (hno : maySuspend s o k.dline = false) :
    suspendFor s t = s := by
  unfold suspendFor
  rw [hk]
  refine if_neg fun h => ?_
  have hmay := List.all_eq_true.mp (Bool.and_eq_true_iff.mp h).2 o ho
  rw [hno] at hmay
  cases hmay

/-- A core on which the program of a task issues no more. -/
def Core.stopProg (o : Nat) (c : Core) : Core :=
  match c.prog with
  | some p => if p.task = o then { c with prog := some { p with stopped := true } } else c
  | none => c

theorem Core.stopProg_stopped {o : Nat} {c : Core} {p : Prog} (hp : (c.stopProg o).prog = some p) (ho : p.task = o) :
    p.stopped = true := by
  unfold Core.stopProg at hp
  split at hp
  next q hq =>
    split at hp
    next => exact Option.some.inj hp ▸ rfl
    next hne => exact absurd ho (Option.some.inj (hq.symm.trans hp) ▸ hne)
  next hq => cases hq.symm.trans hp

/-- The state in which a running task is draining, its programs not yet stopped. -/
abbrev drains (s : State) (o : Nat) (k : Task) : State :=
  countFolds ((setTask s o { k with st := .draining }).bump slotDrvr 0x054 1) (resourcesIn s o) 0x85

theorem beginSuspend_running {s : State} {o : Nat} {k : Task} (hk : s.task o = some k) (hst : k.st = .running) :
    beginSuspend s o = { drains s o k with cores := Tbl.mapV (drains s o k).cores (fun _ c => c.stopProg o) } := by
  unfold beginSuspend
  rw [hk]
  exact if_pos hst

theorem drains_task (s : State) (o : Nat) (k : Task) : (drains s o k).task o = some { k with st := .draining } := by
  rw [task_of_only ((State.bump_keeps ..).trans (countFolds_keeps ..)).only (by decide), State.task_setTask_same]

/-- What a suspension begins with: the task is draining, and none of its programs issues (R239). -/
theorem beginSuspend_drains {s : State} {o : Nat} {k : Task} (hk : s.task o = some k) (hst : k.st = .running) :
    (beginSuspend s o).task o = some { k with st := .draining }
      ∧ ∀ c p, ((beginSuspend s o).core c).prog = some p → p.task = o → p.stopped = true := by
  rw [beginSuspend_running hk hst]
  refine ⟨drains_task s o k, fun c p hp ho => ?_⟩
  rw [core_mapV _ rfl] at hp
  exact Core.stopProg_stopped hp ho

theorem suspendDrained_saves {s : State} {t : Nat} {k : Task} {d : TaskD} (hk : s.task t = some k) (hd : taskD s t = some d)
    (hst : k.st = .draining) (hquiet : ∀ c ∈ d.cores, coreQuiet s c t = true ∧ writesFlushed s t c = true) :
    suspendDrained s t = setTask s t { k with
      st := .saving, used := ranFor s k, since := s.now, saved := d.cores.map (saveOf s t) } := by
  unfold suspendDrained
  rw [hk, hd]
  exact if_pos ⟨hst, List.all_eq_true.mpr fun c hc => Bool.and_eq_true_iff.mpr (hquiet c hc)⟩

theorem suspendDrained_waits {s : State} {t c : Nat} {d : TaskD} (hd : taskD s t = some d) (hc : c ∈ d.cores)
    (hbusy : coreQuiet s c t = false ∨ writesFlushed s t c = false) : suspendDrained s t = s := by
  unfold suspendDrained
  split
  next k d' _ hd' =>
    obtain rfl : d = d' := Option.some.inj (hd.symm.trans hd')
    refine if_neg fun h => ?_
    obtain ⟨hquiet, hdone⟩ := Bool.and_eq_true_iff.mp (List.all_eq_true.mp h.2 c hc)
    rcases hbusy with hb | hb
    · cases hb.symm.trans hquiet
    · cases hb.symm.trans hdone
  next => rfl

/-! ### The save area of a task (05_accumulation.md R129) -/

theorem wordsBytes_length (ws : List Word) : (wordsBytes ws).length = 4 * ws.length := by
  have hword : ∀ w ∈ ws, (leBytes 4 w.toNat).length = 4 := fun _ _ => rfl
  rw [wordsBytes, List.length_flatMap, List.map_congr_left hword, List.map_const', List.sum_replicate_nat, Nat.mul_comm]

theorem W64.words_length (x : W64) : x.words.length = 3 := rfl

/-- A tile takes 12 bytes for each of its 4,096 elements, whether it is held or not. -/
theorem tileBytes_length (x : Option Tile) : (tileBytes x).length = 49152 := by
  unfold tileBytes
  cases x <;> simp only [List.length_flatMap, wordsBytes_length, W64.words_length, List.map_const', List.sum_replicate_nat,
    List.length_range]

/-- The stores once the save areas of a task's cores are written. -/
def savedMem (m : Memory) (off : Nat) (l : List Saved) : Memory :=
  l.foldl (fun m v => m.put (columnBase v.core + off) (tileBytes v.tileA ++ tileBytes v.tileB)) m

theorem areaBytes_length (v : Saved) : (tileBytes v.tileA ++ tileBytes v.tileB).length = 98304 := by
  rw [List.length_append, tileBytes_length, tileBytes_length]

theorem savedMem_cons (m : Memory) (off : Nat) (v : Saved) (l : List Saved) :
    savedMem m off (v :: l) = savedMem (m.put (columnBase v.core + off) (tileBytes v.tileA ++ tileBytes v.tileB)) off l :=
  List.foldl_cons ..

theorem savedMem_outside (m : Memory) (off : Nat) (l : List Saved) {a : Nat}
    (h : ∀ v ∈ l, a < columnBase v.core + off ∨ columnBase v.core + off + 98304 ≤ a) :
    (savedMem m off l).read a = m.read a := by
  induction l generalizing m with
  | nil => rfl
  | cons v l ih =>
    rw [savedMem_cons, ih _ fun w hw => h w (List.mem_cons_of_mem _ hw), Memory.read_put_outside]
    rw [areaBytes_length]
    exact h v List.mem_cons_self

theorem savedMem_single (m : Memory) (off : Nat) (v : Saved) {b : Nat} (hb : b < 98304) :
    (savedMem m off [v]).read (columnBase v.core + off + b) = (tileBytes v.tileA ++ tileBytes v.tileB).getD b 0 := by
  have hlt : b < (tileBytes v.tileA ++ tileBytes v.tileB).length := by rwa [areaBytes_length]
  have hnil : ∀ m, savedMem m off [] = m := fun _ => List.foldl_nil
  rw [List.getD_eq_getElem _ _ hlt, savedMem_cons, hnil, Memory.read_put_inside _ _ _ _ hlt]

/-- A save area that is written with its trace entry puts the bytes of its tiles into the stores. -/
theorem tracedSave_mem (s : State) (t kind since off : Nat) (v : Saved) :
    (traceSave (writeSave s off v) t kind since v.core).mem
      = s.mem.put (columnBase v.core + off) (tileBytes v.tileA ++ tileBytes v.tileB) := by
  rw [(traceSave_keeps ..).only.mem_eq (by decide)]
  unfold writeSave
  rw [(State.pulse_keeps ..).only.mem_eq (by decide), (State.bump_keeps ..).only.mem_eq (by decide), State.mapMem_mem]

theorem tracedSaves_mem (s : State) (t kind since off : Nat) (l : List Saved) :
    (l.foldl (fun u v => traceSave (writeSave u off v) t kind since v.core) s).mem = savedMem s.mem off l := by
  induction l generalizing s with
  | nil => rfl
  | cons v l ih =>
    unfold savedMem at ih ⊢
    rw [List.foldl_cons, List.foldl_cons, ih, tracedSave_mem]

theorem saveComplete_early {s : State} {t off : Nat} {k : Task} (hk : s.task t = some k) (hsave : hasSave s t = some off)
    (hearly : s.now < k.since + 192) : saveComplete s t = s := by
  unfold saveComplete
  split
  next k' d hk' _ =>
    obtain rfl : k = k' := Option.some.inj (hk.symm.trans hk')
    rw [hsave]
    dsimp only
    rw [if_pos hearly, ite_self]
  next => rfl

/-- A save that is due writes the save areas and changes nothing else of the stores. -/
theorem saveComplete_mem {s : State} {t off : Nat} {k : Task} {d : TaskD} (hk : s.task t = some k) (hd : taskD s t = some d)
    (hst : k.st = .saving) (hrun : aborting s t = false) (hsave : hasSave s t = some off) (hdue : k.since + 192 ≤ s.now) :
    (saveComplete s t).mem = savedMem s.mem off k.saved := by
  unfold saveComplete
  rw [hk, hd]
  dsimp only
  rw [if_neg (by simp [hst, hrun]), hsave]
  dsimp only
  rw [if_neg (Nat.not_lt.mpr hdue), (dispatchOn_keeps ..).only.mem_eq (by decide), setTask_mem,
    (releaseBooks_keeps ..).only.mem_eq (by decide), (vacate_keeps ..).only.mem_eq (by decide), tracedSaves_mem]

/-! ### Restore (R239) -/

section
variable {s : State} {t : Nat} {k : Task} {d : TaskD} (hk : s.task t = some k) (hd : taskD s t = some d)
  (hst : k.st = .suspended) (hclaims : claimsReady s t = true) (hrun : aborting s t = false) (hhead : isHead s t = true)
  (hfree : ∀ c ∈ d.cores, occupant s c = none)
include hk hd hst hclaims hrun hhead hfree

theorem resumeTask_restores :
    resumeTask s t = grantCodebooks (restoreProgs (d.cores.foldl (fun u c => grantTiles u t c)
      (setTask (ageOthers s t) t { k with st := .restoring, since := s.now })) t k) t d.cores := by
  unfold resumeTask
  rw [hk, hd]
  exact if_pos (by simpa [hst, hclaims, hrun, hhead] using hfree)

theorem resumeTask_task :
    ∃ k', (resumeTask s t).task t = some k' ∧ k'.bare = Task.bare { k with st := .restoring, since := s.now } := by
  rw [resumeTask_restores hk hd hst hclaims hrun hhead hfree]
  refine (grantCodebooks_sameWork ..).tasks.task ?_
  have hcores := Keeps.foldl _ d.cores (fun u c => grantTiles_keeps u t c)
    (Keeps.refl _ (setTask (ageOthers s t) t { k with st := .restoring, since := s.now }))
  rw [task_of_only (hcores.trans (restoreProgs_keeps ..)).only (by decide), State.task_setTask_same]

end

section
variable {s : State} {t off : Nat} {k : Task} (hk : s.task t = some k) (hsave : hasSave s t = some off)
include hk hsave

theorem restoreComplete_early (hearly : s.now < k.since + 192) : restoreComplete s t = s := by
  unfold restoreComplete
  rw [hk, hsave]
  dsimp only
  rw [if_pos hearly, ite_self]

theorem restoreComplete_due (hst : k.st = .restoring) (hrun : aborting s t = false) (hdue : k.since + 192 ≤ s.now) :
    restoreComplete s t = (restoreFault s t off k.saved).getD (restoreAll s t (some off) k) := by
  unfold restoreComplete
  rw [hk, hsave]
  dsimp only
  rw [if_neg (by simp [hst, hrun]), if_neg (Nat.not_lt.mpr hdue)]
  cases restoreFault s t off k.saved <;> rfl

end

theorem chargeRestore_sameTasks (s : State) (t since : Nat) (v : Saved) : SameTasks s (chargeRestore s t since v) := by
  unfold chargeRestore
  extract_lets switch n
  split
  · exact SameTasks.refl s
  · exact extendTask_sameTasks (chargeReserve s (v.core / 16) n) t v.core n

/-- The task of a restore that is over runs from now, with what it had used before. -/
theorem restoreAll_task {s : State} {t : Nat} {k : Task} (hk : s.task t = some k) (save : Option Nat) :
    ∃ k', (restoreAll s t save k).task t = some k'
      ∧ k'.bare = Task.bare { k with st := .running, since := s.now, saved := [] } := by
  have hsame : SameTasks s (k.saved.foldl (fun u v =>
      traceSave (restoreCore (chargeRestore u t k.since v) t save v) t 0x05 k.since v.core) s) :=
    SameTasks.foldl _ _ (fun u v => ((chargeRestore_sameTasks u t k.since v).trans
      (.of_only (restoreCore_keeps ..).only (by decide))).trans (.of_only (traceSave_keeps ..).only (by decide))) s
  obtain ⟨x, hx, hbare⟩ := hsame.task hk
  unfold restoreAll
  dsimp only
  rw [hx]
  refine ⟨_, State.task_setTask_same .., ?_⟩
  exact congrArg (fun y => { y with st := .running, since := s.now, saved := [] }) hbare

/-- Settles O33: each command does what the equation of its meaning says; grants, charges and counts leave the task and its
programs as the Drover has set them, and only a save writes to the stores. -/
theorem tasksDispatchAndSuspend : Obligations.TasksDispatchAndSuspend := by
  refine ⟨?dispatch, ?refused, ?suspend, ?begins, ?drained, ?save, ?resume, ?restore⟩
  case dispatch =>
    intro s n k d i hk hd hi hst hrun hkind hclaims hhead hfree
    have hwork := startTask_sameWork s n.val k d i
    obtain ⟨k', hk', hbare⟩ := hwork.tasks.task (launched_task s n.val k d i)
    obtain ⟨hrunning, hsince, -, hfiller, hinst, -⟩ := Task.of_bare hbare
    refine ⟨_, k', congrArg Host.Outcome.next (dispatchTask_starts hk hd hi hst hrun hkind hclaims hhead hfree), hk',
      hrunning, hsince, hfiller, hinst, (startTask_keeps ..).only.mem_eq (by decide), fun hon c hc => ?_⟩
    obtain ⟨p, hp, hprog⟩ := hwork.progs.prog (launched_prog s n.val k i hon hc)
    exact ⟨p, hp, Prog.of_bare hprog⟩
  case refused =>
    intro s n k hk hno
    exact congrArg Host.Outcome.next (dispatchTask_waits hk hno)
  case suspend =>
    intro s n k os hk hos hwants hhead hheld
    subst hos
    refine ⟨fun hmay => ?_, fun ⟨o, ho, hno⟩ => ?_⟩
    · exact congrArg Host.Outcome.next (suspendFor_begins hk hwants hhead hheld hmay)
    · exact congrArg Host.Outcome.next (suspendFor_waits hk ho hno)
  case begins =>
    intro s o k hk hst
    obtain ⟨htask, hstop⟩ := beginSuspend_drains hk hst
    exact ⟨_, htask, rfl, hstop⟩
  case drained =>
    intro s n k d hk hd hst
    refine ⟨fun hquiet => ?_, fun ⟨c, hc, hbusy⟩ => ?_⟩
    · exact congrArg Host.Outcome.next (suspendDrained_saves hk hd hst hquiet)
    · exact congrArg Host.Outcome.next (suspendDrained_waits hd hc hbusy)
  case save =>
    intro s n k d off hk hd hst hrun hsave
    refine ⟨fun hearly => ?_, fun hdue => ⟨_, rfl, ?_⟩⟩
    · exact congrArg Host.Outcome.next (saveComplete_early hk hsave hearly)
    · rw [saveComplete_mem hk hd hst hrun hsave hdue]
      refine ⟨fun a ha => savedMem_outside _ _ _ ha, fun v hv b hb => ?_⟩
      rw [hv]
      exact savedMem_single _ _ _ hb
  case resume =>
    intro s n k d hk hd hst hclaims hrun hhead hfree
    obtain ⟨k', hk', hbare⟩ := resumeTask_task hk hd hst hclaims hrun hhead hfree
    obtain ⟨hrestoring, hsince, -, -, -, hsaved⟩ := Task.of_bare hbare
    exact ⟨_, k', rfl, hk', hrestoring, hsince, hsaved, (resumeTask_keeps ..).only.mem_eq (by decide)⟩
  case restore =>
    intro s n k off hk hst hrun hsave
    have hdone := restoreComplete_due hk hsave hst hrun
    refine ⟨fun hearly => ?_, fun hdue u hbad => ?_, fun hdue hgood => ?_⟩
    · exact congrArg Host.Outcome.next (restoreComplete_early hk hsave hearly)
    · exact congrArg Host.Outcome.next ((hdone hdue).trans (by rw [hbad, Option.getD_some]))
    · obtain ⟨k', hk', hbare⟩ := restoreAll_task hk (some off)
      obtain ⟨hrunning, hsince, hused, -, -, hsaved⟩ := Task.of_bare hbare
      have honly := (restoreAll_keeps s n.val (some off) k).only
      exact ⟨_, k', congrArg Host.Outcome.next ((hdone hdue).trans (by rw [hgood, Option.getD_none])), hk',
        hrunning, hsince, hsaved, hused, honly.mem_eq (by decide), honly.faults_eq (by decide)⟩

end Sys2Proof.Machine

/-! PROOFS. ATTEND: its issue and its start. -/

namespace Sys2Proof.Machine

/-! ### Its issue (R133, R142) -/

section
variable {s : State} {c : Nat} {p : Prog} {w : List Word}

theorem issueAttend_full (h : 2 ≤ (s.core c).attQ.length) : issueAttend c s p w = s := if_pos h

variable (hroom : (s.core c).attQ.length < 2)
include hroom

theorem issueAttend_code {code : Nat} (h : attCode s c p.task w = some code) :
    issueAttend c s p w = attFault s c p.task 0x0201 none (w32 code) (wd w 0) := by
  unfold issueAttend
  dsimp only
  rw [if_neg hroom.not_ge, h]

theorem issueAttend_enters (h : attCode s c p.task w = none) :
    issueAttend c s p w
      = advance (((s.setReg (slotAtt c) 0x040 (wd w 0)).setReg (slotAtt c) 0x044 (wd w 1)).mapCore c
          (fun k => { k with attQ := k.attQ ++ [queued s c p w] })) c p w := by
  unfold issueAttend
  dsimp only
  rw [if_neg hroom.not_ge, h]

end

theorem exec_attend {s u : State} {c : CoreId} {p : Prog} {ws : List Word} (h : Issues s opAttend c.val u p ws) :
    exec (.attend c) s = .next (issueAttend c.val u p ws) :=
  congrArg Host.Outcome.next (issue_of_issues h _)

/-! ### Several channels set one after another -/

/-- Where every channel that is set has a property, the last one set at `ch` has it; where none is set there, the one found
there keeps it. -/
theorem foldl_setChan_chan {α : Type} {P : Chan → Prop} (i : α → Nat) (f : Core → α → Chan) (hf : ∀ k x, P (f k x))
    {l : List α} {ch : Nat} {k : Core} (h : P (k.chan ch) ∨ ch ∈ l.map i) :
    P ((l.foldl (fun k x => k.setChan (i x) (f k x)) k).chan ch) := by
  induction l generalizing k with
  | nil => simpa using h
  | cons x l ih =>
    refine ih ?_
    by_cases hx : ch = i x
    · left
      rw [hx, Core.chan_setChan_same]
      exact hf k x
    · rw [Core.chan_setChan_other _ _ hx]
      simpa [hx] using h

/-! ### The four channels of an ATTEND (R137) -/

/-- What one of the four channels is armed with: its number, format, INDEX, base and first runs. -/
abbrev UnitChan := Nat × Nat × Bool × Nat × List (Nat × Nat)

/-- The four channels in the order in which `unitArm` arms them. -/
def unitChans (w : List Word) (klist vlist : Nat) (order : List Nat) (scans : Nat) : List UnitChan :=
  [(atKich w, 5, true, klist, listRuns klist order scans), (atVich w, 5, true, vlist, listRuns vlist order scans),
    (atKch w, eFmt (atK32 w), false, 0, []), (atVch w, eFmt (atV32 w), false, 0, [])]

theorem mem_unitChans {w : List Word} {ch : Nat} (h : ch ∈ [atKch w, atKich w, atVch w, atVich w])
    (klist vlist : Nat) (order : List Nat) (scans : Nat) : ch ∈ (unitChans w klist vlist order scans).map (·.1) := by
  simp only [unitChans, List.map_cons, List.map_nil, List.mem_cons, List.not_mem_nil, or_false] at h ⊢
  omega

/-- A channel of the four as it is armed. -/
def unitArmed (s : State) (t : Nat) (w : List Word) (k : Core) (x : UnitChan) : Chan :=
  unitChan s t x.1 (wd w 0) x.2.1 x.2.2.1 x.2.2.2.1 x.2.2.2.2 (k.chan x.1)

section
variable (s : State) (c t : Nat) (w : List Word) (klist vlist : Nat) (order : List Nat) (scans : Nat)

theorem unitArm_core :
    (unitArm s c t w klist vlist order scans).core c
      = (unitChans w klist vlist order scans).foldl (fun k x => k.setChan x.1 (unitArmed s t w k x)) (s.core c) := by
  unfold unitArm
  rw [State.core_mapCore_same]
  rfl

theorem unitArm_core_other {d : Nat} (h : d ≠ c) : (unitArm s c t w klist vlist order scans).core d = s.core d := by
  unfold unitArm
  exact State.core_mapCore_other s _ h

theorem unitArm_attQ : ((unitArm s c t w klist vlist order scans).core c).attQ = (s.core c).attQ := by
  rw [unitArm_core]
  rfl

theorem unitArm_armed {ch : Nat} (h : ch ∈ [atKch w, atKich w, atVch w, atVich w]) :
    (((unitArm s c t w klist vlist order scans).core c).chan ch).armed = true
      ∧ (((unitArm s c t w klist vlist order scans).core c).chan ch).task = some t := by
  rw [unitArm_core]
  exact foldl_setChan_chan (P := fun x => x.armed = true ∧ x.task = some t) _ _ (fun _ _ => ⟨rfl, rfl⟩)
    (.inr (mem_unitChans h klist vlist order scans))

end

/-! ### Its limits, and the run that begins (R143, R154) -/

/-- Tokens of the cache while an ATTEND with the directory entry `e` runs. -/
abbrev tokensOf (w e : List Word) : Nat := bits (wd e 2) 20 0 + (if atAppend w then atQrows w else 0)

/-- The global positions that the run uses. -/
def globalsOf (s : State) (w : List Word) (tk : Nat) : List Nat :=
  (((s.mem.words (atGbase w) (atNglobal w)).filter (fun x => !bit x 31 && decide (x.toNat < tk))).map (·.toNat)).eraseDups

/-- The run of an ATTEND that starts with the directory entry `e`, read at `dirA`. -/
def begunRun (s : State) (c : Nat) (q : QInst) (dirA : Nat) (e : List Word) : AttRun :=
  let w := q.words
  let t0 := bits (wd e 2) 20 0
  let tk := tokensOf w e
  let globals := globalsOf s w tk
  let pages := scanPages w t0 tk
  let block := globalBlock w globals pages t0 tk
  let order := pages ++ (block.map (· / 64)).eraseDups
  { inst := q, append := atAppend w, dir := dirA, t0 := t0, t := tk, order := order, scans := pages.length, planned := 0
    taking := false, kx := ⟨atKich w, order.length, [], 0⟩, vx := ⟨atVich w, order.length, [], 0⟩
    kf := ⟨atKch w, 0, [], 0⟩, vf := ⟨atVch w, 0, [], 0⟩, heldK := [], heldV := [], outStart := 0
    queries := [], newK := [], newV := [], globals := globals, pages := pages, block := block
    rows := List.replicate (atRows w) ⟨negInf, 0, List.replicate (atD w) 0, false⟩
    feed := { ch := atQch w, need := atQrows w * (atHeads w + (if atAppend w then 2 else 0)) * atD w, got := [],
              start := ((s.core c).chan (atQch w)).done }
    at_ := s.now + timeStart w, out := [], done := false }

/-- An appending ATTEND sets BUSY in word 2 of its entry (R154). -/
def busySet (s : State) (w : List Word) (dirA : Nat) (e : List Word) : State :=
  if atAppend w then s.mapMem (fun m => m.put (dirA + 8) (leBytes 4 (wd e 2 ||| 0x80000000).toNat)) else s

/-- The state in which an ATTEND has begun, before the unit takes what it can. -/
def begun (s : State) (c : Nat) (q : QInst) (dirA : Nat) (e : List Word) : State :=
  let run := begunRun s c q dirA e
  (unitArm (busySet s q.words dirA e) c q.task q.words (wd e 0).toNat (wd e 1).toNat run.order run.scans).mapCore c
    (fun k => { k with att := some run })

section
variable {s : State} {c : Nat} {q : QInst} {dirA : Nat} {e : List Word}

theorem attBegin_busy (happend : atAppend q.words = true) (hbusy : bit (wd e 2) 31 = true) :
    attBegin s c q dirA e = attFault s c q.task 0x0206 none (w32 (atDir q.words)) (wd e 2) := by
  unfold attBegin
  dsimp only
  rw [if_pos (by simp [happend, hbusy])]

variable (hidle : atAppend q.words = true → bit (wd e 2) 31 = false)
include hidle

theorem attBegin_limit (h : atMaxtok q.words < tokensOf q.words e ∨ 64 * bits (wd e 3) 14 0 < tokensOf q.words e) :
    attBegin s c q dirA e
      = attFault s c q.task 0x0203 none (w32 (tokensOf q.words e)) (w32 (atMaxtok q.words)) := by
  unfold attBegin
  dsimp only
  rw [if_neg (by simpa using hidle), if_pos (by simpa using h)]

theorem attBegin_runs (hmaxtok : tokensOf q.words e ≤ atMaxtok q.words)
    (hpages : tokensOf q.words e ≤ 64 * bits (wd e 3) 14 0)
    (hread : unitRead s c q.task (atGbase q.words) (4 * atNglobal q.words) = none) :
    attBegin s c q dirA e = pull (begun s c q dirA e) c := by
  unfold attBegin
  dsimp only
  rw [if_neg (by simpa using hidle), if_neg (by simpa using And.intro hmaxtok hpages), hread]
  rfl

end

section
variable (s : State) (c : Nat) (q : QInst) (dirA : Nat) (e : List Word)

theorem busySet_core (w : List Word) (d : Nat) : (busySet s w dirA e).core d = s.core d := by
  unfold busySet
  split <;> rfl

theorem busySet_faults (w : List Word) : (busySet s w dirA e).faults = s.faults := by
  unfold busySet
  split <;> rfl

theorem busySet_mem (w : List Word) : (busySet s w dirA e).mem
    = if atAppend w then s.mem.put (dirA + 8) (leBytes 4 (wd e 2 ||| 0x80000000).toNat) else s.mem := by
  unfold busySet
  split <;> rfl

theorem begun_mem : (begun s c q dirA e).mem
    = if atAppend q.words then s.mem.put (dirA + 8) (leBytes 4 (wd e 2 ||| 0x80000000).toNat) else s.mem := by
  unfold begun
  rw [State.mapCore_mem, (unitArm_keeps ..).only.mem_eq (by decide), busySet_mem]

theorem begun_faults : (begun s c q dirA e).faults = s.faults := by
  unfold begun
  rw [State.mapCore_faults, (unitArm_keeps ..).only.faults_eq (by decide), busySet_faults]

theorem begun_core_other {d : Nat} (h : d ≠ c) : (begun s c q dirA e).core d = s.core d := by
  unfold begun
  rw [State.core_mapCore_other _ _ h, unitArm_core_other _ _ _ _ _ _ _ _ h, busySet_core]

theorem begun_att : ((begun s c q dirA e).core c).att = some (begunRun s c q dirA e) := by
  unfold begun
  rw [State.core_mapCore_same]

theorem begun_attQ : ((begun s c q dirA e).core c).attQ = (s.core c).attQ := by
  unfold begun
  rw [State.core_mapCore_same, unitArm_attQ, busySet_core]

theorem begun_armed {ch : Nat} (h : ch ∈ [atKch q.words, atKich q.words, atVch q.words, atVich q.words]) :
    (((begun s c q dirA e).core c).chan ch).armed = true ∧ (((begun s c q dirA e).core c).chan ch).task = some q.task := by
  unfold begun
  rw [State.core_mapCore_same]
  exact unitArm_armed _ _ _ _ _ _ _ _ h

end

/-! ### The start of the ATTEND at the front (R134, R143) -/

/-- The state in which the ATTEND at the front has left the queue. -/
abbrev attTaken (s : State) (c : Nat) (rest : List QInst) : State := s.setCore c { s.core c with attQ := rest }

section
variable {s : State} {c : Nat} {q : QInst} {rest : List QInst} {x : Ctx} (hidle : (s.core c).att = none)
  (hq : (s.core c).attQ = q :: rest) (hrun : aborting s q.task = false) (hx : ctxOfTask s q.task = some x)
include hidle hq hrun hx

theorem attendStart_beyond (hdir : x.count ≤ atDir q.words) :
    attendStart s c = attFault (attTaken s c rest) c q.task 0x0202 none (w32 (atDir q.words)) 0 := by
  unfold attendStart
  dsimp only
  split
  next q' rest' _ hq' =>
    obtain ⟨rfl, rfl⟩ := List.cons.inj (hq.symm.trans hq')
    rw [if_neg (by simp [hrun]), hx]
    exact if_pos hdir
  next hother => exact (hother q rest hidle hq).elim

theorem attendStart_begins (hdir : atDir q.words < x.count)
    (hawake : attWakes s (x.base + 16 * atDir q.words) q.words = none)
    (hread : unitRead (attTaken s c rest) c q.task (x.base + 16 * atDir q.words) 16 = none)
    (hgood : dirBad (s.mem.words (x.base + 16 * atDir q.words) 4) = false) :
    attendStart s c = attBegin (attTaken s c rest) c q (x.base + 16 * atDir q.words)
      (s.mem.words (x.base + 16 * atDir q.words) 4) := by
  unfold attendStart
  dsimp only
  split
  next q' rest' _ hq' =>
    obtain ⟨rfl, rfl⟩ := List.cons.inj (hq.symm.trans hq')
    rw [if_neg (by simp [hrun]), hx]
    dsimp only
    rw [if_neg hdir.not_ge, hawake]
    dsimp only
    rw [hread, hgood]
    rfl
  next hother => exact (hother q rest hidle hq).elim

end

theorem exec_attendStart {s : State} {c : CoreId} (hon : s.coreRuns c.val = true) :
    exec (.attendStart c) s = .next (attendStart s c.val) :=
  congrArg Host.Outcome.next (onlyIf_of hon _ s)

/-- Settles O20: the checks of `issueAttend` and of `attBegin` in their order, and the state that an ATTEND begins in. -/
theorem attendIssuesAndStarts : Obligations.AttendIssuesAndStarts := by
  refine ⟨?full, ?code, ?enters, ?starts, ?beyond⟩
  case full =>
    intro s u c p ws hi hfull
    rw [exec_attend hi, issueAttend_full hfull]
  case code =>
    intro s u c p ws code hi hroom hcode
    rw [exec_attend hi, issueAttend_code hroom hcode]
    rfl
  case enters =>
    intro s u c p ws hi hroom hcode
    rw [exec_attend hi, issueAttend_enters hroom hcode]
    rfl
  case starts =>
    intro s s0 c q rest x e hon hidle hq hrun hs0 hx hdir hawake hread he hgood
    subst hs0 he
    have hexec := (exec_attendStart hon).trans
      (congrArg Host.Outcome.next (attendStart_begins hidle hq hrun hx hdir hawake hread hgood))
    refine ⟨fun happend hbusy => ?_, fun hfree hlimit => ?_, fun hfree hmaxtok hpages hglobals => ?_⟩
    · rw [hexec, attBegin_busy happend hbusy]
      rfl
    · rw [hexec, attBegin_limit hfree hlimit]
      rfl
    · rw [attBegin_runs hfree hmaxtok hpages hglobals] at hexec
      refine ⟨_, _, hexec, begun_att .., rfl, rfl, rfl, rfl, rfl, rfl, rfl, ?_, fun ch hch => begun_armed _ _ _ _ _ hch,
        begun_mem .., begun_faults .., fun d hd => ?_⟩
      · rw [begun_attQ, State.core_setCore_same]
      · rw [begun_core_other _ _ _ _ _ hd, State.core_setCore_other _ _ hd]
  case beyond =>
    intro s c q rest x hon hidle hq hrun hx hdir
    rw [exec_attendStart hon, attendStart_beyond hidle hq hrun hx hdir]
    rfl

end Sys2Proof.Machine

/-! PROOFS. ATTEND: its blocks and its end. -/

namespace Sys2Proof.Machine

/-! ### A block of keys (R145, R147, R151) -/

theorem takeInput_badQuery {s : State} {c : Nat} {a : AttRun} {r i : Nat} (hq : a.queries = [])
    (hbad : badIn (inputRows a.inst.words a.feed.got).1 = some (r, i)) :
    takeInput s c a = .inl (attFault s c a.inst.task 0x0106 none (w32 r) (w32 i)) := by
  unfold takeInput
  dsimp only
  rw [if_neg (by simp [hq]), hbad]

/-- The run once a scanned page, or the global block where `page` is `none`, is in the state of every query row. -/
def blockTaken (a : AttRun) (page : Option Nat) (rows : List AttRow) (now : Nat) : AttRun :=
  let first := page == some (a.t0 / 64)
  { a with rows := rows, at_ := now, pages := a.pages.tail, taking := false
           block := if page.isSome then a.block else []
           heldK := if first then a.kf.got else a.heldK, heldV := if first then a.vf.got else a.heldV }

/-- A pair of pages counts in PAGES_READ, the keys of the global block in GLOBAL_FETCHES (R161). -/
def countBlock (s : State) (c : Nat) (a : AttRun) (page : Option Nat) : State :=
  if page.isSome then s.bump (slotAtt c) 0x04C 1 else s.bump (slotAtt c) 0x050 a.block.length

section
variable {s : State} {c : Nat} {a0 : AttRun} (hatt : (s.core c).att = some a0) (hfed : a0.feed.need = 0)
  (hrun : aborting s a0.inst.task = false) (htaking : a0.taking = true) (hkeys : a0.kf.need = 0) (hvalues : a0.vf.need = 0)
  (htime : a0.at_ + timeBlock c a0 a0.pages.head? ≤ s.now)
include hatt hfed hrun htaking hkeys hvalues htime

theorem attendBlock_badInput {t : State} (hinput : takeInput s c a0 = .inl t) : attendBlock s c = t := by
  unfold attendBlock
  rw [hatt]
  dsimp only
  rw [if_neg (by simp [hfed, hrun, htaking, hkeys, hvalues]), if_neg htime.not_gt, hinput]

theorem attendBlock_takes {a : AttRun} {keys : List (Option KeyRow)} {rows : List AttRow}
    (hinput : takeInput s c a0 = .inr a) (hblock : blockKeys s c a a0.pages.head? = .inr keys)
    (hrows : blockRows a keys = .inl rows) :
    attendBlock s c
      = pull (countBlock (s.mapCore c (fun k => { k with att := some (blockTaken a a0.pages.head? rows s.now) })) c a
          a0.pages.head?) c := by
  unfold attendBlock
  rw [hatt]
  dsimp only
  rw [if_neg (by simp [hfed, hrun, htaking, hkeys, hvalues]), if_neg htime.not_gt, hinput]
  dsimp only
  rw [hblock]
  dsimp only
  rw [hrows]
  rfl

end

/-! ### The output and the append (R149, R153) -/

/-- The state once the append is written, its output ready to be handed over. -/
def attWritten (s : State) (c : Nat) (a : AttRun) (ps : List PageWrite) : State :=
  (s.mapMem (fun m => ps.foldl (fun m p => writePage m p.page p.off p.held p.new_) m)).mapCore c (fun k =>
    { k with att := some { a with out := attOut a, done := true, outStart := (k.chan (atOch a.inst.words)).done } })

theorem attWritten_att (s : State) (c : Nat) (a : AttRun) (ps : List PageWrite) :
    ((attWritten s c a ps).core c).att
      = some { a with out := attOut a, done := true, outStart := ((s.core c).chan (atOch a.inst.words)).done } := by
  unfold attWritten
  rw [State.core_mapCore_same, mapMem_core]

theorem attFinish_due {s : State} {c : Nat} {a : AttRun} {ps : List PageWrite}
    (hplan : (if a.append then appendPlan s c a else .inr []) = .inr ps) (htime : a.at_ + timeFinish a.inst.words ps ≤ s.now) :
    attFinish s c a = pull (attWritten s c a ps) c := by
  unfold attFinish
  dsimp only
  rw [hplan]
  exact if_neg htime.not_gt

/-! ### Its last acts (R154, R161, R162) -/

/-- An appending ATTEND writes its length, BUSY 0, to the directory word. -/
def lengthWritten (s : State) (c : Nat) (a : AttRun) : State :=
  if a.append then
    ((s.mapMem (fun m => m.put (a.dir + 8) (leBytes 4 a.t))).bump (slotAtt c) 0x054 (atQrows a.inst.words)).pulse (slotAtt c) 0
  else s

/-- The mask of the empty rows is in ROW_EMPTY_LO and ROW_EMPTY_HI. -/
def maskShown (s : State) (c : Nat) (a : AttRun) : State :=
  (((lengthWritten s c a).bump (slotAtt c) 0x048 1).setReg (slotAtt c) 0x060 (w32 (emptyMask a.rows % 2 ^ 32))).setReg
    (slotAtt c) 0x064 (w32 (emptyMask a.rows / 2 ^ 32))

/-- The empty rows are counted, and signalled where there is one. -/
def emptyCounted (s : State) (c : Nat) (a : AttRun) : State :=
  let t := (maskShown s c a).bump (slotAtt c) 0x058 (a.rows.filter (fun r => !r.any)).length
  if emptyMask a.rows = 0 then t else t.pulse (slotAtt c) 1

/-- The unit is free, and the four channels of the ATTEND are disarmed. -/
def attFreed (w : List Word) (k : Core) : Core :=
  { [atKch w, atKich w, atVch w, atVich w].foldl (fun k ch => k.setChan ch (k.chan ch).stop) k with att := none, marked := [] }

section
variable (s : State) (c : Nat) (a : AttRun)

theorem attEnd_eq : attEnd s c a = (emptyCounted s c a).mapCore c (attFreed a.inst.words) := rfl

theorem lengthWritten_mem :
    (lengthWritten s c a).mem = if a.append then s.mem.put (a.dir + 8) (leBytes 4 a.t) else s.mem := by
  unfold lengthWritten
  split
  · rw [State.pulse_mem, (State.bump_keeps ..).only.mem_eq (by decide), State.mapMem_mem]
  · rfl

theorem lengthWritten_core (d : Nat) : (lengthWritten s c a).core d = s.core d := by
  unfold lengthWritten
  split
  · rw [core_of_cores (State.pulse_cores ..), bump_core, mapMem_core]
  · rfl

theorem maskShown_keeps : Keeps [.regs, .evts] (lengthWritten s c a) (maskShown s c a) :=
  (State.setReg_keeps ..).cut (by decide) <| (State.setReg_keeps ..).cut (by decide) <| (State.bump_keeps ..).mono (by decide)

theorem emptyCounted_keeps : Keeps [.regs, .evts] (maskShown s c a) (emptyCounted s c a) :=
  Keeps.ite (fun _ => (State.bump_keeps ..).mono (by decide))
    (fun _ => (State.pulse_keeps ..).cut (by decide) ((State.bump_keeps ..).mono (by decide)))

theorem emptyCounted_mem : (emptyCounted s c a).mem = (lengthWritten s c a).mem :=
  ((maskShown_keeps s c a).trans (emptyCounted_keeps s c a)).only.mem_eq (by decide)

theorem emptyCounted_core (d : Nat) : (emptyCounted s c a).core d = s.core d := by
  rw [core_of_cores (((maskShown_keeps s c a).trans (emptyCounted_keeps s c a)).only.cores_eq (by decide)),
    lengthWritten_core]

theorem emptyCounted_reg {off : Nat} (h : off < 0xC00) (hne : off ≠ 0x058) :
    (emptyCounted s c a).reg (slotAtt c) off = (maskShown s c a).reg (slotAtt c) off := by
  have hreg : regAt (slotAtt c) off ≠ regAt (slotAtt c) 0x058 := by
    rw [Ne, regAt_inj (by omega) (by decide)]
    exact fun heq => hne heq.2
  unfold emptyCounted
  dsimp only
  split
  · exact bump_reg_other _ _ h hreg
  · rw [reg_of_regs (State.pulse_regs ..)]
    exact bump_reg_other _ _ h hreg

theorem attEnd_mem : (attEnd s c a).mem = if a.append then s.mem.put (a.dir + 8) (leBytes 4 a.t) else s.mem := by
  rw [attEnd_eq, State.mapCore_mem, emptyCounted_mem, lengthWritten_mem]

theorem attEnd_core : (attEnd s c a).core c = attFreed a.inst.words (s.core c) := by
  rw [attEnd_eq, State.core_mapCore_same, emptyCounted_core]

theorem attEnd_core_other {d : Nat} (h : d ≠ c) : (attEnd s c a).core d = s.core d := by
  rw [attEnd_eq, State.core_mapCore_other _ _ h, emptyCounted_core]

theorem attEnd_reg {off : Nat} (h : off < 0xC00) (hne : off ≠ 0x058) :
    (attEnd s c a).reg (slotAtt c) off = (maskShown s c a).reg (slotAtt c) off := by
  rw [attEnd_eq, reg_of_regs (State.mapCore_regs ..), emptyCounted_reg s c a h hne]

theorem attEnd_emptyLow : (attEnd s c a).reg (slotAtt c) 0x060 = w32 (emptyMask a.rows % 2 ^ 32) := by
  rw [attEnd_reg s c a (by decide) (by decide), maskShown, State.reg_setReg_other, State.reg_setReg_same]
  rw [Ne, regAt_inj (by decide) (by decide)]
  simp

theorem attEnd_emptyHigh : (attEnd s c a).reg (slotAtt c) 0x064 = w32 (emptyMask a.rows / 2 ^ 32) := by
  rw [attEnd_reg s c a (by decide) (by decide), maskShown, State.reg_setReg_same]

end

theorem attFreed_disarmed {w : List Word} {ch : Nat} (k : Core) (h : ch ∈ [atKch w, atKich w, atVch w, atVich w]) :
    ((attFreed w k).chan ch).armed = false :=
  foldl_setChan_chan (P := fun x => x.armed = false) id _ (fun _ _ => rfl) (.inr (by rwa [List.map_id]))

/-! ### Its completion (R154) -/

/-- The ATTEND ends where its output is handed over and its task is not being aborted. -/
def endIfHandedOver (s : State) (c t : Nat) : State :=
  match (s.core c).att with
  | some b => if b.done && b.out.isEmpty && !aborting s t then attEnd s c b else s
  | none => s

section
variable {s : State} {c : Nat} {a0 : AttRun} (hatt : (s.core c).att = some a0) (hfed : a0.feed.need = 0)
  (hrun : aborting s a0.inst.task = false) (hpages : a0.pages = []) (hblock : a0.block = [])
include hatt hfed hrun hpages hblock

theorem attendComplete_ends (hdone : a0.done = true) (hout : a0.out = []) : attendComplete s c = attEnd s c a0 := by
  unfold attendComplete
  rw [hatt]
  dsimp only
  rw [if_neg (by simp [hfed, hrun, hpages, hblock]), if_pos hdone, if_pos (by simp [hout])]

theorem attendComplete_finishes {a : AttRun} (hdone : a0.done = false) (hinput : takeInput s c a0 = .inr a) :
    attendComplete s c = endIfHandedOver (attFinish s c a) c a.inst.task := by
  unfold attendComplete
  rw [hatt]
  dsimp only
  rw [if_neg (by simp [hfed, hrun, hpages, hblock]), if_neg (by simp [hdone]), hinput]
  rfl

end

/-! ### The commands on a core that runs, once its engines have taken and handed over what they can -/

theorem exec_attendBlock {s : State} {c : CoreId} (hon : s.coreRuns c.val = true) :
    exec (.attendBlock c) s = .next (attendBlock (pull s c.val) c.val) :=
  congrArg Host.Outcome.next (onlyIf_of hon _ s)

theorem exec_attendComplete {s : State} {c : CoreId} (hon : s.coreRuns c.val = true) :
    exec (.attendComplete c) s = .next (attendComplete (pull s c.val) c.val) :=
  congrArg Host.Outcome.next (onlyIf_of hon _ s)

/-- Settles O21: a block is taken where its time has passed, the append and the output are written once, and the last acts are
those of `attEnd`. -/
theorem attendRuns : Obligations.AttendRuns := by
  refine ⟨?page, ?global, ?query, ?finish, ?ends⟩
  case page =>
    intro s u c a0 a page rest keys rows hon hu hatt hfed hrun htaking hkeys hvalues hpages htime hinput hblock hrows
    subst hu
    have hhead : a0.pages.head? = some page := by rw [hpages, List.head?_cons]
    rw [exec_attendBlock hon, attendBlock_takes hatt hfed hrun htaking hkeys hvalues (by rwa [hhead]) hinput
      (by rwa [hhead]) hrows, hhead]
    rfl
  case global =>
    intro s u c a0 a keys rows hon hu hatt hfed hrun htaking hkeys hvalues hpages htime hinput hblock hrows
    subst hu
    have hhead : a0.pages.head? = none := by rw [hpages, List.head?_nil]
    rw [exec_attendBlock hon, attendBlock_takes hatt hfed hrun htaking hkeys hvalues (by rwa [hhead]) hinput
      (by rwa [hhead]) hrows, hhead]
    rfl
  case query =>
    intro s u c a r i hon hu hatt hfed hrun htaking hkeys hvalues hq htime hbad
    subst hu
    rw [exec_attendBlock hon,
      attendBlock_badInput hatt hfed hrun htaking hkeys hvalues htime (takeInput_badQuery hq hbad)]
    rfl
  case finish =>
    intro s u c a0 a ps hon hu hatt hfed hrun hpages hblock hdone hinput hplan htime
    subst hu
    refine ⟨attWritten (pull s c.val) c.val a ps, attWritten_att .., rfl, rfl, ?_⟩
    rw [exec_attendComplete hon, attendComplete_finishes hatt hfed hrun hpages hblock hdone hinput, attFinish_due hplan htime]
    generalize pull (attWritten (pull s c.val) c.val a ps) c.val = t
    unfold endIfHandedOver
    rfl
  case ends =>
    intro s u c a hon hu hatt hfed hrun hpages hblock hdone hout
    subst hu
    refine ⟨_, (exec_attendComplete hon).trans
        (congrArg Host.Outcome.next (attendComplete_ends hatt hfed hrun hpages hblock hdone hout)), ?_,
      (attEnd_keeps ..).only.faults_eq (by decide), attEnd_mem .., fun ch hch => ?_, attEnd_emptyLow .., attEnd_emptyHigh ..,
      fun d hd => attEnd_core_other _ _ _ hd⟩
    · rw [attEnd_core]
      rfl
    · rw [attEnd_core]
      exact attFreed_disarmed _ hch

end Sys2Proof.Machine

/-! PROOFS. The order of the requests at a store port, and the request that is granted (07_streams.md R184). -/

namespace Sys2Proof.Machine

/-! ### The order as a rank -/

/-- What R184 compares, in its order: dry time, local before remote, among remote requests arrival and core, and the channel. -/
def Request.rank (r : Request) : Nat ×ₗ Bool ×ₗ Nat ×ₗ Nat ×ₗ Nat :=
  toLex (r.dry, toLex (r.away, toLex (if r.away then r.since else 0, toLex (if r.away then r.core else 0, r.ch))))

theorem Request.before_iff_rank (a b : Request) : a.before b = true ↔ a.rank < b.rank := by
  unfold Request.before Request.rank
  simp only [Prod.Lex.toLex_lt_toLex]
  by_cases hdry : a.dry = b.dry
  · cases ha : a.away <;> cases hb : b.away
    case true.true =>
      by_cases hsince : a.since = b.since
      · by_cases hcore : a.core = b.core <;> simp [hdry, hsince, hcore]
      · simp [hdry, hsince]
    all_goals simp [hdry]
  · simp [hdry]

theorem Request.not_before_iff_rank (a b : Request) : a.before b = false ↔ b.rank ≤ a.rank := by
  rw [← not_lt, ← Request.before_iff_rank, Bool.not_eq_true]

theorem Request.before_of_dry {a b : Request} (h : a.dry < b.dry) : a.before b = true := by
  rw [Request.before_iff_rank]
  exact Prod.Lex.toLex_lt_toLex.mpr (.inl h)

theorem Request.before_of_local {a b : Request} (hdry : a.dry = b.dry) (ha : a.away = false) (hb : b.away = true) :
    a.before b = true := by
  simp [Request.before, hdry, ha, hb]

/-! ### The request that is chosen -/

theorem bestOf_cons (r : Request) (l : List Request) :
    bestOf (r :: l) = some ((bestOf l).elim r (fun q => if q.before r then q else r)) := by
  rw [bestOf]
  cases bestOf l with
  | none => rfl
  | some q => exact (apply_ite some _ _ _).symm

theorem bestOf_eq_none {l : List Request} : bestOf l = none ↔ l = [] := by
  cases l with
  | nil => simp [bestOf]
  | cons r l => simp [bestOf_cons]

theorem bestOf_least {l : List Request} {r : Request} (h : bestOf l = some r) : r ∈ l ∧ ∀ q ∈ l, r.rank ≤ q.rank := by
  induction l generalizing r with
  | nil => cases h
  | cons x l ih =>
    rw [bestOf_cons] at h
    injection h with h
    cases hbest : bestOf l with
    | none =>
      rw [hbest, Option.elim_none] at h
      subst h
      simp [bestOf_eq_none.mp hbest]
    | some b =>
      obtain ⟨hmem, hleast⟩ := ih hbest
      rw [hbest, Option.elim_some] at h
      by_cases hb : b.before x = true
      · rw [if_pos hb] at h
        subst h
        exact ⟨List.mem_cons_of_mem _ hmem, List.forall_mem_cons.mpr ⟨((Request.before_iff_rank ..).mp hb).le, hleast⟩⟩
      · rw [if_neg hb] at h
        subst h
        have hx := (Request.not_before_iff_rank ..).mp (Bool.eq_false_of_not_eq_true hb)
        exact ⟨List.mem_cons_self, List.forall_mem_cons.mpr ⟨le_rfl, fun q hq => hx.trans (hleast q hq)⟩⟩

/-- Settles O25: `before` compares ranks, and the request that is chosen has the least rank of the port. -/
theorem grantFollowsR184 : Obligations.GrantFollowsR184 := by
  refine ⟨?best, ?some, ?irrefl, ?trans, fun a b => Request.before_of_dry, fun a b => Request.before_of_local⟩
  case best =>
    intro l r h
    obtain ⟨hmem, hleast⟩ := bestOf_least h
    exact ⟨hmem, fun q hq => (Request.not_before_iff_rank ..).mpr (hleast q hq)⟩
  case some => exact fun l hl => Option.isSome_iff_ne_none.mpr (mt bestOf_eq_none.mp hl)
  case irrefl => exact fun r => (Request.not_before_iff_rank r r).mpr le_rfl
  case trans =>
    intro a b c hab hbc
    rw [Request.before_iff_rank] at *
    exact hab.trans hbc

end Sys2Proof.Machine

/-! PROOFS. ARM, REARM, SWAP and DISARM: their issue (07_streams.md R173 to R177, R180). -/

namespace Sys2Proof.Machine

/-! ### The four instructions at their issue -/

section
variable {s u : State} {c : CoreId} {p : Prog} {ws : List Word}

theorem exec_arm (h : Issues s opArm c.val u p ws) : exec (.arm c) s = .next (issueArm c.val u p ws) :=
  congrArg Host.Outcome.next (issue_of_issues h _)

theorem exec_rearm (h : Issues s opRearm c.val u p ws) : exec (.rearm c) s = .next (issueRearm c.val u p ws) :=
  congrArg Host.Outcome.next (issue_of_issues h _)

theorem exec_swap (h : Issues s opSwap c.val u p ws) : exec (.swap c) s = .next (issueSwap c.val u p ws) :=
  congrArg Host.Outcome.next (issue_of_issues h _)

theorem exec_disarm (h : Issues s opDisarm c.val u p ws) : exec (.disarm c) s = .next (issueDisarm c.val u p ws) :=
  congrArg Host.Outcome.next (issue_of_issues h _)

end

/-! ### ARM (R173, R174) -/

section
variable {s : State} {c : Nat} {p : Prog} {ws : List Word}

theorem issueArm_refused {code : Nat} (h : preCode s c p.task (chOf (wd ws 0)) (wd ws 1).toNat = some code) :
    issueArm c s p ws = streamFault s c p.task (chOf (wd ws 0)) 0x0301 none (w32 code) (wd ws 0) := by
  unfold issueArm
  dsimp only
  rw [h]

variable (hpre : preCode s c p.task (chOf (wd ws 0)) (wd ws 1).toNat = none)
include hpre

theorem issueArm_armed (h : ((s.core c).chan (chOf (wd ws 0))).armed = true) :
    issueArm c s p ws = disarmFirst s c (chOf (wd ws 0)) (queued s c p ws) := by
  unfold issueArm
  dsimp only
  rw [hpre]
  exact if_pos h

variable (hidle : ((s.core c).chan (chOf (wd ws 0))).armed = false) (hzero : bits (wd ws 0) 20 0 = 0) (htwo : wd ws 2 = 0)
  (hthree : wd ws 3 = 0)
include hidle hzero htwo hthree

/-- With its own fields in order, an ARM does what the reading of its descriptor decides. -/
theorem issueArm_reads :
    issueArm c s p ws
      = (readDesc s c p.task (chOf (wd ws 0)) (wd ws 1).toNat (wd ws 0) false).elim id (fun d =>
          advance (traceArm (s.mapChan c (chOf (wd ws 0)) (fun h =>
            armedChan h d (wd ws 1).toNat s.now p.task (taskSess s p.task) (wd ws 0))) c p.task (chOf (wd ws 0))
            (wd ws 1).toNat ws) c p ws) := by
  unfold issueArm
  dsimp only
  rw [hpre]
  dsimp only
  rw [if_neg (by simp [hidle]), if_neg (by simp [hzero, htwo, hthree])]
  cases readDesc s c p.task (chOf (wd ws 0)) (wd ws 1).toNat (wd ws 0) false <;> rfl

end

/-! ### The descriptor (R174, R62, R70; its block R467) -/

section
variable {s : State} {c t ch addr : Nat} {w0 : Word} {joined : Bool}

theorem readDesc_mismatch {x : Word} (h : s.mem.verify (addr / 512) = .mismatch x) :
    readDesc s c t ch addr w0 joined
      = .inl (streamFault ((s.bump (slotStrm c) 0x050 1).pulse (slotStrm c) 3) c t ch 0x0002 (some (addr / 512 * 512))
          (w32 ch) x) := by
  unfold readDesc
  rw [h]

variable (hgood : s.mem.verify (addr / 512) = .good)
include hgood

theorem readDesc_refused {code : Nat}
    (h : descCode s c t ch (s.mem.words addr 16) (parseDesc (s.mem.words addr 16)) joined = some code) :
    readDesc s c t ch addr w0 joined = .inl (streamFault s c t ch 0x0301 none (w32 code) w0) := by
  unfold readDesc
  rw [hgood]
  dsimp only
  rw [h]

theorem readDesc_taken
    (hcode : descCode s c t ch (s.mem.words addr 16) (parseDesc (s.mem.words addr 16)) joined = none)
    (hscale : fFinite (parseDesc (s.mem.words addr 16)).scale = true)
    (hconv : (parseDesc (s.mem.words addr 16)).convEn = true → convBad (parseDesc (s.mem.words addr 16)).conv = false) :
    readDesc s c t ch addr w0 joined = .inr (parseDesc (s.mem.words addr 16)) := by
  unfold readDesc
  rw [hgood]
  dsimp only
  rw [hcode]
  dsimp only
  rw [if_neg (by simp [hscale]), if_neg (by simpa using hconv)]

end

/-! ### REARM, SWAP and DISARM (R176, R177, R180) -/

section
variable {s : State} {c : Nat} {p : Prog} {ws : List Word}

theorem issueRearm_refused {code : Nat} (h : rearmCode s c p.task (chOf (wd ws 0)) ws = some code) :
    issueRearm c s p ws = streamFault s c p.task (chOf (wd ws 0)) 0x0301 none (w32 code) (wd ws 0) := by
  unfold issueRearm
  dsimp only
  rw [h]

theorem issueRearm_waits (hcode : rearmCode s c p.task (chOf (wd ws 0)) ws = none)
    (hscale : fFinite (rearmScale ((s.core c).chan (chOf (wd ws 0))) ws) = true)
    (hconv : ((s.core c).chan (chOf (wd ws 0))).desc.convEn = true →
      convBad (rearmConv ((s.core c).chan (chOf (wd ws 0))) ws) = false) :
    issueRearm c s p ws
      = advance (s.mapChan c (chOf (wd ws 0)) (fun h => { h with rearm := some (queued s c p ws) })) c p ws := by
  unfold issueRearm
  dsimp only
  rw [hcode]
  dsimp only
  rw [if_neg (by simp [hscale]), if_neg (by simpa using hconv)]

theorem issueSwap_unclaimed (h : chanClaim s p.task (chOf (wd ws 0)) = none) :
    issueSwap c s p ws = streamFault s c p.task (chOf (wd ws 0)) 0x0301 none 8 (wd ws 0) := by
  unfold issueSwap
  dsimp only
  rw [h]
  rfl

theorem issueDisarm_unarmed (hclaim : (chanClaim s p.task (chOf (wd ws 0))).isSome = true)
    (h : ((s.core c).chan (chOf (wd ws 0))).armed = false) :
    issueDisarm c s p ws = streamFault s c p.task (chOf (wd ws 0)) 0x0301 none 10 (wd ws 0) := by
  unfold issueDisarm
  dsimp only
  rw [if_neg (by simp [Option.ne_none_iff_isSome.mpr hclaim]), if_pos (by simp [h])]
  rfl

variable (hclaim : (chanClaim s p.task (chOf (wd ws 0))).isSome = true)
  (harmed : ((s.core c).chan (chOf (wd ws 0))).armed = true) (hzero : bits (wd ws 0) 20 0 = 0) (htwo : wd ws 2 = 0)
  (hthree : wd ws 3 = 0)
include hclaim harmed hzero htwo hthree

theorem issueSwap_authorises (hhalves : ((s.core c).chan (chOf (wd ws 0))).desc.feed = 1) (hcount : bits (wd ws 1) 15 0 ≠ 0)
    (hhigh : bits (wd ws 1) 31 16 = 0) :
    issueSwap c s p ws
      = advance (s.mapChan c (chOf (wd ws 0)) (fun h => { h with auth := h.auth + bits (wd ws 1) 15 0 })) c p ws := by
  unfold issueSwap
  dsimp only
  rw [if_neg (by simp [Option.ne_none_iff_isSome.mpr hclaim]), if_neg (by simp [harmed, hhalves, hcount]),
    if_neg (by simp [hzero, hhigh, htwo, hthree])]

theorem issueDisarm_waits (hone : wd ws 1 = 0) :
    issueDisarm c s p ws
      = advance (s.mapChan c (chOf (wd ws 0)) (fun h => { h with disarm := some (queued s c p ws) })) c p ws := by
  unfold issueDisarm
  dsimp only
  rw [if_neg (by simp [Option.ne_none_iff_isSome.mpr hclaim]), if_neg (by simp [harmed]),
    if_neg (by simp [hzero, hone, htwo, hthree])]

end

/-- Settles O22: each instruction meets its checks in their order, and ARM takes its descriptor as `readDesc` finds it. -/
theorem streamInstructionsIssue : Obligations.StreamInstructionsIssue := by
  refine ⟨?armRefused, ?armArmed, ?arm, ?rearm, ?swap, ?swapUnclaimed, ?disarm⟩
  case armRefused =>
    intro s u c p ws code hi hcode
    rw [exec_arm hi, issueArm_refused hcode]
  case armArmed =>
    intro s u c p ws hi hpre harmed
    rw [exec_arm hi, issueArm_armed hpre harmed]
    rfl
  case arm =>
    intro s u c p ws dw hi hpre hidle hzero htwo hthree hdw
    subst hdw
    rw [exec_arm hi, issueArm_reads hpre hidle hzero htwo hthree]
    refine ⟨fun x hbad => ?_, fun code hgood hcode => ?_, fun hgood hcode hscale hconv => ?_⟩
    · rw [readDesc_mismatch hbad]
      rfl
    · rw [readDesc_refused hgood hcode]
      rfl
    · rw [readDesc_taken hgood hcode hscale hconv]
      rfl
  case rearm =>
    intro s u c p ws hi
    rw [exec_rearm hi]
    exact ⟨fun code hcode => congrArg _ (issueRearm_refused hcode),
      fun hcode hscale hconv => congrArg _ (issueRearm_waits hcode hscale hconv)⟩
  case swap =>
    intro s u c p ws hi hclaim harmed hhalves hcount hzero hhigh htwo hthree
    rw [exec_swap hi, issueSwap_authorises hclaim harmed hzero htwo hthree hhalves hcount hhigh]
  case swapUnclaimed =>
    intro s u c p ws hi hclaim
    rw [exec_swap hi, issueSwap_unclaimed hclaim]
  case disarm =>
    intro s u c p ws hi hclaim
    rw [exec_disarm hi]
    exact ⟨fun hidle => congrArg _ (issueDisarm_unarmed hclaim hidle),
      fun harmed hzero hone htwo hthree => congrArg _ (issueDisarm_waits hclaim harmed hzero htwo hthree hone)⟩

end Sys2Proof.Machine

/-! PROOFS. END and undefined instructions, and the enforcement of budgets and reserves (09_drover_graphs.md R241, R242, R465). -/

namespace Sys2Proof.Machine

/-! ### The front of a program (R465) -/

theorem frontWords_setProg {s u : State} {c n : Nat} {p q : Prog} {ws : List Word} (h : frontWords s c p n = .words u q ws) :
    u = setProg s c q := by
  unfold frontWords at h
  split at h
  · cases h
  · cases h
    rfl

/-- An instruction is found by reading alone: the program takes note of its block, and nothing else changes. -/
theorem front_words_setProg {s u : State} {c : Nat} {p : Prog} {ws : List Word} (h : front s c = .words u p ws) :
    u = setProg s c p := by
  unfold front at h
  split at h
  · cases h
  split at h
  · cases h
  unfold frontAt at h
  split at h
  · cases h
  split at h
  · cases h
  exact frontWords_setProg h

theorem front_words_taskKind {s u : State} {c : Nat} {p : Prog} {ws : List Word} (h : front s c = .words u p ws) (t : Nat) :
    taskKind u t = taskKind s t := by
  rw [front_words_setProg h]
  rfl

theorem front_stall {s : State} {c : Nat} (h : mayIssue s c = none) : front s c = .stall := by
  unfold front
  rw [h]

/-! ### END and undefined instructions (R465, R466) -/

section
variable {s : State} {c : Nat}

theorem issueEnd_stall (h : front s c = .stall) : issueEnd c s = s := by
  unfold issueEnd
  rw [h]

theorem issueUndefined_stall (h : front s c = .stall) : issueUndefined c s = s := by
  unfold issueUndefined
  rw [h]

variable {u : State} {p : Prog} {ws : List Word}

theorem issueEnd_ends (h : front s c = .words u p [0, 0, 0, 0]) :
    issueEnd c s = (setProg u c { p with ended := true }).mapCore c (fun k =>
      { k with chans := Tbl.mapV k.chans (fun _ h => if h.armed && h.task == some p.task
        then { h with disarm := some ⟨[0, 0, 0, 0], p.task, k.seq, none, 0⟩ } else h) }) := by
  unfold issueEnd
  rw [h]
  exact if_pos rfl

variable (h : front s c = .words u p ws)
include h

theorem issueUndefined_defined (hknown : opKnown (opcodeOf (wd ws 0)) = true)
    (hkind : kindAllows (taskKind s p.task) (opcodeOf (wd ws 0)) = true) : issueUndefined c s = s := by
  unfold issueUndefined
  rw [h]
  exact if_pos (by simp [hknown, hkind])

variable (hws : ws ≠ [0, 0, 0, 0])
include hws

theorem issueEnd_other : issueEnd c s = s := by
  unfold issueEnd
  rw [h]
  exact if_neg hws

theorem issueUndefined_aborts
    (hbad : opKnown (opcodeOf (wd ws 0)) = false ∨ kindAllows (taskKind s p.task) (opcodeOf (wd ws 0)) = false) :
    issueUndefined c s = progFault u c p.task p.pc 0x0007 (some (nearBase c + p.pc)) (wd ws 0) := by
  unfold issueUndefined
  rw [h]
  exact if_neg (by obtain hbad | hbad := hbad <;> simpa [hbad] using hws)

end

/-! ### Budgets (R241) -/

section
variable {s : State} {t : Nat} {k : Task} {d : TaskD}

theorem budget_core (hon : d.onCores = true) (c : Nat) : budget k d c = d.wcet + Tbl.getD k.ext c 0 := by
  rw [budget, if_pos hon]

theorem budget_unit (hon : d.onCores = false) (c : Nat) : budget k d c = d.wcet + Tbl.getD k.ext 256 0 := by
  rw [budget, if_neg (by simp [hon])]

theorem overrunAt_core (hon : d.onCores = true) :
    overrunAt s t k d
      = d.cores.find? (fun c => !partDone s t c && decide (d.wcet + Tbl.getD k.ext c 0 < ranFor s k)) := by
  rw [overrunAt, if_pos hon]
  simp only [budget_core hon]

theorem overrunAt_unit (hon : d.onCores = false) :
    overrunAt s t k d
      = if d.wcet + Tbl.getD k.ext 256 0 < ranFor s k then some (if d.kind = kHerd then 0x100 else 0x101) else none := by
  rw [overrunAt, if_neg (by simp [hon]), budget_unit hon]

variable (hk : s.task t = some k) (hd : taskD s t = some d)
include hk hd

theorem overrun_within (h : overrunAt s t k d = none) : overrun s t = s := by
  unfold overrun
  rw [hk, hd]
  dsimp only
  rw [h]

theorem overrun_aborts {x : Nat} (hst : k.st = .running ∨ k.st = .draining) (hrun : aborting s t = false)
    (h : overrunAt s t k d = some x) :
    overrun s t = taskFault ((s.bump slotDrvr 0x050 1).pulse slotDrvr 2) slotDrvr t (if x < 0x100 then some x else none)
      0x0401 none (w32 d.wcet) (w32 x) := by
  unfold overrun
  rw [hk, hd]
  dsimp only
  rw [h]
  exact if_pos (by simp [hst, hrun])

end

/-! ### Reserves (R242) -/

section
variable {s : State} {col : Nat}

theorem reserveExhausted_within (h : Tbl.getD s.drover.reserve col 0 ≤ reserveLimit col) : reserveExhausted s col = s :=
  if_pos (by simp [h])

theorem reserveExhausted_first {i : Inst} (hmade : Tbl.getD s.drover.resAborts col 0 = 0)
    (hused : reserveLimit col < Tbl.getD s.drover.reserve col 0) (hvictim : victim s col = some i) :
    reserveExhausted s col
      = (((s.bump slotDrvr 0x05C 1).pulse slotDrvr 1).fault slotDrvr
          { code := 0x0402, ctx := some i.ctx, sess := some i.sess, d0 := w32 col,
            d1 := w32 (Tbl.getD s.drover.reserve col 0) }).mapDrover (fun d => { d with
              resAborts := Tbl.set d.resAborts col 1, aborts := d.aborts ++ [⟨i.num, 0x0402, none⟩] }) := by
  unfold reserveExhausted
  dsimp only
  rw [hmade, if_neg (by simp [hused]), hvictim]

end

/-- Settles O34: what the front of the program decides for END and UNDEFINED_INSTRUCTION, where a task overruns, and the first
abort of a reserve. -/
theorem programsEnd : Obligations.ProgramsEnd := by
  refine ⟨?ends, ?other, ?stall, ?overrun, ?reserve, ?exhausted⟩
  case ends =>
    intro s u c p h
    exact congrArg Host.Outcome.next (issueEnd_ends h)
  case other =>
    intro s u c p ws h hws
    rw [front_words_taskKind h]
    exact ⟨congrArg Host.Outcome.next (issueEnd_other h hws),
      fun hbad => congrArg Host.Outcome.next (issueUndefined_aborts h hws hbad),
      fun hknown hkind => congrArg Host.Outcome.next (issueUndefined_defined h hknown hkind)⟩
  case stall =>
    intro s c h
    exact ⟨congrArg Host.Outcome.next (issueEnd_stall (front_stall h)),
      congrArg Host.Outcome.next (issueUndefined_stall (front_stall h))⟩
  case overrun =>
    intro s n k d hk hd hst hrun
    refine ⟨fun hon => ⟨fun c hc hlow => ?_, fun hwithin => ?_⟩, fun hon => ⟨fun hover => ?_, fun hwithin => ?_⟩⟩
    · refine congrArg Host.Outcome.next ((overrun_aborts hk hd hst hrun ((overrunAt_core hon).trans hc)).trans ?_)
      rw [if_pos hlow]
    · refine congrArg Host.Outcome.next (overrun_within hk hd ((overrunAt_core hon).trans (List.find?_eq_none.mpr ?_)))
      intro c hc
      simpa [or_iff_not_imp_left] using hwithin c hc
    · refine congrArg Host.Outcome.next ((overrun_aborts hk hd hst hrun ((overrunAt_unit hon).trans (if_pos hover))).trans ?_)
      by_cases hherd : d.kind = kHerd <;> simp only [hherd] <;> rfl
    · exact congrArg Host.Outcome.next
        (overrun_within hk hd ((overrunAt_unit hon).trans (if_neg (Nat.not_lt.mpr hwithin))))
  case reserve =>
    intro s col h
    exact congrArg Host.Outcome.next (reserveExhausted_within h)
  case exhausted =>
    intro s col i hmade hused hvictim
    exact congrArg Host.Outcome.next (reserveExhausted_first hmade hused hvictim)

end Sys2Proof.Machine

/-! PROOFS. The transfers of the stream engine: their grant at a store port, and their end (07_streams.md R164 to R167, R182 to
R186). -/

namespace Sys2Proof.Machine

/-! ### A grant and what it counts (R164 to R167) -/

/-- The core once a transfer of its channel is granted, and whether the transfer took a block over the chain's links. -/
def grantedCore (s : State) (c ch : Nat) (w : Want) : Core × Bool :=
  takeSeq (takeIndex ((s.core c).setChan ch { ((s.core c).chan ch).moved w with
      flights := ((s.core c).chan ch).flights ++ [flightOf s c (s.core c) ((s.core c).chan ch) w] })
    ((s.core c).chan ch) w) ((s.core c).chan ch) w c

/-- The counters of the granted channel's core. -/
def grantCounted (s : State) (c : Nat) (w : Want) (linked : Bool) : State :=
  let s1 := s.bump (slotStrm c) 0x040 1
  let s2 := if linked then s1.bump (slotDrove c) 0x050 1 else s1
  if w.slots = 2 then s2.bump (slotStrm c) 0x044 1 else s2

/-- The counters and the idle time of the store that a transfer reaches. -/
def storeCounted (s : State) (c : Nat) (w : Want) : State :=
  let s1 := match regionCore w.addr with
    | some o => if o = c then s else s.bump (slotStrm o) 0x058 w.slots
    | none => s.bump slotHerd 0x064 w.slots
  touchDom (countSlots s1 w.addr w.slots) w.addr

theorem grantTo_eq (s : State) (c ch : Nat) (w : Want) :
    grantTo s c ch w
      = storeCounted (takePort (grantCounted (s.setCore c (grantedCore s c ch w).1) c w (grantedCore s c ch w).2)
          (portOf w.addr) w.slots) c w := rfl

theorem grantCounted_keeps (s : State) (c : Nat) (w : Want) (linked : Bool) :
    Keeps [.regs] s (grantCounted s c w linked) :=
  have hlinked := Keeps.ite (fun _ => (State.bump_keeps (s.bump (slotStrm c) 0x040 1) (slotDrove c) 0x050 1)) (fun _ => .refl _ _)
  .ite (fun _ => ((State.bump_keeps ..).trans hlinked).trans (State.bump_keeps ..))
    (fun _ => (State.bump_keeps ..).trans hlinked)

theorem storeCounted_keeps (s : State) (c : Nat) (w : Want) : Keeps [.regs, .power] s (storeCounted s c w) := by
  unfold storeCounted
  refine (touchDom_keeps ..).cut (by decide) ((countSlots_keeps ..).cut (by decide) ?_)
  split
  · exact .ite (fun _ => .refl _ _) (fun _ => (State.bump_keeps ..).mono (by decide))
  · exact (State.bump_keeps ..).mono (by decide)

theorem grantTo_slots (s : State) (c ch : Nat) (w : Want) :
    (grantTo s c ch w).slots = portOf w.addr :: (if w.slots = 2 then [portOf w.addr + 1024] else []) ++ s.slots := by
  rw [grantTo_eq, (storeCounted_keeps ..).only.slots_eq (by decide)]
  exact congrArg (_ ++ ·) ((grantCounted_keeps ..).only.slots_eq (by decide))

/-- What is counted after a grant leaves the cores as the grant itself left them. -/
theorem grantTo_core (s : State) (c ch : Nat) (w : Want) (d : Nat) :
    (grantTo s c ch w).core d = (s.setCore c (grantedCore s c ch w).1).core d := by
  rw [grantTo_eq, core_of_cores ((storeCounted_keeps ..).only.cores_eq (by decide)),
    core_of_cores ((takePort_keeps ..).only.cores_eq (by decide)),
    core_of_cores ((grantCounted_keeps ..).only.cores_eq (by decide))]

/-! ### The channel of a grant -/

theorem takeIndex_chan {h : Chan} {i : Nat} (hi : h.desc.gather = 0 ∨ h.desc.ich ≠ i) (k : Core) (w : Want) :
    (takeIndex k h w).chan i = k.chan i := by
  unfold takeIndex
  split
  · rfl
  split
  · rfl
  · exact Core.chan_setChan_other _ _ (hi.resolve_left ‹_›).symm

@[simp] theorem takeSeq_chan (k : Core) (h : Chan) (w : Want) (c i : Nat) : (takeSeq k h w c).1.chan i = k.chan i := by
  unfold takeSeq
  split <;> rfl

theorem grantTo_chan {s : State} {c ch : Nat}
    (hi : ((s.core c).chan ch).desc.gather = 0 ∨ ((s.core c).chan ch).desc.ich ≠ ch) (w : Want) :
    ((grantTo s c ch w).core c).chan ch = { ((s.core c).chan ch).moved w with
      flights := ((s.core c).chan ch).flights ++ [flightOf s c (s.core c) ((s.core c).chan ch) w] } := by
  rw [grantTo_core, State.core_setCore_same, grantedCore, takeSeq_chan, takeIndex_chan hi, Core.chan_setChan_same]

theorem Chan.moved_tokens {h : Chan} (w : Want) (hfeed : h.desc.feed = 0) :
    (h.moved w).tokens = h.tokens - 256 * w.slots := by
  have hcost : w.cost h = 256 * w.slots := if_pos (by simp [Want.draws, hfeed])
  unfold Chan.moved
  rw [hcost]
  cases w.leg <;> cases h.desc.write <;> rfl

theorem Chan.moved_fetched {h : Chan} {w : Want} (hleg : w.leg = .queue) (hread : h.desc.write = false) :
    (h.moved w).fetched = h.fetched + w.elems := by
  simp [Chan.moved, hleg, hread]

/-! ### PORT_GRANT (R184, R186) -/

theorem portGrant_taken {s : State} {p : Nat} (h : p ∈ s.slots) : portGrant s p = s :=
  if_pos (by simp [portFree, h])

section
variable {s : State} {p : Nat} (hfree : p ∉ s.slots) (hfaults : portFaults s p = none)
include hfree hfaults

theorem portGrant_grants {r : Request} (h : bestOf (portRequests s p) = some r) :
    portGrant s p = grantTo s r.core r.ch r.want := by
  unfold portGrant
  rw [if_neg (by simp [portFree, hfree]), hfaults]
  dsimp only
  rw [h]

theorem portGrant_outside (h : portRequests s p = []) : portGrant s p = serveOutside s p := by
  unfold portGrant
  rw [if_neg (by simp [portFree, hfree]), hfaults]
  dsimp only
  rw [h]
  rfl

end

theorem serveOutside_request {s : State} {p : Nat} {o : OutPkt} (ho : reqAtPort s p = some o) (hb : bar2At s p = none) :
    serveOutside s p = serveRequest s o := by
  rw [serveOutside, ho, hb]

theorem serveOutside_bar2 {s : State} {p : Nat} {b : Bar2} (ho : reqAtPort s p = none) (hb : bar2At s p = some b) :
    serveOutside s p = bar2Retry s b := by
  rw [serveOutside, ho, hb]

theorem serveOutside_none {s : State} {p : Nat} (ho : reqAtPort s p = none) (hb : bar2At s p = none) :
    serveOutside s p = s := by
  rw [serveOutside, ho, hb]

/-! ### Cells written to the stores (R182) -/

theorem Memory.read_foldl_write_outside (m : Memory) (cells : List Host.Cell) {a : Nat} (h : a ∉ cells.map (·.1)) :
    (cells.foldl (fun m c => m.write c.1 c.2) m).read a = m.read a := by
  induction cells generalizing m with
  | nil => rfl
  | cons x cells ih =>
    obtain ⟨hx, hcells⟩ := not_or.mp (mt List.mem_cons.mpr h)
    exact (ih _ hcells).trans (Memory.read_write_other _ _ hx)

theorem Memory.read_foldl_write_inside (m : Memory) {cells : List Host.Cell} (hnodup : (cells.map (·.1)).Nodup) {a : Nat}
    {v : Byte} (h : (a, v) ∈ cells) : (cells.foldl (fun m c => m.write c.1 c.2) m).read a = v := by
  induction cells generalizing m with
  | nil => cases h
  | cons x cells ih =>
    obtain ⟨hx, hcells⟩ := List.nodup_cons.mp hnodup
    rcases List.mem_cons.mp h with rfl | h
    · exact (Memory.read_foldl_write_outside _ _ hx).trans (Memory.read_write_same ..)
    · exact ih _ hcells h

/-- A merge without fault writes the cells; beside them only check value and poison marks change. -/
theorem mergeCells_read {m : Memory} {blk : Nat} {cells : List Host.Cell} (h : (mergeCells m blk cells).1 = .good) (a : Nat) :
    (mergeCells m blk cells).2.read a = (cells.foldl (fun m c => m.write c.1 c.2) m).read a := by
  unfold mergeCells at *
  dsimp only at *
  split at h
  · rfl
  · exact absurd h ‹_›

/-! ### TRANSFER_COMPLETE (R166) -/

theorem firstDue_none {now : Nat} {l : List Flight} (h : ∀ f ∈ l, now < f.at_) (late : List Leg) :
    firstDue now l late = none := by
  induction l generalizing late with
  | nil => rfl
  | cons f l ih =>
    obtain ⟨hf, hl⟩ := List.forall_mem_cons.mp h
    rw [firstDue, if_neg (by omega)]
    exact ih hl _

theorem transferDone_none {s : State} {c ch : Nat} (h : dueFlight s ((s.core c).chan ch) = none) :
    transferDone s c ch = s := by
  unfold transferDone
  dsimp only
  rw [h]

/-- The state once a transfer is no longer in flight, and before what it moves arrives. -/
abbrev flightOver (s : State) (c ch : Nat) (f : Flight) : State :=
  s.mapChan c ch (fun h => { h with flights := dropFirst f h.flights })

/-- A channel's write counts as landed in the halves or in the walk. -/
def Chan.landedBy (h : Chan) (f : Flight) : Chan :=
  if f.leg = .half then { h with filled := h.filled + f.elems } else { h with landed := h.landed + f.elems }

theorem Chan.landedBy_half {f : Flight} (h : Chan) (hf : f.leg = .half) :
    h.landedBy f = { h with filled := h.filled + f.elems } := if_pos hf

theorem Chan.landedBy_walk {f : Flight} (h : Chan) (hf : f.leg ≠ .half) :
    h.landedBy f = { h with landed := h.landed + f.elems } := if_neg hf

@[simp] theorem Chan.landedBy_flights (h : Chan) (f : Flight) : (h.landedBy f).flights = h.flights := by
  unfold Chan.landedBy
  split <;> rfl

/-- The state once a merge without fault is in its store. -/
def writeLanded (s : State) (c ch : Nat) (f : Flight) : State :=
  { s.mapChan c ch (·.landedBy f) with mem := (mergeCells s.mem f.block f.cells).2 }

/-- The state once a read for a queue has arrived. -/
def readLanded (s : State) (c ch : Nat) (f : Flight) : State :=
  s.mapChan c ch (fun h => { h with landed := h.landed + f.elems })

section
variable {s : State} {c ch : Nat} {f : Flight}

theorem landWrite_good (hcells : f.src = none) (hgood : (mergeCells s.mem f.block f.cells).1 = .good) :
    landWrite s c ch f = writeLanded s c ch f := by
  unfold landWrite
  dsimp only
  rw [hcells]
  dsimp only
  rw [← Prod.eta (mergeCells s.mem f.block f.cells), hgood]
  rfl

theorem landRead_queue (hsome : f.elems ≠ 0) (hqueue : f.leg = .queue) (hrun : aborting s f.task = false)
    (hread : ((s.core c).chan ch).desc.write = false) (hchain : ((s.core c).chan ch).chain = none) :
    landRead s c ch f = readLanded s c ch f := by
  have hlead : landLead s c ((s.core c).chan ch) f = s := by
    rw [landLead, hchain]
  unfold landRead
  dsimp only
  rw [if_neg (by simp [hsome, hrun]), if_neg (by simp [hqueue, hread]), hlead]
  rfl

variable (hdue : dueFlight s ((s.core c).chan ch) = some f)
include hdue

theorem transferDone_write (hwrite : f.write = true) :
    transferDone s c ch = pull (landWrite (flightOver s c ch f) c ch f) c := by
  unfold transferDone
  dsimp only
  rw [hdue]
  dsimp only
  rw [if_pos hwrite]

theorem transferDone_read (hread : f.write = false) :
    transferDone s c ch = pull (landRead (flightOver s c ch f) c ch f) c := by
  unfold transferDone
  dsimp only
  rw [hdue]
  dsimp only
  rw [if_neg (by simp [hread])]

end

theorem writeLanded_only (s : State) (c ch : Nat) (f : Flight) : Only [.mem, .cores] s (writeLanded s c ch f) :=
  ((State.mapChan_keeps s c ch _).only.mono (by decide)).trans ((Only.mem _ _).mono (by decide))

theorem writeLanded_chan (s : State) (c ch : Nat) (f : Flight) :
    ((writeLanded s c ch f).core c).chan ch = ((s.core c).chan ch).landedBy f :=
  mapChan_chan_same s c ch (·.landedBy f)

/-- Settles O24: a grant moves its channel's positions and counts the slots, and a transfer that ends lands its cells or its
elements. -/
theorem transfersAreGranted : Obligations.TransfersAreGranted := by
  refine ⟨?taken, ?grants, ?moves, ?remote, ?bar2, ?idle, ?write, ?read, ?none⟩
  case taken =>
    intro s p h
    exact congrArg Host.Outcome.next (portGrant_taken h)
  case grants =>
    intro s p r hfree hfaults hbest hindex
    refine ⟨_, congrArg Host.Outcome.next (portGrant_grants hfree hfaults hbest), (grantTo_keeps ..).only, ?_, ?_,
      grantTo_chan hindex r.want, fun d hd => ?_⟩
    · simp [grantTo_slots]
    · intro q hq
      simp [grantTo_slots, hq]
    · rw [grantTo_core, State.core_setCore_other _ _ hd]
  case moves => exact fun s c k h w => ⟨rfl, rfl, h.moved_tokens w, h.moved_fetched⟩
  case remote =>
    intro s p o hfree hfaults hnone ho hb
    exact congrArg Host.Outcome.next ((portGrant_outside hfree hfaults hnone).trans (serveOutside_request ho hb))
  case bar2 =>
    intro s p b hfree hfaults hnone ho hb
    exact congrArg Host.Outcome.next ((portGrant_outside hfree hfaults hnone).trans (serveOutside_bar2 ho hb))
  case idle =>
    intro s p hfree hfaults hnone ho hb
    exact congrArg Host.Outcome.next ((portGrant_outside hfree hfaults hnone).trans (serveOutside_none ho hb))
  case write =>
    intro s c ch f hdue hwrite hcells hgood hnodup
    refine ⟨_, congrArg Host.Outcome.next ((transferDone_write hdue hwrite).trans
        (congrArg (pull · c.val) (landWrite_good hcells hgood))),
      ((State.mapChan_keeps ..).only.mono (by decide)).trans (writeLanded_only ..), fun a x hx => ?_, fun a ha => ?_,
      fun hleg => ?_, fun hleg => ?_, ?_⟩
    · exact (mergeCells_read hgood a).trans (Memory.read_foldl_write_inside _ hnodup hx)
    · exact (mergeCells_read hgood a).trans (Memory.read_foldl_write_outside _ _ ha)
    · rw [writeLanded_chan, Chan.landedBy_walk _ hleg, mapChan_chan_same]
    · rw [writeLanded_chan, Chan.landedBy_half _ hleg, mapChan_chan_same]
    · rw [writeLanded_chan, Chan.landedBy_flights, mapChan_chan_same]
  case read =>
    intro s c ch f hdue hread hsome hqueue hrun hchan hchain
    refine ⟨_, congrArg Host.Outcome.next ((transferDone_read hdue hread).trans (congrArg (pull · c.val)
        (landRead_queue hsome hqueue hrun (by rwa [mapChan_chan_same]) (by rwa [mapChan_chan_same])))),
      (State.mapChan_keeps ..).only.trans (State.mapChan_keeps ..).only, ?_⟩
    unfold readLanded
    rw [mapChan_chan_same, mapChan_chan_same]
    exact ⟨rfl, rfl⟩
  case none =>
    intro s c ch h
    exact congrArg Host.Outcome.next (transferDone_none (firstDue_none h []))

end Sys2Proof.Machine

/-! PROOFS. The slots of a drove chain: how each is found and changed, and what the sending of blocks leaves of the other
members (08_drove_chains.md R201, R210 to R214). -/

namespace Sys2Proof.Machine

/-! ### The first entry of a table that a test accepts -/

/-- The first accepted entry, once replaced by one that is accepted too, is again the first. -/
theorem Tbl.find?_set {α : Type} {t : Tbl α} {f : Nat × α → Bool} {i : Nat} {v w : α} (h : t.find? f = some (i, v))
    (hw : f (i, w) = true) : (Tbl.set t i w).find? f = some (i, w) := by
  induction t with
  | nil => cases h
  | cons p t ih =>
    obtain ⟨k, x⟩ := p
    unfold Tbl.set
    split
    · exact List.find?_cons_of_pos hw
    split
    · exact List.find?_cons_of_pos hw
    · by_cases hx : f (k, x) = true
      · rw [List.find?_cons_of_pos hx] at h
        cases h
        contradiction
      · rw [List.find?_cons_of_neg hx] at h ⊢
        exact ih h

/-- An accepted entry that the table reads at `i` is the one found, where what is found stands at `i`. -/
theorem Tbl.find?_of_get {α : Type} {t : Tbl α} {f : Nat × α → Bool} {i : Nat} {v w : α} (hget : Tbl.get t i = some v)
    (hv : f (i, v) = true) (h : t.find? f = some (i, w)) : w = v := by
  induction t with
  | nil => cases h
  | cons p t ih =>
    obtain ⟨k, x⟩ := p
    by_cases hk : k = i
    · subst hk
      rw [Tbl.get, if_pos rfl] at hget
      cases hget
      rw [List.find?_cons_of_pos hv] at h
      cases h
      rfl
    · rw [Tbl.get, if_neg hk] at hget
      by_cases hx : f (k, x) = true
      · rw [List.find?_cons_of_pos hx] at h
        cases h
        contradiction
      · rw [List.find?_cons_of_neg hx] at h
        exact ih hget h

/-! ### One slot of one core -/

@[simp] theorem Core.chSlot_setChSlot_same (k : Core) (i : Nat) (v : ChSlot) : (k.setChSlot i v).chSlot i = some v :=
  Tbl.get_set_same k.drove i v

theorem Core.chSlot_setChSlot_other (k : Core) {i j : Nat} (v : ChSlot) (h : j ≠ i) :
    (k.setChSlot i v).chSlot j = k.chSlot j :=
  Tbl.get_set_other k.drove v h

@[simp] theorem setSlotOf_core_same (s : State) (c i : Nat) (v : ChSlot) :
    (setSlotOf s c i v).core c = (s.core c).setChSlot i v :=
  State.core_mapCore_same s c _

theorem setSlotOf_core_other (s : State) {c d : Nat} (i : Nat) (v : ChSlot) (h : d ≠ c) : (setSlotOf s c i v).core d = s.core d :=
  State.core_mapCore_other s _ h

theorem setSlotOf_chSlot_same (s : State) (c i : Nat) (v : ChSlot) : ((setSlotOf s c i v).core c).chSlot i = some v := by
  rw [setSlotOf_core_same, Core.chSlot_setChSlot_same]

/-! ### The slots of one chain -/

/-- Two slots belong to one chain. -/
def ChSlot.SameChain (u v : ChSlot) : Prop := u.inst = v.inst ∧ u.chain = v.chain

theorem ChSlot.SameChain.trans {u v w : ChSlot} (h : u.SameChain v) (k : v.SameChain w) : u.SameChain w :=
  ⟨h.1.trans k.1, h.2.trans k.2⟩

theorem memberSlot_sameChain {u v : ChSlot} (h : u.SameChain v) (s : State) (d : Nat) : memberSlot s u d = memberSlot s v d := by
  obtain ⟨hinst, hchain⟩ := h
  unfold memberSlot
  rw [hinst, hchain]

theorem sameChain_of_memberSlot {s : State} {v w : ChSlot} {d j : Nat} (h : memberSlot s v d = some (j, w)) : w.SameChain v := by
  simpa [ChSlot.SameChain] using List.find?_some h

theorem memberSlot_setSlotOf {s : State} {v w x : ChSlot} {d j : Nat} (h : memberSlot s v d = some (j, w))
    (hx : x.SameChain v) : memberSlot (setSlotOf s d j x) v d = some (j, x) := by
  unfold memberSlot
  rw [setSlotOf_core_same]
  exact Tbl.find?_set h (by simpa [ChSlot.SameChain] using hx)

/-- A core's own slot, where the search for the chain ends at its number. -/
theorem memberSlot_own {s : State} {v w : ChSlot} {c i : Nat} (hv : (s.core c).chSlot i = some v)
    (h : memberSlot s v c = some (i, w)) : w = v :=
  Tbl.find?_of_get hv (by simp) h

/-! ### Members that stay attached -/

/-- Core `d` is an attached member of the chain of `v`, with its slot at `j`. -/
def AttachedAt (s : State) (v : ChSlot) (d j : Nat) : Prop :=
  ∃ x, memberSlot s v d = some (j, x) ∧ (s.core d).chSlot j = some x ∧ x.detached = false

theorem attachedAt_setSlotOf {s : State} {v w x : ChSlot} {d j : Nat} (h : memberSlot s v d = some (j, w)) (hx : x.SameChain v)
    (hon : x.detached = false) : AttachedAt (setSlotOf s d j x) v d j :=
  ⟨x, memberSlot_setSlotOf h hx, setSlotOf_chSlot_same .., hon⟩

namespace AttachedAt
variable {s : State} {v : ChSlot} {d j : Nat} (h : AttachedAt s v d j)
include h

theorem of_core {t : State} (ht : t.core d = s.core d) : AttachedAt t v d j := by
  unfold AttachedAt memberSlot
  rw [ht]
  exact h

/-- A change of the slot of any member, which detaches none. -/
theorem set_member {u w x : ChSlot} {e i : Nat} (hu : u.SameChain v) (hw : memberSlot s u e = some (i, w)) (hx : x.SameChain w)
    (hon : x.detached = w.detached) : AttachedAt (setSlotOf s e i x) v d j := by
  by_cases he : d = e
  · subst he
    obtain ⟨y, hy, -, hatt⟩ := h
    rw [memberSlot_sameChain hu, hy] at hw
    cases hw
    exact attachedAt_setSlotOf hy (hx.trans (sameChain_of_memberSlot hy)) (hon.trans hatt)
  · exact h.of_core (setSlotOf_core_other s i x he)

theorem sendMsg {u : ChSlot} (hu : u.SameChain v) (src dst : Nat) (b : Option ChBlock) (m : Option ChMark) (fwd : Bool) :
    AttachedAt (sendMsg s u src dst b m fwd) v d j := by
  unfold Machine.sendMsg
  split
  case h_1 k w hw => exact h.set_member hu hw ⟨rfl, rfl⟩ rfl
  case h_2 => exact h

theorem returnCredits {u : ChSlot} (hu : u.SameChain v) (c n : Nat) : AttachedAt (returnCredits s u c n) v d j := by
  unfold Machine.returnCredits
  split
  case h_1 =>
    split
    case h_1 k w hw => exact h.set_member hu hw ⟨rfl, rfl⟩ rfl
    case h_2 => exact h
  case h_2 => exact h

theorem sweepRing {u : ChSlot} {c i : Nat} (hc : d ≠ c) (hv : (s.core c).chSlot i = some u) (hu : u.SameChain v) :
    AttachedAt (sweepRing s c i) v d j := by
  unfold Machine.sweepRing
  rw [hv]
  exact (h.of_core (setSlotOf_core_other s i _ hc)).returnCredits hu _ _

end AttachedAt

/-! ### A sender's slot -/

theorem sendMsg_eq {s : State} {v w : ChSlot} {dst j : Nat} (h : memberSlot s v dst = some (j, w)) (src : Nat) (b : Option ChBlock)
    (m : Option ChMark) (fwd : Bool) :
    sendMsg s v src dst b m fwd = setSlotOf s dst j { w with coming := w.coming ++ [⟨s.now + hopLatency src dst, b, m, fwd⟩] } := by
  unfold sendMsg
  rw [h]

theorem sendMsg_core_other (s : State) (v : ChSlot) (src : Nat) {dst c : Nat} (b : Option ChBlock) (m : Option ChMark) (fwd : Bool)
    (h : c ≠ dst) : (sendMsg s v src dst b m fwd).core c = s.core c := by
  unfold sendMsg
  split
  · exact setSlotOf_core_other _ _ _ h
  · rfl

theorem sendTo_core_other (s : State) (v : ChSlot) {c e : Nat} (d : Nat) (h : e ≠ c) : (sendTo s v c d).core e = s.core e := by
  unfold sendTo
  split
  · exact setSlotOf_core_other _ _ _ h
  · rfl

/-- A sender that starts to send to another member is the same member of the same chain. -/
theorem sendTo_slot {s : State} {v : ChSlot} {c i : Nat} (hv : (s.core c).chSlot i = some v) (d : Nat) :
    ∃ w, ((sendTo s v c d).core c).chSlot i = some w ∧ w.SameChain v ∧ w.lead = v.lead := by
  unfold sendTo
  split
  case h_1 k w hw =>
    by_cases hk : i = k
    · subst hk
      obtain rfl := memberSlot_own hv hw
      exact ⟨_, setSlotOf_chSlot_same .., ⟨rfl, rfl⟩, rfl⟩
    · exact ⟨v, by rw [setSlotOf_core_same, Core.chSlot_setChSlot_other _ _ hk, hv], ⟨rfl, rfl⟩, rfl⟩
  case h_2 => exact ⟨v, hv, ⟨rfl, rfl⟩, rfl⟩

end Sys2Proof.Machine

/-! PROOFS. DLEAD and DJOIN at their issue, and a block that goes on to the next member (08_drove_chains.md R204, R207, R211, R214,
R218). -/

namespace Sys2Proof.Machine

/-! ### DLEAD and DJOIN -/

theorem exec_dlead_djoin {s u : State} {c : CoreId} {lead : Bool} {p : Prog} {ws : List Word}
    (h : Issues s (if lead then opDlead else opDjoin) c.val u p ws) :
    exec (if lead then .dlead c else .djoin c) s = .next (issueChain lead c.val u p ws) := by
  cases lead
  · exact congrArg Host.Outcome.next (issue_of_issues h _)
  · exact congrArg Host.Outcome.next (issue_of_issues h _)

theorem preCode_unclaimed {s : State} {c t ch : Nat} (h : chanClaim s t ch = none) (addr : Nat) : preCode s c t ch addr = some 8 :=
  if_pos (by rw [h]; rfl)

theorem issueChain_refused {s : State} {c : Nat} {p : Prog} {ws : List Word} {code : Nat}
    (h : preCode s c p.task (chOf (wd ws 0)) (wd ws 1).toNat = some code) (lead : Bool) :
    issueChain lead c s p ws = streamFault s c p.task (chOf (wd ws 0)) 0x0301 none (w32 code) (wd ws 0) := by
  unfold issueChain
  dsimp only
  rw [h]

/-- The slot of a chain once a channel of a task leads it or is joined to it (R204, R207). -/
def ChSlot.bound (v : ChSlot) (t ch : Nat) (h : Chan) : ChSlot :=
  let w := { v with joined := some ch, task := some t, nextSeq := 0, gen := 0, waitAt := none, left := false }
  if v.lead then { w with commits := [], cancels := [], srcs := [(0, ⟨h.base, some h.desc⟩)], ended := false } else w

theorem bindChain_core_same (s : State) (c t ch i : Nat) (v : ChSlot) (h : Chan) :
    (bindChain s c t ch i v h).core c
      = ((s.core c).setChan ch { h with chain := some i }).setChSlot i (v.bound t ch h) :=
  (State.core_mapCore_same _ c _).trans (congrArg (·.setChSlot i (v.bound t ch h)) (mapChan_core_same s c ch _))

theorem bindChain_core_other (s : State) {c d : Nat} (t ch i : Nat) (v : ChSlot) (h : Chan) (hd : d ≠ c) :
    (bindChain s c t ch i v h).core d = s.core d :=
  (State.core_mapCore_other _ _ hd).trans (mapChan_core_other s ch _ hd)

@[simp] theorem traceArm_core (s : State) (c t ch addr : Nat) (ws : List Word) (d : Nat) :
    (traceArm s c t ch addr ws).core d = s.core d :=
  taskTrace_core ..

section
variable {s : State} {c : Nat} {lead : Bool} {p : Prog} {ws : List Word} {i : Nat} {v : ChSlot}
  (hclaim : claimSlot s c p.task (wd ws 0) = some (i, v)) (hzero : bits (wd ws 0) 12 0 = 0) (htwo : wd ws 2 = 0)
  (hthree : wd ws 3 = 0)
include hclaim hzero htwo hthree

theorem setupCode_wrongRole (hrole : v.lead ≠ lead) (ch : Nat) : setupCode s c p.task ch lead ws = some 3 := by
  unfold setupCode
  dsimp only
  rw [if_neg (by simp [hzero, htwo, hthree]), hclaim]
  exact if_pos (by simpa using hrole.symm)

theorem setupCode_fits {ch : Nat} (hrole : v.lead = lead) (hfree : ((s.core c).chan ch).chain = none) (hjoined : v.joined = none) :
    setupCode s c p.task ch lead ws = none := by
  unfold setupCode
  dsimp only
  rw [if_neg (by simp [hzero, htwo, hthree]), hclaim]
  dsimp only
  rw [if_neg (by simp [hrole]), if_neg (by simp [hfree]), if_neg (by simp [hjoined])]

end

section
variable {s : State} {c : Nat} {lead : Bool} {p : Prog} {ws : List Word}
  (hpre : preCode s c p.task (chOf (wd ws 0)) (wd ws 1).toNat = none)
include hpre

theorem issueChain_setupFault {code : Nat} (h : setupCode s c p.task (chOf (wd ws 0)) lead ws = some code) :
    issueChain lead c s p ws = setupFault s c p.task (chOf (wd ws 0)) code (wd ws 0) := by
  unfold issueChain
  dsimp only
  rw [hpre]
  dsimp only
  rw [h]

/-- The descriptor of a plain read, at the chain's rate for a bellwether, arms the channel and binds it to its chain slot. -/
theorem issueChain_binds {i : Nat} {v : ChSlot} {d : Desc} (hsetup : setupCode s c p.task (chOf (wd ws 0)) lead ws = none)
    (hidle : ((s.core c).chan (chOf (wd ws 0))).armed = false)
    (hread : readDesc s c p.task (chOf (wd ws 0)) (wd ws 1).toNat (wd ws 0) (!lead) = .inr d)
    (hplain : d.write = false ∧ d.feed = 0 ∧ d.gather = 0 ∧ d.index = false)
    (hclaim : claimSlot s c p.task (wd ws 0) = some (i, v)) (hrate : lead = true → d.rate = v.desc.rate) :
    issueChain lead c s p ws
      = advance (traceArm (bindChain s c p.task (chOf (wd ws 0)) i v (armedChan ((s.core c).chan (chOf (wd ws 0))) d
          (wd ws 1).toNat s.now p.task (taskSess s p.task) (wd ws 0))) c p.task (chOf (wd ws 0)) (wd ws 1).toNat ws) c p ws := by
  obtain ⟨hwrite, hfeed, hgather, hindex⟩ := hplain
  unfold issueChain
  dsimp only
  rw [hpre]
  dsimp only
  rw [hsetup]
  dsimp only
  rw [if_neg (by simp [hidle]), hread]
  dsimp only
  rw [if_neg (by simp [hwrite, hfeed, hgather, hindex]), hclaim]
  dsimp only
  rw [if_neg (by simpa using hrate)]

end

theorem arms_only (s : State) (c : Nat) (p : Prog) (ws : List Word) (ch addr i : Nat) (v : ChSlot) (h : Chan) :
    Only [.cores, .sharal] s (advance (traceArm (bindChain s c p.task ch i v h) c p.task ch addr ws) c p ws) :=
  ((advance_keeps ..).cut (by decide) ((traceArm_keeps ..).cut (by decide) ((bindChain_keeps ..).mono (by decide)))).only

/-! ### CHAIN_BLOCK_FORWARD (R211) -/

/-- A member's slot once it has sent a block on for a credit (R211, R218). -/
def ChSlot.sending (v : ChSlot) (b : ChBlock) (now : Nat) : ChSlot :=
  { markSent v b with credits := v.credits - 1, sentAt := now + 2 }

theorem mcBlock_member {v : ChSlot} (hlead : v.lead = false) (s : State) (b : ChBlock) : mcBlock s v b = s :=
  if_neg (by simp [hlead])

/-- What goes on from a member, which has no group to send to and commits nothing itself. -/
theorem sendBlock_member {v : ChSlot} (hlead : v.lead = false) (s : State) (c i : Nat) (b : ChBlock) (d : Nat) :
    sendBlock s c i v b (some d)
      = sweepRing ((sendMsg (setSlotOf s c i (v.sending b s.now)) (v.sending b s.now) c d (some { b with sent := false }) none
          false).bump (slotDrove c) 0x040 1) c i := by
  have hmc (t : State) : mcBlock t { markSent v b with credits := v.credits - 1, sentAt := s.now + 2 } b = t :=
    mcBlock_member hlead t b
  simp only [sendBlock, Option.isSome_some, Option.isNone_some, hlead, Bool.false_and, Bool.false_eq_true, if_true, if_false, hmc]
  rfl

theorem AttachedAt.sendBlock {s : State} {v u : ChSlot} {d j c : Nat} (h : AttachedAt s v d j) (hu : u.SameChain v)
    (hlead : u.lead = false) (hc : d ≠ c) (i : Nat) (b : ChBlock) : AttachedAt (sendBlock s c i u b (some d)) v d j := by
  have hsending : (u.sending b s.now).SameChain v := hu
  rw [sendBlock_member hlead]
  refine (((h.of_core (setSlotOf_core_other s i _ hc)).sendMsg hsending c d _ none false).of_core (bump_core ..)).sweepRing
    hc ?_ hsending
  rw [bump_core, sendMsg_core_other _ _ _ _ _ _ hc.symm, setSlotOf_chSlot_same]

theorem attachNext_attached {s : State} {v w : ChSlot} {d j : Nat} (h : memberSlot s v d = some (j, w)) (hon : w.detached = false)
    (c : Nat) (b : ChBlock) : attachNext s c v b (some d) = s := by
  unfold attachNext
  dsimp only
  rw [h]
  exact if_neg (by simp [hon])

theorem attachNext_detached {s : State} {v w : ChSlot} {d j : Nat} (h : memberSlot s v d = some (j, w)) (hoff : w.detached = true)
    (c : Nat) (b : ChBlock) : attachNext s c v b (some d) = sendTo (setSlotOf s d j (w.attach b.gen)) v c d := by
  unfold attachNext
  dsimp only
  rw [h]
  exact if_pos hoff

section
variable {s : State} {c i : Nat} {v : ChSlot} (hv : (s.core c).chSlot i = some v)
include hv

theorem chainForward_early (h : s.now < v.sentAt) : chainForward s c i = s := by
  unfold chainForward
  rw [hv]
  dsimp only
  split
  · rfl
  · exact if_pos (.inl h)

variable {b : ChBlock} (hb : v.unsent = some b) (hlead : v.lead = false) {d : Nat} (hnext : nextFor s v b = some d)
include hb hlead hnext

/-- Once its 2 fc have passed, a member's block goes on where the member holds a credit. -/
theorem chainForward_member {w : ChSlot} (hdue : v.sentAt ≤ s.now)
    (hw : ((attachNext s c v b (some d)).core c).chSlot i = some w) :
    chainForward s c i
      = if w.credits = 0 then attachNext s c v b (some d) else sendBlock (attachNext s c v b (some d)) c i w b (some d) := by
  unfold chainForward
  rw [hv]
  dsimp only
  rw [hb]
  dsimp only
  rw [if_neg (by simp [leadStopped, hlead, hdue]), leadVerifyFault, if_neg (by simp [hlead]), hnext]
  dsimp only
  rw [hw]
  simp

variable {j : Nat} {w : ChSlot} (hmember : memberSlot s v d = some (j, w))
include hmember

theorem chainForward_noCredit (hon : w.detached = false) (hcredits : v.credits = 0) : chainForward s c i = s := by
  by_cases hdue : v.sentAt ≤ s.now
  · have hattached := attachNext_attached hmember hon c b
    rw [chainForward_member hv hb hlead hnext hdue (by rw [hattached, hv]), if_pos hcredits, hattached]
  · exact chainForward_early hv (Nat.not_le.mp hdue)

theorem chainForward_sends (hdue : v.sentAt ≤ s.now) (hon : w.detached = false) (hcredits : v.credits ≠ 0) :
    chainForward s c i
      = sweepRing ((sendMsg (setSlotOf s c i (v.sending b s.now)) (v.sending b s.now) c d (some { b with sent := false }) none
          false).bump (slotDrove c) 0x040 1) c i := by
  have hattached := attachNext_attached hmember hon c b
  rw [chainForward_member hv hb hlead hnext hdue (by rw [hattached, hv]), if_neg hcredits, hattached, sendBlock_member hlead]

/-- The detached member that is chosen is attached, and what follows leaves it so (R214). -/
theorem chainForward_attaches (hdue : v.sentAt ≤ s.now) (hoff : w.detached = true) (hc : d ≠ c) :
    AttachedAt (chainForward s c i) v d j := by
  have hslot : ((setSlotOf s d j (w.attach b.gen)).core c).chSlot i = some v := by rw [setSlotOf_core_other _ _ _ hc.symm, hv]
  obtain ⟨u, hu, hsame, hrole⟩ := sendTo_slot hslot d
  have hchain : w.SameChain v := sameChain_of_memberSlot hmember
  have hattached : AttachedAt (sendTo (setSlotOf s d j (w.attach b.gen)) v c d) v d j :=
    (attachedAt_setSlotOf (x := w.attach b.gen) hmember hchain rfl).of_core (sendTo_core_other _ _ _ hc)
  rw [← attachNext_detached hmember hoff c b] at hu hattached
  rw [chainForward_member hv hb hlead hnext hdue hu]
  split
  · exact hattached
  · exact hattached.sendBlock hsame (hrole.trans hlead) hc i b

end

/-- Settles O27: the checks of DLEAD and DJOIN lead to a fault or to the bound channel, and a member's block goes on for a credit. -/
theorem chainSetupAndForward : Obligations.ChainSetupAndForward := by
  refine ⟨?setup, ?dlead, ?djoin, ?noCredit, ?sends, ?attaches, ?early, ?line⟩
  case setup =>
    intro s u c lead p ws dw i v hi hpre hidle hclaim hzero htwo hthree
    rw [exec_dlead_djoin hi]
    refine ⟨fun hrole => congrArg _ (issueChain_setupFault hpre (setupCode_wrongRole hclaim hzero htwo hthree hrole _)), ?_⟩
    intro hrole hfree hjoined hgood hdw hcode hscale hconv hwrite hfeed hgather hindex hrate
    subst hdw
    refine ⟨_, congrArg _ (issueChain_binds hpre (setupCode_fits hclaim hzero htwo hthree hrole hfree hjoined) hidle
      (readDesc_taken hgood hcode hscale hconv) ⟨hwrite, hfeed, hgather, hindex⟩ hclaim hrate), arms_only .., ?_⟩
    rw [advance_core, traceArm_core, bindChain_core_same]
    refine ⟨Core.chan_setChan_same .., ?_, rfl, fun d hd => ?_⟩
    · subst hrole
      exact Core.chSlot_setChSlot_same ..
    · rw [advance_core_other _ _ _ hd, traceArm_core, bindChain_core_other _ _ _ _ _ _ hd]
  case dlead =>
    intro s u c p ws hi hclaim
    exact (exec_dlead_djoin (lead := true) hi).trans (congrArg _ (issueChain_refused (preCode_unclaimed hclaim _) true))
  case djoin =>
    intro s u c p ws hi hclaim
    exact (exec_dlead_djoin (lead := false) hi).trans (congrArg _ (issueChain_refused (preCode_unclaimed hclaim _) false))
  case noCredit =>
    intro s c i v w b d j _ hv hb hlead hnext hmember hon hcredits
    exact congrArg Host.Outcome.next (onlyIf_unchanged (chainForward_noCredit hv hb hlead hnext hmember hon hcredits) _)
  case sends =>
    intro s c i v w b d j hruns hv hb hlead hdue hnext hmember hon hcredits
    exact congrArg Host.Outcome.next
      ((onlyIf_of hruns _ s).trans (chainForward_sends hv hb hlead hnext hmember hdue hon hcredits))
  case attaches =>
    intro s c i v w b d j hruns hv hb hlead hdue hnext hmember hoff hc
    obtain ⟨x, -, hx, hon⟩ := chainForward_attaches hv hb hlead hnext hmember hdue hoff hc
    exact ⟨_, x, congrArg Host.Outcome.next (onlyIf_of hruns _ s), hx, hon⟩
  case early =>
    intro s c i v hv hearly
    exact congrArg Host.Outcome.next (onlyIf_unchanged (chainForward_early hv hearly) _)
  case line =>
    intro s v w src dst j b hmember
    exact sendMsg_eq hmember ..

end Sys2Proof.Machine

/-! PROOFS. What arrives at a member of a chain: blocks, markers and credits (08_drove_chains.md R205, R208 to R211, R218). -/

namespace Sys2Proof.Machine

/-! ### A block in its ring entry (R190, R205) -/

theorem Memory.check_setCheck_same (m : Memory) (blk : Nat) (v : Word) : (m.setCheck blk v).check blk = v := by
  unfold Memory.setCheck Memory.check
  by_cases hzero : v = zeroCheck
  · rw [if_pos hzero, Tbl.getD, Tbl.get_del_same, hzero]
    rfl
  · rw [if_neg hzero, Tbl.getD_set_same]

@[simp] theorem ringWrite_core (s : State) (c : Nat) (v : ChSlot) (b : ChBlock) (d : Nat) :
    (ringWrite s c v b).core d = s.core d := rfl

theorem ringWrite_read (s : State) (c : Nat) (v : ChSlot) (b : ChBlock) (a : Nat) :
    (ringWrite s c v b).mem.read a = (s.mem.writeN (ringAddr c v b.entry) b.data).read a := rfl

theorem ringWrite_check (s : State) (c : Nat) (v : ChSlot) (b : ChBlock) :
    (ringWrite s c v b).mem.check (ringAddr c v b.entry / 512) = b.check :=
  Memory.check_setCheck_same ..

/-! ### CHAIN_BLOCK_ARRIVE (R218) -/

theorem countSlots_reg (s : State) (a n slot : Nat) {off : Nat} (h : off < 0xC00) :
    (countSlots s a n).reg slot off = s.reg slot off := by
  unfold countSlots
  split
  · exact countEvent_reg _ _ _ _ slot h
  · exact countEvent_reg _ _ _ _ slot h
  · rfl

/-- A block in the ring entry that is free for it. -/
def ChSlot.entered (v : ChSlot) (b : ChBlock) : ChBlock := { b with entry := v.freeEntry, used := v.spent b }

/-- A member's slot once a block is in its ring: the generation's walk comes with the first block, and a wait for this very block
ends (R206, R217). -/
def ChSlot.taking (v : ChSlot) (b : ChBlock) : ChSlot :=
  { v with
    ring := v.ring ++ [v.entered b], wr := v.freeEntry + 1, recvGen := b.gen, recvSeq := b.seq
    waitAt := if b.gen == v.gen && b.seq == v.nextSeq then none else v.waitAt
    srcs := match b.src with
      | some x => if v.past b.gen then v.srcs else Tbl.set v.srcs b.gen x
      | none => v.srcs }

/-- The slot of the near port that a block takes, and what counts it (R218, R220). -/
def arrivalCounted (s : State) (c : Nat) : State :=
  (countSlots (takePort s (2 * c) 1) (nearBase c) 1).bump (slotDrove c) 0x044 1

theorem ringPut_eq (s : State) (c i : Nat) (v : ChSlot) (b : ChBlock) :
    ringPut s c i v b = ringWrite (setSlotOf (arrivalCounted s c) c i (v.taking b)) c (v.taking b) (v.entered b) := rfl

theorem arrivalCounted_keeps (s : State) (c : Nat) : Keeps [.regs, .slots] s (arrivalCounted s c) :=
  (State.bump_keeps ..).cut (by decide) ((countSlots_keeps ..).cut (by decide) ((takePort_keeps ..).mono (by decide)))

theorem arrivalCounted_reg (s : State) (c : Nat) :
    (arrivalCounted s c).reg (slotDrove c) 0x044 = s.reg (slotDrove c) 0x044 + 1 :=
  (bump_reg_same _ _ _ (by decide)).trans (congrArg (· + 1) (countSlots_reg (takePort s (2 * c) 1) _ _ _ (by decide)))

theorem arrivalCounted_slots (s : State) (c : Nat) : 2 * c ∈ (arrivalCounted s c).slots := by
  unfold arrivalCounted
  rw [(State.bump_keeps ..).only.slots_eq (by decide), (countSlots_keeps ..).only.slots_eq (by decide)]
  exact List.mem_cons_self

theorem ringPut_chSlot_same (s : State) (c i : Nat) (v : ChSlot) (b : ChBlock) :
    ((ringPut s c i v b).core c).chSlot i = some (v.taking b) := by
  rw [ringPut_eq, ringWrite_core, setSlotOf_chSlot_same]

theorem ringPut_core_other (s : State) {c d : Nat} (i : Nat) (v : ChSlot) (b : ChBlock) (h : d ≠ c) :
    (ringPut s c i v b).core d = s.core d := by
  rw [ringPut_eq, ringWrite_core, setSlotOf_core_other _ _ _ h,
    core_of_cores ((arrivalCounted_keeps s c).only.cores_eq (by decide))]

theorem ringPut_read (s : State) (c i : Nat) (v : ChSlot) (b : ChBlock) (a : Nat) :
    (ringPut s c i v b).mem.read a = (s.mem.writeN (ringAddr c v v.freeEntry) b.data).read a := by
  have hmem : (setSlotOf (arrivalCounted s c) c i (v.taking b)).mem = s.mem :=
    (arrivalCounted_keeps s c).only.mem_eq (by decide)
  rw [ringPut_eq, ringWrite_read, hmem]
  rfl

section
variable {s : State} {c i : Nat} {v : ChSlot} (hv : (s.core c).chSlot i = some v)
include hv

theorem chainArrive_puts {b : ChBlock} {m : Option ChMark} {at_ : Nat} {fwd : Bool}
    (harrived : v.arrived s.now = some ⟨at_, some b, m, fwd⟩) (hport : 2 * c ∉ s.slots) :
    chainArrive s c i = ringPut s c i { v with coming := takeMsg s.now v.coming } b := by
  unfold chainArrive
  rw [hv]
  dsimp only
  rw [harrived]
  exact if_neg (by simp [portFree, hport])

theorem chainArrive_none (h : v.arrived s.now = none) : chainArrive s c i = s := by
  unfold chainArrive
  rw [hv]
  dsimp only
  rw [h]

/-! ### CHAIN_MARKER_ARRIVE (R208 to R210) -/

theorem chainMarker_none (h : v.arrived s.now = none) : chainMarker s c i = s := by
  unfold chainMarker
  rw [hv]
  dsimp only
  rw [h]

theorem chainMarker_takes {m : ChMark} {at_ : Nat} {fwd : Bool} (harrived : v.arrived s.now = some ⟨at_, none, some m, fwd⟩)
    {w : ChSlot} (hw : w = { v with coming := takeMsg s.now v.coming }) :
    chainMarker s c i = if fwd then forwardMark (takeMark s c i w m) c w m else takeMark s c i w m := by
  subst hw
  unfold chainMarker
  rw [hv]
  dsimp only
  rw [harrived]

end

section
variable {v : ChSlot} {m : ChMark} (s : State) (c i : Nat)

theorem takeMark_past (h : v.past m.gen = true) :
    takeMark s c i v m = setSlotOf s c i { v with ended := v.ended || m.last } :=
  if_pos h

theorem takeMark_commit (hgen : v.past m.gen = false) (hkind : m.cancel = false) : takeMark s c i v m = commitRing s c i v m := by
  rw [takeMark, if_neg (by simp [hgen]), if_neg (by simp [hkind])]

theorem takeMark_cancel (hgen : v.past m.gen = false) (hkind : m.cancel = true) : takeMark s c i v m = cancelRing s c i v m := by
  rw [takeMark, if_neg (by simp [hgen]), if_pos hkind]

end

/-! ### CHAIN_CREDIT_RETURN (R211) -/

theorem chainCredit_returns {s : State} {c i n : Nat} {v : ChSlot} {rest : List Nat} (hv : (s.core c).chSlot i = some v)
    (hback : v.back = n :: rest) :
    chainCredit s c i = setSlotOf s c i { v with credits := v.credits + 1, back := rest } := by
  unfold chainCredit
  rw [hv]
  dsimp only
  rw [hback]

/-- Settles O28: a block that arrives is put into the ring, a marker takes effect and goes on, and a credit is added. -/
theorem chainArrivals : Obligations.ChainArrivals := by
  refine ⟨?block, ?none, ?marker, ?credit⟩
  case block =>
    intro s c i v b m at_ fwd hv harrived hport hdata
    refine ⟨_, _, congrArg Host.Outcome.next (chainArrive_puts hv harrived hport), (ringPut_keeps ..).only,
      ringPut_chSlot_same .., rfl, rfl, rfl, ?_, fun k hk => ?_, fun a ha => ?_, ringWrite_check .., ?_,
      fun d hd => ringPut_core_other _ _ _ _ hd⟩
    · exact arrivalCounted_slots s c.val
    · have hlen : k < b.data.length := hdata ▸ hk
      rw [List.getD_eq_getElem _ _ hlen]
      exact (ringPut_read ..).trans (Memory.read_writeN_inside _ _ _ _ hlen)
    · exact (ringPut_read ..).trans (Memory.read_writeN_outside _ _ _ (hdata ▸ ha))
    · exact arrivalCounted_reg s c.val
  case none =>
    intro s c i v hv hnone
    exact ⟨congrArg Host.Outcome.next (chainArrive_none hv hnone), congrArg Host.Outcome.next (chainMarker_none hv hnone)⟩
  case marker =>
    intro s c i v w m at_ fwd hv harrived hw
    have htakes : exec (.chainMarkerArrive c i) s = _ := congrArg Host.Outcome.next (chainMarker_takes hv harrived hw)
    have hpast : v.past m.gen = w.past m.gen := by
      rw [hw]
      rfl
    rw [htakes, hpast]
    refine ⟨fun hgen hkind => ?_, fun hgen hkind => ?_, fun hgen => ?_⟩
    · rw [takeMark_commit _ _ _ hgen hkind]
      subst hw
      rfl
    · rw [takeMark_cancel _ _ _ hgen hkind]
      subst hw
      rfl
    · rw [takeMark_past _ _ _ hgen]
      subst hw
      rfl
  case credit =>
    intro s c i v n rest hv hback
    exact congrArg Host.Outcome.next (chainCredit_returns hv hback)

end Sys2Proof.Machine

/-! PROOFS. The limits of a chain: a member that stalls it too long, and one that waits too long (08_drove_chains.md R211 to R213,
R217, R222). -/

namespace Sys2Proof.Machine

section
variable {s : State} {c i : Nat} {v : ChSlot} {t0 : Nat} (hv : (s.core c).chSlot i = some v)
include hv

/-! ### CHAIN_DETACH (R211 to R213) -/

section
variable (hstall : v.stallAt = some t0)
include hstall

theorem chainDetach_early (h : s.now < t0 + v.desc.stallLimit) : chainDetach s c i = s := by
  unfold chainDetach
  rw [hv]
  dsimp only
  rw [hstall]
  split
  · cases ‹some t0 = some _›
    exact if_neg (Nat.not_le.mpr h)
  · rfl

theorem chainDetach_detaches {b : ChBlock} (h : t0 + v.desc.stallLimit ≤ s.now) (hb : stalledBlock s v = some b) :
    chainDetach s c i = detachMember s c i v b.gen b.seq := by
  unfold chainDetach
  rw [hv]
  dsimp only
  rw [hstall, hb]
  exact if_pos h

end

/-! ### DROVE_TIMEOUT (R217) -/

section
variable (hwait : v.waitAt = some t0)
include hwait

theorem droveTimeout_waits (h : v.desc.arrive = 0 ∨ s.now < t0 + v.desc.arrive) : droveTimeout s c i = s := by
  unfold droveTimeout
  rw [hv]
  dsimp only
  rw [hwait]
  split
  · cases ‹some t0 = some _›
    exact if_neg (by omega)
  · rfl

theorem droveTimeout_aborts {t : Nat} (htask : v.task = some t) (harrive : 0 < v.desc.arrive) (h : t0 + v.desc.arrive ≤ s.now) :
    droveTimeout s c i
      = taskFault ((setSlotOf s c i { v with waitAt := none }).pulse (slotDrove c) 2) (slotDrove c) t (some c) 0x0314 none
          (w32 i ||| fld v.gen 8) (w32 v.nextSeq) := by
  unfold droveTimeout
  rw [hv]
  dsimp only
  rw [hwait, htask]
  exact if_pos ⟨harrive, h⟩

end

end

/-! ### A detached member (R212, R213) -/

/-- A member's slot once the member is detached: it catches up while its allowance lasts (R213). -/
def ChSlot.detaching (v : ChSlot) (gen : Nat) : ChSlot :=
  { v with detached := true, stallAt := none, catching := if 0 < v.allow then some gen else none, allow := v.allow - 1 }

/-- The state once a member is detached, before a fault for want of an allowance. -/
def memberOff (s : State) (c i : Nat) (v : ChSlot) (gen seq : Nat) : State :=
  bypass (noteDetach (setSlotOf s c i (v.detaching gen)) c i gen seq v) (v.detaching gen) (predecessor s v)

section
variable (s : State) (c i : Nat) {v : ChSlot} (gen seq : Nat)

theorem detachMember_allowed (h : 0 < v.allow) : detachMember s c i v gen seq = memberOff s c i v gen seq :=
  if_pos h

theorem detachMember_spent {t : Nat} (h : v.allow = 0) (htask : slotTask s v = some t) :
    detachMember s c i v gen seq
      = taskFault (memberOff s c i v gen seq) (slotDrove c) t (some c) 0x0312 none (w32 i ||| fld gen 8) (w32 seq) := by
  unfold detachMember
  dsimp only
  rw [if_neg (by omega), htask]
  rfl

end

/-- Settles O29: a limit that has passed detaches the member or aborts its task, and before it nothing happens. -/
theorem chainLimits : Obligations.ChainLimits := by
  refine ⟨?stalls, ?detaches, ?timeout, ?waits⟩
  case stalls =>
    intro s c i v t0 hv hstall h
    exact congrArg Host.Outcome.next (chainDetach_early hv hstall h)
  case detaches =>
    intro s c i v v1 t0 b hv hstall h hb hv1 x hx
    subst hv1 hx
    have hdetach := chainDetach_detaches hv hstall h hb
    exact ⟨fun hallow => congrArg Host.Outcome.next (hdetach.trans (detachMember_allowed _ _ _ _ _ hallow)),
      fun t hallow htask => congrArg Host.Outcome.next (hdetach.trans (detachMember_spent _ _ _ _ _ hallow htask))⟩
  case timeout =>
    intro s c i v t0 t hv hwait htask harrive h
    exact congrArg Host.Outcome.next (droveTimeout_aborts hv hwait htask harrive h)
  case waits =>
    intro s c i v t0 hv hwait h
    exact congrArg Host.Outcome.next (droveTimeout_waits hv hwait h)

end Sys2Proof.Machine

/-! PROOFS. The end of a task and the abort of an instance: what they leave of programs, demand and tables
(09_drover_graphs.md R233, R245 to R247, R465). -/

namespace Sys2Proof.Machine

/-! ### Programs that only end -/

/-- Every program on a core in `t` stands there in `s`. -/
def NoNewProgs (s t : State) : Prop := ∀ c p, (t.core c).prog = some p → (s.core c).prog = some p

/-- No core runs a program of the task. -/
def Unrun (t : Nat) (s : State) : Prop := ∀ c p, (s.core c).prog = some p → p.task ≠ t

theorem NoNewProgs.refl (s : State) : NoNewProgs s s := fun _ _ => id

theorem NoNewProgs.trans {s t u : State} (h : NoNewProgs s t) (k : NoNewProgs t u) : NoNewProgs s u :=
  fun c p hp => h c p (k c p hp)

theorem NoNewProgs.of_only {ps : List Part} {s t : State} (h : Only ps s t) (hp : Part.cores ∉ ps) : NoNewProgs s t :=
  fun c p hc => by rwa [core_of_cores (h.cores_eq hp)] at hc

theorem NoNewProgs.foldl {α : Type} (f : State → α → State) (l : List α) (hf : ∀ u a, NoNewProgs u (f u a)) (s : State) :
    NoNewProgs s (l.foldl f s) :=
  List.foldlRecOn (motive := NoNewProgs s) l f (.refl s) (fun u hu a _ => hu.trans (hf u a))

theorem NoNewProgs.unrun {s t : State} (h : NoNewProgs s t) {n : Nat} (hs : Unrun n s) : Unrun n t :=
  fun c p hp => hs c p (h c p hp)

theorem mapCore_noNewProgs {s : State} {c : Nat} {f : Core → Core} (hf : ∀ k p, (f k).prog = some p → k.prog = some p) :
    NoNewProgs s (s.mapCore c f) := by
  intro d p hp
  by_cases hd : d = c
  · subst hd
    rw [State.core_mapCore_same] at hp
    exact hf _ _ hp
  · rwa [State.core_mapCore_other _ _ hd] at hp

/-- An update of every core that starts no program. -/
theorem mapCores_noNewProgs {s : State} {f : Core → Core} (hidle : f Core.idle = Core.idle)
    (hf : ∀ k p, (f k).prog = some p → k.prog = some p) :
    NoNewProgs s { s with cores := Tbl.mapV s.cores (fun _ k => f k) } := by
  intro c p hp
  rw [core_mapV s hidle] at hp
  exact hf _ _ hp

/-! ### The stop of a task on its units (R246) -/

theorem stopCore_prog {k : Core} {t : Nat} {p : Prog} (h : (stopCore k t).prog = some p) : k.prog = some p ∧ p.task ≠ t := by
  have hprog : (stopCore k t).prog = match k.prog with | some q => if q.task = t then none else some q | none => none := rfl
  rw [hprog] at h
  split at h
  next q hq =>
    split at h
    next => cases h
    next hne =>
      cases h
      exact ⟨hq, hne⟩
  next => cases h

theorem mapChan_noNewProgs (s : State) (c ch : Nat) (f : Chan → Chan) : NoNewProgs s (s.mapChan c ch f) :=
  mapCore_noNewProgs (fun _ _ => id)

theorem freeOutput_noNewProgs (s : State) (c ch start : Nat) : NoNewProgs s (freeOutput s c ch start) := by
  unfold freeOutput
  exact (mapChan_noNewProgs s c ch _).trans (.of_only (freeBytes_keeps ..).only (by decide))

theorem dropAttend_noNewProgs (s : State) (c t : Nat) : NoNewProgs s (dropAttend s c t) := by
  have hbusy : NoNewProgs s (dropBusy s c t) := .of_only (dropBusy_keeps ..).only (by decide)
  unfold dropAttend
  split
  next =>
    dsimp only
    split
    · exact hbusy.trans (freeOutput_noNewProgs _ _ _ _)
    · exact hbusy
  next => exact .refl s

/-- A task stops on one core. -/
abbrev stopOn (t : Nat) (s : State) (c : Nat) : State := (dropAttend s c t).mapCore c (fun k => stopCore k t)

theorem stopOn_noNewProgs (t : Nat) (s : State) (c : Nat) : NoNewProgs s (stopOn t s c) :=
  (dropAttend_noNewProgs s c t).trans (mapCore_noNewProgs (fun _ _ hp => (stopCore_prog hp).1))

theorem stopOn_unrun (t : Nat) (s : State) (c : Nat) {p : Prog} (hp : ((stopOn t s c).core c).prog = some p) : p.task ≠ t := by
  rw [State.core_mapCore_same] at hp
  exact (stopCore_prog hp).2

/-- Once a task has stopped on some cores, none of them runs a program of it. -/
theorem foldl_stopOn_unrun (t : Nat) (l : List Nat) (s : State) {c : Nat} (hc : c ∈ l) {p : Prog}
    (hp : ((l.foldl (stopOn t) s).core c).prog = some p) : p.task ≠ t := by
  induction l generalizing s with
  | nil => cases hc
  | cons d l ih =>
    rcases List.mem_cons.mp hc with hd | hl
    · subst hd
      exact stopOn_unrun t s c (NoNewProgs.foldl _ l (stopOn_noNewProgs t) _ c p hp)
    · exact ih _ hl hp

theorem Tbl.get_of_not_keys {α : Type} {t : Tbl α} {i : Nat} (h : i ∉ Tbl.keys t) : Tbl.get t i = none := by
  cases hget : Tbl.get t i with
  | none => rfl
  | some v => exact absurd (List.mem_map_of_mem (Tbl.mem_of_get hget)) h

theorem core_of_not_keys {s : State} {c : Nat} (h : c ∉ Tbl.keys s.cores) : s.core c = Core.idle := by
  unfold State.core Tbl.getD
  rw [Tbl.get_of_not_keys h]
  rfl

theorem stopTask_cores_only (s : State) (t : Nat) :
    Only [.mem, .herd, .paddock, .fabric, .free] ((Tbl.keys s.cores).foldl (stopOn t) s) (stopTask s t) :=
  (((stopUnits_keeps ..).mono (by decide)).trans ((stopFabric_keeps ..).mono (by decide))).only

theorem stopTask_noNewProgs (s : State) (t : Nat) : NoNewProgs s (stopTask s t) :=
  (NoNewProgs.foldl _ _ (stopOn_noNewProgs t) s).trans (.of_only (stopTask_cores_only s t) (by decide))

/-- A task that has stopped runs on no core. -/
theorem stopTask_unrun (s : State) (t : Nat) : Unrun t (stopTask s t) := by
  intro c p hp
  rw [core_of_cores ((stopTask_cores_only s t).cores_eq (by decide))] at hp
  by_cases hc : c ∈ Tbl.keys s.cores
  · exact foldl_stopOn_unrun t _ s hc hp
  · have hidle := NoNewProgs.foldl _ _ (stopOn_noNewProgs t) s c p hp
    rw [core_of_not_keys hc] at hidle
    cases hidle

theorem foldl_stopTask_unrun (l : List Nat) (s : State) {n : Nat} (hn : n ∈ l) : Unrun n (l.foldl stopTask s) := by
  induction l generalizing s with
  | nil => cases hn
  | cons t l ih =>
    rcases List.mem_cons.mp hn with ht | hl
    · subst ht
      exact (NoNewProgs.foldl _ l stopTask_noNewProgs _).unrun (stopTask_unrun s n)
    · exact ih _ hl

theorem dropChains_noNewProgs (s : State) (num : Nat) : NoNewProgs s (dropChains s num) :=
  mapCores_noNewProgs rfl (fun _ _ => id)

end Sys2Proof.Machine

/-! PROOFS. The registers of the DRVR page beside the counts of other pages (09_drover_graphs.md Table 9-11). -/

namespace Sys2Proof.Machine

/-- The registers of the DRVR page below its event counters are the same. -/
def SameDrvrRegs (s t : State) : Prop := ∀ off, off < 0xC00 → t.reg slotDrvr off = s.reg slotDrvr off

theorem SameDrvrRegs.refl (s : State) : SameDrvrRegs s s := fun _ _ => rfl

theorem SameDrvrRegs.trans {s t u : State} (h : SameDrvrRegs s t) (k : SameDrvrRegs t u) : SameDrvrRegs s u :=
  fun off hoff => (k off hoff).trans (h off hoff)

theorem SameDrvrRegs.of_only {ps : List Part} {s t : State} (h : Only ps s t) (hp : Part.regs ∉ ps) : SameDrvrRegs s t :=
  fun off _ => reg_of_regs (h.2 .regs hp) slotDrvr off

theorem SameDrvrRegs.foldl {α : Type} (f : State → α → State) (l : List α) (hf : ∀ u a, SameDrvrRegs u (f u a)) (s : State) :
    SameDrvrRegs s (l.foldl f s) :=
  List.foldlRecOn (motive := SameDrvrRegs s) l f (.refl s) (fun u hu a _ => hu.trans (hf u a))

theorem bump_sameDrvrRegs (s : State) {page o : Nat} (n : Nat) (hpage : page ≠ slotDrvr) (ho : o < 0x1000) :
    SameDrvrRegs s (s.bump page o n) := by
  intro off hoff
  refine bump_reg_other s n hoff ?_
  rw [Ne, regAt_inj (by omega) ho]
  exact fun h => hpage h.1.symm

theorem pulse_sameDrvrRegs (s : State) (page i : Nat) : SameDrvrRegs s (s.pulse page i) :=
  .of_only (State.pulse_keeps s page i).only (by decide)

theorem slotDrove_ne_slotDrvr (c : Nat) : slotDrove c ≠ slotDrvr := by
  unfold slotDrove slotDrvr
  omega

theorem slotQueue_ne_slotDrvr (q : Nat) : slotQueue q ≠ slotDrvr := by
  unfold slotQueue slotDrvr
  omega

theorem countNoRoute_sameDrvrRegs (s : State) : SameDrvrRegs s (countNoRoute s) :=
  (bump_sameDrvrRegs s 1 (by decide) (by decide)).trans (pulse_sameDrvrRegs _ _ _)

theorem enqueueOut_sameDrvrRegs (s : State) (q : Nat) (p : Packet) (v : Via) : SameDrvrRegs s (enqueueOut s q p v) :=
  .of_only (enqueueOut_keeps s q p v).only (by decide)

theorem enqueueLocal_sameDrvrRegs (s : State) (p : Packet) (v : Via) : SameDrvrRegs s (enqueueLocal s p v) :=
  .of_only (enqueueLocal_keeps s p v).only (by decide)

/-- The copy of a multicast packet for one port of its group's entry (R323). -/
def portCopy (e : Word) (p : Packet) (v : Via) (s : State) (q : Nat) : State :=
  if bit e (q + 2) then
    if !fwdOk v.inp q || !portUp s q then countNoRoute s
    else if p.ptype = tMcBlock ∧ pruned s p.group p.gen q then s
    else enqueueOut s q { p with vc := withBit p.ptype (channelBit s p.vc v.inp q) } v
  else s

theorem portCopy_sameDrvrRegs (e : Word) (p : Packet) (v : Via) (s : State) (q : Nat) :
    SameDrvrRegs s (portCopy e p v s q) := by
  unfold portCopy
  split_ifs
  · exact countNoRoute_sameDrvrRegs s
  · exact .refl s
  · exact enqueueOut_sameDrvrRegs s q _ v
  · exact .refl s

theorem routeMulticast_sameDrvrRegs (s : State) (p : Packet) (v : Via) : SameDrvrRegs s (routeMulticast s p v) := by
  have hports := SameDrvrRegs.foldl (portCopy (routeEntry s p.group) p v) (List.range 6) (portCopy_sameDrvrRegs _ p v) s
  unfold routeMulticast
  dsimp only
  split
  · exact countNoRoute_sameDrvrRegs s
  · split
    · exact hports.trans (enqueueLocal_sameDrvrRegs _ p v)
    · exact hports

theorem mcMarker_sameDrvrRegs (s : State) (v : ChSlot) (m : ChMark) : SameDrvrRegs s (mcMarker s v m) := by
  unfold mcMarker
  split
  · exact (SameDrvrRegs.of_only (nextStamp_keeps s).only (by decide)).trans (routeMulticast_sameDrvrRegs _ _ _)
  · exact .refl s

theorem leadCancel_sameDrvrRegs (s : State) (c i : Nat) (v : ChSlot) (last : Bool) :
    SameDrvrRegs s (leadCancel s c i v last) := by
  unfold leadCancel leadMark
  dsimp only
  exact ((SameDrvrRegs.of_only (setSlotOf_keeps s c i _).only (by decide)).trans
    (.of_only (forwardMark_keeps _ c _ _).only (by decide))).trans (mcMarker_sameDrvrRegs _ _ _)

theorem noteDetach_sameDrvrRegs (s : State) (c i gen seq : Nat) (v : ChSlot) :
    SameDrvrRegs s (noteDetach s c i gen seq v) := by
  unfold noteDetach
  dsimp only
  exact ((SameDrvrRegs.of_only (taskTrace_keeps s 4 0x0D _ _ _).only (by decide)).trans
    (bump_sameDrvrRegs _ 1 (slotDrove_ne_slotDrvr c) (by decide))).trans (pulse_sameDrvrRegs _ _ _)

theorem endChains_sameDrvrRegs (s : State) (num : Nat) : SameDrvrRegs s (endChains s num) := by
  unfold endChains
  refine .foldl _ _ (fun t c => .foldl _ _ (fun u p => ?_) t) s
  split_ifs
  · exact .refl u
  · exact leadCancel_sameDrvrRegs u c p.1 p.2 true
  · exact .refl u
  · exact noteDetach_sameDrvrRegs u c p.1 p.2.gen p.2.nextSeq p.2

theorem postRec_sameDrvrRegs (s : State) (q sess : Nat) (r : ORec) : SameDrvrRegs s (postRec s q sess r) := by
  unfold postRec
  dsimp only
  split_ifs
  · exact .of_only (State.setQueue_keeps s q _).only (by decide)
  · exact (bump_sameDrvrRegs s 1 (slotQueue_ne_slotDrvr q) (by decide)).trans (pulse_sameDrvrRegs _ _ _)
  · exact .refl s

end Sys2Proof.Machine

/-! PROOFS. TASK_COMPLETE and INSTANCE_ABORT (09_drover_graphs.md R233, R245 to R247, R465). -/

namespace Sys2Proof.Machine

/-! ### The abort of an instance (R246, R247) -/

theorem findInst_num {s : State} {num : Nat} {i : Inst} (h : findInst s num = some i) : i.num = num := by
  simpa using List.find?_some h

section
variable (s : State) (i : Inst) (fault : Nat)

/-- The state once the tasks of an instance have stopped on every unit. -/
abbrev tasksStopped : State :=
  i.slots.foldl stopTask (endChains ((i.slots.filter (fun t => !(runUnits s t).isEmpty)).foldl (fun u t =>
    taskTrace u 0 0x03 slotDrvr t [w32 fault]) s) i.num)

theorem traced_keeps (l : List Nat) (ws : List Word) :
    Keeps [.sharal] s (l.foldl (fun u t => taskTrace u 0 0x03 slotDrvr t ws) s) :=
  Keeps.foldl _ l (fun u t => taskTrace_keeps u 0 0x03 slotDrvr t ws) (.refl _ s)

theorem stoppedAll_keeps (l : List Nat) : Keeps [.mem, .cores, .herd, .paddock, .fabric, .free] s (l.foldl stopTask s) :=
  Keeps.foldl _ l stopTask_keeps (.refl _ s)

theorem tasksStopped_keeps : Keeps [.regs, .evts, .mem, .cores, .herd, .paddock, .fabric, .sharal, .free] s
    (tasksStopped s i fault) :=
  (stoppedAll_keeps ..).cut (by decide) <| (endChains_keeps ..).cut (by decide) <| (traced_keeps ..).mono (by decide)

theorem tasksStopped_sameDrvrRegs : SameDrvrRegs s (tasksStopped s i fault) :=
  ((SameDrvrRegs.of_only (traced_keeps s _ _).only (by decide)).trans (endChains_sameDrvrRegs _ _)).trans
    (.of_only (stoppedAll_keeps _ _).only (by decide))

/-- What the end of an instance leaves once its tasks have stopped: its chain slots, table entries and wakes go. -/
abbrev instGone : State := recommit (dropChains (dropInst (tasksStopped s i fault) i) i.num)

theorem stopInst_eq : stopInst s i fault = (instGone s i fault).mapDrover (fun d => { d with
    stops := d.stops ++ i.slots.flatMap (fun t => (runUnits s t).map (fun u => (⟨u, t, s.now + 1000⟩ : StopWait))) }) := rfl

theorem instGone_drover : (instGone s i fault).drover = (dropInst s i).drover := by
  have hstopped := (tasksStopped_keeps s i fault).only.2 .drover (by decide)
  rw [(recommit_keeps _).only.2 .drover (by decide), (dropChains_keeps _ _).only.2 .drover (by decide)]
  unfold dropInst
  rw [State.mapDrover_drover, State.mapDrover_drover, hstopped]

theorem stopInst_sameDrvrRegs : SameDrvrRegs s (stopInst s i fault) := by
  rw [stopInst_eq]
  refine (tasksStopped_sameDrvrRegs s i fault).trans (.of_only (ps := [.power, .cores, .drover]) ?_ (by decide))
  exact ((State.mapDrover_keeps _ _).cut (by decide) <| (recommit_keeps _).cut (by decide) <|
    (dropChains_keeps _ _).cut (by decide) <| (dropInst_keeps _ _).mono (by decide)).only

theorem stopInst_unrun {n : Nat} (hn : n ∈ i.slots) : Unrun n (stopInst s i fault) := by
  rw [stopInst_eq]
  have hstopped : Unrun n (tasksStopped s i fault) := foldl_stopTask_unrun i.slots _ hn
  refine NoNewProgs.unrun ?_ hstopped
  exact ((NoNewProgs.of_only (dropInst_keeps _ i).only (by decide)).trans (dropChains_noNewProgs _ i.num)).trans
    ((NoNewProgs.of_only (recommit_keeps _).only (by decide)).trans (.of_only (State.mapDrover_keeps _ _).only (by decide)))

end

theorem abortInst_found {s : State} {num fault : Nat} {task : Option Nat} {i : Inst} (h : findInst s num = some i) :
    abortInst s num fault task
      = postRec (((stopInst s i fault).bump slotDrvr 0x04C 1).pulse slotDrvr 3) i.queue i.sess (instRec i 0x03 fault task) := by
  unfold abortInst
  rw [h]

section
variable {s : State} {num fault : Nat} {task : Option Nat} {i : Inst} (h : findInst s num = some i)
include h

theorem abortInst_keeps_stopped : Keeps [.regs, .evts, .host] (stopInst s i fault) (abortInst s num fault task) := by
  rw [abortInst_found h]
  exact (postRec_keeps ..).cut (by decide) <| (State.pulse_keeps ..).cut (by decide) <| (State.bump_keeps ..).mono (by decide)

theorem abortInst_faults : (abortInst s num fault task).faults = s.faults :=
  ((abortInst_keeps_stopped h).only.faults_eq (by decide)).trans ((stopInst_keeps s i fault).only.faults_eq (by decide))

theorem abortInst_unrun {n : Nat} (hn : n ∈ i.slots) : Unrun n (abortInst s num fault task) :=
  (NoNewProgs.of_only (abortInst_keeps_stopped h).only (by decide)).unrun (stopInst_unrun s i fault hn)

theorem abortInst_counted : (abortInst s num fault task).reg slotDrvr 0x04C = s.reg slotDrvr 0x04C + 1 := by
  rw [abortInst_found h, postRec_sameDrvrRegs _ _ _ _ _ (by decide), pulse_sameDrvrRegs _ _ _ _ (by decide),
    bump_reg_same _ _ _ (by decide), stopInst_sameDrvrRegs s i fault _ (by decide)]
  rfl

/-- The Drover's tables after an abort are those without the instance, but for the stops that are awaited. -/
theorem abortInst_drover : ∃ ws, (abortInst s num fault task).drover = { (dropInst s i).drover with stops := ws } := by
  rw [(abortInst_keeps_stopped h).only.2 .drover (by decide), stopInst_eq, State.mapDrover_drover, instGone_drover]
  exact ⟨_, rfl⟩

end

theorem task_dropInst {s : State} {i : Inst} {n : Nat} (hn : n ∈ i.slots) : (dropInst s i).task n = none :=
  (Tbl.get_filter s.drover.tasks (fun k => !i.slots.contains k) n).trans (if_neg (by simp [hn]))

theorem instanceAbort_first {s : State} {a : AbortReq} {rest : List AbortReq} (h : s.drover.aborts = a :: rest) :
    instanceAbort s = abortInst (s.mapDrover (fun d => { d with aborts := rest })) a.inst a.fault a.task := by
  unfold instanceAbort
  rw [h]

theorem instanceAbort_none {s : State} (h : s.drover.aborts = []) : instanceAbort s = s := by
  unfold instanceAbort
  rw [h]

/-! ### The completion of a task (R233, R465) -/

/-- A core without the codebook claims and loads of a task (R80). -/
def Core.freeBooks (t : Nat) (k : Core) : Core :=
  { k with slots := Tbl.mapV k.slots (fun _ v => v.releaseOf t), loads := k.loads.filter (fun l => l.task != some t)
           load := k.load.map (fun l => l.dropTask t) }

section
variable (s : State) (t : Nat)

theorem leaveCores_prog {c : Nat} {p : Prog} (h : ((leaveCores s t).core c).prog = some p) :
    (s.core c).prog = some p ∧ p.task ≠ t := by
  unfold leaveCores at h
  rw [core_mapV s rfl] at h
  dsimp only at h
  split at h
  next q hq =>
    split at h
    next => cases h
    next hne =>
      cases h
      exact ⟨hq, hne⟩
  next => cases h

theorem leaveCores_unrun : Unrun t (leaveCores s t) := fun _ _ h => (leaveCores_prog s t h).2

theorem releaseBooks_noNewProgs : NoNewProgs s (releaseBooks s t) := by
  have hfreed : NoNewProgs s { s with cores := Tbl.mapV s.cores (fun _ k => k.freeBooks t) } :=
    mapCores_noNewProgs rfl (fun _ _ => id)
  unfold releaseBooks
  dsimp only
  split
  · exact hfreed.trans (.of_only (setTask_keeps _ _ _).only (by decide))
  · exact hfreed

theorem releaseChain_noNewProgs (i : Inst) (chain : Nat) : NoNewProgs s (releaseChain s i chain) := by
  unfold releaseChain
  dsimp only
  split
  · exact .refl s
  · exact mapCores_noNewProgs rfl (fun _ _ => id)

theorem endInst_noNewProgs (i : Inst) : NoNewProgs s (endInst s i) := by
  unfold endInst
  dsimp only
  exact ((NoNewProgs.of_only (dropInst_keeps s i).only (by decide)).trans (dropChains_noNewProgs _ i.num)).trans
    (.of_only ((postRec_keeps ..).cut (by decide) <| (State.bump_keeps ..).cut (by decide) <|
      (recommit_keeps _).mono (qs := [.regs, .evts, .host, .power]) (by decide)).only (by decide))

theorem endIfDone_noNewProgs (num : Nat) : NoNewProgs s (endIfDone s num) := by
  unfold endIfDone
  split
  · split
    · exact endInst_noNewProgs s _
    · exact .refl s
  · exact .refl s

end

/-! ### The demand that a completion leaves (R233) -/

section
variable {s : State} {t : Nat}

theorem releaseBooks_drover {k : Task} (hk : s.task t = some k) :
    (releaseBooks s t).drover = (setTask s t { k with books := [] }).drover := by
  unfold releaseBooks
  dsimp only
  split
  next v hv =>
    obtain rfl : k = v := Option.some.inj (hk.symm.trans hv)
    rfl
  next hnone => exact absurd (hk.symm.trans hnone) (by simp)

theorem instOfTask_of_drover {u : State} (h : u.drover = s.drover) : instOfTask u t = instOfTask s t := by
  unfold instOfTask State.task findInst
  rw [h]

theorem imageOfTask_of_drover {u : State} (h : u.drover = s.drover) : imageOfTask u t = imageOfTask s t := by
  unfold imageOfTask imageOf
  rw [instOfTask_of_drover h, h]

theorem taskD_of_drover {u : State} (h : u.drover = s.drover) : taskD u t = taskD s t := by
  unfold taskD State.task
  rw [imageOfTask_of_drover h, h]

theorem imageOfTask_of_taskD {d : TaskD} (h : taskD s t = some d) : ∃ m, imageOfTask s t = some m := by
  unfold taskD at h
  split at h
  next m _ hm => exact ⟨m, hm⟩
  next => cases h

/-- A task's instance, image and descriptor are those of its INST and IDX. -/
theorem setTask_names {k v : Task} (hk : s.task t = some k) (hinst : v.inst = k.inst) (hidx : v.idx = k.idx) :
    instOfTask (setTask s t v) t = instOfTask s t ∧ imageOfTask (setTask s t v) t = imageOfTask s t
      ∧ taskD (setTask s t v) t = taskD s t := by
  have hi : instOfTask (setTask s t v) t = instOfTask s t := by
    unfold instOfTask
    rw [State.task_setTask_same, hk]
    dsimp only
    rw [hinst]
    rfl
  have hm : imageOfTask (setTask s t v) t = imageOfTask s t := by
    unfold imageOfTask
    rw [hi]
    rfl
  refine ⟨hi, hm, ?_⟩
  unfold taskD
  rw [hm, State.task_setTask_same, hk]
  cases imageOfTask s t with
  | none => rfl
  | some m => exact congrArg (m.tasks[·]?) hidx

/-- The demand of a completed task leaves the ledgers. -/
theorem completeTask_demands {k : Task} {i : Inst} {m : Image} {d : TaskD} (hk : s.task t = some k)
    (hi : instOfTask s t = some i) (hm : imageOfTask s t = some m) (hd : taskD s t = some d) :
    (completeTask s t).drover.demands
      = s.drover.demands.filter (fun x => !(x.task == some t && x.inst == i.num)) := by
  unfold completeTask
  rw [hk, hi, hm, hd]
  refine List.foldlRecOn (motive := fun u : State => u.drover.demands = _) _ _ ?_ (fun u hu n _ => ?_)
  · rw [State.mapDrover_drover, setTask_drover, (taskTrace_keeps ..).only.2 .drover (by decide)]
  · rw [← hu]
    split
    · split <;> rfl
    · rfl

theorem completeTask_demands_subset (s : State) (t : Nat) : (completeTask s t).drover.demands ⊆ s.drover.demands := by
  by_cases h : ∃ k i m d, s.task t = some k ∧ instOfTask s t = some i ∧ imageOfTask s t = some m ∧ taskD s t = some d
  · obtain ⟨k, i, m, d, hk, hi, hm, hd⟩ := h
    rw [completeTask_demands hk hi hm hd]
    exact List.filter_sublist.subset
  · unfold completeTask
    split
    next k i m d hk hi hm hd => exact absurd ⟨k, i, m, d, hk, hi, hm, hd⟩ h
    next => exact List.Subset.refl _

theorem barriers_demands_subset (num n : Nat) (s : State) : (barriers num n s).drover.demands ⊆ s.drover.demands := by
  induction n generalizing s with
  | zero => exact List.Subset.refl _
  | succ n ih =>
    unfold barriers
    split
    · exact List.Subset.refl _
    · split
      · exact List.Subset.trans (ih _) (completeTask_demands_subset _ _)
      · exact List.Subset.refl _

theorem endInst_demands_subset (s : State) (i : Inst) : (endInst s i).drover.demands ⊆ s.drover.demands := by
  have hdrover : (endInst s i).drover = (dropInst s i).drover := by
    unfold endInst
    dsimp only
    rw [(postRec_keeps ..).only.2 .drover (by decide), (State.bump_keeps ..).only.2 .drover (by decide),
      (recommit_keeps _).only.2 .drover (by decide), (dropChains_keeps _ _).only.2 .drover (by decide)]
  rw [hdrover]
  exact List.filter_sublist.subset

theorem endIfDone_demands_subset (s : State) (num : Nat) : (endIfDone s num).drover.demands ⊆ s.drover.demands := by
  unfold endIfDone
  split
  · split
    · exact endInst_demands_subset s _
    · exact List.Subset.refl _
  · exact List.Subset.refl _

end

/-! ### The whole of a completion -/

section
variable {s : State} {t : Nat} {i : Inst}

/-- The state once a completed task has left its cores, its codebooks and the ledgers. -/
abbrev taskLeft (s : State) (t : Nat) : State := completeTask (releaseBooks (leaveCores s t) t) t

theorem finishTask_of (hi : instOfTask s t = some i) : finishTask s t
    = endIfDone (barriers i.num i.slots.length ((chainClaims s t).foldl (fun u ch => releaseChain u i ch) (taskLeft s t)))
        i.num := by
  unfold finishTask
  rw [hi]

theorem releaseChains_keeps (u : State) (l : List Nat) :
    Keeps [.cores] u (l.foldl (fun u ch => releaseChain u i ch) u) :=
  Keeps.foldl _ l (fun u ch => releaseChain_keeps u i ch) (.refl _ u)

theorem finishTask_only (hi : instOfTask s t = some i) :
    Only [.regs, .evts, .cores, .drover, .host, .power, .sharal] s (finishTask s t) := by
  rw [finishTask_of hi]
  exact ((endIfDone_keeps ..).cut (by decide) <| (barriers_keeps ..).cut (by decide) <|
    (releaseChains_keeps ..).cut (by decide) <| (completeTask_keeps ..).cut (by decide) <|
    (releaseBooks_keeps ..).cut (by decide) <| (leaveCores_keeps ..).mono (by decide)).only

theorem finishTask_unrun (hi : instOfTask s t = some i) : Unrun t (finishTask s t) := by
  have hleft : Unrun t (taskLeft s t) :=
    ((releaseBooks_noNewProgs _ t).trans (.of_only (completeTask_keeps _ t).only (by decide))).unrun (leaveCores_unrun s t)
  rw [finishTask_of hi]
  refine NoNewProgs.unrun ?_ hleft
  exact (NoNewProgs.foldl _ _ (fun u ch => releaseChain_noNewProgs u i ch) _).trans
    ((NoNewProgs.of_only (barriers_keeps ..).only (by decide)).trans (endIfDone_noNewProgs _ i.num))

theorem finishTask_demands {k : Task} {d : TaskD} (hk : s.task t = some k) (hi : instOfTask s t = some i)
    (hd : taskD s t = some d) : ∀ x ∈ (finishTask s t).drover.demands, ¬(x.task = some t ∧ x.inst = i.num) := by
  intro x hx
  have hleft : x ∈ (taskLeft s t).drover.demands := by
    rw [finishTask_of hi] at hx
    have hsub := barriers_demands_subset _ _ _ (endIfDone_demands_subset _ _ hx)
    rwa [(releaseChains_keeps _ _).only.2 .drover (by decide)] at hsub
  obtain ⟨m, hm⟩ := imageOfTask_of_taskD hd
  have hdrover := releaseBooks_drover (s := leaveCores s t) (t := t) hk
  obtain ⟨hi', hm', hd'⟩ := setTask_names (s := leaveCores s t) (v := { k with books := [] }) hk rfl rfl
  have hk' : (releaseBooks (leaveCores s t) t).task t = some { k with books := [] } := by
    unfold State.task
    rw [hdrover]
    exact State.task_setTask_same _ _ _
  rw [taskLeft, completeTask_demands hk' ((instOfTask_of_drover hdrover).trans (hi'.trans hi))
    ((imageOfTask_of_drover hdrover).trans (hm'.trans hm)) ((taskD_of_drover hdrover).trans (hd'.trans hd))] at hleft
  exact not_and_or.mpr (by simpa using (List.mem_filter.mp hleft).2)

end

section
variable {s : State} {t : Nat} {d : TaskD}

theorem taskComplete_finishes {k : Task} (hk : s.task t = some k) (hd : taskD s t = some d) (hst : k.st = .running)
    (hon : d.onCores = true) (hrun : aborting s t = false) (hdone : ∀ c ∈ d.cores, partDone s t c = true) :
    taskComplete s t = finishTask s t := by
  unfold taskComplete
  rw [hk, hd]
  exact if_pos (by simpa [hst, hon, hrun] using hdone)

theorem taskComplete_waits (hd : taskD s t = some d) {c : Nat} (hc : c ∈ d.cores) (hpart : partDone s t c = false) :
    taskComplete s t = s := by
  unfold taskComplete
  split
  next k d' hk hd' =>
    obtain rfl : d = d' := Option.some.inj (hd.symm.trans hd')
    have hall : d.cores.all (partDone s t) = false := List.all_eq_false.mpr ⟨c, hc, by simp [hpart]⟩
    exact if_neg (by simp [hall])
  next => rfl

end

/-- Settles O35: a completed task leaves its cores and the ledgers, and an abort stops the tasks of its instance and takes it
from the tables. -/
theorem completionAndAbort : Obligations.CompletionAndAbort := by
  refine ⟨?completes, ?waits, ?aborts, ?none⟩
  case completes =>
    intro s n k d i hk hd hi hst hon hrun hdone
    have honly := finishTask_only hi
    exact ⟨finishTask s n.val, congrArg Host.Outcome.next (taskComplete_finishes hk hd hst hon hrun hdone),
      honly.mem_eq (by decide), honly.faults_eq (by decide), finishTask_unrun hi, finishTask_demands hk hi hd⟩
  case waits =>
    exact fun s n d c hd hc hpart => congrArg Host.Outcome.next (taskComplete_waits hd hc hpart)
  case aborts =>
    intro s a rest i haborts hi
    have hi' : findInst (s.mapDrover (fun d => { d with aborts := rest })) a.inst = some i := hi
    have hnum : i.num = a.inst := findInst_num hi
    obtain ⟨ws, hdrover⟩ := abortInst_drover (fault := a.fault) (task := a.task) hi'
    refine ⟨_, congrArg Host.Outcome.next (instanceAbort_first haborts), ?insts, ?demands, fun n hn => ?tasks,
      fun c p hp hn => abortInst_unrun hi' hn c p hp rfl, ?behind, abortInst_counted hi', abortInst_faults hi'⟩
    case insts =>
      rw [hdrover, ← hnum]
      simp [dropInst]
    case demands =>
      rw [hdrover, ← hnum]
      simp [dropInst]
    case tasks =>
      unfold State.task
      rw [hdrover]
      exact task_dropInst hn
    case behind =>
      rw [hdrover, ← hnum]
      rfl
  case none => exact fun s h => congrArg Host.Outcome.next (instanceAbort_none h)

end Sys2Proof.Machine

/-! PROOFS. SUBMIT: the decision and the checks of Table 9-8 (09_drover_graphs.md R229, R234 to R236). -/

namespace Sys2Proof.Machine

/-! ### The Drover's first command -/

section
variable {s : State} {c : Cmd} {rest : List Cmd} {op : Nat}

theorem frontCmd_first (hcmds : s.drover.cmds = c :: rest) (hop : c.op = op) : frontCmd s [op] = some c := by
  unfold frontCmd
  rw [hcmds]
  exact if_pos (by simp [hop])

theorem frontCmd_some (h : frontCmd s [op] = some c) : ∃ rest, s.drover.cmds = c :: rest ∧ c.op = op := by
  unfold frontCmd at h
  split at h
  next c' rest hcmds =>
    split at h
    next hop =>
      obtain rfl : c' = c := Option.some.inj h
      exact ⟨rest, hcmds, by simpa using hop⟩
    next => cases h
  next => cases h

theorem popCmd_first (hcmds : s.drover.cmds = c :: rest) : popCmd s = s.mapDrover (fun d => { d with cmds := rest }) := by
  unfold popCmd State.mapDrover
  dsimp only
  rw [hcmds]
  rfl

/-! ### The state in which a submission is decided (R229, R233) -/

/-- The command is taken off, the fc of the decision noted, and the ledgers are those of the current slot. -/
abbrev deciding (s : State) (rest : List Cmd) : State :=
  countEvent (rollLedger (s.mapDrover (fun d => { d with cmds := rest, lastDec := some s.now }))) slotDrvr 1 1

theorem submit_decides (hcmds : s.drover.cmds = c :: rest) (hop : c.op = 1) (hready : submitReady s = true) :
    submit s = decideSubmit (deciding s rest) c := by
  unfold submit
  rw [frontCmd_first hcmds hop]
  dsimp only
  rw [if_pos hready, popCmd_first hcmds]
  rfl

theorem submit_waits (hcmds : s.drover.cmds = c :: rest) (hop : c.op = 1) (hready : submitReady s = false) : submit s = s := by
  unfold submit
  rw [frontCmd_first hcmds hop]
  exact if_neg (by simp [hready])

end

theorem rollLedger_early {s : State} (h : s.ac < s.drover.slotBase + 5000) : rollLedger s = s := if_pos h

theorem rollLedger_due {s : State} (h : s.drover.slotBase + 5000 ≤ s.ac) : rollLedger s = s.mapDrover (fun d => { d with
    slotBase := s.ac - s.ac % 5000, demands := d.demands.filter (fun x => decide (s.ac - s.ac % 5000 ≤ x.dline)),
    reserve := [], resAborts := [] }) :=
  if_neg (Nat.not_lt.mpr h)

theorem rollLedger_instCtr (s : State) : (rollLedger s).drover.instCtr = s.drover.instCtr := by
  unfold rollLedger
  split <;> rfl

section
variable (s : State) (rest : List Cmd)

theorem deciding_only : Only [.regs, .drover] s (deciding s rest) :=
  ((countEvent_keeps ..).cut (by decide) <| (rollLedger_keeps _).cut (by decide) <|
    (State.mapDrover_keeps ..).mono (by decide)).only

theorem deciding_instCtr : (deciding s rest).drover.instCtr = s.drover.instCtr := by
  rw [(countEvent_keeps ..).only.2 .drover (by decide), rollLedger_instCtr]
  rfl

theorem deciding_roles : (deciding s rest).roles = s.roles := (deciding_only s rest).2 .roles (by decide)

theorem deciding_power : (deciding s rest).power = s.power := (deciding_only s rest).2 .power (by decide)

end

/-! ### The decision -/

/-- The task slots, and the demand, that a submission would take. -/
abbrev takenSlots (s : State) (i : Image) : List Nat := (freeTaskSlots s).take i.tasks.length

abbrev takenDemand (s : State) (c : Cmd) (i : Image) : List Demand :=
  newDemands s i s.drover.instCtr (c.bell + c.w2.toNat) (takenSlots s i)

/-- The submission of an image passes every check of Table 9-8. -/
structure Passes (s : State) (c : Cmd) (i : Image) : Prop where
  common : commonReason s c = none
  roles : s.roles = []
  run : s.hurdled .compute = false
  image : imageOf s (sessTenant s c.sess) c.image = some i
  resident : i.st = .resident
  ctx : ctxOk s (sessTenant s c.sess) c.ctx = true
  place : placeReason s i = none
  load : loadReason s i (c.bell + c.w2.toNat) (takenSlots s i) (takenDemand s c i) = none

section
variable {s : State} {c : Cmd}

theorem decideSubmit_roleChange (hcommon : commonReason s c = none) (h : s.roles ≠ []) :
    decideSubmit s c = turnDown s c 0x02 := by
  unfold decideSubmit
  rw [hcommon]
  exact if_pos h

theorem decideSubmit_hurdled (hcommon : commonReason s c = none) (hroles : s.roles = []) (h : s.hurdled .compute = true) :
    decideSubmit s c = turnDown s c 0x03 := by
  unfold decideSubmit
  rw [hcommon]
  dsimp only
  rw [if_neg (by simp [hroles]), if_pos h]

theorem decideSubmit_passes {i : Image} (h : Passes s c i) :
    decideSubmit s c = accept s c i (c.bell + c.w2.toNat) (takenSlots s i) (takenDemand s c i) := by
  unfold decideSubmit
  rw [h.common]
  dsimp only
  rw [if_neg (by simp [h.roles]), if_neg (by simp [h.run]), h.image]
  dsimp only
  rw [if_neg (by simp [h.resident]), if_neg (by simp [h.ctx]), h.place]
  dsimp only
  rw [h.load]

/-- A decision refuses, or the submission passes every check. -/
theorem decideSubmit_cases (s : State) (c : Cmd) : (∃ r, decideSubmit s c = turnDown s c r) ∨ ∃ i, Passes s c i := by
  unfold decideSubmit
  dsimp only
  split
  next r _ => exact .inl ⟨r, rfl⟩
  next hcommon =>
    split
    next => exact .inl ⟨_, rfl⟩
    next hroles =>
      split
      next => exact .inl ⟨_, rfl⟩
      next hrun =>
        split
        next => exact .inl ⟨_, rfl⟩
        next i himage =>
          split
          next => exact .inl ⟨_, rfl⟩
          next hresident =>
            split
            next => exact .inl ⟨_, rfl⟩
            next hctx =>
              split
              next r _ => exact .inl ⟨r, rfl⟩
              next hplace =>
                split
                next r _ => exact .inl ⟨r, rfl⟩
                next hload =>
                  exact .inr ⟨i, hcommon, not_not.mp hroles, Bool.eq_false_of_not_eq_true hrun, himage,
                    by simpa using hresident, by simpa using hctx, hplace, hload⟩

end

/-! ### What the checks of the place decide (01_device_overview.md R29; 14_power_clocks.md R393, R395) -/

theorem placeReason_none {s : State} {i : Image} (h : placeReason s i = none) : roleOk s i = true
    ∧ ∀ f ∈ touchedFolds i, f ∉ s.power.caution ∧ s.power.halt = false ∧ foldOff s f = false := by
  unfold placeReason at h
  split at h
  next => cases h
  next hrole =>
    split at h
    next => cases h
    next hcaution =>
      split at h
      next => cases h
      next hoff =>
        refine ⟨by simpa using hrole, fun f hf => ⟨fun hc => hcaution ?_, ?_⟩⟩
        · exact List.any_eq_true.mpr ⟨f, hf, by simpa using hc⟩
        · have hne : (touchedFolds i).isEmpty = false := by
            cases hfolds : touchedFolds i with
            | nil => simp [hfolds] at hf
            | cons => rfl
          rw [hne] at hoff
          simp only [Bool.not_false, Bool.true_and, Bool.or_eq_true, not_or, Bool.not_eq_true, List.any_eq_false] at hoff
          exact ⟨hoff.1, hoff.2 f hf⟩

/-! ### What the checks of the load decide (R234; 03_numbers_codebooks.md R84; 16_faults_recovery.md R420) -/

/-- What the checks from DEADLINE_SHORT on leave of the figures of an instance. -/
structure LoadFits (s : State) (i : Image) (dl : Nat) (slots : List Nat) (new : List Demand) : Prop where
  ahead : ∀ k ∈ i.tasks, (s.ac : Int) < derived dl k.tail
  slots : i.tasks.length ≤ slots.length
  pinned : notPinned s i = false
  clear : hurdleFull s i = false
  demand : demandOk s new = true

theorem loadReason_none {s : State} {i : Image} {dl : Nat} {slots : List Nat} {new : List Demand}
    (h : loadReason s i dl slots new = none) : LoadFits s i dl slots new := by
  unfold loadReason at h
  split_ifs at h with hshort hfar hslots hpinned hchain hport hdemand
  simp only [Bool.or_eq_true, not_or, Bool.not_eq_true, Bool.not_eq_false'] at hshort hdemand
  refine ⟨fun k hk => ?_, Nat.not_lt.mp hslots, by simpa using hpinned, hdemand.1, hdemand.2⟩
  have hall := List.any_eq_false.mp hshort.2 k hk
  simpa using hall

/-- R234 for each column on which an instance places demand, from the first slot on in which it does. -/
theorem demandOk_window {s : State} {new : List Demand} (h : demandOk s new = true) {x k : Nat} (hx : x ∈ new.map (·.col))
    (hk : k < 64) (hlow : ((new.filter (fun d => d.col == x)).map (fun d => slotOf s d.dline)).min?.getD 0 ≤ k) :
    windowOk s (s.drover.demands ++ new) x k = true := by
  unfold demandOk at h
  have hcol := List.all_eq_true.mp h x (List.mem_eraseDups.mpr hx)
  have hslot := List.all_eq_true.mp hcol k (List.mem_range.mpr hk)
  rw [Bool.or_eq_true, decide_eq_true_iff] at hslot
  exact hslot.resolve_left (Nat.not_lt.mpr hlow)

theorem windowOk_first {s : State} {ds : List Demand} {x k e : Nat} (h : windowOk s ds x k = true)
    (he : firstIn s.drover.slotBase ds x k = some e) :
    (10 * (demSum s.drover.slotBase ds x k + blocking s x e) : Int) ≤ 360 * ((e : Int) - s.ac) := by
  unfold windowOk at h
  rw [he] at h
  exact of_decide_eq_true h

/-! ### A decision that uses up a number -/

theorem turnDown_instCtr (s : State) (c : Cmd) (r : Nat) : (turnDown s c r).drover.instCtr = s.drover.instCtr := by
  rw [(turnDown_keeps s c r).only.2 .drover (by decide)]

/-- Only a submission that passes every check uses up an instance number. -/
theorem passes_of_instCtr {s : State} (h : (submit s).drover.instCtr ≠ s.drover.instCtr) :
    ∃ c rest i, s.drover.cmds = c :: rest ∧ c.op = 1 ∧ submitReady s = true ∧ Passes (deciding s rest) c i := by
  cases hfront : frontCmd s [1] with
  | none =>
    unfold submit at h
    rw [hfront] at h
    exact absurd rfl h
  | some c =>
    obtain ⟨rest, hcmds, hop⟩ := frontCmd_some hfront
    cases hready : submitReady s with
    | false => exact absurd (congrArg (·.drover.instCtr) (submit_waits hcmds hop hready)) h
    | true =>
      rw [submit_decides hcmds hop hready] at h
      rcases decideSubmit_cases (deciding s rest) c with ⟨r, hr⟩ | ⟨i, hi⟩
      · rw [hr, turnDown_instCtr, deciding_instCtr] at h
        exact absurd rfl h
      · exact ⟨c, rest, i, hcmds, hop, rfl, hi⟩

/-- Settles O32: a number is used up by a submission that passes every check, and each check says what the statement asks of it. -/
theorem admittedInstancesPassTheChecks : Obligations.AdmittedInstancesPassTheChecks := by
  intro s t hexec hctr
  obtain rfl : submit s = t := Host.Outcome.next.inj hexec
  obtain ⟨c, rest, i, hcmds, hop, hready, hpass⟩ := passes_of_instCtr hctr
  obtain ⟨hrole, hfolds⟩ := placeReason_none hpass.place
  have hfits := loadReason_none hpass.load
  rw [deciding_power] at hfolds
  refine ⟨c, rest, _, i, _, hcmds, hop, hready, rfl, hpass.image, hpass.resident, hpass.ctx,
    (deciding_roles s rest).symm.trans hpass.roles, hpass.run, hrole, hfolds, hfits.ahead, ?slots, hfits.pinned, hfits.clear,
    rfl, ?demand⟩
  case slots => exact hfits.slots.trans (List.length_take_le' ..)
  case demand =>
    intro x hx k hk hlow e he
    exact windowOk_first (demandOk_window hfits.demand hx hk hlow) he

end Sys2Proof.Machine

/-! PROOFS. SUBMIT, LEDGER_SLOT_ADVANCE and LEDGER_SNAP (09_drover_graphs.md R229, R233, R235, R236, R249). -/

namespace Sys2Proof.Machine

/-! ### LEDGER_SEL.SNAP (R249) -/

/-- A strobe in bit 31 leaves the bits of a mask without it as they are. -/
theorem and_mask_strobe (v : Word) {m : Word} (h : m &&& 0x80000000 = 0) : (v ||| 0x80000000) &&& m = v &&& m := by
  calc (v ||| 0x80000000) &&& m
      = m &&& v ||| m &&& 0x80000000 := by rw [BitVec.and_comm, BitVec.and_or_distrib_left]
    _ = m &&& v ||| 0 := by rw [h]
    _ = m &&& v := BitVec.or_zero
    _ = v &&& m := BitVec.and_comm ..

/-- A mask that holds a whole field keeps its value. -/
theorem bits_and_mask (v : Word) {m : Word} {hi lo : Nat} (h : m.extractLsb' lo (hi + 1 - lo) = BitVec.allOnes (hi + 1 - lo)) :
    bits (v &&& m) hi lo = bits v hi lo := by
  have hbits : ∀ w : Word, bits w hi lo = (w.extractLsb' lo (hi + 1 - lo)).toNat := fun w => (BitVec.extractLsb'_toNat ..).symm
  rw [hbits, hbits, BitVec.extractLsb'_and, h, BitVec.and_allOnes]

/-- The write that reaches LEDGER_SEL with SNAP stores the selection, of which the snapshot is then taken. -/
theorem exec_ledgerSnap {s : State} {f : FuncId} (h : Reaches s f (regAt slotDrvr 0x080)) (v : Word) :
    exec (.ledgerSnap f v) s = .next (ledgerSnap (s.fromHost.setReg slotDrvr 0x080 (v &&& 0x001F0F3F))) := by
  have hwrite : drvrWrite s.fromHost 0x080 (v ||| 0x80000000)
      = ledgerSnap (s.fromHost.setReg slotDrvr 0x080 ((v ||| 0x80000000) &&& 0x001F0F3F)) := by
    unfold drvrWrite
    rw [if_pos rfl]
    exact if_pos (bit_apply v)
  show Host.Outcome.next (barWrite s f (regAt slotDrvr 0x080) (v ||| 0x80000000)) = _
  rw [barWrite_reaches h, ← and_mask_strobe v (m := 0x001F0F3F) (by decide), ← hwrite]
  rfl

section
variable {s : State} {v : Word}

/-- A snapshot keeps the ledgers, and with a fold's ledger selected it shows the demand and the reserve of the entry. -/
theorem ledgerSnap_fold (hv : (rollLedger s).reg slotDrvr 0x080 = v) (hledger : bits v 20 16 < 16) :
    (ledgerSnap s).drover.snapDem = w32 (ledgerDem (rollLedger s) (16 * bits v 20 16 + bits v 11 8) (bits v 5 0))
    ∧ (ledgerSnap s).drover.snapRes
        = (if bits v 5 0 = 0 then w32 (Tbl.getD (rollLedger s).drover.reserve (bits v 20 16) 0) else 0)
    ∧ (ledgerSnap s).drover.demands = (rollLedger s).drover.demands := by
  subst hv
  unfold ledgerSnap
  dsimp only [State.mapDrover_drover]
  rw [if_pos hledger, if_pos hledger]
  exact ⟨rfl, rfl, rfl⟩

theorem ledgerSnap_only (s : State) : Only [.drover] (rollLedger s) (ledgerSnap s) := (State.mapDrover_keeps _ _).only

end

/-- Settles O31: a submission is decided as `decideSubmit` says, the ledgers roll at a slot's end, and a snapshot is one of the
ledgers rolled. -/
theorem submissionsAreDecided : Obligations.SubmissionsAreDecided := by
  refine ⟨?waits, ?decides, ?early, ?due, ?snap⟩
  case waits =>
    exact fun s c rest hcmds hop hready => congrArg Host.Outcome.next (submit_waits hcmds hop hready)
  case decides =>
    intro s u c rest hcmds hop hready hu hcommon
    subst hu
    have hdecides := submit_decides hcmds hop hready
    refine ⟨fun hroles => ?roles, fun hroles hrun => ?hurdled,
      fun i slots new hroles hrun himage hresident hctx hplace hslots hnew hload => ?passes⟩
    case roles => exact congrArg Host.Outcome.next (hdecides.trans (decideSubmit_roleChange hcommon hroles))
    case hurdled => exact congrArg Host.Outcome.next (hdecides.trans (decideSubmit_hurdled hcommon hroles hrun))
    case passes =>
      subst hslots hnew
      exact congrArg Host.Outcome.next (hdecides.trans
        (decideSubmit_passes ⟨hcommon, hroles, hrun, himage, hresident, hctx, hplace, hload⟩))
  case early => exact fun s h => congrArg Host.Outcome.next (rollLedger_early h)
  case due => exact fun s h => congrArg Host.Outcome.next (rollLedger_due h)
  case snap =>
    intro s r f v h hledger hr
    have hv : r.reg slotDrvr 0x080 = v &&& 0x001F0F3F := by
      rw [hr, reg_of_regs ((rollLedger_keeps _).only.2 .regs (by decide)), State.reg_setReg_same]
    subst hr
    have hfold : bits (v &&& 0x001F0F3F) 20 16 = bits v 20 16 := bits_and_mask v (by decide)
    have hcolumn : bits (v &&& 0x001F0F3F) 11 8 = bits v 11 8 := bits_and_mask v (by decide)
    have hslot : bits (v &&& 0x001F0F3F) 5 0 = bits v 5 0 := bits_and_mask v (by decide)
    have hsnap := ledgerSnap_fold hv (by rwa [hfold])
    rw [hfold, hcolumn, hslot] at hsnap
    exact ⟨_, exec_ledgerSnap h v, ledgerSnap_only _, hsnap⟩

end Sys2Proof.Machine

/-! PROOFS. RESIDE, RETIRE and templates (09_drover_graphs.md R223 to R225, R227, R230). -/

namespace Sys2Proof.Machine

/-- The state once the Drover's first command is taken off. -/
abbrev poppedTo (s : State) (rest : List Cmd) : State := s.mapDrover (fun d => { d with cmds := rest })

/-! ### The checks of RESIDE (R227) -/

theorem inr_of_check {α β : Type} {p : Prop} [Decidable p] {r : α} {x : α ⊕ β} {i : β}
    (h : (if p then .inl r else x) = .inr i) : x = .inr i := by
  split at h
  · cases h
  · exact h

/-- An image that passes the tests of Table 9-7 (up to check 11) is the one that the command's words give, loading. -/
theorem resideReason_loading {s : State} {c : Cmd} {i : Image} (h : resideReason s c = .inr i) : i.st = .loading := by
  unfold resideReason at h
  dsimp only at h
  iterate 13 replace h := inr_of_check h
  exact (Sum.inr.inj h) ▸ rfl

/-! ### The copy in task memory (R224; log entry 24) -/

theorem Memory.readN_length (m : Memory) (a n : Nat) : (m.readN a n).length = n := by
  induction n generalizing a with
  | zero => rfl
  | succ n ih => rw [Memory.readN, List.length_cons, ih]

theorem Memory.readN_getElem (m : Memory) (a n k : Nat) (h : k < (m.readN a n).length) : (m.readN a n)[k] = m.read (a + k) := by
  induction n generalizing a k with
  | zero => exact absurd h (Nat.not_lt_zero k)
  | succ n ih =>
    cases k with
    | zero => rfl
    | succ k => exact (ih (a + 1) k (Nat.lt_of_succ_lt_succ h)).trans (congrArg m.read (by omega))

theorem copyIn_read_inside (s : State) (src size : Nat) {k : Nat} (h : k < size) :
    (copyIn s src size).mem.read (taskMemBase + copiesLen s.drover.images + k) = s.mem.read (src + k) := by
  have hk : k < (s.mem.readN src size).length := by rwa [Memory.readN_length]
  exact (Memory.read_put_inside s.mem _ _ k hk).trans (Memory.readN_getElem ..)

theorem copyIn_read_outside (s : State) (src size : Nat) {a : Nat}
    (h : a < taskMemBase + copiesLen s.drover.images ∨ taskMemBase + copiesLen s.drover.images + size ≤ a) :
    (copyIn s src size).mem.read a = s.mem.read a :=
  Memory.read_put_outside s.mem _ _ (by rwa [Memory.readN_length])

/-! ### The pins of an image (03_numbers_codebooks.md R82) -/

theorem pinCore_core_other (s : State) (i : Image) {c x : Nat} (h : x ≠ c) : (pinCore s i c).core x = s.core x := by
  unfold pinCore
  dsimp only
  split
  · rfl
  · exact State.core_setCore_other _ _ h

theorem pinned_core_other (s : State) (i : Image) (l : List Nat) {x : Nat} (h : x ∉ l) :
    (l.foldl (fun u c => pinCore u i c) s).core x = s.core x :=
  List.foldlRecOn (motive := fun u : State => u.core x = s.core x) l _ rfl
    (fun u hu _ hc => (pinCore_core_other u i (ne_of_mem_of_not_mem hc h).symm).trans hu)

theorem pinned_keeps (s : State) (i : Image) (l : List Nat) : Keeps [.cores] s (l.foldl (fun u c => pinCore u i c) s) :=
  Keeps.foldl _ l (fun u c => pinCore_keeps u i c) (.refl _ s)

/-! ### RESIDE -/

/-- An image that passes has its copy and its pins, and joins the images. -/
abbrev resided (s : State) (c : Cmd) (rest : List Cmd) (i : Image) : State :=
  (pinCores i).foldl (fun u x => pinCore u i x)
    ((copyIn (poppedTo s rest) c.w2.toNat i.size).mapDrover (fun d => { d with images := d.images ++ [i] }))

section
variable {s : State} {c : Cmd} {rest : List Cmd} (hcmds : s.drover.cmds = c :: rest) (hop : c.op = 2)
include hcmds hop

theorem reside_common {r : Nat} (h : commonReason s c = some r) : reside s = refuse (poppedTo s rest) c r := by
  unfold reside
  rw [frontCmd_first hcmds hop]
  dsimp only
  rw [h, popCmd_first hcmds]

variable (hcommon : commonReason s c = none)
include hcommon

theorem reside_refused {r : Nat} (h : resideReason s c = .inl r) : reside s = refuse (poppedTo s rest) c r := by
  unfold reside
  rw [frontCmd_first hcmds hop]
  dsimp only
  rw [hcommon]
  dsimp only
  rw [h, popCmd_first hcmds]

theorem reside_copies {i : Image} (h : resideReason s c = .inr i) : reside s = resided s c rest i := by
  unfold reside
  rw [frontCmd_first hcmds hop]
  dsimp only
  rw [hcommon]
  dsimp only
  rw [h, popCmd_first hcmds]

end

section
variable (s : State) (c : Cmd) (rest : List Cmd) (i : Image)

theorem resided_only : Only [.mem, .cores, .drover] s (resided s c rest i) :=
  ((pinned_keeps ..).cut (by decide) <| (State.mapDrover_keeps ..).cut (by decide) <| (copyIn_keeps ..).cut (by decide) <|
    (State.mapDrover_keeps ..).mono (by decide)).only

theorem resided_drover : (resided s c rest i).drover = { s.drover with cmds := rest, images := s.drover.images ++ [i] } := by
  rw [(pinned_keeps ..).only.2 .drover (by decide), State.mapDrover_drover, (copyIn_keeps ..).only.2 .drover (by decide)]
  rfl

theorem resided_mem : (resided s c rest i).mem = (copyIn (poppedTo s rest) c.w2.toNat i.size).mem :=
  (pinned_keeps ..).only.mem_eq (by decide)

theorem resided_core_other {x : Nat} (h : x ∉ pinCores i) : (resided s c rest i).core x = s.core x :=
  pinned_core_other _ i _ h

end

/-! ### IMAGE_RESIDENT, RETIRE and IMAGE_RETIRED (R224, R225) -/

section
variable {s : State} {tenant index : Nat} {i : Image} (hi : imageOf s tenant index = some i)
include hi

theorem imageResident_loaded (hst : i.st = .loading) (hpins : pinsLoaded s i = true) : imageResident s tenant index
    = imageAnswered (postRec (setImage s { i with st := .resident }) i.queue i.sess (imageRec i 5)) i := by
  unfold imageResident
  rw [hi]
  exact if_pos ⟨hst, hpins⟩

theorem imageResident_waits (h : i.st ≠ .loading ∨ pinsLoaded s i = false) : imageResident s tenant index = s := by
  unfold imageResident
  rw [hi]
  refine if_neg (fun hready => ?_)
  rcases h with hst | hpins
  · exact hst hready.1
  · exact absurd hready.2 (by simp [hpins])

theorem imageRetired_unused (hst : i.st = .retiring)
    (hinsts : ∀ x ∈ s.drover.insts, ¬(x.tenant = tenant ∧ x.image = index)) : imageRetired s tenant index
    = imageAnswered (postRec ((copyOut (removePins s i.key) i.key).mapDrover (fun d =>
        { d with images := d.images.filter (fun j => j.key != i.key) })) i.queue i.sess (imageRec i 6)) i := by
  have hany : s.drover.insts.any (fun x => x.tenant == tenant && x.image == index) = false :=
    List.any_eq_false.mpr (fun x hx => by simpa using hinsts x hx)
  unfold imageRetired
  rw [hi]
  exact if_pos ⟨hst, by simp [hany]⟩

theorem imageRetired_waits (h : i.st ≠ .retiring ∨ ∃ x ∈ s.drover.insts, x.tenant = tenant ∧ x.image = index) :
    imageRetired s tenant index = s := by
  unfold imageRetired
  rw [hi]
  refine if_neg (fun hready => ?_)
  rcases h with hst | ⟨x, hx, hnames⟩
  · exact hst hready.1
  · have hany : s.drover.insts.any (fun x => x.tenant == tenant && x.image == index) = true :=
      List.any_eq_true.mpr ⟨x, hx, by simpa using hnames⟩
    exact absurd hready.2 (by simp [hany])

end

section
variable {s : State} {c : Cmd} {rest : List Cmd} (hcmds : s.drover.cmds = c :: rest) (hop : c.op = 3)
  (hcommon : commonReason s c = none)
include hcmds hop hcommon

theorem retire_resident {i : Image} (hi : imageOf s (sessTenant s c.sess) c.image = some i) (hst : i.st = .resident) :
    retire s = setImage (poppedTo s rest)
      { i with st := .retiring, queue := c.queue, sess := c.sess, cookie := c.cookie } := by
  unfold retire
  rw [frontCmd_first hcmds hop]
  dsimp only
  rw [hcommon]
  dsimp only
  rw [hi, popCmd_first hcmds]
  exact if_pos hst

theorem retire_refused (h : ∀ i, imageOf s (sessTenant s c.sess) c.image = some i → i.st ≠ .resident) :
    retire s = refuse (poppedTo s rest) c 0x04 := by
  unfold retire
  rw [frontCmd_first hcmds hop]
  dsimp only
  rw [hcommon, popCmd_first hcmds]
  dsimp only
  split
  next i hi => exact if_neg (h i hi)
  next => rfl

end

/-! ### Templates (R230) -/

theorem templateReason_foreign {s : State} {c : Cmd} (hcommon : commonReason s c = none) (h : templateForeign s c = true) :
    templateReason s c = some 0x10 := by
  unfold templateReason
  rw [hcommon]
  exact if_pos h

section
variable {s : State} {c : Cmd} {rest : List Cmd} {enable : Bool} (hcmds : s.drover.cmds = c :: rest) (hop : c.op = 4)
  (henable : bit c.w3 0 = enable)
include hcmds hop henable

theorem template_refused {r : Nat} (h : templateReason s c = some r) :
    template s enable = refuse (poppedTo s rest) c r := by
  unfold template
  rw [frontCmd_first hcmds hop]
  dsimp only
  rw [if_neg (by simp [henable]), h, popCmd_first hcmds]

theorem template_taken (h : templateReason s c = none) :
    template s enable = answered (postRec ((poppedTo s rest).mapDrover (fun d => { d with
      templates := if enable then Tbl.set d.templates c.template
          ⟨c.image, c.ctx, c.w2.toNat, c.cookie, c.sess, sessTenant s c.sess, c.queue⟩
        else Tbl.del d.templates c.template })) c.queue c.sess (cmdRec c 7 0 0 c.ctx)) c := by
  unfold template
  rw [frontCmd_first hcmds hop]
  dsimp only
  rw [if_neg (by simp [henable]), h, popCmd_first hcmds]

end

/-- Settles O30: each command meets its checks in their order; an image that passes has its copy, its pins and its place among
the images. -/
theorem imagesAndTemplates : Obligations.ImagesAndTemplates := by
  refine ⟨?reside, ?image, ?retire, ?template, ?foreign⟩
  case reside =>
    intro s c rest hcmds hop
    refine ⟨fun r hr => congrArg Host.Outcome.next (reside_common hcmds hop hr),
      fun r hcommon hr => congrArg Host.Outcome.next (reside_refused hcmds hop hcommon hr), fun i hcommon hi => ?_⟩
    have hdrover := resided_drover s c rest i
    refine ⟨resided s c rest i, congrArg Host.Outcome.next (reside_copies hcmds hop hcommon hi), resided_only .., ?images,
      fun k hk => ?inside, fun a ha => ?outside, ?cmds, ?insts, resideReason_loading hi,
      fun x hx => resided_core_other s c rest i hx⟩
    case images => rw [hdrover]
    case inside =>
      rw [resided_mem]
      exact copyIn_read_inside (poppedTo s rest) c.w2.toNat i.size hk
    case outside =>
      rw [resided_mem]
      exact copyIn_read_outside (poppedTo s rest) c.w2.toNat i.size ha
    case cmds => rw [hdrover]
    case insts => rw [hdrover]
  case image =>
    intro s tenant index i hi
    exact ⟨fun hst hpins => congrArg Host.Outcome.next (imageResident_loaded hi hst hpins),
      fun h => congrArg Host.Outcome.next (imageResident_waits hi h),
      fun hst hinsts => congrArg Host.Outcome.next (imageRetired_unused hi hst hinsts),
      fun h => congrArg Host.Outcome.next (imageRetired_waits hi h)⟩
  case retire =>
    intro s c rest hcmds hop hcommon
    exact ⟨fun i hi hst => congrArg Host.Outcome.next (retire_resident hcmds hop hcommon hi hst),
      fun h => congrArg Host.Outcome.next (retire_refused hcmds hop hcommon h)⟩
  case template =>
    intro s c rest hcmds hop hreason
    exact ⟨fun henable => congrArg Host.Outcome.next (template_taken hcmds hop henable hreason),
      fun henable => congrArg Host.Outcome.next (template_taken hcmds hop henable hreason)⟩
  case foreign =>
    intro s c rest hcmds hop hcommon hforeign henable
    exact congrArg Host.Outcome.next (template_refused hcmds hop henable (templateReason_foreign hcommon hforeign))

end Sys2Proof.Machine

/-! PROOFS. A walk whose visits an event counter of the HERD page counts (17_sharal_tally.md R453, Table 17-11). -/

namespace Sys2Proof.Machine

/-- The nodes of a tree of DEPTH 1: the root tests bin < 0, so a present value goes to its right child; both children are value
leaves of +0. -/
def splitNodes : List Word := [1, 0, 0, 0x80000000, 0, 0x80000000]

/-- A job whose image lies at 0x1000_0200 with its nodes at offset 144, over one binned INT32 feature. -/
def splitJob : HerdRun :=
  { task := 0, job := 0x10000000, words := [0x01000000, 0x10000200]
    header := [0x01000001, 1, 1, 168, 128, 136, 144, 3], feats := [⟨0, true, 0, 168⟩], count := 1, osize := 16, next := 0
    written := 0, outs := [], buf := [], blocks := 0 }

/-- The walk of its record 0, whose one value is 0 and lies in bin 0. -/
def splitWalk : WalkEnv := { run := splitJob, rix := 0, vals := [0], bins := [some 0] }

/-- The nodes are stored, and counter 0 of the HERD page counts its event 1, a visit. -/
def visitsCounted : State :=
  (countersRun { State.reset with mem := Memory.put ⟨[], [], []⟩ (nodeAddr splitJob 0) (wordsBytes splitNodes) } true).setReg
    slotHerd 0xB00 0x80000001

/-- Where the walk of the tree ends, after one visit. -/
def splitEnd : WalkAt := WalkAt.visit ⟨visitsCounted, 0⟩ false

theorem walk_splitNodes : walk splitWalk 0 3 1 3 ⟨visitsCounted, 0⟩ 0 = .leaf splitEnd 2 0 0x80000000 := by decide +kernel

theorem visitsCounted_counter : visitsCounted.reg slotHerd 0xC00 = 0 := by decide +kernel

theorem splitEnd_counter : splitEnd.st.reg slotHerd 0xC00 = 1 := by decide +kernel

/-- Refutes O38: its clause that VISITS and MISSING are the only registers to change. While the event counters run, a counter of
the HERD page that selects visits counts each of them too (R453), so the walk of a tree of one split changes that counter. -/
theorem not_walksStayInTheirTree : ¬ Obligations.WalksStayInTheirTree := by
  intro h
  obtain ⟨-, -, -, -, -, -, -, hregs, -⟩ := h _ _ _ _ _ _ _ _ _ _ (by decide) walk_splitNodes
  have hsame := hregs (regAt slotHerd 0xC00) (by decide) (by decide)
  rw [regAt_page _ (by decide), regAt_offset _ (by decide), splitEnd_counter, visitsCounted_counter] at hsame
  exact absurd hsame (by decide)

end Sys2Proof.Machine

/-! PROOFS. HERD_JOB_START: the checks of a job and its image in their order, and the start (10_herd_engine.md R255, R268 to
R270; 11_paddock.md R289). -/

namespace Sys2Proof.Machine

/-! ### Words, and checks made in order -/

theorem findSome?_range_none {α : Type} {f : Nat → Option α} {n : Nat} (h : ∀ k < n, f k = none) :
    (List.range n).findSome? f = none :=
  List.findSome?_eq_none_iff.mpr fun k hk => h k (List.mem_range.mp hk)

theorem findSome?_range_first {α : Type} {f : Nat → Option α} {i n : Nat} {x : α} (hi : i < n) (hbefore : ∀ k < i, f k = none)
    (hx : f i = some x) : (List.range n).findSome? f = some x := by
  obtain ⟨m, rfl⟩ := Nat.exists_eq_add_of_lt hi
  rw [Nat.add_assoc, List.range_add, List.findSome?_append, findSome?_range_none hbefore, List.range_succ_eq_map]
  simp [hx]

/-! ### The feature table (R256) -/

/-- The check of feature entry `i` of a table at `a`. -/
def featCheck (m : Memory) (h : List Word) (a i : Nat) : Option Nat :=
  featCode h (m.word (a + 8 * i)) (m.word (a + 8 * i + 4))

/-- The features that a table at `a` lists. -/
def featTable (m : Memory) (h : List Word) (a : Nat) : List Feat :=
  (List.range (hFeat h)).map (fun i => parseFeat (m.word (a + 8 * i)) (m.word (a + 8 * i + 4)))

/-- The first entry that its check refuses, and the reason. -/
def featRefused (m : Memory) (h : List Word) (a : Nat) : Option (Nat × Nat) :=
  (List.range (hFeat h)).findSome? (fun i => (featCheck m h a i).map (fun c => (i, c)))

theorem featRefused_first {m : Memory} {h : List Word} {a i c : Nat} (hi : i < hFeat h)
    (hbefore : ∀ k < i, featCheck m h a k = none) (hc : featCheck m h a i = some c) : featRefused m h a = some (i, c) :=
  findSome?_range_first hi (fun k hk => by rw [hbefore k hk, Option.map_none]) (by rw [hc, Option.map_some])

theorem featRefused_none {m : Memory} {h : List Word} {a : Nat} (hall : ∀ i < hFeat h, featCheck m h a i = none) :
    featRefused m h a = none :=
  findSome?_range_none fun k hk => by rw [hall k hk, Option.map_none]

/-! ### Image, features, job, count and banks, in this order (R270; log entry 65) -/

/-- The checks that follow those on the image: on the job's ranges, its count and its banks. -/
def jobChecks (s : State) (t a : Nat) (j h : List Word) (feats : List Feat) : State :=
  match jobCode s t j h with
  | some c => herdFault s t 0x0501 (some a) (fld c 24) (wd j 0)
  | none =>
    match (if jInd j then herdRead s t 0 (jCountAt j) 4 else none) with
    | some u => u
    | none =>
      let n := if jInd j then (s.mem.word (jCountAt j)).toNat else jCount j
      if jCount j < n then herdFault s t 0x0501 (some (jCountAt j)) (fld 7 24) (wd j 0)
      else
        match (if jPad j then bankBad s t (hFeat h) else none) with
        | some (b, c) => bankFault s t b c 0
        | none => herdBegin s t a j h feats n

section
variable {s : State} {t a : Nat} {j h : List Word} (hread : herdRead s t 0 (jImage j) 128 = none)
  (hh : h = s.mem.words (jImage j) 32)
include hread hh

theorem herdChecks_header {c : Nat} (hcode : headerCode h (jImage j) = some c) :
    herdChecks s t a j = herdFault s t 0x0502 (some (jImage j)) (fld c 24) 0 := by
  subst hh
  simp only [herdChecks, hread, hcode]

variable (hcode : headerCode h (jImage j) = none) (htable : herdRead s t 0 (jImage j + hOffFeat h) (8 * hFeat h) = none)
include hcode htable

theorem herdChecks_table : herdChecks s t a j = match featRefused s.mem h (jImage j + hOffFeat h) with
    | some (i, c) => herdFault s t 0x0502 (some (jImage j + hOffFeat h + 8 * i)) (fld c 24) (w32 i)
    | none => jobChecks s t a j h (featTable s.mem h (jImage j + hOffFeat h)) := by
  subst hh
  simp only [herdChecks, hread, hcode, htable]
  rfl

theorem herdChecks_feature {i c : Nat} (hi : i < hFeat h)
    (hbefore : ∀ k < i, featCheck s.mem h (jImage j + hOffFeat h) k = none)
    (hc : featCheck s.mem h (jImage j + hOffFeat h) i = some c) :
    herdChecks s t a j = herdFault s t 0x0502 (some (jImage j + hOffFeat h + 8 * i)) (fld c 24) (w32 i) := by
  rw [herdChecks_table hread hh hcode htable, featRefused_first hi hbefore hc]

/-- An image that passes: the job is checked with the features that it lists. -/
theorem herdChecks_image {feats : List Feat} (hall : ∀ i < hFeat h, featCheck s.mem h (jImage j + hOffFeat h) i = none)
    (hfeats : feats = featTable s.mem h (jImage j + hOffFeat h)) :
    herdChecks s t a j = jobChecks s t a j h feats := by
  rw [herdChecks_table hread hh hcode htable, featRefused_none hall, hfeats]

end

section
variable {s : State} {t a : Nat} {j h : List Word} {feats : List Feat}

theorem jobChecks_job {c : Nat} (hjob : jobCode s t j h = some c) :
    jobChecks s t a j h feats = herdFault s t 0x0501 (some a) (fld c 24) (wd j 0) := by
  simp only [jobChecks, hjob]

variable {n : Nat} (hjob : jobCode s t j h = none) (hn : n = if jInd j then (s.mem.word (jCountAt j)).toNat else jCount j)
  (hread : jInd j = true → herdRead s t 0 (jCountAt j) 4 = none)
include hjob hn hread

theorem jobChecks_count (hbeyond : jCount j < n) :
    jobChecks s t a j h feats = herdFault s t 0x0501 (some (jCountAt j)) (fld 7 24) (wd j 0) := by
  have hcount : (if jInd j then herdRead s t 0 (jCountAt j) 4 else none) = none := ite_eq_right_iff.mpr hread
  simp only [jobChecks, hjob, hcount, ← hn, if_pos hbeyond]

theorem jobChecks_begins (hwithin : n ≤ jCount j) (hbanks : jPad j = true → bankBad s t (hFeat h) = none) :
    jobChecks s t a j h feats = herdBegin s t a j h feats n := by
  have hcount : (if jInd j then herdRead s t 0 (jCountAt j) 4 else none) = none := ite_eq_right_iff.mpr hread
  have hbank : (if jPad j then bankBad s t (hFeat h) else none) = none := ite_eq_right_iff.mpr hbanks
  simp only [jobChecks, hjob, hcount, ← hn, if_neg (Nat.not_lt.mpr hwithin), hbank]

end

/-! ### The job's own words -/

theorem regAt_div_mod (k : Nat) : regAt (k / 0x1000) (k % 0x1000) = k := Nat.div_add_mod' k 0x1000

/-- LAST_JOB shows the job at `a`. -/
abbrev jobShown (s : State) (a : Nat) : State := s.setReg slotHerd 0x058 (w32 a)

theorem herdJobStart_idle {s : State} (h : herdTask s = none ∨ s.herd.run ≠ none) : herdJobStart s = s := by
  unfold herdJobStart
  split
  next t ht hrun => simp [ht, hrun] at h
  next => rfl

section
variable {s : State} {n : Nat} {d : TaskD} {a : Nat} {j : List Word} (htask : herdTask s = some n) (hrun : s.herd.run = none)
  (hd : taskD s n = some d) (ha : a = 0x10000000 + d.progOff)
include htask hrun hd ha

theorem herdJobStart_unread {w : State} (h : herdRead (jobShown s a) n 0 a (if a % 64 = 0 then 64 else 4) = some w) :
    herdJobStart s = w := by
  simp only [herdJobStart, htask, hrun, hd, ← ha, h]

variable (hj : j = s.mem.words a 16)
include hj

theorem herdJobStart_read (h : herdRead (jobShown s a) n 0 a (if a % 64 = 0 then 64 else 4) = none) : herdJobStart s =
    if a % 64 != 0 || jobBad j then herdFault (jobShown s a) n 0x0501 (some a) (fld 1 24) (wd j 0)
    else if jobMisaligned j then herdFault (jobShown s a) n 0x0501 (some a) (fld 2 24) (wd j 0)
    else herdChecks (jobShown s a) n a j := by
  simp only [herdJobStart, htask, hrun, hd, ← ha, ← hj, h]

theorem herdJobStart_unaligned (hal : a % 64 ≠ 0) (h : herdRead (jobShown s a) n 0 a 4 = none) :
    herdJobStart s = herdFault (jobShown s a) n 0x0501 (some a) (fld 1 24) (wd j 0) := by
  rw [herdJobStart_read htask hrun hd ha hj (by rw [if_neg hal, h]), if_pos (by simp [hal])]

variable (hal : a % 64 = 0) (h : herdRead (jobShown s a) n 0 a 64 = none)
include hal h

theorem herdJobStart_bad (hbad : jobBad j = true) :
    herdJobStart s = herdFault (jobShown s a) n 0x0501 (some a) (fld 1 24) (wd j 0) := by
  rw [herdJobStart_read htask hrun hd ha hj (by rw [if_pos hal, h]), if_pos (by simp [hbad])]

variable (hbad : jobBad j = false)
include hbad

theorem herdJobStart_misaligned (hmis : jobMisaligned j = true) :
    herdJobStart s = herdFault (jobShown s a) n 0x0501 (some a) (fld 2 24) (wd j 0) := by
  rw [herdJobStart_read htask hrun hd ha hj (by rw [if_pos hal, h]), if_neg (by simp [hal, hbad]), if_pos hmis]

theorem herdJobStart_checks (hmis : jobMisaligned j = false) : herdJobStart s = herdChecks (jobShown s a) n a j := by
  rw [herdJobStart_read htask hrun hd ha hj (by rw [if_pos hal, h]), if_neg (by simp [hal, hbad]), if_neg (by simp [hmis])]

end

/-! ### The start -/

section
variable (s : State) (n a : Nat) (j h : List Word) (feats : List Feat) (count : Nat)

theorem jobBegun_only : Only [.regs, .herd, .paddock] s (herdBegin (jobShown s a) n a j h feats count) :=
  ((herdBegin_keeps ..).cut (by decide) ((State.setReg_keeps s slotHerd 0x058 (w32 a)).mono (by decide))).only

theorem jobBegun_reg (slot off : Nat) :
    (herdBegin (jobShown s a) n a j h feats count).reg slot off = (jobShown s a).reg slot off :=
  reg_of_regs ((herdBegin_keeps ..).only.2 .regs (by decide)) slot off

theorem jobBegun_lastJob : (herdBegin (jobShown s a) n a j h feats count).reg slotHerd 0x058 = w32 a := by
  rw [jobBegun_reg, State.reg_setReg_same]

theorem jobBegun_reg_other {k : Nat} (hk : k ≠ regAt slotHerd 0x058) :
    (herdBegin (jobShown s a) n a j h feats count).reg (k / 0x1000) (k % 0x1000) = s.reg (k / 0x1000) (k % 0x1000) := by
  rw [jobBegun_reg, State.reg_setReg_other _ _ (by rwa [regAt_div_mod])]

end

/-- Settles O36: the job is read and checked in the order of its lemmas; what passes them all is `herdBegin` alone. -/
theorem herdJobStarts : Obligations.HerdJobStarts := by
  refine ⟨fun s h => congrArg Host.Outcome.next (herdJobStart_idle h), ?job, ?mem⟩
  case mem =>
    intro s t h
    injection h with h
    exact h ▸ (herdJobStart_keeps s).only.mem_eq (by decide)
  case job =>
    intro s u n d a j htask hrun hd ha hu hj
    subst hu
    refine ⟨fun hal h => congrArg Host.Outcome.next (herdJobStart_unaligned htask hrun hd ha hj hal h),
      fun w h => congrArg Host.Outcome.next (herdJobStart_unread htask hrun hd ha h),
      fun hal h => ⟨fun hbad => congrArg Host.Outcome.next (herdJobStart_bad htask hrun hd ha hj hal h hbad),
        fun hbad hmis => congrArg Host.Outcome.next (herdJobStart_misaligned htask hrun hd ha hj hal h hbad hmis), ?image⟩⟩
    intro hdr hbad hmis hread hhdr
    have hchecks := herdJobStart_checks htask hrun hd ha hj hal h hbad hmis
    refine ⟨fun c hcode => congrArg Host.Outcome.next (hchecks.trans (herdChecks_header hread hhdr hcode)),
      fun i c hcode htable hi hbefore hc =>
        congrArg Host.Outcome.next (hchecks.trans (herdChecks_feature hread hhdr hcode htable hi hbefore hc)), ?passed⟩
    intro fs hcode htable hall hfs
    have hjobs := hchecks.trans (herdChecks_image hread hhdr hcode htable hall hfs)
    refine ⟨fun c hc => congrArg Host.Outcome.next (hjobs.trans (jobChecks_job hc)), fun count hjob hcount hind =>
      ⟨fun hbeyond => congrArg Host.Outcome.next (hjobs.trans (jobChecks_count hjob hcount hind hbeyond)), ?begins⟩⟩
    intro hwithin hbanks
    refine ⟨_, congrArg Host.Outcome.next (hjobs.trans (jobChecks_begins hjob hcount hind hwithin hbanks)), jobBegun_only ..,
      rfl, jobBegun_lastJob .., fun k hk => jobBegun_reg_other _ _ _ _ _ _ _ hk, rfl, rfl, rfl⟩

end Sys2Proof.Machine

/-! PROOFS. HERD_RECORD_READ: what walking the trees of a record changes, and the record that waits for its output
(10_herd_engine.md R260 to R267, R276). -/

namespace Sys2Proof.Machine

/-! ### Walks that reach their leaves count, and change nothing else -/

/-- Registers alone have changed, and LAST_JOB has not. -/
structure CountsOnly (s t : State) : Prop where
  only : Only [.regs] s t
  lastJob : t.reg slotHerd 0x058 = s.reg slotHerd 0x058

theorem CountsOnly.refl (s : State) : CountsOnly s s := ⟨.refl _ s, rfl⟩

theorem CountsOnly.trans {s t u : State} (h : CountsOnly s t) (k : CountsOnly t u) : CountsOnly s u :=
  ⟨h.only.trans k.only, k.lastJob.trans h.lastJob⟩

theorem bump_countsOnly (s : State) {page off : Nat} (n : Nat) (h : regAt slotHerd 0x058 ≠ regAt page off) :
    CountsOnly s (s.bump page off n) :=
  ⟨(State.bump_keeps ..).only, bump_reg_other s n (by decide) h⟩

theorem WalkAt.visit_countsOnly (w : WalkAt) (missing : Bool) : CountsOnly w.st (w.visit missing).st := by
  have hvisit : CountsOnly w.st (w.st.bump slotHerd 0x048 1) := bump_countsOnly w.st 1 (by decide)
  cases missing with
  | false => exact hvisit
  | true => exact hvisit.trans (bump_countsOnly (page := slotHerd) (off := 0x04C) _ 1 (by decide))

/-- A walk that ends at a leaf stands at it, or goes on from one more visit. -/
theorem walk_leaf_cases {e : WalkEnv} {root count depth fuel n k : Nat} {w v : WalkAt} {lo hi : Word}
    (h : walk e root count depth (fuel + 1) w n = .leaf v k lo hi) :
    v = w ∨ ∃ missing m, walk e root count depth fuel (w.visit missing) m = .leaf v k lo hi := by
  unfold walk at h
  dsimp only at h
  split at h
  next => cases h
  next =>
    split at h
    next =>
      split at h
      next => cases h
      next =>
        injection h with h
        exact .inl h.symm
    next =>
      split at h
      next => cases h
      next =>
        split at h
        next => exact .inr ⟨_, _, h⟩
        next =>
          split at h
          next => cases h
          next => exact .inr ⟨_, _, h⟩

theorem walk_leaf_countsOnly {e : WalkEnv} {root count depth fuel n k : Nat} {w v : WalkAt} {lo hi : Word}
    (h : walk e root count depth fuel w n = .leaf v k lo hi) : CountsOnly w.st v.st := by
  induction fuel generalizing w n with
  | zero => cases h
  | succ fuel ih =>
    rcases walk_leaf_cases h with rfl | ⟨missing, m, hrest⟩
    · exact .refl _
    · exact (w.visit_countsOnly missing).trans (ih hrest)

/-! ### The trees of a record (R265) -/

/-- What scoring `n` trees without a fault adds beside the sums: counts, and a leaf for each tree. -/
structure Scored (n : Nat) (x y : RecAcc) : Prop where
  counts : CountsOnly x.at_.st y.at_.st
  leaves : y.leaves.length = x.leaves.length + n

theorem scoreTree_scored {e : WalkEnv} {acc a : RecAcc} {t : Nat} (h : scoreTree e acc t = .inr a) : Scored 1 acc a := by
  unfold scoreTree at h
  dsimp only at h
  split at h
  next => cases h
  next =>
    split at h
    next => cases h
    next =>
      split at h
      next => cases h
      next v k lo hi hwalk =>
        have hwalked : CountsOnly acc.at_.st v.st := walk_leaf_countsOnly (w := { acc.at_ with visits := 0 }) hwalk
        injection h with h
        subst h
        refine ⟨?_, List.length_append⟩
        dsimp only
        split
        · exact hwalked.trans (v.visit_countsOnly false)
        · exact hwalked

theorem scoreTrees_scored {e : WalkEnv} {l : List Nat} {acc a : RecAcc} (h : scoreTrees e l acc = .inr a) :
    Scored l.length acc a := by
  induction l generalizing acc with
  | nil =>
    injection h with h
    exact h ▸ ⟨.refl _, rfl⟩
  | cons t l ih =>
    unfold scoreTrees at h
    split at h
    next => cases h
    next b hb =>
      have hfirst := scoreTree_scored hb
      have hrest := ih h
      refine ⟨hfirst.counts.trans hrest.counts, ?_⟩
      rw [hrest.leaves, hfirst.leaves, List.length_cons]
      omega

/-! ### What the record holds (R260 to R262) -/

/-- The bin maps of a job's features. -/
abbrev mapsOf (s : State) (r : HerdRun) : List (List Word) :=
  r.feats.map (fun f => if f.binned then s.mem.words (jImage r.words + f.offMap) f.ncut else [])

/-- The values of the next record. -/
abbrev valsOf (s : State) (r : HerdRun) : List Word :=
  s.mem.words (jRec r.words + r.next * jStride r.words) (hFeat r.header)

/-- Its values, each with its feature and bin map. -/
abbrev featuresOf (s : State) (r : HerdRun) : List ((Feat × List Word) × Word) := (r.feats.zip (mapsOf s r)).zip (valsOf s r)

abbrev binsOf (s : State) (r : HerdRun) : List (Option Nat) := (featuresOf s r).map (fun p => binOf p.1.1 p.1.2 p.2)

/-- The record is binned, and counted where a category of it is unseen. -/
abbrev recordBinned (s : State) (r : HerdRun) : State :=
  countUnseen s ((featuresOf s r).any (fun p => unseen p.1.1 p.1.2 p.2))

/-- Its trees are walked from the sums with which it starts. -/
abbrev treesWalked (s : State) (r : HerdRun) : State ⊕ RecAcc :=
  scoreTrees ⟨r, r.next, valsOf s r, binsOf s r⟩ (List.range (hTrees r.header)) ⟨⟨recordBinned s r, 0⟩, startSums s r, [], 0⟩

theorem countUnseen_lastJob (s : State) (un : Bool) : (countUnseen s un).reg slotHerd 0x058 = s.reg slotHerd 0x058 := by
  cases un with
  | false => rfl
  | true => exact bump_reg_other s 1 (by decide) (by decide)

theorem treesWalked_scored {s : State} {r : HerdRun} {acc : RecAcc} (h : treesWalked s r = .inr acc) :
    CountsOnly (recordBinned s r) acc.at_.st ∧ acc.leaves.length = hTrees r.header := by
  obtain ⟨hcounts, hleaves⟩ := scoreTrees_scored h
  exact ⟨hcounts, by simpa using hleaves⟩

/-! ### The record that waits (R266, R267) -/

/-- The counts with which a scored record waits: none while the Paddock has banks to search for it. -/
theorem scoredCounts_eq (pad empty : Bool) (zeros : List Nat) :
    (if pad then (if empty then some zeros else none) else some []) =
      (if pad && !empty then none else some (if pad then zeros else [])) := by
  cases pad <;> cases empty <;> rfl

/-- The record as it waits for its output. -/
abbrev recordOut (s : State) (r : HerdRun) (acc : RecAcc) : HerdOut :=
  ⟨r.next, acc.sums, acc.leaves, binsOf s r, if jPad r.words && !(claimBanks s r.task).isEmpty then none
    else some (if jPad r.words then (jTags r.words).map (fun _ => 0) else [])⟩

/-- The job with the record waiting. -/
def recordWaiting (s : State) (r : HerdRun) (acc : RecAcc) : State :=
  { acc.at_.st with herd := { acc.at_.st.herd with run := some { r with
      next := r.next + 1, outs := r.outs ++ [recordOut s r acc] } } }

theorem recordScored_eq (s : State) (r : HerdRun) (acc : RecAcc) : recordScored s r acc (binsOf s r) =
    if jPad r.words ∧ (claimBanks s r.task).isEmpty then (recordWaiting s r acc).bump slotPadk 0x040 1
    else recordWaiting s r acc := by
  unfold recordScored recordWaiting recordOut
  rw [← scoredCounts_eq]

theorem recordScored_run (s : State) (r : HerdRun) (acc : RecAcc) :
    (recordScored s r acc (binsOf s r)).herd.run = some { r with next := r.next + 1, outs := r.outs ++ [recordOut s r acc] } := by
  rw [recordScored_eq]
  split
  · exact congrArg Herd.run ((State.bump_keeps (recordWaiting s r acc) slotPadk 0x040 1).only.2 .herd (by decide))
  · rfl

theorem recordScored_lastJob (s : State) (r : HerdRun) (acc : RecAcc) :
    (recordScored s r acc (binsOf s r)).reg slotHerd 0x058 = acc.at_.st.reg slotHerd 0x058 := by
  rw [recordScored_eq]
  split
  · exact bump_reg_other (page := slotPadk) (o := 0x040) (recordWaiting s r acc) 1 (by decide) (by decide)
  · rfl

section
variable {s : State} {r : HerdRun} {acc : RecAcc} (h : treesWalked s r = .inr acc)
include h

theorem walkedScored_only : Only [.regs, .evts, .herd] s (recordScored s r acc (binsOf s r)) := by
  have hbinned : Only [.regs, .evts, .herd] s (recordBinned s r) := (countUnseen_keeps s _).only.mono (by decide)
  have hwalked : Only [.regs, .evts, .herd] (recordBinned s r) acc.at_.st := (treesWalked_scored h).1.only.mono (by decide)
  exact (hbinned.trans hwalked).trans ((recordScored_keeps s r acc _).only.mono (by decide))

theorem walkedScored_lastJob : (recordScored s r acc (binsOf s r)).reg slotHerd 0x058 = s.reg slotHerd 0x058 := by
  rw [recordScored_lastJob, (treesWalked_scored h).1.lastJob, countUnseen_lastJob]

end

/-! ### HERD_RECORD_READ -/

theorem herdRecordRead_waits {s : State} (h : ∀ r, s.herd.run = some r → r.count ≤ r.next ∨ aborting s r.task = true
    ∨ (s.dom 22).st ≠ .run ∨ s.inReset .herd = true) : herdRecordRead s = s := by
  unfold herdRecordRead
  split
  next => rfl
  next r hrun => exact if_pos (by simpa [or_assoc] using h r hrun)

section
variable {s : State} {r : HerdRun} (hrun : s.herd.run = some r) (hnext : r.next < r.count) (hab : aborting s r.task = false)
  (hdom : (s.dom 22).st = .run) (hreset : s.inReset .herd = false)
include hrun hnext hab hdom hreset

theorem herdRecordRead_runs : herdRecordRead s = match recordRead s r with
    | some u => u
    | none => match treesWalked s r with
      | .inl u => u
      | .inr acc =>
        if r.next = 0 ∧ acc.depths ≠ hVisits r.header then
          herdFault acc.at_.st r.task 0x0502 (some (jImage r.words)) (fld 7 24) 0
        else recordScored s r acc (binsOf s r) := by
  unfold herdRecordRead
  rw [hrun]
  exact if_neg (by simp [hnext, hab, hdom, hreset])

theorem herdRecordRead_unread {u : State} (hread : recordRead s r = some u) : herdRecordRead s = u := by
  rw [herdRecordRead_runs hrun hnext hab hdom hreset, hread]

variable (hread : recordRead s r = none)
include hread

theorem herdRecordRead_stopped {u : State} (h : treesWalked s r = .inl u) : herdRecordRead s = u := by
  rw [herdRecordRead_runs hrun hnext hab hdom hreset, hread]
  simp only [h]

variable {acc : RecAcc} (h : treesWalked s r = .inr acc)
include h

theorem herdRecordRead_visits (hfirst : r.next = 0) (hdepths : acc.depths ≠ hVisits r.header) :
    herdRecordRead s = herdFault acc.at_.st r.task 0x0502 (some (jImage r.words)) (fld 7 24) 0 := by
  rw [herdRecordRead_runs hrun hnext hab hdom hreset, hread]
  simp only [h]
  exact if_pos ⟨hfirst, hdepths⟩

theorem herdRecordRead_scored (hdepths : r.next = 0 → acc.depths = hVisits r.header) :
    herdRecordRead s = recordScored s r acc (binsOf s r) := by
  rw [herdRecordRead_runs hrun hnext hab hdom hreset, hread]
  simp only [h]
  exact if_neg fun ⟨hfirst, hne⟩ => hne (hdepths hfirst)

end

end Sys2Proof.Machine

/-! PROOFS. HERD_RECORD_OUTPUT and HERD_JOB_COMPLETE: the output in whole blocks, and the end of the job (10_herd_engine.md R266,
R271). -/

namespace Sys2Proof.Machine

/-! ### Whole blocks -/

/-- The blocks that an output of `len` bytes fills, the last one in part where the job ends. -/
def outBlocks (len : Nat) (last : Bool) : Nat := if last then (len + 511) / 512 else len / 512

theorem outBlocks_step {len : Nat} (h : 512 ≤ len) (last : Bool) : outBlocks len last = outBlocks (len - 512) last + 1 := by
  unfold outBlocks
  split <;> omega

theorem outBlocks_end {len : Nat} (h : len < 512) (hpos : 0 < len) : outBlocks len true = 1 := by
  unfold outBlocks
  rw [if_pos rfl]
  omega

theorem outBlocks_short {len : Nat} {last : Bool} (h : len < 512) (hwait : last = false ∨ len = 0) : outBlocks len last = 0 := by
  unfold outBlocks
  rcases hwait with rfl | rfl
  · exact Nat.div_eq_of_lt h
  · cases last <;> rfl

/-- `n` blocks from `a` hold the bytes of `buf`, continued with zeros; every other byte is as before. -/
structure StoresBlocks (m m' : Memory) (a n : Nat) (buf : List Byte) : Prop where
  inside : ∀ i < 512 * n, m'.read (a + i) = buf.getD i 0
  outside : ∀ b, (b < a ∨ a + 512 * n ≤ b) → m'.read b = m.read b

theorem StoresBlocks.none (m : Memory) (a : Nat) (buf : List Byte) : StoresBlocks m m a 0 buf :=
  ⟨fun i hi => by omega, fun _ _ => rfl⟩

/-- The last block of a job, filled with zeros. -/
theorem StoresBlocks.last (m : Memory) (a : Nat) {buf : List Byte} (h : buf.length < 512) :
    StoresBlocks m (m.put a (buf ++ List.replicate (512 - buf.length) 0)) a 1 buf := by
  have hlen : (buf ++ List.replicate (512 - buf.length) 0).length = 512 := by
    rw [List.length_append, List.length_replicate]
    omega
  refine ⟨fun i hi => ?_, fun b hb => m.read_put_outside a _ (by omega)⟩
  rw [m.read_put_inside a _ i (by omega), List.getElem_append, List.getD_eq_getElem?_getD]
  split
  next hi => rw [List.getElem?_eq_getElem hi, Option.getD_some]
  next hi => rw [List.getElem_replicate, List.getElem?_eq_none (by omega), Option.getD_none]

/-- A whole block, and then the blocks of the rest. -/
theorem StoresBlocks.cons {m m' : Memory} {a n : Nat} {buf : List Byte} (h : 512 ≤ buf.length)
    (hrest : StoresBlocks (m.put a (buf.take 512)) m' (a + 512) n (buf.drop 512)) : StoresBlocks m m' a (n + 1) buf := by
  have hlen : (buf.take 512).length = 512 := List.length_take_of_le h
  refine ⟨fun i hi => ?_, fun b hb => ?_⟩
  · by_cases hfirst : i < 512
    · rw [hrest.outside _ (.inl (by omega)), m.read_put_inside a _ i (by omega), List.getElem_take,
        List.getD_eq_getElem _ _ (by omega)]
    · have hlater := hrest.inside (i - 512) (by omega)
      rwa [show a + 512 + (i - 512) = a + i by omega, List.getD_eq_getElem?_getD, List.getElem?_drop,
        show 512 + (i - 512) = i by omega, ← List.getD_eq_getElem?_getD] at hlater
  · rw [hrest.outside b (by omega), m.read_put_outside a _ (by omega)]

/-- The output stores the blocks that its bytes fill, and keeps the bytes beyond them. -/
theorem flushOut_stores {fuel : Nat} (m : Memory) (base : Nat) {buf : List Byte} (k : Nat) (last : Bool)
    (hfuel : buf.length / 512 < fuel) :
    ∃ m', flushOut fuel m base buf k last = (m', buf.drop (512 * outBlocks buf.length last), k + outBlocks buf.length last)
      ∧ StoresBlocks m m' (base + 512 * k) (outBlocks buf.length last) buf := by
  induction fuel generalizing m buf k with
  | zero => omega
  | succ fuel ih =>
    unfold flushOut
    split
    next hblock =>
      obtain ⟨m', hflush, hstores⟩ := ih (m.put (base + 512 * k) (buf.take 512)) (buf := buf.drop 512) (k + 1)
        (by rw [List.length_drop]; omega)
      rw [List.length_drop] at hflush hstores
      rw [Nat.mul_add_one, ← Nat.add_assoc] at hstores
      rw [outBlocks_step hblock]
      refine ⟨m', ?_, hstores.cons hblock⟩
      rw [hflush, List.drop_drop, Nat.mul_add_one, Nat.add_comm 512, Nat.add_right_comm, Nat.add_assoc k]
    next hblock =>
      split
      next hend =>
        obtain ⟨hlast, hne⟩ := hend
        rw [hlast, outBlocks_end (by omega) (List.length_pos_iff.mpr hne), List.drop_eq_nil_of_le (by omega)]
        exact ⟨_, rfl, .last m _ (by omega)⟩
      next hend =>
        rw [outBlocks_short (by omega) (by simpa [imp_iff_not_or] using hend)]
        exact ⟨m, rfl, .none m _ _⟩

/-! ### HERD_RECORD_OUTPUT -/

/-- The job once a record is handed to its output. -/
def recordPut (s : State) (r : HerdRun) (rest : List HerdOut) (m : Memory) (w : Nat) (buf : List Byte) (blocks : Nat) : State :=
  { s with mem := m, herd := { s.herd with run := some { r with outs := rest, written := w, buf := buf, blocks := blocks } } }

theorem herdRecordOutput_uncounted {s : State} {r : HerdRun} {o : HerdOut} {rest : List HerdOut} (hrun : s.herd.run = some r)
    (houts : r.outs = o :: rest) (h : o.counts = none) : herdRecordOutput s = s := by
  simp only [herdRecordOutput, hrun, houts, h]

section
variable {s : State} {r : HerdRun} {o : HerdOut} {rest : List HerdOut} {cs : List Nat} (hrun : s.herd.run = some r)
  (houts : r.outs = o :: rest) (hab : aborting s r.task = false) (hdom : (s.dom 22).st = .run) (hreset : s.inReset .herd = false)
  (hcounts : o.counts = some cs)
include hrun houts hab hdom hreset hcounts

/-- The record joins the output: the blocks that it fills are stored, and RECORDS counts the records that they complete. -/
theorem herdRecordOutput_puts {buf : List Byte} {last : Bool} {n : Nat} (hbuf : buf = r.buf ++ outRecord r.words r.header o cs)
    (hlast : last = decide (r.count ≤ o.index + 1)) (hn : n = outBlocks buf.length last) :
    ∃ m, herdRecordOutput s = (recordPut s r rest m (r.complete (r.blocks + n) last) (buf.drop (512 * n)) (r.blocks + n)).bump
        slotHerd 0x044 (r.complete (r.blocks + n) last - r.written)
      ∧ StoresBlocks s.mem m (jOut r.words + 512 * r.blocks) n buf := by
  obtain ⟨m, hflush, hstores⟩ := flushOut_stores (fuel := buf.length / 512 + 2) s.mem (jOut r.words) (buf := buf) r.blocks last
    (by omega)
  rw [← hn] at hflush hstores
  refine ⟨m, ?_, hstores⟩
  unfold herdRecordOutput
  simp only [hrun, houts, hcounts, ← hbuf, ← hlast, hflush]
  exact if_neg (by simp [hab, hdom, hreset])

end

section
variable (s : State) (r : HerdRun) (rest : List HerdOut) (m : Memory) (w : Nat) (buf : List Byte) (blocks k : Nat)

theorem putCounted_run : ((recordPut s r rest m w buf blocks).bump slotHerd 0x044 k).herd.run =
    some { r with outs := rest, written := w, buf := buf, blocks := blocks } :=
  congrArg Herd.run ((State.bump_keeps ..).only.2 .herd (by decide))

theorem putCounted_mem : ((recordPut s r rest m w buf blocks).bump slotHerd 0x044 k).mem = m :=
  (State.bump_keeps (recordPut s r rest m w buf blocks) slotHerd 0x044 k).only.mem_eq (by decide)

theorem putCounted_records : ((recordPut s r rest m w buf blocks).bump slotHerd 0x044 k).reg slotHerd 0x044 =
    s.reg slotHerd 0x044 + w32 k :=
  bump_reg_same (recordPut s r rest m w buf blocks) slotHerd k (by decide)

end

/-! ### HERD_JOB_COMPLETE -/

/-- The engine is free again, and JOBS counts the job. -/
def jobEnded (s : State) : State :=
  ((({ s with herd := { s.herd with run := none, marked := [] } } : State).bump slotHerd 0x040 1).pulse slotHerd 1).mapPaddock
    (fun p => { p with search := none, builds := [] })

theorem jobEnded_only (s : State) : Only [.regs, .evts, .herd, .paddock] s (jobEnded s) :=
  ((State.mapPaddock_keeps ..).cut (by decide) <| (State.pulse_keeps ..).cut (by decide) <|
    (State.bump_keeps ..).cut (by decide) <| (Keeps.herd s _).mono (by decide)).only

theorem jobEnded_run (s : State) : (jobEnded s).herd.run = none :=
  congrArg Herd.run ((State.bump_keeps ({ s with herd := { s.herd with run := none, marked := [] } } : State)
    slotHerd 0x040 1).only.2 .herd (by decide))

section
variable {s : State} {r : HerdRun} (hrun : s.herd.run = some r)
include hrun

theorem herdJobComplete_ends (hwritten : r.written = r.count) (hab : aborting s r.task = false) :
    herdJobComplete s = finishTask (jobEnded s) r.task := by
  simp only [herdJobComplete, hrun]
  exact if_pos ⟨hwritten, by simp [hab]⟩

theorem herdJobComplete_waits (h : r.written ≠ r.count ∨ aborting s r.task = true) : herdJobComplete s = s := by
  simp only [herdJobComplete, hrun]
  refine if_neg fun ⟨hwritten, hab⟩ => ?_
  rcases h with h | h
  · exact h hwritten
  · simp [h] at hab

end

/-- Settles O37: each command is the lemma of its case, and its frame is that of what it calls. -/
theorem herdRecords : Obligations.HerdRecords := by
  refine ⟨?read, fun s h => congrArg Host.Outcome.next (herdRecordRead_waits h), ?output,
    fun s r o rest hrun houts h => congrArg Host.Outcome.next (herdRecordOutput_uncounted hrun houts h), ?complete⟩
  case read =>
    intro s u0 r maps vals bins hrun hnext hab hdom hreset hmaps hvals hbins hu0
    subst hmaps hvals hbins hu0
    refine ⟨fun u hread => congrArg Host.Outcome.next (herdRecordRead_unread hrun hnext hab hdom hreset hread),
      fun u hread h => congrArg Host.Outcome.next (herdRecordRead_stopped hrun hnext hab hdom hreset hread h),
      fun acc hread h => ⟨fun hfirst hdepths =>
        congrArg Host.Outcome.next (herdRecordRead_visits hrun hnext hab hdom hreset hread h hfirst hdepths), fun hdepths => ?_⟩⟩
    exact ⟨_, congrArg Host.Outcome.next (herdRecordRead_scored hrun hnext hab hdom hreset hread h hdepths),
      walkedScored_only h, (treesWalked_scored h).2, recordScored_run s r acc, walkedScored_lastJob h⟩
  case output =>
    intro s r o rest cs buf n w hrun houts hab hdom hreset hcounts hbuf hn hw
    obtain ⟨m, hputs, hstores⟩ := herdRecordOutput_puts hrun houts hab hdom hreset hcounts hbuf rfl
      (n := n) (by simpa [outBlocks] using hn)
    have hwritten : r.complete (r.blocks + n) (decide (r.count ≤ o.index + 1)) = w := by simpa [HerdRun.complete] using hw.symm
    rw [hwritten] at hputs
    refine ⟨_, congrArg Host.Outcome.next hputs, ?frame, putCounted_run .., putCounted_records .., ?inside, ?outside⟩
    case frame => exact hputs ▸ (herdRecordOutput_keeps s).only
    case inside =>
      rw [putCounted_mem]
      exact hstores.inside
    case outside =>
      rw [putCounted_mem]
      exact fun a ha => hstores.outside a (by omega)
  case complete =>
    intro s r hrun
    refine ⟨fun hwritten hab => ?_, fun h => congrArg Host.Outcome.next (herdJobComplete_waits hrun h)⟩
    have hfinish := (finishTask_keeps (jobEnded s) r.task).only
    exact ⟨jobEnded s, _, congrArg Host.Outcome.next (herdJobComplete_ends hrun hwritten hab), rfl, jobEnded_only s,
      jobEnded_run s, rfl, rfl, hfinish.2 .herd (by decide), (hfinish.mem_eq (by decide)).trans ((jobEnded_only s).mem_eq (by decide))⟩

end Sys2Proof.Machine

/-! PROOFS. Fields of a word, and a register access from the host beside the rest of the state. -/

namespace Sys2Proof.Machine

/-! ### Fields of a word -/

theorem bits_or (v w : Word) (hi lo : Nat) : bits (v ||| w) hi lo = bits v hi lo ||| bits w hi lo := by
  unfold bits
  rw [BitVec.toNat_or, Nat.shiftRight_or_distrib, Nat.or_mod_two_pow]

theorem bits_and (v w : Word) (hi lo : Nat) : bits (v &&& w) hi lo = bits v hi lo &&& bits w hi lo := by
  unfold bits
  rw [BitVec.toNat_and, Nat.shiftRight_and_distrib, Nat.and_mod_two_pow]

theorem bits_lt (v : Word) (hi lo : Nat) : bits v hi lo < 2 ^ (hi + 1 - lo) := Nat.mod_lt _ (Nat.two_pow_pos _)

/-- The lowest field of a number that fits it. -/
theorem bits_w32 {n hi : Nat} (h : n < 2 ^ (hi + 1)) (h32 : n < 2 ^ 32) : bits (w32 n) hi 0 = n := by
  unfold bits w32
  rw [BitVec.toNat_ofNat, Nat.mod_eq_of_lt h32]
  exact Nat.mod_eq_of_lt h

/-- A strobe leaves the bits of a mask without it as they are. -/
theorem and_mask_or (v : Word) {b m : Word} (h : m &&& b = 0) : (v ||| b) &&& m = v &&& m := by
  calc (v ||| b) &&& m = m &&& v ||| m &&& b := by rw [BitVec.and_comm, BitVec.and_or_distrib_left]
    _ = m &&& v := by rw [h]; exact BitVec.or_zero
    _ = v &&& m := BitVec.and_comm ..

theorem bit_or_other (v : Word) {b : Word} {i : Nat} (h : bit b i = false) : bit (v ||| b) i = bit v i := by
  rw [bit_or, h, Bool.or_false]

theorem bit_or_strobe (v : Word) {b : Word} {i : Nat} (h : bit b i = true) : bit (v ||| b) i = true := by
  rw [bit_or, h, Bool.or_true]

/-- A write of one word to several registers leaves it in each. -/
theorem reg_foldl_setReg {α : Type} (slot : Nat) (off : α → Nat) (w : Word) (o : Nat) (l : List α) (s : State)
    (h : s.reg slot o = w ∨ ∃ x ∈ l, off x = o) : (l.foldl (fun u x => u.setReg slot (off x) w) s).reg slot o = w := by
  induction l generalizing s with
  | nil => simpa using h
  | cons a l ih =>
    refine ih _ ?_
    by_cases ha : off a = o
    · subst ha
      exact .inl (State.reg_setReg_same ..)
    · have hne : regAt slot o ≠ regAt slot (off a) := by
        unfold regAt
        omega
      rw [State.reg_setReg_other _ _ hne]
      simpa [ha] using h

/-! ### A register access from the host -/

section
variable (s : State)

@[simp] theorem fromHost_now : s.fromHost.now = s.now := (State.fromHost_keeps s).only.2 .now (by decide)
@[simp] theorem fromHost_mem : s.fromHost.mem = s.mem := (State.fromHost_keeps s).only.2 .mem (by decide)
@[simp] theorem fromHost_soft : s.fromHost.soft = s.soft := (State.fromHost_keeps s).only.2 .soft (by decide)
@[simp] theorem fromHost_drover : s.fromHost.drover = s.drover := (State.fromHost_keeps s).only.2 .drover (by decide)
@[simp] theorem fromHost_fabric : s.fromHost.fabric = s.fabric := (State.fromHost_keeps s).only.2 .fabric (by decide)
@[simp] theorem fromHost_host : s.fromHost.host = s.host := (State.fromHost_keeps s).only.2 .host (by decide)
@[simp] theorem fromHost_resets : s.fromHost.resets = s.resets := (State.fromHost_keeps s).only.2 .resets (by decide)
@[simp] theorem fromHost_sharal : s.fromHost.sharal = s.sharal := (State.fromHost_keeps s).only.2 .sharal (by decide)
@[simp] theorem fromHost_free : s.fromHost.free = s.free := (State.fromHost_keeps s).only.2 .free (by decide)

end

/-- An access from the host counts in event counters alone, which stand from 0xC00 on. -/
@[simp] theorem fromHost_reg (s : State) (slot : Nat) {off : Nat} (h : off < 0xC00) : s.fromHost.reg slot off = s.reg slot off :=
  countEvent_reg s slotHost 1 1 slot h

/-- So does an accepted access of any requester. -/
theorem arriving_keeps (r : Requester) (s : State) : Keeps [.regs] s (arriving r s) := by
  cases r with
  | func f => exact State.fromHost_keeps s
  | smbus => exact Keeps.refl _ s
  | fabric => exact Keeps.refl _ s

theorem arriving_reg (r : Requester) (s : State) (slot : Nat) {off : Nat} (h : off < 0xC00) :
    (arriving r s).reg slot off = s.reg slot off := by
  cases r with
  | func f => exact fromHost_reg s slot h
  | smbus => rfl
  | fabric => rfl

end Sys2Proof.Machine

/-! PROOFS. Every command answers a next state, and the state after start-up. -/

namespace Sys2Proof.Machine

/-- Settles O3: the meaning of each of the 221 commands is written as `.next` of a state, which is its witness. -/
theorem everyCommandAnswersANextState : Obligations.EveryCommandAnswersANextState := by
  intro c s
  cases c <;> exact ⟨_, rfl⟩

/-! ### The state after start-up (15_startup_module_edge.md Table 15-2) -/

theorem reset_domSt_run : ∀ d : Fin 28, d.val < 16 ∨ 22 ≤ d.val → State.reset.domSt d.val = .run := by decide

theorem reset_domSt_port : ∀ p : Fin 6, State.reset.domSt (16 + p.val) = .off := by decide

/-- Settles O6: each part of Table 15-2 is a field of the state given. -/
theorem resetIsSound : Obligations.ResetIsSound :=
  ⟨by decide, rfl, fun _ => rfl, reset_domSt_run, reset_domSt_port, rfl, rfl, rfl, rfl⟩

end Sys2Proof.Machine

/-! PROOFS. A write of PADK.CTRL whose message is held back by a masked vector (13_host_sessions.md R346). -/

namespace Sys2Proof.Machine

/-- An enabled event of the control page is latched with its output enabled, and vector 0 of function 0 is masked. -/
def padkMasked : State :=
  (((State.reset.setReg slotPadk 0x008 0x80000110).setReg slotPadk 0x014 1).setEvt slotPadk
    { State.reset.evt slotPadk with latch := 1 }).mapHost (fun h => { h with msix := [(0, [0, 0, 0, 1])] })

theorem padkMasked_pba : padkMasked.host.pba = [] := rfl

/-- The message of the write stays pending: the host port keeps its vector. -/
theorem evtAfterWrite_padkMasked : (evtAfterWrite padkMasked slotPadk).host.pba = [0] := by decide +kernel

/-- Refutes O39: its last clause says that the event message after a write changes registers and outputs alone, but a message whose
vector is masked enters the pending bits of the host port (R346). -/
theorem not_padkCtrlGuardsTheftN : ¬ Obligations.PadkCtrlGuardsTheftN := by
  intro h
  have hhost : (evtAfterWrite padkMasked slotPadk).host = padkMasked.host := (h.2 padkMasked slotPadk).2 .host (by decide)
  have hsame := congrArg HostPort.pba hhost
  rw [evtAfterWrite_padkMasked, padkMasked_pba] at hsame
  exact absurd hsame (by decide)

end Sys2Proof.Machine

/-! PROOFS. A write of SELF that wakes the ports while the die network enters doze (14_power_clocks.md R381, R388;
15_startup_module_edge.md R404). -/

namespace Sys2Proof.Machine

def dozing : Dom := { st := .doze, target := none, waking := false, hold := false, commit := false, idle := 0 }

/-- After start-up, with a session of key slot 0 open on function 0: folds, Herd engine and Paddock are in doze, the ports off,
and the die network enters doze (R388). -/
def netEntersDoze : State :=
  { State.reset with
    host := { HostPort.start with sessions := [(0, ⟨0, 7, 0, 0, false⟩)] }
    power := { Power.start with doms := (List.range 16).map (·, dozing)
      ++ [(22, dozing), (23, dozing), (26, { domStart 26 with target := some .doze })] } }

theorem netEntersDoze_arrives : Arrives netEntersDoze (.func 0) (regAt slotRoute 0x040) :=
  ⟨⟨by decide +kernel, by decide +kernel⟩, by decide, by decide +kernel, by decide +kernel⟩

theorem netEntersDoze_down : ∀ p : PortId, (netEntersDoze.port p.val).st = .down := by decide

theorem exec_selfWrite {s : State} {r : Requester} (h : Arrives s r (regAt slotRoute 0x040)) (v : Word) :
    exec (.selfWrite r v) s = .next (reported r (selfWrite (arriving r s) v)) :=
  congrArg Host.Outcome.next (writeBy_arrives h v)

/-- The wake of the ports wakes the die network too, whose entry it reverses: its state shows doze, and STATE_CHANGE pulses. -/
theorem selfWrite_pulses : ((selfWrite netEntersDoze.fromHost 0x80000000).evt slotPwr).pulses = 2 := by decide +kernel

/-- Refutes O44: its clause that a write of SELF changes registers and power alone. With VALID set the ports leave off, and the die
network wakes with them (R388): where it was entering doze its STATE field changes, so STATE_CHANGE of the PWR page pulses. -/
theorem not_selfAndDims : ¬ Obligations.SelfAndDims := by
  rintro ⟨-, hdown, -⟩
  obtain ⟨t, hexec, -, honly, -⟩ := (hdown netEntersDoze _ (.func 0) 0x80000000 rfl netEntersDoze_down).2 netEntersDoze_arrives
  rw [exec_selfWrite netEntersDoze_arrives] at hexec
  injection hexec with ht
  have hevt := congrArg EvtState.pulses (evt_of_evts (honly.evts_eq (by decide)) slotPwr)
  rw [← show selfWrite netEntersDoze.fromHost 0x80000000 = t from ht, selfWrite_pulses] at hevt
  exact absurd hevt (by decide +kernel)

end Sys2Proof.Machine

/-! PROOFS. The sessions that close together, and what the aborts of their instances leave of the host port
(13_host_sessions.md R358). -/

namespace Sys2Proof.Machine

/-! ### The host port but its queues -/

/-- `t` holds of the host port what `s` does, but for the queues: an outcome record enters the staging of one. -/
def HostButQueues (s t : State) : Prop := t.host = { s.host with queues := t.host.queues }

theorem HostButQueues.of_host {s t : State} (h : t.host = s.host) : HostButQueues s t := by
  unfold HostButQueues
  rw [h]

theorem HostButQueues.refl (s : State) : HostButQueues s s := .of_host rfl

theorem HostButQueues.of_only {ps : List Part} {s t : State} (h : Only ps s t) (hp : Part.host ∉ ps) : HostButQueues s t :=
  .of_host (h.2 .host hp)

theorem HostButQueues.trans {s t u : State} (h : HostButQueues s t) (k : HostButQueues t u) : HostButQueues s u := by
  unfold HostButQueues at *
  rw [k, h]

theorem HostButQueues.foldl {α : Type} (f : State → α → State) (hf : ∀ u a, HostButQueues u (f u a)) (l : List α) (s : State) :
    HostButQueues s (l.foldl f s) := by
  induction l generalizing s with
  | nil => exact .refl s
  | cons a l ih => exact (hf s a).trans (ih _)

theorem postRec_hostButQueues (s : State) (q sess : Nat) (r : ORec) : HostButQueues s (postRec s q sess r) := by
  unfold postRec
  dsimp only
  split
  · split
    · rfl
    · exact .of_only ((State.pulse_keeps ..).cut (qs := [.regs, .evts]) (by decide)
        ((State.bump_keeps ..).mono (by decide))).only (by decide)
  · exact .refl s

theorem abortInst_hostButQueues (s : State) (num fault : Nat) (task : Option Nat) :
    HostButQueues s (abortInst s num fault task) := by
  unfold abortInst
  split
  · exact .refl s
  · next i _ =>
    have hstopped := ((State.pulse_keeps _ slotDrvr 3).cut (by decide)
      ((State.bump_keeps _ slotDrvr 0x04C 1).cut (by decide) (stopInst_keeps s i fault))).only
    exact (HostButQueues.of_only hstopped (by decide)).trans (postRec_hostButQueues ..)

theorem abortWhere_hostButQueues (s : State) (fault : Nat) (p : Inst → Bool) : HostButQueues s (abortWhere s fault p) :=
  HostButQueues.foldl _ (fun u (i : Inst) => abortInst_hostButQueues u i.num fault none) _ s

/-! ### Closing (R358) -/

/-- A session that has closed, and whose number is not free yet. -/
abbrev Session.closed (x : Session) : Session := { x with closing := true }

theorem detachQueues_hostButQueues (s : State) (l : List Nat) : HostButQueues s (l.foldl detachQueue s) :=
  HostButQueues.foldl detachQueue (fun _ _ => rfl) l s

/-- What a session leaves in the tables of the host port and the Drover when it closes, before its instances are aborted. -/
abbrev closedTables (s : State) (n : Nat) (x : Session) : State :=
  (((queuesOf s n).foldl detachQueue s).mapHost (fun h => { h with
    sessions := Tbl.set h.sessions n x.closed
    cmds := h.cmds.filter (fun c => c.sess != n)
    xfer := match h.xfer with
      | some t => if t.cmd.sess = n then none else some t
      | none => none })).mapDrover (fun d => { d with
    cmds := d.cmds.filter (fun c => c.sess != n), templates := d.templates.filter (fun t => t.2.sess != n) })

/-- An open session closes: its tables are left, and then its instances are aborted, which records SESSION_CLOSED if there are any. -/
theorem closeSession_open {s : State} {n : Nat} {x : Session} (cause : Nat) (hx : Tbl.get s.host.sessions n = some x)
    (hopen : x.closing = false) : closeSession s cause n
      = abortWhere (if (closedTables s n x).drover.insts.any (boundTo n)
          then hostFault (closedTables s n x) 0x0701 (some n) none (w32 n) (w32 cause) else closedTables s n x) 0x0701 (boundTo n) := by
  unfold closeSession
  rw [hx]
  dsimp only
  rw [if_neg (by simp [hopen])] <;> rfl

theorem closeSession_closing {s : State} {n : Nat} {x : Session} (cause : Nat) (hx : Tbl.get s.host.sessions n = some x)
    (hclosing : x.closing = true) : closeSession s cause n = s := by
  unfold closeSession
  rw [hx]
  exact if_pos hclosing

theorem closeSession_absent {s : State} {n : Nat} (cause : Nat) (hx : Tbl.get s.host.sessions n = none) :
    closeSession s cause n = s := by
  unfold closeSession
  rw [hx]

theorem closeSession_hostButQueues {s : State} {n : Nat} {x : Session} (cause : Nat) (hx : Tbl.get s.host.sessions n = some x)
    (hopen : x.closing = false) : HostButQueues (closedTables s n x) (closeSession s cause n) := by
  rw [closeSession_open cause hx hopen]
  refine HostButQueues.trans ?_ (abortWhere_hostButQueues ..)
  split
  · exact .of_only (State.fault_keeps ..).only (by decide)
  · exact .refl _

/-- Of a session that closes, keys stay, and the session alone is closed. -/
theorem closeSession_tables (s : State) (cause n : Nat) : (closeSession s cause n).host.keys = s.host.keys
    ∧ ∀ m, Tbl.get (closeSession s cause n).host.sessions m
        = if m = n then (Tbl.get s.host.sessions n).map Session.closed else Tbl.get s.host.sessions m := by
  have hsame : ∀ x : Option Session, x.map Session.closed = x → Tbl.get s.host.sessions n = x → closeSession s cause n = s →
      (closeSession s cause n).host.keys = s.host.keys ∧ ∀ m, Tbl.get (closeSession s cause n).host.sessions m
        = if m = n then (Tbl.get s.host.sessions n).map Session.closed else Tbl.get s.host.sessions m := by
    intro x hx hget hclose
    refine ⟨by rw [hclose], fun m => ?_⟩
    rw [hclose, hget, hx]
    split
    · next hm => rw [hm, hget]
    · rfl
  cases hget : Tbl.get s.host.sessions n with
  | none => exact hget ▸ hsame none rfl hget (closeSession_absent cause hget)
  | some x =>
    cases hclosing : x.closing with
    | true =>
      have hclosed : some x.closed = some x := by
        cases x
        cases hclosing
        rfl
      exact hget ▸ hsame (some x) hclosed hget (closeSession_closing cause hget hclosing)
    | false =>
      have hbut := closeSession_hostButQueues cause hget hclosing
      have hdetach : ((queuesOf s n).foldl detachQueue s).host = _ := detachQueues_hostButQueues s (queuesOf s n)
      rw [show (closeSession s cause n).host = _ from hbut]
      dsimp only [State.mapDrover_host, State.mapHost_host]
      rw [hdetach]
      refine ⟨rfl, fun m => ?_⟩
      dsimp only
      split
      · next hm => rw [hm, Tbl.get_set_same]; rfl
      · next hm => rw [Tbl.get_set_other _ _ hm]

/-- Of sessions that close one after another, keys stay, and those listed are closed. -/
theorem closeSessions_tables (cause : Nat) (l : List Nat) (s : State) :
    (l.foldl (fun u n => closeSession u cause n) s).host.keys = s.host.keys
    ∧ ∀ m, Tbl.get (l.foldl (fun u n => closeSession u cause n) s).host.sessions m
        = if m ∈ l then (Tbl.get s.host.sessions m).map Session.closed else Tbl.get s.host.sessions m := by
  induction l generalizing s with
  | nil => exact ⟨rfl, fun m => (if_neg (List.not_mem_nil)).symm⟩
  | cons n l ih =>
    obtain ⟨hkeys, hget⟩ := closeSession_tables s cause n
    obtain ⟨hkeys', hget'⟩ := ih (closeSession s cause n)
    refine ⟨hkeys'.trans hkeys, fun m => ?_⟩
    rw [List.foldl_cons, hget', hget]
    by_cases hm : m = n
    · subst hm
      cases Tbl.get s.host.sessions m <;> simp
    · simp [hm]

/-- The numbers of the sessions that satisfy a test. -/
abbrev sessionsWhere (s : State) (p : Session → Bool) : List Nat := (s.host.sessions.filter (fun x => p x.2)).map (·.1)

theorem closeWhere_keys (s : State) (cause : Nat) (p : Session → Bool) : (closeWhere s cause p).host.keys = s.host.keys :=
  (closeSessions_tables cause (sessionsWhere s p) s).1

theorem closeWhere_closes {s : State} {n : Nat} {x : Session} {p : Session → Bool} (cause : Nat)
    (hx : Tbl.get s.host.sessions n = some x) (hp : p x = true) :
    Tbl.get (closeWhere s cause p).host.sessions n = some x.closed := by
  have hmem : n ∈ sessionsWhere s p := List.mem_map.mpr ⟨(n, x), List.mem_filter.mpr ⟨Tbl.mem_of_get hx, hp⟩, rfl⟩
  unfold closeWhere
  rw [(closeSessions_tables cause (sessionsWhere s p) s).2, if_pos hmem, hx]
  rfl

theorem closeWhere_leaves {s : State} {n : Nat} {x : Session} {p : Session → Bool} (cause : Nat)
    (hx : Tbl.get s.host.sessions n = some x) (hp : p x = false) (hone : ∀ y, (n, y) ∈ s.host.sessions → y = x) :
    Tbl.get (closeWhere s cause p).host.sessions n = some x := by
  have hmem : n ∉ sessionsWhere s p := by
    rintro hn
    obtain ⟨⟨m, y⟩, hy, rfl⟩ := List.mem_map.mp hn
    obtain ⟨hin, hpy⟩ := List.mem_filter.mp hy
    rw [hone y hin, hp] at hpy
    cases hpy
  unfold closeWhere
  rw [(closeSessions_tables cause (sessionsWhere s p) s).2, if_neg hmem, hx]

end Sys2Proof.Machine

/-! PROOFS. KEY_SEL_WRITE and KEY_SEL_ERASE: a slot takes its key, or keeps the one it has (13_host_sessions.md R352, R353). -/

namespace Sys2Proof.Machine

/-- KEY_SEL with the slot of a write. -/
abbrev keySelected (s : State) (v : Word) : State := s.setReg slotHost 0x800 (v &&& 0x1F)

theorem bits_keySelected (s : State) (v : Word) : bits ((keySelected s v).reg slotHost 0x800) 4 0 = bits v 4 0 := by
  rw [State.reg_setReg_same]
  exact bits_and_mask v (by decide)

theorem keyAttr_keySelected (s : State) (v : Word) : (keySelected s.fromHost v).reg slotHost 0x804 = s.reg slotHost 0x804 := by
  rw [State.reg_setReg_other _ _ (by decide), fromHost_reg _ _ (by decide)]

theorem exec_keySelWrite {s : State} {f : FuncId} (h : Reaches s f (regAt slotHost 0x800)) {v : Word} (hv : bit v 30 = false) :
    exec (.keySelWrite f v) s = .next (keyWrite (keySelected s.fromHost v)) := by
  have hwrite : keySelWrite s.fromHost (v ||| 0x80000000) = keyWrite (keySelected s.fromHost v) := by
    unfold keySelWrite
    dsimp only
    rw [bit_or_other v (i := 30) (by decide), hv, bit_or_strobe v (by decide), and_mask_or v (by decide), if_neg (by decide),
      if_pos rfl]
  exact (congrArg Host.Outcome.next (barWrite_reaches h _)).trans (congrArg Host.Outcome.next hwrite)

theorem exec_keySelErase {s : State} {f : FuncId} (h : Reaches s f (regAt slotHost 0x800)) {v : Word} (hv : bit v 31 = false) :
    exec (.keySelErase f v) s = .next (keyErase (keySelected s.fromHost v)) := by
  have hwrite : keySelWrite s.fromHost (v ||| 0x40000000) = keyErase (keySelected s.fromHost v) := by
    unfold keySelWrite
    dsimp only
    rw [bit_or_other v (i := 31) (by decide), hv, bit_or_strobe v (by decide), and_mask_or v (by decide), if_pos rfl,
      if_neg (by decide)]
  exact (congrArg Host.Outcome.next (barWrite_reaches h _)).trans (congrArg Host.Outcome.next hwrite)

/-! ### KEY_DATA -/

theorem clearKeyData_only (s : State) : Only [.regs] s (clearKeyData s) := (clearKeyData_keeps s).only

theorem clearKeyData_reg (s : State) {k : Nat} (h : k < 8) : (clearKeyData s).reg slotHost (0x820 + 4 * k) = 0 :=
  reg_foldl_setReg slotHost (fun k => 0x820 + 4 * k) 0 _ _ s (.inr ⟨k, List.mem_range.mpr h, rfl⟩)

theorem keyData_keySelected (s : State) (v : Word) :
    keyData (keySelected s.fromHost v) = wordsBytes ((List.range 8).map (fun k => s.reg slotHost (0x820 + 4 * k))) := by
  unfold keyData
  refine congrArg wordsBytes (List.map_congr_left fun k hk => ?_)
  have hk8 := List.mem_range.mp hk
  rw [State.reg_setReg_other _ _ (by unfold regAt; omega), fromHost_reg _ _ (by omega)]

/-! ### A slot that is rewritten -/

/-- The tables of the host port with another key in a slot, and without the slot's nonces. -/
abbrev slotRewritten (s : State) (slot : Nat) (k : Option KeySlot) : State :=
  s.mapHost (fun h => { h with
    keys := match k with
      | some v => Tbl.set h.keys slot v
      | none => Tbl.del h.keys slot
    nonces := h.nonces.filter (fun n => n.2.slot != slot) })

theorem keyAttrBad_iff (a : Word) : keyAttrBad a = true
    ↔ (bits a 23 16 = 0 ∧ bit a 24 = true) ∨ ((bit a 25 = true ∨ bit a 26 = true) ∧ bits a 7 0 ≠ 0) := by
  simp [keyAttrBad]

section
variable {s : State} {slot : Nat} (hsel : bits (s.reg slotHost 0x800) 4 0 = slot)
include hsel

theorem keyWrite_slot0 (h : slot = 0) : keyWrite s = s.strobeRefused slotHost 0x800 31 3 := by
  unfold keyWrite
  rw [hsel]
  exact if_pos h

theorem keyErase_slot0 (h : slot = 0) : keyErase s = s.strobeRefused slotHost 0x800 30 3 := by
  unfold keyErase
  rw [hsel]
  exact if_pos h

theorem keyErase_empties (h : slot ≠ 0) : keyErase s = closeWhere (slotRewritten s slot none) 2 (fun x => x.slot == slot) := by
  unfold keyErase
  rw [hsel]
  exact if_neg h

variable {a : Word} (ha : s.reg slotHost 0x804 = a)
include ha

theorem keyWrite_bad (h : slot ≠ 0) (hbad : keyAttrBad a = true) :
    keyWrite s = hostFault (clearKeyData s) 0x0704 none none (w32 slot) a := by
  unfold keyWrite
  rw [hsel, ha]
  exact (if_neg h).trans (if_pos hbad)

theorem keyWrite_taken (h : slot ≠ 0) (hgood : ¬keyAttrBad a = true) : keyWrite s = closeWhere
    (slotRewritten (clearKeyData s) slot (some ⟨keyData s, bits a 23 16, BitVec.ofNat 3 (bits a 26 24), bits a 7 0⟩)) 2
    (fun x => x.slot == slot) := by
  unfold keyWrite
  rw [hsel, ha]
  exact (if_neg h).trans (if_neg hgood)

end

/-- Settles O49: with KEY_SEL stored, WRITE and ERASE are `keyWrite` and `keyErase` of its slot, which close the slot's sessions. -/
theorem keySlotsKeepTheirRules : Obligations.KeySlotsKeepTheirRules := by
  refine ⟨?write, ?erase, fun s cause n p x => ⟨closeWhere_keys s cause p, closeWhere_closes cause, closeWhere_leaves cause⟩⟩
  case write =>
    rintro s _ f v _ hr hv rfl rfl
    have hsel := bits_keySelected s.fromHost v
    have hattr := keyAttr_keySelected s v
    have hclear := clearKeyData_only (keySelected s.fromHost v)
    have hhost : (clearKeyData (keySelected s.fromHost v)).host = s.host := (hclear.2 .host (by decide)).trans (fromHost_host s)
    rw [exec_keySelWrite hr hv]
    refine ⟨fun h0 hbad => ?_, fun h0 hgood => ?_, fun h0 => congrArg Host.Outcome.next (keyWrite_slot0 hsel h0)⟩
    · exact ⟨_, congrArg Host.Outcome.next (keyWrite_bad hsel hattr h0 ((keyAttrBad_iff _).mpr hbad)), hclear,
        congrArg HostPort.keys hhost, fun k hk => clearKeyData_reg _ hk⟩
    · refine ⟨slotRewritten _ _ _, congrArg Host.Outcome.next (keyWrite_taken hsel hattr h0 ((keyAttrBad_iff _).not.mpr hgood)), ?_, ?_, ?_, ?_, ?_, ?_⟩
      · exact ((State.mapHost_keeps _ _).cut (by decide) ((clearKeyData_keeps _).mono (by decide))).only
      · rw [State.mapHost_host, hhost, keyData_keySelected]
        exact Tbl.get_set_same ..
      · intro k hk
        rw [State.mapHost_host, hhost]
        exact Tbl.get_set_other _ _ hk
      · rw [State.mapHost_host, hhost]
      · rw [State.mapHost_host, hhost]
      · intro k hk
        rw [reg_of_regs (State.mapHost_regs ..), clearKeyData_reg _ hk]
  case erase =>
    rintro s _ f v hr hv rfl
    have hsel := bits_keySelected s.fromHost v
    have hhost : (keySelected s.fromHost v).host = s.host := fromHost_host s
    rw [exec_keySelErase hr hv]
    refine ⟨fun h0 => ?_, fun h0 => congrArg Host.Outcome.next (keyErase_slot0 hsel h0)⟩
    refine ⟨slotRewritten _ _ _, congrArg Host.Outcome.next (keyErase_empties hsel h0), (State.mapHost_keeps _ _).only, ?_, ?_, ?_, ?_⟩
    · exact Tbl.get_del_same _ _
    · intro k hk
      rw [State.mapHost_host, hhost]
      exact Tbl.get_del_other _ hk
    · rw [State.mapHost_host, hhost]
    · rw [State.mapHost_host, hhost]

end Sys2Proof.Machine

/-! PROOFS. CHALLENGE and ANSWER: nonces, locks, and the session that opens (13_host_sessions.md R354 to R357). -/

namespace Sys2Proof.Machine

/-! ### Banked registers -/

@[simp] theorem bankReg_set_same (s : State) (f off : Nat) (v : Word) : (s.setBank_ f off v).bank_ f off = v :=
  Tbl.getD_set_same ..

theorem bankReg_set_other (s : State) {f off g n : Nat} (v : Word) (h : g * 0x100 + n ≠ f * 0x100 + off) :
    (s.setBank_ f off v).bank_ g n = s.bank_ g n :=
  Tbl.getD_set_other _ _ _ h

theorem bankReg_of_host {s t : State} (h : t.host.banked = s.host.banked) (f off : Nat) : t.bank_ f off = s.bank_ f off := by
  unfold State.bank_
  rw [h]

@[simp] theorem fromHost_bankReg (s : State) (f off : Nat) : s.fromHost.bank_ f off = s.bank_ f off :=
  bankReg_of_host (by rw [fromHost_host]) f off

/-- The registers of a function's nonce hold its words. -/
theorem bankReg_foldl_words (f : Nat) (ws : List Word) (s : State) (l : List Nat) {k : Nat} (h : k ∈ l) :
    (l.foldl (fun u k => u.setBank_ f (0x048 + 4 * k) (wd ws k)) s).bank_ f (0x048 + 4 * k) = wd ws k := by
  have hkeep : ∀ (l : List Nat) (s : State), s.bank_ f (0x048 + 4 * k) = wd ws k →
      (l.foldl (fun u k => u.setBank_ f (0x048 + 4 * k) (wd ws k)) s).bank_ f (0x048 + 4 * k) = wd ws k := by
    intro l
    induction l with
    | nil => exact fun s hs => hs
    | cons j l ih =>
      intro s hs
      refine ih _ ?_
      by_cases hj : k = j
      · rw [← hj]
        exact bankReg_set_same ..
      · rw [bankReg_set_other s _ (by omega), hs]
  induction l generalizing s with
  | nil => cases h
  | cons j l ih =>
    rcases List.mem_cons.mp h with rfl | h
    · exact hkeep l _ (bankReg_set_same ..)
    · exact ih _ h

/-! ### What the checks of a challenge and an answer look at -/

/-- `t` agrees with `s` in the time and in what the host port knows of keys, locks, failures and sessions. -/
structure SameSessions (s t : State) : Prop where
  now : t.now = s.now
  keys : t.host.keys = s.host.keys
  fails : t.host.fails = s.host.fails
  locks : t.host.locks = s.host.locks
  sessions : t.host.sessions = s.host.sessions

section
variable {s t : State} (h : SameSessions s t)
include h

theorem SameSessions.ac : t.ac = s.ac := congrArg (· / 40) h.now

theorem SameSessions.slotLocked (slot : Nat) : slotLocked t slot = slotLocked s slot := by
  unfold Machine.slotLocked
  rw [h.locks, h.ac]

theorem SameSessions.failCount (slot : Nat) : failCount t slot = failCount s slot := by
  unfold Machine.failCount
  rw [h.locks, h.fails, h.ac]

theorem SameSessions.freeSession : freeSession t = freeSession s := by
  unfold Machine.freeSession
  rw [h.sessions]

theorem SameSessions.openSession (n : Nat) : openSession t n = openSession s n := by
  unfold Machine.openSession
  rw [h.sessions]

theorem SameSessions.isMgmt (f : FuncId) : isMgmt t f = isMgmt s f := by
  unfold Machine.isMgmt sessionsOf
  rw [h.sessions]

theorem SameSessions.challengeCode (f slot : Nat) (p : BitVec 3) : challengeCode t f slot p = challengeCode s f slot p := by
  unfold Machine.challengeCode
  rw [h.keys, h.freeSession, h.slotLocked]

end

theorem SameSessions.refl (s : State) : SameSessions s s := ⟨rfl, rfl, rfl, rfl, rfl⟩

theorem fromHost_sameSessions (s : State) : SameSessions s s.fromHost :=
  ⟨fromHost_now s, by rw [fromHost_host], by rw [fromHost_host], by rw [fromHost_host], by rw [fromHost_host]⟩

/-! ### SESS_REQ -/

/-- SESS_REQ with the slot and the privileges of a write. -/
abbrev reqStored (s : State) (f : FuncId) (v : Word) : State := s.fromHost.setBank_ f.val 0x040 (v &&& 0x00071F00)

/-- The function's nonce is used up. -/
abbrev nonceUsed (s : State) (f : Nat) : State := s.mapHost (fun h => { h with nonces := Tbl.del h.nonces f })

theorem reqStored_sameSessions (s : State) (f : FuncId) (v : Word) : SameSessions s (reqStored s f v) :=
  have h := fromHost_sameSessions s
  ⟨h.now, h.keys, h.fails, h.locks, h.sessions⟩

theorem reqSlot_reqStored (s : State) (f : FuncId) (v : Word) : reqSlot ((reqStored s f v).bank_ f.val 0x040) = bits v 12 8 := by
  rw [bankReg_set_same]
  exact bits_and_mask v (by decide)

theorem reqPriv_reqStored (s : State) (f : FuncId) (v : Word) :
    reqPriv ((reqStored s f v).bank_ f.val 0x040) = BitVec.ofNat 3 (bits v 18 16) := by
  rw [bankReg_set_same]
  exact congrArg (BitVec.ofNat 3) (bits_and_mask v (by decide))

section
variable {s : State} {f : FuncId} {v : Word} (h : Reaches s f (regAt slotHost 0x040))
include h

theorem exec_challenge (hv : bit v 30 = false) : exec (.challenge f v) s = .next (challenge (reqStored s f v) f.val) := by
  have hwrite : sessReqWrite s.fromHost f (v ||| 0x80000000) = challenge (reqStored s f v) f.val := by
    unfold sessReqWrite
    dsimp only
    rw [bit_or_other v (i := 30) (by decide), hv, bit_or_strobe v (by decide), and_mask_or v (by decide), if_pos rfl,
      if_neg (by decide)]
  exact (congrArg Host.Outcome.next (barWrite_reaches h _)).trans (congrArg Host.Outcome.next hwrite)

theorem exec_answer (hv : bit v 31 = false) : exec (.answer f v) s = .next (answer (reqStored s f v) f.val) := by
  have hwrite : sessReqWrite s.fromHost f (v ||| 0x40000000) = answer (reqStored s f v) f.val := by
    unfold sessReqWrite
    dsimp only
    rw [bit_or_other v (i := 31) (by decide), hv, bit_or_strobe v (by decide), and_mask_or v (by decide), if_pos rfl,
      if_neg (by decide)]
  exact (congrArg Host.Outcome.next (barWrite_reaches h _)).trans (congrArg Host.Outcome.next hwrite)

end

/-! ### CHALLENGE (R354) -/

/-- The four words of the nonce that a challenge draws. -/
abbrev freshWords (s : State) : List Word := (List.range 4).map (fun k => Config.nonceWord s.free k)

/-- The nonce of a function, live and in its bank. -/
abbrev nonceIssued (s : State) (f slot : Nat) (priv : BitVec 3) : State :=
  (List.range 4).foldl (fun u k => u.setBank_ f (0x048 + 4 * k) (wd (freshWords s) k))
    (((nonceUsed s f).mapHost (fun h => { h with nonces := Tbl.set h.nonces f ⟨freshWords s, slot, priv, s.ac⟩ })).draw 1)

theorem challenge_refused {s : State} {f slot c : Nat} {priv : BitVec 3} (hslot : reqSlot (s.bank_ f 0x040) = slot)
    (hpriv : reqPriv (s.bank_ f 0x040) = priv) (h : challengeCode s f slot priv = some c) :
    challenge s f = sessStatus (nonceUsed s f) f c 0 := by
  unfold challenge
  dsimp only
  rw [hslot, hpriv, h]

theorem challenge_issues {s : State} {f slot : Nat} {priv : BitVec 3} (hslot : reqSlot (s.bank_ f 0x040) = slot)
    (hpriv : reqPriv (s.bank_ f 0x040) = priv) (h : challengeCode s f slot priv = none) :
    challenge s f = sessStatus (nonceIssued s f slot priv) f 2 0 := by
  unfold challenge
  dsimp only
  rw [hslot, hpriv, h]

/-- `t` differs from `s` in banked registers at most. -/
def ButBanked (s t : State) : Prop := t = { s with host := { s.host with banked := t.host.banked } }

theorem foldl_banked (f : Nat) (off : Nat → Nat) (w : Nat → Word) (l : List Nat) (s : State) :
    ButBanked s (l.foldl (fun u k => u.setBank_ f (off k) (w k)) s) := by
  induction l generalizing s with
  | nil => rfl
  | cons k l ih =>
    have hrest := ih (s.setBank_ f (off k) (w k))
    unfold ButBanked at *
    rw [List.foldl_cons, hrest]
    rfl

theorem nonceIssued_banked (s : State) (f slot : Nat) (priv : BitVec 3) : ButBanked
    (((nonceUsed s f).mapHost (fun h => { h with nonces := Tbl.set h.nonces f ⟨freshWords s, slot, priv, s.ac⟩ })).draw 1)
    (nonceIssued s f slot priv) :=
  foldl_banked f _ _ _ _

theorem nonceIssued_word (s : State) (f slot : Nat) (priv : BitVec 3) {k : Nat} (hk : k < 4) :
    (nonceIssued s f slot priv).bank_ f (0x048 + 4 * k) = Config.nonceWord s.free k := by
  rw [bankReg_foldl_words f _ _ _ (List.mem_range.mpr hk)]
  unfold wd freshWords
  rw [List.getD_eq_getElem _ _ (by simpa using hk), List.getElem_map, List.getElem_range]

/-! ### ANSWER (R355 to R357) -/

/-- A wrong answer is counted for its slot, and shown (R356). -/
abbrev failCounted (s : State) (f slot : Nat) : State :=
  sessStatus ((s.mapHost (fun h => { h with
    fails := Tbl.set h.fails slot (failCount s slot + 1), locks := Tbl.del h.locks slot })).pulse slotHost 1) f 4 0

/-- The eighth locks the slot for 60 s. -/
abbrev slotShut (s : State) (f slot : Nat) : State :=
  ((failCounted s f slot).mapHost (fun h => { h with locks := Tbl.set h.locks slot (s.ac + 3000000000) })).pulse slotHost 0

theorem answerFails_counts {s : State} {f slot : Nat} (h : failCount s slot < 7) : answerFails s f slot = failCounted s f slot :=
  if_pos (by omega)

theorem answerFails_locks {s : State} {f slot : Nat} (h : 7 ≤ failCount s slot) :
    answerFails s f slot = mandatory (slotShut s f slot) 0x1007 [w32 slot, w32 f] :=
  if_neg (by omega)

theorem slotLocked_unlocked {s : State} {slot : Nat} (h : Tbl.get s.host.locks slot = none) : slotLocked s slot = false := by
  unfold slotLocked
  rw [h]

theorem failCount_unlocked {s : State} {slot : Nat} (h : Tbl.get s.host.locks slot = none) :
    failCount s slot = Tbl.getD s.host.fails slot 0 := by
  unfold failCount
  rw [h]

/-- A session opens, and its slot's count is cleared (R357). -/
abbrev sessionOpened (s : State) (f x : Nat) (n : Nonce) (k : KeySlot) : State :=
  sessStatus (s.mapHost (fun h => { h with
    sessions := Tbl.set h.sessions x ⟨f, n.priv, n.slot, k.tenant, false⟩, fails := Tbl.del h.fails n.slot
    locks := Tbl.del h.locks n.slot })) f 3 x

theorem answer_none {s : State} {f : Nat} (h : Tbl.get s.host.nonces f = none) : answer s f = sessStatus (nonceUsed s f) f 6 0 := by
  unfold answer
  rw [h]

section
variable {s : State} {f : Nat} {n : Nonce} (hn : Tbl.get s.host.nonces f = some n)
include hn

theorem answer_stale (h : n.at_ + 50000000 ≤ s.ac) : answer s f = sessStatus (nonceUsed s f) f 6 0 := by
  unfold answer
  rw [hn]
  exact if_pos h

variable (hfresh : s.ac < n.at_ + 50000000)
include hfresh

theorem answer_locked (h : slotLocked s n.slot = true) : answer s f = sessStatus (nonceUsed s f) f 5 0 := by
  unfold answer
  rw [hn]
  exact (if_neg (by omega)).trans (if_pos h)

variable (hopen : slotLocked s n.slot = false)
include hopen

theorem answer_wrong (h : ∀ k, Tbl.get s.host.keys n.slot = some k → hmac256 k.key (challengeMsg f n) ≠ answerBytes s f) :
    answer s f = answerFails (nonceUsed s f) f n.slot := by
  unfold answer
  rw [hn]
  dsimp only
  rw [if_neg (by omega), if_neg (by simp [hopen])]
  cases hk : Tbl.get s.host.keys n.slot with
  | none => rfl
  | some k => exact if_pos (h k hk)

variable {k : KeySlot} (hk : Tbl.get s.host.keys n.slot = some k)
  (hright : hmac256 k.key (challengeMsg f n) = answerBytes s f)
include hk hright

theorem answer_full (h : freeSession s = none) : answer s f = sessStatus (nonceUsed s f) f 7 0 := by
  unfold answer
  rw [hn]
  dsimp only
  rw [if_neg (by omega), if_neg (by simp [hopen]), hk]
  dsimp only
  rw [if_neg (by simp [hright]), h]

theorem answer_opens {x : Nat} (h : freeSession s = some x) : answer s f = sessionOpened (nonceUsed s f) f x n k := by
  unfold answer
  rw [hn]
  dsimp only
  rw [if_neg (by omega), if_neg (by simp [hopen]), hk]
  dsimp only
  rw [if_neg (by simp [hright]), h]

end

/-! ### Nonces that lapse, locks that end, numbers that are free -/

theorem nonceLapse_none {s : State} {f : Nat} (h : Tbl.get s.host.nonces f = none) : nonceLapse s f = s := by
  unfold nonceLapse
  rw [h]

theorem nonceLapse_some {s : State} {f : Nat} {n : Nonce} (h : Tbl.get s.host.nonces f = some n) :
    nonceLapse s f = if n.at_ + 50000000 ≤ s.ac then nonceUsed s f else s := by
  unfold nonceLapse
  rw [h]

theorem lockEnd_none {s : State} {k : Nat} (h : Tbl.get s.host.locks k = none) : lockEnd s k = s := by
  unfold lockEnd
  rw [h]

theorem lockEnd_some {s : State} {k e : Nat} (h : Tbl.get s.host.locks k = some e) : lockEnd s k
    = if s.ac < e then s else s.mapHost (fun h => { h with locks := Tbl.del h.locks k, fails := Tbl.del h.fails k }) := by
  unfold lockEnd
  rw [h]

/-- The number of a new session is the lowest that none has (R354). -/
theorem freeSession_lowest {s : State} {x : Nat} (h : freeSession s = some x) :
    Tbl.get s.host.sessions x = none ∧ x < 256 ∧ ∀ y < x, Tbl.get s.host.sessions y ≠ none := by
  unfold freeSession at h
  obtain ⟨hfree, i, hi, hx, hbelow⟩ := List.find?_eq_some_iff_getElem.mp h
  have hxi : i = x := by simpa using hx
  subst hxi
  refine ⟨Option.isNone_iff_eq_none.mp hfree, by simpa using hi, fun y hy hnone => ?_⟩
  have hfalse := hbelow y hy
  rw [List.getElem_range, hnone] at hfalse
  cases hfalse

end Sys2Proof.Machine

/-! PROOFS. CLOSE, ATTACH and DETACH, and what a session leaves when it closes (13_host_sessions.md R358, R359, R363). -/

namespace Sys2Proof.Machine

/-! ### SESS_CTL -/

/-- SESS_CTL with the session and the queue of a write. -/
abbrev ctlStored (s : State) (f : FuncId) (v : Word) : State := s.fromHost.setBank_ f.val 0x080 (v &&& 0x03FF00FF)

theorem ctlStored_sameSessions (s : State) (f : FuncId) (v : Word) : SameSessions s (ctlStored s f v) :=
  have h := fromHost_sameSessions s
  ⟨h.now, h.keys, h.fails, h.locks, h.sessions⟩

theorem ctlSession_ctlStored (s : State) (f : FuncId) (v : Word) :
    ctlSession ((ctlStored s f v).bank_ f.val 0x080) = bits v 7 0 := by
  rw [bankReg_set_same]
  exact bits_and_mask v (by decide)

theorem ctlQueue_ctlStored (s : State) (f : FuncId) (v : Word) : ctlQueue ((ctlStored s f v).bank_ f.val 0x080) = bits v 25 16 := by
  rw [bankReg_set_same]
  exact bits_and_mask v (by decide)

theorem queue_of_host {s t : State} (h : t.host.queues = s.host.queues) (q : Nat) : t.queue q = s.queue q := by
  unfold State.queue
  rw [h]

theorem queue_ctlStored (s : State) (f : FuncId) (v : Word) (q : Nat) : (ctlStored s f v).queue q = s.queue q :=
  queue_of_host (congrArg HostPort.queues (fromHost_host s)) q

theorem inQueueRange_ctlStored (s : State) (f : FuncId) (v : Word) (q : Nat) :
    inQueueRange (ctlStored s f v) f.val q = inQueueRange s f.val q := by
  have hreg : (ctlStored s f v).reg slotHost (0x200 + 4 * f.val) = s.reg slotHost (0x200 + 4 * f.val) :=
    fromHost_reg s slotHost (by omega)
  unfold inQueueRange funcQueues
  rw [hreg]

section
variable {s : State} {f : FuncId} {v : Word} (h : Reaches s f (regAt slotHost 0x080))
include h

theorem exec_close (h30 : bit v 30 = false) (h29 : bit v 29 = false) :
    exec (.close f v) s = .next (closeCmd (ctlStored s f v) f) := by
  have hwrite : sessCtlWrite s.fromHost f (v ||| 0x80000000) = closeCmd (ctlStored s f v) f := by
    unfold sessCtlWrite
    dsimp only
    rw [bit_or_other v (i := 30) (by decide), h30, bit_or_other v (i := 29) (by decide), h29, bit_or_strobe v (by decide),
      and_mask_or v (by decide), if_pos rfl, if_neg (by decide), if_neg (by decide)]
  exact (congrArg Host.Outcome.next (barWrite_reaches h _)).trans (congrArg Host.Outcome.next hwrite)

theorem exec_attach (h31 : bit v 31 = false) (h29 : bit v 29 = false) :
    exec (.attach f v) s = .next (attachCmd (ctlStored s f v) f) := by
  have hwrite : sessCtlWrite s.fromHost f (v ||| 0x40000000) = attachCmd (ctlStored s f v) f := by
    unfold sessCtlWrite
    dsimp only
    rw [bit_or_other v (i := 31) (by decide), h31, bit_or_other v (i := 29) (by decide), h29, bit_or_strobe v (by decide),
      and_mask_or v (by decide), if_neg (by decide), if_pos rfl, if_neg (by decide)]
  exact (congrArg Host.Outcome.next (barWrite_reaches h _)).trans (congrArg Host.Outcome.next hwrite)

theorem exec_detach (h31 : bit v 31 = false) (h30 : bit v 30 = false) :
    exec (.detach f v) s = .next (detachCmd (ctlStored s f v) f) := by
  have hwrite : sessCtlWrite s.fromHost f (v ||| 0x20000000) = detachCmd (ctlStored s f v) f := by
    unfold sessCtlWrite
    dsimp only
    rw [bit_or_other v (i := 31) (by decide), h31, bit_or_other v (i := 30) (by decide), h30, bit_or_strobe v (by decide),
      and_mask_or v (by decide), if_pos rfl, if_neg (by decide), if_neg (by decide)]
  exact (congrArg Host.Outcome.next (barWrite_reaches h _)).trans (congrArg Host.Outcome.next hwrite)

end

/-! ### CLOSE (R358) -/

section
variable {s : State} {f : FuncId} {n : Nat} (hsel : ctlSession (s.bank_ f.val 0x080) = n)
include hsel

theorem closeCmd_absent (h : openSession s n = none) : closeCmd s f = ctlStatus s f.val 1 := by
  unfold closeCmd
  dsimp only
  rw [hsel, h]

theorem closeCmd_open {x : Session} (h : openSession s n = some x) : closeCmd s f
    = if x.func = f.val ∨ isMgmt s f = true then ctlStatus (closeSession s 0 n) f.val 0 else ctlStatus s f.val 1 := by
  unfold closeCmd
  dsimp only
  rw [hsel, h]

/-! ### ATTACH (R359) -/

theorem attachCmd_absent (h : openSession s n = none) : attachCmd s f = ctlStatus s f.val 1 := by
  unfold attachCmd
  dsimp only
  rw [hsel, h]

theorem attachCmd_open {x : Session} {q : Nat} (hq : ctlQueue (s.bank_ f.val 0x080) = q) (h : openSession s n = some x) :
    attachCmd s f = if x.func ≠ f.val then ctlStatus s f.val 1
      else if inQueueRange s f.val q = false then ctlStatus s f.val 2
      else if (s.queue q).sess ≠ none then ctlStatus s f.val 3
      else ctlStatus (s.setQueue q { s.queue q with sess := some n, func := f.val }) f.val 0 := by
  unfold attachCmd
  dsimp only
  rw [hsel, hq, h]
  simp only [Bool.not_eq_true', Option.isSome_iff_ne_none]

end

/-! ### DETACH (R359, R363) -/

section
variable {s : State} {f : FuncId} {q : Nat} (hq : ctlQueue (s.bank_ f.val 0x080) = q)
include hq

theorem detachCmd_range (h : inQueueRange s f.val q = false) : detachCmd s f = ctlStatus s f.val 2 := by
  unfold detachCmd
  dsimp only
  rw [hq]
  exact if_pos (by simp [h])

theorem detachCmd_foreign (h : inQueueRange s f.val q = true)
    (hne : ∀ n x, (s.queue q).sess = some n → openSession s n = some x → x.func ≠ f.val) :
    detachCmd s f = ctlStatus s f.val 1 := by
  unfold detachCmd
  dsimp only
  rw [hq, if_neg (by simp [h])]
  cases hs : (s.queue q).sess with
  | none => rfl
  | some n =>
    refine if_pos ?_
    cases ho : openSession s n with
    | none => simp
    | some x => simpa using hne n x hs ho

theorem detachCmd_own (h : inQueueRange s f.val q = true) {n : Nat} {x : Session} (hs : (s.queue q).sess = some n)
    (ho : openSession s n = some x) (hx : x.func = f.val) : detachCmd s f
      = if (s.queue q).enable = true ∨ (s.queue q).draining = true ∨ 0 < (s.queue q).inflight ∨ (s.queue q).staged ≠ []
        then ctlStatus s f.val 4 else ctlStatus (detachQueue s q) f.val 0 := by
  unfold detachCmd
  dsimp only
  rw [hq, if_neg (by simp [h]), hs]
  dsimp only
  rw [ho, if_neg (by simp [hx])]
  simp only [Bool.or_eq_true, decide_eq_true_eq, Bool.not_eq_true', List.isEmpty_eq_false_iff, or_assoc]

end

/-! ### What a session leaves (R358) -/

theorem openSession_some {s : State} {n : Nat} {x : Session} (h : openSession s n = some x) :
    Tbl.get s.host.sessions n = some x ∧ x.closing = false := by
  unfold openSession at h
  split at h
  · next y hy =>
    split at h
    · cases h
    · next hopen =>
      cases h
      exact ⟨hy, by simpa using hopen⟩
  · cases h

theorem openSession_closed {s : State} {n : Nat} {x : Session} (h : Tbl.get s.host.sessions n = some x.closed) :
    openSession s n = none := by
  unfold openSession
  rw [h]
  rfl

/-- The queues after several are detached: those named are gone. -/
theorem get_detachQueues (l : List Nat) (s : State) (q : Nat) : Tbl.get (l.foldl detachQueue s).host.queues q
    = if q ∈ l then none else Tbl.get s.host.queues q := by
  induction l generalizing s with
  | nil => exact (if_neg List.not_mem_nil).symm
  | cons n l ih =>
    rw [List.foldl_cons, ih]
    by_cases hq : q = n
    · subst hq
      simp [detachQueue]
    · simp [detachQueue, hq, Tbl.get_del_other _ hq]

theorem mem_queuesOf {s : State} {n q : Nat} : q ∈ queuesOf s n ↔ ∃ v, (q, v) ∈ s.host.queues ∧ v.sess = some n := by
  simp [queuesOf]

/-- No queue of a session that has closed is left. -/
theorem detached_sess (s : State) (n q : Nat) : (((queuesOf s n).foldl detachQueue s).queue q).sess ≠ some n := by
  unfold State.queue Tbl.getD
  rw [get_detachQueues]
  split
  · simp [HQueue.idle]
  · next hq =>
    cases hget : Tbl.get s.host.queues q with
    | none => simp [HQueue.idle]
    | some v => exact fun hv => hq (mem_queuesOf.mpr ⟨v, Tbl.mem_of_get hget, hv⟩)

theorem Tbl.get_of_mem {α : Type} {t : Tbl α} {i : Nat} {v : α} (hone : (t.map (·.1)).Nodup) (h : (i, v) ∈ t) :
    Tbl.get t i = some v := by
  induction t with
  | nil => cases h
  | cons p t ih =>
    obtain ⟨k, w⟩ := p
    obtain ⟨hk, hrest⟩ := List.nodup_cons.mp hone
    rcases List.mem_cons.mp h with heq | h
    · cases heq
      exact if_pos rfl
    · have hne : k ≠ i := fun hki => hk (hki ▸ List.mem_map.mpr ⟨(i, v), h, rfl⟩)
      exact (if_neg hne).trans (ih hrest h)

/-- A queue of another session, or of none, stays. -/
theorem detached_others {s : State} {n q : Nat} (hone : (s.host.queues.map (·.1)).Nodup) (h : (s.queue q).sess ≠ some n) :
    ((queuesOf s n).foldl detachQueue s).queue q = s.queue q := by
  have hq : q ∉ queuesOf s n := by
    rw [mem_queuesOf]
    rintro ⟨v, hmem, hv⟩
    unfold State.queue Tbl.getD at h
    rw [Tbl.get_of_mem hone hmem] at h
    exact h hv
  unfold State.queue Tbl.getD
  rw [get_detachQueues, if_neg hq]

theorem abortWhere_none {s : State} (fault : Nat) {p : Inst → Bool} (h : ∀ i ∈ s.drover.insts, p i = false) :
    abortWhere s fault p = s := by
  unfold abortWhere
  rw [List.filter_eq_nil_iff.mpr (by simpa using h)]
  rfl

/-- Of a session without instances the tables go, and nothing else. -/
theorem closeSession_idle {s : State} {n : Nat} {x : Session} (cause : Nat) (h : openSession s n = some x)
    (hfree : ∀ i ∈ s.drover.insts, i.sess ≠ n) : closeSession s cause n = closedTables s n x := by
  obtain ⟨hx, hopen⟩ := openSession_some h
  have hdetach : Keeps [.host] s ((queuesOf s n).foldl detachQueue s) := Keeps.foldl _ _ detachQueue_keeps (.refl _ s)
  have hdrover : ((queuesOf s n).foldl detachQueue s).drover = s.drover := hdetach.only.2 .drover (by decide)
  have hinsts : (closedTables s n x).drover.insts = s.drover.insts := by
    show ((queuesOf s n).foldl detachQueue s).drover.insts = s.drover.insts
    rw [hdrover]
  have hbound : ∀ i ∈ (closedTables s n x).drover.insts, boundTo n i = false := by
    rw [hinsts]
    exact fun i hi => beq_false_of_ne (hfree i hi)
  rw [closeSession_open cause hx hopen, if_neg (by simpa using hbound), abortWhere_none _ hbound]

theorem closedTables_spec (s : State) (n : Nat) (x : Session) : Only [.drover, .host] s (closedTables s n x)
    ∧ openSession (closedTables s n x) n = none ∧ (∀ q, ((closedTables s n x).queue q).sess ≠ some n)
    ∧ ((s.host.queues.map (·.1)).Nodup → ∀ q, (s.queue q).sess ≠ some n → (closedTables s n x).queue q = s.queue q)
    ∧ (closedTables s n x).drover.cmds = s.drover.cmds.filter (fun c => c.sess != n)
    ∧ (closedTables s n x).host.cmds = s.host.cmds.filter (fun c => c.sess != n)
    ∧ (closedTables s n x).drover.templates = s.drover.templates.filter (fun p => p.2.sess != n) := by
  have hdetach : Keeps [.host] s ((queuesOf s n).foldl detachQueue s) := Keeps.foldl _ _ detachQueue_keeps (.refl _ s)
  have hdrover := hdetach.only.2 .drover (by decide)
  have hhost : ((queuesOf s n).foldl detachQueue s).host = _ := detachQueues_hostButQueues s (queuesOf s n)
  refine ⟨?_, openSession_closed (Tbl.get_set_same ..), detached_sess s n, fun hone q => detached_others hone, ?_, ?_, ?_⟩
  · exact ((State.mapDrover_keeps _ _).cut (by decide) <| (State.mapHost_keeps _ _).cut (by decide) <|
      hdetach.mono (by decide)).only
  · exact congrArg (fun d : Drover => d.cmds.filter (fun c => c.sess != n)) hdrover
  · exact congrArg (fun d : HostPort => d.cmds.filter (fun c => c.sess != n)) hhost
  · exact congrArg (fun d : Drover => d.templates.filter (fun p => p.2.sess != n)) hdrover

/-! ### SESSION_NUMBER_FREE (R358) -/

theorem sessionNumberFree_frees {s : State} {n : Nat} {x : Session} (hx : Tbl.get s.host.sessions n = some x)
    (hc : x.closing = true) (hfree : ∀ i ∈ s.drover.insts, i.sess ≠ n) :
    sessionNumberFree s n = s.mapHost (fun h => { h with sessions := Tbl.del h.sessions n }) := by
  unfold sessionNumberFree
  rw [hx]
  exact if_pos (by simpa [hc, boundTo] using hfree)

theorem sessionNumberFree_waits {s : State} {n : Nat} (h : ∀ x, Tbl.get s.host.sessions n = some x →
    x.closing = false ∨ ∃ i ∈ s.drover.insts, i.sess = n) : sessionNumberFree s n = s := by
  unfold sessionNumberFree
  cases hx : Tbl.get s.host.sessions n with
  | none => rfl
  | some x =>
    refine if_neg ?_
    rcases h x hx with hopen | hbound
    · simp [hopen]
    · simpa [boundTo] using fun _ => hbound

/-! ### The cases of a challenge and an answer -/

section
variable {s : State} {f : FuncId} {v : Word} (h : Reaches s f (regAt slotHost 0x040))
include h

theorem exec_challenge_issues (hv : bit v 30 = false)
    (hcode : challengeCode s f.val (bits v 12 8) (BitVec.ofNat 3 (bits v 18 16)) = none) :
    ∃ t, exec (.challenge f v) s = .next t ∧ Only [.host, .free] (nonceUsed (reqStored s f v) f.val) t ∧ t.free = s.free + 1
      ∧ Tbl.get t.host.nonces f.val = some ⟨freshWords s, bits v 12 8, BitVec.ofNat 3 (bits v 18 16), s.ac⟩
      ∧ (∀ k < 4, t.bank_ f.val (0x048 + 4 * k) = Config.nonceWord s.free k) ∧ t.bank_ f.val 0x044 = 0x20000000
      ∧ t.host.sessions = s.host.sessions ∧ t.host.keys = s.host.keys := by
  have hsame := reqStored_sameSessions s f v
  have hfree : (reqStored s f v).free = s.free := fromHost_free s
  have hbut : nonceIssued (reqStored s f v) f.val (bits v 12 8) (BitVec.ofNat 3 (bits v 18 16)) = _ :=
    nonceIssued_banked _ _ _ _
  refine ⟨_, (exec_challenge h hv).trans (congrArg Host.Outcome.next (challenge_issues (reqSlot_reqStored s f v)
    (reqPriv_reqStored s f v) ((hsame.challengeCode ..).trans hcode))), ?_, ?_, ?_, ?_, ?_, ?_, ?_⟩
  · rw [hbut]
    exact ((State.mapHost_keeps _ _).cut (by decide) <| (Keeps.host _ _).cut (by decide) <| (Keeps.free _ _).cut (by decide) <|
      (State.mapHost_keeps _ _).mono (by decide)).only
  · rw [hbut]
    exact congrArg (· + 1) hfree
  · rw [hbut]
    refine (Tbl.get_set_same ..).trans ?_
    simp only [freshWords, hfree, hsame.ac]
  · intro k hk
    rw [sessStatus, bankReg_set_other _ _ (by omega), nonceIssued_word _ _ _ _ hk, hfree]
  · exact bankReg_set_same ..
  · rw [hbut]
    exact hsame.sessions
  · rw [hbut]
    exact hsame.keys

end

/-- What a wrong answer leaves: it is counted, and the slot is not locked. -/
theorem failCounted_spec (s : State) (f slot : Nat) : Only [.evts, .host] s (failCounted s f slot)
    ∧ (failCounted s f slot).bank_ f 0x044 = 0x40000000 ∧ failCount (failCounted s f slot) slot = failCount s slot + 1
    ∧ slotLocked (failCounted s f slot) slot = false ∧ (failCounted s f slot).host.sessions = s.host.sessions := by
  have hlocks : Tbl.get (failCounted s f slot).host.locks slot = none := Tbl.get_del_same ..
  refine ⟨?_, bankReg_set_same .., ?_, slotLocked_unlocked hlocks, rfl⟩
  · exact ((State.setBank__keeps ..).cut (by decide) <| (State.pulse_keeps ..).cut (by decide) <|
      (State.mapHost_keeps _ _).mono (by decide)).only
  · rw [failCount_unlocked hlocks]
    exact Tbl.getD_set_same ..

theorem slotShut_spec (s : State) (f slot : Nat) : Only [.evts, .host] s (slotShut s f slot)
    ∧ (slotShut s f slot).bank_ f 0x044 = 0x40000000 ∧ Tbl.get (slotShut s f slot).host.locks slot = some (s.ac + 3000000000)
    ∧ (slotShut s f slot).host.sessions = s.host.sessions :=
  ⟨((State.pulse_keeps ..).cut (by decide) <| (State.mapHost_keeps ..).cut (by decide) <|
    (State.setBank__keeps ..).cut (by decide) <| (State.pulse_keeps ..).cut (by decide) <|
      (State.mapHost_keeps _ _).mono (by decide)).only, bankReg_set_same (State.pulse ..) f 0x044 _, Tbl.get_set_same .., rfl⟩

/-- What a right answer leaves: the session is open, and its slot's count is cleared. -/
theorem sessionOpened_spec (s : State) (f x : Nat) (n : Nonce) (k : KeySlot) : Only [.host] s (sessionOpened s f x n k)
    ∧ Tbl.get (sessionOpened s f x n k).host.sessions x = some ⟨f, n.priv, n.slot, k.tenant, false⟩
    ∧ (∀ y, y ≠ x → Tbl.get (sessionOpened s f x n k).host.sessions y = Tbl.get s.host.sessions y)
    ∧ failCount (sessionOpened s f x n k) n.slot = 0
    ∧ (sessionOpened s f x n k).bank_ f 0x044 = 0x30000000#32 ||| fld x 16 := by
  have hlocks : Tbl.get (sessionOpened s f x n k).host.locks n.slot = none := Tbl.get_del_same ..
  refine ⟨?_, Tbl.get_set_same .., fun y hy => Tbl.get_set_other _ _ hy, ?_, bankReg_set_same ..⟩
  · exact ((State.setBank__keeps ..).cut (by decide) (State.mapHost_keeps _ _)).only
  · rw [failCount_unlocked hlocks]
    exact congrArg (Option.getD · 0) (Tbl.get_del_same ..)

/-- Settles O50: each access is one of `challenge`, `answer`, `closeCmd`, `attachCmd` and `detachCmd`, whose cases are lemmas; the
checks look at sessions, keys and locks, which the write of the request leaves as they were. -/
theorem sessionsOpenAndClose : Obligations.SessionsOpenAndClose := by
  refine ⟨?challenge, ?answer, fun s x => freeSession_lowest, ?lapse, ?lock, ?control, ?closed, ?number⟩
  case challenge =>
    rintro s _ f v _ _ hr hv rfl rfl rfl
    refine ⟨fun c hc => ?_, exec_challenge_issues hr hv⟩
    exact (exec_challenge hr hv).trans (congrArg Host.Outcome.next (challenge_refused (reqSlot_reqStored s f v)
      (reqPriv_reqStored s f v) (((reqStored_sameSessions s f v).challengeCode ..).trans hc)))
  case answer =>
    rintro s _ f v hr hv rfl
    have hsame := reqStored_sameSessions s f v
    have hnonces : (reqStored s f v).host.nonces = s.host.nonces := by
      show s.fromHost.host.nonces = _
      rw [fromHost_host]
    have hused : SameSessions s (nonceUsed (reqStored s f v) f.val) :=
      ⟨hsame.now, hsame.keys, hsame.fails, hsame.locks, hsame.sessions⟩
    have hbytes : answerBytes (reqStored s f v) f.val = answerBytes s f.val := by
      unfold answerBytes
      refine congrArg wordsBytes (List.map_congr_left fun k hk => ?_)
      rw [bankReg_set_other _ _ (by omega), fromHost_bankReg]
    rw [exec_answer hr hv, ← hnonces, ← hsame.ac, ← hbytes, ← hsame.keys, ← hsame.freeSession]
    refine ⟨fun hn => congrArg _ (answer_none hn), fun n hn => ?_⟩
    rw [← hsame.slotLocked, ← hsame.failCount]
    refine ⟨fun h => congrArg _ (answer_stale hn h), fun hf h => congrArg _ (answer_locked hn hf h), fun hf ho hwrong => ?wrong,
      fun k x hf ho hk hright hx => ?opens, fun k hf ho hk hright hx => congrArg _ (answer_full hn hf ho hk hright hx)⟩
    case wrong =>
      have hcount : failCount (nonceUsed (reqStored s f v) f.val) n.slot = failCount (reqStored s f v) n.slot := by
        rw [hused.failCount, hsame.failCount]
      have hanswer := answer_wrong hn hf ho hwrong
      rw [← hcount, hanswer]
      refine ⟨fun h7 => ?_, fun h7 => ?_⟩
      · obtain ⟨honly, hstatus, hfails, hlocked, hsess⟩ := failCounted_spec (nonceUsed (reqStored s f v) f.val) f.val n.slot
        exact ⟨_, congrArg _ (answerFails_counts h7), honly, hstatus, hfails, hlocked, hsess.trans hused.sessions⟩
      · obtain ⟨honly, hstatus, hlocks, hsess⟩ := slotShut_spec (nonceUsed (reqStored s f v) f.val) f.val n.slot
        exact ⟨slotShut _ _ _, congrArg _ (answerFails_locks h7), honly, hstatus, hlocks, hsess.trans hused.sessions⟩
    case opens =>
      obtain ⟨honly, hopen, hothers, hfails, hstatus⟩ :=
        sessionOpened_spec (nonceUsed (reqStored s f v) f.val) f.val x n k
      exact ⟨_, congrArg _ (answer_opens hn hf ho hk hright hx), honly, hopen,
        fun y hy => by rw [hothers y hy, hused.sessions], hfails, hstatus⟩
  case lapse =>
    refine fun s f => ⟨fun h => congrArg _ (nonceLapse_none h), fun n h => ⟨fun hle => ?_, fun hlt => ?_⟩⟩
    · exact congrArg _ ((nonceLapse_some h).trans (if_pos hle))
    · exact congrArg _ ((nonceLapse_some h).trans (if_neg (by omega)))
  case lock =>
    refine fun s k => ⟨fun h => congrArg _ (lockEnd_none h), fun e h => ⟨fun hlt => ?_, fun hle => ?_⟩⟩
    · exact congrArg _ ((lockEnd_some h).trans (if_pos hlt))
    · exact congrArg _ ((lockEnd_some h).trans (if_neg (by omega)))
  case control =>
    rintro s _ f v hr rfl
    have hsame := ctlStored_sameSessions s f v
    have hsel := ctlSession_ctlStored s f v
    have hq := ctlQueue_ctlStored s f v
    simp only [← queue_ctlStored s f v, ← inQueueRange_ctlStored s f v, ← hsame.openSession, ← hsame.isMgmt]
    refine ⟨fun h30 h29 => ?close, fun h31 h29 x hx => ?attach, fun h31 h29 hnone => ?attachNone, fun h31 h30 => ?detach⟩
    case close =>
      rw [exec_close hr h30 h29]
      refine ⟨fun h => congrArg _ (closeCmd_absent hsel h), fun x hx => ⟨fun h => ?_, fun h1 h2 => ?_⟩⟩
      · exact congrArg _ ((closeCmd_open hsel hx).trans (if_pos h))
      · exact congrArg _ ((closeCmd_open hsel hx).trans (if_neg (by simp [h1, h2])))
    case attach =>
      rw [exec_attach hr h31 h29, attachCmd_open hsel hq hx]
      refine ⟨fun h => congrArg _ (if_pos h), fun h h2 => ?_, fun h h2 h3 => ?_, fun h h2 h3 => ?_⟩
      · rw [if_neg (by simp [h]), if_pos h2]
      · rw [if_neg (by simp [h]), if_neg (by simp [h2]), if_pos h3]
      · rw [if_neg (by simp [h]), if_neg (by simp [h2]), if_neg (by simp [h3])]
    case attachNone => rw [exec_attach hr h31 h29, attachCmd_absent hsel hnone]
    case detach =>
      rw [exec_detach hr h31 h30]
      refine ⟨fun h => congrArg _ (detachCmd_range hq h), fun h => ⟨fun hne => congrArg _ (detachCmd_foreign hq h hne), ?_⟩⟩
      intro n x hs ho hx
      refine ⟨fun hbusy => ?_, fun h1 h2 h3 h4 => ?_⟩
      · exact congrArg _ ((detachCmd_own hq h hs ho hx).trans (if_pos hbusy))
      · exact congrArg _ ((detachCmd_own hq h hs ho hx).trans (if_neg (by simp [h1, h2, h3, h4])))
  case closed => exact fun s cause n x hx hfree => ⟨_, closeSession_idle cause hx hfree, closedTables_spec s n x⟩
  case number =>
    exact fun s n => ⟨fun x hx hc hfree => congrArg _ (sessionNumberFree_frees hx hc hfree),
      fun h => congrArg _ (sessionNumberFree_waits h)⟩

end Sys2Proof.Machine

/-! PROOFS. Queues: doorbells, the fetch of commands, Q_CTRL and completion records (13_host_sessions.md R360 to R363). -/

namespace Sys2Proof.Machine

/-! ### SQ_DOORBELL (R360) -/

theorem exec_sqDoorbell {s : State} {f : FuncId} {q : QueueId} (h : Reaches s f (regAt (slotQueue q.val) 0x060)) (v : Word) :
    exec (.sqDoorbell f q v) s = .next (doorbell s.fromHost q.val v) :=
  (registerWrite_page (by decide) h v).trans (congrArg Host.Outcome.next (pageWrite_queue _ _ _ _ _ (by decide) (by decide)))

theorem doorbell_beyond {s : State} {q : Nat} {v : Word} (h : sqSize s q ≤ v.toNat) :
    doorbell s q v = s.pulse (slotQueue q) 3 := if_pos h

theorem doorbell_disabled {s : State} {q : Nat} {v : Word} (h : v.toNat < sqSize s q) (he : (s.queue q).enable = false) :
    doorbell s q v = s.setReg (slotQueue q) 0x060 v :=
  (if_neg (by omega)).trans (if_pos (by simp [he]))

/-- The arrivals kept after a doorbell: those at or before its entry, and its own unless the entry is visible already. -/
def bellsKept (s : State) (q : Nat) (v : Word) : List (Nat × Nat) :=
  let keep := (s.queue q).bells.filter (fun b => decide (sqDist s q b.1 ≤ sqDist s q v.toNat))
  if keep.any (fun b => b.1 == v.toNat) || sqDist s q v.toNat == 0 then keep else keep ++ [(v.toNat, s.ac)]

theorem doorbell_enabled {s : State} {q : Nat} {v : Word} (h : v.toNat < sqSize s q) (he : (s.queue q).enable = true) :
    doorbell s q v = startWake (countEvent ((s.setReg (slotQueue q) 0x060 v).setQueue q
      { s.queue q with bells := bellsKept s q v }) slotHost 3 1) 26 :=
  (if_neg (by omega)).trans (if_neg (by simp [he]))

theorem mem_bellsKept {s : State} {q : Nat} {v : Word} {b : Nat × Nat} (h : b ∈ bellsKept s q v) :
    b ∈ (s.queue q).bells ∨ b = (v.toNat, s.ac) := by
  unfold bellsKept at h
  dsimp only at h
  split at h
  · exact .inl (List.mem_of_mem_filter h)
  · rcases List.mem_append.mp h with h | h
    · exact .inl (List.mem_of_mem_filter h)
    · exact .inr (List.mem_singleton.mp h)

theorem bellsKept_first {s : State} {q : Nat} {v : Word} (h : (s.queue q).bells = []) (hd : sqDist s q v.toNat ≠ 0) :
    bellsKept s q v = [(v.toNat, s.ac)] := by
  unfold bellsKept
  simp [h, hd]

/-! ### COMMAND_FETCH (R361) -/

/-- The queue once its entry at SQ_HEAD has been taken. -/
abbrev fetched (s : State) (q : Nat) : State :=
  ((s.fromHost.setReg (slotQueue q) 0x064 (w32 ((sqHead s q + 1) % sqSize s q))).bump (slotQueue q) 0x074 1).setQueue q
    { s.queue q with
      bells := match (s.queue q).bells with
        | b :: t => if b.1 % sqSize s q = (sqHead s q + 1) % sqSize s q then t else b :: t
        | [] => []
      inflight := (s.queue q).inflight + 1 }

theorem commandFetch_unattached {s : State} {q : Nat} (h : (s.queue q).sess = none) (w0 w1 w2 w3 : Word) :
    commandFetch s q w0 w1 w2 w3 = s := by
  unfold commandFetch
  dsimp only
  rw [h]

section
variable {s : State} {q n : Nat} (hs : (s.queue q).sess = some n)
include hs

theorem commandFetch_waits (h : hostUp s = false ∨ fetchable s q = false ∨ bellFirst s q = false) (w0 w1 w2 w3 : Word) :
    commandFetch s q w0 w1 w2 w3 = s := by
  unfold commandFetch
  dsimp only
  rw [hs]
  refine if_neg ?_
  rcases h with h | h | h <;> simp [h]

theorem commandFetch_takes (hup : hostUp s = true) (hf : fetchable s q = true) (hb : bellFirst s q = true) (w0 w1 w2 w3 : Word) :
    commandFetch s q w0 w1 w2 w3 = placeCmd (fetched s q) ⟨q, n, w0, w1, w2, w3, headBell (s.queue q), false⟩ := by
  simp only [commandFetch, fetched, hs, hup, hf, hb, Bool.and_self, ↓reduceIte] <;> rfl

end

theorem fetched_inflight (s : State) (q : Nat) : ((fetched s q).queue q).inflight = (s.queue q).inflight + 1 := by
  rw [State.queue_setQueue_same]

theorem fetched_staged (s : State) (q : Nat) : ((fetched s q).queue q).staged = (s.queue q).staged := by
  rw [State.queue_setQueue_same]

theorem fetched_only (s : State) (q : Nat) : Only [.regs, .host] s (fetched s q) := by
  have hbump : ∀ u : State, Keeps [.regs] u (u.bump (slotQueue q) 0x074 1) := fun u => (State.bump_keeps ..)
  exact ((State.setQueue_keeps ..).cut (by decide) <| (hbump _).cut (by decide) <| (State.setReg_keeps ..).cut (by decide) <|
    (State.fromHost_keeps s).mono (by decide)).only

theorem fetched_head (s : State) (q : Nat) :
    (fetched s q).reg (slotQueue q) 0x064 = w32 ((sqHead s q + 1) % sqSize s q) := by
  have hne : regAt (slotQueue q) 0x064 ≠ regAt (slotQueue q) 0x074 := by
    unfold regAt
    omega
  rw [reg_of_regs (State.setQueue_regs ..), bump_reg_other _ _ (by decide) hne, State.reg_setReg_same]

theorem fetched_other (s : State) (q : Nat) {x : Nat} (h : x ≠ q) : (fetched s q).queue x = s.queue x := by
  have hbump := (State.bump_keeps (s.fromHost.setReg (slotQueue q) 0x064 (w32 ((sqHead s q + 1) % sqSize s q)))
    (slotQueue q) 0x074 1).only.2 .host (by decide)
  rw [State.queue_setQueue_other _ _ h]
  refine queue_of_host ?_ x
  rw [show State.host _ = _ from hbump]
  exact congrArg (fun h : HostPort => h.queues) (fromHost_host s)

/-! ### Where a command goes (R361; 15_startup_module_edge.md R401) -/

section
variable (u : State) {c : Cmd}

theorem placeCmd_drover (h1 : 1 ≤ c.op) (h4 : c.op ≤ 4) :
    placeCmd u c = if u.power.failed = true then refuse u c 1 else u.mapDrover (fun d => { d with cmds := d.cmds ++ [c] }) :=
  if_pos ⟨h1, h4⟩

theorem placeCmd_context (h1 : 0x81 ≤ c.op) (h4 : c.op ≤ 0x83) :
    placeCmd u c = u.mapDrover (fun d => { d with cmds := d.cmds ++ [c] }) :=
  (if_neg (by omega)).trans (if_pos ⟨h1, h4⟩)

theorem placeCmd_transfer (h : c.op = 0x84 ∨ c.op = 0x85) : placeCmd u c = u.mapHost (fun h => { h with cmds := h.cmds ++ [c] }) :=
  (if_neg (by omega)).trans ((if_neg (by omega)).trans (if_pos h))

theorem placeCmd_unknown (h : c.op = 0 ∨ (4 < c.op ∧ c.op < 0x81) ∨ 0x85 < c.op) : placeCmd u c = refuse u c 1 :=
  (if_neg (by omega)).trans ((if_neg (by omega)).trans (if_neg (by omega)))

end

/-! ### Q_CTRL (R360, R363) -/

theorem exec_qCtrlWrite {s : State} {f : FuncId} {q : QueueId} (h : Reaches s f (regAt (slotQueue q.val) 0x044)) (v : Word) :
    exec (.qCtrlWrite f q v) s = .next (qCtrl s.fromHost q.val v) :=
  (registerWrite_page (by decide) h v).trans (congrArg Host.Outcome.next (pageWrite_queue _ _ _ _ _ (by decide) (by decide)))

/-- Q_CTRL with the vector of a write, and the sizes `sizes`. -/
abbrev ctrlWith (s : State) (q : Nat) (sizes v : Word) : State :=
  s.setReg (slotQueue q) 0x044 ((sizes &&& 0x0000FF00) ||| (v &&& 0x1F))

/-- The four indices of a queue at 0. -/
abbrev indicesZeroed (s : State) (q : Nat) : State :=
  [0x060, 0x064, 0x068, 0x06C].foldl (fun u o => u.setReg (slotQueue q) o 0) s

section
variable {s : State} {q : Nat} {v : Word}

theorem qCtrl_enables (h31 : bit v 31 = true) (he : (s.queue q).enable = false) (hd : (s.queue q).draining = false) :
    qCtrl s q v = (indicesZeroed (ctrlWith s q v v) q).setQueue q { s.queue q with enable := true, bells := [] } := by
  unfold qCtrl
  dsimp only
  rw [he, hd, if_pos h31]
  rfl

theorem qCtrl_draining (h31 : bit v 31 = true) (hd : (s.queue q).draining = true) :
    qCtrl s q v = (ctrlWith s q (s.reg (slotQueue q) 0x044) v).pulse (slotQueue q) 3 := by
  unfold qCtrl
  dsimp only
  rw [hd, if_pos h31, if_pos rfl, Bool.not_true, Bool.and_false]
  rfl

theorem qCtrl_disables (h31 : bit v 31 = false) (he : (s.queue q).enable = true) :
    qCtrl s q v = (ctrlWith s q (s.reg (slotQueue q) 0x044) v).setQueue q
      { s.queue q with enable := false, bells := [], draining := outstanding s q } := by
  unfold qCtrl
  dsimp only
  rw [he, if_neg (by simp [h31]), if_pos rfl]
  rfl

theorem qCtrl_disabled (h31 : bit v 31 = false) (he : (s.queue q).enable = false) (hd : (s.queue q).draining = false) :
    qCtrl s q v = ctrlWith s q v v := by
  unfold qCtrl
  dsimp only
  rw [he, hd, if_neg (by simp [h31])]
  rfl

end

theorem and_ctrl (v : Word) : (v &&& 0x0000FF00) ||| (v &&& 0x1F) = v &&& 0x0000FF1F :=
  (BitVec.and_or_distrib_left (x := v) (y := 0x0000FF00) (z := 0x1F)).symm

theorem indicesZeroed_ctrl (s : State) (q : Nat) : (indicesZeroed s q).reg (slotQueue q) 0x044 = s.reg (slotQueue q) 0x044 := by
  have hne : ∀ o, o ∈ [0x060, 0x064, 0x068, 0x06C] → regAt (slotQueue q) 0x044 ≠ regAt (slotQueue q) o := by
    simp [regAt]
  simp only [indicesZeroed, List.foldl_cons, List.foldl_nil]
  rw [State.reg_setReg_other _ _ (hne _ (by decide)), State.reg_setReg_other _ _ (hne _ (by decide)),
    State.reg_setReg_other _ _ (hne _ (by decide)), State.reg_setReg_other _ _ (hne _ (by decide))]

theorem indicesZeroed_zero (s : State) (q : Nat) {o : Nat} (h : o ∈ [0x060, 0x064, 0x068, 0x06C]) :
    (indicesZeroed s q).reg (slotQueue q) o = 0 :=
  reg_foldl_setReg (slotQueue q) (fun o => o) 0 o _ s (.inr ⟨o, h, rfl⟩)

theorem outstanding_fromHost (s : State) (q : Nat) : outstanding s.fromHost q = outstanding s q := by
  unfold outstanding State.queue
  rw [fromHost_host, fromHost_drover]

/-! ### QUEUE_DRAINED (R363) -/

theorem queueDrained_ends {s : State} {q : Nat} (hd : (s.queue q).draining = true) (ho : outstanding s q = false) :
    queueDrained s q = s.setQueue q { s.queue q with draining := false } :=
  if_pos (by simp [hd, ho])

theorem queueDrained_waits {s : State} {q : Nat} (h : (s.queue q).draining = false ∨ outstanding s q = true) :
    queueDrained s q = s := by
  refine if_neg ?_
  rcases h with h | h <;> simp [h]

/-! ### COMPLETION_WRITE (R362) -/

theorem cqSize_le (s : State) (q : Nat) : cqSize s q ≤ 2 ^ 16 := by
  unfold cqSize ringSize
  exact Nat.pow_le_pow_right (by decide) (by omega)

/-- `t` has the completion ring of queue `q` as `s` has it: its place, its size, and the function it belongs to. -/
structure SameRing (q : Nat) (s t : State) : Prop where
  ctrl : t.reg (slotQueue q) 0x044 = s.reg (slotQueue q) 0x044
  base : queueAddr t q 0x050 = queueAddr s q 0x050
  func : (t.queue q).func = (s.queue q).func

theorem SameRing.cqSize {q : Nat} {s t : State} (h : SameRing q s t) : cqSize t q = cqSize s q := by
  unfold Machine.cqSize
  rw [h.ctrl]

/-- A record that has been written: the ring's tail moves on, and the record leaves for the host. -/
theorem writeRec_spec (s : State) (q : Nat) (r : ORec) : Only [.regs, .out] s (writeRec q s r) ∧ SameRing q s (writeRec q s r)
    ∧ (writeRec q s r).reg (slotQueue q) 0x06C = w32 (((s.reg (slotQueue q) 0x06C).toNat + 1) % cqSize s q)
    ∧ (∀ o, o < 0xC00 → o ≠ 0x06C → (writeRec q s r).reg (slotQueue q) o = s.reg (slotQueue q) o)
    ∧ (writeRec q s r).out = s.out ++ [.hostWrite (s.queue q).func
        (queueAddr s q 0x050 + 16 * (s.reg (slotQueue q) 0x06C).toNat) (wordsBytes r.words)] := by
  have hsent := (State.toHost_keeps s (.hostWrite (s.queue q).func
    (queueAddr s q 0x050 + 16 * (s.reg (slotQueue q) 0x06C).toNat) (wordsBytes r.words))).only
  have hreg : ∀ o, o < 0xC00 → o ≠ 0x06C → (writeRec q s r).reg (slotQueue q) o = s.reg (slotQueue q) o := by
    intro o ho hne
    unfold writeRec
    dsimp only
    rw [State.reg_setReg_other _ _ (by unfold regAt; omega)]
    exact countEvent_reg _ _ _ _ _ ho
  have hout : (writeRec q s r).out = _ := (countEvent_keeps _ slotHost 2 1).only.2 .out (by decide)
  refine ⟨?_, ⟨hreg _ (by decide) (by decide), ?_, ?_⟩, State.reg_setReg_same .., hreg, hout⟩
  · exact ((State.setReg_keeps ..).cut (by decide) (State.toHost_keeps ..)).only
  · unfold queueAddr
    rw [hreg _ (by decide) (by decide), hreg _ (by decide) (by decide)]
  · exact congrArg HQueue.func (queue_of_host (congrArg HostPort.queues (hsent.2 .host (by decide))) q)

/-- Several records one after another: the tail wraps in the ring, and each goes to the place of its own. -/
theorem writeRecs_spec (q : Nat) (l : List ORec) (s : State) (htail : (s.reg (slotQueue q) 0x06C).toNat < cqSize s q) :
    Only [.regs, .out] s (l.foldl (writeRec q) s) ∧ SameRing q s (l.foldl (writeRec q) s)
    ∧ ((l.foldl (writeRec q) s).reg (slotQueue q) 0x06C).toNat
        = ((s.reg (slotQueue q) 0x06C).toNat + l.length) % cqSize s q
    ∧ (∀ o, o < 0xC00 → o ≠ 0x06C → (l.foldl (writeRec q) s).reg (slotQueue q) o = s.reg (slotQueue q) o)
    ∧ (l.foldl (writeRec q) s).out = s.out ++ l.zipIdx.map (fun r => Out.hostWrite (s.queue q).func
        (queueAddr s q 0x050 + 16 * (((s.reg (slotQueue q) 0x06C).toNat + r.2) % cqSize s q)) (wordsBytes r.1.words)) := by
  induction l generalizing s with
  | nil =>
    exact ⟨Only.refl _ s, ⟨rfl, rfl, rfl⟩, (Nat.mod_eq_of_lt htail).symm, fun _ _ _ => rfl, (List.append_nil _).symm⟩
  | cons r l ih =>
    obtain ⟨honly, hring, htail', hreg, hout⟩ := writeRec_spec s q r
    have hsize := cqSize_le s q
    have hpos : 0 < cqSize s q := by omega
    have hmod := Nat.mod_lt ((s.reg (slotQueue q) 0x06C).toNat + 1) hpos
    have hnext : ((writeRec q s r).reg (slotQueue q) 0x06C).toNat = ((s.reg (slotQueue q) 0x06C).toNat + 1) % cqSize s q := by
      rw [htail', w32, BitVec.toNat_ofNat, Nat.mod_eq_of_lt (by omega)]
    obtain ⟨honly', hring', htail'', hreg', hout'⟩ := ih (writeRec q s r) (by rw [hnext, hring.cqSize]; exact hmod)
    rw [List.foldl_cons]
    refine ⟨honly.trans honly', ⟨hring'.ctrl.trans hring.ctrl, hring'.base.trans hring.base, hring'.func.trans hring.func⟩, ?_,
      fun o ho hne => (hreg' o ho hne).trans (hreg o ho hne), ?_⟩
    · rw [htail'', hnext, hring.cqSize, Nat.mod_add_mod, List.length_cons, Nat.add_right_comm, Nat.add_assoc]
    · rw [hout', hout, hring.func, hring.base, hring.cqSize, hnext, List.append_assoc, List.zipIdx_cons', List.map_cons,
        List.map_map]
      refine congrArg (s.out ++ ·) (congrArg₂ List.cons ?_ (List.map_congr_left fun x _ => ?_))
      · rw [Nat.add_zero, Nat.mod_eq_of_lt htail]
      · dsimp only [Function.comp, Prod.map, id]
        rw [Nat.mod_add_mod, Nat.add_right_comm, Nat.add_assoc]

theorem completionWrite_idle {s : State} {q : Nat}
    (h : hostUp s = false ∨ (s.queue q).sess = none ∨ min (s.queue q).staged.length (cqFree s q) = 0) : completionWrite s q = s := by
  refine if_neg ?_
  rcases h with h | h | h <;> simp [h]

/-- The batch of staged records leaves the staging. -/
abbrev unstaged (s : State) (q k : Nat) : State := s.setQueue q { s.queue q with staged := (s.queue q).staged.drop k }

/-- The records of the batch are in the ring. -/
abbrev batchWritten (s : State) (q k : Nat) : State := ((s.queue q).staged.take k).foldl (writeRec q) (unstaged s q k)

theorem completionWrite_writes {s : State} {q k : Nat} (hk : k = min (s.queue q).staged.length (cqFree s q))
    (hup : hostUp s = true) (hs : (s.queue q).sess ≠ none) (hpos : 0 < k) : completionWrite s q
      = ((batchWritten s q k).toHost (.hostWrite (s.queue q).func (queueAddr s q 0x058)
          (leBytes 4 ((batchWritten s q k).reg (slotQueue q) 0x06C).toNat))).pulse (slotQueue q) 1 := by
  subst hk
  exact if_pos (by simp [hup, Option.isSome_iff_ne_none, hs, hpos])

/-- A batch: its records leave the staging for the ring, in order, and the shadow word follows. -/
theorem completionWrite_spec {s : State} {q k : Nat} (hk : k = min (s.queue q).staged.length (cqFree s q))
    (htail : (s.reg (slotQueue q) 0x06C).toNat < cqSize s q) (hup : hostUp s = true) (hs : (s.queue q).sess ≠ none) (hpos : 0 < k) :
    Only [.regs, .evts, .host, .out] s (completionWrite s q)
    ∧ (completionWrite s q).queue q = { s.queue q with staged := (s.queue q).staged.drop k }
    ∧ (completionWrite s q).reg (slotQueue q) 0x06C = w32 (((s.reg (slotQueue q) 0x06C).toNat + k) % cqSize s q)
    ∧ (completionWrite s q).out = s.out ++ ((s.queue q).staged.take k).zipIdx.map (fun r => Out.hostWrite (s.queue q).func
          (queueAddr s q 0x050 + 16 * (((s.reg (slotQueue q) 0x06C).toNat + r.2) % cqSize s q)) (wordsBytes r.1.words))
        ++ [Out.hostWrite (s.queue q).func (queueAddr s q 0x058)
          (leBytes 4 (((s.reg (slotQueue q) 0x06C).toNat + k) % cqSize s q))] := by
  obtain ⟨honly, hring, htail', hreg, hout⟩ := writeRecs_spec q ((s.queue q).staged.take k) (unstaged s q k) htail
  have hlen : ((s.queue q).staged.take k).length = k := by
    rw [List.length_take]
    omega
  have hfunc : ((unstaged s q k).queue q).func = (s.queue q).func := by rw [State.queue_setQueue_same]
  rw [hlen] at htail'
  rw [hfunc] at hout
  have hword : (batchWritten s q k).reg (slotQueue q) 0x06C = w32 (((s.reg (slotQueue q) 0x06C).toNat + k) % cqSize s q) := by
    refine BitVec.eq_of_toNat_eq (htail'.trans ?_)
    have hsize := cqSize_le s q
    have hmod := Nat.mod_lt ((s.reg (slotQueue q) 0x06C).toNat + k) (show 0 < cqSize s q by omega)
    exact (Nat.mod_eq_of_lt (by omega)).symm
  have hsent : ∀ (u : State) (o : Out), Only [.regs, .evts, .out] u ((u.toHost o).pulse (slotQueue q) 1) := fun u o =>
    ((State.pulse_keeps ..).cut (by decide) ((State.toHost_keeps u o).mono (by decide))).only
  rw [completionWrite_writes hk hup hs hpos, htail']
  refine ⟨?_, ?_, ?_, ?_⟩
  · exact (((State.setQueue_keeps ..).only.mono (by decide)).trans (honly.mono (by decide))).trans
      ((hsent _ _).mono (by decide))
  · rw [queue_of_host (congrArg _ ((hsent _ _).2 .host (by decide))), queue_of_host (congrArg _ (honly.2 .host (by decide))),
      State.queue_setQueue_same]
  · rw [reg_of_regs (State.pulse_regs ..)]
    exact (countEvent_reg _ _ _ _ _ (by decide)).trans hword
  · rw [State.pulse_out]
    exact ((countEvent_keeps _ slotHost 2 1).only.2 .out (by decide)).trans (congrArg (· ++ _) hout)

/-- Settles O51: each access and event is its function of the queue, whose cases are lemmas; the records of a batch are
`writeRecs_spec`. -/
theorem queuesAndRecords : Obligations.QueuesAndRecords := by
  have hqueue : ∀ (s : State) q, s.fromHost.queue q = s.queue q := fun s => queue_of_host (by rw [fromHost_host])
  refine ⟨?doorbell, ?fetch, fun s q w0 w1 w2 w3 h => congrArg _ (commandFetch_unattached h w0 w1 w2 w3), ?place, ?control,
    fun s q => ⟨fun hd ho => congrArg _ (queueDrained_ends hd ho), fun h => congrArg _ (queueDrained_waits h)⟩, ?records⟩
  case doorbell =>
    rintro s _ f q v hr rfl
    rw [exec_sqDoorbell hr, ← hqueue, show s.ac = s.fromHost.ac from congrArg (· / 40) (fromHost_now s).symm]
    exact ⟨fun h => congrArg _ (doorbell_beyond h), fun h he => congrArg _ (doorbell_disabled h he),
      fun h he => ⟨_, congrArg _ (doorbell_enabled h he), fun b => mem_bellsKept, bellsKept_first⟩⟩
  case fetch =>
    intro s q w0 w1 w2 w3 n hs
    exact ⟨fun h => congrArg _ (commandFetch_waits hs h w0 w1 w2 w3), fun hup hf hb => ⟨fetched s q.val,
      congrArg _ (commandFetch_takes hs hup hf hb w0 w1 w2 w3), fetched_only s _, fetched_head s _,
      fetched_inflight s _, fetched_staged s _,
      fun x hx => fetched_other s _ hx⟩⟩
  case place =>
    intro u c
    refine ⟨fun h1 h4 hok => ?_, fun h1 h4 hfailed => ?_, placeCmd_context u, placeCmd_transfer u, placeCmd_unknown u⟩
    · rw [placeCmd_drover u h1 h4, hok, if_neg (by decide)]
    · rw [placeCmd_drover u h1 h4, hfailed, if_pos rfl]
  case control =>
    rintro s _ f q v hr rfl
    rw [exec_qCtrlWrite hr, ← hqueue, ← outstanding_fromHost, ← fromHost_reg s (slotQueue q.val) (off := 0x044) (by decide)]
    refine ⟨fun h31 he hd => ?_, fun h31 hd => congrArg _ (qCtrl_draining h31 hd), fun h31 he => congrArg _ (qCtrl_disables h31 he),
      fun h31 he hd => congrArg _ (qCtrl_disabled h31 he hd)⟩
    have hzero : ∀ {o}, o ∈ [0x060, 0x064, 0x068, 0x06C] → _ := fun h => indicesZeroed_zero (ctrlWith s.fromHost q.val v v) q.val h
    refine ⟨_, congrArg _ (qCtrl_enables h31 he hd), ?_, ?_, State.queue_setQueue_same .., hzero (by decide), hzero (by decide),
      hzero (by decide), hzero (by decide)⟩
    · exact ((State.setQueue_keeps ..).cut (by decide) (Keeps.foldl _ _ (fun u o => (State.setReg_keeps u _ o 0).mono (by decide))
        ((State.setReg_keeps ..).mono (by decide)))).only
    · rw [reg_of_regs (State.setQueue_regs ..), indicesZeroed_ctrl, State.reg_setReg_same, and_ctrl]
  case records =>
    intro s q k tail hk htail hlt
    subst htail
    exact ⟨fun h => congrArg _ (completionWrite_idle (h.imp_right (Or.imp_right (fun h0 => hk ▸ h0)))),
      fun hup hs hpos => ⟨_, rfl, completionWrite_spec hk hlt hup hs hpos⟩⟩

end Sys2Proof.Machine

/-! PROOFS. Context commands, host transfers and INFO_SEL (13_host_sessions.md R365 to R369, Table 13-12). -/

namespace Sys2Proof.Machine

/-! ### Context commands -/

section
variable {s : State} {c : Cmd} {rest : List Cmd} {op : Nat} {go : State → Cmd → State} (hcmds : s.drover.cmds = c :: rest)
  (hop : c.op = op)
include hcmds hop

theorem ctxCommand_bad (h : hostCmdBad c = true) : ctxCommand s op go = hostDone (popCmd s) c 0x10 0x01 0 0 := by
  unfold ctxCommand
  rw [frontCmd_first hcmds hop]
  exact if_pos h

variable (hgood : hostCmdBad c = false)
include hgood

theorem ctxCommand_unprivileged (h : (sessPriv s c.sess).getLsbD 0 = false) :
    ctxCommand s op go = hostDone (popCmd s) c 0x10 0x40 0 0 := by
  unfold ctxCommand
  rw [frontCmd_first hcmds hop]
  exact (if_neg (by simp [hgood])).trans (if_pos (congrArg (!·) h))

theorem ctxCommand_goes (h : (sessPriv s c.sess).getLsbD 0 = true) : ctxCommand s op go = go (popCmd s) c := by
  unfold ctxCommand
  rw [frontCmd_first hcmds hop]
  exact (if_neg (by simp [hgood])).trans (if_neg (by simp [h]))

variable (hpriv : (sessPriv s c.sess).getLsbD 0 = true)
include hpriv

omit hcmds hop hgood hpriv in
theorem ctxOpenFor_popCmd (h : ctxOpenFor s c = true) : ¬(!ctxOpenFor (popCmd s) c) = true := by
  rw [show ctxOpenFor (popCmd s) c = true from h]
  decide

theorem ctxOpen_taken (h81 : op = 0x81) (h : (ctxAt s c.ctx).st ≠ .free) : ctxOpen s = hostDone (popCmd s) c 0x10 0x41 0 0 := by
  subst h81
  exact (ctxCommand_goes hcmds hop hgood hpriv).trans (if_pos h)

theorem ctxOpen_opens (h81 : op = 0x81) (h : (ctxAt s c.ctx).st = .free) :
    ctxOpen s = hostDone (setCtx (popCmd s) c.ctx ⟨.opened, sessTenant s c.sess, c.w2.toNat, bits c.w3 12 0, 0, 0, 0⟩)
      c 0x10 0 0 0 := by
  subst h81
  exact (ctxCommand_goes hcmds hop hgood hpriv).trans (if_neg (not_not.mpr h))

theorem ctxRoot_closed (h82 : op = 0x82) (h : ctxOpenFor s c = false) : ctxRoot s = hostDone (popCmd s) c 0x10 0x41 0 0 := by
  subst h82
  exact (ctxCommand_goes hcmds hop hgood hpriv).trans (if_pos (congrArg (!·) h))

theorem ctxRoot_used (h82 : op = 0x82) (h : ctxOpenFor s c = true) (hused : ∃ i ∈ s.drover.insts, i.ctx = c.ctx) :
    ctxRoot s = hostDone (popCmd s) c 0x10 0x42 0 0 := by
  subst h82
  have hany : (popCmd s).drover.insts.any (fun i => i.ctx == c.ctx) = true := by simpa [popCmd] using hused
  exact (ctxCommand_goes hcmds hop hgood hpriv).trans ((if_neg (ctxOpenFor_popCmd h)).trans (if_pos hany))

theorem ctxRoot_changes (h82 : op = 0x82) (h : ctxOpenFor s c = true) (hfree : ∀ i ∈ s.drover.insts, i.ctx ≠ c.ctx) :
    ctxRoot s = hostDone (setCtx (popCmd s) c.ctx { ctxAt s c.ctx with base := c.w2.toNat, count := bits c.w3 12 0 })
      c 0x10 0 0 0 := by
  subst h82
  have hany : ¬(popCmd s).drover.insts.any (fun i => i.ctx == c.ctx) = true := by simpa [popCmd] using hfree
  exact (ctxCommand_goes hcmds hop hgood hpriv).trans ((if_neg (ctxOpenFor_popCmd h)).trans (if_neg hany))

theorem ctxRelease_closed (h83 : op = 0x83) (h : ctxOpenFor s c = false) :
    ctxRelease s = hostDone (popCmd s) c 0x10 0x41 0 0 := by
  subst h83
  exact (ctxCommand_goes hcmds hop hgood hpriv).trans (if_pos (congrArg (!·) h))

/-- A context that no instance uses is released without an abort. -/
theorem ctxRelease_releases (h83 : op = 0x83) (h : ctxOpenFor s c = true) (hfree : ∀ i ∈ s.drover.insts, i.ctx ≠ c.ctx) :
    ctxRelease s = setCtx (popCmd s) c.ctx
      { ctxAt s c.ctx with st := .releasing, queue := c.queue, sess := c.sess, cookie := c.cookie } := by
  subst h83
  refine (ctxCommand_goes hcmds hop hgood hpriv).trans ((if_neg (ctxOpenFor_popCmd h)).trans ?_)
  dsimp only
  rw [if_neg (by simpa [setCtx, popCmd] using hfree), abortWhere_none _ (by simpa [setCtx, popCmd] using hfree)]
  rfl

end

/-! ### CONTEXT_FREED -/

section
variable {s : State} {n : Nat}

theorem contextFreed_waits (h : (ctxAt s n).st ≠ .releasing ∨ ∃ i ∈ s.drover.insts, i.ctx = n) : contextFreed s n = s := by
  unfold contextFreed
  refine if_neg fun ⟨hst, hnone⟩ => ?_
  rcases h with h | h
  · exact h hst
  · have hany : s.drover.insts.any (fun i => i.ctx == n) = true := by simpa using h
    simp [hany] at hnone

/-- A record and the count of a queue's commands leave the contexts. -/
theorem contextFreed_ctxs (hst : (ctxAt s n).st = .releasing) (hfree : ∀ i ∈ s.drover.insts, i.ctx ≠ n) :
    (contextFreed s n).host.ctxs = Tbl.del s.host.ctxs n := by
  have hany : (!s.drover.insts.any (fun i => i.ctx == n)) = true := by simpa using hfree
  unfold contextFreed
  dsimp only
  rw [if_pos ⟨hst, hany⟩]
  have hpost := congrArg HostPort.ctxs (postRec_hostButQueues (s.mapHost (fun h => { h with ctxs := Tbl.del h.ctxs n }))
    (ctxAt s n).queue (ctxAt s n).sess
    { kind := 0x10, reason := 0, cookie := (ctxAt s n).cookie, fault := 0, inst := 0, ctx := n, task := none, time := 0 })
  split
  · exact hpost
  · exact hpost

end

/-! ### Host transfers -/

theorem hostDone_xfer (s : State) (c : Cmd) (kind reason fault inst : Nat) :
    (hostDone s c kind reason fault inst).host.xfer = s.host.xfer := by
  have hpost := congrArg HostPort.xfer (postRec_hostButQueues s c.queue c.sess
    { cmdRec c kind reason inst (if c.op ≤ 0x83 then c.ctx else 0) with fault := fault })
  unfold hostDone answered
  dsimp only
  split
  · exact hpost
  · exact hpost

theorem xferBlock_none {s : State} (h : s.host.xfer = none) (op : Nat) (move : State → Xfer → Nat → State) :
    xferBlock s op move = s := by
  unfold xferBlock
  rw [h]

/-- A command that fails a check ends with its record, and no block follows. -/
theorem xferBlock_refused {s : State} {c : Cmd} {rest : List Cmd} {r op : Nat} (hnone : s.host.xfer = none)
    (hcmds : s.host.cmds = c :: rest) (hr : xferReason s c = some r) (hop : c.op = op) (move : State → Xfer → Nat → State) :
    xferBlock (xferBegin s op) op move = hostDone (s.mapHost (fun h => { h with cmds := rest })) c 0x11 r 0 0 := by
  have hbegin : xferBegin s op = hostDone (s.mapHost (fun h => { h with cmds := rest })) c 0x11 r 0 0 := by
    unfold xferBegin
    simp only [hnone, hcmds, hr]
    exact if_neg (not_not.mpr hop)
  have hstill : (hostDone (s.mapHost (fun h => { h with cmds := rest })) c 0x11 r 0 0).host.xfer = none := by
    rw [hostDone_xfer]
    exact hnone
  rw [hbegin]
  exact xferBlock_none hstill _ _

section
variable {s : State} {x : Xfer} {op : Nat} {move : State → Xfer → Nat → State} (hx : s.host.xfer = some x)
include hx

theorem xferBegin_under_way : xferBegin s op = s := by
  unfold xferBegin
  rw [hx]

variable (hfault : x.fault = none) (hmore : x.moved < xferBlocks x.cmd) (hop : x.cmd.op = op)
include hfault hmore hop

theorem xferBlock_late (h : x.since / 40 + 50000 ≤ s.ac) :
    xferBlock (xferBegin s op) op move = xferFault s x 0x0703 (if op = 0x85 then 1 else 0) := by
  rw [xferBegin_under_way hx]
  unfold xferBlock
  rw [hx]
  refine (if_neg ?_).trans (if_pos (decide_eq_true h))
  simp [hop, hfault, hmore]

variable (htime : s.ac < x.since / 40 + 50000)
include htime

/-- In time, the block's entry to its store says what becomes of it. -/
theorem xferBlock_entry : xferBlock (xferBegin s op) op move =
    match hostEntry s (xferDie x.cmd + 512 * x.moved) 512 x.since with
      | .answer 5 => xferFault s x 0x0005 0
      | .answer _ => xferFault s x 0x0001 0
      | .wake d => startWake s d
      | .wait => s.mapHost (fun h => { h with xfer := some { x with asks := true } })
      | .go => move (takeSlot s (xferDie x.cmd + 512 * x.moved) 1) x (xferDie x.cmd + 512 * x.moved) := by
  rw [xferBegin_under_way hx]
  unfold xferBlock
  rw [hx]
  refine (if_neg ?_).trans ((if_neg ?_).trans rfl)
  · simp [hop, hfault, hmore]
  · simp [State.acSince, htime]

variable {a : Nat} (ha : a = xferDie x.cmd + 512 * x.moved)
include ha

theorem xferBlock_wakes {d : Nat} (h : hostEntry s a 512 x.since = .wake d) :
    xferBlock (xferBegin s op) op move = startWake s d := by
  rw [xferBlock_entry hx hfault hmore hop htime, ← ha, h]

theorem xferBlock_waits (h : hostEntry s a 512 x.since = .wait) :
    xferBlock (xferBegin s op) op move = s.mapHost (fun h => { h with xfer := some { x with asks := true } }) := by
  rw [xferBlock_entry hx hfault hmore hop htime, ← ha, h]

theorem xferBlock_answered {n : Nat} (h : hostEntry s a 512 x.since = .answer n) :
    xferBlock (xferBegin s op) op move = xferFault s x (if n = 5 then 0x0005 else 0x0001) 0 := by
  rw [xferBlock_entry hx hfault hmore hop htime, ← ha, h]
  split
  next h5 => cases h5; rfl
  next hne h' =>
    cases h'
    rw [if_neg hne]
  all_goals contradiction

theorem xferBlock_moves (h : hostEntry s a 512 x.since = .go) :
    xferBlock (xferBegin s op) op move = move (takeSlot s a 1) x a := by
  rw [xferBlock_entry hx hfault hmore hop htime, ← ha, h]

end

/-! ### The bytes of a block that XFER_IN stores -/

theorem Memory.markRange_read (m : Memory) (a n b : Nat) : (m.markRange a n).read b = m.read b := by
  unfold Memory.markRange
  generalize List.range _ = l
  induction l generalizing m with
  | nil => rfl
  | cons i l ih => exact (ih _).trans (Memory.mark_read ..)

theorem Memory.fromHost_read (m : Memory) (a : Nat) (bs : List Byte) (ep : Bool) (b : Nat) :
    (m.fromHost a bs ep).read b = (m.writeN a bs).read b := by
  unfold Memory.fromHost
  split
  · exact Memory.markRange_read ..
  · rfl

/-- A block from the host in its store, with the transfer past it. -/
abbrev blockIn (s : State) (x : Xfer) (a : Nat) (b : List Byte) (ep : Bool) : State :=
  xferMoved ((takeSlot s a 1).fromHost.mapMem (fun m => m.fromHost a b ep)) x

theorem blockIn_only (s : State) (x : Xfer) (a : Nat) (b : List Byte) (ep : Bool) :
    Only [.regs, .mem, .slots, .herd, .host, .power] s (blockIn s x a b ep) :=
  ((State.mapHost_keeps ..).cut (by decide) <| (State.mapMem_keeps _ _ fun m => m.fromHost_wf a b ep).cut (by decide) <|
    (State.fromHost_keeps _).cut (by decide) <| (takeSlot_keeps s a 1).mono (by decide)).only

theorem blockIn_read (s : State) (x : Xfer) (a : Nat) (bs : List Byte) (ep : Bool) (b : Nat) :
    (blockIn s x a bs ep).mem.read b = (s.mem.writeN a bs).read b := by
  have hmem : (takeSlot s a 1).fromHost.mem = s.mem :=
    (fromHost_mem _).trans ((takeSlot_keeps s a 1).only.mem_eq (by decide))
  calc (blockIn s x a bs ep).mem.read b
      = ((takeSlot s a 1).fromHost.mem.fromHost a bs ep).read b := rfl
    _ = (s.mem.writeN a bs).read b := by rw [hmem, Memory.fromHost_read]

theorem blockIn_xfer (s : State) (x : Xfer) (a : Nat) (b : List Byte) (ep : Bool) :
    (blockIn s x a b ep).host.xfer = some { x with moved := x.moved + 1, since := s.now, asks := false } := by
  have hnow : (takeSlot s a 1).fromHost.now = s.now :=
    (fromHost_now _).trans ((takeSlot_keeps s a 1).only.2 .now (by decide))
  show some { x with moved := x.moved + 1, since := (takeSlot s a 1).fromHost.now, asks := false } = _
  rw [hnow]

/-! ### The block that XFER_OUT sends -/

/-- The posted write of a block, with the transfer past it. -/
abbrev blockOut (s : State) (x : Xfer) (a : Nat) : State :=
  xferMoved ((takeSlot s a 1).toHost (.hostWrite (xferFunc s x.cmd) (xferHost x.cmd + 512 * x.moved) (s.mem.block (a / 512)))) x

theorem blockOut_only (s : State) (x : Xfer) (a : Nat) : Only [.regs, .slots, .herd, .host, .power, .out] s (blockOut s x a) :=
  ((State.mapHost_keeps ..).cut (by decide) <| (State.toHost_keeps ..).cut (by decide) <|
    (takeSlot_keeps s a 1).mono (by decide)).only

theorem blockOut_xfer (s : State) (x : Xfer) (a : Nat) :
    (blockOut s x a).host.xfer = some { x with moved := x.moved + 1, since := s.now, asks := false } := by
  have hnow := ((State.toHost_keeps (takeSlot s a 1)
    (.hostWrite (xferFunc s x.cmd) (xferHost x.cmd + 512 * x.moved) (s.mem.block (a / 512)))).cut (qs := [.regs, .slots, .herd, .power, .out])
      (by decide) ((takeSlot_keeps s a 1).mono (by decide))).only.2 .now (by decide)
  exact congrArg (fun t => some { x with moved := x.moved + 1, since := t, asks := false }) hnow

theorem blockOut_out (s : State) (x : Xfer) (a : Nat) : (blockOut s x a).out
    = s.out ++ [.hostWrite (xferFunc s x.cmd) (xferHost x.cmd + 512 * x.moved) (s.mem.block (a / 512))] := by
  have hout : (takeSlot s a 1).out = s.out := (takeSlot_keeps s a 1).only.2 .out (by decide)
  rw [← hout]
  exact (countEvent_keeps _ slotHost 2 1).only.2 .out (by decide)

section
variable {s : State} {x : Xfer} {a : Nat} (hx : s.host.xfer = some x) (hfault : x.fault = none)
  (hmore : x.moved < xferBlocks x.cmd) (hop : x.cmd.op = 0x85) (htime : s.ac < x.since / 40 + 50000)
  (ha : a = xferDie x.cmd + 512 * x.moved) (hgo : hostEntry s a 512 x.since = .go)
include hx hfault hmore hop htime ha hgo

/-- In its slot a block is sent or stops the transfer as its verification says. -/
theorem xferOut_verified : xferOut s = match s.mem.verify (a / 512) with
    | .good => blockOut s x a
    | .poisoned w => xferFault (takeSlot s a 1) x 0x0003 (w32 w)
    | .mismatch v => xferFault (takeSlot s a 1) x 0x0002 v := by
  have hmem : (takeSlot s a 1).mem = s.mem := (takeSlot_keeps s a 1).only.mem_eq (by decide)
  have hfunc : xferFunc (takeSlot s a 1) x.cmd = xferFunc s x.cmd :=
    congrArg (fun h : HostPort => (Tbl.getD h.queues x.cmd.queue HQueue.idle).func) ((takeSlot_keeps s a 1).only.2 .host (by decide))
  unfold xferOut
  rw [xferBlock_moves hx hfault hmore hop htime ha hgo, hmem, hfunc] <;> rfl

end

/-! ### INFO_SEL -/

/-- The words that a snapshot finds are four. -/
theorem infoWords_length (s : State) (kind i : Nat) : (infoWords s kind i).length = 4 := by
  unfold infoWords
  split_ifs
  · split <;> rfl
  · rfl
  · rfl
  · rfl

/-- Words written from the n-th register on leave those before it. -/
theorem reg_foldl_zipIdx_below (slot off : Nat) (ws : List Word) (n o : Nat) (s : State) (h : o < off + 4 * n) :
    ((ws.zipIdx n).foldl (fun u p => u.setReg slot (off + 4 * p.2) p.1) s).reg slot o = s.reg slot o := by
  induction ws generalizing n s with
  | nil => rfl
  | cons w ws ih =>
    rw [List.zipIdx_cons, List.foldl_cons, ih (n + 1) _ (by omega)]
    exact State.reg_setReg_other _ _ (by unfold regAt; omega)

/-- Words written one after another stand in their registers. -/
theorem reg_foldl_zipIdx (slot off : Nat) (ws : List Word) (n k : Nat) (s : State) (h : k < ws.length) :
    ((ws.zipIdx n).foldl (fun u p => u.setReg slot (off + 4 * p.2) p.1) s).reg slot (off + 4 * (n + k)) = ws.getD k 0 := by
  induction ws generalizing n k s with
  | nil => simp at h
  | cons w ws ih =>
    cases k with
    | zero =>
      rw [List.zipIdx_cons, List.foldl_cons, reg_foldl_zipIdx_below slot off ws (n + 1) _ _ (by omega)]
      exact State.reg_setReg_same ..
    | succ k =>
      rw [List.zipIdx_cons, List.foldl_cons, show n + (k + 1) = n + 1 + k by omega]
      exact ih (n + 1) k _ (by simpa using h)

/-- INFO_SEL as a write leaves it. -/
abbrev infoSelected (s : State) (v : Word) : State := s.fromHost.setReg slotHost 0x110 (v &&& 0x30003FFF)

theorem exec_infoSelSnap {s : State} {f : FuncId} (h : Reaches s f (regAt slotHost 0x110)) (v : Word) :
    exec (.infoSelSnap f v) s = .next (infoSnap (infoSelected s v)) := by
  have hwrite : infoSelWrite s.fromHost (v ||| 0x80000000) = infoSnap (infoSelected s v) := by
    unfold infoSelWrite
    dsimp only
    rw [bit_or_strobe v (by decide), and_mask_or v (by decide), if_pos rfl]
  exact (congrArg Host.Outcome.next (barWrite_reaches h _)).trans (congrArg Host.Outcome.next hwrite)

theorem infoSnap_reg (s : State) {v : Word} (h : s.reg slotHost 0x110 = v &&& 0x30003FFF) {k : Nat} (hk : k < 4) :
    (infoSnap s).reg slotHost (0x114 + 4 * k) = (infoWords s (bits v 29 28) (bits v 13 0)).getD k 0 := by
  unfold infoSnap
  dsimp only
  rw [h, bits_and_mask v (by decide), bits_and_mask v (by decide)]
  have hreg := reg_foldl_zipIdx slotHost 0x114 (infoWords s (bits v 29 28) (bits v 13 0)) 0 k s (by rwa [infoWords_length])
  rwa [Nat.zero_add] at hreg

theorem infoSnap_sel (s : State) : (infoSnap s).reg slotHost 0x110 = s.reg slotHost 0x110 := by
  unfold infoSnap
  exact reg_foldl_zipIdx_below slotHost 0x114 _ 0 _ s (by omega)

/-- Settles O52: a command is the lemma of its case, and a block that has its slot is `blockIn` or what its verification says. -/
theorem contextsAndTransfers : Obligations.ContextsAndTransfers := by
  refine ⟨?commands, ?freed, ?refused, ?blocks, ?done, ?idle, ?info⟩
  case commands =>
    intro s c rest hcmds
    refine ⟨fun hbad => ⟨?_, ?_, ?_⟩, fun hgood hp => ⟨?_, ?_, ?_⟩, fun hgood hp => ⟨fun hop => ⟨?_, ?_⟩, fun hop => ⟨?_, ?_, ?_⟩,
      fun hop => ⟨?_, ?_⟩⟩⟩
    · exact fun hop => congrArg Host.Outcome.next (ctxCommand_bad hcmds hop hbad)
    · exact fun hop => congrArg Host.Outcome.next (ctxCommand_bad hcmds hop hbad)
    · exact fun hop => congrArg Host.Outcome.next (ctxCommand_bad hcmds hop hbad)
    · exact fun hop => congrArg Host.Outcome.next (ctxCommand_unprivileged hcmds hop hgood hp)
    · exact fun hop => congrArg Host.Outcome.next (ctxCommand_unprivileged hcmds hop hgood hp)
    · exact fun hop => congrArg Host.Outcome.next (ctxCommand_unprivileged hcmds hop hgood hp)
    · exact fun h => congrArg Host.Outcome.next (ctxOpen_taken hcmds hop hgood hp rfl h)
    · exact fun h => congrArg Host.Outcome.next (ctxOpen_opens hcmds hop hgood hp rfl h)
    · exact fun h => congrArg Host.Outcome.next (ctxRoot_closed hcmds hop hgood hp rfl h)
    · exact fun h hused => congrArg Host.Outcome.next (ctxRoot_used hcmds hop hgood hp rfl h hused)
    · exact fun h hfree => congrArg Host.Outcome.next (ctxRoot_changes hcmds hop hgood hp rfl h hfree)
    · exact fun h => congrArg Host.Outcome.next (ctxRelease_closed hcmds hop hgood hp rfl h)
    · exact fun h hfree => congrArg Host.Outcome.next (ctxRelease_releases hcmds hop hgood hp rfl h hfree)
  case freed =>
    intro s n
    refine ⟨fun h => congrArg Host.Outcome.next (contextFreed_waits h), fun hst hfree => ⟨contextFreed s n.val, rfl,
      (contextFreed_keeps s n.val).only, ?_, fun x hx => ?_⟩⟩
    · unfold ctxAt
      rw [contextFreed_ctxs hst hfree, Tbl.getD, Tbl.get_del_same]
      rfl
    · unfold ctxAt
      rw [contextFreed_ctxs hst hfree, Tbl.getD, Tbl.getD, Tbl.get_del_other _ hx]
  case refused =>
    intro s c rest r hnone hcmds hr
    exact ⟨fun hop b e => congrArg Host.Outcome.next (xferBlock_refused hnone hcmds hr hop _),
      fun hop => congrArg Host.Outcome.next (xferBlock_refused hnone hcmds hr hop _)⟩
  case blocks =>
    intro s x a hx hfault hmore ha
    refine ⟨fun late => ⟨fun hop b e => ?_, fun hop => ?_⟩, fun htime => ⟨fun hop hgo b e => ?_, fun hop hgo hgood => ?_,
      fun m hop hgo hbad => ?_, fun w hop hgo hbad => ?_, fun d h => ⟨fun hop b e => ?_, fun hop => ?_⟩,
      fun h => ⟨fun hop b e => ?_, fun hop => ?_⟩, fun n h => ⟨fun hop b e => ?_, fun hop => ?_⟩⟩, ?_⟩
    · exact congrArg Host.Outcome.next (xferBlock_late hx hfault hmore hop late)
    · exact congrArg Host.Outcome.next (xferBlock_late hx hfault hmore hop late)
    · refine ⟨blockIn s x a b.toList e, congrArg Host.Outcome.next (xferBlock_moves hx hfault hmore hop htime ha hgo),
        blockIn_only .., blockIn_xfer .., fun i h => ?_, fun y hy => ?_⟩
      · rw [blockIn_read, Memory.read_writeN_inside _ _ _ _ (by simpa using h)]
        simp
      · rw [blockIn_read, Memory.read_writeN_outside _ _ _ (by simpa using hy)]
    · refine ⟨blockOut s x a, congrArg Host.Outcome.next ?_, blockOut_only .., blockOut_xfer .., blockOut_out ..⟩
      rw [xferOut_verified hx hfault hmore hop htime ha hgo, hgood]
    · refine congrArg Host.Outcome.next ?_
      rw [xferOut_verified hx hfault hmore hop htime ha hgo, hbad]
    · refine congrArg Host.Outcome.next ?_
      rw [xferOut_verified hx hfault hmore hop htime ha hgo, hbad]
      rfl
    · exact congrArg Host.Outcome.next (xferBlock_wakes hx hfault hmore hop htime ha h)
    · exact congrArg Host.Outcome.next (xferBlock_wakes hx hfault hmore hop htime ha h)
    · exact congrArg Host.Outcome.next (xferBlock_waits hx hfault hmore hop htime ha h)
    · exact congrArg Host.Outcome.next (xferBlock_waits hx hfault hmore hop htime ha h)
    · exact congrArg Host.Outcome.next (xferBlock_answered hx hfault hmore hop htime ha h)
    · exact congrArg Host.Outcome.next (xferBlock_answered hx hfault hmore hop htime ha h)
    · refine congrArg Host.Outcome.next ?_
      unfold xferDone
      simp only [hx, hfault]
      exact if_neg (by omega)
  case done =>
    intro s x hx
    refine ⟨fun c hc => congrArg Host.Outcome.next ?_, fun hfault hall => congrArg Host.Outcome.next ?_⟩
    · simp only [xferDone, hx, hc]
    · simp only [xferDone, hx, hfault]
      exact if_pos hall
  case idle =>
    intro s h
    refine congrArg Host.Outcome.next ?_
    simp only [xferDone, h]
  case info =>
    rintro s _ f v hr rfl
    have hsel : (infoSelected s v).reg slotHost 0x110 = v &&& 0x30003FFF := State.reg_setReg_same ..
    exact ⟨_, exec_infoSelSnap hr v, (infoSnap_keeps _).only, (infoSnap_sel _).trans hsel, fun k hk => infoSnap_reg _ hsel hk⟩

end Sys2Proof.Machine

/-! PROOFS. The mailbox: firmware in its slots, the owner key and the fabric record (17_sharal_tally.md R440 to R446). -/

namespace Sys2Proof.Machine

/-! ### A Tally record leaves the rest of Sharal -/

/-- `t` has of Sharal what `s` has, but for the Tally. -/
def SharalButTally (s t : State) : Prop := t.sharal = { s.sharal with tally := t.sharal.tally }

theorem tallyEvent_butTally (s : State) (code ty inst : Nat) (as vs : List Word) :
    SharalButTally s (tallyEvent s code ty inst as vs) := by
  have hcreate : SharalButTally s (tallyCreate s code ty inst as vs) := by
    unfold tallyCreate
    dsimp only
    split
    · have hbump := (State.bump_keeps (s.mapTally (fun t => { t with dropped := min 255 (t.dropped + 1) })) slotTally 0x04C 1).only.2
        .sharal (by decide)
      unfold SharalButTally
      rw [State.pulse_sharal, hbump]
      rfl
    · rfl
  unfold tallyEvent
  dsimp only
  split
  · split
    · rfl
    · exact hcreate
  · exact hcreate

theorem mandatory_butTally (s : State) (code : Nat) (vs : List Word) : SharalButTally s (mandatory s code vs) := by
  unfold mandatory
  generalize (if code = 0x0802 then 0x40 else 0x41) = ty
  have hevent := tallyEvent_butTally s code ty 0 (vs.map fun _ => 0xFFFFFFFF) vs
  dsimp only
  split
  · exact hevent
  · unfold SharalButTally
    rw [(smbAlert_keeps ..).only.2 .sharal (by decide)]
    exact hevent

/-! ### The boot header -/

/-- A copy beyond the GEN of the other is the header in use. -/
theorem bootHdr_hdr1 (h : Sharal) {new : BootHdr} (hvalid : new.valid = true) (hgen : h.hdr0.valid = true → h.hdr0.gen < new.gen) :
    bootHdr { h with hdr1 := new } = new := by
  refine (if_neg ?_).trans (if_pos hvalid)
  simpa [hvalid] using hgen

theorem bootHdr_hdr0 (h : Sharal) {new : BootHdr} (hvalid : new.valid = true) (hgen : h.hdr1.valid = true → h.hdr1.gen ≤ new.gen) :
    bootHdr { h with hdr0 := new } = new := by
  refine if_pos ?_
  simp only [hvalid, Bool.true_and, Bool.or_eq_true, Bool.not_eq_true', decide_eq_true_eq]
  cases hv : h.hdr1.valid
  · exact .inl rfl
  · exact .inr (hgen hv)

theorem gen_le_bootHdr (h : Sharal) (hv : h.hdr1.valid = true) : h.hdr1.gen ≤ (bootHdr h).gen := by
  unfold bootHdr
  split
  next h0 => simpa [hv] using (Bool.and_eq_true_iff.mp h0).2
  · exact le_rfl

/-- The header written is the one in use: it stands in the other copy, with a higher GEN. -/
theorem bootHdr_writeHdr (h : Sharal) (trial tried : Bool) :
    bootHdr (writeHdr h trial tried) = { valid := true, gen := (bootHdr h).gen + 1, trial := trial, tried := tried } := by
  unfold writeHdr
  dsimp only
  split
  next huse =>
    refine bootHdr_hdr1 h rfl fun _ => ?_
    rw [huse]
    exact Nat.lt_succ_self _
  · exact bootHdr_hdr0 h rfl fun hv => (gen_le_bootHdr h hv).trans (Nat.le_succ _)

/-! ### An answer -/

/-- Of a message and its record the record's place in the Tally and the answer are what changes. -/
theorem mbAnswer_mandatory_only (s : State) (f : Sharal → Sharal) (code : Nat) (vs : List Word) (m : Mbox) (status : Nat)
    (more : List Word) : Only [.regs, .evts, .power, .sharal] s (mbAnswer (mandatory (s.mapSharal f) code vs) m status more) :=
  ((mbAnswer_keeps ..).cut (by decide) <| (mandatory_keeps ..).cut (by decide) <| (State.mapSharal_keeps s f).mono (by decide)).only

theorem mbAnswer_mandatory_sharal (s : State) (f : Sharal → Sharal) (code : Nat) (vs : List Word) (m : Mbox) (status : Nat)
    (more : List Word) : (mbAnswer (mandatory (s.mapSharal f) code vs) m status more).sharal
      = { f s.sharal with
          tally := (mandatory (s.mapSharal f) code vs).sharal.tally
          mbox := some { m with rsp := some ((fld m.code 24 ||| w32 status) :: more) } } := by
  exact congrArg (fun h : Sharal => { h with mbox := some { m with rsp := some ((fld m.code 24 ||| w32 status) :: more) } })
    (mandatory_butTally (s.mapSharal f) code vs)

/-! ### The message in progress -/

theorem mbHandle_passes {s : State} {code : Nat} {go : State → Mbox → State}
    (h : ∀ m, s.sharal.mbox = some m → m.code ≠ code ∨ m.rsp ≠ none) : mbHandle s code go = s := by
  unfold mbHandle
  split
  · rfl
  next m hm =>
    refine if_neg fun ⟨hcode, hrsp⟩ => ?_
    rcases h m hm with h | h
    · exact h hcode
    · exact h hrsp

section
variable {s : State} {m : Mbox} {code : Nat} {go : State → Mbox → State} (hm : s.sharal.mbox = some m) (hrsp : m.rsp = none)
include hm hrsp

theorem mbHandle_acts (hcode : m.code = code) : mbHandle s code go = go s m := by
  unfold mbHandle
  rw [hm]
  exact if_pos ⟨hcode, hrsp⟩

end

/-! ### FW_UPDATE -/

section
variable {s : State} {m : Mbox}

theorem fwUpdate_bad (h : fuBad m = true) : fwUpdate s m = mbAnswer s m 1 [] := if_pos h

variable (hgood : fuBad m = false)
include hgood

theorem fwUpdate_unplaced (h : fuPlaced (fuAddr m) (fuBytes m) = false) : fwUpdate s m = mbAnswer s m 6 [] := by
  refine (if_neg (by simp [hgood])).trans (if_pos ?_)
  rw [h]
  rfl

theorem fwUpdate_reads (h : fuPlaced (fuAddr m) (fuBytes m) = true) (hreach : s.reach (fuAddr m) = .ready)
    (hverify : (s.mem.verifyRange (fuAddr m) (fuBytes m)).1 = .good) :
    fwUpdate s m = fuImage s m (fwOfBytes (s.mem.readN (fuAddr m) (fuBytes m))) := by
  unfold fwUpdate
  dsimp only
  rw [if_neg (by simp [hgood]), if_neg (by simp [h]), hreach]
  rcases hv : s.mem.verifyRange (fuAddr m) (fuBytes m) with ⟨v, blk⟩
  rw [hv] at hverify
  obtain rfl : v = .good := hverify
  rfl

end

theorem fuProgram_hdr (h : Sharal) (i : FwImage) :
    (bootHdr (fuProgram h i)).trial = true ∧ (bootHdr (fuProgram h i)).tried = false := by
  have hwritten := bootHdr_writeHdr (if !h.runB && !(bootHdr h).trial then { h with slotB := h.slotA } else h) true false
  exact ⟨congrArg BootHdr.trial hwritten, congrArg BootHdr.tried hwritten⟩

theorem writeHdr_slots (h : Sharal) (trial tried : Bool) : (writeHdr h trial tried).slotA = h.slotA
    ∧ (writeHdr h trial tried).slotB = h.slotB ∧ (writeHdr h trial tried).fuse = h.fuse := by
  unfold writeHdr
  dsimp only
  split <;> exact ⟨rfl, rfl, rfl⟩

theorem fuProgram_slots (h : Sharal) (i : FwImage) : (fuProgram h i).slotA = i
    ∧ (fuProgram h i).slotB = (if h.runB = false ∧ (bootHdr h).trial = false then h.slotA else h.slotB)
    ∧ (fuProgram h i).fuse = h.fuse := by
  obtain ⟨-, hslotB, hfuse⟩ := writeHdr_slots (if !h.runB && !(bootHdr h).trial then { h with slotB := h.slotA } else h) true false
  refine ⟨rfl, hslotB.trans ?_, hfuse.trans ?_⟩
  · cases h.runB <;> cases (bootHdr h).trial <;> rfl
  · split <;> rfl

theorem fuImage_rejected {s : State} {i : FwImage} (m : Mbox) (h : fwCheck i s.sharal.fuse ≠ 0) :
    fuImage s m i = mbAnswer s m 3 [w32 (fwCheck i s.sharal.fuse)] := if_pos h

theorem fuImage_programs {s : State} {i : FwImage} (m : Mbox) (h : ¬fwCheck i s.sharal.fuse ≠ 0) :
    fuImage s m i = mbAnswer (mandatory (s.mapSharal (fun h => fuProgram h i)) 0x1009
      [fwVersionOf i.header, w32 (fwRollback i.header)]) m 0 [] := if_neg h

/-! ### FW_CONFIRM and ROLLBACK_COMMIT -/

section
variable {s : State} {m : Mbox}

theorem fwConfirm_bad (h : m.len ≠ 1) : fwConfirm s m = mbAnswer s m 1 [] := if_pos h

theorem fwConfirm_none (hlen : m.len = 1) (h : s.sharal.runB = true ∨ (bootHdr s.sharal).trial = false) :
    fwConfirm s m = mbAnswer s m 4 [] := (if_neg (not_not.mpr hlen)).trans (if_pos (by simpa using h))

theorem fwConfirm_ends (hlen : m.len = 1) (hrun : s.sharal.runB = false) (htrial : (bootHdr s.sharal).trial = true) :
    fwConfirm s m = mbAnswer (mandatory (s.mapSharal (fun h => writeHdr h false false)) 0x100A [s.sharal.fwVer]) m 0 [] :=
  (if_neg (not_not.mpr hlen)).trans (if_neg (by simp [hrun, htrial]))

theorem rollbackCommit_bad (h : m.len ≠ 1) : rollbackCommit s m = mbAnswer s m 1 [] := if_pos h

theorem rollbackCommit_unowned (hlen : m.len = 1) (h : m.owner = false) : rollbackCommit s m = mbAnswer s m 2 [] :=
  (if_neg (not_not.mpr hlen)).trans (if_pos (by simp [h]))

theorem rollbackCommit_refused (hlen : m.len = 1) (howner : m.owner = true) (h : s.sharal.runB = true
    ∨ (bootHdr s.sharal).trial = true ∨ s.sharal.fwRoll ≤ s.sharal.fuse ∨ 64 < s.sharal.fwRoll) :
    rollbackCommit s m = mbAnswer s m 4 [] :=
  (if_neg (not_not.mpr hlen)).trans ((if_neg (by simp [howner])).trans (if_pos (by simpa [or_assoc] using h)))

theorem rollbackCommit_raises (hlen : m.len = 1) (howner : m.owner = true) (hrun : s.sharal.runB = false)
    (htrial : (bootHdr s.sharal).trial = false) (hmore : s.sharal.fuse < s.sharal.fwRoll) (hmax : s.sharal.fwRoll ≤ 64) :
    rollbackCommit s m
      = mbAnswer (mandatory (s.mapSharal (fun h => { h with fuse := s.sharal.fwRoll })) 0x100B [w32 s.sharal.fwRoll]) m 0 [] :=
  (if_neg (not_not.mpr hlen)).trans ((if_neg (by simp [howner])).trans (if_neg (by simp [hrun, htrial]; omega)))

/-! ### OWNER_SET, FABRIC_SAVE and FABRIC_ERASE -/

theorem ownerSet_bad (h : m.len ≠ 9) : ownerSet s m = mbAnswer s m 1 [] := if_pos h

theorem ownerSet_unowned (hlen : m.len = 9) (h : m.owner = false) : ownerSet s m = mbAnswer s m 2 [] :=
  (if_neg (not_not.mpr hlen)).trans (if_pos (by simp [h]))

theorem ownerSet_sets (hlen : m.len = 9) (howner : m.owner = true) : ownerSet s m = mbAnswer (mandatory
    (closeWhere (slotRewritten s 0 (some ⟨wordsBytes (m.words.drop 1), 0, 6, 0⟩)) 2 (fun x => x.slot == 0)) 0x100C [1]) m 0 [] :=
  (if_neg (not_not.mpr hlen)).trans (if_neg (by simp [howner]))

theorem fabricSave_bad (h : m.len ≠ 1) : fabricSave s m = mbAnswer s m 1 [] := if_pos h

theorem fabricSave_saves (h : m.len = 1) :
    fabricSave s m = mbAnswer (s.mapSharal (fun h => { h with fabRec := some (fabricRecord s) })) m 0 [] :=
  if_neg (not_not.mpr h)

theorem fabricErase_bad (h : m.len ≠ 1) : fabricErase s m = mbAnswer s m 1 [] := if_pos h

theorem fabricErase_erases (h : m.len = 1) : fabricErase s m = mbAnswer (s.mapSharal (fun h => { h with fabRec := none })) m 0 [] :=
  if_neg (not_not.mpr h)

/-- A written admit window is in the record. -/
theorem mem_admitWindows {k : Nat} {w : Word} (hlo : 0x100 ≤ k) (hhi : k < 0x200) (h : (regAt slotRoute k, w) ∈ s.regs) :
    (k, w) ∈ admitWindows s := by
  have hslot : regAt slotRoute k / 0x1000 = slotRoute := by unfold regAt; omega
  have hoff : regAt slotRoute k % 0x1000 = k := by unfold regAt; omega
  refine List.mem_map.mpr ⟨(regAt slotRoute k, w), List.mem_filter.mpr ⟨h, ?_⟩, by rw [hoff]⟩
  simp [hslot, hoff, hlo, hhi]

end

/-! ### MAILBOX_RESPONSE -/

section
variable (s : State) (ws : List Word)

theorem mbWrite_only : Only [.regs, .evts, .sharal] s (mbWrite s ws) := (mbWrite_keeps s ws).only

theorem mbWrite_ctrl : (mbWrite s ws).reg slotMgmt 0x404 = 0x40000000#32 ||| BitVec.ofNat 32 ws.length :=
  State.reg_setReg_same ..

theorem mbWrite_pulses : bit ((mbWrite s ws).evt slotMgmt).pulses 3 = true := pulse_pulses _ _ (by decide)

theorem mbWrite_words {k : Nat} (h : k < ws.length) : (mbWrite s ws).reg slotMgmt (0x600 + 4 * k) = ws.getD k 0 := by
  have hreg := reg_foldl_zipIdx slotMgmt 0x600 ws 0 k s h
  rw [Nat.zero_add] at hreg
  exact (State.reg_setReg_other _ _ (by unfold regAt; omega)).trans hreg

end

/-- Settles O58: each message is the lemma of its operation, answered by `mbAnswer` beside its record. -/
theorem mailboxMessages : Obligations.MailboxMessages := by
  refine ⟨fun s h => congrArg Host.Outcome.next (mbHandle_passes h), fun s h => congrArg Host.Outcome.next (mbHandle_passes h),
    fun s h => congrArg Host.Outcome.next (mbHandle_passes h), fun s h => congrArg Host.Outcome.next (mbHandle_passes h),
    fun s h => congrArg Host.Outcome.next (mbHandle_passes h), fun s h => congrArg Host.Outcome.next (mbHandle_passes h),
    ?update, ?confirm, ?rollback, ?owner, ?fabric, ?none, ?response⟩
  case update =>
    intro s m hm hrsp hcode
    have hacts : exec .fwUpdate s = .next (fwUpdate s m) := congrArg Host.Outcome.next (mbHandle_acts hm hrsp hcode)
    rw [hacts]
    refine ⟨fun h => congrArg Host.Outcome.next (fwUpdate_bad h), fun hgood h => congrArg Host.Outcome.next (fwUpdate_unplaced hgood h),
      fun i hgood hplaced hreach hverify hi => ?_⟩
    rw [fwUpdate_reads hgood hplaced hreach hverify, ← hi]
    split
    next h => exact congrArg Host.Outcome.next (fuImage_rejected m h)
    next h =>
      have hsharal := mbAnswer_mandatory_sharal s (fun h => fuProgram h i) 0x1009 [fwVersionOf i.header, w32 (fwRollback i.header)] m 0 []
      obtain ⟨htrial, htried⟩ := fuProgram_hdr s.sharal i
      obtain ⟨hslotA, hslotB, hfuse⟩ := fuProgram_slots s.sharal i
      rw [hcode] at hsharal
      refine ⟨_, congrArg Host.Outcome.next (fuImage_programs m h), mbAnswer_mandatory_only .., ?_⟩
      rw [hsharal]
      exact ⟨hslotA, htrial, htried, hslotB, hfuse, rfl⟩
  case confirm =>
    intro s m hm hrsp hcode
    have hacts : exec .fwConfirm s = .next (fwConfirm s m) := congrArg Host.Outcome.next (mbHandle_acts hm hrsp hcode)
    rw [hacts]
    refine ⟨fun h => congrArg Host.Outcome.next (fwConfirm_bad h), fun hlen h => congrArg Host.Outcome.next (fwConfirm_none hlen h),
      fun hlen hrun htrial => ?_⟩
    have hsharal := mbAnswer_mandatory_sharal s (fun h => writeHdr h false false) 0x100A [s.sharal.fwVer] m 0 []
    obtain ⟨hslotA, hslotB, -⟩ := writeHdr_slots s.sharal false false
    rw [hcode] at hsharal
    refine ⟨_, congrArg Host.Outcome.next (fwConfirm_ends hlen hrun htrial), mbAnswer_mandatory_only .., ?_⟩
    rw [hsharal]
    exact ⟨congrArg BootHdr.trial (bootHdr_writeHdr s.sharal false false), hslotA, hslotB, rfl⟩
  case rollback =>
    intro s m hm hrsp hcode
    have hacts : exec .rollbackCommit s = .next (rollbackCommit s m) := congrArg Host.Outcome.next (mbHandle_acts hm hrsp hcode)
    rw [hacts]
    refine ⟨fun h => congrArg Host.Outcome.next (rollbackCommit_bad h),
      fun hlen h => congrArg Host.Outcome.next (rollbackCommit_unowned hlen h),
      fun hlen howner h => congrArg Host.Outcome.next (rollbackCommit_refused hlen howner h),
      fun hlen howner hrun htrial hmore hmax => ?_⟩
    have hsharal := mbAnswer_mandatory_sharal s (fun h => { h with fuse := s.sharal.fwRoll }) 0x100B [w32 s.sharal.fwRoll] m 0 []
    rw [hcode] at hsharal
    refine ⟨_, congrArg Host.Outcome.next (rollbackCommit_raises hlen howner hrun htrial hmore hmax), mbAnswer_mandatory_only .., ?_⟩
    rw [hsharal]
    exact ⟨rfl, rfl, rfl⟩
  case owner =>
    intro s m hm hrsp hcode
    have hacts : exec .ownerSet s = .next (ownerSet s m) := congrArg Host.Outcome.next (mbHandle_acts hm hrsp hcode)
    rw [hacts]
    exact ⟨fun h => congrArg Host.Outcome.next (ownerSet_bad h), fun hlen h => congrArg Host.Outcome.next (ownerSet_unowned hlen h),
      fun hlen howner => ⟨slotRewritten s 0 _, congrArg Host.Outcome.next (ownerSet_sets hlen howner), (State.mapHost_keeps ..).only,
        Tbl.get_set_same .., fun k hk => Tbl.get_set_other _ _ hk, rfl⟩⟩
  case fabric =>
    intro s m hm hrsp
    have hsave : m.code = 5 → exec .fabricSave s = .next (fabricSave s m) :=
      fun hcode => congrArg Host.Outcome.next (mbHandle_acts hm hrsp hcode)
    have herase : m.code = 6 → exec .fabricErase s = .next (fabricErase s m) :=
      fun hcode => congrArg Host.Outcome.next (mbHandle_acts hm hrsp hcode)
    refine ⟨fun hcode h => ?_, fun hcode h => ?_, fun hcode h => ?_, fun hcode h => ?_⟩
    · rw [hsave hcode, fabricSave_bad h]
    · exact ⟨fabricRecord s, (hsave hcode).trans (congrArg Host.Outcome.next (fabricSave_saves h)), rfl, rfl, rfl,
        fun k hlo hhi w hw => mem_admitWindows hlo hhi hw⟩
    · rw [herase hcode, fabricErase_bad h]
    · rw [herase hcode, fabricErase_erases h]
  case none =>
    intro s h
    refine congrArg Host.Outcome.next ?_
    unfold mailboxResponse
    rw [h]
  case response =>
    intro s m hm
    have hresponse : exec .mailboxResponse s = .next (match m.rsp with
        | some ws => mbWrite s ws
        | none => if 1 ≤ m.code ∧ m.code ≤ 7 then s else mbWrite s [fld m.code 24 ||| 1]) := by
      refine congrArg Host.Outcome.next ?_
      unfold mailboxResponse
      rw [hm] <;> rfl
    rw [hresponse]
    refine ⟨fun hrsp hlo hhi => ?_, fun ws h => ⟨mbWrite s ws, ?_, mbWrite_only s ws, rfl, mbWrite_ctrl s ws, mbWrite_pulses s ws,
      fun k hk => mbWrite_words s ws hk⟩⟩
    · rw [hrsp]
      exact congrArg Host.Outcome.next (if_pos ⟨hlo, hhi⟩)
    · rcases h with hrsp | ⟨hrsp, hcode, rfl⟩
      · rw [hrsp]
      · rw [hrsp]
        exact congrArg Host.Outcome.next (if_neg (by omega))

end Sys2Proof.Machine

/-! PROOFS. The buffers of the ports as they settle, and the packet that a port sends next (12_ralso_fabric.md R317, R319). -/

namespace Sys2Proof.Machine

/-! ### Settling: packets that are over leave the buffers -/

/-- Of each port `t` has what `s` has, but for packets that are over in `s` and the flits freed; local packets stay. -/
structure Settles (s t : State) : Prop where
  local_ : t.fabric.local_ = s.fabric.local_
  port : ∀ q, ∃ rx fr, t.port q = { s.port q with rx := rx, freed := fr }
    ∧ (∀ r ∈ rx, r ∈ (s.port q).rx) ∧ (∀ r ∈ (s.port q).rx, r.over s = false → r ∈ rx)

theorem Settles.refl (s : State) : Settles s s :=
  ⟨rfl, fun q => ⟨(s.port q).rx, (s.port q).freed, rfl, fun _ h => h, fun _ h _ => h⟩⟩

/-- No copy of a packet leaves by settling. -/
theorem Settles.over {s t : State} (h : Settles s t) (r : RxPkt) : r.over t = r.over s := by
  have hout : ∀ q, (t.port q).outQ = (s.port q).outQ := fun q => by
    obtain ⟨rx, fr, hport, -⟩ := h.port q
    rw [hport]
  unfold RxPkt.over hasCopy
  simp only [hout, h.local_]

/-- The buffer of one port is filtered, and its count of freed flits changes. -/
theorem Settles.setPort {s t : State} (h : Settles s t) (p : Nat) (f : RxPkt → Bool) (hf : ∀ r, r.over s = false → f r = true)
    (fr : List Nat) : Settles s (t.setPort p { t.port p with rx := (t.port p).rx.filter f, freed := fr }) := by
  refine ⟨h.local_, fun q => ?_⟩
  obtain ⟨rx, fr', hport, hsub, hkeep⟩ := h.port q
  by_cases hq : q = p
  · subst hq
    rw [State.port_setPort_same, hport]
    exact ⟨_, _, rfl, fun r hr => hsub r (List.mem_of_mem_filter hr),
      fun r hr hover => List.mem_filter.mpr ⟨hkeep r hr hover, hf r hover⟩⟩
  · rw [State.port_setPort_other _ _ hq]
    exact ⟨rx, fr', hport, hsub, hkeep⟩

theorem Settles.sendControl {s t : State} (h : Settles s t) (p : Nat) : Settles s (sendControl t p) := by
  have hall : (t.port p).rx.filter (fun _ => true) = (t.port p).rx := List.filter_true _
  have hset := h.setPort p (fun _ => true) (fun _ _ => rfl)
    (((t.port p).freed.zip ((t.port p).freed.map (fun n => min n 255))).map (fun x => x.1 - x.2))
  rw [hall] at hset
  exact ⟨hset.local_, hset.port⟩

theorem Settles.settlePort {s t : State} (h : Settles s t) (p : Nat) : Settles s (settlePort t p) := by
  unfold Machine.settlePort
  dsimp only
  split
  · exact h
  · have hset := h.setPort p (fun r => !r.over t) (fun r hover => by rw [h.over, hover]; rfl)
      (((t.port p).rx.filter (fun r => r.over t)).foldl (fun f r => f.modify r.vc (· + r.flits)) (t.port p).freed)
    split
    · exact hset.sendControl p
    · exact hset

theorem settle_settles (s : State) : Settles s (settle s) := by
  have hfold : ∀ (l : List Nat) (t : State), Settles s t → Settles s (l.foldl settlePort t) := by
    intro l
    induction l with
    | nil => exact fun _ h => h
    | cons p l ih => exact fun t h => ih _ (h.settlePort p)
  exact hfold _ s (.refl s)

/-! ### The packet that is next -/

theorem firstCome_mem {l : List OutPkt} {o : OutPkt} (h : firstCome l = some o) : o ∈ l := by
  induction l generalizing o with
  | nil => cases h
  | cons a l ih =>
    unfold firstCome at h
    split at h
    next q hq =>
      split at h
      · exact List.mem_cons_of_mem _ (ih (h ▸ hq))
      · cases h
        exact List.mem_cons_self
    · cases h
      exact List.mem_cons_self

/-- The packet that came first has the lowest stamp. -/
theorem firstCome_le {l : List OutPkt} {o : OutPkt} (h : firstCome l = some o) {x : OutPkt} (hx : x ∈ l) :
    o.via.stamp ≤ x.via.stamp := by
  induction l generalizing o x with
  | nil => cases hx
  | cons a l ih =>
    unfold firstCome at h
    split at h
    next q hq =>
      have hq' : ∀ x ∈ l, q.via.stamp ≤ x.via.stamp := fun x hx => ih hq hx
      split at h <;> cases h <;> rcases List.mem_cons.mp hx with rfl | hx
      · omega
      · exact hq' x hx
      · omega
      · have := hq' x hx
        omega
    next hnone =>
      cases h
      rcases List.mem_cons.mp hx with rfl | hx
      · exact le_rfl
      · cases l with
        | nil => cases hx
        | cons b l =>
          unfold firstCome at hnone
          split at hnone
          · split at hnone <;> cases hnone
          · cases hnone

/-- A packet that is started has its credits, and comes before the others of its channel; one that has been started goes on. -/
theorem pickOut_spec {s : State} {q : Nat} {o : OutPkt} (h : pickOut s q = some o) : o ∈ (s.port q).outQ
    ∧ (o.sent = 0 → lacksCredit (s.port q) o = false ∧ (∀ x ∈ (s.port q).outQ, x.sent = 0)
      ∧ ∀ x ∈ (s.port q).outQ, x.pkt.vc = o.pkt.vc → o.via.stamp ≤ x.via.stamp) := by
  unfold pickOut at h
  dsimp only at h
  split at h
  next y hy =>
    cases h
    have hsent : 0 < o.sent := by simpa using List.find?_some hy
    exact ⟨List.mem_of_find?_eq_some hy, fun h0 => by omega⟩
  next hnone =>
    obtain ⟨vc, -, hvc⟩ := List.exists_of_findSome?_eq_some h
    split at hvc
    next x hx =>
      split at hvc
      · cases hvc
      next hfree =>
        cases hvc
        obtain ⟨hmem, hchan⟩ := List.mem_filter.mp (firstCome_mem hx)
        have hchan : o.pkt.vc = vc := by simpa using hchan
        refine ⟨hmem, fun _ => ⟨?_, fun y hy => ?_, fun y hy hyc => firstCome_le hx (List.mem_filter.mpr ⟨hy, ?_⟩)⟩⟩
        · simp only [Bool.or_eq_true, not_or, Bool.not_eq_true] at hfree
          exact hfree.1
        · simpa using List.find?_eq_none.mp hnone y hy
        · simp [hyc, hchan]
    · cases hvc

theorem credits_of_lacksCredit {v : Port} {o : OutPkt} (hsent : o.sent = 0) (h : lacksCredit v o = false) :
    o.via.flits ≤ v.credits.getD o.pkt.vc 0 ∧ (o.pkt.ptype = tMcBlock → o.via.flits ≤ v.credits.getD o.pkt.vc 0 - 8) := by
  have husable : o.via.flits ≤ usable v o.pkt := by simpa [lacksCredit, hsent] using h
  unfold usable at husable
  dsimp only at husable
  split at husable
  next hmc => exact ⟨by omega, fun _ => husable⟩
  next hmc => exact ⟨husable, fun h => absurd h hmc⟩

/-! ### The issue of a remote operation (R327) -/

section
variable {s : State} {c : Nat} {p : Prog} {w : List Word}

theorem issueRemote_code {code : Nat} (h : roCode s c p.task w = some code) :
    issueRemote c s p w = ralsoFault s (firstHopPort s (roNode w)) c p.task 0x0601 (roNode w)
      (if opcodeOf (wd w 0) = opRbell then none else some (roAddr w)) (w32 code) (wd w 0) := by
  unfold issueRemote
  rw [h]

theorem issueRemote_joins (h : roCode s c p.task w = none) : issueRemote c s p w
    = pull ((advance s c p w).mapFabric (fun f => { f with ops := f.ops ++ [roFeed (s.core c)
        { inst := queued s c p w, core := c, sent := 0, total := roTotal (s.core c) w, feed := none, rest := [] }] })) c := by
  unfold issueRemote
  rw [h]

end

/-- An operation that reads or writes a store aborts with its address. -/
theorem exec_remote_code {s u : State} {op c code : Nat} {p : Prog} {ws : List Word} (hcode : roCode u c p.task ws = some code)
    (h : Issues s op c u p ws) : issue op c (issueRemote c) s = ralsoFault u (firstHopPort u (roNode ws)) c p.task 0x0601 (roNode ws)
      (if op = opRbell then none else some (wd ws 2).toNat) (w32 code) (wd ws 0) := by
  rw [issue_of_issues h, issueRemote_code hcode, h.2.1]
  rfl

/-! ### PACKET_SEND -/

/-- PACKET_SEND of a port once the remote operations have launched their packets. -/
def portSends (u : State) (p : Nat) : State :=
  if (u.port p).st != .up || (u.port p).outQ.isEmpty then u
  else if !portRuns u p then startWake u (16 + p)
  else match pickOut u p with
    | none => u
    | some o =>
      if o.there ≤ o.sent then u
      else if 1024 < (u.port p).replay.length + (o.there - o.sent + 9) / 10 then u.emit (.idle p)
      else sendFlits u p o

theorem packetSend_eq (s : State) (p : Nat) : packetSend s p = portSends (launchAll s) p := by
  unfold packetSend portSends
  generalize launchAll s = u
  rfl

section
variable {u : State} {p : Nat}

theorem portSends_idle (h : (u.port p).st ≠ .up ∨ (u.port p).outQ = []) : portSends u p = u := if_pos (by simpa using h)

variable (hup : (u.port p).st = .up)
include hup

theorem portSends_wakes (hq : (u.port p).outQ ≠ []) (h : portRuns u p = false) : portSends u p = startWake u (16 + p) :=
  (if_neg (by simp [hup, hq])).trans (if_pos (by rw [h]; rfl))

variable (hruns : portRuns u p = true)
include hruns

omit hup in
theorem portSends_unpicked (h : pickOut u p = none) : portSends u p = u := by
  unfold portSends
  rw [h, hruns]
  split <;> rfl

variable {o : OutPkt} (hpick : pickOut u p = some o)
include hpick

theorem portSends_picked : portSends u p = if o.there ≤ o.sent then u
    else if 1024 < (u.port p).replay.length + (o.there - o.sent + 9) / 10 then u.emit (.idle p) else sendFlits u p o := by
  have hq : (u.port p).outQ ≠ [] := List.ne_nil_of_mem (pickOut_spec hpick).1
  unfold portSends
  rw [if_neg (by simp [hup, hq]), if_neg (by simp [hruns]), hpick]

end

theorem foldl_emit {α : Type} (f : α → Out) (l : List α) (s : State) :
    l.foldl (fun u w => u.emit (f w)) s = { s with out := s.out ++ l.map f } := by
  induction l generalizing s with
  | nil => simp
  | cons w l ih =>
    exact (ih _).trans (congrArg (fun o => { s with out := o }) (List.append_assoc s.out [f w] (l.map f)))

/-- The port with the flits of a packet on its link: they spend credits and stand in the replay buffer. -/
abbrev Port.sends (v : Port) (o : OutPkt) (fs : List Flit) (cws : List Codeword) : Port :=
  { v with
    outQ := if o.there < o.via.flits then v.outQ.map (fun x => if x = o then { o with sent := o.there, waitAt := none } else x)
      else dropFirst o v.outQ
    txSeq := v.txSeq + BitVec.ofNat 12 cws.length, replay := v.replay ++ cws
    credits := v.credits.modify o.pkt.vc (fun n => n - fs.length) }

/-- The flits have left, and the buffers have not settled yet. -/
def flitsSent (s : State) (p : Nat) (o : OutPkt) (fs : List Flit) (cws : List Codeword) : State :=
  let s2 := touchPort (countFlits ((cws.foldl (fun u w => u.emit (.codeword p w)) (s.setPort p ((s.port p).sends o fs cws))).bump
    (slotLink p) 0x050 fs.length) p 1 o.pkt.vc fs.length) p
  if o.sent = 0 then startTimer s2 o.pkt else s2

theorem sendFlits_settles (s : State) (p : Nat) (o : OutPkt) {fs : List Flit} {cws : List Codeword}
    (hfs : fs = ((o.pkt.allFlits o.via.flits).take o.there).drop o.sent)
    (hcws : cws = codewords (fs.length / 10 + 1) (s.port p).txSeq fs) : sendFlits s p o = settle (flitsSent s p o fs cws) := by
  subst hcws hfs
  rfl

theorem startTimer_ports (s : State) (k : Packet) : (startTimer s k).fabric.ports = s.fabric.ports := by
  unfold startTimer
  split <;> rfl

section
variable (s : State) (p : Nat) (o : OutPkt) (fs : List Flit) (cws : List Codeword)

theorem flitsSent_spec : Only [.regs, .fabric, .power, .out] s (flitsSent s p o fs cws)
    ∧ (flitsSent s p o fs cws).out = s.out ++ cws.map (fun w => Out.codeword p w)
    ∧ (flitsSent s p o fs cws).fabric.ports = (s.setPort p ((s.port p).sends o fs cws)).fabric.ports := by
  unfold flitsSent
  rw [foldl_emit (fun w => Out.codeword p w)]
  generalize hsent : { s.setPort p ((s.port p).sends o fs cws) with
    out := (s.setPort p ((s.port p).sends o fs cws)).out ++ cws.map (fun w => Out.codeword p w) } = e
  have he : Only [.fabric, .out] s e := by
    subst hsent
    exact ((Keeps.out _ _).cut (by decide) ((State.setPort_keeps ..).mono (by decide))).only
  have hout : e.out = s.out ++ cws.map (fun w => Out.codeword p w) := by rw [← hsent]; rfl
  have hports : e.fabric.ports = (s.setPort p ((s.port p).sends o fs cws)).fabric.ports := by rw [← hsent]
  have hcount : Only [.regs, .power] e (touchPort (countFlits (e.bump (slotLink p) 0x050 fs.length) p 1 o.pkt.vc fs.length) p) :=
    ((touchPort_keeps ..).cut (by decide) <| (countFlits_keeps ..).cut (by decide) <| (State.bump_keeps ..).mono (by decide)).only
  generalize touchPort (countFlits (e.bump (slotLink p) 0x050 fs.length) p 1 o.pkt.vc fs.length) p = w at hcount ⊢
  have hw : Only [.regs, .fabric, .power, .out] s w := (he.mono (by decide)).trans (hcount.mono (by decide))
  have hwout : w.out = e.out := hcount.2 .out (by decide)
  have hwfab : w.fabric = e.fabric := hcount.2 .fabric (by decide)
  dsimp only
  split
  · have htimer := startTimer_keeps w o.pkt
    exact ⟨hw.trans (htimer.only.mono (by decide)), ((htimer.only.2 .out (by decide)).trans hwout).trans hout,
      (startTimer_ports w o.pkt).trans ((congrArg Fabric.ports hwfab).trans hports)⟩
  · exact ⟨hw, hwout.trans hout, (congrArg Fabric.ports hwfab).trans hports⟩

theorem flitsSent_port (q : Nat) : (flitsSent s p o fs cws).port q = (s.setPort p ((s.port p).sends o fs cws)).port q :=
  congrArg (fun t => Tbl.getD t q Port.start) (flitsSent_spec s p o fs cws).2.2

end

/-! ### PACKET_FORWARD -/

section
variable {s : State} {p vc : Nat}

theorem packetForward_none (h : ∀ r ∈ (s.port p).rx, r.vc ≠ vc ∨ r.routed = true) : packetForward s p vc = s := by
  have hfind : (s.port p).rx.find? (fun r => r.vc == vc && !r.routed) = none := by
    refine List.find?_eq_none.mpr fun r hr => ?_
    rcases h r hr with h | h <;> simp [h]
  unfold packetForward
  dsimp only
  rw [hfind]

/-- The packet is marked as routed in its buffer. -/
abbrev routedIn (s : State) (p : Nat) (r : RxPkt) : State :=
  s.setPort p { s.port p with rx := (s.port p).rx.map (fun x => if x.stamp = r.stamp then { x with routed := true } else x) }

variable {r : RxPkt} (hr : (s.port p).rx.find? (fun r => r.vc == vc && !r.routed) = some r)
include hr

theorem packetForward_wakes (h : portRuns s p = false) : packetForward s p vc = startWake s (16 + p) := by
  unfold packetForward
  dsimp only
  rw [hr]
  exact if_pos (congrArg (!·) h)

theorem packetForward_routes (h : portRuns s p = true) : packetForward s p vc
    = settle (if s.hurdled (.port (Fin.ofNat 6 p)) then routedIn s p r
      else forwardPacket (routedIn s p r) r.pkt ⟨some p, r.stamp, 1 + r.left + (r.pkt.data.length + 59) / 60⟩) := by
  unfold packetForward
  dsimp only
  rw [hr]
  exact if_neg (by rw [h]; decide)

end

section
variable (s : State) {k : Packet} (v : Via)

theorem forwardPacket_unicast (h : k.ptype ∉ [tMgmt, tMcBlock, tMcMarker]) : forwardPacket s k v = routeUnicast s k v := by
  simp only [List.mem_cons, List.not_mem_nil, or_false, not_or] at h
  exact (if_neg h.1).trans (if_neg (not_or.mpr h.2))

theorem forwardPacket_block (h : k.ptype = tMcBlock) : forwardPacket s k v
    = routeMulticast (if k.seq = 0 then clearPrunes s k.group k.gen else s) k v := by
  refine (if_neg (by rw [h]; decide)).trans ((if_pos (.inl h)).trans ?_)
  simp only [h, true_and]

theorem forwardPacket_marker (h : k.ptype = tMcMarker) : forwardPacket s k v = routeMulticast s k v := by
  refine (if_neg (by rw [h]; decide)).trans ((if_pos (.inr h)).trans ?_)
  rw [if_neg fun hb => absurd (h.symm.trans hb.1) (by decide)]

theorem forwardPacket_mgmt (h : k.ptype = tMgmt) (hdest : k.dest = selfNode s) (hop : k.opx ∈ [1, 2, 3, 8]) :
    forwardPacket s k v = enqueueLocal s k v :=
  (if_pos h).trans ((if_pos hdest).trans (if_pos (by simpa using hop)))

theorem forwardPacket_foreign (h : k.ptype = tMgmt) (hdest : k.dest ≠ selfNode s) : forwardPacket s k v = countNoRoute s :=
  (if_pos h).trans (if_neg hdest)

end

/-- Settles O43: an operation is `issueRemote`, a port sends what `pickOut` gives, and forwarding is by the packet's type. -/
theorem remoteOperations : Obligations.RemoteOperations := by
  refine ⟨?codes, ?joins, ?send, ?pick, ?settle, fun s p vc h => congrArg Host.Outcome.next (packetForward_none h), ?forward⟩
  case codes =>
    intro s u c p ws code hcode
    exact ⟨fun h => congrArg Host.Outcome.next (exec_remote_code hcode h), fun h => congrArg Host.Outcome.next (exec_remote_code hcode h),
      fun h => congrArg Host.Outcome.next (exec_remote_code hcode h), fun h => congrArg Host.Outcome.next (exec_remote_code hcode h)⟩
  case joins =>
    intro s u c p ws hcode
    have hjoin : ∀ {op}, Issues s op c.val u p ws → issue op c.val (issueRemote c.val) s = _ :=
      fun h => (issue_of_issues h _).trans (issueRemote_joins hcode)
    exact ⟨_, roFeed (u.core c.val) ⟨queued u c.val p ws, c.val, 0, roTotal (u.core c.val) ws, none, []⟩, rfl, rfl, rfl, rfl, rfl, rfl,
      rfl, fun h => congrArg Host.Outcome.next (hjoin h), fun h => congrArg Host.Outcome.next (hjoin h),
      fun h => congrArg Host.Outcome.next (hjoin h), fun h => congrArg Host.Outcome.next (hjoin h)⟩
  case send =>
    intro s u p hu
    have hexec : exec (.packetSend p) s = .next (portSends u p.val) := by rw [hu, ← packetSend_eq]; rfl
    rw [hexec]
    refine ⟨fun h => congrArg Host.Outcome.next (portSends_idle h),
      fun hup hq hruns => congrArg Host.Outcome.next (portSends_wakes hup hq hruns),
      fun hup hruns => ⟨fun h => congrArg Host.Outcome.next (portSends_unpicked hruns h), fun o n hpick hn => ?_⟩⟩
    rw [portSends_picked hup hruns hpick]
    have hthere : n = o.there - o.sent := hn
    refine ⟨fun h => congrArg Host.Outcome.next (if_pos (by omega)), fun h hfull => congrArg Host.Outcome.next ?_, fun h hroom => ?_⟩
    · exact (if_neg (by omega)).trans (if_pos (by omega))
    · have hsent : o.sent + n = o.there := by omega
      obtain ⟨honly, hout, -⟩ := flitsSent_spec u p.val o (((o.pkt.allFlits o.via.flits).take o.there).drop o.sent)
        (codewords ((((o.pkt.allFlits o.via.flits).take o.there).drop o.sent).length / 10 + 1) (u.port p.val).txSeq
          (((o.pkt.allFlits o.via.flits).take o.there).drop o.sent))
      rw [if_neg (by omega), if_neg (by omega), sendFlits_settles u p.val o rfl rfl, hsent]
      refine ⟨_, _, _, rfl, rfl, rfl, honly, hout, ?_, fun q hq => ?_⟩
      · rw [flitsSent_port, State.port_setPort_same]
        have hpart : (o.there < o.via.flits) = (o.pkt.flits < o.via.flits) := propext (by unfold OutPkt.there; omega)
        simp only [Port.sends, hpart]
      · rw [flitsSent_port, State.port_setPort_other _ _ hq]
  case pick =>
    intro s q o h
    obtain ⟨hmem, hstart⟩ := pickOut_spec h
    refine ⟨hmem, fun h0 => ?_⟩
    obtain ⟨hcredit, hfirst, hstamp⟩ := hstart h0
    obtain ⟨hflits, hmc⟩ := credits_of_lacksCredit h0 hcredit
    exact ⟨hflits, hmc, fun x hx => ⟨hfirst x hx, hstamp x hx⟩⟩
  case settle => exact fun s => ⟨(settle_keeps s).only, (settle_settles s).port⟩
  case forward =>
    intro s p vc r hr
    have hport : (Fin.ofNat 6 p.val) = p := Fin.ofNat_val_eq_self p
    refine ⟨fun h => congrArg Host.Outcome.next (packetForward_wakes hr h), fun h => ⟨_, _, rfl, rfl, fun hh => ?_, fun hh => ?_⟩⟩
    · refine congrArg Host.Outcome.next ((packetForward_routes hr h).trans ?_)
      rw [hport, if_pos hh]
    · have hexec : exec (.packetForward p vc) s = .next (settle (forwardPacket (routedIn s p.val r) r.pkt
          ⟨some p.val, r.stamp, 1 + r.left + (r.pkt.data.length + 59) / 60⟩)) := by
        refine congrArg Host.Outcome.next ((packetForward_routes hr h).trans ?_)
        rw [hport, if_neg (by rw [hh]; decide)]
      rw [hexec]
      refine ⟨fun ht => ?_, fun ht => ?_, fun ht => ?_, fun ht hdest hop => ?_, fun ht hdest => ?_⟩
      · rw [forwardPacket_unicast _ _ ht]
      · rw [forwardPacket_marker _ _ ht]
      · rw [forwardPacket_block _ _ ht]
      · rw [forwardPacket_mgmt _ _ ht hdest hop]
      · rw [forwardPacket_foreign _ _ ht hdest]

end Sys2Proof.Machine

/-! PROOFS. The link layer: codewords, NAKs, control flits, training and the fall of a link (12_ralso_fabric.md R314 to R317,
R339, R340). -/

namespace Sys2Proof.Machine

theorem port_of_fabric {s t : State} (h : t.fabric = s.fabric) (q : Nat) : t.port q = s.port q :=
  congrArg (fun x : Fabric => Tbl.getD x.ports q Port.start) h

section
variable {α : Type} (f : α → Out) (l : List α) (s : State)

theorem foldl_emit_only : Only [.out] s (l.foldl (fun u w => u.emit (f w)) s) := by
  rw [foldl_emit]
  exact Only.out ..

theorem foldl_emit_out : (l.foldl (fun u w => u.emit (f w)) s).out = s.out ++ l.map f := by rw [foldl_emit]

end

/-! ### What stays of the ports as packets move -/

/-- The port `w` is `v` but for its queue, its buffer and its count of freed flits. -/
def Port.SameLink (v w : Port) : Prop := w = { v with outQ := w.outQ, rx := w.rx, freed := w.freed }

/-- Each port of `t` is that of `s` in the same sense. -/
structure SameLinks (s t : State) : Prop where
  port : ∀ q, (s.port q).SameLink (t.port q)

theorem SameLinks.of_ports {s t : State} (h : t.fabric.ports = s.fabric.ports) : SameLinks s t := ⟨fun q => by
  rw [show t.port q = s.port q from congrArg (fun l => Tbl.getD l q Port.start) h]
  rfl⟩

theorem SameLinks.refl (s : State) : SameLinks s s := .of_ports rfl

theorem Port.SameLink.trans {u v w : Port} (h : u.SameLink v) (k : v.SameLink w) : u.SameLink w := by
  unfold Port.SameLink at *
  rw [k, h]

theorem SameLinks.trans {s t u : State} (h : SameLinks s t) (k : SameLinks t u) : SameLinks s u :=
  ⟨fun q => (h.port q).trans (k.port q)⟩

theorem SameLinks.foldl {α : Type} {f : State → α → State} (hf : ∀ u a, SameLinks u (f u a)) (l : List α) (s : State) :
    SameLinks s (l.foldl f s) := by
  induction l generalizing s with
  | nil => exact .refl s
  | cons a l ih => exact (hf s a).trans (ih _)

theorem SameLinks.setPort {s : State} {p : Nat} {v : Port} (h : (s.port p).SameLink v) : SameLinks s (s.setPort p v) :=
  ⟨fun x => by
    by_cases hx : x = p
    · subst hx
      rwa [State.port_setPort_same]
    · rw [State.port_setPort_other _ _ hx]
      rfl⟩

theorem settle_sameLinks (s : State) : SameLinks s (settle s) := ⟨fun q => by
  obtain ⟨rx, fr, hport, -⟩ := (settle_settles s).port q
  rw [hport]
  rfl⟩

theorem dropCopies_sameLinks (s : State) (stamp : Nat) : SameLinks s (dropCopies s stamp) := by
  unfold dropCopies
  dsimp only
  refine SameLinks.trans (SameLinks.foldl (fun u q => ?_) (List.range 6) s) (SameLinks.of_ports rfl)
  exact .setPort rfl

theorem countNoRoute_sameLinks (s : State) : SameLinks s (countNoRoute s) := .of_ports <| by
  unfold countNoRoute
  rw [State.pulse_fabric, (State.bump_keeps s slotRoute 0x05C 1).only.2 .fabric (by decide)]

theorem sendOn_sameLinks (s : State) (k : Packet) (v : Via) : SameLinks s (sendOn s k v) := by
  unfold sendOn
  split
  · exact .of_ports rfl
  · exact SameLinks.setPort rfl
  · exact countNoRoute_sameLinks s

theorem respond_sameLinks (s : State) (k : Packet) : SameLinks s (respond s k) := by
  have hstamp : SameLinks s (nextStamp s) := .of_ports rfl
  exact hstamp.trans (sendOn_sameLinks ..)

theorem dropQueued_sameLinks (s : State) (p : Nat) : SameLinks s (dropQueued s p) := by
  have hemptied : SameLinks s (s.setPort p { s.port p with outQ := [] }) := .setPort rfl
  refine (hemptied.trans (SameLinks.foldl (fun u o => ?_) _ _)).trans (settle_sameLinks _)
  refine (countNoRoute_sameLinks u).trans ?_
  dsimp only
  split
  · exact respond_sameLinks ..
  · exact .refl _

/-- The packet in progress is discarded; of the ports the queues and buffers are what else changes. -/
theorem dropPartial_sameLinks (s : State) (p : Nat) : SameLinks (s.setPort p { s.port p with partial_ := none }) (dropPartial s p) := by
  unfold dropPartial
  dsimp only
  split
  · refine SameLinks.trans ?_ ((dropCopies_sameLinks _ _).trans (settle_sameLinks _))
    refine ⟨fun x => ?_⟩
    by_cases hx : x = p
    · subst hx
      rw [State.port_setPort_same, State.port_setPort_same]
      rfl
    · rw [State.port_setPort_other _ _ hx, State.port_setPort_other _ _ hx]
      rfl
  next hnone =>
    refine ⟨fun x => ?_⟩
    by_cases hx : x = p
    · subst hx
      rw [State.port_setPort_same, ← hnone]
      rfl
    · rw [State.port_setPort_other _ _ hx]
      rfl

/-! ### A link leaves its state -/

theorem leaveUp_port_same (s : State) (p : Nat) (st : LinkSt) : (leaveUp s p st).port p = { s.port p with st := st } := by
  unfold leaveUp
  dsimp only
  split
  · exact State.port_setPort_same ..
  · exact State.port_setPort_same ..

theorem leaveUp_down {s : State} {p : Nat} {st : LinkSt} (h : (s.port p).st ≠ .up) :
    leaveUp s p st = s.setPort p { s.port p with st := st } := if_neg h

/-- The port of a link that has gone DOWN. -/
theorem linkFalls_port (s : State) (p : Nat) : (linkFalls s p).port p = { s.port p with
    st := .down, replay := [], outQ := ((linkFalls s p).port p).outQ
    rx := ((linkFalls s p).port p).rx, freed := ((linkFalls s p).port p).freed, partial_ := none } := by
  have hlinks : SameLinks (((leaveUp s p .down).setPort p { (leaveUp s p .down).port p with replay := [] }).setPort p
      { ((leaveUp s p .down).setPort p { (leaveUp s p .down).port p with replay := [] }).port p with partial_ := none }) (linkFalls s p) :=
    (dropPartial_sameLinks ..).trans (dropQueued_sameLinks ..)
  have hport := hlinks.port p
  rw [State.port_setPort_same, State.port_setPort_same, leaveUp_port_same] at hport
  unfold Port.SameLink at hport
  exact hport

/-! ### Codewords (R315) -/

section
variable {s : State} {p : Nat} {w : Codeword}

theorem codewordReceive_closed (fec : Fec) (h : (s.port p).st ≠ .up) : codewordReceive s p fec w = s := if_pos (by simpa using h)

variable (hup : (s.port p).st = .up)
include hup

/-- The codeword in sequence whose flits are good, `u` being the state with its correction counted. -/
theorem codewordReceive_taken {fec : Fec} {u : State} (hfec : fec ≠ .uncorrectable)
    (hu : u = if fec = .corrected then s.bump (slotLink p) 0x058 1 else s) (hseq : seqOf w = (s.port p).rxSeq)
    (hgood : ∀ f ∈ w.flits, flitGood f = true) : codewordReceive s p fec w = sendControl (w.flits.foldl (fun u f => takeFlit u p f)
      (u.setPort p { s.port p with rxSeq := (s.port p).rxSeq + 1, discard := false, rxNaks := 0 })) p := by
  have hnone : w.flits.filter (fun f => !flitGood f) = [] := by simpa using hgood
  subst hu
  unfold codewordReceive
  dsimp only
  rw [if_neg (by simp [hup])]
  split
  · exact absurd rfl hfec
  · rw [if_neg (not_not.mpr hseq), if_neg (by simp [hnone])]

theorem codewordReceive_outOfSequence (hdis : (s.port p).discard = false) (hseq : seqOf w ≠ (s.port p).rxSeq) :
    codewordReceive s p .clean w = refuseCodeword s p :=
  (if_neg (by simp [hup])).trans ((if_pos hseq).trans (if_neg (by simp [hdis])))

/-- A codeword with a bad flit is refused once its bad flits are counted. -/
theorem codewordReceive_badFlit (hseq : seqOf w = (s.port p).rxSeq) (h : ∃ f ∈ w.flits, flitGood f = false) :
    ∃ n, codewordReceive s p .clean w = refuseCodeword (s.bump (slotLink p) 0x060 n) p := by
  have hsome : (w.flits.filter (fun f => !flitGood f)).length ≠ 0 := by simpa using h
  exact ⟨_, (if_neg (by simp [hup])).trans ((if_neg (not_not.mpr hseq)).trans (if_pos hsome))⟩

/-- A codeword out of sequence, while earlier ones are awaited again. -/
theorem codewordReceive_awaiting (hdis : (s.port p).discard = true) (hseq : seqOf w ≠ (s.port p).rxSeq) :
    codewordReceive s p .clean w = s ∧ codewordReceive s p .uncorrectable w = s.bump (slotLink p) 0x05C 1 := by
  constructor
  · exact (if_neg (by simp [hup])).trans ((if_pos hseq).trans (if_pos hdis))
  · exact (if_neg (by simp [hup])).trans (if_pos ⟨hdis, hseq⟩)

end

/-- A NAK below the eighth in a row. -/
theorem refuseCodeword_naks {s : State} {p : Nat} (h : (s.port p).rxNaks < 7) : Only [.fabric, .out] s (refuseCodeword s p)
    ∧ (refuseCodeword s p).port p = { s.port p with discard := true, rxNaks := (s.port p).rxNaks + 1 }
    ∧ (refuseCodeword s p).out
      = s.out ++ [.control p (mkFlit false (controlWords true false (s.port p).rxSeq []))] := by
  have hrefuse : refuseCodeword s p
      = sendNak (s.setPort p { s.port p with discard := true, rxNaks := (s.port p).rxNaks + 1 }) p := if_neg (by omega)
  rw [hrefuse]
  refine ⟨((sendNak_keeps ..).cut (by decide) ((State.setPort_keeps ..).mono (by decide))).only, State.port_setPort_same .., ?_⟩
  show s.out ++ [.control p (mkFlit false (controlWords true false
    ((s.setPort p { s.port p with discard := true, rxNaks := (s.port p).rxNaks + 1 }).port p).rxSeq []))] = _
  rw [State.port_setPort_same]

/-! ### NAKs and control flits (R315 to R317) -/

section
variable {s : State} {p : Nat}

theorem nakReceive_closed (seq : BitVec 12) (h : (s.port p).st ≠ .up) : nakReceive s p seq = s := if_pos (by simpa using h)

/-- A NAK is taken: the codewords before the one that it names have been received. -/
theorem nakReceive_up {u : State} {q : BitVec 12} {n : Nat} {l : List Codeword} (hup : (s.port p).st = .up)
    (hn : n = if (s.port p).nakSeq = q ∧ (s.port p).naks ≠ 0 then (s.port p).naks + 1 else 1)
    (hl : l = ackedTo (s.port p).replay (q - 1))
    (hu : u = ((s.setPort p { s.port p with replay := l, nakSeq := q, naks := n }).bump (slotLink p) 0x064 1).pulse (slotLink p) 1) :
    nakReceive s p q = if 8 ≤ n then startRetrain u p else l.foldl (fun u w => u.emit (.codeword p w)) u := by
  subst hn hl hu
  exact if_neg (by simp [hup])

theorem controlFlitReceive_closed (f : Flit) (h : (s.port p).st ≠ .up) : controlFlitReceive s p f = s := if_pos (by simpa using h)

variable {f : Flit} (hup : (s.port p).st = .up)
include hup

theorem controlFlitReceive_bad (h : flitGood f = false) : controlFlitReceive s p f = s.bump (slotLink p) 0x060 1 :=
  (if_neg (by simp [hup])).trans (if_pos (by rw [h]; rfl))

theorem controlFlitReceive_data (h : flitGood f = true) (hdata : f.data = true) : controlFlitReceive s p f = s :=
  (if_neg (by simp [hup])).trans ((if_neg (by simp [h])).trans (if_pos (by simp [hdata])))

theorem controlFlitReceive_control (h : flitGood f = true) (hdata : f.data = false) (htype : bits (wd f.words.toList 0) 31 28 = 1) :
    controlFlitReceive s p f = takeControl s p f.words.toList :=
  (if_neg (by simp [hup])).trans ((if_neg (by simp [h])).trans (if_neg (by simp [hdata, htype])))

end

/-- A control flit without NAK acknowledges and returns credits. -/
theorem takeControl_acks {s : State} {p : Nat} {ws : List Word} (h : bit (wd ws 0) 26 = false) :
    Only [.fabric] s (takeControl s p ws) ∧ (takeControl s p ws).port p = { s.port p with
      naks := 0, replay := ackedTo (s.port p).replay ((wd ws 0).setWidth 12)
      credits := if bit (wd ws 0) 27 then fullCredits else ((s.port p).credits.zip ((List.range 7).map (fun i =>
        bits (wd ws (1 + i / 4)) (8 * (i % 4) + 7) (8 * (i % 4))))).map (fun x => x.1 + x.2) } := by
  unfold takeControl
  dsimp only
  rw [if_neg (by simp [h])]
  refine ⟨((State.setPort_keeps ..).cut (by decide) ((State.setPort_keeps ..).mono (by decide))).only, ?_⟩
  rw [State.port_setPort_same, State.port_setPort_same]

/-! ### Training (R339) -/

theorem startTraining_down {s : State} {p : Nat} (h : (s.port p).st = .down) : Only [.regs, .fabric] s (startTraining s p)
    ∧ (startTraining s p).port p = { s.port p with st := .training, trainAt := s.now } := by
  have hleave : leaveUp s p .training = s.setPort p { s.port p with st := .training } := leaveUp_down (by rw [h]; decide)
  unfold startTraining
  dsimp only
  rw [hleave]
  refine ⟨((State.bump_keeps ..).cut (by decide) <| (State.setPort_keeps ..).cut (by decide) <|
    (State.setPort_keeps ..).mono (by decide)).only, ?_⟩
  rw [port_of_fabric ((State.bump_keeps _ (slotLink p) 0x04C 1).only.2 .fabric (by decide)), State.port_setPort_same,
    State.port_setPort_same]

section
variable {s : State} {p : Nat} (r : TrainResult)

/-- The port of a link that has trained. -/
abbrev Port.trained (v : Port) (st : LinkSt) : Port :=
  { v with st := st, reversed := r.reversed, peerPort := r.port.val, peer := r.coord, polLo := r.polLo, polHi := r.polHi
           naks := 0, rxNaks := 0 }

theorem trainingComplete_trains (h : (s.port p).st = .training) : trainingComplete s p (some r) = touchPort (s.setPort p
    { (s.port p).trained r (if peerRight s p r then .up else .miswired) with
      txSeq := 0, rxSeq := 0, replay := [], credits := fullCredits, discard := false
      rx := (s.port p).rx.map (fun r => { r with flits := 0 }), freed := [0, 0, 0, 0, 0, 0, 0] }) p :=
  (if_neg (by simp [h])).trans (if_neg (by simp [h]))

theorem trainingComplete_fails (h : (s.port p).st = .training) :
    trainingComplete s p none = s.setPort p { s.port p with st := .down } :=
  (if_neg (by simp [h])).trans (if_neg (by simp [h]))

theorem trainingComplete_resumes {l : List Codeword} (h : (s.port p).st = .retrain)
    (hl : l = ackedTo (s.port p).replay ((s.port p).nakSeq - 1)) (hright : peerRight s p r = true) : trainingComplete s p (some r)
      = l.foldl (fun u w => u.emit (.codeword p w)) (s.setPort p { (s.port p).trained r .up with replay := l }) := by
  have hst : (if peerRight s p r then LinkSt.up else .miswired) = .up := if_pos hright
  subst hl
  refine (if_neg (by simp [h])).trans ((if_pos (by simp [h])).trans ((if_pos hst).trans ?_))
  rw [hst]

theorem trainingComplete_miswired (h : (s.port p).st = .retrain) (hright : peerRight s p r = false) :
    trainingComplete s p (some r) = s.setPort p ((s.port p).trained r .miswired) := by
  have hst : (if peerRight s p r then LinkSt.up else .miswired) = .miswired := if_neg (by rw [hright]; decide)
  refine (if_neg (by simp [h])).trans ((if_pos (by simp [h])).trans ((if_neg (fun hup => absurd (hst.symm.trans hup) (by decide))).trans ?_))
  rw [hst]

theorem trainingComplete_again (h : (s.port p).st = .retrain) : trainingComplete s p none = s :=
  (if_neg (by simp [h])).trans (if_pos (by simp [h]))

theorem trainingComplete_other (r : Option TrainResult) (h : (s.port p).st ∉ [LinkSt.training, LinkSt.retrain]) :
    trainingComplete s p r = s := by
  refine if_pos ?_
  simp only [List.mem_cons, List.not_mem_nil, or_false, not_or] at h
  simp [h.1, h.2]

end

/-! ### LINK.CTRL (Table 12-14) -/

theorem pageKind_link (p : PortId) : pageKind (slotLink p.val) = .link p.val := by
  revert p
  decide

/-- CTRL of a port as a write leaves it. -/
abbrev linkSet (s : State) (p : Nat) (v : Word) : State := s.setReg (slotLink p) 0x008 (v &&& 0x84000000)

theorem exec_linkTrain {s : State} {f : FuncId} {p : PortId} (h : Reaches s f (regAt (slotLink p.val) 0x008)) (v : Word) :
    exec (.linkTrain f p v) s = .next (evtAfterWrite (linkCtrlWrite s.fromHost p.val (v ||| 0x08000000)) (slotLink p.val)) := by
  refine (registerWrite_page (by decide) h (v ||| 0x08000000)).trans (congrArg Host.Outcome.next ?_)
  rw [pageWrite_header _ _ _ _ _ (by decide)]
  show evtAfterWrite (ctrlWrite ..) _ = _
  unfold ctrlWrite
  rw [pageKind_link]

section
variable {s : State} {p : PortId} {v : Word}

theorem linkCtrl_enabled (h : bit v 26 = true) (htrain : bit v 27 = false) : linkCtrl s p.val v = linkSet s p.val v := by
  unfold linkCtrl
  dsimp only
  rw [h, htrain]
  rfl

/-- TRAIN of a port that may start: with ENABLE it trains, without it its link goes DOWN. -/
theorem linkCtrlWrite_runs (hh : s.hurdled (.port p) = false) (hrun : (s.dom (16 + p.val)).st = .run) :
    linkCtrlWrite s p.val (v ||| 0x08000000) = if bit v 26 then startTraining (linkSet s p.val v) p.val
      else if (s.port p.val).st = .down then linkSet s p.val v else linkFalls (linkSet s p.val v) p.val := by
  have hport : Fin.ofNat 6 p.val = p := Fin.ofNat_val_eq_self p
  unfold linkCtrlWrite linkCtrl
  dsimp only
  rw [hport, hh, hrun, bit_or_other v (i := 26) (by decide), bit_or_strobe v (i := 27) (by decide),
    and_mask_or v (m := 0x84000000) (by decide), if_neg (by decide), if_neg (by decide), if_neg (by decide)]
  cases bit v 26 <;> rfl

theorem linkCtrl_rest (h : bit v 26 = true) :
    linkCtrl s p.val ((v ||| 0x08000000) &&& 0xF7FFFFFF) = linkSet s p.val v := by
  have hen : bit (v &&& 0xF7FFFFFF) 26 = true := by
    rw [bit_and, h]
    decide
  have htrain : bit (v &&& 0xF7FFFFFF) 27 = false := by
    rw [bit_and, show bit (0xF7FFFFFF : Word) 27 = false by decide, Bool.and_false]
  have hfields : (v &&& 0xF7FFFFFF) &&& 0x84000000 = v &&& 0x84000000 := by
    rw [BitVec.and_assoc]
    rfl
  rw [and_mask_or v (m := 0xF7FFFFFF) (by decide), linkCtrl_enabled hen htrain, linkSet, hfields]

theorem linkCtrlWrite_hurdled (hv : bit v 26 = true) (hh : s.hurdled (.port p) = true) : linkCtrlWrite s p.val (v ||| 0x08000000)
    = (linkSet s p.val v).strobeRefused (slotLink p.val) 0x008 27 1 := by
  have hport : Fin.ofNat 6 p.val = p := Fin.ofNat_val_eq_self p
  unfold linkCtrlWrite
  dsimp only
  rw [hport, hh, bit_or_strobe v (i := 27) (by decide), if_neg (by decide), if_pos rfl, linkCtrl_rest hv]

theorem linkCtrlWrite_asleep (hv : bit v 26 = true) (hh : s.hurdled (.port p) = false) (hrun : (s.dom (16 + p.val)).st ≠ .run) :
    linkCtrlWrite s p.val (v ||| 0x08000000) = (linkSet s p.val v).strobeRefused (slotLink p.val) 0x008 27 2 := by
  have hport : Fin.ofNat 6 p.val = p := Fin.ofNat_val_eq_self p
  unfold linkCtrlWrite
  dsimp only
  rw [hport, hh, bit_or_strobe v (i := 27) (by decide), if_neg (by decide), if_neg (by decide), if_pos (by simpa using hrun),
    linkCtrl_rest hv]

end

/-- Settles O47: each command is the lemma of its case; a link that falls changes its port as `linkFalls_port` says. -/
theorem linkLayer : Obligations.LinkLayer := by
  refine ⟨?closed, ?taken, ?refused, ?awaiting, ?nak, ?control, ?falls, ?peer, ?train, ?trained, ?retrained,
    fun s p r h => congrArg Host.Outcome.next (trainingComplete_other r h)⟩
  case closed =>
    intro s p h
    exact ⟨fun e w => congrArg Host.Outcome.next (codewordReceive_closed e h),
      fun f => congrArg Host.Outcome.next (controlFlitReceive_closed f h), fun n => congrArg Host.Outcome.next (nakReceive_closed n h)⟩
  case taken =>
    intro s p w hup hseq hgood
    exact ⟨congrArg Host.Outcome.next (codewordReceive_taken hup (by decide) rfl hseq hgood),
      congrArg Host.Outcome.next (codewordReceive_taken hup (by decide) rfl hseq hgood)⟩
  case refused =>
    intro s p w hup hdis hnaks h
    by_cases hseq : seqOf w ≠ (s.port p.val).rxSeq
    · obtain ⟨honly, hport, hout⟩ := refuseCodeword_naks hnaks
      exact ⟨_, congrArg Host.Outcome.next (codewordReceive_outOfSequence hup hdis hseq), honly.mono (by decide), hport, hout⟩
    · obtain ⟨n, hbad⟩ := codewordReceive_badFlit hup (not_not.mp hseq) (h.resolve_left hseq)
      have hbump := (State.bump_keeps s (slotLink p.val) 0x060 n).only
      have hport := port_of_fabric (hbump.2 .fabric (by decide)) p.val
      obtain ⟨honly, hnaked, hout⟩ := refuseCodeword_naks (s := s.bump (slotLink p.val) 0x060 n) (hport ▸ hnaks)
      rw [hport] at hnaked hout
      exact ⟨_, congrArg Host.Outcome.next hbad, (hbump.mono (by decide)).trans (honly.mono (by decide)), hnaked,
        hout.trans (congrArg (· ++ _) (hbump.2 .out (by decide)))⟩
  case awaiting =>
    intro s p w hup hdis hseq
    obtain ⟨hclean, hbad⟩ := codewordReceive_awaiting hup hdis hseq
    exact ⟨congrArg Host.Outcome.next hclean, congrArg Host.Outcome.next hbad⟩
  case nak =>
    intro s u p q n l hup hn hl hu
    have hexec : exec (.nakReceive p q) s = .next (if 8 ≤ n then startRetrain u p.val
        else l.foldl (fun u w => u.emit (.codeword p.val w)) u) := congrArg Host.Outcome.next (nakReceive_up hup hn hl hu)
    rw [hexec]
    exact ⟨fun h => ⟨_, congrArg Host.Outcome.next (if_neg (by omega)), foldl_emit_only (fun w => Out.codeword p.val w) l u,
      foldl_emit_out (fun w => Out.codeword p.val w) l u⟩, fun h => congrArg Host.Outcome.next (if_pos h)⟩
  case control =>
    intro s p f hup
    refine ⟨fun h => congrArg Host.Outcome.next (controlFlitReceive_bad hup h),
      fun h hd => congrArg Host.Outcome.next (controlFlitReceive_data hup h hd), fun h hd htype hnak => ?_⟩
    obtain ⟨honly, hport⟩ := takeControl_acks (s := s) (p := p.val) hnak
    exact ⟨_, congrArg Host.Outcome.next (controlFlitReceive_control hup h hd htype), honly, hport⟩
  case falls =>
    intro s p
    refine ⟨fun hst hlate => congrArg Host.Outcome.next (if_pos ?_), fun h => congrArg Host.Outcome.next (if_neg ?_),
      fun h => congrArg Host.Outcome.next (if_pos ?_), fun h => congrArg Host.Outcome.next (if_neg ?_), linkFalls_port s p.val⟩
    · simp [hst, State.acSince, hlate]
    · simp only [State.acSince, Bool.and_eq_true, beq_iff_eq, decide_eq_true_eq, not_and]
      intro hst
      rcases h with h | h
      · exact absurd hst h
      · omega
    · simpa [or_assoc] using h
    · simpa [or_assoc] using h
  case peer =>
    intro s p
    refine ⟨fun hst hen hruns => ?_, fun h => congrArg Host.Outcome.next (if_neg ?_)⟩
    · obtain ⟨honly, hport⟩ := startTraining_down hst
      exact ⟨_, congrArg Host.Outcome.next (if_pos (by simp [hst, linkEnabled, hen, hruns])), honly, hport⟩
    · rcases h with h | h | h
      · simp [h]
      · simp [linkEnabled, h]
      · simp [h]
  case train =>
    rintro s _ f p v hr rfl
    rw [exec_linkTrain hr]
    refine ⟨fun hh hrun => ?_, fun hv hh => ?_, fun hv hh hrun => ?_⟩
    · have hport : s.fromHost.port p.val = s.port p.val := port_of_fabric (fromHost_fabric s) p.val
      rw [linkCtrlWrite_runs hh hrun, hport]
      refine ⟨fun hv => ?_, fun hv hst => ?_, fun hv hst => ?_⟩
      · rw [hv, if_pos rfl]
      · rw [hv, if_neg (by decide), if_pos hst]
      · rw [hv, if_neg (by decide), if_neg hst]
    · rw [linkCtrlWrite_hurdled hv hh]
    · rw [linkCtrlWrite_asleep hv hh hrun]
  case trained =>
    intro s p r hst
    refine ⟨⟨_, congrArg Host.Outcome.next (trainingComplete_trains r hst),
      ((touchPort_keeps ..).cut (by decide) ((State.setPort_keeps ..).mono (by decide))).only, ?_⟩,
      congrArg Host.Outcome.next (trainingComplete_fails hst)⟩
    have htouch : ∀ u q, (touchPort u p.val).port q = u.port q := fun u q => port_of_fabric ((touchPort_keeps u p.val).only.2 .fabric (by decide)) q
    rw [htouch, State.port_setPort_same]
    exact ⟨rfl, rfl, rfl, rfl, rfl, rfl, rfl, rfl, fun q hq => (htouch _ q).trans (State.port_setPort_other _ _ hq)⟩
  case retrained =>
    intro s p r l hst hl
    refine ⟨?_, congrArg Host.Outcome.next (trainingComplete_again hst)⟩
    cases hright : peerRight s p.val r with
    | true =>
      refine ⟨_, congrArg Host.Outcome.next (trainingComplete_resumes r hst hl hright), ?_⟩
      have hemit := foldl_emit_only (fun w => Out.codeword p.val w) l (s.setPort p.val { (s.port p.val).trained r .up with replay := l })
      have hport := port_of_fabric (hemit.2 .fabric (by decide))
      refine ⟨((State.setPort_keeps ..).only.mono (by decide)).trans (hemit.mono (by decide)), ?_⟩
      rw [hport, State.port_setPort_same]
      exact ⟨rfl, fun _ => ⟨rfl, foldl_emit_out ..⟩, fun h => absurd h (by decide), rfl, rfl,
        fun q hq => (hport q).trans (State.port_setPort_other _ _ hq)⟩
    | false =>
      refine ⟨_, congrArg Host.Outcome.next (trainingComplete_miswired r hst hright), (State.setPort_keeps ..).only.mono (by decide), ?_⟩
      rw [State.port_setPort_same]
      exact ⟨rfl, fun h => absurd h (by decide), fun _ => rfl, rfl, rfl, fun q hq => State.port_setPort_other _ _ hq⟩

end Sys2Proof.Machine

/-! PROOFS. The power domains: their commands, entries, wakes and transitions (14_power_clocks.md R378 to R390). -/

namespace Sys2Proof.Machine

/-! ### The state of a domain -/

theorem dom_of_power {s t : State} (h : t.power = s.power) (d : Nat) : t.dom d = s.dom d :=
  congrArg (fun p : Power => Tbl.getD p.doms d (domStart d)) h

/-- Counting registers of the PWR page count no event: a change of one is that of a register. -/
theorem bump_pwr (s : State) (off n : Nat) : s.bump slotPwr off n = s.setReg slotPwr off (s.reg slotPwr off + w32 n) := rfl

/-- Beside the domain itself a change of one counts in ENTRIES, pulses and is traced. -/
theorem changeDom_rest (s : State) (d : Nat) (v : Dom) : Only [.regs, .evts, .sharal] (s.setDom d v) (changeDom s d v) := by
  have hcount : Keeps [.regs] (s.setDom d v) ([24, 27].foldl (fun u x => if x = d then u else countFollower (s.domSt x) u x) (s.setDom d v)) :=
    Keeps.foldl _ _ (fun u x => Keeps.ite (fun _ => Keeps.refl _ u) fun _ => countFollower_keeps ..) (Keeps.refl _ _)
  unfold changeDom
  dsimp only
  split
  · exact (hcount.mono (by decide)).only
  · refine (Keeps.foldl _ _ (fun u i => ?_) ((State.pulse_keeps ..).cut (qs := [.regs, .evts, .sharal]) (by decide)
      (hcount.mono (by decide)))).only
    exact Keeps.ite (fun _ => Keeps.refl _ u) fun _ => (traceEv_keeps ..).mono (by decide)

theorem changeDom_dom_same (s : State) (d : Nat) (v : Dom) : (changeDom s d v).dom d = v := by
  rw [dom_of_power ((changeDom_rest s d v).2 .power (by decide)), State.dom_setDom_same]

theorem changeDom_dom_other (s : State) {d e : Nat} (v : Dom) (h : e ≠ d) : (changeDom s d v).dom e = s.dom e := by
  rw [dom_of_power ((changeDom_rest s d v).2 .power (by decide)), State.dom_setDom_other _ _ h]

theorem countFollower_reg (was : PSt) (s : State) (d : Nat) {slot off : Nat} (h : regAt slot off ≠ regAt slotPwr 0x064) :
    (countFollower was s d).reg slot off = s.reg slot off := by
  unfold countFollower
  split
  · rw [bump_pwr, State.reg_setReg_other _ _ h]
  · rfl

/-- Of the registers a change of a domain changes ENTRIES at most. -/
theorem changeDom_reg (s : State) (d : Nat) (v : Dom) {slot off : Nat} (h : regAt slot off ≠ regAt slotPwr 0x064) :
    (changeDom s d v).reg slot off = s.reg slot off := by
  have hcount : ([24, 27].foldl (fun u x => if x = d then u else countFollower (s.domSt x) u x) (s.setDom d v)).reg slot off
      = s.reg slot off := by
    refine List.foldlRecOn (motive := fun u : State => u.reg slot off = s.reg slot off) _ _ rfl fun u hu x _ => ?_
    split
    · exact hu
    · rw [countFollower_reg _ _ _ h, hu]
  unfold changeDom
  dsimp only
  split
  · exact hcount
  · refine List.foldlRecOn (motive := fun u : State => u.reg slot off = s.reg slot off) _ _ ?_ fun u hu i _ => ?_
    · exact (reg_of_regs (State.pulse_regs ..) ..).trans hcount
    · split
      · exact hu
      · rw [reg_of_regs ((traceEv_keeps ..).only.2 .regs (by decide)), hu]

/-! ### Wakes -/

theorem countWake_dom (was : List Nat) (s : State) (d : Nat) : (countWake was s).dom d = s.dom d :=
  dom_of_power ((countWake_keeps was s).only.2 .power (by decide)) d

theorem wakeOne_asleep {s : State} {d : Nat} (hst : (s.dom d).st = .doze ∨ (s.dom d).st = .nap) (ht : (s.dom d).target = none) :
    ((wakeOne s d).dom d).waking = true ∧ ((wakeOne s d).dom d).target = none := by
  unfold wakeOne
  dsimp only
  rw [ht]
  dsimp only
  split
  next h =>
    have hrun : (s.dom d).st ≠ .run ∧ (s.dom d).st ≠ .off := by rcases hst with h | h <;> simp [h]
    exact ⟨by simpa [hrun.1, hrun.2] using h, ht⟩
  · rw [countWake_dom, State.dom_setDom_same]
    exact ⟨rfl, rfl⟩

theorem wakeOne_reverses {s : State} {d : Nat} {g : PSt} (ht : (s.dom d).target = some g) (hg : g ≠ .off) :
    (wakeOne s d).dom d = { s.dom d with st := g, target := none, waking := true } := by
  have hwake : wakeOne s d = countWake (wakers s) (changeDom s d { s.dom d with st := g, target := none, waking := true }) := by
    unfold wakeOne
    dsimp only
    rw [ht]
    cases g with
    | off => exact absurd rfl hg
    | run => rfl
    | doze => rfl
    | nap => rfl
  rw [hwake, countWake_dom, changeDom_dom_same]

theorem wakeOne_dom_other (s : State) {d e : Nat} (h : e ≠ d) : (wakeOne s d).dom e = s.dom e := by
  unfold wakeOne
  dsimp only
  split
  · rfl
  · rw [countWake_dom, changeDom_dom_other _ _ h]
  · split
    · rfl
    · rw [countWake_dom, State.dom_setDom_other _ _ h]

theorem wakeOne_waking {s : State} {d : Nat} (hw : (s.dom d).waking = true) (ht : (s.dom d).target = none) : wakeOne s d = s := by
  unfold wakeOne
  dsimp only
  rw [ht, hw]
  rfl

/-- A wake of a domain that is waking once its own wake has started. -/
theorem startWake_dom {s : State} {d : Nat} (hw : ((wakeOne s d).dom d).waking = true) (ht : ((wakeOne s d).dom d).target = none) :
    (startWake s d).dom d = (wakeOne s d).dom d := by
  unfold startWake
  by_cases hd : d = 26
  · subst hd
    rw [wakeOne_waking hw ht]
  · exact wakeOne_dom_other _ hd

/-! ### Entries -/

theorem startEntry_dom (s : State) (d : Nat) (g : PSt) :
    (startEntry s d g).dom d = { s.dom d with target := some g, waking := false } :=
  State.dom_setDom_same ..

section
variable {s : State} {d : Nat} {g : PSt} (ht : (s.dom d).target = none)
include ht

theorem lowerTo_stays (h : (s.dom d).st.rank ≤ g.rank) (hw : (s.dom d).waking = false) : lowerTo s d g = s := by
  unfold lowerTo
  dsimp only
  rw [ht]
  exact if_pos ⟨h, by rw [hw]; rfl⟩

theorem lowerTo_enters (h : g.rank < (s.dom d).st.rank) : lowerTo s d g
    = if 16 ≤ d ∧ d < 22 ∧ g.rank ≤ 1 ∧ (s.port (d - 16)).st ≠ .down then linkFalls (startEntry s d g) (d - 16) else startEntry s d g := by
  unfold lowerTo
  dsimp only
  rw [ht]
  exact if_neg fun hle => absurd hle.1 (Nat.not_le.mpr h)

end

/-! ### What a fold loses and is filled with (R377, R379) -/

/-- Pages that are lost leave the cores and the Drover. -/
theorem pagesLost_only (l : List Nat) (u : State) :
    Only [.regs, .evts, .faults] u (l.foldl (fun u p => pageLost u p keepNone) u) :=
  (Keeps.foldl _ l (fun u p => pageLost_keeps u p keepNone) (Keeps.refl _ u)).only

theorem coreLost_images (s : State) (c : Nat) : (coreLost s c).drover.images = s.drover.images := by
  have hpins : ∀ (l : List Image) (u : State), (l.foldl (fun u i => pinCore u i c) u).drover = u.drover := fun l u =>
    (Keeps.foldl (ps := [.cores]) _ l (fun u i => pinCore_keeps u i c) (Keeps.refl _ u)).only.2 .drover (by decide)
  have hpages := congrArg Drover.images ((pagesLost_only [slotCore c, slotArr c, slotAtt c, slotStrm c, slotDrove c]
    { s with cores := Tbl.del s.cores c }).2 .drover (by decide))
  unfold coreLost
  dsimp only
  rw [hpins]
  exact hpages

/-- The cores after one has lost its units and no image has still to be pinned on it. -/
theorem coreLost_cores {s : State} (c : Nat) (h : ∀ i ∈ s.drover.images, i.st ≠ .loading) :
    (coreLost s c).cores = Tbl.del s.cores c := by
  have hnone : s.drover.images.filter (fun i => i.st == .loading) = [] := by simpa using h
  unfold coreLost
  dsimp only
  rw [show ∀ u : State, (u.mapDrover (fun d => { d with noCharge := d.noCharge.filter (fun n => n != c) })).drover.images
    = u.drover.images from fun _ => rfl, (pagesLost_only _ _).2 .drover (by decide), hnone]
  exact (pagesLost_only _ _).cores_eq (by decide)

theorem coreLost_core_other (s : State) {c x : Nat} (h : x ≠ c) : (coreLost s c).core x = s.core x := by
  have hdel : State.core { s with cores := Tbl.del s.cores c } x = s.core x :=
    congrArg (Option.getD · Core.idle) (Tbl.get_del_other _ h)
  unfold coreLost
  dsimp only
  refine List.foldlRecOn (motive := fun u : State => u.core x = s.core x) _ _ ?_
    fun u hu i _ => (pinCore_core_other u i h).trans hu
  exact (core_of_cores ((pagesLost_only [slotCore c, slotArr c, slotAtt c, slotStrm c, slotDrove c] _).cores_eq (by decide)) x).trans hdel

theorem coreLost_core_same {s : State} (c : Nat) (h : ∀ i ∈ s.drover.images, i.st ≠ .loading) : (coreLost s c).core c = Core.idle := by
  unfold State.core Tbl.getD
  rw [coreLost_cores c h, Tbl.get_del_same]
  rfl

/-- The cores of a list have lost their units, and no others. -/
theorem coresLost_core {s : State} (h : ∀ i ∈ s.drover.images, i.st ≠ .loading) (l : List Nat) (x : Nat) :
    (l.foldl coreLost s).core x = if x ∈ l then Core.idle else s.core x := by
  induction l generalizing s with
  | nil => rfl
  | cons c l ih =>
    rw [List.foldl_cons, ih (by rwa [coreLost_images])]
    by_cases hl : x ∈ l
    · rw [if_pos hl, if_pos (List.mem_cons_of_mem _ hl)]
    · by_cases hx : x = c
      · subst hx
        rw [if_neg hl, if_pos List.mem_cons_self, coreLost_core_same x h]
      · rw [if_neg hl, if_neg (by simp [hx, hl]), coreLost_core_other _ hx]

theorem mem_coresIn {f x : Nat} : x ∈ coresIn f ↔ x / 16 = f := by
  unfold coresIn
  simp only [List.mem_map, List.mem_range]
  exact ⟨fun ⟨i, hi, hx⟩ => by omega, fun h => ⟨x % 16, Nat.mod_lt _ (by decide), by omega⟩⟩

theorem foldLost_core {s : State} (h : ∀ i ∈ s.drover.images, i.st ≠ .loading) (f x : Nat) :
    (foldLost s f).core x = if x / 16 = f then Core.idle else s.core x := by
  have hpage := (pageLost_keeps s (slotFold f) keepNone).only
  have himages : ∀ i ∈ (pageLost s (slotFold f) keepNone).drover.images, i.st ≠ .loading := by
    rwa [hpage.2 .drover (by decide)]
  unfold foldLost
  rw [coresLost_core himages, core_of_cores (hpage.cores_eq (by decide))]
  simp only [mem_coresIn]

theorem Memory.read_zeroRange (m : Memory) (a n b : Nat) :
    (m.zeroRange a n).read b = if a ≤ b ∧ b < a + n then 0 else m.read b := by
  unfold Memory.read Memory.zeroRange Tbl.getD
  rw [Tbl.get_filter m.cells (fun k => !(decide (a ≤ k) && decide (k < a + n)))]
  by_cases h : a ≤ b ∧ b < a + n
  · rw [if_pos h, if_neg (by simp [h])]
    rfl
  · rw [if_neg h, if_pos (by simp; omega)]

theorem foldZeroed_read (s : State) (f a : Nat) : (foldZeroed s f).mem.read a
    = if (nearBase (16 * f) ≤ a ∧ a < nearBase (16 * f) + 16 * 0x100000)
        ∨ (columnBase (16 * f) ≤ a ∧ a < columnBase (16 * f) + 16 * 0x800000) then 0 else s.mem.read a := by
  show ((s.mem.zeroRange (nearBase (16 * f)) (16 * 0x100000)).zeroRange (columnBase (16 * f)) (16 * 0x800000)).read a = _
  rw [Memory.read_zeroRange, Memory.read_zeroRange]
  by_cases hcol : columnBase (16 * f) ≤ a ∧ a < columnBase (16 * f) + 16 * 0x800000
  · rw [if_pos hcol, if_pos (.inr hcol)]
  · rw [if_neg hcol]
    simp only [hcol, or_false]

/-! ### The end of a transition (R378) -/

section
variable {s : State} {d : Nat}

theorem transition_none (ht : (s.dom d).target = none) (hw : (s.dom d).waking = false) : domainTransitionComplete s d = s := by
  unfold domainTransitionComplete
  dsimp only
  rw [ht, hw]
  rfl

theorem transition_writes (ht : (s.dom d).target = some .off) (hd : d < 16) (h : foldWrites s d = true) :
    domainTransitionComplete s d = s := by
  unfold domainTransitionComplete
  dsimp only
  rw [ht]
  exact if_pos ⟨rfl, hd, h⟩

theorem transition_ends {g : PSt} (ht : (s.dom d).target = some g) (h : g = .off → d < 16 → foldWrites s d = false) :
    domainTransitionComplete s d = entryDone s d g := by
  unfold domainTransitionComplete
  dsimp only
  rw [ht]
  refine if_neg fun ⟨hg, hd, hwrites⟩ => ?_
  rw [h hg hd] at hwrites
  cases hwrites

theorem transition_wakes (ht : (s.dom d).target = none) (hw : (s.dom d).waking = true) :
    domainTransitionComplete s d = wakeDone s d := by
  unfold domainTransitionComplete
  dsimp only
  rw [ht]
  exact if_pos hw

end

/-- The domain with its entry at an end. -/
abbrev entryEnded (s : State) (d : Nat) (g : PSt) : State := changeDom s d { s.dom d with st := g, target := none, commit := false }

theorem entryDone_dom (s : State) (d : Nat) (g : PSt) : (entryDone s d g).dom d = { s.dom d with st := g, target := none, commit := false } := by
  have hchange := changeDom_dom_same s d { s.dom d with st := g, target := none, commit := false }
  unfold entryDone
  dsimp only
  split
  · have hlost : Only _ _ (critDone (domainLost (entryEnded s d g) d)) :=
      ((critDone_keeps _).cut (qs := [.regs, .evts, .faults, .cores, .drover, .herd, .paddock, .fabric, .out, .resets]) (by decide)
        ((domainLost_keeps _ d).mono (by decide))).only
    exact (dom_of_power (hlost.2 .power (by decide)) d).trans hchange
  · exact hchange

theorem entryDone_off (s : State) {d : Nat} (hd : d < 16) : entryDone s d .off = critDone (foldLost (entryEnded s d .off) d) := by
  unfold entryDone domainLost
  dsimp only
  rw [if_pos rfl, if_pos hd]

theorem entryDone_on (s : State) (d : Nat) {g : PSt} (h : g ≠ .off) : entryDone s d g = entryEnded s d g := if_neg h

/-- A wake that has ended: the filled stores, with the domain in run. -/
abbrev wakeEnded (s : State) (d : Nat) : State :=
  changeDom (if (s.dom d).st = .off then domainFilled s d else s) d
    { s.dom d with st := .run, waking := false, commit := false, idle := s.now }

/-- What follows the end of a wake leaves the power, the stores and the cores. -/
theorem wakeDone_rest (s : State) (d : Nat) : Only [.regs, .evts, .fabric] (wakeEnded s d) (wakeDone s d) := by
  unfold wakeDone
  dsimp only
  refine ((portBack_keeps ..).cut (by decide) ?_).only
  split
  · exact (countEvent_keeps ..).mono (by decide)
  · exact Keeps.refl _ _

theorem wakeDone_dom (s : State) (d : Nat) :
    (wakeDone s d).dom d = { s.dom d with st := .run, waking := false, commit := false, idle := s.now } :=
  (dom_of_power ((wakeDone_rest s d).2 .power (by decide)) d).trans (changeDom_dom_same ..)

theorem wakeDone_mem (s : State) (d : Nat) : (wakeDone s d).mem = (if (s.dom d).st = .off then domainFilled s d else s).mem :=
  ((wakeDone_rest s d).mem_eq (by decide)).trans ((changeDom_keeps ..).only.mem_eq (by decide))

/-! ### Commands to a domain (R390, Table 14-7) -/

theorem domWord_fields (v : Word) {cmd : Nat} (h : cmd ≤ 7) : bit (domWord cmd v) 31 = true
    ∧ bits (domWord cmd v &&& 0x000F001F) 19 16 = cmd ∧ bits (domWord cmd v &&& 0x000F001F) 4 0 = bits v 4 0 := by
  have hfields : ∀ cmd ≤ 7, bits (0x80000000 ||| fld cmd 16) 19 16 = cmd ∧ bits (0x80000000 ||| fld cmd 16) 4 0 = 0 := by decide
  obtain ⟨hcmd, hdom⟩ := hfields cmd h
  unfold domWord
  refine ⟨?_, ?_, ?_⟩
  · rw [bit_or, bit_or]
    rfl
  · rw [bits_and_mask _ (by decide), bits_or, hcmd, bits_and, show bits (0x1F : Word) 19 16 = 0 by decide, Nat.and_zero, Nat.or_zero]
  · rw [bits_and_mask _ (by decide), bits_or, hdom, Nat.zero_or]
    exact bits_and_mask v (by decide)

/-- The DOM_CMD register with a command. -/
abbrev domSelected (s : State) (cmd : Nat) (v : Word) : State := s.setReg slotPwr 0x040 (domWord cmd v &&& 0x000F001F)

/-- The state after a command, `u` being the state with the command in DOM_CMD. -/
def domCommanded (u : State) (cmd d : Nat) (w : Word) : State :=
  match cmdReason u cmd d with
  | some r => pwrRefused (cmdStatus u r cmd d) r w
  | none => cmdStatus (cmdEffect u cmd d) 0 cmd d

theorem domCmdWrite_commands (s : State) (v : Word) {cmd : Nat} (h : cmd ≤ 7) :
    domCmdWrite s (domWord cmd v) = domCommanded (domSelected s cmd v) cmd (bits v 4 0) (domWord cmd v) := by
  obtain ⟨hgo, hcmd, hdom⟩ := domWord_fields v h
  unfold domCmdWrite
  dsimp only
  rw [if_pos hgo]
  unfold domCmd
  dsimp only
  rw [State.reg_setReg_same, hcmd, hdom]
  rfl

theorem domGo_commands {s : State} {r : Requester} (h : Arrives s r (regAt slotPwr 0x040)) (v : Word) {cmd : Nat} (hcmd : cmd ≤ 7) :
    domGo s r cmd v = reported r (domCommanded (domSelected (arriving r s) cmd v) cmd (bits v 4 0) (domWord cmd v)) := by
  rw [← domCmdWrite_commands _ v hcmd]
  exact writeBy_arrives h _

theorem domCommanded_refused {u : State} {cmd d k : Nat} (w : Word) (h : cmdReason u cmd d = some k) :
    domCommanded u cmd d w = pwrRefused (cmdStatus u k cmd d) k w := by
  unfold domCommanded
  rw [h]

theorem domCommanded_acts {u : State} {cmd d : Nat} (w : Word) (h : cmdReason u cmd d = none) :
    domCommanded u cmd d w = cmdStatus (cmdEffect u cmd d) 0 cmd d := by
  unfold domCommanded
  rw [h]

/-! ### Policies (Table 14-14) -/

theorem exec_domPolicyWrite {s : State} {f : FuncId} {d : Fin 24} (h : Reaches s f (regAt slotPwr (0x200 + 4 * d.val))) (v : Word) :
    exec (.domPolicyWrite f d v) s = .next (domPolicy s.fromHost d.val v) := by
  have hd := d.isLt
  refine (registerWrite_page (by omega) h v).trans (congrArg Host.Outcome.next ?_)
  unfold pageWrite blockWrite
  rw [if_neg (by omega), isSelect_low _ (by omega)]
  show pwrWrite .. = _
  unfold pwrWrite
  split
  · omega
  · omega
  · rw [if_pos (by omega), show (0x200 + 4 * d.val - 0x200) / 4 = d.val by omega]

section
variable {s : State} {d : Nat} {v : Word}

theorem domPolicy_bad (h : bits v 31 30 = 3 ∨ (16 ≤ d ∧ d < 22 ∧ bits v 31 30 = 2)) : domPolicy s d v
    = fieldRefused (s.setReg slotPwr (0x200 + 4 * d) ((s.reg slotPwr (0x200 + 4 * d) &&& 0xC0000000) ||| (v &&& 0x00FFFFFF))) 9 v := by
  have hbad : (bits v 31 30 == 3 || (decide (16 ≤ d) && decide (d < 22) && bits v 31 30 == 2)) = true := by simpa [and_assoc] using h
  unfold domPolicy
  dsimp only
  rw [hbad, if_pos rfl, if_pos rfl]

theorem domPolicy_good (h3 : bits v 31 30 ≠ 3) (h : ¬(16 ≤ d ∧ d < 22 ∧ bits v 31 30 = 2)) :
    domPolicy s d v = s.setReg slotPwr (0x200 + 4 * d) ((v &&& 0xC0000000) ||| (v &&& 0x00FFFFFF)) := by
  have hgood : (bits v 31 30 == 3 || (decide (16 ≤ d) && decide (d < 22) && bits v 31 30 == 2)) = false := by
    simpa [and_assoc, h3] using h
  unfold domPolicy
  dsimp only
  rw [hgood, if_neg (by decide), if_neg (by decide)]

end

/-! ### Idle entries -/

section
variable {s : State} {d : Nat}

theorem idleDue_spec (h : idleDue s d = true) : (s.dom d).hold = false ∧ (s.dom d).target = none ∧ (s.dom d).waking = false
    ∧ (s.dom d).idle / 40 + bits (s.reg slotPwr (0x200 + 4 * d)) 23 0 ≤ s.ac := by
  simp only [idleDue, State.acSince, idleDelay, Bool.and_eq_true, Bool.not_eq_true', Option.isNone_iff_eq_none, decide_eq_true_eq] at h
  obtain ⟨⟨⟨⟨⟨hhold, htarget⟩, hwaking⟩, -⟩, -⟩, hidle⟩ := h
  exact ⟨hhold, htarget, hwaking, of_decide_eq_true hidle⟩

theorem idleEntry_enters (hd : d < 16 ∨ d = 22 ∨ d = 23) (hdue : idleDue s d = true) (h : domDemand s d = false) :
    idleEntry s d = startEntry s d (idleState s d) := if_pos ⟨hd, hdue, by rw [h]; rfl⟩

theorem idleEntry_stays (h : idleDue s d = false ∨ domDemand s d = true ∨ (16 ≤ d ∧ d < 22) ∨ 24 ≤ d) : idleEntry s d = s := by
  refine if_neg fun ⟨hd, hdue, hdemand⟩ => ?_
  rcases h with h | h | h | h
  · exact absurd (h.symm.trans hdue) (by decide)
  · rw [h] at hdemand
    cases hdemand
  · omega
  · omega

end

section
variable {s : State} {p : Nat}

theorem portIdleEntry_enters (hdue : idleDue s (16 + p) = true) (hup : (s.port p).st = .up) (hout : (s.port p).outQ = [])
    (hrx : (s.port p).rx = []) (hpart : (s.port p).partial_ = none) (hpend : ∀ x ∈ s.fabric.pend, x.port ≠ p) :
    portIdleEntry s p = startEntry s (16 + p) (idleState s (16 + p)) := by
  refine if_pos ?_
  simp [hdue, portBusy, hup, hout, hrx, hpart]
  simpa using hpend

theorem portIdleEntry_stays (h : idleDue s (16 + p) = false ∨ (s.port p).st ≠ .up ∨ (s.port p).outQ ≠ [] ∨ (s.port p).rx ≠ []
    ∨ (s.port p).partial_ ≠ none ∨ ∃ x ∈ s.fabric.pend, x.port = p) : portIdleEntry s p = s := by
  refine if_neg ?_
  simp only [portBusy, Bool.and_eq_true, Bool.not_eq_true', Bool.or_eq_false_iff, bne_eq_false_iff_eq, Bool.not_eq_false',
    List.isEmpty_iff, List.any_eq_false, beq_iff_eq, Option.isSome_eq_false_iff, Option.isNone_iff_eq_none]
  rintro ⟨hdue, ⟨⟨⟨hup, hout⟩, hrx⟩, hpart⟩, hpend⟩
  rcases h with h | h | h | h | h | ⟨x, hx, h⟩
  · exact absurd (h.symm.trans hdue) (by decide)
  · exact h hup
  · exact h hout
  · exact h hrx
  · exact h hpart
  · exact hpend x hx h

end

section
variable {s : State}

theorem dieNetworkDoze_enters (hst : (s.dom 26).st = .run) (ht : (s.dom 26).target = none) (hsleep : ∀ d < 24, (s.dom d).asleep = true)
    (hbar2 : s.host.bar2 = []) (hxfer : s.host.xfer = none) (hcmds : s.host.cmds = []) (hdr : s.drover.cmds = []) :
    dieNetworkDoze s = startEntry s 26 .doze := by
  refine if_pos ?_
  simp [hst, ht, hbar2, hxfer, hcmds, hdr]
  simpa using hsleep

theorem dieNetworkDoze_stays (h : (s.dom 26).st ≠ .run ∨ (s.dom 26).target ≠ none ∨ (∃ d < 24, (s.dom d).asleep = false)
    ∨ s.host.bar2 ≠ [] ∨ s.host.xfer ≠ none ∨ s.host.cmds ≠ [] ∨ s.drover.cmds ≠ []) : dieNetworkDoze s = s := by
  refine if_neg ?_
  simp only [Bool.and_eq_true, beq_iff_eq, Option.isNone_iff_eq_none, List.all_eq_true, List.mem_range, List.isEmpty_iff]
  rintro ⟨⟨⟨⟨⟨⟨hst, ht⟩, hsleep⟩, hbar2⟩, hxfer⟩, hcmds⟩, hdr⟩
  rcases h with h | h | ⟨d, hd, h⟩ | h | h | h | h
  · exact h hst
  · exact h ht
  · exact absurd (h.symm.trans (hsleep d hd)) (by decide)
  · exact h hbar2
  · exact h hxfer
  · exact h hcmds
  · exact h hdr

end

/-- Settles O54: a command is `domCommanded`, and entries, wakes and transitions change a domain by the lemmas of their cases. -/
theorem powerDomains : Obligations.PowerDomains := by
  refine ⟨?commands, ?lower, ?entry, fun s d hst ht => ?_, fun s d g ht hg => ?_, ?policy,
    fun s d => ⟨fun hd hdue h => congrArg Host.Outcome.next (idleEntry_enters hd hdue h), fun h => congrArg Host.Outcome.next (idleEntry_stays h)⟩,
    fun s p => ⟨fun hdue hup hout hrx hpart hpend => congrArg Host.Outcome.next (portIdleEntry_enters hdue hup hout hrx hpart hpend),
      fun h => congrArg Host.Outcome.next (portIdleEntry_stays h)⟩,
    fun s d h => idleDue_spec h,
    fun s => ⟨fun hst ht hsleep hbar2 hxfer hcmds hdr =>
        congrArg Host.Outcome.next (dieNetworkDoze_enters hst ht hsleep hbar2 hxfer hcmds hdr),
      fun h => congrArg Host.Outcome.next (dieNetworkDoze_stays h)⟩, ?transition⟩
  case commands =>
    rintro s _ r v cmd d hr hlo hhi rfl rfl
    have hexec : ∀ c, cmd = c → (Host.Outcome.next (domGo s r c v) : Res)
        = .next (reported r (domCommanded (domSelected (arriving r s) cmd v) cmd (bits v 4 0) (domWord cmd v))) := by
      rintro c rfl
      exact congrArg Host.Outcome.next (domGo_commands hr v hhi)
    refine ⟨domCommanded (domSelected (arriving r s) cmd v) cmd (bits v 4 0) (domWord cmd v),
      cmdEffect (domSelected (arriving r s) cmd v) cmd (bits v 4 0), hexec 1, hexec 2, hexec 3, hexec 4, hexec 5, hexec 6, hexec 7,
      fun k h => domCommanded_refused _ h, fun h => ⟨domCommanded_acts _ h, ?_, ?_, ?_, ?_, ?_, ?_, ?_⟩⟩
    · rintro rfl; rfl
    · rintro rfl
      refine ⟨congrArg Dom.hold (State.dom_setDom_same ..), ?_⟩
      exact ((State.setDom_keeps ..).cut (by decide) ((startWake_keeps ..).mono (by decide))).only
    · rintro rfl
      exact ⟨congrArg Dom.hold (State.dom_setDom_same ..), (State.setDom_keeps ..).only⟩
    · rintro rfl; rfl
    · rintro rfl; rfl
    · rintro rfl; rfl
    · rintro rfl; rfl
  case lower =>
    intro s d g ht
    refine ⟨fun h hw => lowerTo_stays ht h hw, fun h hd => ?_, fun h hg hlo hhi => ?_⟩
    · rw [lowerTo_enters ht h, if_neg (by omega)]
    · rw [lowerTo_enters ht h]
      split
      · rw [linkFalls_port]
      next hdown =>
        have hst : (s.port (d - 16)).st = .down := by
          by_contra hst
          exact hdown ⟨hlo, hhi, hg, hst⟩
        rwa [port_of_fabric ((startEntry_keeps ..).only.2 .fabric (by decide))]
  case entry =>
    intro s d g
    rw [startEntry_dom]
    exact ⟨rfl, rfl, rfl, (startEntry_keeps ..).only⟩
  next =>
    obtain ⟨hw, htarget⟩ := wakeOne_asleep hst ht
    rw [startWake_dom hw htarget]
    exact ⟨hw, htarget⟩
  next =>
    have hdom := wakeOne_reverses ht hg
    rw [startWake_dom (by rw [hdom]) (by rw [hdom]), hdom]
    exact ⟨rfl, rfl, rfl⟩
  case policy =>
    rintro s _ f d v hr rfl
    have hd := d.isLt
    rw [exec_domPolicyWrite hr, ← fromHost_reg s slotPwr (off := 0x200 + 4 * d.val) (by omega)]
    exact ⟨fun h => congrArg Host.Outcome.next (domPolicy_bad h), fun h3 h => congrArg Host.Outcome.next (domPolicy_good h3 h)⟩
  case transition =>
    intro s d
    refine ⟨fun ht hw => congrArg Host.Outcome.next (transition_none ht hw),
      fun ht hd h => congrArg Host.Outcome.next (transition_writes ht hd h),
      fun g ht h => ⟨_, congrArg Host.Outcome.next (transition_ends ht h), ?_, ?_, (entryDone_keeps ..).only.mem_eq (by decide),
        fun hg => ?_, ?_⟩,
      fun ht hw => ⟨_, congrArg Host.Outcome.next (transition_wakes ht hw), ?_, ?_, (wakeDone_keeps ..).only.cores_eq (by decide),
        fun hst => ?_, fun hst hd a => ?_⟩⟩
    · rw [entryDone_dom]
    · rw [entryDone_dom]
    · rw [entryDone_on s d.val hg]
      refine ⟨(changeDom_keeps ..).only.cores_eq (by decide), fun slot off hoff hne => changeDom_reg _ _ _ ?_⟩
      unfold regAt slotPwr at *
      omega
    · rintro rfl hd himages c
      have hchange := (changeDom_keeps s d.val { s.dom d.val with st := .off, target := none, commit := false }).only
      have hloading : ∀ i ∈ (entryEnded s d.val .off).drover.images, i.st ≠ .loading := by rwa [hchange.2 .drover (by decide)]
      rw [entryDone_off s hd, core_of_cores ((critDone_keeps _).only.cores_eq (by decide)), foldLost_core hloading,
        core_of_cores (hchange.cores_eq (by decide))]
      exact ⟨fun hc => if_pos hc, fun hc => if_neg hc⟩
    · rw [wakeDone_dom]
    · rw [wakeDone_dom]
    · rw [wakeDone_mem, if_neg hst]
    · rw [wakeDone_mem, if_pos hst, domainFilled, if_pos hd, foldZeroed_read]
      exact ⟨fun h => if_pos h, fun h => if_neg h⟩

end Sys2Proof.Machine

/-! PROOFS. Temperatures, the critical event, and the supply readings (14_power_clocks.md R373, R392 to R395). -/

namespace Sys2Proof.Machine

/-! ### Readings -/

/-- A table made of a list has at each place the list's entry. -/
theorem Tbl.get_zipIdx {α : Type} (l : List α) (n i : Nat) (h : i < l.length) :
    Tbl.get ((l.zipIdx n).map (fun x => (x.2, x.1))) (n + i) = some l[i] := by
  induction l generalizing n i with
  | nil => exact absurd h (Nat.not_lt_zero _)
  | cons x l ih =>
    rw [List.zipIdx_cons, List.map_cons]
    cases i with
    | zero => exact if_pos rfl
    | succ k =>
      have hk : k < l.length := Nat.lt_of_succ_lt_succ h
      refine (if_neg (by omega)).trans ?_
      rw [show n + (k + 1) = n + 1 + k by omega, ih (n + 1) k hk]
      rfl

/-- The temperatures of a sample. -/
abbrev sampled (s : State) (x : Vector (BitVec 16) 96) : State :=
  s.mapPower (fun p => { p with temps := x.toList.zipIdx.map (fun y => (y.2, y.1)), sampled := true })

theorem reading_sampled (s : State) (x : Vector (BitVec 16) 96) {i : Nat} (h : i < 96) : reading (sampled s x) i = x[i].toInt := by
  have hget := Tbl.get_zipIdx x.toList 0 i (by simpa using h)
  rw [Nat.zero_add] at hget
  have htemps : (sampled s x).power.temps = x.toList.zipIdx.map (fun y => (y.2, y.1)) := rfl
  unfold reading Tbl.getD
  rw [htemps, hget]
  simp

theorem reading_of_temps {s t : State} (h : t.power.temps = s.power.temps) (i : Nat) : reading t i = reading s i := by
  unfold reading
  rw [h]

/-- The hottest sensor is one of the module, and no sensor is hotter. -/
theorem hottest_spec (s : State) : hottest s < 96 ∧ ∀ i < 96, reading s i ≤ reading s (hottest s) := by
  suffices ∀ n, 0 < n → let m := (List.range n).foldl (fun b i => if reading s b < reading s i then i else b) 0
      m < n ∧ ∀ i < n, reading s i ≤ reading s m from this 96 (by decide)
  intro n hn
  induction n with
  | zero => omega
  | succ k ih =>
    rw [List.range_succ, List.foldl_append]
    rcases Nat.eq_zero_or_pos k with rfl | hk
    · exact ⟨by simp, fun i hi => by obtain rfl : i = 0 := by omega
                                     simp⟩
    · obtain ⟨hlt, hmax⟩ := ih hk
      generalize (List.range k).foldl (fun b i => if reading s b < reading s i then i else b) 0 = m at hlt hmax ⊢
      simp only [List.foldl_cons, List.foldl_nil]
      split
      next hless =>
        refine ⟨Nat.lt_succ_self k, fun i hi => ?_⟩
        rcases Nat.lt_succ_iff_lt_or_eq.mp hi with h | rfl
        · exact (hmax i h).trans (le_of_lt hless)
        · exact le_rfl
      next hle =>
        refine ⟨hlt.trans (Nat.lt_succ_self k), fun i hi => ?_⟩
        rcases Nat.lt_succ_iff_lt_or_eq.mp hi with h | rfl
        · exact hmax i h
        · exact not_lt.mp hle

/-! ### A sample -/

/-- What a sample changes before the critical event: the readings, the folds at caution and the alert. -/
def sampleTaken (s u : State) : State :=
  let v := u.mapPower (fun p => { p with caution := cautionNow u })
  if s.power.caution.isEmpty && !(cautionNow u).isEmpty then smbAlert v 0 else v

theorem sensorSample_eq (s : State) (x : Vector (BitVec 16) 96) : sensorSample s x.toList
    = if decide (1760 ≤ reading (sampleTaken s (sampled s x)) (hottest (sampleTaken s (sampled s x)))) && !s.power.halt
      then critical (sampleTaken s (sampled s x)) else sampleTaken s (sampled s x) := rfl

theorem smbAlert_power (s : State) (k : Nat) : ∃ a, (smbAlert s k).power = { s.power with alert := a } := by
  unfold smbAlert
  split
  · exact ⟨true, rfl⟩
  · exact ⟨s.power.alert, rfl⟩

theorem sampleTaken_power (s u : State) : ∃ a, (sampleTaken s u).power = { u.power with caution := cautionNow u, alert := a } := by
  unfold sampleTaken
  dsimp only
  split
  · exact smbAlert_power ..
  · exact ⟨u.power.alert, rfl⟩

theorem sampleTaken_only (s : State) (x : Vector (BitVec 16) 96) : Only [.power] s (sampleTaken s (sampled s x)) := by
  have hcaution := (State.mapPower_keeps s (fun p => { p with temps := x.toList.zipIdx.map (fun y => (y.2, y.1)), sampled := true })).trans
    (State.mapPower_keeps (sampled s x) (fun p => { p with caution := cautionNow (sampled s x) }))
  exact (Keeps.ite (fun _ => hcaution.trans (smbAlert_keeps ..)) fun _ => hcaution).only

theorem sampleTaken_reading (s : State) (x : Vector (BitVec 16) 96) {i : Nat} (h : i < 96) :
    reading (sampleTaken s (sampled s x)) i = x[i].toInt := by
  obtain ⟨a, hp⟩ := sampleTaken_power s (sampled s x)
  have htemps := congrArg Power.temps hp
  exact (reading_of_temps htemps i).trans (reading_sampled s x h)

theorem sensorSample_cool {s : State} {x : Vector (BitVec 16) 96}
    (h : (∀ i, (h : i < 96) → x[i].toInt < 1760) ∨ s.power.halt = true) : sensorSample s x.toList = sampleTaken s (sampled s x) := by
  rw [sensorSample_eq]
  refine if_neg ?_
  obtain ⟨hlt, -⟩ := hottest_spec (sampleTaken s (sampled s x))
  rcases h with h | h
  · rw [sampleTaken_reading s x hlt]
    simp [h _ hlt]
  · simp [h]

theorem sensorSample_hot {s : State} {x : Vector (BitVec 16) 96} {i : Nat} (hi : i < 96) (h : 1760 ≤ x[i].toInt)
    (hhalt : s.power.halt = false) : sensorSample s x.toList = critical (sampleTaken s (sampled s x)) := by
  rw [sensorSample_eq]
  refine if_pos ?_
  have hmax := (hottest_spec (sampleTaken s (sampled s x))).2 i hi
  rw [sampleTaken_reading s x hi] at hmax
  simp [hhalt, h.trans hmax]

/-! ### The critical event (R394) -/

theorem abortInst_insts {s : State} {num fault : Nat} {task : Option Nat} :
    ∀ j ∈ (abortInst s num fault task).drover.insts, j ∈ s.drover.insts ∧ j.num ≠ num := by
  intro j hj
  cases h : findInst s num with
  | none =>
    have hsame : abortInst s num fault task = s := by
      unfold abortInst
      rw [h]
    rw [hsame] at hj
    exact ⟨hj, by simpa using List.find?_eq_none.mp h j hj⟩
  | some i =>
    obtain ⟨ws, hd⟩ := abortInst_drover (fault := fault) (task := task) h
    rw [congrArg Drover.insts hd] at hj
    have hj : j ∈ s.drover.insts.filter (fun j => j.num != i.num) := hj
    rw [findInst_num h] at hj
    simpa using hj

theorem foldl_abortInst_insts (fault : Nat) (l : List Inst) (s : State) :
    ∀ j ∈ (l.foldl (fun t i => abortInst t i.num fault none) s).drover.insts, j ∈ s.drover.insts ∧ ∀ i ∈ l, j.num ≠ i.num := by
  induction l generalizing s with
  | nil => exact fun j hj => ⟨hj, by simp⟩
  | cons i l ih =>
    intro j hj
    obtain ⟨hmem, hl⟩ := ih _ j hj
    obtain ⟨hs, hi⟩ := abortInst_insts j hmem
    exact ⟨hs, by simpa [hi] using hl⟩

/-- Every instance is aborted. -/
theorem abortWhere_all (s : State) (fault : Nat) : (abortWhere s fault fun _ => true).drover.insts = [] := by
  refine List.eq_nil_iff_forall_not_mem.mpr fun j hj => ?_
  obtain ⟨hmem, hl⟩ := foldl_abortInst_insts fault _ _ j hj
  exact hl j (by simpa using hmem) rfl

theorem refusePinned_insts (s : State) (keys : List Nat) : (refusePinned s keys).drover.insts = s.drover.insts := by
  refine List.foldlRecOn (motive := fun u : State => u.drover.insts = s.drover.insts) _ _ rfl fun u hu i _ => ?_
  have hout : (((copyOut (removePins u i.key) i.key).setReg slotDrvr 0x060 (fld 0x21 24 ||| fld i.sess 16 ||| w32 i.index))).drover
      = u.drover :=
    ((State.setReg_keeps ..).cut (qs := [.regs, .mem, .cores]) (by decide) ((copyOut_keeps ..).cut (by decide)
      ((removePins_narrow ..).mono (by decide)))).only.2 .drover (by decide)
  unfold refuseImage
  dsimp only
  rw [(imageAnswered_keeps ..).only.2 .drover (by decide), (postRec_keeps ..).only.2 .drover (by decide), State.pulse_drover]
  exact (congrArg Drover.insts hout).trans hu

theorem imagesLost_drover (s : State) : (imagesLost s).drover.images = [] ∧ (imagesLost s).drover.insts = s.drover.insts := by
  refine ⟨rfl, ?_⟩
  have hanswers : ∀ (l : List Image) (u : State), (l.foldl (fun u i =>
      imageAnswered (postRec u i.queue i.sess (imageRec i 6)) i) u).drover = u.drover := fun l u =>
    (Keeps.foldl (ps := [.regs, .evts, .host]) _ l (fun u i => (imageAnswered_keeps ..).cut (by decide) (postRec_keeps ..))
      (Keeps.refl _ u)).only.2 .drover (by decide)
  exact (congrArg Drover.insts (hanswers _ _)).trans (refusePinned_insts ..)

theorem recommit_caution (s : State) : (recommit s).power.caution = s.power.caution := rfl

theorem abortInst_caution (s : State) (num fault : Nat) (task : Option Nat) :
    (abortInst s num fault task).power.caution = s.power.caution := by
  cases h : findInst s num with
  | none =>
    have hsame : abortInst s num fault task = s := by
      unfold abortInst
      rw [h]
    rw [hsame]
  | some i =>
    rw [(abortInst_keeps_stopped h).only.2 .power (by decide), stopInst_eq, State.mapDrover_power, recommit_caution,
      (dropChains_keeps ..).only.2 .power (by decide), (dropInst_keeps ..).only.2 .power (by decide),
      (tasksStopped_keeps s i fault).only.2 .power (by decide)]

theorem abortWhere_caution (s : State) (fault : Nat) (p : Inst → Bool) : (abortWhere s fault p).power.caution = s.power.caution :=
  List.foldlRecOn (motive := fun u : State => u.power.caution = s.power.caution) _ _ rfl fun u hu i _ =>
    (abortInst_caution u i.num fault none).trans hu

/-- Of the power part an entry changes the domains, and when one was last entered. -/
theorem critOff_power (s : State) (d : Nat) : ∃ ds e, (critOff s d).power = { s.power with doms := ds, entered := e } := by
  unfold critOff
  dsimp only
  generalize (if d < 16 then RDom.fold (Fin.ofNat 16 d) else if d = 22 then .herd else .paddock) = r
  split
  · exact ⟨_, _, rfl⟩
  · split
    · exact ⟨_, _, rfl⟩
    · split <;> exact ⟨_, _, rfl⟩

theorem critOff_caution (s : State) (d : Nat) : (critOff s d).power.caution = s.power.caution := by
  obtain ⟨ds, e, h⟩ := critOff_power s d
  rw [h]

/-- Of the power part a Tally record changes the alert at most. -/
theorem mandatory_power (s : State) (code : Nat) (vs : List Word) : ∃ a, (mandatory s code vs).power = { s.power with alert := a } := by
  unfold mandatory
  generalize (if code = 0x0802 then 0x40 else 0x41) = ty
  have hevent := (tallyEvent_keeps s code ty 0 (vs.map fun _ => 0xFFFFFFFF) vs).only.2 .power (by decide)
  generalize tallyEvent s code ty 0 (vs.map fun _ => 0xFFFFFFFF) vs = u at hevent
  have hpower : u.power = s.power := hevent
  dsimp only
  split
  · exact ⟨s.power.alert, hpower⟩
  · obtain ⟨a, ha⟩ := smbAlert_power u 3
    exact ⟨a, ha.trans (by rw [hpower])⟩

/-- The critical event before its record: the aborts, the Paddock, the images and the entries of the domains. -/
def critStopped (s : State) : State :=
  let i := hottest s
  let u := ((s.fault slotPwr { code := 0x0802, d0 := w32 i, d1 := BitVec.ofInt 32 (reading s i) }).pulse slotPwr 2).pulse slotMgmt 0
  let v := abortWhere (haltBanks { u with resets := { u.resets with crit := [.compute, .herd, .paddock] } }) 0x0802 fun _ => true
  ((List.range 16) ++ [22, 23]).foldl critOff (imagesLost (paddockReset v))

theorem critical_eq (s : State) : critical s = critDone (smbAlert ((mandatory (critStopped s) 0x0802
    [w32 (hottest s), BitVec.ofInt 32 (reading s (hottest s))]).mapPower (fun p => { p with halt := true, thermTrip := true })) 1) := rfl

theorem foldl_critOff (l : List Nat) (u : State) :
    (l.foldl critOff u).power.caution = u.power.caution ∧ (l.foldl critOff u).drover = u.drover :=
  ⟨List.foldlRecOn (motive := fun v : State => v.power.caution = u.power.caution) _ _ rfl fun v hv d _ => (critOff_caution v d).trans hv,
   (Keeps.foldl (ps := [.regs, .power]) critOff l (fun u d => critOff_keeps u d) (Keeps.refl _ u)).only.2 .drover (by decide)⟩

theorem critStopped_spec (s : State) : (critStopped s).power.caution = s.power.caution
    ∧ (critStopped s).drover.images = [] ∧ (critStopped s).drover.insts = [] := by
  unfold critStopped
  dsimp only
  generalize hu : State.pulse _ slotMgmt 0 = u
  have hpower : u.power = s.power := by
    rw [← hu]
    rfl
  generalize hv : abortWhere _ 0x0802 _ = v
  have hinsts : v.drover.insts = [] := hv ▸ abortWhere_all ..
  have hcaution : v.power.caution = s.power.caution := by
    rw [← hv, abortWhere_caution]
    exact congrArg Power.caution hpower
  obtain ⟨himages, hsame⟩ := imagesLost_drover (paddockReset v)
  obtain ⟨hc, hd⟩ := foldl_critOff ((List.range 16) ++ [22, 23]) (imagesLost (paddockReset v))
  refine ⟨?_, ?_, ?_⟩
  · rw [hc, (imagesLost_narrow ..).only.2 .power (by decide), (paddockReset_keeps ..).only.2 .power (by decide), hcaution]
  · rw [hd, himages]
  · rw [hd, hsame, (paddockReset_keeps ..).only.2 .drover (by decide), hinsts]

/-- After the event HALT is set, and no instance and no image is left. -/
theorem critical_spec (s : State) : (critical s).power.halt = true ∧ (critical s).power.thermTrip = true
    ∧ (critical s).power.caution = s.power.caution ∧ (critical s).drover.images = [] ∧ (critical s).drover.insts = [] := by
  obtain ⟨hcaution, himages, hinsts⟩ := critStopped_spec s
  rw [critical_eq]
  generalize critStopped s = u at *
  generalize [w32 (hottest s), BitVec.ofInt 32 (reading s (hottest s))] = vs
  obtain ⟨a, hrec⟩ := mandatory_power u 0x0802 vs
  have hdrover := (mandatory_keeps u 0x0802 vs).only.2 .drover (by decide)
  generalize mandatory u 0x0802 vs = v at hrec hdrover
  obtain ⟨b, halert⟩ := smbAlert_power (v.mapPower (fun p => { p with halt := true, thermTrip := true })) 1
  have hd := (smbAlert_keeps (v.mapPower (fun p => { p with halt := true, thermTrip := true })) 1).only.2 .drover (by decide)
  generalize smbAlert (v.mapPower (fun p => { p with halt := true, thermTrip := true })) 1 = w at halert hd
  rw [(critDone_keeps w).only.2 .power (by decide), (critDone_keeps w).only.2 .drover (by decide), halert, hd]
  refine ⟨rfl, rfl, ?_, ?_, ?_⟩
  · have hsame := congrArg Power.caution hrec
    exact hsame.trans hcaution
  · exact (congrArg Drover.images hdrover).trans himages
  · exact (congrArg Drover.insts hdrover).trans hinsts

/-! ### The folds at caution (R393) -/

theorem mem_cautionNow {s : State} {f : Nat} (hf : f < 16) : f ∈ cautionNow s
    ↔ (f ∈ s.power.caution ∧ ∃ i ∈ foldSensors f, 16 * (cautionAt s - 5) ≤ reading s i)
      ∨ (f ∉ s.power.caution ∧ ∃ i ∈ foldSensors f, 16 * cautionAt s ≤ reading s i) := by
  unfold cautionNow
  rw [List.mem_filter, List.mem_range]
  by_cases hc : f ∈ s.power.caution
  · simp [hf, hc]
  · simp [hf, hc]

/-! ### THERM_CTRL (R395) -/

theorem exec_cautionSet {s : State} {r : Requester} (h : Arrives s r (regAt slotPwr 0x058)) (v : Word) :
    exec (.cautionSet r v) s = .next (reported r (thermWrite (arriving r s) v)) :=
  congrArg Host.Outcome.next (writeBy_arrives h _)

theorem exec_resume {s : State} {r : Requester} (h : Arrives s r (regAt slotPwr 0x058)) (v : Word) :
    exec (.resume r v) s = .next (reported r (thermWrite (arriving r s) (v ||| 0x80000000))) :=
  congrArg Host.Outcome.next (writeBy_arrives h _)

theorem thermWrite_caution (u : State) {v : Word} (h : bit v 31 = false) : thermWrite u v = cautionWrite u v := by
  unfold thermWrite
  rw [h]
  rfl

theorem thermWrite_resume (u : State) (v : Word) :
    thermWrite u (v ||| 0x80000000) = thermResume (cautionWrite u (v ||| 0x80000000)) (v ||| 0x80000000) :=
  if_pos (bit_or_strobe v (by decide))

theorem bits_resume (v : Word) : bits (v ||| 0x80000000) 7 0 = bits v 7 0 := by
  rw [bits_or]
  exact Nat.or_zero _

theorem cautionWrite_sets (u : State) {v : Word} (h60 : 60 ≤ bits v 7 0) (h105 : bits v 7 0 ≤ 105) :
    cautionWrite u v = u.setReg slotPwr 0x058 (w32 (bits v 7 0)) := if_pos ⟨h60, h105⟩

theorem cautionWrite_refused (u : State) {v : Word} (h : bits v 7 0 < 60 ∨ 105 < bits v 7 0) :
    cautionWrite u v = fieldRefused u 9 v := if_neg (by omega)

theorem cautionAt_set (u : State) {n : Nat} (h : n ≤ 105) : cautionAt (u.setReg slotPwr 0x058 (w32 n)) = (n : Int) := by
  unfold cautionAt
  rw [State.reg_setReg_same, bits_w32 (by omega) (by omega)]

theorem thermResume_clears {s : State} (v : Word) (h : ∀ i < 96, reading s i < 16 * (cautionAt s - 10)) :
    thermResume s v = s.mapPower (fun p => { p with halt := false, thermTrip := false }) := if_pos (by simpa using h)

theorem thermResume_refused {s : State} (v : Word) (h : ∃ i < 96, 16 * (cautionAt s - 10) ≤ reading s i) :
    thermResume s v = fieldRefused s 8 v := if_neg (by simpa using h)

theorem arriving_reading (r : Requester) (s : State) (i : Nat) : reading (arriving r s) i = reading s i :=
  reading_of_temps (congrArg Power.temps ((arriving_keeps r s).only.2 .power (by decide))) i

section
variable {u : State} {v : Word} (h60 : 60 ≤ bits v 7 0) (h105 : bits v 7 0 ≤ 105)
include h60 h105

theorem resume_setsCaution : thermWrite u (v ||| 0x80000000)
    = thermResume (u.setReg slotPwr 0x058 (w32 (bits v 7 0))) (v ||| 0x80000000) := by
  rw [thermWrite_resume, cautionWrite_sets u (by rwa [bits_resume]) (by rwa [bits_resume]), bits_resume]

theorem resume_clears (h : ∀ i < 96, reading u i < 16 * ((bits v 7 0 : Nat) - 10 : Int)) : thermWrite u (v ||| 0x80000000)
    = (u.setReg slotPwr 0x058 (w32 (bits v 7 0))).mapPower (fun p => { p with halt := false, thermTrip := false }) := by
  rw [resume_setsCaution h60 h105]
  refine thermResume_clears _ fun i hi => ?_
  rw [cautionAt_set u h105]
  exact h i hi

theorem resume_refused (h : ∃ i < 96, 16 * ((bits v 7 0 : Nat) - 10 : Int) ≤ reading u i) : thermWrite u (v ||| 0x80000000)
    = fieldRefused (u.setReg slotPwr 0x058 (w32 (bits v 7 0))) 8 (v ||| 0x80000000) := by
  rw [resume_setsCaution h60 h105]
  refine thermResume_refused _ ?_
  rw [cautionAt_set u h105]
  exact h

end

/-! ### Supply readings (R373) -/

theorem supplySample_spec (s : State) (vin iin pin : BitVec 16) : Only [.regs, .power] s (supplySample s vin iin pin)
    ∧ (supplySample s vin iin pin).reg slotPwr 0x048 = vin.setWidth 32 ∧ (supplySample s vin iin pin).reg slotPwr 0x04C = iin.setWidth 32
    ∧ (supplySample s vin iin pin).reg slotPwr 0x050 = pin.setWidth 32
    ∧ (4000 ≤ vin.toNat → vin.toNat ≤ 6000 → (supplySample s vin iin pin).power = s.power) := by
  have hset := (State.setReg_keeps s slotPwr 0x048 (vin.setWidth 32)).trans
    ((State.setReg_keeps _ slotPwr 0x04C (iin.setWidth 32)).trans (State.setReg_keeps _ slotPwr 0x050 (pin.setWidth 32)))
  have hreg : ∀ c u off, (if c = true then smbAlert u 2 else u).reg slotPwr off = u.reg slotPwr off := fun c u off => by
    split
    · exact reg_of_regs ((smbAlert_keeps u 2).only.2 .regs (by decide)) ..
    · rfl
  unfold supplySample
  dsimp only
  refine ⟨?_, ?_, ?_, ?_, fun hlo hhi => ?_⟩
  · exact (Keeps.ite (fun _ => (smbAlert_keeps ..).cut (by decide) (hset.mono (by decide))) fun _ => hset.mono (by decide)).only
  · rw [hreg, State.reg_setReg_other _ _ (by decide), State.reg_setReg_other _ _ (by decide), State.reg_setReg_same]
  · rw [hreg, State.reg_setReg_other _ _ (by decide), State.reg_setReg_same]
  · rw [hreg, State.reg_setReg_same]
  · have hin : vinOut (vin.setWidth 32) = false := by
      have hwidth : (vin.setWidth 32).toNat = vin.toNat := by
        rw [BitVec.toNat_setWidth]
        exact Nat.mod_eq_of_lt (by omega)
      simp [vinOut, hwidth, hlo, hhi]
    rw [hin, if_neg (by simp)]
    rfl

end Sys2Proof.Machine

/-! PROOFS. Shutdowns, loss of power and start-up (14_power_clocks.md R373; 15_startup_module_edge.md R398 to R408;
16_faults_recovery.md R435). -/

namespace Sys2Proof.Machine

/-! ### Every switched domain off (R435) -/

/-- `t` is `s` with the switched domains without power. -/
structure SwitchedOff (s t : State) : Prop where
  doms : ∀ d < 27, (t.dom d).st = .off
  pwrGood : t.power.pwrGood = false
  mem : t.mem = ⟨[], [], []⟩
  cores : t.cores = []
  drover : t.drover = { Drover.start with slotBase := s.drover.slotBase }
  host : t.host = s.host.off
  sharal : t.sharal = { s.sharal with ring := [], tracing := false, trQ := [], trDrop := [], copying := false }
  now : t.now = s.now
  out : t.out = s.out
  free : t.free = s.free

theorem foldl_offNow_dom (l : List Nat) (s : State) {d : Nat} (h : d ∈ l ∨ (s.dom d).st = .off) :
    ((l.foldl offNow s).dom d).st = .off := by
  induction l generalizing s with
  | nil => simpa using h
  | cons a l ih =>
    refine ih _ ?_
    by_cases ha : d = a
    · subst ha
      right
      unfold offNow
      rw [State.dom_setDom_same]
    · refine h.imp (fun hd => (List.mem_cons.mp hd).resolve_left ha) fun hd => ?_
      unfold offNow
      rwa [State.dom_setDom_other _ _ ha]

theorem foldl_offNow_only (l : List Nat) (s : State) : Only [.power] s (l.foldl offNow s) :=
  (Keeps.foldl offNow l offNow_keeps (Keeps.refl _ s)).only

theorem allOff_switchedOff (s : State) : SwitchedOff s (allOff s) := by
  have hall : ∀ d < 27, d ∈ switchedDoms := fun d hd => List.mem_range.mpr hd
  unfold allOff
  generalize switchedDoms = l at hall ⊢
  dsimp only
  have honly := foldl_offNow_only l
  have hdoms : ∀ (u : State), ∀ d < 27, ((l.foldl offNow u).dom d).st = .off := fun u d hd =>
    foldl_offNow_dom _ _ (.inl (hall d hd))
  exact {
    doms := hdoms _
    pwrGood := rfl
    mem := (honly _).2 .mem (by decide)
    cores := (honly _).2 .cores (by decide)
    drover := (honly _).2 .drover (by decide)
    host := (honly _).2 .host (by decide)
    sharal := (honly _).2 .sharal (by decide)
    now := (honly _).2 .now (by decide)
    out := (honly _).2 .out (by decide)
    free := (honly _).2 .free (by decide) }

theorem SwitchedOff.mapPower {s t : State} (h : SwitchedOff s t) {f : Power → Power}
    (hf : ∀ p, (f p).doms = p.doms ∧ (f p).pwrGood = p.pwrGood) : SwitchedOff s (t.mapPower f) :=
  { h with
    doms := fun d hd => by
      have hdom : (t.mapPower f).dom d = t.dom d := congrArg (fun x : Tbl Dom => Tbl.getD x d (domStart d)) (hf t.power).1
      rw [hdom]
      exact h.doms d hd
    pwrGood := (hf t.power).2.trans h.pwrGood }

theorem supplyOff_spec (s : State) (code : Nat) : SwitchedOff (mandatory s code [s.reg slotPwr 0x048]) (supplyOff s code)
    ∧ (supplyOff s code).power.supplyOk = false := by
  have hoff := allOff_switchedOff (mandatory s code [s.reg slotPwr 0x048])
  unfold supplyOff
  dsimp only
  generalize allOff (mandatory s code [s.reg slotPwr 0x048]) = t at hoff ⊢
  exact ⟨hoff.mapPower fun _ => ⟨rfl, rfl⟩, rfl⟩

/-- What a supply shutdown leaves of a state of which the Tally alone has been closed. -/
theorem supplyOff_leaves {s u : State} (h : Only [.sharal] s u) (code : Nat) : (supplyOff u code).power.supplyOk = false
    ∧ (supplyOff u code).power.pwrGood = false ∧ (∀ d < 27, ((supplyOff u code).dom d).st = .off) ∧ (supplyOff u code).cores = []
    ∧ (supplyOff u code).mem = ⟨[], [], []⟩ ∧ (supplyOff u code).drover.insts = [] ∧ (supplyOff u code).host.sessions = []
    ∧ (supplyOff u code).host.keys = s.host.keys ∧ (supplyOff u code).now = s.now := by
  obtain ⟨hoff, hsupply⟩ := supplyOff_spec u code
  have hrec : Only [.regs, .evts, .power, .sharal] s (mandatory u code [u.reg slotPwr 0x048]) :=
    (h.mono (by decide)).trans (mandatory_keeps ..).only
  have hhost := hoff.host
  have hsame : (mandatory u code [u.reg slotPwr 0x048]).host = s.host := hrec.2 .host (by decide)
  rw [hsame] at hhost
  exact ⟨hsupply, hoff.pwrGood, hoff.doms, hoff.cores, hoff.mem, congrArg Drover.insts hoff.drover, congrArg HostPort.sessions hhost,
    (congrArg HostPort.keys hhost).trans rfl, hoff.now.trans (hrec.now_eq (by decide))⟩

/-! ### Start-up: what of the power part the fabric's ports change -/

/-- Beside the domains the power parts are the same. -/
def ButDoms (s t : State) : Prop := t.power = { s.power with doms := t.power.doms }

theorem ButDoms.refl (s : State) : ButDoms s s := rfl

theorem ButDoms.trans {s t u : State} (h : ButDoms s t) (h' : ButDoms t u) : ButDoms s u := by
  have hu : u.power = { t.power with doms := u.power.doms } := h'
  unfold ButDoms at h
  unfold ButDoms
  rw [h] at hu
  exact hu

theorem ButDoms.of_power {s t : State} (h : t.power = s.power) : ButDoms s t := by
  unfold ButDoms
  rw [h]

theorem changeDom_butDoms (s : State) (d : Nat) (v : Dom) : ButDoms s (changeDom s d v) :=
  (show ButDoms s (s.setDom d v) from rfl).trans (.of_power ((changeDom_rest s d v).2 .power (by decide)))

theorem countWake_butDoms (l : List Nat) (s : State) : ButDoms s (countWake l s) :=
  .of_power ((countWake_keeps l s).only.2 .power (by decide))

theorem wakeOne_butDoms (s : State) (d : Nat) : ButDoms s (wakeOne s d) := by
  unfold wakeOne
  dsimp only
  split
  · exact .refl s
  · exact (changeDom_butDoms ..).trans (countWake_butDoms ..)
  · split
    · exact .refl s
    · exact (show ButDoms s (s.setDom d _) from rfl).trans (countWake_butDoms ..)

theorem startOn_butDoms (s : State) (d : Nat) : ButDoms s (startOn s d) :=
  ((show ButDoms s (s.setDom d _) from rfl).trans (countWake_butDoms ..)).trans (wakeOne_butDoms ..)

theorem powerPorts_butDoms (s : State) : ButDoms s (powerPorts s) :=
  List.foldlRecOn (motive := fun u : State => ButDoms s u) _ _ (.refl s) fun u hu p _ => by
    split
    · exact hu.trans (startOn_butDoms ..)
    · exact hu

/-! ### Start-up: the Tally's power cycle -/

/-- The Tally counts the same power cycles. -/
def SameCycles (s t : State) : Prop := t.sharal.tally.cycles = s.sharal.tally.cycles

theorem SameCycles.of_sharal {s t : State} (h : t.sharal = s.sharal) : SameCycles s t := congrArg (fun h : Sharal => h.tally.cycles) h

theorem tallyEvent_sameCycles (s : State) (code ty inst : Nat) (as vs : List Word) :
    SameCycles s (tallyEvent s code ty inst as vs) := by
  have hcreate : SameCycles s (tallyCreate s code ty inst as vs) := by
    unfold tallyCreate
    dsimp only
    split <;> rfl
  unfold tallyEvent
  dsimp only
  split
  · split
    · rfl
    · exact hcreate
  · exact hcreate

theorem mandatory_sameCycles (s : State) (code : Nat) (vs : List Word) : SameCycles s (mandatory s code vs) := by
  unfold mandatory
  generalize (if code = 0x0802 then 0x40 else 0x41) = ty
  dsimp only
  split
  · exact tallyEvent_sameCycles ..
  · exact (SameCycles.of_sharal ((smbAlert_keeps ..).only.2 .sharal (by decide))).trans (tallyEvent_sameCycles ..)

theorem traceEv_sameCycles (s : State) (cls kind slot inst ctx task : Nat) (d : List Word) :
    SameCycles s (traceEv s cls kind slot inst ctx task d) := by
  unfold traceEv
  extract_lets q h lost new
  split
  · rfl
  · split <;> rfl

theorem changeDom_sameCycles (s : State) (d : Nat) (v : Dom) : SameCycles s (changeDom s d v) := by
  have hcount : SameCycles s ([24, 27].foldl (fun u x => if x = d then u else countFollower (s.domSt x) u x) (s.setDom d v)) :=
    List.foldlRecOn (motive := fun u : State => SameCycles s u) _ _ rfl fun u hu x _ => by
      split
      · exact hu
      · exact (SameCycles.of_sharal ((countFollower_keeps ..).only.2 .sharal (by decide))).trans hu
  unfold changeDom
  dsimp only
  split
  · exact hcount
  · refine List.foldlRecOn (motive := fun u : State => SameCycles s u) _ _ hcount fun u hu i _ => ?_
    split
    · exact hu
    · exact (traceEv_sameCycles ..).trans hu

theorem countWake_sameCycles (l : List Nat) (s : State) : SameCycles s (countWake l s) :=
  .of_sharal ((countWake_keeps l s).only.2 .sharal (by decide))

theorem wakeOne_sameCycles (s : State) (d : Nat) : SameCycles s (wakeOne s d) := by
  unfold wakeOne
  dsimp only
  split
  · rfl
  · exact (countWake_sameCycles ..).trans (changeDom_sameCycles ..)
  · split
    · rfl
    · exact countWake_sameCycles ..

theorem powerPorts_sameCycles (s : State) : SameCycles s (powerPorts s) :=
  List.foldlRecOn (motive := fun u : State => SameCycles s u) _ _ rfl fun u hu p _ => by
    split
    · exact ((wakeOne_sameCycles ..).trans (countWake_sameCycles ..)).trans hu
    · exact hu

/-! ### Start-up: the domains in run -/

/-- The domain is in run, and on its way nowhere. -/
def Runs (s : State) (d : Nat) : Prop := (s.dom d).st = .run ∧ (s.dom d).target = none

theorem Runs.of_dom {s t : State} {d : Nat} (h : Runs s d) (hd : t.dom d = s.dom d) : Runs t d := by
  unfold Runs
  rw [hd]
  exact h

theorem wakeOne_runs {s : State} {d : Nat} (h : Runs s d) : wakeOne s d = s := by
  obtain ⟨hst, htarget⟩ := h
  unfold wakeOne
  dsimp only
  rw [htarget, hst]
  dsimp only
  rw [if_pos (by simp)]

theorem startOn_runs {s : State} {d p : Nat} (hp : d ≠ p) (hnet : Runs s 26) (h26 : p ≠ 26) (h : Runs s d) : Runs (startOn s p) d := by
  have hset : ∀ e, e ≠ p → (countWake (wakers s) (s.setDom p { s.dom p with target := none, waking := true })).dom e = s.dom e :=
    fun e he => by rw [countWake_dom, State.dom_setDom_other _ _ he]
  unfold startOn
  dsimp only
  rw [wakeOne_runs (hnet.of_dom (hset 26 h26.symm))]
  exact h.of_dom (hset d hp)

theorem powerPorts_runs {s : State} (hnet : Runs s 26) {d : Nat} (hd : d < 16 ∨ 22 ≤ d) (h : Runs s d) : Runs (powerPorts s) d := by
  have hboth : Runs (powerPorts s) 26 ∧ Runs (powerPorts s) d :=
    List.foldlRecOn (motive := fun u : State => Runs u 26 ∧ Runs u d) _ _ ⟨hnet, h⟩ fun u hu p hp => by
      have hp6 := List.mem_range.mp hp
      split
      · exact ⟨startOn_runs (by omega) hu.1 (by omega) hu.1, startOn_runs (by omega) hu.1 (by omega) hu.2⟩
      · exact hu
  exact hboth.2

theorem foldl_runNow_runs (l : List Nat) (s : State) {d : Nat} (h : d ∈ l ∨ Runs s d) : Runs (l.foldl runNow s) d := by
  induction l generalizing s with
  | nil => simpa using h
  | cons a l ih =>
    refine ih _ ?_
    by_cases ha : d = a
    · subst ha
      exact .inr (by
        unfold Runs runNow
        rw [State.dom_setDom_same]
        exact ⟨rfl, rfl⟩)
    · refine h.imp (fun hd => (List.mem_cons.mp hd).resolve_left ha) fun hd => hd.of_dom ?_
      unfold runNow
      rw [State.dom_setDom_other _ _ ha]

theorem foldl_runNow_butDoms (l : List Nat) (s : State) : ButDoms s (l.foldl runNow s) :=
  List.foldlRecOn (motive := fun u : State => ButDoms s u) _ _ (.refl s) fun _ hu _ _ => hu.trans rfl

theorem bootDoms_butDoms (s : State) (failed : Bool) : ButDoms s (bootDoms s failed) := by
  unfold bootDoms
  dsimp only
  split
  · exact foldl_runNow_butDoms ..
  · exact (foldl_runNow_butDoms ..).trans (foldl_runNow_butDoms ..)

theorem bootDoms_runs (s : State) {d : Nat} (h : d < 16 ∨ d = 22 ∨ d = 23 ∨ d = 24 ∨ d = 26) : Runs (bootDoms s false) d := by
  unfold bootDoms
  dsimp only
  rw [if_neg (by decide)]
  by_cases hd : d = 24 ∨ d = 26
  · exact foldl_runNow_runs _ _ (.inr (foldl_runNow_runs _ _ (.inl (List.mem_append_left _ (by simpa using hd)))))
  · refine foldl_runNow_runs _ _ (.inl ?_)
    rw [List.mem_append, List.mem_range]
    simp
    omega

/-! ### Start-up: BOOT_STATUS (Table 15-3) -/

theorem bits_phase_below {w : Word} (h : w.toNat < 2 ^ 28) : bits w 31 28 = 0 := by
  unfold bits
  rw [Nat.shiftRight_eq_div_pow, Nat.div_eq_of_lt h]
  rfl

theorem toNat_fld {n lo : Nat} (h : n <<< lo < 2 ^ 32) : (fld n lo).toNat = n <<< lo := by
  unfold fld
  rw [BitVec.toNat_ofNat, Nat.mod_eq_of_lt h]

theorem bits_fld_below {n lo : Nat} (h : n <<< lo < 2 ^ 28) : bits (fld n lo) 31 28 = 0 :=
  bits_phase_below (by rwa [toNat_fld (by omega)])

theorem bits_flag_below (b : Bool) {i : Nat} (h : i < 28) : bits (flag b i) 31 28 = 0 := by
  have hlt : 2 ^ i < 2 ^ 28 := Nat.pow_lt_pow_right (by decide) h
  refine bits_phase_below ?_
  unfold flag
  split
  · rwa [BitVec.toNat_ofNat, Nat.mod_eq_of_lt (by omega)]
  · decide

/-- What BOOT_STATUS shows of a failed test. -/
def testWord : Option TestFail → Word
  | some f => fld f.domain.toNat 16 ||| fld f.unit.toNat 8 ||| w32 f.kind.toNat
  | none => fld 0x3F 16

theorem bits_testWord : ∀ e, bits (testWord e) 31 28 = 0
  | none => rfl
  | some f => by
    have hd := f.domain.isLt
    have hu : f.unit.toNat < 256 := f.unit.isLt
    have hk : f.kind.toNat < 256 := f.kind.isLt
    have hdom : bits (fld f.domain.toNat 16) 31 28 = 0 := bits_fld_below (by rw [Nat.shiftLeft_eq]; omega)
    have hunit : bits (fld f.unit.toNat 8) 31 28 = 0 := bits_fld_below (by rw [Nat.shiftLeft_eq]; omega)
    have hkind : bits (w32 f.kind.toNat) 31 28 = 0 := bits_phase_below (by unfold w32; rw [BitVec.toNat_ofNat]; omega)
    unfold testWord
    rw [bits_or, bits_or, hdom, hunit, hkind]
    rfl

/-- The phase stands in the highest bits. -/
theorem bits_bootWord {n : Nat} (h : n < 16) (b0 b1 b2 b3 : Bool) (e : Option TestFail) : bits (bootWord n b0 b1 b2 b3 e) 31 28 = n := by
  have hphase : bits (fld n 28) 31 28 = n := by
    unfold bits
    rw [toNat_fld (by rw [Nat.shiftLeft_eq]; omega), Nat.shiftLeft_shiftRight]
    exact Nat.mod_eq_of_lt h
  have hword : bootWord n b0 b1 b2 b3 e = fld n 28 ||| flag b0 27 ||| flag b1 26 ||| flag b2 25 ||| flag b3 24 ||| testWord e := by
    cases e <;> rfl
  rw [hword, bits_or, bits_or, bits_or, bits_or, bits_or, hphase, bits_testWord, bits_flag_below _ (by decide),
    bits_flag_below _ (by decide), bits_flag_below _ (by decide), bits_flag_below _ (by decide)]
  simp

/-! ### Start-up: its steps -/

theorem tallyEvent_reg (s : State) (code ty inst : Nat) (as vs : List Word) {slot off : Nat}
    (h : regAt slot off ≠ regAt slotTally 0x04C) : (tallyEvent s code ty inst as vs).reg slot off = s.reg slot off := by
  have hcreate : (tallyCreate s code ty inst as vs).reg slot off = s.reg slot off := by
    unfold tallyCreate
    dsimp only
    split
    · exact (reg_of_regs (State.pulse_regs ..) ..).trans (State.reg_setReg_other _ _ h)
    · rfl
  unfold tallyEvent
  dsimp only
  split
  · split
    · rfl
    · exact hcreate
  · exact hcreate

theorem mandatory_reg (s : State) (code : Nat) (vs : List Word) {slot off : Nat} (h : regAt slot off ≠ regAt slotTally 0x04C) :
    (mandatory s code vs).reg slot off = s.reg slot off := by
  unfold mandatory
  generalize (if code = 0x0802 then 0x40 else 0x41) = ty
  dsimp only
  split
  · exact tallyEvent_reg _ _ _ _ _ _ h
  · exact (reg_of_regs ((smbAlert_keeps ..).only.2 .regs (by decide)) ..).trans (tallyEvent_reg _ _ _ _ _ _ h)

theorem bootBegin_cycles (s : State) : SameCycles s (bootBegin s) := by
  have htrial : (startTrial s.sharal).tally = s.sharal.tally := by
    unfold startTrial writeHdr
    split
    · dsimp only
      split <;> rfl
    · rfl
  have hcycles := congrArg Tally.cycles htrial
  exact hcycles

theorem bootStep4_cycles (s : State) (a : Nat) : (bootStep4 s a).sharal.tally.cycles = s.sharal.tally.cycles + 1 := by
  unfold bootStep4
  dsimp only
  split
  · exact (mandatory_sameCycles ..).trans ((mandatory_sameCycles ..).trans rfl)
  · exact (mandatory_sameCycles ..).trans rfl

theorem bootStep4_pins (s : State) (a : Nat) : (bootStep4 s a).power.failed = s.power.failed
    ∧ (bootStep4 s a).power.faultPin = s.power.faultPin := by
  have hsame : ∀ (u : State) (code : Nat) (vs : List Word), u.power.failed = s.power.failed ∧ u.power.faultPin = s.power.faultPin →
      (mandatory u code vs).power.failed = s.power.failed ∧ (mandatory u code vs).power.faultPin = s.power.faultPin :=
    fun u code vs hu => by
      obtain ⟨_, hpower⟩ := mandatory_power u code vs
      rw [hpower]
      exact hu
  unfold bootStep4
  dsimp only
  split
  · exact hsame _ _ _ (hsame _ _ _ ⟨rfl, rfl⟩)
  · exact hsame _ _ _ ⟨rfl, rfl⟩

/-- What a start-up has done before its BOOT_STATUS: the domains of step 5, and the fabric's record. -/
def bootReady (s : State) (fail : Option TestFail) : State :=
  let s1 := bootDoms s fail.isSome
  match s.sharal.fabRec with
  | some r => applyFabric s1 r
  | none => s1

/-- The phase of BOOT_STATUS at the end of a start-up, and the failed self-test's record. -/
def bootTold (s : State) (boot : Word) (fail : Option TestFail) : State :=
  let s1 := s.setReg slotMgmt 0x104 boot
  if fail.isSome then selfTestFailed s1 boot else s1

theorem bootRun_eq (s : State) (a : Nat) (fail : Option TestFail) : bootRun s a fail
    = ((bootTold (bootReady s fail) (bootWord (if fail.isSome then 5 else 4) (a != 0) (a != 0) false s.sharal.fabRec.isSome fail) fail).mapPower
        (fun p => { p with pwrGood := true })).mapHost (fun h => if s.power.perst then h else h.trained) := rfl

theorem applyFabric_spec (s : State) (r : FabRec) : ButDoms s (applyFabric s r) ∧ SameCycles s (applyFabric s r)
    ∧ (Runs s 26 → ∀ d, (d < 16 ∨ 22 ≤ d) → Runs s d → Runs (applyFabric s r) d) := by
  unfold applyFabric
  dsimp only
  have hset : Only [.regs, .fabric] s (State.mapFabric (((((r.windows.foldl (fun u p => u.setReg slotRoute p.1 p.2) s).setReg slotRoute
      0x040 r.self).setReg slotRoute 0x044 r.dims).setReg slotRoute 0x048 r.timeout).setReg slotRoute 0x04C r.stall)
      (fun f => { f with routes := r.routes })) := by
    refine ((State.mapFabric_keeps ..).cut (by decide) ?_).only
    refine (State.setReg_keeps ..).cut (by decide) <| (State.setReg_keeps ..).cut (by decide) <| (State.setReg_keeps ..).cut (by decide) <|
      (State.setReg_keeps ..).cut (by decide) ?_
    exact Keeps.foldl _ _ (fun _ _ => (State.setReg_keeps ..).mono (by decide)) (Keeps.refl _ s)
  generalize State.mapFabric _ _ = u at hset ⊢
  have hpower : u.power = s.power := hset.2 .power (by decide)
  refine ⟨(ButDoms.of_power hpower).trans (powerPorts_butDoms u),
    (powerPorts_sameCycles u).trans (SameCycles.of_sharal (hset.2 .sharal (by decide))), fun hnet d hd hrun => ?_⟩
  exact powerPorts_runs (hnet.of_dom (dom_of_power hpower 26)) hd (hrun.of_dom (dom_of_power hpower d))

theorem bootReady_spec (s : State) (fail : Option TestFail) : ButDoms s (bootReady s fail) ∧ SameCycles s (bootReady s fail)
    ∧ (fail = none → ∀ d, (d < 16 ∨ d = 22 ∨ d = 23 ∨ d = 24 ∨ d = 26) → Runs (bootReady s fail) d) := by
  have hcycles : SameCycles s (bootDoms s fail.isSome) := .of_sharal ((bootDoms_keeps ..).only.2 .sharal (by decide))
  have hruns : fail = none → ∀ d, (d < 16 ∨ d = 22 ∨ d = 23 ∨ d = 24 ∨ d = 26) → Runs (bootDoms s fail.isSome) d := by
    rintro rfl d hd
    exact bootDoms_runs s hd
  have hdoms := bootDoms_butDoms s fail.isSome
  unfold bootReady
  dsimp only
  generalize bootDoms s fail.isSome = u at *
  cases s.sharal.fabRec with
  | none => exact ⟨hdoms, hcycles, hruns⟩
  | some r =>
    obtain ⟨hpower, hsame, hkeep⟩ := applyFabric_spec u r
    dsimp only
    refine ⟨ButDoms.trans hdoms hpower, hsame.trans hcycles, fun he d hd => ?_⟩
    exact hkeep (hruns he 26 (by omega)) d (by omega) (hruns he d hd)

theorem bootTold_spec (s : State) (boot : Word) (fail : Option TestFail) : (bootTold s boot fail).reg slotMgmt 0x104 = boot
    ∧ SameCycles s (bootTold s boot fail) ∧ (bootTold s boot fail).power.doms = s.power.doms
    ∧ (bootTold s boot fail).power.failed = (fail.isSome || s.power.failed)
    ∧ (bootTold s boot fail).power.faultPin = (fail.isSome || s.power.faultPin)
    ∧ (bootTold s boot fail).resets.compHurdle = (fail.isSome || s.resets.compHurdle) := by
  unfold bootTold
  dsimp only
  cases fail with
  | none => exact ⟨State.reg_setReg_same .., rfl, rfl, rfl, rfl, rfl⟩
  | some f =>
    rw [show (if (some f).isSome then selfTestFailed (s.setReg slotMgmt 0x104 boot) boot else s.setReg slotMgmt 0x104 boot)
      = selfTestFailed (s.setReg slotMgmt 0x104 boot) boot from if_pos rfl]
    unfold selfTestFailed
    dsimp only
    obtain ⟨a, hpower⟩ := mandatory_power (s.setReg slotMgmt 0x104 boot) 0x1005 [boot]
    refine ⟨?_, ?_, ?_, rfl, rfl, rfl⟩
    · exact (mandatory_reg (s.setReg slotMgmt 0x104 boot) _ _ (by decide)).trans (State.reg_setReg_same ..)
    · exact mandatory_sameCycles (s.setReg slotMgmt 0x104 boot) _ _
    · have hdoms := congrArg Power.doms hpower
      exact hdoms

theorem bootRun_spec (s : State) (a : Nat) (fail : Option TestFail) (hfailed : s.power.failed = false)
    (hpin : s.power.faultPin = false) (hhurdle : s.resets.compHurdle = false) :
    (bootRun s a fail).power.pwrGood = true ∧ (bootRun s a fail).roles = s.roles ∧ SameCycles s (bootRun s a fail)
    ∧ (bootRun s a fail).power.failed = fail.isSome ∧ (bootRun s a fail).power.faultPin = fail.isSome
    ∧ (bootRun s a fail).resets.compHurdle = fail.isSome
    ∧ bits ((bootRun s a fail).reg slotMgmt 0x104) 31 28 = (if fail.isSome then 5 else 4)
    ∧ (fail = none → ∀ d, (d < 16 ∨ d = 22 ∨ d = 23 ∨ d = 24 ∨ d = 26) → ((bootRun s a fail).dom d).st = .run) := by
  have hroles := (bootRun_keeps s a fail).only.2 .roles (by decide)
  obtain ⟨hpower, hcycles, hruns⟩ := bootReady_spec s fail
  have hready : (bootReady s fail).resets = s.resets := by
    unfold bootReady
    dsimp only
    split
    · exact ((applyFabric_keeps ..).only.2 .resets (by decide)).trans ((bootDoms_keeps ..).only.2 .resets (by decide))
    · exact (bootDoms_keeps ..).only.2 .resets (by decide)
  obtain ⟨hreg, htold, hdoms, hf, hp, hh⟩ := bootTold_spec (bootReady s fail)
    (bootWord (if fail.isSome then 5 else 4) (a != 0) (a != 0) false s.sharal.fabRec.isSome fail) fail
  have hf0 := congrArg Power.failed hpower
  have hp0 := congrArg Power.faultPin hpower
  rw [hf0] at hf
  rw [hp0] at hp
  rw [hready] at hh
  rw [bootRun_eq] at hroles ⊢
  generalize bootTold _ _ fail = t at *
  refine ⟨rfl, hroles, htold.trans hcycles, ?_, ?_, ?_, ?_, fun he d hd => ?_⟩
  · exact hf.trans (by simp [hfailed])
  · exact hp.trans (by simp [hpin])
  · exact hh.trans (by simp [hhurdle])
  · have hword := congrArg (fun w => bits w 31 28) hreg
    exact hword.trans (bits_bootWord (by split <;> decide) ..)
  · have hdom : t.dom d = (bootReady s fail).dom d := congrArg (fun x : Tbl Dom => Tbl.getD x d (domStart d)) hdoms
    exact (congrArg Dom.st hdom).trans (hruns he d hd).1

end Sys2Proof.Machine

/-! PROOFS. SENSOR_SAMPLE to MOD_RST_ASSERT: what a start-up and a loss of power leave, and the obligation about them. -/

namespace Sys2Proof.Machine

theorem startUp_rejected {s : State} (e : Option TestFail) (ha : tryA s.sharal ≠ 0) (hb : tryB s.sharal ≠ 0) :
    startUp s e = bootFails (bootBegin s) := if_pos ⟨ha, hb⟩

theorem startUp_runs {s : State} (e : Option TestFail) (h : ¬(tryA s.sharal ≠ 0 ∧ tryB s.sharal ≠ 0)) :
    startUp s e = bootRun (bootStep4 (bootBegin s) (tryA s.sharal)) (tryA s.sharal) e := if_neg h

theorem bootFails_spec (s : State) : (bootFails (bootBegin s)).power.faultPin = true ∧ (bootFails (bootBegin s)).host = s.host
    ∧ (bootFails (bootBegin s)).power.doms = s.power.doms ∧ bits ((bootFails (bootBegin s)).reg slotMgmt 0x104) 31 28 = 6 := by
  refine ⟨rfl, rfl, rfl, ?_⟩
  have hreg : (bootFails (bootBegin s)).reg slotMgmt 0x104 = bootWord 6 false true true false none := State.reg_setReg_same (bootBegin s) ..
  rw [hreg]
  exact bits_bootWord (by decide) ..

/-- A start-up with an image that is accepted. -/
theorem startUp_spec {s : State} (e : Option TestFail) (h : ¬(tryA s.sharal ≠ 0 ∧ tryB s.sharal ≠ 0)) :
    (startUp s e).power.pwrGood = true ∧ (startUp s e).roles = []
    ∧ (startUp s e).sharal.tally.cycles = s.sharal.tally.cycles + 1
    ∧ (startUp s e).power.failed = e.isSome ∧ (startUp s e).power.faultPin = e.isSome
    ∧ (startUp s e).resets.compHurdle = e.isSome
    ∧ bits ((startUp s e).reg slotMgmt 0x104) 31 28 = (if e.isSome then 5 else 4)
    ∧ (e = none → ∀ d, (d < 16 ∨ d = 22 ∨ d = 23 ∨ d = 24 ∨ d = 26) → ((startUp s e).dom d).st = .run) := by
  have hbegin : (bootBegin s).power.failed = false ∧ (bootBegin s).power.faultPin = false ∧ (bootBegin s).resets.compHurdle = false
    ∧ (bootBegin s).roles = [] := ⟨rfl, rfl, rfl, rfl⟩
  have hcycles := (bootStep4_cycles (bootBegin s) (tryA s.sharal)).trans (congrArg (· + 1) (bootBegin_cycles s))
  have hkeeps := (bootStep4_keeps (bootBegin s) (tryA s.sharal)).only
  have hpins := bootStep4_pins (bootBegin s) (tryA s.sharal)
  rw [startUp_runs e h]
  generalize bootStep4 (bootBegin s) (tryA s.sharal) = u at *
  obtain ⟨hfailed, hpin, hhurdle, hroles⟩ := hbegin
  obtain ⟨h1, h2, h3, h4⟩ := bootRun_spec u (tryA s.sharal) e (hpins.1.trans hfailed) (hpins.2.trans hpin)
    ((congrArg Resets.compHurdle (hkeeps.2 .resets (by decide))).trans hhurdle)
  exact ⟨h1, h2.trans ((hkeeps.2 .roles (by decide)).trans hroles), h3.trans hcycles, h4⟩

/-- Only the flash, the key store in it and the fuses remain. -/
theorem powerLoss_spec {s : State} (h : s.power.aoOn = true) : (powerLoss s).power.aoOn = false ∧ (powerLoss s).now = 0
    ∧ (powerLoss s).regs = [] ∧ (powerLoss s).evts = [] ∧ (powerLoss s).faults = [] ∧ (powerLoss s).roles = []
    ∧ (powerLoss s).mem = ⟨[], [], []⟩ ∧ (powerLoss s).cores = [] ∧ (powerLoss s).drover.insts = []
    ∧ (powerLoss s).host.keys = s.host.keys ∧ (powerLoss s).host.fails = [] ∧ (powerLoss s).host.locks = []
    ∧ (powerLoss s).sharal.slotA = s.sharal.slotA ∧ (powerLoss s).sharal.fuse = s.sharal.fuse
    ∧ (powerLoss s).sharal.fabRec = s.sharal.fabRec ∧ (powerLoss s).out = s.out ∧ (powerLoss s).free = s.free := by
  have hoff := allOff_switchedOff s
  unfold powerLoss
  dsimp only
  rw [if_neg (by simp [h])]
  generalize allOff s = t at hoff ⊢
  have hkeys := congrArg HostPort.keys hoff.host
  have hslot := congrArg Sharal.slotA hoff.sharal
  have hfuse := congrArg Sharal.fuse hoff.sharal
  have hrec := congrArg Sharal.fabRec hoff.sharal
  exact ⟨rfl, rfl, rfl, rfl, rfl, rfl, hoff.mem, hoff.cores, rfl, hkeys, rfl, rfl, hslot, hfuse, hrec, hoff.out, hoff.free⟩

theorem modRst_waits {s : State} (h : s.hurdled .module = true) : modRst s = s := by
  unfold modRst startReset
  rw [h]
  exact ite_self s

theorem modRst_raises {s : State} (hg : s.power.pwrGood = true) (h : s.hurdled .module = false) : modRst s = raise s .module 5 := by
  have hopen : (s.hurdled .module || resetOff s .module) = false := by
    rw [h]
    rfl
  unfold modRst startReset
  rw [if_pos hg, hopen, if_neg Bool.false_ne_true]

/-- Settles O55: each command's case, from the critical event, the shutdown of every domain and the steps of a start-up. -/
theorem sensorsSuppliesAndPower : Obligations.SensorsSuppliesAndPower := by
  refine ⟨fun s x h => ?_, fun s u x h hu => ⟨fun hcool => ?_, fun i hi hhot hhalt => ?_⟩, fun s f hf => mem_cautionNow hf,
    fun s u r v h hu => ⟨fun h31 h60 h105 => ?_, fun h31 hbad => ?_, fun h60 h105 hcool => ?_, fun h60 h105 hwarm => ?_⟩,
    fun s vin iin pin => ⟨fun h => ?_, fun h => ?_⟩, fun s => ⟨fun h => ?_, fun h hs => ?_, fun h => ?_, fun h hr => ?_⟩,
    fun s e => ⟨fun h => ?_, fun h hs hr => ?_, fun h hs hr => ?_, fun h => ?_, fun h hr hs => ?_, fun h => ?_, fun h => ?_⟩,
    fun s e => ?_, fun s => ⟨fun h => ?_, fun h => ?_⟩, fun s => ⟨fun h => ?_, fun h hh => ?_, fun h hh => ?_⟩⟩
  · exact congrArg Host.Outcome.next (if_neg (by simp [h]))
  · have hexec : exec (.sensorSample x) s = .next (sensorSample s x.toList) := congrArg Host.Outcome.next (if_pos h)
    rw [hexec, sensorSample_cool hcool]
    obtain ⟨a, hp⟩ := sampleTaken_power s (sampled s x)
    subst hu
    have hcaution := congrArg Power.caution hp
    have htemps := congrArg Power.temps hp
    have hhalt := congrArg Power.halt hp
    have hdoms := congrArg Power.doms hp
    exact ⟨_, rfl, sampleTaken_only s x, hcaution, htemps, hhalt, hdoms⟩
  · have hexec : exec (.sensorSample x) s = .next (sensorSample s x.toList) := congrArg Host.Outcome.next (if_pos h)
    rw [hexec, sensorSample_hot hi hhot hhalt]
    obtain ⟨hh, htrip, hcaution, himages, hinsts⟩ := critical_spec (sampleTaken s (sampled s x))
    obtain ⟨a, hp⟩ := sampleTaken_power s (sampled s x)
    have hnow := congrArg Power.caution hp
    subst hu
    exact ⟨_, rfl, hh, htrip, hcaution.trans hnow, himages, hinsts⟩
  · subst hu
    rw [exec_cautionSet h, thermWrite_caution _ h31, cautionWrite_sets _ h60 h105]
    rfl
  · subst hu
    rw [exec_cautionSet h, thermWrite_caution _ h31, cautionWrite_refused _ hbad]
  · subst hu
    rw [exec_resume h, resume_clears h60 h105 (fun i hi => (arriving_reading r s i).trans_lt (hcool i hi))]
    exact ⟨_, rfl, ((State.mapPower_keeps ..).cut (by decide) ((State.setReg_keeps ..).mono (by decide))).only, rfl, rfl,
      State.reg_setReg_same (arriving r s) ..⟩
  · subst hu
    obtain ⟨i, hi, hwarm⟩ := hwarm
    rw [exec_resume h, resume_refused h60 h105 ⟨i, hi, hwarm.trans_eq (arriving_reading r s i).symm⟩]
    rfl
  · exact congrArg Host.Outcome.next (if_neg (by simp [h]))
  · have hexec : exec (.supplySample vin iin pin) s = .next (supplySample s vin iin pin) := congrArg Host.Outcome.next (if_pos h)
    exact ⟨_, hexec, supplySample_spec s vin iin pin⟩
  · have hoff : (s.power.aoOn && s.power.supplyOk) = false := by rcases h with h | h <;> simp [h]
    exact ⟨congrArg Host.Outcome.next (if_neg (by simp [hoff])), congrArg Host.Outcome.next (if_neg (by simp [hoff]))⟩
  · refine ⟨_, _, congrArg Host.Outcome.next (if_pos (by simp [h, hs])), congrArg Host.Outcome.next (if_pos (by simp [h, hs])), ?_⟩
    intro x hx
    rcases List.mem_pair.mp hx with rfl | rfl
    · exact supplyOff_leaves ((closeRecord_keeps s).trans (State.mapTally_keeps _ _)).only 0x1002
    · exact supplyOff_leaves (Keeps.refl [.sharal] s).only 0x1003
  · exact congrArg Host.Outcome.next (if_neg (by rcases h with h | h <;> simp [h]))
  · have hrec := closeRecord_keeps s
    have hoff := allOff_switchedOff (closeRecord s)
    refine ⟨_, congrArg Host.Outcome.next (if_pos (by simp [h, hr])), ?_⟩
    generalize allOff (closeRecord s) = t at hoff ⊢
    have hkeys := congrArg HostPort.keys hoff.host
    exact ⟨rfl, rfl, hoff.pwrGood, rfl, hoff.doms, hoff.cores, hoff.mem, hkeys⟩
  · exact congrArg Host.Outcome.next (if_pos (by rcases h with h | h <;> simp [h]))
  · exact congrArg Host.Outcome.next ((if_neg (by simp [h, hs])).trans (if_pos hr))
  · exact congrArg Host.Outcome.next ((if_neg (by simp [h, hs])).trans (if_neg (by simp [hr])))
  · exact congrArg Host.Outcome.next (if_pos (by rcases h with h | h <;> simp [h]))
  · exact congrArg Host.Outcome.next ((if_neg (by simp [h, hr])).trans (if_pos hs))
  · exact congrArg Host.Outcome.next (if_pos h)
  · exact congrArg Host.Outcome.next (if_neg (by simp [h]))
  · split
    next hboth =>
      rw [startUp_rejected e hboth.1 hboth.2]
      exact bootFails_spec s
    next hone => exact startUp_spec e hone
  · exact congrArg Host.Outcome.next (if_pos (by simp [h]))
  · exact ⟨_, rfl, powerLoss_spec h⟩
  · exact congrArg Host.Outcome.next (if_neg (by simp [h]))
  · exact congrArg Host.Outcome.next (modRst_waits hh)
  · exact congrArg Host.Outcome.next (modRst_raises h hh)

end Sys2Proof.Machine

/-! PROOFS. Trace, counters and the Tally: strobes, records and loads (17_sharal_tally.md R451 to R461). -/

namespace Sys2Proof.Machine

/-! ### A register read -/

theorem barRead_reads {s : State} {f : FuncId} {a : Nat} (h : ReadReaches s f a) : barRead s f a
    = (readEffect s.fromHost a).toHost (.readData f.val (leBytes 4 (regRead s.fromHost f.val a).toNat)) := by
  obtain ⟨⟨hup, hnow⟩, hword, hmay⟩ := h
  have hserved : ¬(a % 4 ≠ 0 ∨ mayRead s.fromHost f (a / 0x1000) (a % 0x1000) = false) := by simp [hword, hmay]
  unfold barRead barReadNow
  rw [if_neg (by simp [hup]), if_neg (by simp [hnow]), if_neg hserved]

/-- A register that can be read shows its page's word. -/
theorem regRead_page {u : State} {slot off : Nat} (f : Nat) (ho : off < 0x1000) (hkind : pageKind slot ≠ .none)
    (hword : regAt slot off % 4 = 0) (h : u.dstate slot < 2) : regRead u f (regAt slot off) = pageReg u f slot off := by
  unfold regRead
  dsimp only
  rw [regAt_page slot ho, regAt_offset slot ho, if_neg (by simp [hkind, hword]), if_pos (.inl h)]

/-- The field of an index that moves on. -/
theorem bits_advanced {n k : Nat} (h : n < 2 ^ (k + 1)) (hk : k < 31) : bits (flag true 31 ||| w32 n) k 0 = n := by
  have hflag : (flag true 31).toNat = 2 ^ 31 := by decide
  have hstrobe : bits (flag true 31) k 0 = 0 := by
    unfold bits
    rw [hflag, Nat.shiftRight_zero]
    exact Nat.mod_eq_zero_of_dvd (pow_dvd_pow 2 (by omega))
  have h32 : 2 ^ (k + 1) ≤ 2 ^ 32 := Nat.pow_le_pow_right (by decide) (by omega)
  rw [bits_or, hstrobe, bits_w32 h (h.trans_le h32), Nat.zero_or]

section
variable {s : State} {f : FuncId} (h : ReadReaches s f (regAt slotMgmt 0x324)) (hd : s.fromHost.dstate slotMgmt < 2)
include h hd

theorem exec_traceDataRead : exec (.traceDataRead f) s = .next ((traceAdvance s.fromHost).toHost (.readData f.val
    (leBytes 4 (wd (s.sharal.ring.getD (bits (s.reg slotMgmt 0x320) 17 0 / 8) []) (bits (s.reg slotMgmt 0x320) 17 0 % 8)).toNat))) := by
  have hword : regRead s.fromHost f.val (regAt slotMgmt 0x324)
      = wd (s.sharal.ring.getD (bits (s.reg slotMgmt 0x320) 17 0 / 8) []) (bits (s.reg slotMgmt 0x320) 17 0 % 8) := by
    rw [regRead_page f.val (by decide) (by decide) (by decide) hd]
    show traceWord s.fromHost = _
    unfold traceWord
    rw [fromHost_sharal, fromHost_reg s slotMgmt (by decide)]
  have heffect : readEffect s.fromHost (regAt slotMgmt 0x324) = traceAdvance s.fromHost := by
    refine (if_neg ?_).trans ?_
    · exact Nat.not_le.mpr hd
    · rfl
  show Host.Outcome.next (barRead s f (regAt slotMgmt 0x324)) = _
  rw [barRead_reads h, hword, heffect]

end

theorem traceAdvance_soft {s : State} (h : regAt slotMgmt 0x320 ∈ s.soft) : traceAdvance s = s := by
  unfold traceAdvance State.hardReg
  dsimp only
  rw [if_pos (List.contains_iff_mem.mpr h), ite_self]

theorem traceAdvance_index {s : State} (h : regAt slotMgmt 0x320 ∉ s.soft) :
    bits ((traceAdvance s).reg slotMgmt 0x320) 17 0 = (if bit (s.reg slotMgmt 0x320) 31 then (bits (s.reg slotMgmt 0x320) 17 0 + 1) % 262144
      else bits (s.reg slotMgmt 0x320) 17 0) := by
  unfold traceAdvance
  dsimp only
  split
  · rw [State.hardReg, if_neg (by simpa using h), State.reg_setReg_same]
    exact bits_advanced (Nat.mod_lt _ (by decide)) (by decide)
  · rfl

/-! ### TRACE_CTRL (R452) -/

section
variable {s : State} {f : FuncId} (h : Reaches s f (regAt slotMgmt 0x300)) (v : Word)
include h

/-- A strobed write of TRACE_CTRL: the fields, then the strobe. -/
theorem exec_traceCtrl (b : Word) (hb : (0x1000013F : Word) &&& b = 0) : (Host.Outcome.next (barWrite s f (regAt slotMgmt 0x300) (v ||| b)) : Res)
    = .next (let u := s.fromHost.setReg slotMgmt 0x300 (v &&& 0x1000013F)
        let u2 := if bit (v ||| b) 31 then traceStart u else u
        let u3 := if bit (v ||| b) 30 then traceStop u2 else u2
        if bit (v ||| b) 29 then traceCopy u3 else u3) := by
  rw [← and_mask_or v hb]
  exact congrArg Host.Outcome.next (barWrite_reaches h _)

theorem exec_traceStart (h30 : bit v 30 = false) (h29 : bit v 29 = false) :
    exec (.traceStart f v) s = .next (traceStart (s.fromHost.setReg slotMgmt 0x300 (v &&& 0x1000013F))) := by
  refine (exec_traceCtrl h v 0x80000000 (by decide)).trans (congrArg Host.Outcome.next ?_)
  dsimp only
  rw [bit_or_strobe v (i := 31) (by decide), bit_or_other v (i := 30) (by decide), bit_or_other v (i := 29) (by decide), h30, h29]
  rfl

theorem exec_traceStop (h31 : bit v 31 = false) (h29 : bit v 29 = false) :
    exec (.traceStop f v) s = .next (traceStop (s.fromHost.setReg slotMgmt 0x300 (v &&& 0x1000013F))) := by
  refine (exec_traceCtrl h v 0x40000000 (by decide)).trans (congrArg Host.Outcome.next ?_)
  dsimp only
  rw [bit_or_strobe v (i := 30) (by decide), bit_or_other v (i := 31) (by decide), bit_or_other v (i := 29) (by decide), h31, h29]
  rfl

theorem exec_traceCopy (h31 : bit v 31 = false) (h30 : bit v 30 = false) :
    exec (.traceCopy f v) s = .next (traceCopy (s.fromHost.setReg slotMgmt 0x300 (v &&& 0x1000013F))) := by
  refine (exec_traceCtrl h v 0x20000000 (by decide)).trans (congrArg Host.Outcome.next ?_)
  dsimp only
  rw [bit_or_strobe v (i := 29) (by decide), bit_or_other v (i := 31) (by decide), bit_or_other v (i := 30) (by decide), h31, h30]
  rfl

end

theorem traceCopy_refused {u : State} (h : u.sharal.tracing = true ∨ hostWritable u = false) :
    traceCopy u = u.strobeRefused slotMgmt 0x300 29 3 := if_pos (by rcases h with h | h <;> simp [h])

theorem traceCopy_sends {u : State} (ht : u.sharal.tracing = false) (hw : hostWritable u = true) : traceCopy u
    = (u.toHost (.hostWrite 0 (mgmtAddr u 0x328 4096) (wordsBytes u.sharal.ring.flatten))).mapSharal (fun h => { h with copying := true }) :=
  if_neg (by simp [ht, hw])

theorem hostWritable_of_only {s t : State} (h : Only [.regs] s t) : hostWritable t = hostWritable s := by
  have hdom := dom_of_power (h.2 .power (by decide)) 25
  have hresets : t.resets = s.resets := h.2 .resets (by decide)
  have hhost : t.host = s.host := h.2 .host (by decide)
  unfold hostWritable hostUp State.hurdled State.inReset
  rw [hdom, hresets, hhost]

/-! ### CNT_CTRL (R453) -/

section
variable {s : State} {f : FuncId} (h : Reaches s f (regAt slotMgmt 0x340)) {v : Word}
include h

theorem exec_counterStart (h30 : bit v 30 = false) (h29 : bit v 29 = false) :
    exec (.counterStart f v) s = .next (countersRun s.fromHost true) := by
  refine congrArg Host.Outcome.next ((barWrite_reaches h _).trans ?_)
  show counterCtrl _ _ = _
  unfold counterCtrl
  dsimp only
  rw [bit_or_strobe v (i := 31) (by decide), bit_or_other v (i := 30) (by decide), bit_or_other v (i := 29) (by decide), h30, h29]
  rfl

theorem exec_counterStop (h31 : bit v 31 = false) (h29 : bit v 29 = false) :
    exec (.counterStop f v) s = .next (countersRun s.fromHost false) := by
  refine congrArg Host.Outcome.next ((barWrite_reaches h _).trans ?_)
  show counterCtrl _ _ = _
  unfold counterCtrl
  dsimp only
  rw [bit_or_strobe v (i := 30) (by decide), bit_or_other v (i := 31) (by decide), bit_or_other v (i := 29) (by decide), h31, h29]
  rfl

theorem exec_counterClear (h31 : bit v 31 = false) (h30 : bit v 30 = false) :
    exec (.counterClear f v) s = .next (countersClear s.fromHost) := by
  refine congrArg Host.Outcome.next ((barWrite_reaches h _).trans ?_)
  show counterCtrl _ _ = _
  unfold counterCtrl
  dsimp only
  rw [bit_or_strobe v (i := 29) (by decide), bit_or_other v (i := 31) (by decide), bit_or_other v (i := 30) (by decide), h31, h30]
  rfl

end

theorem countersClear_reg (s : State) {slot off : Nat} (ho : off < 0x1000) : (countersClear s).reg slot off
    = if isCount slot off then resetWord (regAt slot off) else s.reg slot off := by
  have hfilter := Tbl.get_filter s.regs (fun a => !isCount (a / 0x1000) (a % 0x1000)) (regAt slot off)
  rw [regAt_page slot ho, regAt_offset slot ho] at hfilter
  unfold State.reg State.rd Tbl.getD
  rw [show (countersClear s).regs = s.regs.filter (fun p => !isCount (p.1 / 0x1000) (p.1 % 0x1000)) from rfl, hfilter]
  cases isCount slot off <;> rfl

theorem pageKind_slotCore {c : Nat} (h : c < 256) : pageKind (slotCore c) = .core c := by
  have hmod : 8 * c % 8 = 0 := by omega
  have hdiv : 8 * c / 8 = c := by omega
  unfold pageKind slotCore
  rw [if_pos (by omega), hmod, hdiv]
  rfl

theorem countersClear_core (s : State) {c k : Nat} (hc : c < 256) (hk : k < 16) :
    (countersClear s).reg (slotCore c) (0xC00 + 4 * k) = 0 := by
  have hkind := pageKind_slotCore hc
  rw [countersClear_reg s (by omega), if_pos (by unfold isCount counterCount; rw [hkind]; simp; omega)]
  unfold resetWord
  rw [regAt_page _ (by omega), hkind]

theorem countersClear_host (s : State) {k : Nat} (hk : k < 64) : (countersClear s).reg slotHost (0xC00 + 4 * k) = 0 := by
  have hkind : pageKind slotHost = .host := by decide
  rw [countersClear_reg s (by omega), if_pos (by unfold isCount counterCount; rw [hkind]; simp; omega)]
  unfold resetWord
  rw [regAt_page _ (by omega), hkind]

/-! ### Fault copies (R457) -/

theorem faultCopyTake_none {s : State} (h : s.sharal.copies = []) : faultCopyTake s = s := by
  unfold faultCopyTake
  rw [h]

/-- The first of the entries that satisfies a test. -/
theorem find?_range_first {n i : Nat} {p : Nat → Bool} (hi : i < n) (hp : p i = true) (hbelow : ∀ j < i, p j = false) :
    (List.range n).find? p = some i := by
  rw [List.find?_range_eq_some]
  exact ⟨hp, List.mem_range.mpr hi, fun j hj => by rw [hbelow j hj]; rfl⟩

section
variable {s : State} {c : FCopy} {rest : List FCopy} (h : s.sharal.copies = c :: rest)
include h

theorem faultCopyTake_untriggered (hnone : ∀ i < 64, (trigOf s i).takes c.code = false) :
    faultCopyTake s = s.mapSharal (fun h => { h with copies := rest }) := by
  have hfind : (List.range 64).find? (fun i => (trigOf s i).takes c.code) = none := by
    rw [List.find?_eq_none]
    exact fun i hi => by simp [hnone i (List.mem_range.mp hi)]
  unfold faultCopyTake
  rw [h]
  dsimp only
  rw [hfind]

theorem faultCopyTake_triggers {i : Nat} (hi : i < 64) (htakes : (trigOf s i).takes c.code = true)
    (hbelow : ∀ j < i, (trigOf s j).takes c.code = false) : faultCopyTake s
      = tallyEvent (s.mapSharal (fun h => { h with copies := rest })) c.code (pageType c.slot) (pageInst c.slot)
          (((List.range (trigOf s i).nsnap).map (fun k => snapshot s c (wd (trigOf s i).snaps k))).map (·.1))
          (((List.range (trigOf s i).nsnap).map (fun k => snapshot s c (wd (trigOf s i).snaps k))).map (·.2)) := by
  have hfind := find?_range_first (p := fun i => (trigOf s i).takes c.code) hi htakes hbelow
  unfold faultCopyTake
  rw [h]
  dsimp only
  rw [hfind]

end

/-! ### Records (R458, R459) -/

section
variable {s : State} {code ty inst : Nat} {as vs : List Word}

theorem tallyEvent_repeats {r : TRec} (hnew : s.sharal.tally.newest = some r) (hopen : tallyOpen s = true)
    (hsame : r.same code ty inst as vs = true) : tallyEvent s code ty inst as vs = s.mapTally (fun t => { t with
      recs := t.recs.dropLast ++ [{ r with repeats := min 0xFFFFFFFF (r.repeats + 1), last := s.ac48 }] }) := by
  unfold tallyEvent
  dsimp only
  rw [hnew]
  exact if_pos (by simp [hopen, hsame])

theorem tallyEvent_creates (h : ∀ r, s.sharal.tally.newest = some r → tallyOpen s = false ∨ r.same code ty inst as vs = false) :
    tallyEvent s code ty inst as vs = tallyCreate s code ty inst as vs := by
  unfold tallyEvent
  dsimp only
  cases hnew : s.sharal.tally.newest with
  | none => rfl
  | some r => exact if_neg (by rcases h r hnew with h | h <;> simp [h])

/-- The record that an occurrence makes. -/
def newRec (s : State) (code ty inst : Nat) (as vs : List Word) : TRec :=
  { seq := s.sharal.tally.head + 1, hours := s.sharal.tally.hour, cycles := s.sharal.tally.cycles, code := code
    dropped := s.sharal.tally.dropped, repeats := 0, first := s.ac48, last := s.ac48, addrs := as, vals := vs
    srcType := ty, srcInst := inst, fw := s.sharal.fwVer, crcBad := false }

theorem tallyCreate_new (h : s.sharal.tally.staged < 512) : tallyCreate s code ty inst as vs = (s.mapTally (fun t => { t with
      recs := t.recs ++ [newRec s code ty inst as vs], staged := t.staged + 1, head := t.head + 1, opened := some s.ac
      dropped := 0 })).pulse slotTally 0 := if_neg (Nat.not_le.mpr h)

theorem tallyCreate_drops (h : 512 ≤ s.sharal.tally.staged) : tallyCreate s code ty inst as vs
    = ((s.mapTally (fun t => { t with dropped := min 255 (t.dropped + 1) })).bump slotTally 0x04C 1).pulse slotTally 1 := if_pos h

theorem tallyCreate_drops_spec (h : 512 ≤ s.sharal.tally.staged) : Only [.regs, .evts, .sharal] s (tallyCreate s code ty inst as vs)
    ∧ (tallyCreate s code ty inst as vs).sharal.tally.recs = s.sharal.tally.recs
    ∧ (tallyCreate s code ty inst as vs).sharal.tally.dropped = min 255 (s.sharal.tally.dropped + 1) := by
  rw [tallyCreate_drops h]
  exact ⟨((State.pulse_keeps ..).cut (by decide) <| (State.bump_keeps ..).cut (by decide) <|
    (State.mapTally_keeps ..).mono (by decide)).only, rfl, rfl⟩

theorem tallyRecordClose_none (h : s.sharal.tally.opened = none) : tallyRecordClose s = s := by
  unfold tallyRecordClose
  rw [h]

theorem tallyRecordClose_some {n : Nat} (h : s.sharal.tally.opened = some n) :
    tallyRecordClose s = if n + 50000000 ≤ s.ac then closeRecord s else s := by
  unfold tallyRecordClose
  rw [h]

theorem tallyProgram_none (h : s.sharal.tally.staged = 0 ∨ (s.sharal.tally.staged = 1 ∧ tallyOpen s = true)) : tallyProgram s = s := by
  have hnone : toProgram s = none := if_pos h
  unfold tallyProgram
  rw [hnone]

theorem tallyProgram_some {r : TRec} (h : toProgram s = some r) :
    tallyProgram s = s.mapTally (fun t => { sectorErase t r.seq with staged := (sectorErase t r.seq).staged - 1 }) := by
  unfold tallyProgram
  rw [h]

theorem sectorErase_keeps {t : Tally} {seq : Nat} (h : (seq - 1) % 512 ≠ 0 ∨ seq ≤ 32768) : sectorErase t seq = t := by
  unfold sectorErase
  dsimp only
  split
  · rfl
  next hfirst => exact if_pos (h.resolve_left (fun hne => hfirst hne))

theorem sectorErase_erases {t : Tally} {seq : Nat} (hfirst : (seq - 1) % 512 = 0) (h : 32768 < seq) : sectorErase t seq
    = { t with recs := t.recs.filter (fun r => decide (seq - 32256 ≤ r.seq)), tail := max t.tail (seq - 32256) } := by
  have hlow : seq - 32768 + 512 = seq - 32256 := by omega
  unfold sectorErase
  dsimp only
  rw [if_neg (by simpa using hfirst), if_neg (by omega), hlow]

end

/-! ### Loads and clears (R460, R461) -/

section
variable {s : State} {f : FuncId} (v : Word)

theorem exec_tallyLoad (h : Reaches s f (regAt slotTally 0x05C)) : exec (.tallyLoad f v) s = .next (tallyLoad s.fromHost) := by
  refine congrArg Host.Outcome.next ((barWrite_reaches h _).trans ?_)
  exact if_pos (bit_or_strobe v (by decide))

theorem tallyLoad_found {r : TRec} (h : recordOf s (s.reg slotTally 0x058) = some r) :
    tallyLoad s = s.mapTally (fun t => { t with winStat := if r.crcBad then 5 else 2, win := r.words }) := by
  unfold tallyLoad loadStatus
  dsimp only
  rw [h]
  rfl

theorem tallyLoad_missing (h : recordOf s (s.reg slotTally 0x058) = none) : tallyLoad s
    = s.mapTally (fun t => { t with winStat := if seqView s.sharal.tally.head < (s.reg slotTally 0x058).toNat then 4 else 3 }) := by
  unfold tallyLoad loadStatus
  dsimp only
  rw [h]

theorem recordOf_fromHost (s : State) (q : Word) : recordOf s.fromHost q = recordOf s q := by
  unfold recordOf
  rw [fromHost_sharal]

/-- CLEAR_CTRL with the session of a write, which function 0 alone sets. -/
def clearSelected (s : State) (f : FuncId) (v : Word) : State :=
  if f.val = 0 then s.fromHost.setReg slotTally 0x064 (v &&& 0xFF) else s.fromHost

theorem clearSelected_own (s : State) (v : Word) (hf : f.val = 0) : bits ((clearSelected s f v).reg slotTally 0x064) 7 0 = bits v 7 0
    ∧ (clearSelected s f v).host = s.host ∧ (clearSelected s f v).sharal = s.sharal := by
  unfold clearSelected
  rw [if_pos hf, State.reg_setReg_same]
  exact ⟨bits_and_mask v (by decide), fromHost_host s, fromHost_sharal s⟩

theorem exec_tallyClear (h : Reaches s f (regAt slotTally 0x064)) :
    exec (.tallyClear f v) s = .next (tallyClear (clearSelected s f v) f.val) := by
  refine congrArg Host.Outcome.next ((barWrite_reaches h _).trans ?_)
  refine (if_pos (bit_or_strobe v (by decide))).trans ?_
  rw [and_mask_or v (by decide)]
  rfl

theorem tallyClear_refused {u : State} {f : Nat} (h : f ≠ 0 ∨ mayClear u (bits (u.reg slotTally 0x064) 7 0) = false) :
    tallyClear u f = u.strobeRefused slotTally 0x064 31 3 := if_neg (by rcases h with h | h <;> simp [h])

theorem tallyClear_clears {u : State} {n : Nat} (hn : bits (u.reg slotTally 0x064) 7 0 = n) (h : mayClear u n = true) :
    tallyClear u 0 = logCleared u n := by
  unfold tallyClear
  dsimp only
  rw [hn, h]
  rfl

theorem mayClear_of_host {s t : State} (h : t.host = s.host) (n : Nat) : mayClear t n = mayClear s n := by
  unfold mayClear openSession
  rw [h]

/-- The log without its records, whose numbers are not used again. -/
def logEmptied (s : State) : State := s.mapTally (fun t => { t with opened := none, tail := t.head + 1, recs := [], staged := 0 })

theorem logCleared_eq (s : State) (n : Nat) : ∃ x, logCleared s n = (mandatory (logEmptied s) 0x1008 x).pulse slotTally 2 := ⟨_, rfl⟩

theorem logEmptied_spec (s : State) : Only [.sharal] s (logEmptied s) ∧ (logEmptied s).sharal.tally.recs = []
    ∧ (logEmptied s).sharal.tally.staged = 0 ∧ (logEmptied s).sharal.tally.opened = none
    ∧ (logEmptied s).sharal.tally.tail = s.sharal.tally.head + 1 ∧ (logEmptied s).sharal.tally.head = s.sharal.tally.head :=
  ⟨(State.mapTally_keeps ..).only, rfl, rfl, rfl, rfl, rfl⟩

end

/-- Settles O57: each command's case, by what its strobe, record or load does. -/
theorem observationAndTally : Obligations.ObservationAndTally := by
  refine ⟨fun s u f v h hu => ⟨fun h30 h29 => ?_, fun h31 h29 => ?_, fun h31 h30 hbad => ?_, fun h31 h30 ht hw => ?_⟩,
    fun s => ⟨fun h => ?_, fun h => ?_⟩, fun s u f h hu hd hsoft => ?_, fun s u f h hu hd hsoft => ?_,
    fun s u f v h hu => ⟨fun h30 h29 => ?_, fun h31 h29 => ?_, fun h31 h30 => ?_⟩, fun s h => ?_,
    fun s c rest h => ⟨fun hnone => ?_, fun i snaps hi htakes hbelow hsnaps => ?_⟩,
    fun s code ty inst as vs => ⟨fun r hnew hopen hsame => tallyEvent_repeats hnew hopen hsame, fun hnew => ⟨fun hroom => ?_, fun hfull => ?_⟩⟩,
    fun s => ⟨fun h => ?_, fun n h => ⟨fun hearly => ?_, fun hlate => ?_⟩⟩,
    fun s => ⟨fun h => ?_, fun r h => ⟨fun hinside => ?_, fun hfirst hlate => ?_⟩⟩, fun s => ⟨fun hon hlate => ?_, fun h => ?_⟩,
    fun s u f v q h hu hq => ⟨fun r hr => ?_, fun hr => ?_⟩, fun s u f v h hu => ⟨fun hf hmay => ?_, fun hbad => ?_⟩⟩
  · subst hu
    rw [exec_traceStart h v h30 h29, ← fromHost_now s]
    rfl
  · subst hu
    exact exec_traceStop h v h31 h29
  · subst hu
    rw [exec_traceCopy h v h31 h30, traceCopy_refused]
    rcases hbad with hbad | hbad
    · left
      exact (congrArg Sharal.tracing (fromHost_sharal s)).trans hbad
    · right
      exact (hostWritable_of_only (((State.setReg_keeps ..).cut (by decide) (arriving_keeps (.func f) s)).only)).trans hbad
  · subst hu
    have htrace := (congrArg Sharal.tracing (fromHost_sharal s)).trans ht
    have hwritable := (hostWritable_of_only (((State.setReg_keeps s.fromHost slotMgmt 0x300 (v &&& 0x1000013F)).cut (by decide)
      (arriving_keeps (.func f) s)).only)).trans hw
    rw [exec_traceCopy h v h31 h30, traceCopy_sends (u := s.fromHost.setReg slotMgmt 0x300 (v &&& 0x1000013F)) htrace hwritable, ← fromHost_sharal s]
    rfl
  · exact congrArg Host.Outcome.next (if_neg (by simp [h]))
  · exact congrArg Host.Outcome.next (if_pos h)
  · subst hu
    refine ⟨_, exec_traceDataRead h hd, (traceAdvance_keeps _).only, ?_⟩
    have hindex := traceAdvance_index (s := s.fromHost) (by rwa [fromHost_soft])
    rwa [fromHost_reg s slotMgmt (by decide)] at hindex
  · subst hu
    rw [exec_traceDataRead h hd, traceAdvance_soft (by rwa [fromHost_soft])]
  · subst hu
    exact exec_counterStart h h30 h29
  · subst hu
    exact exec_counterStop h h31 h29
  · subst hu
    exact ⟨_, exec_counterClear h h31 h30, (Keeps.regs s.fromHost _).only, fun slot off ho hc =>
      (countersClear_reg _ ho).trans (if_neg (by simp [hc])), fun c k hc hk => countersClear_core _ hc hk,
      fun k hk => countersClear_host _ hk⟩
  · exact congrArg Host.Outcome.next (faultCopyTake_none h)
  · exact congrArg Host.Outcome.next (faultCopyTake_untriggered h hnone)
  · subst hsnaps
    exact congrArg Host.Outcome.next (faultCopyTake_triggers h hi htakes hbelow)
  · rw [tallyEvent_creates hnew]
    exact ⟨_, tallyCreate_new hroom, rfl, rfl, rfl, rfl, rfl, rfl, rfl, rfl, rfl, rfl⟩
  · rw [tallyEvent_creates hnew]
    exact ⟨_, rfl, tallyCreate_drops_spec hfull⟩
  · exact congrArg Host.Outcome.next (tallyRecordClose_none h)
  · exact congrArg Host.Outcome.next ((tallyRecordClose_some h).trans (if_neg (Nat.not_le.mpr hearly)))
  · exact congrArg Host.Outcome.next ((tallyRecordClose_some h).trans (if_pos hlate))
  · exact congrArg Host.Outcome.next (tallyProgram_none h)
  · exact congrArg Host.Outcome.next ((tallyProgram_some h).trans (congrArg (State.mapTally s) (funext fun t => by
      rw [sectorErase_keeps hinside])))
  · exact congrArg Host.Outcome.next ((tallyProgram_some h).trans (congrArg (State.mapTally s) (funext fun t => by
      rw [sectorErase_erases hfirst hlate])))
  · exact congrArg Host.Outcome.next (if_pos (by simp [hon, hlate]))
  · refine congrArg Host.Outcome.next (if_neg ?_)
    rcases h with h | h
    · simp [h]
    · simp [Nat.not_le.mpr h]
  · subst hu hq
    rw [exec_tallyLoad v h, tallyLoad_found (by rwa [recordOf_fromHost, fromHost_reg s slotTally (by decide)])]
  · subst hu hq
    rw [exec_tallyLoad v h, tallyLoad_missing (by rwa [recordOf_fromHost, fromHost_reg s slotTally (by decide)]),
      fromHost_reg s slotTally (by decide), fromHost_sharal]
  · obtain rfl : u = clearSelected s f v := hu
    obtain ⟨hbits, hhost, hsharal⟩ := clearSelected_own s v hf
    rw [exec_tallyClear v h, hf, tallyClear_clears hbits (by rwa [mayClear_of_host hhost])]
    obtain ⟨x, hx⟩ := logCleared_eq (clearSelected s f v) (bits v 7 0)
    obtain ⟨honly, hrecs, hstaged, hopened, htail, hhead⟩ := logEmptied_spec (clearSelected s f v)
    rw [hx]
    rw [hsharal] at htail hhead
    exact ⟨_, x, rfl, honly, hrecs, hstaged, hopened, htail, hhead⟩
  · subst hu
    rw [exec_tallyClear v h]
    refine congrArg Host.Outcome.next (tallyClear_refused ?_)
    by_cases hf : f.val = 0
    · obtain ⟨hbits, hhost, -⟩ := clearSelected_own s v hf
      right
      rw [hbits, mayClear_of_host hhost]
      exact hbad.resolve_left (fun hne => hne hf)
    · exact .inl hf

end Sys2Proof.Machine

/-! PROOFS. The start of a reset: hangs, commands, the hurdle and the drain (16_faults_recovery.md R415 to R423). -/

namespace Sys2Proof.Machine

/-! ### Where a hurdle is raised -/

theorem hurdled_of_only {s t : State} (h : Only [.regs] s t) (d : RDom) : t.hurdled d = s.hurdled d := by
  have hresets : t.resets = s.resets := h.2 .resets (by decide)
  unfold State.hurdled
  rw [hresets]

theorem resetOff_of_only {s t : State} (h : Only [.regs] s t) (d : RDom) : resetOff t d = resetOff s d := by
  have hoff : ∀ x, isOff t x = isOff s x := fun x => by
    have hdom : t.dom x = s.dom x := dom_of_power (h.2 .power (by decide)) x
    unfold isOff
    rw [hdom]
  cases d with
  | core c => exact hoff _
  | fold f => exact hoff _
  | herd => exact hoff _
  | paddock => exact hoff _
  | _ => rfl

theorem startReset_refused {s : State} {d : RDom} (h : s.hurdled d = true ∨ resetOff s d = true) (cause : Nat) (f : State → State) :
    startReset s d cause f = f s := if_pos (by rcases h with h | h <;> simp [h])

theorem startReset_raises {s : State} {d : RDom} (hh : s.hurdled d = false) (ho : resetOff s d = false) (cause : Nat) (f : State → State) :
    startReset s d cause f = raise s d cause := if_neg (by simp [hh, ho])

/-! ### Hangs (R416) -/

/-- The state with the stops that units have still to report. -/
abbrev stopsLive (s : State) : State := s.mapDrover (fun d => { d with stops := s.drover.stops.filter (notStopped s) })

section
variable {s : State}

theorem find?_late_none (h : ∀ w ∈ s.drover.stops, notStopped s w = true → s.now ≤ w.by_) :
    (s.drover.stops.filter (notStopped s)).find? (fun w => decide (w.by_ < s.now)) = none := by
  rw [List.find?_eq_none]
  intro w hw
  obtain ⟨hmem, hstop⟩ := List.mem_filter.mp hw
  simpa using h w hmem hstop

theorem hangDetect_onTime (h : ∀ w ∈ s.drover.stops, notStopped s w = true → s.now ≤ w.by_) : hangDetect s
    = match lateDrain s with
      | some x => hung (stopsLive s) x.1 x.2
      | none => stopsLive s := by
  unfold hangDetect
  dsimp only
  rw [find?_late_none h] <;> rfl

theorem hangDetect_late {w : StopWait} (h : (s.drover.stops.filter (notStopped s)).find? (fun w => decide (w.by_ < s.now)) = some w) :
    hangDetect s = hung ((stopsLive s).mapDrover (fun d => { d with stops := d.stops.filter (· != w) })) w.unit w.task := by
  unfold hangDetect
  dsimp only
  rw [h]

theorem hung_core {c : Nat} (h : c < 256) (t : Nat) : hung s c t = startReset (State.fault s slotDrvr
    { code := 0x0403, task := some t, d0 := w32 c, d1 := w32 t }) (.core (coreOf c)) 2 id := by
  unfold hung
  dsimp only
  rw [if_pos h]

end

/-! ### RESET_CMD (Table 16-11) -/

theorem exec_resetCommand {s : State} {r : Requester} (h : Arrives s r (regAt slotMgmt 0x180)) (v : Word) :
    exec (.resetCommand r v) s = .next (reported r (resetCmd ((arriving r s).setReg slotMgmt 0x180 (v &&& 0x000F00FF)))) := by
  have hwrite : ∀ u, resetCmdWrite u (v ||| 0x80000000) = resetCmd (u.setReg slotMgmt 0x180 (v &&& 0x000F00FF)) := fun u => by
    unfold resetCmdWrite
    dsimp only
    rw [bit_or_strobe v (by decide), and_mask_or v (by decide), if_pos rfl]
  rw [← hwrite]
  exact congrArg Host.Outcome.next (writeBy_arrives h _)

theorem resetCmd_names {u : State} {v : Word} (h : u.reg slotMgmt 0x180 = v &&& 0x000F00FF) : resetCmd u
    = match rdomOf (bits v 19 16) (bits v 7 0) with
      | some d => startReset u d 1 (fun x => x.strobeRefused slotMgmt 0x180 31 3)
      | none => u.strobeRefused slotMgmt 0x180 31 3 := by
  have hcode : bits (v &&& 0x000F00FF) 19 16 = bits v 19 16 := bits_and_mask v (by decide)
  have hunit : bits (v &&& 0x000F00FF) 7 0 = bits v 7 0 := bits_and_mask v (by decide)
  unfold resetCmd
  dsimp only
  rw [h, hcode, hunit] <;> rfl

/-! ### The hurdle (R419, R421) -/

theorem rcovers_self (d : RDom) : rcovers d d = true := by
  cases d <;> simp [rcovers]

/-- The resets in progress once a hurdle has been raised. -/
theorem raise_runs (s : State) (d : RDom) (cause : Nat) : ∃ n, (raise s d cause).resets.runs
    = s.resets.runs.filter (fun x => !rcovers d x.dom) ++ [{ dom := d, cause := cause, phase := .drain, since := s.now, chain := n }] := by
  have hjoin : (joinChain s d cause).2.runs = s.resets.runs := by
    unfold joinChain
    dsimp only
    split <;> rfl
  refine ⟨(joinChain s d cause).1, ?_⟩
  rw [← hjoin]
  unfold raise
  generalize joinChain s d cause = j
  obtain ⟨id, r⟩ := j
  dsimp only
  generalize hu : State.pulse _ slotMgmt 0 = u
  have hresets : u.resets = { r with runs := r.runs.filter (fun x => !rcovers d x.dom)
      ++ [{ dom := d, cause := cause, phase := .drain, since := s.now, chain := id }] } := by
    rw [← hu]
    rfl
  have hafter : (tracePhase (resetNotice (resetWakes (resetAborts u d cause) d) d cause) d cause 1).resets = u.resets :=
    ((tracePhase_keeps ..).cut (qs := [.regs, .evts, .faults, .mem, .cores, .drover, .herd, .paddock, .fabric, .host, .power, .sharal, .free])
      (by decide) <| (resetNotice_keeps ..).cut (by decide) <| (resetWakes_keeps ..).cut (by decide) <|
      (resetAborts_keeps u d cause).mono (by decide)).only.2 .resets (by decide)
  generalize tracePhase (resetNotice (resetWakes (resetAborts u d cause) d) d cause) d cause 1 = t at hafter ⊢
  rw [hresets] at hafter
  have hruns := congrArg Resets.runs hafter
  cases d with
  | module =>
    dsimp only
    rw [(mandatory_keeps ..).only.2 .resets (by decide)]
    exact hruns
  | _ => exact hruns

theorem raise_hurdled (s : State) (d : RDom) (cause : Nat) : (raise s d cause).hurdled d = true := by
  obtain ⟨n, hruns⟩ := raise_runs s d cause
  unfold State.hurdled
  rw [hruns]
  simp [rcovers_self]

theorem raise_merges (s : State) (d : RDom) (cause : Nat) :
    ∀ x ∈ (raise s d cause).resets.runs, x.dom = d ∨ rcovers d x.dom = false := by
  obtain ⟨n, hruns⟩ := raise_runs s d cause
  rw [hruns]
  intro x hx
  rcases List.mem_append.mp hx with hx | hx
  · exact .inr (by simpa using (List.mem_filter.mp hx).2)
  · obtain rfl := List.mem_singleton.mp hx
    exact .inl rfl

theorem raise_drains (s : State) (d : RDom) (cause : Nat) :
    ∃ x ∈ (raise s d cause).resets.runs, x.dom = d ∧ x.cause = cause ∧ x.phase = .drain ∧ x.since = s.now := by
  obtain ⟨n, hruns⟩ := raise_runs s d cause
  rw [hruns]
  exact ⟨_, List.mem_append_right _ (List.mem_singleton_self _), rfl, rfl, rfl, rfl⟩

/-- The notice's word of a domain and its unit. -/
theorem noticeWord {dom unit : Nat} (h : unit < 2 ^ 24) : fld dom 24 ||| w32 unit = BitVec.ofNat 32 (dom * 0x1000000 + unit) := by
  have hor : dom * 0x1000000 + unit = dom <<< 24 ||| unit := by
    rw [Nat.shiftLeft_eq, Nat.mul_comm dom]
    exact Nat.two_pow_add_eq_or_of_lt h dom
  rw [hor]
  exact (BitVec.ofNat_or ..).symm

theorem resetNotice_records {d : RDom} {code dom unit : Nat} (h :
    (∃ c, d = .core c ∧ code = 0x0901 ∧ dom = 1 ∧ unit = c.val) ∨ (∃ x, d = .fold x ∧ code = 0x0902 ∧ dom = 2 ∧ unit = x.val)
    ∨ (d = .compute ∧ code = 0x0903 ∧ dom = 3 ∧ unit = 0) ∨ (d = .herd ∧ code = 0x0904 ∧ dom = 4 ∧ unit = 0)
    ∨ (d = .paddock ∧ code = 0x0905 ∧ dom = 5 ∧ unit = 0) ∨ (∃ p, d = .port p ∧ code = 0x0906 ∧ dom = 7 ∧ unit = p.val)
    ∨ (d = .mgmt ∧ code = 0x0907 ∧ dom = 8 ∧ unit = 0)) (s : State) (cause : Nat) : d ≠ .module
      ∧ resetNotice s d cause = hostFault s code none none (BitVec.ofNat 32 (dom * 0x1000000 + unit)) (w32 cause) := by
  have hnotice : ∀ unit, unit < 2 ^ 24 → d ≠ .module ∧ d ≠ .host → rdomFault d = code → rdomCode d = (dom, unit) → resetNotice s d cause
      = hostFault s code none none (BitVec.ofNat 32 (dom * 0x1000000 + unit)) (w32 cause) := fun unit hu hne hf hc => by
    rw [← noticeWord hu, ← hf]
    unfold resetNotice
    split
    · exact absurd rfl hne.1
    · exact absurd rfl hne.2
    · rw [hc]
  rcases h with ⟨c, rfl, rfl, rfl, rfl⟩ | ⟨x, rfl, rfl, rfl, rfl⟩ | ⟨rfl, rfl, rfl, rfl⟩ | ⟨rfl, rfl, rfl, rfl⟩ | ⟨rfl, rfl, rfl, rfl⟩
    | ⟨p, rfl, rfl, rfl, rfl⟩ | ⟨rfl, rfl, rfl, rfl⟩
  all_goals exact ⟨by simp, hnotice _ (by omega) (by simp) rfl rfl⟩

theorem raise_notices {d : RDom} (hd : d ≠ .module) (s : State) (cause : Nat) :
    ∃ w, raise s d cause = tracePhase (resetNotice w d cause) d cause 1 := by
  unfold raise
  dsimp only
  cases d with
  | module => exact absurd rfl hd
  | _ => exact ⟨_, rfl⟩

/-! ### The drain (R423) -/

/-- What every step keeps and one step brings about holds after all of them. -/
theorem foldl_establishes {α : Type} {P : State → Prop} {f : State → α → State} (hkeep : ∀ u x, P u → P (f u x)) (l : List α) (s : State)
    (h : P s ∨ ∃ x ∈ l, ∀ u, P (f u x)) : P (l.foldl f s) := by
  induction l generalizing s with
  | nil => simpa using h
  | cons a l ih =>
    refine ih _ ?_
    rcases h with h | ⟨x, hx, h⟩
    · exact .inl (hkeep s a h)
    · rcases List.mem_cons.mp hx with rfl | hx
      · exact .inl (h s)
      · exact .inr ⟨x, hx, h⟩

/-- A channel without a transfer that is open in the domain. -/
def ChanClosed (cores : List Nat) (c n : Nat) (s : State) : Prop := ∀ f ∈ ((s.core c).chan n).flights, openIn cores c f = false

theorem ChanClosed.of_chan {cores : List Nat} {c n : Nat} {s t : State} (h : ChanClosed cores c n s)
    (hc : ((t.core c).chan n).flights = ((s.core c).chan n).flights) : ChanClosed cores c n t := by
  unfold ChanClosed
  rw [hc]
  exact h

theorem chanFault_chan (s : State) (c ch code : Nat) (addr : Option Nat) (d0 d1 : Word) (x n : Nat) :
    ((chanFault s c ch code addr d0 d1).core x).chan n = (s.core x).chan n := by
  unfold chanFault
  split
  next t _ =>
    obtain ⟨o, ho⟩ := taskFault_core s (slotStrm c) t (some c) code addr d0 d1 x
    rw [ho]
    rfl
  · rfl

/-- A channel without its open transfers. -/
abbrev chanEmptied (cores : List Nat) (s : State) (c ch : Nat) : State :=
  s.mapCore c (fun k => k.setChan ch { (s.core c).chan ch with flights := ((s.core c).chan ch).flights.filter (fun f => !openIn cores c f) })

theorem dropChannel_chan (cores : List Nat) (s : State) (c ch : Nat) : (((s.core c).chan ch).flights.filter (openIn cores c) = []
      ∧ dropChannel cores s c ch = s)
    ∨ ∀ x n, ((dropChannel cores s c ch).core x).chan n = ((chanEmptied cores s c ch).core x).chan n := by
  unfold dropChannel
  dsimp only
  split
  next hempty => exact .inl ⟨List.isEmpty_iff.mp hempty, rfl⟩
  · right
    intro x n
    split
    · rfl
    · exact chanFault_chan ..

section
variable (cores : List Nat) (s : State)

theorem dropChannel_closes (c ch : Nat) : ChanClosed cores c ch (dropChannel cores s c ch) := by
  rcases dropChannel_chan cores s c ch with ⟨hempty, hsame⟩ | hchan
  · rw [hsame]
    intro f hf
    simpa using List.filter_eq_nil_iff.mp hempty f hf
  · unfold ChanClosed
    rw [hchan c ch, State.core_mapCore_same, Core.chan_setChan_same]
    intro f hf
    simpa using (List.mem_filter.mp hf).2

theorem dropChannel_stays {c n : Nat} (c' ch : Nat) (h : ChanClosed cores c n s) : ChanClosed cores c n (dropChannel cores s c' ch) := by
  by_cases hc : c = c'
  · by_cases hn : n = ch
    · subst hc hn
      exact dropChannel_closes cores s c n
    · rcases dropChannel_chan cores s c' ch with ⟨-, hsame⟩ | hchan
      · rwa [hsame]
      · refine h.of_chan ?_
        subst hc
        rw [hchan c n, State.core_mapCore_same, Core.chan_setChan_other _ _ hn]
  · rcases dropChannel_chan cores s c' ch with ⟨-, hsame⟩ | hchan
    · rwa [hsame]
    · refine h.of_chan ?_
      rw [hchan c n, State.core_mapCore_other _ _ hc]

/-- At the drain limit no channel is left with a transfer that is open in the domain. -/
theorem dropOpen_closes (d : RDom) {c n : Nat} (hn : n < 8) : ChanClosed (domCores d) c n (dropOpen s d) := by
  have hrow : ∀ (u : State) (c' : Nat), ChanClosed (domCores d) c n u →
      ChanClosed (domCores d) c n ((List.range 8).foldl (fun w ch => dropChannel (domCores d) w c' ch) u) := fun u c' hu =>
    foldl_establishes (fun w ch hw => dropChannel_stays _ w c' ch hw) _ _ (.inl hu)
  have hall : ChanClosed (domCores d) c n
      ((Tbl.keys s.cores).foldl (fun u c => (List.range 8).foldl (fun w ch => dropChannel (domCores d) w c ch) u) s) := by
    refine foldl_establishes (fun u c' hu => hrow u c' hu) _ _ ?_
    by_cases hc : c ∈ Tbl.keys s.cores
    · exact .inr ⟨c, hc, fun u => foldl_establishes (fun w ch hw => dropChannel_stays _ w c ch hw) _ _
        (.inr ⟨n, List.mem_range.mpr hn, fun w => dropChannel_closes _ w c n⟩)⟩
    · left
      unfold ChanClosed
      rw [core_of_not_keys hc]
      exact fun f hf => absurd hf (by simp [Core.chan, Core.idle, Tbl.getD, Tbl.get, Chan.idle])
  unfold dropOpen
  dsimp only
  generalize (Tbl.keys s.cores).foldl _ s = u at hall ⊢
  refine hall.of_chan ?_
  have hrefused : Keeps [.regs, .evts, .host, .out] u ((u.host.bar2.filter (fun b => u.reach b.addr == .hurdle)).foldl
      (fun u b => bar2Refused (u.mapHost (fun h => { h with bar2 := dropFirst b h.bar2 })) b) u) :=
    Keeps.foldl _ _ (fun u b => (bar2Refused_keeps ..).cut (by decide) ((State.mapHost_keeps ..).mono (by decide))) (Keeps.refl _ u)
  rw [core_of_cores (hrefused.only.cores_eq (by decide))]

end

/-- The first run of a domain is the one that was put there. -/
theorem find?_runsSet {d : RDom} {r : RRun} (hr : r.dom = d) (l : List RRun) (h : ∃ x ∈ l, x.dom = d) :
    (l.map (fun q => if q.dom = r.dom then r else q)).find? (fun x => x.dom == d && x.phase == r.phase) = some r := by
  induction l with
  | nil => simp at h
  | cons a l ih =>
    rw [List.map_cons]
    by_cases ha : a.dom = d
    · rw [if_pos (ha.trans hr.symm)]
      exact List.find?_cons_of_pos (by simp [hr])
    · rw [if_neg (by rwa [hr]), List.find?_cons_of_neg (by simp [ha])]
      obtain ⟨x, hx, hd⟩ := h
      rcases List.mem_cons.mp hx with rfl | hx
      · exact absurd hd ha
      · exact ih ⟨x, hx, hd⟩

theorem runAt_mem {s : State} {d : RDom} {p : RPhase} {r : RRun} (h : runAt s d p = some r) :
    r ∈ s.resets.runs ∧ r.dom = d ∧ r.phase = p := by
  have hfound := List.find?_some h
  simp only [Bool.and_eq_true, beq_iff_eq] at hfound
  exact ⟨List.mem_of_find?_eq_some h, hfound⟩

theorem runAt_setRun {u : State} {d : RDom} {r : RRun} (hr : r.dom = d) (h : ∃ x ∈ u.resets.runs, x.dom = d) :
    runAt (setRun u r) d r.phase = some r := find?_runsSet hr _ h

theorem setChain_runs (s : State) (c : Chain) : (setChain s c).resets.runs = s.resets.runs := rfl

theorem sampleBegin_runs (s : State) (r : RRun) : (sampleBegin s r).resets.runs = s.resets.runs := by
  have hset : ∀ (u : State) (v : Word), (u.hardReg slotMgmt 0x19C v).resets = u.resets := fun u v =>
    (State.hardReg_keeps ..).only.2 .resets (by decide)
  unfold sampleBegin
  split
  · rfl
  · split
    · rfl
    · dsimp only
      split
      · rw [setChain_runs, hset]
        rfl
      · rfl

/-- The end of a drain: the sample begins, and the run is in its next phase. -/
abbrev drainEnded (s : State) (u : State) (d : RDom) (r : RRun) : State :=
  tracePhase (setRun (sampleBegin u r) { r with phase := .sample, since := s.now }) d r.cause 2

section
variable {s : State} {d : RDom} {r : RRun} (h : runAt s d .drain = some r)
include h

theorem resetDrainEnd_waits (hwait : awake s d = false ∨ (drained s d = false ∧ s.ac < r.since / 40 + drainLimit d)) :
    resetDrainEnd s d = s := by
  unfold resetDrainEnd
  rw [h]
  refine if_pos ?_
  rcases hwait with hw | ⟨hd, hw⟩
  · simp [hw]
  · simp [hd, State.acSince, hw]

theorem resetDrainEnd_drained (ha : awake s d = true) (hd : drained s d = true) : resetDrainEnd s d = drainEnded s s d r := by
  unfold resetDrainEnd
  rw [h]
  dsimp only
  rw [if_neg (by simp [ha, hd]), if_pos hd]

theorem resetDrainEnd_drops (ha : awake s d = true) (hd : drained s d = false) (hl : r.since / 40 + drainLimit d ≤ s.ac) :
    resetDrainEnd s d = drainEnded s (dropOpen s d) d r := by
  unfold resetDrainEnd
  rw [h]
  dsimp only
  rw [if_neg (by simp [ha, State.acSince, hl]), if_neg (by simp [hd])]

theorem runAt_drainEnded {u : State} (hu : u.resets = s.resets) : runAt (drainEnded s u d r) d .sample
    = some { r with phase := .sample, since := s.now } := by
  obtain ⟨hmem, hdom, -⟩ := runAt_mem h
  have hsame : (drainEnded s u d r).resets = (setRun (sampleBegin u r) { r with phase := .sample, since := s.now }).resets :=
    (tracePhase_keeps ..).only.2 .resets (by decide)
  have hrun := runAt_setRun (u := sampleBegin u r) (r := { r with phase := .sample, since := s.now }) hdom
    ⟨r, by rwa [sampleBegin_runs, hu], hdom⟩
  unfold runAt at hrun ⊢
  rw [hsame]
  exact hrun

end

theorem drainEnded_keeps (s u : State) (d : RDom) (r : RRun) : Keeps [.regs, .resets, .sharal] u (drainEnded s u d r) :=
  (tracePhase_keeps ..).cut (by decide) <| (setRun_keeps ..).cut (by decide) <| (sampleBegin_keeps u r).mono (by decide)

end Sys2Proof.Machine

/-! PROOFS. The sample, the assertion and the completion of a reset, and the obligation about resets
(16_faults_recovery.md R424 to R434). -/

namespace Sys2Proof.Machine

/-! ### The sample (R427) -/

section
variable {s : State} {d : RDom}

theorem sampleReadTimeout_none (h : runAt s d .sample = none) (k : SampleUnit) : sampleReadTimeout s d k = s := by
  unfold sampleReadTimeout
  rw [h]

theorem sampleReadTimeout_some {r : RRun} {c : Chain} (h : runAt s d .sample = some r) (hc : chainOf s r.chain = some c) (k : SampleUnit) :
    sampleReadTimeout s d k = if !s.acSince r.since 100 || c.marked.contains k then s else setChain s { c with marked := c.marked ++ [k] } := by
  unfold sampleReadTimeout
  rw [h]
  dsimp only
  rw [hc]

end

/-! ### The assertion (R424) -/

/-- A record goes to the dump buffer or the always-on area, or does not fit. -/
theorem putRecord_cases (s : State) (id : Nat) (x : List Byte × Bool) : putRecord s id x = s
    ∨ (∃ o c, putRecord s id x = setChain (s.toHost o) c) ∨ (∃ c, putRecord s id x = truncated s c)
    ∨ ∃ ws, putRecord s id x = mapResets s (fun y => { y with ao := y.ao ++ ws }) := by
  unfold putRecord
  split
  · exact .inl rfl
  next c _ =>
    split
    · exact .inl rfl
    · by_cases hfits : 512 + c.bytes + x.1.length ≤ c.size ∧ hostWritable s = true
      · exact .inr (.inl ⟨_, _, if_pos hfits⟩)
      · exact .inr (.inr (.inl ⟨_, if_neg hfits⟩))
    · by_cases hfits : s.resets.ao.length + 64 ≤ 16384
      · exact .inr (.inr (.inr ⟨_, if_pos hfits⟩))
      · exact .inr (.inr (.inl ⟨_, if_neg hfits⟩))

theorem putRecord_narrow (s : State) (id : Nat) (x : List Byte × Bool) : Keeps [.regs, .resets, .out] s (putRecord s id x) := by
  rcases putRecord_cases s id x with h | ⟨o, c, h⟩ | ⟨c, h⟩ | ⟨ws, h⟩
  · rw [h]
    exact Keeps.refl _ s
  · rw [h]
    exact (setChain_keeps ..).cut (by decide) ((State.toHost_keeps ..).mono (by decide))
  · rw [h]
    exact (truncated_keeps s c).mono (by decide)
  · rw [h]
    exact (mapResets_keeps ..).mono (by decide)

theorem putRecord_runs (s : State) (id : Nat) (x : List Byte × Bool) : (putRecord s id x).resets.runs = s.resets.runs := by
  have hsend : ∀ o, (s.toHost o).resets = s.resets := fun o => (State.toHost_keeps ..).only.2 .resets (by decide)
  rcases putRecord_cases s id x with h | ⟨o, c, h⟩ | ⟨c, h⟩ | ⟨ws, h⟩
  · rw [h]
  · rw [h, setChain_runs, hsend]
  · rw [h]
    rfl
  · rw [h]
    rfl

section
variable {s : State} {d : RDom}

theorem resetAssert_none (h : runAt s d .sample = none ∨ sampleTurn s d = false) : resetAssert s d = s := by
  unfold resetAssert
  split
  · rfl
  next r hr =>
    rcases h with h | h
    · exact absurd (h.symm.trans hr) (by simp)
    · exact if_pos (by simp [h])

/-- The reset is asserted once its records have been put. -/
theorem resetAssert_asserts {r : RRun} (h : runAt s d .sample = some r) (ht : sampleTurn s d = true) :
    ∃ xs : List (List Byte × Bool),
    resetAssert s d = tracePhase (setRun (xs.foldl (fun u x => putRecord u r.chain x) s) { r with phase := .asserted, since := s.now }) d r.cause 3 := by
  unfold resetAssert
  rw [h]
  dsimp only
  rw [if_neg (by simp [ht])]
  exact ⟨_, rfl⟩

theorem resetAssert_spec {r : RRun} (h : runAt s d .sample = some r) (ht : sampleTurn s d = true) :
    Only [.regs, .resets, .sharal, .out] s (resetAssert s d)
    ∧ runAt (resetAssert s d) d .asserted = some { r with phase := .asserted, since := s.now } := by
  obtain ⟨xs, hx⟩ := resetAssert_asserts h ht
  obtain ⟨hmem, hdom, -⟩ := runAt_mem h
  have hput : Keeps [.regs, .resets, .out] s (xs.foldl (fun u x => putRecord u r.chain x) s) :=
    Keeps.foldl _ xs (fun u x => putRecord_narrow u r.chain x) (Keeps.refl _ s)
  have hruns : (xs.foldl (fun u x => putRecord u r.chain x) s).resets.runs = s.resets.runs :=
    List.foldlRecOn (motive := fun u : State => u.resets.runs = s.resets.runs) _ _ rfl fun u hu x _ => (putRecord_runs u _ x).trans hu
  rw [hx]
  generalize xs.foldl (fun u x => putRecord u r.chain x) s = u at hput hruns
  refine ⟨((tracePhase_keeps ..).cut (by decide) <| (setRun_keeps ..).cut (by decide) <| hput.mono (by decide)).only, ?_⟩
  have hsame : (tracePhase (setRun u { r with phase := .asserted, since := s.now }) d r.cause 3).resets
      = (setRun u { r with phase := .asserted, since := s.now }).resets := (tracePhase_keeps ..).only.2 .resets (by decide)
  have hrun := runAt_setRun (u := u) (r := { r with phase := .asserted, since := s.now }) hdom ⟨r, by rwa [hruns], hdom⟩
  unfold runAt at hrun ⊢
  rw [hsame]
  exact hrun

end

/-! ### The completion (R424, R432, R433) -/

theorem chainEnd_narrow (s : State) (c : Chain) : Keeps [.regs, .evts, .resets, .out] s (chainEnd s c) := by
  have hgone : Keeps [.regs, .evts, .resets, .out] s (mapResets s (fun x => { x with chains := x.chains.filter (fun d => d.id != c.id) })) :=
    (mapResets_keeps ..).mono (by decide)
  unfold chainEnd
  dsimp only
  split
  · exact hgone
  · exact (State.pulse_keeps ..).cut (by decide) hgone
  · refine Keeps.ite (fun _ => hgone) fun _ => ?_
    refine (State.pulse_keeps ..).cut (by decide) <| (State.setReg_keeps ..).cut (by decide) <| (State.setReg_keeps ..).cut (by decide) ?_
    exact (mapResets_keeps ..).cut (by decide) <| (State.toHost_keeps ..).cut (by decide) hgone

theorem chainEnd_runs (s : State) (c : Chain) : (chainEnd s c).resets.runs = s.resets.runs := by
  unfold chainEnd
  dsimp only
  split
  · rfl
  · rfl
  · split
    · rfl
    · have hsend : ∀ (u : State) o, (u.toHost o).resets = u.resets := fun u o => (State.toHost_keeps ..).only.2 .resets (by decide)
      have hsame := congrArg Resets.runs (hsend (mapResets s fun x => { x with chains := x.chains.filter (fun d => d.id != c.id) })
        (.hostWrite 0 c.base (wordsBytes (dumpHeader c (s.resets.dumpSeq + 1)))))
      exact hsame

theorem pulse_pulsed {s : State} {slot i j : Nat} (h : bit (s.evt slot).pulses i = true) : bit ((s.pulse slot j).evt slot).pulses i = true := by
  unfold State.pulse
  rw [State.evt_setEvt_same]
  exact (bit_or ..).trans (by rw [h]; rfl)

theorem chainEnd_pulsed {s : State} (c : Chain) {i : Nat} (h : bit (s.evt slotMgmt).pulses i = true) :
    bit ((chainEnd s c).evt slotMgmt).pulses i = true := by
  have hsend : ∀ (u : State) o, (u.toHost o).evts = u.evts := fun u o => (State.toHost_keeps ..).only.evts_eq (by decide)
  unfold chainEnd
  dsimp only
  split
  · exact h
  · exact pulse_pulsed h
  · split
    · exact h
    · refine pulse_pulsed ?_
      have hevt := evt_of_evts (hsend (mapResets s fun x => { x with chains := x.chains.filter (fun d => d.id != c.id) })
        (.hostWrite 0 c.base (wordsBytes (dumpHeader c (s.resets.dumpSeq + 1))))) slotMgmt
      exact (congrArg (fun e : EvtState => bit e.pulses i) hevt).trans h

theorem critOff_pwrGood (s : State) (d : Nat) : (critOff s d).power.pwrGood = s.power.pwrGood := by
  obtain ⟨ds, e, h⟩ := critOff_power s d
  rw [h]

theorem critDone_runs (s : State) : (critDone s).resets.runs = s.resets.runs := by
  unfold critDone
  split <;> rfl

theorem critRest_resets (s : State) : (critRest s).resets.runs = s.resets.runs ∧ (critRest s).evts = s.evts
    ∧ (critRest s).power.pwrGood = s.power.pwrGood := by
  have hoff : ∀ (l : List Nat), (l.foldl critOff s).resets = s.resets ∧ (l.foldl critOff s).power.pwrGood = s.power.pwrGood := fun l =>
    ⟨(Keeps.foldl (ps := [.regs, .power]) critOff l critOff_keeps (Keeps.refl _ s)).only.2 .resets (by decide),
     List.foldlRecOn (motive := fun u : State => u.power.pwrGood = s.power.pwrGood) _ _ rfl fun u hu d _ => (critOff_pwrGood u d).trans hu⟩
  refine ⟨?_, (critRest_keeps s).only.evts_eq (by decide), ?_⟩
  · unfold critRest
    split
    · rfl
    · exact (critDone_runs _).trans (congrArg Resets.runs (hoff _).1)
  · unfold critRest
    split
    · rfl
    · exact (congrArg Power.pwrGood ((critDone_keeps _).only.2 .power (by decide))).trans (hoff _).2

section
variable {s : State} {d : RDom}

theorem resetComplete_none (h : runAt s d .asserted = none) : resetComplete s d = s := by
  unfold resetComplete
  rw [h]

/-- The reset's losses, and the run gone. -/
abbrev lossesDone (s : State) (d : RDom) : State :=
  (mapResets (resetLost s d) (fun x => { x with runs := x.runs.filter (fun q => q.dom != d) })).pulse slotMgmt 1

/-- What a completion does after the losses are its trace, the end of its chain, and what a critical event has still to do. -/
theorem resetComplete_after {r : RRun} (h : runAt s d .asserted = some r) : Only [.regs, .evts, .power, .resets, .sharal, .out]
      (lossesDone s d) (resetComplete s d) ∧ (resetComplete s d).resets.runs = (lossesDone s d).resets.runs
    ∧ bit ((resetComplete s d).evt slotMgmt).pulses 1 = true
    ∧ (resetComplete s d).power.pwrGood = (lossesDone s d).power.pwrGood := by
  have hpulse : bit ((lossesDone s d).evt slotMgmt).pulses 1 = true := pulse_pulses _ _ (by decide)
  unfold resetComplete
  rw [h]
  dsimp only
  rw [show (mapResets (resetLost s d) (fun x => { x with runs := x.runs.filter (fun q => q.dom != d) })).pulse slotMgmt 1
    = lossesDone s d from rfl]
  generalize lossesDone s d = u at hpulse ⊢
  have htrace := tracePhase_keeps u d r.cause 0
  generalize tracePhase u d r.cause 0 = v at htrace ⊢
  have hv : bit (v.evt slotMgmt).pulses 1 = true := by
    rw [evt_of_evts (htrace.only.evts_eq (by decide))]
    exact hpulse
  have hvr : v.resets = u.resets := htrace.only.2 .resets (by decide)
  have hvp : v.power = u.power := htrace.only.2 .power (by decide)
  have hend : ∀ w, Keeps [.regs, .evts, .resets, .out] v w → w.resets.runs = v.resets.runs → bit (w.evt slotMgmt).pulses 1 = true →
      Only [.regs, .evts, .power, .resets, .sharal, .out] u (critRest w) ∧ (critRest w).resets.runs = u.resets.runs
      ∧ bit ((critRest w).evt slotMgmt).pulses 1 = true ∧ (critRest w).power.pwrGood = u.power.pwrGood := fun w hw hr hb => by
    obtain ⟨hruns, hevts, hgood⟩ := critRest_resets w
    have hwp : w.power = v.power := hw.only.2 .power (by decide)
    refine ⟨((critRest_keeps w).cut (by decide) ((htrace.mono (by decide)).trans (hw.mono (by decide)))).only, ?_, ?_, ?_⟩
    · rw [hruns, hr, hvr]
    · rw [evt_of_evts hevts]
      exact hb
    · rw [hgood, hwp, hvp]
  split
  · split
    · exact hend v (Keeps.refl _ v) rfl hv
    · exact hend _ (chainEnd_narrow ..) (chainEnd_runs ..) (chainEnd_pulsed _ hv)
  · exact hend v (Keeps.refl _ v) rfl hv

end

end Sys2Proof.Machine

/-! PROOFS. HANG_DETECT to AO_DATA_READ: what a reset loses, its escalation, the dump registers, and the obligation about resets. -/

namespace Sys2Proof.Machine

/-! ### What a reset loses (R433, R434) -/

theorem hostLost_spec (s : State) : (hostLost s).host.queues = [] ∧ (hostLost s).host.banked = [] ∧ (hostLost s).host.keys = s.host.keys
    ∧ (hostLost s).mem = s.mem := ⟨rfl, rfl, rfl, rfl⟩

theorem herdLost_spec (s : State) : (herdLost s).herd.run = none ∧ (herdLost s).mem = s.mem ∧ (herdLost s).cores = s.cores :=
  ⟨rfl, rfl, rfl⟩

theorem moduleLost_spec (s : State) : (moduleLost s).mem = ⟨[], [], []⟩ ∧ (moduleLost s).cores = [] ∧ (moduleLost s).drover.insts = []
    ∧ (moduleLost s).host.ctxs = [] ∧ (moduleLost s).roles = [] ∧ (moduleLost s).power.pwrGood = true
    ∧ (moduleLost s).host.keys = s.host.keys := by
  have hports : ((List.range 6).foldl portInit s).host = s.host :=
    (Keeps.foldl portInit _ portInit_keeps (Keeps.refl _ s)).only.2 .host (by decide)
  have hkeys : (mgmtLost (hostLost ((List.range 6).foldl portInit s))).host.keys = s.host.keys := by
    rw [(mgmtLost_keeps _).only.2 .host (by decide), (hostLost_spec _).2.2.1, hports]
  have hroles : (mgmtLost (hostLost ((List.range 6).foldl portInit s))).roles = [] := rfl
  unfold moduleLost
  dsimp only
  generalize mgmtLost (hostLost ((List.range 6).foldl portInit s)) = u at hkeys hroles ⊢
  generalize hx : State.mapHost _ _ = x
  have hlost : x.mem = ⟨[], [], []⟩ ∧ x.cores = [] ∧ x.drover.insts = [] ∧ x.host.ctxs = [] ∧ x.roles = [] ∧ x.host.keys = s.host.keys := by
    rw [← hx]
    exact ⟨rfl, rfl, rfl, rfl, hroles, hkeys⟩
  obtain ⟨hmem, hcores, hinsts, hctxs, hroles, hkeys⟩ := hlost
  have hrun := (allRun_keeps x).only
  generalize allRun x = y at hrun
  have hdrover := congrArg Drover.insts (hrun.2 .drover (by decide))
  have hhost := congrArg HostPort.ctxs (hrun.2 .host (by decide))
  have hkept := congrArg HostPort.keys (hrun.2 .host (by decide))
  exact ⟨(hrun.mem_eq (by decide)).trans hmem, (hrun.cores_eq (by decide)).trans hcores, hdrover.trans hinsts, hhost.trans hctxs,
    Eq.trans (hrun.2 .roles (by decide)) hroles, rfl, hkept.trans hkeys⟩

section
variable (s : State) (d : RDom)

theorem lossesDone_only : Only [.evts, .resets] (resetLost s d) (lossesDone s d) :=
  ((State.pulse_keeps ..).cut (by decide) ((mapResets_keeps ..).mono (by decide))).only

theorem lossesDone_runs : ∀ x ∈ (lossesDone s d).resets.runs, x.dom ≠ d := by
  intro x hx
  simpa using (List.mem_filter.mp hx).2

end

theorem resetDrainEnd_none {s : State} {d : RDom} (h : runAt s d .drain = none) : resetDrainEnd s d = s := by
  unfold resetDrainEnd
  rw [h]

theorem resetCmdStored_only (r : Requester) (s : State) (v : Word) :
    Only [.regs] s ((arriving r s).setReg slotMgmt 0x180 (v &&& 0x000F00FF)) :=
  ((State.setReg_keeps ..).cut (by decide) (arriving_keeps r s)).only

/-! ### Escalation (R430) -/

theorem exec_resetEscalate (s : State) (d : RDom) : exec (.resetEscalate d) s = .next (resetEscalate s d) := rfl

theorem resetEscalate_none {s : State} {d : RDom} (h : runAt s d .asserted = none) : resetEscalate s d = s := by
  unfold resetEscalate
  rw [h]

section
variable {s : State} {d : RDom} {r : RRun} {l : Nat} (h : runAt s d .asserted = some r) (hl : overdueAt d = some l)
include h hl

theorem resetEscalate_early (hearly : s.ac < r.since / 40 + l) : resetEscalate s d = s := by
  have hsince : s.acSince r.since l = false := by simp [State.acSince, hearly]
  unfold resetEscalate
  rw [h, hl]
  dsimp only
  rw [hsince]
  rfl

theorem resetEscalate_late (hlate : r.since / 40 + l ≤ s.ac) :
    resetEscalate s d = raise (s.bump slotMgmt 0x18C 1) (escalatesTo d) 4 := by
  have hsince : s.acSince r.since l = true := by simp [State.acSince, hlate]
  unfold resetEscalate
  rw [h, hl]
  dsimp only
  rw [hsince, if_neg (by decide)]

end

/-! ### Dump registers (Tables 16-10, 16-12) -/

theorem dumpWriting_of_resets {s t : State} (h : t.resets = s.resets) : dumpWriting t = dumpWriting s := by
  unfold dumpWriting
  rw [h]

theorem aoBusy_of_resets {s t : State} (h : t.resets = s.resets) : aoBusy t = aoBusy s := by
  unfold aoBusy chainOf
  rw [h]

section
variable {s : State} {f : FuncId} (h : Reaches s f (regAt slotMgmt 0x19C)) (v : Word)
include h

theorem exec_dumpArm (hv : bit v 30 = false) : exec (.dumpArm f v) s
    = .next (s.fromHost.softReg slotMgmt 0x19C (if dumpWriting s then 0 else 0x80000000)) := by
  have harm : (v ||| 0x80000000) &&& 0x80000000 = (0x80000000 : Word) := by
    rw [BitVec.and_comm]
    exact BitVec.eq_of_getLsbD_eq fun i hi => by
      rw [BitVec.getLsbD_and, BitVec.getLsbD_or]
      cases (0x80000000 : Word).getLsbD i <;> simp
  refine congrArg Host.Outcome.next ((barWrite_reaches h _).trans ?_)
  show dumpCtrl s.fromHost (v ||| 0x80000000) = _
  refine (if_pos (by rw [bit_or_other v (by decide), hv]; rfl)).trans ?_
  rw [harm, dumpWriting_of_resets (fromHost_resets s)]

theorem exec_aoClear : exec (.aoClear f v) s = .next (
    if aoBusy s then (s.fromHost.softReg slotMgmt 0x19C (if dumpWriting s then 0 else v &&& 0x80000000)).strobeRefused slotMgmt 0x19C 30 3
    else mapResets (s.fromHost.softReg slotMgmt 0x19C (if dumpWriting s then 0 else v &&& 0x80000000))
      (fun x => { x with ao := [], aoUsed := false })) := by
  refine congrArg Host.Outcome.next ((barWrite_reaches h _).trans ?_)
  show dumpCtrl s.fromHost (v ||| 0x40000000) = _
  refine (if_neg (by rw [bit_or_strobe v (by decide)]; decide)).trans ?_
  rw [and_mask_or v (by decide), dumpWriting_of_resets (fromHost_resets s), aoBusy_of_resets (fromHost_resets s)]

end

section
variable {s : State} {f : FuncId} (h : ReadReaches s f (regAt slotMgmt 0x1AC)) (hd : s.fromHost.dstate slotMgmt < 2)
include h hd

theorem exec_aoDataRead : exec (.aoDataRead f) s = .next ((aoAdvance s.fromHost).toHost (.readData f.val
    (leBytes 4 (wd s.resets.ao (bits (s.reg slotMgmt 0x1A8) 13 0)).toNat))) := by
  have hword : regRead s.fromHost f.val (regAt slotMgmt 0x1AC) = wd s.resets.ao (bits (s.reg slotMgmt 0x1A8) 13 0) := by
    rw [regRead_page f.val (by decide) (by decide) (by decide) hd]
    show wd s.fromHost.resets.ao (bits (s.fromHost.reg slotMgmt 0x1A8) 13 0) = _
    rw [fromHost_resets, fromHost_reg s slotMgmt (by decide)]
  have heffect : readEffect s.fromHost (regAt slotMgmt 0x1AC) = aoAdvance s.fromHost := by
    refine (if_neg ?_).trans ?_
    · exact Nat.not_le.mpr hd
    · rfl
  show Host.Outcome.next (barRead s f (regAt slotMgmt 0x1AC)) = _
  rw [barRead_reads h, hword, heffect]

end

theorem aoAdvance_soft {s : State} (h : regAt slotMgmt 0x1A8 ∈ s.soft) : aoAdvance s = s := by
  unfold aoAdvance State.hardReg
  dsimp only
  rw [if_pos (List.contains_iff_mem.mpr h), ite_self]

theorem aoAdvance_index {s : State} (h : regAt slotMgmt 0x1A8 ∉ s.soft) :
    bits ((aoAdvance s).reg slotMgmt 0x1A8) 13 0 = (if bit (s.reg slotMgmt 0x1A8) 31 then (bits (s.reg slotMgmt 0x1A8) 13 0 + 1) % 16384
      else bits (s.reg slotMgmt 0x1A8) 13 0) := by
  unfold aoAdvance
  dsimp only
  split
  · rw [State.hardReg, if_neg (by simpa using h), State.reg_setReg_same]
    exact bits_advanced (Nat.mod_lt _ (by decide)) (by decide)
  · rfl

/-- Settles O56: each command's case, from what a hurdle brings, the drain leaves open, and the losses of each domain. -/
theorem resetsRunThroughTheirPhases : Obligations.ResetsRunThroughTheirPhases := by
  refine ⟨fun s u hu => ⟨fun htime hlate => ?_, fun c k htime hlate hc => ?_, fun w hw hc => ?_⟩,
    fun s b => ⟨fun h => ?_, fun h => ?_⟩, fun s => ⟨fun h => ?_, fun h => ?_⟩,
    fun s u r v h hu => ⟨fun hnone => ?_, fun d hd => ⟨fun hbad => ?_, fun hh ho => ?_⟩⟩,
    fun s d cause f => ⟨fun hbad => startReset_refused hbad cause f, fun hh ho => startReset_raises hh ho cause f, raise_hurdled s d cause,
      raise_merges s d cause, raise_drains s d cause, fun code dom unit hnotice => ?_⟩,
    fun s d => ⟨fun h => ?_, fun r h => ⟨fun hwait => ?_, fun ha hd => ?_, fun ha hd hl => ?_⟩⟩,
    fun s d k => ⟨fun h => ?_, fun r c h hc => ⟨fun hwait => ?_, fun hl hk => ?_⟩⟩,
    fun s d => ⟨fun h => ?_, fun r h ht => ?_⟩, fun s d => ⟨fun h => ?_, fun r h => ?_⟩,
    fun s d r l h hl => ⟨fun hearly => ?_, fun hlate => ?_⟩, fun s d h => by rw [exec_resetEscalate, resetEscalate_none h],
    fun s u f v h hu => ⟨fun hv => ?_, fun hbusy => ?_, fun hbusy => ?_⟩, fun s u f h hu hd hsoft => ?_, fun s u f h hu hd hsoft => ?_⟩
  · subst hu
    refine congrArg Host.Outcome.next ((hangDetect_onTime htime).trans ?_)
    rw [hlate]
  · subst hu
    refine congrArg Host.Outcome.next ((hangDetect_onTime htime).trans ?_)
    rw [hlate]
    exact hung_core hc k
  · exact ⟨_, ((State.mapDrover_keeps s _).trans (State.mapDrover_keeps _ _)).only,
      congrArg Host.Outcome.next ((hangDetect_late hw).trans (hung_core hc w.task))⟩
  · exact congrArg Host.Outcome.next (if_pos (by simp [h]))
  · exact congrArg Host.Outcome.next (if_neg (by simp [h]))
  · exact congrArg Host.Outcome.next (if_neg (Nat.not_le.mpr h))
  · exact congrArg Host.Outcome.next (if_pos h)
  · subst hu
    rw [exec_resetCommand h, resetCmd_names (State.reg_setReg_same ..), hnone]
  · have honly := resetCmdStored_only r s v
    rw [exec_resetCommand h, ← hu, resetCmd_names (hu ▸ State.reg_setReg_same ..), hd]
    rw [← hu] at honly
    refine congrArg (fun x => (Host.Outcome.next (reported r x) : Res)) (startReset_refused ?_ 1 _)
    rwa [hurdled_of_only honly, resetOff_of_only honly]
  · have honly := resetCmdStored_only r s v
    rw [exec_resetCommand h, ← hu, resetCmd_names (hu ▸ State.reg_setReg_same ..), hd]
    rw [← hu] at honly
    refine congrArg (fun x => (Host.Outcome.next (reported r x) : Res)) (startReset_raises ?_ ?_ 1 _)
    · rwa [hurdled_of_only honly]
    · rwa [resetOff_of_only honly]
  · obtain ⟨hmodule, hrecord⟩ := resetNotice_records hnotice s cause
    obtain ⟨w, hw⟩ := raise_notices hmodule s cause
    exact ⟨w, by rw [hw, (resetNotice_records hnotice w cause).2]; rfl⟩
  · exact congrArg Host.Outcome.next (resetDrainEnd_none h)
  · exact congrArg Host.Outcome.next (resetDrainEnd_waits h hwait)
  · exact ⟨_, congrArg Host.Outcome.next (resetDrainEnd_drained h ha hd), (drainEnded_keeps s s d r).only, runAt_drainEnded h rfl⟩
  · refine ⟨_, congrArg Host.Outcome.next (resetDrainEnd_drops h ha hd hl),
      runAt_drainEnded h ((dropOpen_keeps s d).only.2 .resets (by decide)), fun c n f hf hc hn => ?_⟩
    rw [core_of_cores ((drainEnded_keeps s (dropOpen s d) d r).only.cores_eq (by decide))] at hf
    exact dropOpen_closes s d hn f hf
  · exact congrArg Host.Outcome.next (sampleReadTimeout_none h k)
  · exact congrArg Host.Outcome.next ((sampleReadTimeout_some h hc k).trans (if_pos (by
      rcases hwait with hw | hw
      · simp [State.acSince, hw]
      · simp [hw])))
  · exact congrArg Host.Outcome.next ((sampleReadTimeout_some h hc k).trans (if_neg (by simp [State.acSince, hl, hk])))
  · exact congrArg Host.Outcome.next (resetAssert_none h)
  · exact ⟨_, rfl, resetAssert_spec h ht⟩
  · exact congrArg Host.Outcome.next (resetComplete_none h)
  · obtain ⟨hafter, hruns, hpulsed, hgood⟩ := resetComplete_after h
    have honly := ((lossesDone_only s d).mono (by decide)).trans hafter
    have hmem := honly.mem_eq (by decide)
    have hcores := honly.cores_eq (by decide)
    have hherd := congrArg Herd.run (honly.2 .herd (by decide))
    have hhost := honly.2 .host (by decide)
    have hqueues := congrArg HostPort.queues hhost
    have hbanked := congrArg HostPort.banked hhost
    have hkeys := congrArg HostPort.keys hhost
    have hctxs := congrArg HostPort.ctxs hhost
    have hinsts := congrArg Drover.insts (honly.2 .drover (by decide))
    have hroles : (resetComplete s d).roles = (resetLost s d).roles := honly.2 .roles (by decide)
    have hpower := congrArg Power.pwrGood ((lossesDone_only s d).2 .power (by decide))
    have hgood := hgood.trans hpower
    refine ⟨_, rfl, fun x hx => lossesDone_runs s d x (hruns ▸ hx), hpulsed, fun c hd => ?_, fun hd => ?_, fun hd => ?_, fun hd => ?_⟩
    · rw [hd, show resetLost s (.core c) = coreLost s c.val from rfl] at hmem hcores
      rw [hd]
      exact ⟨hmem.trans ((coreLost_keeps s c.val).only.mem_eq (by decide)),
        fun hi => (core_of_cores hcores c.val).trans (coreLost_core_same c.val hi),
        fun x hx => (core_of_cores hcores x).trans (coreLost_core_other s hx)⟩
    · rw [hd, show resetLost s .herd = herdLost s from rfl] at hmem hcores hherd
      rw [hd]
      obtain ⟨hr, hm, hc⟩ := herdLost_spec s
      exact ⟨hherd.trans hr, hmem.trans hm, hcores.trans hc⟩
    · rw [hd, show resetLost s .host = hostLost s from rfl] at hmem hqueues hbanked hkeys
      rw [hd]
      obtain ⟨hq, hb, hk, hm⟩ := hostLost_spec s
      exact ⟨hqueues.trans hq, hbanked.trans hb, hkeys.trans hk, hmem.trans hm⟩
    · rw [hd, show resetLost s .module = moduleLost s from rfl] at hmem hcores hinsts hctxs hroles hgood hkeys
      rw [hd]
      obtain ⟨hm, hc, hi, hx, hr, hg, hk⟩ := moduleLost_spec s
      exact ⟨hmem.trans hm, hcores.trans hc, hinsts.trans hi, hctxs.trans hx, hroles.trans hr, hgood.trans hg, hkeys.trans hk⟩
  · rw [exec_resetEscalate, resetEscalate_early h hl hearly]
  · rw [exec_resetEscalate, resetEscalate_late h hl hlate]
  · subst hu
    exact exec_dumpArm h v hv
  · subst hu
    rw [exec_aoClear h v, if_pos hbusy]
  · subst hu
    rw [exec_aoClear h v, if_neg (by simp [hbusy])]
  · subst hu
    have hindex := aoAdvance_index (s := s.fromHost) (by rwa [fromHost_soft])
    rw [fromHost_reg s slotMgmt (by decide)] at hindex
    exact ⟨_, exec_aoDataRead h hd, (aoAdvance_keeps _).only, hindex⟩
  · subst hu
    rw [exec_aoDataRead h hd, aoAdvance_soft (by rwa [fromHost_soft])]

end Sys2Proof.Machine

/-! PROOFS. The SMBus commands: registers, replies, the owner key and recovery (17_sharal_tally.md R444 to R449). -/

namespace Sys2Proof.Machine

/-! ### Which command acts (R447) -/

section
variable {s : State}

theorem fwRunning_on (h : fwRunning s = true) : s.power.aoOn = true := (Bool.and_eq_true_iff.mp h).1

theorem smbFirmware_dark (h : s.power.aoOn = false) (go : State → State) : smbFirmware s go = s := if_pos (by simp [h])

theorem smbFirmware_runs (h : fwRunning s = true) (go : State → State) : smbFirmware s go = go s :=
  (if_neg (by simp [fwRunning_on h])).trans (if_pos h)

theorem smbFirmware_refuses (hon : s.power.aoOn = true) (h : fwRunning s = false) (go : State → State) :
    smbFirmware s go = smbRefuse s := (if_neg (by simp [hon])).trans (if_neg (by simp [h]))

theorem smbRecovery_dark (h : s.power.aoOn = false) (go : State → State) : smbRecovery s go = s := if_pos (by simp [h])

theorem smbRecovery_refuses (h : fwRunning s = true) (go : State → State) : smbRecovery s go = smbRefuse s :=
  (if_neg (by simp [fwRunning_on h])).trans (if_pos h)

theorem smbRecovery_runs (hon : s.power.aoOn = true) (h : fwRunning s = false) (go : State → State) : smbRecovery s go = go s :=
  (if_neg (by simp [hon])).trans (if_neg (by simp [h]))

theorem smbDone_spec (s : State) (k : Nat) : Only [.regs, .sharal] s (smbDone s k) ∧ Only [.regs, .out] s (smbRefuse s)
    ∧ (smbDone s k).sharal.smbLast = k ∧ (smbRefuse s).out = s.out ++ [.smbNack] :=
  ⟨(smbDone_keeps s k).only, (smbRefuse_keeps s).only, rfl, rfl⟩

theorem extReach_iff (a : Nat) : extReach a = true ↔ (a = regAt slotMgmt 0x100 ∨ a = regAt slotMgmt 0x180 ∨ a = regAt slotPwr 0x040
    ∨ a = regAt slotPwr 0x058 ∨ (a / 0x1000 = slotRoute ∧ a % 4 = 0)) := by
  simp [extReach, or_assoc]

/-! ### WRITE_REG (R448) -/

theorem smbWriteReg_dark (h : s.power.aoOn = false) (a : Nat) (v : Word) (pec : Option Bool) : smbWriteReg s a v pec = s :=
  if_pos (by simp [h])

theorem smbWriteReg_disabled (hf : fwRunning s = true) {a : Nat} {v : Word} {pec : Option Bool}
    (h : bit (s.reg slotMgmt 0x240) 31 = false) : smbWriteReg s a v pec = smbRefuse s :=
  (if_neg (by simp [fwRunning_on hf])).trans (if_pos (by simp [h]))

section
variable {a : Nat} {v : Word} {pec : Option Bool} (hf : fwRunning s = true) (hp : pecBad s pec = false)
  (hw : bit (s.reg slotMgmt 0x240) 31 = true)
include hf hp hw

theorem smbWriteReg_reaches (ha : extReach a = true) (hd : s.dstate (a / 0x1000) < 2) : smbWriteReg s a v pec
    = smbDone ((pageWrite s 0 false (a / 0x1000) (a % 0x1000) v).pulse slotMgmt 4) 0 := by
  have hwrite : extWrite s a v = pageWrite s 0 false (a / 0x1000) (a % 0x1000) v := if_neg (Nat.not_le.mpr hd)
  refine (if_neg (by simp [fwRunning_on hf])).trans ((if_neg (by simp [hf, hp, hw])).trans ((if_pos ha).trans ?_))
  rw [hwrite]
  rfl

theorem smbWriteReg_misses (ha : extReach a = false) : smbWriteReg s a v pec = smbDone s 1 :=
  (if_neg (by simp [fwRunning_on hf])).trans ((if_neg (by simp [hf, hp, hw])).trans (if_neg (by simp [ha])))

end

/-! ### Reads -/

section
variable {o : Word} (hf : fwRunning s = true)
include hf

theorem readReg_shows (hp : smbPage (o.toNat / 0x1000) = true) (ho : o.toNat % 4 = 0) :
    readReg s o = smbDone (smbCall (readEffect s o.toNat) 2 o (leBytes 4 (regRead s 0 o.toNat).toNat)) 0 :=
  (smbFirmware_runs hf _).trans (if_pos (by simp [hp, ho]))

theorem tallyRead_shows {r : TRec} (hr : recordOf s o = some r) : tallyRead s o
    = smbDone (smbCall s 4 o (leBytes 4 (if r.crcBad then 5 else 2) ++ wordsBytes r.words)) 0 := by
  refine (smbFirmware_runs hf _).trans ?_
  unfold loadStatus
  rw [hr]

theorem aoRead_shows (ho : o.toNat + 128 ≤ 65536) : aoRead s o = smbDone (smbCall s 5 o (aoBytes s o.toNat)) 0 :=
  (smbFirmware_runs hf _).trans (if_pos ho)

end

/-! ### OWNER_SET (R446) -/

section
variable {key : List Byte} {pec : Option Bool} (hf : fwRunning s = true)
include hf

theorem smbOwnerSet_badPec (hp : pecBad s pec = true) : smbOwnerSet s key pec = smbRefuse s :=
  (smbFirmware_runs hf _).trans (if_pos hp)

theorem smbOwnerSet_taken (hp : pecBad s pec = false) (hk : Tbl.get s.host.keys 0 ≠ none) : smbOwnerSet s key pec = smbDone s 4 :=
  (smbFirmware_runs hf _).trans ((if_neg (by simp [hp])).trans (if_pos (Option.isSome_iff_ne_none.mpr hk)))

theorem smbOwnerSet_sets (hp : pecBad s pec = false) (hk : Tbl.get s.host.keys 0 = none) :
    smbOwnerSet s key pec = smbDone (mandatory (closeWhere (slotRewritten s 0 (some ⟨key, 0, 6, 0⟩)) 2 (fun x => x.slot == 0)) 0x100C [0]) 0 :=
  (smbFirmware_runs hf _).trans ((if_neg (by simp [hp])).trans (if_neg (by simp [hk])))

end

/-! ### Recovery (R444) -/

/-- The bytes of a RECOVERY_WRITE are written as those of a store are. -/
theorem foldl_cellsWrite (m : Memory) (d : List Byte) (n : Nat) :
    (d.zipIdx n).foldl (fun t p => cellsWrite t p.2 p.1) m.cells = (m.writeN n d).cells := by
  induction d generalizing m n with
  | nil => rfl
  | cons b d ih =>
    rw [List.zipIdx_cons, List.foldl_cons]
    exact ih (m.write n b) (n + 1)

/-- The buffer with the bytes of a RECOVERY_WRITE. -/
abbrev recPlaced (s : State) (o : Word) (d : List Byte) : State := s.mapSharal (fun h => { h with
  recBuf := (d.zipIdx o.toNat).foldl (fun t p => cellsWrite t p.2 p.1) h.recBuf })

theorem recPlaced_byte (s : State) (o : Word) (d : List Byte) (b : Nat) : Tbl.getD (recPlaced s o d).sharal.recBuf b 0
    = Memory.read (Memory.writeN ⟨s.sharal.recBuf, [], []⟩ o.toNat d) b :=
  congrArg (fun cs => Tbl.getD cs b 0) (foldl_cellsWrite ⟨s.sharal.recBuf, [], []⟩ d o.toNat)

theorem exec_recoveryCommit (s : State) (pec : Option Bool) : exec (.recoveryCommit pec) s = .next (recoveryCommit s pec) := rfl

section
variable {pec : Option Bool} (hon : s.power.aoOn = true) (hf : fwRunning s = false)
include hon hf

theorem recoveryWrite_badPec (hp : pecBad s pec = true) (o : Word) (d : List Byte) : recoveryWrite s o d pec = smbRefuse s :=
  (smbRecovery_runs hon hf _).trans (if_pos hp)

theorem recoveryWrite_beyond {o : Word} {d : List Byte} (hp : pecBad s pec = false) (h : 458752 < o.toNat + d.length) :
    recoveryWrite s o d pec = smbDone s 1 :=
  (smbRecovery_runs hon hf _).trans ((if_neg (by simp [hp])).trans (if_pos h))

theorem recoveryWrite_places {o : Word} {d : List Byte} (hp : pecBad s pec = false) (h : o.toNat + d.length ≤ 458752) :
    recoveryWrite s o d pec = smbDone (recPlaced s o d) 0 :=
  (smbRecovery_runs hon hf _).trans ((if_neg (by simp [hp])).trans (if_neg (Nat.not_lt.mpr h)))

theorem recoveryCommit_badPec (hp : pecBad s pec = true) : recoveryCommit s pec = smbRefuse s :=
  (smbRecovery_runs hon hf _).trans (if_pos hp)

theorem recoveryCommit_rejects (hp : pecBad s pec = false) (h : fwCheck (recoveryImage s.sharal) s.sharal.fuse ≠ 0) :
    recoveryCommit s pec = (smbDone s 3).mapSharal (fun x => { x with
      recStat := 0x10 + fwCheck (recoveryImage s.sharal) s.sharal.fuse }) :=
  (smbRecovery_runs hon hf _).trans ((if_neg (by simp [hp])).trans (if_pos h))

theorem recoveryCommit_restarts (hp : pecBad s pec = false) (h : ¬fwCheck (recoveryImage s.sharal) s.sharal.fuse ≠ 0) :
    recoveryCommit s pec = startUp ((smbDone s 0).mapSharal (fun x => { writeHdr x false false with
      slotA := recoveryImage s.sharal, recStat := 2 })) none :=
  (smbRecovery_runs hon hf _).trans ((if_neg (by simp [hp])).trans (if_neg h))

theorem recoveryCommit_shows (hp : pecBad s pec = false) (h : fwCheck (recoveryImage s.sharal) s.sharal.fuse ≠ 0) :
    ∃ t, exec (.recoveryCommit pec) s = .next t ∧ Only [.regs, .sharal] s t
      ∧ t.sharal.recStat = 0x10 + fwCheck (recoveryImage s.sharal) s.sharal.fuse
      ∧ t.sharal.smbLast = 3 ∧ t.sharal.slotA = s.sharal.slotA := by
  rw [exec_recoveryCommit, recoveryCommit_rejects hon hf hp h]
  exact ⟨_, rfl, ((State.mapSharal_keeps ..).cut (by decide) (smbDone_keeps s 3)).only, rfl, rfl, rfl⟩

theorem recoveryCommit_starts (hp : pecBad s pec = false) (h : ¬fwCheck (recoveryImage s.sharal) s.sharal.fuse ≠ 0) :
    ∃ w, exec (.recoveryCommit pec) s = .next (startUp w none) ∧ Only [.regs, .sharal] s w
      ∧ w.sharal.slotA = recoveryImage s.sharal ∧ (bootHdr w.sharal).trial = false ∧ w.sharal.fuse = s.sharal.fuse := by
  have hrestarts := recoveryCommit_restarts hon hf hp h
  rw [exec_recoveryCommit, hrestarts]
  generalize recoveryImage s.sharal = i
  have hhdr := congrArg BootHdr.trial (bootHdr_writeHdr (smbDone s 0).sharal false false)
  refine ⟨_, rfl, ((State.mapSharal_keeps ..).cut (by decide) (smbDone_keeps s 0)).only, rfl, hhdr, ?_⟩
  show (writeHdr (smbDone s 0).sharal false false).fuse = s.sharal.fuse
  unfold writeHdr
  dsimp only
  split <;> rfl

end

end

/-- Settles O59: each command's case, by who may act and what it answers. -/
theorem smbusCommands : Obligations.SmbusCommands := by
  refine ⟨fun s off v pec hon hf hp => ⟨fun hw => ?_, fun hw ha hd => ?_, fun hw ha => ?_⟩, extReach_iff, smbDone_spec,
    fun s h => ⟨?_, ?_, ?_, fun o => ⟨?_, ?_, ?_⟩, fun o v p => ?_, fun k p => ?_, fun o d p => ?_, fun p => ?_, ?_⟩,
    fun s hon hf => ⟨fun o => ⟨?_, ?_, ?_⟩, fun k p => ?_⟩, fun s hon hf => ⟨?_, fun o d p => ?_, fun p => ?_⟩,
    fun s hon => ⟨?_, ?_⟩, fun s o hon hf => ⟨fun hp ho => ?_, fun r hr => ?_, fun ho => ?_⟩,
    fun s k p hon hf => ⟨fun hp => ?_, fun hp hk => ?_, fun hp hk => ?_⟩,
    fun s o d p hon hf => ⟨?_, fun hp => ⟨?_, ?_⟩, fun hp h => ?_, fun hp h => ?_, fun hp => ?_⟩, fun s hon => ⟨fun h => ?_, fun h => ?_⟩⟩
  · exact congrArg Host.Outcome.next (smbWriteReg_disabled hf hw)
  · exact congrArg Host.Outcome.next (smbWriteReg_reaches hf hp hw ha hd)
  · exact congrArg Host.Outcome.next (smbWriteReg_misses hf hp hw ha)
  · exact congrArg Host.Outcome.next (if_neg (by simp [h]))
  · exact congrArg Host.Outcome.next (if_neg (by simp [h]))
  · exact congrArg Host.Outcome.next (smbRecovery_dark h _)
  · exact congrArg Host.Outcome.next (smbFirmware_dark h _)
  · exact congrArg Host.Outcome.next (smbFirmware_dark h _)
  · exact congrArg Host.Outcome.next (smbFirmware_dark h _)
  · exact congrArg Host.Outcome.next (smbWriteReg_dark h _ _ _)
  · exact congrArg Host.Outcome.next (smbFirmware_dark h _)
  · exact congrArg Host.Outcome.next (smbRecovery_dark h _)
  · exact congrArg Host.Outcome.next (smbRecovery_dark h _)
  · exact congrArg Host.Outcome.next (if_neg (by simp [h]))
  · exact congrArg Host.Outcome.next (smbFirmware_refuses hon hf _)
  · exact congrArg Host.Outcome.next (smbFirmware_refuses hon hf _)
  · exact congrArg Host.Outcome.next (smbFirmware_refuses hon hf _)
  · exact congrArg Host.Outcome.next (smbFirmware_refuses hon hf _)
  · exact congrArg Host.Outcome.next (smbRecovery_refuses hf _)
  · exact congrArg Host.Outcome.next (smbRecovery_refuses hf _)
  · exact congrArg Host.Outcome.next (smbRecovery_refuses hf _)
  · exact congrArg Host.Outcome.next (if_pos hon)
  · exact congrArg Host.Outcome.next (if_pos hon)
  · exact congrArg Host.Outcome.next (readReg_shows hf hp ho)
  · exact congrArg Host.Outcome.next (tallyRead_shows hf hr)
  · exact congrArg Host.Outcome.next (aoRead_shows hf ho)
  · exact congrArg Host.Outcome.next (smbOwnerSet_badPec hf hp)
  · exact congrArg Host.Outcome.next (smbOwnerSet_taken hf hp hk)
  · exact ⟨_, congrArg Host.Outcome.next (smbOwnerSet_sets hf hp hk), (State.mapHost_keeps ..).only, Tbl.get_set_same ..,
      fun i hi => Tbl.get_set_other _ _ hi⟩
  · exact congrArg Host.Outcome.next (smbRecovery_runs hon hf _)
  · exact congrArg Host.Outcome.next (recoveryWrite_badPec hon hf hp o d)
  · exact congrArg Host.Outcome.next (recoveryCommit_badPec hon hf hp)
  · exact congrArg Host.Outcome.next (recoveryWrite_beyond hon hf hp h)
  · refine ⟨_, congrArg Host.Outcome.next (recoveryWrite_places hon hf hp h),
      ((smbDone_keeps ..).cut (by decide) ((State.mapSharal_keeps ..).mono (by decide))).only, fun i hi => ?_, fun a ha => ?_, rfl⟩
    · exact (recPlaced_byte s o d _).trans ((Memory.read_writeN_inside _ _ _ i hi).trans (List.getD_eq_getElem _ _ hi).symm)
    · exact (recPlaced_byte s o d a).trans (Memory.read_writeN_outside _ _ _ ha)
  · have hshows := recoveryCommit_shows hon hf hp
    have hstarts := recoveryCommit_starts hon hf hp
    generalize fwCheck (recoveryImage s.sharal) s.sharal.fuse = c at hshows hstarts ⊢
    exact ite_prop_iff_and.mpr ⟨hshows, hstarts⟩
  · exact congrArg Host.Outcome.next (if_neg (by simp [h]))
  · exact ⟨_, _, congrArg Host.Outcome.next (if_pos (by simp [hon, h])), ((State.mapPower_keeps ..).cut (by decide)
      ((State.emit_keeps ..).mono (by decide))).only, rfl, rfl⟩

end Sys2Proof.Machine

/-! PROOFS. MGMT packets, the NEIGHBOUR message and the route table (17_sharal_tally.md R445, R450; 12_ralso_fabric.md R322). -/

namespace Sys2Proof.Machine

/-! ### A packet for Sharal leaves its buffer -/

section
variable (s : State) (o : OutPkt)

theorem dropLocal_only : Only [.fabric, .out] s (dropLocal s o) := (dropLocal_keeps s o).only

theorem dropLocal_reg (slot off : Nat) : (dropLocal s o).reg slot off = s.reg slot off :=
  reg_of_regs ((dropLocal_only s o).2 .regs (by decide)) ..

theorem dropLocal_sharal : (dropLocal s o).sharal = s.sharal := (dropLocal_only s o).2 .sharal (by decide)

theorem mgmtAdmits_dropLocal (src : BitVec 16) : mgmtAdmits (dropLocal s o) src = mgmtAdmits s src := by
  unfold mgmtAdmits
  rw [dropLocal_reg, dropLocal_reg]

theorem recordOf_dropLocal (q : Word) : recordOf (dropLocal s o) q = recordOf s q := by
  unfold recordOf
  rw [dropLocal_sharal]

end

/-! ### Requests (R450, Table 17-7) -/

section
variable {s : State} {o : OutPkt} {op : Nat} {go : State → Packet → State}

theorem mgmtServe_none (h : mgmtPacket s [op] = none) : mgmtServe s op go = s := by
  unfold mgmtServe
  rw [h]

theorem mgmtServe_denied (h : mgmtPacket s [op] = some o) (ha : mgmtAdmits s o.pkt.src = false) :
    mgmtServe s op go = sendResult (dropLocal s o) o.pkt 1 [] := by
  unfold mgmtServe
  rw [h]
  exact if_neg (by simp [mgmtAdmits_dropLocal, ha])

theorem mgmtServe_goes (h : mgmtPacket s [op] = some o) (ha : mgmtAdmits s o.pkt.src = true) :
    mgmtServe s op go = go (dropLocal s o) o.pkt := by
  unfold mgmtServe
  rw [h]
  exact if_pos (by rw [mgmtAdmits_dropLocal, ha])

end

section
variable {k : Packet}

theorem mgmtRegs_one (h : k.len = 4) : mgmtRegs k = [k.addr] := by
  unfold mgmtRegs
  rw [h]
  rfl

theorem mgmtRegs_bad (h : k.len % 4 ≠ 0 ∨ k.len < 4 ∨ 32 < k.len) : mgmtRegs k = [] := if_neg (by omega)

theorem mgmtRegs_first (h : ¬(k.len % 4 ≠ 0 ∨ k.len < 4 ∨ 32 < k.len)) : k.addr ∈ mgmtRegs k := by
  unfold mgmtRegs
  rw [if_pos (by omega)]
  exact List.mem_map.mpr ⟨0, List.mem_range.mpr (by omega), rfl⟩

variable {u : State}

theorem mgmtReadReq_bad (h : k.len % 4 ≠ 0 ∨ k.len < 4 ∨ 32 < k.len) : mgmtReadReq u k = sendResult u k 2 [] :=
  if_pos (.inl (mgmtRegs_bad h))

theorem mgmtReadReq_one (hlen : k.len = 4) (haddr : k.addr % 4 = 0) (hpage : smbPage (k.addr / 0x1000) = true) :
    mgmtReadReq u k = sendResult (readEffect u k.addr) k 0 (leBytes 4 (regRead u 0 k.addr).toNat) := by
  unfold mgmtReadReq
  rw [mgmtRegs_one hlen]
  exact if_neg (by simp [haddr, hpage])

theorem mgmtWriteReq_disabled (h : bit (u.reg slotMgmt 0x254) 30 = false) : mgmtWriteReq u k = sendResult u k 1 [] :=
  if_pos (by simp [h])

theorem mgmtWriteReq_bad (he : bit (u.reg slotMgmt 0x254) 30 = true)
    (h : k.len % 4 ≠ 0 ∨ k.len < 4 ∨ 32 < k.len ∨ extReach k.addr = false) : mgmtWriteReq u k = sendResult u k 2 [] := by
  refine (if_neg (by simp [he])).trans (if_pos ?_)
  by_cases hlen : k.len % 4 ≠ 0 ∨ k.len < 4 ∨ 32 < k.len
  · exact .inl (mgmtRegs_bad hlen)
  · have hreach : extReach k.addr = false := by
      simp only [← or_assoc] at h
      exact h.resolve_left (by simpa only [or_assoc] using hlen)
    refine .inr ?_
    rw [Bool.not_eq_true', List.all_eq_false]
    exact ⟨k.addr, mgmtRegs_first hlen, by simp [hreach]⟩

theorem mgmtWriteReq_one (he : bit (u.reg slotMgmt 0x254) 30 = true) (hlen : k.len = 4) (hreach : extReach k.addr = true) :
    mgmtWriteReq u k = sendResult (extPulse (extWrite u k.addr (wd (leWords k.data) 0))) k 0 [] := by
  unfold mgmtWriteReq
  rw [mgmtRegs_one hlen]
  exact (if_neg (by simp [he])).trans (if_neg (by simp [hreach]))

theorem mgmtTallyReq_held {r : TRec} (h : recordOf u (w32 k.addr) = some r) :
    mgmtTallyReq u k = sendResult u k 0 (wordsBytes r.words) := by
  unfold mgmtTallyReq
  dsimp only
  rw [h]

theorem mgmtTallyReq_missing (h : recordOf u (w32 k.addr) = none) :
    mgmtTallyReq u k = sendResult u k (loadStatus u (w32 k.addr)) [] := by
  unfold mgmtTallyReq
  dsimp only
  rw [h]

end

/-! ### RESULT and NEIGHBOUR (R450) -/

section
variable {s : State} {o : OutPkt}

theorem mgmtResult_none (h : mgmtPacket s [8] = none) : mgmtResultReceive s = s := by
  unfold mgmtResultReceive
  rw [h]

theorem mgmtResult_dropped (h : mgmtPacket s [8] = some o) (hn : ∀ n, s.sharal.neigh = some n → n.rtag ≠ o.pkt.rtag) :
    mgmtResultReceive s = dropLocal s o := by
  unfold mgmtResultReceive
  rw [h]
  dsimp only
  rw [dropLocal_sharal]
  split
  next n m hneigh hmbox => exact if_neg (hn n hneigh)
  · rfl

theorem mgmtResult_ends {n : Neigh} {m : Mbox} (h : mgmtPacket s [8] = some o) (hn : s.sharal.neigh = some n) (hm : s.sharal.mbox = some m)
    (ht : n.rtag = o.pkt.rtag) : mgmtResultReceive s = nbResult (dropLocal s o) m o.pkt := by
  unfold mgmtResultReceive
  rw [h]
  dsimp only
  rw [dropLocal_sharal, hn, hm]
  exact if_pos ht

theorem nbResult_read {m : Mbox} {k : Packet} (hg : k.gen = 0) (ho : nbOp m = 1) : nbResult s m k
    = mbAnswer (s.mapSharal (fun h => { h with neigh := none })) m 0 (leWords (k.data.take (nbLen m))) := by
  unfold nbResult
  rw [if_pos hg, if_pos ho]

theorem nbResult_fails {m : Mbox} {k : Packet} (hg : k.gen ≠ 0) (ho : nbOp m ≠ 3) : nbResult s m k
    = mbAnswer (s.mapSharal (fun h => { h with neigh := none })) m 7 [w32 k.gen] := by
  unfold nbResult
  rw [if_neg hg, if_neg (fun h => ho h.1)]

variable {m : Mbox}

theorem neighbour_busy (h : s.sharal.neigh ≠ none) : neighbour s m = s := if_pos (Option.isSome_iff_ne_none.mpr h)

theorem neighbour_bad (hn : s.sharal.neigh = none) (hb : nbBad m = true) : neighbour s m = mbAnswer s m 1 [] :=
  (if_neg (by simp [hn])).trans (if_pos hb)

theorem neighbour_down (hn : s.sharal.neigh = none) (hb : nbBad m = false) (hp : portUp s (nbPort m) = false) :
    neighbour s m = mbAnswer s m 8 [] :=
  (if_neg (by simp [hn])).trans ((if_neg (by simp [hb])).trans (if_pos (by simp [hp])))

theorem neighbour_sends (hn : s.sharal.neigh = none) (hb : nbBad m = false) (hp : portUp s (nbPort m) = true) :
    neighbour s m = ((sendBy s (nbPort m) (nbPacket s m)).mapFabric (fun f => { f with rtag := f.rtag + 1 })).mapSharal
      (fun h => { h with neigh := some { rtag := s.fabric.rtag, since := s.now } }) :=
  (if_neg (by simp [hn])).trans ((if_neg (by simp [hb])).trans (if_neg (by simp [hp])))

/-- A packet of the module's own stands behind those of its port. -/
theorem sendBy_outQ (s : State) (q : Nat) (p : Packet) : ((sendBy s q p).port q).outQ
    = (s.port q).outQ ++ [⟨p, ⟨none, s.fabric.stamp, p.flits⟩, s.now, 0, none, 0⟩] := by
  unfold sendBy enqueueOut
  dsimp only
  rw [State.port_setPort_same]
  rfl

theorem neighbourTimeout_idle (h : s.sharal.neigh = none ∨ s.sharal.mbox = none) : neighbourTimeout s = s := by
  unfold neighbourTimeout
  split
  next n m hn hm =>
    rcases h with h | h
    · exact absurd (hn.symm.trans h) (by simp)
    · exact absurd (hm.symm.trans h) (by simp)
  · rfl

theorem neighbourTimeout_waits {n : Neigh} (hn : s.sharal.neigh = some n) (hm : s.sharal.mbox = some m) :
    neighbourTimeout s = if !s.acSince n.since 5000 then s else mbAnswer (s.mapSharal (fun h => { h with neigh := none })) m 8 [] := by
  unfold neighbourTimeout
  rw [hn, hm]

end

/-! ### RT_DATA (Table 12-5) -/

theorem rtAdvance_index (s : State) : bits ((rtAdvance s).reg slotRoute 0x050) 11 0
    = (if bit (s.reg slotRoute 0x050) 31 && !s.soft.contains (regAt slotRoute 0x050) then (bits (s.reg slotRoute 0x050) 11 0 + 1) % 4096
      else bits (s.reg slotRoute 0x050) 11 0) := by
  unfold rtAdvance State.hardReg
  dsimp only
  cases hb : bit (s.reg slotRoute 0x050) 31
  · rw [if_neg (by decide), if_neg (by simp)]
  · rw [if_pos rfl]
    cases hs : s.soft.contains (regAt slotRoute 0x050)
    · rw [if_neg (by decide), State.reg_setReg_same, if_pos (by decide)]
      exact bits_advanced (Nat.mod_lt _ (by decide)) (by decide)
    · rw [if_pos rfl, if_neg (by decide)]

/-- The route table with the entry at RT_INDEX written. -/
def rtStored (s : State) (v : Word) : State :=
  s.mapFabric (fun f => { f with
    routes := if v &&& 0xC00000FF = 0 then Tbl.del f.routes (bits (s.reg slotRoute 0x050) 11 0)
      else Tbl.set f.routes (bits (s.reg slotRoute 0x050) 11 0) (v &&& 0xC00000FF) })

theorem rtWrite_eq (s : State) (v : Word) : rtWrite s v = rtAdvance (rtStored s v) := rfl

theorem routeEntry_rtStored_same (s : State) (v : Word) :
    routeEntry (rtStored s v) (bits (s.reg slotRoute 0x050) 11 0) = v &&& 0xC00000FF := by
  show Tbl.getD (if v &&& 0xC00000FF = 0 then _ else _) _ 0 = _
  split
  next h => rw [Tbl.getD, Tbl.get_del_same, h]; rfl
  · exact Tbl.getD_set_same ..

theorem routeEntry_rtStored_other (s : State) (v : Word) {i : Nat} (h : i ≠ bits (s.reg slotRoute 0x050) 11 0) :
    routeEntry (rtStored s v) i = routeEntry s i := by
  show Tbl.getD (if v &&& 0xC00000FF = 0 then _ else _) i 0 = _
  split
  · unfold Tbl.getD
    rw [Tbl.get_del_other _ h]
    rfl
  · exact Tbl.getD_set_other _ _ _ h

theorem routeEntry_of_fabric {s t : State} (h : t.fabric = s.fabric) (i : Nat) : routeEntry t i = routeEntry s i := by
  unfold routeEntry
  rw [h]

theorem exec_rtDataWrite {s : State} {r : Requester} (h : Arrives s r (regAt slotRoute 0x054)) (v : Word) :
    exec (.rtDataAccess r (some v)) s = .next (reported r (rtWrite (arriving r s) v)) :=
  congrArg Host.Outcome.next (writeBy_arrives h _)

theorem rtWrite_spec (s : State) (v : Word) : Only [.regs, .fabric] s (rtWrite s v)
    ∧ routeEntry (rtWrite s v) (bits (s.reg slotRoute 0x050) 11 0) = v &&& 0xC00000FF
    ∧ (∀ i, i ≠ bits (s.reg slotRoute 0x050) 11 0 → routeEntry (rtWrite s v) i = routeEntry s i)
    ∧ bits ((rtWrite s v).reg slotRoute 0x050) 11 0 = (if bit (s.reg slotRoute 0x050) 31 && !s.soft.contains (regAt slotRoute 0x050)
        then (bits (s.reg slotRoute 0x050) 11 0 + 1) % 4096 else bits (s.reg slotRoute 0x050) 11 0) := by
  have hadvance : (rtAdvance (rtStored s v)).fabric = (rtStored s v).fabric := (rtAdvance_keeps _).only.2 .fabric (by decide)
  rw [rtWrite_eq]
  exact ⟨((rtAdvance_keeps _).cut (by decide) ((State.mapFabric_keeps ..).mono (by decide))).only,
    (routeEntry_of_fabric hadvance _).trans (routeEntry_rtStored_same s v),
    fun i hi => (routeEntry_of_fabric hadvance i).trans (routeEntry_rtStored_other s v hi), rtAdvance_index (rtStored s v)⟩

theorem exec_rtDataRead {s : State} {f : FuncId} (h : ReadReaches s f (regAt slotRoute 0x054)) (hd : s.fromHost.dstate slotRoute < 2) :
    exec (.rtDataAccess (.func f) none) s = .next (State.toHost (rtAdvance s.fromHost) (.readData f.val
      (leBytes 4 (routeEntry s (bits (s.reg slotRoute 0x050) 11 0)).toNat))) := by
  have hword : regRead s.fromHost f.val (regAt slotRoute 0x054) = routeEntry s (bits (s.reg slotRoute 0x050) 11 0) := by
    rw [regRead_page f.val (by decide) (by decide) (by decide) hd]
    show routeEntry s.fromHost (bits (s.fromHost.reg slotRoute 0x050) 11 0) = _
    rw [fromHost_reg s slotRoute (by decide), routeEntry_of_fabric (fromHost_fabric s)]
  have heffect : readEffect s.fromHost (regAt slotRoute 0x054) = rtAdvance s.fromHost :=
    (if_neg (Nat.not_le.mpr hd)).trans (if_pos rfl)
  show Host.Outcome.next (barRead s f (regAt slotRoute 0x054)) = _
  rw [barRead_reads h, hword, heffect]

theorem exec_mgmtRead (s : State) : exec .mgmtRead s = .next (mgmtServe s 1 mgmtReadReq) := rfl

theorem exec_mgmtWrite (s : State) : exec .mgmtWrite s = .next (mgmtServe s 2 mgmtWriteReq) := rfl

theorem exec_mgmtTallyRead (s : State) : exec .mgmtTallyRead s = .next (mgmtServe s 3 mgmtTallyReq) := rfl

/-- Settles O48: each packet and message by its case, and RT_DATA by the entry at its index. -/
theorem neighbourManagement : Obligations.NeighbourManagement := by
  refine ⟨fun s => ⟨fun h => ?_, fun h => ?_, fun h => ?_, fun h => ?_⟩,
    fun s u o hu ha => ⟨fun h => ?_, fun h => ?_, fun h => ?_⟩,
    fun s u o hu ha => ⟨fun r h hr => ?_, fun h hr => ?_, fun h hlen haddr hpage => ?_, fun h hlen => ?_, fun h he => ?_,
      fun h he hlen hreach => ?_, fun h he hbad => ?_⟩,
    fun s o h => ⟨fun hn => ?_, fun n m hn hm ht => ⟨fun hg ho => ?_, fun hg ho => ?_⟩⟩,
    fun s m hm hcode hrsp => ⟨fun hn => ?_, fun hn hb => ?_, fun hn hb hp => ?_, fun hn hb hp => ?_⟩,
    fun s => ⟨fun h => ?_, fun n m hn hm => ⟨fun hearly => ?_, fun hlate => ?_⟩⟩, fun s r v h => ?_, fun s f h hd => ?_⟩
  · exact congrArg Host.Outcome.next (mgmtServe_none h)
  · exact congrArg Host.Outcome.next (mgmtServe_none h)
  · exact congrArg Host.Outcome.next (mgmtServe_none h)
  · exact congrArg Host.Outcome.next (mgmtResult_none h)
  · rw [hu, exec_mgmtRead, mgmtServe_denied h ha]
  · rw [hu, exec_mgmtWrite, mgmtServe_denied h ha]
  · rw [hu, exec_mgmtTallyRead, mgmtServe_denied h ha]
  · rw [hu, exec_mgmtTallyRead, mgmtServe_goes h ha, mgmtTallyReq_held ((recordOf_dropLocal ..).trans hr)]
  · rw [hu, exec_mgmtTallyRead, mgmtServe_goes h ha, mgmtTallyReq_missing ((recordOf_dropLocal ..).trans hr)]
    rfl
  · rw [hu, exec_mgmtRead, mgmtServe_goes h ha, mgmtReadReq_one hlen haddr hpage]
  · rw [hu, exec_mgmtRead, mgmtServe_goes h ha, mgmtReadReq_bad hlen]
  · rw [hu, exec_mgmtWrite, mgmtServe_goes h ha, mgmtWriteReq_disabled (by rwa [dropLocal_reg])]
  · rw [hu, exec_mgmtWrite, mgmtServe_goes h ha, mgmtWriteReq_one (by rwa [dropLocal_reg]) hlen hreach]
  · rw [hu, exec_mgmtWrite, mgmtServe_goes h ha, mgmtWriteReq_bad (by rwa [dropLocal_reg]) hbad]
  · exact congrArg Host.Outcome.next (mgmtResult_dropped h hn)
  · exact congrArg Host.Outcome.next ((mgmtResult_ends h hn hm ht).trans (nbResult_read hg ho))
  · exact congrArg Host.Outcome.next ((mgmtResult_ends h hn hm ht).trans (nbResult_fails hg ho))
  · exact congrArg Host.Outcome.next ((mbHandle_acts hm hrsp hcode).trans (neighbour_busy hn))
  · exact congrArg Host.Outcome.next ((mbHandle_acts hm hrsp hcode).trans (neighbour_bad hn hb))
  · exact congrArg Host.Outcome.next ((mbHandle_acts hm hrsp hcode).trans (neighbour_down hn hb hp))
  · have hsent := (sendBy_keeps s (nbPort m) (nbPacket s m)).only
    refine ⟨_, congrArg Host.Outcome.next ((mbHandle_acts hm hrsp hcode).trans (neighbour_sends hn hb hp)),
      ((State.mapSharal_keeps ..).cut (by decide) <| (State.mapFabric_keeps ..).cut (by decide) <|
        (sendBy_keeps ..).mono (by decide)).only, rfl, rfl, sendBy_outQ .., ?_⟩
    have hmbox := congrArg Sharal.mbox (hsent.2 .sharal (by decide))
    exact hmbox.trans hm
  · exact congrArg Host.Outcome.next (neighbourTimeout_idle h)
  · exact congrArg Host.Outcome.next ((neighbourTimeout_waits hn hm).trans (if_pos (by simp [State.acSince, hearly])))
  · exact congrArg Host.Outcome.next ((neighbourTimeout_waits hn hm).trans (if_neg (by simp [State.acSince, hlate])))
  · obtain ⟨honly, hsame, hother, hindex⟩ := rtWrite_spec (arriving r s) v
    have hsoft : (arriving r s).soft = s.soft := (arriving_keeps r s).only.2 .soft (by decide)
    rw [arriving_reg r s slotRoute (by decide)] at hsame hother hindex
    rw [hsoft] at hindex
    exact ⟨_, exec_rtDataWrite h v, honly, hsame, fun i hi => (hother i hi).trans
      (routeEntry_of_fabric ((arriving_keeps r s).only.2 .fabric (by decide)) i), hindex⟩
  · exact ⟨_, exec_rtDataRead h hd, rfl⟩

end Sys2Proof.Machine

/-! PROOFS. Paddock searches and update jobs (11_paddock.md R284, R289 to R291, R296, R302, R304). -/

namespace Sys2Proof.Machine

/-! ### Searches (R289, R290) -/

section
variable {s : State} {b : Nat} {r : HerdRun} {p : PSearch}

/-- A bank-search is counted for the pc, the control page and the bank. -/
def searchCounted (s : State) (b : Nat) : State :=
  ((s.mapPaddock (fun q => { q with
    searchAt := s.pc, searchN := if s.paddock.searchAt = s.pc then s.paddock.searchN + 1 else 1 })).bump slotPadk 0x044 1).bump (slotBank b) 0x050 1

/-- The counts of a record after one more bank. -/
def grownCounts (v : Bank) (r : HerdRun) (p : PSearch) : List Nat :=
  (p.counts.zip (jTags r.words)).map (fun x => x.1 + v.countTag x.2 p.bins)

theorem grownCounts_eq (v : Bank) (r : HerdRun) (p : PSearch) :
    (p.counts.zip ((jTags r.words).map (fun t => v.countTag t p.bins))).map (fun x => x.1 + x.2) = grownCounts v r p := by
  unfold grownCounts
  rw [List.zip_map_right, List.map_map]
  rfl

theorem bankSearch_bad {c : Nat} (h : searchBad s b = some c) : bankSearch s b r p = bankFault s r.task b c p.index := by
  unfold bankSearch
  rw [h]

theorem bankSearch_poisoned {k : Nat} (h : searchBad s b = none) (hk : poisonedUnit (s.bank b) = some k) :
    bankSearch s b r p = unitPoison (searchCounted s b) r.task b k false := by
  unfold bankSearch
  rw [h]
  dsimp only
  rw [hk]
  rfl

theorem bankSearch_last (h : searchBad s b = none) (hk : poisonedUnit (s.bank b) = none) (hl : p.left = [b]) :
    bankSearch s b r p = giveCounts (searchCounted s b) r { p with left := [], counts := grownCounts (s.bank b) r p } := by
  unfold bankSearch
  rw [h]
  dsimp only
  rw [hk, hl, grownCounts_eq]
  rfl

theorem bankSearch_next {x : Nat} {l : List Nat} (h : searchBad s b = none) (hk : poisonedUnit (s.bank b) = none) (hl : p.left = b :: x :: l) :
    bankSearch s b r p = (searchCounted s b).mapPaddock (fun q => { q with
      search := some { p with left := x :: l, counts := grownCounts (s.bank b) r p } }) := by
  unfold bankSearch
  rw [h]
  dsimp only
  rw [hk, hl, grownCounts_eq]
  rfl

theorem paddockBankSearch_searches (hs : searchOf s = some (r, p)) (hb : p.left.head? = some b) (hslot : searchSlot s = true)
    (hruns : padRuns s = true) : paddockBankSearch s b = bankSearch s b r p := by
  unfold paddockBankSearch
  rw [hs]
  exact if_pos ⟨hb, hslot, hruns⟩

/-- A bank is out of turn without a record in search, a slot, or a running Paddock, or before its place. -/
theorem notInTurn (hs : searchOf s = some (r, p)) (h : searchOf s = none ∨ searchSlot s = false ∨ padRuns s = false
    ∨ ∃ r p, searchOf s = some (r, p) ∧ p.left.head? ≠ some b) :
    ¬(p.left.head? = some b ∧ searchSlot s = true ∧ padRuns s = true) := by
  rintro ⟨hb, hslot, hruns⟩
  rcases h with h | h | h | ⟨r', p', hs', hb'⟩
  · exact absurd (hs.symm.trans h) (by simp)
  · exact absurd (hslot.symm.trans h) (by decide)
  · exact absurd (hruns.symm.trans h) (by decide)
  · obtain ⟨rfl, rfl⟩ := Prod.mk.inj (Option.some.inj (hs.symm.trans hs'))
    exact hb' hb

/-- Nothing is searched without a record in search, a slot, a running Paddock and the bank's turn. -/
theorem paddockBankSearch_waits (h : searchOf s = none ∨ searchSlot s = false ∨ padRuns s = false
    ∨ ∃ r p, searchOf s = some (r, p) ∧ p.left.head? ≠ some b) : paddockBankSearch s b = s := by
  unfold paddockBankSearch
  split
  next r p hs => exact if_neg fun ⟨hb, hslot, hruns⟩ => notInTurn hs h ⟨hb, hslot, hruns⟩
  · rfl

/-! ### Replays (R304) -/

theorem searchReplay_waits (u : Nat) (e : Bool) (h : searchOf s = none ∨ searchSlot s = false ∨ padRuns s = false
    ∨ ∃ r p, searchOf s = some (r, p) ∧ p.left.head? ≠ some b) : searchReplay s b u e = s := by
  unfold searchReplay
  split
  next r p hs => exact if_neg fun ⟨hb, hslot, hruns, _⟩ => notInTurn hs h ⟨hb, hslot, hruns⟩
  · rfl

theorem searchReplay_unsearchable (u : Nat) (e : Bool) (h : (s.bank b).searchable = false) : searchReplay s b u e = s := by
  unfold searchReplay
  split
  · exact if_neg (by simp [h])
  · rfl

/-- The pc of a replay is counted in the bank's page, charged to the PADDOCK column and added to the task's budget. -/
def replayCharged (s : State) (b t : Nat) : State :=
  extendTask (chargeReserve (s.bump (slotBank b) 0x060 1) 17 2) t 256 2

theorem replayCharged_only (s : State) (b t : Nat) : Only [.regs, .drover] s (replayCharged s b t) :=
  ((extendTask_keeps ..).cut (by decide) <| (chargeReserve_keeps ..).cut (by decide) <| (State.bump_keeps ..).mono (by decide)).only

theorem replayCharged_paddock (s : State) (b t : Nat) : (replayCharged s b t).paddock = s.paddock :=
  (replayCharged_only s b t).2 .paddock (by decide)

theorem replayCharged_pc (s : State) (b t : Nat) : (replayCharged s b t).pc = s.pc :=
  congrArg (· / 2) ((replayCharged_only s b t).2 .now (by decide))

theorem replayCharged_bank (s : State) (b t c : Nat) : (replayCharged s b t).bank c = s.bank c := by
  unfold State.bank
  rw [replayCharged_paddock]

theorem searchBad_replayCharged (s : State) (b t c : Nat) : searchBad (replayCharged s b t) c = searchBad s c := by
  unfold searchBad
  rw [replayCharged_bank, replayCharged_paddock]

theorem searchCounted_replayCharged (s : State) (b t : Nat) : searchCounted (replayCharged s b t) b
    = (((replayCharged s b t).mapPaddock (fun q => { q with
      searchAt := s.pc, searchN := if s.paddock.searchAt = s.pc then s.paddock.searchN + 1 else 1 })).bump slotPadk 0x044 1).bump
        (slotBank b) 0x050 1 := by
  unfold searchCounted
  rw [replayCharged_pc, replayCharged_paddock]

variable (hs : searchOf s = some (r, p)) (hb : p.left.head? = some b) (hslot : searchSlot s = true) (hruns : padRuns s = true)
  (hbank : (s.bank b).searchable = true)
include hs hb hslot hruns hbank

theorem searchReplay_again (u : Nat) : searchReplay s b u false = bankSearch (replayCharged s b r.task) b r p := by
  unfold searchReplay
  rw [hs]
  exact (if_pos ⟨hb, hslot, hruns, hbank⟩).trans (if_neg (by decide))

theorem searchReplay_persists (u : Nat) : searchReplay s b u true = unitPoison ((replayCharged s b r.task).setBank b { s.bank b with
    poison := if (s.bank b).poison.contains u then (s.bank b).poison else (s.bank b).poison ++ [u] }) r.task b u true := by
  unfold searchReplay
  rw [hs]
  refine (if_pos ⟨hb, hslot, hruns, hbank⟩).trans ((if_pos rfl).trans ?_)
  rw [← replayCharged_bank s b r.task b]
  rfl

end

/-! ### Update jobs (R296, R302) -/

section
variable {s : State} {n : Nat} {d : TaskD}

theorem paddockJobStart_idle (h : padTask s = none ∨ s.paddock.job ≠ none) : paddockJobStart s = s := by
  unfold paddockJobStart
  split
  next t ht hj =>
    rcases h with h | h
    · exact absurd (ht.symm.trans h) (by simp)
    · exact absurd hj h
  · rfl

variable {a : Nat} {j : List Word} (ht : padTask s = some n) (hj : s.paddock.job = none) (hd : taskD s n = some d)
  (ha : a = 0x10000000 + d.progOff) (hw : j = s.mem.words a 16)
include ht hj hd ha

theorem paddockJobStart_unread {u : State} (h : padRead s n a (if a % 64 = 0 then 64 else 4) = some u) : paddockJobStart s = u := by
  unfold paddockJobStart
  rw [ht, hj]
  dsimp only
  rw [hd]
  dsimp only
  rw [← ha, h]

include hw

theorem paddockJobStart_bad {c : Nat} (h : padRead s n a (if a % 64 = 0 then 64 else 4) = none)
    (hc : (if a % 64 = 0 then padJobCode j else some 1) = some c) :
    paddockJobStart s = taskFault s slotPadk n none 0x0511 (some a) (fld c 24) (wd j 0) := by
  unfold paddockJobStart
  rw [ht, hj]
  dsimp only
  rw [hd]
  dsimp only
  rw [← ha, h]
  dsimp only
  rw [← hw, hc]

theorem paddockJobStart_starts (h : padRead s n a (if a % 64 = 0 then 64 else 4) = none)
    (hc : (if a % 64 = 0 then padJobCode j else some 1) = none) :
    paddockJobStart s = s.mapPaddock (fun p => { p with job := some ⟨n, (wd j 1).toNat, bits (wd j 0) 15 0, 0, 0, 0⟩ }) := by
  unfold paddockJobStart
  rw [ht, hj]
  dsimp only
  rw [hd]
  dsimp only
  rw [← ha, h]
  dsimp only
  rw [← hw, hc]

end

section
variable {s : State} {n : Nat} {j : PJob} (ht : padTask s = some n) (hj : s.paddock.job = some j)
include ht hj

theorem paddockOpEnqueue_idle (h : j.nops ≤ j.next ∨ j.task ≠ n) : paddockOpEnqueue s = s := by
  unfold paddockOpEnqueue
  rw [ht, hj]
  exact if_pos h

/-- The operation of an update list at an address. -/
def listedOp (m : Memory) (a idx n : Nat) : POp := ⟨m.word a, m.word (a + 4), m.word (a + 8), m.word (a + 12), idx, n⟩

theorem paddockOpEnqueue_takes {a : Nat} (htask : j.task = n) (hnext : j.next < j.nops) (ha : a = j.base + 16 * j.next)
    (hread : padRead s n a 16 = none) : paddockOpEnqueue s
    = if 16 ≤ (s.bank (bits (s.mem.word a) 27 22)).queue.length then s
      else (s.setBank (bits (s.mem.word a) 27 22) { s.bank (bits (s.mem.word a) 27 22) with
        queue := (s.bank (bits (s.mem.word a) 27 22)).queue ++ [listedOp s.mem a j.next n] }).mapPaddock
          (fun p => { p with job := some { j with next := j.next + 1 } }) := by
  subst ha
  unfold paddockOpEnqueue
  rw [ht, hj]
  dsimp only
  rw [if_neg (by omega), hread]
  rfl

theorem paddockJobComplete_done (htask : j.task = n) (hdone : j.done = j.nops) :
    paddockJobComplete s = finishTask (s.mapPaddock (fun p => { p with job := none, marked := [] })) n := by
  unfold paddockJobComplete
  rw [ht, hj]
  exact if_pos ⟨htask, hdone⟩

theorem paddockJobComplete_waits (h : j.task ≠ n ∨ j.done ≠ j.nops) : paddockJobComplete s = s := by
  unfold paddockJobComplete
  rw [ht, hj]
  exact if_neg (by omega)

end

theorem exec_paddockJobStart (s : State) : exec .paddockJobStart s = .next (paddockJobStart s) := rfl

/-- Settles O40: a search and its replay through the one bank-search, a job by the steps of its list. -/
theorem paddockSearchesAndJobs : Obligations.PaddockSearchesAndJobs := by
  refine ⟨fun s b r p hs hb hslot hruns => ⟨fun c hc => ?_, fun n u hbad hn hu => ⟨fun k hk => ?_, fun hk hl => ?_, fun x l hk hl => ?_⟩⟩,
    fun s b h => ⟨?_, fun k e => ?_⟩, fun s b k e h => ?_,
    fun s u b k r p n hs hb hslot hruns hbank hbad hk hn hu => ⟨fun hl => ?_, fun x l hl => ?_⟩,
    fun s b k r p hs hb hslot hruns hbank => ?_,
    fun s n d a j ht hj hd ha hw => ⟨fun halign hread => ?_, fun u hread => ?_, fun c halign hread hc => ?_, fun halign hread hc => ?_⟩,
    fun s h => ?_, fun s n a j ht hj htask hnext ha hread => ⟨fun hfull => ?_, fun hroom => ?_⟩,
    fun s n j ht hj => ⟨fun h => ?_, fun htask hdone => ?_, fun h => ?_⟩⟩
  · exact congrArg Host.Outcome.next ((paddockBankSearch_searches hs hb hslot hruns).trans (bankSearch_bad hc))
  · subst hn hu
    exact congrArg Host.Outcome.next ((paddockBankSearch_searches hs hb hslot hruns).trans (bankSearch_poisoned hbad hk))
  · subst hn hu
    exact congrArg Host.Outcome.next ((paddockBankSearch_searches hs hb hslot hruns).trans (bankSearch_last hbad hk hl))
  · subst hn hu
    exact congrArg Host.Outcome.next ((paddockBankSearch_searches hs hb hslot hruns).trans (bankSearch_next hbad hk hl))
  · exact congrArg Host.Outcome.next (paddockBankSearch_waits h)
  · exact congrArg Host.Outcome.next (searchReplay_waits _ _ h)
  · exact congrArg Host.Outcome.next (searchReplay_unsearchable _ _ h)
  · subst hn hu
    rw [← replayCharged_bank s b r.task] at hk
    have hlast := bankSearch_last ((searchBad_replayCharged ..).trans hbad) hk hl (r := r)
    rw [searchCounted_replayCharged, replayCharged_bank] at hlast
    exact congrArg Host.Outcome.next ((searchReplay_again hs hb hslot hruns hbank _).trans hlast)
  · subst hn hu
    rw [← replayCharged_bank s b r.task] at hk
    have hnext := bankSearch_next ((searchBad_replayCharged ..).trans hbad) hk hl (r := r)
    rw [searchCounted_replayCharged, replayCharged_bank] at hnext
    exact congrArg Host.Outcome.next ((searchReplay_again hs hb hslot hruns hbank _).trans hnext)
  · exact congrArg Host.Outcome.next (searchReplay_persists hs hb hslot hruns hbank _)
  · rw [exec_paddockJobStart, paddockJobStart_bad ht hj hd ha hw (by rwa [if_neg halign]) (if_neg halign)]
    rfl
  · rw [exec_paddockJobStart, paddockJobStart_unread ht hj hd ha hread]
  · rw [exec_paddockJobStart, paddockJobStart_bad ht hj hd ha hw (by rwa [if_pos halign]) ((if_pos halign).trans hc)]
  · rw [exec_paddockJobStart, paddockJobStart_starts ht hj hd ha hw (by rwa [if_pos halign]) ((if_pos halign).trans hc)]
  · exact congrArg Host.Outcome.next (paddockJobStart_idle h)
  · exact congrArg Host.Outcome.next ((paddockOpEnqueue_takes ht hj htask hnext ha hread).trans (if_pos hfull))
  · exact ⟨_, congrArg Host.Outcome.next ((paddockOpEnqueue_takes ht hj htask hnext ha hread).trans (if_neg (Nat.not_le.mpr hroom))),
      ((State.mapPaddock_keeps ..).cut (by decide) ((State.setBank_keeps ..).mono (by decide))).only,
      State.bank_setBank_same .., fun x hx => State.bank_setBank_other _ _ hx, rfl⟩
  · exact congrArg Host.Outcome.next (paddockOpEnqueue_idle ht hj h)
  · exact congrArg Host.Outcome.next (paddockJobComplete_done ht hj htask hdone)
  · exact congrArg Host.Outcome.next (paddockJobComplete_waits ht hj h)

end Sys2Proof.Machine

/-! PROOFS. The operations of a Paddock bank (11_paddock.md R291, R294, R297 to R299, R302; Tables 11-8 and 11-9). -/

namespace Sys2Proof.Machine

/-! ### Entries of a bank -/

theorem Tbl.getD_foldl_set_below {α : Type} (base : Nat) (l : List α) (n : Nat) (t : Tbl α) (d : α) {i : Nat} (h : i < base + n) :
    Tbl.getD ((l.zipIdx n).foldl (fun t p => Tbl.set t (base + p.2) p.1) t) i d = Tbl.getD t i d := by
  induction l generalizing n t with
  | nil => rfl
  | cons x l ih =>
    rw [List.zipIdx_cons, List.foldl_cons, ih (n + 1) _ (by omega)]
    exact Tbl.getD_set_other _ _ _ (by omega)

/-- Values put into a table one after another stand at their places. -/
theorem Tbl.getD_foldl_set {α : Type} (base : Nat) (l : List α) (n : Nat) (t : Tbl α) (d : α) {k : Nat} (h : k < l.length) :
    Tbl.getD ((l.zipIdx n).foldl (fun t p => Tbl.set t (base + p.2) p.1) t) (base + (n + k)) d = l[k] := by
  induction l generalizing n k t with
  | nil => exact absurd h (Nat.not_lt_zero _)
  | cons x l ih =>
    rw [List.zipIdx_cons, List.foldl_cons]
    cases k with
    | zero =>
      rw [Tbl.getD_foldl_set_below base l (n + 1) _ _ (by omega)]
      exact Tbl.getD_set_same ..
    | succ k =>
      rw [show n + (k + 1) = n + 1 + k by omega]
      exact ih (n + 1) _ (Nat.lt_of_succ_lt_succ h)

/-- The entry set is the entry read. -/
theorem Bank.entry_setEntry (v : Bank) (e : Nat) {us : List PUnit} (h : us.length = unitsOf v.width) :
    (v.setEntry v.width e us).entry e = us := by
  refine List.ext_getElem (by rw [h]; simp [Bank.entry, Bank.setEntry]) fun i hi hi' => ?_
  have hread := Tbl.getD_foldl_set (unitsOf v.width * e) us 0 v.units PUnit.zero hi'
  rw [Nat.zero_add] at hread
  simpa [Bank.entry, Bank.unit, Bank.setEntry] using hread

theorem Bank.entry_length (v : Bank) (e : Nat) : (v.entry e).length = unitsOf v.width := by
  simp [Bank.entry]

theorem unitsOf_pos (w : Nat) : 0 < unitsOf w := Nat.two_pow_pos w

/-! ### Steps of one operation (R298, R299, Table 11-9) -/

section
variable {v : Bank} {r : POpRun}

theorem opStep_insert (h : r.op.kind = kInsert) : opStep v r = insertStep v r := if_pos h

theorem opStep_remove (h : r.op.kind = kRemove) : opStep v r = removeStep v r :=
  (if_neg (by rw [h]; decide)).trans (if_pos h)

theorem opStep_write (h : r.op.kind = kWrite) :
    opStep v r = ⟨v.setEntry v.width r.pos (newEntry r r.op.tag), some r.pos, true, true⟩ :=
  (if_neg (by rw [h]; decide)).trans ((if_neg (by rw [h]; decide)).trans (if_pos h))

theorem opStep_clear (h : r.op.kind = kClear) : opStep v r = ⟨{ v with fill := 0 }, none, true, true⟩ :=
  (if_neg (by rw [h]; decide)).trans ((if_neg (by rw [h]; decide)).trans ((if_neg (by rw [h]; decide)).trans (if_neg (by rw [h]; decide))))

/-- The units of an entry with the VALID of an operation in the first. -/
def validated (us : List PUnit) (b : Bool) : List PUnit :=
  us.zipIdx.map (fun p => if p.2 = 0 then { p.1 with ctl := (p.1.ctl &&& 0x7FFFFFFF) ||| flag b 31 } else p.1)

theorem opStep_setvalid (h : r.op.kind = kSetvalid) : opStep v r
    = ⟨{ v.setEntry v.width r.pos (validated (v.entry r.pos) r.op.valid) with poison := v.poison }, some r.pos, true, true⟩ :=
  (if_neg (by rw [h]; decide)).trans ((if_neg (by rw [h]; decide)).trans ((if_neg (by rw [h]; decide)).trans (if_pos h)))

theorem bit_validated (c : Word) (b : Bool) : bit ((c &&& 0x7FFFFFFF) ||| flag b 31) 31 = b := by
  have hmask : bit 0x7FFFFFFF 31 = false := by decide
  have hflag : bit (flag b 31) 31 = b := by cases b <;> rfl
  rw [bit_or, hflag, bit_and, hmask, Bool.and_false, Bool.false_or]

theorem tag_validated (c : Word) (b : Bool) : bits ((c &&& 0x7FFFFFFF) ||| flag b 31) 27 16 = bits c 27 16 := by
  have hmask : bits 0x7FFFFFFF 27 16 = 2 ^ 12 - 1 := by decide
  have hflag : bits (flag b 31) 27 16 = 0 := by cases b <;> rfl
  rw [bits_or, hflag, Nat.or_zero, bits_and, hmask, Nat.and_two_pow_sub_one_eq_mod]
  exact Nat.mod_eq_of_lt (bits_lt c 27 16)

theorem entryValid_validated {us : List PUnit} (h : us ≠ []) (b : Bool) : entryValid (validated us b) = b := by
  cases us with
  | nil => exact absurd rfl h
  | cons u us => exact bit_validated u.ctl b

theorem entryTag_validated {us : List PUnit} (h : us ≠ []) (b : Bool) : entryTag (validated us b) = entryTag us := by
  cases us with
  | nil => exact absurd rfl h
  | cons u us => exact tag_validated u.ctl b

theorem Bank.entry_ne_nil (v : Bank) (e : Nat) : v.entry e ≠ [] :=
  List.ne_nil_of_length_pos (by rw [Bank.entry_length]; exact unitsOf_pos _)

theorem entry_opStep_setvalid (h : r.op.kind = kSetvalid) :
    (opStep v r).bank.entry r.pos = validated (v.entry r.pos) r.op.valid := by
  rw [opStep_setvalid h]
  exact Bank.entry_setEntry v r.pos (by rw [validated, List.length_map, List.length_zipIdx, Bank.entry_length])

theorem insertStep_moves (hh : v.hole = none) (hp : r.pos ≠ v.fill) :
    insertStep v r = ⟨{ v.copyEntry (v.fill - 1) v.fill with hole := some (v.fill - 1) }, some v.fill, false, false⟩ := by
  unfold insertStep
  rw [hh]
  exact if_neg hp

theorem insertStep_shifts {h : Nat} (hh : v.hole = some h) (hp : h ≠ r.pos) :
    insertStep v r = ⟨{ v.copyEntry (h - 1) h with hole := some (h - 1) }, some h, false, false⟩ := by
  unfold insertStep
  rw [hh]
  exact if_neg hp

theorem insertStep_places (h : v.hole = some r.pos ∨ (v.hole = none ∧ v.fill = r.pos)) : insertStep v r
    = ⟨{ v.setEntry v.width r.pos (newEntry r r.op.tag) with hole := none, fill := v.fill + 1 }, some r.pos, true, true⟩ := by
  unfold insertStep
  rcases h with hh | ⟨hh, hf⟩
  · rw [hh]
    exact if_pos rfl
  · rw [hh, ← hf]
    exact if_pos rfl

theorem removeStep_last (hh : v.hole = none) (hp : r.pos + 1 = v.fill) :
    removeStep v r = ⟨{ v with fill := r.pos, hole := none }, none, true, true⟩ := by
  unfold removeStep
  rw [hh, ← hp]
  simp

theorem removeStep_opens (hh : v.hole = none) (hp : r.pos + 1 < v.fill) :
    removeStep v r = ⟨{ v with fill := v.fill - 1, hole := some r.pos }, none, true, false⟩ := by
  have hne : (r.pos == v.fill - 1) = false := beq_eq_false_iff_ne.mpr (by omega)
  unfold removeStep
  rw [hh]
  dsimp only
  rw [hne]
  rfl

theorem removeStep_closes {h : Nat} (hh : v.hole = some h) (hp : h + 1 = v.fill) :
    removeStep v r = ⟨{ v.copyEntry v.fill h with hole := none }, some h, false, true⟩ := by
  unfold removeStep
  rw [hh, ← hp]
  simp

theorem removeStep_shifts {h : Nat} (hh : v.hole = some h) (hp : h + 1 ≠ v.fill) :
    removeStep v r = ⟨{ v.copyEntry (h + 1) h with hole := some (h + 1) }, some h, false, false⟩ := by
  have hne : (h + 1 == v.fill) = false := beq_eq_false_iff_ne.mpr hp
  unfold removeStep
  rw [hh]
  dsimp only
  rw [hne]
  rfl

end

/-! ### A step in the bank and its golden copy (R291, R294) -/

section
variable {s : State} {b : Nat} {v : Bank} {r : POpRun}

theorem State.bank_of_paddock {s t : State} (h : t.paddock = s.paddock) (b : Nat) : t.bank b = s.bank b := by
  unfold State.bank
  rw [h]

/-- The golden copy after a step. -/
def goldStepped (m : Memory) (g width : Nat) (o : StepOut) : Memory :=
  putHeader (match o.wrote with | some e => putGold m g width e (o.bank.entry e) | none => m) g o.bank.fill o.bank.hole

theorem goldStepped_wf (g width : Nat) (o : StepOut) {m : Memory} (h : m.wf) : (goldStepped m g width o).wf := by
  unfold goldStepped
  split
  · exact putHeader_wf _ _ _ _ (putGold_wf _ _ _ _ _ h)
  · exact putHeader_wf _ _ _ _ h

/-- A step is made: the golden copy is written and the step counted. -/
def stepCounted (s : State) (b : Nat) (v : Bank) (o : StepOut) : State :=
  countStep (s.mapMem (fun m => goldStepped m v.gold v.width o)) b o.commit

theorem stepCounted_keeps (s : State) (b : Nat) (v : Bank) (o : StepOut) : Keeps [.regs, .evts, .mem] s (stepCounted s b v o) :=
  (countStep_keeps ..).cut (by decide) ((State.mapMem_keeps _ _ fun _ hm => goldStepped_wf _ _ _ hm).mono (by decide))

theorem stepCounted_mem (s : State) (b : Nat) (v : Bank) (o : StepOut) :
    (stepCounted s b v o).mem = goldStepped s.mem v.gold v.width o :=
  (countStep_keeps ..).only.2 .mem (by decide)

theorem makeStep_eq (h : goldMergeBad s.mem v.gold v.width (opStep v r).wrote = none) : makeStep s b v r
    = if (opStep v r).last then
        opDone (stepCounted s b v (opStep v r)) b { (opStep v r).bank with cur := some { r with made := r.made + 1 }, theft := s.pc + 1 } .ready
      else (stepCounted s b v (opStep v r)).setBank b { (opStep v r).bank with cur := some { r with made := r.made + 1 }, theft := s.pc + 1 } := by
  unfold makeStep
  dsimp only
  rw [h]
  rfl

/-- What a step of the operation `r` of bank `v` leaves, as R294 and R302 say it. -/
structure Stepped (s t : State) (b : Nat) (v : Bank) (r : POpRun) (o : StepOut) : Prop where
  only : Only [.regs, .evts, .mem, .paddock] s t
  mem : t.mem = goldStepped s.mem v.gold v.width o
  goesOn : o.last = false → t.bank b = { o.bank with cur := some { r with made := r.made + 1 }, theft := s.pc + 1 }
    ∧ t.paddock.job = s.paddock.job
  ends : o.last = true → t.bank b = { o.bank with cur := none, theft := s.pc + 1, queue := o.bank.queue.tail, st := .ready }
    ∧ t.paddock.job = s.paddock.job.map (fun j => { j with done := j.done + 1 })

theorem opDone_bank (s : State) (b : Nat) (v : Bank) (st : BankSt) :
    (opDone s b v st).bank b = { v with queue := v.queue.tail, cur := none, st := st } :=
  (State.bank_of_paddock rfl b).trans (State.bank_setBank_same ..)

theorem opDone_job (s : State) (b : Nat) (v : Bank) (st : BankSt) :
    (opDone s b v st).paddock.job = s.paddock.job.map (fun j => { j with done := j.done + 1 }) := rfl

theorem makeStep_stepped (h : goldMergeBad s.mem v.gold v.width (opStep v r).wrote = none) :
    Stepped s (makeStep s b v r) b v r (opStep v r) := by
  have hcount := stepCounted_keeps s b v (opStep v r)
  have hjob : (stepCounted s b v (opStep v r)).paddock.job = s.paddock.job :=
    congrArg Paddock.job (hcount.only.2 .paddock (by decide))
  have hmem := stepCounted_mem s b v (opStep v r)
  rw [makeStep_eq h]
  cases hlast : (opStep v r).last
  · rw [if_neg (by decide)]
    exact ⟨((State.setBank_keeps ..).cut (by decide) (hcount.mono (by decide))).only, hmem,
      fun _ => ⟨State.bank_setBank_same .., hjob⟩, fun ht => absurd ht (by rw [hlast]; decide)⟩
  · rw [if_pos rfl]
    exact ⟨((opDone_keeps ..).cut (by decide) (hcount.mono (by decide))).only,
      ((opDone_keeps ..).only.2 .mem (by decide)).trans hmem, fun hf => absurd hf (by rw [hlast]; decide),
      fun _ => ⟨opDone_bank .., by rw [opDone_job, hjob]⟩⟩

/-! ### When a bank acts (R291, R297) -/

theorem opStart_underway (h : (s.bank b).cur = some r) : opStart s b = s := by
  unfold opStart
  dsimp only
  rw [h]

theorem bankTheft_steps (hcur : (s.bank b).cur = some r) (htheft : (s.bank b).theft ≠ s.pc + 1) (hst : (s.bank b).st ≠ .rebuilding)
    (habort : aborting s r.op.task = false) : bankTheft s b = makeStep s b (s.bank b) r := by
  unfold bankTheft
  dsimp only
  rw [opStart_underway hcur, if_neg htheft, hcur]
  exact if_neg (by simp [hst, habort])

theorem opEvent_theft {k : Nat} (hk : headKind (s.bank b) = k) (hruns : padRuns s = true) (ht : theftPc s = true) :
    opEvent s b k = bankTheft s b := (if_pos ⟨hk, hruns⟩).trans (if_pos ht)

theorem opEvent_starts {k : Nat} (hk : headKind (s.bank b) = k) (hruns : padRuns s = true) (ht : theftPc s = false) :
    opEvent s b k = opStart s b := (if_pos ⟨hk, hruns⟩).trans (if_neg (by simp [ht]))

theorem opEvent_idle {k : Nat} (h : headKind (s.bank b) ≠ k ∨ padRuns s = false) : opEvent s b k = s :=
  if_neg (by rcases h with h | h <;> simp [h])

theorem headKind_underway (h : v.cur = some r) : headKind v = r.op.kind := by
  unfold headKind
  rw [h]

variable {o : POp} {rest : List POp}

theorem headKind_waiting (hc : v.cur = none) (hq : v.queue = o :: rest) : headKind v = o.kind := by
  unfold headKind
  rw [hc, hq]

variable (hcur : (s.bank b).cur = none) (hq : (s.bank b).queue = o :: rest) (habort : aborting s o.task = false)
include hcur hq habort

theorem opStart_code {c : Nat} (hc : opCheck s b (s.bank b) o = .code c) :
    opStart s b = taskFault s (slotBank b) o.task none 0x0512 none (fld c 24 ||| w32 o.idx) o.w0 := by
  unfold opStart
  dsimp only
  rw [hcur, hq]
  dsimp only
  rw [habort, hc]
  exact if_neg (by decide)

theorem opStart_block {x : Verdict} {k : Nat} (hc : opCheck s b (s.bank b) o = .block x k) :
    opStart s b = bankBlockFault (if o.kind = kRebuild then rebuildFails s b else s) o.task b k x := by
  unfold opStart
  dsimp only
  rw [hcur, hq]
  dsimp only
  rw [habort, hc]
  exact if_neg (by decide)

theorem opStart_ok {r : POpRun} (hc : opCheck s b (s.bank b) o = .ok r) :
    opStart s b = s.setBank b { s.bank b with cur := some r, st := if o.kind = kRebuild then .rebuilding else .busy } := by
  unfold opStart
  dsimp only
  rw [hcur, hq]
  dsimp only
  rw [habort, hc]
  exact if_neg (by decide)

end

theorem exec_insert (s : State) (b : BankId) : exec (.insert b) s = .next (opEvent s b.val kInsert) := rfl
theorem exec_remove (s : State) (b : BankId) : exec (.remove b) s = .next (opEvent s b.val kRemove) := rfl
theorem exec_write (s : State) (b : BankId) : exec (.write b) s = .next (opEvent s b.val kWrite) := rfl
theorem exec_setvalid (s : State) (b : BankId) : exec (.setvalid b) s = .next (opEvent s b.val kSetvalid) := rfl
theorem exec_clear (s : State) (b : BankId) : exec (.clear b) s = .next (opEvent s b.val kClear) := rfl

/-- The state that the checks of an operation at the head leave, by what they say. -/
def checkedState (s : State) (b : Nat) (v : Bank) (o : POp) : State :=
  match opCheck s b v o with
  | .code c => taskFault s (slotBank b) o.task none 0x0512 none (fld c 24 ||| w32 o.idx) o.w0
  | .block x k => bankBlockFault s o.task b k x
  | .ok r => s.setBank b { v with cur := some r, st := .busy }

theorem opStart_checked {s : State} {b : Nat} {o : POp} {rest : List POp} (hcur : (s.bank b).cur = none)
    (hq : (s.bank b).queue = o :: rest) (habort : aborting s o.task = false) (hk : o.kind ≠ kRebuild) :
    opStart s b = checkedState s b (s.bank b) o := by
  unfold checkedState
  cases hc : opCheck s b (s.bank b) o with
  | code c => exact opStart_code hcur hq habort hc
  | block x k => rw [opStart_block hcur hq habort hc, if_neg hk]
  | ok r => rw [opStart_ok hcur hq habort hc, if_neg hk]

/-- Settles O41: a step is `makeStep` with what the operation's kind gives, and a start is what the checks say. -/
theorem paddockOperationsStep : Obligations.PaddockOperationsStep := by
  refine ⟨fun s b v r o hv hcur hruns ht htheft hst habort ho hgold => ?_,
    fun v r hk => ⟨fun hh hp => ?_, fun h hh hp => ?_, fun h => ?_⟩,
    fun v r hk => ⟨fun hh hp => ?_, fun hh hp => ?_, fun h hh hp => ?_, fun h hh hp => ?_⟩,
    fun v r hk => opStep_clear hk, fun v r hk => opStep_write hk, fun v r hk => ?_,
    fun s b v o rest hv hcur hq hruns ht habort => ?_, fun s b => ⟨fun h => ?_, fun h => ?_, fun h => ?_, fun h => ?_, fun h => ?_⟩⟩
  · subst hv ho
    have hhead := headKind_underway hcur
    have hact {k : Nat} (hk : r.op.kind = k) : opEvent s b.val k = makeStep s b.val (s.bank b.val) r :=
      (opEvent_theft (hhead.trans hk) hruns ht).trans (bankTheft_steps hcur htheft hst habort)
    obtain ⟨honly, hmem, hgoes, hends⟩ := makeStep_stepped (b := b.val) hgold
    exact ⟨_, fun hk => by rw [exec_insert, hact hk], fun hk => by rw [exec_remove, hact hk], fun hk => by rw [exec_write, hact hk],
      fun hk => by rw [exec_setvalid, hact hk], fun hk => by rw [exec_clear, hact hk], honly, hmem, hgoes, hends⟩
  · exact (opStep_insert hk).trans (insertStep_moves hh hp)
  · exact (opStep_insert hk).trans (insertStep_shifts hh hp)
  · exact (opStep_insert hk).trans (insertStep_places h)
  · exact (opStep_remove hk).trans (removeStep_last hh hp)
  · exact (opStep_remove hk).trans (removeStep_opens hh hp)
  · exact (opStep_remove hk).trans (removeStep_closes hh hp)
  · exact (opStep_remove hk).trans (removeStep_shifts hh hp)
  · rw [entry_opStep_setvalid hk, entryValid_validated (v.entry_ne_nil _), entryTag_validated (v.entry_ne_nil _), opStep_setvalid hk]
    exact ⟨rfl, rfl, rfl, rfl, rfl⟩
  · subst hv
    have hhead := headKind_waiting hcur hq
    have hact {k : Nat} (hk : o.kind = k) (hne : k ≠ kRebuild) : opEvent s b.val k = checkedState s b.val (s.bank b.val) o :=
      (opEvent_starts (hhead.trans hk) hruns ht).trans (opStart_checked hcur hq habort (hk ▸ hne))
    refine ⟨checkedState s b.val (s.bank b.val) o, fun hk => ?_, fun hk => ?_, fun hk => ?_, fun hk => ?_, fun hk => ?_,
      fun c hc => ?_, fun x k hc => ?_, fun r hc _ => ?_⟩
    · rw [exec_insert, hact hk (by decide)]
    · rw [exec_remove, hact hk (by decide)]
    · rw [exec_write, hact hk (by decide)]
    · rw [exec_setvalid, hact hk (by decide)]
    · rw [exec_clear, hact hk (by decide)]
    · unfold checkedState
      rw [hc]
      rfl
    · unfold checkedState
      rw [hc]
    · unfold checkedState
      rw [hc]
  · rw [exec_insert, opEvent_idle h]
  · rw [exec_remove, opEvent_idle h]
  · rw [exec_write, opEvent_idle h]
  · rw [exec_setvalid, opEvent_idle h]
  · rw [exec_clear, opEvent_idle h]

end Sys2Proof.Machine

/-! PROOFS. Rebuilds, the theft pc and scrubbing (11_paddock.md R291, R299, R301, R303). -/

namespace Sys2Proof.Machine

/-! ### REBUILD (R301) -/

theorem exec_rebuild (s : State) (b : BankId) :
    exec (.rebuild b) s = .next (onlyIf (headKind (s.bank b.val) == kRebuild && padRuns s) (fun t => opStart t b.val) s) := rfl

theorem exec_rebuildStep (s : State) (b : BankId) : exec (.rebuildStep b) s = .next (rebuildStep s b.val) := rfl

theorem exec_theftPc (s : State) : exec .theftPc s = .next (theft s) := rfl

section
variable {s : State} {b : Nat}

theorem countStep_uncommitted (s : State) (b : Nat) :
    countStep s b false = (s.bump slotPadk 0x048 1).bump (slotBank b) 0x054 1 := rfl

theorem countStep_uncommitted_keeps (s : State) (b : Nat) : Keeps [.regs] s (countStep s b false) := by
  rw [countStep_uncommitted]
  exact (State.bump_keeps ..).cut (by decide) (State.bump_keeps ..)

theorem countStep_bank (s : State) (b c : Nat) (commit : Bool) : (countStep s b commit).bank c = s.bank c :=
  State.bank_of_paddock ((countStep_keeps s b commit).only.2 .paddock (by decide)) c

variable {r : POpRun}

theorem rebuildStep_idle (h : (s.bank b).cur = none ∨ (s.bank b).st ≠ .rebuilding ∨ padRuns s = false
    ∨ (s.bank b).theft = s.pc + 1) : rebuildStep s b = s := by
  unfold rebuildStep
  dsimp only
  split
  · rfl
  next r hr =>
    refine if_pos ?_
    rcases h with h | h | h | h
    · exact absurd (hr.symm.trans h) (by simp)
    all_goals simp [h]

/-- One step of a REBUILD that is under way: the hole is closed, an entry loaded, or the bank taken over. -/
def rebuildAct (s : State) (b : Nat) (v : Bank) (r : POpRun) : State :=
  match r.hole with
  | some h => if h < r.fill then closeStep s b v r h else if r.pos < r.fill then loadStep s b v r else finishStep s b v r
  | none => if r.pos < r.fill then loadStep s b v r else finishStep s b v r

theorem rebuildStep_acts (hcur : (s.bank b).cur = some r) (hst : (s.bank b).st = .rebuilding) (htheft : (s.bank b).theft ≠ s.pc + 1)
    (habort : aborting s r.op.task = false) (hruns : padRuns s = true) : rebuildStep s b = rebuildAct s b (s.bank b) r := by
  unfold rebuildStep
  dsimp only
  rw [hcur]
  exact if_neg (by simp [hst, htheft, habort, hruns])

variable {v : Bank}

theorem rebuildAct_closes {h : Nat} (hh : r.hole = some h) (hlt : h < r.fill) : rebuildAct s b v r = closeStep s b v r h := by
  unfold rebuildAct
  rw [hh]
  exact if_pos hlt

theorem rebuildAct_loads (hh : ∀ h, r.hole = some h → r.fill ≤ h) (hp : r.pos < r.fill) : rebuildAct s b v r = loadStep s b v r := by
  unfold rebuildAct
  split
  next h hhole => exact (if_neg (Nat.not_lt.mpr (hh h hhole))).trans (if_pos hp)
  · exact if_pos hp

theorem rebuildAct_finishes (hh : r.hole = none) (hp : r.fill ≤ r.pos) : rebuildAct s b v r = finishStep s b v r := by
  unfold rebuildAct
  rw [hh]
  exact if_neg (Nat.not_lt.mpr hp)

/-- The hole of a golden copy after it has been moved up by one. -/
def holeMoved (r : POpRun) (h : Nat) : Option Nat := if h + 1 = r.fill then none else some (h + 1)

/-- The golden copy after its hole has been moved up by one. -/
def goldClosed (m : Memory) (r : POpRun) (h : Nat) : Memory :=
  putHeader (putGold m r.op.data r.width h (goldEntry m r.op.data r.width (h + 1))) r.op.data r.fill (holeMoved r h)

theorem goldClosed_wf (r : POpRun) (h : Nat) {m : Memory} (hm : m.wf) : (goldClosed m r h).wf :=
  putHeader_wf _ _ _ _ (putGold_wf _ _ _ _ _ hm)

theorem closeStep_eq {h : Nat} (hgood : (goldVerify s.mem r.op.data r.width (h + 1)).1 = .good)
    (hmerge : goldMergeBad s.mem r.op.data r.width (some h) = none) : closeStep s b v r h
    = countStep ((s.mapMem (fun m => goldClosed m r h)).setBank b { v with
        cur := some { r with made := r.made + 1, hole := holeMoved r h }, theft := s.pc + 1 }) b false := by
  unfold closeStep
  dsimp only
  rw [if_neg (by simp [hgood]), hmerge]
  rfl

theorem closeStep_only {h : Nat} (hgood : (goldVerify s.mem r.op.data r.width (h + 1)).1 = .good)
    (hmerge : goldMergeBad s.mem r.op.data r.width (some h) = none) : Only [.regs, .mem, .paddock] s (closeStep s b v r h) := by
  rw [closeStep_eq hgood hmerge]
  exact ((countStep_uncommitted_keeps ..).cut (by decide) <| (State.setBank_keeps ..).cut (by decide) <|
    (State.mapMem_keeps _ _ fun _ hm => goldClosed_wf r h hm).mono (by decide)).only

theorem closeStep_mem {h : Nat} (hgood : (goldVerify s.mem r.op.data r.width (h + 1)).1 = .good)
    (hmerge : goldMergeBad s.mem r.op.data r.width (some h) = none) : (closeStep s b v r h).mem = goldClosed s.mem r h := by
  rw [closeStep_eq hgood hmerge]
  exact (countStep_uncommitted_keeps ..).only.2 .mem (by decide)

theorem closeStep_bank {h : Nat} (hgood : (goldVerify s.mem r.op.data r.width (h + 1)).1 = .good)
    (hmerge : goldMergeBad s.mem r.op.data r.width (some h) = none) : (closeStep s b v r h).bank b
    = { v with cur := some { r with made := r.made + 1, hole := holeMoved r h }, theft := s.pc + 1 } := by
  rw [closeStep_eq hgood hmerge, countStep_bank, State.bank_setBank_same]

theorem loadStep_unverified (h : (goldVerify s.mem r.op.data r.width r.pos).1 ≠ .good) : loadStep s b v r
    = bankBlockFault (rebuildFails s b) r.op.task b (goldVerify s.mem r.op.data r.width r.pos).2 (goldVerify s.mem r.op.data r.width r.pos).1 :=
  if_pos (by simpa using h)

theorem loadStep_disordered (h : (goldVerify s.mem r.op.data r.width r.pos).1 = .good)
    (hbad : loadBad v r (goldEntry s.mem r.op.data r.width r.pos) = true) : loadStep s b v r
    = taskFault (rebuildFails s b) (slotBank b) r.op.task none 0x0512 none (fld 11 24 ||| w32 r.op.idx) r.op.w0 :=
  (if_neg (by simp [h])).trans (if_pos hbad)

theorem loadStep_loads (h : (goldVerify s.mem r.op.data r.width r.pos).1 = .good)
    (hbad : loadBad v r (goldEntry s.mem r.op.data r.width r.pos) = false) : loadStep s b v r
    = countStep (s.setBank b { v.setEntry r.width r.pos (goldEntry s.mem r.op.data r.width r.pos) with
        cur := some { r with made := r.made + 1, pos := r.pos + 1 }, theft := s.pc + 1 }) b false :=
  (if_neg (by simp [h])).trans (if_neg (by simp [hbad]))

/-- A bank as the header of its golden copy gives it, at the end of a REBUILD. -/
def rebuiltBank (s : State) (v : Bank) (r : POpRun) : Bank :=
  { v with
    width := r.width, map := r.map, fill := r.fill, hole := none, gold := r.op.data, scrub := 0, inPass := false, passBad := false,
    builds := v.builds + 1, theft := s.pc + 1 }

theorem finishStep_eq (hh : r.hole = none) : finishStep s b v r = opDone (countStep s b true) b (rebuiltBank s v r) .ready := by
  unfold finishStep
  dsimp only
  rw [hh]
  rfl

theorem finishStep_only (hh : r.hole = none) : Only [.regs, .evts, .paddock] s (finishStep s b v r) := by
  rw [finishStep_eq hh]
  exact ((opDone_keeps ..).cut (by decide) ((countStep_keeps ..).mono (by decide))).only

theorem finishStep_bank (hh : r.hole = none) : (finishStep s b v r).bank b
    = { rebuiltBank s v r with queue := v.queue.tail, cur := none, st := .ready } := by
  rw [finishStep_eq hh, opDone_bank]
  rfl

theorem finishStep_job (hh : r.hole = none) :
    (finishStep s b v r).paddock.job = s.paddock.job.map (fun j => { j with done := j.done + 1 }) := by
  have hjob : (countStep s b true).paddock.job = s.paddock.job :=
    congrArg Paddock.job ((countStep_keeps ..).only.2 .paddock (by decide))
  rw [finishStep_eq hh, opDone_job, hjob]

/-! ### The theft pc and scrubbing (R291, R303) -/

theorem theft_idle (h : theftPc s = false ∨ padRuns s = false) : theft s = s :=
  if_neg (by rcases h with h | h <;> simp [h])

theorem theft_serves (ht : theftPc s = true) (hruns : padRuns s = true) :
    theft s = (s.paddock.banks.map (·.1)).foldl bankTheft s := if_pos (by rw [ht, hruns]; rfl)

theorem opStart_nothing (hcur : (s.bank b).cur = none) (hq : (s.bank b).queue = []) : opStart s b = s := by
  unfold opStart
  dsimp only
  rw [hcur, hq]

variable (hcur : (s.bank b).cur = none) (hq : (s.bank b).queue = []) (htheft : (s.bank b).theft ≠ s.pc + 1)
include hcur hq htheft

theorem bankTheft_rests (he : scrubEn s = false) : bankTheft s b = s := by
  unfold bankTheft
  dsimp only
  rw [opStart_nothing hcur hq, if_neg htheft, hcur]
  exact if_neg (by simp [he])

theorem bankTheft_scrubs (he : scrubEn s = true) (hst : (s.bank b).st = .ready ∨ (s.bank b).st = .busy)
    (hpass : (s.bank b).passBad = false) (hdom : (s.dom 22).st = .run) : bankTheft s b = scrubStep s b (s.bank b) := by
  unfold bankTheft
  dsimp only
  rw [opStart_nothing hcur hq, if_neg htheft, hcur]
  exact if_pos (by rcases hst with h | h <;> simp [he, h, hpass, hdom])

end

section
variable {s : State} {b e : Nat} {v : Bank}

/-- The bank after a scrub of one entry, with the place of the next. -/
abbrev Bank.scrubbed (v : Bank) (sc : Nat) (ip : Bool) (th : Nat) : Bank := { v with scrub := sc, inPass := ip, theft := th }

/-- An entry differs from its golden copy: the bank takes the golden bytes. -/
def scrubTaken (s : State) (b e : Nat) (v w : Bank) : State :=
  ((((s.bump slotPadk 0x050 1).setBank b (w.setEntry v.width e (goldEntry s.mem v.gold v.width e))).bump slotPadk 0x054 1).bump
    (slotBank b) 0x058 1).pulse slotPadk 1

theorem scrubTaken_only (w : Bank) : Only [.regs, .evts, .paddock] s (scrubTaken s b e v w) :=
  ((State.pulse_keeps ..).cut (by decide) <| (State.bump_keeps ..).cut (by decide) <| (State.bump_keeps ..).cut (by decide) <|
    (State.setBank_keeps ..).cut (by decide) <| (State.bump_keeps ..).mono (by decide)).only

theorem bump_paddock (s : State) (slot off n : Nat) : (s.bump slot off n).paddock = s.paddock :=
  (State.bump_keeps s slot off n).only.2 .paddock (by decide)

theorem scrubTaken_bank (w : Bank) :
    (scrubTaken s b e v w).bank b = w.setEntry v.width e (goldEntry s.mem v.gold v.width e) := by
  have hpad : (scrubTaken s b e v w).paddock
      = ((s.bump slotPadk 0x050 1).setBank b (w.setEntry v.width e (goldEntry s.mem v.gold v.width e))).paddock := by
    unfold scrubTaken
    rw [State.pulse_paddock, bump_paddock, bump_paddock]
  rw [State.bank_of_paddock hpad, State.bank_setBank_same]

/-- The scrub comes to an entry, in the pass that goes on or in a new one. -/
theorem Bank.scrubNext_at (h : v.positions.find? (fun e => decide (v.scrub ≤ e)) = some e
    ∨ (v.positions.find? (fun e => decide (v.scrub ≤ e)) = none ∧ v.positions.head? = some e)) :
    ∃ ip, v.scrubNext = some (e, { v with inPass := ip })
      ∧ (v.positions.find? (fun e => decide (v.scrub ≤ e)) = some e → ip = v.inPass) := by
  unfold Bank.scrubNext
  rcases h with h | ⟨h, hfirst⟩
  · rw [h]
    exact ⟨v.inPass, rfl, fun _ => rfl⟩
  · rw [h, hfirst]
    exact ⟨false, rfl, fun hsome => absurd hsome (by simp)⟩

/-- An entry that verifies is compared, and taken from the golden copy where it differs. -/
theorem scrubStep_compares {ip : Bool} (hnext : v.scrubNext = some (e, { v with inPass := ip }))
    (hhead : ip = true ∨ scrubHeaderBad s.mem v = false) (hgood : (goldVerify s.mem v.gold v.width e).1 = .good) :
    ∃ sc ip, scrubStep s b v = if scrubSame v e (goldEntry s.mem v.gold v.width e) then
        (s.bump slotPadk 0x050 1).setBank b (v.scrubbed sc ip (s.pc + 1))
      else scrubTaken s b e v (v.scrubbed sc ip (s.pc + 1)) := by
  have hsound : ¬(!ip && scrubHeaderBad s.mem { v with inPass := ip }) = true := by
    change ¬(!ip && scrubHeaderBad s.mem v) = true
    rcases hhead with h | h <;> simp [h]
  unfold scrubStep
  dsimp only
  rw [hnext]
  dsimp only
  rw [if_neg hsound, if_neg (by simp [hgood])]
  cases v.positions.any (fun x => decide (e < x))
  · exact ⟨0, false, rfl⟩
  · exact ⟨e + 1, true, rfl⟩

theorem scrubSame_iff (us : List PUnit) :
    scrubSame v e us = true ↔ v.entry e = us ∧ v.poison.any (fun u => u / unitsOf v.width == e) = false := by
  simp [scrubSame]

end

/-- Settles O42: each step of a REBUILD by the place it has come to, the theft pc bank by bank, and a scrub by its comparison. -/
theorem rebuildsAndTheft : Obligations.RebuildsAndTheft := by
  refine ⟨fun s b h => ?_, fun s b v o rest hv hcur hq hk hruns habort => ?start,
    fun s b v r hv hcur hst htheft habort hruns => ⟨fun h hh hlt hgood hmerge => ?_,
      fun hh hp => ⟨fun hgood => ?_, fun hgood hbad => ?_, fun hgood hbad => ?_⟩, fun hh hp => ?_⟩,
    fun s b h => ?_, fun s h => ?_, fun s ht hruns => ?_, fun s b e v hv hcur hq htheft => ⟨fun he => ?_, ?scrub⟩⟩
  case start =>
    subst hv
    have hacts : exec (.rebuild b) s = .next (opStart s b.val) := by
      rw [exec_rebuild, headKind_waiting hcur hq, hk, hruns]
      rfl
    refine ⟨fun c hc => ?_, fun x k hc => ?_, fun r hc => ?_⟩
    · rw [hacts, opStart_code hcur hq habort hc]
      rfl
    · rw [hacts, opStart_block hcur hq habort hc, if_pos hk]
      rfl
    · rw [hacts, opStart_ok hcur hq habort hc, if_pos hk]
  case scrub =>
    subst hv
    intro he hst hpass hdom hhead hnext hgood
    obtain ⟨ip, hat, hip⟩ := Bank.scrubNext_at (hnext.imp id fun h => ⟨h.1, h.2.1⟩)
    have hsound : ip = true ∨ scrubHeaderBad s.mem (s.bank b) = false := by
      rcases hnext with h | ⟨_, _, h⟩
      · rw [hip h]
        exact hhead
      · exact .inr h
    obtain ⟨sc, ip, hstep⟩ := scrubStep_compares (b := b) hat hsound hgood
    rw [bankTheft_scrubs hcur hq htheft he hst hpass hdom, hstep]
    refine ⟨sc, ip, fun hpoison hsame => if_pos ((scrubSame_iff _).mpr ⟨hsame, hpoison⟩), fun hdiff => ?_⟩
    exact ⟨_, if_neg fun h => hdiff ((scrubSame_iff _).mp h).1, scrubTaken_only _, scrubTaken_bank _⟩
  · rw [exec_rebuild]
    exact congrArg Host.Outcome.next (if_neg (by rcases h with h | h <;> simp [h]))
  · subst hv
    have hacts := (rebuildStep_acts hcur hst htheft habort hruns).trans (rebuildAct_closes hh hlt)
    refine ⟨_, by rw [exec_rebuildStep, hacts], closeStep_only hgood hmerge, closeStep_bank hgood hmerge, closeStep_mem hgood hmerge⟩
  · subst hv
    rw [exec_rebuildStep, rebuildStep_acts hcur hst htheft habort hruns, rebuildAct_loads hh hp, loadStep_unverified hgood]
    rfl
  · subst hv
    rw [exec_rebuildStep, rebuildStep_acts hcur hst htheft habort hruns, rebuildAct_loads hh hp, loadStep_disordered hgood hbad]
    rfl
  · subst hv
    have hacts := (rebuildStep_acts hcur hst htheft habort hruns).trans ((rebuildAct_loads hh hp).trans (loadStep_loads hgood hbad))
    refine ⟨_, by rw [exec_rebuildStep, hacts], ((countStep_uncommitted_keeps ..).cut (by decide)
      ((State.setBank_keeps ..).mono (by decide))).only, ?_⟩
    rw [countStep_bank, State.bank_setBank_same]
  · subst hv
    have hacts := (rebuildStep_acts hcur hst htheft habort hruns).trans (rebuildAct_finishes hh hp)
    refine ⟨_, by rw [exec_rebuildStep, hacts], finishStep_only hh, finishStep_bank hh, finishStep_job hh⟩
  · rw [exec_rebuildStep, rebuildStep_idle h]
  · rw [exec_theftPc, theft_idle h]
  · rw [exec_theftPc, theft_serves ht hruns]
  · subst hv
    exact bankTheft_rests hcur hq htheft he

end Sys2Proof.Machine

/-! PROOFS. Responses, timeouts and multicast copies (12_ralso_fabric.md R329, R333 to R336; 08_drove_chains.md R211, R216). -/

namespace Sys2Proof.Machine

/-! ### Responses (R329, R333) -/

section
variable {s : State} {o : OutPkt}

theorem readDataReceive_none (h : localOf s tReadData = none) : readDataReceive s = s := by
  unfold readDataReceive
  rw [h]

theorem readDataReceive_unasked (h : localOf s tReadData = some o) (hp : pendOf s o.pkt.rtag = none) :
    readDataReceive s = dropLocal s o := by
  unfold readDataReceive
  rw [h]
  dsimp only
  rw [hp]

theorem ackReceive_none (h : localOf s tAck = none) : ackReceive s = s := by
  unfold ackReceive
  rw [h]

theorem ackReceive_unasked (h : localOf s tAck = some o) (hp : pendOf s o.pkt.rtag = none) : ackReceive s = dropLocal s o := by
  unfold ackReceive
  rw [h]
  dsimp only
  rw [hp]

variable {p : Pending} (hp : pendOf s o.pkt.rtag = some p)
include hp

theorem ackReceive_ends (h : localOf s tAck = some o) : ackReceive s
    = if o.pkt.opx = 0 then dropPend (dropLocal s o) p
      else ralsoFault (dropPend (dropLocal s o) p) p.port p.core p.task 0x0602 p.node (pendAddr p) (w32 o.pkt.opx) (p.rtag.setWidth 32) := by
  unfold ackReceive
  rw [h]
  dsimp only
  rw [hp]

variable (h : localOf s tReadData = some o)
include h

theorem readDataReceive_mismatch {x : Word} (hx : carriedBad p.addr o.pkt = some x) : readDataReceive s
    = taskFault (((dropPend (dropLocal s o) p).bump (slotStrm p.core) 0x050 1).pulse (slotStrm p.core) 3) (slotStrm p.core) p.task
      (some p.core) 0x0002 (some p.addr) (w32 p.ch) x := by
  unfold readDataReceive
  rw [h]
  dsimp only
  rw [hp]
  dsimp only
  rw [hx]

theorem readDataReceive_hands (hx : carriedBad p.addr o.pkt = none) : readDataReceive s
    = pull (if p.kind = 2 then caughtUp (dropPend (dropLocal s o) p) p o.pkt else deliver (dropPend (dropLocal s o) p) p o.pkt.data) p.core := by
  unfold readDataReceive
  rw [h]
  dsimp only
  rw [hp]
  dsimp only
  rw [hx]

end

section
variable (s : State) (p : Pending) (bs : List Byte)

/-- An inbox is that of the channel of a request. -/
def inboxOf (p : Pending) (x : Inbox) : Bool := x.core == p.core && x.ch == p.ch && x.task == p.task

theorem inboxOf_iff (x : Inbox) : inboxOf p x = true ↔ x.core = p.core ∧ x.ch = p.ch ∧ x.task = p.task := by
  simp [inboxOf, and_assoc]

/-- The inboxes with bytes joined to those of the request's channel. -/
def deliveredInbox : List Inbox :=
  if s.fabric.inbox.any (inboxOf p) then s.fabric.inbox.map (fun x => if inboxOf p x then { x with bytes := x.bytes ++ bs } else x)
  else s.fabric.inbox ++ [⟨p.core, p.ch, p.task, bs⟩]

theorem deliver_eq : deliver s p bs = s.mapFabric (fun f => { f with inbox := deliveredInbox s p bs }) := rfl

theorem deliveredInbox_keeps {x : Inbox} (hx : x ∈ s.fabric.inbox) (hother : inboxOf p x = false) : x ∈ deliveredInbox s p bs := by
  unfold deliveredInbox
  split
  · exact List.mem_map.mpr ⟨x, hx, if_neg (by simp [hother])⟩
  · exact List.mem_append_left _ hx

theorem deliveredInbox_joins : ∃ x ∈ deliveredInbox s p bs, inboxOf p x = true ∧ ∃ old, x.bytes = old ++ bs := by
  unfold deliveredInbox
  split
  next hany =>
    obtain ⟨x, hx, hmine⟩ := List.any_eq_true.mp hany
    exact ⟨{ x with bytes := x.bytes ++ bs }, List.mem_map.mpr ⟨x, hx, if_pos hmine⟩, hmine, x.bytes, rfl⟩
  · exact ⟨⟨p.core, p.ch, p.task, bs⟩, List.mem_append_right _ (List.mem_singleton.mpr rfl),
      (inboxOf_iff p _).mpr ⟨rfl, rfl, rfl⟩, [], rfl⟩

end

/-! ### Timeouts (R334) -/

section
variable {s : State} {r : BitVec 16} {p : Pending}

theorem ralsoTimeout_none (h : pendOf s r = none) : ralsoTimeout s r = s := by
  unfold ralsoTimeout
  rw [h]

theorem ralsoTimeout_unsent (h : pendOf s r = some p) (he : p.ends = none) : ralsoTimeout s r = s := by
  unfold ralsoTimeout
  rw [h]
  dsimp only
  rw [he]

theorem ralsoTimeout_sent {e : Nat} (h : pendOf s r = some p) (he : p.ends = some e) : ralsoTimeout s r
    = if s.now < e then s else ralsoFault ((dropPend s p).pulse (slotLink p.port) 0) p.port p.core p.task 0x0603 p.node (pendAddr p)
        (w32 (pendType p)) (p.rtag.setWidth 32) := by
  unfold ralsoTimeout
  rw [h]
  dsimp only
  rw [he]

end

/-! ### Blocks of a multicast group (R335, R336) -/

section
variable {s : State} {o : OutPkt}

theorem mcBlockReceive_none (h : localOf s tMcBlock = none) : mcBlockReceive s = s := by
  unfold mcBlockReceive
  rw [h]

theorem mcBlockReceive_headless (h : localOf s tMcBlock = some o) (hg : headOfGroup s o.pkt.group = none) :
    mcBlockReceive s = countNoRoute (dropLocal s o) := by
  unfold mcBlockReceive
  rw [h]
  dsimp only
  rw [hg]

theorem stalledOut_iff : stalledOut s o = true ↔ ∃ t, o.waitAt = some t ∧ t + mcStall s ≤ s.now := by
  unfold stalledOut
  cases o.waitAt <;> simp

theorem stalledOut_not (h : ∀ t, o.waitAt = some t → s.now < t + mcStall s) : stalledOut s o = false := by
  rw [← Bool.not_eq_true, stalledOut_iff]
  rintro ⟨t, ht, hle⟩
  exact absurd (h t ht) (Nat.not_lt.mpr hle)

theorem headFull_iff {c : Nat} {v : ChSlot} :
    headFull s c v = true ↔ (v.ringSize ≤ v.ring.length ∨ portFree s (2 * c) = false) := by
  simp [headFull]

variable {c i : Nat} {v : ChSlot} (h : localOf s tMcBlock = some o) (hg : headOfGroup s o.pkt.group = some (c, i, v))
include h hg

theorem mcBlockReceive_hurdled (hh : s.hurdled (.core (coreOf c)) = true) : mcBlockReceive s = dropLocal s o := by
  unfold mcBlockReceive
  rw [h]
  dsimp only
  rw [hg]
  exact if_pos hh

theorem mcBlockReceive_full (hh : s.hurdled (.core (coreOf c)) = false) (hf : headFull s c v = true) :
    mcBlockReceive s = if stalledOut s o then pruneBranch s o.pkt.group o.pkt.gen 6 else s := by
  unfold mcBlockReceive
  rw [h]
  dsimp only
  rw [hg]
  exact (if_neg (by simp [hh])).trans (if_pos hf)

theorem mcBlockReceive_takes (hh : s.hurdled (.core (coreOf c)) = false) (hroom : v.ring.length < v.ringSize)
    (hport : portFree s (2 * c) = true) : mcBlockReceive s = headTakes (dropLocal s o) c i v o.pkt := by
  have hf : ¬headFull s c v = true := fun h => by
    rcases headFull_iff.mp h with h | h
    · exact absurd hroom (Nat.not_lt.mpr h)
    · exact absurd (hport.symm.trans h) (by decide)
  unfold mcBlockReceive
  rw [h]
  dsimp only
  rw [hg]
  exact (if_neg (by simp [hh])).trans (if_neg hf)

end

section
variable {s : State} {c i : Nat} {v : ChSlot} {k : Packet}

/-- A multicast block as it enters the ring of a head. -/
def arrivedBlock (k : Packet) : ChBlock :=
  { entry := 0, gen := k.gen, seq := k.seq, addr := k.addr, data := k.data, check := wd k.checks 0, poison := [],
    src := if k.seq = 0 then some ⟨k.addr, none⟩ else none, sent := false, used := false }

theorem headTakes_inOrder (hd : v.detached = false) (hseq : k.seq = 0 ∨ k.seq = heldOf v k.gen) :
    headTakes s c i v k = ringPut s c i v (arrivedBlock k) :=
  (if_neg (by simp [hd])).trans (if_neg fun h => hseq.elim h.1 h.2)

theorem headTakes_skips (hd : v.detached = false) (h0 : k.seq ≠ 0) (hseq : k.seq ≠ heldOf v k.gen) :
    headTakes s c i v k = detachMember s c i v k.gen (heldOf v k.gen) :=
  (if_neg (by simp [hd])).trans (if_pos ⟨h0, hseq⟩)

theorem headTakes_detached (hd : v.detached = true) : headTakes s c i v k
    = if rejoins s v (arrivedBlock k) then ringPut s c i (v.attach k.gen) (arrivedBlock k) else s := if_pos hd

end

/-! ### Markers (R336) -/

section
variable {s : State} {o : OutPkt}

theorem mcMarkerReceive_none (h : localOf s tMcMarker = none) : mcMarkerReceive s = s := by
  unfold mcMarkerReceive
  rw [h]

theorem mcMarkerReceive_headless (h : localOf s tMcMarker = some o) (hg : headOfGroup s o.pkt.group = none) :
    mcMarkerReceive s = countNoRoute (dropLocal s o) := by
  unfold mcMarkerReceive
  rw [h]
  dsimp only
  rw [hg]

variable {c i : Nat} {v : ChSlot} (h : localOf s tMcMarker = some o) (hg : headOfGroup s o.pkt.group = some (c, i, v))
include h hg

theorem mcMarkerReceive_hurdled (hh : s.hurdled (.core (coreOf c)) = true) : mcMarkerReceive s = dropLocal s o := by
  unfold mcMarkerReceive
  rw [h]
  dsimp only
  rw [hg]
  exact if_pos hh

variable {m : ChMark} {u : State} (hh : s.hurdled (.core (coreOf c)) = false) (hm : m = ⟨o.pkt.opx == 2, o.pkt.gen, o.pkt.seq, false⟩)
  (hu : u = forwardMark (takeMark (dropLocal s o) c i v m) c v m)
include hh hm hu

theorem mcMarkerReceive_within (hw : m.n ≤ heldOf v m.gen ∨ v.detached = true ∨ v.past m.gen = true) : mcMarkerReceive s = u := by
  subst hm hu
  unfold mcMarkerReceive
  rw [h]
  dsimp only
  rw [hg]
  dsimp only
  rw [if_neg (by simp [hh])]
  refine if_neg fun ⟨hlt, hd, hpast⟩ => ?_
  rcases hw with hw | hw | hw
  · exact absurd hlt (Nat.not_lt.mpr hw)
  · simp [hw] at hd
  · simp [hw] at hpast

theorem mcMarkerReceive_beyond {w : ChSlot} (hlt : heldOf v m.gen < m.n) (hd : v.detached = false) (hpast : v.past m.gen = false)
    (hslot : (u.core c).chSlot i = some w) : mcMarkerReceive s = detachMember u c i w m.gen (heldOf v m.gen) := by
  subst hm hu
  unfold mcMarkerReceive
  rw [h]
  dsimp only
  rw [hg]
  dsimp only
  rw [if_neg (by simp [hh]), if_pos ⟨hlt, by simp [hd], by simp [hpast]⟩, hslot]

end

/-! ### Pruning (R336) -/

section
variable {s : State} {p : Nat} {o : OutPkt}

theorem mcastPrune_idle (h : ∀ o ∈ (s.port p).outQ, o.pkt.ptype = tMcBlock → ∀ t, o.waitAt = some t → s.now < t + mcStall s) :
    mcastPrune s p = s := by
  unfold mcastPrune
  split
  · rfl
  next o hfind =>
    have hcopy := List.find?_some hfind
    simp only [Bool.and_eq_true, beq_iff_eq] at hcopy
    obtain ⟨htype, hstall⟩ := hcopy
    exact absurd (hstall.symm.trans (stalledOut_not (h o (List.mem_of_find?_eq_some hfind) htype))) (by decide)

theorem mcastPrune_prunes (h : (s.port p).outQ.find? (fun o => o.pkt.ptype == tMcBlock && stalledOut s o) = some o) :
    mcastPrune s p = pruneBranch s o.pkt.group o.pkt.gen p := by
  unfold mcastPrune
  rw [h]

/-- A copy that waits for a pruned branch. -/
def leftBehind (g gen : Nat) (x : OutPkt) : Bool :=
  !(x.pkt.ptype == tMcBlock && x.pkt.group == g && x.pkt.gen == gen && x.sent == 0)

/-- A branch of a port is pruned, but for what its buffers then settle. -/
def branchPruned (s : State) (g gen p : Nat) : State :=
  ((s.mapFabric (fun f => { f with prunes := f.prunes ++ [(g, gen, p)] })).setPort p
    { s.port p with outQ := (s.port p).outQ.filter (leftBehind g gen) }).bump slotRoute 0x064 1

theorem pruneBranch_again {g gen : Nat} (h : pruned s g gen p = true) : pruneBranch s g gen p = s := if_pos h

theorem pruneBranch_port {g gen : Nat} (h : pruned s g gen p = false) (hp : p ≠ 6) :
    pruneBranch s g gen p = settle (branchPruned s g gen p) := by
  refine (if_neg (by simp [h])).trans ?_
  simp only [if_neg hp]
  rfl

theorem branchPruned_only (s : State) (g gen p : Nat) : Only [.regs, .fabric] s (branchPruned s g gen p) :=
  ((State.bump_keeps ..).cut (by decide) <| (State.setPort_keeps ..).cut (by decide) <| (State.mapFabric_keeps ..).mono (by decide)).only

theorem branchPruned_fabric (s : State) (g gen p : Nat) : (branchPruned s g gen p).fabric
    = ((s.mapFabric (fun f => { f with prunes := f.prunes ++ [(g, gen, p)] })).setPort p
      { s.port p with outQ := (s.port p).outQ.filter (leftBehind g gen) }).fabric :=
  (State.bump_keeps ..).only.2 .fabric (by decide)

end

/-- Settles O46: each response, timeout, block and marker by its case. -/
theorem responsesAndMulticast : Obligations.ResponsesAndMulticast := by
  refine ⟨fun s => ⟨fun h => ?_, fun h => ?_, fun h => ?_, fun h => ?_⟩, fun s o hp => ⟨fun h => ?_, fun h => ?_⟩,
    fun s u o p hp hu => ⟨fun h => ⟨fun h0 => ?_, fun h0 => ?_⟩, fun h => ⟨fun x hx => ?_, fun hx hk => ?_, fun hx hk => ?_⟩⟩,
    fun s p bs => ?deliver, fun s r h => ?_, fun s r p h => ⟨fun he => ?_, fun e he => ⟨fun hearly => ?_, fun hlate => ?_⟩⟩,
    fun s o h => ⟨fun hg => ?_, fun c i v hg => ⟨fun hh => ?_, fun hh => ⟨fun hfull => ⟨fun hwait => ?_, fun t ht hlate => ?_⟩,
      fun b n hroom hport hn hb => ⟨fun hd hseq => ?_, fun hd h0 hseq => ?_, fun hd hr => ?_, fun hd hr => ?_⟩⟩⟩⟩,
    fun s o m h hm => ⟨fun hg => ?_, fun c i v hg => ⟨fun hh => ?_, fun u n hh hu hn => ⟨fun hw => ?_, fun w hlt hd hpast hslot => ?_⟩⟩⟩,
    fun s p o h => ⟨fun hpruned => ?_, fun hpruned => ?prune⟩, fun s p h => ?_⟩
  case deliver =>
    refine ⟨deliveredInbox s p bs, deliver_eq s p bs, fun x hx hother => ?_, ?_⟩
    · exact deliveredInbox_keeps s p bs hx (by rwa [← Bool.not_eq_true, inboxOf_iff])
    · obtain ⟨x, hx, hmine, hold⟩ := deliveredInbox_joins s p bs
      obtain ⟨hcore, hch, htask⟩ := (inboxOf_iff p x).mp hmine
      exact ⟨x, hx, hcore, hch, htask, hold⟩
  case prune =>
    have hfabric := branchPruned_fabric s o.pkt.group o.pkt.gen p.val
    have hport (q : Nat) := port_of_fabric hfabric q
    refine ⟨branchPruned s o.pkt.group o.pkt.gen p.val, congrArg Host.Outcome.next ((mcastPrune_prunes h).trans
      (pruneBranch_port hpruned (by omega))), branchPruned_only .., ?_, ?_, fun q hq => ?_, ?_⟩
    · rw [hfabric]
      rfl
    · exact (hport p.val).trans (State.port_setPort_same ..)
    · exact (hport q).trans (State.port_setPort_other _ _ hq)
    · exact bump_reg_same _ _ _ (by decide)
  · exact congrArg Host.Outcome.next (readDataReceive_none h)
  · exact congrArg Host.Outcome.next (ackReceive_none h)
  · exact congrArg Host.Outcome.next (mcBlockReceive_none h)
  · exact congrArg Host.Outcome.next (mcMarkerReceive_none h)
  · exact congrArg Host.Outcome.next (readDataReceive_unasked h hp)
  · exact congrArg Host.Outcome.next (ackReceive_unasked h hp)
  · rw [hu]
    exact congrArg Host.Outcome.next ((ackReceive_ends hp h).trans (if_pos h0))
  · rw [hu]
    exact congrArg Host.Outcome.next ((ackReceive_ends hp h).trans (if_neg h0))
  · rw [hu]
    exact congrArg Host.Outcome.next (readDataReceive_mismatch hp h hx)
  · rw [hu]
    exact congrArg Host.Outcome.next ((readDataReceive_hands hp h hx).trans (congrArg (pull · p.core) (if_neg hk)))
  · rw [hu]
    exact congrArg Host.Outcome.next ((readDataReceive_hands hp h hx).trans (congrArg (pull · p.core) (if_pos hk)))
  · exact congrArg Host.Outcome.next (ralsoTimeout_none h)
  · exact congrArg Host.Outcome.next (ralsoTimeout_unsent h he)
  · exact congrArg Host.Outcome.next ((ralsoTimeout_sent h he).trans (if_pos hearly))
  · exact congrArg Host.Outcome.next ((ralsoTimeout_sent h he).trans (if_neg (Nat.not_lt.mpr hlate)))
  · exact congrArg Host.Outcome.next (mcBlockReceive_headless h hg)
  · exact congrArg Host.Outcome.next (mcBlockReceive_hurdled h hg hh)
  · exact congrArg Host.Outcome.next ((mcBlockReceive_full h hg hh (headFull_iff.mpr hfull)).trans (if_neg (by simp [stalledOut_not hwait])))
  · exact congrArg Host.Outcome.next ((mcBlockReceive_full h hg hh (headFull_iff.mpr hfull)).trans (if_pos (stalledOut_iff.mpr ⟨t, ht, hlate⟩)))
  · subst hn hb
    exact congrArg Host.Outcome.next ((mcBlockReceive_takes h hg hh hroom hport).trans (headTakes_inOrder hd hseq))
  · subst hn hb
    exact congrArg Host.Outcome.next ((mcBlockReceive_takes h hg hh hroom hport).trans (headTakes_skips hd h0 hseq))
  · subst hn hb
    exact congrArg Host.Outcome.next ((mcBlockReceive_takes h hg hh hroom hport).trans ((headTakes_detached hd).trans (if_pos hr)))
  · subst hn hb
    exact congrArg Host.Outcome.next ((mcBlockReceive_takes h hg hh hroom hport).trans ((headTakes_detached hd).trans
      (if_neg (by simpa [arrivedBlock] using hr))))
  · exact congrArg Host.Outcome.next (mcMarkerReceive_headless h hg)
  · exact congrArg Host.Outcome.next (mcMarkerReceive_hurdled h hg hh)
  · subst hn
    exact congrArg Host.Outcome.next (mcMarkerReceive_within h hg hh hm hu hw)
  · subst hn
    exact congrArg Host.Outcome.next (mcMarkerReceive_beyond h hg hh hm hu hlt hd hpast hslot)
  · exact congrArg Host.Outcome.next ((mcastPrune_prunes h).trans (pruneBranch_again hpruned))
  · exact congrArg Host.Outcome.next (mcastPrune_idle h)

end Sys2Proof.Machine

/-! PROOFS. Bytes as words, and the elements of an ATOMIC (12_ralso_fabric.md R330; 05_accumulation.md R120). -/

namespace Sys2Proof.Machine

/-! ### Words as bytes -/

theorem leNat_leBytes (n v : Nat) : leNat (leBytes n v) = v % 256 ^ n := by
  induction n generalizing v with
  | zero => rw [Nat.pow_zero, Nat.mod_one]; rfl
  | succ n ih =>
    have hlow : (b8 v).toNat = v % 256 := BitVec.toNat_ofNat ..
    rw [leBytes, leNat, ih, hlow, Nat.pow_succ', Nat.mod_mul]

theorem leBytes_length (n v : Nat) : (leBytes n v).length = n := by
  induction n generalizing v with
  | zero => rfl
  | succ n ih => rw [leBytes, List.length_cons, ih]

theorem leWord_leBytes (w : Word) : leWord (leBytes 4 w.toNat) = w := by
  have hmod : w.toNat % 256 ^ 4 = w.toNat := Nat.mod_eq_of_lt w.isLt
  rw [leWord, leNat_leBytes, hmod, w32, BitVec.ofNat_toNat, BitVec.setWidth_eq]

theorem leWords_wordsBytes (ws : List Word) : leWords (wordsBytes ws) = ws := by
  induction ws with
  | nil => rfl
  | cons w ws ih =>
    have hcons : leWords (wordsBytes (w :: ws)) = leWord (leBytes 4 w.toNat) :: leWords (wordsBytes ws) := rfl
    rw [hcons, ih, leWord_leBytes]

/-! ### Bytes of memory as a list -/

theorem Memory.readN_congr {m m' : Memory} {a n : Nat} (h : ∀ i < n, m'.read (a + i) = m.read (a + i)) : m'.readN a n = m.readN a n := by
  refine List.ext_getElem (by rw [Memory.readN_length, Memory.readN_length]) fun i hi hi' => ?_
  rw [Memory.readN_getElem, Memory.readN_getElem]
  exact h i (by rwa [Memory.readN_length] at hi)

theorem Memory.readN_put_same (m : Memory) (a : Nat) (bs : List Byte) : (m.put a bs).readN a bs.length = bs := by
  refine List.ext_getElem (Memory.readN_length ..) fun i hi hi' => ?_
  rw [Memory.readN_getElem]
  exact Memory.read_put_inside m a bs i hi'

theorem Memory.readN_eq_map (m : Memory) (a n : Nat) : m.readN a n = (List.range n).map (fun i => m.read (a + i)) := by
  refine List.ext_getElem (by rw [Memory.readN_length, List.length_map, List.length_range]) fun i hi hi' => ?_
  rw [Memory.readN_getElem, List.getElem_map, List.getElem_range]

/-! ### The adds of an ATOMIC -/

/-- Bytes of an element of an ATOMIC, and bytes from one to the next in memory. -/
def atomSize (fmt : Nat) : Nat := if fmt = 0 then 12 else 4
def atomStride (fmt : Nat) : Nat := if fmt = 0 then 16 else 4

theorem atomSize_le_stride (fmt : Nat) : atomSize fmt ≤ atomStride fmt := by
  unfold atomSize atomStride
  split <;> decide

/-- The bytes that an element's place holds after its add, from those it held and those added. -/
def atomSum (fmt : Nat) (old x : List Byte) : List Byte :=
  if fmt = 0 then wordsBytes ({ W64.add ((w64List (leWords old)).headD W64.zero) ((w64List (leWords x)).headD W64.zero) with
    arrival := true }).words
  else if fmt = 1 then leBytes 4 (fAdd (leWord old) (leWord x)).toNat
  else leBytes 4 (leWord old + leWord x).toNat

theorem atomSum_length (fmt : Nat) (old x : List Byte) : (atomSum fmt old x).length = atomSize fmt := by
  unfold atomSum atomSize
  split
  · rw [wordsBytes_length, W64.words_length]
  · split <;> exact leBytes_length ..

theorem atomicGo_succ (fmt : Nat) (m : Memory) (a : Nat) (bs : List Byte) (n : Nat) : atomicGo fmt m a bs (n + 1)
    = atomicGo fmt (m.put a (atomSum fmt (m.readN a (atomSize fmt)) (bs.take (atomSize fmt)))) (a + atomStride fmt)
        (bs.drop (atomSize fmt)) n := by
  unfold atomSum atomSize atomStride
  rw [atomicGo]
  by_cases h : fmt = 0
  · simp only [if_pos h, Memory.words]
  · simp only [if_neg h, Memory.word]

/-- The adds change no byte outside the elements' places. -/
theorem atomicGo_read_outside (fmt : Nat) (m : Memory) (a : Nat) (bs : List Byte) (n : Nat) {b : Nat}
    (h : b < a ∨ a + n * atomStride fmt ≤ b) : (atomicGo fmt m a bs n).read b = m.read b := by
  induction n generalizing m a bs with
  | zero => rfl
  | succ n ih =>
    have hsize := atomSize_le_stride fmt
    have hlen := atomSum_length fmt (m.readN a (atomSize fmt)) (bs.take (atomSize fmt))
    rw [Nat.succ_mul] at h
    rw [atomicGo_succ, ih _ _ _ (by omega)]
    exact Memory.read_put_outside _ _ _ (by omega)

/-- Each element's place holds the sum of what it held and the element. -/
theorem atomicGo_element (fmt : Nat) (m : Memory) (a : Nat) (bs : List Byte) {n i : Nat} (h : i < n) :
    (atomicGo fmt m a bs n).readN (a + atomStride fmt * i) (atomSize fmt)
      = atomSum fmt (m.readN (a + atomStride fmt * i) (atomSize fmt)) ((bs.drop (atomSize fmt * i)).take (atomSize fmt)) := by
  induction n generalizing m a bs i with
  | zero => exact absurd h (Nat.not_lt_zero i)
  | succ n ih =>
    have hsize := atomSize_le_stride fmt
    have hlen := atomSum_length fmt (m.readN a (atomSize fmt)) (bs.take (atomSize fmt))
    rw [atomicGo_succ]
    cases i with
    | zero =>
      rw [Nat.mul_zero, Nat.mul_zero, Nat.add_zero, List.drop_zero]
      rw [Memory.readN_congr fun k hk => atomicGo_read_outside fmt _ _ _ n (.inl (by omega))]
      exact (congrArg (Memory.readN _ a) hlen.symm).trans (Memory.readN_put_same ..)
    | succ i =>
      have hplace : a + atomStride fmt * (i + 1) = a + atomStride fmt + atomStride fmt * i := by ring
      have hdrop : (bs.drop (atomSize fmt)).drop (atomSize fmt * i) = bs.drop (atomSize fmt * (i + 1)) := by
        rw [List.drop_drop]
        congr 1
        ring
      rw [hplace, ih _ _ _ (Nat.lt_of_succ_lt_succ h), hdrop]
      rw [Memory.readN_congr fun k hk => Memory.read_put_outside m a _ (.inr (by omega))]

section
variable {m : Memory} {a : Nat} {bs : List Byte} {n i : Nat} (h : i < n)
include h

theorem atomicGo_w64 : (atomicGo 0 m a bs n).words (a + 16 * i) 3
    = ({ W64.add ((w64List (m.words (a + 16 * i) 3)).headD W64.zero)
        ((w64List (leWords ((bs.drop (12 * i)).take 12))).headD W64.zero) with arrival := true }).words :=
  (congrArg leWords (atomicGo_element 0 m a bs h)).trans (leWords_wordsBytes _)

theorem atomicGo_fp32 : (atomicGo 1 m a bs n).word (a + 4 * i) = fAdd (m.word (a + 4 * i)) (leWord ((bs.drop (4 * i)).take 4)) :=
  (congrArg leWord (atomicGo_element 1 m a bs h)).trans (leWord_leBytes _)

theorem atomicGo_int32 {fmt : Nat} (hf : 2 ≤ fmt) :
    (atomicGo fmt m a bs n).word (a + 4 * i) = m.word (a + 4 * i) + leWord ((bs.drop (4 * i)).take 4) := by
  have hsum := atomicGo_element fmt m a bs h
  have hsize : atomSize fmt = 4 := if_neg (by omega)
  have hstride : atomStride fmt = 4 := if_neg (by omega)
  rw [hsize, hstride, atomSum, if_neg (by omega), if_neg (by omega)] at hsum
  exact (congrArg leWord hsum).trans (leWord_leBytes _)

end

end Sys2Proof.Machine

/-! PROOFS. Remote requests and doorbells as they are served (12_ralso_fabric.md R328 to R332; 09_drover_graphs.md R230). -/

namespace Sys2Proof.Machine

/-! ### The request served next, and its entry -/

section
variable {s : State} {o : OutPkt} {t : Nat} {go : State → OutPkt → State}

theorem withNext_none (h : nextReq s t = none) : withNext s t go = s := by
  unfold withNext
  rw [h]

theorem withNext_some (h : nextReq s t = some o) : withNext s t go = go s o := by
  unfold withNext
  rw [h]

theorem nextReq_ptype (h : nextReq s t = some o) : o.pkt.ptype = t :=
  beq_iff_eq.mp (List.mem_filter.mp (firstCome_mem h)).2

theorem nextReq_store (h : nextReq s t = some o) (ht : t ≠ tRead) : o.pkt.ptype ≠ tRead := by rwa [nextReq_ptype h]

theorem exec_writeReceive (s : State) : exec .writeReceive s = .next (withNext s tWrite writeReceive) := rfl
theorem exec_readReceive (s : State) : exec .readReceive s = .next (withNext s tRead readReceive) := rfl
theorem exec_atomicReceive (s : State) : exec .atomicReceive s = .next (withNext s tAtomic atomicReceive) := rfl

variable {b : Nat} {act : State → Nat → Nat → State}

/-- A request that does not go on waits, is answered, or wakes a domain. -/
theorem withEntry_stops {u : State} {e : Entry} (h : requestEntry s o b = e) (hwait : e = .wait → u = s)
    (hanswer : ∀ c, e = .answer c → u = ackWith s o c) (hwake : ∀ d, e = .wake d → u = startWake s d) (hgo : e ≠ .go) :
    withEntry s o b act = u := by
  unfold withEntry
  rw [h]
  cases e with
  | answer c => exact (hanswer c rfl).symm
  | wake d => exact (hwake d rfl).symm
  | wait => exact (hwait rfl).symm
  | go => exact absurd rfl hgo

theorem withEntry_goes {a n : Nat} (h : requestEntry s o b = .go) (hpart : (a, n) = blockPart o.pkt.addr (reqLen o.pkt) o.done) :
    withEntry s o b act = act (takeSlot s a (slotsFor (o.pkt.ptype != tRead) n)) a n := by
  unfold withEntry
  rw [h]
  dsimp only
  rw [← hpart]

theorem requestEntry_unplaced (h : rangeOk o.pkt.addr (reqLen o.pkt) false = false) : requestEntry s o b = .answer 2 :=
  if_pos (by simp [h])

theorem requestEntry_denied (hn : reqLen o.pkt ≠ 0) (hr : rangeOk o.pkt.addr (reqLen o.pkt) false = true) (hd : o.done = 0)
    (ha : admitsRange s o.pkt.src b o.pkt.addr (reqLen o.pkt) = false) : requestEntry s o b = .answer 1 :=
  (if_neg (by simp [hn, hr])).trans (if_pos ⟨hd, by simp [ha]⟩)

theorem slotsFor_store (h : o.pkt.ptype ≠ tRead) (n : Nat) : slotsFor (o.pkt.ptype != tRead) n = if n = 512 then 1 else 2 := by
  unfold slotsFor
  by_cases hn : n = 512 <;> simp [h, hn]

theorem slotsFor_read (h : o.pkt.ptype = tRead) (n : Nat) : slotsFor (o.pkt.ptype != tRead) n = 1 := by
  unfold slotsFor
  simp [h]

theorem takeSlot_mem (s : State) (a n : Nat) : (takeSlot s a n).mem = s.mem := (takeSlot_keeps s a n).only.2 .mem (by decide)

theorem ackWith_mem (s : State) (o : OutPkt) (c : Nat) : (ackWith s o c).mem = s.mem :=
  (ackWith_keeps s o c).only.2 .mem (by decide)

end

/-! ### WRITE (R328) -/

section
variable {s : State} {o : OutPkt} {a n : Nat} (h : nextReq s tWrite = some o) (hgo : requestEntry s o 30 = .go)
  (hpart : (a, n) = blockPart o.pkt.addr (reqLen o.pkt) o.done)
include h hgo hpart

theorem writeReceive_goes : withNext s tWrite writeReceive
    = if !lastBlock o then oneDone (takeSlot s a (if n = 512 then 1 else 2)) o o.pkt else
      if writeStatus s.mem o.pkt.addr o.pkt.data o.pkt.checks = 0 then
        ackWith ((takeSlot s a (if n = 512 then 1 else 2)).mapMem (fun m => m.put o.pkt.addr o.pkt.data)) o 0
      else ackWith (takeSlot s a (if n = 512 then 1 else 2)) o (writeStatus s.mem o.pkt.addr o.pkt.data o.pkt.checks) := by
  rw [withNext_some h, writeReceive, withEntry_goes hgo hpart, slotsFor_store (nextReq_store h (by decide)), takeSlot_mem]
  cases writeStatus s.mem o.pkt.addr o.pkt.data o.pkt.checks with
  | zero => rfl
  | succ c => rfl

theorem writeReceive_more (hl : lastBlock o = false) :
    withNext s tWrite writeReceive = oneDone (takeSlot s a (if n = 512 then 1 else 2)) o o.pkt :=
  (writeReceive_goes h hgo hpart).trans (if_pos (by simp [hl]))

theorem writeReceive_fails {c : Nat} (hl : lastBlock o = true)
    (hc : writeStatus s.mem o.pkt.addr o.pkt.data o.pkt.checks = c + 1) :
    withNext s tWrite writeReceive = ackWith (takeSlot s a (if n = 512 then 1 else 2)) o (c + 1) := by
  rw [writeReceive_goes h hgo hpart, if_neg (by simp [hl]), hc, if_neg (Nat.succ_ne_zero c)]

theorem writeReceive_stores (hl : lastBlock o = true) (hc : writeStatus s.mem o.pkt.addr o.pkt.data o.pkt.checks = 0) :
    withNext s tWrite writeReceive
      = ackWith ((takeSlot s a (if n = 512 then 1 else 2)).mapMem (fun m => m.put o.pkt.addr o.pkt.data)) o 0 := by
  rw [writeReceive_goes h hgo hpart, if_neg (by simp [hl]), if_pos hc]

end

/-! ### READ (R329) -/

/-- A READ's packet as its next block joins it. -/
def readOn (m : Memory) (o : OutPkt) (a n : Nat) : Packet :=
  { o.pkt with data := o.pkt.data ++ m.readN a n, checks := o.pkt.checks ++ [if n = 512 then m.check (a / 512) else 0] }

section
variable {s : State} {o : OutPkt} {a n : Nat} (h : nextReq s tRead = some o) (hgo : requestEntry s o 29 = .go)
  (hpart : (a, n) = blockPart o.pkt.addr (reqLen o.pkt) o.done)
include h hgo hpart

theorem readReceive_poisoned {w : Nat} (hv : s.mem.verify (a / 512) = .poisoned w) :
    withNext s tRead readReceive = ackWith (takeSlot s a 1) o 4 := by
  rw [withNext_some h, readReceive, withEntry_goes hgo hpart, slotsFor_read (nextReq_ptype h)]
  dsimp only
  rw [takeSlot_mem, hv]

theorem readReceive_mismatch {x : Word} (hv : s.mem.verify (a / 512) = .mismatch x) :
    withNext s tRead readReceive = ackWith (takeSlot s a 1) o 3 := by
  rw [withNext_some h, readReceive, withEntry_goes hgo hpart, slotsFor_read (nextReq_ptype h)]
  dsimp only
  rw [takeSlot_mem, hv]

theorem readReceive_good (hv : s.mem.verify (a / 512) = .good) : withNext s tRead readReceive
    = if lastBlock o then respond (dropLocal (takeSlot s a 1) o) (readData (takeSlot s a 1) o (readOn s.mem o a n))
      else oneDone (takeSlot s a 1) o (readOn s.mem o a n) := by
  rw [withNext_some h, readReceive, withEntry_goes hgo hpart, slotsFor_read (nextReq_ptype h)]
  dsimp only
  rw [takeSlot_mem, hv]
  rfl

end

/-! ### ATOMIC (R330) -/

section
variable {s : State} {o : OutPkt} {a m : Nat}

theorem reqLen_atomic (h : o.pkt.ptype = tAtomic) :
    reqLen o.pkt = o.pkt.data.length / (if o.pkt.opx = 0 then 12 else 4) * (if o.pkt.opx = 0 then 16 else 4) := by
  refine (if_neg (by rw [h]; decide)).trans ((if_pos h).trans ?_)
  split <;> rfl

variable (h : nextReq s tAtomic = some o) (hgo : requestEntry s o 28 = .go) (hpart : (a, m) = blockPart o.pkt.addr (reqLen o.pkt) o.done)
include h hgo hpart

theorem atomicReceive_more (hl : lastBlock o = false) :
    withNext s tAtomic atomicReceive = oneDone (takeSlot s a (if m = 512 then 1 else 2)) o o.pkt := by
  rw [withNext_some h, atomicReceive, withEntry_goes hgo hpart, slotsFor_store (nextReq_store h (by decide))]
  exact if_pos (by simp [hl])

theorem atomicReceive_unaligned (hl : lastBlock o = true) (ha : o.pkt.addr % (if o.pkt.opx = 0 then 16 else 4) ≠ 0) :
    withNext s tAtomic atomicReceive = ackWith (takeSlot s a (if m = 512 then 1 else 2)) o 8 := by
  rw [withNext_some h, atomicReceive, withEntry_goes hgo hpart, slotsFor_store (nextReq_store h (by decide))]
  exact (if_neg (by simp [hl])).trans (if_pos ha)

variable (hl : lastBlock o = true) (ha : o.pkt.addr % (if o.pkt.opx = 0 then 16 else 4) = 0)
include hl ha

theorem atomicReceive_poisoned {w : Nat} (hv : (s.mem.verifyRange o.pkt.addr (reqLen o.pkt)).1 = .poisoned w) :
    withNext s tAtomic atomicReceive = ackWith (takeSlot s a (if m = 512 then 1 else 2)) o 4 := by
  rw [withNext_some h, atomicReceive, withEntry_goes hgo hpart, slotsFor_store (nextReq_store h (by decide))]
  dsimp only
  rw [if_neg (by simp [hl]), if_neg (not_not_intro ha), takeSlot_mem, hv]

theorem atomicReceive_adds (hv : (s.mem.verifyRange o.pkt.addr (reqLen o.pkt)).1 = .good) : withNext s tAtomic atomicReceive
    = ackWith ((takeSlot s a (if m = 512 then 1 else 2)).mapMem (fun x => atomicGo o.pkt.opx x o.pkt.addr o.pkt.data
        (o.pkt.data.length / (if o.pkt.opx = 0 then 12 else 4)))) o 0 := by
  rw [withNext_some h, atomicReceive, withEntry_goes hgo hpart, slotsFor_store (nextReq_store h (by decide))]
  dsimp only
  rw [if_neg (by simp [hl]), if_neg (not_not_intro ha), takeSlot_mem, hv]

end

/-! ### Doorbells (R331) -/

section
variable {s : State} {o : OutPkt}

theorem doorbellReceive_none (h : nextBell s = none) : doorbellReceive s = s := by
  unfold doorbellReceive
  rw [h]

theorem doorbellReceive_some (h : nextBell s = some o) : doorbellReceive s
    = if !admitsBell s o.pkt.src o.pkt.opx then ackWith s o 1
      else if s.hurdled .module then ackWith s o 5
      else (dropLocal s o).mapFabric (fun f => { f with bells := f.bells ++ [(o.pkt.src, o.pkt.rtag, o.pkt.opx)] }) := by
  unfold doorbellReceive
  rw [h]

theorem doorbellHandover_none (h : s.fabric.bells = []) : doorbellHandover s = s := by
  unfold doorbellHandover
  rw [h]

variable {src rtag : BitVec 16} {n : Nat} {rest : List (BitVec 16 × BitVec 16 × Nat)} (h : s.fabric.bells = (src, rtag, n) :: rest)
include h

theorem doorbellHandover_asleep (hr : netRuns s = false) : doorbellHandover s = startWake s 26 := by
  unfold doorbellHandover
  rw [h]
  exact if_pos (by simp [hr])

variable {u : State} (hu : u = s.mapFabric (fun f => { f with bells := rest })) (hr : netRuns s = true)
include hu hr

theorem doorbellHandover_refused (hx : ∀ x, Tbl.get s.drover.templates n = some x → (s.queue x.queue).enable = false) :
    doorbellHandover s = respond (u.bump slotDrvr 0x070 1) (ackOf u { Packet.zero with src := src, rtag := rtag } 6) := by
  subst hu
  unfold doorbellHandover
  rw [h]
  refine (if_neg (by simp [hr])).trans ?_
  dsimp only
  split
  next x hget => exact if_neg (by simp [hx x hget])
  · rfl

theorem doorbellHandover_submits {x : Template} (hget : Tbl.get s.drover.templates n = some x) (he : (s.queue x.queue).enable = true) :
    doorbellHandover s = respond (u.mapDrover (fun d => { d with cmds := d.cmds ++ [tmplCmd s x] }))
      (ackOf u { Packet.zero with src := src, rtag := rtag } 0) := by
  subst hu
  unfold doorbellHandover
  rw [h]
  refine (if_neg (by simp [hr])).trans ?_
  dsimp only
  rw [hget]
  exact if_pos he

end

/-- Settles O45: a request by its entry and then by what its blocks verify to; a doorbell by its window and its template. -/
theorem requestsAreServed : Obligations.RequestsAreServed := by
  refine ⟨fun s => ⟨fun h => ?_, fun h => ?_, fun h => ?_, fun h => ?_⟩,
    fun s u o e hwait hanswer hwake hgo => ⟨fun h he => ?_, fun h he => ?_, fun h he => ?_⟩,
    fun s o b => ⟨requestEntry_unplaced, requestEntry_denied⟩,
    fun s u o a n h hgo hpart hu => ⟨fun hl => ?_, fun c hl hc => ?_, fun hl hc => ?write⟩,
    fun s u o a n h hgo hpart htype hu => ⟨fun w hv => ?_, fun x hv => ?_, fun hv hl => ?_, fun hv hl => ?read⟩,
    fun s u o a m size stride n h hsize hstride hn htype hgo hpart hu => ?atomic,
    fun s o h => ⟨fun ha => ?_, fun ha hm => ?_, fun ha hm => ?_⟩, fun s h => ?_,
    fun s u src rtag n rest k h hu hk => ⟨fun hr => ?_, fun hr hx => ?_, fun x hr hget he => ?_⟩⟩
  case write =>
    subst hu
    have hmem : ((takeSlot s a (if n = 512 then 1 else 2)).mapMem (fun m => m.put o.pkt.addr o.pkt.data)).mem
        = s.mem.put o.pkt.addr o.pkt.data := congrArg (Memory.put · _ _) (takeSlot_mem ..)
    refine ⟨_, by rw [exec_writeReceive, writeReceive_stores h hgo hpart hl hc],
      (State.mapMem_keeps _ _ fun _ hm => Memory.put_wf _ _ _ hm).only, ackWith_mem .., fun i hi => ?_, fun b hb => ?_⟩
    · rw [hmem, Memory.read_put_inside _ _ _ i hi, List.getD_eq_getElem _ _ hi]
    · rw [hmem, Memory.read_put_outside _ _ _ hb]
  case read =>
    subst hu
    refine ⟨readData (takeSlot s a 1) o (readOn s.mem o a n), by rw [exec_readReceive, readReceive_good h hgo hpart hv, if_pos hl], rfl, rfl, rfl, rfl, rfl, ?_, ?_⟩
    · exact congrArg (o.pkt.data ++ ·) (Memory.readN_eq_map ..)
    · exact ((respond_keeps ..).only.2 .mem (by decide)).trans (((dropLocal_keeps ..).only.2 .mem (by decide)).trans (takeSlot_mem ..))
  case atomic =>
    have hlen : n * stride = reqLen o.pkt := by rw [reqLen_atomic htype, hn, hsize, hstride]
    rw [hlen] at hpart
    refine ⟨fun hl => ?_, fun hl ha => ?_, fun w hl ha hv => ?_, fun hl ha hv => ?_⟩
    · rw [exec_atomicReceive, atomicReceive_more h hgo hpart hl, hu]
      rfl
    · rw [hstride] at ha
      rw [exec_atomicReceive, atomicReceive_unaligned h hgo hpart hl ha, hu]
    · rw [hstride] at ha
      rw [hlen] at hv
      rw [exec_atomicReceive, atomicReceive_poisoned h hgo hpart hl ha hv, hu]
    · rw [hlen] at hv
      have hadds := atomicReceive_adds h hgo hpart hl (by rwa [hstride] at ha) hv
      rw [← hsize, ← hn, ← hu] at hadds
      have hmem : (u.mapMem (fun x => atomicGo o.pkt.opx x o.pkt.addr o.pkt.data n)).mem
          = atomicGo o.pkt.opx s.mem o.pkt.addr o.pkt.data n := by
        rw [hu]
        exact congrArg (atomicGo o.pkt.opx · o.pkt.addr o.pkt.data n) (takeSlot_mem ..)
      refine ⟨_, by rw [exec_atomicReceive, hadds], (State.mapMem_keeps _ _ fun _ hm => atomicGo_wf _ _ _ _ _ hm).only,
        ackWith_mem .., fun b hb => ?_, fun i hi => ⟨fun hf => ?_, fun hf => ?_, fun hf => ?_⟩⟩
      · rw [hmem]
        exact atomicGo_read_outside _ _ _ _ _ (by rw [atomStride, ← hstride]; exact hb)
      · rw [hmem, hf, atomicGo_w64 hi]
      · rw [hmem, hf, atomicGo_fp32 hi]
      · rw [hmem, atomicGo_int32 hi hf]
  · rw [exec_writeReceive, withNext_none h]
  · rw [exec_readReceive, withNext_none h]
  · rw [exec_atomicReceive, withNext_none h]
  · exact congrArg Host.Outcome.next (doorbellReceive_none h)
  · rw [exec_writeReceive, withNext_some h, writeReceive, withEntry_stops he hwait hanswer hwake hgo]
  · rw [exec_readReceive, withNext_some h, readReceive, withEntry_stops he hwait hanswer hwake hgo]
  · rw [exec_atomicReceive, withNext_some h, atomicReceive, withEntry_stops he hwait hanswer hwake hgo]
  · rw [exec_writeReceive, writeReceive_more h hgo hpart hl, hu]
    rfl
  · rw [exec_writeReceive, writeReceive_fails h hgo hpart hl hc, hu]
  · rw [exec_readReceive, readReceive_poisoned h hgo hpart hv, hu]
  · rw [exec_readReceive, readReceive_mismatch h hgo hpart hv, hu]
  · subst hu
    refine ⟨readOn s.mem o a n, ?_, congrArg (o.pkt.data ++ ·) (Memory.readN_eq_map ..), rfl, rfl⟩
    rw [exec_readReceive, readReceive_good h hgo hpart hv, if_neg (by simp [hl])]
    rfl
  · exact congrArg Host.Outcome.next ((doorbellReceive_some h).trans (if_pos (by simp [ha])))
  · exact congrArg Host.Outcome.next ((doorbellReceive_some h).trans ((if_neg (by simp [ha])).trans (if_pos hm)))
  · exact congrArg Host.Outcome.next ((doorbellReceive_some h).trans ((if_neg (by simp [ha])).trans (if_neg (by simp [hm]))))
  · exact congrArg Host.Outcome.next (doorbellHandover_none h)
  · exact congrArg Host.Outcome.next (doorbellHandover_asleep h hr)
  · subst hk
    exact congrArg Host.Outcome.next (doorbellHandover_refused h hu hr hx)
  · subst hk
    exact congrArg Host.Outcome.next (doorbellHandover_submits h hu hr hget he)

end Sys2Proof.Machine
